-- ==== Sys2Proof/Word.lean ====
section
/-! DEFINITION. The word types of the machine. -/
namespace Sys2Proof

/-- A 64-bit scalar value (R236). -/
abbrev Word := BitVec 64

/-- The smallest addressable unit of memory. -/
abbrev Byte := BitVec 8

/-- A register number of a head or tail field (R19). -/
abbrev Reg := BitVec 5

/-- A mask register number, k0 to k3 (R239). -/
abbrev MaskReg := BitVec 2

/-- An instruction line of 64 bytes; byte i is bits [8i+7:8i] (R13). -/
abbrev Line := BitVec 512

end Sys2Proof
end

