-- ==== Sys2Proof/Syntax.lean ====
section
/-! DEFINITION. The instruction set as syntax: operand layouts and one constructor for each row of the opcode table. -/
namespace Sys2Proof

/-- Element types by type code 0 to 20 (R55). -/
inductive Ty where
  | i8 | n8 | i16 | n16 | i32 | n32 | i64 | n64
  | fp32 | bf16 | fp16 | e4m3 | e5m2 | e3m2 | e2m3 | e2m1
  | q4n | i4 | b24 | a36 | desc
  deriving DecidableEq, Repr

/-- A rounding field: FRM, or a mode of its own (R20, R21). -/
inductive Rm where
  | frm | rne | rtz | rdn
  deriving DecidableEq, Repr

/-- Scopes 0 to 4 (R307, R21). -/
inductive Scope where
  | core | cluster | die | device | system
  deriving DecidableEq, Repr

/-- The operations of XRED (R21). -/
inductive XredOp where
  | sum | max | min
  deriving DecidableEq, Repr

/-- The CSRs by name (R241). -/
inductive Csr where
  | flags | frm | vshape | nr | nc | vstart | vqstat | ffnr | scx | verstat | mgrant | kvroot
  | cpwp0 | cpwp1 | cpwp2 | cpwp3 | taskrec | launch | budget | paduse | dtime | cycle
  | cause | eia | eva | ekv | eaux | tvec | sstat | asid | ptroot
  deriving DecidableEq, Repr

/-- What an agent outside the cores does to memory: a host CXL.mem access, or a remote device's (R319). -/
inductive BusOp where
  /-- a read of n bytes -/
  | load (n : Nat)
  /-- a write of the bytes -/
  | store (bytes : List Byte)
  /-- an atomic operation: the number F of R321, the width in bytes, operand and expected value -/
  | amo (f : Nat) (n : Nat) (b : Word) (c : Word)
  deriving DecidableEq, Repr

/-- An access of an outside agent: who sent it, the device address, and what it does (R319, R385 to R389). -/
structure BusAccess where
  agent : Nat
  addr : Nat
  op : BusOp
  /-- the access releases (SYSTEM) before it -/
  rel : Bool
  /-- the access acquires (SYSTEM) after it -/
  acq : Bool
  deriving DecidableEq, Repr

/-- What the host supplies during bring-up (R392 step 6): C, G, SBASE and the device number. -/
structure BringUp where
  c : Nat
  g : Nat
  sbase : Nat
  device : Nat
  deriving DecidableEq, Repr

/-- A collective group as the host registers it (R391): the member list by device, this device's rank and the round
timeout in microseconds. -/
structure CollGroup where
  id : Nat
  members : List Nat
  rank : Nat
  timeoutUs : Nat
  deriving DecidableEq, Repr

/-- A firmware image offered through the management mailbox, with whether its signature verifies (R394). -/
structure FirmwareImage where
  image : Nat
  verifies : Bool
  deriving DecidableEq, Repr

/-- A seal key offered for a key id, with whether it comes inside an SPDM secured session (R395). -/
structure SealKey where
  id : Nat
  session : Bool
  deriving DecidableEq, Repr

/-- Life-cycle states (R396). -/
inductive LifeCycle where
  | blank | provisioned | deployed | returned
  deriving DecidableEq, Repr

/-- A request for a life-cycle transition (R396). -/
structure LifeCycleReq where
  target : LifeCycle
  signed : Bool
  deriving DecidableEq, Repr

/-- The power in watts that the parts of R10 would draw at the full clock, averaged over a window of 1 ms (R397). -/
structure PowerLoad where
  dies : Vector Nat 4
  io : Nat
  hbm : Vector Nat 8
  losses : Nat
  deriving DecidableEq, Repr

/-- An error in the HBM4E data of a line (R183, R184). -/
structure DramErr where
  addr : Nat
  uncorrectable : Bool
  deriving DecidableEq, Repr

/-- What an attestation request asks for (R395). -/
inductive AttestReq where
  | identity
  | measurements
  deriving DecidableEq, Repr


/-- Operands: registers D, A, B. -/
structure R3T2 where
  d : Reg
  a : Reg
  b : Reg
  deriving DecidableEq, Repr

/-- Operands: registers D, A. -/
structure R2T2 where
  d : Reg
  a : Reg
  deriving DecidableEq, Repr

/-- Operands: register A. -/
structure R1T2 where
  a : Reg
  deriving DecidableEq, Repr

/-- Operands: registers A, B. -/
structure RabT2 where
  a : Reg
  b : Reg
  deriving DecidableEq, Repr

/-- Operands: registers D, A, B and the width of K (R20). -/
structure AluF where
  d : Reg
  a : Reg
  b : Reg
  w32 : Bool
  deriving DecidableEq, Repr

/-- Operands: registers D, A and the width of K (R20). -/
structure AluUF where
  d : Reg
  a : Reg
  w32 : Bool
  deriving DecidableEq, Repr

/-- Operands: registers D, A, the width of K and the OFS immediate. -/
structure AluIF where
  d : Reg
  a : Reg
  w32 : Bool
  imm : BitVec 16
  deriving DecidableEq, Repr

/-- Operands: registers D, A, the width of K and the shift field of R21. -/
structure AluSF where
  d : Reg
  a : Reg
  w32 : Bool
  sh : BitVec 6
  deriving DecidableEq, Repr

/-- Operands: register D and the 48-bit immediate. -/
structure LiF where
  d : Reg
  imm : BitVec 48
  deriving DecidableEq, Repr

/-- Operands: register D and I48[15:0]. -/
structure LihF where
  d : Reg
  imm : BitVec 16
  deriving DecidableEq, Repr

/-- Operands: registers D, A, B and the rounding of K. -/
structure FpuF where
  d : Reg
  a : Reg
  b : Reg
  rm : Rm
  deriving DecidableEq, Repr

/-- Operands: registers D, A and the rounding of K. -/
structure FpuUF where
  d : Reg
  a : Reg
  rm : Rm
  deriving DecidableEq, Repr

/-- Operands: registers D, A, B, C and the rounding of K. -/
structure FmaF where
  d : Reg
  a : Reg
  b : Reg
  c : Reg
  rm : Rm
  deriving DecidableEq, Repr

/-- Operands: registers A, B, the line delta and the slot (BRO). -/
structure BrF where
  a : Reg
  b : Reg
  delta : BitVec 11
  slot : BitVec 5
  deriving DecidableEq, Repr

/-- Operands: register D, the line delta and the slot (JO). -/
structure JalF where
  d : Reg
  delta : BitVec 43
  slot : BitVec 5
  deriving DecidableEq, Repr

/-- Operands: register D, base register A and the byte offset (OFS). -/
structure MemF where
  d : Reg
  a : Reg
  off : BitVec 16
  deriving DecidableEq, Repr

/-- Operands: base register A and the byte offset (OFS). -/
structure CacheF where
  a : Reg
  off : BitVec 16
  deriving DecidableEq, Repr

/-- Operands: registers D, A, B, the ordering of K, the width and the scope (AMO). -/
structure AmoF where
  d : Reg
  a : Reg
  b : Reg
  acq : Bool
  rel : Bool
  dw : Bool
  scope : Scope
  deriving DecidableEq, Repr

/-- Operands: registers D, A, B, the expected value C, ordering, width and scope (AMO). -/
structure AmoCasF where
  d : Reg
  a : Reg
  b : Reg
  c : Reg
  acq : Bool
  rel : Bool
  dw : Bool
  scope : Scope
  deriving DecidableEq, Repr

/-- Operands: register D, address register A and the scope (SC). -/
structure OrdF where
  d : Reg
  a : Reg
  scope : Scope
  deriving DecidableEq, Repr

/-- Operands: the ordering of K and the scope in A (R314). -/
structure FenceF where
  acq : Bool
  rel : Bool
  scope : Scope
  deriving DecidableEq, Repr

/-- Operands: registers D, A, B and the timeout (TMO). -/
structure WaitF where
  d : Reg
  a : Reg
  b : Reg
  tmo : BitVec 16
  deriving DecidableEq, Repr

/-- Operands: register D and the CSR. -/
structure CsrRF where
  d : Reg
  csr : Csr
  deriving DecidableEq, Repr

/-- Operands: registers D, A and the CSR. -/
structure CsrF where
  d : Reg
  a : Reg
  csr : Csr
  deriving DecidableEq, Repr

/-- Operands: the software code. -/
structure CodeF where
  code : BitVec 16
  deriving DecidableEq, Repr

/-- Operands: registers D, A, B. -/
structure R3T4 where
  d : Reg
  a : Reg
  b : Reg
  deriving DecidableEq, Repr

/-- Operands: registers D, A. -/
structure R2T4 where
  d : Reg
  a : Reg
  deriving DecidableEq, Repr

/-- Operands: registers A, B. -/
structure RabT4 where
  a : Reg
  b : Reg
  deriving DecidableEq, Repr

/-- Operands: register D. -/
structure R1T4 where
  d : Reg
  deriving DecidableEq, Repr

/-- Operands: registers D, A, B and the type (LEN). -/
structure LenF where
  d : Reg
  a : Reg
  b : Reg
  ty : Ty
  deriving DecidableEq, Repr

/-- Operands: the shape (SHP). -/
structure ShpF where
  wide : Bool
  deriving DecidableEq, Repr

/-- Operands: mask registers D, A, B. -/
structure K3F where
  d : MaskReg
  a : MaskReg
  b : MaskReg
  deriving DecidableEq, Repr

/-- Operands: mask registers D, A. -/
structure K2F where
  d : MaskReg
  a : MaskReg
  deriving DecidableEq, Repr

/-- Operands: scalar register D and mask register A. -/
structure KxF where
  d : Reg
  a : MaskReg
  deriving DecidableEq, Repr

/-- Operands: mask register D and scalar register A. -/
structure KsetF where
  d : MaskReg
  a : Reg
  deriving DecidableEq, Repr

/-- Operands: destination D, sources A and B, mask, type and SAT (VA). -/
structure VBinF where
  d : Reg
  a : Reg
  b : Reg
  k : MaskReg
  ty : Ty
  sat : Bool
  deriving DecidableEq, Repr

/-- Operands: destination D, source A, mask, type and SAT (VA). -/
structure VUnF where
  d : Reg
  a : Reg
  k : MaskReg
  ty : Ty
  sat : Bool
  deriving DecidableEq, Repr

/-- Operands: mask destination D, sources A and B, mask, type and SAT (VA). -/
structure VCmpF where
  d : MaskReg
  a : Reg
  b : Reg
  k : MaskReg
  ty : Ty
  sat : Bool
  deriving DecidableEq, Repr

/-- Operands: destination D, mask, type and SAT (VA). -/
structure VIotaF where
  d : Reg
  k : MaskReg
  ty : Ty
  sat : Bool
  deriving DecidableEq, Repr

/-- Operands: destination D, scalar base B, mask, type and SAT (VA). -/
structure VIotaXF where
  d : Reg
  b : Reg
  k : MaskReg
  ty : Ty
  sat : Bool
  deriving DecidableEq, Repr

/-- Operands: destination D, sources A and B, mask, type, RM and SAT (VA). -/
structure VFpF where
  d : Reg
  a : Reg
  b : Reg
  k : MaskReg
  ty : Ty
  rm : Rm
  sat : Bool
  deriving DecidableEq, Repr

/-- Operands: destination D, source A, mask, type, RM and SAT (VA). -/
structure VFpUF where
  d : Reg
  a : Reg
  k : MaskReg
  ty : Ty
  rm : Rm
  sat : Bool
  deriving DecidableEq, Repr

/-- Operands: mask destination D, sources A and B, mask, type, RM and SAT (VA). -/
structure VFCmpF where
  d : MaskReg
  a : Reg
  b : Reg
  k : MaskReg
  ty : Ty
  rm : Rm
  sat : Bool
  deriving DecidableEq, Repr

/-- Operands: destination D, sources A, B and C, mask, type, RM and SAT (VA). -/
structure VFmaF where
  d : Reg
  a : Reg
  b : Reg
  c : Reg
  k : MaskReg
  ty : Ty
  rm : Rm
  sat : Bool
  deriving DecidableEq, Repr

/-- Operands: destination D, source A, mask, type and RM (VA). -/
structure QpackF where
  d : Reg
  a : Reg
  k : MaskReg
  ty : Ty
  rm : Rm
  deriving DecidableEq, Repr

/-- Operands: destination D, source A, mask and type (VA). -/
structure VTyF where
  d : Reg
  a : Reg
  k : MaskReg
  ty : Ty
  deriving DecidableEq, Repr

/-- Operands: destination D, source A, mask, type and RM (VA). -/
structure BnormF where
  d : Reg
  a : Reg
  k : MaskReg
  ty : Ty
  rm : Rm
  deriving DecidableEq, Repr

/-- Operands: destination D, source A, register B, mask and type (VA). -/
structure VTyBF where
  d : Reg
  a : Reg
  b : Reg
  k : MaskReg
  ty : Ty
  deriving DecidableEq, Repr

/-- Operands: destination D, source A, index register C, mask and type (VA). -/
structure VTyCF where
  d : Reg
  a : Reg
  c : Reg
  k : MaskReg
  ty : Ty
  deriving DecidableEq, Repr

/-- Operands: destination D, source A, mask, type, RM, SAT and DIM (VA). -/
structure RedF where
  d : Reg
  a : Reg
  k : MaskReg
  ty : Ty
  rm : Rm
  sat : Bool
  col : Bool
  deriving DecidableEq, Repr

/-- Operands: destination D, source A, mask, type, SAT and DIM (VA). -/
structure RedNF where
  d : Reg
  a : Reg
  k : MaskReg
  ty : Ty
  sat : Bool
  col : Bool
  deriving DecidableEq, Repr

/-- Operands: cosine destination D, phases A, sine destination B, mask, type and RM (VA). -/
structure SinCosF where
  d : Reg
  a : Reg
  b : Reg
  k : MaskReg
  ty : Ty
  rm : Rm
  deriving DecidableEq, Repr

/-- Operands: vector register D, base A, pitch or stride B, mask, type and hint (VM). -/
structure VMemF where
  d : Reg
  a : Reg
  b : Reg
  k : MaskReg
  ty : Ty
  hint : BitVec 2
  deriving DecidableEq, Repr

/-- Operands: vector register D, base A, pitch B, mask, type, bit offset and hint (VM). -/
structure VMemBF where
  d : Reg
  a : Reg
  b : Reg
  k : MaskReg
  ty : Ty
  bitoff : BitVec 3
  hint : BitVec 2
  deriving DecidableEq, Repr

/-- Operands: vector register D, register A, mask, type and hint (VM). -/
structure VMemLF where
  d : Reg
  a : Reg
  k : MaskReg
  ty : Ty
  hint : BitVec 2
  deriving DecidableEq, Repr

/-- Operands: vector register D, base A, index register C, mask, type and hint (VMC). -/
structure VIdxF where
  d : Reg
  a : Reg
  c : Reg
  k : MaskReg
  ty : Ty
  hint : BitVec 2
  deriving DecidableEq, Repr

/-- Operands: base A, length B, mask, type and hint (VM). -/
structure WinF where
  a : Reg
  b : Reg
  k : MaskReg
  ty : Ty
  hint : BitVec 2
  deriving DecidableEq, Repr

/-- Operands: mask, type and hint (VM). -/
structure Win0F where
  k : MaskReg
  ty : Ty
  hint : BitVec 2
  deriving DecidableEq, Repr

/-- Operands: registers D, A, B, channel, ordering, scope, multicast mask, arrival barrier and row units (CPYL). -/
structure CpyF where
  d : Reg
  a : Reg
  b : Reg
  ch : BitVec 2
  acq : Bool
  rel : Bool
  scope : Scope
  mmask : BitVec 4
  bar : BitVec 4
  rows16 : BitVec 13
  deriving DecidableEq, Repr

/-- Operands: registers D, A, B, channel, ordering, scope, operation, arrival barrier and type (XRL). -/
structure XredF where
  d : Reg
  a : Reg
  b : Reg
  ch : BitVec 2
  acq : Bool
  rel : Bool
  scope : Scope
  op : XredOp
  bar : BitVec 4
  ty : Ty
  deriving DecidableEq, Repr

/-- Operands: count register A and the channel (CPW). -/
structure CpwF where
  a : Reg
  ch : BitVec 2
  deriving DecidableEq, Repr

/-- Operands: the row groups wanted (GRP). -/
structure GrpF where
  groups : BitVec 3
  deriving DecidableEq, Repr

/-- Operands: the discard bit (DET). -/
structure DetF where
  discard : Bool
  deriving DecidableEq, Repr

/-- Operands: the operand slot (SLOT). -/
structure SlotF where
  slot : BitVec 7
  deriving DecidableEq, Repr

/-- Operands: the tile (ACC). -/
structure AccF where
  tile : Bool
  deriving DecidableEq, Repr

/-- Operands: type in D, register A, control register B and the slot (SLOT). -/
structure SlotMF where
  ty : Ty
  a : Reg
  b : Reg
  slot : BitVec 7
  deriving DecidableEq, Repr

/-- Operands: destination D, control register B and the slot (SLOT). -/
structure SlotRF where
  d : Reg
  b : Reg
  slot : BitVec 7
  deriving DecidableEq, Repr

/-- Operands: the tile in D[0] and the two slots (MMA). -/
structure MmaF where
  tile : Bool
  slotA : BitVec 7
  slotB : BitVec 7
  deriving DecidableEq, Repr

/-- Operands: destination D, mask, type, column half and tile (DRN). -/
structure DrnF where
  d : Reg
  k : MaskReg
  ty : Ty
  half : Bool
  tile : Bool
  deriving DecidableEq, Repr

/-- Operands: address register A and the tile (ACC). -/
structure AccMF where
  a : Reg
  tile : Bool
  deriving DecidableEq, Repr

/-- Operands: registers D, A, B and the width (VER). -/
structure VerF where
  d : Reg
  a : Reg
  b : Reg
  width : BitVec 2
  deriving DecidableEq, Repr

/-- Operands: vector register D, base A, pitch B, version register C, mask, type and hint (VMC). -/
structure VVerF where
  d : Reg
  a : Reg
  b : Reg
  c : Reg
  k : MaskReg
  ty : Ty
  hint : BitVec 2
  deriving DecidableEq, Repr

/-- Operands: K source D, KV address A, V source B, type and hint (VM). -/
structure KvappF where
  d : Reg
  a : Reg
  b : Reg
  ty : Ty
  hint : BitVec 2
  deriving DecidableEq, Repr

/-- Operands: KV address A, index register C, mask, type and hint (VMC). -/
structure KvmoveF where
  a : Reg
  c : Reg
  k : MaskReg
  ty : Ty
  hint : BitVec 2
  deriving DecidableEq, Repr

/-- Operands: source D, base A, pitch B, index register C, ordering, scope and type (NMS). -/
structure NaddF where
  d : Reg
  a : Reg
  b : Reg
  c : Reg
  acq : Bool
  rel : Bool
  scope : Scope
  ty : Ty
  deriving DecidableEq, Repr

/-- Operands: registers A, B, ordering, scope, type and line count (NML). -/
structure NcpyF where
  a : Reg
  b : Reg
  acq : Bool
  rel : Bool
  scope : Scope
  ty : Ty
  count : BitVec 32
  deriving DecidableEq, Repr

/-- Operands: register A, ordering, scope, type and line count (NML). -/
structure NzeroF where
  a : Reg
  acq : Bool
  rel : Bool
  scope : Scope
  ty : Ty
  count : BitVec 32
  deriving DecidableEq, Repr

/-- Operands: registers A, B, ordering, scope, type, stride pattern and line count (NML). -/
structure NgatherF where
  a : Reg
  b : Reg
  acq : Bool
  rel : Bool
  scope : Scope
  ty : Ty
  pat : BitVec 4
  count : BitVec 32
  deriving DecidableEq, Repr

/-- Operands: registers D, A, B, ordering, scope, type and line count (NML). -/
structure NoptF where
  d : Reg
  a : Reg
  b : Reg
  acq : Bool
  rel : Bool
  scope : Scope
  ty : Ty
  count : BitVec 32
  deriving DecidableEq, Repr

/-- Operands: registers D, A and the channel whose write pointer is named. -/
structure CpwpF where
  d : Reg
  a : Reg
  ch : BitVec 2
  deriving DecidableEq, Repr

/-- The instructions and events of the machine: one constructor for each row of the opcode table. -/
inductive Instr where
  /-- `NOP` (R25): Does nothing; the instruction address advances to the next slot. -/
  | nop
  /-- `ADD` (R249): Writes x[A] + x[B] modulo 2^n to x[D]. -/
  | add (x : AluF)
  /-- `SUB` (R249): Writes x[A] - x[B] modulo 2^n to x[D]. -/
  | sub (x : AluF)
  /-- `AND` (R249): Writes the bitwise AND of x[A] and x[B] to x[D]. -/
  | and (x : AluF)
  /-- `OR` (R249): Writes the bitwise OR of x[A] and x[B] to x[D]. -/
  | or (x : AluF)
  /-- `XOR` (R249): Writes the bitwise XOR of x[A] and x[B] to x[D]. -/
  | xor (x : AluF)
  /-- `SHL` (R249): Shifts x[A] left by x[B] and writes the result to x[D]. -/
  | shl (x : AluF)
  /-- `SHR` (R249): Shifts x[A] right by x[B], filling with zeros, and writes the result to x[D]. -/
  | shr (x : AluF)
  /-- `SRA` (R249): Shifts x[A] right by x[B], filling with the sign bit, and writes the result to
      x[D]. -/
  | sra (x : AluF)
  /-- `MUL` (R249): Writes the low n bits of x[A] × x[B] to x[D]. -/
  | mul (x : AluF)
  /-- `MULH` (R249): Writes the high n bits of the signed product of x[A] and x[B] to x[D]. -/
  | mulh (x : AluF)
  /-- `MULHU` (R249): Writes the high n bits of the unsigned product of x[A] and x[B] to x[D]. -/
  | mulhu (x : AluF)
  /-- `DIV` (R249): Writes the signed quotient, truncated toward zero and saturating at the edge
      cases, to x[D]. -/
  | div (x : AluF)
  /-- `DIVU` (R249): Writes the unsigned quotient, saturating on division by zero, to x[D]. -/
  | divu (x : AluF)
  /-- `REM` (R249): Writes the signed remainder, with the sign of the dividend, to x[D]. -/
  | rem (x : AluF)
  /-- `REMU` (R249): Writes the unsigned remainder to x[D]. -/
  | remu (x : AluF)
  /-- `MIN` (R249): Writes the signed minimum of x[A] and x[B] to x[D]. -/
  | min (x : AluF)
  /-- `MAX` (R249): Writes the signed maximum of x[A] and x[B] to x[D]. -/
  | max (x : AluF)
  /-- `MINU` (R249): Writes the unsigned minimum of x[A] and x[B] to x[D]. -/
  | minu (x : AluF)
  /-- `MAXU` (R249): Writes the unsigned maximum of x[A] and x[B] to x[D]. -/
  | maxu (x : AluF)
  /-- `SLT` (R249): Writes 1 to x[D] if x[A] < x[B] as signed values, otherwise 0. -/
  | slt (x : AluF)
  /-- `SLTU` (R249): Writes 1 to x[D] if x[A] < x[B] as unsigned values, otherwise 0. -/
  | sltu (x : AluF)
  /-- `SEQ` (R249): Writes 1 to x[D] if x[A] = x[B], otherwise 0. -/
  | seq (x : AluF)
  /-- `CLZ` (R249): Writes the count of leading zero bits of x[A] to x[D]. -/
  | clz (x : AluUF)
  /-- `CTZ` (R249): Writes the count of trailing zero bits of x[A] to x[D]. -/
  | ctz (x : AluUF)
  /-- `POPC` (R249): Writes the count of set bits of x[A] to x[D]. -/
  | popc (x : AluUF)
  /-- `ADDI` (R250): Adds a sign-extended 16-bit immediate to x[A] and writes the sum to x[D]. -/
  | addi (x : AluIF)
  /-- `ANDI` (R250): Writes the bitwise AND of x[A] and an immediate to x[D]. -/
  | andi (x : AluIF)
  /-- `ORI` (R250): Writes the bitwise OR of x[A] and an immediate to x[D]. -/
  | ori (x : AluIF)
  /-- `XORI` (R250): Writes the bitwise XOR of x[A] and an immediate to x[D]. -/
  | xori (x : AluIF)
  /-- `SHLI` (R250): Shifts x[A] left by an immediate amount and writes the result to x[D]. -/
  | shli (x : AluSF)
  /-- `SHRI` (R250): Shifts x[A] right logically by an immediate amount and writes the result to
      x[D]. -/
  | shri (x : AluSF)
  /-- `SRAI` (R250): Shifts x[A] right arithmetically by an immediate amount and writes the result
      to x[D]. -/
  | srai (x : AluSF)
  /-- `SLTI` (R250): Writes 1 to x[D] if x[A] is less than the immediate as signed values, otherwise
      0. -/
  | slti (x : AluIF)
  /-- `SLTUI` (R250): Writes 1 to x[D] if x[A] is less than the sign-extended immediate as unsigned
      values, otherwise 0. -/
  | sltui (x : AluIF)
  /-- `LI` (R251): Writes a sign-extended 48-bit immediate to x[D]. -/
  | li (x : LiF)
  /-- `LIH` (R251): Replaces bits [63:48] of x[D] with a 16-bit immediate. -/
  | lih (x : LihF)
  /-- `FADD` (R252): Writes the FP32 sum of x[A] and x[B], rounded once, to x[D]. -/
  | fadd (x : FpuF)
  /-- `FSUB` (R252): Writes the FP32 difference of x[A] and x[B], rounded once, to x[D]. -/
  | fsub (x : FpuF)
  /-- `FMUL` (R252): Writes the FP32 product of x[A] and x[B], rounded once, to x[D]. -/
  | fmul (x : FpuF)
  /-- `FDIV` (R252): Writes the FP32 quotient of x[A] and x[B], rounded once, to x[D]. -/
  | fdiv (x : FpuF)
  /-- `FSQRT` (R252): Writes the FP32 square root of x[A], rounded once, to x[D]. -/
  | fsqrt (x : FpuUF)
  /-- `FMIN` (R252): Writes the smaller FP32 operand to x[D], with -0 < +0 and NaN handling as
      stated. -/
  | fmin (x : R3T2)
  /-- `FMAX` (R252): Writes the larger FP32 operand to x[D], with -0 < +0 and NaN handling as
      stated. -/
  | fmax (x : R3T2)
  /-- `FEQ` (R252): Writes 1 to x[D] if the FP32 operands are equal, otherwise 0. -/
  | feq (x : R3T2)
  /-- `FLT` (R252): Writes 1 to x[D] if a < b, otherwise 0; a NaN operand raises NV. -/
  | flt (x : R3T2)
  /-- `FLE` (R252): Writes 1 to x[D] if a <= b, otherwise 0; a NaN operand raises NV. -/
  | fle (x : R3T2)
  /-- `FCVTIF` (R252): Converts the signed 64-bit integer in x[A] to FP32 and writes it to x[D]. -/
  | fcvtif (x : FpuUF)
  /-- `FCVTFI` (R252): Converts FP32 to a signed 64-bit integer under R73 and writes it to x[D]. -/
  | fcvtfi (x : FpuUF)
  /-- `FCLASS` (R252): Writes to x[D] a one-hot class of the FP32 operand. -/
  | fclass (x : R2T2)
  /-- `FFMA` (R253): Writes a × b + c, formed exactly and rounded once, to x[D]. -/
  | ffma (x : FmaF)
  /-- `FFMS` (R253): Writes a × b - c, formed exactly and rounded once, to x[D]. -/
  | ffms (x : FmaF)
  /-- `FNFMA` (R253): Writes -(a × b) + c, formed exactly and rounded once, to x[D]. -/
  | fnfma (x : FmaF)
  /-- `BEQ` (R254): Branches if x[A] = x[B]. -/
  | beq (x : BrF)
  /-- `BNE` (R254): Branches if x[A] ≠ x[B]. -/
  | bne (x : BrF)
  /-- `BLT` (R254): Branches if x[A] < x[B] as signed values. -/
  | blt (x : BrF)
  /-- `BGE` (R254): Branches if x[A] >= x[B] as signed values. -/
  | bge (x : BrF)
  /-- `BLTU` (R254): Branches if x[A] < x[B] as unsigned values. -/
  | bltu (x : BrF)
  /-- `BGEU` (R254): Branches if x[A] >= x[B] as unsigned values. -/
  | bgeu (x : BrF)
  /-- `JAL` (R255): Jumps to a line-relative target and links the next IA into x[D]. -/
  | jal (x : JalF)
  /-- `JALR` (R255): Jumps to the IA in x[A] and links the next IA into x[D]. -/
  | jalr (x : R2T2)
  /-- `LB` (R204): Loads a byte, sign-extended, into x[D]. -/
  | lb (x : MemF)
  /-- `LBU` (R204): Loads a byte, zero-extended, into x[D]. -/
  | lbu (x : MemF)
  /-- `LH` (R204): Loads a halfword, sign-extended, into x[D]. -/
  | lh (x : MemF)
  /-- `LHU` (R204): Loads a halfword, zero-extended, into x[D]. -/
  | lhu (x : MemF)
  /-- `LW` (R204): Loads a word, sign-extended, into x[D]. -/
  | lw (x : MemF)
  /-- `LWU` (R204): Loads a word, zero-extended, into x[D]. -/
  | lwu (x : MemF)
  /-- `LD` (R204): Loads a doubleword into x[D]. -/
  | ld (x : MemF)
  /-- `SB` (R204): Places a byte store into the store buffer. -/
  | sb (x : MemF)
  /-- `SH` (R204): Places a halfword store into the store buffer. -/
  | sh (x : MemF)
  /-- `SW` (R204): Places a word store into the store buffer. -/
  | sw (x : MemF)
  /-- `SD` (R204): Places a doubleword store into the store buffer. -/
  | sd (x : MemF)
  /-- `AMOADD` (R322): Atomically adds x[B] to memory at its home and returns the old value. -/
  | amoadd (x : AmoF)
  /-- `AMOSWAP` (R322): Atomically swaps x[B] with memory and returns the old value. -/
  | amoswap (x : AmoF)
  /-- `AMOAND` (R322): Atomically ANDs x[B] into memory and returns the old value. -/
  | amoand (x : AmoF)
  /-- `AMOOR` (R322): Atomically ORs x[B] into memory and returns the old value. -/
  | amoor (x : AmoF)
  /-- `AMOXOR` (R322): Atomically XORs x[B] into memory and returns the old value. -/
  | amoxor (x : AmoF)
  /-- `AMOMIN` (R322): Atomically writes the signed minimum of memory and x[B] and returns the old
      value. -/
  | amomin (x : AmoF)
  /-- `AMOMAX` (R322): Atomically writes the signed maximum of memory and x[B] and returns the old
      value. -/
  | amomax (x : AmoF)
  /-- `AMOMINU` (R322): Atomically writes the unsigned minimum of memory and x[B] and returns the
      old value. -/
  | amominu (x : AmoF)
  /-- `AMOMAXU` (R322): Atomically writes the unsigned maximum of memory and x[B] and returns the
      old value. -/
  | amomaxu (x : AmoF)
  /-- `AMOFADD` (R322): Atomically adds FP32 values into memory with RNE and returns the old value. -/
  | amofadd (x : AmoF)
  /-- `AMOCAS` (R322): Atomically writes x[B] if memory equals x[C] and returns the old value. -/
  | amocas (x : AmoCasF)
  /-- `LDA_W` (R313): Loads a word as an acquire at the given scope. -/
  | ldaW (x : OrdF)
  /-- `LDA_D` (R313): Loads a doubleword as an acquire at the given scope. -/
  | ldaD (x : OrdF)
  /-- `STL_W` (R313): Stores a word after a release at the given scope. -/
  | stlW (x : OrdF)
  /-- `STL_D` (R313): Stores a doubleword after a release at the given scope. -/
  | stlD (x : OrdF)
  /-- `FENCE` (R315): Acquire, release or full fence at the scope held in the A field. -/
  | fence (x : FenceF)
  /-- `FENCE_SV` (R315): Holds later vector dispatch until earlier scalar stores have performed. -/
  | fenceSv
  /-- `FENCE_VS` (R315): Holds later scalar accesses until earlier vector-class work, copies and REL
      crust commands have completed. -/
  | fenceVs
  /-- `CFLUSH` (R105): Writes a dirty home copy of a line back to HBM4E and invalidates guest and L1
      copies. -/
  | cflush (x : CacheF)
  /-- `CINV` (R105): Invalidates a line in the issuing core's instruction cache and L1 data cache. -/
  | cinv (x : CacheF)
  /-- `CPREF` (R105): Hints a line into the L2 and the L1; never faults. -/
  | cpref (x : CacheF)
  /-- `CDROP` (R105): Discards a line from every L2 and L1 without writing it back; supervisor only. -/
  | cdrop (x : CacheF)
  /-- `WAITNE` (R324): Waits, under a monitor entry, until a doubleword differs from x[B] or the
      timeout elapses. -/
  | waitne (x : WaitF)
  /-- `WAITEQ` (R324): Waits, under a monitor entry, until a doubleword equals x[B] or the timeout
      elapses. -/
  | waiteq (x : WaitF)
  /-- `WAITA_REREAD` (R324): After a write to the watched bytes performs at home, a blocked WAITA
      re-reads them and completes if the condition holds. -/
  | waitaReread (core : Nat)
  /-- `WAITA_TIMEOUT` (R324): The timeout of a blocked WAITA elapses; it writes status 1 and frees
      its monitor entry. -/
  | waitaTimeout (core : Nat)
  /-- `CSRR` (R243): Reads a CSR into x[D]. -/
  | csrr (x : CsrRF)
  /-- `CSRW` (R243): Writes x[A] to a CSR and returns the old value. -/
  | csrw (x : CsrF)
  /-- `CSRS` (R243): Sets bits of a CSR from x[A] and returns the old value. -/
  | csrs (x : CsrF)
  /-- `CSRC` (R243): Clears bits of a CSR from x[A] and returns the old value. -/
  | csrc (x : CsrF)
  /-- `CPWP_WRITE` (R222): A supervisor write to a write-pointer CSR sets COUNT to the value
      written, from which it counts onward. -/
  | cpwpWrite (x : CpwpF)
  /-- `TRAP` (R378): Raises cause 28 with a software code. -/
  | trap (x : CodeF)
  /-- `ERET` (R379): Resumes with an all-zero settle mask. -/
  | eret
  /-- `RESUME` (R379): Settles the held entries by mask, returns them to the queue and continues at
      EIA in the saved mode. -/
  | resume (x : R1T2)
  /-- `TLBINV_ADDRESS` (R103): Mode 0: invalidates on every die the TLB and walk-cache entries for
      one VA and ASID. -/
  | tlbinvAddress (x : RabT2)
  /-- `TLBINV_ASID` (R103): Mode 1: invalidates every non-global entry of one ASID. -/
  | tlbinvAsid (x : RabT2)
  /-- `TLBINV_ALL` (R103): Modes 2 and 3: invalidate every TLB and walk-cache entry. -/
  | tlbinvAll (x : RabT2)
  /-- `WFI` (R380): Waits until an interrupt is pending. -/
  | wfi
  /-- `CTXSAVE` (R382): Saves the loaded task context into a TCB and releases its MXE state. -/
  | ctxsave (x : R2T2)
  /-- `CTXREST` (R383): Claims and restores a saved task context from a TCB. -/
  | ctxrest (x : R2T2)
  /-- `VQSAVE` (R384): Writes the held set out as a queue image. -/
  | vqsave (x : R2T2)
  /-- `VQREST` (R384): Makes a queue image the held set. -/
  | vqrest (x : R2T2)
  /-- `SPAWN` (R359): Releases, then pushes a task record onto the bottom of the core's own deque. -/
  | spawn (x : R2T2)
  /-- `SPAWNG` (R359): Releases, then pushes a task record onto the die injection queue. -/
  | spawng (x : R2T2)
  /-- `SPAWNL` (R359): Releases, then enters a loop record in the die loop table. -/
  | spawnl (x : R2T2)
  /-- `JOIN` (R360): Adds to a join counter and pushes the continuation when the counter reaches
      exactly 0. -/
  | join (x : R3T2)
  /-- `JOIN_PUSH_RETRY` (R360): A pending continuation push is retried until room appears in the
      deque, ring or reserve. -/
  | joinPushRetry (core : Nat)
  /-- `YIELD` (R361): Ends the task's turn and pushes its record into the injection reserve. -/
  | yield (x : R1T2)
  /-- `END` (R362): Ends the task: drains, releases MXE state, ORs flags, processes the JB and
      decrements the launch count. -/
  | endTask
  /-- `LVCANCEL` (R363): Releases, then sets CANCEL of a level and returns the old flag. -/
  | lvcancel (x : R2T2)
  /-- `LVQUERY` (R363): Returns cancel, state, failure and count of a level. -/
  | lvquery (x : R2T2)
  /-- `BARINIT` (R329): Registers or reinitialises a barrier line with a non-zero COUNT. -/
  | barinit (x : R3T2)
  /-- `BARINIT_UNREGISTER` (R329): With COUNT 0, frees the barrier's table entry and zeroes its
      image. -/
  | barinitUnregister (x : R3T2)
  /-- `BARARR` (R330): Releases, then arrives at a barrier, completing the phase and releasing
      waiters at COUNT. -/
  | bararr (x : R2T2)
  /-- `BARWAIT` (R331): Waits at the head of the queue until the phase changes, the barrier is
      killed, or it is unregistered. -/
  | barwait (x : R3T2)
  /-- `BARKILL` (R332): Kills a barrier and releases its waiters with status 1. -/
  | barkill (x : R2T2)
  /-- `POST` (R336): Releases at DIE scope and sends an iteration value on an iteration ring
      channel. -/
  | post (x : RabT4)
  /-- `POST_ARRIVAL` (R334): A post reaches a core's mirror after its ring hops and raises W,
      completing a WAITI it satisfies. -/
  | postArrival (die : Nat) (n : Nat)
  /-- `WAITI` (R336): Waits at the head of the queue until the mirror's W reaches the iteration, or
      the channel is released. -/
  | waiti (x : R3T4)
  /-- `SETLEN` (R257): Sets NR and NC from the requests, bounded by the shape, the row ceiling and
      the type capacity. -/
  | setlen (x : LenF)
  /-- `VSHAPE` (R259): Switches the register file between the narrow and wide shapes. -/
  | vshape (x : ShpF)
  /-- `VMOVX` (R260): Moves one vector element to a scalar register. -/
  | vmovx (x : LenF)
  /-- `VMOVV` (R260): Moves a scalar value into one vector element and re-tags its block. -/
  | vmovv (x : LenF)
  /-- `SETLENF` (R258): Waits for the queue, then narrows NR to FFNR. -/
  | setlenf (x : R1T4)
  /-- `KAND` (R261): kD := kA & kB. -/
  | kand (x : K3F)
  /-- `KOR` (R261): kD := kA | kB. -/
  | kor (x : K3F)
  /-- `KXOR` (R261): kD := kA ^ kB. -/
  | kxor (x : K3F)
  /-- `KANDN` (R261): kD := kA & ~kB. -/
  | kandn (x : K3F)
  /-- `KNOT` (R261): kD := ~kA. -/
  | knot (x : K2F)
  /-- `KPOP` (R261): Counts the set mask bits within NR and NC into a scalar register. -/
  | kpop (x : KxF)
  /-- `KFIRST` (R261): Returns the position of the first set mask bit within NR and NC. -/
  | kfirst (x : KxF)
  /-- `KSET` (R261): Sets the first x[A] element positions of a mask. -/
  | kset (x : KsetF)
  /-- `VADD` (R265): Element-wise integer add. -/
  | vadd (x : VBinF)
  /-- `VSUB` (R265): Element-wise integer subtract. -/
  | vsub (x : VBinF)
  /-- `VMUL` (R265): Element-wise integer multiply, low bits. -/
  | vmul (x : VBinF)
  /-- `VMULH` (R265): Element-wise integer multiply, high bits. -/
  | vmulh (x : VBinF)
  /-- `VAND` (R265): Element-wise bitwise AND. -/
  | vand (x : VBinF)
  /-- `VOR` (R265): Element-wise bitwise OR. -/
  | vor (x : VBinF)
  /-- `VXOR` (R265): Element-wise bitwise XOR. -/
  | vxor (x : VBinF)
  /-- `VSHL` (R265): Element-wise shift left. -/
  | vshl (x : VBinF)
  /-- `VSHR` (R265): Element-wise logical shift right. -/
  | vshr (x : VBinF)
  /-- `VSRA` (R265): Element-wise arithmetic shift right. -/
  | vsra (x : VBinF)
  /-- `VMIN` (R265): Element-wise integer minimum. -/
  | vmin (x : VBinF)
  /-- `VMAX` (R265): Element-wise integer maximum. -/
  | vmax (x : VBinF)
  /-- `VABS` (R265): Element-wise integer absolute value. -/
  | vabs (x : VUnF)
  /-- `VNEG` (R265): Element-wise integer negation. -/
  | vneg (x : VUnF)
  /-- `VCMPEQ` (R266): Writes integer equality into mask bits. -/
  | vcmpeq (x : VCmpF)
  /-- `VCMPLT` (R266): Writes integer less-than into mask bits. -/
  | vcmplt (x : VCmpF)
  /-- `VCMPLE` (R266): Writes integer less-or-equal into mask bits. -/
  | vcmple (x : VCmpF)
  /-- `VSEL` (R266): Selects each element from vA or the second source by a mask. -/
  | vsel (x : VBinF)
  /-- `VIOTA` (R266): Writes each column index to its active elements. -/
  | viota (x : VIotaF)
  /-- `VADD_SCALAR` (R264): Integer add with a scalar second source. -/
  | vaddScalar (x : VBinF)
  /-- `VSUB_SCALAR` (R264): Integer subtract with a scalar second source. -/
  | vsubScalar (x : VBinF)
  /-- `VMUL_SCALAR` (R264): Integer multiply with a scalar second source. -/
  | vmulScalar (x : VBinF)
  /-- `VMULH_SCALAR` (R264): High-half multiply with a scalar second source. -/
  | vmulhScalar (x : VBinF)
  /-- `VAND_SCALAR` (R264): Bitwise AND with a scalar second source. -/
  | vandScalar (x : VBinF)
  /-- `VOR_SCALAR` (R264): Bitwise OR with a scalar second source. -/
  | vorScalar (x : VBinF)
  /-- `VXOR_SCALAR` (R264): Bitwise XOR with a scalar second source. -/
  | vxorScalar (x : VBinF)
  /-- `VSHL_SCALAR` (R264): Shift left by a scalar amount. -/
  | vshlScalar (x : VBinF)
  /-- `VSHR_SCALAR` (R264): Logical shift right by a scalar amount. -/
  | vshrScalar (x : VBinF)
  /-- `VSRA_SCALAR` (R264): Arithmetic shift right by a scalar amount. -/
  | vsraScalar (x : VBinF)
  /-- `VMIN_SCALAR` (R264): Integer minimum with a scalar. -/
  | vminScalar (x : VBinF)
  /-- `VMAX_SCALAR` (R264): Integer maximum with a scalar. -/
  | vmaxScalar (x : VBinF)
  /-- `VABS_SCALAR` (R264): Integer absolute value; the scalar form behaves as the vector form. -/
  | vabsScalar (x : VUnF)
  /-- `VNEG_SCALAR` (R264): Integer negation; the scalar form behaves as the vector form. -/
  | vnegScalar (x : VUnF)
  /-- `VCMPEQ_SCALAR` (R266): Compares each element with a scalar for equality into a mask. -/
  | vcmpeqScalar (x : VCmpF)
  /-- `VCMPLT_SCALAR` (R266): Compares each element with a scalar for less-than into a mask. -/
  | vcmpltScalar (x : VCmpF)
  /-- `VCMPLE_SCALAR` (R266): Compares each element with a scalar for less-or-equal into a mask. -/
  | vcmpleScalar (x : VCmpF)
  /-- `VSEL_SCALAR` (R266): Selects between vA and a scalar by a mask. -/
  | vselScalar (x : VBinF)
  /-- `VIOTA_SCALAR` (R266): Writes each column index plus a scalar base. -/
  | viotaScalar (x : VIotaXF)
  /-- `VFADD` (R267): Element-wise floating add. -/
  | vfadd (x : VFpF)
  /-- `VFSUB` (R267): Element-wise floating subtract. -/
  | vfsub (x : VFpF)
  /-- `VFMUL` (R267): Element-wise floating multiply. -/
  | vfmul (x : VFpF)
  /-- `VFDIV` (R267): Element-wise floating divide. -/
  | vfdiv (x : VFpF)
  /-- `VFSQRT` (R267): Element-wise floating square root. -/
  | vfsqrt (x : VFpUF)
  /-- `VFMIN` (R267): Element-wise floating minimum. -/
  | vfmin (x : VFpF)
  /-- `VFMAX` (R267): Element-wise floating maximum. -/
  | vfmax (x : VFpF)
  /-- `VFABS` (R267): Clears the sign bit of each element. -/
  | vfabs (x : VFpUF)
  /-- `VFNEG` (R267): Inverts the sign bit of each element. -/
  | vfneg (x : VFpUF)
  /-- `VFCMPEQ` (R267): Writes floating equality into mask bits. -/
  | vfcmpeq (x : VFCmpF)
  /-- `VFCMPLT` (R267): Writes floating less-than into mask bits. -/
  | vfcmplt (x : VFCmpF)
  /-- `VFCMPLE` (R267): Writes floating less-or-equal into mask bits. -/
  | vfcmple (x : VFCmpF)
  /-- `VFRCP` (R267): Element-wise reciprocal, correctly rounded. -/
  | vfrcp (x : VFpUF)
  /-- `VFRSQ` (R267): Element-wise reciprocal square root, correctly rounded. -/
  | vfrsq (x : VFpUF)
  /-- `VFEXP2` (R267): Element-wise 2^a, correctly rounded. -/
  | vfexp2 (x : VFpUF)
  /-- `VFLOG2` (R267): Element-wise log2, correctly rounded. -/
  | vflog2 (x : VFpUF)
  /-- `VFADD_SCALAR` (R264): Floating add with a scalar second source. -/
  | vfaddScalar (x : VFpF)
  /-- `VFSUB_SCALAR` (R264): Floating subtract with a scalar second source. -/
  | vfsubScalar (x : VFpF)
  /-- `VFMUL_SCALAR` (R264): Floating multiply with a scalar second source. -/
  | vfmulScalar (x : VFpF)
  /-- `VFDIV_SCALAR` (R264): Floating divide with a scalar second source. -/
  | vfdivScalar (x : VFpF)
  /-- `VFSQRT_SCALAR` (R264): Floating square root; the scalar form behaves as the vector form. -/
  | vfsqrtScalar (x : VFpUF)
  /-- `VFMIN_SCALAR` (R264): Floating minimum with a scalar. -/
  | vfminScalar (x : VFpF)
  /-- `VFMAX_SCALAR` (R264): Floating maximum with a scalar. -/
  | vfmaxScalar (x : VFpF)
  /-- `VFABS_SCALAR` (R264): Floating absolute value; the scalar form behaves as the vector form. -/
  | vfabsScalar (x : VFpUF)
  /-- `VFNEG_SCALAR` (R264): Floating negation; the scalar form behaves as the vector form. -/
  | vfnegScalar (x : VFpUF)
  /-- `VFCMPEQ_SCALAR` (R264): Floating equality with a scalar into a mask. -/
  | vfcmpeqScalar (x : VFCmpF)
  /-- `VFCMPLT_SCALAR` (R264): Floating less-than with a scalar into a mask. -/
  | vfcmpltScalar (x : VFCmpF)
  /-- `VFCMPLE_SCALAR` (R264): Floating less-or-equal with a scalar into a mask. -/
  | vfcmpleScalar (x : VFCmpF)
  /-- `VFRCP_SCALAR` (R264): Reciprocal; the scalar form behaves as the vector form. -/
  | vfrcpScalar (x : VFpUF)
  /-- `VFRSQ_SCALAR` (R264): Reciprocal square root; the scalar form behaves as the vector form. -/
  | vfrsqScalar (x : VFpUF)
  /-- `VFEXP2_SCALAR` (R264): 2^a; the scalar form behaves as the vector form. -/
  | vfexp2Scalar (x : VFpUF)
  /-- `VFLOG2_SCALAR` (R264): log2; the scalar form behaves as the vector form. -/
  | vflog2Scalar (x : VFpUF)
  /-- `VFMA` (R269): Element-wise a × b + c, rounded once. -/
  | vfma (x : VFmaF)
  /-- `VFMS` (R269): Element-wise a × b - c, rounded once. -/
  | vfms (x : VFmaF)
  /-- `VFNMA` (R269): Element-wise -(a × b) + c, rounded once. -/
  | vfnma (x : VFmaF)
  /-- `VCVT` (R77): Converts raw element values to the destination type, ignoring block scales. -/
  | vcvt (x : VFpF)
  /-- `VCVTD` (R77): Converts element values times their block scales to FP32, BF16 or FP16. -/
  | vcvtd (x : VFpF)
  /-- `VQPACK` (R79): Quantises floating rows into a small-float format with one scale per block. -/
  | vqpack (x : QpackF)
  /-- `VBACC` (R80): Adds an FP32 row into a B24 row, realigning the row exponent as needed. -/
  | vbacc (x : VTyF)
  /-- `VBNORM` (R81): Converts B24 rows to FP32. -/
  | vbnorm (x : BnormF)
  /-- `VSCALE` (R82): Rescales described rows by 2^n through their tags. -/
  | vscale (x : VTyBF)
  /-- `VREDSUM` (R271): Sums a row or column through the fixed 64-lane tree. -/
  | vredsum (x : RedF)
  /-- `VREDMAX` (R272): Reduces a row or column to its maximum. -/
  | vredmax (x : RedNF)
  /-- `VREDMIN` (R272): Reduces a row or column to its minimum. -/
  | vredmin (x : RedNF)
  /-- `VARGMAX` (R272): Returns the index of the greatest value, with the lowest index among ties. -/
  | vargmax (x : RedNF)
  /-- `VARGMIN` (R272): Returns the index of the least value, with the lowest index among ties. -/
  | vargmin (x : RedNF)
  /-- `VREDAND` (R272): Bitwise AND reduction. -/
  | vredand (x : RedNF)
  /-- `VREDOR` (R272): Bitwise OR reduction. -/
  | vredor (x : RedNF)
  /-- `VCOMPRESS` (R274): Packs the active columns of each row to the front. -/
  | vcompress (x : VTyF)
  /-- `VEXPAND` (R274): Spreads leading elements into the active columns. -/
  | vexpand (x : VTyF)
  /-- `VSLIDEUP` (R274): Slides elements up by a scalar amount. -/
  | vslideup (x : VTyBF)
  /-- `VSLIDEDN` (R274): Slides elements down by a scalar amount, filling with zero. -/
  | vslidedn (x : VTyBF)
  /-- `VTRANS` (R274): Transposes a register. -/
  | vtrans (x : VTyF)
  /-- `VPERMC` (R274): Permutes columns by an index register. -/
  | vpermc (x : VTyCF)
  /-- `VBCAST` (R274): Broadcasts a row, a column or an element. -/
  | vbcast (x : VTyBF)
  /-- `VSINCOS` (R276): Computes cosine and sine of turn fractions, rounded once. -/
  | vsincos (x : SinCosF)
  /-- `VGUMBEL` (R278): Computes Gumbel noise from hashes. -/
  | vgumbel (x : VTyF)
  /-- `VHASH` (R277): Computes the CRUMB hash of keys and counters. -/
  | vhash (x : VTyBF)
  /-- `VLD` (R209): Unit-stride vector load with tags set by R12 or R68. -/
  | vld (x : VMemF)
  /-- `VLDF` (R210): First-fault vector load that shortens at a fault after its first row. -/
  | vldf (x : VMemF)
  /-- `VLDB` (R209): Bit-offset load of sub-byte types. -/
  | vldb (x : VMemBF)
  /-- `VLDS` (R209): Strided vector load. -/
  | vlds (x : VMemF)
  /-- `VLDL` (R211): Loads elements from their lanes' private slices. -/
  | vldl (x : VMemLF)
  /-- `VST` (R209): Unit-stride vector store. -/
  | vst (x : VMemF)
  /-- `VSTB` (R209): Bit-offset store of sub-byte types. -/
  | vstb (x : VMemBF)
  /-- `VSTS` (R209): Strided vector store. -/
  | vsts (x : VMemF)
  /-- `VSTL` (R211): Stores elements into their lanes' private slices. -/
  | vstl (x : VMemLF)
  /-- `VGATHER` (R213): Indexed vector load. -/
  | vgather (x : VIdxF)
  /-- `VSCATTER` (R213): Indexed vector store. -/
  | vscatter (x : VIdxF)
  /-- `VGATHERC` (R214): Indexed load from cluster memory by packets. -/
  | vgatherc (x : VIdxF)
  /-- `VSCATTERC` (R214): Indexed store into cluster memory by packets. -/
  | vscatterc (x : VIdxF)
  /-- `VAMOADD` (R215): Vector atomic integer add at home. -/
  | vamoadd (x : VMemF)
  /-- `VAMOFADD` (R215): Vector atomic FP32 add at home. -/
  | vamofadd (x : VMemF)
  /-- `VAMOMIN` (R215): Vector atomic minimum at home. -/
  | vamomin (x : VMemF)
  /-- `VAMOMAX` (R215): Vector atomic maximum at home. -/
  | vamomax (x : VMemF)
  /-- `AWIN` (R218): Opens an accumulation window and zeroes every lane's copy. -/
  | awin (x : WinF)
  /-- `AADD` (R219): Adds values into lanes' window copies at indexed elements. -/
  | aadd (x : VMemLF)
  /-- `AMERGE` (R220): Folds the lane copies into memory in lane order, line by line. -/
  | amerge (x : Win0F)
  /-- `ACLR` (R220): Zeroes every copy and closes the window without merging. -/
  | aclr (x : Win0F)
  /-- `CPY` (R226): Copies rows on a channel to the destination. -/
  | cpy (x : CpyF)
  /-- `CPYM` (R227): Copies rows on a channel to the pads of the masked cores of the cluster. -/
  | cpym (x : CpyF)
  /-- `CPYKV` (R232): Copies K or V rows from KV space on a channel. -/
  | cpykv (x : CpyF)
  /-- `XRED` (R233): Contributes rows to a collective reduction round and receives the result. -/
  | xred (x : XredF)
  /-- `CPWAIT` (R234): Waits until a channel's write pointer reaches a count, then acquires. -/
  | cpwait (x : CpwF)
  /-- `COPY_ISSUE` (R221): A copy at the head of the queue is issued to its channel once the channel
      has room. -/
  | copyIssue (core : Nat)
  /-- `COPY_ROW_DELIVERY` (R226): A channel checks, reads and delivers one row to every target and
      advances their write pointers. -/
  | copyRowDelivery (core : Nat) (ch : Nat)
  /-- `XRED_ROUND_COMPLETE` (R233): The collective engine completes a round and delivers the
      reduction to every member. -/
  | xredRoundComplete (round : Nat)
  /-- `MATT` (R280): Requests row groups of the cluster's MXE. -/
  | matt (x : GrpF)
  /-- `MDET` (R291): Releases the grant, or raises dirty-detach. -/
  | mdet (x : DetF)
  /-- `MCLAIM` (R284): Claims and zeroes an operand slot. -/
  | mclaim (x : SlotF)
  /-- `MREL` (R292): Frees an owned slot after the MMAs that read it. -/
  | mrel (x : SlotF)
  /-- `MZERO` (R292): Zeroes an accumulator tile. -/
  | mzero (x : AccF)
  /-- `MSTAT` (R292): Returns the free and held groups and the owned slot count. -/
  | mstat (x : R1T4)
  /-- `MLD` (R294): Fills slot rows from memory. -/
  | mld (x : SlotMF)
  /-- `MLDF` (R294): First-fault fill of slot rows from memory. -/
  | mldf (x : SlotMF)
  /-- `MLDT` (R295): Transposed slot fill through the crust stride-gather unit. -/
  | mldt (x : SlotMF)
  /-- `MSLOTW` (R296): Copies vector rows into slot rows. -/
  | mslotw (x : SlotMF)
  /-- `MSLOTR` (R296): Copies slot rows into vector rows. -/
  | mslotr (x : SlotRF)
  /-- `MMA` (R287): Adds A × B into a tile, block by block. -/
  | mma (x : MmaF)
  /-- `MMAZ` (R287): Writes A × B into a tile. -/
  | mmaz (x : MmaF)
  /-- `MMAN` (R287): Subtracts A × B from a tile. -/
  | mman (x : MmaF)
  /-- `MDRAIN` (R299): Rounds accumulator values into a vector register. -/
  | mdrain (x : DrnF)
  /-- `MACCST` (R300): Stores a tile to memory. -/
  | maccst (x : AccMF)
  /-- `MACCLD` (R300): Loads a tile from memory. -/
  | maccld (x : AccMF)
  /-- `GSPEC` (R121): Releases, then swaps SCX with a new speculation id. -/
  | gspec (x : R2T2)
  /-- `GCOMMIT` (R122): Makes the current id's speculative lines permanent over a range, page by
      page. -/
  | gcommit (x : R3T2)
  /-- `GDISCARD` (R122): Drops the current id's speculative lines over a range and shrinks the
      chunks. -/
  | gdiscard (x : R3T2)
  /-- `GFLATTEN` (R125): Merges a page's glaze into a new base frame. -/
  | gflatten (x : R3T2)
  /-- `GPOOL_DONATE` (R126): Appends donated chunks to a glaze free list. -/
  | gpoolDonate (x : R3T2)
  /-- `GPOOL_DROP` (R126): Empties a glaze free list and returns its count. -/
  | gpoolDrop (x : R3T2)
  /-- `GPOOL_QUERY` (R126): Returns the count of a glaze free list. -/
  | gpoolQuery (x : R3T2)
  /-- `GQUERY` (R127): Reads a span field at the home glaze unit. -/
  | gquery (x : R3T2)
  /-- `VERST` (R148): Releases, then writes a numbered version of a line. -/
  | verst (x : VerF)
  /-- `VERLD` (R149): Waits until a version read is answerable, then reads it. -/
  | verld (x : VerF)
  /-- `VERLDN` (R149): Reads the newest version at or below v without waiting. -/
  | verldn (x : VerF)
  /-- `VFLOOR` (R139): Raises the region's floor and seal at every home. -/
  | vfloor (x : R3T4)
  /-- `VSEAL` (R139): Raises the region's seal at every home. -/
  | vseal (x : R3T4)
  /-- `VERQ` (R150): Returns the newest version number of a line. -/
  | verq (x : R2T4)
  /-- `VERSION_RECLAIM` (R136): A reclaimed version's link record and slot are returned lazily to
      their pools. -/
  | versionReclaim (region : Nat) (head : Nat) (base : Nat)
  /-- `VVERST` (R153): Writes vector rows as versions, line by line. -/
  | vverst (x : VVerF)
  /-- `VVERLD` (R153): Waits until the lines are answerable, then loads versions into vector rows. -/
  | vverld (x : VVerF)
  /-- `KVAPP` (R170): Appends K and V rows at positions at or beyond LEN, rotating K. -/
  | kvapp (x : KvappF)
  /-- `KVLDK` (R169): Loads K rows from KV space. -/
  | kvldk (x : VMemLF)
  /-- `KVLDV` (R169): Loads V rows from KV space. -/
  | kvldv (x : VMemLF)
  /-- `KVMOVE` (R171): Compacts accepted positions of one layer and head. -/
  | kvmove (x : KvmoveF)
  /-- `KVLEN_READ` (R172): Reads LEN of a sequence as an acquire. -/
  | kvlenRead (x : R2T4)
  /-- `KVLEN_SET` (R172): Releases, then sets LEN of a sequence. -/
  | kvlenSet (x : R3T4)
  /-- `KVINV_SEQUENCE` (R173): Mode 0: removes walker-cache items of one sequence on every die. -/
  | kvinvSequence (x : RabT4)
  /-- `KVINV_ALL` (R173): Modes 1 to 3: remove every walker-cache item. -/
  | kvinvAll (x : RabT4)
  /-- `NADD` (R191): Sends rows to be added into memory at indexed rows by the crust. -/
  | nadd (x : NaddF)
  /-- `NFENCE` (R192): Waits for earlier crust commands and returns the deferred-failure count. -/
  | nfence (x : R1T4)
  /-- `NROWCPY` (R193): Copies lines in memory through the crust. -/
  | nrowcpy (x : NcpyF)
  /-- `NZERO` (R193): Zeroes lines in memory through the crust. -/
  | nzero (x : NzeroF)
  /-- `NGATHER` (R194): Gathers strided elements into column order through the crust. -/
  | ngather (x : NgatherF)
  /-- `NOPT` (R195): Applies an SGD-with-momentum step to FP32 weights in the crust. -/
  | nopt (x : NoptF)
  /-- `NSTAT_READ` (R196): Returns a crust statistic or a stride-pattern entry. -/
  | nstatRead (x : R3T4)
  /-- `NSTAT_PATTERN_WRITE` (R196): Returns and, in supervisor mode, replaces a stride-pattern
      entry. -/
  | nstatPatternWrite (x : R3T4)
  /-- `CRUST_ITEM` (R186): A crust locks, reads and writes the lines of one item at their home in
      one event. -/
  | crustItem (stack : Nat)
  /-- `COMMIT` (R306): A write leaves its core for its home, carrying the join of DVC and CK. -/
  | commit (core : Nat)
  /-- `PERFORM` (R306): A write performs at its home, is stamped, and sends updates to every other
      die. -/
  | perform (n : Nat)
  /-- `APPLY` (R306): A die applies an update in causal order to its guest copy. -/
  | apply (die : Nat) (n : Nat)
  /-- `READ_AT_DIE` (R306): A scalar load is answered from the store buffer, the L1 or a current die
      copy. -/
  | readAtDie (core : Nat)
  /-- `READ_AT_HOME` (R306): A read is answered from the home copy. -/
  | readAtHome (core : Nat)
  /-- `INSTALL_FILL` (R306): A recorded fill installs a guest copy once the die's clock matches. -/
  | installFill (n : Nat)
  /-- `TRAP_ENTRY` (R365): A late fault from a queue entry or copy drains, holds entries and enters
      the handler. -/
  | trapEntry (core : Nat)
  /-- `PRE_EMPTION_REQUEST` (R374): Interrupt code 0 arrives and is taken, or stays pending. -/
  | preEmptionRequest (core : Nat) (reclaim : Bool)
  /-- `MANAGEMENT_MESSAGE` (R367): Interrupt code 1 from the management controller arrives and is
      taken, or stays pending. -/
  | managementMessage (core : Nat)
  /-- `BUDGET_EXCEEDED` (R355): BUDGET.LEFT reaches 0 and the task is failed without a handler. -/
  | budgetExceeded (core : Nat)
  /-- `HOST_QUEUE_SERVE` (R346): The device takes the next servable start record and accepts,
      rejects, cancels or holds it. -/
  | hostQueueServe
  /-- `QUEUE_AGING` (R346): A servable head waiting more than 1 ms sets AGED. -/
  | queueAging (queue : Nat)
  /-- `SHARE_GRANT` (R348): The lane allocator grants a share once a die can grant MIN cores, and
      initialises the launch. -/
  | shareGrant (die : Nat)
  /-- `STREAM_EVICTION` (R356): An idle resident stream reaching its threshold is copied out to
      SAVE. -/
  | streamEviction (stream : Nat)
  /-- `TASK_START` (R351): An idle core pops or steals a record or loop strip and starts it. -/
  | taskStart (core : Nat)
  /-- `FABRIC_ACCESS_TIMEOUT` (R390): A fabric access unacknowledged for 1 ms fails with
      fabric-timeout. -/
  | fabricAccessTimeout (n : Nat)
  /-- `COLLECTIVE_ROUND_TIMEOUT` (R391): A round incomplete within its timeout fails with
      fabric-timeout and delivers nothing. -/
  | collectiveRoundTimeout (round : Nat)
  /-- `COLLECTIVE_GROUP_REGISTER` (R391): The host registers a collective group through the
      management mailbox. -/
  | collectiveGroupRegister (g : CollGroup)
  /-- `HOST_CXL_MEM_ACCESS` (R319): A host CXL.mem access performs at its home as a SYSTEM agent,
      back-invalidating device copies. -/
  | hostCxlMemAccess (x : BusAccess)
  /-- `PTM_EXCHANGE` (R388): Every 10 ms a PTM exchange steers DTIME toward host time. -/
  | ptmExchange (hostTime : Word)
  /-- `LOSS_OF_LOCK` (R388): After 1 s of failed exchanges DTIME runs free and the host is told. -/
  | lossOfLock
  /-- `POWER_GOOD` (R392): Bring-up proceeds through ROM verification, link and stack training,
      cluster release and the wipe. -/
  | powerGood
  /-- `BRING_UP_CONFIG` (R392): The host supplies C, G, SBASE and the device number, which firmware
      fixes. -/
  | bringUpConfig (cfg : BringUp)
  /-- `RESET` (R393): Wipes every SRAM, all HBM4E, the keys and the counters. -/
  | reset
  /-- `FIRMWARE_IMAGE_LOAD` (R394): In recovery, a new image is accepted, verified and followed by a
      reset. -/
  | firmwareImageLoad (img : FirmwareImage)
  /-- `SEAL_KEY_LOAD` (R395): A seal key is loaded for one key id inside an SPDM session. -/
  | sealKeyLoad (k : SealKey)
  /-- `LIFE_CYCLE_TRANSITION` (R396): A signed host request moves the life-cycle state and wipes the
      device. -/
  | lifeCycleTransition (t : LifeCycleReq)
  /-- `POWER_CAP_SET` (R397): The host lowers or raises the package power cap. -/
  | powerCapSet (watts : Nat)
  /-- `CLOCK_STEP` (R397): Over each 1 ms window the controller steps the arithmetic clock to meet
      the cap. -/
  | clockStep (load : PowerLoad)
  /-- `DRAM_ERROR` (R183): An error arises in the HBM4E data of a line; the crust corrects and
      counts it, or it stays uncorrectable until its consumer reads it. -/
  | dramError (e : DramErr)
  /-- `POWER_OFF` (R393): Loss of supply to the package, after which no state survives until the
      next power-good. -/
  | powerOff
  /-- `REMOTE_FABRIC_ACCESS` (R319): A load, store or AMO from another device of the load-store
      domain arrives over the fabric and performs at this device's home with C := 0. -/
  | remoteFabricAccess (x : BusAccess)
  /-- `ATTESTATION_REQUEST` (R395): An SPDM identity or measurement request over CXL DOE is answered
      with the device's RSA-3072 identity and its SHA-256 measurements. -/
  | attestationRequest (r : AttestReq)
  deriving DecidableEq, Repr

end Sys2Proof
end

