-- ==== Sys2Proof/WellFormed.lean ====
section
/-! DEFINITION. Well-formed instructions: the operand values the encoding rules admit. -/
namespace Sys2Proof


/-- Type set of the entries of R265. -/
def tyVint : List Ty := [.i8, .n8, .i16, .n16, .i32, .n32, .i64, .n64]
/-- Type set of the entries of R267. -/
def tyVfp : List Ty := [.fp32, .bf16, .fp16]
/-- Type set of the entries of R206, R212, R273. -/
def tyPlain : List Ty := [.i8, .n8, .i16, .n16, .i32, .n32, .i64, .n64, .fp32, .bf16, .fp16, .e4m3, .e5m2]
/-- Type set of the entries of R206. -/
def tyLoad : List Ty := [.i8, .n8, .i16, .n16, .i32, .n32, .i64, .n64, .fp32, .bf16, .fp16, .e4m3, .e5m2, .e3m2, .e2m3, .e2m1, .q4n, .i4, .b24, .desc]
/-- Type set of the entries of R206, R256. -/
def tyAll : List Ty := [.i8, .n8, .i16, .n16, .i32, .n32, .i64, .n64, .fp32, .bf16, .fp16, .e4m3, .e5m2, .e3m2, .e2m3, .e2m1, .q4n, .i4, .b24]
/-- Type set of the entries of R75, R256. -/
def tyNoB24 : List Ty := [.i8, .n8, .i16, .n16, .i32, .n32, .i64, .n64, .fp32, .bf16, .fp16, .e4m3, .e5m2, .e3m2, .e2m3, .e2m1, .q4n, .i4]
/-- Type set of the entries of R206. -/
def tySub : List Ty := [.e3m2, .e2m3, .e2m1, .q4n, .i4]
/-- Type set of the entries of R206. -/
def tyStride : List Ty := [.i8, .n8, .i16, .n16, .i32, .n32, .i64, .n64, .fp32, .bf16, .fp16, .e4m3, .e5m2, .b24]
/-- Type set of the entries of R215. -/
def tyAmoInt : List Ty := [.i32, .n32, .i64, .n64]
/-- Type set of the entries of R215, R275. -/
def tyFp32 : List Ty := [.fp32]
/-- Type set of the entries of R217. -/
def tyWin : List Ty := [.i32, .i64, .fp32]
/-- Type set of the entries of R217, R75, R189. -/
def tyZero : List Ty := [.i8]
/-- Type set of the entries of R75. -/
def tySmall : List Ty := [.e4m3, .e5m2, .e3m2, .e2m3, .e2m1]
/-- Type set of the entries of R75. -/
def tyB24 : List Ty := [.b24]
/-- Type set of the entries of R270. -/
def tyRed : List Ty := [.i8, .n8, .i16, .n16, .i32, .n32, .i64, .n64, .fp32, .bf16, .fp16]
/-- Type set of the entries of R275, R166. -/
def tyN32 : List Ty := [.n32]
/-- Type set of the entries of R224. -/
def tyXred : List Ty := [.i32, .fp32, .bf16]
/-- Type set of the entries of R298. -/
def tyDrain : List Ty := [.fp32, .bf16]
/-- Type set of the entries of R151. -/
def tyVer : List Ty := [.i8, .n8, .i16, .n16, .i32, .n32, .i64, .n64, .fp32, .bf16, .fp16, .e4m3, .e5m2, .e2m1, .q4n, .i4]
/-- Type set of the entries of R166. -/
def tyKv : List Ty := [.fp32, .bf16, .fp16, .e4m3, .e5m2]
/-- Type set of the entries of R190. -/
def tyNadd : List Ty := [.i32, .fp32]

/-- The floating-point types whose sums round (R267, R270). -/
def Ty.isFp : Ty → Bool
  | .fp32 | .bf16 | .fp16 => true
  | _ => false

/-- A 32-bit shift takes I16[4:0] (R21). -/
def AluSF.wf (x : AluSF) : Bool := !(x.w32 && x.sh.getLsbD 5)

/-- VREDSUM rounds floating-point types only (R270). -/
def RedF.wf (x : RedF) : Bool := x.ty.isFp || x.rm == .frm

/-- A FENCE names at least one of acquire and release (R314). -/
def FenceF.wf (x : FenceF) : Bool := x.acq || x.rel

/-- MATT takes 1 to 4 row groups (R21). -/
def GrpF.wf (x : GrpF) : Bool := decide (1 ≤ x.groups.toNat) && decide (x.groups.toNat ≤ 4)

/-- The bit offsets of R206: 0 or 4 for 4-bit types, 0, 2, 4 or 6 for 6-bit types. -/
def VMemBF.wf (x : VMemBF) : Bool :=
  match x.ty with
  | .e3m2 | .e2m3 => !x.bitoff.getLsbD 0
  | _ => x.bitoff == 0#3 || x.bitoff == 4#3

/-- A BF16 drain has no column half (R298). -/
def DrnF.wf (x : DrnF) : Bool := !(x.ty == .bf16 && x.half)


/-- Which instructions the encoding rules admit (R21, R23 cases 7 to 9): the operand fields that a type does
not already bound. Events carry no encoding and are all admitted. -/
def Instr.wf : Instr → Bool
  | .nop => true
  | .add _ => true
  | .sub _ => true
  | .and _ => true
  | .or _ => true
  | .xor _ => true
  | .shl _ => true
  | .shr _ => true
  | .sra _ => true
  | .mul _ => true
  | .mulh _ => true
  | .mulhu _ => true
  | .div _ => true
  | .divu _ => true
  | .rem _ => true
  | .remu _ => true
  | .min _ => true
  | .max _ => true
  | .minu _ => true
  | .maxu _ => true
  | .slt _ => true
  | .sltu _ => true
  | .seq _ => true
  | .clz _ => true
  | .ctz _ => true
  | .popc _ => true
  | .addi _ => true
  | .andi _ => true
  | .ori _ => true
  | .xori _ => true
  | .shli x => x.wf
  | .shri x => x.wf
  | .srai x => x.wf
  | .slti _ => true
  | .sltui _ => true
  | .li _ => true
  | .lih _ => true
  | .fadd _ => true
  | .fsub _ => true
  | .fmul _ => true
  | .fdiv _ => true
  | .fsqrt _ => true
  | .fmin _ => true
  | .fmax _ => true
  | .feq _ => true
  | .flt _ => true
  | .fle _ => true
  | .fcvtif _ => true
  | .fcvtfi _ => true
  | .fclass _ => true
  | .ffma _ => true
  | .ffms _ => true
  | .fnfma _ => true
  | .beq _ => true
  | .bne _ => true
  | .blt _ => true
  | .bge _ => true
  | .bltu _ => true
  | .bgeu _ => true
  | .jal _ => true
  | .jalr _ => true
  | .lb _ => true
  | .lbu _ => true
  | .lh _ => true
  | .lhu _ => true
  | .lw _ => true
  | .lwu _ => true
  | .ld _ => true
  | .sb _ => true
  | .sh _ => true
  | .sw _ => true
  | .sd _ => true
  | .amoadd _ => true
  | .amoswap _ => true
  | .amoand _ => true
  | .amoor _ => true
  | .amoxor _ => true
  | .amomin _ => true
  | .amomax _ => true
  | .amominu _ => true
  | .amomaxu _ => true
  | .amofadd _ => true
  | .amocas _ => true
  | .ldaW _ => true
  | .ldaD _ => true
  | .stlW _ => true
  | .stlD _ => true
  | .fence x => x.wf
  | .fenceSv => true
  | .fenceVs => true
  | .cflush _ => true
  | .cinv _ => true
  | .cpref _ => true
  | .cdrop _ => true
  | .waitne _ => true
  | .waiteq _ => true
  | .waitaReread _ => true
  | .waitaTimeout _ => true
  | .csrr _ => true
  | .csrw _ => true
  | .csrs _ => true
  | .csrc _ => true
  | .cpwpWrite _ => true
  | .trap _ => true
  | .eret => true
  | .resume _ => true
  | .tlbinvAddress _ => true
  | .tlbinvAsid _ => true
  | .tlbinvAll _ => true
  | .wfi => true
  | .ctxsave _ => true
  | .ctxrest _ => true
  | .vqsave _ => true
  | .vqrest _ => true
  | .spawn _ => true
  | .spawng _ => true
  | .spawnl _ => true
  | .join _ => true
  | .joinPushRetry _ => true
  | .yield _ => true
  | .endTask => true
  | .lvcancel _ => true
  | .lvquery _ => true
  | .barinit _ => true
  | .barinitUnregister _ => true
  | .bararr _ => true
  | .barwait _ => true
  | .barkill _ => true
  | .post _ => true
  | .postArrival _ _ => true
  | .waiti _ => true
  | .setlen x => tyAll.contains x.ty
  | .vshape _ => true
  | .vmovx x => tyAll.contains x.ty
  | .vmovv x => tyNoB24.contains x.ty
  | .setlenf _ => true
  | .kand _ => true
  | .kor _ => true
  | .kxor _ => true
  | .kandn _ => true
  | .knot _ => true
  | .kpop _ => true
  | .kfirst _ => true
  | .kset _ => true
  | .vadd x => tyVint.contains x.ty
  | .vsub x => tyVint.contains x.ty
  | .vmul x => tyVint.contains x.ty
  | .vmulh x => tyVint.contains x.ty
  | .vand x => tyVint.contains x.ty
  | .vor x => tyVint.contains x.ty
  | .vxor x => tyVint.contains x.ty
  | .vshl x => tyVint.contains x.ty
  | .vshr x => tyVint.contains x.ty
  | .vsra x => tyVint.contains x.ty
  | .vmin x => tyVint.contains x.ty
  | .vmax x => tyVint.contains x.ty
  | .vabs x => tyVint.contains x.ty
  | .vneg x => tyVint.contains x.ty
  | .vcmpeq x => tyVint.contains x.ty
  | .vcmplt x => tyVint.contains x.ty
  | .vcmple x => tyVint.contains x.ty
  | .vsel x => tyVint.contains x.ty
  | .viota x => tyVint.contains x.ty
  | .vaddScalar x => tyVint.contains x.ty
  | .vsubScalar x => tyVint.contains x.ty
  | .vmulScalar x => tyVint.contains x.ty
  | .vmulhScalar x => tyVint.contains x.ty
  | .vandScalar x => tyVint.contains x.ty
  | .vorScalar x => tyVint.contains x.ty
  | .vxorScalar x => tyVint.contains x.ty
  | .vshlScalar x => tyVint.contains x.ty
  | .vshrScalar x => tyVint.contains x.ty
  | .vsraScalar x => tyVint.contains x.ty
  | .vminScalar x => tyVint.contains x.ty
  | .vmaxScalar x => tyVint.contains x.ty
  | .vabsScalar x => tyVint.contains x.ty
  | .vnegScalar x => tyVint.contains x.ty
  | .vcmpeqScalar x => tyVint.contains x.ty
  | .vcmpltScalar x => tyVint.contains x.ty
  | .vcmpleScalar x => tyVint.contains x.ty
  | .vselScalar x => tyVint.contains x.ty
  | .viotaScalar x => tyVint.contains x.ty
  | .vfadd x => tyVfp.contains x.ty
  | .vfsub x => tyVfp.contains x.ty
  | .vfmul x => tyVfp.contains x.ty
  | .vfdiv x => tyVfp.contains x.ty
  | .vfsqrt x => tyVfp.contains x.ty
  | .vfmin x => tyVfp.contains x.ty
  | .vfmax x => tyVfp.contains x.ty
  | .vfabs x => tyVfp.contains x.ty
  | .vfneg x => tyVfp.contains x.ty
  | .vfcmpeq x => tyVfp.contains x.ty
  | .vfcmplt x => tyVfp.contains x.ty
  | .vfcmple x => tyVfp.contains x.ty
  | .vfrcp x => tyVfp.contains x.ty
  | .vfrsq x => tyVfp.contains x.ty
  | .vfexp2 x => tyVfp.contains x.ty
  | .vflog2 x => tyVfp.contains x.ty
  | .vfaddScalar x => tyVfp.contains x.ty
  | .vfsubScalar x => tyVfp.contains x.ty
  | .vfmulScalar x => tyVfp.contains x.ty
  | .vfdivScalar x => tyVfp.contains x.ty
  | .vfsqrtScalar x => tyVfp.contains x.ty
  | .vfminScalar x => tyVfp.contains x.ty
  | .vfmaxScalar x => tyVfp.contains x.ty
  | .vfabsScalar x => tyVfp.contains x.ty
  | .vfnegScalar x => tyVfp.contains x.ty
  | .vfcmpeqScalar x => tyVfp.contains x.ty
  | .vfcmpltScalar x => tyVfp.contains x.ty
  | .vfcmpleScalar x => tyVfp.contains x.ty
  | .vfrcpScalar x => tyVfp.contains x.ty
  | .vfrsqScalar x => tyVfp.contains x.ty
  | .vfexp2Scalar x => tyVfp.contains x.ty
  | .vflog2Scalar x => tyVfp.contains x.ty
  | .vfma x => tyVfp.contains x.ty
  | .vfms x => tyVfp.contains x.ty
  | .vfnma x => tyVfp.contains x.ty
  | .vcvt x => tyNoB24.contains x.ty
  | .vcvtd x => tyVfp.contains x.ty
  | .vqpack x => tySmall.contains x.ty
  | .vbacc x => tyB24.contains x.ty
  | .vbnorm x => tyFp32.contains x.ty
  | .vscale x => tyZero.contains x.ty
  | .vredsum x => tyRed.contains x.ty && x.wf
  | .vredmax x => tyRed.contains x.ty
  | .vredmin x => tyRed.contains x.ty
  | .vargmax x => tyRed.contains x.ty
  | .vargmin x => tyRed.contains x.ty
  | .vredand x => tyVint.contains x.ty
  | .vredor x => tyVint.contains x.ty
  | .vcompress x => tyPlain.contains x.ty
  | .vexpand x => tyPlain.contains x.ty
  | .vslideup x => tyPlain.contains x.ty
  | .vslidedn x => tyPlain.contains x.ty
  | .vtrans x => tyPlain.contains x.ty
  | .vpermc x => tyPlain.contains x.ty
  | .vbcast x => tyPlain.contains x.ty
  | .vsincos x => tyFp32.contains x.ty
  | .vgumbel x => tyFp32.contains x.ty
  | .vhash x => tyN32.contains x.ty
  | .vld x => tyLoad.contains x.ty
  | .vldf x => tyLoad.contains x.ty
  | .vldb x => tySub.contains x.ty && x.wf
  | .vlds x => tyStride.contains x.ty
  | .vldl x => tyAll.contains x.ty
  | .vst x => tyAll.contains x.ty
  | .vstb x => tySub.contains x.ty && x.wf
  | .vsts x => tyStride.contains x.ty
  | .vstl x => tyAll.contains x.ty
  | .vgather x => tyPlain.contains x.ty
  | .vscatter x => tyPlain.contains x.ty
  | .vgatherc x => tyPlain.contains x.ty
  | .vscatterc x => tyPlain.contains x.ty
  | .vamoadd x => tyAmoInt.contains x.ty
  | .vamofadd x => tyFp32.contains x.ty
  | .vamomin x => tyAmoInt.contains x.ty
  | .vamomax x => tyAmoInt.contains x.ty
  | .awin x => tyWin.contains x.ty
  | .aadd x => tyWin.contains x.ty
  | .amerge x => tyZero.contains x.ty
  | .aclr x => tyZero.contains x.ty
  | .cpy _ => true
  | .cpym _ => true
  | .cpykv _ => true
  | .xred x => tyXred.contains x.ty
  | .cpwait _ => true
  | .copyIssue _ => true
  | .copyRowDelivery _ _ => true
  | .xredRoundComplete _ => true
  | .matt x => x.wf
  | .mdet _ => true
  | .mclaim _ => true
  | .mrel _ => true
  | .mzero _ => true
  | .mstat _ => true
  | .mld x => tyLoad.contains x.ty
  | .mldf x => tyLoad.contains x.ty
  | .mldt x => tyPlain.contains x.ty
  | .mslotw x => tyAll.contains x.ty
  | .mslotr _ => true
  | .mma _ => true
  | .mmaz _ => true
  | .mman _ => true
  | .mdrain x => tyDrain.contains x.ty && x.wf
  | .maccst _ => true
  | .maccld _ => true
  | .gspec _ => true
  | .gcommit _ => true
  | .gdiscard _ => true
  | .gflatten _ => true
  | .gpoolDonate _ => true
  | .gpoolDrop _ => true
  | .gpoolQuery _ => true
  | .gquery _ => true
  | .verst _ => true
  | .verld _ => true
  | .verldn _ => true
  | .vfloor _ => true
  | .vseal _ => true
  | .verq _ => true
  | .versionReclaim _ _ _ => true
  | .vverst x => tyVer.contains x.ty
  | .vverld x => tyVer.contains x.ty
  | .kvapp x => tyKv.contains x.ty
  | .kvldk x => tyKv.contains x.ty
  | .kvldv x => tyKv.contains x.ty
  | .kvmove x => tyN32.contains x.ty
  | .kvlenRead _ => true
  | .kvlenSet _ => true
  | .kvinvSequence _ => true
  | .kvinvAll _ => true
  | .nadd x => tyNadd.contains x.ty
  | .nfence _ => true
  | .nrowcpy x => tyZero.contains x.ty
  | .nzero x => tyZero.contains x.ty
  | .ngather x => tyZero.contains x.ty
  | .nopt x => tyFp32.contains x.ty
  | .nstatRead _ => true
  | .nstatPatternWrite _ => true
  | .crustItem _ => true
  | .commit _ => true
  | .perform _ => true
  | .apply _ _ => true
  | .readAtDie _ => true
  | .readAtHome _ => true
  | .installFill _ => true
  | .trapEntry _ => true
  | .preEmptionRequest _ _ => true
  | .managementMessage _ => true
  | .budgetExceeded _ => true
  | .hostQueueServe => true
  | .queueAging _ => true
  | .shareGrant _ => true
  | .streamEviction _ => true
  | .taskStart _ => true
  | .fabricAccessTimeout _ => true
  | .collectiveRoundTimeout _ => true
  | .collectiveGroupRegister _ => true
  | .hostCxlMemAccess _ => true
  | .ptmExchange _ => true
  | .lossOfLock => true
  | .powerGood => true
  | .bringUpConfig _ => true
  | .reset => true
  | .firmwareImageLoad _ => true
  | .sealKeyLoad _ => true
  | .lifeCycleTransition _ => true
  | .powerCapSet _ => true
  | .clockStep _ => true
  | .dramError _ => true
  | .powerOff => true
  | .remoteFabricAccess _ => true
  | .attestationRequest _ => true

end Sys2Proof
end

