-- ==== Sys2Proof/Decode.lean ====
section
/-! DEFINITION. Decoding of heads and tails (R18 to R23), and the encoder written from the same tables. -/
namespace Sys2Proof

/-- The tail a head announces in TL (R18). -/
inductive Tail where
  | none | t2 | t4 | t8
  deriving DecidableEq, Repr

/-- The fields of a head and its tail (R18, R19). `imm` is I16 or I48, zero-extended. -/
structure Raw where
  tl : Tail
  op : BitVec 7
  d : BitVec 5
  k : BitVec 2
  a : BitVec 5
  b : BitVec 5
  f : BitVec 6
  imm : BitVec 48
  deriving DecidableEq, Repr

/-- Bits [hi:lo] of the immediate. -/
def Raw.fld (r : Raw) (hi lo : Nat) : BitVec (hi - lo + 1) := r.imm.extractLsb' lo (hi - lo + 1)

/-- Bit i of the immediate. -/
def Raw.bit (r : Raw) (i : Nat) : Bool := r.imm.getLsbD i

/-- The type of a type code (R55); codes 21 to 31 are reserved. -/
def tyOf (c : BitVec 5) : Option Ty :=
  match c.toNat with
  | 0 => some .i8 | 1 => some .n8 | 2 => some .i16 | 3 => some .n16 | 4 => some .i32 | 5 => some .n32
  | 6 => some .i64 | 7 => some .n64 | 8 => some .fp32 | 9 => some .bf16 | 10 => some .fp16
  | 11 => some .e4m3 | 12 => some .e5m2 | 13 => some .e3m2 | 14 => some .e2m3 | 15 => some .e2m1
  | 16 => some .q4n | 17 => some .i4 | 18 => some .b24 | 19 => some .a36 | 20 => some .desc
  | _ => none

/-- The code of a type (R55). -/
def tyCode : Ty → BitVec 5
  | .i8 => 0 | .n8 => 1 | .i16 => 2 | .n16 => 3 | .i32 => 4 | .n32 => 5 | .i64 => 6 | .n64 => 7
  | .fp32 => 8 | .bf16 => 9 | .fp16 => 10 | .e4m3 => 11 | .e5m2 => 12 | .e3m2 => 13 | .e2m3 => 14
  | .e2m1 => 15 | .q4n => 16 | .i4 => 17 | .b24 => 18 | .a36 => 19 | .desc => 20

/-- The rounding field (R20, R21). -/
def rmOf (c : BitVec 2) : Rm :=
  match c.toNat with
  | 0 => .frm | 1 => .rne | 2 => .rtz | _ => .rdn

/-- The code of a rounding field. -/
def rmCode : Rm → BitVec 2
  | .frm => 0 | .rne => 1 | .rtz => 2 | .rdn => 3

/-- The scope field (R21); 5 to 7 are reserved. -/
def scopeOf (c : BitVec 3) : Option Scope :=
  match c.toNat with
  | 0 => some .core | 1 => some .cluster | 2 => some .die | 3 => some .device | 4 => some .system
  | _ => none

/-- The code of a scope. -/
def scopeCode : Scope → BitVec 3
  | .core => 0 | .cluster => 1 | .die => 2 | .device => 3 | .system => 4

/-- The scope of FENCE, held in the A field (R314); values above 4 are reserved. -/
def scopeOfReg (a : BitVec 5) : Option Scope :=
  if a.toNat ≤ 4 then scopeOf (a.extractLsb' 0 3) else none

/-- The XRED operation (R21); 3 to 15 are reserved. -/
def xredOpOf (c : BitVec 4) : Option XredOp :=
  match c.toNat with
  | 0 => some .sum | 1 => some .max | 2 => some .min | _ => none

/-- The code of an XRED operation. -/
def xredOpCode : XredOp → BitVec 4
  | .sum => 0 | .max => 1 | .min => 2

/-- The CSR of a number (R241); every other number is reserved. -/
def csrOf (c : BitVec 12) : Option Csr :=
  match c.toNat with
  | 0x000 => some .flags | 0x001 => some .frm | 0x002 => some .vshape | 0x003 => some .nr | 0x004 => some .nc
  | 0x005 => some .vstart | 0x006 => some .vqstat | 0x007 => some .ffnr | 0x010 => some .scx
  | 0x011 => some .verstat | 0x012 => some .mgrant | 0x013 => some .kvroot | 0x014 => some .cpwp0
  | 0x015 => some .cpwp1 | 0x016 => some .cpwp2 | 0x017 => some .cpwp3 | 0x020 => some .taskrec
  | 0x021 => some .launch | 0x022 => some .budget | 0x023 => some .paduse | 0x030 => some .dtime
  | 0x031 => some .cycle | 0x100 => some .cause | 0x101 => some .eia | 0x102 => some .eva | 0x103 => some .ekv
  | 0x104 => some .eaux | 0x105 => some .tvec | 0x106 => some .sstat | 0x107 => some .asid | 0x108 => some .ptroot
  | _ => none

/-- The number of a CSR (R241). -/
def csrCode : Csr → BitVec 12
  | .flags => 0x000 | .frm => 0x001 | .vshape => 0x002 | .nr => 0x003 | .nc => 0x004 | .vstart => 0x005
  | .vqstat => 0x006 | .ffnr => 0x007 | .scx => 0x010 | .verstat => 0x011 | .mgrant => 0x012 | .kvroot => 0x013
  | .cpwp0 => 0x014 | .cpwp1 => 0x015 | .cpwp2 => 0x016 | .cpwp3 => 0x017 | .taskrec => 0x020 | .launch => 0x021
  | .budget => 0x022 | .paduse => 0x023 | .dtime => 0x030 | .cycle => 0x031 | .cause => 0x100 | .eia => 0x101
  | .eva => 0x102 | .ekv => 0x103 | .eaux => 0x104 | .tvec => 0x105 | .sstat => 0x106 | .asid => 0x107
  | .ptroot => 0x108

/-- The write-pointer CSR of a channel (R222). -/
def cpwpCsr (ch : BitVec 2) : Csr :=
  match ch.toNat with
  | 0 => .cpwp0 | 1 => .cpwp1 | 2 => .cpwp2 | _ => .cpwp3


/-- Reads the layout R3T2 (R18 to R21). -/
def decR3T2 (mk : R3T2 → Instr) (r : Raw) : Except Nat Instr :=
  if r.k == 0#2 then
      .ok (mk { d := r.d, a := r.a, b := r.b })
    else .error 8

/-- Writes the layout R3T2 (R18 to R21). -/
def encR3T2 (op : BitVec 7) (f : BitVec 6) (x : R3T2) : Raw :=
  { tl := .t2, op := op, d := x.d, k := 0#2, a := x.a, b := x.b, f := f,
    imm := 0#48 }

/-- Reads the layout R2T2 (R18 to R21). -/
def decR2T2 (mk : R2T2 → Instr) (r : Raw) : Except Nat Instr :=
  if r.b == 0#5 then
    if r.k == 0#2 then
      .ok (mk { d := r.d, a := r.a })
    else .error 8
  else .error 7

/-- Writes the layout R2T2 (R18 to R21). -/
def encR2T2 (op : BitVec 7) (f : BitVec 6) (x : R2T2) : Raw :=
  { tl := .t2, op := op, d := x.d, k := 0#2, a := x.a, b := 0#5, f := f,
    imm := 0#48 }

/-- Reads the layout R1T2 (R18 to R21). -/
def decR1T2 (mk : R1T2 → Instr) (r : Raw) : Except Nat Instr :=
  if r.b == 0#5 && r.d == 0#5 then
    if r.k == 0#2 then
      .ok (mk { a := r.a })
    else .error 8
  else .error 7

/-- Writes the layout R1T2 (R18 to R21). -/
def encR1T2 (op : BitVec 7) (f : BitVec 6) (x : R1T2) : Raw :=
  { tl := .t2, op := op, d := 0#5, k := 0#2, a := x.a, b := 0#5, f := f,
    imm := 0#48 }

/-- Reads the layout RabT2 (R18 to R21). -/
def decRabT2 (mk : RabT2 → Instr) (r : Raw) : Except Nat Instr :=
  if r.d == 0#5 then
    if r.k == 0#2 then
      .ok (mk { a := r.a, b := r.b })
    else .error 8
  else .error 7

/-- Writes the layout RabT2 (R18 to R21). -/
def encRabT2 (op : BitVec 7) (f : BitVec 6) (x : RabT2) : Raw :=
  { tl := .t2, op := op, d := 0#5, k := 0#2, a := x.a, b := x.b, f := f,
    imm := 0#48 }

/-- Reads the layout AluF (R18 to R21). -/
def decAluF (mk : AluF → Instr) (r : Raw) : Except Nat Instr :=
  if r.k == 0#2 || r.k == 1#2 then
      .ok (mk { d := r.d, a := r.a, b := r.b, w32 := r.k == 1#2 })
    else .error 8

/-- Writes the layout AluF (R18 to R21). -/
def encAluF (op : BitVec 7) (f : BitVec 6) (x : AluF) : Raw :=
  { tl := .t2, op := op, d := x.d, k := (0#1 ++ BitVec.ofBool x.w32), a := x.a, b := x.b, f := f,
    imm := 0#48 }

/-- Reads the layout AluUF (R18 to R21). -/
def decAluUF (mk : AluUF → Instr) (r : Raw) : Except Nat Instr :=
  if r.b == 0#5 then
    if r.k == 0#2 || r.k == 1#2 then
      .ok (mk { d := r.d, a := r.a, w32 := r.k == 1#2 })
    else .error 8
  else .error 7

/-- Writes the layout AluUF (R18 to R21). -/
def encAluUF (op : BitVec 7) (f : BitVec 6) (x : AluUF) : Raw :=
  { tl := .t2, op := op, d := x.d, k := (0#1 ++ BitVec.ofBool x.w32), a := x.a, b := 0#5, f := f,
    imm := 0#48 }

/-- Reads the layout AluIF (R18 to R21). -/
def decAluIF (mk : AluIF → Instr) (r : Raw) : Except Nat Instr :=
  if r.b == 0#5 then
    if r.k == 0#2 || r.k == 1#2 then
      .ok (mk { d := r.d, a := r.a, w32 := r.k == 1#2, imm := r.fld 15 0 })
    else .error 8
  else .error 7

/-- Writes the layout AluIF (R18 to R21). -/
def encAluIF (op : BitVec 7) (f : BitVec 6) (x : AluIF) : Raw :=
  { tl := .t4, op := op, d := x.d, k := (0#1 ++ BitVec.ofBool x.w32), a := x.a, b := 0#5, f := f,
    imm := 0#32 ++ x.imm }

/-- Reads the layout AluSF (R18 to R21). -/
def decAluSF (mk : AluSF → Instr) (r : Raw) : Except Nat Instr :=
  if r.b == 0#5 && r.imm &&& 0xFFC0#48 == 0#48 && !(r.k == 1#2 && r.bit 5) then
    if r.k == 0#2 || r.k == 1#2 then
      .ok (mk { d := r.d, a := r.a, w32 := r.k == 1#2, sh := r.fld 5 0 })
    else .error 8
  else .error 7

/-- Writes the layout AluSF (R18 to R21). -/
def encAluSF (op : BitVec 7) (f : BitVec 6) (x : AluSF) : Raw :=
  { tl := .t4, op := op, d := x.d, k := (0#1 ++ BitVec.ofBool x.w32), a := x.a, b := 0#5, f := f,
    imm := 0#42 ++ x.sh }

/-- Reads the layout LiF (R18 to R21). -/
def decLiF (mk : LiF → Instr) (r : Raw) : Except Nat Instr :=
  if r.b == 0#5 && r.a == 0#5 then
    if r.k == 0#2 then
      .ok (mk { d := r.d, imm := r.fld 47 0 })
    else .error 8
  else .error 7

/-- Writes the layout LiF (R18 to R21). -/
def encLiF (op : BitVec 7) (f : BitVec 6) (x : LiF) : Raw :=
  { tl := .t8, op := op, d := x.d, k := 0#2, a := 0#5, b := 0#5, f := f,
    imm := x.imm }

/-- Reads the layout LihF (R18 to R21). -/
def decLihF (mk : LihF → Instr) (r : Raw) : Except Nat Instr :=
  if r.b == 0#5 && r.a == 0#5 && r.imm &&& 0xFFFFFFFF0000#48 == 0#48 then
    if r.k == 0#2 then
      .ok (mk { d := r.d, imm := r.fld 15 0 })
    else .error 8
  else .error 7

/-- Writes the layout LihF (R18 to R21). -/
def encLihF (op : BitVec 7) (f : BitVec 6) (x : LihF) : Raw :=
  { tl := .t8, op := op, d := x.d, k := 0#2, a := 0#5, b := 0#5, f := f,
    imm := 0#32 ++ x.imm }

/-- Reads the layout FpuF (R18 to R21). -/
def decFpuF (mk : FpuF → Instr) (r : Raw) : Except Nat Instr :=
  .ok (mk { d := r.d, a := r.a, b := r.b, rm := rmOf r.k })

/-- Writes the layout FpuF (R18 to R21). -/
def encFpuF (op : BitVec 7) (f : BitVec 6) (x : FpuF) : Raw :=
  { tl := .t2, op := op, d := x.d, k := (rmCode x.rm), a := x.a, b := x.b, f := f,
    imm := 0#48 }

/-- Reads the layout FpuUF (R18 to R21). -/
def decFpuUF (mk : FpuUF → Instr) (r : Raw) : Except Nat Instr :=
  if r.b == 0#5 then
    .ok (mk { d := r.d, a := r.a, rm := rmOf r.k })
  else .error 7

/-- Writes the layout FpuUF (R18 to R21). -/
def encFpuUF (op : BitVec 7) (f : BitVec 6) (x : FpuUF) : Raw :=
  { tl := .t2, op := op, d := x.d, k := (rmCode x.rm), a := x.a, b := 0#5, f := f,
    imm := 0#48 }

/-- Reads the layout FmaF (R18 to R21). -/
def decFmaF (mk : FmaF → Instr) (r : Raw) : Except Nat Instr :=
  if r.imm &&& 0x7FF#48 == 0#48 then
    .ok (mk { d := r.d, a := r.a, b := r.b, c := r.fld 15 11, rm := rmOf r.k })
  else .error 7

/-- Writes the layout FmaF (R18 to R21). -/
def encFmaF (op : BitVec 7) (f : BitVec 6) (x : FmaF) : Raw :=
  { tl := .t4, op := op, d := x.d, k := (rmCode x.rm), a := x.a, b := x.b, f := f,
    imm := 0#32 ++ x.c ++ 0#11 }

/-- Reads the layout BrF (R18 to R21). -/
def decBrF (mk : BrF → Instr) (r : Raw) : Except Nat Instr :=
  if r.d == 0#5 then
    if r.k == 0#2 then
      .ok (mk { a := r.a, b := r.b, delta := r.fld 15 5, slot := r.fld 4 0 })
    else .error 8
  else .error 7

/-- Writes the layout BrF (R18 to R21). -/
def encBrF (op : BitVec 7) (f : BitVec 6) (x : BrF) : Raw :=
  { tl := .t4, op := op, d := 0#5, k := 0#2, a := x.a, b := x.b, f := f,
    imm := 0#32 ++ x.delta ++ x.slot }

/-- Reads the layout JalF (R18 to R21). -/
def decJalF (mk : JalF → Instr) (r : Raw) : Except Nat Instr :=
  if r.b == 0#5 && r.a == 0#5 then
    if r.k == 0#2 then
      .ok (mk { d := r.d, delta := r.fld 47 5, slot := r.fld 4 0 })
    else .error 8
  else .error 7

/-- Writes the layout JalF (R18 to R21). -/
def encJalF (op : BitVec 7) (f : BitVec 6) (x : JalF) : Raw :=
  { tl := .t8, op := op, d := x.d, k := 0#2, a := 0#5, b := 0#5, f := f,
    imm := x.delta ++ x.slot }

/-- Reads the layout MemF (R18 to R21). -/
def decMemF {T : Type} (mk : MemF → T) (r : Raw) : Except Nat T :=
  if r.b == 0#5 then
    if r.k == 0#2 then
      .ok (mk { d := r.d, a := r.a, off := r.fld 15 0 })
    else .error 8
  else .error 7

/-- Writes the layout MemF (R18 to R21). -/
def encMemF (op : BitVec 7) (f : BitVec 6) (x : MemF) : Raw :=
  { tl := .t4, op := op, d := x.d, k := 0#2, a := x.a, b := 0#5, f := f,
    imm := 0#32 ++ x.off }

/-- Reads the layout CacheF (R18 to R21). -/
def decCacheF (mk : CacheF → Instr) (r : Raw) : Except Nat Instr :=
  if r.b == 0#5 && r.d == 0#5 then
    if r.k == 0#2 then
      .ok (mk { a := r.a, off := r.fld 15 0 })
    else .error 8
  else .error 7

/-- Writes the layout CacheF (R18 to R21). -/
def encCacheF (op : BitVec 7) (f : BitVec 6) (x : CacheF) : Raw :=
  { tl := .t4, op := op, d := 0#5, k := 0#2, a := x.a, b := 0#5, f := f,
    imm := 0#32 ++ x.off }

/-- Reads the layout AmoF (R18 to R21). -/
def decAmoF (mk : AmoF → Instr) (r : Raw) : Except Nat Instr :=
  if r.imm &&& 0xFFE0#48 == 0#48 then
    match scopeOf (r.fld 2 0) with
      | some sc => if !r.bit 4 then .ok (mk { d := r.d, a := r.a, b := r.b, acq := r.k.getLsbD 0, rel := r.k.getLsbD 1, dw := r.bit 3, scope := sc }) else .error 9
      | _ => .error 9
  else .error 7

/-- Writes the layout AmoF (R18 to R21). -/
def encAmoF (op : BitVec 7) (f : BitVec 6) (x : AmoF) : Raw :=
  { tl := .t4, op := op, d := x.d, k := (BitVec.ofBool x.rel ++ BitVec.ofBool x.acq), a := x.a, b := x.b, f := f,
    imm := 0#43 ++ (0#1 ++ BitVec.ofBool x.dw) ++ scopeCode x.scope }

/-- Reads the layout AmoCasF (R18 to R21). -/
def decAmoCasF (mk : AmoCasF → Instr) (r : Raw) : Except Nat Instr :=
  if r.imm &&& 0x7E0#48 == 0#48 then
    match scopeOf (r.fld 2 0) with
      | some sc => if !r.bit 4 then .ok (mk { d := r.d, a := r.a, b := r.b, c := r.fld 15 11, acq := r.k.getLsbD 0, rel := r.k.getLsbD 1, dw := r.bit 3, scope := sc }) else .error 9
      | _ => .error 9
  else .error 7

/-- Writes the layout AmoCasF (R18 to R21). -/
def encAmoCasF (op : BitVec 7) (f : BitVec 6) (x : AmoCasF) : Raw :=
  { tl := .t4, op := op, d := x.d, k := (BitVec.ofBool x.rel ++ BitVec.ofBool x.acq), a := x.a, b := x.b, f := f,
    imm := 0#32 ++ x.c ++ 0#6 ++ (0#1 ++ BitVec.ofBool x.dw) ++ scopeCode x.scope }

/-- Reads the layout OrdF (R18 to R21). -/
def decOrdF {T : Type} (mk : OrdF → T) (r : Raw) : Except Nat T :=
  if r.b == 0#5 && r.imm &&& 0xFFF8#48 == 0#48 then
    if r.k == 0#2 then
      match scopeOf (r.fld 2 0) with
      | some sc => .ok (mk { d := r.d, a := r.a, scope := sc })
      | _ => .error 9
    else .error 8
  else .error 7

/-- Writes the layout OrdF (R18 to R21). -/
def encOrdF (op : BitVec 7) (f : BitVec 6) (x : OrdF) : Raw :=
  { tl := .t4, op := op, d := x.d, k := 0#2, a := x.a, b := 0#5, f := f,
    imm := 0#45 ++ scopeCode x.scope }

/-- Reads the layout FenceF (R18 to R21). -/
def decFenceF (mk : FenceF → Instr) (r : Raw) : Except Nat Instr :=
  if r.b == 0#5 && r.d == 0#5 then
    if r.k != 0#2 then
      match scopeOfReg r.a with
      | some sc => .ok (mk { acq := r.k.getLsbD 0, rel := r.k.getLsbD 1, scope := sc })
      | _ => .error 9
    else .error 8
  else .error 7

/-- Writes the layout FenceF (R18 to R21). -/
def encFenceF (op : BitVec 7) (f : BitVec 6) (x : FenceF) : Raw :=
  { tl := .t2, op := op, d := 0#5, k := (BitVec.ofBool x.rel ++ BitVec.ofBool x.acq), a := (0#2 ++ scopeCode x.scope), b := 0#5, f := f,
    imm := 0#48 }

/-- Reads the layout WaitF (R18 to R21). -/
def decWaitF (mk : WaitF → Instr) (r : Raw) : Except Nat Instr :=
  if r.k == 0#2 then
      .ok (mk { d := r.d, a := r.a, b := r.b, tmo := r.fld 15 0 })
    else .error 8

/-- Writes the layout WaitF (R18 to R21). -/
def encWaitF (op : BitVec 7) (f : BitVec 6) (x : WaitF) : Raw :=
  { tl := .t4, op := op, d := x.d, k := 0#2, a := x.a, b := x.b, f := f,
    imm := 0#32 ++ x.tmo }

/-- Reads the layout CsrRF (R18 to R21). -/
def decCsrRF (mk : CsrRF → Instr) (r : Raw) : Except Nat Instr :=
  if r.b == 0#5 && r.a == 0#5 && r.imm &&& 0xF000#48 == 0#48 then
    if r.k == 0#2 then
      match csrOf (r.fld 11 0) with
      | some cs => .ok (mk { d := r.d, csr := cs })
      | _ => .error 9
    else .error 8
  else .error 7

/-- Writes the layout CsrRF (R18 to R21). -/
def encCsrRF (op : BitVec 7) (f : BitVec 6) (x : CsrRF) : Raw :=
  { tl := .t4, op := op, d := x.d, k := 0#2, a := 0#5, b := 0#5, f := f,
    imm := 0#36 ++ csrCode x.csr }

/-- Reads the layout CsrF (R18 to R21). -/
def decCsrF (mk : CsrF → Instr) (r : Raw) : Except Nat Instr :=
  if r.b == 0#5 && r.imm &&& 0xF000#48 == 0#48 then
    if r.k == 0#2 then
      match csrOf (r.fld 11 0) with
      | some cs => .ok (mk { d := r.d, a := r.a, csr := cs })
      | _ => .error 9
    else .error 8
  else .error 7

/-- Writes the layout CsrF (R18 to R21). -/
def encCsrF (op : BitVec 7) (f : BitVec 6) (x : CsrF) : Raw :=
  { tl := .t4, op := op, d := x.d, k := 0#2, a := x.a, b := 0#5, f := f,
    imm := 0#36 ++ csrCode x.csr }

/-- Reads the layout CodeF (R18 to R21). -/
def decCodeF (mk : CodeF → Instr) (r : Raw) : Except Nat Instr :=
  if r.b == 0#5 && r.a == 0#5 && r.d == 0#5 then
    if r.k == 0#2 then
      .ok (mk { code := r.fld 15 0 })
    else .error 8
  else .error 7

/-- Writes the layout CodeF (R18 to R21). -/
def encCodeF (op : BitVec 7) (f : BitVec 6) (x : CodeF) : Raw :=
  { tl := .t4, op := op, d := 0#5, k := 0#2, a := 0#5, b := 0#5, f := f,
    imm := 0#32 ++ x.code }

/-- Reads the layout R3T4 (R18 to R21). -/
def decR3T4 (mk : R3T4 → Instr) (r : Raw) : Except Nat Instr :=
  if r.imm &&& 0xFFFF#48 == 0#48 then
    if r.k == 0#2 then
      .ok (mk { d := r.d, a := r.a, b := r.b })
    else .error 8
  else .error 7

/-- Writes the layout R3T4 (R18 to R21). -/
def encR3T4 (op : BitVec 7) (f : BitVec 6) (x : R3T4) : Raw :=
  { tl := .t4, op := op, d := x.d, k := 0#2, a := x.a, b := x.b, f := f,
    imm := 0#48 }

/-- Reads the layout R2T4 (R18 to R21). -/
def decR2T4 (mk : R2T4 → Instr) (r : Raw) : Except Nat Instr :=
  if r.b == 0#5 && r.imm &&& 0xFFFF#48 == 0#48 then
    if r.k == 0#2 then
      .ok (mk { d := r.d, a := r.a })
    else .error 8
  else .error 7

/-- Writes the layout R2T4 (R18 to R21). -/
def encR2T4 (op : BitVec 7) (f : BitVec 6) (x : R2T4) : Raw :=
  { tl := .t4, op := op, d := x.d, k := 0#2, a := x.a, b := 0#5, f := f,
    imm := 0#48 }

/-- Reads the layout RabT4 (R18 to R21). -/
def decRabT4 (mk : RabT4 → Instr) (r : Raw) : Except Nat Instr :=
  if r.d == 0#5 && r.imm &&& 0xFFFF#48 == 0#48 then
    if r.k == 0#2 then
      .ok (mk { a := r.a, b := r.b })
    else .error 8
  else .error 7

/-- Writes the layout RabT4 (R18 to R21). -/
def encRabT4 (op : BitVec 7) (f : BitVec 6) (x : RabT4) : Raw :=
  { tl := .t4, op := op, d := 0#5, k := 0#2, a := x.a, b := x.b, f := f,
    imm := 0#48 }

/-- Reads the layout R1T4 (R18 to R21). -/
def decR1T4 (mk : R1T4 → Instr) (r : Raw) : Except Nat Instr :=
  if r.b == 0#5 && r.a == 0#5 && r.imm &&& 0xFFFF#48 == 0#48 then
    if r.k == 0#2 then
      .ok (mk { d := r.d })
    else .error 8
  else .error 7

/-- Writes the layout R1T4 (R18 to R21). -/
def encR1T4 (op : BitVec 7) (f : BitVec 6) (x : R1T4) : Raw :=
  { tl := .t4, op := op, d := x.d, k := 0#2, a := 0#5, b := 0#5, f := f,
    imm := 0#48 }

/-- Reads the layout LenF (R18 to R21). -/
def decLenF (tys : List Ty) (mk : LenF → Instr) (r : Raw) : Except Nat Instr :=
  if r.imm &&& 0xF83F#48 == 0#48 then
    if r.k == 0#2 then
      match tyOf (r.fld 10 6) with
      | some ty => if tys.contains ty then .ok (mk { d := r.d, a := r.a, b := r.b, ty := ty }) else .error 9
      | _ => .error 9
    else .error 8
  else .error 7

/-- Writes the layout LenF (R18 to R21). -/
def encLenF (op : BitVec 7) (f : BitVec 6) (x : LenF) : Raw :=
  { tl := .t4, op := op, d := x.d, k := 0#2, a := x.a, b := x.b, f := f,
    imm := 0#37 ++ tyCode x.ty ++ 0#6 }

/-- Reads the layout ShpF (R18 to R21). -/
def decShpF (mk : ShpF → Instr) (r : Raw) : Except Nat Instr :=
  if r.b == 0#5 && r.a == 0#5 && r.d == 0#5 && r.imm &&& 0xFFFE#48 == 0#48 then
    if r.k == 0#2 then
      .ok (mk { wide := r.bit 0 })
    else .error 8
  else .error 7

/-- Writes the layout ShpF (R18 to R21). -/
def encShpF (op : BitVec 7) (f : BitVec 6) (x : ShpF) : Raw :=
  { tl := .t4, op := op, d := 0#5, k := 0#2, a := 0#5, b := 0#5, f := f,
    imm := 0#47 ++ BitVec.ofBool x.wide }

/-- Reads the layout K3F (R18 to R21). -/
def decK3F (mk : K3F → Instr) (r : Raw) : Except Nat Instr :=
  if r.d.extractLsb' 2 3 == 0#3 && r.a.extractLsb' 2 3 == 0#3 && r.b.extractLsb' 2 3 == 0#3 then
    if r.k == 0#2 then
      .ok (mk { d := r.d.extractLsb' 0 2, a := r.a.extractLsb' 0 2, b := r.b.extractLsb' 0 2 })
    else .error 8
  else .error 7

/-- Writes the layout K3F (R18 to R21). -/
def encK3F (op : BitVec 7) (f : BitVec 6) (x : K3F) : Raw :=
  { tl := .t2, op := op, d := (0#3 ++ x.d), k := 0#2, a := (0#3 ++ x.a), b := (0#3 ++ x.b), f := f,
    imm := 0#48 }

/-- Reads the layout K2F (R18 to R21). -/
def decK2F (mk : K2F → Instr) (r : Raw) : Except Nat Instr :=
  if r.b == 0#5 && r.d.extractLsb' 2 3 == 0#3 && r.a.extractLsb' 2 3 == 0#3 then
    if r.k == 0#2 then
      .ok (mk { d := r.d.extractLsb' 0 2, a := r.a.extractLsb' 0 2 })
    else .error 8
  else .error 7

/-- Writes the layout K2F (R18 to R21). -/
def encK2F (op : BitVec 7) (f : BitVec 6) (x : K2F) : Raw :=
  { tl := .t2, op := op, d := (0#3 ++ x.d), k := 0#2, a := (0#3 ++ x.a), b := 0#5, f := f,
    imm := 0#48 }

/-- Reads the layout KxF (R18 to R21). -/
def decKxF (mk : KxF → Instr) (r : Raw) : Except Nat Instr :=
  if r.b == 0#5 && r.a.extractLsb' 2 3 == 0#3 then
    if r.k == 0#2 then
      .ok (mk { d := r.d, a := r.a.extractLsb' 0 2 })
    else .error 8
  else .error 7

/-- Writes the layout KxF (R18 to R21). -/
def encKxF (op : BitVec 7) (f : BitVec 6) (x : KxF) : Raw :=
  { tl := .t2, op := op, d := x.d, k := 0#2, a := (0#3 ++ x.a), b := 0#5, f := f,
    imm := 0#48 }

/-- Reads the layout KsetF (R18 to R21). -/
def decKsetF (mk : KsetF → Instr) (r : Raw) : Except Nat Instr :=
  if r.b == 0#5 && r.d.extractLsb' 2 3 == 0#3 then
    if r.k == 0#2 then
      .ok (mk { d := r.d.extractLsb' 0 2, a := r.a })
    else .error 8
  else .error 7

/-- Writes the layout KsetF (R18 to R21). -/
def encKsetF (op : BitVec 7) (f : BitVec 6) (x : KsetF) : Raw :=
  { tl := .t2, op := op, d := (0#3 ++ x.d), k := 0#2, a := x.a, b := 0#5, f := f,
    imm := 0#48 }

/-- Reads the layout VBinF (R18 to R21). -/
def decVBinF (tys : List Ty) (mk : VBinF → Instr) (r : Raw) : Except Nat Instr :=
  if r.imm &&& 0xF837#48 == 0#48 then
    match tyOf (r.fld 10 6) with
      | some ty => if tys.contains ty then .ok (mk { d := r.d, a := r.a, b := r.b, k := r.k, ty := ty, sat := r.bit 3 }) else .error 9
      | _ => .error 9
  else .error 7

/-- Writes the layout VBinF (R18 to R21). -/
def encVBinF (op : BitVec 7) (f : BitVec 6) (x : VBinF) : Raw :=
  { tl := .t4, op := op, d := x.d, k := x.k, a := x.a, b := x.b, f := f,
    imm := 0#37 ++ tyCode x.ty ++ 0#2 ++ BitVec.ofBool x.sat ++ 0#3 }

/-- Reads the layout VUnF (R18 to R21). -/
def decVUnF (tys : List Ty) (mk : VUnF → Instr) (r : Raw) : Except Nat Instr :=
  if r.b == 0#5 && r.imm &&& 0xF837#48 == 0#48 then
    match tyOf (r.fld 10 6) with
      | some ty => if tys.contains ty then .ok (mk { d := r.d, a := r.a, k := r.k, ty := ty, sat := r.bit 3 }) else .error 9
      | _ => .error 9
  else .error 7

/-- Writes the layout VUnF (R18 to R21). -/
def encVUnF (op : BitVec 7) (f : BitVec 6) (x : VUnF) : Raw :=
  { tl := .t4, op := op, d := x.d, k := x.k, a := x.a, b := 0#5, f := f,
    imm := 0#37 ++ tyCode x.ty ++ 0#2 ++ BitVec.ofBool x.sat ++ 0#3 }

/-- Reads the layout VCmpF (R18 to R21). -/
def decVCmpF (tys : List Ty) (mk : VCmpF → Instr) (r : Raw) : Except Nat Instr :=
  if r.d.extractLsb' 2 3 == 0#3 && r.imm &&& 0xF837#48 == 0#48 then
    match tyOf (r.fld 10 6) with
      | some ty => if tys.contains ty then .ok (mk { d := r.d.extractLsb' 0 2, a := r.a, b := r.b, k := r.k, ty := ty, sat := r.bit 3 }) else .error 9
      | _ => .error 9
  else .error 7

/-- Writes the layout VCmpF (R18 to R21). -/
def encVCmpF (op : BitVec 7) (f : BitVec 6) (x : VCmpF) : Raw :=
  { tl := .t4, op := op, d := (0#3 ++ x.d), k := x.k, a := x.a, b := x.b, f := f,
    imm := 0#37 ++ tyCode x.ty ++ 0#2 ++ BitVec.ofBool x.sat ++ 0#3 }

/-- Reads the layout VIotaF (R18 to R21). -/
def decVIotaF (tys : List Ty) (mk : VIotaF → Instr) (r : Raw) : Except Nat Instr :=
  if r.b == 0#5 && r.a == 0#5 && r.imm &&& 0xF837#48 == 0#48 then
    match tyOf (r.fld 10 6) with
      | some ty => if tys.contains ty then .ok (mk { d := r.d, k := r.k, ty := ty, sat := r.bit 3 }) else .error 9
      | _ => .error 9
  else .error 7

/-- Writes the layout VIotaF (R18 to R21). -/
def encVIotaF (op : BitVec 7) (f : BitVec 6) (x : VIotaF) : Raw :=
  { tl := .t4, op := op, d := x.d, k := x.k, a := 0#5, b := 0#5, f := f,
    imm := 0#37 ++ tyCode x.ty ++ 0#2 ++ BitVec.ofBool x.sat ++ 0#3 }

/-- Reads the layout VIotaXF (R18 to R21). -/
def decVIotaXF (tys : List Ty) (mk : VIotaXF → Instr) (r : Raw) : Except Nat Instr :=
  if r.a == 0#5 && r.imm &&& 0xF837#48 == 0#48 then
    match tyOf (r.fld 10 6) with
      | some ty => if tys.contains ty then .ok (mk { d := r.d, b := r.b, k := r.k, ty := ty, sat := r.bit 3 }) else .error 9
      | _ => .error 9
  else .error 7

/-- Writes the layout VIotaXF (R18 to R21). -/
def encVIotaXF (op : BitVec 7) (f : BitVec 6) (x : VIotaXF) : Raw :=
  { tl := .t4, op := op, d := x.d, k := x.k, a := 0#5, b := x.b, f := f,
    imm := 0#37 ++ tyCode x.ty ++ 0#2 ++ BitVec.ofBool x.sat ++ 0#3 }

/-- Reads the layout VFpF (R18 to R21). -/
def decVFpF (tys : List Ty) (mk : VFpF → Instr) (r : Raw) : Except Nat Instr :=
  if r.imm &&& 0xF807#48 == 0#48 then
    match tyOf (r.fld 10 6) with
      | some ty => if tys.contains ty then .ok (mk { d := r.d, a := r.a, b := r.b, k := r.k, ty := ty, rm := (rmOf (r.fld 5 4)), sat := r.bit 3 }) else .error 9
      | _ => .error 9
  else .error 7

/-- Writes the layout VFpF (R18 to R21). -/
def encVFpF (op : BitVec 7) (f : BitVec 6) (x : VFpF) : Raw :=
  { tl := .t4, op := op, d := x.d, k := x.k, a := x.a, b := x.b, f := f,
    imm := 0#37 ++ tyCode x.ty ++ rmCode x.rm ++ BitVec.ofBool x.sat ++ 0#3 }

/-- Reads the layout VFpUF (R18 to R21). -/
def decVFpUF (tys : List Ty) (mk : VFpUF → Instr) (r : Raw) : Except Nat Instr :=
  if r.b == 0#5 && r.imm &&& 0xF807#48 == 0#48 then
    match tyOf (r.fld 10 6) with
      | some ty => if tys.contains ty then .ok (mk { d := r.d, a := r.a, k := r.k, ty := ty, rm := (rmOf (r.fld 5 4)), sat := r.bit 3 }) else .error 9
      | _ => .error 9
  else .error 7

/-- Writes the layout VFpUF (R18 to R21). -/
def encVFpUF (op : BitVec 7) (f : BitVec 6) (x : VFpUF) : Raw :=
  { tl := .t4, op := op, d := x.d, k := x.k, a := x.a, b := 0#5, f := f,
    imm := 0#37 ++ tyCode x.ty ++ rmCode x.rm ++ BitVec.ofBool x.sat ++ 0#3 }

/-- Reads the layout VFCmpF (R18 to R21). -/
def decVFCmpF (tys : List Ty) (mk : VFCmpF → Instr) (r : Raw) : Except Nat Instr :=
  if r.d.extractLsb' 2 3 == 0#3 && r.imm &&& 0xF807#48 == 0#48 then
    match tyOf (r.fld 10 6) with
      | some ty => if tys.contains ty then .ok (mk { d := r.d.extractLsb' 0 2, a := r.a, b := r.b, k := r.k, ty := ty, rm := (rmOf (r.fld 5 4)), sat := r.bit 3 }) else .error 9
      | _ => .error 9
  else .error 7

/-- Writes the layout VFCmpF (R18 to R21). -/
def encVFCmpF (op : BitVec 7) (f : BitVec 6) (x : VFCmpF) : Raw :=
  { tl := .t4, op := op, d := (0#3 ++ x.d), k := x.k, a := x.a, b := x.b, f := f,
    imm := 0#37 ++ tyCode x.ty ++ rmCode x.rm ++ BitVec.ofBool x.sat ++ 0#3 }

/-- Reads the layout VFmaF (R18 to R21). -/
def decVFmaF (tys : List Ty) (mk : VFmaF → Instr) (r : Raw) : Except Nat Instr :=
  if r.imm &&& 0x7#48 == 0#48 then
    match tyOf (r.fld 10 6) with
      | some ty => if tys.contains ty then .ok (mk { d := r.d, a := r.a, b := r.b, c := r.fld 15 11, k := r.k, ty := ty, rm := (rmOf (r.fld 5 4)), sat := r.bit 3 }) else .error 9
      | _ => .error 9
  else .error 7

/-- Writes the layout VFmaF (R18 to R21). -/
def encVFmaF (op : BitVec 7) (f : BitVec 6) (x : VFmaF) : Raw :=
  { tl := .t4, op := op, d := x.d, k := x.k, a := x.a, b := x.b, f := f,
    imm := 0#32 ++ x.c ++ tyCode x.ty ++ rmCode x.rm ++ BitVec.ofBool x.sat ++ 0#3 }

/-- Reads the layout QpackF (R18 to R21). -/
def decQpackF (tys : List Ty) (mk : QpackF → Instr) (r : Raw) : Except Nat Instr :=
  if r.b == 0#5 && r.imm &&& 0xF80F#48 == 0#48 then
    match tyOf (r.fld 10 6) with
      | some ty => if tys.contains ty then .ok (mk { d := r.d, a := r.a, k := r.k, ty := ty, rm := (rmOf (r.fld 5 4)) }) else .error 9
      | _ => .error 9
  else .error 7

/-- Writes the layout QpackF (R18 to R21). -/
def encQpackF (op : BitVec 7) (f : BitVec 6) (x : QpackF) : Raw :=
  { tl := .t4, op := op, d := x.d, k := x.k, a := x.a, b := 0#5, f := f,
    imm := 0#37 ++ tyCode x.ty ++ rmCode x.rm ++ 0#4 }

/-- Reads the layout VTyF (R18 to R21). -/
def decVTyF (tys : List Ty) (mk : VTyF → Instr) (r : Raw) : Except Nat Instr :=
  if r.b == 0#5 && r.imm &&& 0xF83F#48 == 0#48 then
    match tyOf (r.fld 10 6) with
      | some ty => if tys.contains ty then .ok (mk { d := r.d, a := r.a, k := r.k, ty := ty }) else .error 9
      | _ => .error 9
  else .error 7

/-- Writes the layout VTyF (R18 to R21). -/
def encVTyF (op : BitVec 7) (f : BitVec 6) (x : VTyF) : Raw :=
  { tl := .t4, op := op, d := x.d, k := x.k, a := x.a, b := 0#5, f := f,
    imm := 0#37 ++ tyCode x.ty ++ 0#6 }

/-- Reads the layout BnormF (R18 to R21). -/
def decBnormF (tys : List Ty) (mk : BnormF → Instr) (r : Raw) : Except Nat Instr :=
  if r.b == 0#5 && r.imm &&& 0xF80F#48 == 0#48 then
    match tyOf (r.fld 10 6) with
      | some ty => if tys.contains ty then .ok (mk { d := r.d, a := r.a, k := r.k, ty := ty, rm := (rmOf (r.fld 5 4)) }) else .error 9
      | _ => .error 9
  else .error 7

/-- Writes the layout BnormF (R18 to R21). -/
def encBnormF (op : BitVec 7) (f : BitVec 6) (x : BnormF) : Raw :=
  { tl := .t4, op := op, d := x.d, k := x.k, a := x.a, b := 0#5, f := f,
    imm := 0#37 ++ tyCode x.ty ++ rmCode x.rm ++ 0#4 }

/-- Reads the layout VTyBF (R18 to R21). -/
def decVTyBF (tys : List Ty) (mk : VTyBF → Instr) (r : Raw) : Except Nat Instr :=
  if r.imm &&& 0xF83F#48 == 0#48 then
    match tyOf (r.fld 10 6) with
      | some ty => if tys.contains ty then .ok (mk { d := r.d, a := r.a, b := r.b, k := r.k, ty := ty }) else .error 9
      | _ => .error 9
  else .error 7

/-- Writes the layout VTyBF (R18 to R21). -/
def encVTyBF (op : BitVec 7) (f : BitVec 6) (x : VTyBF) : Raw :=
  { tl := .t4, op := op, d := x.d, k := x.k, a := x.a, b := x.b, f := f,
    imm := 0#37 ++ tyCode x.ty ++ 0#6 }

/-- Reads the layout VTyCF (R18 to R21). -/
def decVTyCF (tys : List Ty) (mk : VTyCF → Instr) (r : Raw) : Except Nat Instr :=
  if r.b == 0#5 && r.imm &&& 0x3F#48 == 0#48 then
    match tyOf (r.fld 10 6) with
      | some ty => if tys.contains ty then .ok (mk { d := r.d, a := r.a, c := r.fld 15 11, k := r.k, ty := ty }) else .error 9
      | _ => .error 9
  else .error 7

/-- Writes the layout VTyCF (R18 to R21). -/
def encVTyCF (op : BitVec 7) (f : BitVec 6) (x : VTyCF) : Raw :=
  { tl := .t4, op := op, d := x.d, k := x.k, a := x.a, b := 0#5, f := f,
    imm := 0#32 ++ x.c ++ tyCode x.ty ++ 0#6 }

/-- Reads the layout RedF (R18 to R21). -/
def decRedF (tys : List Ty) (mk : RedF → Instr) (r : Raw) : Except Nat Instr :=
  if r.b == 0#5 && r.imm &&& 0xF803#48 == 0#48 && (r.fld 5 4 == (0#2 : BitVec 2) || decide (8 ≤ (r.imm.extractLsb' 6 5).toNat)) then
    match tyOf (r.fld 10 6) with
      | some ty => if tys.contains ty then .ok (mk { d := r.d, a := r.a, k := r.k, ty := ty, rm := (rmOf (r.fld 5 4)), sat := r.bit 3, col := r.bit 2 }) else .error 9
      | _ => .error 9
  else .error 7

/-- Writes the layout RedF (R18 to R21). -/
def encRedF (op : BitVec 7) (f : BitVec 6) (x : RedF) : Raw :=
  { tl := .t4, op := op, d := x.d, k := x.k, a := x.a, b := 0#5, f := f,
    imm := 0#37 ++ tyCode x.ty ++ rmCode x.rm ++ BitVec.ofBool x.sat ++ BitVec.ofBool x.col ++ 0#2 }

/-- Reads the layout RedNF (R18 to R21). -/
def decRedNF (tys : List Ty) (mk : RedNF → Instr) (r : Raw) : Except Nat Instr :=
  if r.b == 0#5 && r.imm &&& 0xF833#48 == 0#48 then
    match tyOf (r.fld 10 6) with
      | some ty => if tys.contains ty then .ok (mk { d := r.d, a := r.a, k := r.k, ty := ty, sat := r.bit 3, col := r.bit 2 }) else .error 9
      | _ => .error 9
  else .error 7

/-- Writes the layout RedNF (R18 to R21). -/
def encRedNF (op : BitVec 7) (f : BitVec 6) (x : RedNF) : Raw :=
  { tl := .t4, op := op, d := x.d, k := x.k, a := x.a, b := 0#5, f := f,
    imm := 0#37 ++ tyCode x.ty ++ 0#2 ++ BitVec.ofBool x.sat ++ BitVec.ofBool x.col ++ 0#2 }

/-- Reads the layout SinCosF (R18 to R21). -/
def decSinCosF (tys : List Ty) (mk : SinCosF → Instr) (r : Raw) : Except Nat Instr :=
  if r.imm &&& 0xF80F#48 == 0#48 then
    match tyOf (r.fld 10 6) with
      | some ty => if tys.contains ty then .ok (mk { d := r.d, a := r.a, b := r.b, k := r.k, ty := ty, rm := (rmOf (r.fld 5 4)) }) else .error 9
      | _ => .error 9
  else .error 7

/-- Writes the layout SinCosF (R18 to R21). -/
def encSinCosF (op : BitVec 7) (f : BitVec 6) (x : SinCosF) : Raw :=
  { tl := .t4, op := op, d := x.d, k := x.k, a := x.a, b := x.b, f := f,
    imm := 0#37 ++ tyCode x.ty ++ rmCode x.rm ++ 0#4 }

/-- Reads the layout VMemF (R18 to R21). -/
def decVMemF (tys : List Ty) (mk : VMemF → Instr) (r : Raw) : Except Nat Instr :=
  if r.imm &&& 0x73F#48 == 0#48 then
    match tyOf (r.fld 15 11) with
      | some ty => if tys.contains ty then .ok (mk { d := r.d, a := r.a, b := r.b, k := r.k, ty := ty, hint := r.fld 7 6 }) else .error 9
      | _ => .error 9
  else .error 7

/-- Writes the layout VMemF (R18 to R21). -/
def encVMemF (op : BitVec 7) (f : BitVec 6) (x : VMemF) : Raw :=
  { tl := .t4, op := op, d := x.d, k := x.k, a := x.a, b := x.b, f := f,
    imm := 0#32 ++ tyCode x.ty ++ 0#3 ++ x.hint ++ 0#6 }

/-- Reads the layout VMemBF (R18 to R21). -/
def decVMemBF (tys : List Ty) (mk : VMemBF → Instr) (r : Raw) : Except Nat Instr :=
  if r.imm &&& 0x3F#48 == 0#48 then
    match tyOf (r.fld 15 11) with
      | some ty => if tys.contains ty && ({ d := r.d, a := r.a, b := r.b, k := r.k, ty := ty, bitoff := r.fld 10 8, hint := r.fld 7 6 } : VMemBF).wf then
        .ok (mk ({ d := r.d, a := r.a, b := r.b, k := r.k, ty := ty, bitoff := r.fld 10 8, hint := r.fld 7 6 } : VMemBF)) else .error 9
      | _ => .error 9
  else .error 7

/-- Writes the layout VMemBF (R18 to R21). -/
def encVMemBF (op : BitVec 7) (f : BitVec 6) (x : VMemBF) : Raw :=
  { tl := .t4, op := op, d := x.d, k := x.k, a := x.a, b := x.b, f := f,
    imm := 0#32 ++ tyCode x.ty ++ x.bitoff ++ x.hint ++ 0#6 }

/-- Reads the layout VMemLF (R18 to R21). -/
def decVMemLF (tys : List Ty) (mk : VMemLF → Instr) (r : Raw) : Except Nat Instr :=
  if r.b == 0#5 && r.imm &&& 0x73F#48 == 0#48 then
    match tyOf (r.fld 15 11) with
      | some ty => if tys.contains ty then .ok (mk { d := r.d, a := r.a, k := r.k, ty := ty, hint := r.fld 7 6 }) else .error 9
      | _ => .error 9
  else .error 7

/-- Writes the layout VMemLF (R18 to R21). -/
def encVMemLF (op : BitVec 7) (f : BitVec 6) (x : VMemLF) : Raw :=
  { tl := .t4, op := op, d := x.d, k := x.k, a := x.a, b := 0#5, f := f,
    imm := 0#32 ++ tyCode x.ty ++ 0#3 ++ x.hint ++ 0#6 }

/-- Reads the layout VIdxF (R18 to R21). -/
def decVIdxF (tys : List Ty) (mk : VIdxF → Instr) (r : Raw) : Except Nat Instr :=
  if r.b == 0#5 && r.imm &&& 0x701#48 == 0#48 then
    match tyOf (r.fld 15 11) with
      | some ty => if tys.contains ty then .ok (mk { d := r.d, a := r.a, c := r.fld 5 1, k := r.k, ty := ty, hint := r.fld 7 6 }) else .error 9
      | _ => .error 9
  else .error 7

/-- Writes the layout VIdxF (R18 to R21). -/
def encVIdxF (op : BitVec 7) (f : BitVec 6) (x : VIdxF) : Raw :=
  { tl := .t4, op := op, d := x.d, k := x.k, a := x.a, b := 0#5, f := f,
    imm := 0#32 ++ tyCode x.ty ++ 0#3 ++ x.hint ++ x.c ++ 0#1 }

/-- Reads the layout WinF (R18 to R21). -/
def decWinF (tys : List Ty) (mk : WinF → Instr) (r : Raw) : Except Nat Instr :=
  if r.d == 0#5 && r.imm &&& 0x73F#48 == 0#48 then
    match tyOf (r.fld 15 11) with
      | some ty => if tys.contains ty then .ok (mk { a := r.a, b := r.b, k := r.k, ty := ty, hint := r.fld 7 6 }) else .error 9
      | _ => .error 9
  else .error 7

/-- Writes the layout WinF (R18 to R21). -/
def encWinF (op : BitVec 7) (f : BitVec 6) (x : WinF) : Raw :=
  { tl := .t4, op := op, d := 0#5, k := x.k, a := x.a, b := x.b, f := f,
    imm := 0#32 ++ tyCode x.ty ++ 0#3 ++ x.hint ++ 0#6 }

/-- Reads the layout Win0F (R18 to R21). -/
def decWin0F (tys : List Ty) (mk : Win0F → Instr) (r : Raw) : Except Nat Instr :=
  if r.b == 0#5 && r.a == 0#5 && r.d == 0#5 && r.imm &&& 0x73F#48 == 0#48 then
    match tyOf (r.fld 15 11) with
      | some ty => if tys.contains ty then .ok (mk { k := r.k, ty := ty, hint := r.fld 7 6 }) else .error 9
      | _ => .error 9
  else .error 7

/-- Writes the layout Win0F (R18 to R21). -/
def encWin0F (op : BitVec 7) (f : BitVec 6) (x : Win0F) : Raw :=
  { tl := .t4, op := op, d := 0#5, k := x.k, a := 0#5, b := 0#5, f := f,
    imm := 0#32 ++ tyCode x.ty ++ 0#3 ++ x.hint ++ 0#6 }

/-- Reads the layout CpyF (R18 to R21). -/
def decCpyF (mk : CpyF → Instr) (r : Raw) : Except Nat Instr :=
  if r.imm &&& 0xFFFFF#48 == 0#48 then
    if r.k == 0#2 then
      match scopeOf (r.fld 43 41) with
      | some sc => .ok (mk { d := r.d, a := r.a, b := r.b, ch := r.fld 47 46, acq := r.bit 45, rel := r.bit 44, scope := sc, mmask := r.fld 40 37, bar := r.fld 36 33, rows16 := r.fld 32 20 })
      | _ => .error 9
    else .error 8
  else .error 7

/-- Writes the layout CpyF (R18 to R21). -/
def encCpyF (op : BitVec 7) (f : BitVec 6) (x : CpyF) : Raw :=
  { tl := .t8, op := op, d := x.d, k := 0#2, a := x.a, b := x.b, f := f,
    imm := x.ch ++ BitVec.ofBool x.acq ++ BitVec.ofBool x.rel ++ scopeCode x.scope ++ x.mmask ++ x.bar ++ x.rows16 ++ 0#20 }

/-- Reads the layout XredF (R18 to R21). -/
def decXredF (tys : List Ty) (mk : XredF → Instr) (r : Raw) : Except Nat Instr :=
  if r.imm &&& 0xFFFFFFF#48 == 0#48 then
    if r.k == 0#2 then
      match scopeOf (r.fld 43 41), xredOpOf (r.fld 40 37), tyOf (r.fld 32 28) with
      | some sc, some xo, some ty => if tys.contains ty then .ok (mk { d := r.d, a := r.a, b := r.b, ch := r.fld 47 46, acq := r.bit 45, rel := r.bit 44, scope := sc, op := xo, bar := r.fld 36 33, ty := ty }) else .error 9
      | _, _, _ => .error 9
    else .error 8
  else .error 7

/-- Writes the layout XredF (R18 to R21). -/
def encXredF (op : BitVec 7) (f : BitVec 6) (x : XredF) : Raw :=
  { tl := .t8, op := op, d := x.d, k := 0#2, a := x.a, b := x.b, f := f,
    imm := x.ch ++ BitVec.ofBool x.acq ++ BitVec.ofBool x.rel ++ scopeCode x.scope ++ xredOpCode x.op ++ x.bar ++ tyCode x.ty ++ 0#28 }

/-- Reads the layout CpwF (R18 to R21). -/
def decCpwF (mk : CpwF → Instr) (r : Raw) : Except Nat Instr :=
  if r.b == 0#5 && r.d == 0#5 && r.imm &&& 0x3FFF#48 == 0#48 then
    if r.k == 0#2 then
      .ok (mk { a := r.a, ch := r.fld 15 14 })
    else .error 8
  else .error 7

/-- Writes the layout CpwF (R18 to R21). -/
def encCpwF (op : BitVec 7) (f : BitVec 6) (x : CpwF) : Raw :=
  { tl := .t4, op := op, d := 0#5, k := 0#2, a := x.a, b := 0#5, f := f,
    imm := 0#32 ++ x.ch ++ 0#14 }

/-- Reads the layout GrpF (R18 to R21). -/
def decGrpF (mk : GrpF → Instr) (r : Raw) : Except Nat Instr :=
  if r.b == 0#5 && r.a == 0#5 && r.d == 0#5 && r.imm &&& 0xFFF8#48 == 0#48 then
    if r.k == 0#2 then
      if ({ groups := r.fld 2 0 } : GrpF).wf then .ok (mk ({ groups := r.fld 2 0 } : GrpF)) else .error 9
    else .error 8
  else .error 7

/-- Writes the layout GrpF (R18 to R21). -/
def encGrpF (op : BitVec 7) (f : BitVec 6) (x : GrpF) : Raw :=
  { tl := .t4, op := op, d := 0#5, k := 0#2, a := 0#5, b := 0#5, f := f,
    imm := 0#45 ++ x.groups }

/-- Reads the layout DetF (R18 to R21). -/
def decDetF (mk : DetF → Instr) (r : Raw) : Except Nat Instr :=
  if r.b == 0#5 && r.a == 0#5 && r.d == 0#5 && r.imm &&& 0xFFFE#48 == 0#48 then
    if r.k == 0#2 then
      .ok (mk { discard := r.bit 0 })
    else .error 8
  else .error 7

/-- Writes the layout DetF (R18 to R21). -/
def encDetF (op : BitVec 7) (f : BitVec 6) (x : DetF) : Raw :=
  { tl := .t4, op := op, d := 0#5, k := 0#2, a := 0#5, b := 0#5, f := f,
    imm := 0#47 ++ BitVec.ofBool x.discard }

/-- Reads the layout SlotF (R18 to R21). -/
def decSlotF (mk : SlotF → Instr) (r : Raw) : Except Nat Instr :=
  if r.b == 0#5 && r.a == 0#5 && r.d == 0#5 && r.imm &&& 0x1FF#48 == 0#48 then
    if r.k == 0#2 then
      .ok (mk { slot := r.fld 15 9 })
    else .error 8
  else .error 7

/-- Writes the layout SlotF (R18 to R21). -/
def encSlotF (op : BitVec 7) (f : BitVec 6) (x : SlotF) : Raw :=
  { tl := .t4, op := op, d := 0#5, k := 0#2, a := 0#5, b := 0#5, f := f,
    imm := 0#32 ++ x.slot ++ 0#9 }

/-- Reads the layout AccF (R18 to R21). -/
def decAccF (mk : AccF → Instr) (r : Raw) : Except Nat Instr :=
  if r.b == 0#5 && r.a == 0#5 && r.d == 0#5 && r.imm &&& 0xFFEF#48 == 0#48 then
    if r.k == 0#2 then
      .ok (mk { tile := r.bit 4 })
    else .error 8
  else .error 7

/-- Writes the layout AccF (R18 to R21). -/
def encAccF (op : BitVec 7) (f : BitVec 6) (x : AccF) : Raw :=
  { tl := .t4, op := op, d := 0#5, k := 0#2, a := 0#5, b := 0#5, f := f,
    imm := 0#43 ++ BitVec.ofBool x.tile ++ 0#4 }

/-- Reads the layout SlotMF (R18 to R21). -/
def decSlotMF (tys : List Ty) (mk : SlotMF → Instr) (r : Raw) : Except Nat Instr :=
  if r.imm &&& 0x1FF#48 == 0#48 then
    if r.k == 0#2 then
      match tyOf r.d with
      | some ty => if tys.contains ty then .ok (mk { ty := ty, a := r.a, b := r.b, slot := r.fld 15 9 }) else .error 9
      | _ => .error 9
    else .error 8
  else .error 7

/-- Writes the layout SlotMF (R18 to R21). -/
def encSlotMF (op : BitVec 7) (f : BitVec 6) (x : SlotMF) : Raw :=
  { tl := .t4, op := op, d := (tyCode x.ty), k := 0#2, a := x.a, b := x.b, f := f,
    imm := 0#32 ++ x.slot ++ 0#9 }

/-- Reads the layout SlotRF (R18 to R21). -/
def decSlotRF (mk : SlotRF → Instr) (r : Raw) : Except Nat Instr :=
  if r.a == 0#5 && r.imm &&& 0x1FF#48 == 0#48 then
    if r.k == 0#2 then
      .ok (mk { d := r.d, b := r.b, slot := r.fld 15 9 })
    else .error 8
  else .error 7

/-- Writes the layout SlotRF (R18 to R21). -/
def encSlotRF (op : BitVec 7) (f : BitVec 6) (x : SlotRF) : Raw :=
  { tl := .t4, op := op, d := x.d, k := 0#2, a := 0#5, b := x.b, f := f,
    imm := 0#32 ++ x.slot ++ 0#9 }

/-- Reads the layout MmaF (R18 to R21). -/
def decMmaF (mk : MmaF → Instr) (r : Raw) : Except Nat Instr :=
  if r.b == 0#5 && r.a == 0#5 && r.d.extractLsb' 1 4 == 0#4 && r.imm &&& 0x3#48 == 0#48 then
    if r.k == 0#2 then
      .ok (mk { tile := r.d.getLsbD 0, slotA := r.fld 15 9, slotB := r.fld 8 2 })
    else .error 8
  else .error 7

/-- Writes the layout MmaF (R18 to R21). -/
def encMmaF (op : BitVec 7) (f : BitVec 6) (x : MmaF) : Raw :=
  { tl := .t4, op := op, d := (0#4 ++ BitVec.ofBool x.tile), k := 0#2, a := 0#5, b := 0#5, f := f,
    imm := 0#32 ++ x.slotA ++ x.slotB ++ 0#2 }

/-- Reads the layout DrnF (R18 to R21). -/
def decDrnF (tys : List Ty) (mk : DrnF → Instr) (r : Raw) : Except Nat Instr :=
  if r.b == 0#5 && r.a == 0#5 && r.imm &&& 0xF80F#48 == 0#48 then
    match tyOf (r.fld 10 6) with
      | some ty => if tys.contains ty && ({ d := r.d, k := r.k, ty := ty, half := r.bit 5, tile := r.bit 4 } : DrnF).wf then
        .ok (mk ({ d := r.d, k := r.k, ty := ty, half := r.bit 5, tile := r.bit 4 } : DrnF)) else .error 9
      | _ => .error 9
  else .error 7

/-- Writes the layout DrnF (R18 to R21). -/
def encDrnF (op : BitVec 7) (f : BitVec 6) (x : DrnF) : Raw :=
  { tl := .t4, op := op, d := x.d, k := x.k, a := 0#5, b := 0#5, f := f,
    imm := 0#37 ++ tyCode x.ty ++ BitVec.ofBool x.half ++ BitVec.ofBool x.tile ++ 0#4 }

/-- Reads the layout AccMF (R18 to R21). -/
def decAccMF (mk : AccMF → Instr) (r : Raw) : Except Nat Instr :=
  if r.b == 0#5 && r.d == 0#5 && r.imm &&& 0xFFEF#48 == 0#48 then
    if r.k == 0#2 then
      .ok (mk { a := r.a, tile := r.bit 4 })
    else .error 8
  else .error 7

/-- Writes the layout AccMF (R18 to R21). -/
def encAccMF (op : BitVec 7) (f : BitVec 6) (x : AccMF) : Raw :=
  { tl := .t4, op := op, d := 0#5, k := 0#2, a := x.a, b := 0#5, f := f,
    imm := 0#43 ++ BitVec.ofBool x.tile ++ 0#4 }

/-- Reads the layout VerF (R18 to R21). -/
def decVerF (mk : VerF → Instr) (r : Raw) : Except Nat Instr :=
  if r.imm &&& 0xFFFC#48 == 0#48 then
    if r.k == 0#2 then
      .ok (mk { d := r.d, a := r.a, b := r.b, width := r.fld 1 0 })
    else .error 8
  else .error 7

/-- Writes the layout VerF (R18 to R21). -/
def encVerF (op : BitVec 7) (f : BitVec 6) (x : VerF) : Raw :=
  { tl := .t4, op := op, d := x.d, k := 0#2, a := x.a, b := x.b, f := f,
    imm := 0#46 ++ x.width }

/-- Reads the layout VVerF (R18 to R21). -/
def decVVerF (tys : List Ty) (mk : VVerF → Instr) (r : Raw) : Except Nat Instr :=
  if r.imm &&& 0x701#48 == 0#48 then
    match tyOf (r.fld 15 11) with
      | some ty => if tys.contains ty then .ok (mk { d := r.d, a := r.a, b := r.b, c := r.fld 5 1, k := r.k, ty := ty, hint := r.fld 7 6 }) else .error 9
      | _ => .error 9
  else .error 7

/-- Writes the layout VVerF (R18 to R21). -/
def encVVerF (op : BitVec 7) (f : BitVec 6) (x : VVerF) : Raw :=
  { tl := .t4, op := op, d := x.d, k := x.k, a := x.a, b := x.b, f := f,
    imm := 0#32 ++ tyCode x.ty ++ 0#3 ++ x.hint ++ x.c ++ 0#1 }

/-- Reads the layout KvappF (R18 to R21). -/
def decKvappF (tys : List Ty) (mk : KvappF → Instr) (r : Raw) : Except Nat Instr :=
  if r.imm &&& 0x73F#48 == 0#48 then
    if r.k == 0#2 then
      match tyOf (r.fld 15 11) with
      | some ty => if tys.contains ty then .ok (mk { d := r.d, a := r.a, b := r.b, ty := ty, hint := r.fld 7 6 }) else .error 9
      | _ => .error 9
    else .error 8
  else .error 7

/-- Writes the layout KvappF (R18 to R21). -/
def encKvappF (op : BitVec 7) (f : BitVec 6) (x : KvappF) : Raw :=
  { tl := .t4, op := op, d := x.d, k := 0#2, a := x.a, b := x.b, f := f,
    imm := 0#32 ++ tyCode x.ty ++ 0#3 ++ x.hint ++ 0#6 }

/-- Reads the layout KvmoveF (R18 to R21). -/
def decKvmoveF (tys : List Ty) (mk : KvmoveF → Instr) (r : Raw) : Except Nat Instr :=
  if r.b == 0#5 && r.d == 0#5 && r.imm &&& 0x701#48 == 0#48 then
    match tyOf (r.fld 15 11) with
      | some ty => if tys.contains ty then .ok (mk { a := r.a, c := r.fld 5 1, k := r.k, ty := ty, hint := r.fld 7 6 }) else .error 9
      | _ => .error 9
  else .error 7

/-- Writes the layout KvmoveF (R18 to R21). -/
def encKvmoveF (op : BitVec 7) (f : BitVec 6) (x : KvmoveF) : Raw :=
  { tl := .t4, op := op, d := 0#5, k := x.k, a := x.a, b := 0#5, f := f,
    imm := 0#32 ++ tyCode x.ty ++ 0#3 ++ x.hint ++ x.c ++ 0#1 }

/-- Reads the layout NaddF (R18 to R21). -/
def decNaddF (tys : List Ty) (mk : NaddF → Instr) (r : Raw) : Except Nat Instr :=
  if r.imm &&& 0x1#48 == 0#48 then
    if r.k == 0#2 then
      match scopeOf (r.fld 13 11), tyOf (r.fld 10 6) with
      | some sc, some ty => if tys.contains ty then .ok (mk { d := r.d, a := r.a, b := r.b, c := r.fld 5 1, acq := r.bit 15, rel := r.bit 14, scope := sc, ty := ty }) else .error 9
      | _, _ => .error 9
    else .error 8
  else .error 7

/-- Writes the layout NaddF (R18 to R21). -/
def encNaddF (op : BitVec 7) (f : BitVec 6) (x : NaddF) : Raw :=
  { tl := .t4, op := op, d := x.d, k := 0#2, a := x.a, b := x.b, f := f,
    imm := 0#32 ++ BitVec.ofBool x.acq ++ BitVec.ofBool x.rel ++ scopeCode x.scope ++ tyCode x.ty ++ x.c ++ 0#1 }

/-- Reads the layout NcpyF (R18 to R21). -/
def decNcpyF (tys : List Ty) (mk : NcpyF → Instr) (r : Raw) : Except Nat Instr :=
  if r.d == 0#5 && r.imm &&& 0xC00F00000000#48 == 0#48 then
    if r.k == 0#2 then
      match scopeOf (r.fld 43 41), tyOf (r.fld 40 36) with
      | some sc, some ty => if tys.contains ty then .ok (mk { a := r.a, b := r.b, acq := r.bit 45, rel := r.bit 44, scope := sc, ty := ty, count := r.fld 31 0 }) else .error 9
      | _, _ => .error 9
    else .error 8
  else .error 7

/-- Writes the layout NcpyF (R18 to R21). -/
def encNcpyF (op : BitVec 7) (f : BitVec 6) (x : NcpyF) : Raw :=
  { tl := .t8, op := op, d := 0#5, k := 0#2, a := x.a, b := x.b, f := f,
    imm := 0#2 ++ BitVec.ofBool x.acq ++ BitVec.ofBool x.rel ++ scopeCode x.scope ++ tyCode x.ty ++ 0#4 ++ x.count }

/-- Reads the layout NzeroF (R18 to R21). -/
def decNzeroF (tys : List Ty) (mk : NzeroF → Instr) (r : Raw) : Except Nat Instr :=
  if r.b == 0#5 && r.d == 0#5 && r.imm &&& 0xC00F00000000#48 == 0#48 then
    if r.k == 0#2 then
      match scopeOf (r.fld 43 41), tyOf (r.fld 40 36) with
      | some sc, some ty => if tys.contains ty then .ok (mk { a := r.a, acq := r.bit 45, rel := r.bit 44, scope := sc, ty := ty, count := r.fld 31 0 }) else .error 9
      | _, _ => .error 9
    else .error 8
  else .error 7

/-- Writes the layout NzeroF (R18 to R21). -/
def encNzeroF (op : BitVec 7) (f : BitVec 6) (x : NzeroF) : Raw :=
  { tl := .t8, op := op, d := 0#5, k := 0#2, a := x.a, b := 0#5, f := f,
    imm := 0#2 ++ BitVec.ofBool x.acq ++ BitVec.ofBool x.rel ++ scopeCode x.scope ++ tyCode x.ty ++ 0#4 ++ x.count }

/-- Reads the layout NgatherF (R18 to R21). -/
def decNgatherF (tys : List Ty) (mk : NgatherF → Instr) (r : Raw) : Except Nat Instr :=
  if r.d == 0#5 && r.imm &&& 0xC00000000000#48 == 0#48 then
    if r.k == 0#2 then
      match scopeOf (r.fld 43 41), tyOf (r.fld 40 36) with
      | some sc, some ty => if tys.contains ty then .ok (mk { a := r.a, b := r.b, acq := r.bit 45, rel := r.bit 44, scope := sc, ty := ty, pat := r.fld 35 32, count := r.fld 31 0 }) else .error 9
      | _, _ => .error 9
    else .error 8
  else .error 7

/-- Writes the layout NgatherF (R18 to R21). -/
def encNgatherF (op : BitVec 7) (f : BitVec 6) (x : NgatherF) : Raw :=
  { tl := .t8, op := op, d := 0#5, k := 0#2, a := x.a, b := x.b, f := f,
    imm := 0#2 ++ BitVec.ofBool x.acq ++ BitVec.ofBool x.rel ++ scopeCode x.scope ++ tyCode x.ty ++ x.pat ++ x.count }

/-- Reads the layout NoptF (R18 to R21). -/
def decNoptF (tys : List Ty) (mk : NoptF → Instr) (r : Raw) : Except Nat Instr :=
  if r.imm &&& 0xC00F00000000#48 == 0#48 then
    if r.k == 0#2 then
      match scopeOf (r.fld 43 41), tyOf (r.fld 40 36) with
      | some sc, some ty => if tys.contains ty then .ok (mk { d := r.d, a := r.a, b := r.b, acq := r.bit 45, rel := r.bit 44, scope := sc, ty := ty, count := r.fld 31 0 }) else .error 9
      | _, _ => .error 9
    else .error 8
  else .error 7

/-- Writes the layout NoptF (R18 to R21). -/
def encNoptF (op : BitVec 7) (f : BitVec 6) (x : NoptF) : Raw :=
  { tl := .t8, op := op, d := x.d, k := 0#2, a := x.a, b := x.b, f := f,
    imm := 0#2 ++ BitVec.ofBool x.acq ++ BitVec.ofBool x.rel ++ scopeCode x.scope ++ tyCode x.ty ++ 0#4 ++ x.count }

/- An inductive of this many constructors exceeds what compiled code can tag, so the functions that build an
instruction are defined without compiled code; the kernel evaluates them. -/
noncomputable section

/-- An instruction with no operands and a T2 tail. -/
def decZ2 (i : Instr) (r : Raw) : Except Nat Instr :=
  if r.d == 0#5 && r.a == 0#5 && r.b == 0#5 then
    if r.k == 0#2 then .ok i else .error 8
  else .error 7

/-- Its words. -/
def encZ2 (op : BitVec 7) (f : BitVec 6) : Raw :=
  { tl := .t2, op := op, d := 0, k := 0, a := 0, b := 0, f := f, imm := 0 }

/-- KVLEN in the KVL layout (R21, R167): `set` selects the form, and the reading form has B = 0. -/
def decKvlen (r : Raw) : Except Nat Instr :=
  if r.imm &&& 0xFFFE#48 == 0#48 && (r.bit 0 || r.b == 0#5) then
    if r.k == 0#2 then
      if r.bit 0 then .ok (.kvlenSet { d := r.d, a := r.a, b := r.b }) else .ok (.kvlenRead { d := r.d, a := r.a })
    else .error 8
  else .error 7

/-- The words of KVLEN, reading form. -/
def encKvlenR (x : R2T4) : Raw :=
  { tl := .t4, op := 0x5C, d := x.d, k := 0, a := x.a, b := 0, f := 4, imm := 0 }

/-- The words of KVLEN, setting form. -/
def encKvlenS (x : R3T4) : Raw :=
  { tl := .t4, op := 0x5C, d := x.d, k := 0, a := x.a, b := x.b, f := 4, imm := 1 }

/-- The words of NOP (R25). -/
def rawNop : Raw := { tl := .none, op := 0, d := 0, k := 0, a := 0, b := 0, f := 0, imm := 0 }

/-- The words of END (R22). -/
def rawEnd : Raw := { tl := .none, op := 0x1D, d := 0, k := 0, a := 0, b := 0, f := 0, imm := 0 }

/-- One F value of a family: the tail it requires and how its fields are read (R22). -/
structure Form where
  tail : Tail
  read : Raw → Except Nat Instr


/-- The instructions of OP 0x01 in the order of their F (R22). -/
def fam01 : List Form :=
  [⟨.t2, decAluF .add⟩, ⟨.t2, decAluF .sub⟩, ⟨.t2, decAluF .and⟩, ⟨.t2, decAluF .or⟩, ⟨.t2, decAluF .xor⟩,
   ⟨.t2, decAluF .shl⟩, ⟨.t2, decAluF .shr⟩, ⟨.t2, decAluF .sra⟩, ⟨.t2, decAluF .mul⟩,
   ⟨.t2, decAluF .mulh⟩, ⟨.t2, decAluF .mulhu⟩, ⟨.t2, decAluF .div⟩, ⟨.t2, decAluF .divu⟩,
   ⟨.t2, decAluF .rem⟩, ⟨.t2, decAluF .remu⟩, ⟨.t2, decAluF .min⟩, ⟨.t2, decAluF .max⟩,
   ⟨.t2, decAluF .minu⟩, ⟨.t2, decAluF .maxu⟩, ⟨.t2, decAluF .slt⟩, ⟨.t2, decAluF .sltu⟩,
   ⟨.t2, decAluF .seq⟩, ⟨.t2, decAluUF .clz⟩, ⟨.t2, decAluUF .ctz⟩, ⟨.t2, decAluUF .popc⟩]

/-- The instructions of OP 0x02 in the order of their F (R22). -/
def fam02 : List Form :=
  [⟨.t4, decAluIF .addi⟩, ⟨.t4, decAluIF .andi⟩, ⟨.t4, decAluIF .ori⟩, ⟨.t4, decAluIF .xori⟩,
   ⟨.t4, decAluSF .shli⟩, ⟨.t4, decAluSF .shri⟩, ⟨.t4, decAluSF .srai⟩, ⟨.t4, decAluIF .slti⟩,
   ⟨.t4, decAluIF .sltui⟩]

/-- The instructions of OP 0x03 in the order of their F (R22). -/
def fam03 : List Form :=
  [⟨.t8, decLiF .li⟩, ⟨.t8, decLihF .lih⟩]

/-- The instructions of OP 0x04 in the order of their F (R22). -/
def fam04 : List Form :=
  [⟨.t2, decFpuF .fadd⟩, ⟨.t2, decFpuF .fsub⟩, ⟨.t2, decFpuF .fmul⟩, ⟨.t2, decFpuF .fdiv⟩,
   ⟨.t2, decFpuUF .fsqrt⟩, ⟨.t2, decR3T2 .fmin⟩, ⟨.t2, decR3T2 .fmax⟩, ⟨.t2, decR3T2 .feq⟩,
   ⟨.t2, decR3T2 .flt⟩, ⟨.t2, decR3T2 .fle⟩, ⟨.t2, decFpuUF .fcvtif⟩, ⟨.t2, decFpuUF .fcvtfi⟩,
   ⟨.t2, decR2T2 .fclass⟩]

/-- The instructions of OP 0x05 in the order of their F (R22). -/
def fam05 : List Form :=
  [⟨.t4, decFmaF .ffma⟩, ⟨.t4, decFmaF .ffms⟩, ⟨.t4, decFmaF .fnfma⟩]

/-- The instructions of OP 0x08 in the order of their F (R22). -/
def fam08 : List Form :=
  [⟨.t4, decBrF .beq⟩, ⟨.t4, decBrF .bne⟩, ⟨.t4, decBrF .blt⟩, ⟨.t4, decBrF .bge⟩, ⟨.t4, decBrF .bltu⟩,
   ⟨.t4, decBrF .bgeu⟩]

/-- The instructions of OP 0x09 in the order of their F (R22). -/
def fam09 : List Form :=
  [⟨.t8, decJalF .jal⟩]

/-- The instructions of OP 0x0A in the order of their F (R22). -/
def fam0A : List Form :=
  [⟨.t2, decR2T2 .jalr⟩]

/-- The instructions of OP 0x10 in the order of their F (R22). -/
def fam10 : List Form :=
  [⟨.t4, decMemF .lb⟩, ⟨.t4, decMemF .lbu⟩, ⟨.t4, decMemF .lh⟩, ⟨.t4, decMemF .lhu⟩, ⟨.t4, decMemF .lw⟩,
   ⟨.t4, decMemF .lwu⟩, ⟨.t4, decMemF .ld⟩]

/-- The instructions of OP 0x11 in the order of their F (R22). -/
def fam11 : List Form :=
  [⟨.t4, decMemF .sb⟩, ⟨.t4, decMemF .sh⟩, ⟨.t4, decMemF .sw⟩, ⟨.t4, decMemF .sd⟩]

/-- The instructions of OP 0x12 in the order of their F (R22). -/
def fam12 : List Form :=
  [⟨.t4, decAmoF .amoadd⟩, ⟨.t4, decAmoF .amoswap⟩, ⟨.t4, decAmoF .amoand⟩, ⟨.t4, decAmoF .amoor⟩,
   ⟨.t4, decAmoF .amoxor⟩, ⟨.t4, decAmoF .amomin⟩, ⟨.t4, decAmoF .amomax⟩, ⟨.t4, decAmoF .amominu⟩,
   ⟨.t4, decAmoF .amomaxu⟩, ⟨.t4, decAmoF .amofadd⟩, ⟨.t4, decAmoCasF .amocas⟩]

/-- The instructions of OP 0x13 in the order of their F (R22). -/
def fam13 : List Form :=
  [⟨.t4, decOrdF .ldaW⟩, ⟨.t4, decOrdF .ldaD⟩, ⟨.t4, decOrdF .stlW⟩, ⟨.t4, decOrdF .stlD⟩]

/-- The instructions of OP 0x14 in the order of their F (R22). -/
def fam14 : List Form :=
  [⟨.t2, decFenceF .fence⟩, ⟨.t2, decZ2 .fenceSv⟩, ⟨.t2, decZ2 .fenceVs⟩]

/-- The instructions of OP 0x15 in the order of their F (R22). -/
def fam15 : List Form :=
  [⟨.t4, decCacheF .cflush⟩, ⟨.t4, decCacheF .cinv⟩, ⟨.t4, decCacheF .cpref⟩, ⟨.t4, decCacheF .cdrop⟩]

/-- The instructions of OP 0x16 in the order of their F (R22). -/
def fam16 : List Form :=
  [⟨.t4, decWaitF .waitne⟩, ⟨.t4, decWaitF .waiteq⟩]

/-- The instructions of OP 0x18 in the order of their F (R22). -/
def fam18 : List Form :=
  [⟨.t4, decCsrRF .csrr⟩, ⟨.t4, decCsrF .csrw⟩, ⟨.t4, decCsrF .csrs⟩, ⟨.t4, decCsrF .csrc⟩]

/-- The instructions of OP 0x19 in the order of their F (R22). -/
def fam19 : List Form :=
  [⟨.t4, decCodeF .trap⟩, ⟨.t2, decZ2 .eret⟩, ⟨.t2, decR1T2 .resume⟩, ⟨.t2, decRabT2 .tlbinvAddress⟩,
   ⟨.t2, decZ2 .wfi⟩]

/-- The instructions of OP 0x1A in the order of their F (R22). -/
def fam1A : List Form :=
  [⟨.t2, decR2T2 .ctxsave⟩, ⟨.t2, decR2T2 .ctxrest⟩, ⟨.t2, decR2T2 .vqsave⟩, ⟨.t2, decR2T2 .vqrest⟩]

/-- The instructions of OP 0x1C in the order of their F (R22). -/
def fam1C : List Form :=
  [⟨.t2, decR2T2 .spawn⟩, ⟨.t2, decR2T2 .spawng⟩, ⟨.t2, decR2T2 .spawnl⟩, ⟨.t2, decR3T2 .join⟩,
   ⟨.t2, decR1T2 .yield⟩]

/-- The instructions of OP 0x1E in the order of their F (R22). -/
def fam1E : List Form :=
  [⟨.t2, decR2T2 .lvcancel⟩, ⟨.t2, decR2T2 .lvquery⟩]

/-- The instructions of OP 0x20 in the order of their F (R22). -/
def fam20 : List Form :=
  [⟨.t2, decR3T2 .barinit⟩, ⟨.t2, decR2T2 .bararr⟩, ⟨.t2, decR3T2 .barwait⟩, ⟨.t2, decR2T2 .barkill⟩]

/-- The instructions of OP 0x21 in the order of their F (R22). -/
def fam21 : List Form :=
  [⟨.t4, decRabT4 .post⟩, ⟨.t4, decR3T4 .waiti⟩]

/-- The instructions of OP 0x28 in the order of their F (R22). -/
def fam28 : List Form :=
  [⟨.t4, decLenF tyAll .setlen⟩, ⟨.t4, decShpF .vshape⟩, ⟨.t4, decLenF tyAll .vmovx⟩,
   ⟨.t4, decLenF tyNoB24 .vmovv⟩, ⟨.t4, decR1T4 .setlenf⟩]

/-- The instructions of OP 0x29 in the order of their F (R22). -/
def fam29 : List Form :=
  [⟨.t2, decK3F .kand⟩, ⟨.t2, decK3F .kor⟩, ⟨.t2, decK3F .kxor⟩, ⟨.t2, decK3F .kandn⟩, ⟨.t2, decK2F .knot⟩,
   ⟨.t2, decKxF .kpop⟩, ⟨.t2, decKxF .kfirst⟩, ⟨.t2, decKsetF .kset⟩]

/-- The instructions of OP 0x30 in the order of their F (R22). -/
def fam30 : List Form :=
  [⟨.t4, decVBinF tyVint .vadd⟩, ⟨.t4, decVBinF tyVint .vsub⟩, ⟨.t4, decVBinF tyVint .vmul⟩,
   ⟨.t4, decVBinF tyVint .vmulh⟩, ⟨.t4, decVBinF tyVint .vand⟩, ⟨.t4, decVBinF tyVint .vor⟩,
   ⟨.t4, decVBinF tyVint .vxor⟩, ⟨.t4, decVBinF tyVint .vshl⟩, ⟨.t4, decVBinF tyVint .vshr⟩,
   ⟨.t4, decVBinF tyVint .vsra⟩, ⟨.t4, decVBinF tyVint .vmin⟩, ⟨.t4, decVBinF tyVint .vmax⟩,
   ⟨.t4, decVUnF tyVint .vabs⟩, ⟨.t4, decVUnF tyVint .vneg⟩, ⟨.t4, decVCmpF tyVint .vcmpeq⟩,
   ⟨.t4, decVCmpF tyVint .vcmplt⟩, ⟨.t4, decVCmpF tyVint .vcmple⟩, ⟨.t4, decVBinF tyVint .vsel⟩,
   ⟨.t4, decVIotaF tyVint .viota⟩]

/-- The instructions of OP 0x31 in the order of their F (R22). -/
def fam31 : List Form :=
  [⟨.t4, decVBinF tyVint .vaddScalar⟩, ⟨.t4, decVBinF tyVint .vsubScalar⟩,
   ⟨.t4, decVBinF tyVint .vmulScalar⟩, ⟨.t4, decVBinF tyVint .vmulhScalar⟩,
   ⟨.t4, decVBinF tyVint .vandScalar⟩, ⟨.t4, decVBinF tyVint .vorScalar⟩,
   ⟨.t4, decVBinF tyVint .vxorScalar⟩, ⟨.t4, decVBinF tyVint .vshlScalar⟩,
   ⟨.t4, decVBinF tyVint .vshrScalar⟩, ⟨.t4, decVBinF tyVint .vsraScalar⟩,
   ⟨.t4, decVBinF tyVint .vminScalar⟩, ⟨.t4, decVBinF tyVint .vmaxScalar⟩,
   ⟨.t4, decVUnF tyVint .vabsScalar⟩, ⟨.t4, decVUnF tyVint .vnegScalar⟩,
   ⟨.t4, decVCmpF tyVint .vcmpeqScalar⟩, ⟨.t4, decVCmpF tyVint .vcmpltScalar⟩,
   ⟨.t4, decVCmpF tyVint .vcmpleScalar⟩, ⟨.t4, decVBinF tyVint .vselScalar⟩,
   ⟨.t4, decVIotaXF tyVint .viotaScalar⟩]

/-- The instructions of OP 0x38 in the order of their F (R22). -/
def fam38 : List Form :=
  [⟨.t4, decVFpF tyVfp .vfadd⟩, ⟨.t4, decVFpF tyVfp .vfsub⟩, ⟨.t4, decVFpF tyVfp .vfmul⟩,
   ⟨.t4, decVFpF tyVfp .vfdiv⟩, ⟨.t4, decVFpUF tyVfp .vfsqrt⟩, ⟨.t4, decVFpF tyVfp .vfmin⟩,
   ⟨.t4, decVFpF tyVfp .vfmax⟩, ⟨.t4, decVFpUF tyVfp .vfabs⟩, ⟨.t4, decVFpUF tyVfp .vfneg⟩,
   ⟨.t4, decVFCmpF tyVfp .vfcmpeq⟩, ⟨.t4, decVFCmpF tyVfp .vfcmplt⟩, ⟨.t4, decVFCmpF tyVfp .vfcmple⟩,
   ⟨.t4, decVFpUF tyVfp .vfrcp⟩, ⟨.t4, decVFpUF tyVfp .vfrsq⟩, ⟨.t4, decVFpUF tyVfp .vfexp2⟩,
   ⟨.t4, decVFpUF tyVfp .vflog2⟩]

/-- The instructions of OP 0x39 in the order of their F (R22). -/
def fam39 : List Form :=
  [⟨.t4, decVFmaF tyVfp .vfma⟩, ⟨.t4, decVFmaF tyVfp .vfms⟩, ⟨.t4, decVFmaF tyVfp .vfnma⟩]

/-- The instructions of OP 0x3A in the order of their F (R22). -/
def fam3A : List Form :=
  [⟨.t4, decVFpF tyVfp .vfaddScalar⟩, ⟨.t4, decVFpF tyVfp .vfsubScalar⟩, ⟨.t4, decVFpF tyVfp .vfmulScalar⟩,
   ⟨.t4, decVFpF tyVfp .vfdivScalar⟩, ⟨.t4, decVFpUF tyVfp .vfsqrtScalar⟩,
   ⟨.t4, decVFpF tyVfp .vfminScalar⟩, ⟨.t4, decVFpF tyVfp .vfmaxScalar⟩,
   ⟨.t4, decVFpUF tyVfp .vfabsScalar⟩, ⟨.t4, decVFpUF tyVfp .vfnegScalar⟩,
   ⟨.t4, decVFCmpF tyVfp .vfcmpeqScalar⟩, ⟨.t4, decVFCmpF tyVfp .vfcmpltScalar⟩,
   ⟨.t4, decVFCmpF tyVfp .vfcmpleScalar⟩, ⟨.t4, decVFpUF tyVfp .vfrcpScalar⟩,
   ⟨.t4, decVFpUF tyVfp .vfrsqScalar⟩, ⟨.t4, decVFpUF tyVfp .vfexp2Scalar⟩,
   ⟨.t4, decVFpUF tyVfp .vflog2Scalar⟩]

/-- The instructions of OP 0x3C in the order of their F (R22). -/
def fam3C : List Form :=
  [⟨.t4, decVFpF tyNoB24 .vcvt⟩, ⟨.t4, decVFpF tyVfp .vcvtd⟩, ⟨.t4, decQpackF tySmall .vqpack⟩,
   ⟨.t4, decVTyF tyB24 .vbacc⟩, ⟨.t4, decBnormF tyFp32 .vbnorm⟩, ⟨.t4, decVTyBF tyZero .vscale⟩]

/-- The instructions of OP 0x3D in the order of their F (R22). -/
def fam3D : List Form :=
  [⟨.t4, decRedF tyRed .vredsum⟩, ⟨.t4, decRedNF tyRed .vredmax⟩, ⟨.t4, decRedNF tyRed .vredmin⟩,
   ⟨.t4, decRedNF tyRed .vargmax⟩, ⟨.t4, decRedNF tyRed .vargmin⟩, ⟨.t4, decRedNF tyVint .vredand⟩,
   ⟨.t4, decRedNF tyVint .vredor⟩]

/-- The instructions of OP 0x3E in the order of their F (R22). -/
def fam3E : List Form :=
  [⟨.t4, decVTyF tyPlain .vcompress⟩, ⟨.t4, decVTyF tyPlain .vexpand⟩, ⟨.t4, decVTyBF tyPlain .vslideup⟩,
   ⟨.t4, decVTyBF tyPlain .vslidedn⟩, ⟨.t4, decVTyF tyPlain .vtrans⟩, ⟨.t4, decVTyCF tyPlain .vpermc⟩,
   ⟨.t4, decVTyBF tyPlain .vbcast⟩]

/-- The instructions of OP 0x3F in the order of their F (R22). -/
def fam3F : List Form :=
  [⟨.t4, decSinCosF tyFp32 .vsincos⟩, ⟨.t4, decVTyF tyFp32 .vgumbel⟩, ⟨.t4, decVTyBF tyN32 .vhash⟩]

/-- The instructions of OP 0x40 in the order of their F (R22). -/
def fam40 : List Form :=
  [⟨.t4, decVMemF tyLoad .vld⟩, ⟨.t4, decVMemF tyLoad .vldf⟩, ⟨.t4, decVMemBF tySub .vldb⟩,
   ⟨.t4, decVMemF tyStride .vlds⟩, ⟨.t4, decVMemLF tyAll .vldl⟩]

/-- The instructions of OP 0x41 in the order of their F (R22). -/
def fam41 : List Form :=
  [⟨.t4, decVMemF tyAll .vst⟩, ⟨.t4, decVMemBF tySub .vstb⟩, ⟨.t4, decVMemF tyStride .vsts⟩,
   ⟨.t4, decVMemLF tyAll .vstl⟩]

/-- The instructions of OP 0x42 in the order of their F (R22). -/
def fam42 : List Form :=
  [⟨.t4, decVIdxF tyPlain .vgather⟩, ⟨.t4, decVIdxF tyPlain .vscatter⟩, ⟨.t4, decVIdxF tyPlain .vgatherc⟩,
   ⟨.t4, decVIdxF tyPlain .vscatterc⟩]

/-- The instructions of OP 0x43 in the order of their F (R22). -/
def fam43 : List Form :=
  [⟨.t4, decVMemF tyAmoInt .vamoadd⟩, ⟨.t4, decVMemF tyFp32 .vamofadd⟩, ⟨.t4, decVMemF tyAmoInt .vamomin⟩,
   ⟨.t4, decVMemF tyAmoInt .vamomax⟩]

/-- The instructions of OP 0x44 in the order of their F (R22). The entry of AADD says of its TY only that it is the window's (R217, R219), which
is one of 4, 6 and 8; another TY is taken as outside the entry's list, case 9 of R23 (DESIGN CHOICE, log entry 72). -/
def fam44 : List Form :=
  [⟨.t4, decWinF tyWin .awin⟩, ⟨.t4, decVMemLF tyWin .aadd⟩, ⟨.t4, decWin0F tyZero .amerge⟩,
   ⟨.t4, decWin0F tyZero .aclr⟩]

/-- The instructions of OP 0x48 in the order of their F (R22). -/
def fam48 : List Form :=
  [⟨.t8, decCpyF .cpy⟩, ⟨.t8, decCpyF .cpym⟩, ⟨.t8, decCpyF .cpykv⟩, ⟨.t8, decXredF tyXred .xred⟩,
   ⟨.t4, decCpwF .cpwait⟩]

/-- The instructions of OP 0x50 in the order of their F (R22). -/
def fam50 : List Form :=
  [⟨.t4, decGrpF .matt⟩, ⟨.t4, decDetF .mdet⟩, ⟨.t4, decSlotF .mclaim⟩, ⟨.t4, decSlotF .mrel⟩,
   ⟨.t4, decAccF .mzero⟩, ⟨.t4, decR1T4 .mstat⟩]

/-- The instructions of OP 0x51 in the order of their F (R22). -/
def fam51 : List Form :=
  [⟨.t4, decSlotMF tyLoad .mld⟩, ⟨.t4, decSlotMF tyLoad .mldf⟩, ⟨.t4, decSlotMF tyPlain .mldt⟩,
   ⟨.t4, decSlotMF tyAll .mslotw⟩, ⟨.t4, decSlotRF .mslotr⟩]

/-- The instructions of OP 0x52 in the order of their F (R22). -/
def fam52 : List Form :=
  [⟨.t4, decMmaF .mma⟩, ⟨.t4, decMmaF .mmaz⟩, ⟨.t4, decMmaF .mman⟩]

/-- The instructions of OP 0x53 in the order of their F (R22). -/
def fam53 : List Form :=
  [⟨.t4, decDrnF tyDrain .mdrain⟩, ⟨.t4, decAccMF .maccst⟩, ⟨.t4, decAccMF .maccld⟩]

/-- The instructions of OP 0x58 in the order of their F (R22). -/
def fam58 : List Form :=
  [⟨.t2, decR2T2 .gspec⟩, ⟨.t2, decR3T2 .gcommit⟩, ⟨.t2, decR3T2 .gdiscard⟩, ⟨.t2, decR3T2 .gflatten⟩,
   ⟨.t2, decR3T2 .gpoolDonate⟩, ⟨.t2, decR3T2 .gquery⟩]

/-- The instructions of OP 0x5A in the order of their F (R22). -/
def fam5A : List Form :=
  [⟨.t4, decVerF .verst⟩, ⟨.t4, decVerF .verld⟩, ⟨.t4, decVerF .verldn⟩, ⟨.t4, decR3T4 .vfloor⟩,
   ⟨.t4, decR3T4 .vseal⟩, ⟨.t4, decR2T4 .verq⟩]

/-- The instructions of OP 0x5B in the order of their F (R22). -/
def fam5B : List Form :=
  [⟨.t4, decVVerF tyVer .vverst⟩, ⟨.t4, decVVerF tyVer .vverld⟩]

/-- The instructions of OP 0x5C in the order of their F (R22). -/
def fam5C : List Form :=
  [⟨.t4, decKvappF tyKv .kvapp⟩, ⟨.t4, decVMemLF tyKv .kvldk⟩, ⟨.t4, decVMemLF tyKv .kvldv⟩,
   ⟨.t4, decKvmoveF tyN32 .kvmove⟩, ⟨.t4, decKvlen⟩, ⟨.t4, decRabT4 .kvinvSequence⟩]

/-- The instructions of OP 0x5E in the order of their F (R22). -/
def fam5E : List Form :=
  [⟨.t4, decNaddF tyNadd .nadd⟩, ⟨.t4, decR1T4 .nfence⟩, ⟨.t8, decNcpyF tyZero .nrowcpy⟩,
   ⟨.t8, decNzeroF tyZero .nzero⟩, ⟨.t8, decNgatherF tyZero .ngather⟩, ⟨.t8, decNoptF tyFp32 .nopt⟩,
   ⟨.t4, decR3T4 .nstatRead⟩]

/-- The opcode map (R22): the forms of a major opcode, none where it is unassigned. -/
def family (op : BitVec 7) : Option (List Form) :=
  match op.toNat with
  | 0x01 => some fam01
  | 0x02 => some fam02
  | 0x03 => some fam03
  | 0x04 => some fam04
  | 0x05 => some fam05
  | 0x08 => some fam08
  | 0x09 => some fam09
  | 0x0A => some fam0A
  | 0x10 => some fam10
  | 0x11 => some fam11
  | 0x12 => some fam12
  | 0x13 => some fam13
  | 0x14 => some fam14
  | 0x15 => some fam15
  | 0x16 => some fam16
  | 0x18 => some fam18
  | 0x19 => some fam19
  | 0x1A => some fam1A
  | 0x1C => some fam1C
  | 0x1E => some fam1E
  | 0x20 => some fam20
  | 0x21 => some fam21
  | 0x28 => some fam28
  | 0x29 => some fam29
  | 0x30 => some fam30
  | 0x31 => some fam31
  | 0x38 => some fam38
  | 0x39 => some fam39
  | 0x3A => some fam3A
  | 0x3C => some fam3C
  | 0x3D => some fam3D
  | 0x3E => some fam3E
  | 0x3F => some fam3F
  | 0x40 => some fam40
  | 0x41 => some fam41
  | 0x42 => some fam42
  | 0x43 => some fam43
  | 0x44 => some fam44
  | 0x48 => some fam48
  | 0x50 => some fam50
  | 0x51 => some fam51
  | 0x52 => some fam52
  | 0x53 => some fam53
  | 0x58 => some fam58
  | 0x5A => some fam5A
  | 0x5B => some fam5B
  | 0x5C => some fam5C
  | 0x5E => some fam5E
  | _ => none

/-- Decodes the fields of a head and tail, or answers the lowest-numbered case of R23 that applies (cases 1 to 9;
cases 10 and 11 depend on state and are decided when the instruction runs). -/
def decodeRaw (r : Raw) : Except Nat Instr :=
  if r.op == 0x00#7 then
    if r.tl == .none && r.d == 0#5 && r.k == 0#2 then .ok .nop else .error 2
  else if r.op == 0x1D#7 then
    if r.tl == .none && r.d == 0#5 && r.k == 0#2 then .ok .endTask else .error 3
  else
    match family r.op with
    | none => .error 1
    | some forms =>
      if r.tl == .none then .error 4
      else
        match forms[r.f.toNat]? with
        | none => .error 5
        | some form => if form.tail == r.tl then form.read r else .error 6


/-- The words of an instruction (R18 to R22); events have none. -/
def encode : Instr → Option Raw
  | .nop => some rawNop
  | .endTask => some rawEnd
  | .add x => some (encAluF 0x01 0 x)
  | .sub x => some (encAluF 0x01 1 x)
  | .and x => some (encAluF 0x01 2 x)
  | .or x => some (encAluF 0x01 3 x)
  | .xor x => some (encAluF 0x01 4 x)
  | .shl x => some (encAluF 0x01 5 x)
  | .shr x => some (encAluF 0x01 6 x)
  | .sra x => some (encAluF 0x01 7 x)
  | .mul x => some (encAluF 0x01 8 x)
  | .mulh x => some (encAluF 0x01 9 x)
  | .mulhu x => some (encAluF 0x01 10 x)
  | .div x => some (encAluF 0x01 11 x)
  | .divu x => some (encAluF 0x01 12 x)
  | .rem x => some (encAluF 0x01 13 x)
  | .remu x => some (encAluF 0x01 14 x)
  | .min x => some (encAluF 0x01 15 x)
  | .max x => some (encAluF 0x01 16 x)
  | .minu x => some (encAluF 0x01 17 x)
  | .maxu x => some (encAluF 0x01 18 x)
  | .slt x => some (encAluF 0x01 19 x)
  | .sltu x => some (encAluF 0x01 20 x)
  | .seq x => some (encAluF 0x01 21 x)
  | .clz x => some (encAluUF 0x01 22 x)
  | .ctz x => some (encAluUF 0x01 23 x)
  | .popc x => some (encAluUF 0x01 24 x)
  | .addi x => some (encAluIF 0x02 0 x)
  | .andi x => some (encAluIF 0x02 1 x)
  | .ori x => some (encAluIF 0x02 2 x)
  | .xori x => some (encAluIF 0x02 3 x)
  | .shli x => some (encAluSF 0x02 4 x)
  | .shri x => some (encAluSF 0x02 5 x)
  | .srai x => some (encAluSF 0x02 6 x)
  | .slti x => some (encAluIF 0x02 7 x)
  | .sltui x => some (encAluIF 0x02 8 x)
  | .li x => some (encLiF 0x03 0 x)
  | .lih x => some (encLihF 0x03 1 x)
  | .fadd x => some (encFpuF 0x04 0 x)
  | .fsub x => some (encFpuF 0x04 1 x)
  | .fmul x => some (encFpuF 0x04 2 x)
  | .fdiv x => some (encFpuF 0x04 3 x)
  | .fsqrt x => some (encFpuUF 0x04 4 x)
  | .fmin x => some (encR3T2 0x04 5 x)
  | .fmax x => some (encR3T2 0x04 6 x)
  | .feq x => some (encR3T2 0x04 7 x)
  | .flt x => some (encR3T2 0x04 8 x)
  | .fle x => some (encR3T2 0x04 9 x)
  | .fcvtif x => some (encFpuUF 0x04 10 x)
  | .fcvtfi x => some (encFpuUF 0x04 11 x)
  | .fclass x => some (encR2T2 0x04 12 x)
  | .ffma x => some (encFmaF 0x05 0 x)
  | .ffms x => some (encFmaF 0x05 1 x)
  | .fnfma x => some (encFmaF 0x05 2 x)
  | .beq x => some (encBrF 0x08 0 x)
  | .bne x => some (encBrF 0x08 1 x)
  | .blt x => some (encBrF 0x08 2 x)
  | .bge x => some (encBrF 0x08 3 x)
  | .bltu x => some (encBrF 0x08 4 x)
  | .bgeu x => some (encBrF 0x08 5 x)
  | .jal x => some (encJalF 0x09 0 x)
  | .jalr x => some (encR2T2 0x0A 0 x)
  | .lb x => some (encMemF 0x10 0 x)
  | .lbu x => some (encMemF 0x10 1 x)
  | .lh x => some (encMemF 0x10 2 x)
  | .lhu x => some (encMemF 0x10 3 x)
  | .lw x => some (encMemF 0x10 4 x)
  | .lwu x => some (encMemF 0x10 5 x)
  | .ld x => some (encMemF 0x10 6 x)
  | .sb x => some (encMemF 0x11 0 x)
  | .sh x => some (encMemF 0x11 1 x)
  | .sw x => some (encMemF 0x11 2 x)
  | .sd x => some (encMemF 0x11 3 x)
  | .amoadd x => some (encAmoF 0x12 0 x)
  | .amoswap x => some (encAmoF 0x12 1 x)
  | .amoand x => some (encAmoF 0x12 2 x)
  | .amoor x => some (encAmoF 0x12 3 x)
  | .amoxor x => some (encAmoF 0x12 4 x)
  | .amomin x => some (encAmoF 0x12 5 x)
  | .amomax x => some (encAmoF 0x12 6 x)
  | .amominu x => some (encAmoF 0x12 7 x)
  | .amomaxu x => some (encAmoF 0x12 8 x)
  | .amofadd x => some (encAmoF 0x12 9 x)
  | .amocas x => some (encAmoCasF 0x12 10 x)
  | .ldaW x => some (encOrdF 0x13 0 x)
  | .ldaD x => some (encOrdF 0x13 1 x)
  | .stlW x => some (encOrdF 0x13 2 x)
  | .stlD x => some (encOrdF 0x13 3 x)
  | .fence x => some (encFenceF 0x14 0 x)
  | .fenceSv => some (encZ2 0x14 1)
  | .fenceVs => some (encZ2 0x14 2)
  | .cflush x => some (encCacheF 0x15 0 x)
  | .cinv x => some (encCacheF 0x15 1 x)
  | .cpref x => some (encCacheF 0x15 2 x)
  | .cdrop x => some (encCacheF 0x15 3 x)
  | .waitne x => some (encWaitF 0x16 0 x)
  | .waiteq x => some (encWaitF 0x16 1 x)
  | .waitaReread _ => none
  | .waitaTimeout _ => none
  | .csrr x => some (encCsrRF 0x18 0 x)
  | .csrw x => some (encCsrF 0x18 1 x)
  | .csrs x => some (encCsrF 0x18 2 x)
  | .csrc x => some (encCsrF 0x18 3 x)
  | .cpwpWrite x => some (encCsrF 0x18 1 { d := x.d, a := x.a, csr := cpwpCsr x.ch })
  | .trap x => some (encCodeF 0x19 0 x)
  | .eret => some (encZ2 0x19 1)
  | .resume x => some (encR1T2 0x19 2 x)
  | .tlbinvAddress x => some (encRabT2 0x19 3 x)
  | .tlbinvAsid x => some (encRabT2 0x19 3 x)
  | .tlbinvAll x => some (encRabT2 0x19 3 x)
  | .wfi => some (encZ2 0x19 4)
  | .ctxsave x => some (encR2T2 0x1A 0 x)
  | .ctxrest x => some (encR2T2 0x1A 1 x)
  | .vqsave x => some (encR2T2 0x1A 2 x)
  | .vqrest x => some (encR2T2 0x1A 3 x)
  | .spawn x => some (encR2T2 0x1C 0 x)
  | .spawng x => some (encR2T2 0x1C 1 x)
  | .spawnl x => some (encR2T2 0x1C 2 x)
  | .join x => some (encR3T2 0x1C 3 x)
  | .joinPushRetry _ => none
  | .yield x => some (encR1T2 0x1C 4 x)
  | .lvcancel x => some (encR2T2 0x1E 0 x)
  | .lvquery x => some (encR2T2 0x1E 1 x)
  | .barinit x => some (encR3T2 0x20 0 x)
  | .barinitUnregister x => some (encR3T2 0x20 0 x)
  | .bararr x => some (encR2T2 0x20 1 x)
  | .barwait x => some (encR3T2 0x20 2 x)
  | .barkill x => some (encR2T2 0x20 3 x)
  | .post x => some (encRabT4 0x21 0 x)
  | .postArrival _ _ => none
  | .waiti x => some (encR3T4 0x21 1 x)
  | .setlen x => some (encLenF 0x28 0 x)
  | .vshape x => some (encShpF 0x28 1 x)
  | .vmovx x => some (encLenF 0x28 2 x)
  | .vmovv x => some (encLenF 0x28 3 x)
  | .setlenf x => some (encR1T4 0x28 4 x)
  | .kand x => some (encK3F 0x29 0 x)
  | .kor x => some (encK3F 0x29 1 x)
  | .kxor x => some (encK3F 0x29 2 x)
  | .kandn x => some (encK3F 0x29 3 x)
  | .knot x => some (encK2F 0x29 4 x)
  | .kpop x => some (encKxF 0x29 5 x)
  | .kfirst x => some (encKxF 0x29 6 x)
  | .kset x => some (encKsetF 0x29 7 x)
  | .vadd x => some (encVBinF 0x30 0 x)
  | .vsub x => some (encVBinF 0x30 1 x)
  | .vmul x => some (encVBinF 0x30 2 x)
  | .vmulh x => some (encVBinF 0x30 3 x)
  | .vand x => some (encVBinF 0x30 4 x)
  | .vor x => some (encVBinF 0x30 5 x)
  | .vxor x => some (encVBinF 0x30 6 x)
  | .vshl x => some (encVBinF 0x30 7 x)
  | .vshr x => some (encVBinF 0x30 8 x)
  | .vsra x => some (encVBinF 0x30 9 x)
  | .vmin x => some (encVBinF 0x30 10 x)
  | .vmax x => some (encVBinF 0x30 11 x)
  | .vabs x => some (encVUnF 0x30 12 x)
  | .vneg x => some (encVUnF 0x30 13 x)
  | .vcmpeq x => some (encVCmpF 0x30 14 x)
  | .vcmplt x => some (encVCmpF 0x30 15 x)
  | .vcmple x => some (encVCmpF 0x30 16 x)
  | .vsel x => some (encVBinF 0x30 17 x)
  | .viota x => some (encVIotaF 0x30 18 x)
  | .vaddScalar x => some (encVBinF 0x31 0 x)
  | .vsubScalar x => some (encVBinF 0x31 1 x)
  | .vmulScalar x => some (encVBinF 0x31 2 x)
  | .vmulhScalar x => some (encVBinF 0x31 3 x)
  | .vandScalar x => some (encVBinF 0x31 4 x)
  | .vorScalar x => some (encVBinF 0x31 5 x)
  | .vxorScalar x => some (encVBinF 0x31 6 x)
  | .vshlScalar x => some (encVBinF 0x31 7 x)
  | .vshrScalar x => some (encVBinF 0x31 8 x)
  | .vsraScalar x => some (encVBinF 0x31 9 x)
  | .vminScalar x => some (encVBinF 0x31 10 x)
  | .vmaxScalar x => some (encVBinF 0x31 11 x)
  | .vabsScalar x => some (encVUnF 0x31 12 x)
  | .vnegScalar x => some (encVUnF 0x31 13 x)
  | .vcmpeqScalar x => some (encVCmpF 0x31 14 x)
  | .vcmpltScalar x => some (encVCmpF 0x31 15 x)
  | .vcmpleScalar x => some (encVCmpF 0x31 16 x)
  | .vselScalar x => some (encVBinF 0x31 17 x)
  | .viotaScalar x => some (encVIotaXF 0x31 18 x)
  | .vfadd x => some (encVFpF 0x38 0 x)
  | .vfsub x => some (encVFpF 0x38 1 x)
  | .vfmul x => some (encVFpF 0x38 2 x)
  | .vfdiv x => some (encVFpF 0x38 3 x)
  | .vfsqrt x => some (encVFpUF 0x38 4 x)
  | .vfmin x => some (encVFpF 0x38 5 x)
  | .vfmax x => some (encVFpF 0x38 6 x)
  | .vfabs x => some (encVFpUF 0x38 7 x)
  | .vfneg x => some (encVFpUF 0x38 8 x)
  | .vfcmpeq x => some (encVFCmpF 0x38 9 x)
  | .vfcmplt x => some (encVFCmpF 0x38 10 x)
  | .vfcmple x => some (encVFCmpF 0x38 11 x)
  | .vfrcp x => some (encVFpUF 0x38 12 x)
  | .vfrsq x => some (encVFpUF 0x38 13 x)
  | .vfexp2 x => some (encVFpUF 0x38 14 x)
  | .vflog2 x => some (encVFpUF 0x38 15 x)
  | .vfaddScalar x => some (encVFpF 0x3A 0 x)
  | .vfsubScalar x => some (encVFpF 0x3A 1 x)
  | .vfmulScalar x => some (encVFpF 0x3A 2 x)
  | .vfdivScalar x => some (encVFpF 0x3A 3 x)
  | .vfsqrtScalar x => some (encVFpUF 0x3A 4 x)
  | .vfminScalar x => some (encVFpF 0x3A 5 x)
  | .vfmaxScalar x => some (encVFpF 0x3A 6 x)
  | .vfabsScalar x => some (encVFpUF 0x3A 7 x)
  | .vfnegScalar x => some (encVFpUF 0x3A 8 x)
  | .vfcmpeqScalar x => some (encVFCmpF 0x3A 9 x)
  | .vfcmpltScalar x => some (encVFCmpF 0x3A 10 x)
  | .vfcmpleScalar x => some (encVFCmpF 0x3A 11 x)
  | .vfrcpScalar x => some (encVFpUF 0x3A 12 x)
  | .vfrsqScalar x => some (encVFpUF 0x3A 13 x)
  | .vfexp2Scalar x => some (encVFpUF 0x3A 14 x)
  | .vflog2Scalar x => some (encVFpUF 0x3A 15 x)
  | .vfma x => some (encVFmaF 0x39 0 x)
  | .vfms x => some (encVFmaF 0x39 1 x)
  | .vfnma x => some (encVFmaF 0x39 2 x)
  | .vcvt x => some (encVFpF 0x3C 0 x)
  | .vcvtd x => some (encVFpF 0x3C 1 x)
  | .vqpack x => some (encQpackF 0x3C 2 x)
  | .vbacc x => some (encVTyF 0x3C 3 x)
  | .vbnorm x => some (encBnormF 0x3C 4 x)
  | .vscale x => some (encVTyBF 0x3C 5 x)
  | .vredsum x => some (encRedF 0x3D 0 x)
  | .vredmax x => some (encRedNF 0x3D 1 x)
  | .vredmin x => some (encRedNF 0x3D 2 x)
  | .vargmax x => some (encRedNF 0x3D 3 x)
  | .vargmin x => some (encRedNF 0x3D 4 x)
  | .vredand x => some (encRedNF 0x3D 5 x)
  | .vredor x => some (encRedNF 0x3D 6 x)
  | .vcompress x => some (encVTyF 0x3E 0 x)
  | .vexpand x => some (encVTyF 0x3E 1 x)
  | .vslideup x => some (encVTyBF 0x3E 2 x)
  | .vslidedn x => some (encVTyBF 0x3E 3 x)
  | .vtrans x => some (encVTyF 0x3E 4 x)
  | .vpermc x => some (encVTyCF 0x3E 5 x)
  | .vbcast x => some (encVTyBF 0x3E 6 x)
  | .vsincos x => some (encSinCosF 0x3F 0 x)
  | .vgumbel x => some (encVTyF 0x3F 1 x)
  | .vhash x => some (encVTyBF 0x3F 2 x)
  | .vld x => some (encVMemF 0x40 0 x)
  | .vldf x => some (encVMemF 0x40 1 x)
  | .vldb x => some (encVMemBF 0x40 2 x)
  | .vlds x => some (encVMemF 0x40 3 x)
  | .vldl x => some (encVMemLF 0x40 4 x)
  | .vst x => some (encVMemF 0x41 0 x)
  | .vstb x => some (encVMemBF 0x41 1 x)
  | .vsts x => some (encVMemF 0x41 2 x)
  | .vstl x => some (encVMemLF 0x41 3 x)
  | .vgather x => some (encVIdxF 0x42 0 x)
  | .vscatter x => some (encVIdxF 0x42 1 x)
  | .vgatherc x => some (encVIdxF 0x42 2 x)
  | .vscatterc x => some (encVIdxF 0x42 3 x)
  | .vamoadd x => some (encVMemF 0x43 0 x)
  | .vamofadd x => some (encVMemF 0x43 1 x)
  | .vamomin x => some (encVMemF 0x43 2 x)
  | .vamomax x => some (encVMemF 0x43 3 x)
  | .awin x => some (encWinF 0x44 0 x)
  | .aadd x => some (encVMemLF 0x44 1 x)
  | .amerge x => some (encWin0F 0x44 2 x)
  | .aclr x => some (encWin0F 0x44 3 x)
  | .cpy x => some (encCpyF 0x48 0 x)
  | .cpym x => some (encCpyF 0x48 1 x)
  | .cpykv x => some (encCpyF 0x48 2 x)
  | .xred x => some (encXredF 0x48 3 x)
  | .cpwait x => some (encCpwF 0x48 4 x)
  | .copyIssue _ => none
  | .copyRowDelivery _ _ => none
  | .xredRoundComplete _ => none
  | .matt x => some (encGrpF 0x50 0 x)
  | .mdet x => some (encDetF 0x50 1 x)
  | .mclaim x => some (encSlotF 0x50 2 x)
  | .mrel x => some (encSlotF 0x50 3 x)
  | .mzero x => some (encAccF 0x50 4 x)
  | .mstat x => some (encR1T4 0x50 5 x)
  | .mld x => some (encSlotMF 0x51 0 x)
  | .mldf x => some (encSlotMF 0x51 1 x)
  | .mldt x => some (encSlotMF 0x51 2 x)
  | .mslotw x => some (encSlotMF 0x51 3 x)
  | .mslotr x => some (encSlotRF 0x51 4 x)
  | .mma x => some (encMmaF 0x52 0 x)
  | .mmaz x => some (encMmaF 0x52 1 x)
  | .mman x => some (encMmaF 0x52 2 x)
  | .mdrain x => some (encDrnF 0x53 0 x)
  | .maccst x => some (encAccMF 0x53 1 x)
  | .maccld x => some (encAccMF 0x53 2 x)
  | .gspec x => some (encR2T2 0x58 0 x)
  | .gcommit x => some (encR3T2 0x58 1 x)
  | .gdiscard x => some (encR3T2 0x58 2 x)
  | .gflatten x => some (encR3T2 0x58 3 x)
  | .gpoolDonate x => some (encR3T2 0x58 4 x)
  | .gpoolDrop x => some (encR3T2 0x58 4 x)
  | .gpoolQuery x => some (encR3T2 0x58 4 x)
  | .gquery x => some (encR3T2 0x58 5 x)
  | .verst x => some (encVerF 0x5A 0 x)
  | .verld x => some (encVerF 0x5A 1 x)
  | .verldn x => some (encVerF 0x5A 2 x)
  | .vfloor x => some (encR3T4 0x5A 3 x)
  | .vseal x => some (encR3T4 0x5A 4 x)
  | .verq x => some (encR2T4 0x5A 5 x)
  | .versionReclaim _ _ _ => none
  | .vverst x => some (encVVerF 0x5B 0 x)
  | .vverld x => some (encVVerF 0x5B 1 x)
  | .kvapp x => some (encKvappF 0x5C 0 x)
  | .kvldk x => some (encVMemLF 0x5C 1 x)
  | .kvldv x => some (encVMemLF 0x5C 2 x)
  | .kvmove x => some (encKvmoveF 0x5C 3 x)
  | .kvlenRead x => some (encKvlenR x)
  | .kvlenSet x => some (encKvlenS x)
  | .kvinvSequence x => some (encRabT4 0x5C 5 x)
  | .kvinvAll x => some (encRabT4 0x5C 5 x)
  | .nadd x => some (encNaddF 0x5E 0 x)
  | .nfence x => some (encR1T4 0x5E 1 x)
  | .nrowcpy x => some (encNcpyF 0x5E 2 x)
  | .nzero x => some (encNzeroF 0x5E 3 x)
  | .ngather x => some (encNgatherF 0x5E 4 x)
  | .nopt x => some (encNoptF 0x5E 5 x)
  | .nstatRead x => some (encR3T4 0x5E 6 x)
  | .nstatPatternWrite x => some (encR3T4 0x5E 6 x)
  | .crustItem _ => none
  | .commit _ => none
  | .perform _ => none
  | .apply _ _ => none
  | .readAtDie _ => none
  | .readAtHome _ => none
  | .installFill _ => none
  | .trapEntry _ => none
  | .preEmptionRequest _ _ => none
  | .managementMessage _ => none
  | .budgetExceeded _ => none
  | .hostQueueServe => none
  | .queueAging _ => none
  | .shareGrant _ => none
  | .streamEviction _ => none
  | .taskStart _ => none
  | .fabricAccessTimeout _ => none
  | .collectiveRoundTimeout _ => none
  | .collectiveGroupRegister _ => none
  | .hostCxlMemAccess _ => none
  | .ptmExchange _ => none
  | .lossOfLock => none
  | .powerGood => none
  | .bringUpConfig _ => none
  | .reset => none
  | .firmwareImageLoad _ => none
  | .sealKeyLoad _ => none
  | .lifeCycleTransition _ => none
  | .powerCapSet _ => none
  | .clockStep _ => none
  | .dramError _ => none
  | .powerOff => none
  | .remoteFabricAccess _ => none
  | .attestationRequest _ => none

/-- The instruction whose words an instruction shares: rows of the opcode table that differ only by the value of a
register have one encoding, and the decoder answers the first of them (R103, R126, R173, R196, R222, R329). -/
def Instr.canonical : Instr → Instr
  | .tlbinvAsid x => .tlbinvAddress x
  | .tlbinvAll x => .tlbinvAddress x
  | .barinitUnregister x => .barinit x
  | .gpoolDrop x => .gpoolDonate x
  | .gpoolQuery x => .gpoolDonate x
  | .kvinvAll x => .kvinvSequence x
  | .nstatPatternWrite x => .nstatRead x
  | .cpwpWrite x => .csrw { d := x.d, a := x.a, csr := cpwpCsr x.ch }
  | i => i

/-- TL of a head (R18). -/
def tailOf (c : BitVec 2) : Tail :=
  match c.toNat with
  | 0 => .none | 1 => .t2 | 2 => .t4 | _ => .t8

/-- The TL code of a tail. -/
def Tail.code : Tail → BitVec 2
  | .none => 0 | .t2 => 1 | .t4 => 2 | .t8 => 3

/-- Bytes of a tail (R13). -/
def Tail.bytes : Tail → Nat
  | .none => 0 | .t2 => 2 | .t4 => 4 | .t8 => 8

/-- The fields of a head and the value of its tail (R18, R19); the tail value is zero-extended to 64 bits. -/
def Raw.ofWords (head : BitVec 16) (tail : BitVec 64) : Raw :=
  let tl := tailOf (head.extractLsb' 14 2)
  let base : Raw := { tl := tl, op := head.extractLsb' 7 7, d := head.extractLsb' 2 5, k := head.extractLsb' 0 2,
                      a := 0, b := 0, f := 0, imm := 0 }
  match tl with
  | .none => base
  | .t2 => { base with a := tail.extractLsb' 11 5, b := tail.extractLsb' 6 5, f := tail.extractLsb' 0 6 }
  | .t4 => { base with a := tail.extractLsb' 27 5, b := tail.extractLsb' 22 5, f := tail.extractLsb' 16 6,
                       imm := 0#32 ++ tail.extractLsb' 0 16 }
  | .t8 => { base with a := tail.extractLsb' 59 5, b := tail.extractLsb' 54 5, f := tail.extractLsb' 48 6,
                       imm := tail.extractLsb' 0 48 }

/-- The head of the fields (R18). -/
def Raw.head (r : Raw) : BitVec 16 := r.tl.code ++ r.op ++ r.d ++ r.k

/-- The tail of the fields (R19), zero-extended to 64 bits. -/
def Raw.tail (r : Raw) : BitVec 64 :=
  match r.tl with
  | .none => 0
  | .t2 => 0#48 ++ r.a ++ r.b ++ r.f
  | .t4 => 0#32 ++ r.a ++ r.b ++ r.f ++ r.imm.extractLsb' 0 16
  | .t8 => r.a ++ r.b ++ r.f ++ r.imm

/-- Decodes a head and its tail. -/
def decodeWords (head : BitVec 16) (tail : BitVec 64) : Except Nat Instr := decodeRaw (Raw.ofWords head tail)

/-- Byte i of a line. -/
def lineByte (l : Line) (i : Nat) : Byte := l.extractLsb' (8 * i) 8

/-- The line control word (R13). -/
def lineLc (l : Line) : BitVec 16 := l.extractLsb' 0 16

/-- NH of a line (R13). -/
def lineNh (l : Line) : Nat := ((lineLc l).extractLsb' 11 5).toNat

/-- Head i of a line, in halfword i (R13). -/
def lineHead (l : Line) (i : Nat) : BitVec 16 := l.extractLsb' (16 * i) 16

/-- The tail bytes a head announces (R13). -/
def headTailBytes (h : BitVec 16) : Nat := (tailOf (h.extractLsb' 14 2)).bytes

/-- The byte at which the tail of slot i begins: 64 less the tail bytes of slots 1 to i (R13); 0 where the tails run
over the start of the line. -/
def tailTop (l : Line) : Nat → Nat
  | 0 => 64
  | i + 1 => tailTop l i - headTailBytes (lineHead l (i + 1))

/-- The sum of the tail lengths of the first i heads (R14). -/
def tailSum (l : Line) : Nat → Nat
  | 0 => 0
  | i + 1 => tailSum l i + headTailBytes (lineHead l (i + 1))

/-- A legal line (R14). -/
def lineLegal (l : Line) : Bool :=
  decide (lineNh l ≠ 0) && (lineLc l).extractLsb' 0 11 == 0#11
    && decide (2 + 2 * lineNh l + tailSum l (lineNh l) ≤ 64)

/-- The tail of slot i, zero-extended (R13). -/
def lineTail (l : Line) (i : Nat) : BitVec 64 :=
  let n := headTailBytes (lineHead l i)
  ((l >>> (8 * tailTop l i)).extractLsb' 0 64) &&& (BitVec.ofNat 64 (2 ^ (8 * n) - 1))

/-- Decodes slot i of a line. -/
def decodeSlot (l : Line) (i : Nat) : Except Nat Instr := decodeWords (lineHead l i) (lineTail l i)

/-- EAUX of an undefined-operation fault: the head in [31:16] and the case of R23 in [3:0] (R367). -/
def undefAux (head : BitVec 16) (c : Nat) : Word := 0#32 ++ head ++ 0#12 ++ BitVec.ofNat 4 c

/-- The instruction in a word numbered as the opcode table numbers it: the head is the topmost 16 of `nbits` bits
and the tail the bits below it (log entry 3). -/
def decodeTableWord (nbits w : Nat) : Option Instr :=
  match decodeWords (BitVec.ofNat 16 (w / 2 ^ (nbits - 16))) (BitVec.ofNat 64 (w % 2 ^ (nbits - 16))) with
  | .ok i => some i
  | .error _ => none

end

end Sys2Proof
end

