-- ==== Sys2Proof/Machine/Bits.lean ====
section
/-! DEFINITION. Bit fields, sign extension and byte order. -/
namespace Sys2Proof.Machine

open Sys2Proof

/-- Bits [hi:lo] of a number. -/
def bits (v hi lo : Nat) : Nat := (v >>> lo) % 2 ^ (hi + 1 - lo)

/-- Bit i of a number. -/
def bit (v i : Nat) : Bool := v.testBit i

/-- The signed value of the low w bits. -/
def sint (w v : Nat) : Int :=
  let u := v % 2 ^ w
  if u < 2 ^ (w - 1) then (u : Int) else (u : Int) - (2 ^ w : Nat)

/-- The w-bit pattern of an integer. -/
def wrapInt (w : Nat) (v : Int) : Nat := (v % ((2 ^ w : Nat) : Int)).toNat

/-- A 64-bit word from a number, modulo 2^64. -/
def word (v : Nat) : Word := BitVec.ofNat 64 v

/-- The bytes of a value, little-endian. -/
def leBytes : Nat → Nat → List Byte
  | 0, _ => []
  | n + 1, v => BitVec.ofNat 8 v :: leBytes n (v / 256)

/-- The value of bytes, little-endian. -/
def leNat : List Byte → Nat
  | [] => 0
  | b :: bs => b.toNat + 256 * leNat bs

/-- The line of 64 bytes that the bytes make. -/
def lineOfBytes (bs : List Byte) : Line := BitVec.ofNat 512 (leNat bs)

/-- The bytes of a line. -/
def bytesOfLine (l : Line) : List Byte := leBytes 64 l.toNat

/-- Sign-extends the low w bits to 64. -/
def sextWord (w v : Nat) : Word := BitVec.ofInt 64 (sint w v)

/-- Set bits of a 64-bit mask at positions below n. -/
def popBelow (m : Nat) : Nat → Nat
  | 0 => 0
  | n + 1 => popBelow m n + (if m.testBit n then 1 else 0)

/-- Set bits of a 64-bit mask. -/
def popc (m : Nat) : Nat := popBelow m 64

/-- The least multiple of k not below n. -/
def ceilDiv (n k : Nat) : Nat := (n + k - 1) / k

/-- Replaces the bytes of `l` from position `off` on by `b`. -/
def patch (l : List Byte) (off : Nat) (b : List Byte) : List Byte :=
  l.take off ++ b ++ l.drop (off + b.length)

/-- Cuts bytes that start at `loc` into parts that each lie in one 64-byte line. -/
def splitLines (fuel loc : Nat) (bs : List Byte) : List (Nat × List Byte) :=
  match fuel with
  | 0 => []
  | fuel + 1 =>
    if bs.isEmpty then []
    else
      let n := 64 - loc % 64
      (loc, bs.take n) :: splitLines fuel (loc + n) (bs.drop n)

end Sys2Proof.Machine
end

