-- ==== Sys2Proof/Config.lean ====
section
/-! DEFINITION. The constants of the part and the free values of the model. -/
namespace Sys2Proof.Config

/-- Dies of the device (R5). -/
def dieCount : Nat := 4
/-- Cores of the device (R5). -/
def coreCount : Nat := 160
/-- Cores of a die (R5). -/
def coresPerDie : Nat := 40
/-- Clusters of the device, each with one matrix engine (R5). -/
def clusterCount : Nat := 40
/-- Stacks of HBM4E, each on a crust (R175). -/
def stackCount : Nat := 8
/-- Entries of the vector queue (R244). -/
def queueEntries : Nat := 32
/-- Issued copies a channel holds (R221). -/
def channelCopies : Nat := 8

/-- Watts a compute die may draw (R10). -/
def dieWatts : Nat := 430
/-- Watts of the I/O die (R10). -/
def ioWatts : Nat := 180
/-- Watts of a stack with its crust (R10). -/
def stackWatts : Nat := 55
/-- Watts of the conversion losses (R10). -/
def lossWatts : Nat := 60

/-- FREE VALUE: byte `i` of contents the manual calls unpredictable (R3), in the filling numbered `seed`. -/
opaque freeByte (seed i : Nat) : BitVec 8
/-- FREE VALUE: the bits of row `i` of a vector register file the manual calls unpredictable (R3, R11, R259). -/
opaque freeRow (seed i : Nat) : BitVec 2048
/-- FREE VALUE: mask register k(i) where the manual calls it unpredictable (R11). -/
opaque freeMask (seed i : Nat) : BitVec 65536
/-- FREE VALUE: the block tags of row `i` of an unpredictable vector register file; the model takes those codes of them that a tag may
hold (R62). -/
opaque freeTags (seed i : Nat) : BitVec 64
/-- FREE VALUE: the row exponent tag of row `i` of an unpredictable vector register file. -/
opaque freeExp (seed i : Nat) : BitVec 32
/-- FREE VALUE: the `n`-th choice of one of `k` alternatives the manual leaves open; used modulo `k`. -/
opaque freeChoice (n : Nat) : Nat
/-- FREE VALUE: the `n`-th 64-bit value the manual leaves open. -/
opaque freeWord (n : Nat) : BitVec 64
/-- FREE VALUE: a byte of the ciphertext that a line sealed under a key, with its write counter, shows to an unsealed read
(R181). -/
opaque cipherByte (key gen counter loc : Nat) (plain : BitVec 8) : BitVec 8
/-- FREE VALUE: the FP32 scale of a Q4N block whose super-scale is infinite and whose q is 0 (R64). -/
opaque infScale (neg : Bool) : BitVec 32
/-- FREE VALUE: the CHECK word of a queue image over its other bytes (R375). -/
opaque imageCheck (bytes : List (BitVec 8)) : BitVec 64
/-- FREE VALUE: the SHA-256 digest of a firmware image, numbered by its contents, or of none (R395). -/
opaque firmwareDigest (image : Option Nat) : BitVec 256
/-- FREE VALUE: the SHA-256 digest of a life-cycle state, numbered in the order of R396 (R395). -/
opaque lifeDigest (life : Nat) : BitVec 256
/-- FREE VALUE: the implementation-defined words of an entry of a queue image (R375). -/
opaque imageWord (n i : Nat) : BitVec 64

end Sys2Proof.Config
end

