-- ==== Sys2Proof/Machine/State.lean ====
section
/-! DEFINITION. The state of the device as plain data, and the state after reset. -/
namespace Sys2Proof.Machine

open Sys2Proof

/-! ## Stops -/

/-- Reasons the machine stops with a fault. -/
inductive Fault where
  /-- Raised by the step when the current core number names no core of the device. Safe: no run from reset reaches it. -/
  | noSuchCore
  deriving DecidableEq, Repr

/-- Reasons the machine refuses. -/
inductive Refusal where
  /-- Raised by an arm of the dispatcher whose instruction has no meaning yet. Safe: the machine stops. -/
  | notModelled (mnemonic : String)
  deriving DecidableEq, Repr

/-! ## Sparse stores -/

/-- What the unlisted places of a store hold: zero, values the manual leaves unpredictable (R3), or, for rows, zero bytes
tagged VOID (R383). -/
inductive Fill where
  | zero
  | free (seed : Nat)
  | void
  deriving DecidableEq, Repr

/-- Bytes by offset. -/
structure Bytes where
  fill : Fill
  cells : List Host.Cell
  deriving DecidableEq, Repr

/-- One row of a vector register or operand slot: 256 data bytes, four block tags and the row exponent tag (R67, R240). -/
structure VRow where
  bits : BitVec 2048
  tags : BitVec 64
  rexp : BitVec 32
  deriving DecidableEq, Repr

/-- Rows by number. -/
structure RowFile where
  fill : Fill
  rows : List (Nat × VRow)
  deriving DecidableEq, Repr

/-! ## Clocks, writes and copies of the abstract machine (R305) -/

/-- A vector clock: one counter a die. -/
structure Clock where
  c0 : Nat
  c1 : Nat
  c2 : Nat
  c3 : Nat
  deriving DecidableEq, Repr

/-! ## Pages and translations -/

/-- The header of a page descriptor block, and its address (R93). -/
structure Pdb where
  addr : Nat
  base : Nat
  dtab : Nat
  sstab : Nat
  vreg : Nat
  vhead : Nat
  nspan : Nat
  deriving DecidableEq, Repr

/-- A span record (R94). -/
structure Span where
  pmask : Nat
  smask : Nat
  owner : Nat
  cls : Nat
  chunk : Nat
  deriving DecidableEq, Repr

/-- A page as a walk finds it: its virtual base and size, the physical base of its frame, the leaf entry and its level, the
descriptor block it names (R86 to R93), and the span records of a glaze page (R97). -/
structure Page where
  va : Nat
  size : Nat
  base : Nat
  leaf : Word
  level : Nat
  pdb : Option Pdb
  spans : List Span
  deriving DecidableEq, Repr

/-- A translation that may still be used (R96, R102). -/
structure TlbEntry where
  asid : BitVec 16
  page : Page
  deriving DecidableEq, Repr

/-- Where an address lies: a pad location, or a page. -/
inductive Place where
  | pad (loc : Nat)
  | page (p : Page)
  deriving DecidableEq, Repr

/-! ## Stores, updates and copies of lines -/

/-- An entry of a store buffer: a scalar store not yet performed, to location `loc` under seal key `key`, with the translation that gave
it (R103). -/
structure SbEntry where
  seq : Nat
  loc : Nat
  bytes : List Byte
  key : Option Nat
  via : Option TlbEntry
  committed : Bool
  deriving DecidableEq, Repr

/-- A committed write on its way to its home (R306). -/
structure InFlight where
  core : Nat
  seq : Nat
  loc : Nat
  bytes : List Byte
  key : Option Nat
  clock : Clock
  deriving DecidableEq, Repr

/-- An update on its way to a die that is not the home of its line (R306). -/
structure Update where
  home : Nat
  loc : Nat
  bytes : List Byte
  stamp : Clock
  deriving DecidableEq, Repr

/-- A guest copy of a line (R197, R305). -/
structure Guest where
  line : Nat
  bytes : Line
  stamp : Clock
  deriving DecidableEq, Repr

/-- A recorded fill (R306). -/
structure FillRec where
  die : Nat
  home : Nat
  line : Nat
  bytes : Line
  stamp : Clock
  h : Nat
  /-- the core whose load it answered: its L1 takes the line with the copy (R197) -/
  core : Nat
  deriving DecidableEq, Repr

/-- What HBM4E holds of a line whose home copy has changed since the last write-back: its bytes, and the key and
load they are sealed under (R105, R181). -/
structure Stale where
  line : Nat
  bytes : Line
  tag : Option (Nat × Nat)
  deriving DecidableEq, Repr

/-- A part of a version store that the model knows the store has written: a head entry, a link record or a slot, with the line of its
region record (R132). -/
structure VerItem where
  addr : Nat
  size : Nat
  region : Nat
  deriving DecidableEq, Repr

/-! ## Traps -/

/-- An event that leaves the instruction stream: a fault or an interrupt with what it writes (R367). -/
structure Trap where
  intr : Bool
  code : Nat
  eva : Word
  eaux : Word
  /-- written by KV faults only -/
  ekv : Option Word
  deriving DecidableEq, Repr

/-- What ends the computation of an instruction early: a trap, or a wait for an event outside it. -/
inductive Halt where
  | trap (t : Trap)
  | wait
  deriving DecidableEq, Repr

/-! ## Vector-queue entries -/

/-- The integer operations of OP 0x30 and 0x31 with a vector destination (R265). -/
inductive IntOp where
  | add | sub | mul | mulh | and | or | xor | shl | shr | sra | min | max | abs | neg
  deriving DecidableEq, Repr

/-- Compares (R266, R267). -/
inductive CmpOp where
  | eq | lt | le
  deriving DecidableEq, Repr

/-- The floating-point operations of OP 0x38 and 0x3A with a vector destination (R267). -/
inductive FpOp where
  | add | sub | mul | div | sqrt | min | max | abs | neg | rcp | rsq | exp2 | log2
  deriving DecidableEq, Repr

/-- The fused operations (R253, R269). -/
inductive FmaOp where
  | fma | fms | fnma
  deriving DecidableEq, Repr

/-- Mask operations that write a mask from masks (R261). -/
inductive MaskOp where
  | and | or | xor | andn | not
  deriving DecidableEq, Repr

/-- Reductions (R270). -/
inductive RedOp where
  | sum | max | min | argmax | argmin | and | or
  deriving DecidableEq, Repr

/-- Permutations (R273). -/
inductive PermOp where
  | compress | expand | slideUp | slideDn | trans | permc | bcast
  deriving DecidableEq, Repr

/-- Where the elements of a vector memory access lie (R206, R212). -/
inductive VAddr where
  | unit | firstFault | bit | strided | lane | gather | gatherc
  deriving DecidableEq, Repr

/-- Vector atomics (R215). -/
inductive VAmoOp where
  | add | fadd | min | max
  deriving DecidableEq, Repr

/-- MMA operations (R287). -/
inductive MmaOp where
  | acc | zero | neg
  deriving DecidableEq, Repr

/-- The operation of a vector-queue entry with the fields of its words. -/
inductive VecOp where
  | vshape (wide : Bool)
  | vmovx (x : LenF)
  | vmovv (x : LenF)
  | mask (o : MaskOp) (d a b : MaskReg)
  | kpop (x : KxF)
  | kfirst (x : KxF)
  | kset (x : KsetF)
  | int (o : IntOp) (scalar : Bool) (x : VBinF)
  | icmp (o : CmpOp) (scalar : Bool) (x : VCmpF)
  | vsel (scalar : Bool) (x : VBinF)
  | viota (x : VIotaF)
  | fp (o : FpOp) (scalar : Bool) (x : VFpF)
  | fcmp (o : CmpOp) (scalar : Bool) (x : VFCmpF)
  | fma (o : FmaOp) (x : VFmaF)
  | cvt (scaled : Bool) (x : VFpF)
  | qpack (x : QpackF)
  | bacc (x : VTyF)
  | bnorm (x : BnormF)
  | vscale (x : VTyBF)
  | red (o : RedOp) (x : RedF)
  | perm (o : PermOp) (x : VTyCF)
  | sincos (x : SinCosF)
  | gumbel (x : VTyF)
  | hash (x : VTyBF)
  | load (m : VAddr) (c : Reg) (x : VMemBF)
  | store (m : VAddr) (c : Reg) (x : VMemBF)
  | vamo (o : VAmoOp) (x : VMemF)
  | awin (x : WinF)
  | aadd (x : VMemLF)
  | amerge
  | aclr
  | cpy (x : CpyF)
  | cpym (x : CpyF)
  | cpykv (x : CpyF)
  | xred (x : XredF)
  | cpwait (x : CpwF)
  | barinit (x : R3T2)
  | bararr (x : R2T2)
  | barwait (x : R3T2)
  | barkill (x : R2T2)
  | post (x : RabT4)
  | waiti (x : R3T4)
  | matt (x : GrpF)
  | mdet (x : DetF)
  | mclaim (x : SlotF)
  | mrel (x : SlotF)
  | mzero (x : AccF)
  | mstat (x : R1T4)
  | mld (firstFault : Bool) (x : SlotMF)
  | mldt (x : SlotMF)
  | mslotw (x : SlotMF)
  | mslotr (x : SlotRF)
  | mma (o : MmaOp) (x : MmaF)
  | mdrain (x : DrnF)
  | maccst (x : AccMF)
  | maccld (x : AccMF)
  | vverst (x : VVerF)
  | vverld (x : VVerF)
  | kvapp (x : KvappF)
  | kvld (v : Bool) (x : VMemLF)
  | kvmove (x : KvmoveF)
  | kvlenRead (x : R2T4)
  | kvlenSet (x : R3T4)
  | kvinv (x : RabT4)
  | nadd (x : NaddF)
  | nfence (x : R1T4)
  | nrowcpy (x : NcpyF)
  | nzero (x : NzeroF)
  | ngather (x : NgatherF)
  | nopt (x : NoptF)
  | nstat (x : R3T4)
  deriving DecidableEq, Repr

/-- A rounding mode (R71). -/
inductive Mode where
  | rne | rtz | rdn | rup
  deriving DecidableEq, Repr

/-- How far an entry has run: the unit is the entry's own (R370). -/
structure Progress where
  row : Nat
  col : Nat
  block : Nat
  deriving DecidableEq, Repr

/-- An entry of the vector queue with its dispatch-time copies (R244). -/
structure VEntry where
  op : VecOp
  seq : Nat
  /-- the instruction address it was dispatched from -/
  ia : Word
  /-- x[A], x[B], x[C] and x[D] where those fields name scalar registers -/
  opa : Word
  opb : Word
  opc : Word
  opd : Word
  nr : Nat
  nc : Nat
  rm : Mode
  wide : Bool
  scx : BitVec 16
  kvroot : Word
  asid : BitVec 16
  ptroot : Word
  sup : Bool
  prog : Progress
  /-- the fault the entry stopped at -/
  fault : Option Trap
  deriving DecidableEq, Repr

/-- The part of a row of a copy that goes to one line: its owner, the core whose stream counts it, the bytes and where they go, and the
descriptor that travels with them (R226 to R228). -/
structure RowPart where
  owner : Nat
  key : Option Nat
  loc : Nat
  bytes : List Byte
  desc : Option (Nat × Nat)
  deriving DecidableEq, Repr

/-- A copy channel: its issued copies in order, the fault that has stopped it (R221, R230), and what the row being delivered
has yet to write, in order (R222, R226). -/
structure Chan where
  copies : List VEntry
  stopped : Option Trap
  row : List RowPart
  deriving DecidableEq, Repr

/-! ## A core -/

/-- The copy of a line that a core executes (R17). -/
structure LineBuf where
  va : Nat
  asid : BitVec 16
  bits : Line
  deriving DecidableEq, Repr

/-- A line that an instruction cache may still hold, by the location of its bytes (R17). -/
structure ILine where
  loc : Nat
  bits : Line
  deriving DecidableEq, Repr

/-- What a core is doing (R351). -/
inductive Activity where
  | idle
  | running
  deriving DecidableEq, Repr

/-- A blocked WAITA (R324, R325): its status register, its address and the condition it watches for, the cycle at which its
timeout elapses, its place and access id, and the location that it last read with the number of writes that had performed there. -/
structure Monitor where
  d : Reg
  va : Nat
  value : Word
  equal : Bool
  deadline : Option Nat
  place : Place
  scx : BitVec 16
  seen : Nat × Nat
  deriving DecidableEq, Repr

/-- SSTAT (R369). -/
structure Sstat where
  held : Bool
  loaded : Bool
  nest : Bool
  pie : Bool
  ie : Bool
  /-- 1: return to supervisor mode -/
  pm : Bool
  /-- 1: supervisor mode -/
  mode : Bool
  deriving DecidableEq, Repr

/-- The accumulation window of a core (R216). -/
structure Window where
  isOpen : Bool
  ty : Ty
  base : Word
  len : Nat
  deriving DecidableEq, Repr

/-- A task record with the address it carries as TASKREC (R337, R349), the place of a ring of the scheduler area that it has taken (R343),
and the clock of the release that pushed it (R351). -/
structure Rec where
  addr : Word
  slot : Nat
  cp : Word
  fp : Word
  jb : Word
  info : Word
  ck : Clock
  deriving DecidableEq, Repr

/-- The running task of a core: its record, and the loop-table entry and first iteration of a strip (R352). -/
structure Running where
  task : Rec
  strip : Option Nat
  deriving DecidableEq, Repr

/-- What the device keeps of a saved context beside its context block (R382): its record and strip, the number of its task (R390), and
the deliveries that its write pointers count (R234). -/
structure Parked where
  run : Option Running
  taskNo : Nat
  counted : Vector (List (Nat × Clock)) 4
  deriving DecidableEq, Repr

/-- A core (R5, R6, R236 to R242, R364). -/
structure Core where
  task : Vector Word 32
  sup : Vector Word 32
  ia : Word
  line : Option LineBuf
  icache : List ILine
  act : Activity
  vregs : RowFile
  dirty : BitVec 32
  vrows : Vector (BitVec 8) 32
  wideFile : Bool
  k1 : BitVec 65536
  k2 : BitVec 65536
  k3 : BitVec 65536
  flags : BitVec 6
  frm : BitVec 2
  wide : Bool
  nr : BitVec 8
  nc : BitVec 10
  vstart : Word
  ffnr : BitVec 8
  scx : BitVec 16
  verstat : Word
  kvroot : Word
  cpwp : Vector Word 4
  taskrec : Word
  launch : Word
  /-- the cycle at which BUDGET.LEFT is 0, none where no budget is enforced (R355) -/
  deadline : Option Nat
  paduse : Word
  cause : Word
  eia : Word
  eva : Word
  ekv : Word
  eaux : Word
  tvec : Word
  sstat : Sstat
  asid : BitVec 16
  ptroot : Word
  queue : List VEntry
  held : List VEntry
  chans : Vector Chan 4
  /-- the deliveries each write pointer counts: the value of the pointer before one, and its stamp (R234, R317) -/
  cpwpCk : Vector (List (Nat × Clock)) 4
  seq : Nat
  /-- accesses wait for the reads of the entries older than this, after a FENCE with acquire (R315) -/
  fenceSeq : Nat
  /-- vector-class instructions wait at dispatch for the scalar stores older than this, after a FENCE.SV (R315) -/
  svFence : Nat
  sb : List SbEntry
  ck : Clock
  slices : Bytes
  window : Window
  deferred : Nat
  /-- a pending pre-emption request, with RECLAIM (R374) -/
  preempt : Option Bool
  /-- the core leaves its share once it is idle (R367) -/
  reclaim : Bool
  /-- a pending management message -/
  mgmt : Bool
  /-- the loaded context was restored by CTXREST and has not been resumed yet (R16) -/
  restored : Bool
  monitor : Option Monitor
  /-- the iteration-ring mirror: W of the 16 channels (R334) -/
  mirror : Vector Word 16
  /-- join of the clocks of the posts each mirror channel has applied (R336) -/
  mirrorCk : Vector Clock 16
  deque : List Rec
  /-- the running task's record, its loop-table entry when it is a strip, and the fault that ends it (R337, R352) -/
  run : Option Running
  /-- the number the device knows the running task by (R390) -/
  taskNo : Nat
  /-- a continuation whose push waits for room (R360) -/
  pendingPush : Option Rec
  /-- the next page of a GCOMMIT or GDISCARD that has settled some of its pages, and the lines settled so far (R123) -/
  settling : Option (Nat × Nat)
  /-- the trap whose drain is not over, and the address of J (R365, R371) -/
  draining : Option (Trap × Word)
  /-- the cause of a failure that waits for the work of its task to end (R373, R355) -/
  failing : Option Word
  deriving DecidableEq, Repr

/-- A table pointer that may still be used: the ASID, the level whose entry it is, the virtual address bits above
that level, and the address of the next table (R96, R102). -/
structure WalkEntry where
  asid : BitVec 16
  level : Nat
  prefixVa : Nat
  next : Nat
  deriving DecidableEq, Repr

/-- An item of a KV walker's cache (R163): what was read at an address, as words, and the sequences whose walks have used it
(R173). -/
structure KvItem where
  seqIds : List Nat
  addr : Nat
  words : List Word
  deriving DecidableEq, Repr

/-- A registered barrier (R327). -/
structure Barrier where
  index : Nat
  line : Nat
  /-- the seal key of the leaf it was registered through -/
  key : Option Nat
  count : Nat
  arrived : Nat
  phase : Nat
  killed : Bool
  /-- cores whose BARWAIT waits at the head of their queue -/
  waiters : List Nat
  /-- join of the clocks of the arrivals of the completed phases, for the acquire of R331 -/
  clock : Clock
  /-- join of the clocks of the arrivals of the current phase -/
  cur : Clock
  deriving DecidableEq, Repr

/-- A post on its way to a core's mirror (R334), with the clock of its sender (R336). -/
structure Post where
  src : Nat
  core : Nat
  channel : Nat
  value : Word
  clock : Clock
  deriving DecidableEq, Repr

/-- An entry of a die's loop table (R352), with its number in the table. -/
structure Loop where
  number : Nat
  task : Rec
  launch : Nat
  next : Nat
  lo : Word
  hi : Word
  strip : Word
  channel : Nat
  /-- its channel is bound (R334) -/
  bound : Bool
  live : Nat
  /-- join of the clocks of the ENDs of its strips (R352) -/
  ck : Clock
  deriving DecidableEq, Repr

/-- A free list of a glaze pool (R112). -/
structure Pool where
  asid : BitVec 16
  code : Nat
  chunks : List Nat
  deriving DecidableEq, Repr

/-- A die. -/
structure Die where
  dvc : Clock
  guests : List Guest
  inbox : List Update
  tlb : List TlbEntry
  walk : List WalkEntry
  kv : List KvItem
  bars : List Barrier
  monitors : Nat
  bound : BitVec 16
  posts : List Post
  loops : List Loop
  inject : List (Nat × Rec)
  pools : List Pool
  deriving DecidableEq, Repr

/-- An operand slot of a matrix engine (R284); its rows stand in the engine's row file. -/
structure Slot where
  owner : Option Nat
  layout : BitVec 2
  deriving DecidableEq, Repr

/-- The two accumulator tiles of one core (R282): elements by number, 0 where unlisted. -/
structure Accs where
  cells : List (Nat × BitVec 36)
  dirty0 : Bool
  dirty1 : Bool
  deriving DecidableEq, Repr

/-- A matrix engine (R280 to R284). -/
structure Mxe where
  groups : Vector (Option Nat) 4
  slots : Vector Slot 128
  rows : RowFile
  accs : Vector Accs 4
  deriving DecidableEq, Repr

/-- What an item does at its crust (R191 to R195); places are locations of memory. -/
inductive ItemOp where
  | nadd (fp : Bool) (dst : Nat) (vals : List (BitVec 32))
  | copyLine (src dst : Nat)
  | zeroLine (dst : Nat)
  | gatherElem (src dst size : Nat)
  | noptLine (w g : Nat) (lr mu : BitVec 32)
  deriving DecidableEq, Repr

/-- An item of a crust command (R186, R187) with the ordering of its command, and the clock C of its core as it stood when the item was
sent (R317). -/
structure Item where
  core : Nat
  acq : Bool
  rel : Bool
  scope : Nat
  op : ItemOp
  clock : Clock
  deriving DecidableEq, Repr

/-- A crust (R186, R194, R196). -/
structure Crust where
  queue : List Item
  patterns : Vector Word 16
  corrected : Nat
  uncorrectable : Nat
  hits : Nat
  misses : Nat
  deriving DecidableEq, Repr

/-- A share of cores (R348). -/
structure Share where
  launch : Nat
  die : Nat
  cores : List Nat
  ceil : Nat
  cls : Nat
  levels : Word
  stream : Nat
  ptroot : Word
  asid : BitVec 16
  deriving DecidableEq, Repr

/-- What the scheduler keeps of a host queue beside its descriptor: since when its head has been servable (R346). -/
structure QueueNote where
  queue : Nat
  since : Nat
  deriving DecidableEq, Repr

/-- A collective round in progress (R233, R391). -/
structure Round where
  group : Nat
  round : Nat
  start : Nat
  /-- this device's contribution and where it delivers: the core and channel of its XRED -/
  local_ : Option (Nat × Nat)
  /-- contributions by rank: rows of bytes -/
  parts : List (Nat × List (List Byte))
  deriving DecidableEq, Repr

/-- A write sent over the fabric and not yet acknowledged, with the number of the task that sent it, or, where `write` is
false, that the next read of a core over the fabric is not acknowledged in time (R390). -/
structure FabricAccess where
  core : Nat
  task : Nat
  loc : Nat
  write : Bool
  sent : Nat
  deriving DecidableEq, Repr

/-- How far the package has come up (R392): without supply, before configuration, or running. -/
inductive Stage where
  | off
  | recovery
  | awaitConfig
  | running
  deriving DecidableEq, Repr

/-- What the device tells the host outside memory (R388, R395, R397). -/
inductive HostNote where
  | lossOfLock
  | identity
  | measurements (image life : BitVec 256)
  | refused
  /-- the bytes that an access of an outside agent found (R319) -/
  | found (agent : Nat) (bytes : List Byte)
  deriving DecidableEq, Repr

/-- Which agent moves next. -/
inductive Move where
  /-- the scalar unit of a core -/
  | scalar (core : Nat)
  /-- the vector unit of a core, with the entry at the head of its queue -/
  | vector (core : Nat)
  /-- the vector unit of a core, with the next rows or blocks of that entry -/
  | rows (core n : Nat)
  /-- the vector unit of a core, with the next rows of entry `i` of its queue, chained on the entries before it (R247) -/
  | ahead (core i n : Nat)
  /-- the scalar unit of a core, with one page of a GCOMMIT or GDISCARD (R123) -/
  | page (core : Nat)
  /-- a changed line is written back to its memory (R105) -/
  | writeBack (line : Nat)
  /-- a counter line on the path of a sealed line no longer verifies (R182) -/
  | badCounter (line : Nat)
  /-- an event outside the streams of the cores -/
  | event (i : Instr)
  deriving DecidableEq, Repr

/-- The device. -/
structure State where
  cores : List Core
  dies : List Die
  mxes : List Mxe
  crusts : List Crust
  mem : List Host.Cell
  stamps : List (Nat × Clock)
  /-- how often each doubleword has been written at its home, by its number: what a WAITA re-reads after (R324) -/
  writes : List (Nat × Nat)
  inflight : List InFlight
  fills : List FillRec
  /-- which lines the L1 of a core holds, by core and line; their bytes are those of its die's copies (R198, R305) -/
  l1 : List (Nat × Nat)
  badLines : List Nat
  /-- sealed lines with a counter line on their path that does not verify (R182) -/
  badCounters : List Nat
  sealTags : List (Nat × Nat × Nat)
  /-- the write counters of sealed lines (R181) -/
  counters : List (Nat × Nat)
  /-- what HBM4E holds of the lines whose home copy has changed since the last write-back (R105) -/
  dirty : List Stale
  /-- lines whose contents the manual calls unpredictable, each with the seed of its bytes (R3, R111) -/
  vague : List (Nat × Nat)
  /-- the head entries, link records and held slots that a version store has written, and the addresses of those that software wrote
  while the store held them (R132) -/
  verOwned : List VerItem
  verTaint : List Nat
  keys : List (Nat × Nat)
  keyGen : Nat
  carveC : Nat
  sealG : Nat
  sbase : Nat
  devNo : Nat
  stage : Stage
  life : LifeCycle
  firmware : Option Nat
  locked : Bool
  everLocked : Bool
  lastPtm : Nat
  cap : Nat
  clockK : Nat
  shares : List Share
  queueNotes : List QueueNote
  /-- the queue served last, by class (R346) -/
  lastQueue : Vector Nat 4
  groups : List CollGroup
  rounds : List Round
  doneRounds : List (Nat × Nat)
  fabric : List FabricAccess
  /-- the number that the next task to start takes (R390) -/
  taskCtr : Nat
  /-- join of the clocks of the writes of join counters that lie outside the device (R360) -/
  joinCks : List (Nat × Clock)
  notes : List HostNote
  /-- the queue images the device has written (R375), each with how many of its entries a FENCE with acquire follows, and its entries -/
  images : List (List Byte × Nat × List VEntry)
  /-- what the device keeps of saved contexts, by the location of their context blocks (R382) -/
  parked : List (Nat × Parked)
  cycle : Nat
  dtime : Nat
  /-- how far DTIME has yet to be slewed, and the time since it last was (R388) -/
  slew : Int
  slewAcc : Nat
  /-- the model's own fields -/
  cur : Nat
  tape : List Move
  freeCtr : Nat
  dCycles : Nat
  dNs : Nat
  eager : Bool
  deriving DecidableEq, Repr

/-! ## Reset -/

/-- A clock of zeros. -/
def Clock.reset : Clock := { c0 := 0, c1 := 0, c2 := 0, c3 := 0 }

/-- SSTAT after reset (R369). -/
def Sstat.reset : Sstat :=
  { held := false, loaded := false, nest := false, pie := false, ie := false, pm := false, mode := false }

/-- A core after reset: every SRAM is zero (R393), the CSRs hold the reset values of R242 and R349, and the core is idle
(R392). The supervisor bank, IA and the line copy have no stated value (log entry 1). -/
def Core.reset : Core :=
  { task := Vector.replicate 32 0, sup := Vector.replicate 32 0, ia := 0, line := none, icache := [], act := .idle,
    vregs := { fill := .zero, rows := [] }, dirty := 0, vrows := Vector.replicate 32 0, wideFile := false,
    k1 := 0, k2 := 0, k3 := 0, flags := 0, frm := 0, wide := false, nr := 64, nc := 64, vstart := 0, ffnr := 128,
    scx := 0, verstat := 0, kvroot := 0, cpwp := Vector.replicate 4 0, taskrec := 0, launch := 0,
    deadline := none, paduse := 0, cause := 0, eia := 0, eva := 0, ekv := 0, eaux := 0, tvec := 0,
    sstat := Sstat.reset, asid := 0, ptroot := 0, queue := [], held := [],
    chans := Vector.replicate 4 { copies := [], stopped := none, row := [] },
    cpwpCk := Vector.replicate 4 [], seq := 0, fenceSeq := 0, svFence := 0, sb := [], ck := Clock.reset,
    slices := { fill := .zero, cells := [] }, window := { isOpen := false, ty := .i8, base := 0, len := 0 },
    deferred := 0, preempt := none, reclaim := false, mgmt := false, restored := false, monitor := none, mirror := Vector.replicate 16 0,
    mirrorCk := Vector.replicate 16 Clock.reset, deque := [],
    run := none, taskNo := 0, pendingPush := none, settling := none, draining := none, failing := none }

/-- A die after reset (R393). -/
def Die.reset : Die :=
  { dvc := Clock.reset, guests := [], inbox := [], tlb := [], walk := [], kv := [], bars := [], monitors := 0,
    bound := 0, posts := [], loops := [], inject := [], pools := [] }

/-- A matrix engine after reset (R393). -/
def Mxe.reset : Mxe :=
  { groups := Vector.replicate 4 none, slots := Vector.replicate 128 { owner := none, layout := 0 },
    rows := { fill := .zero, rows := [] },
    accs := Vector.replicate 4 { cells := [], dirty0 := false, dirty1 := false } }

/-- A crust after reset (R194, R196, R393). -/
def Crust.reset : Crust :=
  { queue := [], patterns := Vector.replicate 16 0, corrected := 0, uncorrectable := 0, hits := 0, misses := 0 }

/-- The device right after reset: wiped (R393), waiting for the host's configuration (R392 step 6). The life-cycle
state, the firmware image and the values the host supplies have no stated value here (log entry 2). -/
def State.reset : State :=
  { cores := List.replicate 160 Core.reset, dies := List.replicate 4 Die.reset, mxes := List.replicate 40 Mxe.reset,
    crusts := List.replicate 8 Crust.reset, mem := [], stamps := [], writes := [], inflight := [], fills := [], l1 := [], badLines := [],
    badCounters := [], sealTags := [], counters := [], dirty := [], vague := [], verOwned := [], verTaint := [], keys := [], keyGen := 0,
    carveC := 0, sealG := 0, sbase := 0, devNo := 0, stage := .awaitConfig,
    life := .deployed, firmware := some 0, locked := false, everLocked := false, lastPtm := 0, cap := 2400,
    clockK := 0, shares := [], queueNotes := [], lastQueue := Vector.replicate 4 63, groups := [], rounds := [], doneRounds := [],
    fabric := [], taskCtr := 1, joinCks := [], notes := [], images := [], parked := [],
    cycle := 0, dtime := 0, slew := 0, slewAcc := 0, cur := 0, tape := [], freeCtr := 0,
    dCycles := 1, dNs := 1, eager := true }

end Sys2Proof.Machine
end

