-- ==== Sys2Proof/Machine/Flags.lean ====
section
/-! DEFINITION. Exception flags, exact values, rounding and conversion (R56 to R62, R70 to R73). -/
namespace Sys2Proof.Machine

open Sys2Proof

/-- The bits of FLAGS (R70). -/
abbrev FlagSet := BitVec 6
/-- SAT. -/
def fSAT : FlagSet := 0x20
/-- NV. -/
def fNV : FlagSet := 0x10
/-- DZ. -/
def fDZ : FlagSet := 0x08
/-- OF. -/
def fOF : FlagSet := 0x04
/-- UF. -/
def fUF : FlagSet := 0x02
/-- NX. -/
def fNX : FlagSet := 0x01

/-- A value: not a number, an infinity, or the exact number ± m × 2^e. -/
inductive Val where
  | nan
  | inf (neg : Bool)
  | fin (neg : Bool) (m : Nat) (e : Int)
  deriving DecidableEq, Repr

/-- Plus zero. -/
def Val.zero : Val := .fin false 0 0

/-- The exact value of an integer. -/
def Val.ofInt (i : Int) : Val := .fin (decide (i < 0)) i.natAbs 0

/-- The rounding mode of FRM (R71). -/
def frmMode (f : BitVec 2) : Mode :=
  match f.toNat with
  | 0 => .rne | 1 => .rtz | 2 => .rdn | _ => .rup

/-- The mode an RM field selects (R71). -/
def modeOf (f : BitVec 2) (r : Rm) : Mode :=
  match r with
  | .frm => frmMode f | .rne => .rne | .rtz => .rtz | .rdn => .rdn

/-- A floating-point format: exponent and fraction bits, bias, the largest finite value as m × 2^e, and which special
encodings it has (R57, R58, R61). -/
structure Fmt where
  ebits : Nat
  fbits : Nat
  bias : Nat
  maxM : Nat
  maxE : Int
  hasInf : Bool
  nan : Option Nat
  deriving DecidableEq, Repr

/-- FP32 (R57). -/
def fmtFp32 : Fmt := { ebits := 8, fbits := 23, bias := 127, maxM := 2 ^ 24 - 1, maxE := 104, hasInf := true, nan := some 0x7FC00000 }
/-- BF16 (R57). -/
def fmtBf16 : Fmt := { ebits := 8, fbits := 7, bias := 127, maxM := 255, maxE := 120, hasInf := true, nan := some 0x7FC0 }
/-- FP16 (R57). -/
def fmtFp16 : Fmt := { ebits := 5, fbits := 10, bias := 15, maxM := 2047, maxE := 5, hasInf := true, nan := some 0x7E00 }
/-- E4M3 (R58). -/
def fmtE4m3 : Fmt := { ebits := 4, fbits := 3, bias := 7, maxM := 14, maxE := 5, hasInf := false, nan := some 0x7F }
/-- E5M2 (R58). -/
def fmtE5m2 : Fmt := { ebits := 5, fbits := 2, bias := 15, maxM := 7, maxE := 13, hasInf := true, nan := some 0x7E }
/-- E3M2 (R58). -/
def fmtE3m2 : Fmt := { ebits := 3, fbits := 2, bias := 3, maxM := 7, maxE := 2, hasInf := false, nan := none }
/-- E2M3 (R58). -/
def fmtE2m3 : Fmt := { ebits := 2, fbits := 3, bias := 1, maxM := 15, maxE := -1, hasInf := false, nan := none }
/-- E2M1 (R58). -/
def fmtE2m1 : Fmt := { ebits := 2, fbits := 1, bias := 1, maxM := 3, maxE := 1, hasInf := false, nan := none }
/-- A36 (R61). -/
def fmtA36 : Fmt := { ebits := 9, fbits := 26, bias := 255, maxM := 2 ^ 27 - 1, maxE := 229, hasInf := true, nan := some 0x7FE000000 }

end Sys2Proof.Machine

namespace Sys2Proof

/-- The format of a floating-point type. -/
def Ty.fmt? : Ty → Option Machine.Fmt
  | .fp32 => some Machine.fmtFp32 | .bf16 => some Machine.fmtBf16 | .fp16 => some Machine.fmtFp16 | .e4m3 => some Machine.fmtE4m3
  | .e5m2 => some Machine.fmtE5m2 | .e3m2 => some Machine.fmtE3m2 | .e2m3 => some Machine.fmtE2m3 | .e2m1 => some Machine.fmtE2m1
  | .a36 => some Machine.fmtA36 | _ => none

/-- The width of a type in bits (R55). -/
def Ty.width : Ty → Nat
  | .i8 | .n8 | .e4m3 | .e5m2 => 8
  | .i16 | .n16 | .bf16 | .fp16 => 16
  | .i32 | .n32 | .fp32 | .b24 => 32
  | .i64 | .n64 => 64
  | .e3m2 | .e2m3 => 6
  | .e2m1 | .q4n | .i4 => 4
  | .a36 => 36
  | .desc => 0

/-- The row capacity of a type (R55). -/
def Ty.capacity : Ty → Nat
  | .i8 | .n8 | .e4m3 | .e5m2 => 256
  | .i16 | .n16 | .bf16 | .fp16 => 128
  | .i32 | .n32 | .fp32 | .b24 => 64
  | .i64 | .n64 => 32
  | .e3m2 | .e2m3 => 340
  | .e2m1 | .q4n | .i4 => 512
  | .a36 | .desc => 0

/-- Elements of a type in a 64-byte block (R55). -/
def Ty.perBlock : Ty → Nat
  | .e3m2 | .e2m3 => 85
  | .a36 | .desc => 1
  | t => 512 / t.width

/-- The signed integer types (R56). -/
def Ty.isSigned : Ty → Bool
  | .i8 | .i16 | .i32 | .i64 | .i4 => true
  | _ => false

/-- The integer types (R56). -/
def Ty.isInt : Ty → Bool
  | .i8 | .n8 | .i16 | .n16 | .i32 | .n32 | .i64 | .n64 | .i4 => true
  | _ => false

end Sys2Proof

namespace Sys2Proof.Machine

open Sys2Proof

/-- Bits of the format's encodings. -/
def Fmt.width (f : Fmt) : Nat := 1 + f.ebits + f.fbits

/-- The least exponent of a normal value. -/
def Fmt.emin (f : Fmt) : Int := 1 - (f.bias : Int)

/-- The value of an encoding (R57, R58, R61). -/
def Fmt.decode (f : Fmt) (v : Nat) : Val :=
  let frac := v % 2 ^ f.fbits
  let ex := v / 2 ^ f.fbits % 2 ^ f.ebits
  let neg := v.testBit (f.ebits + f.fbits)
  if f.hasInf && ex == 2 ^ f.ebits - 1 then (if frac = 0 then .inf neg else .nan)
  else if !f.hasInf && f.nan.isSome && ex == 2 ^ f.ebits - 1 && frac == 2 ^ f.fbits - 1 then .nan
  else if ex = 0 then .fin neg frac (f.emin - f.fbits)
  else .fin neg (2 ^ f.fbits + frac) ((ex : Int) - f.bias - f.fbits)

/-- The exponent of a non-zero exact number: the greatest k with 2^k at most m × 2^e. -/
def expOf (m : Nat) (e : Int) : Int := (m.log2 : Int) + e

/-- Whether a discarded part rounds the magnitude up (R71): `rem` of `2^shift`, with a non-zero rest below it when
`sticky`. -/
def roundsUp (mode : Mode) (neg : Bool) (q rem shift : Nat) (sticky : Bool) : Bool :=
  let inexact := decide (rem ≠ 0) || sticky
  match mode with
  | .rne =>
    let twice := 2 * rem
    decide (2 ^ shift < twice) || (twice == 2 ^ shift && (sticky || q % 2 == 1))
  | .rtz => false
  | .rdn => neg && inexact
  | .rup => !neg && inexact

/-- Rounds m × 2^e (and a little more when `sticky`) to a multiple of 2^u: the multiple, and whether it is inexact. -/
def roundTo (mode : Mode) (neg : Bool) (m : Nat) (e : Int) (sticky : Bool) (u : Int) : Nat × Bool :=
  let sh := (u - e).toNat
  if u ≤ e then (m * 2 ^ (e - u).toNat, sticky)
  else
    let q := m / 2 ^ sh
    let rem := m % 2 ^ sh
    (if roundsUp mode neg q rem sh sticky then q + 1 else q, decide (rem ≠ 0) || sticky)

/-- Compares a × 2^i with b × 2^j. -/
def cmpExact (a : Nat) (i : Int) (b : Nat) (j : Int) : Ordering :=
  let k := min i j
  compare (a * 2 ^ (i - k).toNat) (b * 2 ^ (j - k).toNat)

/-- The encoding of ± q × 2^u, where u is the unit of a normal value of q or of the subnormals. -/
def Fmt.pack (f : Fmt) (neg : Bool) (q : Nat) (u : Int) : Nat :=
  let s := if neg then 2 ^ (f.ebits + f.fbits) else 0
  if q < 2 ^ f.fbits then s + q
  else s + (u + f.fbits + f.bias).toNat * 2 ^ f.fbits + (q - 2 ^ f.fbits)

/-- The encoding of the largest finite value. -/
def Fmt.maxBits (f : Fmt) (neg : Bool) : Nat := f.pack neg f.maxM f.maxE

/-- The encoding of an infinity. -/
def Fmt.infBits (f : Fmt) (neg : Bool) : Nat :=
  (if neg then 2 ^ (f.ebits + f.fbits) else 0) + (2 ^ f.ebits - 1) * 2 ^ f.fbits

/-- The canonical NaN of a format; formats without one give +0 (R57, R58, R73). -/
def Fmt.nanBits (f : Fmt) : Nat := f.nan.getD 0

/-- Whether overflow gives an infinity in a mode (IEEE 754). -/
def overflowsToInf (mode : Mode) (neg : Bool) : Bool :=
  match mode with
  | .rne => true
  | .rtz => false
  | .rdn => neg
  | .rup => !neg

/-- Rounds a non-zero exact magnitude to a format: the encoding and the flags (R72, R73). -/
def Fmt.roundFin (f : Fmt) (mode : Mode) (sat neg : Bool) (m : Nat) (e : Int) (sticky : Bool) : Nat × FlagSet :=
  let ex := expOf m e
  let (qn, _) := roundTo mode neg m e sticky (ex - f.fbits)
  let big := cmpExact qn (ex - f.fbits) f.maxM f.maxE == .gt
  if big then
    if f.hasInf then
      if sat then (f.maxBits neg, fOF ||| fNX ||| fSAT)
      else (if overflowsToInf mode neg then f.infBits neg else f.maxBits neg, fOF ||| fNX)
    else if f.nan.isSome then
      if sat then (f.maxBits neg, fOF ||| fNX ||| fSAT)
      else (if overflowsToInf mode neg then f.nanBits else f.maxBits neg, fOF ||| fNX)
    else (f.maxBits neg, fOF ||| fNX ||| fSAT)
  else
    let u := max (ex - f.fbits) (f.emin - f.fbits)
    let (q, inexact) := roundTo mode neg m e sticky u
    let tiny := cmpExact qn (ex - f.fbits) 1 f.emin == .lt
    (f.pack neg q u, (if inexact then fNX else 0) ||| (if inexact && tiny then fUF else 0))

/-- Rounds a value to a format (R73): the encoding and the flags. -/
def Fmt.round (f : Fmt) (mode : Mode) (sat : Bool) (v : Val) : Nat × FlagSet :=
  match v with
  | .nan => (f.nanBits, if f.nan.isSome then 0 else fNV)
  | .inf neg =>
    if f.hasInf then (f.infBits neg, 0)
    else if f.nan.isSome then (f.nanBits, fNV)
    else (f.maxBits neg, fSAT)
  | .fin neg m e => if m = 0 then (f.pack neg 0 0, 0) else f.roundFin mode sat neg m e false

/-- The Q4N codebook in units of 1/256 (R59). -/
def q4nBook : List Int := [-256, -179, -135, -102, -74, -47, -23, 0, 20, 41, 63, 86, 114, 148, 193, 256]

/-- The value of a Q4N code. -/
def q4nVal (c : Nat) : Val :=
  let i := q4nBook.getD c 0
  .fin (decide (i < 0)) i.natAbs (-8)

/-- The distance |v - k/256| of an exact number from a codebook value, as a number of 2^x units. -/
def q4nDist (neg : Bool) (m : Nat) (e : Int) (k : Int) : Nat :=
  let x := min e (-8)
  let a : Int := (m * 2 ^ (e - x).toNat : Nat)
  let a := if neg then -a else a
  (a - k * (2 ^ (-8 - x).toNat : Nat)).natAbs

/-- The nearest Q4N code of a number in [-1, 1]; a tie goes to the smaller magnitude (R73). -/
def q4nNearest (neg : Bool) (m : Nat) (e : Int) : Nat :=
  (List.range 16).foldl (fun best c =>
    let d := q4nDist neg m e (q4nBook.getD c 0)
    let b := q4nDist neg m e (q4nBook.getD best 0)
    if d < b ∨ (d = b ∧ (q4nBook.getD c 0).natAbs < (q4nBook.getD best 0).natAbs) then c else best) 7

/-- Converts to Q4N (R73). -/
def roundQ4n (v : Val) : Nat × FlagSet :=
  match v with
  | .nan => (7, fNV)
  | .inf neg => (if neg then 0 else 15, fSAT)
  | .fin neg m e =>
    if m = 0 then (7, 0)
    else if cmpExact m e 1 0 == .gt then (if neg then 0 else 15, fNX ||| fSAT)
    else
      let c := q4nNearest neg m e
      (c, if q4nDist neg m e (q4nBook.getD c 0) = 0 then 0 else fNX)

/-- The range of an integer type (R56). -/
def intRange (ty : Ty) : Int × Int :=
  let w := ty.width
  if ty.isSigned then (-(2 ^ (w - 1) : Nat), (2 ^ (w - 1) : Nat) - 1) else (0, (2 ^ w : Nat) - 1)

/-- Clamps to a range; answers whether it clamped. -/
def clampInt (r : Int × Int) (i : Int) : Int × Bool :=
  if i < r.1 then (r.1, true) else if r.2 < i then (r.2, true) else (i, false)

/-- Converts a real to an integer type (R73): rounds by the mode, then clamps with NV. -/
def roundInt (ty : Ty) (mode : Mode) (v : Val) : Nat × FlagSet :=
  let r := intRange ty
  match v with
  | .nan => (0, fNV)
  | .inf neg => (wrapInt ty.width (if neg then r.1 else r.2), fNV)
  | .fin neg m e =>
    let (q, inexact) := roundTo mode neg m e false 0
    let i : Int := if neg then -(q : Int) else q
    let (c, cl) := clampInt r i
    (wrapInt ty.width c, if cl then fNV else if inexact then fNX else 0)

/-- Converts an integer to an integer type (R73): wraps, or clamps with SAT. -/
def wrapTo (ty : Ty) (sat : Bool) (i : Int) : Nat × FlagSet :=
  if sat then
    let (c, cl) := clampInt (intRange ty) i
    (wrapInt ty.width c, if cl then fSAT else 0)
  else (wrapInt ty.width i, 0)

/-- The integer an element of an integer type holds (R56). -/
def intElem (ty : Ty) (v : Nat) : Int := if ty.isSigned then sint ty.width v else (v % 2 ^ ty.width : Nat)

/-- The value of an element of a type, without any block scale (R56 to R60). -/
def decodeElem (ty : Ty) (v : Nat) : Val :=
  match ty.fmt? with
  | some f => f.decode v
  | none =>
    match ty with
    | .q4n => q4nVal (v % 16)
    | .b24 => Val.ofInt (sint 24 v)
    | _ => Val.ofInt (intElem ty v)

/-- Converts a real value to a type (R73). -/
def convertReal (ty : Ty) (mode : Mode) (sat : Bool) (v : Val) : Nat × FlagSet :=
  match ty.fmt? with
  | some f => f.round mode sat v
  | none => if ty = .q4n then roundQ4n v else roundInt ty mode v

/-! ## Exact arithmetic -/

/-- The signed multiple of 2^k that an exact number is. -/
def signedAt (neg : Bool) (m : Nat) (e k : Int) : Int :=
  let a : Int := (m * 2 ^ (e - k).toNat : Nat)
  if neg then -a else a

/-- The exact value of a signed multiple of 2^k; a zero takes the sign given. -/
def ofSigned (i k : Int) (zeroNeg : Bool) : Val :=
  if i = 0 then .fin zeroNeg 0 0 else .fin (decide (i < 0)) i.natAbs k

/-- The sign of a sum that is exactly zero: that of the operands where they agree, else + or, toward -∞, - (R252,
IEEE 754). -/
def zeroSumNeg (mode : Mode) (n1 n2 : Bool) : Bool := if n1 = n2 then n1 else mode == .rdn

/-- Negates a value. -/
def Val.neg : Val → Val
  | .nan => .nan
  | .inf n => .inf (!n)
  | .fin n m e => .fin (!n) m e

/-- The exact sum of two values, with NV for ∞ - ∞ (R252). -/
def Val.add (mode : Mode) (a b : Val) : Val × FlagSet :=
  match a, b with
  | .nan, _ => (.nan, 0)
  | _, .nan => (.nan, 0)
  | .inf x, .inf y => if x = y then (.inf x, 0) else (.nan, fNV)
  | .inf x, _ => (.inf x, 0)
  | _, .inf y => (.inf y, 0)
  | .fin n1 m1 e1, .fin n2 m2 e2 =>
    let k := min e1 e2
    (ofSigned (signedAt n1 m1 e1 k + signedAt n2 m2 e2 k) k (zeroSumNeg mode n1 n2), 0)

/-- The exact product, with NV for 0 × ∞ (R252). -/
def Val.mul (a b : Val) : Val × FlagSet :=
  match a, b with
  | .nan, _ => (.nan, 0)
  | _, .nan => (.nan, 0)
  | .inf x, .inf y => (.inf (x != y), 0)
  | .inf x, .fin y m _ => if m = 0 then (.nan, fNV) else (.inf (x != y), 0)
  | .fin x m _, .inf y => if m = 0 then (.nan, fNV) else (.inf (x != y), 0)
  | .fin n1 m1 e1, .fin n2 m2 e2 => (.fin (n1 != n2) (m1 * m2) (e1 + e2), 0)

/-- a + b rounded once to a format. -/
def fAdd (f : Fmt) (mode : Mode) (sat : Bool) (a b : Val) : Nat × FlagSet :=
  let (v, fl) := Val.add mode a b
  let (r, fl2) := f.round mode sat v
  (r, fl ||| fl2)

/-- a × b rounded once to a format. -/
def fMul (f : Fmt) (mode : Mode) (sat : Bool) (a b : Val) : Nat × FlagSet :=
  let (v, fl) := Val.mul a b
  let (r, fl2) := f.round mode sat v
  (r, fl ||| fl2)

/-- a × b + c formed exactly and rounded once (R253). -/
def fFma (f : Fmt) (mode : Mode) (sat : Bool) (a b c : Val) : Nat × FlagSet :=
  let (p, fl) := Val.mul a b
  let (v, fl2) := Val.add mode p c
  let (r, fl3) := f.round mode sat v
  (r, fl ||| fl2 ||| fl3)

/-- a ÷ b rounded once, with NV and DZ (R252). -/
def fDiv (f : Fmt) (mode : Mode) (sat : Bool) (a b : Val) : Nat × FlagSet :=
  match a, b with
  | .nan, _ => (f.nanBits, 0)
  | _, .nan => (f.nanBits, 0)
  | .inf _, .inf _ => (f.nanBits, fNV)
  | .inf x, .fin y _ _ => (f.infBits (x != y), 0)
  | .fin x _ _, .inf y => (f.pack (x != y) 0 0, 0)
  | .fin x m1 e1, .fin y m2 e2 =>
    if m2 = 0 then (if m1 = 0 then (f.nanBits, fNV) else (f.infBits (x != y), fDZ))
    else if m1 = 0 then (f.pack (x != y) 0 0, 0)
    else
      let k := 64 + m2.log2
      let q := m1 * 2 ^ k / m2
      f.roundFin mode sat (x != y) q (e1 - e2 - k) (m1 * 2 ^ k % m2 != 0)

/-- The integer square root of n, whose result has at most `bits` bits. -/
def isqrt (n : Nat) : Nat → Nat → Nat
  | 0, r => r
  | b + 1, r => if (r + 2 ^ b) * (r + 2 ^ b) ≤ n then isqrt n b (r + 2 ^ b) else isqrt n b r

/-- √a rounded once; a negative non-zero operand gives NaN and NV (R252). -/
def fSqrt (f : Fmt) (mode : Mode) (sat : Bool) (a : Val) : Nat × FlagSet :=
  match a with
  | .nan => (f.nanBits, 0)
  | .inf neg => if neg then (f.nanBits, fNV) else (f.infBits false, 0)
  | .fin neg m e =>
    if m = 0 then (f.pack neg 0 0, 0)
    else if neg then (f.nanBits, fNV)
    else
      let odd := (e % 2).toNat
      let n := m * 2 ^ (80 + odd)
      let r := isqrt n (n.log2 / 2 + 1) 0
      f.roundFin mode sat false r ((e - odd) / 2 - 40) (r * r != n)

/-- The order of two values that are not NaN: -0 equals +0. -/
def cmpVal (a b : Val) : Ordering :=
  match a, b with
  | .inf x, .inf y => compare y.toNat x.toNat
  | .inf x, _ => if x then .lt else .gt
  | _, .inf y => if y then .gt else .lt
  | .fin n1 m1 e1, .fin n2 m2 e2 =>
    let k := min e1 e2
    compare (signedAt n1 m1 e1 k) (signedAt n2 m2 e2 k)
  | _, _ => .eq

/-- The order of two values that are not NaN, with -0 below +0. -/
def cmpSigned (a b : Val) : Ordering :=
  match cmpVal a b with
  | .eq =>
    match a, b with
    | .fin x 0 _, .fin y 0 _ => compare y.toNat x.toNat
    | _, _ => .eq
  | o => o

/-- The smaller or larger operand's encoding, as FMIN and FMAX give it (R252). -/
def fMinMax (f : Fmt) (wantMax : Bool) (a b : Nat) : Nat :=
  match f.decode a, f.decode b with
  | .nan, .nan => f.nanBits
  | .nan, _ => b
  | _, .nan => a
  | x, y =>
    match cmpSigned x y with
    | .lt => if wantMax then b else a
    | .gt => if wantMax then a else b
    | .eq => a

/-- Whether a comparison holds, and its flags: NaN compares false, with NV except for equality (R252). -/
def fCompare (o : CmpOp) (a b : Val) : Bool × FlagSet :=
  match a, b with
  | .nan, _ => (false, if o = .eq then 0 else fNV)
  | _, .nan => (false, if o = .eq then 0 else fNV)
  | _, _ =>
    match o with
    | .eq => (cmpVal a b == .eq, 0)
    | .lt => (cmpVal a b == .lt, 0)
    | .le => (cmpVal a b != .gt, 0)

end Sys2Proof.Machine
end

