-- ==== Sys2Proof/Machine/Series.lean ====
section
/-! DEFINITION. Correctly rounded functions: reciprocal square root, exponential and logarithm to base 2, sine and cosine of a
turn fraction, and Gumbel noise (R267, R276, R278). A real is enclosed between two multiples of 2^-p, and p grows until both
ends round alike. -/
namespace Sys2Proof.Machine

open Sys2Proof

/-- An enclosure: the real lies between lo × 2^-p and hi × 2^-p. -/
structure Enc where
  lo : Int
  hi : Int
  deriving DecidableEq, Repr

/-- The enclosure of an integer. -/
def Enc.ofInt (p : Nat) (i : Int) : Enc := { lo := i * (2 ^ p : Nat), hi := i * (2 ^ p : Nat) }

/-- The enclosure of the fraction a ÷ b, b positive. -/
def Enc.ofFrac (p : Nat) (a b : Nat) : Enc := { lo := (a * 2 ^ p / b : Nat), hi := (a * 2 ^ p / b + 1 : Nat) }

/-- The sum. -/
def Enc.add (a b : Enc) : Enc := { lo := a.lo + b.lo, hi := a.hi + b.hi }

/-- The difference. -/
def Enc.sub (a b : Enc) : Enc := { lo := a.lo - b.hi, hi := a.hi - b.lo }

/-- An integer multiple; the factor is not negative. -/
def Enc.scale (a : Enc) (n : Nat) : Enc := { lo := a.lo * n, hi := a.hi * n }

/-- The product of two enclosures of numbers that are not negative. -/
def Enc.mul (p : Nat) (a b : Enc) : Enc := { lo := a.lo * b.lo / (2 ^ p : Nat), hi := a.hi * b.hi / (2 ^ p : Nat) + 1 }

/-- The quotient by a positive natural number of an enclosure of a number that is not negative. -/
def Enc.divNat (a : Enc) (n : Nat) : Enc := { lo := a.lo / n, hi := a.hi / n + 1 }

/-- The opposite. -/
def Enc.neg (a : Enc) : Enc := { lo := -a.hi, hi := -a.lo }

/-- The sum over k < n of z^(2k+1) ÷ (2k+1), signs alternating when `alt`; `t` encloses z^(2k+1). The rest of the
series lies within 2^-3 of its first term when z is at most 1/3. -/
def oddSeries (p : Nat) (alt : Bool) (z2 : Enc) : Nat → Nat → Enc → Enc → Enc
  | 0, _, t, s => { lo := s.lo - (if alt then 2 * t.hi + 1 else 0), hi := s.hi + 2 * t.hi + 1 }
  | n + 1, k, t, s =>
    let u := t.divNat (2 * k + 1)
    oddSeries p alt z2 n (k + 1) (Enc.mul p t z2) (if alt && k % 2 == 1 then s.sub u else s.add u)

/-- ln of (1 + z) ÷ (1 - z) for z between 0 and 1/3. -/
def lnRatio (p : Nat) (z : Enc) : Enc :=
  (oddSeries p false (Enc.mul p z z) (p / 3 + 4) 0 z { lo := 0, hi := 0 }).scale 2

/-- ln 2. -/
def encLn2 (p : Nat) : Enc := lnRatio p (Enc.ofFrac p 1 3)

/-- ln of a positive natural number. -/
def encLn (p n : Nat) : Enc :=
  let k := n.log2
  (lnRatio p (Enc.ofFrac p (n - 2 ^ k) (n + 2 ^ k))).add ((encLn2 p).scale k)

/-- arctan of 1 ÷ n. -/
def encAtanInv (p n : Nat) : Enc :=
  let z := Enc.ofFrac p 1 n
  oddSeries p true (Enc.mul p z z) (p / 4 + 4) 0 z { lo := 0, hi := 0 }

/-- π, by Machin's formula. -/
def encPi (p : Nat) : Enc := ((encAtanInv p 5).scale 16).sub ((encAtanInv p 239).scale 4)

/-- The sum of x^n ÷ n! from term k on, every `step`-th term, signs alternating when `alt`; `t` encloses term k. -/
def powSeries (p : Nat) (alt : Bool) (step : Nat) (x : Enc) : Nat → Nat → Bool → Enc → Enc → Enc
  | 0, _, _, t, s => { lo := s.lo - (if alt then 2 * t.hi + 1 else 0), hi := s.hi + 2 * t.hi + 1 }
  | n + 1, k, neg, t, s =>
    let next :=
      if step = 1 then (Enc.mul p t x).divNat (k + 1)
      else (Enc.mul p (Enc.mul p t x) x).divNat ((k + 1) * (k + 2))
    powSeries p alt step x n (k + step) (alt && !neg) next (if neg then s.sub t else s.add t)

/-- e^x for x between 0 and 1. -/
def encExp (p : Nat) (x : Enc) : Enc := powSeries p false 1 x (p / 3 + 16) 0 false (Enc.ofInt p 1) { lo := 0, hi := 0 }

/-- sin x for x between 0 and π/2. -/
def encSin (p : Nat) (x : Enc) : Enc := powSeries p true 2 x (p / 4 + 16) 1 false x { lo := 0, hi := 0 }

/-- cos x for x between 0 and π/2. -/
def encCos (p : Nat) (x : Enc) : Enc := powSeries p true 2 x (p / 4 + 16) 0 false (Enc.ofInt p 1) { lo := 0, hi := 0 }

/-- Rounds a real that is no multiple of 2^-p from its enclosure at 2^(x - p): none where the ends round apart. -/
def roundEnc (f : Fmt) (mode : Mode) (sat : Bool) (p : Nat) (x : Int) (v : Enc) : Option (Nat × FlagSet) :=
  let both (neg : Bool) (a b : Nat) : Option (Nat × FlagSet) :=
    let q := f.roundFin mode sat neg a (x - p) true
    let r := f.roundFin mode sat neg (4 * b + 3) (x - p - 2) true
    if q = r then some q else none
  if 0 < v.lo then both false v.lo.toNat v.hi.toNat
  else if v.hi < 0 then both true (-v.hi).toNat (-v.lo).toNat
  else none

/-- The precisions at which a real is enclosed, one after another. -/
def precisions : List Nat := [96, 192, 384, 768]

/-- Rounds a real from its enclosures, at growing precision. -/
def roundReal (f : Fmt) (mode : Mode) (sat : Bool) (x : Int) (v : Nat → Enc) : Nat × FlagSet :=
  ((precisions.findSome? fun p => roundEnc f mode sat p x (v p))).getD (f.nanBits, 0)

/-- The odd part of a positive natural number and the power of two beside it. -/
def oddPart (m : Nat) : Nat × Nat :=
  let k := ((List.range (m.log2 + 1)).find? fun i => m.testBit i).getD 0
  (m >>> k, k)

/-- 2^a (R267, R268). -/
def fExp2 (f : Fmt) (mode : Mode) (sat : Bool) (a : Val) : Nat × FlagSet :=
  match a with
  | .nan => (f.nanBits, 0)
  | .inf neg => if neg then (f.pack false 0 0, 0) else (f.infBits false, 0)
  | .fin neg m e =>
    if m = 0 then f.roundFin mode sat false 1 0 false
    else if 10 < expOf m e then f.roundFin mode sat false 1 (if neg then -2048 else 2048) false
    else
      let d := (-e).toNat
      let i : Int := signedAt neg m e (min e 0)
      let whole := i / (2 ^ d : Nat)
      let part := (i % (2 ^ d : Nat)).toNat
      if part = 0 then f.roundFin mode sat false 1 whole false
      else roundReal f mode sat whole fun p => encExp p (Enc.mul p (Enc.ofFrac p part (2 ^ d)) (encLn2 p))

/-- log2 a (R267, R268). -/
def fLog2 (f : Fmt) (mode : Mode) (sat : Bool) (a : Val) : Nat × FlagSet :=
  match a with
  | .nan => (f.nanBits, 0)
  | .inf neg => if neg then (f.nanBits, fNV) else (f.infBits false, 0)
  | .fin neg m e =>
    if m = 0 then (f.infBits true, fDZ)
    else if neg then (f.nanBits, fNV)
    else
      let (o, k) := oddPart m
      if o = 1 then f.round mode sat (Val.ofInt (e + k))
      else
        roundReal f mode sat 0 fun p =>
          let l := encLn p o
          let n := encLn2 p
          let q : Enc := { lo := l.lo * (2 ^ p : Nat) / n.hi, hi := l.hi * (2 ^ p : Nat) / n.lo + 1 }
          q.add (Enc.ofInt p (e + k))

/-- 1 ÷ √a (R267, R268). -/
def fRsq (f : Fmt) (mode : Mode) (sat : Bool) (a : Val) : Nat × FlagSet :=
  match a with
  | .nan => (f.nanBits, 0)
  | .inf neg => if neg then (f.nanBits, fNV) else (f.pack false 0 0, 0)
  | .fin neg m e =>
    if m = 0 then (f.infBits neg, fDZ)
    else if neg then (f.nanBits, fNV)
    else
      let odd := (e % 2).toNat
      let n := m * 2 ^ odd
      let k := n.log2 + 64
      let q := isqrt (2 ^ (2 * k) / n) (k + 1) 0
      f.roundFin mode sat false q (-(k : Int) - (e - odd) / 2) (q * q * n != 2 ^ (2 * k))

/-- cos and sin of 2π × φ ÷ 2^32 by quadrant, as the values of the first quadrant (R276). -/
def turnPart (p : Nat) (wantSin : Bool) (part : Nat) : Enc :=
  let x := Enc.mul p (encPi p) (Enc.ofFrac p part (2 ^ 31))
  if wantSin then encSin p x else encCos p x

/-- Whether cos or sin of 2π × φ ÷ 2^32 is ± the sine of its part of the quadrant. -/
def turnSin (wantSin : Bool) (phi : Nat) : Bool := if phi / 2 ^ 30 % 2 = 0 then wantSin else !wantSin

/-- Whether cos or sin of 2π × φ ÷ 2^32 is negative in the quadrant of φ. -/
def turnNeg (wantSin : Bool) (phi : Nat) : Bool :=
  let q := phi / 2 ^ 30
  if wantSin then decide (2 ≤ q) else q == 1 || q == 2

/-- cos (`wantSin` false) or sin of 2π × φ ÷ 2^32 for a φ that is no quarter turn (R276). -/
def turnEnc (wantSin : Bool) (phi p : Nat) : Enc :=
  let v := turnPart p (turnSin wantSin phi) (phi % 2 ^ 30)
  if turnNeg wantSin phi then v.neg else v

/-- cos (`wantSin` false) or sin of 2π × φ ÷ 2^32, rounded once; an exact zero is +0 (R276). -/
def fTurn (f : Fmt) (mode : Mode) (wantSin : Bool) (phi : Nat) : Nat × FlagSet :=
  if phi % 2 ^ 30 = 0 then
    (if turnSin wantSin phi then (f.pack false 0 0, 0) else f.roundFin mode false (turnNeg wantSin phi) 1 0 false)
  else roundReal f mode false 0 (turnEnc wantSin phi)

/-- -ln(-ln u) for u = ((h >> 8) + 0.5) × 2^-24 (R278). -/
def gumbelEnc (h p : Nat) : Enc :=
  let l := ((encLn2 p).scale 25).sub (encLn p (2 * (h / 256) + 1))
  let a := encLn p l.lo.toNat
  let b := encLn p l.hi.toNat
  ({ lo := a.lo, hi := b.hi : Enc }.sub ((encLn2 p).scale p)).neg

/-- -ln(-ln u) rounded to nearest even (R278). -/
def fGumbel (h : Nat) : Nat × FlagSet := roundReal fmtFp32 .rne false 0 (gumbelEnc h)

/-- The CRUMB hash (R277). -/
def crumb (k n : Nat) : Nat :=
  let m := 2 ^ 32
  let h := ((Nat.xor k 0x2545F491) + n * 0xCF6E15B3) % m
  let h := Nat.xor h (h >>> 15)
  let h := h * 0x8B3DA5C7 % m
  let h := Nat.xor h (h >>> 13)
  let h := h * 0xC2A59E31 % m
  Nat.xor h (h >>> 16)

end Sys2Proof.Machine
end

