-- ==== Sys2Proof/Machine/Ops.lean ====
section
/-! DEFINITION. The computation of an instruction, and the named operations over registers and memory. -/
namespace Sys2Proof.Machine

open Sys2Proof

/-- The computation of an instruction or event: it changes the state and may end in a trap or a wait. The state it
has reached is kept in each case. -/
abbrev M (α : Type) := ExceptT Halt (StateM State) α

/-- Ends the computation with a trap. -/
def raise (t : Trap) : M α := throw (.trap t)

/-- Ends the computation with a wait. -/
def await : M α := throw .wait

/-- The trap of a fault code with its address and EAUX (R367). -/
def faultOf (code : Nat) (eva eaux : Nat) : Trap :=
  { intr := false, code := code, eva := word eva, eaux := word eaux, ekv := none }

/-! ## Sparse stores -/

/-- The byte listed at an address. -/
def cellFind : List Host.Cell → Nat → Option Byte
  | [], _ => none
  | (b, v) :: r, a => if a = b then some v else if a < b then none else cellFind r a

/-- Lists a byte at an address, keeping the addresses rising; `drop0` removes the entry of a zero byte. -/
def cellPut (drop0 : Bool) : List Host.Cell → Nat → Byte → List Host.Cell
  | [], a, v => if drop0 && v == 0 then [] else [(a, v)]
  | (b, w) :: r, a, v =>
    if a = b then (if drop0 && v == 0 then r else (a, v) :: r)
    else if a < b then (if drop0 && v == 0 then (b, w) :: r else (a, v) :: (b, w) :: r)
    else (b, w) :: cellPut drop0 r a v

/-- Whether the addresses rise strictly and no listed byte is zero. -/
def Memory.wf : List Host.Cell → Bool
  | [] => true
  | [(_, v)] => v != 0
  | (a, v) :: (b, w) :: r => v != 0 && decide (a < b) && Memory.wf ((b, w) :: r)

/-- A byte of a store. -/
def Bytes.get (b : Bytes) (a : Nat) : Byte :=
  match cellFind b.cells a with
  | some v => v
  | none =>
    match b.fill with
    | .zero | .void => 0
    | .free seed => Config.freeByte seed a

/-- Writes a byte of a store. -/
def Bytes.put (b : Bytes) (a : Nat) (v : Byte) : Bytes :=
  { b with cells := cellPut (b.fill == .zero) b.cells a v }

/-- Writes bytes from an offset on. -/
def Bytes.putAll (b : Bytes) (a : Nat) (vs : List Byte) : Bytes :=
  match vs with
  | [] => b
  | v :: r => Bytes.putAll (b.put a v) (a + 1) r

/-- Reads n bytes. -/
def Bytes.getAll (b : Bytes) (a n : Nat) : List Byte := (List.range n).map fun i => b.get (a + i)

/-- A row of zeros with tags 0 (R393). -/
def VRow.zero : VRow := { bits := 0, tags := 0, rexp := 0 }

/-- A row of zero bytes tagged VOID (R284, R383). -/
def voidRow : VRow := { bits := 0, tags := 0xFF00FF00FF00FF00, rexp := 0 }

/-- A block tag that the bits name: format code 0 to 18 with any scale, and VOID for every other (R62, R63). -/
def legalTag (t : Nat) : Nat := if t / 256 % 256 ≤ 18 then t % 2 ^ 16 else 0xFF00

/-- The four block tags of a row as a register may hold them (R62, R63). -/
def legalTags (t : BitVec 64) : BitVec 64 :=
  word ((List.range 4).foldl (fun n b => n + legalTag (t.toNat >>> (16 * b)) * 2 ^ (16 * b)) 0)

/-- What an unlisted row holds; the tags of an unpredictable one are free among those that a register may hold (R3, R62). -/
def RowFile.blank (f : RowFile) (i : Nat) : VRow :=
  match f.fill with
  | .zero => VRow.zero
  | .void => voidRow
  | .free seed => { bits := Config.freeRow seed i, tags := legalTags (Config.freeTags seed i), rexp := Config.freeExp seed i }

/-- The row listed at a number. -/
def rowFind : List (Nat × VRow) → Nat → Option VRow
  | [], _ => none
  | (b, v) :: r, a => if a = b then some v else if a < b then none else rowFind r a

/-- Lists a row at a number, keeping the numbers rising; `drop0` removes the entry of a zero row. -/
def rowPut (drop0 : Bool) : List (Nat × VRow) → Nat → VRow → List (Nat × VRow)
  | [], a, v => if drop0 && v == VRow.zero then [] else [(a, v)]
  | (b, w) :: r, a, v =>
    if a = b then (if drop0 && v == VRow.zero then r else (a, v) :: r)
    else if a < b then (if drop0 && v == VRow.zero then (b, w) :: r else (a, v) :: (b, w) :: r)
    else (b, w) :: rowPut drop0 r a v

/-- Row i of a row file. -/
def RowFile.get (f : RowFile) (i : Nat) : VRow := (rowFind f.rows i).getD (f.blank i)

/-- Writes row i of a row file. -/
def RowFile.put (f : RowFile) (i : Nat) (v : VRow) : RowFile := { f with rows := rowPut (f.fill == .zero) f.rows i v }

/-! ## Clocks -/

/-- The counter of a die. -/
def Clock.get (c : Clock) (d : Nat) : Nat :=
  match d with
  | 0 => c.c0 | 1 => c.c1 | 2 => c.c2 | _ => c.c3

/-- Sets the counter of a die. -/
def Clock.set (c : Clock) (d v : Nat) : Clock :=
  match d with
  | 0 => { c with c0 := v } | 1 => { c with c1 := v } | 2 => { c with c2 := v } | _ => { c with c3 := v }

/-- The join of two clocks (R305). -/
def Clock.join (a b : Clock) : Clock :=
  { c0 := max a.c0 b.c0, c1 := max a.c1 b.c1, c2 := max a.c2 b.c2, c3 := max a.c3 b.c3 }

/-- Whether a clock is at least another for every die but `h` (R306). -/
def Clock.coversBut (h : Nat) (a b : Clock) : Bool :=
  (List.range 4).all fun k => k == h || decide (b.get k ≤ a.get k)

/-! ## The parts of the device -/

/-- A list with position i changed. -/
def modifyNth (f : α → α) : Nat → List α → List α
  | _, [] => []
  | 0, a :: r => f a :: r
  | n + 1, a :: r => a :: modifyNth f n r

/-- The die of a core (R5). -/
def dieOf (core : Nat) : Nat := core / Config.coresPerDie

/-- The cluster of a core, which is also the number of its matrix engine (R5). -/
def clusterOf (core : Nat) : Nat := core / 4

/-- The core of a number. -/
def State.core (s : State) (c : Nat) : Core := s.cores.getD c Core.reset

/-- The die of a number. -/
def State.die (s : State) (d : Nat) : Die := s.dies.getD d Die.reset

/-- The matrix engine of a cluster. -/
def State.mxe (s : State) (m : Nat) : Mxe := s.mxes.getD m Mxe.reset

/-- The crust of a stack. -/
def State.crust (s : State) (k : Nat) : Crust := s.crusts.getD k Crust.reset

/-- Changes a core. -/
def State.updCore (s : State) (c : Nat) (f : Core → Core) : State := { s with cores := modifyNth f c s.cores }

/-- Changes a die. -/
def State.updDie (s : State) (d : Nat) (f : Die → Die) : State := { s with dies := modifyNth f d s.dies }

/-- Changes a matrix engine. -/
def State.updMxe (s : State) (m : Nat) (f : Mxe → Mxe) : State := { s with mxes := modifyNth f m s.mxes }

/-- Changes a crust. -/
def State.updCrust (s : State) (k : Nat) (f : Crust → Crust) : State := { s with crusts := modifyNth f k s.crusts }

/-- The core that is executing. -/
def State.me (s : State) : Core := s.core s.cur

/-- Changes the core that is executing. -/
def State.updMe (s : State) (f : Core → Core) : State := s.updCore s.cur f

/-- Reads the core that is executing. -/
def getMe : M Core := do return (← get).me

/-- Changes the core that is executing. -/
def modMe (f : Core → Core) : M Unit := modify fun s => s.updMe f

/-- The number of the core that is executing. -/
def myNumber : M Nat := do return (← get).cur

/-- Runs a computation as another core does. -/
def onCore (c : Nat) (m : M α) : M α := do
  let old := (← get).cur
  modify fun s => { s with cur := c }
  let r ← tryCatch m fun h => do
    modify fun s => { s with cur := old }
    throw h
  modify fun s => { s with cur := old }
  return r

/-- Runs a computation, answering the trap that it ends in. -/
def tryTrap (m : M α) : M (Sum Trap α) :=
  tryCatch (do let a ← m; return .inr a) fun h => match h with
    | .trap t => return .inl t
    | .wait => throw .wait

/-- Draws one of k alternatives that the manual leaves open. -/
def drawChoice (k : Nat) : M Nat := do
  let n := (← get).freeCtr
  modify fun s => { s with freeCtr := n + 1 }
  return Config.freeChoice n % k

/-- Draws a fresh number for contents the manual calls unpredictable. -/
def drawSeed : M Nat := do
  let n := (← get).freeCtr
  modify fun s => { s with freeCtr := n + 1 }
  return n

/-- Draws a free 64-bit value. -/
def drawWord : M Word := do
  let n := (← get).freeCtr
  modify fun s => { s with freeCtr := n + 1 }
  return Config.freeWord n

/-! ## Scalar registers (R236, R364) -/

/-- The value of a scalar register in the bank of the mode; x0 reads zero. -/
def Core.x (k : Core) (r : Reg) : Word :=
  if r = 0 then 0 else if k.sstat.mode then k.sup[r.toNat] else k.task[r.toNat]

/-- Writes a scalar register in the bank of the mode; a write to x0 is discarded. -/
def Core.setX (k : Core) (r : Reg) (v : Word) : Core :=
  if r = 0 then k
  else if k.sstat.mode then { k with sup := k.sup.set r.toNat v } else { k with task := k.task.set r.toNat v }

/-- Reads a scalar register. -/
def readX (r : Reg) : M Word := do return (← getMe).x r

/-- Writes a scalar register. -/
def writeX (r : Reg) (v : Word) : M Unit := modMe fun k => k.setX r v

/-- VSTART after an instruction that has completed (R209, R226): 0, unless it belongs to a held entry (R370). -/
def Core.clearVstart (k : Core) : Core := { k with vstart := if k.sstat.held then k.vstart else 0 }

/-- ORs exception bits into FLAGS (R70, R72). -/
def orFlags (f : BitVec 6) : M Unit := modMe fun k => { k with flags := k.flags ||| f }

/-! ## Locations

A location is one number: a physical address below 2^52, or a byte of pad space above it (R85, R199). -/

/-- The location of a core pad byte. -/
def corePadLoc (core off : Nat) : Nat := 2 ^ 52 + core * 2 ^ 20 + off

/-- The location of a cluster memory byte: the MiB beside a core. -/
def clusterLoc (core off : Nat) : Nat := 2 ^ 53 + core * 2 ^ 20 + off

/-- The location of a chip pad byte. -/
def chipPadLoc (die off : Nat) : Nat := 2 ^ 54 + die * 2 ^ 26 + off

/-- The size of the seal reserve Z (R176). -/
def State.sealZ (s : State) : Nat := 2 * 2 ^ 30 * ceilDiv (15 * (s.sealG / 2 ^ 30)) 112

/-- I, the part of each stack behind the interleaved window (R176). -/
def State.interI (s : State) : Nat := 2 ^ 36 - s.carveC - s.sealZ

/-- The stack of an address of device memory (R177, R178). -/
def stackOf (pa : Nat) : Nat :=
  if pa < 2 ^ 51 then Nat.xor (bits pa 13 11) (bits pa 16 14) else bits pa 42 40

/-- The stack and stack offset of an address of device memory (R175 to R178). -/
def State.stackOffset (s : State) (pa : Nat) : Nat :=
  if pa < 2 ^ 51 then s.carveC + pa / 2 ^ 14 * 2 ^ 11 + pa % 2 ^ 11 else pa % 2 ^ 40

/-- The address a device's own number in the fabric window stands for is its own memory (R386). -/
def State.canonPa (s : State) (pa : Nat) : Nat :=
  if 0xA000000000000 ≤ pa ∧ pa < 0xC000000000000 ∧ (pa - 0xA000000000000) / 2 ^ 39 = s.devNo then pa % 2 ^ 39 else pa

/-- Whether an address reaches host memory or another device (R386). -/
def isRemote (pa : Nat) : Bool := decide (0xA000000000000 ≤ pa) && decide (pa < 0xD000000000000)

/-- Whether a physical address is backed (R177 to R179, R386). -/
def State.backed (s : State) (pa : Nat) : Bool :=
  if pa < 2 ^ 51 then decide (pa < 8 * s.interI)
  else if pa < 0xA000000000000 then decide (bits pa 50 43 = 0) && decide (pa % 2 ^ 40 < s.carveC)
  else isRemote pa

/-- Whether a range of physical addresses is backed throughout; `n` is not zero. The backed parts of a window are
intervals, and a page does not cross windows. -/
def State.backedRange (s : State) (pa n : Nat) : Bool := s.backed (s.canonPa pa) && s.backed (s.canonPa (pa + n - 1))

/-- The home die of a location (R7, R199, R305); none for host memory and other devices. -/
def homeOf (loc : Nat) : Option Nat :=
  if 2 ^ 54 ≤ loc then some ((loc - 2 ^ 54) / 2 ^ 26)
  else if 2 ^ 53 ≤ loc then some (dieOf ((loc - 2 ^ 53) / 2 ^ 20))
  else if 2 ^ 52 ≤ loc then some (dieOf ((loc - 2 ^ 52) / 2 ^ 20))
  else if isRemote loc then none
  else some (stackOf loc / 2)

/-- Whether a location lies in pad space. -/
def isPad (loc : Nat) : Bool := decide (2 ^ 52 ≤ loc)

/-! ## The bytes of memory -/

/-- The byte a location holds. An unlisted location holds zero: every SRAM and every byte of HBM4E is wiped at reset
(R393). -/
def State.byte (s : State) (loc : Nat) : Byte := (cellFind s.mem loc).getD 0

/-- Writes a byte of memory. -/
def State.setByte (s : State) (loc : Nat) (v : Byte) : State := { s with mem := cellPut true s.mem loc v }

/-- The n bytes from a location on. -/
def State.bytesAt (s : State) (loc n : Nat) : List Byte := (List.range n).map fun i => s.byte (loc + i)

/-- Writes bytes from a location on. -/
def State.setBytes (s : State) (loc : Nat) : List Byte → State
  | [] => s
  | v :: r => State.setBytes (s.setByte loc v) (loc + 1) r

/-- The little-endian value of n bytes. -/
def State.num (s : State) (loc n : Nat) : Nat := leNat (s.bytesAt loc n)

/-- The stamp of the last write of a line (R305). -/
def State.stampOf (s : State) (line : Nat) : Clock :=
  match s.stamps.find? fun p => p.1 == line with
  | some p => p.2
  | none => Clock.reset

/-- Records the stamp of a line. -/
def State.setStamp (s : State) (line : Nat) (c : Clock) : State :=
  { s with stamps := (line, c) :: s.stamps.filter fun p => p.1 != line }

/-! ## Sealed lines and errors (R181 to R185) -/

/-- The load of a seal key, none where the key is not loaded (R395). -/
def State.keyGenOf (s : State) (k : Nat) : Option Nat := (s.keys.find? fun p => p.1 == k).map Prod.snd

/-- The key and its load under which a line is sealed. -/
def State.sealOf (s : State) (line : Nat) : Option (Nat × Nat) :=
  (s.sealTags.find? fun p => p.1 == line).map Prod.snd

/-- The write counter of a sealed line (R181): its write-backs. -/
def State.counterOf (s : State) (line : Nat) : Nat := ((s.counters.find? fun p => p.1 == line).map Prod.snd).getD 0

/-- The write counter of a sealed line advances (R181). -/
def State.countWrite (s : State) (line : Nat) : State :=
  { s with counters := (line, s.counterOf line + 1) :: s.counters.filter fun p => p.1 != line }

/-- Why a read of a line through a leaf with this seal key fails: the reason of R185. -/
def State.lineError (s : State) (key : Option Nat) (line : Nat) : Option Nat :=
  if s.badLines.contains line then some 0
  else
    match key with
    | none => none
    | some k =>
      match s.keyGenOf k with
      | none => some 3
      | some g =>
        if s.badCounters.contains line then some 2
        else if s.sealOf line == some (k, g) then none else some 1

/-- The seed of a line whose contents the manual calls unpredictable (R3). -/
def State.vagueSeed (s : State) (line : Nat) : Option Nat := (s.vague.find? fun p => p.1 == line).map Prod.snd

/-- A line takes contents that the manual calls unpredictable (R3). -/
def State.makeVague (s : State) (line seed : Nat) : State :=
  { s with vague := (line, seed) :: s.vague.filter fun p => p.1 != line }

/-- The contents of a line are defined again. -/
def State.makeExact (s : State) (line : Nat) : State := { s with vague := s.vague.filter fun p => p.1 != line }

/-- Whether the home copy of a line has changed since its last write-back (R105). -/
def State.isDirty (s : State) (line : Nat) : Bool := s.dirty.any fun p => p.line == line

/-- The bytes a read through a leaf with this seal key finds: a sealed line read without its key shows the ciphertext of its contents
under the counter that its write-back gives them (R181), and an unpredictable line shows free values. -/
def State.readAs (s : State) (key : Option Nat) (loc n : Nat) : List Byte :=
  match s.vagueSeed (loc / 64), key, s.sealOf (loc / 64) with
  | some v, _, _ => (List.range n).map fun i => Config.freeByte v (loc + i)
  | none, none, some (k, g) =>
    (List.range n).map fun i => Config.cipherByte k g (s.counterOf (loc / 64) + (if s.isDirty (loc / 64) then 1 else 0)) (loc + i)
      (s.byte (loc + i))
  | none, _, _ => s.bytesAt loc n

/-- The trap of an uncorrectable error on the line that `va` lies in (R185). -/
def errorTrap (va loc reason : Nat) : Trap :=
  faultOf 25 (va / 64 * 64) ((if isPad loc then 0 else stackOf loc) * 16 + reason)

/-- Counts a deferred failure of a core's context (R184). -/
def State.deferFail (s : State) (core : Option Nat) : State :=
  match core with
  | none => s
  | some c => s.updCore c fun k => { k with deferred := k.deferred + 1 }

/-- Whether a write of part of a line can be made: it needs the line's old bytes (R182, R184). -/
def State.writable (s : State) (key : Option Nat) (loc n : Nat) : Bool :=
  let line := loc / 64
  let whole := loc % 64 == 0 && n == 64
  match key with
  | some k =>
    match s.keyGenOf k with
    | none => false
    | some g => whole || (!s.badLines.contains line && !s.badCounters.contains line && s.sealOf line == some (k, g))
  | none => whole || !s.badLines.contains line

/-- A line that is written whole has no error and no unpredictable byte any more (R184). -/
def State.clearLine (s : State) (line : Nat) : State :=
  { s with badLines := s.badLines.filter fun l => l != line, badCounters := s.badCounters.filter fun l => l != line,
           vague := s.vague.filter fun p => p.1 != line }

/-! ## What HBM4E holds (R105) -/

/-- The 64 bytes of a line. -/
def State.lineAt (s : State) (line : Nat) : Line := lineOfBytes (s.bytesAt (line * 64) 64)

/-- Whether a location lies in HBM4E. -/
def isHbm (loc : Nat) : Bool := decide (loc < 2 ^ 52) && !isRemote loc

/-- A home copy is about to change: what HBM4E holds is kept, where it was not dirty yet (R105). -/
def State.noteDirty (s : State) (loc : Nat) : State :=
  if isHbm loc && !s.isDirty (loc / 64) then
    { s with dirty := { line := loc / 64, bytes := s.lineAt (loc / 64), tag := s.sealOf (loc / 64) } :: s.dirty }
  else s

/-- A line needs no write-back any more (R105, R186). -/
def State.forgetDirty (s : State) (line : Nat) : State := { s with dirty := s.dirty.filter fun p => p.line != line }

/-- A changed line is written back to HBM4E (R105): the counter of a sealed one advances (R181). -/
def State.writeBack (s : State) (line : Nat) : State :=
  (if s.isDirty line && (s.sealOf line).isSome then s.countWrite line else s).forgetDirty line

/-- The lock of an item of a crust (R186): a changed line is written back, and its L1 copies are invalidated. -/
def State.lockLines (s : State) (lines : List Nat) : State :=
  let s := lines.foldl State.writeBack s
  { s with l1 := s.l1.filter fun p => !lines.contains p.2 }

/-- Places bytes into the home copy of a line, which HBM4E then holds no more. A write of the whole line replaces an error (R184), a
keyed write seals the line (R181), and a write of part of a line keeps what a read through the same leaf found in the rest. -/
def State.placeBytes (s : State) (key : Option Nat) (loc : Nat) (bs : List Byte) : State :=
  let line := loc / 64
  let whole := loc % 64 == 0 && bs.length == 64
  let rest := s.readAs key (line * 64) 64
  let keep := !whole && ((s.vagueSeed line).isSome || (key.isNone && (s.sealOf line).isSome))
  let s := s.noteDirty loc
  let s := if keep then (s.makeExact line).setBytes (line * 64) rest else s
  let s := if whole then s.clearLine line else s
  let s := { s with sealTags := match key with
      | some k => (line, k, (s.keyGenOf k).getD 0) :: s.sealTags.filter fun p => p.1 != line
      | none => s.sealTags.filter fun p => p.1 != line }
  s.setBytes loc bs

/-! ## L1 copies (R198) -/

/-- The L1 of a core takes a line. -/
def State.holdL1 (s : State) (c line : Nat) : State :=
  { s with l1 := if s.l1.contains (c, line) then s.l1 else (c, line) :: s.l1 }

/-- The L1 copies of a line are invalidated on every die but its home (R197, R198): no copy is left there. -/
def State.dropAway (s : State) (line : Nat) : State :=
  { s with l1 := s.l1.filter fun p => p.2 != line || homeOf (line * 64) == some (dieOf p.1) }

/-- Every guest copy of some lines is dropped, and with each the L1 copies of its die (R105, R116, R197). -/
def State.dropGuests (s : State) (lines : List Nat) : State :=
  lines.foldl State.dropAway
    { s with dies := s.dies.map fun d => { d with guests := d.guests.filter fun g => !lines.contains g.line } }

/-- The L1 copies of a line on a die are invalidated (R198). -/
def State.dropL1 (s : State) (d line : Nat) : State := { s with l1 := s.l1.filter fun p => !(dieOf p.1 == d && p.2 == line) }

/-- The L1 copy of a line of one core is invalidated (R105, R198). -/
def State.dropL1Of (s : State) (c line : Nat) : State := { s with l1 := s.l1.filter fun p => p != (c, line) }

/-! ## Writes of the abstract machine (R306) -/

/-- The count of a doubleword in a list of counts. -/
def countIn (ws : List (Nat × Nat)) (a : Nat) : Nat := ((ws.find? fun p => p.1 == a).map Prod.snd).getD 0

/-- How often a doubleword has been written at its home (R324). -/
def State.writesOf (s : State) (loc : Nat) : Nat := countIn s.writes (loc / 8)

/-- A write of n bytes has performed: the doublewords it touches count it (R324). -/
def State.noteWrite (s : State) (loc n : Nat) : State :=
  let touched := if n = 0 then [] else (List.range ((loc + n - 1) / 8 - loc / 8 + 1)).map fun i => loc / 8 + i
  { s with writes := touched.foldl (fun ws a => (a, countIn ws a + 1) :: ws.filter fun p => p.1 != a) s.writes }

/-- Whether an update may be applied at a die. -/
def updateReady (d : Die) (u : Update) : Bool :=
  d.dvc.get u.home + 1 == u.stamp.get u.home && d.dvc.coversBut u.home u.stamp

/-- Applies an update at a die: a guest copy takes the bytes and the stamp (R306). -/
def applyUpdate (d : Die) (u : Update) : Die :=
  { d with
    guests := d.guests.map fun g =>
      if g.line = u.loc / 64 then
        { g with bytes := lineOfBytes (patch (bytesOfLine g.bytes) (u.loc % 64) u.bytes), stamp := u.stamp }
      else g
    dvc := d.dvc.set u.home (u.stamp.get u.home) }

/-- One pass over an inbox: applies what is ready and keeps the rest. -/
def applyPass (d : Die) : List Update → Die × List Update
  | [] => (d, [])
  | u :: r =>
    if updateReady d u then applyPass (applyUpdate d u) r
    else
      let (d', r') := applyPass d r
      (d', u :: r')

/-- Applies every update of an inbox in causal order, in at most `fuel` passes. -/
def drainPasses : Nat → Die → Die
  | 0, d => d
  | fuel + 1, d =>
    let (d', r) := applyPass { d with inbox := [] } d.inbox
    if r.isEmpty then { d' with inbox := [] } else drainPasses fuel { d' with inbox := r }

/-- Applies every update of a die's inbox, and the L1 copies of their lines are invalidated (R198). -/
def State.drainInbox (s : State) (d : Nat) : State :=
  let lines := (s.die d).inbox.map fun u => u.loc / 64
  { s with l1 := s.l1.filter fun p => !(dieOf p.1 == d && lines.contains p.2) }.updDie d fun k =>
    drainPasses (k.inbox.length + 1) k

/-- The stamp a write takes at its home: the home's clock with its own counter advanced. -/
def State.nextStamp (s : State) (h : Nat) : Clock := let c := (s.die h).dvc; c.set h (c.get h + 1)

/-- C, the clock that a write of a core carries (R306); zero for an agent outside the cores. -/
def State.carried (s : State) (core : Option Nat) : Clock :=
  match core with
  | some c => (s.die (dieOf c)).dvc.join (s.core c).ck
  | none => Clock.reset

/-- A home takes a write transition (R306): its clock advances to the stamp, L1 copies there are invalidated, an update enters
the inbox of every other die, and the writer's clock joins the stamp. -/
def State.stampAt (s : State) (core : Option Nat) (h line loc : Nat) (bs : List Byte) : State :=
  let stamp := s.nextStamp h
  let s := (((s.noteWrite loc bs.length).setStamp line stamp).dropL1 h line).updDie h fun d => { d with dvc := stamp }
  let u : Update := { home := h, loc := loc, bytes := bs, stamp := stamp }
  let s := { s with dies := s.dies.mapIdx fun i d => if i = h then d else { d with inbox := d.inbox ++ [u] } }
  match core with
  | none => s
  | some c => s.updCore c fun k => { k with ck := k.ck.join stamp }

/-- A home applies its inbox where it has not yet seen everything that a write with a clock carries (R306). -/
def State.catchUpTo (s : State) (ck : Clock) (h : Nat) : State :=
  if (s.die h).dvc.coversBut h ck then s else s.drainInbox h

/-- A home applies its inbox where it has not yet seen everything that a write of a core carries (R306). -/
def State.catchUp (s : State) (core : Option Nat) (h : Nat) : State := s.catchUpTo (s.carried core) h

/-- Whether a location lies in the memory of another device (R386). -/
def isFabric (loc : Nat) : Bool := decide (0xA000000000000 ≤ loc) && decide (loc < 0xC000000000000)

/-- A core's write to another device waits for its acknowledgement (R390). -/
def State.sendFabric (s : State) (core : Option Nat) (loc : Nat) : State :=
  match core with
  | none => s
  | some c =>
    if isFabric loc then
      { s with fabric := s.fabric ++ [{ core := c, task := (s.core c).taskNo, loc := loc, write := true, sent := s.dtime }] }
    else s

/-- The writes of a core to another device that a test names are acknowledged (R309, R319). -/
def State.ackFabric (s : State) (c : Nat) (test : Nat → Bool) : State :=
  { s with fabric := s.fabric.filter fun f => !(f.write && f.core == c && test f.loc) }

/-- Whether two byte ranges overlap. -/
def overlaps (a n b m : Nat) : Bool := decide (a < b + m) && decide (b < a + n)

/-- Software writes bytes of a line: the parts of a version store among them are noted (R132), and a write of a region record, other than
of LINKCOUNT or of the reserved bytes, sets the region up anew. -/
def State.softWrite (s : State) (loc n : Nat) : State :=
  let kept := (loc % 64 == 24 && n == 4) || decide (40 ≤ loc % 64)
  let hit := (s.verOwned.filter fun i => overlaps i.addr i.size loc n).map VerItem.addr
  { s with verTaint := hit ++ s.verTaint.filter fun a => !hit.contains a,
           verOwned := if kept then s.verOwned else s.verOwned.filter fun i => i.region != loc / 64 }

/-- Whether a byte lies in the STATUS of a host queue, which software reads and the device alone writes (R2, R344). -/
def State.statusByte (s : State) (loc : Nat) : Bool :=
  let a := s.sbase + 0x2E00000
  s.stage == .running && decide (loc < 2 ^ 52) && decide (a ≤ loc) && decide (loc < a + 64 * 64) && (loc - a) % 64 / 8 == 4

/-- The bytes that software's write of a place leaves there: those of a field that it may not write stay as they were (R2). -/
def State.keepRo (s : State) (loc : Nat) (bs : List Byte) : List Byte :=
  bs.mapIdx fun i b => if s.statusByte (loc + i) then s.byte (loc + i) else b

/-- The home copy of a line takes bytes and their stamp (R306). A write that needs old bytes it cannot have is not
performed and counts as a deferred failure (R182, R184). A write of a core leaves the fields that it may not write (R2). Memory of the
host and of other devices takes the bytes with no clock (R319). -/
def State.performAt (s : State) (core : Option Nat) (key : Option Nat) (loc : Nat) (bs : List Byte) : State :=
  if !s.writable key loc bs.length then s.deferFail core
  else
    match homeOf loc with
    | none => ((s.placeBytes key loc bs).noteWrite loc bs.length).sendFabric core loc
    | some h =>
      let bs := if core.isSome then s.keepRo loc bs else bs
      ((s.softWrite loc bs.length).placeBytes key loc bs).stampAt core h (loc / 64) loc bs

/-- A write leaves its core and performs at its home (R306). -/
def State.perform (s : State) (core : Option Nat) (key : Option Nat) (loc : Nat) (bs : List Byte) : State :=
  match homeOf loc with
  | none => s.performAt core key loc bs
  | some h => (s.catchUp core h).performAt core key loc bs

/-- A write that carries a clock of its own performs at its home (R306, R317). -/
def State.performClock (s : State) (ck : Clock) (core : Option Nat) (key : Option Nat) (loc : Nat) (bs : List Byte) : State :=
  match homeOf loc with
  | none => s.performAt core key loc bs
  | some h => (s.catchUpTo ck h).performAt core key loc bs

/-- The writes over the fabric of every task that runs no more are acknowledged (R309, R353). -/
def State.ackEnded (s : State) : State :=
  { s with fabric := s.fabric.filter fun f =>
      !f.write || ((s.core f.core).act == .running && (s.core f.core).taskNo == f.task) }

/-- A write of the device that releases everything performed before it (R353, R359); outside the device it is a release at
SYSTEM scope (R353). -/
def State.publish (s : State) (key : Option Nat) (loc : Nat) (bs : List Byte) : State :=
  match homeOf loc with
  | none => s.ackEnded.performAt none key loc bs
  | some h => (s.drainInbox h).performAt none key loc bs

/-- Performs bytes that may cross lines, a line at a time. -/
def State.performAll (s : State) (core : Option Nat) (key : Option Nat) (loc : Nat) (bs : List Byte) : State :=
  (splitLines (bs.length + 1) loc bs).foldl (fun s p => s.perform core key p.1 p.2) s

/-- Die d applies update n of its inbox where it may (R306). -/
def State.applyNth (s : State) (d n : Nat) : State :=
  match (s.die d).inbox[n]? with
  | none => s
  | some u =>
    if updateReady (s.die d) u then
      (s.dropL1 d (u.loc / 64)).updDie d fun k => { applyUpdate k u with inbox := k.inbox.eraseIdx n }
    else s

/-- A recorded fill installs its guest copy, with the L1 copy of the core it answered, or is discarded
once the die's clock has passed it (R306). -/
def State.installFill (s : State) (n : Nat) : State :=
  match s.fills[n]? with
  | none => s
  | some f =>
    let now := (s.die f.die).dvc.get f.home
    if now = f.h then
      ({ s with fills := s.fills.eraseIdx n }.holdL1 f.core f.line).updDie f.die fun d =>
        { d with guests := { line := f.line, bytes := f.bytes, stamp := f.stamp }
                             :: d.guests.filter fun g => g.line != f.line }
    else if f.h < now then { s with fills := s.fills.eraseIdx n }
    else s

/-! ## Reads of the abstract machine (R306) -/

/-- The bytes of a scalar load, with the core's own stores to them laid over in order (R308). -/
def overlaySb (sb : List SbEntry) (loc : Nat) (bs : List Byte) : List Byte :=
  sb.foldl (fun acc e =>
    (List.range acc.length).map fun i =>
      if e.loc ≤ loc + i ∧ loc + i < e.loc + e.bytes.length then e.bytes.getD (loc + i - e.loc) 0 else acc.getD i 0) bs

/-- The guest copy a scalar load may be answered from: one on the core's die whose home clock covers the core's
(R306). -/
def State.guestFor (s : State) (c loc : Nat) : Option Guest :=
  match homeOf loc with
  | none => none
  | some h =>
    let d := s.die (dieOf c)
    if (s.core c).ck.get h ≤ d.dvc.get h then d.guests.find? fun g => g.line == loc / 64 else none

/-- Whether a scalar load of a core is answered at its die (R306): the line's home is there, or a current guest copy
stands there. Pad locations and versioned lines are read at home. -/
def State.atDie (s : State) (c loc : Nat) (held : Bool) : Bool :=
  held && !isPad loc && (homeOf loc == some (dieOf c) || (s.guestFor c loc).isSome)

/-- Joins a stamp into the clock of a core. -/
def State.joinCk (s : State) (c : Nat) (st : Clock) : State := s.updCore c fun k => { k with ck := k.ck.join st }

/-- A read of another device's memory that is not acknowledged in time fails (R390). -/
def lostRead (c va loc : Nat) : M Unit := do
  let s ← get
  if isFabric loc && s.fabric.any (fun f => !f.write && f.core == c) then
    set { s with fabric := s.fabric.filter fun f => f.write || f.core != c }
    raise (faultOf 27 va 0)
  else return ()

/-- A read is answered from the home copy (R306), where it is acknowledged (R390). -/
def readHome (c : Nat) (key : Option Nat) (va loc n : Nat) : M (List Byte) := do
  lostRead c va loc
  let s ← get
  match s.lineError key (loc / 64) with
  | some r => raise (errorTrap va loc r)
  | none =>
    set (s.joinCk c (s.stampOf (loc / 64)))
    return s.readAs key loc n

/-- A scalar load is answered at the die or at home (R306); a load answered at home of a line that may be guest-held
records a fill. The L1 takes the line with a copy that its die holds (R197). `held` says that the line may be held as a guest. -/
def readScalar (c : Nat) (key : Option Nat) (held : Bool) (va loc n : Nat) : M (List Byte) := do
  let s ← get
  let sb := (s.core c).sb
  if s.atDie c loc held && homeOf loc != some (dieOf c) then
    match s.guestFor c loc with
    | some g =>
      set ((s.joinCk c g.stamp).holdL1 c (loc / 64))
      return overlaySb sb loc (((bytesOfLine g.bytes).drop (loc % 64)).take n)
    | none => return overlaySb sb loc (s.readAs key loc n)
  else
    let bs ← readHome c key va loc n
    match homeOf loc with
    | none => pure ()
    | some h =>
      if !held || isPad loc then pure ()
      else if h == dieOf c then modify fun s => s.holdL1 c (loc / 64)
      else
        modify fun s =>
          let f : FillRec := { die := dieOf c, home := h, line := loc / 64,
                               bytes := lineOfBytes (s.readAs key (loc / 64 * 64) 64), stamp := s.stampOf (loc / 64),
                               h := (s.die h).dvc.get h, core := c }
          { s with fills := s.fills ++ [f] }
    return overlaySb sb loc bs

end Sys2Proof.Machine
end

