-- ==== Sys2Proof/Machine/Translate.lean ====
section
/-! DEFINITION. Translation of virtual addresses: the page table, page descriptor blocks and TLBs (R84 to R103). -/
namespace Sys2Proof.Machine

open Sys2Proof

/-- The kind of an access (R86). -/
inductive Acc where
  | read | write | fetch
  deriving DecidableEq, Repr

/-- What an access is translated under: the values of the core, or an entry's dispatch-time copies (R101, R244). -/
structure Ctx where
  core : Nat
  asid : BitVec 16
  ptroot : Word
  sup : Bool
  scx : BitVec 16
  deriving DecidableEq, Repr

/-- The trap of a translation-class fault (R100). -/
def pageTrap (code : Nat) (acc : Acc) (level reason va : Nat) : Trap :=
  faultOf code va ((if acc = .write then 0x800 else 0) + (if acc = .fetch then 0x400 else 0) + level * 128 + reason)

/-- Page size in bytes and the entries of its run, by SZ (R88). -/
def szInfo (sz : Nat) : Option (Nat × Nat × Nat) :=
  match sz with
  | 0 => some (2 ^ 12, 1, 0) | 1 => some (2 ^ 14, 4, 0) | 2 => some (2 ^ 16, 16, 0) | 3 => some (2 ^ 18, 64, 0)
  | 4 => some (2 ^ 20, 256, 0) | 5 => some (2 ^ 21, 1, 1) | 6 => some (2 ^ 23, 4, 1) | 7 => some (2 ^ 25, 16, 1)
  | 8 => some (2 ^ 27, 64, 1) | 9 => some (2 ^ 30, 1, 2) | _ => none

/-- ADDR of an entry as an address (R87). -/
def pteAddr (e : Nat) : Nat := bits e 51 12 * 4096
/-- SZ of an entry. -/
def pteSz (e : Nat) : Nat := bits e 55 52
/-- KEY of an entry. -/
def pteKey (e : Nat) : Nat := bits e 61 56
/-- GLZ of an entry. -/
def pteGlz (e : Nat) : Bool := bit e 11
/-- VERS of an entry. -/
def pteVers (e : Nat) : Bool := bit e 10
/-- DESC of an entry. -/
def pteDesc (e : Nat) : Bool := bit e 9
/-- SEAL of an entry. -/
def pteSeal (e : Nat) : Bool := bit e 8
/-- PIN of an entry. -/
def ptePin (e : Nat) : Bool := bit e 7
/-- CC of an entry. -/
def pteCc (e : Nat) : Bool := bit e 6
/-- Whether an entry names a page descriptor block (R93). -/
def pteHasPdb (e : Nat) : Bool := pteGlz e || pteVers e || pteDesc e

/-- The address of span record j of a descriptor block (R93). -/
def spanAddr (pdb : Pdb) (j : Nat) : Nat := pdb.addr + 64 + 32 * j

/-- Reads span record j (R94); reserved bits are ignored, and a chunk named through the device's own number is its own memory (R386). -/
def State.span (s : State) (pdb : Pdb) (j : Nat) : Span :=
  let a := spanAddr pdb j
  { pmask := s.num a 8, smask := s.num (a + 8) 8, owner := s.num (a + 16) 2, cls := bits (s.num (a + 16) 8) 18 16,
    chunk := s.canonPa (s.num (a + 24) 8) }

/-- The span records of a descriptor block, as a TLB entry holds them (R97). Their chunks are held with their masks (log entry
16). -/
def State.spansOf (s : State) (pdb : Pdb) : List Span := (List.range pdb.nspan).map (s.span pdb)

/-- Reads the header of a page descriptor block (R93), which may be named through the device's own number (R386); reserved parts
are ignored. -/
def State.readPdb (s : State) (named : Nat) : Pdb :=
  let a := s.canonPa named
  { addr := a, base := s.num a 8, dtab := s.num (a + 8) 8, sstab := s.num (a + 16) 8, vreg := s.num (a + 24) 4,
    vhead := s.num (a + 32) 8, nspan := s.num (a + 40) 4 }

/-- Whether a descriptor block keeps the table of R93. -/
def pdbOk (e size : Nat) (p : Pdb) : Bool :=
  decide (p.base % size = 0) && decide (p.base < 2 ^ 52)
    && (if pteDesc e then p.dtab != 0 && p.dtab % 64 == 0 && decide (p.dtab < 2 ^ 52) else p.dtab == 0)
    && (if pteDesc e then p.sstab % 4 == 0 && decide (p.sstab < 2 ^ 52) else p.sstab == 0)
    && (if pteVers e then p.vreg != 0 else p.vreg == 0)
    && (if pteVers e then p.vhead != 0 && p.vhead % 8 == 0 && decide (p.vhead < 2 ^ 52) else p.vhead == 0)
    && (if pteGlz e then p.nspan == size / 4096 else p.nspan == 0)

/-- The lines of a descriptor block that a walk reads: its header and its span records (R93, R97). -/
def pdbLines (addr spans : Nat) : List Nat := (List.range ((64 + 32 * spans + 63) / 64)).map fun i => addr / 64 + i

/-- The first of some lines with an uncorrectable error. -/
def State.badOf (s : State) (lines : List Nat) : Option Nat := lines.find? fun l => s.badLines.contains l

/-- Whether a sealed leaf's frame is sealable (R181). -/
def State.sealable (s : State) (base size : Nat) : Bool := decide (base + size ≤ 8 * s.sealG)

/-- The first attribute conflict of a leaf (R92, R179). -/
def State.attrConflict (s : State) (e base size : Nat) : Option Nat :=
  if pteGlz e && decide (2 < pteSz e) then some 0
  else if pteVers e && pteGlz e then some 1
  else if pteDesc e && (pteVers e || pteGlz e) then some 2
  else if pteCc e && (!ptePin e || pteSz e != 5 || pteHasPdb e || decide (base < 2 ^ 51) || bits base 50 43 != 0
      || decide (s.carveC < base % 2 ^ 40 + size)) then some 3
  else if pteSeal e && (pteVers e || pteGlz e) then some 4
  else if bit e 3 && (pteHasPdb e || pteCc e) then some 5
  else none

/-- Checks a leaf and answers its page (R88 to R93, R179, R181, R386): malformed first, then attribute conflicts, then
permission. -/
def State.checkLeaf (s : State) (x : Ctx) (acc : Acc) (va lv e : Nat) : Except Trap Page :=
  let bad : Except Trap Page := .error (pageTrap 5 acc lv 1 va)
  match szInfo (pteSz e) with
  | none => bad
  | some (size, _, lvl) =>
    if lvl ≠ lv ∨ bits e 63 62 ≠ 0 ∨ (!pteSeal e && pteKey e != 0) then bad
    else
      let pdb := s.readPdb (pteAddr e)
      let spans := if pteGlz e then size / 4096 else 0
      let named := if pteHasPdb e then pdb.base else pteAddr e
      let base := s.canonPa named
      if pteHasPdb e && !s.backedRange (pteAddr e) (64 + 32 * spans) then bad
      else if pteHasPdb e && (s.badOf (pdbLines pdb.addr spans)).isSome then
        .error (errorTrap va ((s.badOf (pdbLines pdb.addr spans)).getD 0 * 64) 0)
      else if pteHasPdb e && !pdbOk e size pdb then bad
      else if base % size ≠ 0 then bad
      else if !(pteCc e && pteSz e == 5 && decide (2 ^ 51 ≤ base) && bits base 50 43 == 0) && !s.backedRange base size then bad
      else if isRemote named && (pteHasPdb e || pteSeal e || ptePin e || pteCc e) then bad
      else if pteSeal e && !s.sealable base size then bad
      else
        match s.attrConflict e base size with
        | some r => .error (pageTrap 7 acc lv r va)
        | none =>
          if !x.sup && !bit e 4 then .error (pageTrap 6 acc lv 2 va)
          else if acc = .write ∧ !bit e 2 then .error (pageTrap 6 acc lv 0 va)
          else if acc = .fetch ∧ !bit e 3 then .error (pageTrap 6 acc lv 1 va)
          else
            .ok { va := va / size * size, size := size, base := base, leaf := BitVec.ofNat 64 e, level := lv,
                  pdb := if pteHasPdb e then some pdb else none, spans := if pteGlz e then s.spansOf pdb else [] }

/-- What the walk makes of an entry (R86): a fault, a leaf, or a table, from which `down` continues. -/
def State.entryAs (s : State) (x : Ctx) (acc : Acc) (va lv e : Nat) (down : Nat → List (Except Trap Page)) :
    List (Except Trap Page) :=
  if !bit e 0 then [.error (pageTrap 5 acc lv 0 va)]
  else if bit e 1 then
    if lv = 0 ∨ e - bits e 51 12 * 4096 ≠ 3 then [.error (pageTrap 5 acc lv 1 va)]
    else if !s.backedRange (pteAddr e) 4096 then [.error (pageTrap 5 acc lv 1 va)]
    else down (s.canonPa (pteAddr e))
  else [s.checkLeaf x acc va lv e]

/-- The entries of the run of a walked entry (R88, R89): that entry alone where it is no leaf of a run. -/
def State.runOf (s : State) (table idx e : Nat) : List Nat :=
  match szInfo (pteSz e) with
  | some (_, n, _) => if bit e 0 && !bit e 1 then (List.range n).map fun i => s.num (table + 8 * (idx / n * n + i)) 8 else [e]
  | none => [e]

/-- One entry of the walk (R86); where the entries of its run differ, each of them may be the one walked (R89). -/
def State.walkEntry (s : State) (x : Ctx) (acc : Acc) (va lv table : Nat) (down : Nat → List (Except Trap Page)) :
    List (Except Trap Page) :=
  let idx := bits va (12 + 9 * lv + 8) (12 + 9 * lv)
  let a := table + 8 * idx
  if s.badLines.contains (a / 64) then [.error (errorTrap va a 0)]
  else
    let e := s.num a 8
    let es := s.runOf table idx e
    if es.all fun f => f == e then s.entryAs x acc va lv e down else es.flatMap fun f => s.entryAs x acc va lv f down

/-- The walk from the table of a level down (R86). -/
def State.walkFrom (s : State) (x : Ctx) (acc : Acc) (va : Nat) : Nat → Nat → List (Except Trap Page)
  | 0, table => s.walkEntry x acc va 0 table (fun _ => [.error (pageTrap 5 acc 0 1 va)])
  | lv + 1, table => s.walkEntry x acc va (lv + 1) table (fun next => State.walkFrom s x acc va lv next)

/-- The outcomes of a walk from PTROOT (R86, R179). -/
def State.freshWalk (s : State) (x : Ctx) (acc : Acc) (va : Nat) : List (Except Trap Page) :=
  let root := bits x.ptroot.toNat 51 12 * 4096
  if s.backedRange root 4096 then s.walkFrom x acc va 4 (s.canonPa root) else [.error (pageTrap 5 acc 4 1 va)]

/-- The permission check of a page held in a TLB (R91). -/
def checkHeld (x : Ctx) (acc : Acc) (va : Nat) (p : Page) : Except Trap Page :=
  let e := p.leaf.toNat
  if !x.sup && !bit e 4 then .error (pageTrap 6 acc p.level 2 va)
  else if acc = .write ∧ !bit e 2 then .error (pageTrap 6 acc p.level 0 va)
  else if acc = .fetch ∧ !bit e 3 then .error (pageTrap 6 acc p.level 1 va)
  else .ok p

/-- Whether a held translation serves an address: by its page, and its ASID or the G of its leaf (R96). -/
def tlbServes (asid : BitVec 16) (va : Nat) (t : TlbEntry) : Bool :=
  decide (t.page.va ≤ va) && decide (va < t.page.va + t.page.size) && (t.asid == asid || bit t.page.leaf.toNat 5)

/-- The outcomes through table pointers that a walk cache may still hold (R96, R102). -/
def State.heldWalks (s : State) (x : Ctx) (acc : Acc) (va : Nat) : List (Except Trap Page) :=
  ((s.die (dieOf x.core)).walk.filter fun w =>
      w.asid == x.asid && w.prefixVa == va / 2 ^ (12 + 9 * w.level)).flatMap fun w =>
    s.walkFrom x acc va (w.level - 1) w.next

/-- Every outcome a translation may have: the walk of the tables as they stand, and what TLBs and walk caches may
still hold (R102). -/
def State.outcomes (s : State) (x : Ctx) (acc : Acc) (va : Nat) : List (Except Trap Page) :=
  s.freshWalk x acc va
    ++ (((s.die (dieOf x.core)).tlb.filter (tlbServes x.asid va)).map fun t => checkHeld x acc va t.page)
    ++ s.heldWalks x acc va

/-- Whether two outcomes are one. -/
def sameOutcome : Except Trap Page → Except Trap Page → Bool
  | .ok a, .ok b => a == b
  | .error a, .error b => a == b
  | _, _ => false

/-- The table pointers that the walk of an address passes through: level of the entry and next table (R96). -/
def State.pointersOf (s : State) (va : Nat) : Nat → Nat → List (Nat × Nat)
  | 0, _ => []
  | lv + 1, table =>
    let e := s.num (table + 8 * bits va (12 + 9 * (lv + 1) + 8) (12 + 9 * (lv + 1))) 8
    if bit e 0 && bit e 1 then (lv + 1, s.canonPa (pteAddr e)) :: State.pointersOf s va lv (s.canonPa (pteAddr e)) else []

/-- The address in another device's memory that the walk of an address reads first: an entry of a table, or a descriptor block with its
span records (R86, R93, R386). -/
def State.walkFabric (s : State) (x : Ctx) (va : Nat) : Option Nat :=
  let root := s.canonPa (bits x.ptroot.toNat 51 12 * 4096)
  let tables := (4, root) :: (s.pointersOf va 4 root).map fun q => (q.1 - 1, q.2)
  let entries := tables.map fun q => q.2 + 8 * bits va (12 + 9 * q.1 + 8) (12 + 9 * q.1)
  let e := match entries.getLast? with | some a => s.num a 8 | none => 0
  (entries ++ if bit e 0 && !bit e 1 && pteHasPdb e then [s.canonPa (pteAddr e)] else []).find? isFabric

/-- A walk that reads another device's memory stops where that read is not acknowledged in time (R390); a translation that a TLB holds
reads nothing. -/
def walkLost (x : Ctx) (va : Nat) : M Unit := do
  let s ← get
  if (s.die (dieOf x.core)).tlb.any (tlbServes x.asid va) then return ()
  else
    match s.walkFabric x va with
    | some a => lostRead x.core va a
    | none => return ()

/-- Holds a translation, and the table pointers of its walk where the tables as they stand give it, for later use (R96, R98). -/
def State.holdPage (s : State) (x : Ctx) (acc : Acc) (va : Nat) (p : Page) : State :=
  let t : TlbEntry := { asid := x.asid, page := p }
  let walked := (s.freshWalk x acc va).any fun o => sameOutcome o (.ok p)
  let ps := if walked then s.pointersOf va 4 (s.canonPa (bits x.ptroot.toNat 51 12 * 4096)) else []
  let ws := ps.map fun q =>
    ({ asid := x.asid, level := q.1, prefixVa := va / 2 ^ (12 + 9 * q.1), next := q.2 } : WalkEntry)
  s.updDie (dieOf x.core) fun d =>
    { d with tlb := if d.tlb.contains t then d.tlb else t :: d.tlb
             walk := ws.filter (fun w => !d.walk.contains w) ++ d.walk }

/-- Translates a well-formed address outside pad space (R86 to R93): where tables, TLBs and walk caches disagree, one
of the outcomes is taken, and the manual does not say which (R89, R102). -/
def translate (x : Ctx) (acc : Acc) (va : Nat) : M Page := do
  walkLost x va
  let s ← get
  let os := s.outcomes x acc va
  match os with
  | [] => raise (pageTrap 5 acc 7 0 va)
  | o :: rest => do
    let o ← if rest.all (sameOutcome o) then pure o else do
      let n ← drawChoice os.length
      pure (os.getD n o)
    match o with
    | .error t => raise t
    | .ok p =>
      modify fun s => s.holdPage x acc va p
      return p

/-- The location of a pad address for a core (R85); none where it is unbacked. -/
def padLoc (core va : Nat) : Option Nat :=
  if 0x01F0000000000000 ≤ va ∧ va < 0x01F0000000000000 + 2 ^ 20 then some (corePadLoc core (va % 2 ^ 20))
  else if 0x01F1000000000000 ≤ va ∧ va < 0x01F1000000000000 + 2 ^ 22 then
    some (clusterLoc (clusterOf core * 4 + bits va 21 20) (va % 2 ^ 20))
  else if 0x01F2000000000000 ≤ va ∧ va < 0x01F2000000000000 + 2 ^ 28 ∧ va % 2 ^ 26 < 0x3000000 then
    some (chipPadLoc (bits va 27 26) (va % 2 ^ 26))
  else none

/-- Whether a well-formed address lies in pad space (R84). -/
def isPadVa (va : Nat) : Bool := decide (bits va 56 52 = 0x1F)

/-- Finds where an address lies, checked for an access (R84 to R93, R100). -/
def place (x : Ctx) (acc : Acc) (va : Nat) : M Place := do
  if 2 ^ 57 ≤ va then raise (pageTrap 5 acc 7 2 va)
  else if isPadVa va then
    if acc = .fetch then raise (pageTrap 6 acc 7 3 va)
    else
      match padLoc x.core va with
      | none => raise (pageTrap 5 acc 7 3 va)
      | some l => return .pad l
  else
    return .page (← translate x acc va)

/-- A page as the mask shootdown of a side change between two states leaves it: the records that the change wrote are read anew (R116,
R117). -/
def Page.refresh (p : Page) (old new : State) : Page :=
  match p.pdb with
  | none => p
  | some b => { p with spans := p.spans.zipIdx.map fun q => if old.span b q.2 = new.span b q.2 then q.1 else new.span b q.2 }

/-- The seal key of a page (R181). -/
def Page.key (p : Page) : Option Nat := if pteSeal p.leaf.toNat then some (pteKey p.leaf.toNat) else none

/-- The physical address of a byte of a page's frame. -/
def Page.phys (p : Page) (va : Nat) : Nat := p.base + (va - p.va)

/-- Whether TLBINV removes a held translation (R103). -/
def TlbEntry.removed (t : TlbEntry) (va : Nat) (asid : BitVec 16) (mode : Nat) : Bool :=
  match mode with
  | 0 => decide (va < 2 ^ 57) && !isPadVa va && tlbServes asid va t
  | 1 => t.asid == asid && !bit t.page.leaf.toNat 5
  | _ => true

/-- Whether TLBINV removes a held table pointer (R103). -/
def WalkEntry.removed (w : WalkEntry) (va : Nat) (asid : BitVec 16) (mode : Nat) : Bool :=
  match mode with
  | 0 => decide (va < 2 ^ 57) && !isPadVa va && w.asid == asid && w.prefixVa == va / 2 ^ (12 + 9 * w.level)
  | 1 => w.asid == asid
  | _ => true

/-- TLBINV removes held translations and table pointers on every die (R103). -/
def State.tlbinv (s : State) (va : Nat) (asid : BitVec 16) (mode : Nat) : State :=
  { s with dies := s.dies.map fun d => { d with tlb := d.tlb.filter fun t => !t.removed va asid mode,
                                                walk := d.walk.filter fun w => !w.removed va asid mode } }

/-- The translation that an address space has of a place; a pad address has none (R103). -/
def Place.via (q : Place) (x : Ctx) : Option TlbEntry :=
  match q with
  | .pad _ => none
  | .page p => some { asid := x.asid, page := p }

/-- The values of the core that is executing, as a translation context. -/
def Core.ctx (k : Core) (n : Nat) : Ctx :=
  { core := n, asid := k.asid, ptroot := k.ptroot, sup := k.sstat.mode, scx := k.scx }

/-- The context of the core that is executing. -/
def myCtx : M Ctx := do
  let s ← get
  return s.me.ctx s.cur

/-- The context of a vector-queue entry. -/
def VEntry.ctx (e : VEntry) (core : Nat) : Ctx :=
  { core := core, asid := e.asid, ptroot := e.ptroot, sup := e.sup, scx := e.scx }

end Sys2Proof.Machine
end

