-- ==== Sys2Proof/Machine/Buffer.lean ====
section
/-! DEFINITION. The store buffer: which scalar stores may leave a core, and writes in flight (R306, R308). -/
namespace Sys2Proof.Machine

open Sys2Proof

/-! ## What the entries of the queue have yet to access (R308) -/

/-- Whether an entry may read memory as an access of its core (R308, R317); the reads of copies are their channels'. -/
def VecOp.reads (o : VecOp) : Bool :=
  match o with
  | .load _ _ _ | .vamo _ _ | .amerge | .mld _ _ | .mldt _ | .maccld _ | .vverst _ | .vverld _ | .kvapp _ | .kvld _ _
  | .kvmove _ | .kvlenRead _ | .kvlenSet _ => true
  | _ => false

/-- Whether an entry may write memory as an access of its core (R306). -/
def VecOp.writes (o : VecOp) : Bool :=
  match o with
  | .store _ _ _ | .vamo _ _ | .amerge | .maccst _ | .vverst _ | .kvapp _ | .kvmove _ | .kvlenSet _ => true
  | _ => false

/-- The window that an entry of the queue finds: that of the last AWIN before it, or the core's (R218, R220). -/
def Core.windowAt (k : Core) (seq : Nat) : Window :=
  k.queue.foldl (fun w e =>
    if seq ≤ e.seq then w
    else match e.op with
      | .awin f => { isOpen := true, ty := f.ty, base := e.opa, len := min 2048 e.opb.toNat }
      | .aclr => { w with isOpen := false }
      | _ => w) k.window

/-- The ranges of virtual addresses that hold what an entry accesses, as a start and a size; none where its addresses come from
registers or tables that are not read here (R206 to R208, R218). -/
def VEntry.hulls (e : VEntry) (w : Window) : Option (List (Nat × Nat)) :=
  let rows := fun (n : Nat) =>
    some ((List.range e.nr).map fun r => (wrapInt 64 (e.opa.toNat + (r : Int) * sint 64 e.opb.toNat), if e.nc = 0 then 0 else n))
  let packed := fun (n : Nat) => some [(e.opa.toNat, if e.nc = 0 then 0 else n * e.nr)]
  match e.op with
  | .load .unit _ f | .store .unit _ f | .load .bit _ f | .store .bit _ f | .load .firstFault _ f =>
    if f.b = 0 then packed 512 else rows 512
  | .load .lane _ _ | .store .lane _ _ => some []
  | .vamo _ f => if f.b = 0 then packed 256 else rows 256
  | .amerge => some [(w.base.toNat, if w.isOpen then w.len else 0)]
  | _ => none

/-- Whether a range of virtual addresses may reach a range of locations, page by page (R84, R102); a page with a descriptor block
may reach any. -/
def State.vaMeets (s : State) (x : Ctx) (acc : Acc) (loc n va size : Nat) : Bool :=
  (List.range (size / 4096 + 2)).any fun i =>
    let a := (va / 4096 + i) * 4096
    if va + size ≤ a then false
    else if isPadVa a then (match padLoc x.core a with | some l => overlaps l 4096 loc n | none => false)
    else
      (s.outcomes x acc a).any fun o => match o with
        | .ok p => p.pdb.isSome || overlaps (p.phys a) 4096 loc n
        | .error _ => false

/-- Whether an entry of a core's queue has yet to read or write bytes of a range of locations, as far as its pages show
(log entry 10). -/
def State.entryMeets (s : State) (c : Nat) (e : VEntry) (loc n : Nat) : Bool :=
  (e.op.reads || e.op.writes) &&
    match e.hulls ((s.core c).windowAt e.seq) with
    | none => true
    | some hs => hs.any fun h => h.2 != 0 && s.vaMeets (e.ctx c) (if e.op.reads then .read else .write) loc n h.1 h.2

/-- Whether some entry of a core's queue has yet to access bytes of a range of locations. -/
def State.queueMeets (s : State) (c loc n : Nat) : Bool := (s.core c).queue.any fun e => s.entryMeets c e loc n

/-- Whether a range of virtual addresses may reach bytes of a page with a descriptor block, through any mapping of that block. -/
def State.vaMeetsPage (s : State) (x : Ctx) (acc : Acc) (p : Page) (off n va size : Nat) : Bool :=
  (List.range (size / 4096 + 2)).any fun i =>
    let a := (va / 4096 + i) * 4096
    if va + size ≤ a || isPadVa a then false
    else
      (s.outcomes x acc a).any fun o => match o with
        | .ok q => q.pdb.map Pdb.addr == p.pdb.map Pdb.addr && overlaps (a - q.va) 4096 off n
        | .error _ => false

/-- Whether some entry of a core's queue has yet to access n bytes of a page with a descriptor block, as far as pages show (log entry
10). -/
def State.queueMeetsPage (s : State) (c : Nat) (p : Page) (va n : Nat) : Bool :=
  (s.core c).queue.any fun e => (e.op.reads || e.op.writes) &&
    match e.hulls ((s.core c).windowAt e.seq) with
    | none => true
    | some hs => hs.any fun h => h.2 != 0 && s.vaMeetsPage (e.ctx c) (if e.op.reads then .read else .write) p (va - p.va) n h.1 h.2

/-! ## Leaving a core (R306, R308) -/

/-- Whether a scalar store may leave its core: no entry dispatched before it has yet to access its bytes (R306, R308). -/
def State.mayLeave (s : State) (c : Nat) (w : SbEntry) : Bool :=
  (s.core c).queue.all fun e => decide (w.seq ≤ e.seq) || !s.entryMeets c e w.loc w.bytes.length

/-- The scalar stores of a core that may leave it, or have left, oldest first: they leave in order (R308). -/
def State.leaving (s : State) (c : Nat) : List SbEntry :=
  (s.core c).sb.takeWhile fun e => e.committed || s.mayLeave c e

/-- Performs every scalar store of a core that may leave it and has not performed, oldest first. -/
def State.flushSb (s : State) (c : Nat) : State :=
  let es := s.leaving c
  let s := s.updCore c fun k => { k with sb := k.sb.drop es.length }
  let s := { s with inflight := s.inflight.filter fun w => w.core != c }
  es.foldl (fun s e => s.perform (some c) e.key e.loc e.bytes) s

/-- Whether a scalar store of a core to a range has not performed. -/
def Core.unperformed (k : Core) (loc n : Nat) : Bool := k.sb.any fun e => overlaps e.loc e.bytes.length loc n

/-- Performs the scalar stores of a core where one of them touches a range. -/
def State.flushOver (s : State) (c loc n : Nat) : State := if (s.core c).unperformed loc n then s.flushSb c else s

/-- A scalar store enters the store buffer with the translation it was given (R103, R204, R305). -/
def State.enterSb (s : State) (c : Nat) (via : Option TlbEntry) (key : Option Nat) (loc : Nat) (bs : List Byte) : State :=
  s.updCore c fun k =>
    { k with sb := k.sb ++ [{ seq := k.seq, loc := loc, bytes := bs, key := key, via := via, committed := false }], seq := k.seq + 1 }

/-- A store that leaves its core, carrying the join of its die's clock and its own (R306). -/
def State.departing (s : State) (c : Nat) (e : SbEntry) : InFlight :=
  { core := c, seq := e.seq, loc := e.loc, bytes := e.bytes, key := e.key, clock := (s.die (dieOf c)).dvc.join (s.core c).ck }

/-- The oldest scalar store still in the core leaves for its home where it may (R306). -/
def State.commitOne (s : State) (c : Nat) : State :=
  match (s.core c).sb.find? fun e => !e.committed with
  | none => s
  | some e =>
    if !s.mayLeave c e then s else
    let w := s.departing c e
    let s := s.updCore c fun k =>
      { k with sb := k.sb.map fun x => if x.seq = e.seq then { x with committed := true } else x }
    { s with inflight := s.inflight ++ [w] }

/-- Every scalar store of a core leaves for its home. -/
def State.commitAll (s : State) (c : Nat) : State :=
  (List.range (s.core c).sb.length).foldl (fun s _ => s.commitOne c) s

/-! ## Writes in flight (R306) -/

/-- Whether no earlier write of the same core to bytes of a write in flight is unperformed (R306, R319). -/
def State.firstOver (s : State) (w : InFlight) : Bool :=
  s.inflight.all fun v => !(v.core == w.core && decide (v.seq < w.seq) && overlaps v.loc v.bytes.length w.loc w.bytes.length)

/-- Whether a write in flight may perform (R306). -/
def State.flightReady (s : State) (w : InFlight) : Bool :=
  s.firstOver w &&
    match homeOf w.loc with
    | none => true
    | some h => (s.die h).dvc.coversBut h w.clock

/-- Write n in flight performs where it may. -/
def State.performFlight (s : State) (n : Nat) : State :=
  match s.inflight[n]? with
  | none => s
  | some w =>
    if s.flightReady w then
      let s := { s with inflight := s.inflight.eraseIdx n }
      let s := s.updCore w.core fun k => { k with sb := k.sb.filter fun e => e.seq != w.seq }
      s.performAt (some w.core) w.key w.loc w.bytes
    else s

end Sys2Proof.Machine
end

