-- ==== Sys2Proof/Machine/Glaze.lean ====
section
/-! DEFINITION. Glaze overlays: line selection, store routing, side changes, the pool and the overlay instructions'
effects (R107 to R127). -/
namespace Sys2Proof.Machine

open Sys2Proof

/-- The bytes of a span record; the reserved bits of the word at +16 keep their value. -/
def Span.bytes (p : Span) (old16 : Nat) : List Byte :=
  leBytes 8 p.pmask ++ leBytes 8 p.smask
    ++ leBytes 8 (old16 / 2 ^ 19 * 2 ^ 19 + p.cls * 2 ^ 16 + p.owner) ++ leBytes 8 p.chunk

/-- Used slots of a span's chunk (R111). -/
def Span.used (p : Span) : Nat := popc p.pmask + popc p.smask

/-- The slot of permanent line i (R107). -/
def Span.permSlot (p : Span) (i : Nat) : Nat := popBelow p.pmask i

/-- The slot of speculative line i (R107). -/
def Span.specSlot (p : Span) (i : Nat) : Nat := popc p.pmask + popBelow p.smask i

/-- Whether an access id sees line i of a span as its own speculative line (R107). -/
def Span.sees (p : Span) (i id : Nat) : Bool := id != 0 && p.owner == id && bit p.smask i

/-- The physical line an access id reads (R107). -/
def Span.select (p : Span) (base j i id : Nat) : Nat :=
  if p.sees i id then p.chunk + 64 * p.specSlot i
  else if bit p.pmask i then p.chunk + 64 * p.permSlot i
  else base + 4096 * j + 64 * i

/-- What a line holds: 64 bytes, or none where it has an uncorrectable error (R184). -/
def State.lineOrError (s : State) (loc : Nat) : Option (List Byte) :=
  if s.badLines.contains (loc / 64) then none else some (s.readAs none loc 64)

/-- A line takes what another held, an error included. -/
def State.putLineOrError (s : State) (loc : Nat) (v : Option (List Byte)) : State :=
  match v with
  | some bs => s.placeBytes none loc bs
  | none => { s with badLines := if s.badLines.contains (loc / 64) then s.badLines else loc / 64 :: s.badLines }

/-- What the used slots hold, in slot order. -/
def State.slots (s : State) (p : Span) : List (Option (List Byte)) :=
  (List.range p.used).map fun k => s.lineOrError (p.chunk + 64 * k)

/-- The home die of a page's glaze unit (R108). -/
def glazeDie (pdb : Pdb) : Nat := (homeOf pdb.addr).getD 0

/-- A free list of a die's glaze pool (R112). -/
def Die.pool (d : Die) (asid : BitVec 16) (code : Nat) : List Nat :=
  match d.pools.find? fun p => p.asid == asid && p.code == code with
  | some p => p.chunks
  | none => []

/-- Sets a free list. -/
def Die.setPool (d : Die) (asid : BitVec 16) (code : Nat) (cs : List Nat) : Die :=
  let rest := d.pools.filter fun p => !(p.asid == asid && p.code == code)
  { d with pools := if cs.isEmpty then rest else { asid := asid, code := code, chunks := cs } :: rest }

/-- A freed chunk joins the tail of its list (R112). -/
def State.freeChunk (s : State) (d : Nat) (asid : BitVec 16) (code chunk : Nat) : State :=
  s.updDie d fun k => k.setPool asid code (k.pool asid code ++ [chunk])

/-- An allocation takes the chunk at the head of a list (R112). -/
def State.takeChunk (s : State) (d : Nat) (asid : BitVec 16) (code : Nat) : Option (Nat × State) :=
  match (s.die d).pool asid code with
  | [] => none
  | c :: r => some (c, s.updDie d fun k => k.setPool asid code r)

/-- Whether a scalar store of some core to a line of a list has not performed. -/
def State.storesTo (s : State) (lines : List Nat) : Bool := s.cores.any fun k => k.sb.any fun e => lines.contains (e.loc / 64)

/-- The scalar stores of every core to lines that a side change frees, moves or rewrites perform before it, where they may leave their
cores (R116, R308): the stores to a page are serialised with its side changes. -/
def State.settleStores (s : State) (lines : List Nat) : State :=
  (List.range s.cores.length).foldl (fun s c =>
    if (s.core c).sb.any fun e => lines.contains (e.loc / 64) then s.flushSb c else s) s

/-- The scalar stores that have not left their cores follow the lines that a side change moves: they perform after it (R116, R308). -/
def State.moveStores (s : State) (new : Nat → Nat) : State :=
  { s with cores := s.cores.map fun k => { k with sb := k.sb.map fun e => { e with loc := new (e.loc / 64) * 64 + e.loc % 64 } } }

/-- The mask shootdown (R116): every TLB entry of a page takes its base and its span records as they now stand. -/
def State.shootDown (s : State) (pdb : Pdb) (js : List Nat) : State :=
  let fix := fun (p : Page) =>
    { p with base := s.num pdb.addr 8, pdb := some { pdb with base := s.num pdb.addr 8 },
             spans := js.foldl (fun l j => l.set j (s.span pdb j)) p.spans }
  { s with dies := s.dies.map fun d =>
      { d with tlb := d.tlb.map fun t => if t.page.pdb.map Pdb.addr = some pdb.addr then { t with page := fix t.page } else t } }

/-- One side change performs at the home die of the descriptor block: a write transition whose update invalidates the guest and L1
copies of the lines it freed, moved or rewrote, after the mask shootdown of the spans it changed (R116, R317). -/
def State.sideEvent (s : State) (core : Nat) (pdb : Pdb) (js lines : List Nat) : State :=
  let h := glazeDie pdb
  let s := (s.shootDown pdb js).catchUp (some core) h
  let stamp := s.nextStamp h
  let s := s.stampAt (some core) h (pdb.addr / 64) pdb.addr []
  let s := { s with dies := s.dies.map fun d => { d with guests := d.guests.filter fun g => !lines.contains g.line }
                    fills := s.fills.filter fun f => !lines.contains f.line
                    l1 := s.l1.filter fun p => !lines.contains p.2 }
  lines.foldl (fun s l => s.setStamp l ((s.stampOf l).join stamp)) s

/-- The lines of the first n slots of a chunk. -/
def chunkLines (chunk n : Nat) : List Nat := (List.range n).map fun k => chunk / 64 + k

/-- The lines that a change of a span to the record `p` with `n` used slots frees, moves or rewrites. -/
def State.spanLines (s : State) (pdb : Pdb) (j : Nat) (p : Span) (n : Nat) : List Nat :=
  let old := s.span pdb j
  spanAddr pdb j / 64 :: chunkLines p.chunk n ++ chunkLines old.chunk old.used

/-- Writes a span record and the used slots of its chunk, whose unused slots take unpredictable contents (R111). -/
def State.layRecord (s : State) (pdb : Pdb) (j : Nat) (p : Span) (slots : List (Option (List Byte))) : State :=
  let a := spanAddr pdb j
  let s := (s.noteDirty a).setBytes a (p.bytes (s.num (a + 16) 8))
  let s := slots.zipIdx.foldl (fun s q => s.putLineOrError (p.chunk + 64 * q.2) q.1) s
  let unused := if p.cls = 0 then [] else (List.range (2 ^ p.cls)).drop slots.length
  { unused.foldl (fun s k => s.makeVague (p.chunk / 64 + k) s.freeCtr) s with freeCtr := s.freeCtr + 1 }

/-- Writes a span record and the slots of its chunk in one side change. -/
def State.putSpan (s : State) (core : Nat) (pdb : Pdb) (j : Nat) (p : Span) (slots : List (Option (List Byte))) : State :=
  (s.layRecord pdb j p slots).sideEvent core pdb [j] (s.spanLines pdb j p slots.length)

/-- The trap of a glaze-growth fault (R114). -/
def growthTrap (va reason die cls : Nat) : Trap := faultOf 8 va (reason * 256 + die * 16 + cls)

/-- The trap of a glaze-conflict fault (R115). -/
def conflictTrap (va id owner : Nat) : Trap := faultOf 9 va (id * 65536 + owner)

/-- Where an insertion at slot `at_` of a chunk of `n` used slots moves a line (R111, R113); other lines stay. -/
def movedLine (old n at_ new line : Nat) : Nat :=
  if old / 64 ≤ line ∧ line < old / 64 + n then
    let k := line - old / 64
    new / 64 + (if k < at_ then k else k + 1)
  else line

/-- Inserts line i on a side of span j (R113), serialised with the stores to its chunk; answers the new state, or the fault that
leaves the span as it was. -/
def State.insertLine (s : State) (x : Ctx) (pdb : Pdb) (j i : Nat) (spec : Bool) (initial : Option (List Byte)) (va : Nat) :
    Except Trap State :=
  let p := s.span pdb j
  let s := s.settleStores (chunkLines p.chunk p.used)
  let d := glazeDie pdb
  let need := p.used + 1
  let slots := s.slots p
  let grown : Except Trap (State × Span) :=
    if p.cls ≠ 0 ∧ need ≤ 2 ^ p.cls then .ok (s, p)
    else if p.cls = 6 then .error (growthTrap va 1 d 6)
    else
      match s.takeChunk d x.asid (p.cls + 1) with
      | none => .error (growthTrap va 0 d (p.cls + 1))
      | some (c, s) =>
        let s := if p.cls = 0 then s else s.freeChunk d x.asid p.cls p.chunk
        .ok (s, { p with cls := p.cls + 1, chunk := c })
  match grown with
  | .error t => .error t
  | .ok (s, q) =>
    let at_ := if spec then p.specSlot i else p.permSlot i
    let q := if spec then { q with smask := q.smask ||| 2 ^ i, owner := x.scx.toNat } else { q with pmask := q.pmask ||| 2 ^ i }
    let s := s.moveStores (movedLine p.chunk (if p.cls = 0 then 0 else p.used) at_ q.chunk)
    .ok (s.putSpan x.core pdb j q (slots.take at_ ++ [initial] ++ slots.drop at_))

/-- The span and the line in it that an address of a page lies in (R94). -/
def Page.spanOf (p : Page) (va : Nat) : Nat × Nat := ((va - p.va) / 4096, (va - p.va) % 4096 / 64)

/-- The line of the chunk that already takes a store of an access id to line i of a span (R108). -/
def Span.supplied (p : Span) (i id : Nat) : Option Nat :=
  if id = 0 then (if bit p.pmask i then some (p.chunk + 64 * p.permSlot i) else none)
  else if bit p.smask i then some (p.chunk + 64 * p.specSlot i)
  else none

/-- The fault of a store or AMO at the span record that it goes by, where there is one: an uncorrectable error of the record (R99), or a
span that another id owns (R115). -/
def State.glazeDenied (s : State) (x : Ctx) (p : Page) (pdb : Pdb) (va eva : Nat) : Option Trap :=
  let j := (p.spanOf va).1
  let sp := s.span pdb j
  let id := x.scx.toNat
  if s.badLines.contains (spanAddr pdb j / 64) then some (errorTrap eva (spanAddr pdb j) 0)
  else if id ≠ 0 ∧ sp.owner ≠ 0 ∧ sp.owner ≠ id then some (conflictTrap eva id sp.owner)
  else none

/-- Routes a store or AMO to a line of a GLZ page from its span record (R108): the state after any insertion, and the location of the
line it writes. -/
def State.routeGlaze (s : State) (x : Ctx) (p : Page) (pdb : Pdb) (va eva : Nat) : Except Trap (State × Nat) :=
  let (j, i) := p.spanOf va
  let sp := s.span pdb j
  let id := x.scx.toNat
  match s.glazeDenied x p pdb va eva with
  | some t => .error t
  | none =>
    match sp.supplied i id with
    | some line => .ok (s, line)
    | none =>
      match s.insertLine x pdb j i (id != 0) (s.lineOrError (sp.select p.base j i 0)) eva with
      | .error t => .error t
      | .ok s => .ok (s, ((s.span pdb j).supplied i id).getD 0)

/-- Whether a store to a page goes to a line that the glaze already supplies on its side (R108). -/
def State.suppliedFor (s : State) (x : Ctx) (p : Page) (va : Nat) : Bool :=
  match p.pdb with
  | some pdb => ((s.span pdb (p.spanOf va).1).supplied (p.spanOf va).2 x.scx.toNat).isSome
  | none => false

/-- The location a load of an address reads: on a glaze page, by the span fields of its TLB entry (R97, R107). -/
def State.loadLoc (_s : State) (x : Ctx) (p : Page) (va : Nat) : Nat :=
  match p.spans[(p.spanOf va).1]? with
  | some sp => sp.select p.base (p.spanOf va).1 (p.spanOf va).2 x.scx.toNat + va % 64
  | none => p.phys va

/-- The location of the bytes that an AMO on a glaze page finds before it: the line that its id selects by the span record (R107, R108). -/
def State.recordLoc (s : State) (id : Nat) (p : Page) (pdb : Pdb) (va : Nat) : Nat :=
  let (j, i) := p.spanOf va
  (s.span pdb j).select p.base j i id + va % 64

/-! ## Settling (R122 to R124) -/

/-- The class that a span shrinks to (R124): the smallest that holds its lines, and 0 where it has none. -/
def Span.wanted (p : Span) : Nat :=
  if p.used = 0 then 0 else ((List.range 6).find? fun k => decide (p.used ≤ 2 ^ (k + 1))).getD 5 + 1

/-- The chunk that a span shrinks to, with the state after the exchange with the pool (R124). -/
def State.shrunk (s : State) (asid : BitVec 16) (d : Nat) (p : Span) : Span × State :=
  if p.wanted = p.cls ∨ p.cls = 0 then (p, s)
  else if p.used = 0 then ({ p with cls := 0, chunk := 0 }, s.freeChunk d asid p.cls p.chunk)
  else
    match s.takeChunk d asid p.wanted with
    | none => (p, s)
    | some (c, s) => ({ p with cls := p.wanted, chunk := c }, s.freeChunk d asid p.cls p.chunk)

/-- The slots of a span after settling: its permanent lines and, on a commit, its speculative lines in their places. -/
def settledSlots (p : Span) (commit : Bool) (slots : List α) : List α :=
  (List.range 64).filterMap fun i =>
    if commit && bit p.smask i then slots[p.specSlot i]?
    else if bit p.pmask i then slots[p.permSlot i]?
    else none

/-- The spans of a page that an access id owns (R122). -/
def State.owned (s : State) (x : Ctx) (pdb : Pdb) : List Nat :=
  (List.range pdb.nspan).filter fun j => (s.span pdb j).owner == x.scx.toNat

/-- Settles span j (R122, R124); answers the lines that it freed, moved or rewrote. -/
def State.settleSpan (s : State) (x : Ctx) (pdb : Pdb) (commit : Bool) (j : Nat) : State × List Nat :=
  let p := s.span pdb j
  let slots := settledSlots p commit (s.slots p)
  let q := { p with pmask := if commit then p.pmask ||| p.smask else p.pmask, smask := 0, owner := 0 }
  let (q, t) := if commit then (q, s) else s.shrunk x.asid (glazeDie pdb) q
  (t.layRecord pdb j q slots, t.spanLines pdb j q slots.length)

/-- The used slots of some spans, as lines. -/
def State.usedLines (s : State) (pdb : Pdb) (js : List Nat) : List Nat :=
  js.flatMap fun j => chunkLines (s.span pdb j).chunk (s.span pdb j).used

/-- Waits until the stores to some lines have performed (R116): one that may not leave its core yet holds the side change back (log entry
16). -/
def awaitStores (lines : List Nat) : M Unit := do
  modify fun s => s.settleStores lines
  if (← get).storesTo lines then await else return ()

/-- Settles every span of a page that the id owns, in one side change (R122, R123); answers the lines settled. -/
def State.settlePage (s : State) (x : Ctx) (pdb : Pdb) (commit : Bool) : State × Nat :=
  let js := s.owned x pdb
  let n := (js.map fun j => popc (s.span pdb j).smask).sum
  if js.isEmpty then (s, 0)
  else
    let r := js.foldl (fun r j => let q := r.1.settleSpan x pdb commit j; (q.1, r.2 ++ q.2)) (s, ([] : List Nat))
    (r.1.sideEvent x.core pdb js r.2, n)

/-- Settles the page of an address (R122); answers the first address after the page and the lines settled. Pages that are not GLZ
are passed over. -/
def settleNext (x : Ctx) (commit : Bool) (a : Nat) : M (Nat × Nat) := do
  if 2 ^ 57 ≤ a then raise (pageTrap 5 .write 7 2 a)
  else if isPadVa a then raise (pageTrap 5 .write 7 3 a)
  else
    let p ← translate x .write a
    match p.pdb, pteGlz p.leaf.toNat with
    | some pdb, true => do
      let s ← get
      awaitStores (s.usedLines pdb (s.owned x pdb))
      let r := (← get).settlePage x pdb commit
      set r.1
      return (p.va + p.size, r.2)
    | _, _ => return (p.va + p.size, 0)

/-- Settles the pages of [a, e) in ascending order (R122, R123): pages settled before a fault or a wait stay settled. -/
def settlePages (x : Ctx) (commit : Bool) : Nat → Nat → Nat → Nat → M Nat
  | 0, _, _, n => return n
  | fuel + 1, a, e, n =>
    if e ≤ a then return n
    else do
      let r ← settleNext x commit a
      modMe fun k => { k with settling := some (r.1, n + r.2) }
      settlePages x commit fuel r.1 e (n + r.2)

/-- Where a GCOMMIT or GDISCARD of a range goes on: after the pages it has settled (R123). -/
def Core.settlingFrom (k : Core) (a : Nat) : Nat × Nat := k.settling.getD (a, 0)

/-- GCOMMIT and GDISCARD (R122) from the page they have come to; the release of their first line is the caller's. -/
def settle (x : Ctx) (commit : Bool) (a len : Word) : M Word := do
  if x.scx = 0 ∨ len = 0 then return 0
  else
    let at_ := (← getMe).settlingFrom a.toNat
    let n ← settlePages x commit (len.toNat / 4096 + 2) at_.1 (a.toNat + len.toNat) at_.2
    modMe fun k => { k with settling := none }
    return word n

/-- One page of a GCOMMIT or GDISCARD (R123); answers x[D] where that was its last, so that nothing may end the instruction after it. -/
def settleStep (x : Ctx) (commit : Bool) (a len : Word) : M (Option Word) := do
  if x.scx = 0 ∨ len = 0 then return some 0
  else
    let at_ := (← getMe).settlingFrom a.toNat
    let stop := a.toNat + len.toNat
    let r ← if stop ≤ at_.1 then pure (at_.1, 0) else settleNext x commit at_.1
    let goes := decide (r.1 < stop)
    modMe fun k => { k with settling := if goes then some (r.1, at_.2 + r.2) else none }
    return if goes then none else some (word (at_.2 + r.2))

/-- GFLATTEN's merge (R125 step 4) in one side change: every line as id 0 selects it goes to the new frame, BASE names the frame, and
every chunk is freed. -/
def State.flatten (s : State) (x : Ctx) (p : Page) (pdb : Pdb) (frame : Nat) : State :=
  let n := p.size / 64
  let js := List.range pdb.nspan
  let lines := (List.range n).map fun l => s.lineOrError ((s.span pdb (l / 64)).select p.base (l / 64) (l % 64) 0)
  let s := lines.zipIdx.foldl (fun s q => s.putLineOrError (frame + 64 * q.2) q.1) s
  let r := js.foldl (fun (r : State × List Nat) j =>
    let q := r.1.span pdb j
    let t := if q.cls = 0 then r.1 else r.1.freeChunk (glazeDie pdb) x.asid q.cls q.chunk
    let q' := { q with pmask := 0, cls := 0, chunk := 0 }
    (t.layRecord pdb j q' [], r.2 ++ t.spanLines pdb j q' 0)) (s, [])
  ((r.1.noteDirty pdb.addr).setBytes pdb.addr (leBytes 8 frame)).sideEvent x.core pdb js
    (pdb.addr / 64 :: r.2 ++ chunkLines p.base n ++ chunkLines frame n)

/-- Whether a leaf may give the new frame of a GFLATTEN or a donated range: it carries none of DESC, VERS, GLZ, SEAL and
CC (R125, R126). -/
def plainLeaf (p : Page) : Bool :=
  !pteHasPdb p.leaf.toNat && !pteSeal p.leaf.toNat && !pteCc p.leaf.toNat

/-- GFLATTEN (R125) after its release. A pad address is no GLZ page, so x[A] gives status 3; x[B] there names no leaf that could hold
the frame, and gives status 2. The spec names neither case (DESIGN CHOICE, log entry 60). -/
def gflatten (x : Ctx) (a b : Word) : M Word := do
  let src ← place x .read a.toNat
  let dst ← place x .write b.toNat
  match src with
  | .pad _ => return 3
  | .page p =>
    match p.pdb with
    | none => return 3
    | some pdb =>
      if !pteGlz p.leaf.toNat then return 3
      else
        let s ← get
        if (List.range pdb.nspan).any fun j => (s.span pdb j).owner != 0 then return 1
        else
          match dst with
          | .pad _ => return 2
          | .page q =>
            if b.toNat % p.size ≠ 0 ∨ q.size < p.size ∨ !plainLeaf q then return 2
            else
              awaitStores (s.usedLines pdb (List.range pdb.nspan))
              modify fun s => s.flatten x p pdb (q.phys b.toNat)
              return 0

/-- Translates [va, last] for write, page by page (R126); the faults are precise. Answers whether all of it lies in one pinned plain
leaf, with the place of its first byte. -/
def donated (x : Ctx) : Nat → Nat → Nat → Option Page → Bool → M (Option Page)
  | 0, _, _, first, ok => return (if ok then first else none)
  | fuel + 1, va, last, first, ok =>
    if last < va then return (if ok then first else none)
    else do
      match ← place x .write va with
      | .pad _ => donated x fuel ((va / 4096 + 1) * 4096) last first false
      | .page p =>
        donated x fuel (p.va + p.size) last (some (first.getD p)) (ok && first.isNone && ptePin p.leaf.toNat && plainLeaf p)

/-- GPOOL (R126): drops, queries or donates as the control word says. -/
def gpool (x : Ctx) (a ctl : Word) : M Word := do
  let c := ctl.toNat
  let code := bits c 2 0
  let die := bits c 5 4
  let asid : BitVec 16 := BitVec.ofNat 16 (bits c 63 48)
  let count := bits c 31 16
  let s ← get
  let list := (s.die die).pool asid code
  if code = 7 then return BitVec.allOnes 64
  else if bit c 7 then
    set (s.updDie die fun d => d.setPool asid code [])
    return word list.length
  else if count = 0 then return word list.length
  else
    let size := 64 * 2 ^ code
    let q ← donated x (count * size / 4096 + 2) a.toNat (a.toNat + count * size - 1) none true
    match q with
    | none => return BitVec.allOnes 64
    | some p =>
      if a.toNat % size ≠ 0 ∨ 2 ^ 32 ≤ list.length + count then return BitVec.allOnes 64
      else
        modify fun s => s.updDie die fun d =>
          d.setPool asid code (d.pool asid code ++ (List.range count).map fun k => p.phys a.toNat + k * size)
        return word (list.length + count)

/-- GQUERY (R127). -/
def gquery (x : Ctx) (a sel : Word) : M Word := do
  if a.toNat < 2 ^ 57 ∧ isPadVa a.toNat then return 0
  else
    let q ← place x .read a.toNat
    match q with
    | .pad _ => return 0
    | .page p =>
      match p.pdb with
      | none => return 0
      | some pdb =>
        if !pteGlz p.leaf.toNat then return 0
        else
          let s ← get
          let j := (a.toNat - p.va) / 4096
          let sp := s.span pdb j
          match sel.toNat with
          | 0 => return word sp.pmask
          | 1 => return word sp.smask
          | 2 => return word (s.num (spanAddr pdb j + 16) 8)
          | 3 => return 1
          | _ => return 0

end Sys2Proof.Machine
end

