-- ==== Sys2Proof/Machine/Versions.lean ====
section
/-! DEFINITION. Versioned regions: records, chains, writes, answers, floor and seal (R129 to R153). -/
namespace Sys2Proof.Machine

open Sys2Proof

/-- A region record (R130). -/
structure Region where
  addr : Nat
  floorNo : Nat
  sealNo : Nat
  pool : BitVec 16
  linkBase : Nat
  linkCount : Nat
  linkNext : Nat
  linkFree : Nat
  live : Nat
  deriving DecidableEq, Repr

/-- Reads the record of a region id (R129, R130); a link array named through the device's own number is in its own memory (R386). -/
def State.region (s : State) (id : Nat) : Region :=
  let a := id * 64
  { addr := a, floorNo := s.num a 4, sealNo := s.num (a + 4) 4, pool := BitVec.ofNat 16 (s.num (a + 8) 2),
    linkBase := s.canonPa (s.num (a + 16) 8), linkCount := s.num (a + 24) 4, linkNext := s.num (a + 28) 4,
    linkFree := s.num (a + 32) 4, live := s.num (a + 36) 4 }

/-- The address of link record n (R131). -/
def Region.link (g : Region) (n : Nat) : Nat := g.linkBase + 16 * n

/-- A line of a region: the address of its head entry, its base-frame line and its region id (R131, R133). -/
structure VLine where
  head : Nat
  base : Nat
  region : Nat
  deriving DecidableEq, Repr

/-- The versioned line an address of a VERS page lies in; its head table may be named through the device's own number (R386). -/
def State.vlineOf (s : State) (p : Page) (pdb : Pdb) (va : Nat) : VLine :=
  { head := s.canonPa pdb.vhead + 8 * ((va - p.va) / 64), base := p.base + (va - p.va) / 64 * 64, region := pdb.vreg }

/-- One version of a line: its link record (0 for version 0), number and the address of its bytes. -/
structure Ver where
  link : Nat
  num : Nat
  loc : Nat
  deriving DecidableEq, Repr

/-- The linked versions of a chain, newest first; `fuel` bounds the links followed. -/
def State.chainFrom (s : State) (g : Region) : Nat → Nat → List Ver
  | 0, _ => []
  | fuel + 1, n =>
    if n = 0 then []
    else
      let a := g.link n
      { link := n, num := s.num a 4, loc := bits (s.num (a + 8) 8) 51 6 * 64 }
        :: State.chainFrom s g fuel (s.num (a + 4) 4)

/-- Every version of a line, newest first, version 0 last (R131, R133). -/
def State.versions (s : State) (l : VLine) : List Ver :=
  let g := s.region l.region
  s.chainFrom g g.linkCount (s.num l.head 4) ++ [{ link := 0, num := 0, loc := l.base }]

/-- Whether the version store of a region has written a part of it at an address. -/
def State.ownsItem (s : State) (region addr : Nat) : Bool := s.verOwned.any fun i => i.addr == addr && i.region == region

/-- Whether what stands at the place of a part of a version store is software's (R132): the store has not written it, or software has
since. -/
def State.foreign (s : State) (region addr : Nat) : Bool := !s.ownsItem region addr || s.verTaint.contains addr

/-- Whether software wrote a head entry, a link record or a held slot of a versioned line (R132): a head entry that the store has not
written may only be 0. -/
def State.tainted (s : State) (l : VLine) : Bool :=
  ((s.num l.head 4 != 0 || s.ownsItem l.region l.head) && s.foreign l.region l.head)
    || (s.versions l).any fun w =>
      w.link != 0 && (s.foreign l.region ((s.region l.region).link w.link) || s.foreign l.region w.loc)

/-- The version store of a region writes a part of it. -/
def State.ownItem (s : State) (region addr size : Nat) : State :=
  { s with verOwned := { addr := addr, size := size, region := region } :: s.verOwned.filter fun i => i.addr != addr,
           verTaint := s.verTaint.filter fun a => a != addr }

/-- The newest version at or below v. -/
def newestAtMost (vs : List Ver) (v : Nat) : Ver :=
  (vs.find? fun w => decide (w.num ≤ v)).getD { link := 0, num := 0, loc := 0 }

/-- Whether version w of a line is retained under floor F (R134). -/
def retained (vs : List Ver) (f w : Nat) : Bool := decide (f < w) || decide (w = (newestAtMost vs f).num)

/-- The trap of a version fault (R145). -/
def versionTrap (code va v low : Nat) : Trap := faultOf code va (v * 2 ^ 32 + low)

/-- An event at a line's home that writes no bytes of the line itself: the home's clock advances, the line takes the
stamp, and the other dies are told (R306, R317). -/
def State.lineEvent (s : State) (core : Nat) (line : Nat) : State :=
  match homeOf (line * 64) with
  | none => s
  | some h => (s.catchUp (some core) h).stampAt (some core) h line (line * 64) []

/-- Takes a link record (R136 step 1). -/
def State.takeLink (s : State) (g : Region) : Option (Nat × State) :=
  if g.linkFree ≠ 0 then some (g.linkFree, s.setBytes (g.addr + 32) (leBytes 4 (s.num (g.link g.linkFree + 4) 4)))
  else if g.linkNext < g.linkCount then some (g.linkNext, s.setBytes (g.addr + 28) (leBytes 4 (g.linkNext + 1)))
  else none

/-- Inserts link n of version v into a line's chain in descending order (R131, R135). -/
def State.insertLink (s : State) (g : Region) (l : VLine) (n v slot : Nat) : State :=
  let vs := s.versions l
  let older := newestAtMost vs v
  let s := s.setBytes (g.link n) (leBytes 4 v ++ leBytes 4 older.link ++ leBytes 8 slot)
  match (vs.reverse.find? fun w => decide (v < w.num)) with
  | none => s.setBytes l.head (leBytes 4 n)
  | some w => s.setBytes (g.link w.link + 4) (leBytes 4 n)

/-- Lays bytes over a line: each pair is an offset and a byte. -/
def layOver (line : List Byte) (b : List (Nat × Byte)) : List Byte :=
  b.foldl (fun l q => l.set q.1 q.2) line

/-- The trap of an access to a versioned line of which software wrote a part, or that would take such a link record
(R132): the spec allows unpredictable bytes or uncorrectable-memory, and the model takes the latter (DESIGN CHOICE, log entry 61). -/
def taintTrap (l : VLine) (va : Nat) : Trap := errorTrap va l.base 0

/-- A version write joins its line and its slot to one event at the home of the line, so that a plain read of the slot is ordered after
it (R135, R141). -/
def State.versionEvent (s : State) (core : Nat) (l : VLine) (slot : Nat) : State :=
  let t := s.lineEvent core (l.base / 64)
  t.setStamp (slot / 64) (t.stampOf (l.base / 64))

/-- Writes version v of a line with the bytes of B, which are all of the line's bits where `whole` says so (R135, R136); answers the
new state, or the fault that changes nothing. -/
def State.writeVersion (s : State) (core : Nat) (l : VLine) (v : Nat) (b : List (Nat × Byte)) (whole : Bool) (va : Nat) :
    Except Trap State :=
  let g := s.region l.region
  let vs := s.versions l
  if s.tainted l then .error (taintTrap l va)
  else if g.sealNo < g.floorNo ∨ v ≤ g.sealNo then .error (versionTrap 11 va v g.sealNo)
  else if vs.any fun w => w.num == v then .error (versionTrap 10 va v 0)
  else
    let p := newestAtMost vs v
    let d := (homeOf l.base).getD 0
    match s.lineError none (p.loc / 64), whole with
    | some r, false => .error (errorTrap va p.loc r)
    | _, _ =>
      if g.linkFree ≠ 0 ∧ s.foreign l.region (g.link g.linkFree) then .error (taintTrap l va)
      else match s.takeLink g with
      | none => .error (versionTrap 12 va v (64 + d * 16))
      | some (n, t) =>
        match t.takeChunk d g.pool 0 with
        | none => .error (versionTrap 12 va v (d * 16))
        | some (slot, t) =>
          let t := t.placeBytes none slot (layOver (s.readAs none p.loc 64) b)
          let t := t.insertLink g l n v slot
          let t := t.setBytes (g.addr + 36) (leBytes 4 (g.live + 1))
          let t := ((t.ownItem l.region l.head 8).ownItem l.region (g.link n) 16).ownItem l.region slot 64
          .ok (t.versionEvent core l slot)

/-- What a version read finds (R137, R149): the version and whether v was absent under the seal. -/
inductive Answer where
  | pending
  | fault (t : Trap)
  | got (w : Ver) (isSealed : Bool)
  deriving DecidableEq, Repr

/-- Whether and how a read of version v of a line is answered; `wait` says that it waits until it is answerable
(VERLD, VVERLD), where VERLDN takes what is there (R134, R137, R149). -/
def State.answer (s : State) (l : VLine) (v : Nat) (wait : Bool) (va : Nat) : Answer :=
  let g := s.region l.region
  let vs := s.versions l
  let present := vs.any fun w => w.num == v
  if s.tainted l then .fault (taintTrap l va)
  else if g.sealNo < g.floorNo then .fault (versionTrap 11 va v g.sealNo)
  else if wait && !present && decide (g.sealNo < v) then .pending
  else
    let w := newestAtMost vs v
    if retained vs g.floorNo w.num then
      match s.lineError none (w.loc / 64) with
      | some r => .fault (errorTrap va w.loc r)
      | none => .got w (!present && decide (v ≤ g.sealNo))
    else .fault (versionTrap 13 va v g.floorNo)

/-- The location a plain read of a VERS page finds: the newest version (R141). -/
def State.newestLoc (s : State) (l : VLine) : Nat := ((s.versions l).head?.map Ver.loc).getD l.base

/-- Joins the stamps a version read acquires (R139, R143, R317): that of the line, and that of the last floor or seal event, which every
line of the region took at its home. -/
def State.acquireVersion (s : State) (core : Nat) (l : VLine) : State :=
  (s.joinCk core (s.stampOf (l.base / 64))).joinCk core (s.stampOf l.region)

/-- A floor or seal event of a region at the homes of its lines (R139, R317): one on each die, each ordered after the one before, so that
the stamp the region record is left with covers them all; the slots of the region take it as well. -/
def State.regionEvent (s : State) (core line : Nat) : State :=
  let s := (List.range Config.dieCount).foldl (fun s h => (s.catchUp (some core) h).stampAt (some core) h line (line * 64) []) s
  (s.verOwned.filter fun i => i.region == line && i.size == 64).foldl
    (fun s i => s.setStamp (i.addr / 64) ((s.stampOf (i.addr / 64)).join (s.stampOf line))) s

/-- VSEAL and VFLOOR on a region (R139, R140); answers the value that x[D] receives. -/
def State.raiseRegion (s : State) (core id : Nat) (isFloor : Bool) (v : Nat) : State × Nat :=
  let g := s.region id
  let s0 := if g.sealNo < g.floorNo then g.floorNo else g.sealNo
  let f := if isFloor then max g.floorNo v else g.floorNo
  let sl := if isFloor then max s0 f else max s0 v
  let s := s.setBytes g.addr (leBytes 4 f ++ leBytes 4 sl)
  (s.regionEvent core (g.addr / 64), if isFloor then f else sl)

/-- Returns a reclaimed version of a line to its pools (R134, R136), whose slot the version store then gives up. The spec says only
that versions return lazily; the model returns the oldest first (DESIGN CHOICE, log entry 62). -/
def State.reclaim (s : State) (l : VLine) : State :=
  let g := s.region l.region
  let vs := s.versions l
  match if s.tainted l then none else vs.reverse.find? fun w => w.link != 0 && !(retained vs g.floorNo w.num) with
  | none => s
  | some w =>
    let next := s.num (g.link w.link + 4) 4
    let s :=
      match vs.find? fun u => u.link != 0 && s.num (g.link u.link + 4) 4 == w.link with
      | some u => s.setBytes (g.link u.link + 4) (leBytes 4 next)
      | none => s.setBytes l.head (leBytes 4 next)
    let s := s.setBytes (g.link w.link + 4) (leBytes 4 g.linkFree)
    let s := s.setBytes (g.addr + 32) (leBytes 4 w.link ++ leBytes 4 (g.live - 1))
    let s := { s with verOwned := s.verOwned.filter fun i => i.addr != w.loc }
    s.freeChunk ((homeOf l.base).getD 0) g.pool 0 w.loc

end Sys2Proof.Machine
end

