-- ==== Sys2Proof/Machine/Access.lean ====
section
/-! DEFINITION. Scalar and vector accesses to bytes: alignment, special pages, barrier lines, and the places they read and
write (R69, R85, R91, R107, R108, R141, R204, R209, R333). -/
namespace Sys2Proof.Machine

open Sys2Proof

/-- Where bytes of one line are read: the location, the seal key, and whether the line may be held as a guest. -/
structure Target where
  loc : Nat
  key : Option Nat
  held : Bool
  deriving DecidableEq, Repr

/-- The barrier registered on a line, where one is (R327). -/
def State.barrierOn (s : State) (line : Nat) : Option Barrier :=
  s.dies.findSome? fun d => d.bars.find? fun b => b.line == line

/-- The misaligned trap (R367). -/
def misaligned (va : Nat) (write : Bool) : Trap := faultOf 4 va (if write then 0x800 else 0)

/-- The location a read of an address in a page finds (R107, R141). -/
def State.readTarget (s : State) (x : Ctx) (p : Page) (va : Nat) : Target :=
  match p.pdb with
  | some pdb =>
    if pteVers p.leaf.toNat then
      { loc := s.newestLoc (s.vlineOf p pdb va) + va % 64, key := none, held := false }
    else { loc := s.loadLoc x p va, key := p.key, held := true }
  | none => { loc := p.phys va, key := p.key, held := !isRemote (p.phys va) }

/-- Whether an address of a page lies in a versioned line whose chain software wrote (R132). -/
def State.taintedAt (s : State) (p : Page) (va : Nat) : Bool :=
  match p.pdb with
  | some pdb => pteVers p.leaf.toNat && s.tainted (s.vlineOf p pdb va)
  | none => false

/-- Where a read of an address in a place finds its bytes. -/
def State.targetOf (s : State) (x : Ctx) (q : Place) (va : Nat) : Target :=
  match q with
  | .pad l => { loc := l, key := none, held := false }
  | .page p => s.readTarget x p va

/-- Where a read of an address in a place finds its bytes; it stops at a versioned line that software wrote (R132). -/
def readIn (x : Ctx) (q : Place) (va : Nat) : M Target := do
  let s ← get
  match q with
  | .pad _ => return s.targetOf x q va
  | .page p =>
    if s.taintedAt p va then raise (errorTrap va (p.phys va) 0) else return s.targetOf x q va

/-- Finds what a read of bytes within one line reads. -/
def readPlace (x : Ctx) (va : Nat) : M Target := do
  let q ← place x .read va
  readIn x q va

/-- Finds where a write of bytes within one line goes, from the place of its address: a versioned page is sealed
against it, a registered barrier line is protected, and a glaze page routes it (R108, R141, R333). `va` is the address
of the bytes, which the trap of a versioned page names (R145), and `eva` the byte that the other traps name. -/
def writeTarget (x : Ctx) (q : Place) (va eva : Nat) : M Target := do
  let s ← get
  match q with
  | .pad l =>
    match s.barrierOn (l / 64) with
    | some b => raise (faultOf 22 eva b.index)
    | none => return { loc := l, key := none, held := false }
  | .page p =>
    match p.pdb, pteVers p.leaf.toNat, pteGlz p.leaf.toNat with
    | some pdb, true, _ => raise (versionTrap 11 va 0 (s.region pdb.vreg).sealNo)
    | some pdb, false, true =>
      match s.routeGlaze x p pdb va eva with
      | .error t => raise t
      | .ok (s, line) =>
        set s
        return { loc := line + va % 64, key := none, held := false }
    | _, _, _ =>
      match s.barrierOn (p.phys va / 64) with
      | some b => raise (faultOf 22 eva b.index)
      | none => return { loc := p.phys va, key := p.key, held := false }

/-- Whether a place is a glaze page. -/
def Place.isGlaze : Place → Bool
  | .page p => pteGlz p.leaf.toNat
  | .pad _ => false

/-- Whether a store at an address of a place needs a side change of a glaze page (R108, R113). -/
def State.inserts (s : State) (x : Ctx) (q : Place) (va : Nat) : Bool :=
  match q with
  | .page p => pteGlz p.leaf.toNat && !s.suppliedFor x p va
  | .pad _ => false

/-! ## The places of a row (R99, R102) -/

/-- What translation gives for the addresses of a row, by 4 KiB of virtual addresses: one translation for each page. -/
abbrev RowMap := List (Nat × Except Trap Place)

/-- What a row map gives for an address. -/
def RowMap.known (m : RowMap) (va : Nat) : Option (Except Trap Place) :=
  m.findSome? fun q =>
    if q.1 = va / 4096 then some q.2
    else
      match q.2 with
      | .ok (.page p) => if p.va ≤ va ∧ va < p.va + p.size then some q.2 else none
      | _ => none

/-- Translates the addresses of a row in order, once for each page (R99). -/
def rowMap (x : Ctx) (acc : Acc) : List Nat → RowMap → M RowMap
  | [], m => return m
  | va :: rest, m => do
    match m.known va with
    | some _ => rowMap x acc rest m
    | none =>
      match ← tryTrap (place x acc va) with
      | .inl t => rowMap x acc rest ((va / 4096, .error t) :: m)
      | .inr q => rowMap x acc rest ((va / 4096, .ok q) :: m)

/-- The place of an address of a row. -/
def rowPlace (x : Ctx) (acc : Acc) (m : RowMap) (va : Nat) : M Place := do
  match m.known va with
  | some (.ok (.pad l)) => return .pad (l / 4096 * 4096 + va % 4096)
  | some (.ok q) => return q
  | some (.error t) => raise t
  | none => place x acc va

/-- Bytes of one line that a vector-class write gathers before its event. -/
structure LineWrite where
  line : Nat
  key : Option Nat
  pairs : List (Nat × Byte)
  deriving DecidableEq, Repr

/-- Writes bytes of a line in one event at its home (R209): the bytes not named keep their values. -/
def State.performLine (s : State) (core : Nat) (w : LineWrite) : State :=
  let whole := (List.range 64).all fun i => w.pairs.any fun q => q.1 == i
  if !s.writable w.key (w.line * 64) (if whole then 64 else 1) then s.deferFail (some core)
  else
    let s := s.flushOver core (w.line * 64) 64
    s.perform (some core) w.key (w.line * 64) (layOver (s.readAs w.key (w.line * 64) 64) w.pairs)

/-- Adds bytes to the line writes gathered so far. -/
def addWrite (ws : List LineWrite) (t : Target) (bs : List Byte) : List LineWrite :=
  let line := t.loc / 64
  let pairs := bs.zipIdx.map fun q => (t.loc % 64 + q.2, q.1)
  match ws with
  | [] => [{ line := line, key := t.key, pairs := pairs }]
  | w :: r => if w.line = line then { w with pairs := w.pairs ++ pairs } :: r else w :: addWrite r t bs

/-- Writes ranges of bytes together, or none of them where a line of one cannot be written, which counts one deferred failure (R170,
R171, R184). -/
def State.performTogether (s : State) (core : Nat) (ws : List (Nat × List Byte)) : State :=
  let ps := ws.flatMap fun w => splitLines (w.2.length + 1) w.1 w.2
  if ps.all fun p => s.writable none p.1 p.2.length then
    ps.foldl (fun s p => (s.flushOver core p.1 p.2.length).perform (some core) none p.1 p.2) s
  else s.deferFail (some core)

/-- Performs gathered line writes. -/
def performLines (core : Nat) (ws : List LineWrite) : M Unit :=
  modify fun s => ws.foldl (fun s w => s.performLine core w) s

/-- A vector-class read of n bytes of one line at an address, at home (R197); the core's L1 copy of the line is invalidated first
(R198). Another device's memory is read after the core's earlier stores to the bytes (R319). -/
def vecRead (x : Ctx) (q : Place) (va n : Nat) : M (List Byte) := do
  let t ← readIn x q va
  modify fun s => (if isFabric t.loc then s.flushOver x.core t.loc n else s).dropL1Of x.core (t.loc / 64)
  readHome x.core t.key va t.loc n

/-- The bytes that an AMO on a glaze page finds before it, after the check of the owner that a store makes (R108, R115); none
elsewhere. -/
def oldGlaze (x : Ctx) (q : Place) (va n : Nat) : M (Option Nat) := do
  match q with
  | .pad _ => return none
  | .page p =>
    match p.pdb, pteGlz p.leaf.toNat with
    | some pdb, true =>
      let s ← get
      match s.glazeDenied x p pdb va va with
      | some t => raise t
      | none => do
        modify fun s => s.flushOver x.core (s.recordLoc x.scx.toNat p pdb va) n
        return some (leNat (← readHome x.core none va ((← get).recordLoc x.scx.toNat p pdb va) n))
    | _, _ => return none

/-- A read-modify-write at home of n bytes of a place in one event (R215, R322). On a glaze page an update that writes nothing inserts
nothing (R322). -/
def atomicAt (x : Ctx) (q : Place) (va n : Nat) (f : Nat → Option Nat) : M Nat := do
  let old ← oldGlaze x q va n
  match old, old.bind f with
  | some v, none => return v
  | _, _ =>
    let t ← writeTarget x q va va
    modify fun s => s.flushOver x.core t.loc n
    let bs ← readHome x.core t.key va t.loc n
    let old := leNat bs
    match f old with
    | none => return old
    | some new =>
      modify fun s => (s.perform (some x.core) t.key t.loc (leBytes n new)).ackFabric x.core fun l => l == t.loc
      return old

/-- A read-modify-write at home of n bytes at an address. -/
def atomicUpdate (x : Ctx) (va n : Nat) (f : Nat → Option Nat) : M Nat := do
  if va % n ≠ 0 then raise (misaligned va true)
  else
    let q ← place x .write va
    atomicAt x q va n f

end Sys2Proof.Machine
end

