-- ==== Sys2Proof/Machine/Operands.lean ====
section
/-! DEFINITION. The operands of vector-queue entries: rows and their elements, tags, masks, and writes to the vector
register file (R64 to R67, R237 to R240, R263). -/
namespace Sys2Proof.Machine

open Sys2Proof

/-! ## Elements of a row (R67) -/

/-- The bit of a row where column c of a type begins (R67). -/
def elemPos (ty : Ty) (c : Nat) : Nat :=
  match ty with
  | .e3m2 | .e2m3 => 512 * (c / 85) + 6 * (c % 85)
  | t => c * t.width

/-- The block that holds column c of a type. -/
def elemBlock (ty : Ty) (c : Nat) : Nat := elemPos ty c / 512

/-- The raw bits of column c. -/
def VRow.elem (w : VRow) (ty : Ty) (c : Nat) : Nat := (w.bits.toNat >>> elemPos ty c) % 2 ^ ty.width

/-- The bits of a row that a write of column c replaces: its own and, for a 6-bit type, bits [511:510] of its block, which become zero
(R67). -/
def elemHole (ty : Ty) (c : Nat) : Nat :=
  ((2 ^ ty.width - 1) <<< elemPos ty c) ||| (if ty.width = 6 then 3 <<< (512 * elemBlock ty c + 510) else 0)

/-- Replaces the bits of column c. -/
def VRow.setElem (w : VRow) (ty : Ty) (c v : Nat) : VRow :=
  let hole : BitVec 2048 := BitVec.ofNat 2048 (elemHole ty c)
  { w with bits := (w.bits &&& ~~~hole) ||| BitVec.ofNat 2048 ((v % 2 ^ ty.width) <<< elemPos ty c) }

/-- The tag of block b: FC in the upper byte and SC in the lower (R63, R67). -/
def VRow.tag (w : VRow) (b : Nat) : Nat := (w.tags.toNat >>> (16 * b)) % 2 ^ 16

/-- Replaces the tag of block b. -/
def VRow.setTag (w : VRow) (b t : Nat) : VRow :=
  let hole : BitVec 64 := BitVec.ofNat 64 (0xFFFF <<< (16 * b))
  { w with tags := (w.tags &&& ~~~hole) ||| BitVec.ofNat 64 ((t % 2 ^ 16) <<< (16 * b)) }

/-- Block b as 64 bytes. -/
def VRow.block (w : VRow) (b : Nat) : List Byte := leBytes 64 (w.bits.toNat >>> (512 * b))

/-- Replaces the bits of block b by a number of 512 bits. -/
def VRow.setBlock (w : VRow) (b v : Nat) : VRow :=
  let hole : BitVec 2048 := BitVec.ofNat 2048 ((2 ^ 512 - 1) <<< (512 * b))
  { w with bits := (w.bits &&& ~~~hole) ||| BitVec.ofNat 2048 ((v % 2 ^ 512) <<< (512 * b)) }

/-- The code of a type (R55). -/
def tyNum (ty : Ty) : Nat := (tyCode ty).toNat

/-- The tag that data of a type takes where no descriptor gives one (R12, R78, R263). -/
def plainTag (ty : Ty) : Nat := tyNum ty * 256 + (if ty = .q4n then 0xFF else 0x7F)

/-- The row exponent tag that goes with it (R12). -/
def plainExp (ty : Ty) : BitVec 32 := if ty = .q4n then 0x3F800000 else if ty = .b24 then 0x7F else 0

/-- FC of a tag. -/
def tagFc (t : Nat) : Nat := t / 256
/-- SC of a tag. -/
def tagSc (t : Nat) : Nat := t % 256

/-- The type an FC byte names; none for VOID and for the codes that name no format (R63). -/
def fcTy (fc : Nat) : Option Ty := if fc ≤ 18 then tyOf (BitVec.ofNat 5 fc) else none

/-- Whether a row is B24 (R80). -/
def VRow.isB24 (w : VRow) : Bool := (List.range 4).all fun b => tagFc (w.tag b) == 18

/-- The scale of a Q4N block whose SS is infinite and whose q is 0: the manual says only that it is no NaN (R64). -/
def openScale (neg : Bool) : Val :=
  match fmtFp32.decode (Config.infScale neg).toNat with
  | .nan => Val.zero
  | v => v

/-- The block scale of a tag: a value, NaN for a NaN scale (R64). -/
def blockScale (t : Nat) (rexp : BitVec 32) : Val :=
  match fcTy (tagFc t) with
  | some .q4n =>
    match fmtFp32.decode rexp.toNat, tagSc t with
    | .nan, _ => .nan
    | .inf neg, 0 => openScale neg
    | ss, _ =>
      let p := (Val.mul ss (Val.ofInt (tagSc t))).1
      fmtFp32.decode (fDiv fmtFp32 .rne false p (Val.ofInt 255)).1
  | some .b24 => if rexp.toNat % 256 = 255 then .nan else .fin false 1 ((rexp.toNat % 256 : Nat) - 150)
  | _ => if tagSc t = 255 then .nan else .fin false 1 ((tagSc t : Int) - 127)

/-- The bytes that hold NC columns of a type (R206). -/
def rowBytes (ty : Ty) (nc : Nat) : Nat :=
  match ty with
  | .e3m2 | .e2m3 => 64 * (nc / 85) + (6 * (nc % 85) + 7) / 8
  | .e2m1 | .q4n | .i4 => (nc + 1) / 2
  | .desc => 256
  | t => nc * t.width / 8

/-! ## The vector register file (R237 to R240) -/

/-- Rows of a register in a shape (R237). -/
def rowMax (wide : Bool) : Nat := if wide then 128 else 64

/-- The row of the file that row r of register d is (R237). -/
def fileRow (wide : Bool) (d : Reg) (r : Nat) : Nat := d.toNat * rowMax wide + r

/-- Row r of register d. -/
def Core.row (k : Core) (wide : Bool) (d : Reg) (r : Nat) : VRow := k.vregs.get (fileRow wide d r)

/-- Writes row r of register d; the register is dirty up to that row (R240). -/
def Core.setRow (k : Core) (wide : Bool) (d : Reg) (r : Nat) (w : VRow) : Core :=
  { k with
    vregs := k.vregs.put (fileRow wide d r) w
    dirty := k.dirty ||| (1#32 <<< d.toNat)
    vrows := k.vrows.set d.toNat (BitVec.ofNat 8 (max k.vrows[d.toNat].toNat (r + 1))) }

/-- A mask register; k0 reads all-true (R239). -/
def Core.mask (k : Core) (m : MaskReg) : BitVec 65536 :=
  match m.toNat with
  | 0 => BitVec.allOnes 65536 | 1 => k.k1 | 2 => k.k2 | _ => k.k3

/-- Writes a mask register; a write to k0 is discarded (R239). -/
def Core.setMask (k : Core) (m : MaskReg) (v : BitVec 65536) : Core :=
  match m.toNat with
  | 0 => k | 1 => { k with k1 := v } | 2 => { k with k2 := v } | _ => { k with k3 := v }

/-- Bit (r, c) of a mask (R239). -/
def Core.maskBit (k : Core) (m : MaskReg) (r c : Nat) : Bool := (k.mask m).getLsbD (512 * r + c)

/-- A mask of the bits (r, c) with r < nr and c < nc for which f holds. -/
def maskOf (nr nc : Nat) (f : Nat → Nat → Bool) : BitVec 65536 :=
  BitVec.ofNat 65536 ((List.range nr).foldl (fun acc r =>
    acc + ((List.range nc).foldl (fun a c => if f r c then a + 2 ^ c else a) 0) * 2 ^ (512 * r)) 0)

/-- Whether element (r, c) is active for an entry (R239). -/
def Core.active (k : Core) (e : VEntry) (m : MaskReg) (r c : Nat) : Bool :=
  decide (r < e.nr) && decide (c < e.nc) && k.maskBit m r c

/-- Whether an entry's shape is empty (R83, R207, R263). -/
def VEntry.empty (e : VEntry) : Bool := e.nr == 0 || e.nc == 0

/-- The illegal-shape trap (R367). -/
def shapeTrap : Trap := faultOf 21 0 0


/-- Whether an entry names a vector register above 15 in the wide shape (R263). -/
def VEntry.regsBad (e : VEntry) (rs : List Reg) : Bool := e.wide && rs.any fun r => decide (15 < r.toNat)

/-- Records how far the entry at the head of the queue has run (R370). -/
def setProg (row col block : Nat) : M Unit := modMe fun k =>
  match k.queue with
  | [] => k
  | e :: r => { k with queue := { e with prog := { row := row, col := col, block := block } } :: r }

/-- Raises illegal-shape, with VSTART = 0, where a condition holds (R168, R207, R263). -/
def illegalWhen (c : Bool) : M Unit := do
  if c then
    setProg 0 0 0
    raise shapeTrap
  else return ()

/-- Raises a trap at a progress point. -/
def raiseAt (row col : Nat) (t : Trap) : M α := do
  setProg row col 0
  raise t

/-- Writes elements of row r of a register and gives the blocks they lie in their tag, and the row its exponent tag
(R263). -/
def VRow.write (w : VRow) (ty : Ty) (ups : List (Nat × Nat)) (tag : Nat) (rexp : BitVec 32) : VRow :=
  let w := ups.foldl (fun w u => w.setElem ty u.1 u.2) w
  let w := (List.range 4).foldl (fun w b => if ups.any (fun u => elemBlock ty u.1 == b) then w.setTag b tag else w) w
  { w with rexp := rexp }

/-- What one element of an entry receives: its bits with flags, or nothing. -/
abbrev ElemFn := Nat → Nat → Option (Nat × FlagSet)

/-- The elements of row r that an entry writes. -/
def rowUpdates (e : VEntry) (f : ElemFn) (r : Nat) : List (Nat × Nat) :=
  (List.range e.nc).filterMap fun c => (f r c).map fun q => (c, q.1)

/-- The flags of row r. -/
def rowFlags (e : VEntry) (f : ElemFn) (r : Nat) : FlagSet :=
  (List.range e.nc).foldl (fun acc c => match f r c with | some q => acc ||| q.2 | none => acc) 0

/-- The rows of an entry from its progress point on. -/
def liveRows (e : VEntry) : List Nat := (List.range e.nr).filter fun r => decide (e.prog.row ≤ r)

/-- Writes the elements that `f` gives, row by row from the entry's progress point on, with their tags and flags
(R263). `f` reads the registers as they were. -/
def Core.writeElems (k : Core) (e : VEntry) (d : Reg) (ty : Ty) (f : ElemFn) : Core :=
  (liveRows e).foldl (fun k r =>
    let ups := rowUpdates e f r
    let k := { k with flags := k.flags ||| rowFlags e f r }
    if ups.isEmpty then k
    else k.setRow e.wide d r ((k.row e.wide d r).write ty ups (plainTag ty) (plainExp ty))) k

/-- Writes the bits of a mask that `f` gives, in the rows from the entry's progress point on; other bits keep their values (R266). -/
def Core.writeMaskBits (k : Core) (e : VEntry) (d : MaskReg) (f : ElemFn) : Core :=
  let touched := maskOf e.nr e.nc fun r c => decide (e.prog.row ≤ r) && (f r c).isSome
  let ones := maskOf e.nr e.nc fun r c => decide (e.prog.row ≤ r) && (match f r c with | some (1, _) => true | _ => false)
  let fl := (liveRows e).foldl (fun acc r => acc ||| rowFlags e f r) 0
  ({ k with flags := k.flags ||| fl }).setMask d (((k.mask d) &&& ~~~touched) ||| ones)

/-- Writes a scalar register of the bank an entry was dispatched in. -/
def Core.setXOf (k : Core) (sup : Bool) (r : Reg) (v : Word) : Core :=
  if r = 0 then k
  else if sup then { k with sup := k.sup.set r.toNat v } else { k with task := k.task.set r.toNat v }

/-- The result of an entry goes to its scalar destination (R246). -/
def entryX (e : VEntry) (r : Reg) (v : Word) : M Unit := modMe fun k => k.setXOf e.sup r v

end Sys2Proof.Machine
end

