-- ==== Sys2Proof/Machine/VInt.lean ====
section
/-! DEFINITION. The effects of vector integer entries: arithmetic, compares, VSEL and VIOTA (R262 to R266). -/
namespace Sys2Proof.Machine

open Sys2Proof

/-- The second source of an entry at (r, c): an element of vB, or the scalar copied at dispatch (R264). -/
def srcB (k : Core) (e : VEntry) (scalar : Bool) (b : Reg) (ty : Ty) (r c : Nat) : Nat :=
  if scalar then e.opb.toNat % 2 ^ ty.width else (k.row e.wide b r).elem ty c

/-- The registers that name vectors among A and B. -/
def srcRegs (scalar : Bool) (a b : Reg) : List Reg := if scalar then [a] else [a, b]

/-- One integer operation on raw elements (R265). -/
def intOp (o : IntOp) (ty : Ty) (sat : Bool) (a b : Nat) : Nat × FlagSet :=
  let w := ty.width
  let x := intElem ty a
  let y := intElem ty b
  let s := b % w
  match o with
  | .add => wrapTo ty sat (x + y)
  | .sub => wrapTo ty sat (x - y)
  | .mul => wrapTo ty sat (x * y)
  | .mulh => (wrapInt w (x * y / (2 ^ w : Nat)), 0)
  | .and => (Nat.land a b, 0)
  | .or => (Nat.lor a b, 0)
  | .xor => (Nat.xor a b, 0)
  | .shl => wrapTo ty sat (x * (2 ^ s : Nat))
  | .shr => (a >>> s, 0)
  | .sra => (wrapInt w (sint w a / (2 ^ s : Nat)), 0)
  | .min => (if y < x then b else a, 0)
  | .max => (if x < y then b else a, 0)
  | .abs => wrapTo ty sat (x.natAbs : Int)
  | .neg => wrapTo ty sat (-x)

/-- A vector integer entry (R265). -/
def vexecInt (o : IntOp) (scalar : Bool) (x : VBinF) (e : VEntry) : M Unit := do
  if e.empty then return ()
  else
    illegalWhen (decide (x.ty.capacity < e.nc) || e.regsBad (x.d :: srcRegs scalar x.a x.b))
    modMe fun k => k.writeElems e x.d x.ty fun r c =>
      if k.active e x.k r c then
        some (intOp o x.ty x.sat ((k.row e.wide x.a r).elem x.ty c) (srcB k e scalar x.b x.ty r c))
      else none

/-- Whether an integer comparison holds (R266). -/
def intCmp (o : CmpOp) (x y : Int) : Bool :=
  match o with
  | .eq => x == y
  | .lt => decide (x < y)
  | .le => decide (x ≤ y)

/-- A vector integer compare (R266). -/
def vexecIcmp (o : CmpOp) (scalar : Bool) (x : VCmpF) (e : VEntry) : M Unit := do
  if e.empty then return ()
  else
    illegalWhen (decide (x.ty.capacity < e.nc) || e.regsBad (srcRegs scalar x.a x.b))
    modMe fun k => k.writeMaskBits e x.d fun r c =>
      if k.active e x.k r c then
        let a := intElem x.ty ((k.row e.wide x.a r).elem x.ty c)
        let b := intElem x.ty (srcB k e scalar x.b x.ty r c)
        some (if intCmp o a b then 1 else 0, 0)
      else none

/-- VSEL (R266): the mask selects and does not gate. -/
def vexecSel (scalar : Bool) (x : VBinF) (e : VEntry) : M Unit := do
  if e.empty then return ()
  else
    illegalWhen (decide (x.ty.capacity < e.nc) || e.regsBad (x.d :: srcRegs scalar x.a x.b))
    modMe fun k => k.writeElems e x.d x.ty fun r c =>
      some (if k.maskBit x.k r c then srcB k e scalar x.b x.ty r c else (k.row e.wide x.a r).elem x.ty c, 0)

/-- VIOTA (R266); the base of the scalar form is x[B]. -/
def vexecIota (x : VIotaF) (e : VEntry) : M Unit := do
  if e.empty then return ()
  else
    illegalWhen (decide (x.ty.capacity < e.nc) || e.regsBad [x.d])
    modMe fun k => k.writeElems e x.d x.ty fun r c =>
      if k.active e x.k r c then some ((c + e.opb.toNat) % 2 ^ x.ty.width, 0) else none

end Sys2Proof.Machine
end

