-- ==== Sys2Proof/Machine/VFp.lean ====
section
/-! DEFINITION. The effects of vector floating-point entries: arithmetic, compares and fused operations (R267 to R269). -/
namespace Sys2Proof.Machine

open Sys2Proof

/-- The format of a floating-point type; the entries here name FP32, BF16 and FP16 only. -/
def fpFmt (ty : Ty) : Fmt := ty.fmt?.getD fmtFp32

/-- Clears or inverts a sign bit; a NaN gives the canonical NaN (R267). -/
def signOp (f : Fmt) (invert : Bool) (a : Nat) : Nat × FlagSet :=
  match f.decode a with
  | .nan => (f.nanBits, 0)
  | _ =>
    let s := 2 ^ (f.width - 1)
    (if invert then Nat.xor a s else a % s, 0)

/-- One floating-point operation on raw elements (R267, R268). -/
def fpOp (o : FpOp) (ty : Ty) (mode : Mode) (sat : Bool) (a b : Nat) : Nat × FlagSet :=
  let f := fpFmt ty
  let x := f.decode a
  let y := f.decode b
  match o with
  | .add => fAdd f mode sat x y
  | .sub => fAdd f mode sat x y.neg
  | .mul => fMul f mode sat x y
  | .div => fDiv f mode sat x y
  | .sqrt => fSqrt f mode sat x
  | .min => (fMinMax f false a b, 0)
  | .max => (fMinMax f true a b, 0)
  | .abs => signOp f false a
  | .neg => signOp f true a
  | .rcp => fDiv f mode sat (Val.ofInt 1) x
  | .rsq => fRsq f mode sat x
  | .exp2 => fExp2 f mode sat x
  | .log2 => fLog2 f mode sat x

/-- A vector floating-point entry (R267); the mode is the dispatch-time copy (R71). -/
def vexecFp (o : FpOp) (scalar : Bool) (x : VFpF) (e : VEntry) : M Unit := do
  if e.empty then return ()
  else
    illegalWhen (decide (x.ty.capacity < e.nc) || e.regsBad (x.d :: srcRegs scalar x.a x.b))
    modMe fun k => k.writeElems e x.d x.ty fun r c =>
      if k.active e x.k r c then
        some (fpOp o x.ty e.rm x.sat ((k.row e.wide x.a r).elem x.ty c) (srcB k e scalar x.b x.ty r c))
      else none

/-- A vector floating-point compare (R267, R268). -/
def vexecFcmp (o : CmpOp) (scalar : Bool) (x : VFCmpF) (e : VEntry) : M Unit := do
  if e.empty then return ()
  else
    illegalWhen (decide (x.ty.capacity < e.nc) || e.regsBad (srcRegs scalar x.a x.b))
    modMe fun k => k.writeMaskBits e x.d fun r c =>
      if k.active e x.k r c then
        let f := fpFmt x.ty
        let q := fCompare o (f.decode ((k.row e.wide x.a r).elem x.ty c)) (f.decode (srcB k e scalar x.b x.ty r c))
        some (if q.1 then 1 else 0, q.2)
      else none

/-- One fused operation: FMA, FMS or FNMA (R253, R269). -/
def fmaOp (o : FmaOp) (f : Fmt) (mode : Mode) (sat : Bool) (a b c : Nat) : Nat × FlagSet :=
  let x := f.decode a
  let y := f.decode b
  let z := f.decode c
  match o with
  | .fma => fFma f mode sat x y z
  | .fms => fFma f mode sat x y z.neg
  | .fnma => fFma f mode sat x.neg y z

/-- A vector fused entry (R269). -/
def vexecFma (o : FmaOp) (x : VFmaF) (e : VEntry) : M Unit := do
  if e.empty then return ()
  else
    illegalWhen (decide (x.ty.capacity < e.nc) || e.regsBad [x.d, x.a, x.b, x.c])
    modMe fun k => k.writeElems e x.d x.ty fun r c =>
      if k.active e x.k r c then
        some (fmaOp o (fpFmt x.ty) e.rm x.sat ((k.row e.wide x.a r).elem x.ty c) ((k.row e.wide x.b r).elem x.ty c)
          ((k.row e.wide x.c r).elem x.ty c))
      else none

end Sys2Proof.Machine
end

