-- ==== Sys2Proof/Machine/Convert.lean ====
section
/-! DEFINITION. The effects of conversion entries: VCVT, VCVTD, VQPACK, VBACC, VBNORM and VSCALE (R74 to R83). -/
namespace Sys2Proof.Machine

open Sys2Proof

/-- The row capacity of a width (R55). -/
def widthCapacity (w : Nat) : Nat := if w = 6 then 340 else 2048 / w

/-- Elements of a width in a block. -/
def widthPerBlock (w : Nat) : Nat := if w = 6 then 85 else 512 / w

/-- Whether block b holds one of the columns lo to hi - 1 at a width. -/
def blockInUse (w b lo hi : Nat) : Bool :=
  decide (lo < (b + 1) * widthPerBlock w) && decide (b * widthPerBlock w < hi)

/-- The source width of a row for the columns lo to hi - 1: none where no block gives one (R76). -/
def VRow.srcWidth (w : VRow) (lo hi : Nat) : Option Nat :=
  (List.range 4).findSome? fun b =>
    match fcTy (tagFc (w.tag b)) with
    | some ty => if blockInUse ty.width b lo hi then some ty.width else none
    | none => none

/-- Whether a row fails checks 1, 2, 4 and 6 of R76 for the columns lo to hi - 1; `ok` says which types of a block in use
the instruction takes. -/
def VRow.srcBad (w : VRow) (lo hi : Nat) (ok : Ty → Bool) : Bool :=
  (List.range 4).any (fun b => (fcTy (tagFc (w.tag b))).isNone && tagFc (w.tag b) != 0xFF) ||
    match w.srcWidth lo hi with
    | none => decide (512 < hi)
    | some x =>
      decide (widthCapacity x < hi) || (List.range 4).any fun b =>
        match fcTy (tagFc (w.tag b)) with
        | some ty => blockInUse x b lo hi && (ty.width != x || !ok ty)
        | none => false

/-- The type and tag of column c of a source row; no type for a VOID block (R76). -/
def VRow.srcElem (w : VRow) (lo hi c : Nat) : Option (Ty × Nat) :=
  match w.srcWidth lo hi with
  | none => none
  | some x =>
    let b := c / widthPerBlock x
    (fcTy (tagFc (w.tag b))).map fun ty => (ty, w.tag b)

/-- The exact value of column c, with its block scale when `scaled`: the value, whether an integer gives it, and flags
(R64, R77). -/
def VRow.srcVal (w : VRow) (scaled : Bool) (lo hi c : Nat) : Val × Bool × FlagSet :=
  match w.srcElem lo hi c with
  | none => (.zero, false, 0)
  | some (ty, t) =>
    let v := decodeElem ty (w.elem ty c)
    if scaled then let q := Val.mul v (blockScale t w.rexp); (q.1, false, q.2) else (v, ty.isInt, 0)

/-- Converts a value to a type: an integer source wraps or clamps (R73). -/
def convertTo (ty : Ty) (mode : Mode) (sat : Bool) (v : Val) (fromInt : Bool) : Nat × FlagSet :=
  match v, fromInt && ty.isInt with
  | .fin neg m e, true => let i := signedAt neg m e 0; wrapTo ty sat i
  | _, _ => convertReal ty mode sat v

/-- Whether some row r < NR of a register fails the checks of R76. -/
def Core.rowsBad (k : Core) (e : VEntry) (a : Reg) (lo : Nat) (ok : Ty → Bool) : Bool :=
  (liveRows e).any fun r => (k.row e.wide a r).srcBad lo (lo + e.nc) ok

/-- Whether VCVT or VCVTD raises illegal-shape (R76). -/
def Core.cvtBad (k : Core) (e : VEntry) (x : VFpF) : Bool :=
  k.rowsBad e x.a e.opb.toNat (fun ty => ty != .b24) || decide (x.ty.capacity < e.nc) || e.regsBad [x.d, x.a]

/-- Whether VQPACK raises illegal-shape (R76). -/
def Core.qpackBad (k : Core) (e : VEntry) (x : QpackF) : Bool :=
  k.rowsBad e x.a 0 Ty.isFp || decide (x.ty.capacity < e.nc) || e.regsBad [x.d, x.a]

/-- Whether VBACC raises illegal-shape (R76). -/
def Core.baccBad (k : Core) (e : VEntry) (x : VTyF) : Bool :=
  k.rowsBad e x.a 0 (fun ty => ty == .fp32) || decide (64 < e.nc) || e.regsBad [x.d, x.a]

/-- Whether VBNORM raises illegal-shape (R76). -/
def Core.bnormBad (k : Core) (e : VEntry) (x : BnormF) : Bool :=
  ((liveRows e).any fun r => !(k.row e.wide x.a r).isB24) || decide (64 < e.nc) || e.regsBad [x.d, x.a]

/-- Whether VSCALE raises illegal-shape (R76). It has no destination type of its own for item 3 to bound NC by, as TY is 0 and the row is
copied; the model bounds NC by the source alone (DESIGN CHOICE, log entry 64). -/
def Core.scaleBad (k : Core) (e : VEntry) (x : VTyBF) : Bool := k.rowsBad e x.a 0 (fun _ => true) || e.regsBad [x.d, x.a]

/-- Whether a conversion entry raises illegal-shape for some row r < NR, which comes before it writes any element (R76). -/
def Core.convBad (k : Core) (e : VEntry) : Bool :=
  match e.op with
  | .cvt _ x => k.cvtBad e x
  | .qpack x => k.qpackBad e x
  | .bacc x => k.baccBad e x
  | .bnorm x => k.bnormBad e x
  | .vscale x => k.scaleBad e x
  | _ => false

/-- Whether an entry is a conversion, whose check reads all of its source rows (R76). -/
def VecOp.isConv (o : VecOp) : Bool :=
  match o with
  | .cvt _ _ | .qpack _ | .bacc _ | .bnorm _ | .vscale _ => true
  | _ => false

/-- VCVT and VCVTD (R76 to R78). -/
def vexecCvt (scaled : Bool) (x : VFpF) (e : VEntry) : M Unit := do
  if e.empty then return ()
  else
    let c0 := e.opb.toNat
    let k ← getMe
    illegalWhen (k.cvtBad e x)
    modMe fun k => k.writeElems e x.d x.ty fun r c =>
      if k.active e x.k r c then
        let v := (k.row e.wide x.a r).srcVal scaled c0 (c0 + e.nc) (c0 + c)
        let q := convertTo x.ty e.rm x.sat v.1 v.2.1
        some (q.1, q.2 ||| v.2.2)
      else none

/-- emax of a small floating-point type (R79). -/
def emaxOf (ty : Ty) : Int :=
  match ty with
  | .e4m3 => 8 | .e5m2 => 15 | .e3m2 => 4 | _ => 2

/-- Whether a value is finite. -/
def Val.isFin : Val → Bool
  | .fin _ _ _ => true
  | _ => false

/-- The larger of two exact magnitudes, as m × 2^e. -/
def maxMag (a : Nat × Int) (v : Val) : Nat × Int :=
  match v with
  | .fin _ m e => if cmpExact a.1 a.2 m e == .lt then (m, e) else a
  | _ => a

/-- The scale SC that VQPACK gives a block of values (R79). -/
def packScale (ty : Ty) (vs : List Val) : Nat :=
  let q := vs.foldl maxMag (0, 0)
  if q.1 = 0 then 127
  else (max 0 (min 254 (expOf q.1 q.2 - emaxOf ty + 127))).toNat

/-- One scaled element of VQPACK: beyond the largest finite value, before it is rounded or after, it is that value, with OF, NX and SAT
(R73, R79). -/
def packElem (ty : Ty) (mode : Mode) (v : Val) : Nat × FlagSet :=
  let q := convertReal ty mode true v
  match v, ty.fmt? with
  | .fin _ m e, some f => if cmpExact f.maxM f.maxE m e == .lt then (q.1, q.2 ||| fOF ||| fNX ||| fSAT) else q
  | _, _ => q

/-- One block of VQPACK: the elements, the SC byte and the flags (R79). -/
def packBlock (ty : Ty) (mode : Mode) (cs : List (Nat × Val)) : List (Nat × Nat) × Nat × FlagSet :=
  if cs.any fun q => !q.2.isFin then (cs.map fun q => (q.1, 0), 0xFF, fNV)
  else
    let sc := packScale ty (cs.map Prod.snd)
    let rs := cs.map fun q => (q.1, packElem ty mode (Val.mul q.2 (.fin false 1 (127 - (sc : Int)))).1)
    (rs.map fun q => (q.1, q.2.1), sc, rs.foldl (fun f q => f ||| q.2.2) 0)

/-- VQPACK on one row: block after block (R79). -/
def packRow (k : Core) (e : VEntry) (x : QpackF) (r : Nat) (src : VRow) : Core :=
  let bs := (List.range 4).map fun b =>
    (b, ((List.range e.nc).filter fun c => elemBlock x.ty c == b && k.active e x.k r c).map fun c =>
      (c, (src.srcVal true 0 e.nc c).1))
  let bs := bs.filter fun q => !q.2.isEmpty
  if bs.isEmpty then k
  else
    let step := fun (acc : VRow × FlagSet) (q : Nat × List (Nat × Val)) =>
      let p := packBlock x.ty e.rm q.2
      let w := p.1.foldl (fun w u => w.setElem x.ty u.1 u.2) acc.1
      (w.setTag q.1 (tyNum x.ty * 256 + p.2.1), acc.2 ||| p.2.2)
    let res := bs.foldl step (k.row e.wide x.d r, 0)
    { k with flags := k.flags ||| res.2 }.setRow e.wide x.d r { res.1 with rexp := 0 }

/-- VQPACK (R79). -/
def vexecQpack (x : QpackF) (e : VEntry) : M Unit := do
  if e.empty then return ()
  else
    let k ← getMe
    illegalWhen (k.qpackBad e x)
    modMe fun k => (liveRows e).foldl
      (fun k' r => packRow k' e x r (k.row e.wide x.a r)) k

/-- Rounds i × 2^s to the nearest integer, ties to even: the integer, and whether a fraction was discarded (R80). -/
def rneInt (i s : Int) : Int × Bool :=
  let q := roundTo .rne false i.natAbs s false 0
  (if i < 0 then -(q.1 : Int) else q.1, q.2)

/-- rne(v × 2^s) of a finite value. -/
def rneVal (v : Val) (s : Int) : Int × Bool :=
  match v with
  | .fin neg m e => rneInt (if neg then -(m : Int) else m) (e + s)
  | _ => (0, false)

/-- The largest magnitude of a B24 mantissa (R80). -/
def b24Max : Nat := 2 ^ 23 - 1

/-- The exponent VBACC moves a row to, with whether none fits; `ms` are the mantissas of the active columns and `xs` the
values added (R80). -/
def baccExp (e0 : Nat) (pairs : List (Int × Val)) : Nat :=
  (((List.range 255).filter fun (e : Nat) => decide (e0 ≤ e)).find? fun (e : Nat) =>
    pairs.all fun q => decide ((((rneInt q.1 ((e0 : Int) - e)).1 + (rneVal q.2 (150 - (e : Int))).1)).natAbs ≤ b24Max)).getD 254

/-- VBACC on one row; `src` is the row added (R80). The rule does not say whether x carries the block scale of vA; the model takes the
FP32 value without it (DESIGN CHOICE, log entry 63). -/
def baccRow (k : Core) (e : VEntry) (x : VTyF) (r : Nat) (src : VRow) : Core :=
  let cs := (List.range e.nc).filter fun c => k.active e x.k r c
  if cs.isEmpty then k
  else
    let w := k.row e.wide x.d r
    let e0 := if w.isB24 then w.rexp.toNat % 256 else 0
    let m := fun c => if w.isB24 then sint 24 (w.elem .b24 c) else 0
    let v := fun c => (src.srcVal false 0 e.nc c).1
    if e0 = 255 ∨ (cs.any fun c => !(v c).isFin) then { k with flags := k.flags ||| fNV }
    else
      let e1 := baccExp e0 (cs.map fun c => (m c, v c))
      let moved := fun c => rneInt (m c) ((e0 : Int) - e1)
      let added := fun c => rneVal (v c) (150 - (e1 : Int))
      let sum := fun c => (moved c).1 + (added c).1
      let clip := fun (s : Int) => if b24Max < s.natAbs then (if s < 0 then -(b24Max : Int) else b24Max) else s
      let nx := (List.range 64).any (fun c => (moved c).2) || cs.any fun c => (added c).2
      let big := cs.any fun c => decide (b24Max < (sum c).natAbs)
      let fl := (if nx then fNX else 0) ||| (if big then fOF ||| fSAT else 0)
      let new := fun c => if cs.contains c then clip (sum c) else (moved c).1
      let w := (List.range 64).foldl (fun w c => w.setElem .b24 c (wrapInt 32 (new c))) w
      let w := (List.range 4).foldl (fun w b => w.setTag b (18 * 256 + e1)) w
      { k with flags := k.flags ||| fl }.setRow e.wide x.d r { w with rexp := BitVec.ofNat 32 e1 }

/-- VBACC (R80). -/
def vexecBacc (x : VTyF) (e : VEntry) : M Unit := do
  if e.empty then return ()
  else
    let k ← getMe
    illegalWhen (k.baccBad e x)
    modMe fun k => (liveRows e).foldl
      (fun k' r => baccRow k' e x r (k.row e.wide x.a r)) k

/-- VBNORM (R81). -/
def vexecBnorm (x : BnormF) (e : VEntry) : M Unit := do
  if e.empty then return ()
  else
    let k ← getMe
    illegalWhen (k.bnormBad e x)
    modMe fun k => k.writeElems e x.d .fp32 fun r c =>
      if k.active e x.k r c then
        let w := k.row e.wide x.a r
        let ex := w.rexp.toNat % 256
        if ex = 255 then some (fmtFp32.nanBits, 0)
        else
          let i := sint 24 (w.elem .b24 c)
          some (fmtFp32.round e.rm false (.fin (decide (i < 0)) i.natAbs ((ex : Int) - 150)))
      else none

/-- A scale moved by n and clamped to 0 to 254, with its flags (R82). -/
def moveScale (sc : Nat) (n : Int) : Nat × FlagSet :=
  let v := (sc : Int) + n
  if 254 < v then (254, fOF ||| fSAT) else if v < 0 then (0, fUF ||| fSAT) else (v.toNat, 0)

/-- One row of VSCALE: the row with its scales moved, and the flags (R82). -/
def scaleRow (w : VRow) (n : Int) : VRow × FlagSet :=
  if w.isB24 then
    let ex := w.rexp.toNat % 256
    if ex = 255 then (w, 0)
    else
      let q := moveScale ex n
      let w := (List.range 4).foldl (fun w b => w.setTag b (18 * 256 + q.1)) w
      ({ w with rexp := BitVec.ofNat 32 q.1 }, q.2)
  else
    (List.range 4).foldl (fun (acc : VRow × FlagSet) b =>
      let t := acc.1.tag b
      if tagFc t = 0xFF ∨ tagFc t = 16 ∨ tagFc t = 18 ∨ tagSc t = 0xFF then acc
      else let q := moveScale (tagSc t) n; (acc.1.setTag b (tagFc t * 256 + q.1), acc.2 ||| q.2)) (w, 0)

/-- VSCALE (R82). -/
def vexecScale (x : VTyBF) (e : VEntry) : M Unit := do
  if e.empty then return ()
  else
    let k ← getMe
    illegalWhen (k.scaleBad e x)
    let n := sint 64 e.opb.toNat
    modMe fun k => (liveRows e).foldl (fun k' r =>
      if (List.range e.nc).any fun c => k.active e x.k r c then
        let q := scaleRow (k.row e.wide x.a r) n
        { k' with flags := k'.flags ||| q.2 }.setRow e.wide x.d r q.1
      else k') k

end Sys2Proof.Machine
end

