-- ==== Sys2Proof/Machine/Barrier.lean ====
section
/-! DEFINITION. The barrier tables and the iteration ring: events at an entry, waiters and posts (R326 to R336). -/
namespace Sys2Proof.Machine

open Sys2Proof

/-- The image of a barrier in its line (R327). -/
def Barrier.image (b : Barrier) : List Byte :=
  leBytes 2 b.count ++ leBytes 2 b.arrived ++ leBytes 4 b.phase
    ++ leBytes 8 ((if b.killed then 1 else 0) + b.index * 256) ++ List.replicate 48 0

/-- The barrier registered on a line in its home table (R327). -/
def State.barrierAt (s : State) (line : Nat) : Option Barrier :=
  match homeOf (line * 64) with
  | none => none
  | some h => (s.die h).bars.find? fun b => b.line == line

/-- The barrier of an index of a die's table (R231). -/
def State.barrierIdx (s : State) (die index : Nat) : Option Barrier := (s.die die).bars.find? fun b => b.index == index

/-- Replaces the entry of a barrier at its home and writes its image, as a write of the core whose event it is (R306, R327). -/
def State.putBarrier (s : State) (core : Nat) (b : Barrier) : State :=
  match homeOf (b.line * 64) with
  | none => s
  | some h =>
    let s := s.updDie h fun d => { d with bars := b :: d.bars.filter fun q => q.line != b.line }
    s.perform (some core) b.key (b.line * 64) b.image

/-- Frees the entry of a line and clears its image (R329). -/
def State.dropBarrier (s : State) (core line : Nat) (key : Option Nat) : State :=
  match homeOf (line * 64) with
  | none => s
  | some h =>
    let s := s.updDie h fun d => { d with bars := d.bars.filter fun q => q.line != line }
    s.perform (some core) key (line * 64) (List.replicate 64 0)

/-- The scalar destination of a BARWAIT. -/
def barwaitDest (o : VecOp) : Option Reg :=
  match o with
  | .barwait x => some x.d
  | _ => none

/-- A waiting BARWAIT at the head of a core's queue completes with a status (R330, R332). -/
def State.releaseWaiter (s : State) (c status : Nat) (ck : Option Clock) : State :=
  s.updCore c fun k =>
    match k.queue with
    | [] => k
    | e :: rest =>
      match barwaitDest e.op with
      | none => k
      | some d =>
        let k := { k.clearVstart with queue := rest, ck := match ck with | some q => k.ck.join q | none => k.ck }
        if d = 0 then k
        else if e.sup then { k with sup := k.sup.set d.toNat (word status) }
        else { k with task := k.task.set d.toNat (word status) }

/-- An arrival of a core at a barrier (R330): the phase it arrived in, or none where the entry is killed or absent. -/
def State.arrive (s : State) (core : Nat) (b : Option Barrier) : State × Option Nat :=
  match b with
  | none => (s, none)
  | some b =>
    if b.killed then (s, none)
    else
      let cur := b.cur.join (s.core core).ck
      if b.arrived + 1 = b.count then
        let done := b.clock.join cur
        let s := b.waiters.foldl (fun s c => s.releaseWaiter c 0 (some done)) s
        (s.putBarrier core { b with arrived := 0, phase := (b.phase + 1) % 2 ^ 32, waiters := [], clock := done,
                                    cur := Clock.reset }, some b.phase)
      else (s.putBarrier core { b with arrived := b.arrived + 1, cur := cur }, some b.phase)

/-- BARKILL at an entry (R332): the number of waiters released. -/
def State.kill (s : State) (core : Nat) (b : Barrier) : State × Nat :=
  let s := b.waiters.foldl (fun s c => s.releaseWaiter c 1 none) s
  (s.putBarrier core { b with killed := true, waiters := [] }, b.waiters.length)

/-- The lowest free index of a table; none where all 63 are in use (R327). -/
def freeIndex (bars : List Barrier) : Option Nat :=
  ((List.range 63).map (· + 1)).find? fun i => !(bars.any fun b => b.index == i)

/-- BARINIT's outcome on a line (R329): the new state, the status and the index. `plain` says that the line lies in no
DESC, VERS or GLZ page and on this device. -/
def State.barInit (s : State) (core line : Nat) (key : Option Nat) (plain : Bool) (count wanted : Nat) : State × Nat × Nat :=
  match plain, homeOf (line * 64) with
  | true, some h =>
    let bars := (s.die h).bars
    let fresh := fun i : Nat =>
      ({ index := i, line := line, key := key, count := count, arrived := 0, phase := 0, killed := false, waiters := [],
         clock := Clock.reset, cur := Clock.reset } : Barrier)
    match bars.find? fun b => b.line == line with
    | some b =>
      if !b.waiters.isEmpty then (s, 1, b.index)
      else if count = 0 then (s.dropBarrier core line key, 0, 0)
      else (s.putBarrier core (fresh b.index), 0, b.index)
    | none =>
      if count = 0 then (s, 0, 0)
      else if wanted ≠ 0 then
        if bars.any fun b => b.index == wanted then (s, 2, 0) else (s.putBarrier core (fresh wanted), 0, wanted)
      else
        match freeIndex bars with
        | none => (s, 2, 0)
        | some i => (s.putBarrier core (fresh i), 0, i)
  | _, _ => (s, 3, 0)

/-- A core waits at no barrier any more. -/
def State.leaveBarriers (s : State) (c : Nat) : State :=
  { s with dies := s.dies.map fun d => { d with bars := d.bars.map fun b => { b with waiters := b.waiters.filter (· != c) } } }

/-- Whether a core waits at a barrier (R331). -/
def State.atBarrier (s : State) (c : Nat) : Bool := s.dies.any fun d => d.bars.any fun b => b.waiters.contains c

/-- A core waits at a barrier. -/
def State.joinBarrier (s : State) (b : Barrier) (c : Nat) : State :=
  match homeOf (b.line * 64) with
  | none => s
  | some h => s.updDie h fun d =>
    { d with bars := d.bars.map fun q =>
        if q.line = b.line ∧ !q.waiters.contains c then { q with waiters := q.waiters ++ [c] } else q }

/-! ## The iteration ring (R334, R336) -/

/-- Whether a channel of a die is bound. -/
def State.chanBound (s : State) (die ch : Nat) : Bool := (s.die die).bound.getLsbD ch

/-- The larger of two signed words. -/
def maxSigned (a b : Word) : Word := if a.slt b then b else a

/-- A mirror applies a post (R336). -/
def Core.applyPost (k : Core) (ch : Nat) (v : Word) (ck : Clock) : Core :=
  { k with mirror := k.mirror.set! ch (maxSigned (k.mirror.getD ch 0) v)
           mirrorCk := k.mirrorCk.set! ch ((k.mirrorCk.getD ch Clock.reset).join ck) }

/-- A core sends a post (R336): its own mirror applies it at once, and it is on its way to the 39 others. -/
def State.sendPost (s : State) (c ch : Nat) (v : Word) : State :=
  let d := dieOf c
  if !s.chanBound d ch then s
  else
    let ck := (s.core c).ck
    let s := s.updCore c fun k => k.applyPost ch v ck
    let ps := ((List.range Config.coresPerDie).filter fun i => d * Config.coresPerDie + i != c).map fun i =>
      ({ src := c, core := d * Config.coresPerDie + i, channel := ch, value := v, clock := ck } : Post)
    s.updDie d fun q => { q with posts := q.posts ++ ps }

/-- Post n of a die arrives, unless an earlier one of the same sender for the same mirror is still on its way (R334); a
post on a released channel is discarded. Answers the core it reached. -/
def State.arrivePost (s : State) (die n : Nat) : State × Option Nat :=
  match (s.die die).posts[n]? with
  | none => (s, none)
  | some p =>
    if ((s.die die).posts.take n).any fun q => q.src == p.src && q.core == p.core then (s, none)
    else
      let bound := s.chanBound die p.channel
      let s := s.updDie die fun d => { d with posts := d.posts.eraseIdx n }
      if bound then (s.updCore p.core fun k => k.applyPost p.channel p.value p.clock, some p.core) else (s, none)

/-- Binds a channel for a loop: W := lo - 1 in every mirror of the die (R334). -/
def State.bindChannel (s : State) (die ch : Nat) (lo : Word) : State :=
  let s := s.updDie die fun d => { d with bound := d.bound ||| (1#16 <<< ch), posts := d.posts.filter fun p => p.channel != ch }
  (List.range Config.coresPerDie).foldl (fun s i => s.updCore (die * Config.coresPerDie + i) fun k =>
    { k with mirror := k.mirror.set! ch (lo - 1), mirrorCk := k.mirrorCk.set! ch Clock.reset }) s

/-- The scalar destination of a WAITI on a channel. -/
def VEntry.waitiOn (e : VEntry) (ch : Nat) : Option Reg :=
  match e.op with
  | .waiti x => if bits e.opb.toNat 3 0 = ch then some x.d else none
  | _ => none

/-- A WAITI at the head of a core's queue completes with status 1, where it waits on a channel that is released (R336). -/
def Core.endWaiti (k : Core) (ch : Nat) : Core :=
  match k.queue with
  | [] => k
  | e :: rest =>
    match e.fault, e.waitiOn ch with
    | none, some d =>
      let k := { k.clearVstart with queue := rest }
      if d = 0 then k else if e.sup then { k with sup := k.sup.set d.toNat 1 } else { k with task := k.task.set d.toNat 1 }
    | _, _ => k

/-- Releases a channel: posts on their way to it are discarded, and every WAITI that waits on it completes (R334, R336). -/
def State.freeChannel (s : State) (die ch : Nat) : State :=
  let s := s.updDie die fun d =>
    { d with bound := d.bound &&& ~~~(1#16 <<< ch), posts := d.posts.filter fun p => p.channel != ch }
  (List.range Config.coresPerDie).foldl (fun s i => s.updCore (die * Config.coresPerDie + i) fun k => k.endWaiti ch) s

end Sys2Proof.Machine
end

