-- ==== Sys2Proof/Machine/CrustItems.lean ====
section
/-! DEFINITION. Crust queues: what an item does at its crust, and the order in which items are performed (R186, R187, R191 to
R195). -/
namespace Sys2Proof.Machine

open Sys2Proof

/-- The lines of a range of memory. -/
def linesOf (loc n : Nat) : List Nat :=
  if n = 0 then [] else (List.range ((loc + n - 1) / 64 - loc / 64 + 1)).map fun i => loc / 64 + i

/-- The ranges an item reads, and those it writes, as locations and sizes. -/
def ItemOp.ranges : ItemOp → List (Nat × Nat) × List (Nat × Nat)
  | .nadd _ dst vals => ([(dst, 4 * vals.length)], [(dst, 4 * vals.length)])
  | .copyLine src dst => ([(src, 64)], [(dst, 64)])
  | .zeroLine dst => ([], [(dst, 64)])
  | .gatherElem src dst size => ([(src, size), (dst, size)], [(dst, size)])
  | .noptLine w g _ _ => ([(w, 64), (w + 2 ^ 20, 64), (g, 64)], [(w, 64), (w + 2 ^ 20, 64)])

/-- Whether an item fails: a line it reads has an uncorrectable error, or a line it writes is a registered barrier (R184,
R333). -/
def State.itemFails (s : State) (o : ItemOp) : Bool :=
  (o.ranges.1.any fun q => (linesOf q.1 q.2).any fun l => s.badLines.contains l) ||
    (o.ranges.2.any fun q => (linesOf q.1 q.2).any fun l => (s.barrierAt l).isSome)

/-- Adds a row of words into memory (R191). -/
def addWords (fp : Bool) (old : List Byte) (vals : List (BitVec 32)) : List Byte :=
  vals.zipIdx.flatMap fun q =>
    let m := leNat ((old.drop (4 * q.2)).take 4)
    leBytes 4 (if fp then (fAdd fmtFp32 .rne false (fmtFp32.decode m) (fmtFp32.decode q.1.toNat)).1
      else (m + q.1.toNat) % 2 ^ 32)

/-- One element of NOPT: the new weight and momentum (R195). -/
def noptElem (w m g : Nat) (lr mu : BitVec 32) : Nat × Nat :=
  let d := fmtFp32.decode
  let m' := (fFma fmtFp32 .rne false (d mu.toNat) (d m) (d g)).1
  ((fFma fmtFp32 .rne false (d lr.toNat).neg (d m') (d w)).1, m')

/-- NOPT on one line: the new weights and momentum (R195). -/
def noptLines (w m g : List Byte) (lr mu : BitVec 32) : List Byte × List Byte :=
  let word := fun (l : List Byte) i => leNat ((l.drop (4 * i)).take 4)
  let rs := (List.range 16).map fun i => noptElem (word w i) (word m i) (word g i) lr mu
  (rs.flatMap fun q => leBytes 4 q.1, rs.flatMap fun q => leBytes 4 q.2)

/-- The lines that an item reads, and those it writes. -/
def ItemOp.lines (o : ItemOp) : List Nat × List Nat :=
  (o.ranges.1.flatMap fun q => linesOf q.1 q.2, o.ranges.2.flatMap fun q => linesOf q.1 q.2)

/-- The lock of an item leaves no cached copy of the lines it writes that differs from the crust's (R186): they are clean, and have no
guest copy, recorded fill or L1 copy. -/
def State.unlockItem (s : State) (o : ItemOp) : State :=
  let written := o.lines.2
  { written.foldl State.forgetDirty s with
    fills := s.fills.filter fun f => !written.contains f.line
    l1 := s.l1.filter fun p => !written.contains p.2
    dies := s.dies.map fun d => { d with guests := d.guests.filter fun g => !written.contains g.line } }

/-- The writes of an item (R191 to R195), as ranges of bytes. -/
def State.itemWrites (s : State) (o : ItemOp) : List (Nat × List Byte) :=
  match o with
  | .nadd fp dst vals => [(dst, addWords fp (s.readAs none dst (4 * vals.length)) vals)]
  | .copyLine src dst => [(dst, s.readAs none src 64)]
  | .zeroLine dst => [(dst, List.replicate 64 0)]
  | .gatherElem src dst size => [(dst, s.readAs none src size)]
  | .noptLine w g lr mu =>
    let q := noptLines (s.readAs none w 64) (s.readAs none (w + 2 ^ 20) 64) (s.readAs none g 64) lr mu
    [(w, q.1), (w + 2 ^ 20, q.2)]

/-- Performs one item in one event (R186), with the clock its core carried when it was sent; the core's clock joins the stamps of the
lines it reads (R317). An item that fails writes nothing and counts as a deferred failure. An item of NADD takes its lines in one event
too, where the rule gives one for each (DESIGN CHOICE, log entry 75). -/
def State.performItem (s : State) (i : Item) : State :=
  if s.itemFails i.op then s.deferFail (some i.core)
  else
    let s := s.lockLines (i.op.lines.1 ++ i.op.lines.2)
    let s := i.op.lines.1.foldl (fun s l => s.joinCk i.core (s.stampOf l)) s
    let ps := (s.itemWrites i.op).flatMap fun w => splitLines (w.2.length + 1) w.1 w.2
    (ps.foldl (fun s p => s.performClock i.clock (some i.core) none p.1 p.2) s).unlockItem i.op

/-- Takes the first item of a core out of a queue. -/
def dropFirst (core : Nat) : List Item → List Item
  | [] => []
  | i :: r => if i.core = core then r else i :: dropFirst core r

/-- Whether a crust has yet to perform an item of a core that a test names. -/
def State.crustHas (s : State) (core : Nat) (test : Item → Bool) : Bool :=
  s.crusts.any fun k => k.queue.any fun i => i.core == core && test i

/-- Whether an item belongs to an acquire at SYSTEM scope. -/
def Item.acqSystem (i : Item) : Bool := i.acq && i.scope == 4

/-- The crust at stack k performs the oldest item of a core (R187); when the last read of a SYSTEM acquire is answered, the core's die
applies every write (R310). -/
def State.crustStepOf (s : State) (k core : Nat) : State :=
  match (s.crust k).queue.find? fun i => i.core == core with
  | none => s
  | some i =>
    let s := (s.updCrust k fun c => { c with queue := dropFirst core c.queue }).performItem i
    if i.acqSystem && !s.crustHas core Item.acqSystem then s.drainInbox (dieOf core) else s

/-- The cores with an item in a queue, in the order of their first items. -/
def itemCores (q : List Item) : List Nat := (q.map Item.core).dedup

/-- The crust at stack k performs the oldest item of one of the cores that have sent it items, which the manual leaves open (R187). -/
def State.crustStep (s : State) (k : Nat) : State :=
  match itemCores (s.crust k).queue with
  | [] => s
  | [c] => s.crustStepOf k c
  | cs => { s with freeCtr := s.freeCtr + 1 }.crustStepOf k (cs.getD (Config.freeChoice s.freeCtr % cs.length) 0)

/-- How many of the items of a core a crust performs until none is left that the test names. -/
def prefixUntil (test : Item → Bool) : List Item → Nat
  | [] => 0
  | i :: rest => let n := prefixUntil test rest; if n = 0 then (if test i then 1 else 0) else n + 1

/-- Performs the items of a core at every crust up to the last that the test names. -/
def State.crustDrain (s : State) (core : Nat) (test : Item → Bool) : State :=
  (List.range Config.stackCount).foldl (fun s k =>
    (List.range (prefixUntil test ((s.crust k).queue.filter fun i => i.core == core))).foldl (fun s _ => s.crustStepOf k core) s) s

/-- Sends an item to the crust of the stack that holds a place (R185, R187). -/
def State.sendItem (s : State) (target : Nat) (i : Item) : State :=
  s.updCrust (stackOf target) fun c => { c with queue := c.queue ++ [i] }

/-- The crust performs every item of a core (R192). -/
def State.crustAll (s : State) (core : Nat) : State := s.crustDrain core fun _ => true

/-- The crust performs every item of a core whose command carries ACQ (R310): their reads are answered. -/
def State.crustAcq (s : State) (core : Nat) : State := s.crustDrain core fun i => i.acq

/-- The crust performs every item of a core whose command carries REL (R187, R309). -/
def State.crustRel (s : State) (core : Nat) : State := s.crustDrain core fun i => i.rel

end Sys2Proof.Machine
end

