-- ==== Sys2Proof/Machine/VMem.lean ====
section
/-! DEFINITION. The effects of vector loads and stores, gathers, scatters and vector atomics (R68, R69, R99, R205 to R215). -/
namespace Sys2Proof.Machine

open Sys2Proof

/-- Names the element an access stops at when it ends early (R99, R370). -/
def atPoint (row col : Nat) (m : M α) : M α :=
  tryCatch m fun h => do
    setProg row col 0
    throw h

/-! ## Addresses (R206 to R208, R212) -/

/-- The pitch of an entry: x[B], or the default where B is 0 (R206). -/
def pitchOf (e : VEntry) (b : Reg) (ty : Ty) : Int := if b = 0 then rowBytes ty e.nc else sint 64 e.opb.toNat

/-- A virtual address from an integer, modulo 2^64. -/
def vaOf (i : Int) : Nat := wrapInt 64 i

/-- The base of row r (R208); 0 where the form has none. -/
def rowBase (m : VAddr) (e : VEntry) (x : VMemBF) (r : Nat) : Nat :=
  match m with
  | .unit | .firstFault | .bit => vaOf (e.opa.toNat + (r : Int) * pitchOf e x.b x.ty)
  | .strided => vaOf (e.opa.toNat + (r : Int) * sint 32 (e.opb.toNat / 2 ^ 32))
  | _ => 0

/-- The bit address of element (r, c) (R208, R212). -/
def elemBit (k : Core) (m : VAddr) (ci : Reg) (e : VEntry) (x : VMemBF) (r c : Nat) : Nat :=
  let base := rowBase m e x r
  let six := x.ty.width == 6
  match m with
  | .unit | .firstFault => 8 * vaOf (base + elemPos x.ty c / 8 : Nat) + elemPos x.ty c % 8
  | .bit =>
    let s := 8 * base + x.bitoff.toNat
    if six then
      let q := s % 512
      let n := q / 6 + c
      s - q + 512 * (n / 85) + 6 * (n % 85)
    else s + 4 * c
  | .strided => 8 * vaOf ((base : Int) + (c : Int) * sint 32 e.opb.toNat)
  | .gather => 8 * vaOf (e.opa.toNat + sint 32 ((k.row e.wide ci r).elem .n32 c))
  | .gatherc => 8 * (0x01F1000000000000 + e.opa.toNat % 2 ^ 22 + (k.row e.wide ci r).elem .n32 c)
  | .lane => 0

/-- Whether element (r, c) is misaligned (R208). -/
def elemMisaligned (m : VAddr) (x : VMemBF) (base bitAddr : Nat) : Bool :=
  let w := x.ty.width
  if w = 6 then
    match m with
    | .bit => let q := (8 * base + x.bitoff.toNat) % 512; q % 6 != 0 || decide (504 < q)
    | _ => base % 64 != 0
  else if 16 ≤ w then bitAddr / 8 % (w / 8) != 0
  else false

/-- The active columns of row r that are not complete yet. -/
def liveCols (k : Core) (e : VEntry) (m : MaskReg) (r : Nat) : List Nat :=
  (List.range e.nc).filter fun c => k.active e m r c && (decide (e.prog.row < r) || decide (e.prog.col ≤ c))

/-- Whether an entry has an active element (R207). -/
def anyActive (k : Core) (e : VEntry) (m : MaskReg) : Bool :=
  (List.range e.nr).any fun r => (List.range e.nc).any fun c => k.active e m r c

/-! ## Plain rows -/

/-- Bits [w-1:0] at bit b of bytes that start at the byte of b. -/
def bitsAt (bs : List Byte) (b w : Nat) : Nat := (leNat bs >>> (b % 8)) % 2 ^ w

/-- Loads one element of a place (R209). -/
def loadElem (x : Ctx) (wide : Bool) (d : Reg) (ty : Ty) (r c ba : Nat) (q : Place) : M Unit := do
  let bs ← vecRead x q (ba / 8) ((ba % 8 + ty.width + 7) / 8)
  modMe fun k => k.setRow wide d r ((k.row wide d r).setElem ty c (bitsAt bs ba ty.width))

/-- Loads elements, given as columns and bit addresses, one after another; each fault stops at its element (R99, R209). -/
def loadElems (x : Ctx) (m : RowMap) (wide : Bool) (d : Reg) (ty : Ty) (r : Nat) : List (Nat × Nat) → M Unit
  | [] => return ()
  | (c, ba) :: rest => do
    atPoint r c (do
      let q ← rowPlace x .read m (ba / 8)
      loadElem x wide d ty r c ba q)
    loadElems x m wide d ty r rest

/-- Groups elements that follow one another on one line. -/
def groupLines : List (Nat × Nat) → List (List (Nat × Nat))
  | [] => []
  | a :: rest =>
    match groupLines rest with
    | (b :: g) :: gs => if a.2 / 512 = b.2 / 512 then (a :: b :: g) :: gs else [a] :: (b :: g) :: gs
    | gs => [a] :: gs

/-- Lays elements over a line: bit offsets and values of width w. -/
def layBits (line w : Nat) (es : List (Nat × Nat)) : Nat :=
  es.foldl (fun l q => l - ((l >>> q.1) % 2 ^ w) * 2 ^ q.1 + (q.2 % 2 ^ w) * 2 ^ q.1) line

/-- The offsets of the bytes that elements of width w touch; a line of a 6-bit type has its top bits rewritten
(R209). -/
def touchedBytes (w : Nat) (es : List (Nat × Nat)) : List Nat :=
  (List.range 64).filter fun i =>
    (w == 6 && i == 63) || es.any fun q => decide (q.1 / 8 ≤ i) && decide (i ≤ (q.1 + w - 1) / 8)

/-- Writes elements of one line in one event (R209): bit offsets in the line and values. -/
def writeBits (core : Nat) (t : Target) (w : Nat) (es : List (Nat × Nat)) : M Unit := do
  let line := t.loc / 64
  modify fun s => s.flushOver core (line * 64) 64
  let s ← get
  let old := leNat (s.readAs t.key (line * 64) 64)
  let new := layBits old w es
  let new := if w = 6 then new % 2 ^ 510 else new
  set (s.performLine core
    { line := line, key := t.key, pairs := (touchedBytes w es).map fun i => (i, BitVec.ofNat 8 (new >>> (8 * i))) })

/-! ## Described lines (R63 to R65, R68, R69) -/

/-- What a line brings: its bits, its descriptor and the super-scale of its group. -/
structure DescLine where
  bits : Nat
  desc : Nat
  ss : BitVec 32
  deriving DecidableEq, Repr

/-- The address of the descriptor of a line (R63, R93); the table may be named through the device's own number (R386). -/
def State.descAddr (s : State) (p : Page) (pdb : Pdb) (va : Nat) : Nat := s.canonPa pdb.dtab + 2 * ((va - p.va) / 64)

/-- The address of the super-scale of a line's group (R65, R386). -/
def State.ssAddr (s : State) (p : Page) (pdb : Pdb) (va : Nat) : Nat := s.canonPa pdb.sstab + 4 * ((va - p.va) / 2 ^ 14)

/-- The descriptor block of a page with the DESC attribute. -/
def descOf (p : Page) : Option Pdb := if pteDesc p.leaf.toNat then p.pdb else none

/-- The descriptor block of a place with the DESC attribute. -/
def Place.desc : Place → Option (Page × Pdb)
  | .pad _ => none
  | .page p => (descOf p).map fun b => (p, b)

/-- A descriptor trap (R367). -/
def descTrap (va reason d : Nat) : Trap := faultOf 16 (va / 64 * 64) (reason * 2 ^ 16 + d)

/-- Whether a descriptor is valid (R63). -/
def descValid (d : Nat) : Bool := decide (tagFc d ≤ 18) || d == 0xFF00

/-- The super-scale of a line's group, read at home where the line is Q4N (R65); a Q4N line of a page without a table makes its leaf
malformed (R93). -/
def readSs (x : Ctx) (p : Page) (b : Pdb) (d la va : Nat) : M (BitVec 32) := do
  if tagFc d ≠ 16 then return 0
  else if b.sstab = 0 then raise (pageTrap 5 .read p.level 1 va)
  else
    let bs ← readHome x.core none va ((← get).ssAddr p b la) 4
    return BitVec.ofNat 32 (leNat bs)

/-- Reads a line of a place with its descriptor; a line outside DESC pages takes the tag of R12 for `ty`, none meaning that TY is DESC
(R68). `va` is the byte the access names. -/
def readDescIn (x : Ctx) (ty : Option Ty) (q : Place) (va : Nat) : M DescLine := do
  let la := va / 64 * 64
  let bs ← vecRead x (match q with | .pad l => .pad (l / 64 * 64) | .page p => .page p) la 64
  match q.desc, ty with
  | some (p, b), _ =>
    let d := leNat (← readHome x.core none va ((← get).descAddr p b la) 2)
    if !descValid d then raise (descTrap la 0 d)
    else
      match ty with
      | some t => if tagFc d ≠ tyNum t ∧ tagFc d ≠ 0xFF then raise (descTrap la 1 d) else pure ()
      | none => pure ()
      let ss ← readSs x p b d la va
      return { bits := leNat bs, desc := d, ss := ss }
  | none, none => raise (descTrap la 5 0)
  | none, some t => return { bits := leNat bs, desc := plainTag t, ss := 0x3F800000 }

/-- Reads the line of an address of a row with its descriptor. -/
def readDescLine (x : Ctx) (ty : Option Ty) (m : RowMap) (va : Nat) : M DescLine := do
  let q ← rowPlace x .read m va
  readDescIn x ty q va

/-- The four lines of a B24 row fail rule 4 of R68 at this line. -/
def b24Bad (d : Nat) (l : DescLine) : Bool :=
  l.desc != d || (List.range 16).any fun j => let v := (l.bits >>> (32 * j)) % 2 ^ 32; wrapInt 32 (sint 24 v) != v

/-- Checks rules 4 and 5 of R68 over the lines of a row, which are given with their addresses. -/
def checkRow (x : Ctx) (ty : Option Ty) (m : RowMap) (base : Nat) (ls : List (Nat × DescLine)) (quad : Bool) : M Unit := do
  match ls.find? fun q => tagFc q.2.desc == 18 with
  | some q =>
    let all ← if quad then (List.range 4).mapM (fun i => do
        let l ← readDescLine x ty m (base + 64 * i)
        return (base + 64 * i, l)) else pure ls
    match all.find? fun l => b24Bad q.2.desc l.2 with
    | some l => raise (descTrap l.1 2 l.2.desc)
    | none => pure ()
  | none => pure ()
  match ls.filter fun q => tagFc q.2.desc == 16 with
  | [] => return ()
  | q :: rest =>
    match rest.find? fun l => l.2.ss != q.2.ss with
    | some l => raise (descTrap l.1 3 l.2.desc)
    | none => return ()

/-- The row exponent tag of a described row (R68 rule 7). -/
def rowExpOf (ls : List (Nat × DescLine)) : BitVec 32 :=
  match ls.find? fun q => tagFc q.2.desc == 18, ls.find? fun q => tagFc q.2.desc == 16 with
  | some q, _ => BitVec.ofNat 32 (tagSc q.2.desc)
  | none, some q => q.2.ss
  | none, none => 0

/-- The raw bits of an element from the lines of its row; a VOID line gives zeros (R68 rule 6). -/
def fromLines (ls : List (Nat × DescLine)) (w ba : Nat) : Nat :=
  match ls.find? fun q => q.1 == ba / 512 * 64 with
  | some q => if tagFc q.2.desc = 0xFF then 0 else (q.2.bits >>> (ba % 512)) % 2 ^ w
  | none => 0

/-- Reads the lines of columns in element order; a line that cannot be read stops the row at its first active element,
after the elements before it, and a line without one is passed over (R68, R99). `want` is the type asked for, none for DESC, and
`ty` the type that lays the row out. -/
def readLines (x : Ctx) (m : RowMap) (e : VEntry) (d : Reg) (want : Option Ty) (ty : Ty) (r : Nat) (act : List Nat)
    (bitOf : Nat → Nat) :
    List Nat → List (Nat × DescLine) → M (List (Nat × DescLine))
  | [], ls => return ls
  | c :: rest, ls => do
    let la := bitOf c / 512 * 64
    if ls.any fun q => q.1 == la then readLines x m e d want ty r act bitOf rest ls
    else
      let mine := act.filter fun a => bitOf a / 512 * 64 == la
      match mine with
      | [] =>
        let l ← tryCatch (do let l ← readDescLine x want m la; return some l)
          (fun h => match h with
            | .trap t => if t.code = 16 then atPoint r (act.headD 0) (raise t) else return none
            | .wait => throw h)
        readLines x m e d want ty r act bitOf rest (match l with | some l => ls ++ [(la, l)] | none => ls)
      | a :: _ =>
        let l ← tryCatch (readDescLine x want m (bitOf a / 8)) fun h => do
          match h with
          | .trap t =>
            if t.code = 16 then setProg r (act.headD 0) 0
            else
              let done := act.takeWhile fun b => b != a
              modMe fun k => if done.isEmpty then k else
                k.setRow e.wide d r
                  (done.foldl (fun w b => w.setElem ty b (fromLines ls ty.width (bitOf b))) (k.row e.wide d r))
              setProg r a 0
          | .wait => pure ()
          throw h
        readLines x m e d want ty r act bitOf rest (ls ++ [(la, l)])

/-- The tag of block b of a described row: the descriptor of the line it received; where several lines give one block,
one of theirs, which the manual does not name. -/
def blockDesc (ls : List (Nat × DescLine)) (cols : List Nat) (ty : Ty) (bitOf : Nat → Nat) (b : Nat) : M (Option Nat) := do
  let ds := (cols.filter fun c => elemBlock ty c == b).filterMap fun c =>
    (ls.find? fun q => q.1 == bitOf c / 512 * 64).map fun q => q.2.desc
  match ds with
  | [] => return none
  | d :: rest => if rest.all (· == d) then return some d else do
      let n ← drawChoice ds.length
      return some (ds.getD n d)

/-- Gives a block its tag, and zeros with the tag of a VOID line (R68 rule 6). The rule zeroes the block, where R209 keeps inactive
elements; the model follows rule 6, the narrower one, as far as the row is complete (DESIGN CHOICE, log entry 65). -/
def VRow.takeTag (w : VRow) (b : Nat) (t : Option Nat) : VRow :=
  match t with
  | none => w
  | some t => if tagFc t = 0xFF then (w.setBlock b 0).setTag b t else w.setTag b t

/-- Writes the active elements of a described row, with its tags where the row is complete. -/
def putDescRow (e : VEntry) (d : Reg) (ty : Ty) (r : Nat) (act cols : List Nat) (bitOf : Nat → Nat)
    (ls : List (Nat × DescLine)) (complete : Bool) : M Unit := do
  let tags ← (List.range 4).mapM (blockDesc ls cols ty bitOf)
  modMe fun k =>
    let w := act.foldl (fun w c => w.setElem ty c (fromLines ls ty.width (bitOf c))) (k.row e.wide d r)
    if !complete then k.setRow e.wide d r w else
    let w := tags.zipIdx.foldl (fun w q => w.takeTag q.2 q.1) w
    k.setRow e.wide d r { w with rexp := rowExpOf ls }

/-- A load row of a type some of whose lines lie in DESC pages (R68). -/
def loadDescRow (x : Ctx) (mp : RowMap) (e : VEntry) (m : VAddr) (d : Reg) (ty : Ty) (r base : Nat) (act : List Nat)
    (bitOf : Nat → Nat) (complete : Bool) : M Unit := do
  let first := act.headD 0
  if base % 64 ≠ 0 ∨ (m == .bit && bitOf 0 % 512 != base % 64 * 8) then atPoint r first (raise (misaligned base false))
  else
    let cols := if m = .strided then act else List.range e.nc
    let ls ← readLines x mp e d (some ty) ty r act bitOf cols []
    atPoint r first (checkRow x (some ty) mp base ls (m != .strided))
    putDescRow e d ty r act cols bitOf ls complete

/-- The first line of a row that is not VOID, among the four (R209). -/
def firstTyped (x : Ctx) (m : RowMap) (base : Nat) : List Nat → M (Option Ty)
  | [] => return none
  | i :: rest => do
    let l ← readDescLine x none m (base + 64 * i)
    match fcTy (tagFc l.desc) with
    | some t => return some t
    | none => firstTyped x m base rest

/-- A load row with TY = DESC (R68, R209). Its width comes from its first line that is not VOID: until a line gives it, no element has a
place, and a line that faults in that search stops the row at its first active element with nothing written (DESIGN CHOICE, log entry
74). -/
def loadAsDescribed (x : Ctx) (e : VEntry) (d : Reg) (r base : Nat) (act : List Nat) : M Unit := do
  let first := act.headD 0
  if base % 64 ≠ 0 then atPoint r first (raise (misaligned base false))
  else
    let m ← rowMap x .read ((List.range 4).map fun i => base + 64 * i) []
    let t ← atPoint r first (firstTyped x m base [0, 1, 2, 3])
    let ty := t.getD .n8
    if 4 < ceilDiv e.nc ty.perBlock then atPoint r first (raise (descTrap base 4 0))
    else
      let bitOf := fun c => 8 * base + elemPos ty c
      let ls ← readLines x m e d none ty r act bitOf (List.range e.nc) []
      match ls.find? fun q => (match fcTy (tagFc q.2.desc) with | some u => u.width != ty.width | none => false) with
      | some q => atPoint r first (raise (descTrap q.1 4 0))
      | none =>
        atPoint r first (checkRow x none m base ls true)
        putDescRow e d ty r act (List.range e.nc) bitOf ls true

/-- Whether a row map puts an address in a DESC page. -/
def RowMap.isDesc (m : RowMap) (va : Nat) : Bool :=
  match m.known va with
  | some (.ok q) => q.desc.isSome
  | _ => false

/-! ## Loads -/

/-- Loads the elements of a row of a gather, each translated on its own (R213), in element order. -/
def gatherElems (x : Ctx) (e : VEntry) (m : VAddr) (ci : Reg) (f : VMemBF) (r : Nat) : List Nat → M Unit
  | [] => return ()
  | c :: rest => do
    let k ← getMe
    let ba := elemBit k m ci e f r c
    atPoint r c (do
      if elemMisaligned m f 0 ba then raise (misaligned (ba / 8) false)
      else
        let q ← place x .read (ba / 8)
        loadElem x e.wide f.d f.ty r c ba q)
    gatherElems x e m ci f r rest

/-- Gives a loaded row the tags of R12. -/
def tagRow (e : VEntry) (f : VMemBF) (r : Nat) : M Unit := modMe fun k =>
  let got := (List.range e.nc).filter fun c => k.active e f.k r c
  let w := k.row e.wide f.d r
  let w := (List.range 4).foldl (fun w b =>
    if got.any fun c => elemBlock f.ty c == b then w.setTag b (plainTag f.ty) else w) w
  k.setRow e.wide f.d r { w with rexp := plainExp f.ty }

/-- A load row with a type, outside gathers (R68, R209): its lines follow their own pages. -/
def loadTyped (x : Ctx) (e : VEntry) (m : VAddr) (f : VMemBF) (r base : Nat) (act : List Nat) (bitOf : Nat → Nat) :
    M Unit := do
  let ok := (act.takeWhile fun c => !elemMisaligned m f base (bitOf c)).map fun c => (c, bitOf c)
  let late := act.drop ok.length
  let cols := if m = .strided then ok.map Prod.fst else List.range e.nc
  let mp ← rowMap x .read (ok.map (fun q => q.2 / 8) ++ cols.map fun c => bitOf c / 8) []
  let stop : M Unit := match late with
    | c :: _ => atPoint r c (raise (misaligned (bitOf c / 8) false))
    | [] => return ()
  if cols.any fun c => mp.isDesc (bitOf c / 8) then
    if m = .strided then
      loadDescRow x mp e m f.d f.ty r base (ok.map Prod.fst) bitOf late.isEmpty
      stop
    else loadDescRow x mp e m f.d f.ty r base act bitOf true
  else
    loadElems x mp e.wide f.d f.ty r ok
    stop
    tagRow e f r

/-- One row of a load (R209). -/
def loadRow (x : Ctx) (e : VEntry) (m : VAddr) (ci : Reg) (f : VMemBF) (r : Nat) : M Unit := do
  let k ← getMe
  let act := liveCols k e f.k r
  if act.isEmpty then return ()
  else if m = .gather ∨ m = .gatherc then
    gatherElems x e m ci f r act
    tagRow e f r
  else if f.ty = .desc then loadAsDescribed x e f.d r (rowBase m e f r) act
  else loadTyped x e m f r (rowBase m e f r) act (elemBit k m ci e f r)

/-- The byte of a lane-private slice that byte b of row r uses: the lane, then the offset (R202, R208). -/
def sliceLoc (a r b : Nat) : Nat := (16 * (r / 2 % 8) + 8 * (r % 2) + b / 32) * 4096 + a + 32 * (r / 16) + b % 32

/-- The checks of VLDL and VSTL beside the shape (R208, R211). -/
def checkLane (e : VEntry) (r c : Nat) : M Unit := do
  illegalWhen (decide (4096 < e.opa.toNat + 32 * ceilDiv e.nr 16))
  if e.opa.toNat % 32 ≠ 0 then atPoint r c (raise (misaligned e.opa.toNat false)) else return ()

/-- The raw bits of an element from the slices. -/
def sliceElem (k : Core) (a : Nat) (ty : Ty) (r c : Nat) : Nat :=
  let p := elemPos ty c
  bitsAt ((List.range ((p % 8 + ty.width + 7) / 8)).map fun i => k.slices.get (sliceLoc a r (p / 8 + i))) p ty.width

/-- Writes the raw bits of an element into the slices; the other bits of a byte keep their values. -/
def setSliceElem (k : Core) (a : Nat) (ty : Ty) (r c v : Nat) : Core :=
  let p := elemPos ty c
  let n := (p % 8 + ty.width + 7) / 8
  let old := leNat ((List.range n).map fun i => k.slices.get (sliceLoc a r (p / 8 + i)))
  let new := layBits old ty.width [(p % 8, v)]
  { k with slices := (List.range n).foldl (fun s i =>
      s.put (sliceLoc a r (p / 8 + i)) (BitVec.ofNat 8 (new >>> (8 * i)))) k.slices }

/-- The first active element, in element order. -/
def firstActive (k : Core) (e : VEntry) (m : MaskReg) : Nat × Nat :=
  ((List.range e.nr).findSome? fun r => ((List.range e.nc).find? fun c => k.active e m r c).map fun c => (r, c)).getD (0, 0)

/-- VLDL (R211). -/
def loadLane (e : VEntry) (f : VMemBF) : M Unit := do
  let k ← getMe
  let p := firstActive k e f.k
  checkLane e p.1 p.2
  modMe fun k => k.writeElems e f.d f.ty fun r c =>
    if (liveCols k e f.k r).contains c then some (sliceElem k e.opa.toNat f.ty r c, 0) else none

/-- Whether a row holds an active element. -/
def rowActive (k : Core) (e : VEntry) (m : MaskReg) (r : Nat) : Bool := (List.range e.nc).any fun c => k.active e m r c

/-- The rows of a first-fault load: a fault after the first row that holds an active element ends it, with that row and those after
it unchanged (R210). `seen` says that such a row has come. -/
def loadFirstFault (x : Ctx) (e : VEntry) (ci : Reg) (f : VMemBF) : List Nat → Bool → M Nat
  | [], _ => return e.nr
  | r :: rest, seen => do
    let k ← getMe
    if (liveCols k e f.k r).isEmpty then loadFirstFault x e ci f rest (seen || rowActive k e f.k r)
    else if !seen then do
      loadRow x e .firstFault ci f r
      loadFirstFault x e ci f rest true
    else
      let ok ← tryCatch (do loadRow x e .firstFault ci f r; return true) (fun h => do
        match h with
        | .trap _ =>
          modMe fun k' => { k' with vregs := k.vregs, dirty := k.dirty, vrows := k.vrows }
          setProg e.prog.row e.prog.col 0
          return false
        | .wait => throw h)
      if ok then loadFirstFault x e ci f rest true else return r

/-- The shape checks of the memory forms (R207, R212). -/
def memShapeBad (m : VAddr) (ci : Reg) (e : VEntry) (f : VMemBF) : Bool :=
  match m with
  | .gather | .gatherc => decide (64 < e.nc) || decide (f.ty.capacity < e.nc) || e.regsBad [f.d, ci]
  | _ => (f.ty != .desc && decide (f.ty.capacity < e.nc)) || e.regsBad [f.d]

/-- A vector load or gather (R205 to R214). -/
def vexecLoad (m : VAddr) (ci : Reg) (f : VMemBF) (e : VEntry) : M Unit := do
  let n ← myNumber
  let x := e.ctx n
  let k ← getMe
  if !anyActive k e f.k then
    if m = .firstFault then modMe fun k => { k with ffnr := BitVec.ofNat 8 e.nr } else return ()
  else
    illegalWhen (memShapeBad m ci e f)
    match m with
    | .lane => loadLane e f
    | .firstFault =>
      let r ← loadFirstFault x e ci f (liveRows e) false
      modMe fun k => { k with ffnr := BitVec.ofNat 8 r }
    | _ => (liveRows e).forM (loadRow x e m ci f)

/-! ## Stores -/

/-- The tags under which the elements of a group are stored that are neither TY nor VOID (R209). -/
def badTag (f : VMemBF) (w : VRow) (g : List (Nat × Nat)) : Option Nat :=
  (g.map fun u => w.tag (elemBlock f.ty u.1)).find? fun t => tagFc t != tyNum f.ty && tagFc t != 0xFF

/-- Checks the lines of a row that lie in DESC pages (R209); a line that does not translate ends the search. -/
def checkTags (m : RowMap) (f : VMemBF) (w : VRow) (r first : Nat) : List (List (Nat × Nat)) → M Unit
  | [] => return ()
  | [] :: rest => checkTags m f w r first rest
  | ((c, ba) :: g) :: rest =>
    match m.known (ba / 8), badTag f w ((c, ba) :: g) with
    | some (.ok q), some t =>
      if q.desc.isSome then atPoint r first (raise (descTrap (ba / 8) 1 t)) else checkTags m f w r first rest
    | some (.ok _), none => checkTags m f w r first rest
    | _, _ => return ()

/-- An element that a row stores: its column, its bit address and its place. -/
structure StoreElem where
  col : Nat
  ba : Nat
  q : Place
  deriving DecidableEq, Repr

/-- Finds the place of each element of a store row, and makes its line one that the place takes stores to (R108, R113), up to the
first element that fails a check, with its trap. -/
def routeElems (x : Ctx) (placeAt : Nat → M Place) : List (Nat × Nat) → M (List StoreElem × Option (Nat × Trap))
  | [] => return ([], none)
  | (c, ba) :: rest => do
    match ← tryTrap (do
        let q ← placeAt (ba / 8)
        let _ ← writeTarget x q (ba / 8) (ba / 8)
        return q) with
    | .inl t => return ([], some (c, t))
    | .inr q => do
      let r ← routeElems x placeAt rest
      return ({ col := c, ba := ba, q := q } :: r.1, r.2)

/-- Adds an element to the elements of the line it goes to. -/
def addElem (gs : List (Target × List StoreElem)) (t : Target) (u : StoreElem) : List (Target × List StoreElem) :=
  match gs with
  | [] => [(t, [u])]
  | g :: r => if g.1.loc / 64 = t.loc / 64 then (g.1, g.2 ++ [u]) :: r else g :: addElem r t u

/-- The elements of a row by the line each goes to, in order of the lines' first elements: a row's bytes in one line are written in one
event (R209). -/
def byTarget (x : Ctx) : List StoreElem → List (Target × List StoreElem) → M (List (Target × List StoreElem))
  | [], gs => return gs
  | u :: rest, gs => do
    let t ← writeTarget x u.q (u.ba / 8) (u.ba / 8)
    byTarget x rest (addElem gs t u)

/-- Stores the elements of one line in one event; a described line takes them with the tag of their block, and zeros for a VOID block
(R69). -/
def storeLine (x : Ctx) (f : VMemBF) (w : VRow) (tagged : Bool) (g : Target × List StoreElem) : M Unit := do
  let tagOf := fun (u : StoreElem) => w.tag (elemBlock f.ty u.col)
  match g.2, (g.2.getLast?.bind fun u => if tagged then u.q.desc else none) with
  | u :: _, some (p, pdb) =>
    let tag := (g.2.getLast?.map tagOf).getD 0
    let es := g.2.map fun u => (u.ba % 512, if tagFc (tagOf u) = 0xFF then 0 else w.elem f.ty u.col)
    let s ← get
    if !s.writable g.1.key (g.1.loc / 64 * 64) (touchedBytes f.ty.width es).length then set (s.deferFail (some x.core))
    else
      writeBits x.core g.1 f.ty.width es
      modify fun s => s.perform (some x.core) none (s.descAddr p pdb (u.ba / 512 * 64))
        (leBytes 2 (if tagFc tag = 0xFF then 0xFF00 else tag))
  | _, _ => writeBits x.core g.1 f.ty.width (g.2.map fun u => (u.ba % 512, w.elem f.ty u.col))

/-- Stores the elements of a row up to the first that fails a check, which stops the row (R118, R209). -/
def storeElems (x : Ctx) (f : VMemBF) (w : VRow) (r : Nat) (tagged : Bool) (placeAt : Nat → M Place) (es : List (Nat × Nat)) :
    M Unit := do
  let (us, bad) ← routeElems x placeAt es
  let gs ← byTarget x us []
  gs.forM (storeLine x f w tagged)
  match bad with
  | some (c, t) => atPoint r c (raise t)
  | none => return ()

/-- The elements of a store row outside scatters (R69, R209). -/
def storeTyped (x : Ctx) (f : VMemBF) (w : VRow) (r base : Nat) (es : List (Nat × Nat)) : M Unit := do
  let mp ← rowMap x .write (es.map fun q => q.2 / 8) []
  let first := (es.headD (0, 0)).1
  let described := es.any fun q => mp.isDesc (q.2 / 8)
  if described && (base % 64 != 0 || f.bitoff != 0) then atPoint r first (raise (misaligned base true))
  else
    if described then checkTags mp f w r first (groupLines es) else pure ()
    storeElems x f w r described (rowPlace x .write mp) es

/-- One row of a store (R209). -/
def storeRow (x : Ctx) (e : VEntry) (m : VAddr) (ci : Reg) (f : VMemBF) (r : Nat) : M Unit := do
  let k ← getMe
  let act := liveCols k e f.k r
  if act.isEmpty then return ()
  else
    let base := rowBase m e f r
    let bitOf := elemBit k m ci e f r
    let w := k.row e.wide f.d r
    let ok := (act.takeWhile fun c => !elemMisaligned m f base (bitOf c)).map fun c => (c, bitOf c)
    if m = .gather ∨ m = .gatherc then storeElems x f w r false (place x .write) ok
    else storeTyped x f w r base ok
    match act.drop ok.length with
    | c :: _ => atPoint r c (raise (misaligned (bitOf c / 8) true))
    | [] => return ()

/-- VSTL (R211). -/
def storeLane (e : VEntry) (f : VMemBF) : M Unit := do
  let k ← getMe
  let p := firstActive k e f.k
  checkLane e p.1 p.2
  modMe fun k => (liveRows e).foldl (fun k' r => (liveCols k e f.k r).foldl (fun k' c =>
    setSliceElem k' e.opa.toNat f.ty r c ((k.row e.wide f.d r).elem f.ty c)) k') k

/-- A vector store or scatter (R205 to R214). -/
def vexecStore (m : VAddr) (ci : Reg) (f : VMemBF) (e : VEntry) : M Unit := do
  let n ← myNumber
  let k ← getMe
  if !anyActive k e f.k then return ()
  else
    illegalWhen (memShapeBad m ci e f)
    match m with
    | .lane => storeLane e f
    | _ => (liveRows e).forM (storeRow (e.ctx n) e m ci f)

/-! ## Vector atomics (R215) -/

/-- The new value of a vector atomic. -/
def vamoOp (o : VAmoOp) (ty : Ty) (old v : Nat) : Nat :=
  match o with
  | .add => (old + v) % 2 ^ ty.width
  | .fadd => (fAdd fmtFp32 .rne false (fmtFp32.decode old) (fmtFp32.decode v)).1
  | .min => if intElem ty v < intElem ty old then v else old
  | .max => if intElem ty old < intElem ty v then v else old

/-- A vector atomic (R215). -/
def vexecVamo (o : VAmoOp) (f : VMemF) (e : VEntry) : M Unit := do
  let k ← getMe
  if !anyActive k e f.k then return ()
  else
    illegalWhen (decide (f.ty.capacity < e.nc) || e.regsBad [f.d])
    let vaAt := fun (r c : Nat) => vaOf (e.opa.toNat + (r : Int) * pitchOf e f.b f.ty + (c * f.ty.width / 8 : Nat))
    let n := f.ty.width / 8
    (liveRows e).forM fun r => do
      let cs := liveCols k e f.k r
      let mp ← rowMap (e.ctx (← myNumber)) .write ((cs.takeWhile fun c => vaAt r c % n == 0).map (vaAt r)) []
      cs.forM fun c => atPoint r c (do
        if vaAt r c % n ≠ 0 then raise (misaligned (vaAt r c) true)
        else
          let q ← rowPlace (e.ctx (← myNumber)) .write mp (vaAt r c)
          let _ ← atomicAt (e.ctx (← myNumber)) q (vaAt r c) n fun old =>
            some (vamoOp o f.ty old ((k.row e.wide f.d r).elem f.ty c))
          return ())

end Sys2Proof.Machine
end

