-- ==== Sys2Proof/Machine/Kv.lean ====
section
/-! DEFINITION. The KV space: the walker and its cache, rotation on append, and the KV entries that need no release
(R156 to R174). -/
namespace Sys2Proof.Machine

open Sys2Proof

/-- POS of a KV address (R156). -/
def kvPos (a : Nat) : Nat := a % 2 ^ 24
/-- HEAD of a KV address. -/
def kvHead (a : Nat) : Nat := bits a 31 24
/-- LAYER of a KV address. -/
def kvLayer (a : Nat) : Nat := bits a 39 32
/-- SEQ of a KV address. -/
def kvSeq (a : Nat) : Nat := bits a 63 40

/-- The KV address of another position (R156, R165): the instruction's address itself where it does not fit. -/
def kvAt (a pos : Nat) : Nat := if pos < 2 ^ 24 then a / 2 ^ 24 * 2 ^ 24 + pos else a

/-- A KV-page (`page`) or KV-bounds trap (R165). -/
def kvTrap (page : Bool) (reason ekv : Nat) : Trap :=
  { intr := false, code := if page then 14 else 15, eva := 0, eaux := word reason, ekv := some (word ekv) }

/-- What a walk runs under: the die of the core, KVROOT as dispatched, and the KV address of the row. -/
structure KvCtx where
  die : Nat
  root : Word
  addr : Nat
  deriving DecidableEq, Repr

/-- Whether a range lies in a device-memory window (R162, R177). -/
def State.devRange (s : State) (pa n : Nat) : Bool :=
  decide (pa < 0xA000000000000) && decide (pa + n ≤ 0xA000000000000) && s.backed pa && s.backed (pa + n - 1)

/-- Reads n words at home (R162): what stands there, or one of the copies that the walker cache still holds, which the manual leaves
open (R163). `seen` gathers the items for the cache. -/
def kvWords (c : KvCtx) (pa n : Nat) (seen : List KvItem) : M (List Word × List KvItem) := do
  let s ← get
  if !s.devRange pa (8 * n) then raise (kvTrap true 6 c.addr)
  else
    match s.lineError none (pa / 64) with
    | some r => raise (errorTrap pa pa r)
    | none =>
      let fresh := (List.range n).map fun i => word (s.num (pa + 8 * i) 8)
      let held := ((s.die c.die).kv.filter fun q => q.addr == pa && q.words.length == n && q.words != fresh).map KvItem.words
      let words ← if held.isEmpty then pure fresh else do
        let k ← drawChoice (held.length + 1)
        pure ((fresh :: held).getD k fresh)
      return (words, seen ++ [{ seqIds := [kvSeq c.addr], addr := pa, words := words }])

/-- An item joins a walker cache, which notes the sequence whose walk used it (R163, R173). -/
def holdItem (l : List KvItem) (q : KvItem) : List KvItem :=
  match l with
  | [] => [q]
  | a :: r =>
    if a.addr = q.addr ∧ a.words = q.words then { a with seqIds := a.seqIds.filter (fun i => !q.seqIds.contains i) ++ q.seqIds } :: r
    else a :: holdItem r q

/-- Holds the items of a walk that succeeded (R163). -/
def kvHold (c : KvCtx) (seen : List KvItem) : M Unit :=
  modify fun s => s.updDie c.die fun d => { d with kv := seen.foldl holdItem d.kv }

/-- The address of the sequence record, its NLAYER and LTAB (R158, R159, R162). The spec does not order V or VALID against malformed:
an entry with V = 0, or a record with VALID = 0, gives the reason of that bit whatever its reserved bits hold (DESIGN CHOICE, log
entry 66). Bits [63:52] of LTAB, which the table does not list, make the record malformed (DESIGN CHOICE, log entry 67). -/
def kvRecord (c : KvCtx) : M ((Nat × Nat × Nat) × List KvItem) := do
  let root := c.root.toNat
  if root % 2 = 0 then raise (kvTrap true 0 c.addr)
  else
    let s ← get
    let dir := bits root 51 15 * 2 ^ 15
    if !s.devRange dir (2 ^ 15) then raise (kvTrap true 6 c.addr)
    else
      let (w, seen) ← kvWords c (dir + 8 * bits c.addr 63 52) 1 []
      let e1 := (w.headD 0).toNat
      if e1 % 2 = 0 then raise (kvTrap true 1 c.addr)
      else if bits e1 63 52 ≠ 0 ∨ bits e1 14 1 ≠ 0 then raise (kvTrap true 6 c.addr)
      else
        let (w, seen) ← kvWords c (bits e1 51 15 * 2 ^ 15 + 8 * bits c.addr 51 40) 1 seen
        let e2 := (w.headD 0).toNat
        if e2 % 2 = 0 then raise (kvTrap true 2 c.addr)
        else if bits e2 63 52 ≠ 0 ∨ bits e2 5 1 ≠ 0 then raise (kvTrap true 6 c.addr)
        else
          let rec_ := bits e2 51 6 * 64
          let (w, seen) ← kvWords c (rec_ + 8) 2 seen
          let w1 := (w.headD 0).toNat
          let ltab := (w.getD 1 0).toNat
          let w0 := (← get).num rec_ 8
          if !bit w1 16 then raise (kvTrap true 3 c.addr)
          else if 2 ^ 32 ≤ w0 ∨ 2 ^ 24 < w0 ∨ bits w1 63 17 ≠ 0 ∨ 256 < w1 % 2 ^ 16 ∨ 2 ^ 52 ≤ ltab ∨ ltab % 8 ≠ 0
              ∨ !(← get).devRange ltab 8 then
            raise (kvTrap true 6 c.addr)
          else return ((rec_, w1 % 2 ^ 16, ltab), seen)

/-- The fields of a layer record (R160). -/
structure KvLayer where
  fmt : Ty
  ksc : Nat
  vsc : Nat
  dim : Nat
  rot : Nat
  npage : Nat
  nhead : Nat
  /-- the address of the sequence record -/
  record : Nat
  deriving DecidableEq, Repr

/-- The formats of KV rows (R160). -/
def kvFmt (c : Nat) : Option Ty :=
  match c with
  | 8 => some .fp32 | 9 => some .bf16 | 10 => some .fp16 | 11 => some .e4m3 | 12 => some .e5m2 | _ => none

/-- The walk as far as the layer record (R162): the layer, HTAB and what was seen. Bits [63:52] of ROTTAB, HTAB and the table entries,
which the tables do not list, make a record or entry malformed (DESIGN CHOICE, log entry 67). -/
def kvLayerRec (c : KvCtx) : M ((KvLayer × Nat) × List KvItem) := do
  let ((rec_, nlayer, ltab), seen) ← kvRecord c
  if nlayer ≤ kvLayer c.addr then raise (kvTrap false 0 c.addr)
  else
    let (w, seen) ← kvWords c (ltab + 8 * kvLayer c.addr) 1 seen
    let lp := (w.headD 0).toNat
    if lp = 0 then raise (kvTrap true 3 c.addr)
    else if lp % 64 ≠ 0 ∨ 2 ^ 52 ≤ lp then raise (kvTrap true 6 c.addr)
    else
      let (w, seen) ← kvWords c lp 8 seen
      let w0 := (w.getD 0 0).toNat
      let rot := (w.getD 1 0).toNat
      let htab := (w.getD 2 0).toNat
      let w3 := (w.getD 3 0).toNat
      match kvFmt (w0 % 32) with
      | none => raise (kvTrap true 6 c.addr)
      | some ty =>
        let dim := bits w0 47 32
        let nhead := bits w0 63 48
        if bits w0 7 5 ≠ 0 ∨ bits w0 31 24 ≠ 0 ∨ dim = 0 ∨ 2048 / ty.width < dim ∨ nhead = 0 ∨ 256 < nhead
            ∨ (rot ≠ 0 ∧ dim % 2 = 1) ∨ 2 ^ 52 ≤ rot ∨ rot % 4 ≠ 0 ∨ 2 ^ 52 ≤ htab ∨ htab % 8 ≠ 0 ∨ 2 ^ 32 ≤ w3
            ∨ (w.drop 4).any (· != 0) ∨ !(← get).devRange htab 8 ∨ (rot ≠ 0 ∧ !(← get).devRange rot (2 * dim)) then
          raise (kvTrap true 6 c.addr)
        else
          return (({ fmt := ty, ksc := bits w0 15 8, vsc := bits w0 23 16, dim := dim, rot := rot, npage := w3,
                     nhead := nhead, record := rec_ }, htab), seen)

/-- kv_walk (R162): the layer, and the address of the position's K row. -/
def kvWalk (c : KvCtx) (write : Bool) : M (KvLayer × Nat) := do
  let ((l, htab), seen) ← kvLayerRec c
  if l.nhead ≤ kvHead c.addr then raise (kvTrap false 1 c.addr)
  else
  let (w, seen) ← kvWords c (htab + 8 * kvHead c.addr) 1 seen
  let pl := (w.headD 0).toNat
  if pl = 0 then raise (kvTrap true 4 c.addr)
  else if pl % 8 ≠ 0 ∨ 2 ^ 52 ≤ pl ∨ !(← get).devRange pl 8 then raise (kvTrap true 6 c.addr)
  else if 64 * l.npage ≤ kvPos c.addr then raise (kvTrap false 2 c.addr)
  else
    let (w, seen) ← kvWords c (pl + 8 * (kvPos c.addr / 64)) 1 seen
    let pe := (w.headD 0).toNat
    if pe % 2 = 0 then raise (kvTrap true 4 c.addr)
    else if bits pe 63 52 ≠ 0 ∨ bits pe 14 2 ≠ 0 ∨ !(← get).devRange (bits pe 51 15 * 2 ^ 15) (2 ^ 15) then
      raise (kvTrap true 6 c.addr)
    else if write && bit pe 1 then raise (kvTrap true 5 c.addr)
    else
      kvHold c seen
      return (l, bits pe 51 15 * 2 ^ 15 + 256 * (kvPos c.addr % 64))

/-- The context of row r of an entry; a position beyond the space faults (R156). -/
def kvRow (e : VEntry) (core r : Nat) : M KvCtx := do
  let a := e.opa.toNat
  let pos := kvPos a + r
  if 2 ^ 24 ≤ pos then raise (kvTrap false 2 a)
  else return { die := dieOf core, root := e.kvroot, addr := kvAt a pos }

/-- Reads bytes at home (R174), of the lines that `need` names: the others are not read, and show zeros. -/
def kvReadOf (core pa n : Nat) (need : Nat → Bool) : M (List Byte) := do
  let s ← get
  let lines := (List.range (ceilDiv (pa % 64 + n) 64)).map fun i => pa / 64 + i
  let used := lines.filter need
  match used.findSome? fun l => (s.lineError none l).map fun r => errorTrap (l * 64) (l * 64) r with
  | some t => raise t
  | none =>
    modify fun s => used.foldl (fun s l => (s.dropL1Of core l).joinCk core (s.stampOf l)) s
    let bs := lines.flatMap fun l => if need l then s.readAs none (l * 64) 64 else List.replicate 64 0
    return (bs.drop (pa % 64)).take n

/-- Reads a KV row, at home (R174). -/
def kvRead (core pa n : Nat) : M (List Byte) := kvReadOf core pa n fun _ => true

/-- LEN of a sequence record (R159), read at home. -/
def kvLen (record : Nat) : M Nat := do
  let b ← kvRead (← myNumber) record 4
  return leNat b

/-! ## Loads (R169) -/

/-- One row of KVLDK or KVLDV. Rows in one page share a walk, yet what a walk finds, old or new, is open for each (R163): the model walks
anew, with a choice of its own, for every row (DESIGN CHOICE, log entry 76). -/
def kvLoadRow (v : Bool) (f : VMemLF) (e : VEntry) (r : Nat) : M Unit := do
  let n ← myNumber
  let k ← getMe
  let cols := (List.range e.nc).filter fun c => k.active e f.k r c
  if cols.isEmpty then return ()
  else
    let c ← kvRow e n r
    let (l, pa) ← kvWalk c false
    if l.fmt ≠ f.ty then raise (kvTrap false 4 c.addr)
    else if l.dim < e.nc then raise (kvTrap false 3 c.addr)
    else
      let row := if v then pa + 16384 else pa
      let bs ← kvReadOf n row (e.nc * f.ty.width / 8) fun l => cols.any fun c => row / 64 + elemBlock f.ty c == l
      let src : VRow := { bits := BitVec.ofNat 2048 (leNat bs), tags := 0, rexp := 0 }
      modMe fun k => k.setRow e.wide f.d r ((k.row e.wide f.d r).write f.ty
        (cols.map fun c => (c, src.elem f.ty c)) (tyNum f.ty * 256 + (if v then l.vsc else l.ksc)) 0)

/-- KVLDK and KVLDV (R168, R169). -/
def vexecKvld (v : Bool) (f : VMemLF) (e : VEntry) : M Unit := do
  let k ← getMe
  if !anyActive k e f.k then return ()
  else
    illegalWhen (e.regsBad [f.d])
    (liveRows e).forM fun r => atPoint r 0 (kvLoadRow v f e r)

/-! ## Appends (R164, R170) -/

/-- A signed integer multiple of an enclosure. -/
def Enc.scaleInt (a : Enc) (i : Int) : Enc := if i < 0 then (a.scale i.natAbs).neg else a.scale i.natAbs

/-- cos (`wantSin` false) or sin of 2π × φ ÷ 2^32 (R164). -/
def encTurn (p : Nat) (wantSin : Bool) (phi : Nat) : Enc :=
  if phi % 2 ^ 30 ≠ 0 then turnEnc wantSin phi p
  else
    let v := Enc.ofInt p (if turnSin wantSin phi then 0 else 1)
    if turnNeg wantSin phi then v.neg else v

/-- The sign of cos or sin at a multiple of an eighth of a turn, where not zero. -/
def turnSign (wantSin : Bool) (phi : Nat) : Int :=
  let o := phi / 2 ^ 29
  if wantSin then (if o = 0 ∨ o = 4 then 0 else if o < 4 then 1 else -1)
  else (if o = 2 ∨ o = 6 then 0 else if o < 2 ∨ 6 < o then 1 else -1)

/-- x × cos + y × sin, with the signs given by the caller, rounded once to nearest even with SAT = 1 (R164). -/
def fMix (f : Fmt) (x y e : Int) (phi : Nat) : Nat × FlagSet :=
  let exact := x * turnSign false phi + y * turnSign true phi
  if x = 0 ∧ y = 0 then (f.pack false 0 0, 0)
  else if phi % 2 ^ 29 = 0 ∧ exact = 0 then (f.pack false 0 0, 0)
  else if phi % 2 ^ 30 = 0 then f.roundFin .rne true (decide (exact < 0)) exact.natAbs e false
  else roundReal f .rne true e fun p => ((encTurn p false phi).scaleInt x).add ((encTurn p true phi).scaleInt y)

/-- Rotates a pair of elements by a turn fraction (R164): both results and the flags. -/
def rotatePair (f : Fmt) (a b phi : Nat) : Nat × Nat × FlagSet :=
  match f.decode a, f.decode b with
  | .fin n1 m1 e1, .fin n2 m2 e2 =>
    let e := min e1 e2
    let x := signedAt n1 m1 e1 e
    let y := signedAt n2 m2 e2 e
    let p := fMix f x (-y) e phi
    let q := fMix f y x e phi
    (p.1, q.1, p.2 ||| q.2)
  | .inf _, _ => (f.nanBits, f.nanBits, fNV)
  | _, .inf _ => (f.nanBits, f.nanBits, fNV)
  | _, _ => (f.nanBits, f.nanBits, 0)

/-- The bytes of columns 0 to n - 1 of a row. -/
def rowPrefix (w : VRow) (n : Nat) : List Byte := leBytes n w.bits.toNat

/-- A K row rotated at a position by the words of a rotary table, with its flags. -/
def rotateRow (g : List Byte) (l : KvLayer) (w : VRow) (nc pos : Nat) : VRow × FlagSet :=
  (List.range (nc / 2)).foldl (fun acc i =>
    let phi := pos * leNat ((g.drop (4 * i)).take 4) % 2 ^ 32
    let q := rotatePair (fpFmt l.fmt) (w.elem l.fmt (2 * i)) (w.elem l.fmt (2 * i + 1)) phi
    ((acc.1.setElem l.fmt (2 * i) q.1).setElem l.fmt (2 * i + 1) q.2.1, acc.2 ||| q.2.2)) (w, 0)

/-- One row of KVAPP (R170). -/
def kvAppendRow (f : KvappF) (e : VEntry) (len : Option Nat) (r : Nat) : M (Option Nat) := do
  let n ← myNumber
  let k ← getMe
  let c ← kvRow e n r
  let (l, pa) ← kvWalk c true
  let limit ← match len with
    | some v => pure v
    | none => kvLen l.record
  if l.fmt ≠ f.ty then raise (kvTrap false 4 c.addr)
  else if l.dim < e.nc ∨ (l.rot ≠ 0 ∧ e.nc % 2 = 1) then raise (kvTrap false 3 c.addr)
  else if kvPos c.addr < limit then raise (kvTrap false 5 c.addr)
  else
    let g ← if l.rot = 0 then pure [] else kvRead n l.rot (2 * e.nc)
    let w := k.row e.wide f.d r
    let q := if l.rot = 0 then (w, 0) else rotateRow g l w e.nc (kvPos c.addr)
    let nb := e.nc * f.ty.width / 8
    modify fun s => s.performTogether n [(pa, rowPrefix q.1 nb), (pa + 16384, rowPrefix (k.row e.wide f.b r) nb)]
    orFlags q.2
    return some limit

/-- The rows of KVAPP one after another; LEN is read once (R170). -/
def kvAppendRows (f : KvappF) (e : VEntry) : List Nat → Option Nat → M Unit
  | [], _ => return ()
  | r :: rest, len => do
    let len ← atPoint r 0 (kvAppendRow f e len r)
    kvAppendRows f e rest len

/-- KVAPP (R168, R170). -/
def vexecKvapp (f : KvappF) (e : VEntry) : M Unit := do
  if e.empty then return ()
  else
    let k ← getMe
    let bad := fun (v : Reg) => (List.range e.nr).any fun r => (List.range e.nc).any fun c =>
      decide (elemBlock f.ty c < 4) && tagFc ((k.row e.wide v r).tag (elemBlock f.ty c)) != tyNum f.ty
    illegalWhen (e.regsBad [f.d, f.b] || bad f.d || bad f.b)
    kvAppendRows f e (liveRows e) none

/-! ## KVMOVE (R171) -/

/-- The first entry that breaks a rule, with the reason and the position it names (R171). -/
def kvMoveBad (b len npage : Nat) (idx : Nat → Nat) : List Nat → Option Nat → Option (Nat × Nat × Nat)
  | [], _ => none
  | j :: rest, prev =>
    let i := idx j
    if decide (i < j) || (match prev with | some p => decide (i ≤ p) | none => false) || decide (b + j < len) then some (j, 6, b + j)
    else if min (2 ^ 24) (64 * npage) ≤ b + i then some (j, 2, b + i)
    else kvMoveBad b len npage idx rest (some i)

/-- One move (R171). -/
def kvMoveOne (e : VEntry) (src dst : Nat) : M Unit := do
  let n ← myNumber
  let a := e.opa.toNat
  let (l, s) ← kvWalk { die := dieOf n, root := e.kvroot, addr := kvAt a src } false
  let (_, d) ← kvWalk { die := dieOf n, root := e.kvroot, addr := kvAt a dst } true
  let nb := l.dim * l.fmt.width / 8
  let kr ← kvRead n s nb
  let vr ← kvRead n (s + 16384) nb
  modify fun s => s.performTogether n [(d, kr), (d + 16384, vr)]

/-- KVMOVE (R168, R171). -/
def vexecKvmove (f : KvmoveF) (e : VEntry) : M Unit := do
  let n ← myNumber
  let k ← getMe
  let act := if e.nr = 0 then [] else (List.range e.nc).filter fun j => k.active e f.k 0 j
  match act with
  | [] => return ()
  | j0 :: _ =>
    illegalWhen (decide (64 < e.nc) || e.regsBad [f.c])
    let a := e.opa.toNat
    let b := kvPos a
    let idx := fun j => (k.row e.wide f.c 0).elem .n32 j
    let ((l, _), seen) ← atPoint 0 j0 (kvLayerRec { die := dieOf n, root := e.kvroot, addr := a })
    kvHold { die := dieOf n, root := e.kvroot, addr := a } seen
    let len ← atPoint 0 j0 (kvLen l.record)
    match kvMoveBad b len l.npage idx act none with
    | some (j, reason, pos) => raiseAt 0 j (kvTrap false reason (kvAt a pos))
    | none =>
      (act.filter fun j => decide (e.prog.col ≤ j)).forM fun j =>
        if idx j = j then return () else atPoint 0 j (kvMoveOne e (b + idx j) (b + j))

end Sys2Proof.Machine
end

