-- ==== Sys2Proof/Machine/Window.lean ====
section
/-! DEFINITION. Accumulation windows: AWIN, AADD, AMERGE and ACLR (R216 to R220). -/
namespace Sys2Proof.Machine

open Sys2Proof

/-- The offset in the slices of element i of lane ℓ's copy of a window (R216). -/
def copyLoc (w : Window) (lane i : Nat) : Nat := lane * 4096 + 4096 - w.len + i * (w.ty.width / 8)

/-- Whether a slice byte belongs to a copy of a window of this length. -/
def inCopies (len a : Nat) : Bool := decide (4096 - len ≤ a % 4096) && decide (a < 128 * 4096)

/-- Zeroes the bytes of every copy whose offset in the copy lies in [from, from + n). -/
def Core.zeroCopies (k : Core) (len start n : Nat) : Core :=
  let hit := fun a => inCopies len a && decide (start ≤ a % 4096 - (4096 - len)) && decide (a % 4096 - (4096 - len) < start + n)
  let kept := k.slices.cells.filter fun q => !hit q.1
  match k.slices.fill with
  | .zero | .void => { k with slices := { k.slices with cells := kept } }
  | .free _ =>
    let zeros : List Byte := List.replicate n 0
    let put := fun (b : Bytes) (lane : Nat) => b.putAll (lane * 4096 + 4096 - len + start) zeros
    { k with slices := (List.range 128).foldl put k.slices }

/-- Element i of lane ℓ's copy. -/
def Core.copyElem (k : Core) (lane i : Nat) : Nat :=
  leNat (k.slices.getAll (copyLoc k.window lane i) (k.window.ty.width / 8))

/-- Adds raw elements as a window does: integers wrap, FP32 rounds to nearest even (R219, R220). -/
def windowAdd (ty : Ty) (a b : Nat) : Nat × FlagSet :=
  if ty = .fp32 then fAdd fmtFp32 .rne false (fmtFp32.decode a) (fmtFp32.decode b)
  else ((a + b) % 2 ^ ty.width, 0)

/-- AWIN (R218). -/
def vexecAwin (f : WinF) (e : VEntry) : M Unit := do
  let n ← myNumber
  let x := e.ctx n
  let len := e.opb.toNat
  let base := e.opa.toNat
  illegalWhen (len % 64 != 0 || decide (len < 64) || decide (2048 < len))
  if base % 64 ≠ 0 then raise (misaligned base true)
  else
    let vas := (List.range (len / 64)).map fun i => vaOf (base + 64 * i : Nat)
    let reads ← rowMap x .read vas []
    let writes ← rowMap x .write vas []
    vas.forM fun va => do
      let _ ← rowPlace x .read reads va
      let _ ← rowPlace x .write writes va
      return ()
    modMe fun k => { k.zeroCopies len 0 len with window := { isOpen := true, ty := f.ty, base := e.opa, len := len } }

/-- AADD (R219). -/
def vexecAadd (f : VMemLF) (e : VEntry) : M Unit := do
  if e.empty then return ()
  else
    let k ← getMe
    illegalWhen (!k.window.isOpen || f.ty != k.window.ty || decide (f.ty.capacity < e.nc) || decide (64 < e.nc)
      || e.regsBad [f.d, f.a])
    (liveRows e).forM fun r => (liveCols k e f.k r).forM fun c => do
      let i := sint 32 ((k.row e.wide f.a r).elem .i32 c)
      if i < 0 ∨ (k.window.len * 8 / f.ty.width : Nat) ≤ i then raiseAt r c shapeTrap
      else
        let lane := 16 * (r / 2 % 8) + 8 * (r % 2) + elemPos f.ty c / 8 / 32
        modMe fun k =>
          let q := windowAdd f.ty (k.copyElem lane i.toNat) ((k.row e.wide f.d r).elem f.ty c)
          { k with flags := k.flags ||| q.2
                   slices := k.slices.putAll (copyLoc k.window lane i.toNat) (leBytes (f.ty.width / 8) q.1) }

/-- Folds the 128 copies of element i into a value, in lane order (R220). -/
def foldCopies (k : Core) (m i : Nat) : Nat × FlagSet :=
  (List.range 128).foldl (fun acc lane =>
    let q := windowAdd k.window.ty acc.1 (k.copyElem lane i)
    (q.1, acc.2 ||| q.2)) (m, 0)

/-- One line of AMERGE (R220). -/
def mergeLine (x : Ctx) (n : Nat) : M Unit := do
  let k ← getMe
  let w := k.window
  let nb := w.ty.width / 8
  let va := vaOf (w.base.toNat + 64 * n : Nat)
  let q ← place x .write va
  let t ← writeTarget x q va va
  modify fun s => s.flushOver x.core t.loc 64
  let bs ← readHome x.core t.key va t.loc 64
  let rs := (List.range (64 / nb)).map fun i => foldCopies k (leNat ((bs.drop (i * nb)).take nb)) (64 * n / nb + i)
  modify fun s => s.perform (some x.core) t.key t.loc (rs.flatMap fun q => leBytes nb q.1)
  modMe fun k => { k with flags := rs.foldl (fun (f : FlagSet) (q : Nat × FlagSet) => f ||| q.2) k.flags }.zeroCopies w.len (64 * n) 64

/-- AMERGE (R220). -/
def vexecAmerge (e : VEntry) : M Unit := do
  let n ← myNumber
  let k ← getMe
  if !k.window.isOpen then return ()
  else ((List.range (k.window.len / 64)).filter fun i => decide (e.prog.col ≤ i)).forM fun i =>
    atPoint 0 i (mergeLine (e.ctx n) i)

/-- ACLR (R220); copies exist only while a window is open (R216). -/
def vexecAclr (_e : VEntry) : M Unit := modMe fun k =>
  if k.window.isOpen then
    { k.zeroCopies k.window.len 0 k.window.len with window := { k.window with isOpen := false } }
  else k

end Sys2Proof.Machine
end

