-- ==== Sys2Proof/Machine/Copy.lean ====
section
/-! DEFINITION. Copy channels: issue, row delivery, write pointers, XRED contributions, and the wait for a core's copies (R221
to R235). -/
namespace Sys2Proof.Machine

open Sys2Proof

/-- The number of a scope (R307). -/
def scopeNum (s : Scope) : Nat := (scopeCode s).toNat

/-- The fields every copy has: channel, ordering flags, scope and arrival index. -/
structure CopyCtl where
  ch : Nat
  acq : Bool
  rel : Bool
  scope : Nat
  bar : Nat
  deriving DecidableEq, Repr

/-- The control fields of a copy entry; none for another entry. -/
def copyCtl (o : VecOp) : Option CopyCtl :=
  match o with
  | .cpy x | .cpym x | .cpykv x => some { ch := x.ch.toNat, acq := x.acq, rel := x.rel, scope := scopeNum x.scope, bar := x.bar.toNat }
  | .xred x => some { ch := x.ch.toNat, acq := x.acq, rel := x.rel, scope := scopeNum x.scope, bar := x.bar.toNat }
  | _ => none

/-- The targets of a copy: none stands for the destination itself, a number for a core of the cluster (R227). -/
def copyTargets (o : VecOp) : List (Option Nat) :=
  let cores (m : BitVec 4) := ((List.range 4).filter fun k => m.getLsbD k).map some
  match o with
  | .cpym x => cores x.mmask
  | .cpykv x => if x.mmask = 0 then [none] else cores x.mmask
  | _ => [none]

/-- The row length in bytes (R224). -/
def copyRowLen (o : VecOp) : Nat :=
  match o with
  | .cpy x | .cpym x | .cpykv x => 16 * x.rows16.toNat
  | _ => 0

/-- Whether an address lies in the core pad range, or the cluster memory range, of R85. -/
def inCorePad (va : Nat) : Bool := decide (0x01F0000000000000 ≤ va) && decide (va < 0x01F0000000000000 + 2 ^ 20)
/-- Whether an address lies in the cluster memory range of R85. -/
def inCluster (va : Nat) : Bool := decide (0x01F1000000000000 ≤ va) && decide (va < 0x01F1000000000000 + 2 ^ 22)

/-- A part of a row that lies in one line: its place, its address and its size. -/
structure Part where
  q : Place
  va : Nat
  n : Nat
  deriving DecidableEq, Repr

/-- The parts of a row, found one after another. -/
def findParts (find : Nat → M Place) : List (Nat × List Byte) → M (List Part)
  | [] => return []
  | (va, bs) :: rest => do
    let q ← find va
    let ps ← findParts find rest
    return { q := q, va := va, n := bs.length } :: ps

/-- The lines of n bytes at an address. -/
def rowLines (va n : Nat) : List (Nat × List Byte) := splitLines (n + 1) va (List.replicate n 0)

/-- The parts of n bytes at an address, each page translated once (R99). -/
def partsOf (x : Ctx) (acc : Acc) (va n : Nat) : M (List Part) := do
  let m ← rowMap x acc ((rowLines va n).map Prod.fst) []
  findParts (rowPlace x acc m) (rowLines va n)

/-- The address that the destination x[A] of a copy names at a target (R227): in cluster memory, the one whose bits 21 and 20 are the
target's. -/
def targetAddr (t : Option Nat) (a : Nat) : Nat :=
  match t with
  | some k => if inCluster a then a / 2 ^ 22 * 2 ^ 22 + k * 2 ^ 20 + a % 2 ^ 20 else a
  | none => a

/-- The parts at a target of the row that lies `off` beyond the destination x[A] of a copy (R227). -/
def targetParts (x : Ctx) (t : Option Nat) (a : Nat) (off : Int) (n : Nat) : M (List Part) :=
  let va := vaOf (targetAddr t a + off)
  match t with
  | some k => partsOf (if inCorePad a then { x with core := clusterOf x.core * 4 + k } else x) .write va n
  | none => partsOf x .write va n

/-- The bytes of the parts of a row, in order. -/
def readParts (x : Ctx) : List Part → M (List Byte)
  | [] => return []
  | p :: rest => do
    let bs ← vecRead x p.q p.va p.n
    let more ← readParts x rest
    return bs ++ more

/-- The descriptor that travels from an address: its page and descriptor block (R228). -/
abbrev DescSrc := Option (Nat × Page × Pdb)

/-- Checks the lines that a row writes (R228), in order: glaze pages take the lines it inserts, whose fault names `eva`, and a DESC
line without a descriptor at its source is refused. -/
def checkParts (x : Ctx) (eva : Nat) (desc : Nat → DescSrc) : List Part → Nat → M Unit
  | [], _ => return ()
  | p :: rest, off => do
    let _ ← writeTarget x p.q p.va eva
    if p.q.desc.isSome && (desc off).isNone then raise (descTrap p.va 6 0)
    else checkParts x eva desc rest (off + p.n)

/-- What the parts of a checked row write at one target, line by line (R226, R228): every line stands by now where it will be written.
`owner` is the core whose stream counts them. -/
def rowParts (x : Ctx) (owner eva : Nat) (row : List Byte) (desc : Nat → DescSrc) : List Part → Nat → M (List RowPart)
  | [], _ => return []
  | p :: rest, off => do
    let t ← writeTarget x p.q p.va eva
    let d ← match p.q.desc, desc off with
      | some (pg, pdb), some (va, spg, spdb) => do
        let bs ← readHome x.core none va ((← get).descAddr spg spdb va) 2
        pure (some ((← get).descAddr pg pdb (p.va / 64 * 64), leNat bs))
      | _, _ => pure none
    let ps ← rowParts x owner eva row desc rest (off + p.n)
    return { owner := owner, key := t.key, loc := t.loc, bytes := (row.drop off).take p.n, desc := d } :: ps

/-- Counts delivered bytes in the stream of a core (R222, R227). -/
def State.countBytes (s : State) (core ch n line : Nat) : State :=
  s.updCore core fun k =>
    let at_ := k.cpwp.getD ch 0
    { k with cpwp := k.cpwp.set! ch (at_ + word n)
             cpwpCk := k.cpwpCk.set! ch ((k.cpwpCk.getD ch []) ++ [(at_.toNat, s.stampOf line)]) }

/-- The clock of the deliveries that brought the first n bytes of a stream (R234). -/
def Core.streamCk (k : Core) (ch n : Nat) : Clock :=
  ((k.cpwpCk.getD ch []).filter fun q => decide (q.1 < n)).foldl (fun c q => c.join q.2) Clock.reset

/-- A write pointer is set to a value (R222): what was counted below it stays counted. -/
def Core.setCpwp (k : Core) (ch : Nat) (v : Word) : Core :=
  { k with cpwp := k.cpwp.set! ch v
           cpwpCk := k.cpwpCk.set! ch ((k.cpwpCk.getD ch []).filter fun q => decide (q.1 < v.toNat)) }

/-- Delivers one part of a row, its descriptor with it, and counts it (R222, R226, R228). A part whose line cannot be written counts as
a deferred failure, and its descriptor is not written either (R184). -/
def deliverPart (core ch : Nat) (p : RowPart) : M Unit := do
  let ok := (← get).writable p.key p.loc p.bytes.length
  performLines core (addWrite [] { loc := p.loc, key := p.key, held := false } p.bytes)
  match p.desc with
  | some (a, d) => if ok then modify fun s => s.perform (some core) none a (leBytes 2 d) else pure ()
  | none => pure ()
  modify fun s => s.countBytes p.owner ch p.bytes.length (p.loc / 64)

/-- The channel of a number. -/
def Core.chan (k : Core) (ch : Nat) : Chan := k.chans.getD ch { copies := [], stopped := none, row := [] }

/-- Changes a channel. -/
def Core.updChan (k : Core) (ch : Nat) (f : Chan → Chan) : Core := { k with chans := k.chans.set! ch (f (k.chan ch)) }

/-- The parts of a checked row become what its channel delivers next (R226). Where one goes to a glaze page, which a side change
could move, the row is delivered at once (R114, R228). -/
def sendParts (core ch : Nat) (glaze : Bool) (ps : List RowPart) : M Unit :=
  if glaze then ps.forM (deliverPart core ch) else modMe fun k => k.updChan ch fun q => { q with row := ps }

/-- A channel delivers the next part of its row, if one is left. -/
def deliverNext (ch : Nat) : M Unit := do
  let k ← getMe
  match (k.chan ch).row with
  | [] => return ()
  | p :: rest => do
    modMe fun k => k.updChan ch fun q => { q with row := rest }
    deliverPart (← myNumber) ch p

/-- Runs a computation that has all of its effect or, ending early, none. -/
def allOrNothing (m : M α) : M α := do
  let s ← get
  tryCatch m fun h => do
    modify fun s' =>
      { s with freeCtr := s'.freeCtr, fabric := s.fabric.filter fun f => f.write || s'.fabric.contains f }
    throw h

/-- The source of a row of a copy, found and checked but not read: an address with its parts, or a KV row. -/
inductive RowSrc where
  | mem (va : Nat) (ps : List Part)
  | kv (pa : Nat)
  deriving DecidableEq, Repr

/-- Whether a line of the source lies in a DESC page. -/
def RowSrc.hasDesc : RowSrc → Bool
  | .mem _ ps => ps.any fun p => p.q.desc.isSome
  | .kv _ => false

/-- The descriptor of the source line that holds byte `off` of the row (R228, R232). -/
def RowSrc.descAt (o : RowSrc) (off : Nat) : DescSrc :=
  match o with
  | .mem va ps => ((ps.find? fun p => p.va == va + off).bind fun p => p.q.desc).map fun q => ((va + off) / 64 * 64, q.1, q.2)
  | .kv _ => none

/-- Finds and checks the source of row r (R225, R232). -/
def copySource (x : Ctx) (e : VEntry) (r len : Nat) : M RowSrc := do
  match e.op with
  | .cpykv _ =>
    let pos := kvPos e.opb.toNat + r
    if 2 ^ 24 ≤ pos then raise (kvTrap false 2 e.opb.toNat)
    else
      let c : KvCtx := { die := dieOf x.core, root := e.kvroot, addr := kvAt e.opb.toNat pos }
      let (l, pa) ← kvWalk c false
      if l.dim * l.fmt.width / 8 < len then raise (kvTrap false 3 c.addr)
      else return .kv (if e.opd.toNat.testBit 32 then pa + 16384 else pa)
  | _ =>
    let sv := vaOf (e.opb.toNat + (r : Int) * sint 32 (e.opd.toNat / 2 ^ 32))
    if sv % 16 ≠ 0 then raise (misaligned sv false)
    else return .mem sv (← partsOf x .read sv len)

/-- The places of a source after the side changes between two states (R117). -/
def Part.refresh (p : Part) (old new : State) : Part :=
  match p.q with
  | .page g => { p with q := .page (g.refresh old new) }
  | .pad _ => p

/-- A source after the side changes that the checks of the destination have made (R117). -/
def RowSrc.refresh (o : RowSrc) (old new : State) : RowSrc :=
  match o with
  | .mem va ps => .mem va (ps.map fun p => p.refresh old new)
  | .kv pa => .kv pa

/-- Reads the source of a row whole (R226). -/
def readSource (x : Ctx) (len : Nat) : RowSrc → M (List Byte)
  | .mem _ ps => readParts x ps
  | .kv pa => kvRead x.core pa len

/-- The alignment that DESC lines on either side of a row ask of its addresses (R225). -/
def descAligned (src : RowSrc) (dst : List Part) (dv : Nat) : M Unit :=
  if src.hasDesc || dst.any fun p => p.q.desc.isSome then
    if dv % 64 ≠ 0 then raise (misaligned dv true)
    else
      match src with
      | .mem sv _ => if sv % 64 ≠ 0 then raise (misaligned sv false) else return ()
      | .kv _ => return ()
  else return ()

/-- An acquire at SYSTEM scope whose reads have been answered: the die applies every write that has performed (R310). -/
def acquireReads (scope : Nat) : M Unit := do
  let c ← myNumber
  if scope = 4 then modify fun s => s.drainInbox (dieOf c) else return ()

/-- Checks row r of a copy on both sides, reads it whole, and hands its parts to the channel, target by target (R225 to R228). Where both
sides fail, the trap is that of the destination's alignment, the source's alignment, the source's translation, the destination's
translation, the alignment of DESC rows, then the rules of the lines written: the spec gives no order (DESIGN CHOICE, log entry 77). -/
def copyRow (e : VEntry) (ctl : CopyCtl) (r : Nat) : M Unit := do
  let c ← myNumber
  let x := e.ctx c
  let len := copyRowLen e.op
  let off := (r : Int) * sint 32 e.opd.toNat
  let dv := vaOf (e.opa.toNat + off)
  if dv % 16 ≠ 0 then raise (misaligned dv true)
  else
    let src ← copySource x e r len
    let found ← (copyTargets e.op).mapM fun t => do return (t, ← targetParts x t e.opa.toNat off len)
    descAligned src (found.flatMap Prod.snd) dv
    let before ← get
    found.forM fun q => checkParts x dv src.descAt q.2 0
    let src := src.refresh before (← get)
    let row ← readSource x len src
    if ctl.acq then acquireReads ctl.scope else pure ()
    let ps ← found.mapM fun q => rowParts x (match q.1 with | some k => clusterOf c * 4 + k | none => c) dv row src.descAt q.2 0
    sendParts c ctl.ch (found.any fun q => q.2.any fun p => p.q.isGlaze) ps.flatten

/-- The checks a copy makes when it reaches its channel (R225). -/
def copyBad (s : State) (c : Nat) (e : VEntry) (ctl : CopyCtl) : Bool :=
  let masked := fun (m : BitVec 4) => m != 0 && !inCorePad e.opa.toNat && !inCluster e.opa.toNat
  (match e.op with
    | .cpym x => x.mmask == 0 || masked x.mmask
    | .cpykv x => masked x.mmask
    | _ => false)
    || (ctl.bar != 0 && (s.barrierIdx (dieOf c) ctl.bar).isNone)

/-! ## XRED (R233, R391) -/

/-- The bytes of one row of an XRED. -/
def xredRowLen (x : XredF) (e : VEntry) : Nat := e.nc * x.ty.width / 8

/-- The trap of a round that fails (R367, R391). -/
def roundTrap (group round : Nat) : Trap := faultOf 27 0 (round * 2 ^ 16 + group)

/-- The address of row r of an XRED. -/
def xredAt (base : Word) (f : XredF) (e : VEntry) (r : Nat) : Nat := vaOf (base.toNat + r * xredRowLen f e : Nat)

/-- The parts of the rows of an XRED from a base address (R233). -/
def xredRows (x : Ctx) (acc : Acc) (base : Word) (f : XredF) (e : VEntry) : M (List (List Part)) :=
  (List.range e.nr).mapM fun r => partsOf x acc (xredAt base f e r) (xredRowLen f e)

/-- The destination of an XRED, checked in full (R233): the lines of glaze pages that it will write are inserted. -/
def xredDest (x : Ctx) (f : XredF) (e : VEntry) : M (List (List Part)) := do
  let dest ← xredRows x .write e.opa f e
  dest.zipIdx.forM fun q => checkParts x (xredAt e.opa f e q.2) (fun _ => none) q.1 0
  return dest

/-- Whether this device is a member of a group: its rank names a place of the list (R391). -/
def isMember (g : CollGroup) : Bool := decide (g.rank < g.members.length)

/-- Since when a round has waited for its members (R391): this device's contribution is the first, or one of another member came
before it, at a time that the model leaves free. -/
def roundStart (g : CollGroup) : M Nat := do
  let now := (← get).dtime
  if g.members.length ≤ 1 then return now
  else return now - (← drawChoice (g.timeoutUs * 1000 + 1))

/-- The XRED that an entry is, where it names a round. -/
def xredFor (q : Round) (e : VEntry) : Option XredF :=
  match e.op with
  | .xred f => if e.opd.toNat % 2 ^ 16 = q.group ∧ bits e.opd.toNat 47 16 = q.round then some f else none
  | _ => none

/-- Whether a copy in some channel waits for a round that it has contributed to. -/
def State.roundHeld (s : State) (q : Round) : Bool :=
  s.cores.any fun k => k.chans.toList.any fun ch => ch.copies.any fun e => e.prog.block == 1 && (xredFor q e).isSome

/-- An XRED contributes its rows to its round (R233, R391). One that is issued again after a fault of its delivery (R230) has contributed
already, and goes on waiting for its round. -/
def xredSend (f : XredF) (e : VEntry) : M Unit := do
  let c ← myNumber
  let x := e.ctx c
  let group := e.opd.toNat % 2 ^ 16
  let round := bits e.opd.toNat 47 16
  if f.ty.capacity < e.nc ∨ 65536 < e.nr * xredRowLen f e then raise shapeTrap
  else if e.opa.toNat % 64 ≠ 0 then raise (misaligned e.opa.toNat true)
  else if e.opb.toNat % 64 ≠ 0 then raise (misaligned e.opb.toNat false)
  else
    let src ← xredRows x .read e.opb f e
    let before ← get
    let _ ← xredDest x f e
    let after ← get
    let rows ← src.mapM fun ps => readParts x (ps.map fun p => p.refresh before after)
    if f.acq then acquireReads (scopeNum f.scope) else pure ()
    let s ← get
    match s.groups.find? fun g => g.id == group with
    | none => raise (roundTrap group round)
    | some g =>
      if !isMember g ∨ s.doneRounds.any (fun q => q.1 == group && decide (round ≤ q.2)) then raise (roundTrap group round)
      else
      match s.rounds.find? fun q => q.group == group && q.round == round with
      | some q =>
        if s.roundHeld q then await
        else modify fun s => { s with rounds := s.rounds.map fun p => if p = q then { q with local_ := some (c, f.ch.toNat) } else p }
      | none =>
        let q : Round := { group := group, round := round, start := ← roundStart g, local_ := some (c, f.ch.toNat),
                           parts := [(g.rank, rows)] }
        modify fun s => { s with rounds := s.rounds ++ [q] }

/-! ## Channels -/

/-- Changes the copy at the head of a channel. -/
def setCopyProg (ch row block : Nat) : M Unit := modMe fun k => k.updChan ch fun c =>
  match c.copies with
  | [] => c
  | e :: rest => { c with copies := { e with prog := { row := row, col := 0, block := block } } :: rest }

/-- Whether a channel other than `ch` holds a copy older than an entry. -/
def Core.olderCopies (k : Core) (ch seq : Nat) : Bool :=
  (List.range 4).any fun i => i != ch && (k.chan i).copies.any fun q => decide (q.seq < seq)

/-- Whether a copy is an acquire whose source reads have not all been answered (R229, R310). -/
def VEntry.unread (e : VEntry) : Bool :=
  match copyCtl e.op with
  | none => false
  | some ctl => ctl.acq && match e.op with
    | .xred _ => decide (e.prog.block = 0)
    | _ => decide (e.prog.row < e.nr) && copyRowLen e.op != 0

/-- Whether a channel other than `ch` holds an acquire older than an entry that later accesses wait for. -/
def Core.olderAcquire (k : Core) (ch seq : Nat) : Bool :=
  (List.range 4).any fun i => i != ch && (k.chan i).copies.any fun q => decide (q.seq < seq) && q.unread

/-- What the release of a copy waits for once its own deliveries have performed (R229, R309): every older copy, the scalar stores, the
crust commands that carry REL, and at SYSTEM scope the acknowledgements of other devices. -/
def copyRelease (e : VEntry) (ch scope : Nat) : M Unit := do
  let c ← myNumber
  if (← get).me.olderCopies ch e.seq then await
  else
    modify fun s => (if scope = 0 then s.commitAll c else s.flushSb c).crustRel c
    if scope = 4 then modify fun s => s.ackFabric c fun _ => true else return ()

/-- Ends a copy: the release it makes, and its arrival, which carries one at CLUSTER scope or wider (R229, R231). -/
def finishCopy (e : VEntry) (ctl : CopyCtl) : M Unit := do
  let c ← myNumber
  if ctl.rel then copyRelease e ctl.ch ctl.scope else pure ()
  if ctl.bar = 0 then return ()
  else
    copyRelease e ctl.ch (max 1 ctl.scope)
    modify fun s => (s.arrive c (s.barrierIdx (dieOf c) ctl.bar)).1

/-- What a copy with ACQ waits for before its first source read (R229): every older store of the core, deliveries of older copies
included. -/
def copyAcquire (e : VEntry) (ctl : CopyCtl) : M Unit := do
  let c ← myNumber
  if (← get).me.olderCopies ctl.ch e.seq then await
  else
    modify fun s => s.flushSb c
    if (← getMe).sb.any fun w => decide (w.seq < e.seq) then await else return ()

/-- A fault stops a channel (R230). -/
def stopChan (ch : Nat) (t : Trap) : M Unit := modMe fun k => k.updChan ch fun q => { q with stopped := some t }

/-- Whether a copy has delivered everything. -/
def VEntry.copyDone (e : VEntry) : Bool :=
  match e.op with
  | .xred _ => decide (e.prog.block = 2)
  | _ => decide (e.nr ≤ e.prog.row) || copyRowLen e.op == 0

/-- A copy that has delivered everything leaves its channel. -/
def leaveChan (e : VEntry) (ctl : CopyCtl) : M Unit := do
  finishCopy e ctl
  modMe fun k => (k.updChan ctl.ch fun q => { q with copies := q.copies.drop 1 }).clearVstart

/-- The head copy of a channel checks its next row and delivers the first part, or contributes (R226, R233). An XRED with NR = 0 or NC = 0
checks neither shape nor alignment and contributes nothing, and still makes its release and its arrival: R226 says so of the other copies
alone (DESIGN CHOICE, log entry 78). -/
def copyNext (e : VEntry) (ctl : CopyCtl) : M Unit := do
  let stopping := fun (m : M Unit) => tryCatch m fun h => match h with
    | .trap t => stopChan ctl.ch t
    | .wait => throw .wait
  match e.op with
  | .xred f =>
    if e.nr = 0 ∨ e.nc = 0 then setCopyProg ctl.ch 0 2
    else if e.prog.block = 0 then stopping (do allOrNothing (xredSend f e); setCopyProg ctl.ch 0 1)
    else await
  | _ => do
    stopping (do
      allOrNothing (copyRow e ctl e.prog.row)
      setCopyProg ctl.ch (e.prog.row + 1) 0)
    deliverNext ctl.ch

/-- One step of a channel of the executing core: the row being delivered writes its next part, or the head copy goes on or ends (R221,
R222, R226). A fault stops the channel (R230). A copy reaches its channel, and makes the checks of that point (R225), when it is the
oldest there and about to start (DESIGN CHOICE, log entry 79). -/
def chanStep (ch : Nat) : M Unit := do
  let k ← getMe
  match (k.chan ch).copies, (k.chan ch).stopped, (k.chan ch).row with
  | [], _, _ => return ()
  | _, some _, _ => await
  | _ :: _, none, _ :: _ => deliverNext ch
  | e :: _, none, [] =>
    match copyCtl e.op with
    | none => modMe fun k => k.updChan ch fun c => { c with copies := c.copies.drop 1 }
    | some ctl =>
      if copyBad (← get) (← myNumber) e ctl && e.prog.row == 0 && e.prog.block == 0 then stopChan ch shapeTrap
      else if k.olderAcquire ch e.seq then await
      else
        if ctl.acq && e.prog.row == 0 && e.prog.block == 0 then copyAcquire e ctl else pure ()
        if e.copyDone then leaveChan e ctl else copyNext e ctl

/-- The channels that hold copies and are not stopped, the one with the oldest head first. -/
def Core.oldestFirst (k : Core) : List Nat :=
  ((List.range 4).filterMap fun i =>
    match (k.chan i).copies, (k.chan i).stopped with
    | e :: _, none => some (e.seq, i)
    | _, _ => none).foldl insertBySeq [] |>.map Prod.snd
where
  /-- Puts a pair into a list that rises by the first part. -/
  insertBySeq (l : List (Nat × Nat)) (q : Nat × Nat) : List (Nat × Nat) :=
    l.takeWhile (fun p => decide (p.1 < q.1)) ++ q :: l.dropWhile fun p => decide (p.1 < q.1)

/-- An upper bound on the steps that a copy takes: a row has at most four targets, and a part in each line it touches. -/
def VEntry.copySteps (e : VEntry) : Nat :=
  let len := match e.op with
    | .xred f => xredRowLen f e
    | o => copyRowLen o
  e.nr * (4 * (len / 64 + 2) + 1) + 3

/-- An upper bound on the steps that a core's copies take. -/
def Core.copyFuel (k : Core) : Nat :=
  (List.range 4).foldl (fun n i => (k.chan i).copies.foldl (fun n e => n + e.copySteps) n) 1

/-- The first channel of a list that can move makes one step; answers whether one did. -/
def copyMove : List Nat → M Bool
  | [] => return false
  | ch :: rest => do
    let ok ← tryCatch (do chanStep ch; return true) fun h => match h with
      | .wait => return false
      | .trap t => throw (.trap t)
    if ok then return true else copyMove rest

/-- Lets a core's copies run, the oldest first, until none is left that can move or the test holds. -/
def runCopiesUntil (test : Core → Bool) : Nat → M Unit
  | 0 => return ()
  | fuel + 1 => do
    let k ← getMe
    if test k then return ()
    else
      let ok ← copyMove k.oldestFirst
      if ok then runCopiesUntil test fuel else return ()

/-- Lets a core's copies run until none is left that can move. -/
def runCopies : Nat → M Unit := runCopiesUntil fun _ => false

/-- Waits until every copy of the core has delivered and made its arrival; a stopped channel or a round that other
devices must complete keeps it waiting (R221, R229). -/
def drainCopies : M Unit := do
  let k ← getMe
  runCopies k.copyFuel
  let k ← getMe
  if (List.range 4).any fun i => !(k.chan i).copies.isEmpty then await else return ()

/-- The number of issued copies of a core. -/
def Core.issued (k : Core) : Nat := (List.range 4).foldl (fun n i => n + (k.chan i).copies.length) 0

/-- A copy at the head of the queue is issued to its channel when the channel has room (R221). -/
def issueCopy (e : VEntry) : M Unit := do
  match copyCtl e.op with
  | none => return ()
  | some ctl =>
    let k ← getMe
    if Config.channelCopies ≤ (k.chan ctl.ch).copies.length then
      chanStep ctl.ch
      let k ← getMe
      if Config.channelCopies ≤ (k.chan ctl.ch).copies.length then await else push ctl.ch
    else push ctl.ch
where
  /-- Puts the copy at the end of its channel. -/
  push (ch : Nat) : M Unit := modMe fun k => k.updChan ch fun c => { c with copies := c.copies ++ [e] }

/-- CPWAIT (R234): once the pointer has reached x[A], an acquire of the deliveries that brought those bytes. -/
def vexecCpwait (x : CpwF) (e : VEntry) : M Unit := do
  let ch := x.ch.toNat
  let there := fun (k : Core) => decide (e.opa.toNat ≤ (k.cpwp.getD ch 0).toNat)
  let k ← getMe
  if there k then pure () else runCopiesUntil there k.copyFuel
  let k ← getMe
  if there k then modMe fun k => { k with ck := k.ck.join (k.streamCk ch e.opa.toNat) } else await

end Sys2Proof.Machine
end

