-- ==== Sys2Proof/Machine/Release.lean ====
section
/-! DEFINITION. Releases and acquires (R309, R310, R316), and the entries that carry them: barriers, the iteration ring, KVLEN
and KVINV (R172, R173, R328 to R336). -/
namespace Sys2Proof.Machine

open Sys2Proof

/-! ## Scopes (R307, R311) -/

/-- The agents that a scope may contain (R307). -/
inductive Agent where
  | core (c : Nat)
  | queueOf (c : Nat)
  | channelOf (c : Nat)
  | engineOf (cluster : Nat)
  | sliceOf (die : Nat)
  | glazeUnitOf (die : Nat)
  | walkerOf (die : Nat)
  | crustOf (stack : Nat)
  | collective
  | otherDevice
  | host
  deriving DecidableEq, Repr

/-- The core an agent belongs to, where it belongs to one. -/
def Agent.coreOf (a : Agent) : Option Nat :=
  match a with
  | .core c | .queueOf c | .channelOf c => some c
  | _ => none

/-- The die that an agent stands on, where it stands on one below the crusts. -/
def Agent.dieOf (a : Agent) : Option Nat :=
  match a with
  | .core c | .queueOf c | .channelOf c => some (Machine.dieOf c)
  | .engineOf m => some (Machine.dieOf (4 * m))
  | .sliceOf d | .glazeUnitOf d | .walkerOf d => some d
  | _ => none

/-- Whether a scope of core c contains an agent (R307). -/
def inScope (scope : Scope) (c : Nat) (a : Agent) : Bool :=
  match scope with
  | .core => a.coreOf == some c
  | .cluster => (a.coreOf.map clusterOf) == some (clusterOf c) || a == .engineOf (clusterOf c)
  | .die => a.dieOf == some (Machine.dieOf c)
  | .device => a != .otherDevice && a != .host
  | .system => true

/-- Whether a release of core p and an acquire of core q match (R311). -/
def scopesMatch (p : Nat) (rel : Scope) (q : Nat) (acq : Scope) : Bool := inScope rel p (.core q) && inScope acq q (.core p)

/-! ## Releases -/

/-- A release at a scope, when everything older in the queue has completed (R309): the copies deliver, the scalar stores
leave the core or perform, and the crust commands that carry REL perform; at SYSTEM scope the writes to other devices
are acknowledged too. -/
def releaseWrites (scope : Nat) : M Unit := do
  drainCopies
  let c ← myNumber
  modify fun s => (if scope = 0 then s.commitAll c else s.flushSb c).crustRel c
  if scope = 4 then modify fun s => s.ackFabric c fun _ => true else return ()

/-- DEVICE scope (R307). -/
def deviceScope : Nat := 3

/-! ## Barriers (R328 to R332) -/

/-- The place of a barrier operand: alignment first (R328). -/
def barrierPlace (x : Ctx) (acc : Acc) (a : Nat) : M Place := do
  if a % 64 ≠ 0 then raise (misaligned a (acc == .write)) else place x acc a

/-- The line of a place, its seal key, and whether it lies in no DESC, VERS or GLZ page (R329). -/
def State.barrierLine (s : State) (x : Ctx) (q : Place) (a : Nat) : Nat × Option Nat × Bool :=
  match q with
  | .pad l => (l / 64, none, true)
  | .page p => let t := s.readTarget x p a; (t.loc / 64, t.key, !pteHasPdb p.leaf.toNat)

/-- BARINIT (R329). -/
def vexecBarinit (f : R3T2) (e : VEntry) : M Unit := do
  let x := e.ctx (← myNumber)
  let q ← barrierPlace x .write e.opa.toNat
  releaseWrites deviceScope
  let s ← get
  let (line, key, plain) := s.barrierLine x q e.opa.toNat
  let (s, status, index) := s.barInit x.core line key plain (bits e.opb.toNat 15 0) (bits e.opb.toNat 37 32)
  set s
  entryX e f.d (word (status * 2 ^ 32 + index))

/-- BARARR (R330). -/
def vexecBararr (f : R2T2) (e : VEntry) : M Unit := do
  let c ← myNumber
  let x := e.ctx c
  let q ← barrierPlace x .read e.opa.toNat
  releaseWrites deviceScope
  let s ← get
  let (s', phase) := s.arrive c (s.barrierAt (s.barrierLine x q e.opa.toNat).1)
  set s'
  entryX e f.d (match phase with | some p => word p | none => BitVec.allOnes 64)

/-- BARWAIT (R331): the states of the entry are tested in the order of the table. One that waits has found its entry, and an event there
releases it. -/
def vexecBarwait (f : R3T2) (e : VEntry) : M Unit := do
  let c ← myNumber
  if (← get).atBarrier c then await
  else
  let x := e.ctx c
  let q ← barrierPlace x .read e.opa.toNat
  let s ← get
  match s.barrierAt (s.barrierLine x q e.opa.toNat).1 with
  | none => entryX e f.d 2
  | some b =>
    if b.phase ≠ e.opb.toNat % 2 ^ 32 then
      modMe fun k => { k with ck := k.ck.join b.clock }
      entryX e f.d 0
    else if b.killed then entryX e f.d 1
    else
      set (s.joinBarrier b c)
      await

/-- BARKILL (R332). -/
def vexecBarkill (f : R2T2) (e : VEntry) : M Unit := do
  let x := e.ctx (← myNumber)
  let q ← barrierPlace x .read e.opa.toNat
  releaseWrites deviceScope
  let s ← get
  match s.barrierAt (s.barrierLine x q e.opa.toNat).1 with
  | none => entryX e f.d (BitVec.allOnes 64)
  | some b =>
    let (s', n) := s.kill x.core b
    set s'
    entryX e f.d (word n)

/-! ## The iteration ring (R336) -/

/-- POST (R336). -/
def vexecPost (e : VEntry) : M Unit := do
  let c ← myNumber
  releaseWrites 2
  modify fun s => s.sendPost c (bits e.opb.toNat 3 0) e.opa

/-- WAITI (R336). -/
def vexecWaiti (f : R3T4) (e : VEntry) : M Unit := do
  let c ← myNumber
  let s ← get
  let ch := bits e.opb.toNat 3 0
  if !s.chanBound (dieOf c) ch then entryX e f.d 1
  else if (s.me.mirror.getD ch 0).slt e.opa then await
  else
    modMe fun k => { k with ck := k.ck.join (k.mirrorCk.getD ch Clock.reset) }
    entryX e f.d 0

/-! ## KVLEN and KVINV (R172, R173) -/

/-- The context of a KV entry's own address. -/
def kvSelf (e : VEntry) (core : Nat) : KvCtx := { die := dieOf core, root := e.kvroot, addr := e.opa.toNat }

/-- KVLEN, read form (R172). -/
def vexecKvlenRead (f : R2T4) (e : VEntry) : M Unit := do
  let c := kvSelf e (← myNumber)
  let ((rec_, _, _), seen) ← kvRecord c
  kvHold c seen
  let len ← kvLen rec_
  entryX e f.d (word len)

/-- KVLEN, set form (R172). Where the walk faults and x[B] is too large as well, the walk's fault is reported: the spec does not order
the two (DESIGN CHOICE, log entry 68). -/
def vexecKvlenSet (f : R3T4) (e : VEntry) : M Unit := do
  let n ← myNumber
  let c := kvSelf e n
  releaseWrites deviceScope
  let ((rec_, _, _), seen) ← kvRecord c
  kvHold c seen
  if 2 ^ 24 < e.opb.toNat then raise (kvTrap false 7 c.addr)
  else
    let len ← kvLen rec_
    modify fun s => s.perform (some n) none rec_ (leBytes 4 e.opb.toNat)
    entryX e f.d (word len)

/-- KVINV (R173), after every earlier store of the core; the deliveries of copies count as such (R229). -/
def vexecKvinv (e : VEntry) : M Unit := do
  drainCopies
  let n ← myNumber
  let all := e.opb.toNat % 4 != 0
  modify fun s =>
    let s := s.flushSb n
    { s with dies := s.dies.map fun d =>
        { d with kv := if all then [] else d.kv.filter fun q => !q.seqIds.contains (kvSeq e.opa.toNat) } }

end Sys2Proof.Machine
end

