-- ==== Sys2Proof/Machine/Crust.lean ====
section
/-! DEFINITION. Crust commands: operand checks, items sent, and the state of the crusts (R188 to R196). -/
namespace Sys2Proof.Machine

open Sys2Proof

/-- An operand of a crust command: its range, whether it is a target, and its alignment (R188). -/
structure CrustOp where
  va : Nat
  n : Nat
  target : Bool
  align : Nat
  deriving DecidableEq, Repr

/-- The kind of access an operand is translated for (R188 check 1). -/
def CrustOp.acc (o : CrustOp) : Acc := if o.target then .write else .read

/-- The NM-boundary trap (R188). -/
def nmTrap (o : CrustOp) (va reason : Nat) : Trap := faultOf 23 va ((if o.target then 0 else 16) + reason)

/-- The first address after the place of an address. -/
def Place.next (q : Place) (va : Nat) : Nat :=
  match q with
  | .pad _ => va / 4096 * 4096 + 4096
  | .page p => p.va + p.size

/-- The places an operand touches, each with the first of its addresses there; `fuel` bounds the pages. -/
def crustPages (x : Ctx) (acc : Acc) : Nat → Nat → Nat → M (List (Nat × Place))
  | 0, _, _ => return []
  | fuel + 1, va, stop => do
    if stop ≤ va then return []
    else
      let q ← place x acc va
      let r ← crustPages x acc fuel (q.next va) stop
      return (va, q) :: r

/-- The places of an operand whose first one is already translated (R99). -/
def CrustOp.pagesFrom (x : Ctx) (o : CrustOp) (q : Place) : M (List (Nat × Place)) := do
  let r ← crustPages x o.acc (o.n / 4096 + 2) (q.next o.va) (o.va + o.n)
  return (o.va, q) :: r

/-- The first place of an operand that is not a page with CC (R188 check 3). -/
def notCc (ps : List (Nat × Place)) : Option Nat :=
  (ps.find? fun q => match q.2 with | .pad _ => true | .page p => !pteCc p.leaf.toNat).map Prod.fst

/-- The page of an operand's first byte. -/
def firstPage (ps : List (Nat × Place)) : Option Page :=
  match ps with
  | (_, .page p) :: _ => some p
  | _ => none

/-- The first failure of one check over the operands in order. -/
def firstFail (os : List (CrustOp × List (Nat × Place))) (f : CrustOp → List (Nat × Place) → Option Trap) : Option Trap :=
  os.findSome? fun q => f q.1 q.2

/-- Raises the first failure of the checks in their order. -/
def raiseFirst (ts : List (Option Trap)) : M Unit :=
  match ts.findSome? id with
  | some t => raise t
  | none => return ()

/-- The lowest line of a range of memory that is registered as a barrier, as an offset into the range, with its index. -/
def State.barrierIn (s : State) (loc n : Nat) : Option (Nat × Nat) :=
  (linesOf loc n).findSome? fun l => (s.barrierAt l).map fun b => (l * 64 - loc, b.index)

/-- Checks 2 to 7 of R188 over operands with their places, the command's own alignment rule and layout rule among them; answers the
physical address of each operand's first byte. Further target ranges, as offsets from the first operand, take part in check 7. -/
def crustVerify (ps : List (CrustOp × List (Nat × Place))) (own : Option Trap) (layout : List Page → Option Trap)
    (more : List (Nat × Nat)) : M (List Nat) := do
  let s ← get
  let pages := ps.filterMap fun q => firstPage q.2
  raiseFirst
    [ firstFail ps fun o _ => if o.va % o.align ≠ 0 then some (misaligned o.va o.target) else none,
      own,
      firstFail ps fun o q => (notCc q).map fun a => nmTrap o a 1,
      firstFail ps fun o q => (firstPage q).bind fun p =>
        if p.va + p.size < o.va + o.n then some (nmTrap o (p.va + p.size) 0) else none,
      layout pages,
      firstFail ps fun o q => (firstPage q).bind fun p =>
        if pteSeal p.leaf.toNat then some (faultOf 24 o.va (if o.target then 0 else 16)) else none,
      firstFail ps fun o q => (firstPage q).bind fun p =>
        if o.target then
          ((0, o.n) :: more).findSome? fun r => (s.barrierIn (p.phys o.va + r.1) r.2).map fun b =>
            faultOf 22 (o.va + r.1 + b.1) b.2
        else none ]
  return (ps.zip pages).map fun q => q.2.phys q.1.1.va

/-- The checks of R188 over the operands. -/
def crustChecks (x : Ctx) (ops : List CrustOp) (layout : List Page → Option Trap) (more : List (Nat × Nat)) : M (List Nat) := do
  let ps ← ops.mapM fun o => do
    let q ← crustPages x o.acc (o.n / 4096 + 2) o.va (o.va + o.n)
    return (o, q)
  crustVerify ps none layout more

/-- The ordering that a crust command carries (R187). -/
structure CrustCtl where
  acq : Bool
  rel : Bool
  scope : Nat
  deriving DecidableEq, Repr

/-- The ordering of a crust command; none for another entry. -/
def crustCtl (o : VecOp) : Option CrustCtl :=
  match o with
  | .nadd x => some { acq := x.acq, rel := x.rel, scope := scopeNum x.scope }
  | .nrowcpy x => some { acq := x.acq, rel := x.rel, scope := scopeNum x.scope }
  | .nzero x => some { acq := x.acq, rel := x.rel, scope := scopeNum x.scope }
  | .ngather x => some { acq := x.acq, rel := x.rel, scope := scopeNum x.scope }
  | .nopt x => some { acq := x.acq, rel := x.rel, scope := scopeNum x.scope }
  | _ => none

/-- The waits of ACQ, and of REL, before the items of a command are sent (R187, R309): the stores of the core perform, copies
included, and for REL the older commands with REL too. -/
def crustOrder (e : VEntry) : M Unit := do
  match crustCtl e.op with
  | none => return ()
  | some ctl =>
    let c ← myNumber
    if ctl.acq || ctl.rel then
      drainCopies
      modify fun s => s.flushSb c
    else pure ()
    if ctl.rel then
      modify fun s => s.crustRel c
      if ctl.scope = 4 then modify fun s => s.ackFabric c fun _ => true else return ()
    else return ()

/-- Sends an item to the crust of the stack that holds its target, with the clock of its core (R187, R317). -/
def sendOne (e : VEntry) (target : Nat) (op : ItemOp) : M Unit := do
  let c ← myNumber
  let ctl := (crustCtl e.op).getD { acq := false, rel := false, scope := 0 }
  modify fun s => s.sendItem target
    { core := c, acq := ctl.acq, rel := ctl.rel, scope := ctl.scope, op := op, clock := s.carried (some c) }

/-! ## The commands (R191 to R196) -/

/-- One row of NADD (R191). -/
def naddRow (f : NaddF) (e : VEntry) (r : Nat) : M Unit := do
  let c ← myNumber
  let k ← getMe
  let rb := 4 * e.nc
  let pitch : Int := if f.b = 0 then rb else sint 64 e.opb.toNat
  let va := vaOf (e.opa.toNat + ((k.row e.wide f.c r).elem .n32 0 : Int) * pitch)
  let locs ← crustChecks (e.ctx c) [{ va := va, n := rb, target := true, align := 4 }] (fun _ => none) []
  let vals := (List.range e.nc).map fun i => BitVec.ofNat 32 ((k.row e.wide f.d r).elem f.ty i)
  sendOne e (locs.headD 0) (.nadd (f.ty == .fp32) (locs.headD 0) vals)

/-- NADD (R191). -/
def vexecNadd (f : NaddF) (e : VEntry) : M Unit := do
  if e.empty then return ()
  else
    illegalWhen (decide (64 < e.nc) || e.regsBad [f.d, f.c])
    crustOrder e
    (liveRows e).forM fun r => atPoint r 0 (naddRow f e r)

/-- NFENCE (R192). -/
def vexecNfence (f : R1T4) (e : VEntry) : M Unit := do
  let c ← myNumber
  modify fun s => s.crustAll c
  let k ← getMe
  entryX e f.d (word k.deferred)

/-- NROWCPY (R193). Whether the destination lies below the source is decided on their physical addresses, which the spec does not say
(DESIGN CHOICE, log entry 69). -/
def vexecNrowcpy (f : NcpyF) (e : VEntry) : M Unit := do
  let n := f.count.toNat
  if n = 0 then return ()
  else
    let c ← myNumber
    crustOrder e
    let locs ← crustChecks (e.ctx c)
      [{ va := e.opa.toNat, n := 64 * n, target := true, align := 64 }, { va := e.opb.toNat, n := 64 * n, target := false, align := 64 }]
      (fun _ => none) []
    let dst := locs.getD 0 0
    let src := locs.getD 1 0
    let order := if src < dst then (List.range n).reverse else List.range n
    order.forM fun i => sendOne e dst (.copyLine (src + 64 * i) (dst + 64 * i))

/-- NZERO (R193). -/
def vexecNzero (f : NzeroF) (e : VEntry) : M Unit := do
  let n := f.count.toNat
  if n = 0 then return ()
  else
    let c ← myNumber
    crustOrder e
    let locs ← crustChecks (e.ctx c) [{ va := e.opa.toNat, n := 64 * n, target := true, align := 64 }] (fun _ => none) []
    (List.range n).forM fun i => sendOne e (locs.headD 0) (.zeroLine (locs.headD 0 + 64 * i))

/-- A stride-pattern entry: element size, elements per column and bytes between rows (R194). -/
structure Pattern where
  size : Nat
  run : Nat
  stride : Nat
  deriving DecidableEq, Repr

/-- Reads entry p of a crust's stride-pattern table (R194). -/
def State.pattern (s : State) (stack p : Nat) : Pattern :=
  let w := ((s.crust stack).patterns.getD p 0).toNat
  { size := 2 ^ bits w 49 48, run := bits w 47 32, stride := bits w 31 0 }

/-- The entry of the table of the crust that a source lies at; of stack 0 where it lies at none (R194). -/
def State.patternAt (s : State) (q : Place) (va p : Nat) : Pattern :=
  s.pattern (match q with | .page g => stackOf (g.phys va) | .pad _ => 0) p

/-- The offset of element j from the source base (R194). -/
def Pattern.offset (p : Pattern) (j : Nat) : Nat := j % p.run * p.stride + j / p.run * p.size

/-- The size of the source range of `cnt` elements, which is not zero (R194). -/
def Pattern.span (p : Pattern) (cnt : Nat) : Nat :=
  if p.run = 0 then p.size
  else
    let last := p.offset (cnt - 1)
    let tall := if p.run < cnt then (p.run - 1) * p.stride + ((cnt - 1) / p.run - (if cnt % p.run = 0 then 0 else 1)) * p.size else 0
    max last tall + p.size

/-- The lowest misaligned element of a source (R188 check 2). -/
def Pattern.misplaced (p : Pattern) (va cnt : Nat) : Option Nat :=
  if va % p.size ≠ 0 then some va
  else if 1 < p.run ∧ 1 < cnt ∧ p.stride % p.size ≠ 0 then some (va + p.stride)
  else none

/-- NGATHER (R194). The trap of a pattern with RUN = 0 names the first byte of the source, with OPERAND 1; checks 1 to 4 then cover one
element of the source, and a source in pad space, which is at no crust, is checked for alignment by stack 0's entry: the spec says none
of the three (DESIGN CHOICE, log entry 70). -/
def vexecNgather (f : NgatherF) (e : VEntry) : M Unit := do
  let n := f.count.toNat
  if n = 0 then return ()
  else
    let c ← myNumber
    let x := e.ctx c
    crustOrder e
    let dop : CrustOp := { va := e.opa.toNat, n := 64 * n, target := true, align := 64 }
    let ds ← crustPages x .write (dop.n / 4096 + 2) dop.va (dop.va + dop.n)
    let first ← place x .read e.opb.toNat
    let p := (← get).patternAt first e.opb.toNat f.pat.toNat
    let cnt := n * 64 / p.size
    let sop : CrustOp := { va := e.opb.toNat, n := p.span cnt, target := false, align := 1 }
    let ss ← sop.pagesFrom x first
    let locs ← crustVerify [(dop, ds), (sop, ss)] ((p.misplaced sop.va cnt).map fun a => misaligned a false)
      (fun _ => if p.run = 0 then some (nmTrap sop sop.va 3) else none) []
    let dst := locs.getD 0 0
    let src := locs.getD 1 0
    (List.range cnt).forM fun j => sendOne e dst (.gatherElem (src + p.offset j) (dst + j * p.size) p.size)

/-- NOPT (R195). -/
def vexecNopt (f : NoptF) (e : VEntry) : M Unit := do
  let n := f.count.toNat
  if n = 0 then return ()
  else
    let c ← myNumber
    crustOrder e
    let wop : CrustOp := { va := e.opa.toNat, n := 64 * n, target := true, align := 64 }
    let gop : CrustOp := { va := e.opb.toNat, n := 64 * n, target := false, align := 64 }
    let upper := fun (ps : List Page) => (ps.head?).bind fun p =>
      if p.va + 2 ^ 20 < wop.va + wop.n then some (nmTrap wop (max wop.va (p.va + 2 ^ 20)) 2) else none
    let locs ← crustChecks (e.ctx c) [wop, gop] upper [(2 ^ 20, 64 * n)]
    let w := locs.getD 0 0
    let g := locs.getD 1 0
    let lr := BitVec.ofNat 32 e.opd.toNat
    let mu := BitVec.ofNat 32 (e.opd.toNat / 2 ^ 32)
    (List.range n).forM fun i => sendOne e w (.noptLine (w + 64 * i) (g + 64 * i) lr mu)

/-- A counter that stops at all ones. -/
def capCount (n : Nat) : Nat := min n (2 ^ 64 - 1)

/-- NSTAT (R196). The memory-side cache is not part of the model, so its hits and misses since reset are free values that
never fall. -/
def vexecNstat (f : R3T4) (e : VEntry) : M Unit := do
  let k := e.opa.toNat % 8
  let sel := e.opb.toNat
  let s ← get
  let old := fun i : Nat => (s.crust k).patterns.getD i 0
  if sel = 0 then entryX e f.d (word s.carveC)
  else if sel = 1 then entryX e f.d (word s.interI)
  else if sel = 2 then entryX e f.d (word s.sealG)
  else if sel = 3 then entryX e f.d (word (capCount (s.crust k).corrected))
  else if sel = 4 then entryX e f.d (word (capCount (s.crust k).uncorrectable))
  else if sel = 5 then
    let w ← drawWord
    let n := capCount ((s.crust k).hits + w.toNat)
    modify fun s => s.updCrust k fun c => { c with hits := n }
    entryX e f.d (word n)
  else if sel = 6 then
    let w ← drawWord
    let n := capCount ((s.crust k).misses + w.toNat)
    modify fun s => s.updCrust k fun c => { c with misses := n }
    entryX e f.d (word n)
  else if 16 ≤ sel ∧ sel < 32 then entryX e f.d (old (sel - 16))
  else if 32 ≤ sel ∧ sel < 48 then
    if e.sup then
      modify fun s => s.updCrust k fun c => { c with patterns := c.patterns.set! (sel - 32) (e.opd &&& word (2 ^ 50 - 1)) }
    else pure ()
    entryX e f.d (old (sel - 32))
  else entryX e f.d (BitVec.allOnes 64)

end Sys2Proof.Machine
end

