-- ==== Sys2Proof/Machine/Permute.lean ====
section
/-! DEFINITION. The effects of permutation and special-function entries (R273 to R278). -/
namespace Sys2Proof.Machine

open Sys2Proof

/-- The active columns of row r, in ascending order. -/
def Core.activeCols (k : Core) (e : VEntry) (m : MaskReg) (r : Nat) : List Nat :=
  (List.range e.nc).filter fun c => k.active e m r c

/-- What element (r, c) of the destination receives: raw bits, or nothing (R274). -/
def permElem (o : PermOp) (k : Core) (e : VEntry) (x : VTyCF) (r c : Nat) : Option Nat :=
  let a := fun r c => (k.row e.wide x.a r).elem x.ty c
  let on := k.active e x.k r c
  let s := e.opb.toNat
  match o with
  | .compress => (k.activeCols e x.k r)[c]?.map fun j => a r j
  | .expand => if on then some (a r ((k.activeCols e x.k r).filter fun j => decide (j < c)).length) else none
  | .slideUp => if on && decide (s ≤ c) then some (a r (c - s)) else none
  | .slideDn => if on then some (if c + s < e.nc then a r (c + s) else 0) else none
  | .trans => if on then some (a c r) else none
  | .permc =>
    if on then
      let i := (k.row e.wide x.c r).elem x.ty c
      some (if i < e.nc then a r i else 0)
    else none
  | .bcast =>
    if on then
      let s0 := s % 2 ^ 32
      let t0 := s / 2 ^ 32
      some (a (if s0 = 0xFFFFFFFF then r else s0) (if t0 = 0xFFFFFFFF then c else t0))
    else none

/-- The shape conditions of one permutation beside those of R263 (R274). -/
def permBad (o : PermOp) (e : VEntry) (ty : Ty) : Bool :=
  match o with
  | .trans => decide (rowMax e.wide < e.nc) || decide (ty.capacity < e.nr)
  | .bcast =>
    let s := e.opb.toNat % 2 ^ 32
    let t := e.opb.toNat / 2 ^ 32
    (s != 0xFFFFFFFF && decide (rowMax e.wide ≤ s)) || (t != 0xFFFFFFFF && decide (ty.capacity ≤ t))
  | _ => false

/-- A permutation (R273, R274). -/
def vexecPerm (o : PermOp) (x : VTyCF) (e : VEntry) : M Unit := do
  if e.empty then return ()
  else
    illegalWhen (decide (x.ty.capacity < e.nc) || permBad o e x.ty
      || e.regsBad (if o = .permc then [x.d, x.a, x.c] else [x.d, x.a]))
    modMe fun k => k.writeElems e x.d x.ty fun r c => (permElem o k e x r c).map fun v => (v, 0)

/-- VSINCOS (R276): the sine is written last. -/
def vexecSinCos (x : SinCosF) (e : VEntry) : M Unit := do
  if e.empty then return ()
  else
    illegalWhen (decide (64 < e.nc) || e.regsBad [x.d, x.a, x.b])
    modMe fun k =>
      let g := fun (wantSin : Bool) r c =>
        if k.active e x.k r c then some (fTurn fmtFp32 e.rm wantSin ((k.row e.wide x.a r).elem .n32 c)) else none
      (k.writeElems e x.d .fp32 (g false)).writeElems e x.b .fp32 (g true)

/-- VGUMBEL (R278). -/
def vexecGumbel (x : VTyF) (e : VEntry) : M Unit := do
  if e.empty then return ()
  else
    illegalWhen (decide (64 < e.nc) || e.regsBad [x.d, x.a])
    modMe fun k => k.writeElems e x.d .fp32 fun r c =>
      if k.active e x.k r c then some (fGumbel ((k.row e.wide x.a r).elem .n32 c)) else none

/-- VHASH (R277). -/
def vexecHash (x : VTyBF) (e : VEntry) : M Unit := do
  if e.empty then return ()
  else
    illegalWhen (decide (64 < e.nc) || e.regsBad [x.d, x.a, x.b])
    modMe fun k => k.writeElems e x.d .n32 fun r c =>
      if k.active e x.k r c then
        some (crumb ((k.row e.wide x.a r).elem .n32 c) ((k.row e.wide x.b r).elem .n32 c), 0)
      else none

end Sys2Proof.Machine
end

