-- ==== Sys2Proof/Machine/Reduce.lean ====
section
/-! DEFINITION. The effects of reduction entries: the tree of 64 virtual lanes (R270 to R272). -/
namespace Sys2Proof.Machine

open Sys2Proof

/-- A value with its index along the reduced dimension. -/
abbrev Ranked := Nat × Nat

/-- How two raw elements of a type order: integers by value, floating-point values with -0 below +0 (R272). -/
def elemOrder (ty : Ty) (a b : Nat) : Ordering :=
  if ty.isFp then cmpSigned ((fpFmt ty).decode a) ((fpFmt ty).decode b)
  else compare (intElem ty a) (intElem ty b)

/-- Whether a raw element of a type is a NaN. -/
def elemNan (ty : Ty) (a : Nat) : Bool := ty.isFp && (fpFmt ty).decode a == .nan

/-- The larger (`wantMax`) or smaller of two elements, the first where they are equal. -/
def pickElem (ty : Ty) (wantMax : Bool) (a b : Ranked) : Ranked :=
  match elemOrder ty a.1 b.1 with
  | .lt => if wantMax then b else a
  | .gt => if wantMax then a else b
  | .eq => if b.2 < a.2 then b else a

/-- comb of R272. -/
def redComb (o : RedOp) (ty : Ty) (mode : Mode) (sat : Bool) (a b : Ranked) : Ranked × FlagSet :=
  let f := fpFmt ty
  match o with
  | .sum =>
    if ty.isFp then let q := fAdd f mode false (f.decode a.1) (f.decode b.1); ((q.1, a.2), q.2)
    else let q := wrapTo ty sat (intElem ty a.1 + intElem ty b.1); ((q.1, a.2), q.2)
  | .max | .min =>
    if elemNan ty a.1 || elemNan ty b.1 then ((f.nanBits, a.2), fNV)
    else (pickElem ty (o == .max) a b, 0)
  | .argmax | .argmin =>
    match elemNan ty a.1, elemNan ty b.1 with
    | true, true => (if b.2 < a.2 then b else a, 0)
    | true, false => (a, 0)
    | false, true => (b, 0)
    | false, false => (pickElem ty (o == .argmax) a b, 0)
  | .and => ((Nat.land a.1 b.1, a.2), 0)
  | .or => ((Nat.lor a.1 b.1, a.2), 0)

/-- A lane: absent, or a ranked value; with the flags so far. -/
abbrev Lane := Option Ranked × FlagSet

/-- Combines two lanes (R271). -/
def joinLanes (comb : Ranked → Ranked → Ranked × FlagSet) (a b : Lane) : Lane :=
  match a.1, b.1 with
  | none, y => (y, a.2 ||| b.2)
  | x, none => (x, a.2 ||| b.2)
  | some x, some y => let q := comb x y; (some q.1, a.2 ||| b.2 ||| q.2)

/-- The lane i of 64 after the pre-combination of the n elements (R271). -/
def preLane (comb : Ranked → Ranked → Ranked × FlagSet) (n : Nat) (x : Nat → Option Nat) (i : Nat) : Lane :=
  ((List.range n).filter fun j => j % 64 == i).foldl (fun l j => joinLanes comb l ((x j).map fun v => (v, j), 0)) (none, 0)

/-- Halves the lanes until one is left (R271). -/
def foldLanes (comb : Ranked → Ranked → Ranked × FlagSet) : Nat → List Lane → List Lane
  | 0, l => l
  | k + 1, l => foldLanes comb k (List.zipWith (joinLanes comb) (l.take (2 ^ k)) (l.drop (2 ^ k)))

/-- The reduction of n elements (R271). -/
def reduceTree (comb : Ranked → Ranked → Ranked × FlagSet) (n : Nat) (x : Nat → Option Nat) : Lane :=
  (foldLanes comb 6 ((List.range 64).map (preLane comb n x))).headD (none, 0)

/-- The result a reduction writes, with its flags (R272): a NaN is written as the canonical NaN. -/
def reduceResult (o : RedOp) (ty : Ty) (mode : Mode) (sat : Bool) (n : Nat) (x : Nat → Option Nat) :
    Option (Nat × FlagSet) :=
  let l := reduceTree (redComb o ty mode sat) n x
  l.1.map fun q =>
    match o with
    | .argmax | .argmin =>
      (q.2, if (List.range n).any fun j => ((x j).map (elemNan ty)).getD false then fNV else 0)
    | .max | .min => if elemNan ty q.1 then ((fpFmt ty).nanBits, l.2 ||| fNV) else (q.1, l.2)
    | _ => if elemNan ty q.1 then ((fpFmt ty).nanBits, l.2) else (q.1, l.2)

/-- The type a reduction writes (R270). -/
def RedOp.resultTy (o : RedOp) (ty : Ty) : Ty :=
  match o with
  | .argmax | .argmin => .n32
  | _ => ty

/-- A reduction (R270). -/
def vexecRed (o : RedOp) (x : RedF) (e : VEntry) : M Unit := do
  if e.empty then return ()
  else
    illegalWhen (decide (x.ty.capacity < e.nc) || (x.col && decide (64 < e.nc) && (o == .argmax || o == .argmin)) || e.regsBad [x.d, x.a])
    modMe fun k =>
      let src := fun r c => if k.active e x.k r c then some ((k.row e.wide x.a r).elem x.ty c) else none
      k.writeElems e x.d (o.resultTy x.ty) fun r c =>
        if x.col then (if r = 0 then reduceResult o x.ty e.rm x.sat e.nr (fun j => src j c) else none)
        else if c = 0 then reduceResult o x.ty e.rm x.sat e.nc (fun j => src r j)
        else none

end Sys2Proof.Machine
end

