-- ==== Sys2Proof/Machine/Shape.lean ====
section
/-! DEFINITION. The effects of the entries that move one element, change the shape, or compute masks (R259 to R261). -/
namespace Sys2Proof.Machine

open Sys2Proof

/-- Element (r, c) of a position operand: the column in [63:32] and the row in [31:0] (R256). -/
def posRow (b : Word) : Nat := b.toNat % 2 ^ 32
/-- The column of a position operand. -/
def posCol (b : Word) : Nat := b.toNat / 2 ^ 32

/-- Clears DIRTY and VROWS of every register (R240, R259). -/
def Core.clean (k : Core) : Core := { k with dirty := 0, vrows := Vector.replicate 32 0 }

/-- VSHAPE at the head of the queue (R259): a new shape leaves every register unpredictable and clean. -/
def vexecShape (wide : Bool) (_e : VEntry) : M Unit := do
  let k ← getMe
  if k.wideFile = wide then return ()
  else
    let seed ← drawSeed
    modMe fun k => { k.clean with wideFile := wide, vregs := { fill := .free seed, rows := [] } }

/-- VMOVX (R260). -/
def vexecMovx (x : LenF) (e : VEntry) : M Unit := do
  let r := posRow e.opb
  let c := posCol e.opb
  illegalWhen (decide (rowMax e.wide ≤ r) || decide (x.ty.capacity ≤ c) || e.regsBad [x.a])
  let k ← getMe
  let v := (k.row e.wide x.a r).elem x.ty c
  entryX e x.d (if x.ty.isSigned || x.ty == .b24 then sextWord x.ty.width v else word v)

/-- VMOVV (R260). -/
def vexecMovv (x : LenF) (e : VEntry) : M Unit := do
  let r := posRow e.opb
  let c := posCol e.opb
  illegalWhen (decide (rowMax e.wide ≤ r) || decide (x.ty.capacity ≤ c) || e.regsBad [x.d])
  modMe fun k => k.setRow e.wide x.d r
    ((k.row e.wide x.d r).write x.ty [(c, e.opa.toNat)] (plainTag x.ty) (plainExp x.ty))

/-- The mask operations that write a mask from masks (R261). -/
def vexecMask (o : MaskOp) (d a b : MaskReg) (_e : VEntry) : M Unit :=
  modMe fun k =>
    let x := k.mask a
    let y := k.mask b
    k.setMask d (match o with
      | .and => x &&& y
      | .or => x ||| y
      | .xor => x ^^^ y
      | .andn => x &&& ~~~y
      | .not => ~~~x)

/-- The set bits of a mask within the shape of an entry, in element order, as rows and columns. -/
def Core.maskBits (k : Core) (e : VEntry) (m : MaskReg) : List (Nat × Nat) :=
  (List.range e.nr).flatMap fun r => ((List.range e.nc).filter fun c => k.maskBit m r c).map fun c => (r, c)

/-- KPOP (R261). -/
def vexecKpop (x : KxF) (e : VEntry) : M Unit := do
  let k ← getMe
  entryX e x.d (word (k.maskBits e x.a).length)

/-- KFIRST (R261). -/
def vexecKfirst (x : KxF) (e : VEntry) : M Unit := do
  let k ← getMe
  entryX e x.d (match (k.maskBits e x.a).head? with
    | some q => word (q.2 * 2 ^ 32 + q.1)
    | none => BitVec.allOnes 64)

/-- KSET (R261). -/
def vexecKset (x : KsetF) (e : VEntry) : M Unit :=
  modMe fun k => k.setMask x.d (maskOf e.nr e.nc fun r c => decide (r * e.nc + c < e.opa.toNat))

end Sys2Proof.Machine
end

