-- ==== Sys2Proof/Machine/Matrix.lean ====
section
/-! DEFINITION. The matrix engine: grants, operand slots, MMAs and accumulators (R280 to R303). -/
namespace Sys2Proof.Machine

open Sys2Proof

/-! ## Slots and tiles -/

/-- Row r of a slot; an unlisted row is as a claim leaves it. -/
def Mxe.slotRow (m : Mxe) (slot r : Nat) : VRow := (rowFind m.rows.rows (slot * 128 + r)).getD voidRow

/-- Writes row r of a slot. -/
def Mxe.setSlotRow (m : Mxe) (slot r : Nat) (v : VRow) : Mxe :=
  { m with rows := { m.rows with rows := rowPut false m.rows.rows (slot * 128 + r) v } }

/-- The slot of a number. -/
def Mxe.slot (m : Mxe) (n : Nat) : Slot := m.slots.getD n { owner := none, layout := 0 }

/-- A slot with its owner replaced and everything in it as a claim leaves it (R284). -/
def Mxe.resetSlot (m : Mxe) (n : Nat) (owner : Option Nat) : Mxe :=
  { m with slots := m.slots.set! n { owner := owner, layout := 0 }
           rows := { m.rows with rows := m.rows.rows.filter fun q => q.1 / 128 != n } }

/-- Sets LAYOUT of a slot. -/
def Mxe.setLayout (m : Mxe) (n : Nat) (l : BitVec 2) : Mxe :=
  { m with slots := m.slots.set! n { m.slot n with layout := l } }

/-- The row groups a core of the cluster holds, ascending (R280). -/
def Mxe.held (m : Mxe) (k : Nat) : List Nat := (List.range 4).filter fun g => m.groups.getD g none == some k

/-- ROWS of a core's grant (R280). -/
def Mxe.rowsOf (m : Mxe) (k : Nat) : Nat := 32 * (m.held k).length

/-- The tiles of a core. -/
def Mxe.acc (m : Mxe) (k : Nat) : Accs := m.accs.getD k { cells := [], dirty0 := false, dirty1 := false }

/-- Changes the tiles of a core. -/
def Mxe.updAcc (m : Mxe) (k : Nat) (f : Accs → Accs) : Mxe := { m with accs := m.accs.set! k (f (m.acc k)) }

/-- The number of element (r, n) of a tile. -/
def accPos (tile : Bool) (r n : Nat) : Nat := (if tile then 2 ^ 14 else 0) + 128 * r + n

/-- An element of a tile. -/
def Accs.get (a : Accs) (tile : Bool) (r n : Nat) : Nat :=
  match a.cells.find? fun q => q.1 == accPos tile r n with
  | some q => q.2.toNat
  | none => 0

/-- Rows `lo` to `hi` - 1 of a tile, as a list of listed elements, from values; zeros stay unlisted. -/
def accRows (tile : Bool) (lo hi : Nat) (f : Nat → Nat → Nat) : List (Nat × BitVec 36) :=
  ((List.range hi).drop lo).flatMap fun r => (List.range 128).filterMap fun n =>
    let v := f r n
    if v = 0 then none else some (accPos tile r n, BitVec.ofNat 36 v)

/-- Replaces rows `lo` to `hi` - 1 of a tile. -/
def Accs.putRows (a : Accs) (tile : Bool) (lo hi : Nat) (f : Nat → Nat → Nat) : Accs :=
  { a with cells := (a.cells.filter fun q => decide (q.1 < accPos tile lo 0)) ++ accRows tile lo hi f
                      ++ (a.cells.filter fun q => decide (accPos tile hi 0 ≤ q.1)) }

/-- DIRTY of a tile (R282). -/
def Accs.dirty (a : Accs) (tile : Bool) : Bool := if tile then a.dirty1 else a.dirty0

/-- Sets DIRTY of a tile. -/
def Accs.setDirty (a : Accs) (tile v : Bool) : Accs := if tile then { a with dirty1 := v } else { a with dirty0 := v }

/-- The tiles without a grant, or just granted (R282). -/
def Accs.fresh : Accs := { cells := [], dirty0 := false, dirty1 := false }

/-- The place of a core in its cluster. -/
def inCluster4 (core : Nat) : Nat := core % 4

/-- The engine of the executing core. -/
def getMxe : M Mxe := do
  let s ← get
  return s.mxe (clusterOf s.cur)

/-- Changes the engine of the executing core. -/
def modMxe (f : Mxe → Mxe) : M Unit := modify fun s => s.updMxe (clusterOf s.cur) f

/-- The place of the executing core in its cluster. -/
def myPlace : M Nat := do return inCluster4 (← myNumber)

/-- MGRANT of a core (R281). -/
def State.mgrant (s : State) (core : Nat) : Word :=
  let m := s.mxe (clusterOf core)
  let k := inCluster4 core
  let a := m.acc k
  word ((m.held k).foldl (fun v g => v + 2 ^ (16 + g)) 0 + m.rowsOf k * 256 + (if a.dirty1 then 2 else 0) + (if a.dirty0 then 1 else 0))

/-- The slot-ownership trap (R301). -/
def slotTrap (n : Nat) (owner : Option Nat) : Trap :=
  faultOf 19 0 (n * 256 + (match owner with | some k => 4 + k | none => 0))

/-- Requires that the core owns a slot (R284). -/
def needSlot (n : Nat) : M Unit := do
  let m ← getMxe
  let k ← myPlace
  if (m.slot n).owner = some k then return () else raise (slotTrap n (m.slot n).owner)

/-- A core gives up its grant (R291). -/
def Mxe.detach (m : Mxe) (k : Nat) : Mxe :=
  { m with groups := m.groups.map fun g => if g = some k then none else g }.updAcc k fun _ => Accs.fresh

/-- The end of a task gives up every slot and the grant (R283). -/
def State.releaseMxe (s : State) (core : Nat) : State :=
  let k := inCluster4 core
  s.updMxe (clusterOf core) fun m =>
    ((List.range 128).foldl (fun m n => if (m.slot n).owner = some k then m.resetSlot n none else m) m).detach k

/-! ## Control (R280, R285, R291, R292) -/

/-- MATT (R280). -/
def vexecMatt (f : GrpF) (_e : VEntry) : M Unit := do
  let k ← myPlace
  modMxe fun m =>
    if !(m.held k).isEmpty then m
    else
      let free := ((List.range 4).filter fun g => (m.groups.getD g none).isNone).take f.groups.toNat
      { m with groups := free.foldl (fun gs g => gs.set! g (some k)) m.groups }.updAcc k fun _ => Accs.fresh

/-- MDET (R291). -/
def vexecMdet (f : DetF) (_e : VEntry) : M Unit := do
  let k ← myPlace
  let m ← getMxe
  let a := m.acc k
  if (m.held k).isEmpty then return ()
  else if !f.discard && (a.dirty0 || a.dirty1) then
    raise (faultOf 20 0 ((if a.dirty1 then 2 else 0) + (if a.dirty0 then 1 else 0)))
  else modMxe fun m => m.detach k

/-- MCLAIM (R284, R285). -/
def vexecMclaim (f : SlotF) (_e : VEntry) : M Unit := do
  let k ← myPlace
  let m ← getMxe
  match (m.slot f.slot.toNat).owner with
  | some o => if o = k then return () else raise (slotTrap f.slot.toNat (some o))
  | none => modMxe fun m => m.resetSlot f.slot.toNat (some k)

/-- MREL (R292). -/
def vexecMrel (f : SlotF) (_e : VEntry) : M Unit := do
  needSlot f.slot.toNat
  modMxe fun m => m.resetSlot f.slot.toNat none

/-- MZERO (R292). -/
def vexecMzero (f : AccF) (_e : VEntry) : M Unit := do
  let k ← myPlace
  let m ← getMxe
  illegalWhen (m.held k).isEmpty
  modMxe fun m => m.updAcc k fun a => (a.putRows f.tile 0 128 fun _ _ => 0).setDirty f.tile false

/-- MSTAT (R292). -/
def vexecMstat (f : R1T4) (e : VEntry) : M Unit := do
  let k ← myPlace
  let m ← getMxe
  let free := (List.range 4).foldl (fun v g => if (m.groups.getD g none).isNone then v + 2 ^ g else v) 0
  let mine := (m.held k).foldl (fun v g => v + 2 ^ (8 + g)) 0
  let n := ((List.range 128).filter fun i => (m.slot i).owner == some k).length
  entryX e f.d (word (free + mine + n * 2 ^ 16))

/-! ## Filling and reading slots (R293 to R296) -/

/-- COUNT of a slot control word (R293). -/
def ctlCount (w : Word) : Nat := bits w.toNat 55 48
/-- FIRST. -/
def ctlFirst (w : Word) : Nat := bits w.toNat 46 40
/-- LAYOUT. -/
def ctlLayout (w : Word) : BitVec 2 := BitVec.ofNat 2 (bits w.toNat 33 32)

/-- The checks of a slot instruction that is not empty (R293). -/
def slotChecks (e : VEntry) (slot rows : Nat) (layout : Bool) (regs : List Reg) : M Unit := do
  needSlot slot
  illegalWhen (decide (128 < ctlFirst e.opb + rows)
    || (layout && (ctlLayout e.opb == 0 || ctlLayout e.opb == 3)) || e.regsBad regs)

/-- The rows of a fill from its progress point on. -/
def fillRows (e : VEntry) (n : Nat) : List Nat := (List.range n).filter fun i => decide (e.prog.row ≤ i)

/-- Row i of MLD (R294): the checks of R68, rules 2 to 5, and its row exponent tag and zeroed VOID lines. -/
def mldRow (f : SlotMF) (e : VEntry) (i : Nat) : M Unit := do
  let x := e.ctx (← myNumber)
  let pitch := sint 32 e.opb.toNat
  let a := vaOf (e.opa.toNat + (i : Int) * (if pitch = 0 then 256 else pitch))
  if a % 64 ≠ 0 then raise (misaligned a false)
  else
    let ty := if f.ty = .desc then none else some f.ty
    let at_ := (List.range 4).map fun j => a + 64 * j
    let mp ← rowMap x .read at_ []
    let lines ← at_.mapM fun la => do return (la, ← readDescLine x ty mp la)
    if at_.any mp.isDesc then checkRow x ty mp a lines false else pure ()
    let w : VRow := { bits := 0, tags := 0, rexp := rowExpOf lines }
    let w := lines.zipIdx.foldl (fun (w : VRow) q =>
      (w.setBlock q.2 (if tagFc q.1.2.desc = 0xFF then 0 else q.1.2.bits)).setTag q.2 q.1.2.desc) w
    modMxe fun m => m.setSlotRow f.slot.toNat (ctlFirst e.opb + i) w

/-- MLDF's rows after the first (R294): the number of rows loaded. -/
def mldfRows (f : SlotMF) (e : VEntry) (count : Nat) : List Nat → M Nat
  | [] => return count
  | i :: rest => do
    let ok ← tryCatch (do mldRow f e i; return true) fun h => match h with
      | .trap _ => return false
      | .wait => throw h
    if ok then mldfRows f e count rest else return i

/-- MLD and MLDF (R294). -/
def vexecMld (firstFault : Bool) (f : SlotMF) (e : VEntry) : M Unit := do
  let n := ctlCount e.opb
  if n = 0 then return ()
  else
    slotChecks e f.slot.toNat n true []
    modMxe fun m => m.setLayout f.slot.toNat (ctlLayout e.opb)
    let rows := fillRows e n
    if !firstFault then rows.forM fun i => atPoint i 0 (mldRow f e i)
    else
      match rows with
      | [] => modMe fun k => { k with ffnr := BitVec.ofNat 8 n }
      | i :: rest =>
        atPoint i 0 (mldRow f e i)
        let r ← mldfRows f e n rest
        modMe fun k => { k with ffnr := BitVec.ofNat 8 r }

/-- One element of MLDT: an item at its crust reads it, in one event at the home of its line (R186, R295). -/
def crustElem (va loc n : Nat) : M (List Byte) := do
  let c ← myNumber
  modify fun s => s.lockLines (linesOf loc n)
  readHome c none va loc n

/-- MLDT (R295). -/
def vexecMldt (f : SlotMF) (e : VEntry) : M Unit := do
  let n := ctlCount e.opb
  if n = 0 then return ()
  else
    slotChecks e f.slot.toNat n true []
    let x := e.ctx (← myNumber)
    let q ← place x .read e.opa.toNat
    let p := (← get).patternAt q e.opa.toNat (bits e.opb.toNat 3 0)
    illegalWhen (8 * p.size != f.ty.width)
    let cols := 256 / p.size
    let op : CrustOp := { va := e.opa.toNat, n := (cols - 1) * p.stride + n * p.size, target := false, align := p.size }
    let ps ← op.pagesFrom x q
    let locs ← crustVerify [(op, ps)] (if p.stride % p.size ≠ 0 then some (misaligned (op.va + p.stride) false) else none)
      (fun _ => if p.run = 0 then some (nmTrap op op.va 3) else none) []
    modMxe fun m => m.setLayout f.slot.toNat (ctlLayout e.opb)
    (fillRows e n).forM fun i => atPoint i 0 do
      let vs ← (List.range cols).mapM fun j => do
        let off := j * p.stride + i * p.size
        crustElem (op.va + off) (locs.headD 0 + off) p.size
      let w : VRow := { bits := BitVec.ofNat 2048 (leNat vs.flatten), tags := 0, rexp := 0 }
      let w := (List.range 4).foldl (fun w b => w.setTag b (tyNum f.ty * 256 + 0x7F)) w
      modMxe fun m => m.setSlotRow f.slot.toNat (ctlFirst e.opb + i) w

/-- MSLOTW (R296). -/
def vexecMslotw (f : SlotMF) (e : VEntry) : M Unit := do
  if e.nr = 0 then return ()
  else
    slotChecks e f.slot.toNat e.nr true [f.a]
    modMxe fun m => m.setLayout f.slot.toNat (ctlLayout e.opb)
    let nb := min 4 (ceilDiv e.nc f.ty.perBlock)
    (fillRows e e.nr).forM fun r => do
      let k ← getMe
      let src := k.row e.wide f.a r
      match (List.range nb).find? fun b => tagFc (src.tag b) != tyNum f.ty && tagFc (src.tag b) != 0xFF with
      | some b => raiseAt r 0 (faultOf 16 0 (2 ^ 16 + src.tag b))
      | none =>
        let w := ((List.range 4).filter fun b => decide (nb ≤ b)).foldl
          (fun (w : VRow) b => (w.setBlock b 0).setTag b 0xFF00) src
        modMxe fun m => m.setSlotRow f.slot.toNat (ctlFirst e.opb + r) w

/-- MSLOTR (R296). -/
def vexecMslotr (f : SlotRF) (e : VEntry) : M Unit := do
  if e.nr = 0 then return ()
  else
    slotChecks e f.slot.toNat e.nr false [f.d]
    let m ← getMxe
    modMe fun k => (List.range e.nr).foldl
      (fun k r => k.setRow e.wide f.d r (m.slotRow f.slot.toNat (ctlFirst e.opb + r))) k

/-! ## MMA (R286 to R288, R297) -/

/-- The class of a format (R286). -/
def pairClass (t : Ty) : Nat :=
  match t with
  | .bf16 => 1
  | .fp16 => 2
  | .e4m3 | .e5m2 => 3
  | .e3m2 | .e2m3 => 4
  | .e2m1 | .q4n => 5
  | .i8 | .n8 => 6
  | .i4 => 7
  | _ => 0

/-- Whether a block pair is implemented (R286). -/
def pairOk (a b : Nat) : Bool :=
  a == 0xFF || b == 0xFF ||
    (match fcTy a, fcTy b with
     | some t, some u => pairClass t != 0 && pairClass t == pairClass u
     | _, _ => false)

/-- The exact sum of values; an exact zero is +0 (R288). -/
def sumVals (vs : List Val) : Val :=
  let has := fun p : Val → Bool => vs.any p
  let nan := has fun v => match v with | .nan => true | _ => false
  let pos := has fun v => match v with | .inf n => !n | _ => false
  let neg := has fun v => match v with | .inf n => n | _ => false
  if nan || (pos && neg) then .nan
  else if pos then .inf false
  else if neg then .inf true
  else
    let fs := vs.filterMap fun v => match v with | .fin n m e => if m = 0 then none else some (n, m, e) | _ => none
    let k := fs.foldl (fun k q => min k q.2.2) 0
    ofSigned (fs.foldl (fun t q => t + signedAt q.1 q.2.1 q.2.2 k) 0) k false

/-- Rounds to A36 (R287). -/
def rneA36 (v : Val) : Nat := (fmtA36.round .rne false v).1

/-- The values of block j of a slot row times its scale; none for VOID (R288). -/
def blockVals (w : VRow) (j : Nat) : Option (List Val) :=
  match fcTy (tagFc (w.tag j)) with
  | none => none
  | some t =>
    let sc := blockScale (w.tag j) w.rexp
    some ((List.range t.perBlock).map fun q => (Val.mul (decodeElem t (w.elem t (j * t.perBlock + q))) sc).1)

/-- pair_sum of a block of two rows (R288). -/
def pairSum (a b : Option (List Val)) : Nat :=
  match a, b with
  | some xs, some ys => rneA36 (sumVals ((xs.zip ys).map fun q => (Val.mul q.1 q.2).1))
  | _, _ => 0

/-- The first pair of block j that is not implemented, in (i, n) order (R287). -/
def badPair (as bs : List VRow) (j : Nat) : Option (Nat × Nat) :=
  as.zipIdx.findSome? fun a => bs.zipIdx.findSome? fun b =>
    if pairOk (tagFc (a.1.tag j)) (tagFc (b.1.tag j)) then none else some (a.2, b.2)

/-- One element of an MMA (R287). -/
def mmaElem (o : MmaOp) (first : Bool) (old p : Nat) : Nat :=
  let v := fmtA36.decode p
  match o with
  | .zero => if first then p else rneA36 (sumVals [fmtA36.decode old, v])
  | .acc => rneA36 (sumVals [fmtA36.decode old, v])
  | .neg => rneA36 (sumVals [fmtA36.decode old, v.neg])

/-- Block j of an MMA over rows given once (R287). -/
def mmaBlock (o : MmaOp) (f : MmaF) (nr j : Nat) (as bs : List VRow) : M Unit := do
  let k ← myPlace
  match badPair as bs j with
  | some (i, n) =>
    setProg 0 0 j
    raise (faultOf 17 0 (tagFc ((as.getD i voidRow).tag j) * 2 ^ 40 + tagFc ((bs.getD n voidRow).tag j) * 2 ^ 32
      + i * 2 ^ 24 + n * 2 ^ 16 + j))
  | none =>
    let av := as.map fun w => blockVals w j
    let bv := bs.map fun w => blockVals w j
    modMxe fun m => m.updAcc k fun a =>
      (a.putRows f.tile 0 nr fun i n =>
        mmaElem o (j == 0) (a.get f.tile i n) (pairSum ((av.getD i none)) ((bv.getD n none)))).setDirty f.tile true

/-- MMA, MMAZ and MMAN (R287, R297) up to block `stop`, from the block that the entry has come to (R303). -/
def mmaBlocks (o : MmaOp) (f : MmaF) (e : VEntry) (stop : Nat) : M Unit := do
  if e.nr = 0 then return ()
  else
    needSlot f.slotA.toNat
    needSlot f.slotB.toNat
    let k ← myPlace
    let m ← getMxe
    illegalWhen (decide (m.rowsOf k < e.nr))
    let la := (m.slot f.slotA.toNat).layout
    let lb := (m.slot f.slotB.toNat).layout
    if la ≠ 1 ∨ lb ≠ 2 then raise (faultOf 18 0 (la.toNat * 256 + lb.toNat))
    else
      let as := (List.range e.nr).map fun i => m.slotRow f.slotA.toNat i
      let bs := (List.range 128).map fun n => m.slotRow f.slotB.toNat n
      ((List.range stop).filter fun j => decide (e.prog.block ≤ j)).forM fun j => mmaBlock o f e.nr j as bs

/-- MMA, MMAZ and MMAN (R287, R297). -/
def vexecMma (o : MmaOp) (f : MmaF) (e : VEntry) : M Unit := mmaBlocks o f e 4

/-! ## Draining and saving (R299, R300) -/

/-- MDRAIN (R299). -/
def vexecMdrain (f : DrnF) (e : VEntry) : M Unit := do
  if e.empty then return ()
  else
    let p ← myPlace
    let m ← getMxe
    illegalWhen (decide (m.rowsOf p < e.nr) || decide ((if f.ty = .fp32 then 64 else 128) < e.nc) || e.regsBad [f.d])
    let a := m.acc p
    let k ← getMe
    let col := fun c => if f.half then 64 + c else c
    modMe fun k => k.writeElems e f.d f.ty fun r c =>
      if k.active e f.k r c then some ((fpFmt f.ty).round .rne false (fmtA36.decode (a.get f.tile r (col c)))) else none
    if (List.range e.nr).any fun r => (List.range e.nc).any fun c => k.active e f.k r c then
      modMxe fun m => m.updAcc p fun a => a.setDirty f.tile false
    else return ()

/-- The checks of MACCST and MACCLD before any access (R300); answers ROWS. -/
def accChecks (e : VEntry) (write : Bool) : M Nat := do
  let k ← myPlace
  let m ← getMxe
  if e.opa.toNat % 64 ≠ 0 then raise (misaligned e.opa.toNat write)
  else
    illegalWhen (m.held k).isEmpty
    return m.rowsOf k

/-- Row r of MACCST (R300): every line of the row is found and routed before the first is written, and a row that faults has no
effect. -/
def maccstRow (x : Ctx) (f : AccMF) (e : VEntry) (k r : Nat) : M Unit := do
  let a := (← getMxe).acc k
  let va := vaOf (e.opa.toNat + 1024 * r : Nat)
  let ps ← partsOf x .write va 1024
  ps.forM fun p => do
    let _ ← writeTarget x p.q p.va p.va
  let ts ← ps.mapM fun p => writeTarget x p.q p.va p.va
  let row := (List.range 128).flatMap fun i => leBytes 8 (a.get f.tile r i)
  performLines x.core (ts.zipIdx.foldl (fun ws t => addWrite ws t.1 ((row.drop (64 * t.2)).take 64)) [])

/-- MACCST (R300). -/
def vexecMaccst (f : AccMF) (e : VEntry) : M Unit := do
  let n ← accChecks e true
  let k ← myPlace
  let x := e.ctx (← myNumber)
  (fillRows e n).forM fun r => atPoint r 0 (allOrNothing (maccstRow x f e k r))
  modMxe fun m => m.updAcc k fun a => a.setDirty f.tile false

/-- MACCLD (R300). -/
def vexecMaccld (f : AccMF) (e : VEntry) : M Unit := do
  let n ← accChecks e false
  let k ← myPlace
  let x := e.ctx (← myNumber)
  (fillRows e n).forM fun r => atPoint r 0 do
    let row ← readParts x (← partsOf x .read (vaOf (e.opa.toNat + 1024 * r : Nat)) 1024)
    modMxe fun m => m.updAcc k fun a =>
      a.putRows f.tile r (r + 1) fun _ i => leNat ((row.drop (8 * i)).take 8) % 2 ^ 36
  modMxe fun m => m.updAcc k fun a => a.setDirty f.tile true

end Sys2Proof.Machine
end

