-- ==== Sys2Proof/Machine/VVersion.lean ====
section
/-! DEFINITION. The vector version instructions (R151 to R153, R155). -/
namespace Sys2Proof.Machine

open Sys2Proof

/-- The pitch of a vector version instruction (R151). -/
def verPitch (f : VVerF) (e : VEntry) : Int := if f.b = 0 then ceilDiv (e.nc * f.ty.width) 8 else sint 64 e.opb.toNat

/-- The bytes that NC columns of a type lie in, from the base of a row: the bit of each column (R66, R152). -/
def verBit (f : VVerF) (base c : Nat) : Nat := 8 * base + elemPos f.ty c

/-- A line that takes part: its row, its active columns, and the place of its first element (R153). -/
structure VerLine where
  row : Nat
  cols : List Nat
  va : Nat
  q : Place
  deriving DecidableEq, Repr

/-- The active columns of a row, a list for each line (R152). -/
def verGroups (f : VVerF) (base : Nat) : List Nat → List (List Nat)
  | [] => []
  | c :: rest =>
    match verGroups f base rest with
    | [] => [[c]]
    | [] :: gs => [c] :: gs
    | (d :: ds) :: gs =>
      if verBit f base c / 512 = verBit f base d / 512 then (c :: d :: ds) :: gs else [c] :: (d :: ds) :: gs

/-- Finds the lines of a row up to the first that fails a check, with its trap and element (R153 step 1). -/
def verRow (x : Ctx) (acc : Acc) (f : VVerF) (base r : Nat) : List (List Nat) → M (List VerLine × Option (Trap × Nat × Nat))
  | [] => return ([], none)
  | [] :: rest => verRow x acc f base r rest
  | (c :: cs) :: rest => do
    let va := verBit f base c / 8
    let q ← tryCatch (do let q ← place x acc va; return Sum.inl q) fun h => match h with
      | .trap t => return Sum.inr t
      | .wait => throw h
    match q with
    | .inr t => return ([], some (t, r, c))
    | .inl q =>
      let (ls, bad) ← verRow x acc f base r rest
      return ({ row := r, cols := c :: cs, va := va, q := q } :: ls, bad)

/-- Finds the lines of the rows up to the first that fails a check. -/
def verLines (x : Ctx) (acc : Acc) (f : VVerF) (e : VEntry) : List Nat → M (List VerLine × Option (Trap × Nat × Nat))
  | [] => return ([], none)
  | r :: rest => do
    let k ← getMe
    match liveCols k e f.k r with
    | [] => verLines x acc f e rest
    | c :: cs =>
      let base := vaOf (e.opa.toNat + (r : Int) * verPitch f e)
      if base % 64 ≠ 0 then return ([], some (misaligned base (acc == .write), r, c))
      else
        let (ls, bad) ← verRow x acc f base r (verGroups f base (c :: cs))
        match bad with
        | some _ => return (ls, bad)
        | none =>
          let (more, bad) ← verLines x acc f e rest
          return (ls ++ more, bad)

/-- The versioned line of a place; none outside VERS pages and in pad space (R142). -/
def State.verPlace (s : State) (q : Place) (va : Nat) : Option VLine :=
  match q with
  | .pad _ => none
  | .page p =>
    match p.pdb with
    | some pdb => if pteVers p.leaf.toNat then some (s.vlineOf p pdb va) else none
    | none => none

/-- The bytes of a line that its active elements make, as offsets into the line (R153); the other nibble of a byte keeps
the value it has in `old`. -/
def verBytes (f : VVerF) (w : VRow) (l : VerLine) (base : Nat) (old : List Byte) : List (Nat × Byte) :=
  let n := l.cols.foldl (fun (v : Nat) c =>
    let b := verBit f base c % 512
    let hole := (2 ^ f.ty.width - 1) * 2 ^ b
    v - (v &&& hole) + w.elem f.ty c * 2 ^ b) (leNat old)
  let touched := l.cols.flatMap fun c =>
    let b := verBit f base c % 512
    (List.range ((b + f.ty.width - 1) / 8 - b / 8 + 1)).map fun i => b / 8 + i
  let bs := leBytes 64 n
  touched.dedup.map fun i => (i, bs.getD i 0)

/-- The base address of a row. -/
def verBase (f : VVerF) (e : VEntry) (r : Nat) : Nat := vaOf (e.opa.toNat + (r : Int) * verPitch f e)

/-- Writes one version of a line (R153). -/
def verWrite (core : Nat) (f : VVerF) (e : VEntry) (l : VerLine) : M Unit := do
  let v := e.opc.toNat % 2 ^ 32
  match (← get).verPlace l.q l.va with
  | none => raise (versionTrap 11 l.va v (2 ^ 32 - 1))
  | some vl =>
    let k ← getMe
    let s ← get
    let old := s.readAs none (newestAtMost (s.versions vl) v).loc 64
    match s.writeVersion core vl v (verBytes f (k.row e.wide f.d l.row) l (verBase f e l.row) old) (l.cols.length * f.ty.width == 512)
      l.va with
    | .error t => raise t
    | .ok s => set s

/-- Whether a line is answerable (R137, R142). -/
def State.verReady (s : State) (v : Nat) (l : VerLine) : Bool :=
  match s.verPlace l.q l.va with
  | none => true
  | some vl => match s.answer vl v true l.va with | .pending => false | _ => true

/-- Answers one line into the register (R153). -/
def verRead (x : Ctx) (f : VVerF) (e : VEntry) (l : VerLine) : M Unit := do
  let v := e.opc.toNat % 2 ^ 32
  let s ← get
  let bs ← match s.verPlace l.q l.va with
    | none => do
      let t := match l.q with
        | .pad a => ({ loc := a / 64 * 64, key := none, held := false } : Target)
        | .page p => let t := s.readTarget x p l.va; { t with loc := t.loc / 64 * 64 }
      readHome x.core t.key l.va t.loc 64
    | some vl =>
      match s.answer vl v true l.va with
      | .pending => await
      | .fault t => raise t
      | .got w _ => do
        set (s.acquireVersion x.core vl)
        pure (s.readAs none w.loc 64)
  let base := verBase f e l.row
  let n := leNat bs
  modMe fun k => k.setRow e.wide f.d l.row ((k.row e.wide f.d l.row).write f.ty
    (l.cols.map fun c => (c, (n >>> (verBit f base c % 512)) % 2 ^ f.ty.width)) (plainTag f.ty) (plainExp f.ty))

/-- The shape checks (R152). -/
def verShapeBad (write : Bool) (f : VVerF) (e : VEntry) : Bool :=
  decide (f.ty.capacity < e.nc) || e.regsBad [f.d]
    || (write && decide (1 < e.nr) && decide ((verPitch f e).natAbs < 64 * ceilDiv (e.nc * f.ty.width) 512))

/-- Runs the lines one after another, naming the element a fault stops at: the line's first active element, as R209 has it, where R153
says only the line (DESIGN CHOICE, log entry 80). -/
def verEach (m : VerLine → M Unit) (ls : List VerLine) (bad : Option (Trap × Nat × Nat)) : M Unit := do
  ls.forM fun l => atPoint l.row (l.cols.headD 0) (m l)
  match bad with
  | some (t, r, c) => raiseAt r c t
  | none => return ()

/-- VVERST (R151 to R153). -/
def vexecVverst (f : VVerF) (e : VEntry) : M Unit := do
  let k ← getMe
  if !anyActive k e f.k then return ()
  else
    illegalWhen (verShapeBad true f e)
    releaseWrites deviceScope
    let x := e.ctx (← myNumber)
    let (ls, bad) ← verLines x .write f e (liveRows e)
    verEach (verWrite x.core f e) ls bad

/-- VVERLD (R151 to R153): it waits until every line up to the first failing check is answerable. -/
def vexecVverld (f : VVerF) (e : VEntry) : M Unit := do
  let k ← getMe
  if !anyActive k e f.k then return ()
  else
    illegalWhen (verShapeBad false f e)
    let x := e.ctx (← myNumber)
    let (ls, bad) ← verLines x .read f e (liveRows e)
    let s ← get
    if ls.all (s.verReady (e.opc.toNat % 2 ^ 32)) then verEach (verRead x f e) ls bad
    else await

end Sys2Proof.Machine
end

