-- ==== Sys2Proof/Machine/Queue.lean ====
section
/-! DEFINITION. The vector queue: dispatch with copies of the operands, execution in queue order, the interlock of the scalar
unit, and the waits for an empty queue (R244 to R246, R259, R407). -/
namespace Sys2Proof.Machine

open Sys2Proof

/-- The scalar destination of an entry (R246). -/
def VecOp.dest (o : VecOp) : Option Reg :=
  match o with
  | .vmovx x => some x.d
  | .kpop x | .kfirst x => some x.d
  | .kvlenRead x => some x.d
  | .kvlenSet x => some x.d
  | .nfence x => some x.d
  | .nstat x => some x.d
  | .mstat x => some x.d
  | .barinit x => some x.d
  | .bararr x => some x.d
  | .barwait x => some x.d
  | .barkill x => some x.d
  | .waiti x => some x.d
  | _ => none

/-- Whether an entry is of a waiting kind (R407). -/
def VecOp.waits (o : VecOp) : Bool :=
  match o with
  | .vverld _ | .waiti _ | .barwait _ | .cpwait _ => true
  | _ => false

/-- Whether an entry is a copy that its channel executes (R221). -/
def VecOp.isCopy (o : VecOp) : Bool := (copyCtl o).isSome

/-- Whether an entry writes a mask register. -/
def VecOp.writesMask (o : VecOp) : Bool :=
  match o with
  | .mask _ _ _ _ | .kset _ | .icmp _ _ _ | .fcmp _ _ _ => true
  | _ => false

/-- What an entry does at the head of the queue. -/
def vexec (e : VEntry) : M Unit :=
  match e.op with
  | .vshape w => do drainCopies; vexecShape w e
  | .vmovx x => vexecMovx x e
  | .vmovv x => vexecMovv x e
  | .mask o d a b => vexecMask o d a b e
  | .kpop x => vexecKpop x e
  | .kfirst x => vexecKfirst x e
  | .kset x => vexecKset x e
  | .int o sc x => vexecInt o sc x e
  | .icmp o sc x => vexecIcmp o sc x e
  | .vsel sc x => vexecSel sc x e
  | .viota x => vexecIota x e
  | .fp o sc x => vexecFp o sc x e
  | .fcmp o sc x => vexecFcmp o sc x e
  | .fma o x => vexecFma o x e
  | .cvt sc x => vexecCvt sc x e
  | .qpack x => vexecQpack x e
  | .bacc x => vexecBacc x e
  | .bnorm x => vexecBnorm x e
  | .vscale x => vexecScale x e
  | .red o x => vexecRed o x e
  | .perm o x => vexecPerm o x e
  | .sincos x => vexecSinCos x e
  | .gumbel x => vexecGumbel x e
  | .hash x => vexecHash x e
  | .load m c x => vexecLoad m c x e
  | .store m c x => vexecStore m c x e
  | .vamo o x => vexecVamo o x e
  | .awin x => vexecAwin x e
  | .aadd x => vexecAadd x e
  | .amerge => vexecAmerge e
  | .aclr => vexecAclr e
  | .cpy _ | .cpym _ | .cpykv _ | .xred _ => issueCopy e
  | .cpwait x => vexecCpwait x e
  | .barinit x => vexecBarinit x e
  | .bararr x => vexecBararr x e
  | .barwait x => vexecBarwait x e
  | .barkill x => vexecBarkill x e
  | .post _ => vexecPost e
  | .waiti x => vexecWaiti x e
  | .matt x => vexecMatt x e
  | .mdet x => vexecMdet x e
  | .mclaim x => vexecMclaim x e
  | .mrel x => vexecMrel x e
  | .mzero x => vexecMzero x e
  | .mstat x => vexecMstat x e
  | .mld ff x => vexecMld ff x e
  | .mldt x => vexecMldt x e
  | .mslotw x => vexecMslotw x e
  | .mslotr x => vexecMslotr x e
  | .mma o x => vexecMma o x e
  | .mdrain x => vexecMdrain x e
  | .maccst x => vexecMaccst x e
  | .maccld x => vexecMaccld x e
  | .vverst x => vexecVverst x e
  | .vverld x => vexecVverld x e
  | .kvapp x => vexecKvapp x e
  | .kvld v x => vexecKvld v x e
  | .kvmove x => vexecKvmove x e
  | .kvlenRead x => vexecKvlenRead x e
  | .kvlenSet x => vexecKvlenSet x e
  | .kvinv _ => vexecKvinv e
  | .nadd x => vexecNadd x e
  | .nfence x => vexecNfence x e
  | .nrowcpy x => vexecNrowcpy x e
  | .nzero x => vexecNzero x e
  | .ngather x => vexecNgather x e
  | .nopt x => vexecNopt x e
  | .nstat x => vexecNstat x e

/-! ## Acquires that later accesses wait for (R310) -/

/-- Whether an entry is an acquire by its ordering field, or a read that the last FENCE with acquire names (R187, R229, R315). -/
def VEntry.flagged (e : VEntry) (fenceSeq : Nat) : Bool :=
  (match copyCtl e.op with | some ctl => ctl.acq | none => false)
    || (match crustCtl e.op with | some ctl => ctl.acq | none => false)
    || (e.op.reads && decide (e.seq < fenceSeq))

/-- Whether some entries of a queue, in order, hold an acquire. `masks` says that an older entry may still change the masks, so that
it is not known yet whether a VVERLD has an active element (R153). -/
def Core.acquireIn (k : Core) : Bool → List VEntry → Bool
  | _, [] => false
  | masks, e :: rest =>
    (match e.op with
      | .vverld f => !e.empty && (masks || anyActive k e f.k)
      | .kvlenRead _ => true
      | _ => e.flagged k.fenceSeq) || Core.acquireIn k (masks || e.op.writesMask) rest

/-- Whether a core holds an acquire whose read is not answered: in its queue, or a copy in a channel. -/
def Core.acquiring (k : Core) : Bool := k.acquireIn false k.queue || k.olderAcquire 4 k.seq

/-- Whether later accesses of a core wait for an acquire. -/
def State.acquiring (s : State) (c : Nat) : Bool := (s.core c).acquiring || s.crustHas c Item.acq

/-- The acquires that a core's channels and the crusts hold, of commands older than `seq`, are answered where they can be (R310). -/
def settleAcquires (seq : Nat) : M Unit := do
  let c ← myNumber
  let k ← getMe
  if k.olderAcquire 4 seq then runCopiesUntil (fun k => !k.olderAcquire 4 seq) k.copyFuel else pure ()
  modify fun s => if s.crustHas c Item.acq then s.crustAcq c else s

/-- Whether an entry accesses memory, itself or by what it starts. -/
def VecOp.accesses (o : VecOp) : Bool :=
  o.reads || o.writes || o.isCopy || (crustCtl o).isSome ||
    match o with
    | .barinit _ | .bararr _ | .barwait _ | .barkill _ | .post _ => true
    | _ => false

/-- An entry that accesses memory waits for the acquires before it (R310). -/
def entryGate (e : VEntry) : M Unit := do
  if e.op.accesses then
    settleAcquires e.seq
    if (← getMe).olderAcquire 4 e.seq then await else return ()
  else return ()

/-! ## Running the queue -/

/-- Removes the entry at the head of the queue. -/
def Core.popHead (k : Core) : Core := { k with queue := k.queue.drop 1 }

/-- The entry at the head of the queue stops at a fault. -/
def Core.headFault (k : Core) (t : Trap) : Core :=
  match k.queue with
  | [] => k
  | e :: r => { k with queue := { e with fault := some t } :: r }

/-- Removes a completed entry; VSTART becomes 0 (R209, R226), but an issued copy is not complete yet. -/
def Core.complete (k : Core) (e : VEntry) : Core := if e.op.isCopy then k.popHead else k.popHead.clearVstart

/-- The entry at the head of the queue runs; answers whether it has left the queue. A fault leaves it there. -/
def stepHead : M Bool := do
  let k ← getMe
  match k.queue with
  | [] => return false
  | e :: _ =>
    if e.fault.isSome then return false
    else
      tryCatch (do entryGate e; vexec e; modMe fun k => k.complete e; return true) fun h => match h with
        | .trap t => do modMe fun k => k.headFault t; return false
        | .wait => return false

/-- Entries run in queue order until one waits or has faulted (R245). -/
def runQueue : Nat → M Unit
  | 0 => return ()
  | fuel + 1 => do
    let more ← stepHead
    if more then runQueue fuel else return ()

/-- Runs every entry of the queue that can run. -/
def runEntries : M Unit := do
  let k ← getMe
  runQueue k.queue.length

/-- Waits until the queue holds no entry that has not been issued. -/
def waitEntries : M Unit := do
  runEntries
  let k ← getMe
  if k.queue.isEmpty then return () else await

/-- Waits until the queue is empty, issued copies included (R221). -/
def waitEmpty : M Unit := do
  waitEntries
  drainCopies

/-- Whether an entry of the queue has yet to write one of some registers in the bank of the mode (R246). -/
def Core.pending (k : Core) (rs : List Reg) : Bool :=
  k.queue.any fun e => match e.op.dest with
    | some d => d != 0 && rs.contains d && e.sup == k.sstat.mode
    | none => false

/-- A scalar instruction waits for the registers it reads or writes (R246). -/
def interlock (rs : List Reg) : M Unit := do
  let k ← getMe
  if k.pending rs then
    runEntries
    let k ← getMe
    if k.pending rs then await else return ()
  else return ()

/-- A scalar access waits for the acquires before it (R310). -/
def acquireGate : M Unit := do
  let c ← myNumber
  if (← get).acquiring c then
    runEntries
    settleAcquires (← getMe).seq
    if (← get).acquiring c then await else return ()
  else return ()

/-- The occupied entries of the queue, issued copies included (R221, R244). -/
def Core.occupied (k : Core) : Nat := k.queue.length + k.issued

/-- Dispatch waits for a free entry (R244). -/
def makeRoom : M Unit := do
  let k ← getMe
  if k.occupied < Config.queueEntries then return ()
  else
    runEntries
    let k ← getMe
    runCopiesUntil (fun k => decide (k.occupied < Config.queueEntries)) k.copyFuel
    let k ← getMe
    if k.occupied < Config.queueEntries then return () else await

/-- A scalar operand that an entry copies; 0 where the field names no scalar register. -/
def Core.operand (k : Core) (r : Option Reg) : Word :=
  match r with
  | some r => k.x r
  | none => 0

/-- An entry with the copies it receives at dispatch (R244). -/
def Core.newEntry (k : Core) (op : VecOp) (rm : Rm) (a b c d : Option Reg) : VEntry :=
  { op := op, seq := k.seq, ia := k.ia, opa := k.operand a, opb := k.operand b, opc := k.operand c, opd := k.operand d,
    nr := k.nr.toNat, nc := k.nc.toNat, rm := modeOf k.frm rm, wide := k.wide, scx := k.scx, kvroot := k.kvroot,
    asid := k.asid, ptroot := k.ptroot, sup := k.sstat.mode, prog := { row := 0, col := 0, block := 0 }, fault := none }

/-- What dispatch does on the scalar side: the entry joins the queue, and VSHAPE sets the scalar-side shape and bounds NR
(R244, R259). -/
def Core.enqueue (k : Core) (op : VecOp) (rm : Rm) (a b c d : Option Reg) : Core :=
  let k' := { k with queue := k.queue ++ [k.newEntry op rm a b c d], seq := k.seq + 1 }
  match op with
  | .vshape w => { k' with wide := w, nr := BitVec.ofNat 8 (min k.nr.toNat (rowMax w)) }
  | _ => k'

/-- Whether a scalar store before the last FENCE.SV has not performed. -/
def Core.svWaits (k : Core) : Bool := k.sb.any fun w => decide (w.seq < k.svFence)

/-- Dispatch waits for the scalar stores before the last FENCE.SV (R315). -/
def svGate : M Unit := do
  let c ← myNumber
  if (← getMe).svWaits then
    runEntries
    modify fun s => s.flushSb c
    if (← getMe).svWaits then await else return ()
  else return ()

/-- Dispatches a vector-class instruction (R244). In an eager state the queue then runs as far as it can. -/
def dispatch (op : VecOp) (rm : Rm) (a b c d : Option Reg) : M Unit := do
  interlock ([a, b, c, d].filterMap id ++ op.dest.toList)
  svGate
  makeRoom
  modMe fun k => k.enqueue op rm a b c d
  let s ← get
  if s.eager then runEntries else return ()

/-! ## What the head of the queue waits for (R365, R407) -/

/-- Whether a VVERLD at the head waits: it has an active element, and a line that it asks for is not answerable (R153). -/
def verWaits (f : VVerF) (e : VEntry) : M Bool := do
  let k ← getMe
  if !anyActive k e f.k || verShapeBad false f e then return false
  else
    let (ls, _) ← verLines (e.ctx (← myNumber)) .read f e (liveRows e)
    let s ← get
    return !ls.all (s.verReady (e.opc.toNat % 2 ^ 32))

/-- Whether an entry at the head of a core's queue is a waiting entry (R407): a VVERLD only while it waits for a line. -/
def State.entryWaits (s : State) (c : Nat) (e : VEntry) : Bool :=
  e.fault.isNone &&
    match e.op with
    | .vverld f =>
      match ((onCore c (verWaits f e)).run.run s).1 with
      | .ok b => b
      | .error _ => false
    | o => o.waits

/-- Whether the head of a core's queue is a waiting entry. -/
def State.headWaits (s : State) (c : Nat) : Bool :=
  match (s.core c).queue with
  | [] => false
  | e :: _ => s.entryWaits c e

/-- Whether a fault has stopped some channel (R230). -/
def Core.anyStopped (k : Core) : Bool := (List.range 4).any fun i => (k.chan i).stopped.isSome

/-- Whether an entry waits for every older copy of its core (R221, R309, R407). -/
def Core.waitsCopies (k : Core) (e : VEntry) : Bool :=
  match e.op with
  | .vshape _ | .barinit _ | .bararr _ | .barkill _ | .post _ | .kvlenSet _ | .kvinv _ => true
  | .vverst f => anyActive k e f.k
  | o => match crustCtl o with | some ctl => ctl.acq || ctl.rel | none => false

/-- Whether an entry at the head waits for a copy that a fault has stopped (R230, R365): it waits for every copy, for room in a stopped
channel, or for the reads of a stopped acquire. -/
def Core.waitsStopped (k : Core) (e : VEntry) : Bool :=
  (k.waitsCopies e && k.anyStopped)
    || (match copyCtl e.op with
        | some ctl => (k.chan ctl.ch).stopped.isSome && decide (Config.channelCopies ≤ (k.chan ctl.ch).copies.length)
        | none => false)
    || (e.op.accesses && (List.range 4).any fun i => (k.chan i).stopped.isSome && (k.chan i).copies.any VEntry.unread)

/-! ## The queue of a task that fails (R355, R373) -/

/-- Entries run, and one that waits for an event outside the core, or has faulted, ends. -/
def failQueue : Nat → M Unit
  | 0 => return ()
  | fuel + 1 => do
    let more ← stepHead
    if more then failQueue fuel
    else
      let k ← getMe
      match k.queue with
      | [] => return ()
      | e :: _ =>
        if e.fault.isSome || e.op.waits then
          let c ← myNumber
          modify fun s => s.leaveBarriers c
          modMe Core.popHead
          failQueue fuel
        else return ()

/-- The faulted copy of every stopped channel ends. -/
def Core.endStopped (k : Core) : Core :=
  { k with chans := k.chans.map fun c =>
      match c.stopped with
      | some _ => { copies := c.copies.drop 1, stopped := none, row := [] }
      | none => c }

/-- Runs everything a failing task has started, ending what faults (R355 step 3). -/
def failWork : Nat → M Unit
  | 0 => return ()
  | fuel + 1 => do
    let k ← getMe
    failQueue (k.queue.length + 1)
    let k ← getMe
    runCopies k.copyFuel
    let k ← getMe
    if (List.range 4).any fun i => (k.chan i).stopped.isSome then
      modMe Core.endStopped
      failWork fuel
    else return ()

/-- Whether nothing that a core has dispatched is left. -/
def Core.quiet (k : Core) : Bool := k.queue.isEmpty && k.issued == 0

end Sys2Proof.Machine
end

