-- ==== Sys2Proof/Machine/Chain.lean ====
section
/-! DEFINITION. Entries that run ahead of the entries before them, row by row (R83, R209, R247, R263, R370). -/
namespace Sys2Proof.Machine

open Sys2Proof

/-- The registers of an entry that computes its rows one by one: the vector and mask registers it writes and those it reads, and whether
it accesses memory (R83, R209, R263). -/
structure RowForm where
  dsts : List Reg
  mdsts : List MaskReg
  srcs : List Reg
  masks : List MaskReg
  mem : Bool
  deriving DecidableEq, Repr

/-- An arithmetic entry with vector destinations. -/
def RowForm.arith (dsts srcs : List Reg) (k : MaskReg) : RowForm := { dsts := dsts, mdsts := [], srcs := srcs, masks := [k], mem := false }

/-- A memory access. -/
def RowForm.access (dsts srcs : List Reg) (k : MaskReg) : RowForm := { dsts := dsts, mdsts := [], srcs := srcs, masks := [k], mem := true }

/-- The sources of an integer operation. -/
def IntOp.srcs (o : IntOp) (scalar : Bool) (a b : Reg) : List Reg :=
  match o with
  | .abs | .neg => [a]
  | _ => srcRegs scalar a b

/-- The sources of a floating-point operation. -/
def FpOp.srcs (o : FpOp) (scalar : Bool) (a b : Reg) : List Reg :=
  match o with
  | .sqrt | .abs | .neg | .rcp | .rsq | .exp2 | .log2 => [a]
  | _ => srcRegs scalar a b

/-- The index registers of an access; none where its rows do not stand each for itself. -/
def VAddr.indexRegs (m : VAddr) (c : Reg) : Option (List Reg) :=
  match m with
  | .unit | .bit | .strided => some []
  | .gather => some [c]
  | .firstFault | .lane | .gatherc => none

/-- The form of an entry whose row r depends on row r of its sources alone, and touches row r of its destinations alone. -/
def VecOp.rowForm (o : VecOp) : Option RowForm :=
  match o with
  | .int o sc x => some (.arith [x.d] (o.srcs sc x.a x.b) x.k)
  | .vsel sc x => some (.arith [x.d] (srcRegs sc x.a x.b) x.k)
  | .viota x => some (.arith [x.d] [] x.k)
  | .icmp _ sc x => some { dsts := [], mdsts := [x.d], srcs := srcRegs sc x.a x.b, masks := [x.k], mem := false }
  | .fcmp _ sc x => some { dsts := [], mdsts := [x.d], srcs := srcRegs sc x.a x.b, masks := [x.k], mem := false }
  | .fp o sc x => some (.arith [x.d] (o.srcs sc x.a x.b) x.k)
  | .fma _ x => some (.arith [x.d] [x.a, x.b, x.c] x.k)
  | .cvt _ x => some (.arith [x.d] [x.a] x.k)
  | .qpack x => some (.arith [x.d] [x.a] x.k)
  | .bacc x => some (.arith [x.d] [x.d, x.a] x.k)
  | .bnorm x => some (.arith [x.d] [x.a] x.k)
  | .vscale x => some (.arith [x.d] [x.a] x.k)
  | .red _ x => if x.col then none else some (.arith [x.d] [x.a] x.k)
  | .perm o x =>
    match o with
    | .trans | .bcast => none
    | .permc => some (.arith [x.d] [x.a, x.c] x.k)
    | .compress | .expand | .slideUp | .slideDn => some (.arith [x.d] [x.a] x.k)
  | .sincos x => some (.arith [x.d, x.b] [x.a] x.k)
  | .gumbel x => some (.arith [x.d] [x.a] x.k)
  | .hash x => some (.arith [x.d] [x.a, x.b] x.k)
  | .load m c x => (m.indexRegs c).map fun rs => .access [x.d] rs x.k
  | .store m c x => (m.indexRegs c).map fun rs => .access [] (x.d :: rs) x.k
  | .vamo _ x => some (.access [] [x.d] x.k)
  | .kvld _ x => some (.access [x.d] [] x.k)
  | _ => none

/-- The registers of an entry of which it is enough to know that its rows below its progress point are complete (R370): those of its row
form, or, for an entry that another may not run ahead as, those that it writes and reads. -/
def VecOp.regForm (o : VecOp) : Option RowForm :=
  match o with
  | .load _ c x => some (.access [x.d] [c] x.k)
  | .store _ c x => some (.access [] [x.d, c] x.k)
  | .vverld x => some (.access [x.d] [] x.k)
  | .vverst x => some (.access [] [x.d] x.k)
  | .aadd x => some (.arith [] [x.d, x.a] x.k)
  | .kvapp x => some (.access [] [x.d, x.b] 0)
  | .kvmove x => some (.access [] [x.c] x.k)
  | .awin _ | .amerge | .aclr | .maccst _ | .cpy _ | .cpym _ | .cpykv _ | .xred _ | .cpwait _ =>
    some { dsts := [], mdsts := [], srcs := [], masks := [], mem := true }
  | o => o.rowForm

/-- The form of a crust command that carries neither ACQ nor REL: nothing but the acquires, NFENCE and the crust commands before it
orders it (R187, R318). NADD is sent row by row, the others whole. -/
def VecOp.crustForm (o : VecOp) : Option RowForm :=
  match crustCtl o with
  | some ctl =>
    if ctl.acq || ctl.rel then none
    else match o with
      | .nadd x => some { dsts := [], mdsts := [], srcs := [x.d, x.c], masks := [], mem := false }
      | _ => some { dsts := [], mdsts := [], srcs := [], masks := [], mem := false }
  | none => none

/-- Whether two lists have a common element. -/
def meets [DecidableEq α] (a b : List α) : Bool := a.any fun x => b.contains x

/-- Whether an entry reads what an older one writes; nothing writes k0 (R239). -/
def RowForm.feeds (p f : RowForm) : Bool := meets p.dsts f.srcs || meets (p.mdsts.filter (· != 0)) f.masks

/-- Whether the order of two entries shows in a register. -/
def RowForm.clashes (p f : RowForm) : Bool :=
  p.feeds f || f.feeds p || meets p.dsts f.dsts || meets (p.mdsts.filter (· != 0)) f.mdsts

/-- Whether two entries of a core may access the same bytes, as far as their pages show (R209). -/
def State.mayMeet (s : State) (c : Nat) (a b : VEntry) : Bool :=
  let w := fun (e : VEntry) => (s.core c).windowAt e.seq
  let acc := fun (e : VEntry) => if e.op.writes then Acc.write else .read
  let hits := fun (hs : List (Nat × Nat)) loc => hs.any fun h => h.2 != 0 && s.vaMeets (b.ctx c) (acc b) loc 4096 h.1 h.2
  match a.hulls (w a), b.hulls (w b) with
  | some ha, some hb =>
    ha.any fun h => h.2 != 0 && (List.range (h.2 / 4096 + 2)).any fun i =>
      let va := (h.1 / 4096 + i) * 4096
      if isPadVa va then (match padLoc c va with | some l => hits hb l | none => false)
      else
        (s.outcomes (a.ctx c) (acc a) va).any fun o => match o with
          | .ok p => p.pdb.isSome || hits hb (p.phys va)
          | .error _ => false
  | _, _ => true

/-- The rows that an entry runs in all; a crust command other than NADD runs as one. -/
def VEntry.extent (e : VEntry) : Nat :=
  match e.op with
  | .nadd _ => e.nr
  | o => if (crustCtl o).isSome then 1 else e.nr

/-- The rows of entry i of a core's queue that may be complete while the entries before it are not (R245, R318, R370): none where it may
not run yet. An entry that meets an older one in a register never passes the rows that the older one has completed, and a conversion
starts where its source is complete (R76). -/
def State.chainLimit (s : State) (c i : Nat) : Option Nat :=
  let k := s.core c
  match k.queue[i]? with
  | none => none
  | some e =>
    let older := k.queue.take i
    match e.op.rowForm.or e.op.crustForm with
    | none => none
    | some f =>
      let crust := e.op.rowForm.isNone
      let ties := older.filterMap fun o => (o.op.regForm.or o.op.crustForm).map fun p => (o, p)
      if e.empty && !crust || ties.length != older.length then none
      else if (f.mem || crust) && (k.acquireIn false older || older.any fun o => o.flagged k.fenceSeq) then none
      else if crust && older.any fun o => (crustCtl o.op).isSome then none
      else if f.mem && older.any fun o => (o.op.reads || o.op.writes) && s.mayMeet c e o then none
      else if f.mem && k.sb.any fun w => decide (w.seq < e.seq) && isFabric w.loc then none
      else
        let lim := ties.foldl (fun n q => if q.2.clashes f then min n q.1.prog.row else n) e.extent
        if (e.op.isConv || crust) && lim != e.extent then none else some lim

/-- Entry i of the executing core's queue runs as far as row n, with all of the effect of those rows, or none where one of them faults or
waits. One that has run to its end leaves the queue. -/
def advance (i n : Nat) : M Unit := do
  let q := (← getMe).queue
  match q[i]? with
  | none => return ()
  | some e =>
    if (← getMe).convBad e then return ()
    else
    let done ← tryCatch (allOrNothing (do
      let part := if e.op.rowForm.isNone && e.extent == 1 then e else { e with nr := n }
      entryGate part
      modMe fun k => { k with queue := [part] }
      vexec part
      return true)) fun _ => return false
    modMe fun k =>
      { k with queue := if !done then q else if e.extent ≤ n then q.eraseIdx i
                        else q.set i { e with prog := { row := n, col := 0, block := 0 } } }

/-- Whether entry i of a queue waits on the results of the entry at the head, directly or through others (R263). -/
def Core.waitsOnHead (k : Core) (i : Nat) : Bool :=
  match (k.queue.take (i + 1)).filterMap fun e => e.op.regForm with
  | [] => false
  | p :: rest =>
    (rest.foldl (fun (r : List RowForm × Bool) f => if r.1.any fun g => g.feeds f then (f :: r.1, true) else (r.1, false)) ([p], false)).2

/-- Where an entry of a queue whose head has stopped at a fault stands when it is held (R83, R263, R370): how many of the rows it may
have completed the manual leaves open. An arithmetic entry has begun only where it waits on the results of the head; one behind an entry
whose registers no form gives is held at row 0 (DESIGN CHOICE, log entry 35). -/
def chainEntry (i : Nat) : M Unit := do
  let c ← myNumber
  let s ← get
  let k := s.core c
  match k.queue[i]?, s.chainLimit c i with
  | some e, some n =>
    let n := if e.op.crustForm.isSome then 0 else min n (e.nr - 1)
    if n ≤ e.prog.row || !(e.op.reads || e.op.writes || k.waitsOnHead i) then return ()
    else
      let m ← drawChoice (n - e.prog.row + 1)
      if m = 0 then return () else advance i (e.prog.row + m)
  | _, _ => return ()

/-- The entries behind one that has stopped at a fault are brought to the points at which they are held. -/
def chainStopped : M Unit := do
  match (← getMe).queue with
  | [] => return ()
  | e :: rest => if e.fault.isSome then (List.range rest.length).forM fun i => chainEntry (i + 1) else return ()

/-- A memory access or crust command of entry i of a core's queue runs the next rows, as far as row n, before the entries ahead of it have
completed (R209, R308, R318). -/
def aheadMove (core i n : Nat) : M Unit := onCore core (do
  let s ← get
  match (s.core core).queue[i]?, s.chainLimit core i with
  | some e, some lim =>
    if i ≠ 0 ∧ (e.op.reads ∨ e.op.writes ∨ e.op.crustForm.isSome) ∧ e.fault = none ∧ e.prog.row < n ∧ n ≤ lim then advance i n
    else return ()
  | _, _ => return ())

end Sys2Proof.Machine
end

