-- ==== Sys2Proof/Machine/Fetch.lean ====
section
/-! DEFINITION. Instruction addresses, the fetch of lines, and transfers of control (R14 to R17). -/
namespace Sys2Proof.Machine

open Sys2Proof

/-- What the scalar stream does after an instruction: it goes on with the next one, or the instruction has set where it
goes on. -/
inductive Flow where
  | next | stay
  deriving DecidableEq, Repr

/-- SLOT of an instruction address (R15). -/
def iaSlot (ia : Word) : Nat := ia.toNat % 32

/-- LINE of an instruction address (R15). -/
def iaLine (ia : Word) : Nat := bits ia.toNat 56 6

/-- Whether an instruction address is well formed (R15). -/
def wellFormedIa (ia : Word) : Bool := decide (ia.toNat < 2 ^ 57) && !bit ia.toNat 5 && iaSlot ia != 0

/-- The next instruction address in a line of `nh` heads (R15). -/
def nextIa (ia : Word) (nh : Nat) : Word := if iaSlot ia < nh then ia + 1 else word ((iaLine ia + 1) * 64 + 1)

/-- The illegal-target trap with the target as computed (R16, R367). -/
def illegalTarget (target : Word) : Trap := faultOf 3 0 target.toNat

/-- The bytes that a fetch of a line may find: those at home, a guest copy that a load of the core could be answered from,
and what the core's instruction cache may still hold (R17). -/
def State.fetchChoices (s : State) (c : Nat) (key : Option Nat) (loc : Nat) : List Line :=
  lineOfBytes (s.readAs key loc 64)
    :: ((match s.guestFor c loc with | some g => [g.bytes] | none => [])
      ++ ((s.core c).icache.filter fun l => l.loc == loc).map ILine.bits)

/-- Fetches the line of an instruction address in a mode (R17, R84 to R93): where memory and the caches differ, one of
the lines is taken, and the manual does not say which. -/
def fetchLine (sup : Bool) (ia : Word) : M Line := do
  let x ← myCtx
  let va := iaLine ia * 64
  let q ← place { x with sup := sup } .fetch va
  match q with
  | .pad _ => raise (pageTrap 6 .fetch 7 3 va)
  | .page p =>
    let loc := p.phys va
    lostRead x.core va loc
    let s ← get
    match s.lineError p.key (loc / 64) with
    | some r => raise (errorTrap va loc r)
    | none =>
      let os := s.fetchChoices x.core p.key loc
      let home := os.headD 0
      let l ← if os.all fun o => o == home then pure home else do
        let n ← drawChoice os.length
        pure (os.getD n home)
      let i : ILine := { loc := loc, bits := l }
      modMe fun k => { k with icache := if k.icache.contains i then k.icache else i :: k.icache }
      return l

/-- Fetches a line and checks it (R14). -/
def enterLine (sup : Bool) (ia : Word) : M Line := do
  let l ← fetchLine sup ia
  if lineLegal l then return l else raise (faultOf 2 0 (lineLc l).toNat)

/-- The scalar stream goes on at an address, in a line already entered where there is one. -/
def Core.goAt (k : Core) (ia : Word) (l : Option Line) : Core :=
  { k with ia := ia, line := l.map fun b => { va := iaLine ia * 64, asid := k.asid, bits := b } }

/-- A transfer of control (R16): the target is checked, `taken` is what a transfer that completes does, and a fault of
the fetch is one of the target. -/
def goTo (sup : Bool) (target : Word) (inRange : Bool) (taken : M Unit) : M Unit := do
  if !inRange || !wellFormedIa target then raise (illegalTarget target)
  else
    let r ← tryTrap (enterLine sup target)
    match r with
    | .inr l =>
      if lineNh l < iaSlot target then raise (illegalTarget target)
      else
        taken
        modMe fun k => k.goAt target (some l)
    | .inl t =>
      taken
      modMe fun k => k.goAt target none
      raise t

/-- NH of the line that a core executes; 0 where it has entered none. -/
def Core.nh (k : Core) : Nat :=
  match k.line with
  | some l => lineNh l.bits
  | none => 0

/-- The address after the instruction that a core executes (R15). -/
def Core.nextIa (k : Core) : Word := Machine.nextIa k.ia k.nh

/-- The scalar stream goes on in sequence (R15); answers the address that is not well formed, where it is. -/
def Core.advance (k : Core) : Core × Option Word :=
  let n := k.nextIa
  if wellFormedIa n then ({ k with ia := n, line := if iaSlot k.ia < k.nh then k.line else none }, none) else (k, some n)

end Sys2Proof.Machine
end

