-- ==== Sys2Proof/Machine/Sched.lean ====
section
/-! DEFINITION. Levels, completion words, deques, loops, and the start and end of tasks (R337 to R342, R349 to R363). -/
namespace Sys2Proof.Machine

open Sys2Proof

/-! ## The scheduler area (R343) -/

/-- The address of the record of a level: its kind and id (R342, R343). -/
def State.levelAddr (s : State) (kind id : Nat) : Nat := s.sbase + 64 * (65536 * kind + id)

/-- The address of a stream entry (R343, R356). -/
def State.streamAddr (s : State) (die stream : Nat) : Nat := s.sbase + 0x2C00000 + 0x80000 * die + 32 * stream

/-- The address of a host queue descriptor (R344). -/
def State.queueAddr (s : State) (q : Nat) : Nat := s.sbase + 0x2E00000 + 64 * q

/-- Writes a doubleword of the scheduler area (R343). -/
def State.putWord (s : State) (a v : Nat) : State := s.publish none a (leBytes 8 v)

/-- The parent of a level, as kind and id; none where PARENT is 0 (R342). -/
def State.parentOf (s : State) (kind id : Nat) : Option (Nat × Nat) :=
  let w := s.num (s.levelAddr kind id + 32) 8
  if bits w 15 0 = 0 then none else some (bits w 17 16, bits w 15 0)

/-- CANCEL of a level (R342). -/
def State.cancelOf (s : State) (kind id : Nat) : Bool := bit (s.num (s.levelAddr kind id + 16) 8) 0

/-- Whether a level, or one above it within `fuel` steps, has CANCEL set (R351, R353). -/
def State.cancelledFrom (s : State) : Nat → Nat → Nat → Bool
  | 0, _, _ => false
  | fuel + 1, kind, id =>
    s.cancelOf kind id ||
      match s.parentOf kind id with
      | none => false
      | some p => State.cancelledFrom s fuel p.1 p.2

/-- The number of level records, which bounds a chain of parents (R342). -/
def levelCount : Nat := 4 * 65536

/-- Whether a level, or any level above it, has CANCEL set. -/
def State.cancelled (s : State) (kind id : Nat) : Bool := s.cancelledFrom levelCount kind id

/-! ## Shares and contexts (R348, R408) -/

/-- The share that a core belongs to. -/
def State.shareOf (s : State) (core : Nat) : Option Share := s.shares.find? fun h => h.cores.contains core

/-- The share of a launch. -/
def State.shareOfLaunch (s : State) (launch : Nat) : Option Share := s.shares.find? fun h => h.launch == launch

/-- The row ceiling on a core: that of the launch whose share holds it (R257). -/
def State.rowCeil (s : State) (core : Nat) : Nat := ((s.shareOf core).map Share.ceil).getD 128

/-- The address space of a share, in which U is not checked (R408). -/
def Share.ctx (h : Share) (core : Nat) : Ctx := { core := core, asid := h.asid, ptroot := h.ptroot, sup := true, scx := 0 }

/-- The address space in which the device reaches the records of the task that a core runs (R408). -/
def State.taskCtx (s : State) (core : Nat) : Ctx :=
  let x : Ctx := { (s.core core).ctx core with sup := true }
  match s.shareOf core with
  | none => x
  | some h => { h.ctx core with scx := x.scx }

/-- The id in LAUNCH of the running task (R349). -/
def Core.launchId (k : Core) : Nat := bits k.launch.toNat 15 0

/-! ## Completion words (R341, R408) -/

/-- Updates a doubleword of a completion word at its home and answers the new value; none where the device cannot make
the update (R408). -/
def deviceUpdate (x : Ctx) (va : Nat) (f : Nat → Nat) : M (Option Nat) := do
  let r ← tryTrap (do
    if va % 8 ≠ 0 then raise (misaligned va true)
    else
      let q ← place x .write va
      let t ← writeTarget x q va va
      let s ← get
      match s.lineError t.key (t.loc / 64) with
      | some r => raise (errorTrap va t.loc r)
      | none =>
        let new := f (leNat (s.readAs t.key t.loc 8)) % 2 ^ 64
        set (s.publish t.key t.loc (leBytes 8 new))
        return new)
  match r with
  | .inl _ => return none
  | .inr v => return some v

/-- Reads bytes of memory for the device, whose clocks no core's joins; none where it cannot. -/
def deviceRead (x : Ctx) (va n : Nat) : M (Option (List Byte)) := do
  let r ← tryTrap (do
    let t ← readPlace x va
    let s ← get
    match s.lineError t.key (t.loc / 64) with
    | some r => raise (errorTrap va t.loc r)
    | none => return s.readAs t.key t.loc n)
  match r with
  | .inl _ => return none
  | .inr bs => return some bs

/-- Adds failed tasks to a completion word and sets its CAUSE where it is still 0 (R341, R353, R362). -/
def addFails (n cause : Nat) (w : Nat) : Nat :=
  let nf := min 0xFFFF (bits w 31 16 + n)
  let c := if bits w 63 32 = 0 then cause else bits w 63 32
  bits w 15 0 + nf * 2 ^ 16 + c * 2 ^ 32

/-- A completed child's word enters its parent's (R353 step 3). -/
def mergeWord (child : Nat) (w : Nat) : Nat :=
  addFails (bits child 31 16) (bits child 63 32) (Nat.lor w (Nat.land child 0x1F8))

/-- What a completing level's word receives (R353 step 2). -/
def doneWord (canc : Bool) (w : Nat) : Nat :=
  Nat.lor w (1 + (if bits w 31 16 = 0 then 0 else 2) + (if canc then 4 else 0))

/-! ## Completion of levels (R353) -/

/-- The share of a launch returns to the allocator; its stream entry notes the time (R353, R356). -/
def State.freeShare (s : State) (launch : Nat) : State :=
  match s.shareOfLaunch launch with
  | none => s
  | some h =>
    let s := { s with shares := s.shares.filter fun g => g.launch != launch }
    if h.stream = 0 then s else s.putWord (s.streamAddr h.die h.stream + 24) s.dtime

/-- A completed child leaves its parent (R353 step 3): COUNT falls, and the parent's completion word takes the child's.
Answers the new COUNT. -/
def childDone (x : Ctx) (p : Nat × Nat) (w : Nat) : M Nat := do
  let s ← get
  let a := s.levelAddr p.1 p.2
  let n := (s.num a 8 + 2 ^ 64 - 1) % 2 ^ 64
  set (s.putWord a n)
  let _ ← deviceUpdate x (s.num (a + 24) 8) (mergeWord w)
  return n

/-- A level completes, and its parents that this completes (R353); `fuel` bounds the chain. -/
def completeLevel (x : Ctx) : Nat → Nat → Nat → M Unit
  | 0, _, _ => return ()
  | fuel + 1, kind, id => do
    let s ← get
    let a := s.levelAddr kind id
    let s := s.putWord (a + 8) (s.num (a + 8) 8 / 4 * 4 + 2)
    set (if kind = 0 then s.freeShare id else s)
    let s ← get
    let w ← deviceUpdate x (s.num (a + 24) 8) (doneWord (s.cancelled kind id))
    match s.parentOf kind id with
    | none => return ()
    | some p =>
      let n ← childDone x p (w.getD 0)
      if n = 0 then completeLevel x fuel p.1 p.2 else return ()

/-- COUNT of a launch changes by one task more (R351, R360). -/
def State.countUp (s : State) (launch : Nat) : State :=
  let a := s.levelAddr 0 launch
  s.putWord a ((s.num a 8 + 1) % 2 ^ 64)

/-- COUNT of a launch falls by one task, completing the launch at 0 (R353, R362 step 4). -/
def countDown (x : Ctx) (launch : Nat) : M Unit := do
  let s ← get
  let a := s.levelAddr 0 launch
  let n := (s.num a 8 + 2 ^ 64 - 1) % 2 ^ 64
  set (s.putWord a n)
  if n = 0 then completeLevel x levelCount 0 launch else return ()

/-- A task of a launch is discarded as completed-cancelled: NCANC counts it (R342, R351). -/
def State.countCancelled (s : State) (launch : Nat) : State :=
  let a := s.levelAddr 0 launch + 40
  let w := s.num a 8
  s.putWord a (w / 2 ^ 32 * 2 ^ 32 + (w + 1) % 2 ^ 32)

/-! ## Records, deques and injection queues (R337, R350) -/

/-- A task record from its 32 bytes, with the launch id it counts in (R337, R359). -/
def recOf (bs : List Byte) (addr : Word) (launch : Nat) (ck : Clock) : Rec :=
  let f := fun i => leNat ((bs.drop (8 * i)).take 8)
  { addr := addr, slot := 0, cp := word (f 0), fp := word (f 1), jb := word (f 2), info := word (f 3 / 2 ^ 16 * 2 ^ 16 + launch), ck := ck }

/-- LAUNCH of a record. -/
def Rec.launchId (r : Rec) : Nat := bits r.info.toNat 15 0
/-- KIND of a record. -/
def Rec.kind (r : Rec) : Nat := bits r.info.toNat 23 16

/-- The records that a deque and its spill ring hold (R350). -/
def dequeRoom : Nat := 4128
/-- The part of an injection queue kept for continuations and YIELD (R350). -/
def reserveRoom : Nat := 4096
/-- The other part of an injection queue (R350). -/
def injectRoom : Nat := 61440

/-- The records in a part of a die's injection queue: 1 is the reserve. -/
def Die.injected (d : Die) (part : Nat) : Nat := (d.inject.filter fun q => q.1 == part).length

/-- The 32 bytes of a record (R337). -/
def Rec.bytes (r : Rec) : List Byte := leBytes 8 r.cp.toNat ++ leBytes 8 r.fp.toNat ++ leBytes 8 r.jb.toNat ++ leBytes 8 r.info.toNat

/-- The address of a place of a core's spill ring (R343). -/
def State.spillAddr (s : State) (core i : Nat) : Nat := s.sbase + 0x1000000 + 32 * (4096 * core + i % 4096)

/-- The address of a place of a die's injection queue (R343). -/
def State.injectAddr (s : State) (die i : Nat) : Nat := s.sbase + 0x2400000 + 32 * (65536 * die + i % 65536)

/-- A place that none of some records has taken: the lowest. Which one a record takes the manual leaves open (DESIGN CHOICE, log entry
33). -/
def freePlace (rs : List Rec) : Nat := ((List.range (rs.length + 1)).find? fun i => rs.all fun r => r.slot != i).getD 0

/-- The records that a deque holds itself (R350). -/
def dequeCore : Nat := 32

/-- Pushes a record onto the bottom of a core's deque where it has room (R350); the oldest record that does not fit any more goes to a
place of the spill ring that no record there has taken. -/
def State.pushDeque (s : State) (core : Nat) (r : Rec) : Option State :=
  let dq := (s.core core).deque
  let n := dq.length - dequeCore
  if dequeRoom ≤ dq.length then none
  else
    match if dq.length < dequeCore then none else dq[n]? with
    | some q =>
      let i := freePlace (dq.take n)
      some ((s.publish none (s.spillAddr core i) q.bytes).updCore core fun k => { k with deque := dq.set n { q with slot := i } ++ [r] })
    | none => some (s.updCore core fun k => { k with deque := dq ++ [r] })

/-- Pushes a record into a part of a die's injection queue where it has room, at a place that no record of the queue has taken (R350). -/
def State.pushInject (s : State) (die part : Nat) (r : Rec) : Option State :=
  if (s.die die).injected part < (if part = 1 then reserveRoom else injectRoom) then
    let i := freePlace ((s.die die).inject.map Prod.snd)
    some ((s.publish none (s.injectAddr die i) r.bytes).updDie die fun d =>
      { d with inject := d.inject ++ [(part, { r with slot := i })] })
  else none

/-- Tries the push of a continuation: the core's own deque, else the reserve (R360). -/
def State.tryPush (s : State) (core : Nat) (r : Rec) : Option State :=
  match s.pushDeque core r with
  | some s => some s
  | none => s.pushInject (dieOf core) 1 r

/-- Pushes a continuation, or keeps it until the push succeeds (R360). -/
def State.pushContinuation (s : State) (core : Nat) (r : Rec) : State :=
  match s.tryPush core r with
  | some s => s
  | none => s.updCore core fun k => { k with pendingPush := some r }

/-- A pending continuation push is tried again (R360). -/
def State.retryPush (s : State) (core : Nat) : State :=
  match (s.core core).pendingPush with
  | none => s
  | some r =>
    match s.tryPush core r with
    | none => s
    | some s => s.updCore core fun k => { k with pendingPush := none }

/-- The clock that a join counter has taken from the releases that changed it (R360): the stamp of its line, or, outside the device,
where a line has none, what its writes carried. -/
def State.joinClock (s : State) (loc : Nat) : Clock :=
  match homeOf loc with
  | some _ => s.stampOf (loc / 64)
  | none => ((s.joinCks.find? fun p => p.1 == loc).map Prod.snd).getD Clock.reset

/-- A core has changed a join counter (R360). -/
def State.noteJoin (s : State) (c loc : Nat) : State :=
  match homeOf loc with
  | some _ => s
  | none => { s with joinCks := (loc, (s.joinClock loc).join (s.carried (some c))) :: s.joinCks.filter fun p => p.1 != loc }

/-- Adds to the counter of a join block at a place in one event at its home; a counter that becomes exactly 0 counts and pushes the
continuation (R338, R360); its answer acknowledges it (R390). Answers the new counter. -/
def joinAdd (x : Ctx) (q : Place) (va : Nat) (delta : Word) : M Word := do
  let t ← writeTarget x q va va
  let s ← get
  let c ← myNumber
  lostRead c va t.loc
  match s.lineError t.key (t.loc / 64) with
  | some r => raise (errorTrap va t.loc r)
  | none =>
    set (s.flushOver c t.loc 8)
    let new := word (leNat ((← get).readAs t.key t.loc 8)) + delta
    modify fun s => ((s.perform (some c) t.key t.loc (leBytes 8 new.toNat)).ackFabric c fun l => l == t.loc).noteJoin c t.loc
    if new = 0 then
      let s ← get
      let ck := (s.core c).ck.join (s.joinClock t.loc)
      let r := recOf (s.readAs t.key (t.loc + 32) 32) (word (va + 32)) (s.me.launchId) ck
      set ((s.countUp s.me.launchId).pushContinuation c r)
      return new
    else return new

/-! ## Starting tasks (R351, R352, R11) -/

/-- The strips of a loop record that have not been handed out: the next one's first iteration and count (R352). -/
def Loop.nextStrip (l : Loop) : Option (Int × Nat) :=
  let first : Int := l.lo.toInt + (l.next * l.strip.toNat : Nat)
  if first < l.hi.toInt then some (first, min l.strip.toNat (l.hi.toInt - first).toNat) else none

/-- The order in which a core looks at the deques of others: its cluster after itself, then the rest of its die after
itself (R351 step 4). -/
def victims (core : Nat) : List Nat :=
  let cl := ((List.range 3).map fun i => core / 4 * 4 + (core + i + 1) % 4)
  let die := ((List.range 39).map fun i => core / 40 * 40 + (core % 40 + i + 1) % 40)
  cl ++ die.filter fun c => c / 4 != core / 4

/-- What an idle core finds (R351). -/
inductive Work where
  | task (r : Rec)
  | strip (l : Loop)
  deriving DecidableEq, Repr

/-- The first record of a launch in a list of records, and the rest. -/
def takeRec (launch : Nat) : List Rec → Option (Rec × List Rec)
  | [] => none
  | r :: rest => if r.launchId = launch then some (r, rest) else (takeRec launch rest).map fun p => (p.1, r :: p.2)

/-- The first record of a launch in an injection queue, and the rest. -/
def takeInject (launch : Nat) : List (Nat × Rec) → Option (Rec × List (Nat × Rec))
  | [] => none
  | q :: rest =>
    if q.2.launchId = launch then some (q.2, rest)
    else (takeInject launch rest).map fun p => (p.1, q :: p.2)

/-- The oldest loop of a launch that an idle core may act on: one with strips left, or, in a cancelled launch, one of
which nothing runs (R351, R354). -/
def loopFor (launch : Nat) (canc : Bool) (ls : List Loop) : Option Loop :=
  ls.find? fun l => l.launch == launch && (if canc then l.live == 0 else l.nextStrip.isSome)

/-- The work that an idle core of a share takes (R351): its own bottom, a strip, the injection queue, or another core's
top. Only records of its launch count; those of a core that has left the share are among them (log entry 40). -/
def State.findWork (s : State) (core : Nat) (h : Share) : Option (Work × State) :=
  let d := dieOf core
  match takeRec h.launch (s.core core).deque.reverse with
  | some (r, rest) => some (.task r, s.updCore core fun k => { k with deque := rest.reverse })
  | none =>
    match loopFor h.launch (s.cancelled 0 h.launch) (s.die d).loops with
    | some l => some (.strip l, s)
    | none =>
      match takeInject h.launch (s.die d).inject with
      | some (r, rest) => some (.task r, s.updDie d fun q => { q with inject := rest })
      | none =>
        (victims core).findSome? fun v =>
          (takeRec h.launch (s.core v).deque).map fun q => (.task q.1, s.updCore v fun k => { k with deque := q.2 })

/-- The state of R11 for a task: registers and slices that the manual calls unpredictable hold free values (R202). -/
def Core.start (k : Core) (no seed : Nat) (cycle ceil : Nat) (levels : Word) (r : Rec) (strip : Option (Nat × Int × Nat)) : Core :=
  let x : Vector Word 32 := Vector.ofFn fun i => Config.freeWord (seed + i.val)
  let x := (x.set 3 r.fp).set 4 r.addr
  let x := match strip with
    | some (_, first, n) => (x.set 5 (BitVec.ofInt 64 first)).set 6 (word n)
    | none => x
  { k with
    task := x, ia := r.cp, line := none, act := .running,
    vregs := { fill := .free seed, rows := [] }, dirty := 0, vrows := Vector.replicate 32 0, wideFile := false,
    k1 := Config.freeMask seed 1, k2 := Config.freeMask seed 2, k3 := Config.freeMask seed 3,
    flags := 0, frm := 0, wide := false, nr := BitVec.ofNat 8 (min 64 ceil), nc := 64, vstart := 0, ffnr := 128, scx := 0,
    verstat := 0, taskrec := r.addr, launch := levels,
    deadline := if bit r.info.toNat 24 && bits r.info.toNat 63 32 != 0 then some (cycle + 1024 * bits r.info.toNat 63 32) else none,
    paduse := 0, slices := { fill := .free seed, cells := [] }, window := { k.window with isOpen := false }, deferred := 0,
    settling := none, draining := none,
    sstat := { k.sstat with held := false, loaded := true, nest := false, mode := false },
    restored := false, held := [], ck := k.ck.join r.ck,
    run := some { task := r, strip := strip.map Prod.fst }, taskNo := no }

/-- The executing core starts a task; a CP that is not well formed fails it at once (R16). -/
def startOn (h : Share) (r : Rec) (strip : Option (Nat × Int × Nat)) : M Unit := do
  let n := (← get).freeCtr
  let no := (← get).taskCtr
  modify fun s => { s with freeCtr := n + 32, taskCtr := no + 1 }
  let cycle := (← get).cycle
  modMe fun k => k.start no n cycle h.ceil h.levels r strip
  if wellFormedIa r.cp then return () else modMe fun k => { k with failing := some 3 }

/-- The entry of a number in a die's loop table. -/
def State.loopOf (s : State) (d n : Nat) : Option Loop := (s.die d).loops.find? fun l => l.number == n

/-- Changes an entry of a die's loop table. -/
def State.updLoop (s : State) (d n : Nat) (f : Loop → Loop) : State :=
  s.updDie d fun q => { q with loops := q.loops.map fun l => if l.number = n then f l else l }

/-- Removes a loop-table entry and releases its channel, which is bound once a strip has started (R352). -/
def State.dropLoop (s : State) (d : Nat) (l : Loop) : State :=
  let s := s.updDie d fun q => { q with loops := q.loops.filter fun m => m.number != l.number }
  if l.bound then s.freeChannel d l.channel else s

/-- The executing core, idle in a share, takes work and starts it (R351, R352). A record of a cancelled launch is
discarded. -/
def takeWork (h : Share) : M Unit := do
  let c ← myNumber
  let d := dieOf c
  let s ← get
  match s.findWork c h with
  | none => return ()
  | some (w, s') =>
    set s'
    if s.cancelled 0 h.launch then
      match w with
      | .task _ => discard
      | .strip l =>
        modify fun s => s.dropLoop d l
        discard
    else
      match w with
      | .task r => startOn h r none
      | .strip l =>
        match l.nextStrip with
        | none => return ()
        | some (first, n) =>
          if l.next = 0 then modify fun s => s.bindChannel d l.channel l.lo else pure ()
          modify fun s => s.updLoop d l.number fun m =>
            { m with next := m.next + 1, live := m.live + 1, bound := m.bound || l.next == 0 }
          startOn h l.task (some (l.number, first, n))
where
  /-- A task that is not started (R351). -/
  discard : M Unit := do
    modify fun s => s.countCancelled h.launch
    let c ← myNumber
    countDown (h.ctx c) h.launch

/-! ## Ending tasks (R362, R373) -/

/-- A core leaves its share (R374). No rule moves the records of its deque: they stay there, where the other cores of the share find
them (DESIGN CHOICE, log entry 40). -/
def State.leaveShare (s : State) (core : Nat) : State :=
  let less : Share → Share := fun h => { h with cores := h.cores.filter fun c => c != core }
  { s with shares := s.shares.map less }.updCore core fun k => { k with reclaim := false }

/-- A blocked WAITA is abandoned and its monitor entry freed (R325). -/
def State.freeMonitor (s : State) (core : Nat) : State :=
  if (s.core core).monitor.isSome then
    (s.updCore core fun k => { k with monitor := none }).updDie (dieOf core) fun d => { d with monitors := d.monitors - 1 }
  else s

/-- An interrupt whose trap is not taken after all is pending again, at most once for its code (R371, R374). -/
def Core.pend (k : Core) (event : Option Trap) : Core :=
  match event with
  | some t =>
    if !t.intr then k
    else if t.code = 0 then { k with preempt := some (k.preempt.getD false || t.eaux == 1) }
    else { k with mgmt := true }
  | none => k

/-- The drain of a trap ends without the trap. -/
def Core.dropDrain (k : Core) : Core := { (k.pend (k.draining.map Prod.fst)) with draining := none }

/-- The executing core becomes idle (R351), and leaves its share where a pre-emption request with RECLAIM has come (R367). -/
def goIdle : M Unit := do
  let c ← myNumber
  modify fun s => (s.freeMonitor c).leaveBarriers c
  modMe fun k =>
    { k.dropDrain with
      act := .idle, line := none, queue := [], held := [], run := none, failing := none, deadline := none, restored := false,
      settling := none,
      sstat := { k.sstat with held := false, loaded := false, nest := false, mode := false } }
  let k ← getMe
  if k.reclaim then modify fun s => s.leaveShare c else return ()

/-- Step 2 of END (R362): the matrix engine is released, and the completion word of the launch receives FLAGS and what
has failed, which adds `n` to NFAIL: 1 at END, and 0 at YIELD, which leaves NFAIL unchanged (R361). -/
def endStep2 (cause : Option Nat) (n : Nat) : M Unit := do
  let c ← myNumber
  modify fun s => s.releaseMxe c
  let s ← get
  let k := s.me
  let fails := match cause with
    | some v => some v
    | none => if k.deferred = 0 then none else some 25
  let upd := fun w =>
    let w := Nat.lor w (k.flags.toNat * 8)
    match fails with
    | none => w
    | some v => addFails n v (Nat.lor w 2)
  let _ ← deviceUpdate (s.taskCtx c) (s.num (s.levelAddr 0 k.launchId + 24) 8) upd
  return ()

/-- Step 3 of END (R362): the join block, where it can be used. -/
def endStep3 (jb : Word) : M Unit := do
  if jb = 0 then return ()
  else if jb.toNat % 64 ≠ 0 then return ()
  else
    let x := (← get).taskCtx (← myNumber)
    let _ ← tryTrap (do joinAdd x (← place x .write jb.toNat) jb.toNat (BitVec.allOnes 64))
    return ()

/-- The loop-table entry of a strip that ends (R352): the record whose steps 3 and 4 are due, after the last strip. -/
def endStrip (i : Nat) : M (Option Rec) := do
  let c ← myNumber
  let d := dieOf c
  modify fun s => s.updLoop d i fun l => { l with live := l.live - 1, ck := l.ck.join (s.core c).ck }
  let s ← get
  match s.loopOf d i with
  | none => return none
  | some l =>
    let canc := s.cancelled 0 l.launch
    if l.live = 0 ∧ (l.nextStrip.isNone || canc) then
      if l.nextStrip.isSome then modify fun s => s.countCancelled l.launch else pure ()
      modify fun s => (s.dropLoop d l).joinCk c l.ck
      return some l.task
    else return none

/-- Steps 2 to 4 of END for the task that the executing core runs (R362, R373); the core is then idle. -/
def finishTask (cause : Option Nat) (nfail : Nat) : M Unit := do
  let c ← myNumber
  let s ← get
  let k := s.me
  match k.run with
  | none => goIdle
  | some r =>
    let x := s.taskCtx c
    endStep2 cause nfail
    let due ← match r.strip with
      | none => pure (some r.task)
      | some i => endStrip i
    match due with
    | none => goIdle
    | some t =>
      endStep3 t.jb
      countDown x k.launchId
      goIdle

/-- The executing core's task fails with a cause (R373): held work is discarded, waits are abandoned, and the steps of
END follow once the work it has started has ended. -/
def failTask (cause : Nat) : M Unit := do
  let c ← myNumber
  modify fun s => (s.freeMonitor c).leaveBarriers c
  modMe fun k => { k.dropDrain with held := [], settling := none, sstat := { k.sstat with held := false } }
  let k ← getMe
  if k.run.isSome then modMe fun k => { k with failing := some (word cause) } else goIdle

/-- A failing task runs what it has started to its end, and then ends (R355, R373). A continuation whose push is pending is pushed first
(R360). -/
def continueFailing (cause : Word) : M Unit := do
  let c ← myNumber
  modify fun s => s.retryPush c
  let k ← getMe
  if k.pendingPush.isSome then return () else
  failWork (k.queue.length + k.issued + 1)
  modify fun s => s.leaveBarriers c
  let k ← getMe
  if k.quiet then
    modify fun s => ((s.flushSb c).crustAll c).ackFabric c fun _ => true
    finishTask (some cause.toNat) 1
  else return ()

end Sys2Proof.Machine
end

