-- ==== Sys2Proof/Machine/Traps.lean ====
section
/-! DEFINITION. Taking a trap and returning from one, interrupts, and the frame of a scalar instruction (R364 to R374, R378 to
R380). -/
namespace Sys2Proof.Machine

open Sys2Proof

/-- A progress point as VSTART lays it out (R242). -/
def Progress.word (p : Progress) : Word := Machine.word (p.row % 128 * 2 ^ 32 + p.col % 512 * 2 ^ 16 + p.block % 4)

/-- The progress point in a VSTART value (R242). -/
def pointOf (w : Word) : Progress := { row := bits w.toNat 47 32, col := bits w.toNat 31 16, block := bits w.toNat 1 0 }

/-- CAUSE for a trap (R368). -/
def causeWord (t : Trap) (late : Bool) : Word :=
  word ((if t.intr then 2 ^ 63 else 0) + (if late then 2 ^ 62 else 0) + t.code % 256)

/-- The cause that a completion word records for a CAUSE value (R367). -/
def failCause (cause : Word) : Nat := (if bit cause.toNat 63 then 2 ^ 31 else 0) + bits cause.toNat 7 0

/-- Whether the drain at trap entry is over (R365): no entry is left, the head is a waiting entry, it has faulted, or it waits for a
copy that a fault has stopped. -/
def State.drained (s : State) (c : Nat) : Bool :=
  match (s.core c).queue with
  | [] => true
  | e :: _ => e.fault.isSome || s.entryWaits c e || (s.core c).waitsStopped e

/-- Whether the drain stops at an MMA that has begun, which the manual leaves open (R303, R365). -/
def stopsMma : M Bool := do
  match (← getMe).queue with
  | [] => return false
  | e :: _ =>
    match e.op with
    | .mma _ _ => if e.prog.block = 0 ∨ e.fault.isSome then return false else return (← drawChoice 2) == 0
    | _ => return false

/-- Puts an entry into a list that rises by dispatch order. -/
def insertEntry (l : List VEntry) (e : VEntry) : List VEntry :=
  l.takeWhile (fun q => decide (q.seq < e.seq)) ++ e :: l.dropWhile fun q => decide (q.seq < e.seq)

/-- The copies of a stopped channel, the first with the fault that stopped it. -/
def Chan.recalled (c : Chan) : List VEntry :=
  match c.stopped, c.copies with
  | some t, e :: rest => { e with fault := some t } :: rest
  | _, _ => []

/-- The copies of every stopped channel, in issue order (R230, R365). -/
def Core.recalled (k : Core) : List VEntry :=
  ((List.range 4).flatMap fun i => (k.chan i).recalled).foldl insertEntry []

/-- Stopped channels give up their copies. -/
def Core.dropStopped (k : Core) : Core :=
  { k with chans := k.chans.map fun c => match c.stopped with
      | some _ => { copies := [], stopped := none, row := [] }
      | none => c }

/-- Entries are held, each at its point and with no fault of its own any more; VSTART names the point of entry 0 (R370,
R371). -/
def Core.hold (k : Core) (es : List VEntry) : Core :=
  let k := { k.dropStopped with queue := [], held := es.map fun e => { e with fault := none } }
  match es with
  | [] => k
  | e :: _ => { k with vstart := e.prog.word }

/-- An interrupt that is taken is pending no more: one that arrives from then on, its drain included, is pending anew (R371, R374). -/
def Core.accept (k : Core) (event : Option Trap) : Core :=
  match event with
  | some t => if !t.intr then k else if t.code = 0 then { k with preempt := none } else { k with mgmt := false }
  | none => k

/-- The trap registers and SSTAT take what a trap writes (R365, R367 to R369). A delivered pre-emption request with RECLAIM takes the core
from its share once it is idle (R367). -/
def Core.saveTrap (k : Core) (t : Trap) (late : Bool) (eia : Word) (held : Bool) : Core :=
  let ss := k.sstat
  { k with
    reclaim := k.reclaim || (t.intr && t.code == 0 && t.eaux == 1),
    cause := causeWord t late, eia := eia, eva := t.eva, eaux := t.eaux, ekv := t.ekv.getD k.ekv, line := none,
    settling := none, draining := none,
    sstat := { ss with pm := ss.mode, pie := ss.ie, ie := false, nest := ss.mode, mode := true, held := held } }

/-- The last steps of trap entry (R365): the trap is recorded, and the handler at TVEC is entered, or the task fails
where there is none. -/
def deliver (t : Trap) (late : Bool) (eia : Word) (held : Bool) : M Unit := do
  modMe fun k => k.saveTrap t late eia held
  let k ← getMe
  if !wellFormedIa k.tvec then failTask (failCause k.cause)
  else
    let r ← tryTrap (enterLine true k.tvec)
    match r with
    | .inl _ => failTask (failCause k.cause)
    | .inr l =>
      if lineNh l < iaSlot k.tvec then failTask (failCause k.cause)
      else modMe fun k => k.goAt k.tvec (some l)

/-- The drain at trap entry (R365): the entries run, and where it has to wait, the event is kept, so that no interrupt takes its place
(R371). A blocked WAITA is abandoned from then on (R325). -/
def drain (event : Option Trap) (eia : Word) : M Unit := do
  let c ← myNumber
  if ← stopsMma then return ()
  else
    runEntries
    if (← get).drained c then return ()
    else
      modify fun s => s.freeMonitor c
      modMe fun k => { k with draining := event.map fun t => (t, eia) }
      await

/-- Trap entry (R365, R366): the event given, or the oldest fault of a held entry, where an interrupt stays pending. `eia` is the address
of J. In supervisor mode nothing drains and nothing is held. -/
def trapEntry (event : Option Trap) (eia : Word) : M Unit := do
  let c ← myNumber
  let k ← getMe
  if k.draining.isNone then modMe fun k => k.accept event else pure ()
  if k.sstat.mode then
    match event with
    | some t => do
      modify fun s => s.freeMonitor c
      deliver t false eia k.sstat.held
    | none => return ()
  else
    drain event eia
    chainStopped
    let k ← getMe
    modify fun s => (s.freeMonitor c).leaveBarriers c
    let es := k.recalled ++ k.queue
    modMe fun k => k.hold es
    match es.findSome? VEntry.fault, event with
    | some t, _ => do
      modMe fun k => k.pend event
      deliver t true eia true
    | none, some t => deliver t false eia !es.isEmpty
    | none, none => return ()

/-! ## Late faults (R230, R365, R366, R372) -/

/-- A fault of the core's own vector work that waits to be taken, with the entry: at the head of the queue, or at the head
of a stopped channel. In supervisor mode a stopped copy of the task waits for the return to task mode. -/
def Core.lateFault (k : Core) : Option (VEntry × Trap) :=
  let fromChan := k.recalled.findSome? fun e =>
    match e.fault with
    | some t => if k.sstat.mode && !e.sup then none else some (e, t)
    | none => none
  match fromChan, k.queue with
  | some q, _ => some q
  | none, e :: _ => e.fault.map fun t => (e, t)
  | none, [] => none

/-- An entry that faulted in supervisor mode, and every younger one, leave with no further effect (R366). -/
def Core.discardFrom (k : Core) (e : VEntry) : Core :=
  { k with
    queue := k.queue.filter fun q => decide (q.seq < e.seq)
    chans := k.chans.map fun c =>
      match c.copies with
      | [] => c
      | q :: _ => { copies := c.copies.filter fun q => decide (q.seq < e.seq),
                    stopped := if q.seq < e.seq then c.stopped else none,
                    row := if q.seq < e.seq then c.row else [] } }

/-- A late fault is taken: by trap entry in task mode, as a nested trap in supervisor mode, and by failing the task
where entries are held (R366, R372). -/
def takeLate (e : VEntry) (t : Trap) : M Unit := do
  let k ← getMe
  if !k.sstat.mode then trapEntry none k.ia
  else
    modMe fun k => k.discardFrom e
    let c ← myNumber
    modify fun s => (s.freeMonitor c).leaveBarriers c
    if k.sstat.held then
      modMe fun k => { k with queue := [] }
      failTask (failCause (causeWord t true))
    else
      modMe fun k => { k with vstart := e.prog.word }
      deliver t true k.ia false

/-! ## Interrupts (R367, R374) -/

/-- The interrupt that is pending, a pre-emption request before a management message. -/
def Core.interrupt (k : Core) : Option Trap :=
  match k.preempt with
  | some r => some { intr := true, code := 0, eva := 0, eaux := if r then 1 else 0, ekv := none }
  | none => if k.mgmt then some { intr := true, code := 1, eva := 0, eaux := 0, ekv := none } else none

/-- Whether an interrupt is taken now: always in task mode, and while IE = 1 in supervisor mode (R374). -/
def Core.takesInterrupts (k : Core) : Bool := !k.sstat.mode || k.sstat.ie

/-! ## Returning (R379, R380) -/

/-- Held entries are settled by a mask and return to the head of the queue; entry 0 restarts at VSTART (R379). -/
def Core.settleHeld (k : Core) (mask : Word) : Core :=
  let es := match k.held with
    | [] => []
    | e :: rest => { e with prog := pointOf k.vstart } :: rest
  let kept := (es.zipIdx.filter fun q => !(mask.toNat.testBit q.2)).map Prod.fst
  { k with queue := kept ++ k.queue, held := [], restored := false,
           sstat := { k.sstat with held := false, nest := false, mode := false, ie := k.sstat.pie } }

/-- The return to supervisor mode from a nested trap (R379). -/
def Core.unnest (k : Core) : Core := { k with sstat := { k.sstat with nest := false, mode := true, ie := k.sstat.pie } }

/-- Waits until the queue is empty but for the task's copies on channels that a fault has stopped, which wait for the next trap entry in
task mode or for a CTXSAVE (R221, R365, R379). A fault of the supervisor's own work is taken first (R366, R372). -/
def waitUnstopped : M Unit := do
  waitEntries
  let k ← getMe
  runCopies k.copyFuel
  let k ← getMe
  if k.lateFault.isSome || (List.range 4).any fun i => !(k.chan i).copies.isEmpty && (k.chan i).stopped.isNone then await
  else return ()

/-- RESUME, and ERET as `resume x0` (R379); `f` is the F of the instruction. In task mode it raises cause 28. -/
def resumeWith (mask : Word) (f : Nat) : M Unit := do
  let k ← getMe
  if !k.sstat.mode then raise (faultOf 28 0 (0x10000 + f))
  else
    waitUnstopped
    let k ← getMe
    if k.sstat.pm then goTo true k.eia true (modMe Core.unnest)
    else if !k.sstat.loaded then goIdle
    else
      let r ← tryTrap (goTo false k.eia true (modMe fun k => k.settleHeld mask))
      match r with
      | .inr () => return ()
      | .inl t => if t.code = 3 ∧ k.restored then failTask 3 else raise t

/-! ## The frame of a scalar instruction -/

/-- An instruction has completed, and the scalar stream goes on in sequence; an address that is not well formed raises
illegal-target at the instruction (R15). -/
def retire : M Unit := do
  let k ← getMe
  match k.advance with
  | (k', none) => modMe fun _ => k'
  | (_, some n) => trapEntry (some (illegalTarget n)) k.ia

/-- Runs the body of an instruction: it waits for its registers (R246), and ends by going on, by waiting at the same
address, or by a precise trap (R365). -/
def runInstr (rs : List Reg) (body : M Flow) : M Unit := do
  let r ← tryTrap (do interlock rs; body)
  match r with
  | .inr .next => retire
  | .inr .stay => return ()
  | .inl t => do
    let k ← getMe
    trapEntry (some t) k.ia

/-- The state that a computation leaves, whether it completes or waits. -/
def State.after (s : State) (m : M Unit) : State := (m.run.run s).2

/-- The outcome of an instruction on the executing core: a next state in every case. -/
def instr (rs : List Reg) (body : M Flow) (s : State) : Host.Outcome State Fault Refusal := .next (s.after (runInstr rs body))

/-- The outcome of a scalar instruction that goes on in sequence. -/
def scalar (rs : List Reg) (body : M Unit) (s : State) : Host.Outcome State Fault Refusal :=
  instr rs (do body; return .next) s

/-- The outcome of a vector-class instruction: it is dispatched (R244). -/
def vector (op : VecOp) (rm : Rm) (a b c d : Option Reg) (s : State) : Host.Outcome State Fault Refusal :=
  scalar [] (dispatch op rm a b c d) s

/-- The outcome of an event: a next state in every case. -/
def event (m : M Unit) (s : State) : Host.Outcome State Fault Refusal := .next (s.after m)

end Sys2Proof.Machine
end

