-- ==== Sys2Proof/Machine/Alu.lean ====
section
/-! DEFINITION. Scalar integer arithmetic: OP 0x00 to 0x03 (R25, R249 to R251). -/
namespace Sys2Proof.Machine

open Sys2Proof

/-- The width n of an ALU operation (R249). -/
def aluWidth (w32 : Bool) : Nat := if w32 then 32 else 64

/-- The result of n bits as x[D] receives it: 32 bits are sign-extended (R249). -/
def aluResult (w32 : Bool) (v : Nat) : Word := if w32 then sextWord 32 v else word v

/-- 1 or 0. -/
def flagNat (b : Bool) : Nat := if b then 1 else 0

/-- ADD on n-bit values. -/
def aluAdd (_ a b : Nat) : Nat := a + b
/-- SUB on n-bit values. -/
def aluSub (n a b : Nat) : Nat := a + 2 ^ n - b
/-- AND on n-bit values. -/
def aluAnd (_ a b : Nat) : Nat := Nat.land a b
/-- OR on n-bit values. -/
def aluOr (_ a b : Nat) : Nat := Nat.lor a b
/-- XOR on n-bit values. -/
def aluXor (_ a b : Nat) : Nat := Nat.xor a b
/-- SHL on n-bit values. -/
def aluShl (n a b : Nat) : Nat := a * 2 ^ (b % n)
/-- SHR on n-bit values. -/
def aluShr (n a b : Nat) : Nat := a / 2 ^ (b % n)
/-- SRA on n-bit values: the floor of the signed quotient. -/
def aluSra (n a b : Nat) : Nat := wrapInt n (sint n a / ((2 ^ (b % n) : Nat) : Int))
/-- MUL on n-bit values. -/
def aluMul (_ a b : Nat) : Nat := a * b
/-- MULH on n-bit values. -/
def aluMulh (n a b : Nat) : Nat := wrapInt n (sint n a * sint n b / ((2 ^ n : Nat) : Int))
/-- MULHU on n-bit values. -/
def aluMulhu (n a b : Nat) : Nat := a * b / 2 ^ n

/-- DIV on n-bit values, saturating at its edges (R249). -/
def aluDiv (n a b : Nat) : Nat :=
  let i := sint n a
  let j := sint n b
  if j = 0 then (if i = 0 then 0 else if 0 < i then 2 ^ (n - 1) - 1 else 2 ^ (n - 1))
  else if i = -(2 ^ (n - 1) : Nat) ∧ j = -1 then 2 ^ (n - 1) - 1
  else wrapInt n (i.tdiv j)

/-- DIVU on n-bit values, saturating at its edges (R249). -/
def aluDivu (n a b : Nat) : Nat := if b = 0 then (if a = 0 then 0 else 2 ^ n - 1) else a / b

/-- REM on n-bit values (R249). -/
def aluRem (n a b : Nat) : Nat := if sint n b = 0 then 0 else wrapInt n ((sint n a).tmod (sint n b))
/-- REMU on n-bit values (R249). -/
def aluRemu (_ a b : Nat) : Nat := if b = 0 then 0 else a % b
/-- MIN on n-bit values. -/
def aluMin (n a b : Nat) : Nat := if sint n a ≤ sint n b then a else b
/-- MAX on n-bit values. -/
def aluMax (n a b : Nat) : Nat := if sint n a ≤ sint n b then b else a
/-- MINU on n-bit values. -/
def aluMinu (_ a b : Nat) : Nat := Nat.min a b
/-- MAXU on n-bit values. -/
def aluMaxu (_ a b : Nat) : Nat := Nat.max a b
/-- SLT on n-bit values. -/
def aluSlt (n a b : Nat) : Nat := flagNat (decide (sint n a < sint n b))
/-- SLTU on n-bit values. -/
def aluSltu (_ a b : Nat) : Nat := flagNat (decide (a < b))
/-- SEQ on n-bit values. -/
def aluSeq (_ a b : Nat) : Nat := flagNat (a == b)
/-- CLZ on an n-bit value. -/
def aluClz (n a : Nat) : Nat := if a = 0 then n else n - 1 - a.log2
/-- Trailing zero bits of a value, at most n. -/
def aluCtz : Nat → Nat → Nat
  | 0, _ => 0
  | n + 1, a => if a % 2 = 1 then 0 else aluCtz n (a / 2) + 1
/-- POPC on an n-bit value. -/
def aluPopc (n a : Nat) : Nat := popBelow a n

/-- The result of an operation of the ALU family on two values (R249). -/
def aluApply (f : Nat → Nat → Nat → Nat) (w32 : Bool) (a b : Word) : Word :=
  let n := aluWidth w32
  aluResult w32 (f n (a.toNat % 2 ^ n) (b.toNat % 2 ^ n))

/-- An ALU instruction of two operands (R249). -/
def aluTwo (f : Nat → Nat → Nat → Nat) (x : AluF) : M Unit := do
  let a ← readX x.a
  let b ← readX x.b
  writeX x.d (aluApply f x.w32 a b)

/-- An ALU instruction of one operand (R249). -/
def aluOne (f : Nat → Nat → Nat) (x : AluUF) : M Unit := do
  let a ← readX x.a
  writeX x.d (aluApply (fun n a _ => f n a) x.w32 a 0)

/-- An ALUI instruction with the OFS immediate (R250). -/
def aluImm (f : Nat → Nat → Nat → Nat) (x : AluIF) : M Unit := do
  let a ← readX x.a
  writeX x.d (aluApply f x.w32 a (x.imm.signExtend 64))

/-- An ALUI instruction with the shift field (R250). -/
def aluShift (f : Nat → Nat → Nat → Nat) (x : AluSF) : M Unit := do
  let a ← readX x.a
  writeX x.d (aluApply f x.w32 a (x.sh.setWidth 64))

/-- NOP (R25). -/
def execNop (s : State) : Host.Outcome State Fault Refusal := scalar [] (pure ()) s

/-- ADD (R249). -/
def execAdd (x : AluF) (s : State) : Host.Outcome State Fault Refusal := scalar [x.d, x.a, x.b] (aluTwo aluAdd x) s

/-- SUB (R249). -/
def execSub (x : AluF) (s : State) : Host.Outcome State Fault Refusal := scalar [x.d, x.a, x.b] (aluTwo aluSub x) s

/-- AND (R249). -/
def execAnd (x : AluF) (s : State) : Host.Outcome State Fault Refusal := scalar [x.d, x.a, x.b] (aluTwo aluAnd x) s

/-- OR (R249). -/
def execOr (x : AluF) (s : State) : Host.Outcome State Fault Refusal := scalar [x.d, x.a, x.b] (aluTwo aluOr x) s

/-- XOR (R249). -/
def execXor (x : AluF) (s : State) : Host.Outcome State Fault Refusal := scalar [x.d, x.a, x.b] (aluTwo aluXor x) s

/-- SHL (R249). -/
def execShl (x : AluF) (s : State) : Host.Outcome State Fault Refusal := scalar [x.d, x.a, x.b] (aluTwo aluShl x) s

/-- SHR (R249). -/
def execShr (x : AluF) (s : State) : Host.Outcome State Fault Refusal := scalar [x.d, x.a, x.b] (aluTwo aluShr x) s

/-- SRA (R249). -/
def execSra (x : AluF) (s : State) : Host.Outcome State Fault Refusal := scalar [x.d, x.a, x.b] (aluTwo aluSra x) s

/-- MUL (R249). -/
def execMul (x : AluF) (s : State) : Host.Outcome State Fault Refusal := scalar [x.d, x.a, x.b] (aluTwo aluMul x) s

/-- MULH (R249). -/
def execMulh (x : AluF) (s : State) : Host.Outcome State Fault Refusal := scalar [x.d, x.a, x.b] (aluTwo aluMulh x) s

/-- MULHU (R249). -/
def execMulhu (x : AluF) (s : State) : Host.Outcome State Fault Refusal := scalar [x.d, x.a, x.b] (aluTwo aluMulhu x) s

/-- DIV (R249). -/
def execDiv (x : AluF) (s : State) : Host.Outcome State Fault Refusal := scalar [x.d, x.a, x.b] (aluTwo aluDiv x) s

/-- DIVU (R249). -/
def execDivu (x : AluF) (s : State) : Host.Outcome State Fault Refusal := scalar [x.d, x.a, x.b] (aluTwo aluDivu x) s

/-- REM (R249). -/
def execRem (x : AluF) (s : State) : Host.Outcome State Fault Refusal := scalar [x.d, x.a, x.b] (aluTwo aluRem x) s

/-- REMU (R249). -/
def execRemu (x : AluF) (s : State) : Host.Outcome State Fault Refusal := scalar [x.d, x.a, x.b] (aluTwo aluRemu x) s

/-- MIN (R249). -/
def execMin (x : AluF) (s : State) : Host.Outcome State Fault Refusal := scalar [x.d, x.a, x.b] (aluTwo aluMin x) s

/-- MAX (R249). -/
def execMax (x : AluF) (s : State) : Host.Outcome State Fault Refusal := scalar [x.d, x.a, x.b] (aluTwo aluMax x) s

/-- MINU (R249). -/
def execMinu (x : AluF) (s : State) : Host.Outcome State Fault Refusal := scalar [x.d, x.a, x.b] (aluTwo aluMinu x) s

/-- MAXU (R249). -/
def execMaxu (x : AluF) (s : State) : Host.Outcome State Fault Refusal := scalar [x.d, x.a, x.b] (aluTwo aluMaxu x) s

/-- SLT (R249). -/
def execSlt (x : AluF) (s : State) : Host.Outcome State Fault Refusal := scalar [x.d, x.a, x.b] (aluTwo aluSlt x) s

/-- SLTU (R249). -/
def execSltu (x : AluF) (s : State) : Host.Outcome State Fault Refusal := scalar [x.d, x.a, x.b] (aluTwo aluSltu x) s

/-- SEQ (R249). -/
def execSeq (x : AluF) (s : State) : Host.Outcome State Fault Refusal := scalar [x.d, x.a, x.b] (aluTwo aluSeq x) s

/-- CLZ (R249). -/
def execClz (x : AluUF) (s : State) : Host.Outcome State Fault Refusal := scalar [x.d, x.a] (aluOne aluClz x) s

/-- CTZ (R249). -/
def execCtz (x : AluUF) (s : State) : Host.Outcome State Fault Refusal := scalar [x.d, x.a] (aluOne aluCtz x) s

/-- POPC (R249). -/
def execPopc (x : AluUF) (s : State) : Host.Outcome State Fault Refusal := scalar [x.d, x.a] (aluOne aluPopc x) s

/-- ADDI (R250). -/
def execAddi (x : AluIF) (s : State) : Host.Outcome State Fault Refusal := scalar [x.d, x.a] (aluImm aluAdd x) s

/-- ANDI (R250). -/
def execAndi (x : AluIF) (s : State) : Host.Outcome State Fault Refusal := scalar [x.d, x.a] (aluImm aluAnd x) s

/-- ORI (R250). -/
def execOri (x : AluIF) (s : State) : Host.Outcome State Fault Refusal := scalar [x.d, x.a] (aluImm aluOr x) s

/-- XORI (R250). -/
def execXori (x : AluIF) (s : State) : Host.Outcome State Fault Refusal := scalar [x.d, x.a] (aluImm aluXor x) s

/-- SLTI (R250). -/
def execSlti (x : AluIF) (s : State) : Host.Outcome State Fault Refusal := scalar [x.d, x.a] (aluImm aluSlt x) s

/-- SLTUI (R250). -/
def execSltui (x : AluIF) (s : State) : Host.Outcome State Fault Refusal := scalar [x.d, x.a] (aluImm aluSltu x) s

/-- SHLI (R250). -/
def execShli (x : AluSF) (s : State) : Host.Outcome State Fault Refusal := scalar [x.d, x.a] (aluShift aluShl x) s

/-- SHRI (R250). -/
def execShri (x : AluSF) (s : State) : Host.Outcome State Fault Refusal := scalar [x.d, x.a] (aluShift aluShr x) s

/-- SRAI (R250). -/
def execSrai (x : AluSF) (s : State) : Host.Outcome State Fault Refusal := scalar [x.d, x.a] (aluShift aluSra x) s

/-- LI (R251). -/
def execLi (x : LiF) (s : State) : Host.Outcome State Fault Refusal :=
  scalar [x.d] (writeX x.d (x.imm.signExtend 64)) s

/-- LIH (R251). -/
def execLih (x : LihF) (s : State) : Host.Outcome State Fault Refusal :=
  scalar [x.d] (do
    let v ← readX x.d
    writeX x.d (word (x.imm.toNat * 2 ^ 48 + v.toNat % 2 ^ 48))) s

end Sys2Proof.Machine
end

