-- ==== Sys2Proof/Machine/Fpu.lean ====
section
/-! DEFINITION. Scalar floating point: OP 0x04 and 0x05 (R252, R253). -/
namespace Sys2Proof.Machine

open Sys2Proof

/-- The FP32 bits of a scalar register value (R236). -/
def fpBits (v : Word) : Nat := v.toNat % 2 ^ 32

/-- The FP32 value of a scalar register value (R236). -/
def fpVal (v : Word) : Val := fmtFp32.decode (fpBits v)

/-- The rounding mode of a scalar instruction (R71). -/
def scalarMode (r : Rm) : M Mode := do return modeOf (← getMe).frm r

/-- Writes a result with its flags. -/
def writeFp (d : Reg) (r : Nat × FlagSet) : M Unit := do
  writeX d (word r.1)
  orFlags r.2

/-- An FP32 operation of two operands (R252). -/
def fpuTwo (f : Mode → Val → Val → Nat × FlagSet) (x : FpuF) : M Unit := do
  let a ← readX x.a
  let b ← readX x.b
  let m ← scalarMode x.rm
  writeFp x.d (f m (fpVal a) (fpVal b))

/-- A fused FP32 operation (R253). -/
def fpuFma (f : Mode → Val → Val → Val → Nat × FlagSet) (x : FmaF) : M Unit := do
  let a ← readX x.a
  let b ← readX x.b
  let c ← readX x.c
  let m ← scalarMode x.rm
  writeFp x.d (f m (fpVal a) (fpVal b) (fpVal c))

/-- An FP32 compare (R252). -/
def fpuCompare (o : CmpOp) (x : R3T2) : M Unit := do
  let a ← readX x.a
  let b ← readX x.b
  let (r, fl) := fCompare o (fpVal a) (fpVal b)
  writeFp x.d (flagNat r, fl)

/-- FMIN and FMAX (R252). -/
def fpuMinMax (wantMax : Bool) (x : R3T2) : M Unit := do
  let a ← readX x.a
  let b ← readX x.b
  writeFp x.d (fMinMax fmtFp32 wantMax (fpBits a) (fpBits b), 0)

/-- The one-hot class of an FP32 value (R252). -/
def fpClass (v : Nat) : Nat :=
  let neg := bit v 31
  match fmtFp32.decode v with
  | .nan => 2 ^ 8
  | .inf _ => if neg then 2 ^ 0 else 2 ^ 7
  | .fin _ m _ =>
    if m = 0 then (if neg then 2 ^ 3 else 2 ^ 4)
    else if bits v 30 23 = 0 then (if neg then 2 ^ 2 else 2 ^ 5)
    else (if neg then 2 ^ 1 else 2 ^ 6)

/-- FADD (R252). -/
def execFadd (x : FpuF) (s : State) : Host.Outcome State Fault Refusal :=
  scalar [x.d, x.a, x.b] (fpuTwo (fun m a b => fAdd fmtFp32 m false a b) x) s

/-- FSUB (R252). -/
def execFsub (x : FpuF) (s : State) : Host.Outcome State Fault Refusal :=
  scalar [x.d, x.a, x.b] (fpuTwo (fun m a b => fAdd fmtFp32 m false a b.neg) x) s

/-- FMUL (R252). -/
def execFmul (x : FpuF) (s : State) : Host.Outcome State Fault Refusal :=
  scalar [x.d, x.a, x.b] (fpuTwo (fun m a b => fMul fmtFp32 m false a b) x) s

/-- FDIV (R252). -/
def execFdiv (x : FpuF) (s : State) : Host.Outcome State Fault Refusal :=
  scalar [x.d, x.a, x.b] (fpuTwo (fun m a b => fDiv fmtFp32 m false a b) x) s

/-- FSQRT (R252). -/
def execFsqrt (x : FpuUF) (s : State) : Host.Outcome State Fault Refusal :=
  scalar [x.d, x.a] (do
    let a ← readX x.a
    let m ← scalarMode x.rm
    writeFp x.d (fSqrt fmtFp32 m false (fpVal a))) s

/-- FMIN (R252). -/
def execFmin (x : R3T2) (s : State) : Host.Outcome State Fault Refusal := scalar [x.d, x.a, x.b] (fpuMinMax false x) s

/-- FMAX (R252). -/
def execFmax (x : R3T2) (s : State) : Host.Outcome State Fault Refusal := scalar [x.d, x.a, x.b] (fpuMinMax true x) s

/-- FEQ (R252). -/
def execFeq (x : R3T2) (s : State) : Host.Outcome State Fault Refusal := scalar [x.d, x.a, x.b] (fpuCompare .eq x) s

/-- FLT (R252). -/
def execFlt (x : R3T2) (s : State) : Host.Outcome State Fault Refusal := scalar [x.d, x.a, x.b] (fpuCompare .lt x) s

/-- FLE (R252). -/
def execFle (x : R3T2) (s : State) : Host.Outcome State Fault Refusal := scalar [x.d, x.a, x.b] (fpuCompare .le x) s

/-- FCVTIF (R252). -/
def execFcvtif (x : FpuUF) (s : State) : Host.Outcome State Fault Refusal :=
  scalar [x.d, x.a] (do
    let a ← readX x.a
    let m ← scalarMode x.rm
    writeFp x.d (fmtFp32.round m false (Val.ofInt a.toInt))) s

/-- FCVTFI (R252, R73). -/
def execFcvtfi (x : FpuUF) (s : State) : Host.Outcome State Fault Refusal :=
  scalar [x.d, x.a] (do
    let a ← readX x.a
    let m ← scalarMode x.rm
    writeFp x.d (roundInt .i64 m (fpVal a))) s

/-- FCLASS (R252). -/
def execFclass (x : R2T2) (s : State) : Host.Outcome State Fault Refusal :=
  scalar [x.d, x.a] (do
    let a ← readX x.a
    writeX x.d (word (fpClass (fpBits a)))) s

/-- FFMA (R253). -/
def execFfma (x : FmaF) (s : State) : Host.Outcome State Fault Refusal :=
  scalar [x.d, x.a, x.b, x.c] (fpuFma (fun m a b c => fFma fmtFp32 m false a b c) x) s

/-- FFMS (R253). -/
def execFfms (x : FmaF) (s : State) : Host.Outcome State Fault Refusal :=
  scalar [x.d, x.a, x.b, x.c] (fpuFma (fun m a b c => fFma fmtFp32 m false a b c.neg) x) s

/-- FNFMA (R253). -/
def execFnfma (x : FmaF) (s : State) : Host.Outcome State Fault Refusal :=
  scalar [x.d, x.a, x.b, x.c] (fpuFma (fun m a b c => fFma fmtFp32 m false a.neg b c) x) s

end Sys2Proof.Machine
end

