-- ==== Sys2Proof/Machine/Branch.lean ====
section
/-! DEFINITION. Branches and jumps: OP 0x08 to 0x0A (R16, R254, R255). -/
namespace Sys2Proof.Machine

open Sys2Proof

/-- The target line of a relative transfer as an integer (R16). -/
def targetLine (k : Core) (delta : Int) : Int := (iaLine k.ia : Int) + delta

/-- The target of a relative transfer, as computed, and whether its line stays in 51 bits (R16). Where it does not, no rule gives the
width of the target that EAUX shows: the model shows the sum as a 64-bit two's-complement number (DESIGN CHOICE, log entry 71). -/
def relTarget (k : Core) (delta : Int) (slot : BitVec 5) : Word × Bool :=
  let l := targetLine k delta
  (BitVec.ofInt 64 (l * 64 + slot.toNat), decide (0 ≤ l) && decide (l < 2 ^ 51))

/-- A branch (R254). -/
def branch (cond : Word → Word → Bool) (x : BrF) : M Flow := do
  let a ← readX x.a
  let b ← readX x.b
  if cond a b then
    let k ← getMe
    let (t, ok) := relTarget k x.delta.toInt x.slot
    goTo k.sstat.mode t ok (pure ())
    return .stay
  else return .next

/-- BEQ (R254). -/
def execBeq (x : BrF) (s : State) : Host.Outcome State Fault Refusal := instr [x.a, x.b] (branch (fun a b => a == b) x) s

/-- BNE (R254). -/
def execBne (x : BrF) (s : State) : Host.Outcome State Fault Refusal := instr [x.a, x.b] (branch (fun a b => a != b) x) s

/-- BLT (R254). -/
def execBlt (x : BrF) (s : State) : Host.Outcome State Fault Refusal := instr [x.a, x.b] (branch (fun a b => a.slt b) x) s

/-- BGE (R254). -/
def execBge (x : BrF) (s : State) : Host.Outcome State Fault Refusal := instr [x.a, x.b] (branch (fun a b => !a.slt b) x) s

/-- BLTU (R254). -/
def execBltu (x : BrF) (s : State) : Host.Outcome State Fault Refusal := instr [x.a, x.b] (branch (fun a b => a.ult b) x) s

/-- BGEU (R254). -/
def execBgeu (x : BrF) (s : State) : Host.Outcome State Fault Refusal := instr [x.a, x.b] (branch (fun a b => !a.ult b) x) s

/-- JAL (R255). -/
def execJal (x : JalF) (s : State) : Host.Outcome State Fault Refusal :=
  instr [x.d] (do
    let k ← getMe
    let (t, ok) := relTarget k x.delta.toInt x.slot
    goTo k.sstat.mode t ok (writeX x.d k.nextIa)
    return .stay) s

/-- JALR (R255). -/
def execJalr (x : R2T2) (s : State) : Host.Outcome State Fault Refusal :=
  instr [x.d, x.a] (do
    let k ← getMe
    let t ← readX x.a
    goTo k.sstat.mode t true (writeX x.d k.nextIa)
    return .stay) s

end Sys2Proof.Machine
end

