-- ==== Sys2Proof/Machine/ScalarMem.lean ====
section
/-! DEFINITION. Scalar loads and stores, atomics, ordered accesses, fences and cache maintenance: OP 0x10 to 0x15 (R104 to R106,
R203, R204, R312 to R315, R320 to R322). -/
namespace Sys2Proof.Machine

open Sys2Proof

/-- The address x[A] + sext(I16, 64) (R204). -/
def memAddr (a : Word) (off : BitVec 16) : Nat := (a + off.signExtend 64).toNat

/-- Waits until no entry of the queue has yet to make an access that a test names (R308, R319): the entries run as far as they can. -/
def awaitQueue (meets : State → Bool) : M Unit := do
  if meets (← get) then
    runEntries
    if meets (← get) then await else return ()
  else return ()

/-- Waits until every earlier scalar store of the core to a range has performed (R105, R308, R322). -/
def settleOwn (loc n : Nat) : M Unit := do
  let c ← myNumber
  modify fun s => s.flushOver c loc n
  if (← getMe).unperformed loc n then
    runEntries
    modify fun s => s.flushOver c loc n
    if (← getMe).unperformed loc n then await else return ()
  else return ()

/-- An access to another device's memory performs after every earlier access of the core to its bytes (R319). -/
def fabricOrder (loc n : Nat) : M Unit := do
  if isFabric loc then
    settleOwn loc n
    let c ← myNumber
    awaitQueue fun s => s.queueMeets c loc n
  else return ()

/-- A scalar load of n bytes (R204). -/
def scalarLoad (va n : Nat) : M (List Byte) := do
  if va % n ≠ 0 then raise (misaligned va false)
  else
    let x ← myCtx
    let t ← readPlace x va
    fabricOrder t.loc n
    readScalar x.core t.key t.held va t.loc n

/-- Whether an entry of the queue has yet to access bytes that a store at an address of a place writes (R308). -/
def State.storeMeets (s : State) (c : Nat) (q : Place) (va n : Nat) : Bool :=
  match q with
  | .pad l => s.queueMeets c l n
  | .page p => if p.pdb.isSome then s.queueMeetsPage c p va n else s.queueMeets c (p.phys va) n

/-- A scalar store to a place (R204). One that inserts a line on a glaze page is part of that side change (R108): it performs at once,
after the stores before it and every older access of the queue to its bytes (R308). -/
def storeAt (x : Ctx) (q : Place) (va : Nat) (bs : List Byte) : M Unit := do
  if (← get).inserts x q va then
    awaitQueue fun s => s.storeMeets x.core q va bs.length
    modify fun s => s.flushSb x.core
    let t ← writeTarget x q va va
    modify fun s => s.perform (some x.core) t.key t.loc bs
  else
    let t ← writeTarget x q va va
    modify fun s => s.enterSb x.core (q.via x) t.key t.loc bs

/-- A scalar store (R204). -/
def scalarStore (va : Nat) (bs : List Byte) : M Unit := do
  if va % bs.length ≠ 0 then raise (misaligned va true)
  else
    let x ← myCtx
    let q ← place x .write va
    storeAt x q va bs

/-- A scalar load of n bytes (R204). -/
def loadOp (n : Nat) (signed : Bool) (x : MemF) : M Unit := do
  acquireGate
  let a ← readX x.a
  let bs ← scalarLoad (memAddr a x.off) n
  writeX x.d (if signed then sextWord (8 * n) (leNat bs) else word (leNat bs))

/-- A scalar store of n bytes (R204). -/
def storeOp (n : Nat) (x : MemF) : M Unit := do
  acquireGate
  let a ← readX x.a
  let v ← readX x.d
  scalarStore (memAddr a x.off) (leBytes n v.toNat)

/-- LB (R204). -/
def execLb (x : MemF) (s : State) : Host.Outcome State Fault Refusal := scalar [x.d, x.a] (loadOp 1 true x) s
/-- LBU (R204). -/
def execLbu (x : MemF) (s : State) : Host.Outcome State Fault Refusal := scalar [x.d, x.a] (loadOp 1 false x) s
/-- LH (R204). -/
def execLh (x : MemF) (s : State) : Host.Outcome State Fault Refusal := scalar [x.d, x.a] (loadOp 2 true x) s
/-- LHU (R204). -/
def execLhu (x : MemF) (s : State) : Host.Outcome State Fault Refusal := scalar [x.d, x.a] (loadOp 2 false x) s
/-- LW (R204). -/
def execLw (x : MemF) (s : State) : Host.Outcome State Fault Refusal := scalar [x.d, x.a] (loadOp 4 true x) s
/-- LWU (R204). -/
def execLwu (x : MemF) (s : State) : Host.Outcome State Fault Refusal := scalar [x.d, x.a] (loadOp 4 false x) s
/-- LD (R204). -/
def execLd (x : MemF) (s : State) : Host.Outcome State Fault Refusal := scalar [x.d, x.a] (loadOp 8 false x) s
/-- SB (R204). -/
def execSb (x : MemF) (s : State) : Host.Outcome State Fault Refusal := scalar [x.d, x.a] (storeOp 1 x) s
/-- SH (R204). -/
def execSh (x : MemF) (s : State) : Host.Outcome State Fault Refusal := scalar [x.d, x.a] (storeOp 2 x) s
/-- SW (R204). -/
def execSw (x : MemF) (s : State) : Host.Outcome State Fault Refusal := scalar [x.d, x.a] (storeOp 4 x) s
/-- SD (R204). -/
def execSd (x : MemF) (s : State) : Host.Outcome State Fault Refusal := scalar [x.d, x.a] (storeOp 8 x) s

/-! ## Releases and acquires of the scalar unit (R309, R310) -/

/-- A release of a scalar instruction: the queue empties first (R246 item 4). -/
def scalarRelease (scope : Scope) : M Unit := do
  waitEntries
  releaseWrites (scopeNum scope)

/-- The location that an AMO on a place reads: on a glaze page, of the line of its side (R108). -/
def State.amoLoc (s : State) (x : Ctx) (q : Place) (va : Nat) : Nat :=
  match q with
  | .pad l => l
  | .page p =>
    match p.pdb, pteGlz p.leaf.toNat with
    | some pdb, true => s.recordLoc x.scx.toNat p pdb va
    | _, _ => p.phys va

/-! ## Atomics (R320 to R322) -/

/-- The bytes of an AMO (R321). -/
def amoSize (dw : Bool) : Nat := if dw then 8 else 4

/-- One FP32 sum of AMOFADD (R321). -/
def amoFsum (a b : Nat) : Nat := (fAdd fmtFp32 .rne false (fmtFp32.decode a) (fmtFp32.decode b)).1

/-- AMOFADD on n bytes (R321). -/
def amoFadd (n old b : Nat) : Nat :=
  if n = 4 then amoFsum old b
  else amoFsum (old % 2 ^ 32) (b % 2 ^ 32) + amoFsum (old / 2 ^ 32) (b / 2 ^ 32) * 2 ^ 32

/-- An AMO (R322), after every older access of the core to its bytes (R308): `f` gives the value written for the
old one, none where nothing is written. `fp` zero-extends a word. -/
def amoRun (x : AmoF) (fp : Bool) (f : Nat → Option Nat) : M Unit := do
  acquireGate
  let n := amoSize x.dw
  let a := (← readX x.a).toNat
  if a % n ≠ 0 then raise (misaligned a true)
  else
    let t ← myCtx
    let q ← place t .write a
    if x.rel then scalarRelease x.scope else pure ()
    settleOwn ((← get).amoLoc t q a) n
    awaitQueue fun s => s.storeMeets t.core q a n
    let old ← atomicAt t q a n f
    writeX x.d (if x.dw || fp then word old else sextWord 32 old)
    if x.acq then acquireReads (scopeNum x.scope) else return ()

/-- An AMO of two values (R321). -/
def amoOp (f : Nat → Nat → Nat → Nat) (x : AmoF) : M Unit := do
  let n := amoSize x.dw
  let b ← readX x.b
  amoRun x false fun old => some (f (8 * n) old (b.toNat % 2 ^ (8 * n)) % 2 ^ (8 * n))

/-- AMOADD (R322). -/
def execAmoadd (x : AmoF) (s : State) : Host.Outcome State Fault Refusal := scalar [x.d, x.a, x.b] (amoOp aluAdd x) s
/-- AMOSWAP (R322). -/
def execAmoswap (x : AmoF) (s : State) : Host.Outcome State Fault Refusal := scalar [x.d, x.a, x.b] (amoOp (fun _ _ b => b) x) s
/-- AMOAND (R322). -/
def execAmoand (x : AmoF) (s : State) : Host.Outcome State Fault Refusal := scalar [x.d, x.a, x.b] (amoOp aluAnd x) s
/-- AMOOR (R322). -/
def execAmoor (x : AmoF) (s : State) : Host.Outcome State Fault Refusal := scalar [x.d, x.a, x.b] (amoOp aluOr x) s
/-- AMOXOR (R322). -/
def execAmoxor (x : AmoF) (s : State) : Host.Outcome State Fault Refusal := scalar [x.d, x.a, x.b] (amoOp aluXor x) s
/-- AMOMIN (R322). -/
def execAmomin (x : AmoF) (s : State) : Host.Outcome State Fault Refusal := scalar [x.d, x.a, x.b] (amoOp aluMin x) s
/-- AMOMAX (R322). -/
def execAmomax (x : AmoF) (s : State) : Host.Outcome State Fault Refusal := scalar [x.d, x.a, x.b] (amoOp aluMax x) s
/-- AMOMINU (R322). -/
def execAmominu (x : AmoF) (s : State) : Host.Outcome State Fault Refusal := scalar [x.d, x.a, x.b] (amoOp aluMinu x) s
/-- AMOMAXU (R322). -/
def execAmomaxu (x : AmoF) (s : State) : Host.Outcome State Fault Refusal := scalar [x.d, x.a, x.b] (amoOp aluMaxu x) s

/-- AMOFADD (R322). -/
def execAmofadd (x : AmoF) (s : State) : Host.Outcome State Fault Refusal :=
  scalar [x.d, x.a, x.b] (do
    let n := amoSize x.dw
    let b ← readX x.b
    amoRun x true fun old => some (amoFadd n old (b.toNat % 2 ^ (8 * n)))) s

/-- AMOCAS (R322). -/
def execAmocas (x : AmoCasF) (s : State) : Host.Outcome State Fault Refusal :=
  scalar [x.d, x.a, x.b, x.c] (do
    let m := 2 ^ (8 * amoSize x.dw)
    let b ← readX x.b
    let c ← readX x.c
    amoRun { d := x.d, a := x.a, b := x.b, acq := x.acq, rel := x.rel, dw := x.dw, scope := x.scope } false fun old =>
      if old = c.toNat % m then some (b.toNat % m) else none) s

/-! ## Ordered accesses (R312, R313) -/

/-- LDA (R313). -/
def ldaOp (n : Nat) (x : OrdF) : M Unit := do
  acquireGate
  let a ← readX x.a
  let bs ← scalarLoad a.toNat n
  writeX x.d (word (leNat bs))
  acquireReads (scopeNum x.scope)

/-- STL (R313). -/
def stlOp (n : Nat) (x : OrdF) : M Unit := do
  acquireGate
  let a := (← readX x.a).toNat
  let v ← readX x.d
  if a % n ≠ 0 then raise (misaligned a true)
  else
    let t ← myCtx
    let q ← place t .write a
    scalarRelease x.scope
    storeAt t q a (leBytes n v.toNat)

/-- LDA.W (R313). -/
def execLdaW (x : OrdF) (s : State) : Host.Outcome State Fault Refusal := scalar [x.d, x.a] (ldaOp 4 x) s
/-- LDA.D (R313). -/
def execLdaD (x : OrdF) (s : State) : Host.Outcome State Fault Refusal := scalar [x.d, x.a] (ldaOp 8 x) s
/-- STL.W (R313). -/
def execStlW (x : OrdF) (s : State) : Host.Outcome State Fault Refusal := scalar [x.d, x.a] (stlOp 4 x) s
/-- STL.D (R313). -/
def execStlD (x : OrdF) (s : State) : Host.Outcome State Fault Refusal := scalar [x.d, x.a] (stlOp 8 x) s

/-! ## Fences (R314, R315) -/

/-- The acquire of a FENCE: later accesses wait for every read before it, and at SYSTEM scope the die then applies every
write (R315). -/
def fenceAcquire (scope : Scope) : M Unit := do
  modMe fun k => { k with fenceSeq := k.seq }
  if scope = .system then
    acquireGate
    acquireReads (scopeNum scope)
  else return ()

/-- FENCE (R315). -/
def execFence (x : FenceF) (s : State) : Host.Outcome State Fault Refusal :=
  scalar [] (do
    if x.rel then scalarRelease x.scope else pure ()
    if x.acq then fenceAcquire x.scope else pure ()) s

/-- FENCE.SV (R315): no vector-class instruction after it is dispatched until every scalar store before it has performed. Later scalar
instructions proceed. -/
def execFenceSv (s : State) : Host.Outcome State Fault Refusal := scalar [] (modMe fun k => { k with svFence := k.seq }) s

/-- FENCE.VS (R315): the queue and the channels empty, and crust commands with REL perform. -/
def execFenceVs (s : State) : Host.Outcome State Fault Refusal :=
  scalar [] (do
    waitEmpty
    let c ← myNumber
    modify fun s => s.crustRel c) s

/-! ## Cache maintenance (R104 to R106) -/

/-- The line that a cache instruction acts on, and whether its page is versioned; none on a pad address (R105, R106). -/
def cacheLine (acc : Acc) (x : CacheF) : M (Option (Target × Bool)) := do
  let va := memAddr (← readX x.a) x.off / 64 * 64
  if va < 2 ^ 57 ∧ isPadVa va then return none
  else
    let t ← myCtx
    let q ← place t acc va
    match q with
    | .pad _ => return none
    | .page p => return some ((← get).readTarget t p va, pteVers p.leaf.toNat)

/-- A line is written back and stays clean, and every guest copy and one core's L1 copy are invalidated (R105). -/
def State.flushLine (s : State) (c line : Nat) : State := ((s.writeBack line).dropGuests [line]).dropL1Of c line

/-- CFLUSH (R105). -/
def execCflush (x : CacheF) (s : State) : Host.Outcome State Fault Refusal :=
  scalar [x.a] (do
    match ← cacheLine .read x with
    | none => pure ()
    | some (t, vers) =>
      if vers then pure ()
      else
        settleOwn (t.loc / 64 * 64) 64
        let c ← myNumber
        modify fun s => s.flushLine c (t.loc / 64)) s

/-- CINV (R105): the instruction cache and the L1 of the core give up the line. -/
def execCinv (x : CacheF) (s : State) : Host.Outcome State Fault Refusal :=
  scalar [x.a] (do
    match ← cacheLine .read x with
    | none => pure ()
    | some (t, _) => do
      modMe fun k => { k with icache := k.icache.filter fun l => l.loc != t.loc / 64 * 64 }
      let c ← myNumber
      modify fun s => s.dropL1Of c (t.loc / 64)) s

/-- CPREF brings a line into the L1 of a core and the L2 of its die, where it may be held: a fill is recorded as for a scalar load
(R105, R306). -/
def State.prefetch (s : State) (c : Nat) (t : Target) : State :=
  let d := dieOf c
  match homeOf t.loc with
  | none => s
  | some h =>
    if !t.held || (s.lineError t.key (t.loc / 64)).isSome then s
    else
      if h = d then s.holdL1 c (t.loc / 64) else
      let f : FillRec := { die := d, home := h, line := t.loc / 64, bytes := lineOfBytes (s.readAs t.key t.loc 64),
                           stamp := s.stampOf (t.loc / 64), h := (s.die h).dvc.get h, core := c }
      { s with fills := s.fills ++ [f] }

/-- CPREF (R105): a hint that never faults. -/
def execCpref (x : CacheF) (s : State) : Host.Outcome State Fault Refusal :=
  scalar [x.a] (do
    let r ← tryTrap (cacheLine .read x)
    match r with
    | .inr (some (t, false)) => do
      let c ← myNumber
      modify fun s => s.prefetch c t
    | _ => pure ()) s

/-- The head of the instruction that a core executes, from the copy of its line (R18). -/
def Core.head (k : Core) : Nat :=
  match k.line with
  | some l => (lineHead l.bits (iaSlot k.ia)).toNat
  | none => 0

/-- The trap of a case of R23 that the decoder does not decide: EAUX holds the head and the case (R367). -/
def Core.undefinedCase (k : Core) (case : Nat) : Trap := faultOf 1 0 (k.head * 2 ^ 16 + case)

/-- A supervisor-only instruction raises undefined-operation, case 10, in task mode (R23). -/
def supervisorOnly : M Unit := do
  let k ← getMe
  if k.sstat.mode then return () else raise (k.undefinedCase 10)

/-- Every cached copy of a line is discarded. -/
def State.uncache (s : State) (line : Nat) : State :=
  { s.dropGuests [line] with fills := s.fills.filter (fun f => f.line != line), l1 := s.l1.filter fun p => p.2 != line }

/-- What HBM4E holds of a line, where it differs from the home copy (R105). -/
def State.hbmLine (s : State) (line : Nat) : Option Stale := s.dirty.find? fun p => p.line == line

/-- A line takes what HBM4E holds of it, with the key that it is sealed under there (R105, R181). -/
def State.restoreLine (s : State) (p : Stale) : State :=
  let rest := s.sealTags.filter fun t => t.1 != p.line
  ({ s with sealTags := match p.tag with | some t => (p.line, t) :: rest | none => rest }.setBytes (p.line * 64)
    (bytesOfLine p.bytes)).forgetDirty p.line

/-- CDROP discards a line that may be cached (R105): it holds what it held before, or what HBM4E holds. -/
def dropLine (line : Nat) : M Unit := do
  modify fun s => s.uncache line
  match (← get).hbmLine line with
  | none => return ()
  | some old =>
    let n ← drawChoice 2
    modify fun s => if n = 0 then s.writeBack line else s.restoreLine old

/-- CDROP (R105). -/
def execCdrop (x : CacheF) (s : State) : Host.Outcome State Fault Refusal :=
  scalar [x.a] (do
    supervisorOnly
    match ← cacheLine .write x with
    | none => pure ()
    | some (t, vers) => if vers then pure () else dropLine (t.loc / 64)) s

end Sys2Proof.Machine
end

