-- ==== Sys2Proof/Machine/Sync.lean ====
section
/-! DEFINITION. Address waits: OP 0x16 (R323 to R325). -/
namespace Sys2Proof.Machine

open Sys2Proof

/-- The entries of a monitor table (R325). -/
def monitorRoom : Nat := 256

/-- The location that a read of an address by an access id finds as memory now selects it (R107, R141). -/
def State.watchLoc (s : State) (scx : BitVec 16) (q : Place) (va : Nat) : Nat :=
  match q with
  | .pad l => l
  | .page p =>
    match p.pdb with
    | none => p.phys va
    | some pdb =>
      if pteVers p.leaf.toNat then s.newestLoc (s.vlineOf p pdb va) + va % 64
      else if pteGlz p.leaf.toNat then s.recordLoc scx.toNat p pdb va
      else p.phys va

/-- The location that a WAITA watches, and how many writes have performed there (R324): what a write to its doubleword changes. -/
def State.watched (s : State) (scx : BitVec 16) (q : Place) (va : Nat) : Nat × Nat :=
  let a := s.watchLoc scx q va
  (a, s.writesOf a)

/-- Reads the doubleword a WAITA watches, at home (R324), and answers it with its place. -/
def waitRead (va : Nat) : M (Word × Place) := do
  let x ← myCtx
  let q ← place x .read va
  settleOwn (← readIn x q va).loc 8
  let bs ← vecRead x q va 8
  return (word (leNat bs), q)

/-- Whether a value meets the condition of a WAITA (R324). -/
def waitMet (equal : Bool) (v value : Word) : Bool := (v == value) == equal

/-- What a WAITA that goes on waiting has last read (R324). -/
def Monitor.read (m : Monitor) (s : State) (q : Place) : Monitor :=
  { m with place := q, seen := s.watched m.scx q m.va }

/-- A re-read of a blocked WAITA, after a write to its doubleword has performed; answers whether the wait has ended with status 0
(R324). -/
def waitReread (m : Monitor) : M Bool := do
  let c ← myNumber
  let s ← get
  if m.seen == s.watched m.scx m.place m.va then return false
  else
    let (v, q) ← waitRead m.va
    if waitMet m.equal v m.value then
      modify fun s => s.freeMonitor c
      writeX m.d 0
      acquireReads deviceScope
      return true
    else
      let s ← get
      modMe fun k => { k with monitor := k.monitor.map fun m => m.read s q }
      return false

/-- The timeout of a blocked WAITA; answers whether it has elapsed, which ends the wait with status 1 (R324). -/
def waitTimeout (m : Monitor) : M Bool := do
  let c ← myNumber
  let s ← get
  match m.deadline with
  | some t =>
    if t ≤ s.cycle then
      modify fun s => s.freeMonitor c
      writeX m.d 1
      return true
    else return false
  | none => return false

/-- A WAITA, from its start or blocked (R324, R325). -/
def waita (equal : Bool) (x : WaitF) : M Unit := do
  let c ← myNumber
  let k ← getMe
  match k.monitor with
  | some m =>
    if ← waitReread m then return ()
    else if ← waitTimeout m then return ()
    else await
  | none =>
    acquireGate
    let a := (← readX x.a).toNat
    let b ← readX x.b
    if a % 8 ≠ 0 then raise (misaligned a false)
    else
      let (v, q) ← waitRead a
      let s ← get
      if waitMet equal v b then
        writeX x.d 0
        acquireReads deviceScope
      else if monitorRoom ≤ (s.die (dieOf c)).monitors then writeX x.d 2
      else
        modify fun s => s.updDie (dieOf c) fun d => { d with monitors := d.monitors + 1 }
        let m : Monitor := { d := x.d, va := a, value := b, equal := equal, place := q, scx := k.scx, seen := s.watched k.scx q a,
                             deadline := if x.tmo = 0 then none else some (s.cycle + 1024 * x.tmo.toNat) }
        modMe fun k => { k with monitor := some m }
        await

/-- WAITNE (R324). -/
def execWaitne (x : WaitF) (s : State) : Host.Outcome State Fault Refusal := scalar [x.d, x.a, x.b] (waita false x) s

/-- WAITEQ (R324). -/
def execWaiteq (x : WaitF) (s : State) : Host.Outcome State Fault Refusal := scalar [x.d, x.a, x.b] (waita true x) s

/-- A blocked WAITA of a core goes on, where a test of its monitor ends it. One that a trap entry has abandoned has no monitor (R325). -/
def onMonitor (c : Nat) (test : Monitor → M Bool) : M Unit :=
  onCore c (do
    let k ← getMe
    match k.monitor with
    | none => return ()
    | some m => runInstr [] (do if ← test m then return .next else await))

/-- WAITA_REREAD (R324): a blocked WAITA re-reads its doubleword. -/
def execWaitaReread (core : Nat) (s : State) : Host.Outcome State Fault Refusal := event (onMonitor core waitReread) s

/-- WAITA_TIMEOUT (R324): the timeout of a blocked WAITA elapses. -/
def execWaitaTimeout (core : Nat) (s : State) : Host.Outcome State Fault Refusal := event (onMonitor core waitTimeout) s

end Sys2Proof.Machine
end

