-- ==== Sys2Proof/Machine/Csr.lean ====
section
/-! DEFINITION. Control and status registers: OP 0x18 (R2, R70, R71, R109, R149, R157, R222, R241 to R243, R281, R349, R368, R369,
R377). -/
namespace Sys2Proof.Machine

open Sys2Proof

/-- Whether a CSR is of side "vector" (R241). -/
def Csr.vectorSide (c : Csr) : Bool :=
  match c with
  | .flags | .vstart | .ffnr | .mgrant | .cpwp0 | .cpwp1 | .cpwp2 | .cpwp3 => true
  | _ => false

/-- Whether a task-mode write of a CSR is allowed (R241). -/
def Csr.taskWritable (c : Csr) : Bool :=
  match c with
  | .flags | .frm | .scx | .verstat | .paduse => true
  | _ => false

/-- SSTAT as a word (R369). -/
def Sstat.word (s : Sstat) : Word :=
  Machine.word (flagNat s.mode + 2 * flagNat s.pm + 8 * flagNat s.ie + 16 * flagNat s.pie + 32 * flagNat s.nest
    + 64 * flagNat s.loaded + 128 * flagNat s.held)

/-- VQSTAT: the queue of a core as it stands (R242, R407). -/
def State.vqstat (s : State) (c : Nat) : Word :=
  let k := s.core c
  let chans := (List.range 4).foldl (fun n i => if (k.chan i).copies.isEmpty then n else n + 2 ^ i) 0
  word (k.occupied + 256 * flagNat (s.headWaits c) + 65536 * chans)

/-- BUDGET.LEFT: the cycles left, all ones where no budget is enforced (R349, R355). -/
def State.budgetLeft (s : State) : Word :=
  match s.me.deadline with
  | none => BitVec.allOnes 64
  | some t => word (t - s.cycle)

/-- The value of a CSR of the executing core (R241, R242). -/
def State.csrValue (s : State) (c : Csr) : Word :=
  let k := s.me
  match c with
  | .flags => k.flags.setWidth 64
  | .frm => k.frm.setWidth 64
  | .vshape => word (flagNat k.wide)
  | .nr => k.nr.setWidth 64
  | .nc => k.nc.setWidth 64
  | .vstart => k.vstart
  | .vqstat => s.vqstat s.cur
  | .ffnr => k.ffnr.setWidth 64
  | .scx => k.scx.setWidth 64
  | .verstat => k.verstat
  | .mgrant => s.mgrant s.cur
  | .kvroot => k.kvroot
  | .cpwp0 => k.cpwp[0]
  | .cpwp1 => k.cpwp[1]
  | .cpwp2 => k.cpwp[2]
  | .cpwp3 => k.cpwp[3]
  | .taskrec => k.taskrec
  | .launch => k.launch
  | .budget => s.budgetLeft
  | .paduse => k.paduse
  | .dtime => word s.dtime
  | .cycle => word s.cycle
  | .cause => k.cause
  | .eia => k.eia
  | .eva => k.eva
  | .ekv => k.ekv
  | .eaux => k.eaux
  | .tvec => k.tvec
  | .sstat => k.sstat.word
  | .asid => k.asid.setWidth 64
  | .ptroot => k.ptroot

/-- PADUSE as it is stored: each field at most its maximum (R377). -/
def paduseWord (v : Word) : Word := word (min (bits v.toNat 20 0) 1048576 + min (bits v.toNat 44 32) 4096 * 2 ^ 32)

/-- Writes a CSR: fields that are read-only or reserved keep their values (R2, R241). -/
def Core.setCsr (k : Core) (c : Csr) (v : Word) : Core :=
  match c with
  | .flags => { k with flags := v.setWidth 6 }
  | .frm => { k with frm := v.setWidth 2 }
  | .vstart => { k with vstart := v &&& 0x0000FFFFFFFF0003 }
  | .scx => { k with scx := v.setWidth 16 }
  | .verstat => { k with verstat := v &&& 0xFFFFFFFF00000003 }
  | .kvroot => { k with kvroot := v &&& 0x000FFFFFFFFF8001 }
  | .cpwp0 => k.setCpwp 0 v
  | .cpwp1 => k.setCpwp 1 v
  | .cpwp2 => k.setCpwp 2 v
  | .cpwp3 => k.setCpwp 3 v
  | .paduse => { k with paduse := paduseWord v }
  | .cause => { k with cause := v &&& 0xC0000000000000FF }
  | .eia => { k with eia := v }
  | .eva => { k with eva := v }
  | .ekv => { k with ekv := v }
  | .eaux => { k with eaux := v }
  | .tvec => { k with tvec := v }
  | .sstat => { k with sstat := { k.sstat with pie := bit v.toNat 4, ie := bit v.toNat 3, pm := bit v.toNat 1 } }
  | .asid => { k with asid := v.setWidth 16 }
  | .ptroot => { k with ptroot := v &&& 0x000FFFFFFFFFF000 }
  | .vshape | .nr | .nc | .vqstat | .ffnr | .mgrant | .taskrec | .launch | .budget | .dtime | .cycle => k

/-- Waits until the queue is empty, issued copies included, in either mode (R221, R246). -/
def waitQueue : M Unit := waitEmpty

/-- Reads a CSR in step with the vector unit (R246). -/
def readCsr (c : Csr) : M Word := do
  if Csr.vectorSide c then waitQueue else pure ()
  return (← get).csrValue c

/-- A CSR instruction that writes (R243): `f` combines the old value and x[A]. -/
def csrWrite (f : Word → Word → Word) (x : CsrF) : M Unit := do
  if x.csr = .ptroot then supervisorOnly else pure ()
  let a ← readX x.a
  let old ← readCsr x.csr
  let k ← getMe
  if k.sstat.mode || Csr.taskWritable x.csr then modMe fun k => k.setCsr x.csr (f old a) else pure ()
  writeX x.d old

/-- CSRR (R243). -/
def execCsrr (x : CsrRF) (s : State) : Host.Outcome State Fault Refusal :=
  scalar [x.d] (do
    let v ← readCsr x.csr
    writeX x.d v) s

/-- CSRW (R243). -/
def execCsrw (x : CsrF) (s : State) : Host.Outcome State Fault Refusal := scalar [x.d, x.a] (csrWrite (fun _ a => a) x) s

/-- CSRS (R243). -/
def execCsrs (x : CsrF) (s : State) : Host.Outcome State Fault Refusal := scalar [x.d, x.a] (csrWrite (fun o a => o ||| a) x) s

/-- CSRC (R243). -/
def execCsrc (x : CsrF) (s : State) : Host.Outcome State Fault Refusal :=
  scalar [x.d, x.a] (csrWrite (fun o a => o &&& ~~~a) x) s

/-- The CSR of a channel's write pointer (R241). -/
def cpwpCsr (ch : BitVec 2) : Csr :=
  match ch.toNat with
  | 0 => .cpwp0 | 1 => .cpwp1 | 2 => .cpwp2 | _ => .cpwp3

/-- CPWP_WRITE (R222, R243): CSRW naming a write pointer. -/
def execCpwpWrite (x : CpwpF) (s : State) : Host.Outcome State Fault Refusal :=
  scalar [x.d, x.a] (csrWrite (fun _ a => a) { d := x.d, a := x.a, csr := cpwpCsr x.ch }) s

end Sys2Proof.Machine
end

