-- ==== Sys2Proof/Machine/System.lean ====
section
/-! DEFINITION. TRAP, ERET, RESUME, TLBINV and WFI: OP 0x19 (R103, R378 to R380). -/
namespace Sys2Proof.Machine

open Sys2Proof

/-- TRAP (R365, R378): the trap is taken with the address of the next instruction. -/
def execTrap (x : CodeF) (s : State) : Host.Outcome State Fault Refusal :=
  instr [] (do
    let k ← getMe
    trapEntry (some (faultOf 28 0 x.code.toNat)) k.nextIa
    return .stay) s

/-- ERET (R379). -/
def execEret (s : State) : Host.Outcome State Fault Refusal :=
  instr [] (do
    resumeWith 0 1
    return .stay) s

/-- RESUME (R379). -/
def execResume (x : R1T2) (s : State) : Host.Outcome State Fault Refusal :=
  instr [x.a] (do
    let m ← readX x.a
    resumeWith m 2
    return .stay) s

/-- Every scalar store of every core that may leave performs. -/
def State.flushEvery (s : State) : State := (List.range s.cores.length).foldl State.flushSb s

/-- Whether a scalar store that a translation of a kind gave has not performed (R103). -/
def State.storesVia (s : State) (test : TlbEntry → Bool) : Bool := s.cores.any fun k => k.sb.any fun e => e.via.any test

/-- The cores whose channels have yet to write parts of a row that is already translated. -/
def State.rowsLeft (s : State) : List Nat :=
  (List.range s.cores.length).filter fun c => (List.range 4).any fun ch => !((s.core c).chan ch).row.isEmpty

/-- The channels of the executing core write what is left of the rows they have begun. -/
def deliverRows : M Unit :=
  (List.range 4).forM fun ch => do
    let ps := ((← getMe).chan ch).row
    modMe fun k => k.updChan ch fun q => { q with row := [] }
    let c ← myNumber
    ps.forM (deliverPart c ch)

/-- The cores that have items at some crust. -/
def State.itemsLeft (s : State) : List Nat := (s.crusts.flatMap fun k => itemCores k.queue).dedup

/-- TLBINV (R103): a release at DEVICE scope; held translations leave every die, and every access already translated performs: the
scalar stores of the cores, the rows that channels have begun, and the items at the crusts. Of the stores that may not leave their core yet
it waits for those that a removed translation gave. The mode is in x[B]. -/
def tlbinvOp (x : RabT2) : M Unit := do
  supervisorOnly
  let a ← readX x.a
  let b ← readX x.b
  scalarRelease .device
  modify State.flushEvery
  let asid := BitVec.ofNat 16 (bits b.toNat 15 0)
  let mode := bits b.toNat 17 16
  if (← get).storesVia fun t => t.removed a.toNat asid mode then await else pure ()
  (← get).rowsLeft.forM fun c => onCore c deliverRows
  modify fun s => s.itemsLeft.foldl State.crustAll s
  modify fun s => s.tlbinv a.toNat asid mode

/-- TLBINV by address (R103). -/
def execTlbinvAddress (x : RabT2) (s : State) : Host.Outcome State Fault Refusal := scalar [x.a, x.b] (tlbinvOp x) s

/-- TLBINV by ASID (R103). -/
def execTlbinvAsid (x : RabT2) (s : State) : Host.Outcome State Fault Refusal := scalar [x.a, x.b] (tlbinvOp x) s

/-- TLBINV of everything (R103). -/
def execTlbinvAll (x : RabT2) (s : State) : Host.Outcome State Fault Refusal := scalar [x.a, x.b] (tlbinvOp x) s

/-- WFI (R380): waits until an interrupt is pending. -/
def execWfi (s : State) : Host.Outcome State Fault Refusal :=
  scalar [] (do
    supervisorOnly
    let k ← getMe
    if k.interrupt.isSome then return () else await) s

end Sys2Proof.Machine
end

