-- ==== Sys2Proof/Machine/GlazeX.lean ====
section
/-! DEFINITION. The overlay instructions and the scalar version instructions: OP 0x58 and 0x5A (R119 to R128, R142, R143, R146 to
R150). -/
namespace Sys2Proof.Machine

open Sys2Proof

/-! ## Overlays -/

/-- GSPEC (R121). -/
def execGspec (x : R2T2) (s : State) : Host.Outcome State Fault Refusal :=
  scalar [x.d, x.a] (do
    let a ← readX x.a
    scalarRelease .device
    let k ← getMe
    modMe fun k => { k with scx := a.setWidth 16 }
    writeX x.d (k.scx.setWidth 64)) s

/-- GCOMMIT and GDISCARD (R122). -/
def settleOp (commit : Bool) (x : R3T2) : M Unit := do
  let a ← readX x.a
  let b ← readX x.b
  scalarRelease .device
  let n ← settle (← myCtx) commit a b
  writeX x.d n

/-- One page of a GCOMMIT or GDISCARD (R123): after its last the instruction completes; before that it goes on later, or ends at an
interrupt. -/
def settleOne (commit : Bool) (x : R3T2) : M Flow := do
  let a ← readX x.a
  let b ← readX x.b
  scalarRelease .device
  match ← settleStep (← myCtx) commit a b with
  | some n => do writeX x.d n; return .next
  | none => await

/-- GCOMMIT (R122). -/
def execGcommit (x : R3T2) (s : State) : Host.Outcome State Fault Refusal := scalar [x.d, x.a, x.b] (settleOp true x) s

/-- GDISCARD (R122). -/
def execGdiscard (x : R3T2) (s : State) : Host.Outcome State Fault Refusal := scalar [x.d, x.a, x.b] (settleOp false x) s

/-- GFLATTEN (R125). -/
def execGflatten (x : R3T2) (s : State) : Host.Outcome State Fault Refusal :=
  scalar [x.d, x.a, x.b] (do
    supervisorOnly
    let a ← readX x.a
    let b ← readX x.b
    scalarRelease .device
    let r ← gflatten (← myCtx) a b
    writeX x.d r) s

/-- GPOOL (R126): the control word chooses among its three forms. -/
def gpoolOp (x : R3T2) : M Unit := do
  supervisorOnly
  let a ← readX x.a
  let b ← readX x.b
  let r ← gpool (← myCtx) a b
  writeX x.d r

/-- GPOOL, donation (R126). -/
def execGpoolDonate (x : R3T2) (s : State) : Host.Outcome State Fault Refusal := scalar [x.d, x.a, x.b] (gpoolOp x) s

/-- GPOOL, drop (R126). -/
def execGpoolDrop (x : R3T2) (s : State) : Host.Outcome State Fault Refusal := scalar [x.d, x.a, x.b] (gpoolOp x) s

/-- GPOOL, query (R126). -/
def execGpoolQuery (x : R3T2) (s : State) : Host.Outcome State Fault Refusal := scalar [x.d, x.a, x.b] (gpoolOp x) s

/-- GQUERY (R127). -/
def execGquery (x : R3T2) (s : State) : Host.Outcome State Fault Refusal :=
  scalar [x.d, x.a, x.b] (do
    let a ← readX x.a
    let b ← readX x.b
    let r ← gquery (← myCtx) a b
    writeX x.d r) s

/-! ## Versions -/

/-- VERSTAT after a version read (R149). -/
def verstatWord (w v : Nat) (isSealed : Bool) : Word := word (w * 2 ^ 32 + 2 * flagNat isSealed + flagNat (w == v))

/-- VERST (R148). Its write performs in the instruction's own step: a later load that is answered before it is left out (log entry 81). -/
def verstOp (x : VerF) : M Unit := do
  let c ← myNumber
  let n := 2 ^ x.width.toNat
  let a := (← readX x.a).toNat
  let b ← readX x.b
  let v := (← readX x.d).toNat % 2 ^ 32
  if a % n ≠ 0 then raise (misaligned a true)
  else
    let q ← place (← myCtx) .write a
    scalarRelease .device
    match (← get).verPlace q a with
    | none => raise (versionTrap 11 a v (2 ^ 32 - 1))
    | some l =>
      match (← get).writeVersion c l v ((leBytes n b.toNat).zipIdx.map fun p => (a % 64 + p.2, p.1)) false a with
      | .error t => raise t
      | .ok s => set s

/-- VERLD (`wait`) and VERLDN (R149). -/
def verldOp (wait : Bool) (x : VerF) : M Unit := do
  acquireGate
  let c ← myNumber
  let n := 2 ^ x.width.toNat
  let a := (← readX x.a).toNat
  let v := (← readX x.b).toNat % 2 ^ 32
  if a % n ≠ 0 then raise (misaligned a false)
  else
    let t ← myCtx
    let q ← place t .read a
    match (← get).verPlace q a with
    | none =>
      let loc := (← readIn t q a).loc
      settleOwn loc n
      fabricOrder loc n
      let bs ← vecRead t q a n
      writeX x.d (word (leNat bs))
      modMe fun k => { k with verstat := verstatWord 0 v (v != 0) }
    | some l =>
      let s ← get
      match s.answer l v wait a with
      | .pending => await
      | .fault t => raise t
      | .got w isSealed =>
        set (s.acquireVersion c l)
        writeX x.d (word (leNat (s.readAs none (w.loc + a % 64) n)))
        modMe fun k => { k with verstat := verstatWord w.num v isSealed }

/-- VFLOOR and VSEAL (R139, R150). -/
def regionOp (isFloor : Bool) (x : R3T4) : M Unit := do
  let c ← myNumber
  let a := (← readX x.a).toNat
  let b := (← readX x.b).toNat % 2 ^ 32
  let q ← place (← myCtx) .write a
  scalarRelease .device
  match (← get).verPlace q a with
  | none => writeX x.d (BitVec.allOnes 64)
  | some l =>
    let (s, v) := (← get).raiseRegion c l.region isFloor b
    set s
    writeX x.d (word v)

/-- VERST (R148). -/
def execVerst (x : VerF) (s : State) : Host.Outcome State Fault Refusal := scalar [x.d, x.a, x.b] (verstOp x) s

/-- VERLD (R149). -/
def execVerld (x : VerF) (s : State) : Host.Outcome State Fault Refusal := scalar [x.d, x.a, x.b] (verldOp true x) s

/-- VERLDN (R149). -/
def execVerldn (x : VerF) (s : State) : Host.Outcome State Fault Refusal := scalar [x.d, x.a, x.b] (verldOp false x) s

/-- VFLOOR (R150). -/
def execVfloor (x : R3T4) (s : State) : Host.Outcome State Fault Refusal := scalar [x.d, x.a, x.b] (regionOp true x) s

/-- VSEAL (R150). -/
def execVseal (x : R3T4) (s : State) : Host.Outcome State Fault Refusal := scalar [x.d, x.a, x.b] (regionOp false x) s

/-- VERQ (R150). -/
def execVerq (x : R2T4) (s : State) : Host.Outcome State Fault Refusal :=
  scalar [x.d, x.a] (do
    let a := (← readX x.a).toNat
    let q ← place (← myCtx) .read a
    match (← get).verPlace q a with
    | none => writeX x.d 0
    | some l => do
      let s ← get
      if s.tainted l then raise (taintTrap l a)
      else writeX x.d (word (((s.versions l).headD { link := 0, num := 0, loc := 0 }).num))) s

end Sys2Proof.Machine
end

