-- ==== Sys2Proof/Machine/Context.lean ====
section
/-! DEFINITION. Saved images: CTXSAVE, CTXREST, VQSAVE and VQREST, OP 0x1A (R375 to R377, R381 to R384). -/
namespace Sys2Proof.Machine

open Sys2Proof

/-! ## Ranges of memory -/

/-- The addresses at which a range of n bytes is translated: one in each 4 KiB that it touches. -/
def pageStarts (va n : Nat) : List Nat :=
  if n = 0 then [] else va :: (List.range ((va + n - 1) / 4096 - va / 4096)).map fun i => (va / 4096 + i + 1) * 4096

/-- A range of memory as an instruction has translated it, each page once (R99, R102), with the state it was translated in: a line that a
store inserts moves the places of others (R108). -/
structure Range where
  map : RowMap
  seen : State

/-- Translates a range of memory before any of it is accessed; a fault is that of its lowest byte (R381). -/
def checkRange (x : Ctx) (acc : Acc) (m : RowMap) (va n : Nat) : M Range := do
  let m ← rowMap x acc (pageStarts va n) m
  (pageStarts va n).forM fun a => do
    let _ ← rowPlace x acc m a
  return { map := m, seen := ← get }

/-- The place of an address in a range, its spans as the stores of the instruction have left them (R116). -/
def Range.place (g : Range) (x : Ctx) (acc : Acc) (va : Nat) : M Place := do
  match ← rowPlace x acc g.map va with
  | .pad l => return .pad l
  | .page p => return .page (p.refresh g.seen (← get))

/-- Reads bytes of a range at home, a line at a time. -/
def Range.read (g : Range) (x : Ctx) (acc : Acc) (va n : Nat) : M (List Byte) := do
  readParts x (← findParts (g.place x acc) (rowLines va n))

/-- Writes bytes of a range at home, a line at a time. -/
def Range.write (g : Range) (x : Ctx) (va : Nat) (bs : List Byte) : M Unit :=
  (splitLines (bs.length + 1) va bs).forM fun p => do
    let q ← g.place x .write p.1
    let t ← writeTarget x q p.1 p.1
    modify fun s => s.perform (some x.core) t.key t.loc p.2

/-- Reads bytes at home, a line at a time. -/
def readMem (x : Ctx) (va n : Nat) : M (List Byte) := do
  readParts x (← partsOf x .read va n)

/-- Doubleword i of bytes. -/
def dword (bs : List Byte) (off : Nat) : Nat := leNat ((bs.drop off).take 8)

/-- Bytes of doublewords. -/
def dwords (vs : List Word) : List Byte := vs.flatMap fun v => leBytes 8 v.toNat

/-- Waits until every earlier scalar store of the core has performed. -/
def settleStores : M Unit := do
  let c ← myNumber
  modify fun s => s.flushSb c
  if (← getMe).sb.isEmpty then return ()
  else
    runEntries
    modify fun s => s.flushSb c
    if (← getMe).sb.isEmpty then return () else await

/-! ## Queue images (R375) -/

/-- The bytes of a queue image (R375). -/
def imageSize : Nat := 2112

/-- RM of an image (R375). -/
def modeCode (m : Mode) : Nat :=
  match m with
  | .rne => 0 | .rtz => 1 | .rdn => 2 | .rup => 3

/-- The image of a held set, whose entry 0 stands at the point that VSTART holds (R375). The words of the entries are the
implementation's: `n` numbers them afresh. -/
def imageOf (n : Nat) (es : List VEntry) (vstart : Word) : List Byte :=
  match es with
  | [] => List.replicate imageSize 0
  | e :: _ =>
    let head := dwords [word es.length, e.ia, vstart, e.opa, e.opb, e.opc ||| e.opd,
      word (e.nr % 256 + e.nc % 1024 * 2 ^ 8 + modeCode e.rm * 2 ^ 18 + flagNat e.wide * 2 ^ 20)]
    let body := (List.range 32).flatMap fun i =>
      if i < es.length then dwords ((List.range 8).map fun j => Config.imageWord n (8 * i + j)) else List.replicate 64 0
    head ++ leBytes 8 (Config.imageCheck (head ++ body)).toNat ++ body

/-- An image is written, and the device knows its entries by it. -/
def saveImage (x : Ctx) (g : Range) (va : Nat) (es : List VEntry) (vstart : Word) : M Unit := do
  let n ← drawSeed
  let bs := imageOf n es vstart
  g.write x va bs
  let old := (← getMe).fenceSeq
  modify fun s =>
    { s with images := (bs, (es.filter fun e => decide (e.seq < old)).length, es) :: s.images.filter fun q => q.1 != bs }

/-- The entries of an image, with how many of them a FENCE with acquire follows; none where its CHECK fails (R375). -/
def State.imageEntries (s : State) (bs : List Byte) : Option (Nat × List VEntry) := (s.images.find? fun q => q.1 == bs).map Prod.snd

/-- A core holds the entries of an image: they are dispatched before everything that it dispatches from then on (R371, R383), and what a
FENCE with acquire followed it still follows (R315). -/
def Core.holdImage (k : Core) (es : Nat × List VEntry) : Core :=
  { k with held := es.2.zipIdx.map fun q => { q.1 with seq := k.seq + q.2 }, seq := k.seq + es.2.length,
           fenceSeq := if es.1 = 0 then k.fenceSeq else k.seq + es.1 }

/-- VQSAVE (R384). -/
def vqsave (x : Ctx) (va : Nat) : M Word := do
  if va % 64 ≠ 0 then raise (misaligned va true)
  else
    settleStores
    let g ← checkRange x .write [] va imageSize
    let k ← getMe
    if !k.sstat.held then return 1
    else
      allOrNothing (do
        saveImage x g va k.held k.vstart
        modMe fun k => { k with held := [], sstat := { k.sstat with held := false } })
      return 0

/-- VQREST (R384). -/
def vqrest (x : Ctx) (va : Nat) : M Word := do
  if va % 64 ≠ 0 then raise (misaligned va false)
  else
    settleStores
    let g ← checkRange x .read [] va imageSize
    let bs ← g.read x .read va imageSize
    let k ← getMe
    if k.sstat.held then return 1
    else
      match (← get).imageEntries bs with
      | none => return 2
      | some es =>
        modMe fun k => { (k.setCsr .vstart (word (dword bs 16))).holdImage es with sstat := { k.sstat with held := true } }
        return 0

/-! ## The task context block (R376) -/

/-- The part of a task context block before the pad bytes (R376). -/
def tcbFixed : Nat := 0x10EA40

/-- The size of the MXE area (R376). -/
def mxeAreaSize : Nat := 4718592

/-- A list of n bytes that a function gives. -/
def bytesFrom (n : Nat) (f : Nat → Byte) : List Byte := (List.range n).map f

/-- The 16 bytes of tags that follow the data rows (R376). -/
def rowTags (w : VRow) (last : Nat) : List Byte := leBytes 8 w.tags.toNat ++ leBytes 4 w.rexp.toNat ++ leBytes 4 last

/-- A row from its data bytes and its tag bytes. -/
def rowFrom (data tags : List Byte) : VRow :=
  { bits := BitVec.ofNat 2048 (leNat data), tags := BitVec.ofNat 64 (leNat (tags.take 8)),
    rexp := BitVec.ofNat 32 (leNat ((tags.drop 8).take 4)) }

/-- The bytes between the stored registers (R376). -/
def regStride (wide : Bool) : Nat := 272 * rowMax wide

/-- Where row r of register i stands in a task context block, data and tags. -/
def regPlace (wide : Bool) (i r : Nat) : Nat × Nat :=
  (0x6A40 + regStride wide * i + 256 * r, 0x6A40 + regStride wide * i + 256 * rowMax wide + 16 * r)

/-- Where row r of slot n stands in an MXE area, data and tags. -/
def slotPlace (n r : Nat) : Nat × Nat := (262144 + 34816 * n + 256 * r, 262144 + 34816 * n + 32768 + 16 * r)

/-- Where row r of a tile stands in an MXE area. -/
def tilePlace (tile : Bool) (r : Nat) : Nat := (if tile then 131072 else 0) + 1024 * r

/-- The slots that a core of the cluster owns (R284). -/
def Mxe.owned (m : Mxe) (k : Nat) : List Nat := (List.range 128).filter fun n => (m.slot n).owner == some k

/-- The number of rows of register i that a save writes (R382 step 3). -/
def Core.saveRows (k : Core) (i : Nat) : Nat := if k.dirty.getLsbD i then (k.vrows.toList.getD i 0).toNat else 0

/-- The scalar fields of a task context block from +0x08 to +0x1F8, given MXEAREA and what PRESENT and SROWS become
(R376). -/
def State.tcbFields (s : State) (present : Nat) (srows : List Nat) (mxeArea : Word) : List Byte :=
  let k := s.me
  let m := s.mxe (clusterOf s.cur)
  let p := inCluster4 s.cur
  let a := m.acc p
  let own := (m.owned p).foldl (fun v n => v + 2 ^ n) 0
  dwords [k.launch, k.taskrec, k.eia, word present]
    ++ srows.map (BitVec.ofNat 8)
    ++ dwords [k.paduse, mxeArea, word (m.rowsOf p + 256 * flagNat a.dirty0 + 512 * flagNat a.dirty1),
        word own, word (own / 2 ^ 64), k.window.base,
        word (flagNat k.window.isOpen + 2 * (tyCode k.window.ty).toNat + k.window.len * 2 ^ 16),
        word k.deferred, s.budgetLeft]
    ++ dwords [k.flags.setWidth 64, k.frm.setWidth 64, k.nr.setWidth 64, k.nc.setWidth 64, k.vstart, k.ffnr.setWidth 64,
        k.scx.setWidth 64, k.verstat, k.kvroot, k.asid.setWidth 64, k.cpwp[0], k.cpwp[1], k.cpwp[2], k.cpwp[3]]
    ++ dwords (k.task.toList.drop 1)

/-- The header word of a task context block (R376). -/
def tcbHeader (saved held wide : Bool) (die : Nat) : Nat :=
  1 + 2 ^ 16 * flagNat saved + 2 ^ 17 * flagNat held + 2 ^ 18 * flagNat wide + 2 ^ 20 * die

/-- Writes the tiles and slots of the executing core to its MXE area (R376). -/
def saveMxe (x : Ctx) (g : Range) (area : Nat) : M Unit := do
  let m ← getMxe
  let p ← myPlace
  [false, true].forM fun t => (List.range (m.rowsOf p)).forM fun r =>
    g.write x (area + tilePlace t r) ((List.range 128).flatMap fun i => leBytes 8 ((m.acc p).get t r i))
  (m.owned p).forM fun n => (List.range 128).forM fun r => do
    let w := m.slotRow n r
    let (d, t) := slotPlace n r
    g.write x (area + d) (leBytes 256 w.bits.toNat)
    g.write x (area + t) (rowTags w (if r = 0 then (m.slot n).layout.toNat else 0))

/-- The bytes of a lane's slice that a save keeps: the declared ones, and an open window's copy (R376). -/
def Core.laneKept (k : Core) : List (Nat × Nat) :=
  let lane := bits k.paduse.toNat 44 32
  (if lane = 0 then [] else [(0, lane)]) ++ (if k.window.isOpen then [(4096 - k.window.len, k.window.len)] else [])

/-- Writes the registers, masks, slices and pad bytes of the executing core (R376, R382). -/
def saveBulk (x : Ctx) (g : Range) (a : Nat) : M Unit := do
  let s ← get
  let k := s.me
  (List.range 32).forM fun i => (List.range (k.saveRows i)).forM fun r => do
    let w := k.row k.wideFile (BitVec.ofNat 5 i) r
    let (d, t) := regPlace k.wideFile i r
    g.write x (a + d) (leBytes 256 w.bits.toNat)
    g.write x (a + t) (rowTags w 0)
  g.write x (a + 0xA40) (leBytes 8192 k.k1.toNat ++ leBytes 8192 k.k2.toNat ++ leBytes 8192 k.k3.toNat)
  (List.range 128).forM fun l => k.laneKept.forM fun q =>
    g.write x (a + 0x8EA40 + 4096 * l + q.1) (k.slices.getAll (4096 * l + q.1) q.2)
  g.write x (a + tcbFixed) (s.bytesAt (corePadLoc s.cur 0) (bits k.paduse.toNat 20 0))

/-- The held set that a save finds: the copies of stopped channels, and then the entries held before, entry 0 at VSTART
(R365, R382 step 1). -/
def Core.heldAll (k : Core) : List VEntry :=
  let es := match k.held with
    | [] => []
    | e :: rest => { e with prog := pointOf k.vstart } :: rest
  (k.recalled.map fun e => { e with fault := none }) ++ es

/-- A context leaves the core (R382 steps 5 and 6). -/
def Core.unload (k : Core) : Core :=
  { k with dirty := 0, vrows := Vector.replicate 32 0, held := [], run := none, deadline := none, restored := false,
           sstat := { k.sstat with held := false, loaded := false } }

/-- What the device keeps beside a saved context block, by the location of the block. -/
def State.park (s : State) (loc : Nat) (p : Parked) : State :=
  { s with parked := (loc, p) :: s.parked.filter fun q => q.1 != loc }

/-- CTXSAVE where a context is loaded and can be saved (R382), into the pages `g` of the block and `gm` of its MXE area. `area` is MXEAREA,
which stays as software set it, and `used` says that there is matrix-engine state to save. -/
def ctxsaveLoaded (x : Ctx) (g gm : Range) (a : Nat) (old : List Byte) (area : Word) (used : Bool) : M Unit := do
  let c ← myNumber
  modMe fun k =>
    let es := k.heldAll
    let v := match k.recalled with | [] => k.vstart | e :: _ => e.prog.word
    { k.dropStopped with held := es, vstart := v, sstat := { k.sstat with held := !es.isEmpty } }
  let s ← get
  let k := s.me
  let keep := bit (dword old 0) 18 == k.wideFile
  let present := (List.range 32).foldl (fun v i => if 0 < k.saveRows i then Nat.lor v (2 ^ i) else v) (if keep then dword old 0x20 else 0)
  let srows := (List.range 32).map fun i => max (if keep then ((old.drop 0x28).getD i 0).toNat else 0) (k.saveRows i)
  g.write x a (leBytes 8 (tcbHeader false k.sstat.held k.wideFile (dieOf c)))
  g.write x (a + 8) (s.tcbFields present srows area)
  if k.sstat.held then saveImage x g (a + 0x200) k.held k.vstart else pure ()
  saveBulk x g a
  if used then saveMxe x gm area.toNat else pure ()
  modify fun s => s.releaseMxe c
  g.write x a (leBytes 8 (tcbHeader true k.sstat.held k.wideFile (dieOf c)))
  let t ← readIn x (← g.place x .write a) a
  modify fun s => s.park t.loc { run := k.run, taskNo := k.taskNo, counted := k.cpwpCk }
  modMe Core.unload

/-- Whether the core holds matrix-engine state (R381). -/
def Mxe.holds (m : Mxe) (p : Nat) : Bool := !(m.held p).isEmpty || !(m.owned p).isEmpty

/-- CTXSAVE (R381, R382). -/
def ctxsave (x : Ctx) (a : Nat) : M Word := do
  let c ← myNumber
  if a % 4096 ≠ 0 then raise (misaligned a true)
  else
    waitUnstopped
    settleStores
    modify fun s => (s.crustAll c).ackFabric c fun _ => true
    let k ← getMe
    let g ← checkRange x .write [] a (tcbFixed + bits k.paduse.toNat 20 0)
    let old ← g.read x .write a 0x60
    let m ← getMxe
    let area := word (dword old 0x50)
    let used := m.holds (inCluster4 c)
    let gm ← if area.toNat % 64 ≠ 0 then raise (misaligned area.toNat true)
      else checkRange x .write [] area.toNat (if area = 0 then 0 else mxeAreaSize)
    if !k.sstat.loaded then return 1
    else if used && area == 0 then return 2
    else
      allOrNothing (ctxsaveLoaded x g gm a old area used)
      return 0

/-! ## Restoring (R383) -/

/-- The groups and slots of a saved context on the executing core's engine; none where they cannot all be had (R383). -/
def takeMxe (m : Mxe) (p rows own : Nat) : Option Mxe :=
  let n := rows / 32
  let free := (List.range 4).filter fun g => (m.groups.getD g none).isNone
  let slots := (List.range 128).filter fun i => bit own i
  if free.length < n ∨ (slots.any fun i => (m.slot i).owner.isSome) ∨ (0 < n ∧ !(m.held p).isEmpty) then none
  else
    let m := { m with groups := (free.take n).foldl (fun gs g => gs.set! g (some p)) m.groups }
    let m := if n = 0 then m else m.updAcc p fun _ => Accs.fresh
    some (slots.foldl (fun m i => m.resetSlot i (some p)) m)

/-- Reads the tiles and slots of a saved context from its MXE area (R376). -/
def restoreMxe (x : Ctx) (g : Range) (area rows own : Nat) (d0 d1 : Bool) : M Unit := do
  let p ← myPlace
  [false, true].forM fun t => (List.range rows).forM fun r => do
    let row ← g.read x .read (area + tilePlace t r) 1024
    modMxe fun m => m.updAcc p fun a => a.putRows t r (r + 1) fun _ i => leNat ((row.drop (8 * i)).take 8) % 2 ^ 36
  if rows = 0 then pure () else modMxe fun m => m.updAcc p fun a => { a with dirty0 := d0, dirty1 := d1 }
  ((List.range 128).filter fun n => bit own n).forM fun n => (List.range 128).forM fun r => do
    let (d, t) := slotPlace n r
    let data ← g.read x .read (area + d) 256
    let tags ← g.read x .read (area + t) 16
    modMxe fun m =>
      let m := m.setSlotRow n r (rowFrom data tags)
      if r = 0 then m.setLayout n (BitVec.ofNat 2 (leNat (tags.drop 12))) else m

/-- The registers of a saved context: rows that are not stored are zero bytes tagged VOID (R383). -/
def restoreRegs (x : Ctx) (g : Range) (a : Nat) (wide : Bool) (present : Nat) (srows : Nat → Nat) : M Unit := do
  modMe fun k => { k with vregs := { fill := .void, rows := [] }, wideFile := wide }
  ((List.range 32).filter fun i => bit present i).forM fun i => (List.range (srows i)).forM fun r => do
    let (d, t) := regPlace wide i r
    let data ← g.read x .read (a + d) 256
    let tags ← g.read x .read (a + t) 16
    modMe fun k => { k with vregs := k.vregs.put (fileRow wide (BitVec.ofNat 5 i) r) (rowFrom data tags) }
  modMe fun k => { k with dirty := 0, vrows := Vector.replicate 32 0 }

/-- The shape that the scalar side has behind a held set (R244, R259). -/
def shapeAfter (wide : Bool) (es : List VEntry) : Bool :=
  es.foldl (fun w e => match e.op with | .vshape v => v | _ => w) wide

/-- The write pointers of a saved context, each with the deliveries that its bytes were counted by (R222, R234, R383). -/
def Core.loadStreams (k : Core) (tcb : List Byte) (counted : Vector (List (Nat × Clock)) 4) : Core :=
  (List.range 4).foldl (fun k i => k.setCpwp i (word (dword tcb (0xE0 + 8 * i)))) { k with cpwpCk := counted }

/-- The fields of a core that a task context block of 0x200 bytes gives (R376, R383); reserved bits are ignored (R2). -/
def Core.loadFields (k : Core) (cycle : Nat) (tcb : List Byte) (es : List VEntry) : Core :=
  let w := fun off => word (dword tcb off)
  let win := dword tcb 0x78
  { k with
    launch := w 0x08, taskrec := w 0x10, eia := w 0x18, paduse := paduseWord (w 0x48),
    window := { isOpen := bit win 0, ty := (tyOf (BitVec.ofNat 5 (bits win 5 1))).getD .i8, base := w 0x70, len := bits win 27 16 },
    deferred := dword tcb 0x80,
    deadline := if w 0x88 = BitVec.allOnes 64 then none else some (cycle + dword tcb 0x88),
    flags := (w 0x90).setWidth 6, frm := (w 0x98).setWidth 2, nr := (w 0xA0).setWidth 8, nc := (w 0xA8).setWidth 10,
    vstart := w 0xB0 &&& 0x0000FFFFFFFF0003, ffnr := (w 0xB8).setWidth 8, scx := (w 0xC0).setWidth 16,
    verstat := w 0xC8 &&& 0xFFFFFFFF00000003, kvroot := w 0xD0 &&& 0x000FFFFFFFFF8001, asid := (w 0xD8).setWidth 16,
    task := Vector.ofFn fun i => if i.val = 0 then 0 else w (0x100 + 8 * (i.val - 1)),
    wide := shapeAfter (bit (dword tcb 0) 18) es, restored := true,
    sstat := { k.sstat with held := bit (dword tcb 0) 17, loaded := true, pm := false } }

/-- The slices and the pad of a saved context: bytes outside the saved ranges are zero (R383). -/
def restoreBytes (x : Ctx) (g : Range) (a : Nat) : M Unit := do
  let c ← myNumber
  modMe fun k => { k with slices := { fill := .zero, cells := [] } }
  let k ← getMe
  (List.range 128).forM fun l => k.laneKept.forM fun q => do
    let bs ← g.read x .read (a + 0x8EA40 + 4096 * l + q.1) q.2
    modMe fun k => { k with slices := k.slices.putAll (4096 * l + q.1) bs }
  let bs ← g.read x .read (a + tcbFixed) (bits k.paduse.toNat 20 0)
  modify fun s =>
    { s with mem := s.mem.filter fun q => !(decide (corePadLoc c 0 ≤ q.1) && decide (q.1 < corePadLoc c (2 ^ 20))) }.setBytes
      (corePadLoc c 0) bs

/-- What the device kept of a saved context (R382). -/
def State.parkedAt (s : State) (loc : Nat) : Parked :=
  ((s.parked.find? fun q => q.1 == loc).map Prod.snd).getD { run := none, taskNo := 0, counted := Vector.replicate 4 [] }

/-- The record and strip that a task context block stands for; one the device does not know is named by TASKREC and LAUNCH. -/
def Parked.running (p : Parked) (tcb : List Byte) : Running :=
  p.run.getD { task := recOf [] (word (dword tcb 0x10)) (bits (dword tcb 0x08) 15 0) Clock.reset, strip := none }

/-- A core's mirror takes every post that its die has sent it (R336). -/
def State.takePosts (s : State) (c : Nat) : State :=
  let d := dieOf c
  let s' := s.updDie d fun q => { q with posts := q.posts.filter fun p => p.core != c }
  ((s.die d).posts.filter fun p => p.core == c && s.chanBound d p.channel).foldl
    (fun s p => s.updCore c fun k => k.applyPost p.channel p.value p.clock) s'

/-- CTXREST once its conditions hold (R383), from the pages `g` of the block and `gm` of its MXE area; `hdr` is the place of its header for
the write that clears SAVED. -/
def ctxrestLoad (x : Ctx) (g gm : Range) (hdr : Place) (a : Nat) (tcb : List Byte) (es : Nat × List VEntry) (m : Mxe) : M Unit := do
  modMxe fun _ => m
  restoreMxe x gm (dword tcb 0x50) (bits (dword tcb 0x58) 7 0) (dword tcb 0x60 + dword tcb 0x68 * 2 ^ 64)
    (bit (dword tcb 0x58) 8) (bit (dword tcb 0x58) 9)
  restoreRegs x g a (bit (dword tcb 0) 18) (dword tcb 0x20) fun i => ((tcb.drop 0x28).getD i 0).toNat
  let ks ← g.read x .read (a + 0xA40) 24576
  let mask := fun i => BitVec.ofNat 65536 (leNat ((ks.drop (8192 * i)).take 8192))
  let cycle := (← get).cycle
  let t ← readIn x (← g.place x .read a) a
  let p := (← get).parkedAt t.loc
  modMe fun k => { ((k.loadFields cycle tcb es.2).holdImage es).loadStreams tcb p.counted with
                   k1 := mask 0, k2 := mask 1, k3 := mask 2, run := some (p.running tcb), taskNo := p.taskNo }
  restoreBytes x g a
  let c ← myNumber
  modify fun s => { s.takePosts c with parked := s.parked.filter fun q => q.1 != t.loc }
  let w ← writeTarget x hdr a a
  modify fun s => s.perform (some c) w.key w.loc (leBytes 8 (dword tcb 0 - 2 ^ 16))

/-- CTXREST (R381, R383). -/
def ctxrest (x : Ctx) (a : Nat) : M Word := do
  let c ← myNumber
  if a % 4096 ≠ 0 then raise (misaligned a true)
  else
    settleStores
    let g ← checkRange x .read [] a tcbFixed
    let hdr ← place x .write a
    let tcb ← g.read x .read a 0x200
    let image ← g.read x .read (a + 0x200) imageSize
    let g ← checkRange x .read g.map a (tcbFixed + min (bits (dword tcb 0x48) 20 0) 1048576)
    let rows := bits (dword tcb 0x58) 7 0
    let own := dword tcb 0x60 + dword tcb 0x68 * 2 ^ 64
    let area := dword tcb 0x50
    let gm ← if area % 64 ≠ 0 then raise (misaligned area false)
      else checkRange x .read [] area (if area ≠ 0 ∨ rows ≠ 0 ∨ own ≠ 0 then mxeAreaSize else 0)
    let s ← get
    let k := s.me
    let held := bit (dword tcb 0) 17
    let es := if held then s.imageEntries image else some (0, [])
    if k.sstat.loaded then return 1
    else
      match bit (dword tcb 0) 16 && decide (bits (dword tcb 0) 15 0 = 1), es with
      | true, some es =>
        if (s.shareOf c).map Share.launch ≠ some (bits (dword tcb 0x08) 15 0) ∨ bits (dword tcb 0) 21 20 ≠ dieOf c then return 3
        else
          match takeMxe (s.mxe (clusterOf c)) (inCluster4 c) rows own with
          | none => return 4
          | some m =>
            allOrNothing (ctxrestLoad x g gm hdr a tcb es m)
            return 0
      | _, _ => return 2

/-- An instruction of OP 0x1A: supervisor-only, with a status in x[D] (R381). -/
def contextOp (f : Ctx → Nat → M Word) (x : R2T2) : M Unit := do
  supervisorOnly
  let a := (← readX x.a).toNat
  let st ← f (← myCtx) a
  writeX x.d st

/-- CTXSAVE (R382). -/
def execCtxsave (x : R2T2) (s : State) : Host.Outcome State Fault Refusal := scalar [x.d, x.a] (contextOp ctxsave x) s

/-- CTXREST (R383). -/
def execCtxrest (x : R2T2) (s : State) : Host.Outcome State Fault Refusal := scalar [x.d, x.a] (contextOp ctxrest x) s

/-- VQSAVE (R384). -/
def execVqsave (x : R2T2) (s : State) : Host.Outcome State Fault Refusal := scalar [x.d, x.a] (contextOp vqsave x) s

/-- VQREST (R384). -/
def execVqrest (x : R2T2) (s : State) : Host.Outcome State Fault Refusal := scalar [x.d, x.a] (contextOp vqrest x) s

end Sys2Proof.Machine
end

