-- ==== Sys2Proof/Machine/Spawn.lean ====
section
/-! DEFINITION. Tasks and levels: OP 0x1C to 0x1E (R358 to R363). -/
namespace Sys2Proof.Machine

open Sys2Proof

/-- The checks, the release and the read of a record that a task instruction names (R359, R361); `release` is what it waits
for. -/
def readRecord (a : Nat) (release : M Unit) : M (List Byte) := do
  if a % 32 ≠ 0 then raise (misaligned a false)
  else
    let x := (← get).taskCtx (← myNumber)
    let q ← place x .read a
    release
    vecRead x q a 32

/-- The record that a task instruction pushes: its launch id is the current one, and it carries the clock of the release
(R351, R359). -/
def State.pushedRec (s : State) (bs : List Byte) (a : Word) : Rec := recOf bs a s.me.launchId s.me.ck

/-- SPAWN and SPAWNG (R359): `push` pushes the record where there is room. -/
def spawnOp (push : State → Rec → Option State) (x : R2T2) : M Unit := do
  let a ← readX x.a
  let bs ← readRecord a.toNat (scalarRelease .device)
  let s ← get
  let r := s.pushedRec bs a
  if s.cancelled 0 s.me.launchId then writeX x.d 2
  else if r.kind ≠ 0 then writeX x.d 3
  else
    match push s r with
    | none => writeX x.d 1
    | some t =>
      set (t.countUp s.me.launchId)
      writeX x.d 0

/-- SPAWN (R359). -/
def execSpawn (x : R2T2) (s : State) : Host.Outcome State Fault Refusal :=
  scalar [x.d, x.a] (spawnOp (fun s r => s.pushDeque s.cur r) x) s

/-- SPAWNG (R359). -/
def execSpawng (x : R2T2) (s : State) : Host.Outcome State Fault Refusal :=
  scalar [x.d, x.a] (spawnOp (fun s r => s.pushInject (dieOf s.cur) 0 r) x) s

/-- The first unused number of a loop table of 16 entries (R352). -/
def freeLoop (ls : List Loop) : Option Nat := (List.range 16).find? fun n => ls.all fun l => l.number != n

/-- Reads the loop frame of a record under the checks of SPAWNL (R339, R359). -/
def readFrame (fp : Word) : M (Word × Word × Word × Nat) := do
  if fp.toNat % 8 ≠ 0 then raise (misaligned fp.toNat false)
  else
    let x := (← get).taskCtx (← myNumber)
    let bs ← readMem x fp.toNat 32
    return (word (dword bs 0), word (dword bs 8), word (dword bs 16), dword bs 24 % 16)

/-- SPAWNL (R352, R359). -/
def spawnlOp (x : R2T2) : M Unit := do
  let a ← readX x.a
  let bs ← readRecord a.toNat (scalarRelease .device)
  let s ← get
  let r := s.pushedRec bs a
  let d := dieOf s.cur
  if s.cancelled 0 s.me.launchId then writeX x.d 2
  else if r.kind ≠ 1 then writeX x.d 3
  else
    let (lo, hi, strip, ch) ← readFrame r.fp
    let s ← get
    if hi.sle lo || strip == 0 then writeX x.d 6
    else if s.chanBound d ch then writeX x.d 5
    else
      match freeLoop (s.die d).loops with
      | none => writeX x.d 4
      | some n =>
        let l : Loop := { number := n, task := r, launch := s.me.launchId, next := 0, lo := lo, hi := hi, strip := strip,
                          channel := ch, bound := false, live := 0, ck := Clock.reset }
        set ((s.updDie d fun q => { q with loops := q.loops ++ [l] }).countUp s.me.launchId)
        writeX x.d 0

/-- SPAWNL (R359). -/
def execSpawnl (x : R2T2) (s : State) : Host.Outcome State Fault Refusal := scalar [x.d, x.a] (spawnlOp x) s

/-- JOIN (R360). -/
def execJoin (x : R3T2) (s : State) : Host.Outcome State Fault Refusal :=
  scalar [x.d, x.a, x.b] (do
    let a := (← readX x.a).toNat
    let b ← readX x.b
    if a % 64 ≠ 0 then raise (misaligned a true)
    else
      let t := (← get).taskCtx (← myNumber)
      let q ← place t .write a
      scalarRelease .device
      let v ← joinAdd t q a b
      writeX x.d v) s

/-- JOIN_PUSH_RETRY (R360): a pending continuation push is tried again. -/
def execJoinPushRetry (core : Nat) (s : State) : Host.Outcome State Fault Refusal :=
  event (modify fun s => s.retryPush core) s

/-- Step 1 of END (R362): everything that the task has started ends. -/
def endWaits : M Unit := do
  let c ← myNumber
  waitEmpty
  settleStores
  modify fun s => (s.crustAll c).ackFabric c fun _ => true

/-- The check of JB that END makes in task mode (R362 step 1). -/
def checkJb : M Unit := do
  let s ← get
  match s.me.run with
  | none => return ()
  | some r =>
    let jb := r.task.jb.toNat
    if jb = 0 then return ()
    else if jb % 64 ≠ 0 then raise (misaligned jb true)
    else
      let _ ← place (s.taskCtx s.cur) .write jb
      return ()

/-- What YIELD does once its record is read (R361): the record takes the task's place, and the core goes idle. A strip ends
as at END, and the record then counts as a task more. -/
def yieldTo (bs : List Byte) (a : Word) : M Unit := do
  let c ← myNumber
  let s ← get
  let r := s.pushedRec bs a
  if reserveRoom ≤ (s.die (dieOf c)).injected 1 then await
  else
    let k := s.me
    let push : M Unit := modify fun s => (s.pushInject (dieOf c) 1 r).getD s
    match k.run.bind Running.strip with
    | none =>
      endStep2 none 0
      push
      goIdle
    | some _ =>
      push
      modify fun s => s.countUp k.launchId
      finishTask none 0

/-- YIELD (R361). Where the record has KIND not 0 and the task's own JB fails the check of END as well, R23 and R361 leave open which fault
is reported: JB is checked before the record is read (DESIGN CHOICE, log entry 43). -/
def execYield (x : R1T2) (s : State) : Host.Outcome State Fault Refusal :=
  instr [x.a] (do
    let a ← readX x.a
    let bs ← readRecord a.toNat (do
      endWaits
      if (← getMe).sstat.mode then pure () else checkJb
      releaseWrites deviceScope)
    let k ← getMe
    if bits (dword bs 24) 23 16 ≠ 0 then raise (k.undefinedCase 11)
    else
      yieldTo bs a
      return .stay) s

/-- END (R362), and in supervisor mode the failure of the loaded task (R373). -/
def execEndTask (s : State) : Host.Outcome State Fault Refusal :=
  instr [] (do
    let k ← getMe
    if k.sstat.mode then
      waitUnstopped
      settleStores
      failTask (failCause k.cause)
    else
      endWaits
      checkJb
      releaseWrites deviceScope
      finishTask none 1
    return .stay) s

/-! ## Levels (R363) -/

/-- The level that a selector names, as kind and id; none where it may not be named (R363). -/
def Core.selected (k : Core) (sel : Word) : Option (Nat × Nat) :=
  let kind := bits sel.toNat 17 16
  let own := bits k.launch.toNat (16 * kind + 15) (16 * kind)
  let id := if bits sel.toNat 15 0 = 0 then own else bits sel.toNat 15 0
  if id = 0 ∨ (!k.sstat.mode ∧ id ≠ own) then none else some (kind, id)

/-- A cancelled launch releases the channels of its loops (R334). -/
def State.releaseLoops (s : State) (d : Nat) : State :=
  ((s.die d).loops.filter fun l => l.bound && s.cancelled 0 l.launch).foldl
    (fun s l => (s.freeChannel d l.channel).updLoop d l.number fun m => { m with bound := false }) s

/-- CANCEL of a level is set (R363), and the loops of the launches that this cancels release their channels (R334). -/
def State.cancelLevel (s : State) (kind id : Nat) : State :=
  let a := s.levelAddr kind id + 16
  (List.range Config.dieCount).foldl State.releaseLoops (s.putWord a (Nat.lor (s.num a 8) 1))

/-- LVCANCEL (R363). -/
def execLvcancel (x : R2T2) (s : State) : Host.Outcome State Fault Refusal :=
  scalar [x.d, x.a] (do
    let sel ← readX x.a
    let k ← getMe
    match k.selected sel with
    | none => writeX x.d (BitVec.allOnes 64)
    | some (kind, id) => do
      scalarRelease .device
      let s ← get
      set (s.cancelLevel kind id)
      writeX x.d (word (flagNat (s.cancelOf kind id)))) s

/-- What LVQUERY answers for a level (R363); `failed` is FAILED of its completion word. -/
def State.levelState (s : State) (kind id : Nat) (failed : Bool) : Word :=
  let a := s.levelAddr kind id
  word (flagNat (s.cancelOf kind id) + 2 * flagNat (s.cancelled kind id) + 4 * flagNat (s.num (a + 8) 8 % 4 == 2)
    + 8 * flagNat failed + s.num a 4 * 2 ^ 32)

/-- A level and those above it, up to the first that has CANCEL set: what LVQUERY reads of the flags (R363). -/
def State.levelChain (s : State) : Nat → Nat → Nat → List (Nat × Nat)
  | 0, _, _ => []
  | fuel + 1, kind, id =>
    (kind, id) ::
      if s.cancelOf kind id then []
      else
        match s.parentOf kind id with
        | none => []
        | some p => State.levelChain s fuel p.1 p.2

/-- LVQUERY acquires the LVCANCELs whose flags it reads (R363). -/
def State.acquireFlags (s : State) (kind id : Nat) : State :=
  (s.levelChain levelCount kind id).foldl (fun t p => t.joinCk t.cur (s.stampOf (s.levelAddr p.1 p.2 / 64))) s

/-- Whether a share's launch is a level, or counts in it (R342, R349). -/
def Share.within (h : Share) (kind id : Nat) : Bool := bits h.levels.toNat (16 * kind + 15) (16 * kind) == id

/-- The address space in which the device reaches the completion word of a level (R408): that of the share of its launch, or of one
whose launch counts in it, the executing core's own where it is one. A level none of whose launches runs has none that the spec names:
the model takes the executing core's (DESIGN CHOICE, log entry 43). -/
def State.levelCtx (s : State) (core kind id : Nat) : Ctx :=
  match (s.shareOf core).filter fun h => h.within kind id with
  | some _ => s.taskCtx core
  | none =>
    match s.shares.find? fun h => h.within kind id with
    | some h => h.ctx core
    | none => s.taskCtx core

/-- LVQUERY (R363). -/
def execLvquery (x : R2T2) (s : State) : Host.Outcome State Fault Refusal :=
  scalar [x.d, x.a] (do
    let sel ← readX x.a
    let k ← getMe
    match k.selected sel with
    | none => writeX x.d (BitVec.allOnes 64)
    | some (kind, id) => do
      acquireGate
      let s ← get
      let a := s.levelAddr kind id
      let cwa := s.num (a + 24) 8
      let w ← if cwa % 8 = 0 then deviceRead (s.levelCtx s.cur kind id) cwa 8 else pure none
      modify fun s => s.acquireFlags kind id
      writeX x.d (s.levelState kind id (bit (leNat (w.getD [])) 1))) s

end Sys2Proof.Machine
end

