-- ==== Sys2Proof/Machine/VectorX.lean ====
section
/-! DEFINITION. Vector instructions on registers and masks, as they are dispatched into the queue: OP 0x28, 0x29, 0x30, 0x31,
0x38 to 0x3A and 0x3C to 0x3F (R244, R256 to R278). -/
namespace Sys2Proof.Machine

open Sys2Proof

/-- A one-operand integer instruction as an entry's fields. -/
def binOf (x : VUnF) : VBinF := { d := x.d, a := x.a, b := 0, k := x.k, ty := x.ty, sat := x.sat }

/-- A one-operand floating-point instruction as an entry's fields. -/
def fpOf (x : VFpUF) : VFpF := { d := x.d, a := x.a, b := 0, k := x.k, ty := x.ty, rm := x.rm, sat := x.sat }

/-- A reduction that does not round as an entry's fields. -/
def redOf (x : RedNF) : RedF := { d := x.d, a := x.a, k := x.k, ty := x.ty, rm := .frm, sat := x.sat, col := x.col }

/-- A permutation without an index register as an entry's fields. -/
def permOf (d a : Reg) (k : MaskReg) (ty : Ty) : VTyCF := { d := d, a := a, c := 0, k := k, ty := ty }

/-- SETLEN (R257): the lengths change at once in the scalar unit. -/
def execSetlen (x : LenF) (s : State) : Host.Outcome State Fault Refusal :=
  scalar [x.d, x.a, x.b] (do
    let a ← readX x.a
    let b ← readX x.b
    let s ← get
    let nr := min (min a.toNat (rowMax s.me.wide)) (s.rowCeil s.cur)
    let nc := min b.toNat x.ty.capacity
    modMe fun k => { k with nr := BitVec.ofNat 8 nr, nc := BitVec.ofNat 10 nc }
    writeX x.d (word (nc * 2 ^ 32 + nr))) s

/-- SETLENF (R258): NR is bounded by FFNR once the queue is empty. -/
def execSetlenf (x : R1T4) (s : State) : Host.Outcome State Fault Refusal :=
  scalar [x.d] (do
    waitQueue
    let k ← getMe
    let nr := min k.nr.toNat k.ffnr.toNat
    modMe fun k => { k with nr := BitVec.ofNat 8 nr }
    writeX x.d (word (k.nc.toNat * 2 ^ 32 + nr))) s

/-- VSHAPE (R259). -/
def execVshape (x : ShpF) (s : State) : Host.Outcome State Fault Refusal :=
  vector (.vshape x.wide) .frm none none none none s

/-- VMOVX (R260). -/
def execVmovx (x : LenF) (s : State) : Host.Outcome State Fault Refusal :=
  vector (.vmovx x) .frm none (some x.b) none none s

/-- VMOVV (R260). -/
def execVmovv (x : LenF) (s : State) : Host.Outcome State Fault Refusal :=
  vector (.vmovv x) .frm (some x.a) (some x.b) none none s

/-- KAND (R261). -/
def execKand (x : K3F) (s : State) : Host.Outcome State Fault Refusal :=
  vector (.mask .and x.d x.a x.b) .frm none none none none s

/-- KOR (R261). -/
def execKor (x : K3F) (s : State) : Host.Outcome State Fault Refusal :=
  vector (.mask .or x.d x.a x.b) .frm none none none none s

/-- KXOR (R261). -/
def execKxor (x : K3F) (s : State) : Host.Outcome State Fault Refusal :=
  vector (.mask .xor x.d x.a x.b) .frm none none none none s

/-- KANDN (R261). -/
def execKandn (x : K3F) (s : State) : Host.Outcome State Fault Refusal :=
  vector (.mask .andn x.d x.a x.b) .frm none none none none s

/-- KNOT (R261). -/
def execKnot (x : K2F) (s : State) : Host.Outcome State Fault Refusal :=
  vector (.mask .not x.d x.a 0) .frm none none none none s

/-- KPOP (R261). -/
def execKpop (x : KxF) (s : State) : Host.Outcome State Fault Refusal := vector (.kpop x) .frm none none none none s

/-- KFIRST (R261). -/
def execKfirst (x : KxF) (s : State) : Host.Outcome State Fault Refusal := vector (.kfirst x) .frm none none none none s

/-- KSET (R261). -/
def execKset (x : KsetF) (s : State) : Host.Outcome State Fault Refusal := vector (.kset x) .frm (some x.a) none none none s

/-- VADD (R265). -/
def execVadd (x : VBinF) (s : State) : Host.Outcome State Fault Refusal :=
  vector (.int .add false x) .frm none none none none s

/-- VSUB (R265). -/
def execVsub (x : VBinF) (s : State) : Host.Outcome State Fault Refusal :=
  vector (.int .sub false x) .frm none none none none s

/-- VMUL (R265). -/
def execVmul (x : VBinF) (s : State) : Host.Outcome State Fault Refusal :=
  vector (.int .mul false x) .frm none none none none s

/-- VMULH (R265). -/
def execVmulh (x : VBinF) (s : State) : Host.Outcome State Fault Refusal :=
  vector (.int .mulh false x) .frm none none none none s

/-- VAND (R265). -/
def execVand (x : VBinF) (s : State) : Host.Outcome State Fault Refusal :=
  vector (.int .and false x) .frm none none none none s

/-- VOR (R265). -/
def execVor (x : VBinF) (s : State) : Host.Outcome State Fault Refusal :=
  vector (.int .or false x) .frm none none none none s

/-- VXOR (R265). -/
def execVxor (x : VBinF) (s : State) : Host.Outcome State Fault Refusal :=
  vector (.int .xor false x) .frm none none none none s

/-- VSHL (R265). -/
def execVshl (x : VBinF) (s : State) : Host.Outcome State Fault Refusal :=
  vector (.int .shl false x) .frm none none none none s

/-- VSHR (R265). -/
def execVshr (x : VBinF) (s : State) : Host.Outcome State Fault Refusal :=
  vector (.int .shr false x) .frm none none none none s

/-- VSRA (R265). -/
def execVsra (x : VBinF) (s : State) : Host.Outcome State Fault Refusal :=
  vector (.int .sra false x) .frm none none none none s

/-- VMIN (R265). -/
def execVmin (x : VBinF) (s : State) : Host.Outcome State Fault Refusal :=
  vector (.int .min false x) .frm none none none none s

/-- VMAX (R265). -/
def execVmax (x : VBinF) (s : State) : Host.Outcome State Fault Refusal :=
  vector (.int .max false x) .frm none none none none s

/-- VABS (R265). -/
def execVabs (x : VUnF) (s : State) : Host.Outcome State Fault Refusal :=
  vector (.int .abs false (binOf x)) .frm none none none none s

/-- VNEG (R265). -/
def execVneg (x : VUnF) (s : State) : Host.Outcome State Fault Refusal :=
  vector (.int .neg false (binOf x)) .frm none none none none s

/-- VCMPEQ (R266). -/
def execVcmpeq (x : VCmpF) (s : State) : Host.Outcome State Fault Refusal :=
  vector (.icmp .eq false x) .frm none none none none s

/-- VCMPLT (R266). -/
def execVcmplt (x : VCmpF) (s : State) : Host.Outcome State Fault Refusal :=
  vector (.icmp .lt false x) .frm none none none none s

/-- VCMPLE (R266). -/
def execVcmple (x : VCmpF) (s : State) : Host.Outcome State Fault Refusal :=
  vector (.icmp .le false x) .frm none none none none s

/-- VSEL (R266). -/
def execVsel (x : VBinF) (s : State) : Host.Outcome State Fault Refusal := vector (.vsel false x) .frm none none none none s

/-- VIOTA (R266). -/
def execViota (x : VIotaF) (s : State) : Host.Outcome State Fault Refusal := vector (.viota x) .frm none none none none s

/-- VADD_SCALAR (R264). -/
def execVaddScalar (x : VBinF) (s : State) : Host.Outcome State Fault Refusal :=
  vector (.int .add true x) .frm none (some x.b) none none s

/-- VSUB_SCALAR (R264). -/
def execVsubScalar (x : VBinF) (s : State) : Host.Outcome State Fault Refusal :=
  vector (.int .sub true x) .frm none (some x.b) none none s

/-- VMUL_SCALAR (R264). -/
def execVmulScalar (x : VBinF) (s : State) : Host.Outcome State Fault Refusal :=
  vector (.int .mul true x) .frm none (some x.b) none none s

/-- VMULH_SCALAR (R264). -/
def execVmulhScalar (x : VBinF) (s : State) : Host.Outcome State Fault Refusal :=
  vector (.int .mulh true x) .frm none (some x.b) none none s

/-- VAND_SCALAR (R264). -/
def execVandScalar (x : VBinF) (s : State) : Host.Outcome State Fault Refusal :=
  vector (.int .and true x) .frm none (some x.b) none none s

/-- VOR_SCALAR (R264). -/
def execVorScalar (x : VBinF) (s : State) : Host.Outcome State Fault Refusal :=
  vector (.int .or true x) .frm none (some x.b) none none s

/-- VXOR_SCALAR (R264). -/
def execVxorScalar (x : VBinF) (s : State) : Host.Outcome State Fault Refusal :=
  vector (.int .xor true x) .frm none (some x.b) none none s

/-- VSHL_SCALAR (R264). -/
def execVshlScalar (x : VBinF) (s : State) : Host.Outcome State Fault Refusal :=
  vector (.int .shl true x) .frm none (some x.b) none none s

/-- VSHR_SCALAR (R264). -/
def execVshrScalar (x : VBinF) (s : State) : Host.Outcome State Fault Refusal :=
  vector (.int .shr true x) .frm none (some x.b) none none s

/-- VSRA_SCALAR (R264). -/
def execVsraScalar (x : VBinF) (s : State) : Host.Outcome State Fault Refusal :=
  vector (.int .sra true x) .frm none (some x.b) none none s

/-- VMIN_SCALAR (R264). -/
def execVminScalar (x : VBinF) (s : State) : Host.Outcome State Fault Refusal :=
  vector (.int .min true x) .frm none (some x.b) none none s

/-- VMAX_SCALAR (R264). -/
def execVmaxScalar (x : VBinF) (s : State) : Host.Outcome State Fault Refusal :=
  vector (.int .max true x) .frm none (some x.b) none none s

/-- VABS_SCALAR (R264). -/
def execVabsScalar (x : VUnF) (s : State) : Host.Outcome State Fault Refusal :=
  vector (.int .abs true (binOf x)) .frm none none none none s

/-- VNEG_SCALAR (R264). -/
def execVnegScalar (x : VUnF) (s : State) : Host.Outcome State Fault Refusal :=
  vector (.int .neg true (binOf x)) .frm none none none none s

/-- VCMPEQ_SCALAR (R266). -/
def execVcmpeqScalar (x : VCmpF) (s : State) : Host.Outcome State Fault Refusal :=
  vector (.icmp .eq true x) .frm none (some x.b) none none s

/-- VCMPLT_SCALAR (R266). -/
def execVcmpltScalar (x : VCmpF) (s : State) : Host.Outcome State Fault Refusal :=
  vector (.icmp .lt true x) .frm none (some x.b) none none s

/-- VCMPLE_SCALAR (R266). -/
def execVcmpleScalar (x : VCmpF) (s : State) : Host.Outcome State Fault Refusal :=
  vector (.icmp .le true x) .frm none (some x.b) none none s

/-- VSEL_SCALAR (R266). -/
def execVselScalar (x : VBinF) (s : State) : Host.Outcome State Fault Refusal :=
  vector (.vsel true x) .frm none (some x.b) none none s

/-- VIOTA_SCALAR (R266). -/
def execViotaScalar (x : VIotaXF) (s : State) : Host.Outcome State Fault Refusal :=
  vector (.viota { d := x.d, k := x.k, ty := x.ty, sat := x.sat }) .frm none (some x.b) none none s

/-- VFADD (R267). -/
def execVfadd (x : VFpF) (s : State) : Host.Outcome State Fault Refusal :=
  vector (.fp .add false x) x.rm none none none none s

/-- VFSUB (R267). -/
def execVfsub (x : VFpF) (s : State) : Host.Outcome State Fault Refusal :=
  vector (.fp .sub false x) x.rm none none none none s

/-- VFMUL (R267). -/
def execVfmul (x : VFpF) (s : State) : Host.Outcome State Fault Refusal :=
  vector (.fp .mul false x) x.rm none none none none s

/-- VFDIV (R267). -/
def execVfdiv (x : VFpF) (s : State) : Host.Outcome State Fault Refusal :=
  vector (.fp .div false x) x.rm none none none none s

/-- VFSQRT (R267). -/
def execVfsqrt (x : VFpUF) (s : State) : Host.Outcome State Fault Refusal :=
  vector (.fp .sqrt false (fpOf x)) x.rm none none none none s

/-- VFMIN (R267). -/
def execVfmin (x : VFpF) (s : State) : Host.Outcome State Fault Refusal :=
  vector (.fp .min false x) x.rm none none none none s

/-- VFMAX (R267). -/
def execVfmax (x : VFpF) (s : State) : Host.Outcome State Fault Refusal :=
  vector (.fp .max false x) x.rm none none none none s

/-- VFABS (R267). -/
def execVfabs (x : VFpUF) (s : State) : Host.Outcome State Fault Refusal :=
  vector (.fp .abs false (fpOf x)) x.rm none none none none s

/-- VFNEG (R267). -/
def execVfneg (x : VFpUF) (s : State) : Host.Outcome State Fault Refusal :=
  vector (.fp .neg false (fpOf x)) x.rm none none none none s

/-- VFCMPEQ (R267). -/
def execVfcmpeq (x : VFCmpF) (s : State) : Host.Outcome State Fault Refusal :=
  vector (.fcmp .eq false x) x.rm none none none none s

/-- VFCMPLT (R267). -/
def execVfcmplt (x : VFCmpF) (s : State) : Host.Outcome State Fault Refusal :=
  vector (.fcmp .lt false x) x.rm none none none none s

/-- VFCMPLE (R267). -/
def execVfcmple (x : VFCmpF) (s : State) : Host.Outcome State Fault Refusal :=
  vector (.fcmp .le false x) x.rm none none none none s

/-- VFRCP (R267). -/
def execVfrcp (x : VFpUF) (s : State) : Host.Outcome State Fault Refusal :=
  vector (.fp .rcp false (fpOf x)) x.rm none none none none s

/-- VFRSQ (R267). -/
def execVfrsq (x : VFpUF) (s : State) : Host.Outcome State Fault Refusal :=
  vector (.fp .rsq false (fpOf x)) x.rm none none none none s

/-- VFEXP2 (R267). -/
def execVfexp2 (x : VFpUF) (s : State) : Host.Outcome State Fault Refusal :=
  vector (.fp .exp2 false (fpOf x)) x.rm none none none none s

/-- VFLOG2 (R267). -/
def execVflog2 (x : VFpUF) (s : State) : Host.Outcome State Fault Refusal :=
  vector (.fp .log2 false (fpOf x)) x.rm none none none none s

/-- VFADD_SCALAR (R264). -/
def execVfaddScalar (x : VFpF) (s : State) : Host.Outcome State Fault Refusal :=
  vector (.fp .add true x) x.rm none (some x.b) none none s

/-- VFSUB_SCALAR (R264). -/
def execVfsubScalar (x : VFpF) (s : State) : Host.Outcome State Fault Refusal :=
  vector (.fp .sub true x) x.rm none (some x.b) none none s

/-- VFMUL_SCALAR (R264). -/
def execVfmulScalar (x : VFpF) (s : State) : Host.Outcome State Fault Refusal :=
  vector (.fp .mul true x) x.rm none (some x.b) none none s

/-- VFDIV_SCALAR (R264). -/
def execVfdivScalar (x : VFpF) (s : State) : Host.Outcome State Fault Refusal :=
  vector (.fp .div true x) x.rm none (some x.b) none none s

/-- VFSQRT_SCALAR (R264). -/
def execVfsqrtScalar (x : VFpUF) (s : State) : Host.Outcome State Fault Refusal :=
  vector (.fp .sqrt true (fpOf x)) x.rm none none none none s

/-- VFMIN_SCALAR (R264). -/
def execVfminScalar (x : VFpF) (s : State) : Host.Outcome State Fault Refusal :=
  vector (.fp .min true x) x.rm none (some x.b) none none s

/-- VFMAX_SCALAR (R264). -/
def execVfmaxScalar (x : VFpF) (s : State) : Host.Outcome State Fault Refusal :=
  vector (.fp .max true x) x.rm none (some x.b) none none s

/-- VFABS_SCALAR (R264). -/
def execVfabsScalar (x : VFpUF) (s : State) : Host.Outcome State Fault Refusal :=
  vector (.fp .abs true (fpOf x)) x.rm none none none none s

/-- VFNEG_SCALAR (R264). -/
def execVfnegScalar (x : VFpUF) (s : State) : Host.Outcome State Fault Refusal :=
  vector (.fp .neg true (fpOf x)) x.rm none none none none s

/-- VFCMPEQ_SCALAR (R264). -/
def execVfcmpeqScalar (x : VFCmpF) (s : State) : Host.Outcome State Fault Refusal :=
  vector (.fcmp .eq true x) x.rm none (some x.b) none none s

/-- VFCMPLT_SCALAR (R264). -/
def execVfcmpltScalar (x : VFCmpF) (s : State) : Host.Outcome State Fault Refusal :=
  vector (.fcmp .lt true x) x.rm none (some x.b) none none s

/-- VFCMPLE_SCALAR (R264). -/
def execVfcmpleScalar (x : VFCmpF) (s : State) : Host.Outcome State Fault Refusal :=
  vector (.fcmp .le true x) x.rm none (some x.b) none none s

/-- VFRCP_SCALAR (R264). -/
def execVfrcpScalar (x : VFpUF) (s : State) : Host.Outcome State Fault Refusal :=
  vector (.fp .rcp true (fpOf x)) x.rm none none none none s

/-- VFRSQ_SCALAR (R264). -/
def execVfrsqScalar (x : VFpUF) (s : State) : Host.Outcome State Fault Refusal :=
  vector (.fp .rsq true (fpOf x)) x.rm none none none none s

/-- VFEXP2_SCALAR (R264). -/
def execVfexp2Scalar (x : VFpUF) (s : State) : Host.Outcome State Fault Refusal :=
  vector (.fp .exp2 true (fpOf x)) x.rm none none none none s

/-- VFLOG2_SCALAR (R264). -/
def execVflog2Scalar (x : VFpUF) (s : State) : Host.Outcome State Fault Refusal :=
  vector (.fp .log2 true (fpOf x)) x.rm none none none none s

/-- VFMA (R269). -/
def execVfma (x : VFmaF) (s : State) : Host.Outcome State Fault Refusal := vector (.fma .fma x) x.rm none none none none s

/-- VFMS (R269). -/
def execVfms (x : VFmaF) (s : State) : Host.Outcome State Fault Refusal := vector (.fma .fms x) x.rm none none none none s

/-- VFNMA (R269). -/
def execVfnma (x : VFmaF) (s : State) : Host.Outcome State Fault Refusal := vector (.fma .fnma x) x.rm none none none none s

/-- VCVT (R77). -/
def execVcvt (x : VFpF) (s : State) : Host.Outcome State Fault Refusal :=
  vector (.cvt false x) x.rm none (some x.b) none none s

/-- VCVTD (R77). -/
def execVcvtd (x : VFpF) (s : State) : Host.Outcome State Fault Refusal :=
  vector (.cvt true x) x.rm none (some x.b) none none s

/-- VQPACK (R79). -/
def execVqpack (x : QpackF) (s : State) : Host.Outcome State Fault Refusal := vector (.qpack x) x.rm none none none none s

/-- VBACC (R80). -/
def execVbacc (x : VTyF) (s : State) : Host.Outcome State Fault Refusal := vector (.bacc x) .frm none none none none s

/-- VBNORM (R81). -/
def execVbnorm (x : BnormF) (s : State) : Host.Outcome State Fault Refusal := vector (.bnorm x) x.rm none none none none s

/-- VSCALE (R82). -/
def execVscale (x : VTyBF) (s : State) : Host.Outcome State Fault Refusal :=
  vector (.vscale x) .frm none (some x.b) none none s

/-- VREDSUM (R271). -/
def execVredsum (x : RedF) (s : State) : Host.Outcome State Fault Refusal := vector (.red .sum x) x.rm none none none none s

/-- VREDMAX (R272). -/
def execVredmax (x : RedNF) (s : State) : Host.Outcome State Fault Refusal :=
  vector (.red .max (redOf x)) .frm none none none none s

/-- VREDMIN (R272). -/
def execVredmin (x : RedNF) (s : State) : Host.Outcome State Fault Refusal :=
  vector (.red .min (redOf x)) .frm none none none none s

/-- VARGMAX (R272). -/
def execVargmax (x : RedNF) (s : State) : Host.Outcome State Fault Refusal :=
  vector (.red .argmax (redOf x)) .frm none none none none s

/-- VARGMIN (R272). -/
def execVargmin (x : RedNF) (s : State) : Host.Outcome State Fault Refusal :=
  vector (.red .argmin (redOf x)) .frm none none none none s

/-- VREDAND (R272). -/
def execVredand (x : RedNF) (s : State) : Host.Outcome State Fault Refusal :=
  vector (.red .and (redOf x)) .frm none none none none s

/-- VREDOR (R272). -/
def execVredor (x : RedNF) (s : State) : Host.Outcome State Fault Refusal :=
  vector (.red .or (redOf x)) .frm none none none none s

/-- VCOMPRESS (R274). -/
def execVcompress (x : VTyF) (s : State) : Host.Outcome State Fault Refusal :=
  vector (.perm .compress (permOf x.d x.a x.k x.ty)) .frm none none none none s

/-- VEXPAND (R274). -/
def execVexpand (x : VTyF) (s : State) : Host.Outcome State Fault Refusal :=
  vector (.perm .expand (permOf x.d x.a x.k x.ty)) .frm none none none none s

/-- VSLIDEUP (R274). -/
def execVslideup (x : VTyBF) (s : State) : Host.Outcome State Fault Refusal :=
  vector (.perm .slideUp (permOf x.d x.a x.k x.ty)) .frm none (some x.b) none none s

/-- VSLIDEDN (R274). -/
def execVslidedn (x : VTyBF) (s : State) : Host.Outcome State Fault Refusal :=
  vector (.perm .slideDn (permOf x.d x.a x.k x.ty)) .frm none (some x.b) none none s

/-- VTRANS (R274). -/
def execVtrans (x : VTyF) (s : State) : Host.Outcome State Fault Refusal :=
  vector (.perm .trans (permOf x.d x.a x.k x.ty)) .frm none none none none s

/-- VPERMC (R274). -/
def execVpermc (x : VTyCF) (s : State) : Host.Outcome State Fault Refusal :=
  vector (.perm .permc x) .frm none none none none s

/-- VBCAST (R274). -/
def execVbcast (x : VTyBF) (s : State) : Host.Outcome State Fault Refusal :=
  vector (.perm .bcast (permOf x.d x.a x.k x.ty)) .frm none (some x.b) none none s

/-- VSINCOS (R276). -/
def execVsincos (x : SinCosF) (s : State) : Host.Outcome State Fault Refusal :=
  vector (.sincos x) x.rm none none none none s

/-- VGUMBEL (R278). -/
def execVgumbel (x : VTyF) (s : State) : Host.Outcome State Fault Refusal := vector (.gumbel x) .frm none none none none s

/-- VHASH (R277). -/
def execVhash (x : VTyBF) (s : State) : Host.Outcome State Fault Refusal := vector (.hash x) .frm none none none none s

end Sys2Proof.Machine
end

