-- ==== Sys2Proof/Machine/VectorMemX.lean ====
section
/-! DEFINITION. Vector instructions on memory, as they are dispatched into the queue: OP 0x40 to 0x44, 0x5B and 0x5C (R205 to R220,
R151 to R153, R166 to R173, R244). -/
namespace Sys2Proof.Machine

open Sys2Proof

/-- The fields of a memory entry with no bit offset. -/
def memOf (d a b : Reg) (k : MaskReg) (ty : Ty) (hint : BitVec 2) : VMemBF :=
  { d := d, a := a, b := b, k := k, ty := ty, bitoff := 0, hint := hint }

/-- VLD (R209). -/
def execVld (x : VMemF) (s : State) : Host.Outcome State Fault Refusal :=
  vector (.load .unit 0 (memOf x.d x.a x.b x.k x.ty x.hint)) .frm (some x.a) (some x.b) none none s

/-- VLDF (R210). -/
def execVldf (x : VMemF) (s : State) : Host.Outcome State Fault Refusal :=
  vector (.load .firstFault 0 (memOf x.d x.a x.b x.k x.ty x.hint)) .frm (some x.a) (some x.b) none none s

/-- VLDB (R209). -/
def execVldb (x : VMemBF) (s : State) : Host.Outcome State Fault Refusal :=
  vector (.load .bit 0 x) .frm (some x.a) (some x.b) none none s

/-- VLDS (R209). -/
def execVlds (x : VMemF) (s : State) : Host.Outcome State Fault Refusal :=
  vector (.load .strided 0 (memOf x.d x.a x.b x.k x.ty x.hint)) .frm (some x.a) (some x.b) none none s

/-- VLDL (R211). -/
def execVldl (x : VMemLF) (s : State) : Host.Outcome State Fault Refusal :=
  vector (.load .lane 0 (memOf x.d x.a 0 x.k x.ty x.hint)) .frm (some x.a) none none none s

/-- VST (R209). -/
def execVst (x : VMemF) (s : State) : Host.Outcome State Fault Refusal :=
  vector (.store .unit 0 (memOf x.d x.a x.b x.k x.ty x.hint)) .frm (some x.a) (some x.b) none none s

/-- VSTB (R209). -/
def execVstb (x : VMemBF) (s : State) : Host.Outcome State Fault Refusal :=
  vector (.store .bit 0 x) .frm (some x.a) (some x.b) none none s

/-- VSTS (R209). -/
def execVsts (x : VMemF) (s : State) : Host.Outcome State Fault Refusal :=
  vector (.store .strided 0 (memOf x.d x.a x.b x.k x.ty x.hint)) .frm (some x.a) (some x.b) none none s

/-- VSTL (R211). -/
def execVstl (x : VMemLF) (s : State) : Host.Outcome State Fault Refusal :=
  vector (.store .lane 0 (memOf x.d x.a 0 x.k x.ty x.hint)) .frm (some x.a) none none none s

/-- VGATHER (R213). -/
def execVgather (x : VIdxF) (s : State) : Host.Outcome State Fault Refusal :=
  vector (.load .gather x.c (memOf x.d x.a 0 x.k x.ty x.hint)) .frm (some x.a) none none none s

/-- VSCATTER (R213). -/
def execVscatter (x : VIdxF) (s : State) : Host.Outcome State Fault Refusal :=
  vector (.store .gather x.c (memOf x.d x.a 0 x.k x.ty x.hint)) .frm (some x.a) none none none s

/-- VGATHERC (R214). -/
def execVgatherc (x : VIdxF) (s : State) : Host.Outcome State Fault Refusal :=
  vector (.load .gatherc x.c (memOf x.d x.a 0 x.k x.ty x.hint)) .frm (some x.a) none none none s

/-- VSCATTERC (R214). -/
def execVscatterc (x : VIdxF) (s : State) : Host.Outcome State Fault Refusal :=
  vector (.store .gatherc x.c (memOf x.d x.a 0 x.k x.ty x.hint)) .frm (some x.a) none none none s

/-- VAMOADD (R215). -/
def execVamoadd (x : VMemF) (s : State) : Host.Outcome State Fault Refusal :=
  vector (.vamo .add x) .frm (some x.a) (some x.b) none none s

/-- VAMOFADD (R215). -/
def execVamofadd (x : VMemF) (s : State) : Host.Outcome State Fault Refusal :=
  vector (.vamo .fadd x) .frm (some x.a) (some x.b) none none s

/-- VAMOMIN (R215). -/
def execVamomin (x : VMemF) (s : State) : Host.Outcome State Fault Refusal :=
  vector (.vamo .min x) .frm (some x.a) (some x.b) none none s

/-- VAMOMAX (R215). -/
def execVamomax (x : VMemF) (s : State) : Host.Outcome State Fault Refusal :=
  vector (.vamo .max x) .frm (some x.a) (some x.b) none none s

/-- AWIN (R218). -/
def execAwin (x : WinF) (s : State) : Host.Outcome State Fault Refusal :=
  vector (.awin x) .frm (some x.a) (some x.b) none none s

/-- AADD (R219). -/
def execAadd (x : VMemLF) (s : State) : Host.Outcome State Fault Refusal := vector (.aadd x) .frm none none none none s

/-- AMERGE (R220). -/
def execAmerge (_x : Win0F) (s : State) : Host.Outcome State Fault Refusal := vector .amerge .frm none none none none s

/-- ACLR (R220). -/
def execAclr (_x : Win0F) (s : State) : Host.Outcome State Fault Refusal := vector .aclr .frm none none none none s

/-- VVERST (R153). -/
def execVverst (x : VVerF) (s : State) : Host.Outcome State Fault Refusal :=
  vector (.vverst x) .frm (some x.a) (some x.b) (some x.c) none s

/-- VVERLD (R153). -/
def execVverld (x : VVerF) (s : State) : Host.Outcome State Fault Refusal :=
  vector (.vverld x) .frm (some x.a) (some x.b) (some x.c) none s

/-- KVAPP (R170). -/
def execKvapp (x : KvappF) (s : State) : Host.Outcome State Fault Refusal :=
  vector (.kvapp x) .frm (some x.a) none none none s

/-- KVLDK (R169). -/
def execKvldk (x : VMemLF) (s : State) : Host.Outcome State Fault Refusal :=
  vector (.kvld false x) .frm (some x.a) none none none s

/-- KVLDV (R169). -/
def execKvldv (x : VMemLF) (s : State) : Host.Outcome State Fault Refusal :=
  vector (.kvld true x) .frm (some x.a) none none none s

/-- KVMOVE (R171). -/
def execKvmove (x : KvmoveF) (s : State) : Host.Outcome State Fault Refusal :=
  vector (.kvmove x) .frm (some x.a) none none none s

/-- KVLEN_READ (R172). -/
def execKvlenRead (x : R2T4) (s : State) : Host.Outcome State Fault Refusal :=
  vector (.kvlenRead x) .frm (some x.a) none none none s

/-- KVLEN_SET (R172). -/
def execKvlenSet (x : R3T4) (s : State) : Host.Outcome State Fault Refusal :=
  vector (.kvlenSet x) .frm (some x.a) (some x.b) none none s

/-- KVINV_SEQUENCE (R173). -/
def execKvinvSequence (x : RabT4) (s : State) : Host.Outcome State Fault Refusal :=
  vector (.kvinv x) .frm (some x.a) (some x.b) none none s

/-- KVINV_ALL (R173). -/
def execKvinvAll (x : RabT4) (s : State) : Host.Outcome State Fault Refusal :=
  vector (.kvinv x) .frm (some x.a) (some x.b) none none s

end Sys2Proof.Machine
end

