-- ==== Sys2Proof/Machine/EngineX.lean ====
section
/-! DEFINITION. Copies, barriers, the iteration ring, the matrix engine and the crust, as they are dispatched into the queue: OP
0x20, 0x21, 0x48, 0x50 to 0x53 and 0x5E (R186 to R196, R221 to R234, R244, R280 to R303, R326 to R336). -/
namespace Sys2Proof.Machine

open Sys2Proof

/-- BARINIT (R329). -/
def execBarinit (x : R3T2) (s : State) : Host.Outcome State Fault Refusal :=
  vector (.barinit x) .frm (some x.a) (some x.b) none none s

/-- BARINIT_UNREGISTER (R329). -/
def execBarinitUnregister (x : R3T2) (s : State) : Host.Outcome State Fault Refusal :=
  vector (.barinit x) .frm (some x.a) (some x.b) none none s

/-- BARARR (R330). -/
def execBararr (x : R2T2) (s : State) : Host.Outcome State Fault Refusal :=
  vector (.bararr x) .frm (some x.a) none none none s

/-- BARWAIT (R331). -/
def execBarwait (x : R3T2) (s : State) : Host.Outcome State Fault Refusal :=
  vector (.barwait x) .frm (some x.a) (some x.b) none none s

/-- BARKILL (R332). -/
def execBarkill (x : R2T2) (s : State) : Host.Outcome State Fault Refusal :=
  vector (.barkill x) .frm (some x.a) none none none s

/-- POST (R336). -/
def execPost (x : RabT4) (s : State) : Host.Outcome State Fault Refusal :=
  vector (.post x) .frm (some x.a) (some x.b) none none s

/-- WAITI (R336). -/
def execWaiti (x : R3T4) (s : State) : Host.Outcome State Fault Refusal :=
  vector (.waiti x) .frm (some x.a) (some x.b) none none s

/-- CPY (R226). -/
def execCpy (x : CpyF) (s : State) : Host.Outcome State Fault Refusal :=
  vector (.cpy x) .frm (some x.a) (some x.b) none (some x.d) s

/-- CPYM (R227). -/
def execCpym (x : CpyF) (s : State) : Host.Outcome State Fault Refusal :=
  vector (.cpym x) .frm (some x.a) (some x.b) none (some x.d) s

/-- CPYKV (R232). -/
def execCpykv (x : CpyF) (s : State) : Host.Outcome State Fault Refusal :=
  vector (.cpykv x) .frm (some x.a) (some x.b) none (some x.d) s

/-- XRED (R233). -/
def execXred (x : XredF) (s : State) : Host.Outcome State Fault Refusal :=
  vector (.xred x) .frm (some x.a) (some x.b) none (some x.d) s

/-- CPWAIT (R234). -/
def execCpwait (x : CpwF) (s : State) : Host.Outcome State Fault Refusal :=
  vector (.cpwait x) .frm (some x.a) none none none s

/-- MATT (R280). -/
def execMatt (x : GrpF) (s : State) : Host.Outcome State Fault Refusal := vector (.matt x) .frm none none none none s

/-- MDET (R291). -/
def execMdet (x : DetF) (s : State) : Host.Outcome State Fault Refusal := vector (.mdet x) .frm none none none none s

/-- MCLAIM (R284). -/
def execMclaim (x : SlotF) (s : State) : Host.Outcome State Fault Refusal := vector (.mclaim x) .frm none none none none s

/-- MREL (R292). -/
def execMrel (x : SlotF) (s : State) : Host.Outcome State Fault Refusal := vector (.mrel x) .frm none none none none s

/-- MZERO (R292). -/
def execMzero (x : AccF) (s : State) : Host.Outcome State Fault Refusal := vector (.mzero x) .frm none none none none s

/-- MSTAT (R292). -/
def execMstat (x : R1T4) (s : State) : Host.Outcome State Fault Refusal := vector (.mstat x) .frm none none none none s

/-- MLD (R294). -/
def execMld (x : SlotMF) (s : State) : Host.Outcome State Fault Refusal :=
  vector (.mld false x) .frm (some x.a) (some x.b) none none s

/-- MLDF (R294). -/
def execMldf (x : SlotMF) (s : State) : Host.Outcome State Fault Refusal :=
  vector (.mld true x) .frm (some x.a) (some x.b) none none s

/-- MLDT (R295). -/
def execMldt (x : SlotMF) (s : State) : Host.Outcome State Fault Refusal :=
  vector (.mldt x) .frm (some x.a) (some x.b) none none s

/-- MSLOTW (R296). -/
def execMslotw (x : SlotMF) (s : State) : Host.Outcome State Fault Refusal :=
  vector (.mslotw x) .frm none (some x.b) none none s

/-- MSLOTR (R296). -/
def execMslotr (x : SlotRF) (s : State) : Host.Outcome State Fault Refusal :=
  vector (.mslotr x) .frm none (some x.b) none none s

/-- MMA (R287). -/
def execMma (x : MmaF) (s : State) : Host.Outcome State Fault Refusal := vector (.mma .acc x) .frm none none none none s

/-- MMAZ (R287). -/
def execMmaz (x : MmaF) (s : State) : Host.Outcome State Fault Refusal := vector (.mma .zero x) .frm none none none none s

/-- MMAN (R287). -/
def execMman (x : MmaF) (s : State) : Host.Outcome State Fault Refusal := vector (.mma .neg x) .frm none none none none s

/-- MDRAIN (R299). -/
def execMdrain (x : DrnF) (s : State) : Host.Outcome State Fault Refusal := vector (.mdrain x) .frm none none none none s

/-- MACCST (R300). -/
def execMaccst (x : AccMF) (s : State) : Host.Outcome State Fault Refusal :=
  vector (.maccst x) .frm (some x.a) none none none s

/-- MACCLD (R300). -/
def execMaccld (x : AccMF) (s : State) : Host.Outcome State Fault Refusal :=
  vector (.maccld x) .frm (some x.a) none none none s

/-- NADD (R191). -/
def execNadd (x : NaddF) (s : State) : Host.Outcome State Fault Refusal :=
  vector (.nadd x) .frm (some x.a) (some x.b) none none s

/-- NFENCE (R192). -/
def execNfence (x : R1T4) (s : State) : Host.Outcome State Fault Refusal := vector (.nfence x) .frm none none none none s

/-- NROWCPY (R193). -/
def execNrowcpy (x : NcpyF) (s : State) : Host.Outcome State Fault Refusal :=
  vector (.nrowcpy x) .frm (some x.a) (some x.b) none none s

/-- NZERO (R193). -/
def execNzero (x : NzeroF) (s : State) : Host.Outcome State Fault Refusal :=
  vector (.nzero x) .frm (some x.a) none none none s

/-- NGATHER (R194). -/
def execNgather (x : NgatherF) (s : State) : Host.Outcome State Fault Refusal :=
  vector (.ngather x) .frm (some x.a) (some x.b) none none s

/-- NOPT (R195). -/
def execNopt (x : NoptF) (s : State) : Host.Outcome State Fault Refusal :=
  vector (.nopt x) .frm (some x.a) (some x.b) none (some x.d) s

/-- NSTAT_READ (R196). -/
def execNstatRead (x : R3T4) (s : State) : Host.Outcome State Fault Refusal :=
  vector (.nstat x) .frm (some x.a) (some x.b) none (some x.d) s

/-- NSTAT_PATTERN_WRITE (R196). -/
def execNstatPatternWrite (x : R3T4) (s : State) : Host.Outcome State Fault Refusal :=
  vector (.nstat x) .frm (some x.a) (some x.b) none (some x.d) s

end Sys2Proof.Machine
end

