-- ==== Sys2Proof/Machine/Events.lean ====
section
/-! DEFINITION. What a core does next, and the events of the cores, channels, crusts and the abstract machine (R186, R221,
R226, R306, R334, R351, R355, R365, R367, R374, R390). -/
namespace Sys2Proof.Machine

open Sys2Proof

/-! ## The next instruction of a core -/

/-- Whether BUDGET.LEFT of a core's task is 0 (R355). -/
def State.overrun (s : State) (k : Core) : Bool :=
  match k.deadline with
  | some t => k.run.isSome && decide (t ≤ s.cycle)
  | none => false

/-- The line that the executing core goes on in, entered where it has not been yet (R15 to R17). A task whose CP or saved
IA names no slot of its line fails before it executes an instruction (R16). -/
def enterNext : M (Option Line) := do
  let k ← getMe
  let l ← match k.line with
    | some l => pure l.bits
    | none => do
      let l ← enterLine k.sstat.mode k.ia
      modMe fun k => k.goAt k.ia (some l)
      pure l
  if wellFormedIa k.ia && decide (iaSlot k.ia ≤ lineNh l) then return some l
  else if k.sstat.mode then raise (illegalTarget k.ia)
  else
    failTask 3
    return none

/-- The line of the next instruction of the executing core; a fault of its fetch is taken at its address (R365). -/
def fetchNext : M (Option Line) := do
  let k ← getMe
  let r ← tryTrap enterNext
  match r with
  | .inl t => do
    trapEntry (some t) k.ia
    return none
  | .inr l => return l

/-- What the executing core does before its next instruction, and the line of that instruction, where it comes to one: a
failing task runs out (R355, R373), a continuation is pushed (R360), an overrun task fails (R355), a trap whose drain is not over goes
on (R365, R371), a late fault is taken (R365), and in task mode an interrupt is taken before the line is looked at (R374). -/
def turn : M (Option Line) := do
  let c ← myNumber
  let s ← get
  let k := s.me
  match k.failing, k.pendingPush with
  | some cause, _ => do
    continueFailing cause
    return none
  | none, some _ => do
    modify fun s => s.retryPush c
    return none
  | none, none =>
    if k.act = .idle then return none
    else if s.overrun k then
      failTask 26
      return none
    else
      match k.draining with
      | some (t, eia) => do
        trapEntry (some t) eia
        return none
      | none => do
        if s.eager then runEntries else pure ()
        let k ← getMe
        match k.lateFault, k.interrupt with
        | some (e, t), _ => do
          takeLate e t
          return none
        | none, some t =>
          if !k.sstat.mode then
            trapEntry (some t) k.ia
            return none
          else fetchNext
        | none, none => fetchNext

/-- The interrupt that the executing core takes before an instruction in supervisor mode (R374): WFI continues first
(R380). -/
def Core.supInterrupt (k : Core) (wfi : Bool) : Option Trap :=
  if k.sstat.mode && k.sstat.ie && !wfi then k.interrupt else none

/-- Whether an instruction is WFI. -/
def isWfi (i : Instr) : Bool :=
  match i with
  | .wfi => true
  | _ => false

/-- The instruction of a line that the executing core comes to; one that decodes to none is undefined (R23), and an
interrupt may come first. -/
noncomputable def decodeNext (l : Line) : M (Option Instr) := do
  let k ← getMe
  match decodeSlot l (iaSlot k.ia) with
  | .error c => do
    trapEntry (some (faultOf 1 0 (undefAux (lineHead l (iaSlot k.ia)) c).toNat)) k.ia
    return none
  | .ok i =>
    match k.supInterrupt (isWfi i) with
    | some t => do
      trapEntry (some t) k.ia
      return none
    | none => return some i

/-- The instruction that the turn of the executing core comes to. -/
noncomputable def nextInstr : M (Option Instr) := do
  match ← turn with
  | none => return none
  | some l => decodeNext l

/-- The instruction that the turn of a core comes to, and the state it comes to it in; none where the turn is over without
one. -/
noncomputable def State.takeTurn (s : State) : Option Instr × State :=
  match nextInstr.run.run s with
  | (.ok i, s') => (i, s')
  | (.error _, s') => (none, s')

/-- How far DTIME is slewed when so many of its steps of 100 ppm have come due (R388). -/
def slewBy (slew : Int) (n : Nat) : Int := max (-(n : Int)) (min (n : Int) slew)

/-- Time passes: by how much in a step the manual leaves open (R8, R388). DTIME is slewed by at most 1 ns in 10,000 ns, and never goes
back. -/
def State.tick (s : State) : State :=
  let acc := s.slewAcc + s.dNs
  let by_ := slewBy s.slew (acc / 10000)
  { s with cycle := s.cycle + s.dCycles, dtime := ((s.dtime + s.dNs : Nat) + by_).toNat, slew := s.slew - by_, slewAcc := acc % 10000 }

/-- The move that is next. -/
def State.move (s : State) : Move := s.tape.headD (.scalar s.cur)

/-- The vector unit of a core runs the entry at the head of its queue (R245). -/
def vectorMove (core : Nat) : M Unit := onCore core (do
  let _ ← stepHead
  return ())

/-- The mask of an entry whose rows access memory one after another (R168, R209, R215): it may run a few rows at a time. -/
def VecOp.rowMask (o : VecOp) : Option MaskReg :=
  match o with
  | .load m _ f | .store m _ f => if m = .lane ∨ m = .firstFault then none else some f.k
  | .vamo _ f => some f.k
  | .kvld _ f => some f.k
  | _ => none

/-- A part of the entry at the head of the queue runs, which then stands at a point of its own; a fault leaves it at that fault. -/
def runPart (m : M Unit) (row block : Nat) : M Unit :=
  tryCatch (do m; setProg row 0 block) fun h => match h with
    | .trap t => modMe fun k => k.headFault t
    | .wait => return ()

/-- The vector unit of a core runs the next n rows of the entry at the head of its queue, or the next n blocks of an MMA, and the entry
stands at the row or block after them (R209, R303, R306, R308). The last ones of an entry are left to `vectorMove`. -/
def vectorRows (core n : Nat) : M Unit := onCore core (do
  let k ← getMe
  match k.queue with
  | [] => return ()
  | e :: _ =>
    if e.fault.isSome then return ()
    else
      match e.op, e.op.rowMask with
      | .mma o f, _ =>
        let stop := e.prog.block + n
        if n = 0 ∨ 4 ≤ stop ∨ e.empty then return () else runPart (mmaBlocks o f e stop) 0 stop
      | _, some m =>
        let part := { e with nr := e.prog.row + n }
        if e.nr ≤ part.nr ∨ !anyActive k part m then return ()
        else runPart (do entryGate part; vexec part) part.nr 0
      | _, none => return ())

/-- One page of a GCOMMIT or GDISCARD that is next on a core, where it is not its last (R123). -/
noncomputable def pageMove (core : Nat) : M Unit := onCore core (do
  match ← nextInstr with
  | some (.gcommit x) => runInstr [x.d, x.a, x.b] (settleOne true x)
  | some (.gdiscard x) => runInstr [x.d, x.a, x.b] (settleOne false x)
  | _ => return ())

/-- A counter line on the path of a sealed line no longer verifies (R182). -/
def State.failCounter (s : State) (line : Nat) : State :=
  if (s.sealOf line).isSome && !s.badCounters.contains line then { s with badCounters := line :: s.badCounters } else s

/-! ## Placing an instruction -/

/-- The line of one instruction (R13): its head in halfword 1 and its tail at the end. -/
def lineOf (head tail : Nat) : Line :=
  let n := headTailBytes (BitVec.ofNat 16 head)
  BitVec.ofNat 512 (1 * 2 ^ 11 + head % 2 ^ 16 * 2 ^ 16 + tail % 2 ^ (8 * n) * 2 ^ (512 - 8 * n))

/-- A core ready to execute slot 1 of the line at address 0, in supervisor mode under the tables at 1000H. -/
def Core.placed (k : Core) : Core :=
  { k with act := .running, ia := 1, line := none, icache := [], ptroot := 0x1000, queue := [], deadline := none,
           monitor := none, failing := none, pendingPush := none, settling := none, draining := none,
           chans := k.chans.map fun c => { c with stopped := none },
           sstat := { k.sstat with mode := true, ie := false } }

/-- The state with one instruction stored in the line at physical address 0, tables that map the first GiB for fetches, and
the current core about to fetch the line. The word is numbered as the opcode table numbers it: the head is the topmost 16 of
`nbits` bits and the tail the bits below it (log entry 3). -/
def State.placeWord (s : State) (nbits w : Nat) : State :=
  let l := lineOf (w / 2 ^ (nbits - 16)) (w % 2 ^ (nbits - 16))
  let mine := [0, 0x1000 / 64, 0x2000 / 64, 0x3000 / 64]
  let s := s.setBytes 0 (bytesOfLine l)
  let s := s.setBytes 0x1000 (leBytes 8 0x2003)
  let s := s.setBytes 0x2000 (leBytes 8 0x3003)
  let s := s.setBytes 0x3000 (leBytes 8 0x0090000000000009)
  let s := { s with stage := .running, tape := [], badLines := s.badLines.filter fun l => !mine.contains l,
                    sealTags := s.sealTags.filter (fun t => !mine.contains t.1),
                    vague := s.vague.filter fun t => !mine.contains t.1 }
  (s.updMe Core.placed).updDie (dieOf s.cur) fun d =>
    { d with tlb := [], walk := [], guests := d.guests.filter fun g => !mine.contains g.line }

/-! ## The abstract machine (R306) -/

/-- COMMIT (R306): the oldest scalar store of a core leaves for its home. -/
def execCommit (core : Nat) (s : State) : Host.Outcome State Fault Refusal := event (modify fun s => s.commitOne core) s

/-- PERFORM (R306): write n in flight performs at its home. -/
def execPerform (n : Nat) (s : State) : Host.Outcome State Fault Refusal := event (modify fun s => s.performFlight n) s

/-- APPLY (R306): a die applies update n of its inbox. -/
def execApply (die n : Nat) (s : State) : Host.Outcome State Fault Refusal := event (modify fun s => s.applyNth die n) s

/-- INSTALL_FILL (R306): recorded fill n installs a guest copy, or is discarded. -/
def execInstallFill (n : Nat) (s : State) : Host.Outcome State Fault Refusal := event (modify fun s => s.installFill n) s

/-- A scalar load as it is about to run: its registers, its offset, its size, and what it does. -/
structure LoadForm where
  d : Reg
  a : Reg
  off : BitVec 16
  n : Nat
  run : M Unit

/-- The scalar loads, ordered loads included, by the fields of their words (R204, R313). -/
def loadForm (r : Raw) : Option LoadForm :=
  let plain := fun (n : Nat) (signed : Bool) =>
    (decMemF (fun x => ({ d := x.d, a := x.a, off := x.off, n := n, run := loadOp n signed x } : LoadForm)) r).toOption
  let ordered := fun (n : Nat) =>
    (decOrdF (fun x => ({ d := x.d, a := x.a, off := 0, n := n, run := ldaOp n x } : LoadForm)) r).toOption
  match r.tl, r.op.toNat, r.f.toNat with
  | .t4, 0x10, 0 => plain 1 true
  | .t4, 0x10, 1 => plain 1 false
  | .t4, 0x10, 2 => plain 2 true
  | .t4, 0x10, 3 => plain 2 false
  | .t4, 0x10, 4 => plain 4 true
  | .t4, 0x10, 5 => plain 4 false
  | .t4, 0x10, 6 => plain 8 false
  | .t4, 0x13, 0 => ordered 4
  | .t4, 0x13, 1 => ordered 8
  | _, _, _ => none

/-- The load that the executing core comes to. -/
def turnLoad : M (Option LoadForm) := do
  match ← turn with
  | none => return none
  | some l => do
    let k ← getMe
    if (k.supInterrupt false).isSome then return none
    else return loadForm (Raw.ofWords (lineHead l (iaSlot k.ia)) (lineTail l (iaSlot k.ia)))

/-- Whether the executing core's next instruction is a scalar load that is answered at its die (R306); none where it is
another instruction. The state is left as it was. -/
def nextLoad : M (Option (LoadForm × Bool)) := do
  let s ← get
  let r ← tryCatch (do
      match ← turnLoad with
      | none => return none
      | some f => do
        let x ← myCtx
        let va := memAddr (← readX f.a) f.off
        let t ← readPlace x va
        let s ← get
        return some (f, s.atDie x.core t.loc t.held)) fun _ => return none
  set s
  return r

/-- READ_AT_DIE (R306): a scalar load that is next on a core is answered from its store buffer or its die. -/
def execReadAtDie (core : Nat) (s : State) : Host.Outcome State Fault Refusal :=
  event (onCore core (do
    match ← nextLoad with
    | some (f, true) => do
      let _ ← turn
      runInstr [f.d, f.a] (do f.run; return .next)
    | _ => return ())) s

/-- READ_AT_HOME (R306): a scalar load that is next on a core is answered at home, or else the reading entry at the head
of its queue runs. -/
def execReadAtHome (core : Nat) (s : State) : Host.Outcome State Fault Refusal :=
  event (onCore core (do
    match ← nextLoad with
    | some (f, false) => do
      let _ ← turn
      runInstr [f.d, f.a] (do f.run; return .next)
    | _ => do
      let k ← getMe
      match k.queue with
      | e :: _ =>
        if e.op.reads then
          let _ ← stepHead
          return ()
        else return ()
      | [] => return ())) s

/-! ## Crusts, copies and posts -/

/-- CRUST_ITEM (R186): the crust of a stack performs its oldest item. -/
def execCrustItem (stack : Nat) (s : State) : Host.Outcome State Fault Refusal := event (modify fun s => s.crustStep stack) s

/-- COPY_ISSUE (R221): a copy at the head of a core's queue is issued once its channel has room. -/
def execCopyIssue (core : Nat) (s : State) : Host.Outcome State Fault Refusal :=
  event (onCore core (do
    let k ← getMe
    match k.queue with
    | e :: _ =>
      if e.op.isCopy then
        let _ ← stepHead
        return ()
      else return ()
    | [] => return ())) s

/-- COPY_ROW_DELIVERY (R226): a channel of a core delivers a row, or its head copy ends. -/
def execCopyRowDelivery (core ch : Nat) (s : State) : Host.Outcome State Fault Refusal := event (onCore core (chanStep ch)) s

/-- POST_ARRIVAL (R334, R336): a post reaches a mirror, and a WAITI at the head of that core's queue looks again. -/
def execPostArrival (die n : Nat) (s : State) : Host.Outcome State Fault Refusal :=
  event (do
    let (s', got) := (← get).arrivePost die n
    set s'
    match got with
    | none => return ()
    | some c =>
      onCore c (do
        let k ← getMe
        match k.queue with
        | e :: _ =>
          match e.op with
          | .waiti _ => do
            let _ ← stepHead
            return ()
          | _ => return ()
        | [] => return ())) s

/-- VERSION_RECLAIM (R136): the oldest version of a line that is retained no more returns to its pools. -/
def execVersionReclaim (region head base : Nat) (s : State) : Host.Outcome State Fault Refusal :=
  event (modify fun s => s.reclaim { head := head, base := base, region := region }) s

/-! ## Traps, interrupts and tasks -/

/-- Whether a core is between instructions: nothing keeps it from taking a trap. -/
def Core.ready (k : Core) : Bool := k.act == .running && k.failing.isNone && k.pendingPush.isNone

/-- Whether the executing core waits at a WFI (R380). -/
def Core.atWfi (k : Core) : Bool :=
  match k.line with
  | none => false
  | some l =>
    let r := Raw.ofWords (lineHead l.bits (iaSlot k.ia)) (lineTail l.bits (iaSlot k.ia))
    r.tl == .t2 && r.op.toNat == 0x19 && r.f.toNat == 4 && (decZ2 Instr.wfi r).toOption.isSome

/-- A pending interrupt is taken between instructions (R374). A WFI that waits with IE = 1 goes on first (R380). -/
def takeInterrupt (t : Trap) : M Unit := do
  let k ← getMe
  if k.sstat.mode && k.atWfi then
    retire
    let k ← getMe
    if k.takesInterrupts then trapEntry (some t) k.ia else return ()
  else trapEntry (some t) k.ia

/-- TRAP_ENTRY (R365): a drain goes on, or a late fault or a pending interrupt of a core is taken. -/
def execTrapEntry (core : Nat) (s : State) : Host.Outcome State Fault Refusal :=
  event (onCore core (do
    let k ← getMe
    if k.ready then
      match k.draining, k.lateFault, k.interrupt with
      | some (t, eia), _, _ => trapEntry (some t) eia
      | none, some (e, t), _ => takeLate e t
      | none, none, some t => if k.takesInterrupts then takeInterrupt t else return ()
      | none, none, none => return ()
    else return ())) s

/-- A pre-emption request reaches a core (R367, R374): it is pending until it is taken, and a core that is idle leaves its share when it is
reclaimed. -/
def State.requestPreempt (s : State) (core : Nat) (reclaim : Bool) : State :=
  let s := s.updCore core fun k => { k with preempt := some (k.preempt.getD false || reclaim) }
  if (s.core core).act = .idle ∧ reclaim then s.leaveShare core else s

/-- Whether a core that runs is on its way out of its share (R346, R367). -/
def Core.leaving (k : Core) : Bool :=
  k.act == .running && (k.reclaim || k.preempt == some true || k.draining.any fun p => p.1.intr && p.1.code == 0 && p.1.eaux == 1)

/-- PRE_EMPTION_REQUEST (R367, R374). -/
def execPreEmptionRequest (core : Nat) (reclaim : Bool) (s : State) : Host.Outcome State Fault Refusal :=
  event (modify fun s => s.requestPreempt core reclaim) s

/-- MANAGEMENT_MESSAGE (R367, R374). -/
def execManagementMessage (core : Nat) (s : State) : Host.Outcome State Fault Refusal :=
  event (modify fun s => s.updCore core fun k => { k with mgmt := true }) s

/-- BUDGET_EXCEEDED (R355): the task of a core whose BUDGET.LEFT is 0 fails with cause budget-exceeded. -/
def execBudgetExceeded (core : Nat) (s : State) : Host.Outcome State Fault Refusal :=
  event (onCore core (do
    let s ← get
    if s.overrun s.me && s.me.failing.isNone then failTask 26 else return ())) s

/-- TASK_START (R351): an idle core of a share takes work and starts it. -/
def execTaskStart (core : Nat) (s : State) : Host.Outcome State Fault Refusal :=
  event (onCore core (do
    let s ← get
    match s.shareOf core with
    | some h => if s.me.act = .idle ∧ s.me.pendingPush = none then takeWork h else return ()
    | none => return ())) s

/-- The core that runs a task by its number. -/
def State.coreOfTask (s : State) (task : Nat) : Option Nat :=
  (List.range s.cores.length).find? fun c => (s.core c).act == .running && (s.core c).taskNo == task

/-- FABRIC_ACCESS_TIMEOUT (R390): write n sent to another device has had no acknowledgement for 1 ms and counts as a
deferred failure of its task; a number beyond the writes says that the next read of a core over the fabric is not acknowledged. -/
def State.fabricTimeout (s : State) (n : Nat) : State :=
  match s.fabric[n]? with
  | some f =>
    if f.write && decide (1000000 ≤ s.dtime - f.sent) then
      { s with fabric := s.fabric.eraseIdx n }.deferFail (s.coreOfTask f.task)
    else s
  | none => { s with fabric := s.fabric ++ [{ core := n - s.fabric.length, task := 0, loc := 0, write := false, sent := s.dtime }] }

/-- FABRIC_ACCESS_TIMEOUT (R390). -/
def execFabricAccessTimeout (n : Nat) (s : State) : Host.Outcome State Fault Refusal := event (modify fun s => s.fabricTimeout n) s

end Sys2Proof.Machine
end

