-- ==== Sys2Proof/Machine/HostQueue.lean ====
section
/-! DEFINITION. Host queues, the lane allocator and stream contexts (R340, R344 to R348, R356, R408). -/
namespace Sys2Proof.Machine

open Sys2Proof

/-! ## Records and queues -/

/-- A start record (R340): `head` is its first 32 bytes. -/
structure StartRec where
  head : List Byte
  notBefore : Nat
  share : Nat
  cwa : Nat
  levels : Nat
  deriving DecidableEq, Repr

/-- JB. -/
def StartRec.jb (r : StartRec) : Nat := dword r.head 16
/-- LAUNCH. -/
def StartRec.launch (r : StartRec) : Nat := bits (dword r.head 24) 15 0
/-- KIND. -/
def StartRec.kind (r : StartRec) : Nat := bits (dword r.head 24) 23 16
/-- MIN. -/
def StartRec.least (r : StartRec) : Nat := bits r.share 7 0
/-- MAX. -/
def StartRec.most (r : StartRec) : Nat := bits r.share 15 8
/-- CEIL. -/
def StartRec.ceil (r : StartRec) : Nat := bits r.share 23 16
/-- CLASS. -/
def StartRec.cls (r : StartRec) : Nat := bits r.share 31 24
/-- STREAM. -/
def StartRec.stream (r : StartRec) : Nat := bits r.share 47 32
/-- DIES. -/
def StartRec.dies (r : StartRec) : Nat := bits r.share 63 48
/-- The permitted dies. -/
def StartRec.permitted (r : StartRec) : List Nat :=
  (List.range Config.dieCount).filter fun d => r.dies == 0 || r.dies.testBit d
/-- The levels named by GRAPH, PHASE and JOB, as kind and id. -/
def StartRec.named (r : StartRec) : List (Nat × Nat) :=
  ([1, 2, 3].map fun k => (k, bits r.levels (16 * k - 1) (16 * k - 16))).filter fun p => p.2 != 0

/-- A host queue as its descriptor shows it, with the record at its head (R344). -/
structure QueueHead where
  queue : Nat
  cls : Nat
  ctx : Nat
  rec_ : StartRec
  deriving DecidableEq, Repr

/-- Reads a start record (R340). -/
def State.startRec (s : State) (a : Nat) : StartRec :=
  { head := s.bytesAt a 32, notBefore := s.num (a + 32) 8, share := s.num (a + 40) 8, cwa := s.num (a + 48) 8,
    levels := s.num (a + 56) 8 }

/-- The head of queue q, where it is served and holds records (R344, R346). -/
def State.queueHead (s : State) (q : Nat) : Option QueueHead :=
  let a := s.queueAddr q
  let ctl := s.num (a + 8) 8
  let head := s.num (a + 24) 8
  if bit ctl 31 && decide (head < s.num (a + 16) 8) then
    let ring := bits (s.num a 8) 51 0
    let aged := bit (s.num (a + 32) 8) 2
    some { queue := q, cls := min 3 (bits ctl 9 8 + flagNat aged), ctx := bits (s.num (a + 40) 8) 51 0,
           rec_ := s.startRec (s.canonPa (ring + 64 * (head % 2 ^ bits ctl 4 0))) }
  else none

/-- Whether a head record is servable (R346, R388). -/
def State.servable (s : State) (r : StartRec) : Bool := r.notBefore == 0 || (s.everLocked && decide (r.notBefore ≤ s.dtime))

/-- Changes the STATUS of a queue (R344). -/
def State.updStatus (s : State) (q : Nat) (f : Nat → Nat) : State :=
  let a := s.queueAddr q + 32
  let w := s.num a 8
  if f w = w then s else s.putWord a (f w)

/-- Sets HELD (R344). -/
def State.holdQueue (s : State) (q : Nat) : State := s.updStatus q fun w => Nat.lor w 2

/-- A record is consumed: HEAD advances, and HELD and AGED clear (R344, R346). -/
def State.consume (s : State) (q : Nat) : State :=
  let a := s.queueAddr q
  let s := s.putWord (a + 24) ((s.num (a + 24) 8 + 1) % 2 ^ 64)
  let s := s.updStatus q fun w => w / 2 ^ 32 * 2 ^ 32
  { s with queueNotes := s.queueNotes.filter fun n => n.queue != q }

/-! ## Launch contexts (R345) -/

/-- A launch context. -/
structure LaunchCtx where
  ptroot : Word
  asid : BitVec 16
  kvroot : Word
  tvec : Word
  reservedSet : Bool
  deriving DecidableEq, Repr

/-- Reads a launch context; none where CTX is 0. -/
def State.launchCtx (s : State) (pa : Nat) : Option LaunchCtx :=
  if pa = 0 then none
  else
    let bs := s.bytesAt (s.canonPa pa) 64
    let root := dword bs 0
    some { ptroot := word root &&& 0x000FFFFFFFFFF000, asid := BitVec.ofNat 16 (dword bs 8),
           kvroot := word (dword bs 16) &&& 0x000FFFFFFFFF8001, tvec := word (dword bs 24),
           reservedSet := bits root 63 52 != 0 || bits root 11 0 != 0 || decide (2 ^ 16 ≤ dword bs 8)
             || (bs.drop 32).any fun b => b != 0 }

/-- The address space of a start record that receives no share (R408). Where DIES permits no die and CTX is 0 the spec gives none: the model
takes that of core 0 (DESIGN CHOICE, log entry 47). -/
def State.lostCtx (s : State) (h : QueueHead) : Ctx :=
  let c := (h.rec_.permitted.headD 0) * Config.coresPerDie
  match s.launchCtx h.ctx with
  | some x => { core := c, asid := x.asid, ptroot := x.ptroot, sup := true, scx := 0 }
  | none => { core := c, asid := (s.core c).asid, ptroot := (s.core c).ptroot, sup := true, scx := 0 }

/-! ## Rejection and cancellation (R347) -/

/-- Whether stream entry t of a die is VALID (R356). -/
def State.streamValid (s : State) (die t : Nat) : Bool := bit (s.num (s.streamAddr die t) 8) 63

/-- Whether a record is rejected (R345, R347). -/
def State.rejects (s : State) (h : QueueHead) : Bool :=
  let r := h.rec_
  r.least == 0 || decide (r.most < r.least) || decide (40 < r.most) || r.ceil == 0 || decide (128 < r.ceil)
    || decide (3 < r.cls) || decide (16 ≤ r.dies) || decide (16383 < r.stream)
    || (r.stream != 0 && !(r.permitted.any fun d => s.streamValid d r.stream))
    || r.jb != 0 || r.kind != 0 || r.launch == 0 || s.num (s.levelAddr 0 r.launch + 8) 8 % 4 == 1
    || r.cwa % 8 != 0 || ((s.launchCtx h.ctx).map LaunchCtx.reservedSet).getD false

/-- Whether a record is cancelled (R347). -/
def State.cancels (s : State) (r : StartRec) : Bool := r.named.any fun p => s.cancelled p.1 p.2

/-- A record is rejected (R347). -/
def rejectHead (h : QueueHead) : M Unit := do
  let s ← get
  let _ ← deviceUpdate (s.lostCtx h) h.rec_.cwa fun w => Nat.lor (w % 2 ^ 32) 3 + 0xFFFFFFFF * 2 ^ 32
  modify fun s => s.updStatus h.queue fun w => (w + 2 ^ 32) % 2 ^ 64
  modify fun s => s.consume h.queue

/-- A record is cancelled: its parent loses a child (R347). -/
def cancelHead (h : QueueHead) : M Unit := do
  let s ← get
  let x := s.lostCtx h
  let w ← deviceUpdate x h.rec_.cwa fun w => Nat.lor w 5
  match h.rec_.named.head? with
  | none => pure ()
  | some p =>
    let n ← childDone x p (w.getD 0)
    if n = 0 then completeLevel x levelCount p.1 p.2 else pure ()
  modify fun s => s.consume h.queue

/-! ## The lane allocator (R348) -/

/-- The cores of a die that no share holds, lowest first. -/
def State.freeCores (s : State) (die : Nat) : List Nat :=
  ((List.range Config.coresPerDie).map fun i => die * Config.coresPerDie + i).filter fun c => (s.shareOf c).isNone

/-- The die that a record is granted on: the lowest permitted one with MIN unallocated cores, its stream entry valid, and room for the
task in its injection queue (R348, R350, R356). -/
def State.chooseDie (s : State) (r : StartRec) : Option Nat :=
  r.permitted.find? fun d => decide (r.least ≤ (s.freeCores d).length) && (r.stream == 0 || s.streamValid d r.stream)
    && decide ((s.die d).injected 0 < injectRoom)

/-- Copies n bytes of memory for the device. -/
def State.copyBytes (s : State) (dst src n : Nat) : State :=
  (splitLines (n + 1) dst (s.bytesAt src n)).foldl (fun s p => s.publish none p.1 p.2) s

/-- The chip pad region of a stream entry, its size, and SAVE (R356). -/
def State.streamPlace (s : State) (die t : Nat) : Nat × Nat × Nat :=
  let a := s.streamAddr die t
  let w := s.num a 8
  (chipPadLoc die (bits w 25 6 * 64), bits w 41 32 * 64, s.canonPa (bits (s.num (a + 8) 8) 51 0))

/-- A granted launch restores its stream where it is not resident, and notes the time (R356). -/
def State.restoreStream (s : State) (die t : Nat) : State :=
  if t = 0 then s
  else
    let a := s.streamAddr die t
    let s :=
      if bit (s.num a 8) 62 then s
      else
        let (pad, n, save) := s.streamPlace die t
        let s := s.copyBytes pad save n
        s.putWord a (s.num a 8 + 2 ^ 62)
    s.putWord (a + 24) s.dtime

/-- The level record of a granted launch (R348 step 1). -/
def State.openLaunch (s : State) (r : StartRec) : State :=
  let a := s.levelAddr 0 r.launch
  let parent := match r.named.head? with | some p => p.2 + p.1 * 2 ^ 16 | none => 0
  let s := s.putWord a 1
  let s := s.putWord (a + 8) (s.num (a + 8) 8 / 4 * 4 + 1)
  let s := s.putWord (a + 16) (s.num (a + 16) 8 / 2 * 2)
  let s := s.putWord (a + 24) r.cwa
  let s := s.putWord (a + 32) (s.num (a + 32) 8 / 2 ^ 18 * 2 ^ 18 + parent)
  s.putWord (a + 40) (s.num (a + 40) 8 / 2 ^ 32 * 2 ^ 32)

/-- What a core of a new share receives (R348 steps 2 and 3). -/
def Core.granted (k : Core) (x : Option LaunchCtx) : Core :=
  let k := { k with cpwp := Vector.replicate 4 0, cpwpCk := Vector.replicate 4 [] }
  match x with
  | none => k
  | some x => { k with ptroot := x.ptroot, asid := x.asid, kvroot := x.kvroot, tvec := x.tvec }

/-- The clock of everything performed so far, which the first task of a launch acquires with the read of TAIL (R344,
R351). -/
def State.allPerformed (s : State) : Clock :=
  { c0 := (s.die 0).dvc.c0, c1 := (s.die 1).dvc.c1, c2 := (s.die 2).dvc.c2, c3 := (s.die 3).dvc.c3 }

/-- A record is granted a share on a die, and is consumed (R348). -/
def State.grant (s : State) (h : QueueHead) (die : Nat) : State :=
  let r := h.rec_
  let cores := (s.freeCores die).take r.most
  let x := s.launchCtx h.ctx
  let s := cores.foldl (fun s c => s.updCore c fun k => k.granted x) (s.openLaunch r)
  let s := s.restoreStream die r.stream
  let low := s.core (cores.headD 0)
  let sh : Share :=
    { launch := r.launch, die := die, cores := cores, ceil := r.ceil, cls := r.cls,
      levels := word (r.launch + r.levels % 2 ^ 48 * 2 ^ 16), stream := r.stream, ptroot := low.ptroot, asid := low.asid }
  let task := recOf r.head 0 r.launch s.allPerformed
  let s := { s with shares := s.shares ++ [sh] }
  ((s.pushInject die 0 task).getD s).consume h.queue

/-- Pre-emption requests with RECLAIM go to the cores of running launches of lower classes on the permitted dies of a
waiting record, each once, until a die can grant it (R346). -/
def State.reclaimFor (s : State) (r : StartRec) : State :=
  let cores := (s.shares.filter fun h => decide (h.cls < r.cls) && r.permitted.contains h.die).flatMap Share.cores
  cores.foldl (fun s c =>
    if (s.chooseDie r).isSome || (s.core c).leaving then s else s.requestPreempt c true) s

/-! ## Serving (R346) -/

/-- The heads of the queues that are served. -/
def State.queueHeads (s : State) : List QueueHead := (List.range 64).filterMap s.queueHead

/-- The servable heads of the highest class that has one, in round-robin order. -/
def State.candidates (s : State) : List QueueHead :=
  let hs := s.queueHeads.filter fun h => s.servable h.rec_
  let top := hs.foldl (fun n h => max n h.cls) 0
  let hs := hs.filter fun h => h.cls == top
  let last := s.lastQueue.toArray.getD top 63
  (hs.filter fun h => decide (last < h.queue)) ++ hs.filter fun h => decide (h.queue ≤ last)

/-- Whether a head can be dealt with now: it does not wait for a share. -/
def State.ready (s : State) (h : QueueHead) : Bool := s.rejects h || s.cancels h.rec_ || (s.chooseDie h.rec_).isSome

/-- The scheduler notes since when the head of a queue has been servable (R346). -/
def State.noteQueue (s : State) (q : Nat) : State :=
  if s.queueNotes.any fun n => n.queue == q then s
  else { s with queueNotes := s.queueNotes ++ [{ queue := q, since := s.dtime }] }

/-- The queue served last in a class (R346). -/
def State.served (s : State) (h : QueueHead) : State := { s with lastQueue := s.lastQueue.set! h.cls h.queue }

/-- The device deals with a head: it rejects, cancels or grants it (R347, R348). -/
def takeHead (h : QueueHead) : M Unit := do
  modify fun s => s.served h
  let s ← get
  if s.rejects h then rejectHead h
  else if s.cancels h.rec_ then cancelHead h
  else
    match s.chooseDie h.rec_ with
    | some d => set (s.grant h d)
    | none => return ()

/-- Whether the device serves host queues: it has come up, in a life-cycle state that runs tasks (R392, R396). -/
def State.serving (s : State) : Bool := s.stage == .running && (s.life == .provisioned || s.life == .deployed)

/-- HOST_QUEUE_SERVE (R346): heads that are not servable are passed over with HELD set; among those of the highest class
the waiting ones keep their place, and the first that can be dealt with is. -/
def serveQueues : M Unit := do
  let s ← get
  if !s.serving then return ()
  else
    modify fun s => s.queueHeads.foldl (fun s h => if s.servable h.rec_ then s.noteQueue h.queue else s.holdQueue h.queue) s
    let s ← get
    let hs := s.candidates
    modify fun s => (hs.filter fun h => !s.ready h).foldl (fun s h => (s.holdQueue h.queue).reclaimFor h.rec_) s
    match hs.find? s.ready with
    | some h => takeHead h
    | none => return ()

/-- HOST_QUEUE_SERVE (R346). -/
def execHostQueueServe (s : State) : Host.Outcome State Fault Refusal := event serveQueues s

/-- SHARE_GRANT (R348): the lane allocator of a die grants the first waiting record that it can. -/
def execShareGrant (die : Nat) (s : State) : Host.Outcome State Fault Refusal :=
  event (do
    let s ← get
    if !s.serving then return ()
    else
      match s.candidates.find? fun h => !s.rejects h && !s.cancels h.rec_ && s.chooseDie h.rec_ == some die with
      | some h => takeHead h
      | none => return ()) s

/-- QUEUE_AGING (R346): a queue whose servable head has waited more than 1 ms sets AGED. -/
def State.ageQueue (s : State) (q : Nat) : State :=
  match s.queueHead q with
  | none => s
  | some h =>
    if !s.servable h.rec_ then s
    else
      match s.queueNotes.find? fun n => n.queue == q with
      | none => s.noteQueue q
      | some n => if 1000000 < s.dtime - n.since then s.updStatus q fun w => Nat.lor w 4 else s

/-- QUEUE_AGING (R346). -/
def execQueueAging (queue : Nat) (s : State) : Host.Outcome State Fault Refusal :=
  event (modify fun s => if s.serving then s.ageQueue queue else s) s

/-! ## Stream eviction (R356) -/

/-- Whether a launch that names a stream entry of a die runs, or waits at a queue with HELD set. -/
def State.streamBusy (s : State) (die t : Nat) : Bool :=
  (s.shares.any fun h => h.die == die && h.stream == t)
    || s.queueHeads.any fun h => bit (s.num (s.queueAddr h.queue + 32) 8) 1 && h.rec_.stream == t

/-- An idle, resident stream entry whose threshold has passed is copied to SAVE (R356). -/
def State.evictStream (s : State) (die t : Nat) : State :=
  let a := s.streamAddr die t
  let w := s.num a 8
  if bit w 63 && bit w 62 && !s.streamBusy die t && decide (1000 * (s.num (a + 16) 8 % 2 ^ 32) ≤ s.dtime - s.num (a + 24) 8) then
    let (pad, n, save) := s.streamPlace die t
    (s.copyBytes save pad n).putWord a (w - 2 ^ 62)
  else s

/-- STREAM_EVICTION (R356): entry `stream` counts the 16,384 entries of each die in turn. -/
def execStreamEviction (stream : Nat) (s : State) : Host.Outcome State Fault Refusal :=
  event (modify fun s =>
    if s.serving && decide (stream / 16384 < 4) && stream % 16384 != 0 then s.evictStream (stream / 16384) (stream % 16384) else s) s

end Sys2Proof.Machine
end

