-- ==== Sys2Proof/Machine/Agents.lean ====
section
/-! DEFINITION. Agents outside the cores: collective rounds, host accesses over CXL.mem, and other devices (R233, R319, R385 to
R391). -/
namespace Sys2Proof.Machine

open Sys2Proof

/-! ## Collective rounds (R233, R391) -/

/-- The element of a type at an index of a row's bytes; the types of XRED are whole bytes. -/
def byteElem (ty : Ty) (row : List Byte) (i : Nat) : Nat := leNat ((row.drop (i * (ty.width / 8))).take (ty.width / 8))

/-- The larger or smaller of two raw elements; a NaN gives the canonical NaN (R233). -/
def xredPick (ty : Ty) (wantMax : Bool) (a b : Nat) : Nat :=
  if elemNan ty a || elemNan ty b then (fpFmt ty).nanBits else (pickElem ty wantMax (a, 0) (b, 0)).1

/-- One step of a collective reduction on raw elements (R233). -/
def xredStep (o : XredOp) (ty : Ty) (a b : Nat) : Nat :=
  match o with
  | .sum =>
    if ty.isFp then (fAdd (fpFmt ty) .rne false ((fpFmt ty).decode a) ((fpFmt ty).decode b)).1 else (a + b) % 2 ^ ty.width
  | .max => xredPick ty true a b
  | .min => xredPick ty false a b

/-- The reduction of one element over the contributions in ascending rank (R233). -/
def xredElem (o : XredOp) (ty : Ty) : List Nat → Nat
  | [] => 0
  | a :: rest =>
    let v := rest.foldl (xredStep o ty) a
    if o != .sum && elemNan ty v then (fpFmt ty).nanBits else v

/-- The reduction of a row over the contributions in ascending rank. -/
def xredRow (o : XredOp) (ty : Ty) (n : Nat) (rows : List (List Byte)) : List Byte :=
  (List.range n).flatMap fun i => leBytes (ty.width / 8) (xredElem o ty (rows.map fun r => byteElem ty r i))

/-- Row r of the contribution of a rank: this device's own, and values from outside for another member, which the model
leaves free. -/
def Round.rowOf (q : Round) (seed rank r len : Nat) : List Byte :=
  match q.parts.find? fun p => p.1 == rank with
  | some p => p.2.getD r []
  | none => (List.range len).map fun i => Config.freeByte seed (rank * 2 ^ 16 + r * len + i)

/-- Whether a copy that names a round waits for it, in a channel, held, or in a queue. -/
def State.awaits (s : State) (q : Round) : Bool :=
  s.cores.any fun k => (k.chans.toList.flatMap Chan.copies ++ k.held ++ k.queue).any fun e => (xredFor q e).isSome

/-- The copy at the head of the channel that a round delivers to, where it runs. -/
def State.xredHead (s : State) (q : Round) : Option (Nat × Nat × XredF × VEntry) :=
  match q.local_ with
  | none => none
  | some (c, ch) =>
    match ((s.core c).chan ch).copies, ((s.core c).chan ch).stopped with
    | e :: _, none => if e.prog.block = 1 then (xredFor q e).map fun f => (c, ch, f, e) else none
    | _, _ => none

/-- Checks the destination of a round and hands the reduced rows to the channel, which delivers them in ascending address order
and counts them in its stream (R233). -/
def xredDeliver (q : Round) (ranks seed ch : Nat) (f : XredF) (e : VEntry) : M Unit := do
  let c ← myNumber
  let x := e.ctx c
  let len := xredRowLen f e
  let dest ← xredDest x f e
  let ps ← dest.zipIdx.mapM fun p =>
    let rows := (List.range ranks).map fun k => q.rowOf seed k p.2 len
    rowParts x c (xredAt e.opa f e p.2) (xredRow f.op f.ty e.nc rows) (fun _ => none) p.1 0
  sendParts c ch (dest.any fun q => q.any fun p => p.q.isGlaze) ps.flatten

/-- A round leaves the collective engine. -/
def State.dropRound (s : State) (q : Round) : State :=
  { s with rounds := s.rounds.filter fun p => !(p.group == q.group && p.round == q.round) }

/-- A round is completed: no later XRED may name it (R391). -/
def State.roundDone (s : State) (q : Round) : State :=
  { s.dropRound q with doneRounds := (q.group, q.round) :: s.doneRounds.filter fun p => p.1 != q.group }

/-- XRED_ROUND_COMPLETE (R233, R391): round `n` in progress completes, where no earlier round of its group is in progress. A
fault of the delivery stops the channel. -/
def completeRound (n : Nat) : M Unit := do
  let s ← get
  match s.rounds[n]? with
  | none => return ()
  | some q =>
    if s.rounds.any fun p => p.group == q.group && decide (p.round < q.round) then return ()
    else
      match s.xredHead q, s.groups.find? fun g => g.id == q.group with
      | some (c, ch, f, e), some g => do
        let seed ← drawSeed
        onCore c (do
          let r ← tryTrap (allOrNothing (xredDeliver q g.members.length seed ch f e))
          match r with
          | .inl t => do
            setCopyProg ch 0 0
            stopChan ch t
          | .inr _ => do
            setCopyProg ch 0 2
            modify fun s => s.roundDone q)
      | _, _ => if s.awaits q then return () else modify fun s => s.roundDone q

/-- XRED_ROUND_COMPLETE (R233). -/
def execXredRoundComplete (round : Nat) (s : State) : Host.Outcome State Fault Refusal := event (completeRound round) s

/-- COLLECTIVE_ROUND_TIMEOUT (R391): round `n` in progress has not completed within its timeout; it fails with fabric-timeout
and delivers nothing. -/
def timeoutRound (n : Nat) : M Unit := do
  let s ← get
  match s.rounds[n]? with
  | none => return ()
  | some q =>
    let limit := ((s.groups.find? fun g => g.id == q.group).map CollGroup.timeoutUs).getD 1 * 1000
    if s.dtime - q.start < limit then return ()
    else
      match s.xredHead q with
      | some (c, ch, _, _) =>
        modify fun s => s.dropRound q
        onCore c (do
          setCopyProg ch 0 0
          stopChan ch (roundTrap q.group q.round))
      | none => if s.awaits q then return () else modify fun s => s.dropRound q

/-- COLLECTIVE_ROUND_TIMEOUT (R391). -/
def execCollectiveRoundTimeout (round : Nat) (s : State) : Host.Outcome State Fault Refusal := event (timeoutRound round) s

/-- Tells the host something. -/
def State.note (s : State) (n : HostNote) : State := { s with notes := s.notes ++ [n] }

/-- COLLECTIVE_GROUP_REGISTER (R391): the group enters the table with this device's rank, its position in the list as the host gives it;
a rank beyond the list says that this device is no member. -/
def State.registerGroup (s : State) (g : CollGroup) : State :=
  if g.id < 4096 ∧ g.members.length ≤ 524288 ∧ 1 ≤ g.timeoutUs ∧ g.timeoutUs ≤ 1000000 then
    { s with groups := g :: s.groups.filter fun q => q.id != g.id }
  else s.note .refused

/-- COLLECTIVE_GROUP_REGISTER (R391). -/
def execCollectiveGroupRegister (g : CollGroup) (s : State) : Host.Outcome State Fault Refusal :=
  event (modify fun s => if s.stage == .running then s.registerGroup g else s.note .refused) s

/-! ## Accesses from outside (R319, R387, R389) -/

/-- The value an AMO of number F writes for the old value, none where nothing is written (R321). -/
def amoByNumber (f n old b c : Nat) : Option Nat :=
  let m := 2 ^ (8 * n)
  let two := fun (g : Nat → Nat → Nat → Nat) => some (g (8 * n) old (b % m) % m)
  match f with
  | 0 => two aluAdd
  | 1 => some (b % m)
  | 2 => two aluAnd
  | 3 => two aluOr
  | 4 => two aluXor
  | 5 => two aluMin
  | 6 => two aluMax
  | 7 => two aluMinu
  | 8 => two aluMaxu
  | 9 => some (amoFadd n old (b % m))
  | 10 => if old = c % m then some (b % m) else none
  | _ => none

/-- Whether an address lies in host memory (R386). -/
def isHost (a : Nat) : Bool := isRemote a && !isFabric a

/-- Whether bytes of an access lie in one line of the interleaved window (R177, R385, R386), or, for the host, of its own memory, which
the device reads too (R387). -/
def State.busRange (s : State) (host : Bool) (a n : Nat) : Bool :=
  n != 0 && decide (a % 64 + n ≤ 64) && (decide (a + n ≤ 8 * s.interI) || (host && isHost a))

/-- A write of an agent outside the cores performs at its home with C := 0; the device's copies of the line are removed
first where the host makes it (R319, R387). A registered barrier line is not written, and the fields that software may not write keep
their values (R2). -/
def State.busWrite (s : State) (host : Bool) (a : Nat) (bs : List Byte) : State :=
  if (s.barrierOn (a / 64)).isSome || !s.writable none a bs.length then s.note .refused
  else (if host then s.uncache (a / 64) else s).performAt none none a (s.keepRo a bs)

/-- Whether an access of an agent outside the cores is served: memory stands once the wipe is over (R392), and the host's own memory at
any time (R387). -/
def State.busServed (s : State) (host : Bool) (a : Nat) : Bool :=
  s.stage == .running || s.stage == .awaitConfig || (host && isHost a)

/-- An access of an agent outside the cores (R319): what it finds is told to it. -/
def State.busAccess (s : State) (host : Bool) (x : BusAccess) : State :=
  if !s.busServed host x.addr then s.note .refused
  else
    match x.op with
    | .load n =>
      if s.busRange host x.addr n && (s.lineError none (x.addr / 64)).isNone then s.note (.found x.agent (s.readAs none x.addr n))
      else s.note .refused
    | .store bs => if s.busRange host x.addr bs.length then s.busWrite host x.addr bs else s.note .refused
    | .amo f n b c =>
      if host || !(n == 4 || n == 8) || x.addr % n != 0 || decide (10 < f) || !s.busRange host x.addr n
          || (s.lineError none (x.addr / 64)).isSome then s.note .refused
      else
        let old := s.readAs none x.addr n
        let s := match amoByNumber f n (leNat old) b.toNat c.toNat with
          | some v => s.busWrite host x.addr (leBytes n v)
          | none => s
        s.note (.found x.agent old)

/-- HOST_CXL_MEM_ACCESS (R319, R385, R387): the host reads or writes the interleaved window, or its own memory; it sends no AMO. -/
def execHostCxlMemAccess (x : BusAccess) (s : State) : Host.Outcome State Fault Refusal :=
  event (modify fun s => s.busAccess true x) s

/-- REMOTE_FABRIC_ACCESS (R319, R386, R389): a device of the domain reads, writes or updates the interleaved window. -/
def execRemoteFabricAccess (x : BusAccess) (s : State) : Host.Outcome State Fault Refusal :=
  event (modify fun s => s.busAccess false x) s

end Sys2Proof.Machine
end

