-- ==== Sys2Proof/Machine/Power.lean ====
section
/-! DEFINITION. Device time, bring-up, reset, firmware, keys, life cycle, power and memory errors (R183, R388, R392 to R397). -/
namespace Sys2Proof.Machine

open Sys2Proof

/-! ## Device time (R388) -/

/-- PTM_EXCHANGE (R388): an exchange finds the host's time. DTIME is set to it at the first lock; from then on it is slewed toward it as
time passes (`State.tick`). -/
def State.ptm (s : State) (host : Nat) : State :=
  if s.everLocked then { s with slew := (host : Int) - s.dtime, lastPtm := s.dtime, locked := true }
  else { s with dtime := host, lastPtm := host, locked := true, everLocked := true }

/-- PTM_EXCHANGE (R388). -/
def execPtmExchange (hostTime : Word) (s : State) : Host.Outcome State Fault Refusal :=
  event (modify fun s => if s.stage == .running then s.ptm hostTime.toNat else s) s

/-- LOSS_OF_LOCK (R388): exchanges have failed for 1 s: DTIME runs free, and the host is told. -/
def State.loseLock (s : State) : State :=
  if s.locked && decide (10 ^ 9 ≤ s.dtime - s.lastPtm) then { s with locked := false, slew := 0 }.note .lossOfLock else s

/-- LOSS_OF_LOCK (R388). -/
def execLossOfLock (s : State) : Host.Outcome State Fault Refusal := event (modify State.loseLock) s

/-! ## Reset and bring-up (R392, R393) -/

/-- The wipe (R393): everything but what lives outside the wiped stores, which are the firmware image, the life-cycle
state, the memory of the host and of other devices, and the model's own fields. -/
def State.wipe (s : State) : State :=
  { State.reset with
    mem := s.mem.filter fun q => isRemote q.1, vague := s.vague.filter fun q => isRemote (64 * q.1),
    firmware := s.firmware, life := s.life, keyGen := s.keyGen, notes := s.notes, cur := s.cur, tape := s.tape,
    freeCtr := s.freeCtr, dCycles := s.dCycles, dNs := s.dNs, eager := s.eager }

/-- Bring-up as far as the wipe (R392 steps 1 to 5): without a verified image the device enters recovery (R394). -/
def State.bringUp (s : State) : State := { s.wipe with stage := if s.firmware.isSome then .awaitConfig else .recovery }

/-- POWER_GOOD (R392). -/
def execPowerGood (s : State) : Host.Outcome State Fault Refusal :=
  event (modify fun s => if s.stage == .off then s.bringUp else s) s

/-- RESET (R393). -/
def execReset (s : State) : Host.Outcome State Fault Refusal :=
  event (modify fun s => if s.stage == .off then s else s.bringUp) s

/-- POWER_OFF (R393): no state of the package survives. -/
def execPowerOff (s : State) : Host.Outcome State Fault Refusal := event (modify fun s => { s.wipe with stage := .off }) s

/-- Whether firmware accepts what the host supplies (R176, R343, R389). -/
def configOk (b : BringUp) : Bool :=
  let z := 2 * 2 ^ 30 * ceilDiv (15 * (b.g / 2 ^ 30)) 112
  b.c % 2 ^ 31 == 0 && b.g % 2 ^ 30 == 0 && decide (b.c + z ≤ 2 ^ 36)
    && b.sbase % 2 ^ 26 == 0 && decide (b.device < 1024)

/-- BRING_UP_CONFIG (R392 step 6): the configuration is fixed, and the device runs. -/
def State.configure (s : State) (b : BringUp) : State :=
  let t := { s with carveC := b.c, sealG := b.g, sbase := b.sbase, devNo := b.device, stage := .running }
  if s.stage == .awaitConfig && configOk b && t.backedRange b.sbase (2 ^ 26) && !isRemote b.sbase then t else s.note .refused

/-- BRING_UP_CONFIG (R392). -/
def execBringUpConfig (cfg : BringUp) (s : State) : Host.Outcome State Fault Refusal := event (modify fun s => s.configure cfg) s

/-- FIRMWARE_IMAGE_LOAD (R394): in recovery, an image that verifies is taken, and the device resets. -/
def State.loadFirmware (s : State) (img : FirmwareImage) : State :=
  if s.stage == .recovery && img.verifies then { s with firmware := some img.image }.bringUp else s.note .refused

/-- FIRMWARE_IMAGE_LOAD (R394). -/
def execFirmwareImageLoad (img : FirmwareImage) (s : State) : Host.Outcome State Fault Refusal :=
  event (modify fun s => s.loadFirmware img) s

/-! ## Keys, life cycle and attestation (R395, R396) -/

/-- SEAL_KEY_LOAD (R395): inside a secured session, in DEPLOYED, a key id takes a new key. -/
def State.loadKey (s : State) (k : SealKey) : State :=
  if s.stage != .off && s.stage != .recovery && s.life == .deployed && k.session && decide (k.id < 64) then
    { s with keys := (k.id, s.keyGen + 1) :: s.keys.filter fun p => p.1 != k.id, keyGen := s.keyGen + 1 }
  else s.note .refused

/-- SEAL_KEY_LOAD (R395). -/
def execSealKeyLoad (k : SealKey) (s : State) : Host.Outcome State Fault Refusal := event (modify fun s => s.loadKey k) s

/-- The state that follows a life-cycle state (R396). -/
def nextLife (l : LifeCycle) : Option LifeCycle :=
  match l with
  | .blank => some .provisioned
  | .provisioned => some .deployed
  | .deployed => some .returned
  | .returned => none

/-- LIFE_CYCLE_TRANSITION (R396): a signed request for the next state moves there and wipes the device. -/
def State.moveLife (s : State) (t : LifeCycleReq) : State :=
  if s.stage != .off && t.signed && nextLife s.life == some t.target then { s with life := t.target }.bringUp else s.note .refused

/-- LIFE_CYCLE_TRANSITION (R396). -/
def execLifeCycleTransition (t : LifeCycleReq) (s : State) : Host.Outcome State Fault Refusal :=
  event (modify fun s => s.moveLife t) s

/-- The place of a life-cycle state in the order of R396. -/
def lifeNumber (l : LifeCycle) : Nat :=
  match l with
  | .blank => 0
  | .provisioned => 1
  | .deployed => 2
  | .returned => 3

/-- ATTESTATION_REQUEST (R395): the device answers with its identity, or with the digests of the firmware and of the life-cycle
state. -/
def State.attest (s : State) (r : AttestReq) : State :=
  if s.stage == .off then s
  else
    match r with
    | .identity => s.note .identity
    | .measurements => s.note (.measurements (Config.firmwareDigest s.firmware) (Config.lifeDigest (lifeNumber s.life)))

/-- ATTESTATION_REQUEST (R395). -/
def execAttestationRequest (r : AttestReq) (s : State) : Host.Outcome State Fault Refusal := event (modify fun s => s.attest r) s

/-! ## Power (R397) -/

/-- POWER_CAP_SET (R397): the host sets a cap from 1,200 W to 2,400 W. -/
def State.setCap (s : State) (watts : Nat) : State :=
  if s.stage ≠ .off ∧ 1200 ≤ watts ∧ watts ≤ 2400 then { s with cap := watts } else s.note .refused

/-- POWER_CAP_SET (R397). -/
def execPowerCapSet (watts : Nat) (s : State) : Host.Outcome State Fault Refusal := event (modify fun s => s.setCap watts) s

/-- Whether a load of a part of so many watts at the full clock is held to an allocation at clock step k (R397): it falls with the
clock. -/
def holdsAt (k watts limit : Nat) : Bool := decide (watts * (20 - k) ≤ limit * 20)

/-- Whether a clock step holds every part of a load to its allocation (R10), and the package to its cap (R397). -/
def loadHeldAt (l : PowerLoad) (cap k : Nat) : Bool :=
  (l.dies.toList.all fun w => holdsAt k w Config.dieWatts) && (l.hbm.toList.all fun w => holdsAt k w Config.stackWatts)
    && holdsAt k l.io Config.ioWatts && holdsAt k l.losses Config.lossWatts
    && holdsAt k (l.dies.toList.sum + l.hbm.toList.sum + l.io + l.losses) cap

/-- The clock step for a load (R397): the first that holds it; step 10 is the last. -/
def clockFor (cap : Nat) (load : PowerLoad) : Nat := ((List.range 10).find? fun k => loadHeldAt load cap k).getD 10

/-- CLOCK_STEP (R397): the clock takes its step, and a change is told to every core. -/
def State.stepClock (s : State) (load : PowerLoad) : State :=
  let k := clockFor s.cap load
  if k = s.clockK then s else { s with clockK := k, cores := s.cores.map fun c => { c with mgmt := true } }

/-- CLOCK_STEP (R397). -/
def execClockStep (load : PowerLoad) (s : State) : Host.Outcome State Fault Refusal :=
  event (modify fun s => if s.stage == .running then s.stepClock load else s) s

/-! ## Errors of HBM4E (R183, R184) -/

/-- DRAM_ERROR (R183, R184): an error in the line of an address is corrected and counted, or stays until its consumer
reads it. The counters stop at all ones. -/
def State.memoryError (s : State) (e : DramErr) : State :=
  let a := e.addr
  if isRemote a || !s.backed a then s
  else if e.uncorrectable then
    { s with badLines := if s.badLines.contains (a / 64) then s.badLines else a / 64 :: s.badLines }.updCrust (stackOf a)
      fun c => { c with uncorrectable := capCount (c.uncorrectable + 1) }
  else s.updCrust (stackOf a) fun c => { c with corrected := capCount (c.corrected + 1) }

/-- DRAM_ERROR (R183). -/
def execDramError (e : DramErr) (s : State) : Host.Outcome State Fault Refusal := event (modify fun s => s.memoryError e) s

end Sys2Proof.Machine
end

