-- ==== Sys2Proof/Machine/Dispatch.lean ====
section
/-! DEFINITION. The dispatcher: one arm for each constructor of Instr. -/
namespace Sys2Proof.Machine

open Sys2Proof

/-- The meaning of an instruction or event, on the core that is executing. -/
def exec (i : Instr) (s : State) : Host.Outcome State Fault Refusal :=
  match i with
  | .nop => Sys2Proof.Machine.execNop s
  | .add x => Sys2Proof.Machine.execAdd x s
  | .sub x => Sys2Proof.Machine.execSub x s
  | .and x => Sys2Proof.Machine.execAnd x s
  | .or x => Sys2Proof.Machine.execOr x s
  | .xor x => Sys2Proof.Machine.execXor x s
  | .shl x => Sys2Proof.Machine.execShl x s
  | .shr x => Sys2Proof.Machine.execShr x s
  | .sra x => Sys2Proof.Machine.execSra x s
  | .mul x => Sys2Proof.Machine.execMul x s
  | .mulh x => Sys2Proof.Machine.execMulh x s
  | .mulhu x => Sys2Proof.Machine.execMulhu x s
  | .div x => Sys2Proof.Machine.execDiv x s
  | .divu x => Sys2Proof.Machine.execDivu x s
  | .rem x => Sys2Proof.Machine.execRem x s
  | .remu x => Sys2Proof.Machine.execRemu x s
  | .min x => Sys2Proof.Machine.execMin x s
  | .max x => Sys2Proof.Machine.execMax x s
  | .minu x => Sys2Proof.Machine.execMinu x s
  | .maxu x => Sys2Proof.Machine.execMaxu x s
  | .slt x => Sys2Proof.Machine.execSlt x s
  | .sltu x => Sys2Proof.Machine.execSltu x s
  | .seq x => Sys2Proof.Machine.execSeq x s
  | .clz x => Sys2Proof.Machine.execClz x s
  | .ctz x => Sys2Proof.Machine.execCtz x s
  | .popc x => Sys2Proof.Machine.execPopc x s
  | .addi x => Sys2Proof.Machine.execAddi x s
  | .andi x => Sys2Proof.Machine.execAndi x s
  | .ori x => Sys2Proof.Machine.execOri x s
  | .xori x => Sys2Proof.Machine.execXori x s
  | .shli x => Sys2Proof.Machine.execShli x s
  | .shri x => Sys2Proof.Machine.execShri x s
  | .srai x => Sys2Proof.Machine.execSrai x s
  | .slti x => Sys2Proof.Machine.execSlti x s
  | .sltui x => Sys2Proof.Machine.execSltui x s
  | .li x => Sys2Proof.Machine.execLi x s
  | .lih x => Sys2Proof.Machine.execLih x s
  | .fadd x => Sys2Proof.Machine.execFadd x s
  | .fsub x => Sys2Proof.Machine.execFsub x s
  | .fmul x => Sys2Proof.Machine.execFmul x s
  | .fdiv x => Sys2Proof.Machine.execFdiv x s
  | .fsqrt x => Sys2Proof.Machine.execFsqrt x s
  | .fmin x => Sys2Proof.Machine.execFmin x s
  | .fmax x => Sys2Proof.Machine.execFmax x s
  | .feq x => Sys2Proof.Machine.execFeq x s
  | .flt x => Sys2Proof.Machine.execFlt x s
  | .fle x => Sys2Proof.Machine.execFle x s
  | .fcvtif x => Sys2Proof.Machine.execFcvtif x s
  | .fcvtfi x => Sys2Proof.Machine.execFcvtfi x s
  | .fclass x => Sys2Proof.Machine.execFclass x s
  | .ffma x => Sys2Proof.Machine.execFfma x s
  | .ffms x => Sys2Proof.Machine.execFfms x s
  | .fnfma x => Sys2Proof.Machine.execFnfma x s
  | .beq x => Sys2Proof.Machine.execBeq x s
  | .bne x => Sys2Proof.Machine.execBne x s
  | .blt x => Sys2Proof.Machine.execBlt x s
  | .bge x => Sys2Proof.Machine.execBge x s
  | .bltu x => Sys2Proof.Machine.execBltu x s
  | .bgeu x => Sys2Proof.Machine.execBgeu x s
  | .jal x => Sys2Proof.Machine.execJal x s
  | .jalr x => Sys2Proof.Machine.execJalr x s
  | .lb x => Sys2Proof.Machine.execLb x s
  | .lbu x => Sys2Proof.Machine.execLbu x s
  | .lh x => Sys2Proof.Machine.execLh x s
  | .lhu x => Sys2Proof.Machine.execLhu x s
  | .lw x => Sys2Proof.Machine.execLw x s
  | .lwu x => Sys2Proof.Machine.execLwu x s
  | .ld x => Sys2Proof.Machine.execLd x s
  | .sb x => Sys2Proof.Machine.execSb x s
  | .sh x => Sys2Proof.Machine.execSh x s
  | .sw x => Sys2Proof.Machine.execSw x s
  | .sd x => Sys2Proof.Machine.execSd x s
  | .amoadd x => Sys2Proof.Machine.execAmoadd x s
  | .amoswap x => Sys2Proof.Machine.execAmoswap x s
  | .amoand x => Sys2Proof.Machine.execAmoand x s
  | .amoor x => Sys2Proof.Machine.execAmoor x s
  | .amoxor x => Sys2Proof.Machine.execAmoxor x s
  | .amomin x => Sys2Proof.Machine.execAmomin x s
  | .amomax x => Sys2Proof.Machine.execAmomax x s
  | .amominu x => Sys2Proof.Machine.execAmominu x s
  | .amomaxu x => Sys2Proof.Machine.execAmomaxu x s
  | .amofadd x => Sys2Proof.Machine.execAmofadd x s
  | .amocas x => Sys2Proof.Machine.execAmocas x s
  | .ldaW x => Sys2Proof.Machine.execLdaW x s
  | .ldaD x => Sys2Proof.Machine.execLdaD x s
  | .stlW x => Sys2Proof.Machine.execStlW x s
  | .stlD x => Sys2Proof.Machine.execStlD x s
  | .fence x => Sys2Proof.Machine.execFence x s
  | .fenceSv => Sys2Proof.Machine.execFenceSv s
  | .fenceVs => Sys2Proof.Machine.execFenceVs s
  | .cflush x => Sys2Proof.Machine.execCflush x s
  | .cinv x => Sys2Proof.Machine.execCinv x s
  | .cpref x => Sys2Proof.Machine.execCpref x s
  | .cdrop x => Sys2Proof.Machine.execCdrop x s
  | .waitne x => Sys2Proof.Machine.execWaitne x s
  | .waiteq x => Sys2Proof.Machine.execWaiteq x s
  | .waitaReread core => Sys2Proof.Machine.execWaitaReread core s
  | .waitaTimeout core => Sys2Proof.Machine.execWaitaTimeout core s
  | .csrr x => Sys2Proof.Machine.execCsrr x s
  | .csrw x => Sys2Proof.Machine.execCsrw x s
  | .csrs x => Sys2Proof.Machine.execCsrs x s
  | .csrc x => Sys2Proof.Machine.execCsrc x s
  | .cpwpWrite x => Sys2Proof.Machine.execCpwpWrite x s
  | .trap x => Sys2Proof.Machine.execTrap x s
  | .eret => Sys2Proof.Machine.execEret s
  | .resume x => Sys2Proof.Machine.execResume x s
  | .tlbinvAddress x => Sys2Proof.Machine.execTlbinvAddress x s
  | .tlbinvAsid x => Sys2Proof.Machine.execTlbinvAsid x s
  | .tlbinvAll x => Sys2Proof.Machine.execTlbinvAll x s
  | .wfi => Sys2Proof.Machine.execWfi s
  | .ctxsave x => Sys2Proof.Machine.execCtxsave x s
  | .ctxrest x => Sys2Proof.Machine.execCtxrest x s
  | .vqsave x => Sys2Proof.Machine.execVqsave x s
  | .vqrest x => Sys2Proof.Machine.execVqrest x s
  | .spawn x => Sys2Proof.Machine.execSpawn x s
  | .spawng x => Sys2Proof.Machine.execSpawng x s
  | .spawnl x => Sys2Proof.Machine.execSpawnl x s
  | .join x => Sys2Proof.Machine.execJoin x s
  | .joinPushRetry core => Sys2Proof.Machine.execJoinPushRetry core s
  | .yield x => Sys2Proof.Machine.execYield x s
  | .endTask => Sys2Proof.Machine.execEndTask s
  | .lvcancel x => Sys2Proof.Machine.execLvcancel x s
  | .lvquery x => Sys2Proof.Machine.execLvquery x s
  | .barinit x => Sys2Proof.Machine.execBarinit x s
  | .barinitUnregister x => Sys2Proof.Machine.execBarinitUnregister x s
  | .bararr x => Sys2Proof.Machine.execBararr x s
  | .barwait x => Sys2Proof.Machine.execBarwait x s
  | .barkill x => Sys2Proof.Machine.execBarkill x s
  | .post x => Sys2Proof.Machine.execPost x s
  | .postArrival die n => Sys2Proof.Machine.execPostArrival die n s
  | .waiti x => Sys2Proof.Machine.execWaiti x s
  | .setlen x => Sys2Proof.Machine.execSetlen x s
  | .vshape x => Sys2Proof.Machine.execVshape x s
  | .vmovx x => Sys2Proof.Machine.execVmovx x s
  | .vmovv x => Sys2Proof.Machine.execVmovv x s
  | .setlenf x => Sys2Proof.Machine.execSetlenf x s
  | .kand x => Sys2Proof.Machine.execKand x s
  | .kor x => Sys2Proof.Machine.execKor x s
  | .kxor x => Sys2Proof.Machine.execKxor x s
  | .kandn x => Sys2Proof.Machine.execKandn x s
  | .knot x => Sys2Proof.Machine.execKnot x s
  | .kpop x => Sys2Proof.Machine.execKpop x s
  | .kfirst x => Sys2Proof.Machine.execKfirst x s
  | .kset x => Sys2Proof.Machine.execKset x s
  | .vadd x => Sys2Proof.Machine.execVadd x s
  | .vsub x => Sys2Proof.Machine.execVsub x s
  | .vmul x => Sys2Proof.Machine.execVmul x s
  | .vmulh x => Sys2Proof.Machine.execVmulh x s
  | .vand x => Sys2Proof.Machine.execVand x s
  | .vor x => Sys2Proof.Machine.execVor x s
  | .vxor x => Sys2Proof.Machine.execVxor x s
  | .vshl x => Sys2Proof.Machine.execVshl x s
  | .vshr x => Sys2Proof.Machine.execVshr x s
  | .vsra x => Sys2Proof.Machine.execVsra x s
  | .vmin x => Sys2Proof.Machine.execVmin x s
  | .vmax x => Sys2Proof.Machine.execVmax x s
  | .vabs x => Sys2Proof.Machine.execVabs x s
  | .vneg x => Sys2Proof.Machine.execVneg x s
  | .vcmpeq x => Sys2Proof.Machine.execVcmpeq x s
  | .vcmplt x => Sys2Proof.Machine.execVcmplt x s
  | .vcmple x => Sys2Proof.Machine.execVcmple x s
  | .vsel x => Sys2Proof.Machine.execVsel x s
  | .viota x => Sys2Proof.Machine.execViota x s
  | .vaddScalar x => Sys2Proof.Machine.execVaddScalar x s
  | .vsubScalar x => Sys2Proof.Machine.execVsubScalar x s
  | .vmulScalar x => Sys2Proof.Machine.execVmulScalar x s
  | .vmulhScalar x => Sys2Proof.Machine.execVmulhScalar x s
  | .vandScalar x => Sys2Proof.Machine.execVandScalar x s
  | .vorScalar x => Sys2Proof.Machine.execVorScalar x s
  | .vxorScalar x => Sys2Proof.Machine.execVxorScalar x s
  | .vshlScalar x => Sys2Proof.Machine.execVshlScalar x s
  | .vshrScalar x => Sys2Proof.Machine.execVshrScalar x s
  | .vsraScalar x => Sys2Proof.Machine.execVsraScalar x s
  | .vminScalar x => Sys2Proof.Machine.execVminScalar x s
  | .vmaxScalar x => Sys2Proof.Machine.execVmaxScalar x s
  | .vabsScalar x => Sys2Proof.Machine.execVabsScalar x s
  | .vnegScalar x => Sys2Proof.Machine.execVnegScalar x s
  | .vcmpeqScalar x => Sys2Proof.Machine.execVcmpeqScalar x s
  | .vcmpltScalar x => Sys2Proof.Machine.execVcmpltScalar x s
  | .vcmpleScalar x => Sys2Proof.Machine.execVcmpleScalar x s
  | .vselScalar x => Sys2Proof.Machine.execVselScalar x s
  | .viotaScalar x => Sys2Proof.Machine.execViotaScalar x s
  | .vfadd x => Sys2Proof.Machine.execVfadd x s
  | .vfsub x => Sys2Proof.Machine.execVfsub x s
  | .vfmul x => Sys2Proof.Machine.execVfmul x s
  | .vfdiv x => Sys2Proof.Machine.execVfdiv x s
  | .vfsqrt x => Sys2Proof.Machine.execVfsqrt x s
  | .vfmin x => Sys2Proof.Machine.execVfmin x s
  | .vfmax x => Sys2Proof.Machine.execVfmax x s
  | .vfabs x => Sys2Proof.Machine.execVfabs x s
  | .vfneg x => Sys2Proof.Machine.execVfneg x s
  | .vfcmpeq x => Sys2Proof.Machine.execVfcmpeq x s
  | .vfcmplt x => Sys2Proof.Machine.execVfcmplt x s
  | .vfcmple x => Sys2Proof.Machine.execVfcmple x s
  | .vfrcp x => Sys2Proof.Machine.execVfrcp x s
  | .vfrsq x => Sys2Proof.Machine.execVfrsq x s
  | .vfexp2 x => Sys2Proof.Machine.execVfexp2 x s
  | .vflog2 x => Sys2Proof.Machine.execVflog2 x s
  | .vfaddScalar x => Sys2Proof.Machine.execVfaddScalar x s
  | .vfsubScalar x => Sys2Proof.Machine.execVfsubScalar x s
  | .vfmulScalar x => Sys2Proof.Machine.execVfmulScalar x s
  | .vfdivScalar x => Sys2Proof.Machine.execVfdivScalar x s
  | .vfsqrtScalar x => Sys2Proof.Machine.execVfsqrtScalar x s
  | .vfminScalar x => Sys2Proof.Machine.execVfminScalar x s
  | .vfmaxScalar x => Sys2Proof.Machine.execVfmaxScalar x s
  | .vfabsScalar x => Sys2Proof.Machine.execVfabsScalar x s
  | .vfnegScalar x => Sys2Proof.Machine.execVfnegScalar x s
  | .vfcmpeqScalar x => Sys2Proof.Machine.execVfcmpeqScalar x s
  | .vfcmpltScalar x => Sys2Proof.Machine.execVfcmpltScalar x s
  | .vfcmpleScalar x => Sys2Proof.Machine.execVfcmpleScalar x s
  | .vfrcpScalar x => Sys2Proof.Machine.execVfrcpScalar x s
  | .vfrsqScalar x => Sys2Proof.Machine.execVfrsqScalar x s
  | .vfexp2Scalar x => Sys2Proof.Machine.execVfexp2Scalar x s
  | .vflog2Scalar x => Sys2Proof.Machine.execVflog2Scalar x s
  | .vfma x => Sys2Proof.Machine.execVfma x s
  | .vfms x => Sys2Proof.Machine.execVfms x s
  | .vfnma x => Sys2Proof.Machine.execVfnma x s
  | .vcvt x => Sys2Proof.Machine.execVcvt x s
  | .vcvtd x => Sys2Proof.Machine.execVcvtd x s
  | .vqpack x => Sys2Proof.Machine.execVqpack x s
  | .vbacc x => Sys2Proof.Machine.execVbacc x s
  | .vbnorm x => Sys2Proof.Machine.execVbnorm x s
  | .vscale x => Sys2Proof.Machine.execVscale x s
  | .vredsum x => Sys2Proof.Machine.execVredsum x s
  | .vredmax x => Sys2Proof.Machine.execVredmax x s
  | .vredmin x => Sys2Proof.Machine.execVredmin x s
  | .vargmax x => Sys2Proof.Machine.execVargmax x s
  | .vargmin x => Sys2Proof.Machine.execVargmin x s
  | .vredand x => Sys2Proof.Machine.execVredand x s
  | .vredor x => Sys2Proof.Machine.execVredor x s
  | .vcompress x => Sys2Proof.Machine.execVcompress x s
  | .vexpand x => Sys2Proof.Machine.execVexpand x s
  | .vslideup x => Sys2Proof.Machine.execVslideup x s
  | .vslidedn x => Sys2Proof.Machine.execVslidedn x s
  | .vtrans x => Sys2Proof.Machine.execVtrans x s
  | .vpermc x => Sys2Proof.Machine.execVpermc x s
  | .vbcast x => Sys2Proof.Machine.execVbcast x s
  | .vsincos x => Sys2Proof.Machine.execVsincos x s
  | .vgumbel x => Sys2Proof.Machine.execVgumbel x s
  | .vhash x => Sys2Proof.Machine.execVhash x s
  | .vld x => Sys2Proof.Machine.execVld x s
  | .vldf x => Sys2Proof.Machine.execVldf x s
  | .vldb x => Sys2Proof.Machine.execVldb x s
  | .vlds x => Sys2Proof.Machine.execVlds x s
  | .vldl x => Sys2Proof.Machine.execVldl x s
  | .vst x => Sys2Proof.Machine.execVst x s
  | .vstb x => Sys2Proof.Machine.execVstb x s
  | .vsts x => Sys2Proof.Machine.execVsts x s
  | .vstl x => Sys2Proof.Machine.execVstl x s
  | .vgather x => Sys2Proof.Machine.execVgather x s
  | .vscatter x => Sys2Proof.Machine.execVscatter x s
  | .vgatherc x => Sys2Proof.Machine.execVgatherc x s
  | .vscatterc x => Sys2Proof.Machine.execVscatterc x s
  | .vamoadd x => Sys2Proof.Machine.execVamoadd x s
  | .vamofadd x => Sys2Proof.Machine.execVamofadd x s
  | .vamomin x => Sys2Proof.Machine.execVamomin x s
  | .vamomax x => Sys2Proof.Machine.execVamomax x s
  | .awin x => Sys2Proof.Machine.execAwin x s
  | .aadd x => Sys2Proof.Machine.execAadd x s
  | .amerge x => Sys2Proof.Machine.execAmerge x s
  | .aclr x => Sys2Proof.Machine.execAclr x s
  | .cpy x => Sys2Proof.Machine.execCpy x s
  | .cpym x => Sys2Proof.Machine.execCpym x s
  | .cpykv x => Sys2Proof.Machine.execCpykv x s
  | .xred x => Sys2Proof.Machine.execXred x s
  | .cpwait x => Sys2Proof.Machine.execCpwait x s
  | .copyIssue core => Sys2Proof.Machine.execCopyIssue core s
  | .copyRowDelivery core ch => Sys2Proof.Machine.execCopyRowDelivery core ch s
  | .xredRoundComplete round => Sys2Proof.Machine.execXredRoundComplete round s
  | .matt x => Sys2Proof.Machine.execMatt x s
  | .mdet x => Sys2Proof.Machine.execMdet x s
  | .mclaim x => Sys2Proof.Machine.execMclaim x s
  | .mrel x => Sys2Proof.Machine.execMrel x s
  | .mzero x => Sys2Proof.Machine.execMzero x s
  | .mstat x => Sys2Proof.Machine.execMstat x s
  | .mld x => Sys2Proof.Machine.execMld x s
  | .mldf x => Sys2Proof.Machine.execMldf x s
  | .mldt x => Sys2Proof.Machine.execMldt x s
  | .mslotw x => Sys2Proof.Machine.execMslotw x s
  | .mslotr x => Sys2Proof.Machine.execMslotr x s
  | .mma x => Sys2Proof.Machine.execMma x s
  | .mmaz x => Sys2Proof.Machine.execMmaz x s
  | .mman x => Sys2Proof.Machine.execMman x s
  | .mdrain x => Sys2Proof.Machine.execMdrain x s
  | .maccst x => Sys2Proof.Machine.execMaccst x s
  | .maccld x => Sys2Proof.Machine.execMaccld x s
  | .gspec x => Sys2Proof.Machine.execGspec x s
  | .gcommit x => Sys2Proof.Machine.execGcommit x s
  | .gdiscard x => Sys2Proof.Machine.execGdiscard x s
  | .gflatten x => Sys2Proof.Machine.execGflatten x s
  | .gpoolDonate x => Sys2Proof.Machine.execGpoolDonate x s
  | .gpoolDrop x => Sys2Proof.Machine.execGpoolDrop x s
  | .gpoolQuery x => Sys2Proof.Machine.execGpoolQuery x s
  | .gquery x => Sys2Proof.Machine.execGquery x s
  | .verst x => Sys2Proof.Machine.execVerst x s
  | .verld x => Sys2Proof.Machine.execVerld x s
  | .verldn x => Sys2Proof.Machine.execVerldn x s
  | .vfloor x => Sys2Proof.Machine.execVfloor x s
  | .vseal x => Sys2Proof.Machine.execVseal x s
  | .verq x => Sys2Proof.Machine.execVerq x s
  | .versionReclaim region head base => Sys2Proof.Machine.execVersionReclaim region head base s
  | .vverst x => Sys2Proof.Machine.execVverst x s
  | .vverld x => Sys2Proof.Machine.execVverld x s
  | .kvapp x => Sys2Proof.Machine.execKvapp x s
  | .kvldk x => Sys2Proof.Machine.execKvldk x s
  | .kvldv x => Sys2Proof.Machine.execKvldv x s
  | .kvmove x => Sys2Proof.Machine.execKvmove x s
  | .kvlenRead x => Sys2Proof.Machine.execKvlenRead x s
  | .kvlenSet x => Sys2Proof.Machine.execKvlenSet x s
  | .kvinvSequence x => Sys2Proof.Machine.execKvinvSequence x s
  | .kvinvAll x => Sys2Proof.Machine.execKvinvAll x s
  | .nadd x => Sys2Proof.Machine.execNadd x s
  | .nfence x => Sys2Proof.Machine.execNfence x s
  | .nrowcpy x => Sys2Proof.Machine.execNrowcpy x s
  | .nzero x => Sys2Proof.Machine.execNzero x s
  | .ngather x => Sys2Proof.Machine.execNgather x s
  | .nopt x => Sys2Proof.Machine.execNopt x s
  | .nstatRead x => Sys2Proof.Machine.execNstatRead x s
  | .nstatPatternWrite x => Sys2Proof.Machine.execNstatPatternWrite x s
  | .crustItem stack => Sys2Proof.Machine.execCrustItem stack s
  | .commit core => Sys2Proof.Machine.execCommit core s
  | .perform n => Sys2Proof.Machine.execPerform n s
  | .apply die n => Sys2Proof.Machine.execApply die n s
  | .readAtDie core => Sys2Proof.Machine.execReadAtDie core s
  | .readAtHome core => Sys2Proof.Machine.execReadAtHome core s
  | .installFill n => Sys2Proof.Machine.execInstallFill n s
  | .trapEntry core => Sys2Proof.Machine.execTrapEntry core s
  | .preEmptionRequest core reclaim => Sys2Proof.Machine.execPreEmptionRequest core reclaim s
  | .managementMessage core => Sys2Proof.Machine.execManagementMessage core s
  | .budgetExceeded core => Sys2Proof.Machine.execBudgetExceeded core s
  | .hostQueueServe => Sys2Proof.Machine.execHostQueueServe s
  | .queueAging queue => Sys2Proof.Machine.execQueueAging queue s
  | .shareGrant die => Sys2Proof.Machine.execShareGrant die s
  | .streamEviction stream => Sys2Proof.Machine.execStreamEviction stream s
  | .taskStart core => Sys2Proof.Machine.execTaskStart core s
  | .fabricAccessTimeout n => Sys2Proof.Machine.execFabricAccessTimeout n s
  | .collectiveRoundTimeout round => Sys2Proof.Machine.execCollectiveRoundTimeout round s
  | .collectiveGroupRegister g => Sys2Proof.Machine.execCollectiveGroupRegister g s
  | .hostCxlMemAccess x => Sys2Proof.Machine.execHostCxlMemAccess x s
  | .ptmExchange hostTime => Sys2Proof.Machine.execPtmExchange hostTime s
  | .lossOfLock => Sys2Proof.Machine.execLossOfLock s
  | .powerGood => Sys2Proof.Machine.execPowerGood s
  | .bringUpConfig cfg => Sys2Proof.Machine.execBringUpConfig cfg s
  | .reset => Sys2Proof.Machine.execReset s
  | .firmwareImageLoad img => Sys2Proof.Machine.execFirmwareImageLoad img s
  | .sealKeyLoad k => Sys2Proof.Machine.execSealKeyLoad k s
  | .lifeCycleTransition t => Sys2Proof.Machine.execLifeCycleTransition t s
  | .powerCapSet watts => Sys2Proof.Machine.execPowerCapSet watts s
  | .clockStep load => Sys2Proof.Machine.execClockStep load s
  | .dramError e => Sys2Proof.Machine.execDramError e s
  | .powerOff => Sys2Proof.Machine.execPowerOff s
  | .remoteFabricAccess x => Sys2Proof.Machine.execRemoteFabricAccess x s
  | .attestationRequest r => Sys2Proof.Machine.execAttestationRequest r s

end Sys2Proof.Machine
end

