-- ==== Sys2Proof/Machine/Step.lean ====
section
/-! DEFINITION. One step of the device, and the placing of an instruction where the next step fetches it. -/
namespace Sys2Proof.Machine

open Sys2Proof

/-- The scalar unit of the current core takes its turn, and runs the instruction that it comes to. -/
noncomputable def scalarStep (s : State) : Host.Outcome State Fault Refusal :=
  match s.takeTurn with
  | (some i, s') => exec i s'
  | (none, s') => .next s'

/-- One step: time passes, and the agent that the tape names moves, or the scalar unit of the current core where the tape
is at its end. -/
noncomputable def step (s : State) : Host.Outcome State Fault Refusal :=
  let t := { s.tick with tape := s.tape.drop 1 }
  match s.move with
  | .scalar c => if c < Config.coreCount then scalarStep { t with cur := c } else .fault .noSuchCore
  | .vector c => if c < Config.coreCount then event (vectorMove c) t else .fault .noSuchCore
  | .rows c n => if c < Config.coreCount then event (vectorRows c n) t else .fault .noSuchCore
  | .ahead c i n => if c < Config.coreCount then event (aheadMove c i n) t else .fault .noSuchCore
  | .page c => if c < Config.coreCount then event (pageMove c) t else .fault .noSuchCore
  | .writeBack l => .next (t.writeBack l)
  | .badCounter l => .next (t.failCounter l)
  | .event i => exec i t

/-- The state with an instruction stored where the next step fetches it (log entry 5). -/
def State.withFetchWord (s : State) (nbits w : Nat) : State := s.placeWord nbits w

end Sys2Proof.Machine
end

