-- ==== Sys2Proof/Safety.lean ====
section
/-! DEFINITION. The terms that claims are stated in: runs, the sizes of the device's tables, when a core takes an instruction,
and what it leaves. -/
namespace Sys2Proof.Machine

open Sys2Proof

/-! ## Runs -/

/-- A run leads from one state to another. -/
inductive Reaches : State → State → Prop where
  | refl (s : State) : Reaches s s
  | tail (s t u : State) : Reaches s t → step t = .next u → Reaches s u

/-- A state is safe: every state that a run leads to from it has a next state. -/
def Safe (s : State) : Prop := ∀ t, Reaches s t → ∃ u, step t = .next u

/-- The tables of the device have their sizes (R5), and the current core is one of its cores. -/
structure State.Sized (s : State) : Prop where
  cores : s.cores.length = 160
  dies : s.dies.length = 4
  mxes : s.mxes.length = 40
  crusts : s.crusts.length = 8
  cur : s.cur < 160

/-! ## Instructions -/

/-- The scalar stream of the executing core goes on with the next instruction (R15). -/
def State.goesOn (s : State) : State := s.updMe fun k => k.advance.1

/-- Register d takes a value, and the scalar stream goes on. -/
def State.wrote (s : State) (d : Reg) (v : Word) : State := (s.updMe fun k => k.setX d v).goesOn

/-- Register d takes a value, FLAGS takes flags, and the scalar stream goes on. -/
def State.wroteFp (s : State) (d : Reg) (r : Nat × FlagSet) : State :=
  (s.updMe fun k => { k.setX d (word r.1) with flags := k.flags ||| r.2 }).goesOn

/-- The scalar stream goes on at an address, in a line that was entered. -/
def State.wentTo (s : State) (ia : Word) (l : Line) : State := s.updMe fun k => k.goAt ia (some l)

/-- The executing core takes an instruction that names the registers `rs`: none of them waits for a queue entry (R246), and
the next instruction address is well formed (R15). -/
structure Ready (s : State) (rs : List Reg) : Prop where
  cur : s.cur < s.cores.length
  free : s.me.pending rs = false
  next : wellFormedIa s.me.nextIa = true

/-- The executing core takes a vector-class instruction and runs it at once: its vector queue and its channels are empty, no
store before a FENCE.SV waits to perform, no crust command that acquires waits for its reads, and the vector unit runs as soon as it can
(R244, R245, R310, R315). -/
structure Accepting (s : State) : Prop where
  cur : s.cur < s.cores.length
  next : wellFormedIa s.me.nextIa = true
  eager : s.eager = true
  queue : s.me.queue = []
  channels : s.me.issued = 0
  fence : s.me.svWaits = false
  acquired : s.crustHas s.cur Item.acq = false

/-- The state in which a dispatched entry stands in the queue (R244). -/
def State.dispatched (s : State) (op : VecOp) (rm : Rm) (a b c d : Option Reg) : State :=
  s.updMe fun k => k.enqueue op rm a b c d

/-- The entry that the executing core dispatches (R244). -/
def State.entry (s : State) (op : VecOp) (rm : Rm) (a b c d : Option Reg) : VEntry := s.me.newEntry op rm a b c d

/-- The state that a vector-class instruction leaves: its entry was dispatched, had its effect, and left the queue, and the
scalar stream goes on. -/
def State.vectorDone (s : State) (op : VecOp) (rm : Rm) (a b c d : Option Reg) (eff : State → State) : State :=
  ((eff (s.dispatched op rm a b c d)).updMe fun k => k.complete (s.entry op rm a b c d)).goesOn

/-- The state that a vector-class instruction leaves whose effect is on its core. -/
def State.coreDone (s : State) (op : VecOp) (rm : Rm) (a b c d : Option Reg) (eff : VEntry → Core → Core) : State :=
  s.vectorDone op rm a b c d fun t => t.updMe (eff (s.entry op rm a b c d))

/-- The state in which the head of the executing core's queue has run this far (R370). -/
def State.progressed (s : State) (row col block : Nat) : State := s.updMe fun k =>
  match k.queue with
  | [] => k
  | e :: r => { k with queue := { e with prog := { row := row, col := col, block := block } } :: r }

/-- How a computation ends, and the state it leaves. -/
def runM (m : M α) (s : State) : Except Halt α × State := m.run.run s

/-- A computation reaches its end in a state. -/
def Ends (m : M Unit) (s t : State) : Prop := runM m s = (.ok (), t)

/-- A computation answers a value and leaves a state. -/
def Answers (m : M α) (s : State) (a : α) (t : State) : Prop := runM m s = (.ok a, t)

/-- A computation ends in a trap and leaves a state. -/
def Traps (m : M α) (s : State) (r : Trap) (t : State) : Prop := runM m s = (.error (.trap r), t)

/-- Nothing that the manual calls memory differs between two states. -/
def SameMemory (s t : State) : Prop := ∀ a, t.byte a = s.byte a

/-- Memory differs at most in n bytes from a location on. -/
def SameMemoryBut (s t : State) (loc n : Nat) : Prop := ∀ a, (a < loc ∨ loc + n ≤ a) → t.byte a = s.byte a

end Sys2Proof.Machine
end

