-- ==== Sys2Proof/Certificates/Slice0/Obligations.lean ====
section
/-! DEFINITION. The statements for the provers. `Spec` holds what they share: relations written from the manual's own words, and
the parts of statements of several parts. `State.wrote`, `Ready` and the like stand in Sys2Proof/Safety.lean. -/

section Statements

open Sys2Proof Sys2Proof.Machine

/-! ## Scalar arithmetic (R249 to R253) -/

/-- An operation of the ALU family at both widths: 32-bit results are sign-extended (R249). -/
def Spec.alu (w32 : Bool) (f : (n : Nat) → BitVec n → BitVec n → BitVec n) (a b : Word) : Word :=
  if w32 then (f 32 (a.setWidth 32) (b.setWidth 32)).signExtend 64 else f 64 a b

/-- The signed quotient of the ALU family, saturating at its edges (R249). -/
def Spec.div (n : Nat) (a b : BitVec n) : BitVec n :=
  if b = 0 then (if a = 0 then 0 else if 0 < a.toInt then BitVec.intMax n else BitVec.intMin n)
  else if a = BitVec.intMin n ∧ b = BitVec.allOnes n then BitVec.intMax n
  else BitVec.ofInt n (a.toInt.tdiv b.toInt)

/-- The unsigned quotient of the ALU family (R249). -/
def Spec.divu (n : Nat) (a b : BitVec n) : BitVec n :=
  if b = 0 then (if a = 0 then 0 else BitVec.allOnes n) else BitVec.ofNat n (a.toNat / b.toNat)

/-- The remainder with the sign of a (R249). -/
def Spec.rem (n : Nat) (a b : BitVec n) : BitVec n := if b = 0 then 0 else BitVec.ofInt n (a.toInt.tmod b.toInt)

/-- The unsigned remainder (R249). -/
def Spec.remu (n : Nat) (a b : BitVec n) : BitVec n := if b = 0 then 0 else BitVec.ofNat n (a.toNat % b.toNat)

/-- 1 or 0. -/
def Spec.truth (n : Nat) (b : Bool) : BitVec n := if b then 1#n else 0#n

/-- c is the number of zero bits above the highest set bit of an n-bit value; n for zero (R249). -/
def Spec.LeadingZeros (n : Nat) (a : BitVec n) (c : Nat) : Prop :=
  c ≤ n ∧ (∀ i, n - c ≤ i → a.getLsbD i = false) ∧ (c < n → a.getLsbD (n - 1 - c) = true)

/-- c is the number of zero bits below the lowest set bit of an n-bit value; n for zero (R249). -/
def Spec.TrailingZeros (n : Nat) (a : BitVec n) (c : Nat) : Prop :=
  c ≤ n ∧ (∀ i, i < c → a.getLsbD i = false) ∧ (c < n → a.getLsbD c = true)

/-- The value of width n that a width flag selects. -/
def Spec.low (w32 : Bool) (a : Word) : (n : Nat) × BitVec n := if w32 then ⟨32, a.setWidth 32⟩ else ⟨64, a⟩

/-- ALU and R249: each instruction of two operands writes its result, at 32 and at 64 bits, and changes nothing else but where the
stream stands. x0 discards the result. -/
def Spec.AluResults : Prop :=
  ∀ (s : State) (x : AluF), Ready s [x.d, x.a, x.b] →
    let is := fun (i : Instr) (f : (n : Nat) → BitVec n → BitVec n → BitVec n) =>
      exec i s = .next (s.wrote x.d (Spec.alu x.w32 f (s.me.x x.a) (s.me.x x.b)))
    is (.add x) (fun _ a b => a + b) ∧ is (.sub x) (fun _ a b => a - b) ∧ is (.and x) (fun _ a b => a &&& b) ∧
    is (.or x) (fun _ a b => a ||| b) ∧ is (.xor x) (fun _ a b => a ^^^ b) ∧
    is (.shl x) (fun n a b => a <<< (b.toNat % n)) ∧ is (.shr x) (fun n a b => a >>> (b.toNat % n)) ∧
    is (.sra x) (fun n a b => a.sshiftRight (b.toNat % n)) ∧ is (.mul x) (fun _ a b => a * b) ∧
    is (.mulh x) (fun n a b => BitVec.ofInt n (a.toInt * b.toInt / 2 ^ n)) ∧
    is (.mulhu x) (fun n a b => BitVec.ofNat n (a.toNat * b.toNat / 2 ^ n)) ∧ is (.div x) Spec.div ∧
    is (.divu x) Spec.divu ∧ is (.rem x) Spec.rem ∧ is (.remu x) Spec.remu ∧
    is (.min x) (fun _ a b => if a.sle b then a else b) ∧ is (.max x) (fun _ a b => if a.sle b then b else a) ∧
    is (.minu x) (fun _ a b => if a.ule b then a else b) ∧ is (.maxu x) (fun _ a b => if a.ule b then b else a) ∧
    is (.slt x) (fun n a b => Spec.truth n (a.slt b)) ∧ is (.sltu x) (fun n a b => Spec.truth n (a.ult b)) ∧
    is (.seq x) (fun n a b => Spec.truth n (a == b))

/-- ALU and R249: CLZ, CTZ and POPC count bits of the width that K selects. -/
def Spec.AluCounts : Prop :=
  ∀ (s : State) (x : AluUF), Ready s [x.d, x.a] →
    let v := Spec.low x.w32 (s.me.x x.a)
    (∃ c, Spec.LeadingZeros v.1 v.2 c ∧ exec (.clz x) s = .next (s.wrote x.d (BitVec.ofNat 64 c))) ∧
    (∃ c, Spec.TrailingZeros v.1 v.2 c ∧ exec (.ctz x) s = .next (s.wrote x.d (BitVec.ofNat 64 c))) ∧
    exec (.popc x) s =
      .next (s.wrote x.d (BitVec.ofNat 64 ((List.range v.1).filter fun i => v.2.getLsbD i).length))

/-- ALUI, LI and R250, R251: the immediate forms compute with sext(I16), SHLI, SHRI and SRAI with the shift field, LI loads
sext(I48), and LIH replaces bits [63:48]. -/
def Spec.ImmediateResults : Prop :=
  ∀ s : State,
    (∀ x : AluIF, Ready s [x.d, x.a] →
      let is := fun (i : Instr) (f : (n : Nat) → BitVec n → BitVec n → BitVec n) =>
        exec i s = .next (s.wrote x.d (Spec.alu x.w32 f (s.me.x x.a) (x.imm.signExtend 64)))
      is (.addi x) (fun _ a b => a + b) ∧ is (.andi x) (fun _ a b => a &&& b) ∧ is (.ori x) (fun _ a b => a ||| b) ∧
      is (.xori x) (fun _ a b => a ^^^ b) ∧ is (.slti x) (fun n a b => Spec.truth n (a.slt b)) ∧
      is (.sltui x) (fun n a b => Spec.truth n (a.ult b))) ∧
    (∀ x : AluSF, Ready s [x.d, x.a] →
      let is := fun (i : Instr) (f : (n : Nat) → BitVec n → Nat → BitVec n) =>
        exec i s = .next (s.wrote x.d (Spec.alu x.w32 (fun n a _ => f n a (x.sh.toNat % n)) (s.me.x x.a) 0))
      is (.shli x) (fun _ a k => a <<< k) ∧ is (.shri x) (fun _ a k => a >>> k) ∧ is (.srai x) (fun _ a k => a.sshiftRight k)) ∧
    (∀ x : LiF, Ready s [x.d] → exec (.li x) s = .next (s.wrote x.d (x.imm.signExtend 64))) ∧
    (∀ x : LihF, Ready s [x.d] →
      exec (.lih x) s = .next (s.wrote x.d (x.imm ++ (s.me.x x.d).extractLsb' 0 48)))

/-! ## Floating point (R57, R58, R61, R71 to R73, R252, R253) -/

/-- The real number ± m × 2^e. -/
noncomputable def Spec.real (neg : Bool) (m : Nat) (e : Int) : ℝ := (if neg then -1 else 1) * m * (2 : ℝ) ^ e

/-- An encoding of a format is that of a real number. -/
def Spec.Encodes (f : Fmt) (b : Nat) (w : ℝ) : Prop :=
  b < 2 ^ f.width ∧ ∃ n m e, f.decode b = .fin n m e ∧ Spec.real n m e = w

/-- An encoding is that of a real number rounded once in a mode: the nearest value with ties to even, the nearest toward
zero, the greatest not above, the least not below. -/
def Spec.RoundsTo (f : Fmt) (mode : Mode) (q : ℝ) (b : Nat) : Prop :=
  ∃ w, Spec.Encodes f b w ∧
    match mode with
    | .rne => ∀ c v, Spec.Encodes f c v → |q - w| ≤ |q - v| ∧ (v ≠ w → |q - w| = |q - v| → b % 2 = 0)
    | .rtz => |w| ≤ |q| ∧ 0 ≤ w * q ∧ ∀ c v, Spec.Encodes f c v → 0 ≤ v * q → |v| ≤ |q| → |v| ≤ |w|
    | .rdn => w ≤ q ∧ ∀ c v, Spec.Encodes f c v → v ≤ q → v ≤ w
    | .rup => q ≤ w ∧ ∀ c v, Spec.Encodes f c v → q ≤ v → w ≤ v

/-- The floating-point formats with exponent and fraction. -/
def Spec.formats : List Fmt := [fmtFp32, fmtBf16, fmtFp16, fmtE4m3, fmtE5m2, fmtE3m2, fmtE2m3, fmtE2m1, fmtA36]

/-- Encoding and flags are those of a non-zero real number within the largest finite value, rounded once: the sign stays, NX
says that the result differs, and UF goes with NX and only with a magnitude below the least normal value (R72). -/
def Spec.RoundedOnce (f : Fmt) (mode : Mode) (neg : Bool) (q : ℝ) (r : Nat × FlagSet) : Prop :=
  Spec.RoundsTo f mode q r.1 ∧ r.1.testBit (f.width - 1) = neg ∧
  (r.2.getLsbD 0 = true ↔ ¬ Spec.Encodes f r.1 q) ∧ r.2 &&& ~~~(fNX ||| fUF) = 0 ∧
  (r.2.getLsbD 1 = true → r.2.getLsbD 0 = true ∧ |q| < (2 : ℝ) ^ f.emin) ∧
  (r.2.getLsbD 0 = true → |q| ≤ (2 ^ f.fbits - 1) * (2 : ℝ) ^ (f.emin - f.fbits) → r.2.getLsbD 1 = true)

/-- Rounding is right: every real number ± m × 2^e within the largest finite value of a format goes, in every mode, to the value
that the mode names (R71, R72). -/
def Obligations.RoundingIsRight : Prop :=
  ∀ f ∈ Spec.formats, ∀ (mode : Mode) (sat neg : Bool) (m : Nat) (e : Int), 0 < m →
    Spec.real false m e ≤ Spec.real false f.maxM f.maxE →
    Spec.RoundedOnce f mode neg (Spec.real neg m e) (f.round mode sat (.fin neg m e))

/-- Quotients and square roots are rounded once (R252): from the exact real quotient and the exact real root. -/
def Spec.DivisionAndRootAreRight : Prop :=
  ∀ f ∈ [fmtFp32, fmtBf16, fmtFp16], ∀ (mode : Mode) (sat : Bool) (n1 n2 : Bool) (m1 m2 : Nat) (e1 e2 : Int), 0 < m1 → 0 < m2 →
    (Spec.real false m1 e1 / Spec.real false m2 e2 ≤ Spec.real false f.maxM f.maxE →
      Spec.RoundedOnce f mode (n1 != n2) (Spec.real n1 m1 e1 / Spec.real n2 m2 e2)
        (fDiv f mode sat (.fin n1 m1 e1) (.fin n2 m2 e2))) ∧
    (Real.sqrt (Spec.real false m1 e1) ≤ Spec.real false f.maxM f.maxE →
      Spec.RoundedOnce f mode false (Real.sqrt (Spec.real false m1 e1)) (fSqrt f mode sat (.fin false m1 e1)))

/-- Sums, products and fused results of finite values are formed exactly and rounded once (R252, R253): a result that is not zero
is the rounding of the exact real one, and raises what that rounding raises. -/
def Spec.SumsAndProductsAreExact : Prop :=
  ∀ (f : Fmt) (mode : Mode) (sat n1 n2 n3 : Bool) (m1 m2 m3 : Nat) (e1 e2 e3 : Int),
    let a := Spec.real n1 m1 e1
    let b := Spec.real n2 m2 e2
    let c := Spec.real n3 m3 e3
    (∃ n m e, Spec.real n m e = a + b ∧ fAdd f mode sat (.fin n1 m1 e1) (.fin n2 m2 e2) = f.round mode sat (.fin n m e) ∧
      (m = 0 → n = if n1 = n2 then n1 else decide (mode = .rdn))) ∧
    (∃ n m e, Spec.real n m e = a * b ∧ n = (n1 != n2) ∧
      fMul f mode sat (.fin n1 m1 e1) (.fin n2 m2 e2) = f.round mode sat (.fin n m e)) ∧
    (∃ n m e, Spec.real n m e = a * b + c ∧
      fFma f mode sat (.fin n1 m1 e1) (.fin n2 m2 e2) (.fin n3 m3 e3) = f.round mode sat (.fin n m e) ∧
      (m = 0 → n = if (n1 != n2) = n3 then n3 else decide (mode = .rdn)))

/-- Special operands (R252, R253): a NaN operand gives the canonical NaN with no flag, ∞ - ∞, 0 × ∞, 0 ÷ 0, ∞ ÷ ∞ and the root of a
negative value give it with NV, a non-zero value divided by zero gives ∞ with DZ, and 0 × ∞ gives NaN and NV whatever c is. -/
def Spec.SpecialOperands : Prop :=
  ∀ (mode : Mode) (a c : Val) (p q : Bool) (m : Nat) (e e2 : Int), 0 < m →
    let f := fmtFp32
    let nan := f.nanBits
    f.nanBits = 0x7FC00000 ∧
    fAdd f mode false .nan a = (nan, 0) ∧ fAdd f mode false a .nan = (nan, 0) ∧ fMul f mode false .nan a = (nan, 0) ∧
    fMul f mode false a .nan = (nan, 0) ∧ fDiv f mode false .nan a = (nan, 0) ∧ fDiv f mode false a .nan = (nan, 0) ∧
    fSqrt f mode false .nan = (nan, 0) ∧
    fAdd f mode false (.inf p) (.inf (!p)) = (nan, fNV) ∧ fMul f mode false (.inf p) (.fin q 0 e) = (nan, fNV) ∧
    fMul f mode false (.fin q 0 e) (.inf p) = (nan, fNV) ∧ fDiv f mode false (.fin p 0 e) (.fin q 0 e2) = (nan, fNV) ∧
    fDiv f mode false (.inf p) (.inf q) = (nan, fNV) ∧ fDiv f mode false (.fin p m e) (.fin q 0 e2) = (f.infBits (p != q), fDZ) ∧
    fSqrt f mode false (.fin true m e) = (nan, fNV) ∧ fSqrt f mode false (.fin true 0 e) = (0x80000000, 0) ∧
    fFma f mode false (.inf p) (.fin q 0 e) c = (nan, fNV) ∧ fFma f mode false (.fin q 0 e) (.inf p) c = (nan, fNV)

/-- The FP32 value that an instruction reads from a register (R252). -/
def Spec.fp (s : State) (r : Reg) : Val := fmtFp32.decode ((s.me.x r).toNat % 2 ^ 32)

/-- FPU and R252: the rounded operations write their result, zero-extended, and OR their flags into FLAGS; FFMA, FFMS and FNFMA
are a × b + c, a × b - c and -(a × b) + c (R253). -/
def Spec.FpuResults : Prop :=
  ∀ s : State,
    (∀ x : FpuF, Ready s [x.d, x.a, x.b] →
      let m := modeOf s.me.frm x.rm
      let a := Spec.fp s x.a
      let b := Spec.fp s x.b
      exec (.fadd x) s = .next (s.wroteFp x.d (fAdd fmtFp32 m false a b)) ∧
      exec (.fsub x) s = .next (s.wroteFp x.d (fAdd fmtFp32 m false a b.neg)) ∧
      exec (.fmul x) s = .next (s.wroteFp x.d (fMul fmtFp32 m false a b)) ∧
      exec (.fdiv x) s = .next (s.wroteFp x.d (fDiv fmtFp32 m false a b))) ∧
    (∀ x : FpuUF, Ready s [x.d, x.a] →
      let m := modeOf s.me.frm x.rm
      exec (.fsqrt x) s = .next (s.wroteFp x.d (fSqrt fmtFp32 m false (Spec.fp s x.a))) ∧
      exec (.fcvtif x) s = .next (s.wroteFp x.d (fmtFp32.round m false
        (.fin (decide ((s.me.x x.a).toInt < 0)) (s.me.x x.a).toInt.natAbs 0))) ∧
      exec (.fcvtfi x) s = .next (s.wroteFp x.d (roundInt .i64 m (Spec.fp s x.a)))) ∧
    (∀ x : FmaF, Ready s [x.d, x.a, x.b, x.c] →
      let m := modeOf s.me.frm x.rm
      let a := Spec.fp s x.a
      let b := Spec.fp s x.b
      let c := Spec.fp s x.c
      exec (.ffma x) s = .next (s.wroteFp x.d (fFma fmtFp32 m false a b c)) ∧
      exec (.ffms x) s = .next (s.wroteFp x.d (fFma fmtFp32 m false a b c.neg)) ∧
      exec (.fnfma x) s = .next (s.wroteFp x.d (fFma fmtFp32 m false a.neg b c)))

/-- An FP32 encoding is a NaN. -/
def Spec.isNan (v : BitVec 32) : Bool := decide (0x7F800000 < (v.setWidth 31).toNat)

/-- The place of an FP32 encoding that is no NaN in the order of values: of two values the smaller has the smaller key, and -0 comes
before +0. -/
def Spec.key (v : BitVec 32) : Int := if v.msb then -((v.setWidth 31).toNat : Int) - 1 else (v.setWidth 31).toNat

/-- The place in the order of values in which -0 equals +0. -/
def Spec.value (v : BitVec 32) : Int := if v.msb then -((v.setWidth 31).toNat : Int) else (v.setWidth 31).toNat

/-- FMIN, FMAX, FEQ, FLT, FLE and FCLASS of R252, on the bits of FP32. -/
def Spec.FpuComparesAndClass : Prop :=
  ∀ s : State,
    (∀ x : R3T2, Ready s [x.d, x.a, x.b] →
      let a := (s.me.x x.a).setWidth 32
      let b := (s.me.x x.b).setWidth 32
      let pick := fun c : Bool =>
        if Spec.isNan a && Spec.isNan b then 0x7FC00000#32 else if Spec.isNan a then b else if Spec.isNan b then a
        else if c then a else b
      let nan := Spec.isNan a || Spec.isNan b
      let nv : FlagSet := if nan then 0x10 else 0
      exec (.fmin x) s = .next (s.wroteFp x.d ((pick (decide (Spec.key a ≤ Spec.key b))).toNat, 0)) ∧
      exec (.fmax x) s = .next (s.wroteFp x.d ((pick (decide (Spec.key b ≤ Spec.key a))).toNat, 0)) ∧
      exec (.feq x) s = .next (s.wroteFp x.d (if !nan && Spec.value a == Spec.value b then 1 else 0, 0)) ∧
      exec (.flt x) s = .next (s.wroteFp x.d (if !nan && decide (Spec.value a < Spec.value b) then 1 else 0, nv)) ∧
      exec (.fle x) s = .next (s.wroteFp x.d (if !nan && decide (Spec.value a ≤ Spec.value b) then 1 else 0, nv))) ∧
    (∀ x : R2T2, Ready s [x.d, x.a] →
      let a := (s.me.x x.a).setWidth 32
      let ex := a.extractLsb' 23 8
      let fr := a.extractLsb' 0 23
      let c : Nat :=
        if Spec.isNan a then 8
        else if ex = 0xFF then (if a.msb then 0 else 7)
        else if ex = 0 ∧ fr = 0 then (if a.msb then 3 else 4)
        else if ex = 0 then (if a.msb then 2 else 5)
        else (if a.msb then 1 else 6)
      exec (.fclass x) s = .next (s.wrote x.d (BitVec.ofNat 64 (2 ^ c))))

/-! ## Transfers of control (R14 to R16, R254, R255) -/

/-- The target of a relative transfer: LINE + delta lines on, at a slot (R16). -/
def Spec.target (s : State) (delta : Int) (slot : BitVec 5) : Word :=
  BitVec.ofInt 64 ((((bits s.me.ia.toNat 56 6 : Nat) : Int) + delta) * 64 + slot.toNat)

/-- The LINE computation stays in 51 bits (R16). -/
def Spec.LineInRange (s : State) (delta : Int) : Prop :=
  0 ≤ ((bits s.me.ia.toNat 56 6 : Nat) : Int) + delta ∧ ((bits s.me.ia.toNat 56 6 : Nat) : Int) + delta < 2 ^ 51

/-- A target is well formed, its line is fetched and legal, and has the slot (R16); `t` is the state after the fetch. -/
structure Spec.CanGo (s : State) (ia : Word) (l : Line) (t : State) : Prop where
  formed : wellFormedIa ia = true
  line : Answers (enterLine s.me.sstat.mode ia) s l t
  slot : iaSlot ia ≤ lineNh l

/-- R15: an address is well formed when bits [63:57] and bit [5] are zero and SLOT is not zero, and next_ia is the next slot or, from
the last slot of a line on, slot 1 of the next line. Where next_ia is not well formed, the last instruction has its full
effect, and illegal-target is raised at it with EAUX = next_ia. -/
def Spec.NextAddress : Prop :=
  (∀ ia : Word, wellFormedIa ia = true ↔ ia.extractLsb' 57 7 = 0 ∧ ia.getLsbD 5 = false ∧ ia.extractLsb' 0 5 ≠ 0) ∧
  (∀ (ia : Word) (nh : Nat), nextIa ia nh =
    if (ia.extractLsb' 0 5).toNat < nh then ia + 1 else (((ia.extractLsb' 6 51).setWidth 64 + 1) <<< 6) ||| 1) ∧
  (∀ (s : State) (x : AluF), s.cur < s.cores.length → s.me.pending [x.d, x.a, x.b] = false →
    wellFormedIa s.me.nextIa = false →
    let t := s.updMe fun k => k.setX x.d (Spec.alu x.w32 (fun _ a b => a + b) (s.me.x x.a) (s.me.x x.b))
    exec (.add x) s = .next (t.after (trapEntry (some (faultOf 3 0 s.me.nextIa.toNat)) s.me.ia)))

/-- BR and R254: a true comparison transfers control to the target of R16, and a false one goes on; all compare 64 bits. -/
def Spec.BranchResults : Prop :=
  ∀ (s : State) (x : BrF) (l : Line) (t : State), Ready s [x.a, x.b] →
    Spec.LineInRange s x.delta.toInt → Spec.CanGo s (Spec.target s x.delta.toInt x.slot) l t →
    let a := s.me.x x.a
    let b := s.me.x x.b
    let is := fun (i : Instr) (c : Prop) =>
      (c → exec i s = .next (t.wentTo (Spec.target s x.delta.toInt x.slot) l)) ∧ (¬ c → exec i s = .next s.goesOn)
    is (.beq x) (a = b) ∧ is (.bne x) (a ≠ b) ∧ is (.blt x) (a.toInt < b.toInt) ∧ is (.bge x) (b.toInt ≤ a.toInt) ∧
    is (.bltu x) (a.toNat < b.toNat) ∧ is (.bgeu x) (b.toNat ≤ a.toNat)

/-- JAL, JALR and R255: control goes to the target, JALR's read before x[D] is written, and x[D] receives next_ia. -/
def Spec.JumpResults : Prop :=
  ∀ (s : State) (l : Line) (t : State),
    (∀ x : JalF, s.me.pending [x.d] = false → Spec.LineInRange s x.delta.toInt →
      Spec.CanGo s (Spec.target s x.delta.toInt x.slot) l t →
      exec (.jal x) s = .next ((t.updMe fun k => k.setX x.d s.me.nextIa).wentTo (Spec.target s x.delta.toInt x.slot) l)) ∧
    (∀ x : R2T2, s.me.pending [x.d, x.a] = false → Spec.CanGo s (s.me.x x.a) l t →
      exec (.jalr x) s = .next ((t.updMe fun k => k.setX x.d s.me.nextIa).wentTo (s.me.x x.a) l))

/-- Spec.Transfers s i ia ok link: instruction i transfers control from s to the address ia; `ok` says that its LINE stays in 51 bits
and `link` is the register write that it makes before it goes (R16, R254, R255). A branch transfers where its comparison is true. -/
inductive Spec.Transfers (s : State) : Instr → Word → Prop → (State → State) → Prop
  | jal (x : JalF) : s.me.pending [x.d] = false →
      Spec.Transfers s (.jal x) (Spec.target s x.delta.toInt x.slot) (Spec.LineInRange s x.delta.toInt)
        (fun t => t.updMe fun k => k.setX x.d s.me.nextIa)
  | jalr (x : R2T2) : s.me.pending [x.d, x.a] = false →
      Spec.Transfers s (.jalr x) (s.me.x x.a) True (fun t => t.updMe fun k => k.setX x.d s.me.nextIa)
  | branch (x : BrF) (i : Instr) (c : Prop) : s.me.pending [x.a, x.b] = false → c →
      (i, c) ∈ [(Instr.beq x, s.me.x x.a = s.me.x x.b), (.bne x, s.me.x x.a ≠ s.me.x x.b),
        (.blt x, (s.me.x x.a).toInt < (s.me.x x.b).toInt), (.bge x, (s.me.x x.b).toInt ≤ (s.me.x x.a).toInt),
        (.bltu x, (s.me.x x.a).toNat < (s.me.x x.b).toNat), (.bgeu x, (s.me.x x.b).toNat ≤ (s.me.x x.a).toNat)] →
      Spec.Transfers s i (Spec.target s x.delta.toInt x.slot) (Spec.LineInRange s x.delta.toInt) id

/-- Illegal targets (R16): a target that is not well formed, whose LINE leaves 51 bits, or whose slot its line does not have
raises illegal-target at the transfer, with EAUX = the target as computed, and the transfer writes no link. -/
def Spec.IllegalTargets : Prop :=
  ∀ (s : State) (i : Instr) (ia : Word) (ok : Prop) (link : State → State), Spec.Transfers s i ia ok link →
    ((¬ ok ∨ wellFormedIa ia = false) → exec i s = .next (s.after (trapEntry (some (faultOf 3 0 ia.toNat)) s.me.ia))) ∧
    (∀ l t, ok → wellFormedIa ia = true → Answers (enterLine s.me.sstat.mode ia) s l t → lineNh l < iaSlot ia →
      exec i s = .next (t.after (trapEntry (some (faultOf 3 0 ia.toNat)) t.me.ia)))

/-- A fault of the fetch of a target (R16): the transfer has completed, its link is written, and the trap's address is the
target. -/
def Spec.TargetFetchFault : Prop :=
  ∀ (s : State) (i : Instr) (ia : Word) (ok : Prop) (link : State → State) (r : Trap) (t : State),
    Spec.Transfers s i ia ok link → ok → wellFormedIa ia = true → t.cur < t.cores.length →
    Traps (enterLine s.me.sstat.mode ia) s r t →
    exec i s = .next (((link t).updMe fun k => k.goAt ia none).after (trapEntry (some r) ia))

/-! ## Scalar memory (R203, R204, R306, R308 to R315, R320 to R322) -/

/-- The executing core takes a scalar access: no register it names is pending, and no acquire before it is outstanding
(R310). -/
structure Spec.Accessing (s : State) (rs : List Reg) : Prop where
  ready : Ready s rs
  free : s.acquiring s.cur = false

/-- The queue of the executing core is empty and its channels hold no copy: what it releases is its stores and its crust
commands (R309). -/
structure Spec.Quiet (s : State) : Prop where
  queue : s.me.queue = []
  channels : s.me.issued = 0

/-- The address x[A] + sext(I16, 64) (R204). -/
def Spec.address (a : Word) (off : BitVec 16) : Nat := (a + off.signExtend 64).toNat

/-- A read of n bytes at a pad address: aligned, backed, of a line without an error whose contents are defined. -/
structure Spec.PadRead (s : State) (va n loc : Nat) : Prop where
  aligned : va % n = 0
  place : padLoc s.cur va = some loc
  good : s.badLines.contains (loc / 64) = false
  plain : s.sealOf (loc / 64) = none
  exact : s.vagueSeed (loc / 64) = none

/-- The state after a read at home of the line that a location lies in: the reader's clock has joined the line's stamp (R306). -/
def Spec.sawLine (s : State) (loc : Nat) : State := s.joinCk s.cur (s.stampOf (loc / 64))

/-- The state after a vector-class read at home of the line that a location lies in: the core's L1 copy of the line is gone (R198). -/
def Spec.sawHome (s : State) (loc : Nat) : State := Spec.sawLine (s.dropL1Of s.cur (loc / 64)) loc

/-- The little-endian value of bytes, sign-extended from n bytes. -/
def Spec.signed (n : Nat) (bs : List Byte) : Word := (BitVec.ofNat (8 * n) (leNat bs)).signExtend 64

/-- The value of bytes, zero-extended. -/
def Spec.unsigned (bs : List Byte) : Word := BitVec.ofNat 64 (leNat bs)

/-- After an acquire at a scope (R310). -/
def Spec.acquired (s : State) (scope : Scope) : State := if scope = .system then s.drainInbox (dieOf s.cur) else s

/-- After a release at a scope of a core with nothing in its queue and channels (R309): at CORE scope the stores have left the
core, beyond it they have performed; the crust commands with REL have performed; at SYSTEM scope the writes to other devices are
acknowledged. -/
def Spec.released (s : State) (scope : Scope) : State :=
  match scope with
  | .core => (s.commitAll s.cur).crustRel s.cur
  | .system => ((s.flushSb s.cur).crustRel s.cur).ackFabric s.cur fun _ => true
  | _ => (s.flushSb s.cur).crustRel s.cur

/-- LD and R204: a load of a pad address reads the bytes that memory and the core's own older stores give, extends them, and writes
x[D]; LDA also acquires (R313). -/
def Spec.PadLoads : Prop :=
  ∀ (s : State) (loc : Nat),
    (∀ x : MemF, Spec.Accessing s [x.d, x.a] →
      let is := fun (i : Instr) (n : Nat) (f : List Byte → Word) =>
        Spec.PadRead s (Spec.address (s.me.x x.a) x.off) n loc →
        exec i s = .next ((Spec.sawLine s loc).wrote x.d (f (overlaySb s.me.sb loc (s.bytesAt loc n))))
      is (.lb x) 1 (Spec.signed 1) ∧ is (.lbu x) 1 Spec.unsigned ∧ is (.lh x) 2 (Spec.signed 2) ∧
      is (.lhu x) 2 Spec.unsigned ∧ is (.lw x) 4 (Spec.signed 4) ∧ is (.lwu x) 4 Spec.unsigned ∧ is (.ld x) 8 Spec.unsigned) ∧
    (∀ x : OrdF, Spec.Accessing s [x.d, x.a] →
      let is := fun (i : Instr) (n : Nat) =>
        Spec.PadRead s (s.me.x x.a).toNat n loc →
        exec i s = .next (Spec.acquired ((Spec.sawLine s loc).updMe fun k =>
          k.setX x.d (Spec.unsigned (overlaySb s.me.sb loc (s.bytesAt loc n)))) x.scope).goesOn
      is (.ldaW x) 4 ∧ is (.ldaD x) 8)

/-- LD and R204 everywhere: a load whose address translates for reading writes x[D] from the bytes that the read answers (R306), once
earlier accesses to bytes of another device are over (R319). -/
def Spec.PageLoads : Prop :=
  ∀ (s t r u : State) (tg : Target) (bs : List Byte),
    let reads := fun (va n : Nat) => va % n = 0 ∧ Answers (readPlace (s.me.ctx s.cur) va) s tg t ∧
      Ends (fabricOrder tg.loc n) t r ∧ Answers (readScalar s.cur tg.key tg.held va tg.loc n) r bs u
    (∀ x : MemF, Spec.Accessing s [x.d, x.a] →
      let is := fun (i : Instr) (n : Nat) (f : List Byte → Word) =>
        reads (Spec.address (s.me.x x.a) x.off) n → exec i s = .next (u.wrote x.d (f bs))
      is (.lb x) 1 (Spec.signed 1) ∧ is (.lbu x) 1 Spec.unsigned ∧ is (.lh x) 2 (Spec.signed 2) ∧
      is (.lhu x) 2 Spec.unsigned ∧ is (.lw x) 4 (Spec.signed 4) ∧ is (.lwu x) 4 Spec.unsigned ∧ is (.ld x) 8 Spec.unsigned) ∧
    (∀ x : OrdF, Spec.Accessing s [x.d, x.a] →
      let is := fun (i : Instr) (n : Nat) =>
        reads (s.me.x x.a).toNat n →
        exec i s = .next (Spec.acquired (u.updMe fun k => k.setX x.d (Spec.unsigned bs)) x.scope).goesOn
      is (.ldaW x) 4 ∧ is (.ldaD x) 8)

/-- ST and R204, R313: a store whose address translates for writing enters the store buffer with the low bytes of x[D], and STL
releases first. A store that inserts a line of a glaze page is part of that side change and performs in it, after the older stores
(R108, R114) and every access of the queue to its bytes (R308). The model's own choices here: that such a store performs at once is log
entry 16, STL translating before it releases log entry 45, the wait of its release log entry 11. -/
def Obligations.ScalarStores : Prop :=
  ∀ (s t r' u : State) (q : Place) (tg : Target),
    let x := s.me.ctx s.cur
    let stores := fun (i : Instr) (r : State) (va n : Nat) (v : Word) =>
      let bs := leBytes n v.toNat
      (if r.inserts x q va then Ends (awaitQueue fun s => s.storeMeets x.core q va n) r r' else r' = r) →
      Answers (writeTarget x q va va) (if r.inserts x q va then r'.flushSb s.cur else r') tg u →
        exec i s = .next (if r.inserts x q va then u.perform (some s.cur) tg.key tg.loc bs
          else u.enterSb s.cur (q.via x) tg.key tg.loc bs).goesOn
    (∀ f : MemF, Spec.Accessing s [f.d, f.a] →
      let va := Spec.address (s.me.x f.a) f.off
      let is := fun (i : Instr) (n : Nat) => va % n = 0 → Answers (place x .write va) s q t → stores i t va n (s.me.x f.d)
      is (.sb f) 1 ∧ is (.sh f) 2 ∧ is (.sw f) 4 ∧ is (.sd f) 8) ∧
    (∀ f : OrdF, Spec.Accessing s [f.d, f.a] → Spec.Quiet s →
      let va := (s.me.x f.a).toNat
      let is := fun (i : Instr) (n : Nat) =>
        va % n = 0 → Answers (place x .write va) s q t → stores i (Spec.released t f.scope) va n (s.me.x f.d)
      is (.stlW f) 4 ∧ is (.stlD f) 8)

/-- Misaligned scalar accesses (R204, R313, R322, R367): cause misaligned with the address in EVA and the write bit in EAUX, and no
effect. -/
def Spec.MisalignedAccesses : Prop :=
  ∀ s : State,
    let traps := fun (i : Instr) (va aux : Nat) => exec i s = .next (s.after (trapEntry (some (faultOf 4 va aux)) s.me.ia))
    (∀ x : MemF, Spec.Accessing s [x.d, x.a] →
      let va := Spec.address (s.me.x x.a) x.off
      (va % 2 ≠ 0 → traps (.lh x) va 0 ∧ traps (.lhu x) va 0 ∧ traps (.sh x) va 0x800) ∧
      (va % 4 ≠ 0 → traps (.lw x) va 0 ∧ traps (.lwu x) va 0 ∧ traps (.sw x) va 0x800) ∧
      (va % 8 ≠ 0 → traps (.ld x) va 0 ∧ traps (.sd x) va 0x800)) ∧
    (∀ x : OrdF, Spec.Accessing s [x.d, x.a] →
      let va := (s.me.x x.a).toNat
      (va % 4 ≠ 0 → traps (.ldaW x) va 0 ∧ traps (.stlW x) va 0x800) ∧
      (va % 8 ≠ 0 → traps (.ldaD x) va 0 ∧ traps (.stlD x) va 0x800)) ∧
    (∀ x : AmoF, Spec.Accessing s [x.d, x.a, x.b] →
      let va := (s.me.x x.a).toNat
      va % (if x.dw then 8 else 4) ≠ 0 → traps (.amoadd x) va 0x800 ∧ traps (.amofadd x) va 0x800)

/-- The operation of an AMO on n-bit values (R321). -/
def Spec.amo (f : (n : Nat) → BitVec n → BitVec n → BitVec n) (n b old : Nat) : Option Nat :=
  some (f (8 * n) (BitVec.ofNat (8 * n) old) (BitVec.ofNat (8 * n) b)).toNat

/-- One FP32 sum of AMOFADD: rounded to nearest even (R321). -/
def Spec.fsum (a b : Nat) : Nat := (fAdd fmtFp32 .rne false (fmtFp32.decode a) (fmtFp32.decode b)).1

/-- AMO and R321, R322: the AMO releases first where rel is set, the core's own older stores to its bytes perform, the operation is
one read-modify-write at the home of the bytes, x[D] receives the old value (a word sign-extended, zero-extended by AMOFADD), and
the AMO acquires where acq is set. AMOCAS writes only where the old value is x[C]. The model's own choices here: that the waits of
its release take their events in the same step is log entry 11. -/
def Obligations.AmoResults : Prop :=
  ∀ (s t w : State) (q : Place) (x : AmoF) (old : Nat),
    let c := s.me.ctx s.cur
    let n := if x.dw then 8 else 4
    let a := (s.me.x x.a).toNat
    let b := (s.me.x x.b).toNat
    a % n = 0 → Answers (place c .write a) s q t →
    let r := if x.rel then Spec.released t x.scope else t
    let u := r.flushOver s.cur (r.amoLoc c q a) n
    let done := fun (v : Word) =>
      let r := w.updMe fun k => k.setX x.d v
      (if x.acq then Spec.acquired r x.scope else r).goesOn
    let value := if x.dw then BitVec.ofNat 64 old else (BitVec.ofNat 32 old).signExtend 64
    Spec.Quiet s →
    (Spec.Accessing s [x.d, x.a, x.b] →
      let is := fun (i : Instr) (f : (n : Nat) → BitVec n → BitVec n → BitVec n) =>
        Answers (atomicAt c q a n (Spec.amo f n b)) u old w → exec i s = .next (done value)
      is (.amoadd x) (fun _ o b => o + b) ∧ is (.amoswap x) (fun _ _ b => b) ∧ is (.amoand x) (fun _ o b => o &&& b) ∧
      is (.amoor x) (fun _ o b => o ||| b) ∧ is (.amoxor x) (fun _ o b => o ^^^ b) ∧
      is (.amomin x) (fun _ o b => if o.sle b then o else b) ∧ is (.amomax x) (fun _ o b => if o.sle b then b else o) ∧
      is (.amominu x) (fun _ o b => if o.ule b then o else b) ∧ is (.amomaxu x) (fun _ o b => if o.ule b then b else o) ∧
      (Answers (atomicAt c q a n (fun o => some
          (if x.dw then Spec.fsum (o % 2 ^ 32) (b % 2 ^ 32) + Spec.fsum (o / 2 ^ 32) (b / 2 ^ 32) * 2 ^ 32
          else Spec.fsum o (b % 2 ^ 32)))) u old w →
        exec (.amofadd x) s = .next (done (BitVec.ofNat 64 old)))) ∧
    (∀ r : Reg, Spec.Accessing s [x.d, x.a, x.b, r] →
      Answers (atomicAt c q a n (fun o => if o = (s.me.x r).toNat % 2 ^ (8 * n) then some (b % 2 ^ (8 * n)) else none)) u old w →
      exec (.amocas { d := x.d, a := x.a, b := x.b, c := r, acq := x.acq, rel := x.rel, dw := x.dw, scope := x.scope }) s =
        .next (done value))

/-! ## The shared operations over memory (R197, R305 to R308, R322) -/

/-- Bytes that lie in one line. -/
def Spec.InLine (loc n : Nat) : Prop := 0 < n ∧ loc % 64 + n ≤ 64

/-- A write that performs (R306): exactly its bytes change, but for those of a STATUS of a host queue, which a core's write leaves as they
are (R2, R344); memory keeps its canonical form, the home's clock counts it, the line takes the new stamp, and every other die is sent one
update. -/
def Spec.PerformedWrite : Prop :=
  ∀ (s : State) (c : Option Nat) (key : Option Nat) (loc h : Nat) (bs : List Byte),
    Spec.InLine loc bs.length → homeOf loc = some h → h < s.dies.length → s.dies.length = 4 → Memory.wf s.mem = true →
    s.writable key loc bs.length = true → (key = none → s.sealOf (loc / 64) = none) → s.vagueSeed (loc / 64) = none →
    let t := s.performAt c key loc bs
    let left := if c.isSome then s.keepRo loc bs else bs
    (∀ i, i < bs.length → left[i]? = if c.isSome && s.statusByte (loc + i) then some (s.byte (loc + i)) else bs[i]?) ∧
    t.bytesAt loc bs.length = left ∧ SameMemoryBut s t loc bs.length ∧
    Memory.wf t.mem = true ∧
    (t.die h).dvc = (s.die h).dvc.set h ((s.die h).dvc.get h + 1) ∧ t.stampOf (loc / 64) = (t.die h).dvc ∧
    (∀ l, l ≠ loc / 64 → t.stampOf l = s.stampOf l) ∧
    (∀ d, d < 4 → d ≠ h → (t.die d).dvc = (s.die d).dvc ∧
      (t.die d).inbox = (s.die d).inbox ++ [{ home := h, loc := loc, bytes := left, stamp := (t.die h).dvc }])

/-- A scalar load sees the youngest of its own core's older stores to each byte, and memory where there is none (R204, R308). -/
def Spec.OwnStoresFirst : Prop :=
  ∀ (sb : List SbEntry) (loc i : Nat) (bs : List Byte), i < bs.length →
    (overlaySb sb loc bs).length = bs.length ∧
    (overlaySb sb loc bs)[i]? =
      match sb.reverse.find? fun e => decide (e.loc ≤ loc + i) && decide (loc + i < e.loc + e.bytes.length) with
      | some e => e.bytes[loc + i - e.loc]?
      | none => bs[i]?

/-- A scalar store waits in its core: memory is unchanged until it performs, and a later load of the core reads it (R204, R305). -/
def Spec.StoreThenLoad : Prop :=
  ∀ (s : State) (via : Option TlbEntry) (loc n v : Nat), s.cur < s.cores.length →
    let t := s.enterSb s.cur via none loc (leBytes n v)
    SameMemory s t ∧ overlaySb t.me.sb loc (t.bytesAt loc n) = leBytes n v

/-- An atomic update of n bytes of plain memory (R322): it answers the old value, writes the new one, or nothing where there is
none, and changes no other byte; the STATUS of a host queue keeps its value (R2, R344). A registered barrier line is protected, with EVA the address and EAUX the index (R333). -/
def Spec.AtomicUpdates : Prop :=
  ∀ (s t : State) (x : Ctx) (va n loc : Nat) (q : Place) (f : Nat → Option Nat), n = 4 ∨ n = 8 → va % n = 0 →
    x.core < s.cores.length → s.dies.length = 4 → Memory.wf s.mem = true → Answers (place x .write va) s q t →
    (q = .pad loc ∨ ∃ p : Page, q = .page p ∧ p.pdb = none ∧ pteHasPdb p.leaf.toNat = false ∧ p.key = none ∧ p.phys va = loc ∧ isFabric loc = false) →
    loc % n = 0 → t.badLines.contains (loc / 64) = false → t.sealOf (loc / 64) = none → t.vagueSeed (loc / 64) = none →
    ((t.core x.core).sb.all fun e => !overlaps e.loc e.bytes.length loc n) = true →
    (t.barrierOn (loc / 64) = none →
      let old := leNat (t.bytesAt loc n)
      (f old = none → ∃ u, Answers (atomicUpdate x va n f) s old u ∧ SameMemory t u) ∧
      (∀ v, f old = some v → ∃ u, Answers (atomicUpdate x va n f) s old u ∧ u.bytesAt loc n = t.keepRo loc (leBytes n v) ∧
        SameMemoryBut t u loc n)) ∧
    (∀ b, t.barrierOn (loc / 64) = some b → Traps (atomicUpdate x va n f) s (faultOf 22 va b.index) t)

/-- A location is one of this device. -/
def Spec.OnDevice (loc : Nat) : Prop := ∀ h, homeOf loc = some h → h < 4

/-- No die is ahead of a home: of every home, a die has applied at most the writes that the home has performed, and every update
on its way carries no more than the homes have performed (R305, R306). -/
structure Spec.Causal (s : State) : Prop where
  dies : s.dies.length = 4
  clocks : ∀ d h, d < 4 → h < 4 → (s.die d).dvc.get h ≤ (s.die h).dvc.get h
  inbox : ∀ d, d < 4 → ∀ u ∈ (s.die d).inbox, u.home ≠ d ∧ u.home < 4 ∧ ∀ k, k < 4 → u.stamp.get k ≤ (s.die k).dvc.get k
  flight : ∀ w ∈ s.inflight, Spec.OnDevice w.loc
  stores : ∀ k ∈ s.cores, ∀ e ∈ k.sb, Spec.OnDevice e.loc

/-- COMMIT, PERFORM, APPLY and INSTALL_FILL keep the clocks causal (R306). -/
def Obligations.ClocksStayCausal : Prop :=
  ∀ (s t : State) (a b : Nat), Spec.Causal s →
    (exec (.commit a) s = .next t ∨ exec (.perform a) s = .next t ∨ exec (.apply a b) s = .next t ∨ exec (.installFill a) s = .next t) →
    Spec.Causal t

/-- COMMIT (R306): the oldest store still in the core leaves with the join of its die's clock and its core's. PERFORM: a write that
may perform leaves the store buffer and writes its bytes at its home. APPLY: an update that is next of its home is applied, and a
guest copy of its line takes the bytes and the stamp. INSTALL_FILL: a fill that the die's clock still allows puts its line among
the guest copies. The model's own choices here: which write, update or fill an event names is the numbering of log entry 52. -/
def Obligations.AbstractTransitions : Prop :=
  (∀ (s : State) (c : Nat) (e : SbEntry), c < s.cores.length → ((s.core c).sb.find? fun e => !e.committed) = some e →
    s.mayLeave c e = true →
    ∃ t, exec (.commit c) s = .next t ∧ SameMemory s t ∧ t.inflight = s.inflight ++ [{
      core := c, seq := e.seq, loc := e.loc, bytes := e.bytes, key := e.key,
      clock := (s.die (dieOf c)).dvc.join (s.core c).ck }]) ∧
  (∀ (s : State) (n h : Nat) (w : InFlight), s.inflight[n]? = some w → s.flightReady w = true → homeOf w.loc = some h →
    w.core < s.cores.length → Memory.wf s.mem = true → w.key = none → s.sealOf (w.loc / 64) = none → s.vagueSeed (w.loc / 64) = none →
    s.writable none w.loc w.bytes.length = true →
    Spec.InLine w.loc w.bytes.length →
    ∃ t, exec (.perform n) s = .next t ∧ t.bytesAt w.loc w.bytes.length = s.keepRo w.loc w.bytes ∧
      SameMemoryBut s t w.loc w.bytes.length ∧
      t.inflight = s.inflight.eraseIdx n ∧ ∀ e ∈ (t.core w.core).sb, e.seq ≠ w.seq) ∧
  (∀ (s : State) (d n : Nat) (u : Update), d < s.dies.length → (s.die d).inbox[n]? = some u → updateReady (s.die d) u = true →
    ∃ t, exec (.apply d n) s = .next t ∧ SameMemory s t ∧ (t.die d).inbox = (s.die d).inbox.eraseIdx n ∧
      (t.die d).dvc = (s.die d).dvc.set u.home ((s.die d).dvc.get u.home + 1) ∧
      (t.die d).guests.length = (s.die d).guests.length ∧
      ∀ g ∈ (t.die d).guests, g.line = u.loc / 64 → g.stamp = u.stamp) ∧
  (∀ (s : State) (n : Nat) (f : FillRec), s.fills[n]? = some f → f.die < s.dies.length → (s.die f.die).dvc.get f.home = f.h →
    ∃ t, exec (.installFill n) s = .next t ∧ SameMemory s t ∧ t.fills = s.fills.eraseIdx n ∧
      (t.die f.die).guests.head? = some { line := f.line, bytes := f.bytes, stamp := f.stamp })

/-! ## Fences, cache maintenance and address waits (R105, R106, R314, R315, R324, R325) -/

/-- FENCE, FENCE.SV and FENCE.VS (R315): a FENCE releases, then makes later accesses wait for the reads before it, and at SYSTEM scope
applies what other dies have performed; FENCE.SV marks the stores before it and lets the scalar stream go on; FENCE.VS performs the
crust commands with REL. -/
def Spec.Fences : Prop :=
  ∀ s : State, Ready s [] →
    (Spec.Quiet s →
      (∀ x : FenceF,
        let u := if x.rel then Spec.released s x.scope else s
        let v := if x.acq then Spec.acquired (u.updMe fun k => { k with fenceSeq := k.seq }) x.scope else u
        u.crustHas s.cur Item.acq = false → exec (.fence x) s = .next v.goesOn) ∧
      exec .fenceVs s = .next (s.crustRel s.cur).goesOn) ∧
    exec .fenceSv s = .next (s.updMe fun k => { k with svFence := k.seq }).goesOn

/-- Dispatch after a FENCE.SV (R315): the gate that every dispatch passes lets it go on only where no scalar store before the fence is
left, and with an empty queue it performs those stores. -/
def Spec.DispatchAfterFence : Prop :=
  (∀ s t : State, Ends svGate s t → ∀ w ∈ t.me.sb, t.me.svFence ≤ w.seq) ∧
  (∀ s : State, s.cur < s.cores.length → s.me.queue = [] → (∃ w ∈ s.me.sb, w.seq < s.me.svFence) → Ends svGate s (s.flushSb s.cur))

/-- What every release beyond CORE scope, and dispatch after FENCE.SV, leaves (R309, R315): a core whose queue is empty has no store
left. -/
def Spec.StoresHavePerformed : Prop :=
  (∀ s : State, s.cur < s.cores.length → s.me.queue = [] → (s.flushSb s.cur).me.sb = []) ∧ Spec.DispatchAfterFence

/-- CFLUSH, CINV, CPREF and CDROP (R105, R106): nothing on pad space; on a page the line of the page that translation selects. CFLUSH
performs the core's stores to the line, writes it back, and invalidates every guest copy and the core's L1 copy; CINV takes the line
out of the instruction cache and L1; CPREF never faults; a versioned page is touched by CINV alone; CDROP is the supervisor's, discards
every cached copy, and leaves the line as it was or as HBM4E holds it. -/
def Spec.CacheMaintenance : Prop :=
  ∀ (s : State) (x : CacheF), Ready s [x.a] →
    let va := Spec.address (s.me.x x.a) x.off / 64 * 64
    let c := s.me.ctx s.cur
    (va < 2 ^ 57 → bits va 56 52 = 0x1F →
      exec (.cflush x) s = .next s.goesOn ∧ exec (.cinv x) s = .next s.goesOn ∧ exec (.cpref x) s = .next s.goesOn ∧
      (s.me.sstat.mode = true → exec (.cdrop x) s = .next s.goesOn)) ∧
    (¬ (va < 2 ^ 57 ∧ bits va 56 52 = 0x1F) →
      (∀ (p : Page) (t : State), Answers (place c .read va) s (.page p) t →
        let tg := t.readTarget c p va
        let vers := p.leaf.getLsbD 10
        (s.me.queue = [] → exec (.cflush x) s =
          .next (if vers then t else (t.flushOver s.cur (tg.loc / 64 * 64) 64).flushLine s.cur (tg.loc / 64)).goesOn) ∧
        exec (.cinv x) s = .next ((t.updMe fun k =>
          { k with icache := k.icache.filter fun l => l.loc != tg.loc / 64 * 64 }).dropL1Of s.cur (tg.loc / 64)).goesOn ∧
        exec (.cpref x) s = .next (if vers then t else t.prefetch s.cur tg).goesOn) ∧
      (∀ (r : Trap) (t : State), Traps (place c .read va) s r t → exec (.cpref x) s = .next t.goesOn) ∧
      (∀ (p : Page) (t : State), s.me.sstat.mode = true → Memory.wf t.mem = true → Answers (place c .write va) s (.page p) t →
        p.leaf.getLsbD 10 = false →
        let line := (t.readTarget c p va).loc / 64
        ∃ u, exec (.cdrop x) s = .next u ∧ SameMemoryBut t u (line * 64) 64 ∧
          (u.bytesAt (line * 64) 64 = t.bytesAt (line * 64) 64 ∨
            ∃ old, t.hbmLine line = some old ∧ u.bytesAt (line * 64) 64 = bytesOfLine old.bytes) ∧
          (∀ d ∈ u.dies, ∀ g ∈ d.guests, g.line ≠ line) ∧ (∀ f ∈ u.fills, f.line ≠ line) ∧ (∀ q ∈ u.l1, q.2 ≠ line) ∧
          u.me.ia = s.me.nextIa) ∧
      (∀ (p : Page) (t : State), s.me.sstat.mode = true → Answers (place c .write va) s (.page p) t →
        p.leaf.getLsbD 10 = true → exec (.cdrop x) s = .next t.goesOn) ∧
      (s.me.sstat.mode = false →
        exec (.cdrop x) s = .next (s.after (trapEntry (some (faultOf 1 0 (s.me.head * 2 ^ 16 + 10))) s.me.ia)))) ∧
    (∀ k l, let t := s.flushLine k l
      SameMemory s t ∧ t.hbmLine l = none ∧ (k, l) ∉ t.l1 ∧ ∀ d ∈ t.dies, ∀ g ∈ d.guests, g.line ≠ l)

/-- A value meets a WAITA: equal for WAITEQ, different for WAITNE (R324). -/
def Spec.met (eq : Bool) (v value : Word) : Prop := if eq then v = value else v ≠ value

/-- WAITNE and WAITEQ at their first read (R324, R325): 0 where the condition is met, else 2 where the die's monitor table is full,
else the core takes an entry and stays at the instruction; at a pad address the read is of memory. -/
def Spec.WaitFirstRead : Prop :=
  ∀ (s t : State) (x : WaitF) (v : Word) (q : Place), Spec.Accessing s [x.d, x.a, x.b] → s.me.queue = [] → s.me.monitor = none →
    let a := (s.me.x x.a).toNat
    (a % 8 = 0 → Answers (waitRead a) s (v, q) t →
      let is := fun (i : Instr) (eq : Bool) =>
        (Spec.met eq v (s.me.x x.b) → exec i s = .next (t.wrote x.d 0)) ∧
        (¬ Spec.met eq v (s.me.x x.b) → 256 ≤ (t.die (dieOf s.cur)).monitors → exec i s = .next (t.wrote x.d 2)) ∧
        (¬ Spec.met eq v (s.me.x x.b) → (t.die (dieOf s.cur)).monitors < 256 →
          exec i s = .next ((t.updDie (dieOf s.cur) fun d => { d with monitors := d.monitors + 1 }).updMe fun k =>
            { k with monitor := some { d := x.d, va := a, value := s.me.x x.b, equal := eq, place := q, scx := s.me.scx,
                                       seen := t.watched s.me.scx q a,
                                       deadline := if x.tmo = 0 then none else some (t.cycle + 1024 * x.tmo.toNat) } }))
      is (.waitne x) false ∧ is (.waiteq x) true) ∧
    (a % 8 ≠ 0 → exec (.waitne x) s = .next (s.after (trapEntry (some (faultOf 4 a 0)) s.me.ia)) ∧
      exec (.waiteq x) s = .next (s.after (trapEntry (some (faultOf 4 a 0)) s.me.ia))) ∧
    (∀ loc, Spec.PadRead s a 8 loc → ((s.me.sb.all fun e => !overlaps e.loc e.bytes.length loc 8) = true) →
      Answers (waitRead a) s (Spec.unsigned (s.bytesAt loc 8), .pad loc) (Spec.sawHome s loc))

/-- WAITA_REREAD and WAITA_TIMEOUT (R324): once a re-read meets the condition x[D] is 0, once the timeout has elapsed it is 1, and in
both the monitor entry is freed and the core goes on. Where no write to the doubleword has performed since the last read, nothing is read
again: what counts as one are the writes of its place (`performAt`), and a change of the line that its page selects. -/
def Spec.WaitEnds : Prop :=
  ∀ (s : State) (c : Nat) (m : Monitor), c < s.cores.length → (s.core c).monitor = some m → (s.core c).queue = [] →
    wellFormedIa (s.core c).nextIa = true →
    let r := { s with cur := c }
    (∀ (v : Word) (q : Place) (t : State), m.seen ≠ r.watched m.scx m.place m.va → Answers (waitRead m.va) r (v, q) t →
      Spec.met m.equal v m.value →
      exec (.waitaReread c) s = .next { (t.freeMonitor c).wrote m.d 0 with cur := s.cur }) ∧
    (m.seen = r.watched m.scx m.place m.va → exec (.waitaReread c) s = .next s) ∧
    (∀ n, m.deadline = some n → n ≤ s.cycle →
      exec (.waitaTimeout c) s = .next { (r.freeMonitor c).wrote m.d 1 with cur := s.cur })

/-! ## Control and status registers (R241 to R243, R369, R377) -/

/-- The CSRs that synchronise with the vector unit (R241). -/
def Spec.vectorSide : List Csr := [.flags, .vstart, .ffnr, .mgrant, .cpwp0, .cpwp1, .cpwp2, .cpwp3]

/-- The CSRs that task mode may write (R241). -/
def Spec.taskWritable : List Csr := [.flags, .frm, .scx, .verstat, .paduse]

/-- CSRR, CSRW, CSRS and CSRC (R243): x[D] receives the old value; a write outside supervisor mode of a CSR that task mode may not
write is ignored, and of PTROOT it is undefined-operation, case 10. CPWP_WRITE is CSRW of a write pointer (R222). -/
def Spec.CsrAccess : Prop :=
  ∀ s : State,
    (∀ x : CsrRF, Ready s [x.d] → (x.csr ∈ Spec.vectorSide → Spec.Quiet s) →
      exec (.csrr x) s = .next (s.wrote x.d (s.csrValue x.csr))) ∧
    (∀ x : CsrF, Ready s [x.d, x.a] → (x.csr ∈ Spec.vectorSide → Spec.Quiet s) →
      let old := s.csrValue x.csr
      let a := s.me.x x.a
      let is := fun (i : Instr) (v : Word) =>
        (s.me.sstat.mode = true ∨ x.csr ∈ Spec.taskWritable →
          exec i s = .next ((s.updMe fun k => k.setCsr x.csr v).wrote x.d old)) ∧
        (s.me.sstat.mode = false → x.csr ∉ Spec.taskWritable → x.csr ≠ .ptroot → exec i s = .next (s.wrote x.d old)) ∧
        (s.me.sstat.mode = false → x.csr = .ptroot →
          exec i s = .next (s.after (trapEntry (some (faultOf 1 0 (s.me.head * 2 ^ 16 + 10))) s.me.ia)))
      is (.csrw x) a ∧ is (.csrs x) (old ||| a) ∧ is (.csrc x) (old &&& ~~~a)) ∧
    (∀ x : CpwpF, Ready s [x.d, x.a] → Spec.Quiet s →
      exec (.cpwpWrite x) s = exec (.csrw { d := x.d, a := x.a, csr := [Csr.cpwp0, .cpwp1, .cpwp2, .cpwp3].getD x.ch.toNat .cpwp0 }) s)

/-- The bits of a CSR that a write changes where every other bit reads 0 (R2, R241); none for a register that no CSR instruction
writes. -/
def Spec.csrMask (c : Csr) : Option Word :=
  match c with
  | .flags => some 0x3F
  | .frm => some 0x3
  | .vstart => some 0x0000FFFFFFFF0003
  | .scx | .asid => some 0xFFFF
  | .verstat => some 0xFFFFFFFF00000003
  | .kvroot => some 0x000FFFFFFFFF8001
  | .ptroot => some 0x000FFFFFFFFFF000
  | .cause => some 0xC0000000000000FF
  | .cpwp0 | .cpwp1 | .cpwp2 | .cpwp3 | .eia | .eva | .ekv | .eaux | .tvec => some (BitVec.allOnes 64)
  | _ => none

/-- What a CSR reads after a write of it (R2, R241, R369, R377): the bits its field map lets a write change; SSTAT keeps its read-only
bits, PADUSE stores each field at most at its maximum, and the read-only registers keep their values. No write changes what
another CSR reads; of VQSTAT, whose HEADWAIT may stand for a VVERLD's wait, this is said of every other bit, and of all of it where no
VVERLD is at the head. -/
def Spec.CsrFields : Prop :=
  ∀ (s : State) (c : Csr) (v : Word), s.cur < s.cores.length →
    let t := s.updMe fun k => k.setCsr c v
    t.csrValue c = (match c, Spec.csrMask c with
      | _, some m => v &&& m
      | .sstat, none => (s.csrValue .sstat &&& ~~~0x1A) ||| (v &&& 0x1A)
      | .paduse, none => BitVec.ofNat 64 (min (v.extractLsb' 0 21).toNat 1048576 + min (v.extractLsb' 32 13).toNat 4096 * 2 ^ 32)
      | _, none => s.csrValue c) ∧
    (∀ b, b ≠ c → b ≠ .vqstat → t.csrValue b = s.csrValue b) ∧
    t.csrValue .vqstat &&& ~~~0x100 = s.csrValue .vqstat &&& ~~~0x100 ∧
    ((∀ e f, s.me.queue.head? = some e → e.op ≠ .vverld f) → t.csrValue .vqstat = s.csrValue .vqstat)

/-! ## Traps and returns (R364 to R371, R378 to R380) -/

/-- What a fault writes into the trap registers and SSTAT (R365, R367 to R369): CAUSE takes the code and LATE, EIA the address of J,
EVA and EAUX what the cause gives, EKV only what a KV fault gives; the mode becomes supervisor, PM and PIE keep the mode and IE,
IE is 0, and NEST says whether the core was in supervisor mode. -/
def Spec.saved (t : Trap) (late : Bool) (eia : Word) (held : Bool) (k : Core) : Core :=
  { k with
    cause := (if late then 1#64 <<< 62 else 0) ||| BitVec.ofNat 64 (t.code % 256), eia := eia, eva := t.eva, eaux := t.eaux,
    ekv := t.ekv.getD k.ekv, line := none, settling := none, draining := none,
    sstat := { k.sstat with pm := k.sstat.mode, pie := k.sstat.ie, ie := false, nest := k.sstat.mode, mode := true, held := held } }

/-- No fault has stopped a channel of a core. -/
def Spec.NoneStopped (k : Core) : Prop := ∀ i, i < 4 → (k.chan i).stopped = none

/-- Trap entry of a fault in task mode with an empty queue, and in supervisor mode (R365, R366): a blocked wait is given up, the
trap registers are written, and execution goes on at TVEC. In supervisor mode nothing is held and the held set stays. -/
def Spec.TrapEntry : Prop :=
  ∀ (s v : State) (t : Trap) (eia : Word) (l : Line), s.cur < s.cores.length → t.intr = false →
    wellFormedIa s.me.tvec = true → iaSlot s.me.tvec ≤ lineNh l →
    (s.me.sstat.mode = false → s.me.queue = [] → Spec.NoneStopped s.me →
      Answers (enterLine true s.me.tvec)
        (((s.freeMonitor s.cur).leaveBarriers s.cur).updMe fun k => { Spec.saved t false eia false k with held := [] }) l v →
      Ends (trapEntry (some t) eia) s (v.wentTo s.me.tvec l)) ∧
    (s.me.sstat.mode = true →
      Answers (enterLine true s.me.tvec) ((s.freeMonitor s.cur).updMe (Spec.saved t false eia s.me.sstat.held)) l v →
      Ends (trapEntry (some t) eia) s (v.wentTo s.me.tvec l))

/-- A trap changes no general register of either bank, and TRAP takes it with the address of the next instruction (R364, R365,
R378). -/
def Spec.TrapInstruction : Prop :=
  ∀ (s : State) (x : CodeF),
    exec (.trap x) s = .next (s.after (trapEntry (some (faultOf 28 0 x.code.toNat)) s.me.nextIa)) ∧
    ∀ (t : Trap) (late held : Bool) (eia : Word),
      (Spec.saved t late eia held s.me).task = s.me.task ∧ (Spec.saved t late eia held s.me).sup = s.me.sup

/-- TRAP where the handler's line is entered: a next state at TVEC in supervisor mode, with CAUSE 28, EAUX the code, EIA the next
instruction, and both banks, FLAGS and memory as they were (R365, R367, R378). -/
def Spec.TrapReachesHandler : Prop :=
  ∀ (s v : State) (x : CodeF) (l : Line), s.cur < s.cores.length → wellFormedIa s.me.tvec = true → iaSlot s.me.tvec ≤ lineNh l →
    (if s.me.sstat.mode then
      Answers (enterLine true s.me.tvec)
        ((s.freeMonitor s.cur).updMe (Spec.saved (faultOf 28 0 x.code.toNat) false s.me.nextIa s.me.sstat.held)) l v
    else s.me.queue = [] ∧ Spec.NoneStopped s.me ∧
      Answers (enterLine true s.me.tvec) (((s.freeMonitor s.cur).leaveBarriers s.cur).updMe fun k =>
        { Spec.saved (faultOf 28 0 x.code.toNat) false s.me.nextIa false k with held := [] }) l v) →
    ∃ t, exec (.trap x) s = .next t ∧ t.me.ia = s.me.tvec ∧ t.me.sstat.mode = true ∧ t.me.sstat.pm = s.me.sstat.mode ∧
      t.me.sstat.pie = s.me.sstat.ie ∧ t.me.sstat.ie = false ∧ t.me.cause = 28 ∧ t.me.eia = s.me.nextIa ∧ t.me.eva = 0 ∧
      t.me.eaux = x.code.setWidth 64 ∧ t.me.task = s.me.task ∧ t.me.sup = s.me.sup ∧ t.me.flags = s.me.flags ∧ SameMemory s t

/-- A late fault in task mode (R365, R370, R371): the faulted entry at the head of the queue and the younger ones are held,
VSTART names the point of entry 0, CAUSE.LATE is 1, and EIA is the scalar restart point. `w` is the state in which the younger entries
have reached the points at which they are held (R263); where none of them can have begun it is the state before the trap. The model's
own choice here: which row each of them has reached is log entry 35. -/
def Spec.LateFault : Prop :=
  (∀ (s w v : State) (e : VEntry) (es : List VEntry) (t : Trap) (eia : Word) (l : Line),
    s.me.sstat.mode = false → (s.me.queue.head?.bind VEntry.fault).isSome = true → Ends chainStopped s w →
    w.cur = s.cur → w.cur < w.cores.length → w.me.queue = e :: es → e.fault = some t → t.intr = false → Spec.NoneStopped w.me →
    wellFormedIa w.me.tvec = true → iaSlot w.me.tvec ≤ lineNh l →
    Answers (enterLine true w.me.tvec)
      (((w.freeMonitor w.cur).leaveBarriers w.cur).updMe fun k =>
        { Spec.saved t true eia true k with queue := [], held := (e :: es).map fun q => { q with fault := none }, vstart := e.prog.word }) l v →
    Ends (trapEntry none eia) s (v.wentTo w.me.tvec l)) ∧
  (∀ s : State, (∀ i, 0 < i → s.chainLimit s.cur i = none) → Ends chainStopped s s)

/-- A trap in task mode with no handler fails the task with its cause (R365, R373): the task ends before another instruction. -/
def Spec.NoHandler : Prop :=
  ∀ (s : State) (t : Trap) (eia : Word), s.cur < s.cores.length → t.intr = false → s.me.sstat.mode = false → s.me.queue = [] →
    Spec.NoneStopped s.me → wellFormedIa s.me.tvec = false → s.me.run.isSome = true →
    ∃ u, Ends (trapEntry (some t) eia) s u ∧ u.me.failing = some (BitVec.ofNat 64 (t.code % 256)) ∧ SameMemory s u

/-- ERET and RESUME (R379) in supervisor mode: with PM = 1 the return is to supervisor mode at EIA; otherwise, with a context loaded,
the held entries that the mask leaves return to the head of the queue, entry 0 at VSTART's point, and the task goes on at EIA in
task mode; with none loaded the core becomes idle. In both returns IE takes PIE. In task mode the trap is cause 28 with EAUX[16]
set. The model's own choices here: checks before effects are log entry 37, what idling clears log entry 40. -/
def Obligations.Returns : Prop :=
  ∀ (s u : State) (l : Line), s.cur < s.cores.length → Spec.Quiet s →
    let is := fun (i : Instr) (mask : Word) (f : Nat) =>
      (s.me.sstat.mode = false → exec i s = .next (s.after (trapEntry (some (faultOf 28 0 (0x10000 + f))) s.me.ia))) ∧
      (s.me.sstat.mode = true → s.me.sstat.pm = true → wellFormedIa s.me.eia = true → Answers (enterLine true s.me.eia) s l u →
        iaSlot s.me.eia ≤ lineNh l →
        exec i s = .next ((u.updMe fun k =>
          { k with sstat := { k.sstat with nest := false, mode := true, ie := k.sstat.pie } }).wentTo s.me.eia l)) ∧
      (s.me.sstat.mode = true → s.me.sstat.pm = false → s.me.sstat.loaded = true → wellFormedIa s.me.eia = true →
        Answers (enterLine false s.me.eia) s l u → iaSlot s.me.eia ≤ lineNh l →
        let first := s.me.held.mapIdx fun i e => if i = 0 then
          { e with prog := { row := (s.me.vstart.extractLsb' 32 16).toNat, col := (s.me.vstart.extractLsb' 16 16).toNat,
                             block := (s.me.vstart.extractLsb' 0 2).toNat } } else e
        let kept := (first.zipIdx.filter fun q => !mask.toNat.testBit q.2).map Prod.fst
        exec i s = .next ((u.updMe fun k =>
          { k with queue := kept, held := [], restored := false,
                   sstat := { k.sstat with held := false, nest := false, mode := false, ie := k.sstat.pie } }).wentTo s.me.eia l)) ∧
      (s.me.sstat.mode = true → s.me.sstat.pm = false → s.me.sstat.loaded = false → s.me.reclaim = false →
        ∃ t, exec i s = .next t ∧ t.me.act = .idle ∧ SameMemory s t)
    is .eret 0 1 ∧ ∀ x : R1T2, is (.resume x) (s.me.x x.a) 2

/-- TLBINV (R103): in supervisor mode a release at DEVICE scope, and every store that may leave its core performs. While a store is left
that a translation it removes has given, it waits at its address. Else every row that a channel has begun and every item at a crust
performs, and then no translation or table pointer that the mode in x[B] names is held on any die: mode 0 the
address's of the ASID or global, mode 1 the ASID's, mode 2 all. It completes where no row and no item is left. -/
def Spec.TlbInvalidation : Prop :=
  ∀ (s : State) (x : RabT2), Ready s [x.a, x.b] → Spec.Quiet s → s.me.sstat.mode = true →
    let va := (s.me.x x.a).toNat
    let asid := (s.me.x x.b).extractLsb' 0 16
    let mode := ((s.me.x x.b).extractLsb' 16 2).toNat
    let r := (Spec.released s .device).flushEvery
    let left := ∃ k ∈ r.cores, ∃ w ∈ k.sb, ∃ t, w.via = some t ∧ t.removed va asid mode = true
    (left → exec (.tlbinvAddress x) s = .next r ∧ exec (.tlbinvAsid x) s = .next r ∧ exec (.tlbinvAll x) s = .next r) ∧ (¬ left →
    let goes := fun (t : State) =>
      exec (.tlbinvAddress x) s = .next t.goesOn ∧ exec (.tlbinvAsid x) s = .next t.goesOn ∧ exec (.tlbinvAll x) s = .next t.goesOn ∧
      ∀ d ∈ t.dies, ∀ e ∈ d.tlb,
        (mode = 0 → va < 2 ^ 57 → isPadVa va = false →
          ¬ (e.page.va ≤ va ∧ va < e.page.va + e.page.size ∧ (e.asid = asid ∨ e.page.leaf.getLsbD 5 = true))) ∧
        (mode = 1 → e.asid ≠ asid ∨ e.page.leaf.getLsbD 5 = true) ∧ mode < 2
    (r.rowsLeft = [] → r.itemsLeft = [] → goes (r.tlbinv va asid mode)) ∧
    (∀ u : State, Ends (r.rowsLeft.forM fun c => onCore c deliverRows) r u →
      let t := (u.itemsLeft.foldl State.crustAll u).tlbinv va asid mode
      t.cur < t.cores.length → wellFormedIa t.me.nextIa = true → goes t))

/-- WFI (R380) goes on where an interrupt is pending, whatever IE says, and otherwise waits at its address. -/
def Spec.WaitForInterrupt : Prop :=
  ∀ s : State, Ready s [] → s.me.sstat.mode = true →
    (s.me.preempt.isSome = true ∨ s.me.mgmt = true → exec .wfi s = .next s.goesOn) ∧
    (s.me.preempt = none → s.me.mgmt = false → exec .wfi s = .next s)

/-! ## Saved contexts (R375, R376, R381 to R384) -/

/-- An instruction of OP 0x1A (R381) runs in supervisor mode with nothing in its queue and channels. -/
structure Spec.Saving (s : State) (x : R2T2) : Prop where
  ready : Ready s [x.d, x.a]
  quiet : Spec.Quiet s
  mode : s.me.sstat.mode = true

/-- VQSAVE and VQREST (R381, R384): VQSAVE answers 1 where nothing is held; else the image of the held set is written, nothing is held any
more, and the device knows the image; a fault of a line of it leaves everything as it was. VQREST answers 1 where entries are held and 2
where the image is none that a save wrote; else the image's entries are held, before everything that the core dispatches from then on, and
VSTART takes the fields of its doubleword at +16. -/
def Spec.QueueImages : Prop :=
  ∀ (s u : State) (g : Range) (x : R2T2), Spec.Saving s x →
    let va := (s.me.x x.a).toNat
    let c := s.me.ctx s.cur
    let f := s.flushSb s.cur
    (va % 64 ≠ 0 →
      exec (.vqsave x) s = .next (s.after (trapEntry (some (faultOf 4 va 0x800)) s.me.ia)) ∧
      exec (.vqrest x) s = .next (s.after (trapEntry (some (faultOf 4 va 0)) s.me.ia))) ∧
    (va % 64 = 0 → Answers (checkRange c .write [] va 2112) f g u →
      (s.me.sstat.held = false → exec (.vqsave x) s = .next (u.wrote x.d 1)) ∧
      (∀ w : State, s.me.sstat.held = true →
        let bs := imageOf u.freeCtr s.me.held s.me.vstart
        let fenced := (s.me.held.filter fun e => decide (e.seq < s.me.fenceSeq)).length
        (Ends (g.write c va bs) { u with freeCtr := u.freeCtr + 1 } w →
          exec (.vqsave x) s = .next (({ w with images := (bs, fenced, s.me.held) :: w.images.filter fun q => q.1 != bs }.updMe fun k =>
            { k with held := [], sstat := { k.sstat with held := false } }).wrote x.d 0)) ∧
        ∀ r, Traps (g.write c va bs) { u with freeCtr := u.freeCtr + 1 } r w →
          exec (.vqsave x) s = .next (u.after (trapEntry (some r) s.me.ia)))) ∧
    (∀ (bs : List Byte) (w : State), va % 64 = 0 → Answers (checkRange c .read [] va 2112) f g u →
        Answers (g.read c .read va 2112) u bs w →
      (s.me.sstat.held = true → exec (.vqrest x) s = .next (w.wrote x.d 1)) ∧
      (s.me.sstat.held = false → w.imageEntries bs = none → exec (.vqrest x) s = .next (w.wrote x.d 2)) ∧
      (∀ es, s.me.sstat.held = false → w.imageEntries bs = some es →
        exec (.vqrest x) s = .next ((w.updMe fun k =>
          { k with held := es.2.mapIdx fun i e => { e with seq := k.seq + i }, seq := k.seq + es.2.length,
                   fenceSeq := if es.1 = 0 then k.fenceSeq else k.seq + es.1, vstart := word (leNat ((bs.drop 16).take 8)) &&& 0x0000FFFFFFFF0003, 
                   sstat := { k.sstat with held := true } }).wrote x.d 0)))

/-- CTXSAVE and CTXREST write x[D] with their status (R381); a saved context has left the core: none is loaded, nothing is
held, no register is dirty, and the core holds no group and no slot of its matrix engine (R382). A restored one is loaded,
not yet resumed, and returns to task mode (R383). -/
def Spec.ContextStatus : Prop :=
  ∀ (s t : State) (x : R2T2) (st : Word), Spec.Saving s x → s.cores.length = 160 → s.mxes.length = 40 → s.cur < 160 →
    let va := (s.me.x x.a).toNat
    let c := s.me.ctx s.cur
    (Answers (ctxsave c va) s st t → exec (.ctxsave x) s = .next (t.wrote x.d st) ∧ va % 4096 = 0 ∧ st.toNat ≤ 2 ∧
      (st = 1 ↔ s.me.sstat.loaded = false) ∧
      (st = 0 → t.me.sstat.loaded = false ∧ t.me.sstat.held = false ∧ t.me.held = [] ∧ t.me.dirty = 0 ∧ t.me.run = none ∧
        (∀ g ∈ (t.mxe (s.cur / 4)).groups, g ≠ some (s.cur % 4)) ∧
        ∀ q ∈ (t.mxe (s.cur / 4)).slots, q.owner ≠ some (s.cur % 4))) ∧
    (Answers (ctxrest c va) s st t → exec (.ctxrest x) s = .next (t.wrote x.d st) ∧ va % 4096 = 0 ∧ st.toNat ≤ 4 ∧
      (st = 1 ↔ s.me.sstat.loaded = true) ∧
      (st = 0 → t.me.sstat.loaded = true ∧ t.me.restored = true ∧ t.me.sstat.pm = false ∧ t.me.dirty = 0 ∧ t.me.run.isSome = true)) ∧
    (va % 4096 ≠ 0 →
      exec (.ctxsave x) s = .next (s.after (trapEntry (some (faultOf 4 va 0x800)) s.me.ia)) ∧
      exec (.ctxrest x) s = .next (s.after (trapEntry (some (faultOf 4 va 0x800)) s.me.ia)))

/-- A context block of n bytes at `va` lies in the cluster memory of the executing core's cluster, its first byte at `loc`,
with no error, no seal and no barrier there, and every line's contents defined. -/
structure Spec.BlockAt (s : State) (va loc n : Nat) : Prop where
  aligned : va % 4096 = 0
  inside : 0x01F1000000000000 ≤ va ∧ va + n ≤ 0x01F1000000000000 + 2 ^ 22
  start : loc = clusterLoc (s.cur / 4 * 4) 0 + (va - 0x01F1000000000000)
  memory : Memory.wf s.mem = true
  good : ∀ l, loc / 64 ≤ l → l ≤ (loc + n) / 64 → s.badLines.contains l = false ∧ s.sealOf l = none ∧
    s.vagueSeed l = none ∧ s.barrierOn l = none

/-- CTXSAVE of a loaded context that holds nothing of the matrix engine and no held entry, with MXEAREA 0 (R376, R382): status 0, the
header says SAVED with the shape and the die, the doublewords from +0x08 on are LAUNCH, TASKREC, EIA, the FLAGS to KVROOT and x1 to x31
of the task, MXEAREA stays, and the masks stand at +0xA40. -/
def Spec.ContextSaved : Prop :=
  ∀ (s : State) (x : R2T2) (loc : Nat), Spec.Saving s x → s.cur < 160 → s.cores.length = 160 → s.dies.length = 4 →
    s.me.sb = [] → s.me.sstat.loaded = true → s.me.sstat.held = false → s.me.held = [] →
    (s.mxe (s.cur / 4)).holds (s.cur % 4) = false → (∀ k ∈ s.crusts, k.queue = []) →
    (∀ i, i < 32 → s.me.saveRows i ≤ if s.me.wideFile then (if i < 16 then 128 else 0) else 64) → s.me.window.isOpen = false →
    (s.me.paduse.extractLsb' 32 13).toNat ≤ 4096 →
    Spec.BlockAt s (s.me.x x.a).toNat loc (0x10EA40 + (s.me.paduse.extractLsb' 0 21).toNat) → s.num (loc + 0x50) 8 = 0 →
    ∃ t, exec (.ctxsave x) s = .next t ∧ (x.d ≠ 0 → t.me.x x.d = 0) ∧ t.num (loc + 0x50) 8 = 0 ∧
      t.num loc 8 = 1 + 2 ^ 16 + (if s.me.wideFile then 2 ^ 18 else 0) + 2 ^ 20 * (s.cur / 40) ∧
      t.num (loc + 0x08) 8 = s.me.launch.toNat ∧ t.num (loc + 0x10) 8 = s.me.taskrec.toNat ∧ t.num (loc + 0x18) 8 = s.me.eia.toNat ∧
      t.num (loc + 0x48) 8 = s.me.paduse.toNat ∧ t.num (loc + 0x90) 8 = s.me.flags.toNat ∧ t.num (loc + 0xB0) 8 = s.me.vstart.toNat ∧
      t.num (loc + 0xD0) 8 = s.me.kvroot.toNat ∧ (∀ i : Fin 32, i ≠ 0 → t.num (loc + 0x100 + 8 * (i - 1)) 8 = (s.me.task[i]).toNat) ∧
      t.num (loc + 0xA40) 8192 = s.me.k1.toNat ∧ t.num (loc + 0x2A40) 8192 = s.me.k2.toNat ∧ t.num (loc + 0x4A40) 8192 = s.me.k3.toNat

/-- CTXREST of a saved block with nothing of the matrix engine and no held entry, on a core of its launch's share and its die (R376,
R383): status 0, the task's registers take the block's values, and SAVED is cleared. -/
def Spec.ContextRestored : Prop :=
  ∀ (s : State) (x : R2T2) (loc : Nat), Spec.Saving s x → s.cur < 160 → s.cores.length = 160 → s.dies.length = 4 →
    s.me.sb = [] → s.me.sstat.loaded = false →
    let w := fun off => s.num (loc + off) 8
    Spec.BlockAt s (s.me.x x.a).toNat loc (0x10EA40 + 2 ^ 20) →
    (w 0) % 2 ^ 18 = 1 + 2 ^ 16 → bits (w 0) 21 20 = s.cur / 40 → w 0x50 = 0 → w 0x58 = 0 → w 0x60 = 0 → w 0x68 = 0 →
    (s.shareOf s.cur).map Share.launch = some (w 0x08 % 2 ^ 16) →
    ∃ t, exec (.ctxrest x) s = .next t ∧ (x.d ≠ 0 → t.me.x x.d = 0) ∧ t.num loc 8 = w 0 - 2 ^ 16 ∧ t.me.sstat.loaded = true ∧
      t.me.sstat.held = false ∧ t.me.held = [] ∧ t.me.launch = word (w 0x08) ∧ t.me.taskrec = word (w 0x10) ∧
      t.me.eia = word (w 0x18) ∧ t.me.flags.toNat = w 0x90 % 2 ^ 6 ∧ t.me.frm.toNat = w 0x98 % 4 ∧ t.me.nr.toNat = w 0xA0 % 2 ^ 8 ∧
      t.me.nc.toNat = w 0xA8 % 2 ^ 10 ∧ t.me.vstart = word (w 0xB0) &&& 0x0000FFFFFFFF0003 ∧
      t.me.kvroot = word (w 0xD0) &&& 0x000FFFFFFFFF8001 ∧
      t.me.asid.toNat = w 0xD8 % 2 ^ 16 ∧ (∀ i : Fin 32, i ≠ 0 → t.me.task[i] = word (w (0x100 + 8 * (i - 1)))) ∧
      t.me.k1.toNat = s.num (loc + 0xA40) 8192

/-! ## Tasks and levels (R11, R337 to R342, R351 to R363) -/

/-- A task instruction reads the record at an address (R359, R361): the address is a multiple of 32 and translates for reading
in the task's address space, the core releases, and the bytes are read at home. -/
def Spec.RecordRead (s : State) (a : Nat) (bs : List Byte) (w : State) : Prop :=
  a % 32 = 0 ∧ ∃ (q : Place) (t : State), Answers (place (s.taskCtx s.cur) .read a) s q t ∧
    Answers (vecRead (s.taskCtx s.cur) q a 32) (Spec.released t .device) bs w

/-- The record of 32 bytes that a core pushes: its launch id is the current one's, and it carries the clock of the release. -/
def Spec.record (s : State) (bs : List Byte) (a : Word) : Rec :=
  { addr := a, slot := 0, cp := word (dword bs 0), fp := word (dword bs 8), jb := word (dword bs 16),
    info := word (dword bs 24 / 2 ^ 16 * 2 ^ 16 + s.me.launch.toNat % 2 ^ 16), ck := s.me.ck }

/-- KIND of a record. -/
def Spec.kind (bs : List Byte) : Nat := bits (dword bs 24) 23 16

/-- The launch that a core's task belongs to. -/
def Spec.launch (s : State) : Nat := s.me.launch.toNat % 2 ^ 16

/-- COUNT of a launch has grown by one, in its level record (R342, R351). -/
def Spec.counted (s : State) (launch : Nat) : State :=
  let a := s.sbase + 64 * launch
  s.publish none a (leBytes 8 ((s.num a 8 + 1) % 2 ^ 64))

/-- The 32 bytes of a record in a queue of the scheduler area (R337, R343). -/
def Spec.recordBytes (r : Rec) : List Byte := [r.cp, r.fp, r.jb, r.info].flatMap fun v => leBytes 8 v.toNat

/-- A record joins the bottom of the current core's deque, and the record that the deque's own 32 places hold no more enters the spill
ring (R343, R350). Which place of the ring it takes is the model's choice of log entry 33. -/
def Spec.dequed (s : State) (r : Rec) : State :=
  let dq := s.me.deque
  let n := dq.length - 32
  match if dq.length < 32 then none else dq[n]? with
  | some q =>
    let i := freePlace (dq.take n)
    (s.publish none (s.sbase + 0x1000000 + 32 * (4096 * s.cur + i % 4096)) (Spec.recordBytes q)).updMe fun k =>
      { k with deque := dq.set n { q with slot := i } ++ [r] }
  | none => s.updMe fun k => { k with deque := dq ++ [r] }

/-- A record joins a part of a die's injection queue, and enters its bytes (R343, R350). Which place it takes is the model's choice of log
entry 33. -/
def Spec.injected (s : State) (d part : Nat) (r : Rec) : State :=
  let i := freePlace ((s.die d).inject.map Prod.snd)
  (s.publish none (s.sbase + 0x2400000 + 32 * (65536 * d + i % 65536)) (Spec.recordBytes r)).updDie d fun q =>
    { q with inject := q.inject ++ [(part, { r with slot := i })] }

/-- The place that a record takes of a ring is that of no record still there, so that the ring goes on holding each of them (R343). -/
def Spec.PlacesApart : Prop := ∀ (rs : List Rec) (r : Rec), r ∈ rs → r.slot ≠ freePlace rs

/-- SPAWN, SPAWNG and SPAWNL (R359): status 2 in a cancelled launch, else 3 for a wrong KIND, else for SPAWNL 6, 5 or 4, else 1 without room;
with status 0 the record is pushed and COUNT grows by one, and with any other nothing is pushed or counted. -/
def Spec.SpawnResults : Prop :=
  ∀ (s w : State) (x : R2T2) (bs : List Byte), Ready s [x.d, x.a] → Spec.Quiet s → Spec.RecordRead s (s.me.x x.a).toNat bs w →
    let r := Spec.record w bs (s.me.x x.a)
    let n := Spec.launch w
    let canc := w.cancelled 0 n
    let d := s.cur / 40
    let is := fun (i : Instr) (room : Bool) (pushed : State) => exec i s = .next (
      if canc then w.wrote x.d 2 else if Spec.kind bs ≠ 0 then w.wrote x.d 3 else if room then (Spec.counted pushed n).wrote x.d 0
      else w.wrote x.d 1)
    (is (.spawn x) (decide (w.me.deque.length < 32 + 4096)) (Spec.dequed w r) ∧
      is (.spawng x) (decide (((w.die d).inject.filter fun q => q.1 == 0).length < 61440)) (Spec.injected w d 0 r)) ∧
    (canc = true → exec (.spawnl x) s = .next (w.wrote x.d 2)) ∧
    (canc = false → Spec.kind bs ≠ 1 → exec (.spawnl x) s = .next (w.wrote x.d 3)) ∧
    (∀ (v : State) (lo hi strip : Word) (ch : Nat), canc = false → Spec.kind bs = 1 → Answers (readFrame r.fp) w (lo, hi, strip, ch) v →
      exec (.spawnl x) s = .next (
        if hi.toInt ≤ lo.toInt ∨ strip = 0 then v.wrote x.d 6
        else if (v.die d).bound.getLsbD ch then v.wrote x.d 5
        else match freeLoop (v.die d).loops with
          | none => v.wrote x.d 4
          | some k =>
            (Spec.counted (v.updDie d fun q => { q with loops := q.loops ++ [{
              number := k, task := r, launch := n, next := 0, lo := lo, hi := hi, strip := strip, channel := ch,
              bound := false, live := 0, ck := Clock.reset }] }) n).wrote x.d 0)) ∧
    (∀ ls : List Loop, (freeLoop ls = none ↔ ∀ k, k < 16 → ∃ l ∈ ls, l.number = k) ∧
      ∀ k, freeLoop ls = some k → k < 16 ∧ (∀ l ∈ ls, l.number ≠ k) ∧ ∀ j, j < k → ∃ l ∈ ls, l.number = j)

/-- SPAWN, SPAWNG, SPAWNL, JOIN and YIELD raise misaligned for an address that is no multiple of 32, or of 64 for JOIN (R359 to R361). -/
def Spec.TaskAddresses : Prop :=
  ∀ s : State, s.cur < s.cores.length → s.me.queue = [] →
    let traps := fun (i : Instr) (va aux : Nat) => exec i s = .next (s.after (trapEntry (some (faultOf 4 va aux)) s.me.ia))
    (∀ x : R2T2, (s.me.x x.a).toNat % 32 ≠ 0 →
      traps (.spawn x) (s.me.x x.a).toNat 0 ∧ traps (.spawng x) (s.me.x x.a).toNat 0 ∧ traps (.spawnl x) (s.me.x x.a).toNat 0) ∧
    (∀ x : R3T2, (s.me.x x.a).toNat % 64 ≠ 0 → traps (.join x) (s.me.x x.a).toNat 0x800) ∧
    (∀ x : R1T2, (s.me.x x.a).toNat % 32 ≠ 0 → traps (.yield x) (s.me.x x.a).toNat 0)

/-- A continuation goes to the core's own deque, else to the reserve of its die's injection queue, else it waits (R360). -/
def Spec.continued (s : State) (r : Rec) : State :=
  if s.me.deque.length < 32 + 4096 then Spec.dequed s r
  else if ((s.die (dieOf s.cur)).inject.filter fun q => q.1 == 1).length < 4096 then Spec.injected s (dieOf s.cur) 1 r
  else s.updMe fun k => { k with pendingPush := some r }

/-- JOIN (R360): x[D] is the new value of the counter. On plain pad memory the counter takes old + x[B] in one event; a value that is
exactly 0 counts the continuation at x[A] + 32 and pushes it, and any other value pushes nothing. -/
def Spec.JoinResults : Prop :=
  ∀ (s : State) (x : R3T2), Ready s [x.d, x.a, x.b] → Spec.Quiet s → (s.me.x x.a).toNat % 64 = 0 →
    let a := (s.me.x x.a).toNat
    let c := s.taskCtx s.cur
    (∀ (q : Place) (t w : State) (v : Word), Answers (place c .write a) s q t →
      Answers (joinAdd c q a (s.me.x x.b)) (Spec.released t .device) v w → exec (.join x) s = .next (w.wrote x.d v)) ∧
    (∀ loc, padLoc s.cur a = some loc → s.badLines.contains (loc / 64) = false → s.sealOf (loc / 64) = none →
      s.vagueSeed (loc / 64) = none → s.barrierOn (loc / 64) = none → s.me.sb = [] →
      let new := word (s.num loc 8) + s.me.x x.b
      let u := (s.perform (some s.cur) none loc (leBytes 8 new.toNat)).ackFabric s.cur fun l => l == loc
      let r : Rec := { Spec.record u (u.bytesAt (loc + 32) 32) (word (a + 32)) with
        ck := u.me.ck.join (u.stampOf (loc / 64)) }
      Answers (joinAdd c (.pad loc) a (s.me.x x.b)) s new (if new = 0 then Spec.continued (Spec.counted u (Spec.launch u)) r else u))

/-- JOIN_PUSH_RETRY (R360): a continuation whose push waits is pushed once there is room, and waits on while there is none. The record
that it drives from a deque's own places takes a place of the spill ring, and nothing else of the deque changes (R343, R350; the place is
the model's choice of log entry 33). -/
def Spec.JoinPushRetry : Prop :=
  ∀ (s : State) (c : Nat) (r : Rec), c < s.cores.length → (s.core c).pendingPush = some r →
    ((s.core c).deque.length < 32 + 4096 →
      ∃ t, exec (.joinPushRetry c) s = .next t ∧ (t.core c).pendingPush = none ∧
        let bare := fun (l : List Rec) => l.map fun q => { q with slot := 0 }
        bare (t.core c).deque = bare ((s.core c).deque ++ [r])) ∧
    (32 + 4096 ≤ (s.core c).deque.length → ((s.die (dieOf c)).inject.filter fun q => q.1 == 1).length < 4096 →
      dieOf c < s.dies.length →
      ∃ t, exec (.joinPushRetry c) s = .next t ∧ (t.die (dieOf c)).inject =
          (s.die (dieOf c)).inject ++ [(1, { r with slot := freePlace ((s.die (dieOf c)).inject.map Prod.snd) })] ∧
        (t.core c).pendingPush = none) ∧
    (32 + 4096 ≤ (s.core c).deque.length → 4096 ≤ ((s.die (dieOf c)).inject.filter fun q => q.1 == 1).length →
      exec (.joinPushRetry c) s = .next s)

/-- A core that has become idle (R351): no task is loaded or held, its waits are given up, and an interrupt whose drain is not over is
pending again (R374). -/
def Spec.idled (s : State) : State :=
  ((s.freeMonitor s.cur).leaveBarriers s.cur).updMe fun k =>
    { k.pend (k.draining.map Prod.fst) with
      act := .idle, line := none, queue := [], held := [], run := none, failing := none, deadline := none,
      restored := false, settling := none, draining := none, sstat := { k.sstat with held := false, loaded := false, nest := false, mode := false } }

/-- What END and YIELD wait for on a core with nothing in its queue and channels has happened (R362 step 1): its stores have
performed, its crust commands are complete, and its writes to other devices are acknowledged. -/
def Spec.ended (s : State) : State := ((s.flushSb s.cur).crustAll s.cur).ackFabric s.cur fun _ => true

/-- END (R362) in task mode on a task that is no strip: after its waits, the check of JB and a release, step 2 writes the launch's
completion word, step 3 adds -1 to the join counter where JB is not 0, step 4 takes one from COUNT, and the core is idle. In
supervisor mode END fails the loaded task with the current cause (R373). -/
def Spec.EndResults : Prop :=
  ∀ (s : State), s.cur < s.cores.length → Spec.Quiet s →
    (∀ (r : Rec) (v u1 u2 w : State), s.me.sstat.mode = false → s.me.run = some { task := r, strip := none } → s.me.reclaim = false →
      Ends checkJb (Spec.ended s) v → Ends (endStep2 none 1) (Spec.released v .device) u1 →
      (if r.jb = 0 then u2 = u1 else r.jb.toNat % 64 = 0 ∧
        ∃ q u n, Answers (place (u1.taskCtx s.cur) .write r.jb.toNat) u1 q u ∧
          Answers (joinAdd (u1.taskCtx s.cur) q r.jb.toNat (BitVec.allOnes 64)) u n u2) →
      Ends (countDown (s.taskCtx s.cur) (Spec.launch s)) u2 w →
      exec .endTask s = .next (Spec.idled w)) ∧
    (s.me.sstat.mode = true → s.me.run.isSome = true →
      ∃ t, exec .endTask s = .next t ∧ t.me.failing = some (word (failCause s.me.cause)) ∧ t.me.held = [])

/-- COUNT falls by one (R353, R362): above 1 only the level record's COUNT changes; at 1 a launch without a parent completes: COUNT
is 0, STATE is 2, its share returns to the allocator, and its completion word receives DONE, FAILED where NFAIL is not 0, and
CANCELLED where the launch or a level above is cancelled. -/
def Spec.CountFalls : Prop :=
  (∀ (s : State) (c : Ctx) (launch : Nat), launch < 2 ^ 16 →
    let a := s.sbase + 64 * launch
    a % 64 = 0 → homeOf a ≠ none → Memory.wf s.mem = true → s.badLines.contains (a / 64) = false → s.sealOf (a / 64) = none →
    s.vagueSeed (a / 64) = none →
    (s.num a 8 ≠ 1 → ∃ t, Ends (countDown c launch) s t ∧ t.num a 8 = (s.num a 8 + 2 ^ 64 - 1) % 2 ^ 64 ∧ SameMemoryBut s t a 8) ∧
    (s.num a 8 = 1 → bits (s.num (a + 32) 8) 15 0 = 0 →
      let u0 := s.publish none a (leBytes 8 0)
      let u1 := u0.publish none (a + 8) (leBytes 8 (u0.num (a + 8) 8 / 4 * 4 + 2))
      let u := u1.freeShare launch
      u1.num (a + 8) 8 % 4 = 2 ∧ u.shareOfLaunch launch = none ∧
      ∀ (w : Option Nat) (t : State),
        Answers (deviceUpdate c (u.num (a + 24) 8) (doneWord (u.cancelled 0 launch))) u w t →
        Ends (countDown c launch) s t)) ∧
  ∀ (canc : Bool) (w i : Nat), (doneWord canc w).testBit i =
    (w.testBit i || decide (i = 0) || (decide (i = 1) && decide (bits w 31 16 ≠ 0)) || (decide (i = 2) && canc))

/-- YIELD (R361): after the waits of END and its check of JB, a record of KIND 0 takes the task's place in the reserve of the injection
queue, NFAIL stays, and the core is idle; another KIND is undefined-operation, case 11. -/
def Spec.YieldResults : Prop :=
  ∀ (s : State) (x : R1T2) (q : Place) (t v w : State) (bs : List Byte) (r : Rec), s.cur < s.cores.length → Spec.Quiet s →
    let a := (s.me.x x.a).toNat
    a % 32 = 0 → Answers (place (s.taskCtx s.cur) .read a) s q t →
    (if s.me.sstat.mode then v = Spec.ended t else Ends checkJb (Spec.ended t) v) →
    Answers (vecRead (s.taskCtx s.cur) q a 32) (Spec.released v .device) bs w →
    (Spec.kind bs ≠ 0 →
      exec (.yield x) s = .next (w.after (trapEntry (some (faultOf 1 0 (s.me.head * 2 ^ 16 + 11))) w.me.ia))) ∧
    (∀ u : State, Spec.kind bs = 0 → s.me.run = some { task := r, strip := none } → s.me.reclaim = false →
      ((w.die (dieOf s.cur)).inject.filter fun q => q.1 == 1).length < 4096 → Ends (endStep2 none 0) w u →
      exec (.yield x) s = .next (Spec.idled (Spec.injected u (dieOf s.cur) 1 (Spec.record w bs (s.me.x x.a)))))

/-- The level that a selector names (R363): the kind in [17:16] and the id in [15:0], where 0 is the launch's own of that kind;
none for another level than the launch's in task mode, or where there is none. -/
def Spec.level (s : State) (sel : Word) : Option (Nat × Nat) :=
  let kind := (sel.extractLsb' 16 2).toNat
  let own := (s.me.launch.extractLsb' (16 * kind) 16).toNat
  let id := if sel.extractLsb' 0 16 = 0 then own else (sel.extractLsb' 0 16).toNat
  if id = 0 then none else if s.me.sstat.mode = false ∧ id ≠ own then none else some (kind, id)

/-- LVCANCEL and LVQUERY (R334, R342, R363, R408): all ones for a level that may not be named; LVCANCEL sets CANCEL of the level record,
releases the channels of the loops that this cancels, and answers the old flag; LVQUERY answers CANCEL, CANCEL of the level or one above,
STATE = 2, FAILED of the completion word, which it reads in the address space of the level's share, and COUNT[31:0], and acquires the
flags it read. The model's own choice here: the address space where no launch of the level runs is log entry 43. -/
def Spec.LevelResults : Prop :=
  ∀ (s : State) (x : R2T2), Spec.Accessing s [x.d, x.a] → Spec.Quiet s →
    (Spec.level s (s.me.x x.a) = none → exec (.lvcancel x) s = .next (s.wrote x.d (BitVec.allOnes 64)) ∧
      exec (.lvquery x) s = .next (s.wrote x.d (BitVec.allOnes 64))) ∧
    (∀ kind id, Spec.level s (s.me.x x.a) = some (kind, id) →
      let a := s.sbase + 64 * (65536 * kind + id)
      let u := Spec.released s .device
      let p := u.publish none (a + 16) (leBytes 8 (Nat.lor (u.num (a + 16) 8) 1))
      let freed := (List.range 4).foldl State.releaseLoops p
      exec (.lvcancel x) s = .next (freed.wrote x.d (word (u.num (a + 16) 8 % 2))) ∧
      ((∀ d, d < 4 → ∀ l ∈ (p.die d).loops, ¬ (l.bound = true ∧ p.cancelled 0 l.launch = true)) → freed = p) ∧
      ∀ (t : State) (w : Option (List Byte)),
        (if s.num (a + 24) 8 % 8 = 0 then Answers (deviceRead (s.levelCtx s.cur kind id) (s.num (a + 24) 8) 8) s w t
          else w = none ∧ t = s) →
        let v := t.acquireFlags kind id
        let failed := (leNat (w.getD [])).testBit 1
        ∃ f : Word, exec (.lvquery x) s = .next (v.wrote x.d f) ∧ (f.getLsbD 0 = (v.num (a + 16) 8).testBit 0) ∧
          f.getLsbD 1 = v.cancelled kind id ∧ f.getLsbD 2 = decide (v.num (a + 8) 8 % 4 = 2) ∧ f.getLsbD 3 = failed ∧
          f.extractLsb' 4 28 = 0 ∧ (f.extractLsb' 32 32).toNat = v.num a 4 ∧ (t.cur < t.cores.length →
            ∀ q ∈ t.levelChain 262144 kind id, ∀ d, d < 4 →
              (t.stampOf ((s.sbase + 64 * (65536 * q.1 + q.2)) / 64)).get d ≤ v.me.ck.get d) ∧
          (∀ l i, ∃ rest, t.levelChain (l + 1) kind i = (kind, i) :: rest))

/-- R11: a task begins with x3 its FP, x4 the VA of its record, x5 and x6 the strip's first iteration and count for a loop task, the
narrow shape, NR the lesser of 64 and the launch's ceiling, NC 64, VSTART 0, FLAGS 0, FRM RNE, SCX 0, k0 all true, FFNR 128, VERSTAT
0, PADUSE 0, no open window, no deferred failure, and the address space of the share. -/
def Spec.TaskStartState : Prop :=
  ∀ (k : Core) (no seed cycle ceil : Nat) (levels : Word) (r : Rec) (strip : Option (Nat × Int × Nat)),
    let t := k.start no seed cycle ceil levels r strip
    t.x 3 = r.fp ∧ t.x 4 = r.addr ∧ (∀ n f c, strip = some (n, f, c) → t.x 5 = BitVec.ofInt 64 f ∧ t.x 6 = BitVec.ofNat 64 c) ∧
    t.wide = false ∧ t.wideFile = false ∧ t.nr = BitVec.ofNat 8 (min 64 ceil) ∧ t.nc = 64 ∧ t.vstart = 0 ∧ t.flags = 0 ∧
    t.frm = 0 ∧ t.scx = 0 ∧ t.mask 0 = BitVec.allOnes 65536 ∧ t.ffnr = 128 ∧ t.verstat = 0 ∧ t.paduse = 0 ∧
    t.window.isOpen = false ∧ t.deferred = 0 ∧ t.asid = k.asid ∧ t.ptroot = k.ptroot ∧ t.kvroot = k.kvroot ∧ t.tvec = k.tvec ∧
    t.ia = r.cp ∧ t.act = .running ∧ t.sstat.mode = false ∧ t.sstat.loaded = true ∧ t.launch = levels ∧ t.taskrec = r.addr

/-- TASK_START (R351, R352, R355): an idle core of a share takes the record of its launch nearest the bottom of its own deque; with none,
the next strip of the oldest loop of its launch; with none, the oldest record of its launch in its die's injection queue. The model's
own choice here: records of another launch, which a core that left its share keeps, stay where they are by log entry 40. -/
def Spec.TaskStarts : Prop :=
  ∀ (s : State) (c : Nat) (h : Share), c < s.cores.length → dieOf c < s.dies.length → s.shareOf c = some h →
    (s.core c).act = .idle → (s.core c).pendingPush = none → s.cancelled 0 h.launch = false →
    (∀ r rs qs, (s.core c).deque = rs ++ r :: qs → r.launchId = h.launch → (∀ q ∈ qs, q.launchId ≠ h.launch) →
      wellFormedIa r.cp = true →
      ∃ t, exec (.taskStart c) s = .next t ∧ (t.core c).deque = rs ++ qs ∧
        t.core c = { (s.core c).start s.taskCtr s.freeCtr s.cycle h.ceil h.levels r none with deque := rs ++ qs }) ∧
    (∀ l f n, (∀ q ∈ (s.core c).deque, q.launchId ≠ h.launch) → (s.die (dieOf c)).loops.find? (fun l => l.launch == h.launch && l.nextStrip.isSome) = some l →
      l.nextStrip = some (f, n) → wellFormedIa l.task.cp = true →
      ∃ t, exec (.taskStart c) s = .next t ∧ (t.core c).ia = l.task.cp ∧ (t.core c).act = .running ∧
        (t.core c).task[5] = BitVec.ofInt 64 f ∧ (t.core c).task[6] = BitVec.ofNat 64 n ∧
        (t.core c).run = some { task := l.task, strip := some l.number } ∧
        (l.next = 0 → (t.die (dieOf c)).bound.getLsbD l.channel = decide (l.channel < 16))) ∧
    (∀ r, (∀ q ∈ (s.core c).deque, q.launchId ≠ h.launch) → (∀ l ∈ (s.die (dieOf c)).loops, ¬ (l.launch = h.launch ∧ l.nextStrip.isSome = true)) →
      ((s.die (dieOf c)).inject.find? fun q => q.2.launchId == h.launch) = some r → wellFormedIa r.2.cp = true →
      ∃ t, exec (.taskStart c) s = .next t ∧ t.core c = (s.core c).start s.taskCtr s.freeCtr s.cycle h.ceil h.levels r.2 none ∧
        (t.die (dieOf c)).inject.length + 1 = (s.die (dieOf c)).inject.length) ∧
    (∀ l : Loop, l.nextStrip = (let first : Int := l.lo.toInt + l.next * l.strip.toNat
      if first < l.hi.toInt then some (first, min l.strip.toNat (l.hi.toInt - first).toNat) else none))

/-! ## Vector-class instructions that synchronise (R244 to R246, R326 to R336) -/

/-- The state that an entry of the executing core leaves: it has left the queue, VSTART is 0 where nothing is held (R370), and the
scalar stream goes on (R209, R244). -/
def Spec.ran (s : State) (op : VecOp) (rm : Rm) (a b c d : Option Reg) (t : State) : State :=
  (t.updMe fun k => k.complete (s.entry op rm a b c d)).goesOn

/-- An entry's result goes to its scalar destination in the bank of the mode it was dispatched in (R246). -/
def Spec.gave (s t : State) (d : Reg) (v : Word) : State := t.updMe fun k => k.setXOf s.me.sstat.mode d v

/-- Dispatch and execution (R244, R245): an instruction of the vector class joins the queue with copies of its operands, NR, NC, the
rounding mode, the shape, SCX, KVROOT and the address space, and the scalar stream goes on; the vector unit then runs the entry at
the head of the queue once the acquires before it are answered, which leaves the queue when it completes and stays there, with its fault,
when it faults. The model's own choices here: when the vector unit runs is log entry 6. -/
def Obligations.DispatchAndRun : Prop :=
  (∀ (s : State) (x : VBinF), s.cur < s.cores.length → s.eager = false → s.me.occupied < 32 → wellFormedIa s.me.nextIa = true →
    s.me.pending [x.b] = false → s.me.svWaits = false →
    let e := s.entry (.int .add true x) .frm none (some x.b) none none
    exec (.vaddScalar x) s = .next (s.dispatched (.int .add true x) .frm none (some x.b) none none).goesOn ∧
    (s.dispatched (.int .add true x) .frm none (some x.b) none none).me.queue = s.me.queue ++ [e] ∧
    e.opb = s.me.x x.b ∧ e.nr = s.me.nr.toNat ∧ e.nc = s.me.nc.toNat ∧ e.wide = s.me.wide ∧ e.scx = s.me.scx ∧
    e.kvroot = s.me.kvroot ∧ e.asid = s.me.asid ∧ e.ptroot = s.me.ptroot ∧ e.rm = modeOf s.me.frm .frm ∧
    e.prog = { row := 0, col := 0, block := 0 } ∧ e.fault = none) ∧
  (∀ (s w t : State) (e : VEntry) (es : List VEntry), s.me.queue = e :: es → e.fault = none → Ends (entryGate e) s w → Ends (vexec e) w t →
    Answers stepHead s true (t.updMe fun k => k.complete e)) ∧
  (∀ (s : State) (e : VEntry), e.op.accesses = false ∨ (s.me.issued = 0 ∧ s.crustHas s.cur Item.acq = false) → Ends (entryGate e) s s) ∧
  (∀ (s w t : State) (e f : VEntry) (es : List VEntry) (r : Trap), s.me.queue = e :: es → e.fault = none →
    Ends (entryGate e) s w → Traps (vexec e) w r t →
    t.cur < t.cores.length → t.me.queue = f :: es →
    ∃ u, Answers stepHead s false u ∧ u.me.queue = { f with fault := some r } :: es)

/-- BARINIT, BARARR, BARWAIT and BARKILL at the head of the queue (R328 to R332): BARINIT, BARARR and BARKILL release at DEVICE scope; x[D] is the
status and index, the phase, the status, or the number of waiters. A BARWAIT whose phase has not passed waits, and once it waits its
address is not translated again. -/
def Spec.BarrierInstructions : Prop :=
  ∀ (s t : State) (q : Place), Accepting s →
    let c := s.me.ctx s.cur
    (∀ x : R3T2, (s.me.x x.a).toNat % 64 = 0 →
      let a := (s.me.x x.a).toNat
      let ran := fun u => Spec.ran s (.barinit x) .frm (some x.a) (some x.b) none none u
      Answers (place c .write a) (s.dispatched (.barinit x) .frm (some x.a) (some x.b) none none) q t →
        let u := Spec.released t .device
        let p := u.barrierLine c q a
        let r := u.barInit s.cur p.1 p.2.1 p.2.2 ((s.me.x x.b).toNat % 2 ^ 16) ((s.me.x x.b).extractLsb' 32 6).toNat
        let v := BitVec.ofNat 64 (r.2.1 * 2 ^ 32 + r.2.2)
        exec (.barinit x) s = .next (ran (Spec.gave s r.1 x.d v)) ∧ exec (.barinitUnregister x) s = .next (ran (Spec.gave s r.1 x.d v))) ∧
    (∀ x : R2T2, (s.me.x x.a).toNat % 64 = 0 →
      let a := (s.me.x x.a).toNat
      Answers (place c .read a) (s.dispatched (.bararr x) .frm (some x.a) none none none) q t →
        let u := Spec.released t .device
        let r := u.arrive s.cur (u.barrierAt (u.barrierLine c q a).1)
        exec (.bararr x) s = .next (Spec.ran s (.bararr x) .frm (some x.a) none none none (Spec.gave s r.1 x.d
          (match r.2 with | some p => BitVec.ofNat 64 p | none => BitVec.allOnes 64)))) ∧
    (∀ x : R2T2, (s.me.x x.a).toNat % 64 = 0 →
      let a := (s.me.x x.a).toNat
      Answers (place c .read a) (s.dispatched (.barkill x) .frm (some x.a) none none none) q t →
        let u := Spec.released t .device
        exec (.barkill x) s = .next (Spec.ran s (.barkill x) .frm (some x.a) none none none (
          match u.barrierAt (u.barrierLine c q a).1 with
          | none => Spec.gave s u x.d (BitVec.allOnes 64)
          | some b => Spec.gave s (u.kill s.cur b).1 x.d (BitVec.ofNat 64 b.waiters.length)))) ∧
    (∀ x : R3T2, (s.me.x x.a).toNat % 64 = 0 →
      let a := (s.me.x x.a).toNat
      let d := s.dispatched (.barwait x) .frm (some x.a) (some x.b) none none
      let ran := fun u => Spec.ran s (.barwait x) .frm (some x.a) (some x.b) none none u
      (d.atBarrier s.cur = true → exec (.barwait x) s = .next d.goesOn) ∧
      (d.atBarrier s.cur = false → Answers (place c .read a) d q t →
        match t.barrierAt (t.barrierLine c q a).1 with
        | none => exec (.barwait x) s = .next (ran (Spec.gave s t x.d 2))
        | some b =>
          if b.phase ≠ (s.me.x x.b).toNat % 2 ^ 32 then
            exec (.barwait x) s = .next (ran (Spec.gave s (t.updMe fun k => { k with ck := k.ck.join b.clock }) x.d 0))
          else if b.killed = true then exec (.barwait x) s = .next (ran (Spec.gave s t x.d 1))
          else exec (.barwait x) s = .next (t.joinBarrier b s.cur).goesOn))

/-- Barrier events at a table entry (R327, R329, R330, R332): the outcome of BARINIT in the order of its table; an arrival at a killed or
unregistered line changes nothing; the last arrival of a phase starts the next one; BARKILL keeps ARRIVED and PHASE. The image of an
entry is its state as R327 lays it out. -/
def Spec.BarrierEvents : Prop :=
  ∀ (s : State) (core line h : Nat) (key : Option Nat) (count wanted : Nat), homeOf (line * 64) = some h → h < s.dies.length →
    let bars := (s.die h).bars
    let b? := bars.find? fun b => b.line == line
    let init := s.barInit core line key true count wanted
    (s.barInit core line key false count wanted = (s, 3, 0)) ∧
    (∀ b, b? = some b → b.waiters ≠ [] → init = (s, 1, b.index)) ∧
    (∀ b, b? = some b → b.waiters = [] → count = 0 → init.2 = (0, 0) ∧ init.1.barrierAt line = none) ∧
    (∀ b, b? = some b → b.waiters = [] → count ≠ 0 → init.2 = (0, b.index) ∧
      ∃ n, init.1.barrierAt line = some n ∧ n.count = count ∧ n.arrived = 0 ∧ n.phase = 0 ∧ n.killed = false ∧ n.index = b.index) ∧
    (b? = none → count = 0 → init = (s, 0, 0)) ∧
    (b? = none → count ≠ 0 → wanted ≠ 0 → (∃ b ∈ bars, b.index = wanted) → init = (s, 2, 0)) ∧
    (b? = none → count ≠ 0 → wanted ≠ 0 → (¬ ∃ b ∈ bars, b.index = wanted) → init.2 = (0, wanted) ∧
      ∃ n, init.1.barrierAt line = some n ∧ n.index = wanted ∧ n.count = count ∧ n.arrived = 0 ∧ n.phase = 0 ∧ n.killed = false) ∧
    (b? = none → count ≠ 0 → wanted = 0 → (∀ i, 1 ≤ i → i ≤ 63 → ∃ b ∈ bars, b.index = i) → init = (s, 2, 0)) ∧
    (b? = none → count ≠ 0 → wanted = 0 → (¬ ∀ i, 1 ≤ i → i ≤ 63 → ∃ b ∈ bars, b.index = i) →
      init.2.1 = 0 ∧ 1 ≤ init.2.2 ∧ init.2.2 ≤ 63 ∧ ∃ n, init.1.barrierAt line = some n ∧ n.index = init.2.2 ∧ n.count = count) ∧
    (∀ c, s.arrive c none = (s, none)) ∧
    (∀ (c : Nat) (b : Barrier), b.line = line → b.killed = true → s.arrive c (some b) = (s, none)) ∧
    (∀ (c : Nat) (b : Barrier), b.line = line → b.killed = false → b.waiters = [] → (s.arrive c (some b)).2 = some b.phase ∧
      ∃ n, (s.arrive c (some b)).1.barrierAt line = some n ∧ n.count = b.count ∧ n.killed = false ∧
        (b.arrived + 1 = b.count → n.arrived = 0 ∧ n.phase = (b.phase + 1) % 2 ^ 32 ∧ n.waiters = []) ∧
        (b.arrived + 1 ≠ b.count → n.arrived = b.arrived + 1 ∧ n.phase = b.phase)) ∧
    (∀ b : Barrier, b.line = line → (s.kill core b).2 = b.waiters.length ∧
      ∃ n, (s.kill core b).1.barrierAt line = some n ∧ n.killed = true ∧ n.arrived = b.arrived ∧ n.phase = b.phase ∧ n.waiters = []) ∧
    (∀ b : Barrier, b.image.length = 64 ∧ leNat (b.image.take 8) = b.count % 2 ^ 16 + b.arrived % 2 ^ 16 * 2 ^ 16 + b.phase % 2 ^ 32 * 2 ^ 32 ∧
      (b.index < 64 → leNat ((b.image.drop 8).take 8) = (if b.killed then 1 else 0) + b.index * 256) ∧ ∀ v ∈ b.image.drop 16, v = 0)

/-- A released waiter (R330, R332): the BARWAIT at the head of its core's queue completes with the status in x[D]. -/
def Spec.BarrierRelease : Prop :=
  ∀ (s : State) (c status : Nat) (e : VEntry) (es : List VEntry) (x : R3T2) (ck : Option Clock), c < s.cores.length →
    (s.core c).queue = e :: es → e.op = .barwait x →
    let k := (s.releaseWaiter c status ck).core c
    k.queue = es ∧ (x.d ≠ 0 → e.sup = false → k.task[x.d.toNat] = BitVec.ofNat 64 status) ∧
      (x.d ≠ 0 → e.sup = true → k.sup[x.d.toNat] = BitVec.ofNat 64 status) ∧
      ∀ r, r ≠ x.d → k.task[r.toNat] = (s.core c).task[r.toNat]

/-- POST and WAITI (R334, R336): POST releases at DIE scope and sends to every other mirror of the die, applying its own at once, and on
a released channel it is discarded. WAITI gives 0 once the mirror shows W ≥ x[A] as signed, 1 on a released channel, and
waits otherwise. -/
def Spec.RingInstructions : Prop :=
  ∀ s : State, Accepting s →
    (∀ x : RabT4,
      let u := Spec.released (s.dispatched (.post x) .frm (some x.a) (some x.b) none none) .die
      exec (.post x) s = .next (Spec.ran s (.post x) .frm (some x.a) (some x.b) none none
        (u.sendPost s.cur ((s.me.x x.b).toNat % 16) (s.me.x x.a)))) ∧
    (∀ x : R3T4,
      let ch := (s.me.x x.b).toNat % 16
      let d := s.dispatched (.waiti x) .frm (some x.a) (some x.b) none none
      let ran := fun u => Spec.ran s (.waiti x) .frm (some x.a) (some x.b) none none u
      ((s.die (s.cur / 40)).bound.getLsbD ch = false → exec (.waiti x) s = .next (ran (Spec.gave s d x.d 1))) ∧
      ((s.die (s.cur / 40)).bound.getLsbD ch = true → (s.me.x x.a).toInt ≤ (s.me.mirror.getD ch 0).toInt →
        exec (.waiti x) s = .next (ran (Spec.gave s (d.updMe fun k => { k with ck := k.ck.join (k.mirrorCk.getD ch Clock.reset) }) x.d 0))) ∧
      ((s.die (s.cur / 40)).bound.getLsbD ch = true → (s.me.mirror.getD ch 0).toInt < (s.me.x x.a).toInt →
        exec (.waiti x) s = .next d.goesOn)) ∧
    (∀ (c ch : Nat) (v : Word), ((s.die (c / 40)).bound.getLsbD ch = false → s.sendPost c ch v = s) ∧
      ((s.die (c / 40)).bound.getLsbD ch = true → c < s.cores.length → c / 40 < s.dies.length → ch < 16 →
        let t := s.sendPost c ch v
        (t.core c).mirror.getD ch 0 = (if ((s.core c).mirror.getD ch 0).slt v then v else (s.core c).mirror.getD ch 0) ∧
        ∀ m, m / 40 = c / 40 → m ≠ c → { src := c, core := m, channel := ch, value := v, clock := (s.core c).ck } ∈ (t.die (c / 40)).posts))

/-- POST_ARRIVAL (R334, R336): a post reaches its mirror, which sets W := max(W, i); a post on a released channel is discarded; a post
behind an earlier one of the same sender for the same mirror stays on its way. -/
def Spec.PostArrives : Prop :=
  ∀ (s : State) (d n : Nat) (p : Post), d < s.dies.length → (s.die d).posts[n]? = some p → p.core < s.cores.length → p.channel < 16 →
    (((s.die d).posts.take n).any (fun q => q.src == p.src && q.core == p.core) = true → exec (.postArrival d n) s = .next s) ∧
    (((s.die d).posts.take n).any (fun q => q.src == p.src && q.core == p.core) = false →
      ((s.die d).bound.getLsbD p.channel = false →
        ∃ t, exec (.postArrival d n) s = .next t ∧ (t.die d).posts = (s.die d).posts.eraseIdx n ∧ t.cores = s.cores) ∧
      ((s.die d).bound.getLsbD p.channel = true → (s.core p.core).queue = [] →
        ∃ t, exec (.postArrival d n) s = .next t ∧ (t.die d).posts = (s.die d).posts.eraseIdx n ∧
          (t.core p.core).mirror.getD p.channel 0 = maxSigned ((s.core p.core).mirror.getD p.channel 0) p.value ∧
          ∀ m, m ≠ p.core → t.core m = s.core m))

/-! ## Vector registers and masks (R12, R67, R237 to R240, R256 to R278) -/

/-- The rows that a row file lists are in rising order. -/
def Spec.Rising (f : RowFile) : Prop := f.rows.Pairwise fun p q => p.1 < q.1

/-- Writes of elements (R67, R240, R263): an entry over nr rows and nc columns that gives elements of a type to register d writes
exactly them, zeroes the top two bits of a block that receives 6-bit ones, gives each block that receives one the tag of the type and each row that receives one its exponent tag, ORs their
flags into FLAGS, marks the register dirty as far as it wrote, and leaves all else as it was. -/
def Obligations.ElementWrites : Prop :=
  ∀ (k : Core) (e : VEntry) (d : Reg) (ty : Ty) (f : ElemFn), Spec.Rising k.vregs → e.prog.row = 0 → e.nr ≤ rowMax e.wide →
    e.nc ≤ ty.capacity → (e.wide = true → d.toNat ≤ 15) →
    let t := k.writeElems e d ty f
    let has := fun r b => ∃ c, c < e.nc ∧ (f r c).isSome = true ∧ elemBlock ty c = b
    (∀ r c, r < e.nr → c < e.nc → (t.row e.wide d r).elem ty c =
      match f r c with | some q => q.1 % 2 ^ ty.width | none => (k.row e.wide d r).elem ty c) ∧
    (∀ r c, r < e.nr → e.nc ≤ c → c < ty.capacity → (t.row e.wide d r).elem ty c = (k.row e.wide d r).elem ty c) ∧
    (∀ r b, r < e.nr → b < 4 → (has r b → (t.row e.wide d r).tag b = plainTag ty) ∧
      (¬ has r b → (t.row e.wide d r).tag b = (k.row e.wide d r).tag b)) ∧
    (∀ r b i, ty.width = 6 → r < e.nr → b < 4 → has r b → 510 ≤ i → i < 512 → (t.row e.wide d r).bits.getLsbD (512 * b + i) = false) ∧
    (∀ r, r < e.nr → ((∃ b, has r b) → (t.row e.wide d r).rexp = plainExp ty) ∧
      ((¬ ∃ b, has r b) → t.row e.wide d r = k.row e.wide d r)) ∧
    (∀ (a : Reg) (r : Nat), (e.wide = true → a.toNat ≤ 15) → r < rowMax e.wide → (a ≠ d ∨ e.nr ≤ r) →
      t.row e.wide a r = k.row e.wide a r) ∧
    (∀ i, i < 6 → (t.flags.getLsbD i = true ↔ k.flags.getLsbD i = true ∨
      ∃ r c q, r < e.nr ∧ c < e.nc ∧ f r c = some q ∧ q.2.getLsbD i = true)) ∧
    (∀ i, i < 32 → (t.dirty.getLsbD i = true ↔ k.dirty.getLsbD i = true ∨ (i = d.toNat ∧ ∃ r b, r < e.nr ∧ has r b))) ∧
    (∀ r, r < e.nr → (∃ b, has r b) → (∀ p, r < p → p < e.nr → ¬ ∃ b, has p b) →
      t.vrows[d.toNat] = BitVec.ofNat 8 (max k.vrows[d.toNat].toNat (r + 1))) ∧
    { t with vregs := k.vregs, flags := k.flags, dirty := k.dirty, vrows := k.vrows } = k ∧ Spec.Rising t.vregs

/-- The shape checks of an instruction pass (R263): the shape is empty, or its columns fit the type and a wide shape names no
register above 15. -/
def Spec.Fits (s : State) (cap : Nat) (rs : List Reg) : Prop :=
  s.me.nr = 0 ∨ s.me.nc = 0 ∨ (s.me.nc.toNat ≤ cap ∧ (s.me.wide = true → ∀ r ∈ rs, r.toNat ≤ 15))

/-- An element is active (R239). -/
def Spec.on (s : State) (k : MaskReg) (r c : Nat) : Bool :=
  decide (r < s.me.nr.toNat) && decide (c < s.me.nc.toNat) && s.me.maskBit k r c

/-- Element (r, c) of a vector register as raw bits of a type (R67). -/
def Spec.el (s : State) (a : Reg) (ty : Ty) (r c : Nat) : Nat := (s.me.row s.me.wide a r).elem ty c

/-- The state that an element-wise instruction leaves: each active element of the destination takes `f`, and FLAGS its flags. -/
def Spec.each (s : State) (op : VecOp) (rm : Rm) (b : Option Reg) (d : Reg) (k : MaskReg) (ty : Ty)
    (f : Nat → Nat → Nat × FlagSet) : State :=
  s.coreDone op rm none b none none fun e q => q.writeElems e d ty fun r c => if Spec.on s k r c then some (f r c) else none

/-- The state that a compare leaves: each active bit of the destination mask takes `f`. -/
def Spec.compared (s : State) (op : VecOp) (rm : Rm) (b : Option Reg) (d : MaskReg) (k : MaskReg)
    (f : Nat → Nat → Bool × FlagSet) : State :=
  s.coreDone op rm none b none none fun e q => q.writeMaskBits e d fun r c =>
    if Spec.on s k r c then some (if (f r c).1 then 1 else 0, (f r c).2) else none

/-- A failed shape check (R263): illegal-shape stops the entry at the head of the queue, with nothing written. -/
def Spec.misshapen (s : State) (op : VecOp) (rm : Rm) (b : Option Reg) : State :=
  ((s.dispatched op rm none b none none).updMe fun k => k.headFault (faultOf 21 0 0)).goesOn

/-- Lengths, moves and masks (R257 to R261): SETLEN and SETLENF, VSHAPE, VMOVX and VMOVV with their position check, and the mask
operations; k0 reads all true and discards what it is given. The model's own choices here: the contents after a change of shape
are free (log entries 7 and 54). -/
def Obligations.LengthsMovesAndMasks : Prop :=
  ∀ s : State,
    (∀ x : LenF, Ready s [x.d, x.a, x.b] →
      let nr := min (min (s.me.x x.a).toNat (if s.me.wide then 128 else 64)) (s.rowCeil s.cur)
      let nc := min (s.me.x x.b).toNat x.ty.capacity
      exec (.setlen x) s = .next ((s.updMe fun k => { k with nr := BitVec.ofNat 8 nr, nc := BitVec.ofNat 10 nc }).wrote x.d
        (BitVec.ofNat 64 (nc * 2 ^ 32 + nr)))) ∧
    (∀ x : R1T4, Ready s [x.d] → Spec.Quiet s →
      let nr := min s.me.nr.toNat s.me.ffnr.toNat
      exec (.setlenf x) s = .next ((s.updMe fun k => { k with nr := BitVec.ofNat 8 nr }).wrote x.d
        (BitVec.ofNat 64 (s.me.nc.toNat * 2 ^ 32 + nr)))) ∧
    (Accepting s → ∀ x : ShpF,
      ∃ t, exec (.vshape x) s = .next t ∧ t.me.wide = x.wide ∧ t.me.wideFile = x.wide ∧ t.me.queue = [] ∧
        t.me.nr = BitVec.ofNat 8 (min s.me.nr.toNat (if x.wide then 128 else 64)) ∧
        (s.me.wideFile = x.wide → t.me.vregs = s.me.vregs ∧ t.me.dirty = s.me.dirty ∧ t.me.vrows = s.me.vrows) ∧
        (s.me.wideFile ≠ x.wide → t.me.dirty = 0 ∧ (∀ i : Fin 32, t.me.vrows[i] = 0) ∧
          t.me.vregs = { fill := .free s.freeCtr, rows := [] }) ∧
        t.me.k1 = s.me.k1 ∧ t.me.k2 = s.me.k2 ∧ t.me.k3 = s.me.k3 ∧ t.me.task = s.me.task ∧ t.me.slices = s.me.slices ∧
        t.me.window = s.me.window ∧ SameMemory s t) ∧
    (Accepting s → ∀ x : LenF,
      let r := (s.me.x x.b).toNat % 2 ^ 32
      let c := (s.me.x x.b).toNat / 2 ^ 32
      let ok := fun (v : Reg) => r < rowMax s.me.wide ∧ c < x.ty.capacity ∧ (s.me.wide = true → v.toNat ≤ 15)
      (ok x.a → exec (.vmovx x) s = .next (s.coreDone (.vmovx x) .frm none (some x.b) none none fun e k =>
        k.setXOf e.sup x.d (if x.ty ∈ [.i8, .i16, .i32, .i64, .i4, .b24] then
          (BitVec.ofNat x.ty.width (Spec.el s x.a x.ty r c)).signExtend 64 else BitVec.ofNat 64 (Spec.el s x.a x.ty r c)))) ∧
      (ok x.d → exec (.vmovv x) s = .next (s.coreDone (.vmovv x) .frm (some x.a) (some x.b) none none fun _ k =>
        k.setRow s.me.wide x.d r ((k.row s.me.wide x.d r).write x.ty [(c, (s.me.x x.a).toNat)]
          (if x.ty = .q4n then 0x10FF else (tyCode x.ty).toNat * 256 + 0x7F)
          (if x.ty = .q4n then 0x3F800000 else if x.ty = .b24 then 0x7F else 0)))) ∧
      (¬ ok x.a → exec (.vmovx x) s = .next (Spec.misshapen s (.vmovx x) .frm (some x.b)))) ∧
    (Accepting s → ∀ x : K3F,
      let is := fun (i : Instr) (o : MaskOp) (f : BitVec 65536 → BitVec 65536 → BitVec 65536) =>
        exec i s = .next (s.coreDone (.mask o x.d x.a x.b) .frm none none none none fun _ k =>
          k.setMask x.d (f (s.me.mask x.a) (s.me.mask x.b)))
      is (.kand x) .and (fun a b => a &&& b) ∧ is (.kor x) .or (fun a b => a ||| b) ∧ is (.kxor x) .xor (fun a b => a ^^^ b) ∧
      is (.kandn x) .andn (fun a b => a &&& ~~~b)) ∧
    (Accepting s → ∀ x : K2F, exec (.knot x) s =
      .next (s.coreDone (.mask .not x.d x.a 0) .frm none none none none fun _ k => k.setMask x.d (~~~(s.me.mask x.a)))) ∧
    (Accepting s → ∀ x : KxF,
      let set := (List.range (s.me.nr.toNat * s.me.nc.toNat)).filter fun i =>
        s.me.maskBit x.a (i / s.me.nc.toNat) (i % s.me.nc.toNat)
      exec (.kpop x) s = .next (s.coreDone (.kpop x) .frm none none none none fun e k =>
        k.setXOf e.sup x.d (BitVec.ofNat 64 set.length)) ∧
      exec (.kfirst x) s = .next (s.coreDone (.kfirst x) .frm none none none none fun e k =>
        k.setXOf e.sup x.d (match set.head? with
          | some i => BitVec.ofNat 64 (i % s.me.nc.toNat * 2 ^ 32 + i / s.me.nc.toNat)
          | none => BitVec.allOnes 64))) ∧
    (Accepting s → ∀ x : KsetF,
      ∃ m : BitVec 65536, exec (.kset x) s = .next (s.coreDone (.kset x) .frm (some x.a) none none none fun _ k => k.setMask x.d m) ∧
        (s.me.nc.toNat ≤ 512 → s.me.nr.toNat ≤ 128 → ∀ r c, r < 128 → c < 512 → (m.getLsbD (512 * r + c) = true ↔
          r < s.me.nr.toNat ∧ c < s.me.nc.toNat ∧ r * s.me.nc.toNat + c < (s.me.x x.a).toNat))) ∧
    (∀ (k : Core) (m n : MaskReg) (v : BitVec 65536), k.mask 0 = BitVec.allOnes 65536 ∧ k.setMask 0 v = k ∧
      (m ≠ 0 → (k.setMask m v).mask m = v) ∧ (m ≠ n → (k.setMask m v).mask n = k.mask n))

/-- The integer that raw bits of an integer type hold (R56). -/
def Spec.int (ty : Ty) (v : Nat) : Int :=
  if ty.isSigned then (BitVec.ofNat ty.width v).toInt else ((BitVec.ofNat ty.width v).toNat : Int)

/-- An integer result (R265): wrapped to the width, or with SAT clamped to the range of the type, with the flag SAT where it was
outside. -/
def Spec.result (ty : Ty) (sat : Bool) (i : Int) : Nat × FlagSet :=
  let lo : Int := if ty.isSigned then -(2 ^ (ty.width - 1)) else 0
  let hi : Int := if ty.isSigned then 2 ^ (ty.width - 1) - 1 else 2 ^ ty.width - 1
  if sat = true ∧ i < lo then ((BitVec.ofInt ty.width lo).toNat, 0x20)
  else if sat = true ∧ hi < i then ((BitVec.ofInt ty.width hi).toNat, 0x20)
  else ((BitVec.ofInt ty.width i).toNat, 0)

/-- The types of the integer family (R265). -/
def Spec.intTypes : List Ty := [.i8, .n8, .i16, .n16, .i32, .n32, .i64, .n64]

/-- The integer family (R264 to R266): each operation on each active element, with vB or with the scalar copied at dispatch as
second source; compares write bits of a mask; VSEL selects by the mask, which does not gate it; VIOTA counts columns. -/
def Spec.VectorIntegerResults : Prop :=
  ∀ s : State, Accepting s → ∀ sc : Bool,
    let breg := fun (b : Reg) => if sc then some b else none
    let srcs := fun (a b : Reg) => if sc then [a] else [a, b]
    let second := fun (ty : Ty) (b : Reg) (r c : Nat) => if sc then (s.me.x b).toNat % 2 ^ ty.width else Spec.el s b ty r c
    (∀ x : VBinF, x.ty ∈ Spec.intTypes → Spec.Fits s x.ty.capacity (x.d :: srcs x.a x.b) →
      let w := x.ty.width
      let is := fun (v g : VBinF → Instr) (o : IntOp) (f : Nat → Nat → Nat × FlagSet) =>
        exec ((if sc then g else v) x) s = .next (Spec.each s (.int o sc x) .frm (breg x.b) x.d x.k x.ty fun r c =>
          f (Spec.el s x.a x.ty r c) (second x.ty x.b r c))
      let i := Spec.int x.ty
      let res := Spec.result x.ty x.sat
      let wrap := fun (v : Int) => ((BitVec.ofInt w v).toNat, (0 : FlagSet))
      is .vadd .vaddScalar .add (fun a b => res (i a + i b)) ∧ is .vsub .vsubScalar .sub (fun a b => res (i a - i b)) ∧
      is .vmul .vmulScalar .mul (fun a b => res (i a * i b)) ∧
      is .vmulh .vmulhScalar .mulh (fun a b => wrap (i a * i b / 2 ^ w)) ∧
      is .vand .vandScalar .and (fun a b => (Nat.land a b, 0)) ∧ is .vor .vorScalar .or (fun a b => (Nat.lor a b, 0)) ∧
      is .vxor .vxorScalar .xor (fun a b => (Nat.xor a b, 0)) ∧
      is .vshl .vshlScalar .shl (fun a b => res (i a * 2 ^ (b % w))) ∧
      is .vshr .vshrScalar .shr (fun a b => ((BitVec.ofNat w a >>> (b % w)).toNat, 0)) ∧
      is .vsra .vsraScalar .sra (fun a b => (((BitVec.ofNat w a).sshiftRight (b % w)).toNat, 0)) ∧
      is .vmin .vminScalar .min (fun a b => (if i b < i a then b else a, 0)) ∧
      is .vmax .vmaxScalar .max (fun a b => (if i a < i b then b else a, 0))) ∧
    (∀ x : VUnF, x.ty ∈ Spec.intTypes → Spec.Fits s x.ty.capacity (x.d :: srcs x.a 0) →
      let y : VBinF := { d := x.d, a := x.a, b := 0, k := x.k, ty := x.ty, sat := x.sat }
      let is := fun (v g : VUnF → Instr) (o : IntOp) (f : Int → Int) =>
        exec ((if sc then g else v) x) s = .next (Spec.each s (.int o sc y) .frm none x.d x.k x.ty fun r c =>
          Spec.result x.ty x.sat (f (Spec.int x.ty (Spec.el s x.a x.ty r c))))
      is .vabs .vabsScalar .abs (fun a => |a|) ∧ is .vneg .vnegScalar .neg (fun a => -a)) ∧
    (∀ x : VCmpF, x.ty ∈ Spec.intTypes → Spec.Fits s x.ty.capacity (srcs x.a x.b) →
      let is := fun (v g : VCmpF → Instr) (o : CmpOp) (f : Int → Int → Bool) =>
        exec ((if sc then g else v) x) s = .next (Spec.compared s (.icmp o sc x) .frm (breg x.b) x.d x.k fun r c =>
          (f (Spec.int x.ty (Spec.el s x.a x.ty r c)) (Spec.int x.ty (second x.ty x.b r c)), 0))
      is .vcmpeq .vcmpeqScalar .eq (fun a b => decide (a = b)) ∧ is .vcmplt .vcmpltScalar .lt (fun a b => decide (a < b)) ∧
      is .vcmple .vcmpleScalar .le (fun a b => decide (a ≤ b))) ∧
    (∀ x : VBinF, x.ty ∈ Spec.intTypes → Spec.Fits s x.ty.capacity (x.d :: srcs x.a x.b) →
      exec (if sc then .vselScalar x else .vsel x) s = .next (s.coreDone (.vsel sc x) .frm none (breg x.b) none none fun e k =>
        k.writeElems e x.d x.ty fun r c =>
          some (if s.me.maskBit x.k r c then second x.ty x.b r c else Spec.el s x.a x.ty r c, 0))) ∧
    (∀ (x : VIotaXF) , x.ty ∈ Spec.intTypes → Spec.Fits s x.ty.capacity [x.d] →
      let y : VIotaF := { d := x.d, k := x.k, ty := x.ty, sat := x.sat }
      exec (if sc then .viotaScalar x else .viota y) s = .next (Spec.each s (.viota y) .frm (breg x.b) x.d x.k x.ty fun _ c =>
        ((c + if sc then (s.me.x x.b).toNat else 0) % 2 ^ x.ty.width, 0)))

/-- A failed shape check of an integer instruction leaves the entry stopped and writes nothing (R263). -/
def Spec.ShapeFaults : Prop :=
  ∀ s : State, Accepting s → ∀ x : VBinF, ¬ Spec.Fits s x.ty.capacity [x.d, x.a, x.b] →
    let u := Spec.misshapen s (.int .add false x) .frm none
    exec (.vadd x) s = .next u ∧ u.me.vregs = s.me.vregs ∧ u.me.flags = s.me.flags ∧ u.me.vstart = s.me.vstart ∧
    u.me.queue.map VEntry.fault = [some (faultOf 21 0 0)] ∧ u.me.queue.map VEntry.prog = [{ row := 0, col := 0, block := 0 }]

/-- The format of a type of the floating-point families (R267). -/
def Spec.fmt (ty : Ty) : Fmt := match ty with | .bf16 => fmtBf16 | .fp16 => fmtFp16 | _ => fmtFp32

/-- The types of the floating-point families (R267). -/
def Spec.fpTypes : List Ty := [.fp32, .bf16, .fp16]

/-- The floating-point families (R264, R267 to R269): each operation on each active element, rounded once in the mode of the
instruction, with vB or the scalar copied at dispatch as second source. -/
def Obligations.VectorFloatResults : Prop :=
  ∀ s : State, Accepting s → ∀ sc : Bool,
    let breg := fun (b : Reg) => if sc then some b else none
    let srcs := fun (a b : Reg) => if sc then [a] else [a, b]
    let second := fun (ty : Ty) (b : Reg) (r c : Nat) => if sc then (s.me.x b).toNat % 2 ^ ty.width else Spec.el s b ty r c
    (∀ x : VFpF, x.ty ∈ Spec.fpTypes → Spec.Fits s x.ty.capacity (x.d :: srcs x.a x.b) →
      let f := Spec.fmt x.ty
      let m := modeOf s.me.frm x.rm
      let is := fun (v g : VFpF → Instr) (o : FpOp) (h : Nat → Nat → Nat × FlagSet) =>
        exec ((if sc then g else v) x) s = .next (Spec.each s (.fp o sc x) x.rm (breg x.b) x.d x.k x.ty fun r c =>
          h (Spec.el s x.a x.ty r c) (second x.ty x.b r c))
      is .vfadd .vfaddScalar .add (fun a b => fAdd f m x.sat (f.decode a) (f.decode b)) ∧
      is .vfsub .vfsubScalar .sub (fun a b => fAdd f m x.sat (f.decode a) (f.decode b).neg) ∧
      is .vfmul .vfmulScalar .mul (fun a b => fMul f m x.sat (f.decode a) (f.decode b)) ∧
      is .vfdiv .vfdivScalar .div (fun a b => fDiv f m x.sat (f.decode a) (f.decode b)) ∧
      is .vfmin .vfminScalar .min (fun a b => (fMinMax f false a b, 0)) ∧
      is .vfmax .vfmaxScalar .max (fun a b => (fMinMax f true a b, 0))) ∧
    (∀ x : VFpUF, x.ty ∈ Spec.fpTypes → Spec.Fits s x.ty.capacity (x.d :: srcs x.a 0) →
      let f := Spec.fmt x.ty
      let m := modeOf s.me.frm x.rm
      let y : VFpF := { d := x.d, a := x.a, b := 0, k := x.k, ty := x.ty, rm := x.rm, sat := x.sat }
      let is := fun (v g : VFpUF → Instr) (o : FpOp) (h : Nat → Nat × FlagSet) =>
        exec ((if sc then g else v) x) s = .next (Spec.each s (.fp o sc y) x.rm none x.d x.k x.ty fun r c =>
          h (Spec.el s x.a x.ty r c))
      is .vfsqrt .vfsqrtScalar .sqrt (fun a => fSqrt f m x.sat (f.decode a)) ∧
      is .vfabs .vfabsScalar .abs (fun a => (if f.decode a = .nan then f.nanBits else a % 2 ^ (f.width - 1), 0)) ∧
      is .vfneg .vfnegScalar .neg (fun a => (if f.decode a = .nan then f.nanBits else Nat.xor a (2 ^ (f.width - 1)), 0)) ∧
      is .vfrcp .vfrcpScalar .rcp (fun a => fDiv f m x.sat (.fin false 1 0) (f.decode a)) ∧
      is .vfrsq .vfrsqScalar .rsq (fun a => fRsq f m x.sat (f.decode a)) ∧
      is .vfexp2 .vfexp2Scalar .exp2 (fun a => fExp2 f m x.sat (f.decode a)) ∧
      is .vflog2 .vflog2Scalar .log2 (fun a => fLog2 f m x.sat (f.decode a))) ∧
    (∀ x : VFCmpF, x.ty ∈ Spec.fpTypes → Spec.Fits s x.ty.capacity (srcs x.a x.b) →
      let f := Spec.fmt x.ty
      let is := fun (v g : VFCmpF → Instr) (o : CmpOp) =>
        exec ((if sc then g else v) x) s = .next (Spec.compared s (.fcmp o sc x) x.rm (breg x.b) x.d x.k fun r c =>
          fCompare o (f.decode (Spec.el s x.a x.ty r c)) (f.decode (second x.ty x.b r c)))
      is .vfcmpeq .vfcmpeqScalar .eq ∧ is .vfcmplt .vfcmpltScalar .lt ∧ is .vfcmple .vfcmpleScalar .le) ∧
    (∀ x : VFmaF, x.ty ∈ Spec.fpTypes → Spec.Fits s x.ty.capacity [x.d, x.a, x.b, x.c] →
      let f := Spec.fmt x.ty
      let m := modeOf s.me.frm x.rm
      let is := fun (i : Instr) (o : FmaOp) (h : Val → Val → Val → Nat × FlagSet) =>
        exec i s = .next (Spec.each s (.fma o x) x.rm none x.d x.k x.ty fun r c =>
          h (f.decode (Spec.el s x.a x.ty r c)) (f.decode (Spec.el s x.b x.ty r c)) (f.decode (Spec.el s x.c x.ty r c)))
      is (.vfma x) .fma (fFma f m x.sat) ∧ is (.vfms x) .fms (fun a b c => fFma f m x.sat a b c.neg) ∧
      is (.vfnma x) .fnma (fun a b c => fFma f m x.sat a.neg b c))

/-- The special cases of VFRCP, VFRSQ, VFEXP2 and VFLOG2 (R268), and their exact results: the reciprocal square root is rounded once from
the real one, 2^i and log2 2^i are exact within the range of the type (R267). -/
def Spec.VectorFunctionEdges : Prop :=
  ∀ f ∈ [fmtFp32, fmtBf16, fmtFp16], ∀ (mode : Mode) (sat p : Bool) (m : Nat) (e : Int), 0 < m →
    let one : Val := .fin false 1 0
    let nil : Nat := 0
    fDiv f mode sat one (.fin p 0 e) = (f.infBits p, fDZ) ∧ fDiv f mode sat one (.inf p) = (if p then 2 ^ (f.width - 1) else 0, 0) ∧
    fRsq f mode sat (.fin p 0 e) = (f.infBits p, fDZ) ∧ fRsq f mode sat (.fin true m e) = (f.nanBits, fNV) ∧
    fRsq f mode sat (.inf false) = (nil, 0) ∧ fRsq f mode sat (.inf true) = (f.nanBits, fNV) ∧
    fExp2 f mode sat (.inf true) = (nil, 0) ∧ fExp2 f mode sat (.inf false) = (f.infBits false, 0) ∧
    fLog2 f mode sat (.fin p 0 e) = (f.infBits true, fDZ) ∧ fLog2 f mode sat (.fin true m e) = (f.nanBits, fNV) ∧
    fLog2 f mode sat (.inf false) = (f.infBits false, 0) ∧ fLog2 f mode sat (.inf true) = (f.nanBits, fNV) ∧
    fLog2 f mode sat one = (nil, 0) ∧
    fRsq f mode sat .nan = (f.nanBits, 0) ∧ fExp2 f mode sat .nan = (f.nanBits, 0) ∧ fLog2 f mode sat .nan = (f.nanBits, 0) ∧
    (1 / Real.sqrt (Spec.real false m e) ≤ Spec.real false f.maxM f.maxE →
      Spec.RoundedOnce f mode false (1 / Real.sqrt (Spec.real false m e)) (fRsq f mode sat (.fin false m e))) ∧
    (∀ i : Int, f.emin ≤ i → i ≤ f.bias →
      fExp2 f mode sat (.fin (decide (i < 0)) i.natAbs 0) = (((i + f.bias).toNat * 2 ^ f.fbits), 0) ∧
      fLog2 f mode sat (.fin false 1 i) = f.round mode sat (.fin (decide (i < 0)) i.natAbs 0))

/-- Some precision of the model tells how a real rounds: both ends of its enclosure round alike (log entry 55). -/
def Spec.Decided (mode : Mode) (v : Nat → Enc) : Prop := ∃ p ∈ precisions, (roundEnc fmtFp32 mode false p 0 (v p)).isSome = true

/-- An enclosure at each precision holds a real. -/
def Spec.Encloses (v : Nat → Enc) (y : ℝ) : Prop := ∀ p ∈ precisions, ((v p).lo : ℝ) ≤ y * 2 ^ p ∧ y * 2 ^ p ≤ ((v p).hi : ℝ)

/-- The turn functions and Gumbel noise (R276, R278): cos and sin of 2πφ ÷ 2^32 and −ln(−ln u), u = ((h >> 8) + 0.5) × 2^−24, as exact reals
rounded once; exact at a quarter turn, where zero is +0. -/
def Spec.TurnsAndNoiseAreRounded : Prop :=
  (∀ (mode : Mode) (w neg : Bool) (φ : Nat), φ < 2 ^ 32 →
    let y : ℝ := if w then Real.sin (2 * Real.pi * φ / 2 ^ 32) else Real.cos (2 * Real.pi * φ / 2 ^ 32)
    (neg = true ↔ y < 0) →
    (φ % 2 ^ 30 = 0 → Spec.Encodes fmtFp32 (fTurn fmtFp32 mode w φ).1 y ∧ (fTurn fmtFp32 mode w φ).2 = 0 ∧
      (y = 0 → (fTurn fmtFp32 mode w φ).1 = 0)) ∧
    (φ % 2 ^ 30 ≠ 0 → Spec.Encloses (turnEnc w φ) y ∧
      (Spec.Decided mode (turnEnc w φ) → Spec.RoundedOnce fmtFp32 mode neg y (fTurn fmtFp32 mode w φ)))) ∧
  (∀ (h : Nat) (neg : Bool), h < 2 ^ 32 →
    let u : ℝ := ((h / 256 : Nat) + 1 / 2) / 2 ^ 24
    let y : ℝ := -Real.log (-Real.log u)
    (neg = true ↔ y < 0) → Spec.Encloses (gumbelEnc h) y ∧
      (Spec.Decided .rne (gumbelEnc h) → Spec.RoundedOnce fmtFp32 .rne neg y (fGumbel h)))

/-- The source rows of a conversion pass the checks of R76, or the shape is empty. -/
def Spec.Sourced (s : State) (a : Reg) (lo : Nat) (ok : Ty → Bool) : Prop :=
  s.me.nr = 0 ∨ s.me.nc = 0 ∨
    ∀ r, r < s.me.nr.toNat → (s.me.row s.me.wide a r).srcBad lo (lo + s.me.nc.toNat) ok = false

/-- The nearest integer of a real number, ties to even (R80). -/
noncomputable def Spec.rne (q : ℝ) : Int :=
  if Int.fract q < 1 / 2 then ⌊q⌋ else if 1 / 2 < Int.fract q then ⌊q⌋ + 1 else if ⌊q⌋ % 2 = 0 then ⌊q⌋ else ⌊q⌋ + 1

/-- The integer that a mode rounds a real number to (R71). -/
noncomputable def Spec.toInt (mode : Mode) (q : ℝ) : Int :=
  match mode with | .rne => Spec.rne q | .rtz => if 0 ≤ q then ⌊q⌋ else ⌈q⌉ | .rdn => ⌊q⌋ | .rup => ⌈q⌉

/-- The largest finite value of a format (R57, R58). -/
noncomputable def Spec.largest (f : Fmt) : ℝ := Spec.real false f.maxM f.maxE

/-- A magnitude q that is rounded with an unbounded exponent exceeds the largest finite value (R72): it reaches the next value, or goes
up to it. Of the formats E4M3 alone has an even largest significand, which a tie goes to. -/
def Spec.Over (f : Fmt) (mode : Mode) (neg : Bool) (q : ℝ) : Prop :=
  let next := Spec.largest f + (2 : ℝ) ^ f.maxE
  let half := Spec.largest f + (2 : ℝ) ^ (f.maxE - 1)
  match mode with
  | .rne => half < q ∨ (q = half ∧ f.maxM % 2 = 1)
  | .rtz => next ≤ q
  | .rdn => if neg then Spec.largest f < q else next ≤ q
  | .rup => if neg then next ≤ q else Spec.largest f < q

/-- Conversion of a value to a type (R73): NaN, infinities, zero, values beyond the largest finite one with SAT clear and set, values within
it, and integers from reals and from integers. -/
def Spec.ConvertedValues : Prop :=
  (∀ (mode : Mode) (sat i : Bool),
    (∀ q ∈ [(Ty.fp32, 0x7FC00000, 0x7F800000, 0x80000000), (.bf16, 0x7FC0, 0x7F80, 0x8000), (.fp16, 0x7E00, 0x7C00, 0x8000), (.e5m2, 0x7E, 0x7C, 0x80)],
      convertTo q.1 mode sat .nan i = (q.2.1, 0) ∧ ∀ p : Bool, convertTo q.1 mode sat (.inf p) i = (q.2.2.1 + if p then q.2.2.2 else 0, 0)) ∧
    convertTo .e4m3 mode sat .nan i = (0x7F, 0) ∧ (∀ p : Bool, convertTo .e4m3 mode sat (.inf p) i = (0x7F, 0x10)) ∧
    (∀ q ∈ [(Ty.e3m2, 0x1F, 0x20), (.e2m3, 0x1F, 0x20), (.e2m1, 0x7, 0x8)], convertTo q.1 mode sat .nan i = (0, 0x10) ∧
      ∀ p : Bool, convertTo q.1 mode sat (.inf p) i = (q.2.1 + if p then q.2.2 else 0, 0x20)) ∧
    convertTo .q4n mode sat .nan i = (7, 0x10) ∧ (∀ p : Bool, convertTo .q4n mode sat (.inf p) i = (if p then 0 else 15, 0x20))) ∧
  (∀ (ty : Ty) (f : Fmt) (mode : Mode) (sat neg i : Bool) (m : Nat) (e : Int), ty ≠ .a36 → ty.fmt? = some f →
    let r := convertTo ty mode sat (.fin neg m e) i
    let q := Spec.real false m e
    let sign := if neg then 2 ^ (f.width - 1) else 0
    let small := ty ∈ [.e3m2, .e2m3, .e2m1]
    let up := mode = .rne ∨ (mode = .rdn ∧ neg = true) ∨ (mode = .rup ∧ neg = false)
    (m = 0 → r = (sign, 0)) ∧
    (0 < m → q ≤ Spec.largest f → Spec.RoundedOnce f mode neg (Spec.real neg m e) r) ∧
    (Spec.largest f < q → ¬ Spec.Over f mode neg q → Spec.Encodes f r.1 (if neg then - Spec.largest f else Spec.largest f) ∧ r.2 = 0x01) ∧
    (Spec.Over f mode neg q →
      ((sat = true ∨ small ∨ ¬ up) → Spec.Encodes f r.1 (if neg then - Spec.largest f else Spec.largest f)) ∧
      (sat = false → ¬ small → up → r.1 = if ty = .e4m3 then 0x7F else sign + (2 ^ f.ebits - 1) * 2 ^ f.fbits) ∧
      r.2 = if sat = true ∨ small then 0x25 else 0x05)) ∧
  (∀ (mode : Mode) (sat neg i : Bool) (m : Nat) (e : Int),
    convertTo .q4n mode sat (.fin neg m e) i = roundQ4n (.fin neg m e) ∧
    (1 < Spec.real false m e → roundQ4n (.fin neg m e) = (if neg then 0 else 15, 0x21)) ∧ roundQ4n (.fin neg 0 e) = (7, 0)) ∧
  (∀ ty : Ty, ty.isInt = true → ∀ (mode : Mode) (sat neg : Bool) (m : Nat) (e : Int),
    let lo : Int := if ty.isSigned then -(2 ^ (ty.width - 1)) else 0
    let hi : Int := if ty.isSigned then 2 ^ (ty.width - 1) - 1 else 2 ^ ty.width - 1
    let as := fun (i : Int) => (BitVec.ofInt ty.width i).toNat
    let q := Spec.real neg m e
    let i := Spec.toInt mode q
    convertTo ty mode sat .nan false = (0, 0x10) ∧ (∀ p : Bool, convertTo ty mode sat (.inf p) false = (as (if p then lo else hi), 0x10)) ∧
    (i < lo → convertTo ty mode sat (.fin neg m e) false = (as lo, 0x10)) ∧ (hi < i → convertTo ty mode sat (.fin neg m e) false = (as hi, 0x10)) ∧
    (lo ≤ i → i ≤ hi → (convertTo ty mode sat (.fin neg m e) false).1 = as i ∧
      ((i : ℝ) = q → (convertTo ty mode sat (.fin neg m e) false).2 = 0) ∧ ((i : ℝ) ≠ q → (convertTo ty mode sat (.fin neg m e) false).2 = 0x01)) ∧
    convertTo ty mode sat (.fin neg m 0) true = Spec.result ty sat (if neg then -(m : Int) else m)) ∧
  (∀ (neg : Bool) (m : Nat) (e : Int), Spec.real false m e ≤ 1 → 0 < m →
    let c := (roundQ4n (.fin neg m e)).1
    let book := fun (c : Nat) => ((q4nBook.getD c 0 : Int) : ℝ) / 256
    c < 16 ∧ (∀ d, d < 16 → |Spec.real neg m e - book c| ≤ |Spec.real neg m e - book d|) ∧
    (∀ d, d < 16 → |Spec.real neg m e - book c| = |Spec.real neg m e - book d| → |book c| ≤ |book d|) ∧
    ((roundQ4n (.fin neg m e)).2 = 0 ↔ Spec.real neg m e = book c))

/-- What an instruction that writes rows of a register leaves of a core: every other row, and all but the flags and the dirty marks, as it
was. -/
def Spec.RowsOnly (k w : Core) (wide : Bool) (d : Reg) (rows : Nat → Prop) : Prop :=
  (∀ (a : Reg) (r : Nat), (∀ p, rows p → fileRow wide a r ≠ fileRow wide d p) → w.row wide a r = k.row wide a r) ∧
  { w with vregs := k.vregs, flags := k.flags, dirty := k.dirty, vrows := k.vrows } = k

/-- FLAGS takes the flags of each row below nr. -/
def Spec.FlagsOf (k w : Core) (nr : Nat) (fl : Nat → FlagSet) : Prop :=
  ∀ i, i < 6 → (w.flags.getLsbD i = true ↔ k.flags.getLsbD i = true ∨ ∃ r, r < nr ∧ (fl r).getLsbD i = true)

/-- The real number of a finite value. -/
noncomputable def Spec.valReal (v : Val) : ℝ := match v with | .fin n m e => Spec.real n m e | _ => 0

/-- emax of R79. -/
def Spec.emax (ty : Ty) : Int := match ty with | .e4m3 => 8 | .e5m2 => 15 | .e3m2 => 4 | _ => 2

/-- The scale that R79 gives a block of finite values: 127 where all are zero, else that of the greatest magnitude, clamped. -/
def Spec.Scale (ty : Ty) (vs : List Val) (sc : Nat) : Prop :=
  ((∀ v ∈ vs, Spec.valReal v = 0) → sc = 127) ∧
  (∀ v ∈ vs, Spec.valReal v ≠ 0 → (∀ u ∈ vs, |Spec.valReal u| ≤ |Spec.valReal v|) → ∀ k : Int, (2 : ℝ) ^ k ≤ |Spec.valReal v| →
    |Spec.valReal v| < (2 : ℝ) ^ (k + 1) → (sc : Int) = max 0 (min 254 (k - Spec.emax ty + 127)))

/-- One element of VQPACK (R79): a scaled value beyond the largest finite one, before rounding or after, is that value with OF, NX and SAT;
any other is converted as R73 says, with SAT. -/
def Spec.Packed (ty : Ty) (f : Fmt) (mode : Mode) (sc : Nat) (neg : Bool) (m : Nat) (e : Int) (r : Nat × FlagSet) : Prop :=
  let y := e + 127 - (sc : Int)
  (Spec.largest f < Spec.real false m y → Spec.Encodes f r.1 (if neg then - Spec.largest f else Spec.largest f) ∧ r.2 = 0x25) ∧
  (Spec.real false m y ≤ Spec.largest f → r = convertTo ty mode true (.fin neg m y) false)

/-- VQPACK (R79) on row r: `val` gives the source values, `fl` what the row raises. -/
def Spec.PackedRow (x : QpackF) (f : Fmt) (mode : Mode) (old new : VRow) (cols : Nat → List Nat) (val : Nat → Val) (fl : FlagSet) : Prop :=
  ∃ (sc : Nat → Nat) (g : Nat → Nat × FlagSet),
    (∀ b, b < 4 → let bad := ∃ c ∈ cols b, (val c).isFin = false
      (cols b = [] → new.tag b = old.tag b) ∧ (cols b ≠ [] → new.tag b = (tyCode x.ty).toNat * 256 + sc b) ∧
      (bad → sc b = 0xFF ∧ ∀ c ∈ cols b, g c = (0, 0x10)) ∧
      (¬ bad → cols b ≠ [] → sc b ≤ 254 ∧ Spec.Scale x.ty ((cols b).map val) (sc b) ∧
        ∀ c ∈ cols b, ∀ n m e, val c = .fin n m e → Spec.Packed x.ty f mode (sc b) n m e (g c)) ∧
      (∀ c, c < x.ty.capacity → elemBlock x.ty c = b → new.elem x.ty c = if c ∈ cols b then (g c).1 else old.elem x.ty c)) ∧
    (∀ i, i < 6 → (fl.getLsbD i = true ↔ ∃ b c, b < 4 ∧ c ∈ cols b ∧ (g c).2.getLsbD i = true)) ∧
    ((∀ b, b < 4 → cols b = []) → new = old) ∧ ((∃ b, b < 4 ∧ cols b ≠ []) → new.rexp = 0)

/-- VBACC (R80) on row r: `cols` are its active columns and `val` the values added. -/
def Spec.AccRow (old new : VRow) (cols : List Nat) (val : Nat → Val) (fl : FlagSet) : Prop :=
  let b24 := ∀ b, b < 4 → old.tag b / 256 = 18
  ∃ (e0 : Nat) (ms : Nat → Int), (b24 → e0 = old.rexp.toNat % 256 ∧ ∀ c, c < 64 → ms c = (BitVec.ofNat 24 (old.elem .b24 c)).toInt) ∧
    (¬ b24 → e0 = 0 ∧ ∀ c, ms c = 0) ∧
    (cols = [] → new = old ∧ fl = 0) ∧
    (cols ≠ [] → (e0 = 0xFF ∨ ∃ c ∈ cols, (val c).isFin = false) → new = old ∧ fl = 0x10) ∧
    (cols ≠ [] → e0 ≠ 0xFF → (∀ c ∈ cols, (val c).isFin = true) →
      let moved := fun (e c : Nat) => (ms c : ℝ) * (2 : ℝ) ^ ((e0 : Int) - e)
      let added := fun (e c : Nat) => Spec.valReal (val c) * (2 : ℝ) ^ ((150 : Int) - e)
      let sum := fun (e c : Nat) => Spec.rne (moved e c) + Spec.rne (added e c)
      let fits := fun (e : Nat) => ∀ c ∈ cols, |sum e c| ≤ 2 ^ 23 - 1
      ∃ e1 : Nat, e0 ≤ e1 ∧ e1 ≤ 254 ∧ (∀ e, e0 ≤ e → e < e1 → ¬ fits e) ∧ (e1 < 254 → fits e1) ∧
        (∀ c, c < 64 → new.elem .b24 c = (BitVec.ofInt 32 (if c ∉ cols then Spec.rne (moved e1 c) else
          if sum e1 c < -(2 ^ 23 - 1) then -(2 ^ 23 - 1) else if 2 ^ 23 - 1 < sum e1 c then 2 ^ 23 - 1 else sum e1 c)).toNat) ∧
        (∀ b, b < 4 → new.tag b = 18 * 256 + e1) ∧ new.rexp = BitVec.ofNat 32 e1 ∧
        (fl.getLsbD 0 = true ↔ (∃ c, c < 64 ∧ (Spec.rne (moved e1 c) : ℝ) ≠ moved e1 c) ∨ ∃ c ∈ cols, (Spec.rne (added e1 c) : ℝ) ≠ added e1 c) ∧
        (fl.getLsbD 2 = true ↔ ¬ fits e1) ∧ (fl.getLsbD 5 = true ↔ ¬ fits e1) ∧ fl &&& 0x1A = 0)

/-- A scale that moves by n (R82). -/
def Spec.moved (sc : Nat) (n : Int) : Nat × FlagSet :=
  if 254 < sc + n then (254, 0x24) else if sc + n < 0 then (0, 0x22) else ((sc + n).toNat, 0)

/-- VSCALE (R82) on a row that has an active element. -/
def Spec.ScaledRow (src new : VRow) (n : Int) (fl : FlagSet) : Prop :=
  let ex := src.rexp.toNat % 256
  let b24 := ∀ b, b < 4 → src.tag b / 256 = 18
  new.bits = src.bits ∧
  (b24 → ex = 0xFF → new = src ∧ fl = 0) ∧
  (b24 → ex ≠ 0xFF → (∀ b, b < 4 → new.tag b = 18 * 256 + (Spec.moved ex n).1) ∧ new.rexp = BitVec.ofNat 32 (Spec.moved ex n).1 ∧ fl = (Spec.moved ex n).2) ∧
  (¬ b24 → new.rexp = src.rexp ∧
    let stays := fun (b : Nat) => src.tag b / 256 ∈ [0xFF, 16, 18] ∨ src.tag b % 256 = 0xFF
    (∀ b, b < 4 → (stays b → new.tag b = src.tag b) ∧ (¬ stays b → new.tag b = src.tag b / 256 * 256 + (Spec.moved (src.tag b % 256) n).1)) ∧
    ∀ i, i < 6 → (fl.getLsbD i = true ↔ ∃ b, b < 4 ∧ ¬ stays b ∧ (Spec.moved (src.tag b % 256) n).2.getLsbD i = true))

/-- Conversions (R73, R76 to R82): VCVT and VCVTD convert each active element from the type of its block, VCVTD with the block's scale;
VQPACK, VBACC and VSCALE work row by row; VBNORM gives the FP32 value of each B24 element; each value is converted as the table of R73
has it. The model's own choices here: scales of infinities and one rounding after the product are log entry 22, VBACC adding x without
its block scale log entry 63, VSCALE bounding NC by its source alone log entry 64. -/
def Obligations.ConversionResults : Prop :=
  (∀ s : State, Accepting s → Spec.Rising s.me.vregs →
    let nr := s.me.nr.toNat
    let nc := s.me.nc.toNat
    let rows := (List.range nr)
    let rowOf := fun (k : Core) (a : Reg) (r : Nat) => k.row s.me.wide a r
    let cols := fun (k : MaskReg) (r : Nat) => (List.range nc).filter fun c => Spec.on s k r c
    let leaves := fun (i : Instr) (op : VecOp) (rm : Rm) (b : Option Reg) (d : Reg) (k : MaskReg) (row : Nat → VRow → VRow → FlagSet → Prop) =>
      ∃ (w : Core) (fl : Nat → FlagSet), exec i s = .next (s.coreDone op rm none b none none fun _ _ => w) ∧
        let q := (s.dispatched op rm none b none none).me
        Spec.RowsOnly q w s.me.wide d (fun r => r < nr ∧ cols k r ≠ []) ∧ Spec.FlagsOf q w nr fl ∧
        ∀ r, r < nr → row r (rowOf s.me d r) (rowOf w d r) (fl r)
    (∀ x : VFpF, let c0 := (s.me.x x.b).toNat
      Spec.Fits s x.ty.capacity [x.d, x.a] → Spec.Sourced s x.a c0 (fun ty => ty != .b24) →
      let is := fun (i : Instr) (scaled : Bool) =>
        exec i s = .next (Spec.each s (.cvt scaled x) x.rm (some x.b) x.d x.k x.ty fun r c =>
          let v := (s.me.row s.me.wide x.a r).srcVal scaled c0 (c0 + s.me.nc.toNat) (c0 + c)
          let q := convertTo x.ty (modeOf s.me.frm x.rm) x.sat v.1 v.2.1
          (q.1, q.2 ||| v.2.2))
      is (.vcvt x) false ∧ is (.vcvtd x) true) ∧
    (∀ (x : QpackF) (f : Fmt), x.ty ∈ [.e4m3, .e5m2, .e3m2, .e2m3, .e2m1] → x.ty.fmt? = some f →
      Spec.Fits s x.ty.capacity [x.d, x.a] → Spec.Sourced s x.a 0 Ty.isFp →
      leaves (.vqpack x) (.qpack x) x.rm none x.d x.k fun r old new fl =>
        Spec.PackedRow x f (modeOf s.me.frm x.rm) old new (fun b => (cols x.k r).filter fun c => elemBlock x.ty c == b)
          (fun c => ((rowOf s.me x.a r).srcVal true 0 nc c).1) fl) ∧
    (∀ x : VTyF, Spec.Fits s 64 [x.d, x.a] → Spec.Sourced s x.a 0 (fun ty => ty == .fp32) →
      leaves (.vbacc x) (.bacc x) .frm none x.d x.k fun r old new fl =>
        Spec.AccRow old new (cols x.k r) (fun c => ((rowOf s.me x.a r).srcVal false 0 nc c).1) fl) ∧
    (∀ x : BnormF, Spec.Fits s 64 [x.d, x.a] → (∀ r ∈ rows, (s.me.row s.me.wide x.a r).isB24 = true) →
      exec (.vbnorm x) s = .next (Spec.each s (.bnorm x) x.rm none x.d x.k .fp32 fun r c =>
        let w := s.me.row s.me.wide x.a r
        let i := (BitVec.ofNat 24 (w.elem .b24 c)).toInt
        if w.rexp.toNat % 256 = 255 then (0x7FC00000, 0)
        else fmtFp32.round (modeOf s.me.frm x.rm) false
          (.fin (decide (i < 0)) i.natAbs (((w.rexp.toNat % 256 : Nat) : Int) - 150)))) ∧
    (∀ x : VTyBF, Spec.Fits s 2048 [x.d, x.a] → Spec.Sourced s x.a 0 (fun _ => true) →
      leaves (.vscale x) (.vscale x) .frm (some x.b) x.d x.k fun r old new fl =>
        (cols x.k r = [] → new = old ∧ fl = 0) ∧
        (cols x.k r ≠ [] → Spec.ScaledRow (rowOf s.me x.a r) new (s.me.x x.b).toInt fl))) ∧
  Spec.ConvertedValues

/-- The order that a reduction compares by (R272): the integer, or the place of a floating-point value with -0 below +0. -/
def Spec.before (ty : Ty) (a b : Nat) : Prop := elemOrder ty a b = .lt

/-- Reductions and permutations (R270 to R274): what each writes where; row-form results go to column 0 and column-form results to row
0. -/
def Spec.ReductionAndPermutationResults : Prop :=
  ∀ s : State, Accepting s →
    let nr := s.me.nr.toNat
    let nc := s.me.nc.toNat
    let red := fun (o : RedOp) (y : RedF) (rm : Rm) =>
      let src := fun r c => if Spec.on s y.k r c then some (Spec.el s y.a y.ty r c) else none
      s.coreDone (.red o y) rm none none none none fun e k =>
        k.writeElems e y.d (if o = .argmax ∨ o = .argmin then .n32 else y.ty) fun r c =>
          if y.col then (if r = 0 then reduceResult o y.ty e.rm y.sat nr (fun j => src j c) else none)
          else if c = 0 then reduceResult o y.ty e.rm y.sat nc (fun j => src r j) else none
    (∀ x : RedF, Spec.Fits s x.ty.capacity [x.d, x.a] → exec (.vredsum x) s = .next (red .sum x x.rm)) ∧
    (∀ x : RedNF, Spec.Fits s x.ty.capacity [x.d, x.a] →
      let y : RedF := { d := x.d, a := x.a, k := x.k, ty := x.ty, rm := .frm, sat := x.sat, col := x.col }
      exec (.vredmax x) s = .next (red .max y .frm) ∧ exec (.vredmin x) s = .next (red .min y .frm) ∧
      exec (.vredand x) s = .next (red .and y .frm) ∧ exec (.vredor x) s = .next (red .or y .frm) ∧
      ((x.col = true → nc ≤ 64) → exec (.vargmax x) s = .next (red .argmax y .frm) ∧
        exec (.vargmin x) s = .next (red .argmin y .frm))) ∧
    let cols := fun (k : MaskReg) (r : Nat) => (List.range nc).filter fun c => Spec.on s k r c
    let is := fun (i : Instr) (op : VecOp) (b : Option Reg) (d : Reg) (ty : Ty) (f : Nat → Nat → Option Nat) =>
      exec i s = .next (s.coreDone op .frm none b none none fun e k => k.writeElems e d ty fun r c => (f r c).map fun v => (v, 0))
    (∀ x : VTyF, Spec.Fits s x.ty.capacity [x.d, x.a] →
      let y : VTyCF := { d := x.d, a := x.a, c := 0, k := x.k, ty := x.ty }
      let a := Spec.el s x.a x.ty
      is (.vcompress x) (.perm .compress y) none x.d x.ty (fun r c => (cols x.k r)[c]?.map fun j => a r j) ∧
      is (.vexpand x) (.perm .expand y) none x.d x.ty (fun r c => if Spec.on s x.k r c then
        some (a r ((cols x.k r).filter fun j => decide (j < c)).length) else none) ∧
      ((nr = 0 ∨ nc = 0 ∨ (nc ≤ rowMax s.me.wide ∧ nr ≤ x.ty.capacity)) →
        is (.vtrans x) (.perm .trans y) none x.d x.ty (fun r c => if Spec.on s x.k r c then some (a c r) else none))) ∧
    (∀ x : VTyBF, Spec.Fits s x.ty.capacity [x.d, x.a] →
      let y : VTyCF := { d := x.d, a := x.a, c := 0, k := x.k, ty := x.ty }
      let a := Spec.el s x.a x.ty
      let n := (s.me.x x.b).toNat
      let t := n / 2 ^ 32
      let u := n % 2 ^ 32
      is (.vslideup x) (.perm .slideUp y) (some x.b) x.d x.ty (fun r c =>
        if Spec.on s x.k r c = true ∧ n ≤ c then some (a r (c - n)) else none) ∧
      is (.vslidedn x) (.perm .slideDn y) (some x.b) x.d x.ty (fun r c =>
        if Spec.on s x.k r c then some (if c + n < nc then a r (c + n) else 0) else none) ∧
      ((u = 0xFFFFFFFF ∨ u < rowMax s.me.wide) → (t = 0xFFFFFFFF ∨ t < x.ty.capacity) →
        is (.vbcast x) (.perm .bcast y) (some x.b) x.d x.ty (fun r c =>
          if Spec.on s x.k r c then some (a (if u = 0xFFFFFFFF then r else u) (if t = 0xFFFFFFFF then c else t)) else none))) ∧
    (∀ x : VTyCF, Spec.Fits s x.ty.capacity [x.d, x.a, x.c] →
      is (.vpermc x) (.perm .permc x) none x.d x.ty (fun r c =>
        if Spec.on s x.k r c then
          some (if Spec.el s x.c x.ty r c < nc then Spec.el s x.a x.ty r (Spec.el s x.c x.ty r c) else 0)
        else none))

/-- The reduction tree (R271, R272) of n elements, some of them absent: nothing where none is there; the sum of integers modulo 2^w; the
greatest integer; the conjunction bit for bit; for VARGMAX the lowest index of a NaN, or else of the greatest value, with NV where
a NaN is there. -/
def Obligations.ReductionTreeIsRight : Prop :=
  ∀ (ty : Ty) (mode : Mode) (sat : Bool) (n : Nat) (x : Nat → Option Nat), ty ∈ Spec.intTypes ++ Spec.fpTypes →
    (∀ j v, x j = some v → v < 2 ^ ty.width) →
    let there := fun j => j < n ∧ (x j).isSome = true
    ((¬ ∃ j, there j) → ∀ o : RedOp, reduceResult o ty mode sat n x = none) ∧
    ((∃ j, there j) →
      (ty ∈ Spec.intTypes →
        reduceResult .sum ty mode false n x = some (((List.range n).foldl (fun acc j => acc + (x j).getD 0) 0) % 2 ^ ty.width, 0) ∧
        (∃ j v, there j ∧ x j = some v ∧ reduceResult .max ty mode sat n x = some (v, 0) ∧
          ∀ i u, i < n → x i = some u → Spec.int ty u ≤ Spec.int ty v) ∧
        (∃ j v, there j ∧ x j = some v ∧ reduceResult .min ty mode sat n x = some (v, 0) ∧
          ∀ i u, i < n → x i = some u → Spec.int ty v ≤ Spec.int ty u) ∧
        (∃ v, reduceResult .and ty mode sat n x = some (v, 0) ∧ ∀ b, v.testBit b = true ↔ ∀ j u, j < n → x j = some u → u.testBit b = true) ∧
        (∃ v, reduceResult .or ty mode sat n x = some (v, 0) ∧ ∀ b, v.testBit b = true ↔ ∃ j u, j < n ∧ x j = some u ∧ u.testBit b = true)) ∧
      (∃ i v, there i ∧ x i = some v ∧
        ((∃ j u, j < n ∧ x j = some u ∧ elemNan ty u = true) →
          elemNan ty v = true ∧ (∀ j u, j < i → x j = some u → elemNan ty u = false) ∧
          reduceResult .argmax ty mode sat n x = some (i, fNV)) ∧
        ((∀ j u, j < n → x j = some u → elemNan ty u = false) →
          (∀ j u, j < n → x j = some u → ¬ Spec.before ty v u) ∧ (∀ j u, j < i → x j = some u → Spec.before ty u v) ∧
          reduceResult .argmax ty mode sat n x = some (i, 0))))

/-- VSINCOS, VGUMBEL and VHASH (R275 to R278): the cosine goes to vD and the sine, written last, to vB; a quarter turn is exact; the hash is the
sequence of R277 on 32 bits. What the functions are as reals is `Spec.TurnsAndNoiseAreRounded`. -/
def Spec.SpecialFunctionResults : Prop :=
  (∀ s : State, Accepting s →
    (∀ x : SinCosF, Spec.Fits s 64 [x.d, x.a, x.b] →
      let g := fun (w : Bool) r c => if Spec.on s x.k r c then
        some (fTurn fmtFp32 (modeOf s.me.frm x.rm) w (Spec.el s x.a .n32 r c)) else none
      exec (.vsincos x) s = .next (s.coreDone (.sincos x) x.rm none none none none fun e k =>
        (k.writeElems e x.d .fp32 (g false)).writeElems e x.b .fp32 (g true))) ∧
    (∀ x : VTyF, Spec.Fits s 64 [x.d, x.a] →
      exec (.vgumbel x) s = .next (Spec.each s (.gumbel x) .frm none x.d x.k .fp32 fun r c => fGumbel (Spec.el s x.a .n32 r c))) ∧
    (∀ x : VTyBF, Spec.Fits s 64 [x.d, x.a, x.b] →
      exec (.vhash x) s = .next (Spec.each s (.hash x) .frm none x.d x.k .n32 fun r c =>
        let h0 : BitVec 32 := (BitVec.ofNat 32 (Spec.el s x.a .n32 r c) ^^^ 0x2545F491) +
          BitVec.ofNat 32 (Spec.el s x.b .n32 r c) * 0xCF6E15B3
        let h1 := (h0 ^^^ (h0 >>> 15)) * 0x8B3DA5C7
        let h2 := (h1 ^^^ (h1 >>> 13)) * 0xC2A59E31
        ((h2 ^^^ (h2 >>> 16)).toNat, 0)))) ∧
  (∀ mode : Mode, let turn := fun (w : Bool) (q : Nat) => fTurn fmtFp32 mode w (q * 2 ^ 30)
    (turn false 0, turn true 0) = ((0x3F800000, 0), (0, 0)) ∧ (turn false 1, turn true 1) = ((0, 0), (0x3F800000, 0)) ∧
    (turn false 2, turn true 2) = ((0xBF800000, 0), (0, 0)) ∧ (turn false 3, turn true 3) = ((0, 0), (0xBF800000, 0)))

/-! ## Vector memory (R63, R206 to R215) -/

/-- The bytes that a byte store lists are in rising order. -/
def Spec.RisingBytes (b : Bytes) : Prop := b.cells.Pairwise fun p q => p.1 < q.1

/-- An element's bits begin at bit `ba` of pad space, in the byte at `loc` of a line with no error, no seal and defined contents. -/
structure Spec.PadElem (s : State) (ba loc : Nat) : Prop where
  place : padLoc s.cur (ba / 8) = some loc
  good : s.badLines.contains (loc / 64) = false
  plain : s.sealOf (loc / 64) = none
  exact : s.vagueSeed (loc / 64) = none

/-- The bits of an element in memory: w bits from bit `ba` modulo 8 of the byte at `loc` on (R67, R206). -/
def Spec.memBits (s : State) (loc ba w : Nat) : Nat :=
  (leNat (s.bytesAt loc ((ba % 8 + w + 7) / 8)) >>> (ba % 8)) % 2 ^ w

/-- The elements of an access lie in pad space, aligned: `loc r c` is the location of the first byte of element (r, c). -/
def Spec.InPads (s : State) (m : VAddr) (ci : Reg) (e : VEntry) (f : VMemBF) (loc : Nat → Nat → Nat) : Prop :=
  ∀ r c, Spec.on s f.k r c = true →
    elemMisaligned m f (rowBase m e f r) (elemBit s.me m ci e f r c) = false ∧ Spec.PadElem s (elemBit s.me m ci e f r c) (loc r c)

/-- Where a gather's destination is its index register, no element lands on an index that is still to be read: elements are taken in order
(R209), and only those of 64 and of 6 bits reach a later index. -/
def Spec.IndexStays (m : VAddr) (ci : Reg) (f : VMemBF) : Prop :=
  (m = .gather ∨ m = .gatherc) → ci = f.d → f.ty.width ≠ 64 ∧ f.ty.width ≠ 6

/-- What a load from pads does (R206 to R214): each active element of vD takes its bits of memory, and inactive ones keep theirs; each
block that receives an element takes the tag of the type; no other register and no memory changes. -/
def Spec.LoadsPads (s : State) (i : Instr) (m : VAddr) (ci : Reg) (f : VMemBF) (b : Option Reg) : Prop :=
  let e := s.entry (.load m ci f) .frm (some f.a) b none none
  ∀ loc, Spec.IndexStays m ci f → Spec.InPads s m ci e f loc → ∃ t, exec i s = .next t ∧ SameMemory s t ∧
    (∀ r c, Spec.on s f.k r c = true → Spec.el t f.d f.ty r c = Spec.memBits s (loc r c) (elemBit s.me m ci e f r c) f.ty.width) ∧
    (∀ r c, Spec.on s f.k r c = false → r < rowMax s.me.wide → c < f.ty.capacity → Spec.el t f.d f.ty r c = Spec.el s f.d f.ty r c) ∧
    (∀ r c, Spec.on s f.k r c = true → (t.me.row s.me.wide f.d r).tag (elemBlock f.ty c) =
      if f.ty = .q4n then 0x10FF else (tyCode f.ty).toNat * 256 + 0x7F) ∧
    (∀ a r, a ≠ f.d → r < rowMax s.me.wide → t.me.row s.me.wide a r = s.me.row s.me.wide a r) ∧
    t.me.queue = [] ∧ t.me.ia = s.me.nextIa ∧ t.me.wide = s.me.wide ∧ t.me.task = s.me.task ∧ t.me.sup = s.me.sup ∧
    t.me.flags = s.me.flags ∧ t.me.k1 = s.me.k1 ∧ t.me.k2 = s.me.k2 ∧ t.me.k3 = s.me.k3 ∧ t.me.slices = s.me.slices ∧
    t.me.ffnr = if m = .firstFault then BitVec.ofNat 8 s.me.nr.toNat else s.me.ffnr

/-- A computation leaves the executing core at its instruction. -/
structure Spec.Stands (s t : State) : Prop where
  cur : t.cur = s.cur
  cores : t.cores.length = s.cores.length
  ia : t.me.ia = s.me.ia
  line : t.me.line = s.me.line

/-- A load answers its rows one after another, wherever they lie (R209). -/
def Spec.LoadsRows (s : State) (i : Instr) (m : VAddr) (ci : Reg) (f : VMemBF) (b : Option Reg) : Prop :=
  let op := VecOp.load m ci f
  let e := s.entry op .frm (some f.a) b none none
  ∀ t, Ends ((List.range s.me.nr.toNat).forM (loadRow (e.ctx s.cur) e m ci f)) (s.dispatched op .frm (some f.a) b none none) t →
    Spec.Stands s t → exec i s = .next (Spec.ran s op .frm (some f.a) b none none t)

/-- Vector loads and gathers (R206 to R214): VLD, VLDF, VLDB, VLDS, VGATHER and VGATHERC from pads, and wherever their rows can be
read; VLDF sets FFNR to the rows it completed, VLDL reads the lane-private slices. -/
def Spec.VectorLoads : Prop :=
  ∀ s : State, Accepting s → s.cur < 160 → Spec.Rising s.me.vregs →
    let mem := fun (d a b : Reg) (k : MaskReg) (ty : Ty) (h : BitVec 2) =>
      ({ d := d, a := a, b := b, k := k, ty := ty, bitoff := 0, hint := h } : VMemBF)
    (∀ x : VMemF, let f := mem x.d x.a x.b x.k x.ty x.hint
      (x.ty ≠ .desc → Spec.Fits s x.ty.capacity [x.d] →
        Spec.LoadsPads s (.vld x) .unit 0 f (some x.b) ∧ Spec.LoadsPads s (.vldf x) .firstFault 0 f (some x.b) ∧
        Spec.LoadsPads s (.vlds x) .strided 0 f (some x.b)) ∧
      (Spec.Fits s (if x.ty = .desc then 1024 else x.ty.capacity) [x.d] →
        Spec.LoadsRows s (.vld x) .unit 0 f (some x.b) ∧ Spec.LoadsRows s (.vlds x) .strided 0 f (some x.b) ∧
        let op := VecOp.load .firstFault 0 f
        let e := s.entry op .frm (some x.a) (some x.b) none none
        ∀ n t, Answers (loadFirstFault (e.ctx s.cur) e 0 f (List.range s.me.nr.toNat) false)
            (s.dispatched op .frm (some x.a) (some x.b) none none) n t → Spec.Stands s t →
          exec (.vldf x) s = .next (Spec.ran s op .frm (some x.a) (some x.b) none none
            (t.updMe fun k => { k with ffnr := BitVec.ofNat 8 n })))) ∧
    (∀ x : VMemBF, x.ty ∈ [.e3m2, .e2m3, .e2m1, .q4n, .i4] → x.wf = true → Spec.Fits s x.ty.capacity [x.d] →
      Spec.LoadsPads s (.vldb x) .bit 0 x (some x.b) ∧ Spec.LoadsRows s (.vldb x) .bit 0 x (some x.b)) ∧
    (∀ x : VIdxF, let f := mem x.d x.a 0 x.k x.ty x.hint
      Spec.Fits s (min 64 x.ty.capacity) [x.d, x.c] → x.ty ≠ .desc →
      Spec.LoadsPads s (.vgather x) .gather x.c f none ∧ Spec.LoadsRows s (.vgather x) .gather x.c f none ∧
      Spec.LoadsPads s (.vgatherc x) .gatherc x.c f none ∧ Spec.LoadsRows s (.vgatherc x) .gatherc x.c f none) ∧
    (∀ x : VMemLF, let f := mem x.d x.a 0 x.k x.ty x.hint
      Spec.Fits s x.ty.capacity [x.d] → x.ty ≠ .desc → (s.me.x x.a).toNat % 32 = 0 →
      (s.me.x x.a).toNat + 32 * ((s.me.nr.toNat + 15) / 16) ≤ 4096 →
      exec (.vldl x) s = .next (s.coreDone (.load .lane 0 f) .frm (some x.a) none none none fun e k =>
        k.writeElems e x.d x.ty fun r c =>
          if Spec.on s x.k r c then some (sliceElem s.me (s.me.x x.a).toNat x.ty r c, 0) else none))

/-- Where the elements of a vector access lie (R206, R208, R212): a row starts at x[A] + r × pitch, where B = 0 stands for the bytes of a
row; a strided element at x[A] + r × x[B][63:32] + c × x[B][31:0]; a gathered one at x[A] + the signed index; and VGATHERC reads
the cluster memory. -/
def Spec.VectorAddresses : Prop :=
  ∀ (k : Core) (e : VEntry) (f : VMemBF) (ci : Reg) (r c : Nat),
    let a := e.opa
    let pitch : Int := if f.b = 0 then (rowBytes f.ty e.nc : Nat) else e.opb.toInt
    let row := a + BitVec.ofInt 64 (r * pitch)
    let ix := BitVec.ofNat 32 ((k.row e.wide ci r).elem .n32 c)
    elemBit k .unit ci e f r c = 8 * (row + BitVec.ofNat 64 (elemPos f.ty c / 8)).toNat + elemPos f.ty c % 8 ∧
    elemBit k .strided ci e f r c = 8 * (a + BitVec.ofInt 64 (r * (e.opb.extractLsb' 32 32).toInt) +
      BitVec.ofInt 64 (c * (e.opb.extractLsb' 0 32).toInt)).toNat ∧
    elemBit k .gather ci e f r c = 8 * (a + ix.signExtend 64).toNat ∧
    elemBit k .gatherc ci e f r c = 8 * (0x01F1000000000000 + a.toNat % 2 ^ 22 + ix.toNat) ∧
    (f.ty.width = 4 → elemBit k .bit ci e f r c = 8 * row.toNat + f.bitoff.toNat + 4 * c) ∧
    (f.ty.width = 6 → row.toNat % 64 = 0 → f.bitoff = 0 → elemBit k .bit ci e f r c =
      8 * row.toNat + 512 * (c / 85) + 6 * (c % 85))

/-- What a store to pads does (R206 to R214): the bits of each active element that no other active element overlaps take the element;
no byte changes that no active element touches, but for the last byte of a line of 6-bit elements (R209); no register changes. -/
def Spec.StoresPads (s : State) (i : Instr) (m : VAddr) (ci : Reg) (f : VMemBF) (b : Option Reg) : Prop :=
  let e := s.entry (.store m ci f) .frm (some f.a) b none none
  let w := f.ty.width
  let bit := fun r c => elemBit s.me m ci e f r c
  ∀ loc, Spec.InPads s m ci e f loc → (∀ r c, Spec.on s f.k r c = true → s.barrierOn (loc r c / 64) = none) →
    let first := fun r c => 8 * loc r c + bit r c % 8
    ∃ t, exec i s = .next t ∧
    (∀ r c, Spec.on s f.k r c = true →
      (∀ p q, Spec.on s f.k p q = true → (p, q) ≠ (r, c) → first r c + w ≤ first p q ∨ first p q + w ≤ first r c) →
      Spec.memBits t (loc r c) (bit r c) w = Spec.el s f.d f.ty r c) ∧
    (∀ a, (∀ r c, Spec.on s f.k r c = true → a < loc r c ∨ loc r c + (bit r c % 8 + w + 7) / 8 ≤ a) →
      (w = 6 → a % 64 = 63 → ∀ r c, Spec.on s f.k r c = true → loc r c / 64 ≠ a / 64) → t.byte a = s.byte a) ∧
    t.me.vregs = s.me.vregs ∧ t.me.queue = [] ∧ t.me.ia = s.me.nextIa ∧ t.me.task = s.me.task ∧ t.me.sup = s.me.sup ∧
    t.me.flags = s.me.flags ∧ t.me.k1 = s.me.k1 ∧ t.me.k2 = s.me.k2 ∧ t.me.k3 = s.me.k3 ∧ t.me.slices = s.me.slices

/-- A store writes its rows one after another, wherever they lie (R209). -/
def Spec.StoresRows (s : State) (i : Instr) (m : VAddr) (ci : Reg) (f : VMemBF) (b : Option Reg) : Prop :=
  let op := VecOp.store m ci f
  let e := s.entry op .frm (some f.a) b none none
  ∀ t, Ends ((List.range s.me.nr.toNat).forM (storeRow (e.ctx s.cur) e m ci f)) (s.dispatched op .frm (some f.a) b none none) t →
    Spec.Stands s t → exec i s = .next (Spec.ran s op .frm (some f.a) b none none t)

/-- Vector stores and scatters (R206 to R214): VST, VSTB, VSTS, VSCATTER and VSCATTERC to pads, and wherever their rows can be written;
VSTL writes the lane-private slices, where VLDL reads the elements back. -/
def Spec.VectorStores : Prop :=
  ∀ s : State, Accepting s → s.cur < 160 → s.dies.length = 4 → s.me.sb = [] → Memory.wf s.mem = true →
    let mem := fun (d a b : Reg) (k : MaskReg) (ty : Ty) (h : BitVec 2) =>
      ({ d := d, a := a, b := b, k := k, ty := ty, bitoff := 0, hint := h } : VMemBF)
    (∀ x : VMemF, let f := mem x.d x.a x.b x.k x.ty x.hint
      x.ty ≠ .desc → Spec.Fits s x.ty.capacity [x.d] →
      Spec.StoresPads s (.vst x) .unit 0 f (some x.b) ∧ Spec.StoresRows s (.vst x) .unit 0 f (some x.b) ∧
      Spec.StoresPads s (.vsts x) .strided 0 f (some x.b) ∧ Spec.StoresRows s (.vsts x) .strided 0 f (some x.b)) ∧
    (∀ x : VMemBF, x.ty ∈ [.e3m2, .e2m3, .e2m1, .q4n, .i4] → x.wf = true → Spec.Fits s x.ty.capacity [x.d] →
      Spec.StoresPads s (.vstb x) .bit 0 x (some x.b) ∧ Spec.StoresRows s (.vstb x) .bit 0 x (some x.b)) ∧
    (∀ x : VIdxF, let f := mem x.d x.a 0 x.k x.ty x.hint
      x.ty ≠ .desc → Spec.Fits s (min 64 x.ty.capacity) [x.d, x.c] →
      Spec.StoresPads s (.vscatter x) .gather x.c f none ∧ Spec.StoresRows s (.vscatter x) .gather x.c f none ∧
      Spec.StoresPads s (.vscatterc x) .gatherc x.c f none ∧ Spec.StoresRows s (.vscatterc x) .gatherc x.c f none) ∧
    (∀ x : VMemLF, Spec.Fits s x.ty.capacity [x.d] → x.ty ≠ .desc → Spec.RisingBytes s.me.slices →
      let a := (s.me.x x.a).toNat
      a % 32 = 0 → a + 32 * ((s.me.nr.toNat + 15) / 16) ≤ 4096 →
      ∃ t, exec (.vstl x) s = .next t ∧ SameMemory s t ∧ t.me.vregs = s.me.vregs ∧ t.me.queue = [] ∧ t.me.ia = s.me.nextIa ∧
        t.me.task = s.me.task ∧ t.me.flags = s.me.flags ∧
        (∀ r c, Spec.on s x.k r c = true → sliceElem t.me a x.ty r c = Spec.el s x.d x.ty r c) ∧
        ∀ i, (∀ r c, Spec.on s x.k r c = true → ∀ j, j < (elemPos x.ty c % 8 + x.ty.width + 7) / 8 →
          i ≠ sliceLoc a r (elemPos x.ty c / 8 + j)) → t.me.slices.get i = s.me.slices.get i)

/-- The new value of a vector atomic (R215). -/
def Spec.vamo (o : VAmoOp) (ty : Ty) (old v : Nat) : Nat :=
  match o with
  | .add => (old + v) % 2 ^ ty.width
  | .fadd => (fAdd fmtFp32 .rne false (fmtFp32.decode old) (fmtFp32.decode v)).1
  | .min => if Spec.int ty v < Spec.int ty old then v else old
  | .max => if Spec.int ty old < Spec.int ty v then v else old

/-- Vector atomics (R215): each active element updates the bytes of its address, in pads with no barrier and no other active element
there; where translation finds them, row after row, each page of a row translated once (R99), and element after element in order. -/
def Spec.VectorAtomics : Prop :=
  ∀ s : State, Accepting s → s.cur < 160 → s.dies.length = 4 → s.me.sb = [] → Memory.wf s.mem = true →
    ∀ x : VMemF, Spec.Fits s x.ty.capacity [x.d] →
    let f : VMemBF := { d := x.d, a := x.a, b := x.b, k := x.k, ty := x.ty, bitoff := 0, hint := 0 }
    let w := x.ty.width
    let is := fun (i : Instr) (o : VAmoOp) =>
      let e := s.entry (.vamo o x) .frm (some x.a) (some x.b) none none
      ∀ loc, Spec.InPads s .unit 0 e f loc →
        (∀ r c, Spec.on s x.k r c = true → s.barrierOn (loc r c / 64) = none) →
        (∀ r c p q, Spec.on s x.k r c = true → Spec.on s x.k p q = true → (p, q) ≠ (r, c) →
          loc r c + w / 8 ≤ loc p q ∨ loc p q + w / 8 ≤ loc r c) →
        ∃ t, exec i s = .next t ∧ t.me.vregs = s.me.vregs ∧ t.me.queue = [] ∧ t.me.ia = s.me.nextIa ∧ t.me.task = s.me.task ∧
          t.me.flags = s.me.flags ∧
          (∀ r c, Spec.on s x.k r c = true →
            Spec.memBits t (loc r c) 0 w = Spec.vamo o x.ty (Spec.memBits s (loc r c) 0 w) (Spec.el s x.d x.ty r c)) ∧
          ∀ a, (∀ r c, Spec.on s x.k r c = true → a < loc r c ∨ loc r c + w / 8 ≤ a) → t.byte a = s.byte a
    let rows := fun (i : Instr) (o : VAmoOp) =>
      let op := VecOp.vamo o x
      let e := s.entry op .frm (some x.a) (some x.b) none none
      let va := fun (r c : Nat) => elemBit s.me .unit 0 e f r c / 8
      (∀ r c, Spec.on s x.k r c = true → va r c % (w / 8) = 0) →
      ∀ t, Ends ((List.range s.me.nr.toNat).forM fun r => do
          let cs := (List.range s.me.nc.toNat).filter fun c => Spec.on s x.k r c
          let places ← rowMap (e.ctx (← myNumber)) .write (cs.map (va r)) []
          cs.forM fun c => do
            let q ← rowPlace (e.ctx (← myNumber)) .write places (va r c)
            let _ ← atomicAt (e.ctx (← myNumber)) q (va r c) (w / 8) fun old =>
              some (Spec.vamo o x.ty old (Spec.el s x.d x.ty r c))
            return ()) (s.dispatched op .frm (some x.a) (some x.b) none none) t → Spec.Stands s t →
        exec i s = .next (Spec.ran s op .frm (some x.a) (some x.b) none none t)
    (x.ty ∈ [.i32, .n32, .i64, .n64] → is (.vamoadd x) .add ∧ is (.vamomin x) .min ∧ is (.vamomax x) .max ∧
      rows (.vamoadd x) .add ∧ rows (.vamomin x) .min ∧ rows (.vamomax x) .max) ∧
    (x.ty = .fp32 → is (.vamofadd x) .fadd ∧ rows (.vamofadd x) .fadd)

/-! ## Accumulation windows and copies (R216 to R234) -/

/-- One addition of a window (R219, R220): integers wrap, FP32 rounds to nearest even with its flags. -/
def Spec.windowAdd (ty : Ty) (a b : Nat) : Nat × FlagSet :=
  if ty = .fp32 then fAdd fmtFp32 .rne false (fmtFp32.decode a) (fmtFp32.decode b) else ((a + b) % 2 ^ ty.width, 0)

/-- The lane of element (r, c) of a type (R202). -/
def Spec.lane (ty : Ty) (r c : Nat) : Nat := 16 * (r / 2 % 8) + 8 * (r % 2) + elemPos ty c / 8 / 32

/-- AADD of one element: the copy of the element's lane at index `i` takes the sum with its flags (R219). -/
def Spec.adds (s : State) (x : VMemLF) (k : Core) (q : Nat × Nat) : Core :=
  let i := (BitVec.ofNat 32 (Spec.el s x.a .i32 q.1 q.2)).toInt.toNat
  let l := Spec.lane x.ty q.1 q.2
  let r := Spec.windowAdd x.ty (k.copyElem l i) (Spec.el s x.d x.ty q.1 q.2)
  { k with flags := k.flags ||| r.2, slices := k.slices.putAll (copyLoc k.window l i) (leBytes (x.ty.width / 8) r.1) }

/-- Windows (R216, R218 to R220): AWIN opens one whose copies are all zero; AADD adds each active element, in element order, to its lane's
copy, and stops with illegal-shape where no window is open; AMERGE folds the 128 copies of each element into memory in lane order
and leaves them zero; ACLR zeroes them and closes the window, and does nothing where none is open. -/
def Obligations.WindowResults : Prop :=
  ∀ s : State, Accepting s → s.cur < 160 → Spec.RisingBytes s.me.slices →
    let len := s.me.window.len
    let nb := s.me.window.ty.width / 8
    (∀ x : WinF, let base := (s.me.x x.a).toNat
      let n := (s.me.x x.b).toNat
      n % 64 = 0 → 64 ≤ n → n ≤ 2048 → base % 64 = 0 → (∀ i, i < n / 64 → (padLoc s.cur (base + 64 * i)).isSome = true) →
      ∃ t, exec (.awin x) s = .next t ∧ t.me.window = { isOpen := true, ty := x.ty, base := s.me.x x.a, len := n } ∧ SameMemory s t ∧
        t.me.queue = [] ∧ t.me.ia = s.me.nextIa ∧ t.me.task = s.me.task ∧ t.me.vregs = s.me.vregs ∧
        ∀ i, t.me.slices.get i = if i < 128 * 4096 ∧ 4096 - n ≤ i % 4096 then 0 else s.me.slices.get i) ∧
    (∀ x : WinF, let n := (s.me.x x.b).toNat
      (n % 64 ≠ 0 ∨ n < 64 ∨ 2048 < n) → exec (.awin x) s = .next (((s.dispatched (.awin x) .frm (some x.a) (some x.b) none none).updMe
        fun k => k.headFault (faultOf 21 0 0)).goesOn)) ∧
    (∀ x : VMemLF, s.me.window.isOpen = true → x.ty = s.me.window.ty → Spec.Fits s (min 64 x.ty.capacity) [x.d, x.a] →
      (∀ r c, Spec.on s x.k r c = true → let i := (BitVec.ofNat 32 (Spec.el s x.a .i32 r c)).toInt
        0 ≤ i ∧ i < len * 8 / x.ty.width) →
      exec (.aadd x) s = .next (s.coreDone (.aadd x) .frm none none none none fun _ k =>
        (((List.range s.me.nr.toNat).flatMap fun r => (List.range s.me.nc.toNat).map fun c => (r, c)).filter fun q =>
          Spec.on s x.k q.1 q.2).foldl (Spec.adds s x) k)) ∧
    (∀ x : VMemLF, s.me.nr ≠ 0 → s.me.nc ≠ 0 → s.me.window.isOpen = false →
      exec (.aadd x) s = .next (Spec.misshapen s (.aadd x) .frm none)) ∧
    (∀ x : Win0F, s.me.window.isOpen = false → exec (.amerge x) s = .next (s.coreDone .amerge .frm none none none none fun _ k => k)) ∧
    (∀ (x : Win0F) (line : Nat → Nat), s.me.window.isOpen = true → s.me.window.ty ∈ [.i32, .i64, .fp32] →
      len % 64 = 0 → 64 ≤ len → len ≤ 2048 → s.me.window.base.toNat % 64 = 0 → s.dies.length = 4 → s.me.sb = [] → Memory.wf s.mem = true →
      (∀ n, n < len / 64 → Spec.PadElem s (8 * (s.me.window.base.toNat + 64 * n)) (64 * line n) ∧ s.barrierOn (line n) = none ∧
        ∀ m, m < len / 64 → m ≠ n → line m ≠ line n) →
      ∃ t, exec (.amerge x) s = .next t ∧ t.me.window = s.me.window ∧ t.me.queue = [] ∧ t.me.ia = s.me.nextIa ∧
        t.me.task = s.me.task ∧ t.me.vregs = s.me.vregs ∧
        (∀ j, j < len / nb →
          let a := 64 * line (j * nb / 64) + j * nb % 64
          t.num a nb = ((List.range 128).foldl (fun m l => (Spec.windowAdd s.me.window.ty m (s.me.copyElem l j)).1) (s.num a nb))) ∧
        (∀ a, (∀ n, n < len / 64 → a / 64 ≠ line n) → t.byte a = s.byte a) ∧
        ∀ i, t.me.slices.get i = if i < 128 * 4096 ∧ 4096 - len ≤ i % 4096 then 0 else s.me.slices.get i) ∧
    (∀ x : Win0F, len ≤ 4096 → ∃ t, exec (.aclr x) s = .next t ∧ t.me.window = { s.me.window with isOpen := false } ∧ SameMemory s t ∧
      t.me.queue = [] ∧ t.me.ia = s.me.nextIa ∧ t.me.vregs = s.me.vregs ∧ t.me.task = s.me.task ∧
      ∀ i, t.me.slices.get i =
        if s.me.window.isOpen = true ∧ i < 128 * 4096 ∧ 4096 - len ≤ i % 4096 then 0 else s.me.slices.get i)

/-- A row of bytes from `va` on lies in pad space, seen from a core, in good lines from `loc` on. -/
structure Spec.RowIn (s : State) (core va loc n : Nat) : Prop where
  place : ∀ i, i < n → padLoc core (va + i) = some (loc + i)
  good : ∀ i, i < n → s.badLines.contains ((loc + i) / 64) = false ∧ s.sealOf ((loc + i) / 64) = none ∧
    s.vagueSeed ((loc + i) / 64) = none ∧ s.barrierOn ((loc + i) / 64) = none

/-- CPY, CPYM, CPYKV and XRED with an empty queue are issued to their channel with their copied operands (R221); CPWAIT acquires the
deliveries that brought the first x[A] bytes where the pointer has reached x[A], and waits otherwise (R234). COPY_ISSUE issues a copy
of any form that waits at the head of a queue and whose channel has room (R221). -/
def Spec.CopiesIssue : Prop :=
  (∀ s : State, Accepting s →
    let issued := fun (op : VecOp) (a b d : Reg) (ch : BitVec 2) =>
      s.coreDone op .frm (some a) (some b) none (some d) fun e k =>
        { k with chans := k.chans.set! ch.toNat { copies := [e], stopped := (s.me.chan ch.toNat).stopped, row := (s.me.chan ch.toNat).row } }
    (∀ x : CpyF, exec (.cpy x) s = .next (issued (.cpy x) x.a x.b x.d x.ch) ∧
      exec (.cpym x) s = .next (issued (.cpym x) x.a x.b x.d x.ch) ∧
      exec (.cpykv x) s = .next (issued (.cpykv x) x.a x.b x.d x.ch)) ∧
    (∀ x : XredF, exec (.xred x) s = .next (issued (.xred x) x.a x.b x.d x.ch)) ∧
    (∀ x : CpwF, let w := s.me.cpwp.getD x.ch.toNat 0
      (s.me.x x.a ≤ w → exec (.cpwait x) s = .next (s.coreDone (.cpwait x) .frm (some x.a) none none none fun _ k =>
        { k with ck := k.ck.join (((s.me.cpwpCk.getD x.ch.toNat []).filter fun q => decide (q.1 < (s.me.x x.a).toNat)).foldl
            (fun c q => c.join q.2) Clock.reset) })) ∧
      (w < s.me.x x.a → exec (.cpwait x) s = .next (s.dispatched (.cpwait x) .frm (some x.a) none none none).goesOn))) ∧
  (∀ (s : State) (c ch : Nat) (e : VEntry) (es : List VEntry), c < s.cores.length →
    (s.core c).queue = e :: es →
    ((∃ x : CpyF, e.op ∈ [VecOp.cpy x, .cpym x, .cpykv x] ∧ x.ch.toNat = ch) ∨ ∃ x : XredF, e.op = .xred x ∧ x.ch.toNat = ch) →
    e.fault = none → ((s.core c).chan ch).copies.length < 8 →
    (s.core c).olderAcquire 4 e.seq = false → s.crustHas c Item.acq = false →
    ∃ t, exec (.copyIssue c) s = .next t ∧ (t.core c).queue = es ∧
      ((t.core c).chan ch).copies = ((s.core c).chan ch).copies ++ [e] ∧ SameMemory s t) ∧
  (∀ (s : State) (c : Nat), (s.core c).queue = [] → exec (.copyIssue c) s = .next s)

/-- A channel moves n times. -/
noncomputable def Spec.deliveries (c ch : Nat) : Nat → State → Option State
  | 0, s => some s
  | n + 1, s =>
    match exec (.copyRowDelivery c ch) s with
    | .next t => Spec.deliveries c ch n t
    | _ => none

/-- COPY_ROW_DELIVERY (R222, R225 to R227, R229 to R231): the channel checks and reads a row whole, once no older acquire is outstanding, and delivers it line by line, and
the write pointer of its target counts the bytes of each line as they arrive. After its last line a row of a CPY between pads has
arrived whole, counted for the issuing core; a CPYM delivers it at the same pad offset of every core of its mask and counts it
there; a misaligned row stops the channel; a copy whose rows have all been delivered leaves the channel. -/
def Spec.CopyRowsArrive : Prop :=
  ∀ (s : State) (c : Nat) (e : VEntry) (es : List VEntry) (x : CpyF), c < 160 → s.cores.length = 160 → s.dies.length = 4 →
    Memory.wf s.mem = true → (s.core c).sb = [] → ((s.core c).chan x.ch.toNat).copies = e :: es →
    ((s.core c).chan x.ch.toNat).stopped = none → 0 < x.rows16.toNat →
    (x.bar = 0 ∨ (s.barrierIdx (dieOf c) x.bar.toNat).isSome = true) →
    (s.core c).olderAcquire x.ch.toNat e.seq = false → (x.acq = true → (s.core c).olderCopies x.ch.toNat e.seq = false) →
    let n := 16 * x.rows16.toNat
    let r := e.prog.row
    let dv := (e.opa + BitVec.ofInt 64 (r * (e.opd.extractLsb' 0 32).toInt)).toNat
    let sv := (e.opb + BitVec.ofInt 64 (r * (e.opd.extractLsb' 32 32).toInt)).toNat
    let lines := (dv % 64 + n + 63) / 64
    let chan := fun (t : State) => (t.core c).chan x.ch.toNat
    let next := fun (t : State) => (chan t).copies = { e with prog := { row := r + 1, col := 0, block := 0 } } :: es
    let counted := fun (t : State) (k n : Nat) => (t.core k).cpwp.getD x.ch.toNat 0 =
      (s.core k).cpwp.getD x.ch.toNat 0 + BitVec.ofNat 64 n
    ((chan s).row = [] → e.op = .cpy x → r < e.nr → ∀ sloc dloc, dv % 16 = 0 → sv % 16 = 0 → Spec.RowIn s c sv sloc n →
      Spec.RowIn s c dv dloc n →
      (let first := min n (64 - dv % 64)
       ∃ t, exec (.copyRowDelivery c x.ch.toNat) s = .next t ∧ t.bytesAt dloc first = s.bytesAt sloc first ∧
        SameMemoryBut s t dloc first ∧ next t ∧ (chan t).row.length + 1 = lines ∧ counted t c first ∧ t.cur = s.cur) ∧
      ∃ t, Spec.deliveries c x.ch.toNat lines s = some t ∧ t.bytesAt dloc n = s.bytesAt sloc n ∧ SameMemoryBut s t dloc n ∧
        next t ∧ (chan t).row = [] ∧ counted t c n) ∧
    ((chan s).row = [] → e.op = .cpym x → r < e.nr → x.mmask ≠ 0 → 0x01F0000000000000 ≤ e.opa.toNat →
      e.opa.toNat < 0x01F0000000000000 + 2 ^ 20 → ∀ (sloc : Nat) (dloc : Nat → Nat), dv % 16 = 0 → sv % 16 = 0 → Spec.RowIn s c sv sloc n →
      (∀ k, k < 4 → x.mmask.getLsbD k = true → Spec.RowIn s (c / 4 * 4 + k) dv (dloc k) n) →
      0x01F0000000000000 ≤ dv → dv + n ≤ 0x01F0000000000000 + 2 ^ 20 →
      ∃ t, Spec.deliveries c x.ch.toNat (((List.range 4).filter fun k => x.mmask.getLsbD k).length * lines) s = some t ∧ next t ∧
        (chan t).row = [] ∧
        ∀ k, k < 4 → x.mmask.getLsbD k = true → t.bytesAt (dloc k) n = s.bytesAt sloc n ∧ counted t (c / 4 * 4 + k) n) ∧
    (∀ (p : RowPart) (rest : List RowPart) (va : Nat), (chan s).row = p :: rest → p.key = none → p.desc = none → p.owner < 160 →
      p.loc % 64 + p.bytes.length ≤ 64 → Spec.RowIn s c va p.loc p.bytes.length →
      ∃ t, exec (.copyRowDelivery c x.ch.toNat) s = .next t ∧ t.bytesAt p.loc p.bytes.length = p.bytes ∧
        SameMemoryBut s t p.loc p.bytes.length ∧ (chan t).row = rest ∧ (chan t).copies = e :: es ∧ counted t p.owner p.bytes.length) ∧
    ((chan s).row = [] → e.op = .cpy x → r < e.nr → dv % 16 ≠ 0 →
      ∃ t, exec (.copyRowDelivery c x.ch.toNat) s = .next t ∧ SameMemory s t ∧ (chan t).stopped = some (faultOf 4 dv 0x800)) ∧
    ((chan s).row = [] → e.op = .cpy x → e.nr ≤ r → x.bar = 0 → x.rel = false →
      ∃ t, exec (.copyRowDelivery c x.ch.toNat) s = .next t ∧ SameMemory s t ∧ (chan t).copies = es)

/-! ## The matrix engine (R280 to R300) -/

/-- An entry of the executing core stops at a fault at the head of the queue (R245). -/
def Spec.halted (s : State) (op : VecOp) (rm : Rm) (a b c d : Option Reg) (t : Trap) : State :=
  ((s.dispatched op rm a b c d).updMe fun k => k.headFault t).goesOn

/-- The matrix engine of the executing core's cluster. -/
def Spec.mxe (s : State) : Mxe := s.mxe (s.cur / 4)

/-- The state that a matrix instruction leaves whose effect is on the engine alone. -/
def Spec.engine (s : State) (op : VecOp) (f : Mxe → Mxe) : State :=
  s.vectorDone op .frm none none none none fun t => t.updMxe (s.cur / 4) f

/-- Control of the engine (R280, R281, R284, R285, R291, R292): MATT grants the lowest free groups to a core that holds none; MDET frees them,
but for undrained tiles without discard; MCLAIM empties a free slot for its owner; MREL frees it; MZERO clears a tile; MSTAT counts. -/
def Spec.MatrixControl : Prop :=
  ∀ s : State, Accepting s → s.cur < 160 → s.mxes.length = 40 → Spec.Rising (Spec.mxe s).rows →
    let m := Spec.mxe s
    let k := s.cur % 4
    let free := fun (g : Nat) => (m.groups.getD g none).isNone
    (∀ x : GrpF, (m.held k ≠ [] → exec (.matt x) s = .next (Spec.engine s (.matt x) id)) ∧
      (m.held k = [] → ∃ t, exec (.matt x) s = .next t ∧ SameMemory s t ∧ t.me.ia = s.me.nextIa ∧
        (∀ g, g < 4 → (Spec.mxe t).groups.getD g none =
          if free g = true ∧ ((List.range g).filter free).length < x.groups.toNat then some k else m.groups.getD g none) ∧
        (∀ tile r n, ((Spec.mxe t).acc k).get tile r n = 0) ∧ (∀ tile, ((Spec.mxe t).acc k).dirty tile = false) ∧
        (∀ j, j < 4 → j ≠ k → (Spec.mxe t).acc j = m.acc j) ∧ (Spec.mxe t).slots = m.slots)) ∧
    (∀ x : DetF, (m.held k = [] → exec (.mdet x) s = .next (Spec.engine s (.mdet x) id)) ∧
      (m.held k ≠ [] → x.discard = false → ((m.acc k).dirty0 = true ∨ (m.acc k).dirty1 = true) →
        exec (.mdet x) s = .next (Spec.halted s (.mdet x) .frm none none none none
          (faultOf 20 0 ((if (m.acc k).dirty1 then 2 else 0) + (if (m.acc k).dirty0 then 1 else 0))))) ∧
      (m.held k ≠ [] → (x.discard = true ∨ ((m.acc k).dirty0 = false ∧ (m.acc k).dirty1 = false)) →
        ∃ t, exec (.mdet x) s = .next t ∧ t.mgrant s.cur = 0 ∧ SameMemory s t ∧ t.me.ia = s.me.nextIa ∧
          ∀ g, g < 4 → (Spec.mxe t).groups.getD g none = if m.groups.getD g none = some k then none else m.groups.getD g none)) ∧
    (∀ x : SlotF, let n := x.slot.toNat
      ((m.slot n).owner = none → ∃ t, exec (.mclaim x) s = .next t ∧ (Spec.mxe t).slot n = { owner := some k, layout := 0 } ∧
        (∀ r, r < 128 → (Spec.mxe t).slotRow n r = { bits := 0, tags := 0xFF00FF00FF00FF00, rexp := 0 }) ∧
        (∀ j r, j < 128 → j ≠ n → r < 128 → (Spec.mxe t).slot j = m.slot j ∧ (Spec.mxe t).slotRow j r = m.slotRow j r)) ∧
      ((m.slot n).owner = some k → exec (.mclaim x) s = .next (Spec.engine s (.mclaim x) id)) ∧
      (∀ o, (m.slot n).owner = some o → o ≠ k → exec (.mclaim x) s = .next (Spec.halted s (.mclaim x) .frm none none none none
        (faultOf 19 0 (n * 256 + 4 + o)))) ∧
      ((m.slot n).owner = some k → ∃ t, exec (.mrel x) s = .next t ∧ ((Spec.mxe t).slot n).owner = none ∧
        ∀ j r, j < 128 → j ≠ n → r < 128 → (Spec.mxe t).slot j = m.slot j ∧ (Spec.mxe t).slotRow j r = m.slotRow j r)) ∧
    (∀ x : AccF, (m.held k ≠ [] → ∃ t, exec (.mzero x) s = .next t ∧ (∀ r n, r < 128 → n < 128 → ((Spec.mxe t).acc k).get x.tile r n = 0) ∧
        ((Spec.mxe t).acc k).dirty x.tile = false ∧ ((Spec.mxe t).acc k).dirty (!x.tile) = (m.acc k).dirty (!x.tile) ∧
        (∀ r n, r < 128 → n < 128 → ((Spec.mxe t).acc k).get (!x.tile) r n = (m.acc k).get (!x.tile) r n)) ∧
      (m.held k = [] → exec (.mzero x) s = .next (Spec.halted s (.mzero x) .frm none none none none (faultOf 21 0 0)))) ∧
    (∀ x : R1T4, ∃ v : Word, exec (.mstat x) s = .next (s.coreDone (.mstat x) .frm none none none none fun e c => c.setXOf e.sup x.d v) ∧
      (∀ g, g < 4 → v.getLsbD g = free g ∧ v.getLsbD (8 + g) = decide (m.groups.getD g none = some k)) ∧
      (v.extractLsb' 16 8).toNat = ((List.range 128).filter fun n => (m.slot n).owner == some k).length ∧
      v.extractLsb' 4 4 = 0 ∧ v.extractLsb' 12 4 = 0 ∧ v.extractLsb' 24 40 = 0)

/-- What a slot instruction that is not empty requires (R293): the core owns the slot, its rows fit, and LAYOUT is 1 or 2 where it is used. -/
structure Spec.Fills (s : State) (slot : BitVec 7) (ctl : Word) (rows : Nat) : Prop where
  owner : ((Spec.mxe s).slot slot.toNat).owner = some (s.cur % 4)
  fits : (ctl.extractLsb' 40 7).toNat + rows ≤ 128
  some_ : 0 < rows

/-- Filling and reading slots (R293, R294, R296): MLD and MLDF from pads, MSLOTW and MSLOTR; with no rows each does nothing. -/
def Spec.SlotRows : Prop :=
  ∀ s : State, Accepting s → s.cur < 160 → s.mxes.length = 40 → Spec.Rising (Spec.mxe s).rows →
    let m := Spec.mxe s
    (∀ (x : SlotMF) (loc : Nat → Nat),
      let ctl := s.me.x x.b
      let n := (ctl.extractLsb' 48 8).toNat
      let first := (ctl.extractLsb' 40 7).toNat
      let pitch := (ctl.extractLsb' 0 32).toInt
      let va := fun (i : Nat) => (s.me.x x.a + BitVec.ofInt 64 (i * if pitch = 0 then 256 else pitch)).toNat
      (n = 0 → exec (.mld x) s = .next (s.coreDone (.mld false x) .frm (some x.a) (some x.b) none none fun _ k => k) ∧
        exec (.mldf x) s = .next (s.coreDone (.mld true x) .frm (some x.a) (some x.b) none none fun _ k => k) ∧
        exec (.mldt x) s = .next (s.coreDone (.mldt x) .frm (some x.a) (some x.b) none none fun _ k => k)) ∧
      (Spec.Fills s x.slot ctl n → (ctl.extractLsb' 32 2 = 1 ∨ ctl.extractLsb' 32 2 = 2) → x.ty ≠ .desc →
        (∀ i, i < n → va i % 64 = 0 ∧ Spec.RowIn s s.cur (va i) (loc i) 256) →
        let is := fun (i : Instr) (ff : Bool) => ∃ t, exec i s = .next t ∧ SameMemory s t ∧ t.me.ia = s.me.nextIa ∧
          (∀ i, i < n → (Spec.mxe t).slotRow x.slot.toNat (first + i) = {
            bits := BitVec.ofNat 2048 (s.num (loc i) 256),
            tags := BitVec.ofNat 64 (plainTag x.ty * 0x0001000100010001), rexp := plainExp x.ty }) ∧
          (∀ r, r < 128 → (r < first ∨ first + n ≤ r) → (Spec.mxe t).slotRow x.slot.toNat r = m.slotRow x.slot.toNat r) ∧
          ((Spec.mxe t).slot x.slot.toNat).layout = ctl.extractLsb' 32 2 ∧
          t.me.ffnr = if ff then BitVec.ofNat 8 n else s.me.ffnr
        is (.mld x) false ∧ is (.mldf x) true)) ∧
    (∀ x : SlotMF,
      let ctl := s.me.x x.b
      let first := (ctl.extractLsb' 40 7).toNat
      let nb := min 4 ((s.me.nc.toNat + x.ty.perBlock - 1) / x.ty.perBlock)
      (s.me.nr = 0 → exec (.mslotw x) s = .next (s.coreDone (.mslotw x) .frm none (some x.b) none none fun _ k => k)) ∧
      (Spec.Fills s x.slot ctl s.me.nr.toNat → (ctl.extractLsb' 32 2 = 1 ∨ ctl.extractLsb' 32 2 = 2) →
        (s.me.wide = true → x.a.toNat ≤ 15) →
        (∀ r b, r < s.me.nr.toNat → b < nb → let c := (s.me.row s.me.wide x.a r).tag b / 256
          c = (tyCode x.ty).toNat ∨ c = 255) →
        ∃ t, exec (.mslotw x) s = .next t ∧ SameMemory s t ∧ t.me.ia = s.me.nextIa ∧
          ((Spec.mxe t).slot x.slot.toNat).layout = ctl.extractLsb' 32 2 ∧
          ∀ r, r < s.me.nr.toNat → let w := (Spec.mxe t).slotRow x.slot.toNat (first + r)
            let v := s.me.row s.me.wide x.a r
            w.rexp = v.rexp ∧ ∀ b, b < 4 →
              (b < nb → w.tag b = v.tag b ∧ w.bits.extractLsb' (512 * b) 512 = v.bits.extractLsb' (512 * b) 512) ∧
              (nb ≤ b → w.tag b = 0xFF00 ∧ w.bits.extractLsb' (512 * b) 512 = 0))) ∧
    (∀ x : SlotRF,
      let first := ((s.me.x x.b).extractLsb' 40 7).toNat
      (s.me.nr = 0 ∨ (Spec.Fills s x.slot (s.me.x x.b) s.me.nr.toNat ∧ (s.me.wide = true → x.d.toNat ≤ 15))) →
        exec (.mslotr x) s = .next (s.coreDone (.mslotr x) .frm none (some x.b) none none fun e k =>
          (List.range s.me.nr.toNat).foldl (fun k r => k.setRow e.wide x.d r (m.slotRow x.slot.toNat (first + r))) k))

/-- MMA, MMAZ and MMAN (R286 to R288, R297): with rows granted, both slots owned and laid out, and every pair implemented, each element of the
tile's first NR rows takes the four blocks in turn; the tile is dirty and nothing else changes. A pair that is not implemented stops
the instruction at its block. -/
def Obligations.MatrixProducts : Prop :=
  (∀ (s : State) (x : MmaF), Accepting s → s.cur < 160 → s.mxes.length = 40 →
    let m := Spec.mxe s
    let k := s.cur % 4
    let a := fun i => m.slotRow x.slotA.toNat i
    let b := fun n => m.slotRow x.slotB.toNat n
    let is := fun (i : Instr) (o : MmaOp) =>
      (s.me.nr = 0 → exec i s = .next (Spec.engine s (.mma o x) id)) ∧
      (s.me.nr ≠ 0 → (m.slot x.slotA.toNat).owner = some k → (m.slot x.slotB.toNat).owner = some k →
        s.me.nr.toNat ≤ 32 * (m.held k).length → (m.slot x.slotA.toNat).layout = 1 → (m.slot x.slotB.toNat).layout = 2 →
        (∀ i n j, i < s.me.nr.toNat → n < 128 → j < 4 → pairOk ((a i).tag j / 256) ((b n).tag j / 256) = true) →
        ∃ t, exec i s = .next t ∧ SameMemory s t ∧ t.me.ia = s.me.nextIa ∧ t.me.vregs = s.me.vregs ∧ t.me.flags = s.me.flags ∧
          (∀ i n, i < s.me.nr.toNat → n < 128 → ((Spec.mxe t).acc k).get x.tile i n =
            (List.range 4).foldl (fun acc j => mmaElem o (j == 0) acc (pairSum (blockVals (a i) j) (blockVals (b n) j)))
              ((m.acc k).get x.tile i n)) ∧
          (∀ i n, s.me.nr.toNat ≤ i → i < 128 → n < 128 → ((Spec.mxe t).acc k).get x.tile i n = (m.acc k).get x.tile i n) ∧
          (∀ i n, i < 128 → n < 128 → ((Spec.mxe t).acc k).get (!x.tile) i n = (m.acc k).get (!x.tile) i n) ∧
          ((Spec.mxe t).acc k).dirty x.tile = true ∧ (Spec.mxe t).slots = m.slots ∧ (Spec.mxe t).rows = m.rows ∧
          ∀ j, j < 4 → j ≠ k → (Spec.mxe t).acc j = m.acc j)
    is (.mma x) .acc ∧ is (.mmaz x) .zero ∧ is (.mman x) .neg) ∧
  (∀ (o : MmaOp) (first : Bool) (old p : Nat), mmaElem o first old p =
    if o = .zero ∧ first = true then p
    else rneA36 (sumVals [fmtA36.decode old, if o = .neg then (fmtA36.decode p).neg else fmtA36.decode p])) ∧
  (∀ xs ys : List (Bool × Nat × Int), let val := fun (v : Bool × Nat × Int) => Val.fin v.1 v.2.1 v.2.2
    let num := fun (v : Bool × Nat × Int) => Spec.real v.1 v.2.1 v.2.2
    ∃ n m e, Spec.real n m e = ((xs.zip ys).map fun q => num q.1 * num q.2).sum ∧ (m = 0 → n = false) ∧
      pairSum (some (xs.map val)) (some (ys.map val)) = (fmtA36.round .rne false (.fin n m e)).1) ∧
  (∀ v : Option (List Val), pairSum none v = 0 ∧ pairSum v none = 0) ∧
  (∀ vs : List Val, (Val.nan ∈ vs ∨ (Val.inf true ∈ vs ∧ Val.inf false ∈ vs) → rneA36 (sumVals vs) = 0x7FE000000) ∧
    (Val.nan ∉ vs → Val.inf true ∉ vs → Val.inf false ∈ vs → rneA36 (sumVals vs) = 0x7FC000000))

/-- MDRAIN, MACCST and MACCLD (R298 to R300): a drain rounds each active element of the tile to the type, ties to even, and the tile
is clean where one was written; MACCST stores each row as 128 doublewords and MACCLD loads them; without a grant both raise
illegal-shape. The model's own choices here: their order of checks is log entry 29. -/
def Obligations.AccumulatorTransfers : Prop :=
  ∀ s : State, Accepting s → s.cur < 160 → s.mxes.length = 40 → s.dies.length = 4 → s.me.sb = [] → Memory.wf s.mem = true →
    let m := Spec.mxe s
    let k := s.cur % 4
    (∀ x : DrnF, x.ty ∈ Spec.fpTypes → (s.me.nr.toNat ≤ 32 * (m.held k).length ∨ s.me.nc = 0) →
      Spec.Fits s (if x.ty = .fp32 then 64 else 128) [x.d] →
      exec (.mdrain x) s = .next (s.vectorDone (.mdrain x) .frm none none none none fun t =>
        let u := t.updMe fun q => q.writeElems (s.entry (.mdrain x) .frm none none none none) x.d x.ty fun r c =>
          if Spec.on s x.k r c then
            some ((Spec.fmt x.ty).round .rne false (fmtA36.decode ((m.acc k).get x.tile r (if x.half then 64 + c else c)))) else none
        if (List.range s.me.nr.toNat).any fun r => (List.range s.me.nc.toNat).any fun c => Spec.on s x.k r c then
          u.updMxe (s.cur / 4) fun m => m.updAcc k fun a => a.setDirty x.tile false else u)) ∧
    (∀ (x : AccMF) (loc : Nat), let a := (s.me.x x.a).toNat
      let rows := 32 * (m.held k).length
      (a % 64 ≠ 0 → exec (.maccst x) s = .next (Spec.halted s (.maccst x) .frm (some x.a) none none none (faultOf 4 a 0x800)) ∧
        exec (.maccld x) s = .next (Spec.halted s (.maccld x) .frm (some x.a) none none none (faultOf 4 a 0))) ∧
      (a % 64 = 0 → m.held k = [] →
        exec (.maccst x) s = .next (Spec.halted s (.maccst x) .frm (some x.a) none none none (faultOf 21 0 0)) ∧
        exec (.maccld x) s = .next (Spec.halted s (.maccld x) .frm (some x.a) none none none (faultOf 21 0 0))) ∧
      (a % 64 = 0 → m.held k ≠ [] → Spec.RowIn s s.cur a loc (1024 * rows) →
        (∃ t, exec (.maccst x) s = .next t ∧ t.me.ia = s.me.nextIa ∧ ((Spec.mxe t).acc k).dirty x.tile = false ∧
          (∀ r n, r < rows → n < 128 → t.num (loc + 1024 * r + 8 * n) 8 = (m.acc k).get x.tile r n) ∧
          SameMemoryBut s t loc (1024 * rows)) ∧
        (∃ t, exec (.maccld x) s = .next t ∧ t.me.ia = s.me.nextIa ∧ SameMemory s t ∧ ((Spec.mxe t).acc k).dirty x.tile = true ∧
          ∀ r n, r < rows → n < 128 → ((Spec.mxe t).acc k).get x.tile r n = s.num (loc + 1024 * r + 8 * n) 8 % 2 ^ 36)))

/-! ## Overlays (R107 to R127) -/

/-- The overlay instructions (R121 to R127). GSPEC releases and changes SCX; GCOMMIT and GDISCARD release, settle the pages of the
range, from the page that they have come to, and answer the lines settled; GQUERY reads a field; GFLATTEN and GPOOL are the
supervisor's. The model's own choices here: waits of the releases are log entry 11, GFLATTEN of a pad address log entry 60. -/
def Obligations.OverlayInstructions : Prop :=
  ∀ s : State,
    let c := s.me.ctx s.cur
    let u := Spec.released s .device
    (∀ x : R2T2, Ready s [x.d, x.a] → Spec.Quiet s →
      exec (.gspec x) s = .next ((u.updMe fun k => { k with scx := (s.me.x x.a).extractLsb' 0 16 }).wrote x.d (s.me.scx.setWidth 64))) ∧
    (∀ x : R3T2, Ready s [x.d, x.a, x.b] → Spec.Quiet s →
      let a := (s.me.x x.a).toNat
      let n := (s.me.x x.b).toNat
      let is := fun (i : Instr) (commit : Bool) =>
        ((s.me.scx = 0 ∨ n = 0) → exec i s = .next (u.wrote x.d 0)) ∧
        (s.me.scx ≠ 0 → n ≠ 0 → let at_ := s.me.settling.getD (a, 0)
          ∀ k t, Answers (settlePages c commit (n / 4096 + 2) at_.1 (a + n) at_.2) u k t → Spec.Stands s t →
            exec i s = .next ((t.updMe fun q => { q with settling := none }).wrote x.d (BitVec.ofNat 64 k)))
      is (.gcommit x) true ∧ is (.gdiscard x) false) ∧
    (∀ x : R3T2, Ready s [x.d, x.a, x.b] →
      let a := (s.me.x x.a).toNat
      (a < 2 ^ 57 → bits a 56 52 = 0x1F → exec (.gquery x) s = .next (s.wrote x.d 0)) ∧
      (∀ (p : Page) (t : State), ¬ (a < 2 ^ 57 ∧ bits a 56 52 = 0x1F) → Answers (place c .read a) s (.page p) t → Spec.Stands s t →
        (p.pdb = none ∨ p.leaf.getLsbD 11 = false → exec (.gquery x) s = .next (t.wrote x.d 0)) ∧
        (∀ b, p.pdb = some b → p.leaf.getLsbD 11 = true →
          let r := t.span b ((a - p.va) / 4096)
          let f : Nat := match (s.me.x x.b).toNat with
            | 0 => r.pmask | 1 => r.smask | 2 => t.num (spanAddr b ((a - p.va) / 4096) + 16) 8 | 3 => 1 | _ => 0
          exec (.gquery x) s = .next (t.wrote x.d (BitVec.ofNat 64 f))))) ∧
    (∀ x : R3T2, Ready s [x.d, x.a, x.b] → s.me.sstat.mode = true → Spec.Quiet s →
      ∀ (src dst : Place) (t : State), Answers (do let p ← place c .read (s.me.x x.a).toNat; let q ← place c .write (s.me.x x.b).toNat
                                                   return (p, q)) u (src, dst) t → Spec.Stands s t →
        let gives := fun (v : Word) => exec (.gflatten x) s = .next (t.wrote x.d v)
        match src with
        | .pad _ => gives 3
        | .page p =>
          match p.pdb with
          | none => gives 3
          | some b =>
            if p.leaf.getLsbD 11 = false then gives 3
            else if (List.range b.nspan).any fun j => (t.span b j).owner != 0 then gives 1
            else match dst with
              | .pad _ => gives 2
              | .page q => if (s.me.x x.b).toNat % p.size ≠ 0 ∨ q.size < p.size ∨ plainLeaf q = false then gives 2
                else t.storesTo (t.usedLines b (List.range b.nspan)) = false →
                  exec (.gflatten x) s = .next ((t.flatten c p b (q.phys (s.me.x x.b).toNat)).wrote x.d 0)) ∧
    (∀ x : R3T2, Ready s [x.d, x.a, x.b] → s.me.sstat.mode = true →
      let w := s.me.x x.b
      let code := (w.extractLsb' 0 3).toNat
      let die := (w.extractLsb' 4 2).toNat
      let asid := w.extractLsb' 48 16
      let count := (w.extractLsb' 16 16).toNat
      let size := 64 * 2 ^ code
      let list := (s.die die).pool asid code
      let a := (s.me.x x.a).toNat
      let all := fun (t : State) => exec (.gpoolDonate x) s = .next t ∧ exec (.gpoolDrop x) s = .next t ∧ exec (.gpoolQuery x) s = .next t
      (code = 7 → all (s.wrote x.d (BitVec.allOnes 64))) ∧
      (code ≠ 7 → w.getLsbD 7 = true →
        all ((s.updDie die fun d => d.setPool asid code []).wrote x.d (BitVec.ofNat 64 list.length))) ∧
      (code ≠ 7 → w.getLsbD 7 = false → count = 0 → all (s.wrote x.d (BitVec.ofNat 64 list.length))) ∧
      (code ≠ 7 → w.getLsbD 7 = false → count ≠ 0 → ∀ (p : Page) (t : State), Answers (place c .write a) s (.page p) t → Spec.Stands s t →
        a + count * size ≤ p.va + p.size →
        (a % size = 0 → p.leaf.getLsbD 7 = true → plainLeaf p = true → list.length + count < 2 ^ 32 →
          all ((t.updDie die fun d => d.setPool asid code (d.pool asid code ++ (List.range count).map fun k => p.phys a + k * size)).wrote
            x.d (BitVec.ofNat 64 (list.length + count)))) ∧
        (a % size ≠ 0 ∨ p.leaf.getLsbD 7 = false ∨ plainLeaf p = false ∨ 2 ^ 32 ≤ list.length + count →
          all (t.wrote x.d (BitVec.allOnes 64)))) ∧
      (code ≠ 7 → w.getLsbD 7 = false → count ≠ 0 → ∀ (o : Place) (q : Option Page) (t v : State), Answers (place c .write a) s o t →
        (∀ p, o = .page p → p.va + p.size < a + count * size) →
        Answers (donated c (count * size / 4096 + 2) a (a + count * size - 1) none true) s q v → Spec.Stands s v →
          all (v.wrote x.d (BitVec.allOnes 64))))

/-- What an access id reads of line i of span j (R107): its bytes, or none where the line has an uncorrectable error (R184). -/
def Spec.seen (s : State) (pdb : Pdb) (base j i id : Nat) : Option (List Byte) := s.lineOrError ((s.span pdb j).select base j i id)

/-- Two ranges of bytes have none in common. -/
def Spec.Apart (a n b m : Nat) : Prop := a + n ≤ b ∨ b + m ≤ a

/-- Chunks of a class at `c` lie apart from the span's record and its base lines. -/
def Spec.ChunkApart (pdb : Pdb) (base j cls c : Nat) : Prop :=
  c < 2 ^ 64 ∧ c % 64 = 0 ∧ Spec.Apart c (64 * 2 ^ cls) (spanAddr pdb j) 32 ∧ Spec.Apart c (64 * 2 ^ cls) (base + 4096 * j) 4096

/-- A span is in order: its lines fit its chunk, it has an owner where it has speculative lines (R108), its chunk and those of the
pool lie apart from what the span reads, its record has no error, and no store to its chunk is still in a store buffer. -/
structure Spec.SpanOk (s : State) (pdb : Pdb) (asid : BitVec 16) (base j : Nat) : Prop where
  memory : Memory.wf s.mem = true
  cls : (s.span pdb j).cls ≤ 6
  fits : if (s.span pdb j).cls = 0 then (s.span pdb j).used = 0 else (s.span pdb j).used ≤ 2 ^ (s.span pdb j).cls
  owner : (s.span pdb j).owner = 0 → (s.span pdb j).smask = 0
  chunk : Spec.ChunkApart pdb base j (s.span pdb j).cls (s.span pdb j).chunk
  record : Spec.Apart (spanAddr pdb j) 32 (base + 4096 * j) 4096
  aligned : base % 64 = 0
  performed : ∀ c, c < s.cores.length → ∀ e ∈ (s.core c).sb, e.loc / 64 ∉ chunkLines (s.span pdb j).chunk (s.span pdb j).used
  pool : ∀ code c cs, 1 ≤ code → code ≤ 6 → (s.die (glazeDie pdb)).pool asid code = c :: cs → Spec.ChunkApart pdb base j code c

/-- Side changes keep what they should (R107, R108, R111, R113, R122, R124): routing a store, before its bytes are written, changes no
line that any id sees, and gives the line that the store's id then reads; after a commit every id sees what the id saw; after a
discard every id sees what id 0 saw; the span then has no owner. A page settles the spans that the id owns, and answers their
speculative lines. The model's own choices here: contents of unused slots are free values (log entry 16). -/
def Obligations.SideChangesKeepLines : Prop :=
  ∀ (s : State) (x : Ctx) (pdb : Pdb) (p : Page) (j : Nat), p.pdb = some pdb → Spec.SpanOk s pdb x.asid p.base j → s.dies.length = 4 →
    (∀ va eva t line, p.va ≤ va → (va - p.va) / 4096 = j → s.routeGlaze x p pdb va eva = .ok (t, line) →
      (∀ i id, i < 64 → Spec.seen t pdb p.base j i id = Spec.seen s pdb p.base j i id) ∧
      line = (t.span pdb j).select p.base j ((va - p.va) % 4096 / 64) x.scx.toNat) ∧
    (x.scx ≠ 0 → (s.span pdb j).owner = x.scx.toNat → ∀ commit,
      let r := s.settleSpan x pdb commit j
      (∀ i id, i < 64 → Spec.seen r.1 pdb p.base j i id = Spec.seen s pdb p.base j i (if commit then x.scx.toNat else 0)) ∧
      (r.1.span pdb j).owner = 0 ∧ (r.1.span pdb j).smask = 0) ∧
    (∀ commit, let mine := (List.range pdb.nspan).filter fun k => decide ((s.span pdb k).owner = x.scx.toNat)
      (mine = [] → s.settlePage x pdb commit = (s, 0)) ∧
      (s.settlePage x pdb commit).2 =
        (mine.map fun k => ((List.range 64).filter fun i => (s.span pdb k).smask.testBit i).length).sum)

/-! ## Versions (R129 to R155) -/

/-- The scalar and vector version instructions (R135 to R153). VERST, VVERST, VFLOOR and VSEAL release first; VERST writes one
version, or raises the fault of the write; VERLD and VERLDN give x[D] the bytes of the version that answers and VERSTAT its
number; on a page without VERS, and in pad space, a line has version 0 alone, under a seal that lets nothing be written. The
model's own choices here: order of the lines of a vector form is log entry 58, waits log entry 11, chains that software wrote log
entry 61. -/
def Obligations.VersionInstructions : Prop :=
  ∀ s : State, Spec.Quiet s →
    let c := s.me.ctx s.cur
    (∀ (x : VerF), Ready s [x.d, x.a, x.b] →
      let n := 2 ^ x.width.toNat
      let a := (s.me.x x.a).toNat
      (let v := (s.me.x x.d).toNat % 2 ^ 32;
        (a % n ≠ 0 → exec (.verst x) s = .next (s.after (trapEntry (some (faultOf 4 a 0x800)) s.me.ia))) ∧
        (a % n = 0 → ∀ (q : Place) (t : State), Answers (place c .write a) s q t →
          let u := Spec.released t .device
          let traps := fun (r : Trap) => exec (.verst x) s = .next (u.after (trapEntry (some r) s.me.ia))
          (u.verPlace q a = none → traps (faultOf 11 a (v * 2 ^ 32 + (2 ^ 32 - 1)))) ∧
          (∀ l, u.verPlace q a = some l →
            let w := u.writeVersion s.cur l v ((leBytes n (s.me.x x.b).toNat).zipIdx.map fun p => (a % 64 + p.2, p.1)) false a
            (∀ w', w = .ok w' → exec (.verst x) s = .next w'.goesOn) ∧ (∀ r, w = .error r → traps r)))) ∧
      (let v := (s.me.x x.b).toNat % 2 ^ 32;
        let is := fun (i : Instr) (waits : Bool) =>
          (a % n ≠ 0 → s.acquiring s.cur = false → exec i s = .next (s.after (trapEntry (some (faultOf 4 a 0)) s.me.ia))) ∧
          (a % n = 0 → s.acquiring s.cur = false → ∀ (q : Place) (t : State), Answers (place c .read a) s q t →
            (t.verPlace q a = none → ∀ bs u, t.me.sb = [] → Ends (fabricOrder (t.targetOf c q a).loc n) t t →
              Answers (vecRead c q a n) t bs u → exec i s = .next (u.updMe fun k => { k.setX x.d (BitVec.ofNat 64 (leNat bs)) with
                verstat := BitVec.ofNat 64 ((if v = 0 then 1 else 0) + 2 * if v = 0 then 0 else 1) }).goesOn) ∧
            (∀ l, t.verPlace q a = some l →
              (∀ w sealed, t.answer l v waits a = .got w sealed →
                exec i s = .next ((t.acquireVersion s.cur l).updMe fun k => { k.setX x.d (BitVec.ofNat 64 (leNat (t.readAs none (w.loc + a % 64) n))) with
                  verstat := BitVec.ofNat 64 (w.num * 2 ^ 32 + 2 * (if sealed then 1 else 0) + if w.num = v then 1 else 0) }).goesOn) ∧
              (t.answer l v waits a = .pending → exec i s = .next t) ∧
              (∀ r, t.answer l v waits a = .fault r → exec i s = .next (t.after (trapEntry (some r) s.me.ia)))))
        is (.verld x) true ∧ is (.verldn x) false)) ∧
    (∀ (x : R3T4) (q : Place) (t : State), Ready s [x.d, x.a, x.b] → Answers (place c .write (s.me.x x.a).toNat) s q t →
      let u := Spec.released t .device
      let v := (s.me.x x.b).toNat % 2 ^ 32
      (u.verPlace q (s.me.x x.a).toNat = none →
        exec (.vfloor x) s = .next (u.wrote x.d (BitVec.allOnes 64)) ∧ exec (.vseal x) s = .next (u.wrote x.d (BitVec.allOnes 64))) ∧
      (∀ l, u.verPlace q (s.me.x x.a).toNat = some l →
        (let r := u.raiseRegion s.cur l.region true v; exec (.vfloor x) s = .next (r.1.wrote x.d (BitVec.ofNat 64 r.2))) ∧
        (let r := u.raiseRegion s.cur l.region false v; exec (.vseal x) s = .next (r.1.wrote x.d (BitVec.ofNat 64 r.2))))) ∧
    (∀ (x : R2T4) (q : Place) (t : State), Ready s [x.d, x.a] → Answers (place c .read (s.me.x x.a).toNat) s q t →
      let n := fun (l : VLine) => match t.versions l with | w :: _ => w.num | [] => 0
      (t.verPlace q (s.me.x x.a).toNat = none → exec (.verq x) s = .next (t.wrote x.d 0)) ∧
      (∀ l, t.verPlace q (s.me.x x.a).toNat = some l →
        (t.tainted l = false → exec (.verq x) s = .next (t.wrote x.d (BitVec.ofNat 64 (n l)))) ∧
        (t.tainted l = true → exec (.verq x) s = .next (t.after (trapEntry (some (taintTrap l (s.me.x x.a).toNat)) s.me.ia))))) ∧
    (∀ (x : VVerF), Accepting s →
      let e := fun (op : VecOp) => s.entry op .frm (some x.a) (some x.b) (some x.c) none
      let d := fun (op : VecOp) => s.dispatched op .frm (some x.a) (some x.b) (some x.c) none
      let live := (List.range s.me.nr.toNat)
      let nothing := (∀ r c, Spec.on s x.k r c = false)
      (nothing → exec (.vverst x) s = .next (s.coreDone (.vverst x) .frm (some x.a) (some x.b) (some x.c) none fun _ k => k) ∧
        exec (.vverld x) s = .next (s.coreDone (.vverld x) .frm (some x.a) (some x.b) (some x.c) none fun _ k => k)) ∧
      (¬ nothing → verShapeBad true x (e (.vverst x)) = false → ∀ ls u w,
        Answers (verLines ((e (.vverst x)).ctx s.cur) .write x (e (.vverst x)) live) (Spec.released (d (.vverst x)) .device) (ls, none) u →
        Ends (ls.forM (verWrite s.cur x (e (.vverst x)))) u w → Spec.Stands s w →
          exec (.vverst x) s = .next (Spec.ran s (.vverst x) .frm (some x.a) (some x.b) (some x.c) none w)) ∧
      (¬ nothing → verShapeBad false x (e (.vverld x)) = false → ∀ ls u,
        Answers (verLines ((e (.vverld x)).ctx s.cur) .read x (e (.vverld x)) live) (d (.vverld x)) (ls, none) u →
        (∀ w, ls.all (u.verReady ((s.me.x x.c).toNat % 2 ^ 32)) = true → Ends (ls.forM (verRead ((e (.vverld x)).ctx s.cur) x (e (.vverld x)))) u w →
          Spec.Stands s w → exec (.vverld x) s = .next (Spec.ran s (.vverld x) .frm (some x.a) (some x.b) (some x.c) none w)) ∧
        (ls.all (u.verReady ((s.me.x x.c).toNat % 2 ^ 32)) = false → Spec.Stands s u → exec (.vverld x) s = .next u.goesOn)))

/-- The chain of a line is in order: its links are distinct and of the array, their numbers fall and are not 0, the two links that a write
may take are none of them, software has written none of its parts (R132), and the record, the head entry, the links, the versions and
the chunk that a write may take lie apart. -/
structure Spec.ChainOk (s : State) (l : VLine) : Prop where
  memory : Memory.wf s.mem = true
  aligned : l.base % 64 = 0
  clean : s.tainted l = false ∧ ((s.region l.region).linkFree ≠ 0 →
    s.foreign l.region ((s.region l.region).link (s.region l.region).linkFree) = false)
  short : (s.chainFrom (s.region l.region) (s.region l.region).linkCount (s.num l.head 4)).length < (s.region l.region).linkCount
  links : ∀ w ∈ s.versions l, w.link < (s.region l.region).linkCount ∧ (w.link = 0 → w = { link := 0, num := 0, loc := l.base })
  falls : (s.versions l).Pairwise fun v w => w.num < v.num ∧ w.link ≠ v.link
  free : (s.region l.region).linkFree < (s.region l.region).linkCount ∧ (s.region l.region).linkNext ≠ 0 ∧
    ∀ w ∈ s.versions l, (w.link ≠ 0 → w.link ≠ (s.region l.region).linkFree) ∧ w.link ≠ (s.region l.region).linkNext
  tables : Spec.Apart (l.region * 64) 64 l.head 8 ∧
    Spec.Apart (l.region * 64) 64 (s.region l.region).linkBase (16 * (s.region l.region).linkCount) ∧
    Spec.Apart l.head 8 (s.region l.region).linkBase (16 * (s.region l.region).linkCount)
  bytes : ∀ w ∈ s.versions l, Spec.Apart w.loc 64 (l.region * 64) 64 ∧ Spec.Apart w.loc 64 l.head 8 ∧
    Spec.Apart w.loc 64 (s.region l.region).linkBase (16 * (s.region l.region).linkCount)
  chunk : ∀ c cs, (s.die ((homeOf l.base).getD 0)).pool (s.region l.region).pool 0 = c :: cs → c % 64 = 0 ∧ c < 2 ^ 52 ∧
    Spec.Apart c 64 (l.region * 64) 64 ∧ Spec.Apart c 64 l.head 8 ∧
    Spec.Apart c 64 (s.region l.region).linkBase (16 * (s.region l.region).linkCount) ∧ ∀ w ∈ s.versions l, Spec.Apart c 64 w.loc 64

/-- Version writes, answers, seal and floor (R132, R134 to R137, R139, R140). Where software has written a part of the chain, a write and a
read raise uncorrectable-memory, which is the model's choice (log entry 61). A write above the seal of a number that the line has not got inserts
that version, with the bytes of the newest older one under its own; every other version keeps its bytes, the floor and the seal stand,
and an answer that could be given before is the same after. VFLOOR and VSEAL take maxima, and leave the floor at most the seal. -/
def Spec.VersionsNeverChange : Prop :=
  (∀ (s t : State) (core v va : Nat) (l : VLine) (b : List (Nat × Byte)) (whole : Bool), Spec.ChainOk s l → v < 2 ^ 32 →
    (∀ q ∈ b, q.1 < 64) → s.writeVersion core l v b whole va = .ok t →
    let g := s.region l.region
    let vs := s.versions l
    g.floorNo ≤ g.sealNo ∧ g.sealNo < v ∧ (∀ w ∈ vs, w.num ≠ v) ∧
    (∃ new : Ver, new.num = v ∧ new.link ≠ 0 ∧
      t.versions l = (vs.filter fun w => decide (v < w.num)) ++ [new] ++ vs.filter (fun w => decide (w.num < v)) ∧
      (∃ old ∈ vs, old.num < v ∧ (∀ w ∈ vs, w.num < v → w.num ≤ old.num) ∧
        t.readAs none new.loc 64 = layOver (s.readAs none old.loc 64) b)) ∧
    (∀ w ∈ vs, t.readAs none w.loc 64 = s.readAs none w.loc 64) ∧
    (t.region l.region).floorNo = g.floorNo ∧ (t.region l.region).sealNo = g.sealNo ∧ (t.region l.region).live = (g.live + 1) % 2 ^ 32 ∧
    (∀ v' va', v' < 2 ^ 32 → s.answer l v' true va' ≠ .pending → t.answer l v' true va' = s.answer l v' true va')) ∧
  (∀ (s : State) (core v va : Nat) (l : VLine) (b : List (Nat × Byte)) (whole : Bool),
    let g := s.region l.region
    let vs := s.versions l
    (s.tainted l = true → s.writeVersion core l v b whole va = .error (taintTrap l va) ∧ ∀ wait, s.answer l v wait va = .fault (taintTrap l va)) ∧
    (s.tainted l = false →
    ((g.sealNo < g.floorNo ∨ v ≤ g.sealNo) → s.writeVersion core l v b whole va = .error (faultOf 11 va (v * 2 ^ 32 + g.sealNo))) ∧
    (g.floorNo ≤ g.sealNo → g.sealNo < v → (∃ w ∈ vs, w.num = v) → s.writeVersion core l v b whole va = .error (faultOf 10 va (v * 2 ^ 32))) ∧
    (g.floorNo ≤ g.sealNo → g.sealNo < v → (∀ w ∈ vs, w.num ≠ v) → (whole = true ∨ ∀ w ∈ vs, s.badLines.contains (w.loc / 64) = false) →
      let d := (homeOf l.base).getD 0
      (g.linkFree ≠ 0 → s.foreign l.region (g.link g.linkFree) = true → s.writeVersion core l v b whole va = .error (taintTrap l va)) ∧
      (g.linkFree = 0 → g.linkCount ≤ g.linkNext → v < 2 ^ 32 → d < 4 → ∃ aux, bits aux 63 6 = v * 2 ^ 26 + 1 ∧
        s.writeVersion core l v b whole va = .error (faultOf 12 va aux)) ∧
      ((g.linkFree ≠ 0 ∧ s.foreign l.region (g.link g.linkFree) = false ∨ g.linkFree = 0 ∧ g.linkNext < g.linkCount) →
        ((s.die d).pool g.pool 0 = [] → s.writeVersion core l v b whole va = .error (faultOf 12 va (v * 2 ^ 32 + d * 16))) ∧
        ((s.die d).pool g.pool 0 ≠ [] → ∃ t, s.writeVersion core l v b whole va = .ok t))))) ∧
  (∀ (s : State) (l : VLine) (v va : Nat), s.tainted l = false →
    let g := s.region l.region
    (g.sealNo < g.floorNo → ∀ wait, s.answer l v wait va = .fault (faultOf 11 va (v * 2 ^ 32 + g.sealNo))) ∧
    (g.floorNo ≤ g.sealNo → g.sealNo < v → (∀ w ∈ s.versions l, w.num ≠ v) → s.answer l v true va = .pending) ∧
    (g.floorNo ≤ g.sealNo → (s.versions l).Pairwise (fun x y => y.num < x.num) → (∀ w ∈ s.versions l, s.badLines.contains (w.loc / 64) = false) →
      ∀ w ∈ s.versions l, w.num ≤ v → (∀ y ∈ s.versions l, y.num ≤ v → y.num ≤ w.num) → ∀ wait,
        (wait = true → w.num = v ∨ v ≤ g.sealNo) →
        s.answer l v wait va =
          if w.num ≤ g.floorNo ∧ ∃ y ∈ s.versions l, w.num < y.num ∧ y.num ≤ g.floorNo then .fault (faultOf 13 va (v * 2 ^ 32 + g.floorNo))
          else .got w (decide (w.num ≠ v ∧ v ≤ g.sealNo)))) ∧
  (∀ (s : State) (core id v : Nat) (isFloor : Bool), Memory.wf s.mem = true → v < 2 ^ 32 →
    let g := s.region id
    let r := s.raiseRegion core id isFloor v
    let h := r.1.region id
    h.floorNo = (if isFloor then max g.floorNo v else g.floorNo) ∧
    h.sealNo = max (max g.sealNo g.floorNo) (if isFloor then max g.floorNo v else v) ∧
    h.floorNo ≤ h.sealNo ∧ r.2 = (if isFloor then h.floorNo else h.sealNo) ∧
    h.pool = g.pool ∧ h.linkBase = g.linkBase ∧ h.linkCount = g.linkCount ∧ h.linkNext = g.linkNext ∧ h.linkFree = g.linkFree ∧
    h.live = g.live ∧ SameMemoryBut s r.1 (id * 64) 8)

/-- VERSION_RECLAIM (R134, R136): the oldest reclaimed version of a line leaves its chain, its chunk goes to the tail of the list that it
came from and its link to the head of LINKFREE; every retained version stays, with its bytes, and with none reclaimed nothing changes. -/
def Spec.VersionReclaim : Prop :=
  ∀ (s : State) (region head base : Nat), let l : VLine := { head := head, base := base, region := region }
    let g := s.region region
    let vs := s.versions l
    let kept := fun (w : Ver) => retained vs g.floorNo w.num
    ((∀ w ∈ vs, w.link = 0 ∨ kept w = true) → exec (.versionReclaim region head base) s = .next s) ∧
    (Spec.ChainOk s l → ∀ older w newer, vs = newer ++ [w] ++ older → w.link ≠ 0 → kept w = false → (∀ y ∈ older, y.link = 0 ∨ kept y = true) →
      ∃ t, exec (.versionReclaim region head base) s = .next t ∧
        t.versions l = newer ++ older ∧ (∀ y ∈ vs, t.readAs none y.loc 64 = s.readAs none y.loc 64) ∧
        (t.region region).floorNo = g.floorNo ∧ (t.region region).sealNo = g.sealNo ∧
        (t.region region).linkFree = w.link ∧ t.num (g.linkBase + 16 * w.link + 4) 4 = g.linkFree ∧
        (0 < g.live → (t.region region).live = g.live - 1) ∧
        (let d := (homeOf base).getD 0;
          d < s.dies.length → (t.die d).pool g.pool 0 = (s.die d).pool g.pool 0 ++ [w.loc]))

/-! ## The KV space (R156 to R174) -/

/-- Words of the KV tables that a walk may read: n words at an address of device memory, in a line without an error, of which the walker
cache of the die holds nothing older (R162, R163). -/
structure Spec.KvItem (s : State) (c : KvCtx) (pa n : Nat) : Prop where
  range : s.devRange pa (8 * n) = true
  good : s.badLines.contains (pa / 64) = false
  fresh : ∀ q ∈ (s.die c.die).kv, q.addr = pa → q.words.length = n → q.words = (List.range n).map fun i => BitVec.ofNat 64 (s.num (pa + 8 * i) 8)

/-- The tables name the sequence record of a KV address (R157 to R159): its place, NLAYER and LTAB. -/
structure Spec.KvSequence (s : State) (c : KvCtx) (rc nlayer ltab : Nat) : Prop where
  enabled : c.root.getLsbD 0 = true
  directory : s.devRange (bits c.root.toNat 51 15 * 2 ^ 15) (2 ^ 15) = true
  first : Spec.KvItem s c (bits c.root.toNat 51 15 * 2 ^ 15 + 8 * bits c.addr 63 52) 1
  second : let e := s.num (bits c.root.toNat 51 15 * 2 ^ 15 + 8 * bits c.addr 63 52) 8
    e % 2 = 1 ∧ bits e 14 1 = 0 ∧ bits e 63 52 = 0 ∧
    ∃ f, f = s.num (bits e 51 15 * 2 ^ 15 + 8 * bits c.addr 51 40) 8 ∧ Spec.KvItem s c (bits e 51 15 * 2 ^ 15 + 8 * bits c.addr 51 40) 1 ∧
      f % 2 = 1 ∧ bits f 5 1 = 0 ∧ bits f 63 52 = 0 ∧ rc = bits f 51 6 * 64
  record : Spec.KvItem s c (rc + 8) 2
  valid : s.num (rc + 8) 8 = 2 ^ 16 + nlayer ∧ nlayer ≤ 256 ∧ s.num rc 8 ≤ 2 ^ 24
  layers : s.num (rc + 16) 8 = ltab ∧ ltab < 2 ^ 52 ∧ ltab % 8 = 0 ∧ s.devRange ltab 8 = true

/-- The tables name the layer record of a KV address (R160): its fields and HTAB. -/
structure Spec.KvLayerAt (s : State) (c : KvCtx) (l : KvLayer) (htab : Nat) : Prop where
  sequence : ∃ nlayer ltab, Spec.KvSequence s c l.record nlayer ltab ∧ kvLayer c.addr < nlayer ∧
    Spec.KvItem s c (ltab + 8 * kvLayer c.addr) 1 ∧
    ∃ a, a = s.num (ltab + 8 * kvLayer c.addr) 8 ∧ 0 < a ∧ a < 2 ^ 52 ∧ a % 64 = 0 ∧ Spec.KvItem s c a 8 ∧
      kvFmt (bits (s.num a 8) 4 0) = some l.fmt ∧ bits (s.num a 8) 7 5 = 0 ∧ bits (s.num a 8) 31 24 = 0 ∧
      l.ksc = bits (s.num a 8) 15 8 ∧ l.vsc = bits (s.num a 8) 23 16 ∧ l.dim = bits (s.num a 8) 47 32 ∧
      l.nhead = bits (s.num a 8) 63 48 ∧ 0 < l.nhead ∧ l.nhead ≤ 256 ∧
      s.num (a + 8) 8 = l.rot ∧ s.num (a + 16) 8 = htab ∧ s.num (a + 24) 8 = l.npage ∧ l.npage < 2 ^ 32 ∧
      (∀ i, 4 ≤ i → i < 8 → s.num (a + 8 * i) 8 = 0)
  dim : 0 < l.dim ∧ l.dim * l.fmt.width ≤ 2048
  rot : l.rot < 2 ^ 52 ∧ l.rot % 4 = 0 ∧ (l.rot ≠ 0 → l.dim % 2 = 0 ∧ s.devRange l.rot (2 * l.dim) = true)
  heads : htab < 2 ^ 52 ∧ htab % 8 = 0 ∧ s.devRange htab 8 = true

/-- The tables name the page-list entry `pe` of a KV address (R161), whose HEAD the layer has. -/
structure Spec.KvPage (s : State) (c : KvCtx) (l : KvLayer) (pe : Nat) : Prop where
  list : ∃ htab pl, Spec.KvLayerAt s c l htab ∧ Spec.KvItem s c (htab + 8 * kvHead c.addr) 1 ∧ pl = s.num (htab + 8 * kvHead c.addr) 8 ∧
    0 < pl ∧ pl % 8 = 0 ∧ pl < 2 ^ 52 ∧ s.devRange pl 8 = true ∧ Spec.KvItem s c (pl + 8 * (kvPos c.addr / 64)) 1 ∧ pe = s.num (pl + 8 * (kvPos c.addr / 64)) 8
  pos : kvPos c.addr < 64 * l.npage
  head : kvHead c.addr < l.nhead

/-- A KV row is mapped: its page is valid and, for a write, not shared; `pa` is the address of its K row (R161, R162). -/
structure Spec.KvMapped (s : State) (c : KvCtx) (write : Bool) (l : KvLayer) (pa : Nat) : Prop where
  page : ∃ pe, Spec.KvPage s c l pe ∧ pe % 2 = 1 ∧ bits pe 14 2 = 0 ∧ bits pe 63 52 = 0 ∧ (write = true → bits pe 1 1 = 0) ∧
    s.devRange (bits pe 51 15 * 2 ^ 15) (2 ^ 15) = true ∧ pa = bits pe 51 15 * 2 ^ 15 + 256 * (kvPos c.addr % 64)

/-- Only walker caches differ. -/
def Spec.OnlyKv (s t : State) : Prop :=
  { s with dies := [] } = { t with dies := [] } ∧ t.dies.length = s.dies.length ∧ ∀ d, { t.die d with kv := [] } = { s.die d with kv := [] }

/-- The walk (R156 to R163, R165): a mapped row is found where the tables say; each way in which they do not map it is the KV-page or
KV-bounds fault of its reason, with the KV address in EKV; and an invalid item is in no walker cache afterwards. The model's own
choices here: cached items are log entry 14, valid bits before malformed entries log entry 66, bits [63:52] of the tables log entry
67. -/
def Obligations.KvWalks : Prop :=
  ∀ (s : State) (c : KvCtx) (write : Bool),
    let fails := fun (page : Bool) (reason : Nat) => ∃ t, Traps (kvWalk c write) s
      { intr := false, code := if page then 14 else 15, eva := 0, eaux := BitVec.ofNat 64 reason, ekv := some (BitVec.ofNat 64 c.addr) } t ∧ t = s
    (∀ l pa, Spec.KvMapped s c write l pa → ∃ t, Answers (kvWalk c write) s (l, pa) t ∧ Spec.OnlyKv s t) ∧
    (c.root.getLsbD 0 = false → fails true 0) ∧
    (c.root.getLsbD 0 = true → s.devRange (bits c.root.toNat 51 15 * 2 ^ 15) (2 ^ 15) = true →
      let a := bits c.root.toNat 51 15 * 2 ^ 15 + 8 * bits c.addr 63 52
      Spec.KvItem s c a 1 → (s.num a 8 % 2 = 0 → fails true 1) ∧
      (s.num a 8 % 2 = 1 → bits (s.num a 8) 14 1 = 0 → bits (s.num a 8) 63 52 = 0 →
        let b := bits (s.num a 8) 51 15 * 2 ^ 15 + 8 * bits c.addr 51 40
        Spec.KvItem s c b 1 → (s.num b 8 % 2 = 0 → fails true 2) ∧
        (s.num b 8 % 2 = 1 → bits (s.num b 8) 5 1 = 0 → bits (s.num b 8) 63 52 = 0 →
          let r := bits (s.num b 8) 51 6 * 64
          Spec.KvItem s c (r + 8) 2 → bits (s.num (r + 8) 8) 16 16 = 0 → fails true 3))) ∧
    (∀ rc nlayer ltab, Spec.KvSequence s c rc nlayer ltab →
      (nlayer ≤ kvLayer c.addr → fails false 0) ∧
      (kvLayer c.addr < nlayer → Spec.KvItem s c (ltab + 8 * kvLayer c.addr) 1 → s.num (ltab + 8 * kvLayer c.addr) 8 = 0 → fails true 3)) ∧
    (∀ l htab, Spec.KvLayerAt s c l htab → l.nhead ≤ kvHead c.addr → fails false 1) ∧
    (∀ l htab, Spec.KvLayerAt s c l htab → kvHead c.addr < l.nhead → Spec.KvItem s c (htab + 8 * kvHead c.addr) 1 →
      let pl := s.num (htab + 8 * kvHead c.addr) 8
      (pl = 0 → fails true 4) ∧ (0 < pl → (pl % 8 ≠ 0 ∨ 2 ^ 52 ≤ pl ∨ s.devRange pl 8 = false) → fails true 6) ∧
      (0 < pl → pl % 8 = 0 → pl < 2 ^ 52 → s.devRange pl 8 = true → 64 * l.npage ≤ kvPos c.addr → fails false 2)) ∧
    (∀ l pe, Spec.KvPage s c l pe → (pe % 2 = 0 → fails true 4) ∧
      (pe % 2 = 1 → (bits pe 14 2 ≠ 0 ∨ bits pe 63 52 ≠ 0) → fails true 6) ∧
      (write = true → pe % 2 = 1 → bits pe 14 2 = 0 → bits pe 63 52 = 0 → s.devRange (bits pe 51 15 * 2 ^ 15) (2 ^ 15) = true →
        bits pe 1 1 = 1 → fails true 5))

/-- What row r of a KV entry of the executing core walks under. -/
def Spec.kvCtx (s : State) (addr : Word) (r : Nat) : KvCtx :=
  { die := dieOf s.cur, root := s.me.kvroot, addr := addr.toNat + r }

/-- Bytes of memory in lines without errors and seals, whose contents are defined. -/
def Spec.Plain (s : State) (pa n : Nat) : Prop :=
  ∀ i, i < n → s.badLines.contains ((pa + i) / 64) = false ∧ s.sealOf ((pa + i) / 64) = none ∧ s.vagueSeed ((pa + i) / 64) = none

/-- A row of CPYKV (R225 to R227, R232): the first bytes of the K or V row of position POS + r go to x[A] + r × stride, or to the same pad offset of
every core of the mask, and are counted there; a row longer than the position's raises KV-bounds with reason 3, a position beyond the space
KV-bounds with reason 2. -/
def Spec.KvRowsArrive : Prop :=
  ∀ (s : State) (c : Nat) (e : VEntry) (es : List VEntry) (x : CpyF), c < 160 → s.cores.length = 160 → s.dies.length = 4 →
    Memory.wf s.mem = true → (s.core c).sb = [] → ((s.core c).chan x.ch.toNat).copies = e :: es → e.op = .cpykv x →
    ((s.core c).chan x.ch.toNat).stopped = none → ((s.core c).chan x.ch.toNat).row = [] → 0 < x.rows16.toNat → e.prog.row < e.nr →
    (x.bar = 0 ∨ (s.barrierIdx (dieOf c) x.bar.toNat).isSome = true) →
    (x.mmask ≠ 0 → 0x01F0000000000000 ≤ e.opa.toNat ∧ e.opa.toNat < 0x01F0000000000000 + 2 ^ 20) →
    (s.core c).olderAcquire x.ch.toNat e.seq = false → (x.acq = true → (s.core c).olderCopies x.ch.toNat e.seq = false) →
    let n := 16 * x.rows16.toNat
    let r := e.prog.row
    let dv := (e.opa + BitVec.ofInt 64 (r * (e.opd.extractLsb' 0 32).toInt)).toNat
    let lines := (dv % 64 + n + 63) / 64
    let chan := fun (t : State) => (t.core c).chan x.ch.toNat
    let gone := fun (t : State) => (chan t).copies = { e with prog := { row := r + 1, col := 0, block := 0 } } :: es ∧ (chan t).row = []
    let counted := fun (t : State) (k : Nat) => (t.core k).cpwp.getD x.ch.toNat 0 = (s.core k).cpwp.getD x.ch.toNat 0 + BitVec.ofNat 64 n
    let at_ : KvCtx := { die := dieOf c, root := e.kvroot, addr := e.opb.toNat + r }
    let stops := fun (page : Bool) (reason ekv : Nat) => ∃ t, exec (.copyRowDelivery c x.ch.toNat) s = .next t ∧ SameMemory s t ∧
      (chan t).stopped = some { intr := false, code := if page then 14 else 15, eva := 0, eaux := BitVec.ofNat 64 reason, ekv := some (BitVec.ofNat 64 ekv) } ∧
      (chan t).copies = e :: es
    dv % 16 = 0 →
    (2 ^ 24 ≤ kvPos e.opb.toNat + r → stops false 2 e.opb.toNat) ∧
    (kvPos e.opb.toNat + r < 2 ^ 24 → ∀ l pa, Spec.KvMapped s at_ false l pa →
      let src := if e.opd.getLsbD 32 then pa + 16384 else pa
      (l.dim * l.fmt.width / 8 < n → stops false 3 at_.addr) ∧
      (n ≤ l.dim * l.fmt.width / 8 → Spec.Plain s src n →
        (x.mmask = 0 → ∀ dloc, Spec.RowIn s c dv dloc n →
          ∃ t, Spec.deliveries c x.ch.toNat lines s = some t ∧ t.bytesAt dloc n = s.bytesAt src n ∧ SameMemoryBut s t dloc n ∧ gone t ∧ counted t c) ∧
        (x.mmask ≠ 0 → ∀ dloc : Nat → Nat, (∀ k, k < 4 → x.mmask.getLsbD k = true → Spec.RowIn s (c / 4 * 4 + k) dv (dloc k) n) →
          0x01F0000000000000 ≤ dv → dv + n ≤ 0x01F0000000000000 + 2 ^ 20 →
          ∃ t, Spec.deliveries c x.ch.toNat (((List.range 4).filter fun k => x.mmask.getLsbD k).length * lines) s = some t ∧ gone t ∧
            ∀ k, k < 4 → x.mmask.getLsbD k = true → t.bytesAt (dloc k) n = s.bytesAt src n ∧ counted t (c / 4 * 4 + k))))

/-- What an XRED contributes (R233, R391): row r of NC elements from x[B] + r × NC × width ÷ 8, for each r < NR, under this device's rank, once
its shape, both addresses and both ranges have passed their checks; where one fails, the channel stops with VSTART = 0 and nothing is
contributed. The model's own choices here: NR = 0 or NC = 0 contributes nothing (log entry 78), the time at which a round began is free (log
entry 52). -/
def Spec.Contributes : Prop :=
  ∀ (s : State) (c : Nat) (e : VEntry) (es : List VEntry) (x : XredF), c < 160 → s.cores.length = 160 → s.dies.length = 4 →
    (s.core c).sb = [] → ((s.core c).chan x.ch.toNat).copies = e :: es → e.op = .xred x → x.ty ∈ [.i32, .fp32, .bf16] →
    ((s.core c).chan x.ch.toNat).stopped = none → ((s.core c).chan x.ch.toNat).row = [] → e.prog = { row := 0, col := 0, block := 0 } →
    (x.bar = 0 ∨ (s.barrierIdx (dieOf c) x.bar.toNat).isSome = true) →
    (s.core c).olderAcquire x.ch.toNat e.seq = false → (x.acq = true → (s.core c).olderCopies x.ch.toNat e.seq = false) →
    let len := e.nc * x.ty.width / 8
    let group := (e.opd.extractLsb' 0 16).toNat
    let round := (e.opd.extractLsb' 16 32).toNat
    let chan := fun (t : State) => (t.core c).chan x.ch.toNat
    let moves := fun (t : State) => exec (.copyRowDelivery c x.ch.toNat) s = .next t
    let stops := fun (r : Trap) => ∃ t, moves t ∧ SameMemory s t ∧ t.rounds = s.rounds ∧ (chan t).stopped = some r ∧ (chan t).copies = e :: es
    ((e.nr = 0 ∨ e.nc = 0) → ∃ t, moves t ∧ SameMemory s t ∧ t.rounds = s.rounds ∧
      (chan t).copies = { e with prog := { row := 0, col := 0, block := 2 } } :: es) ∧
    (e.nr ≠ 0 → e.nc ≠ 0 →
      ((x.ty.capacity < e.nc ∨ 65536 < e.nr * len) → stops (faultOf 21 0 0)) ∧
      (e.nc ≤ x.ty.capacity → e.nr * len ≤ 65536 →
        (e.opa.toNat % 64 ≠ 0 → stops (faultOf 4 e.opa.toNat 0x800)) ∧
        (e.opa.toNat % 64 = 0 → e.opb.toNat % 64 ≠ 0 → stops (faultOf 4 e.opb.toNat 0)) ∧
        (e.opa.toNat % 64 = 0 → e.opb.toNat % 64 = 0 → ∀ sloc dloc, Spec.RowIn s c e.opb.toNat sloc (e.nr * len) →
          Spec.RowIn s c e.opa.toNat dloc (e.nr * len) →
          ((∀ g ∈ s.groups, g.id ≠ group) → stops (faultOf 27 0 (round * 2 ^ 16 + group))) ∧
          (∀ g, s.groups.find? (fun g => g.id == group) = some g → g.rank < g.members.length →
            (∀ q ∈ s.doneRounds, q.1 = group → q.2 < round) → (∀ q ∈ s.rounds, q.group = group → q.round ≠ round) →
            ∃ t q, moves t ∧ SameMemory s t ∧ t.rounds = s.rounds ++ [q] ∧ q.group = group ∧ q.round = round ∧
              q.local_ = some (c, x.ch.toNat) ∧ s.dtime - g.timeoutUs * 1000 ≤ q.start ∧ q.start ≤ s.dtime ∧
              q.parts = [(g.rank, (List.range e.nr).map fun r => s.bytesAt (sloc + r * len) len)] ∧
              (chan t).copies = { e with prog := { row := 0, col := 0, block := 1 } } :: es))))

/-- KVLDK, KVLDV, KVAPP and KVMOVE (R168 to R171). A load of mapped rows of the same format writes its active elements, their tags take the
type and KSC or VSC, and row exponents are 0; an append writes the K row, turned where ROTTAB is not 0, and the V row; a move checks its
entries before it moves. With nothing to do each does nothing. -/
def Spec.KvTransfers : Prop :=
  ∀ s : State, Accepting s → s.cur < 160 → s.dies.length = 4 → Memory.wf s.mem = true → Spec.Rising s.me.vregs →
    let nr := s.me.nr.toNat
    let nc := s.me.nc.toNat
    let bits' := fun (loc w : Nat) (c : Nat) => s.num (loc + c * w / 8) (w / 8)
    (∀ x : VMemLF, x.ty ∈ [.fp32, .bf16, .fp16, .e4m3, .e5m2] →
      let is := fun (i : Instr) (v : Bool) =>
        let op := VecOp.kvld v x
        ((∀ r c, Spec.on s x.k r c = false) → exec i s = .next (s.coreDone op .frm (some x.a) none none none fun _ k => k)) ∧
        (∀ (l : KvLayer) (pa : Nat → Nat), (s.me.wide = true → x.d.toNat ≤ 15) → kvPos (s.me.x x.a).toNat + nr ≤ 2 ^ 24 → l.fmt = x.ty → nc ≤ l.dim →
          (∀ r c, Spec.on s x.k r c = true → Spec.KvMapped s (Spec.kvCtx s (s.me.x x.a) r) false l (pa r) ∧
            Spec.Plain s (pa r) 256 ∧ Spec.Plain s (pa r + 16384) 256) →
          (∃ r c, Spec.on s x.k r c = true) →
          ∃ t, exec i s = .next t ∧ SameMemory s t ∧ t.me.ia = s.me.nextIa ∧ t.me.queue = [] ∧
            (∀ r c, Spec.on s x.k r c = true →
              Spec.el t x.d x.ty r c = bits' (if v then pa r + 16384 else pa r) x.ty.width c ∧
              (t.me.row s.me.wide x.d r).rexp = 0 ∧
              (t.me.row s.me.wide x.d r).tag (elemBlock x.ty c) = (tyCode x.ty).toNat * 256 + if v then l.vsc else l.ksc) ∧
            (∀ r c, Spec.on s x.k r c = false → r < rowMax s.me.wide → c < x.ty.capacity → Spec.el t x.d x.ty r c = Spec.el s x.d x.ty r c)) ∧
        (∀ t, (∃ r c, Spec.on s x.k r c = true) → (s.me.wide = true → x.d.toNat ≤ 15) →
          Ends ((List.range nr).forM (kvLoadRow v x (s.entry op .frm (some x.a) none none none))) (s.dispatched op .frm (some x.a) none none none) t →
          Spec.Stands s t → exec i s = .next (Spec.ran s op .frm (some x.a) none none none t))
      is (.kvldk x) false ∧ is (.kvldv x) true) ∧
    (∀ x : KvappF, x.ty ∈ [.fp32, .bf16, .fp16, .e4m3, .e5m2] →
      let op := VecOp.kvapp x
      let e := s.entry op .frm (some x.a) none none none
      let d := s.dispatched op .frm (some x.a) none none none
      let fits := (s.me.wide = true → x.d.toNat ≤ 15 ∧ x.b.toNat ≤ 15) ∧ ∀ r c, r < nr → c < nc → elemBlock x.ty c < 4 →
        (s.me.row s.me.wide x.d r).tag (elemBlock x.ty c) / 256 = (tyCode x.ty).toNat ∧
        (s.me.row s.me.wide x.b r).tag (elemBlock x.ty c) / 256 = (tyCode x.ty).toNat
      ((nr = 0 ∨ nc = 0) → exec (.kvapp x) s = .next (s.coreDone op .frm (some x.a) none none none fun _ k => k)) ∧
      (nr ≠ 0 → nc ≠ 0 → fits → ∀ t, Ends (kvAppendRows x e (List.range nr) none) d t → Spec.Stands s t →
        exec (.kvapp x) s = .next (Spec.ran s op .frm (some x.a) none none none t)) ∧
      (∀ (l : KvLayer) (pa : Nat), nr = 1 → nc ≠ 0 → fits → Spec.KvMapped s (Spec.kvCtx s (s.me.x x.a) 0) true l pa → l.fmt = x.ty → nc ≤ l.dim →
        (l.rot ≠ 0 → nc % 2 = 0 ∧ Spec.Plain s l.rot (2 * nc)) → Spec.Plain s l.record 8 → s.num l.record 4 ≤ kvPos (s.me.x x.a).toNat →
        Spec.Plain s pa 256 → Spec.Plain s (pa + 16384) 256 →
        (∀ i, i < 256 → s.statusByte (pa + i) = false ∧ s.statusByte (pa + 16384 + i) = false) → s.me.unperformed pa 256 = false → s.me.unperformed (pa + 16384) 256 = false →
        ∃ t, exec (.kvapp x) s = .next t ∧ t.me.ia = s.me.nextIa ∧ t.me.vregs = s.me.vregs ∧
          let w := s.me.row s.me.wide x.d 0
          let n := nc * x.ty.width / 8
          let turned := if l.rot = 0 then (w, 0) else rotateRow (s.bytesAt l.rot (2 * nc)) l w nc (kvPos (s.me.x x.a).toNat)
          t.bytesAt pa n = leBytes n turned.1.bits.toNat ∧
          t.bytesAt (pa + 16384) n = leBytes n (s.me.row s.me.wide x.b 0).bits.toNat ∧ t.me.flags = s.me.flags ||| turned.2 ∧
          ∀ a, (a < pa ∨ pa + n ≤ a) → (a < pa + 16384 ∨ pa + 16384 + n ≤ a) → t.byte a = s.byte a)) ∧
    (∀ x : KvmoveF,
      let op := VecOp.kvmove x
      let e := s.entry op .frm (some x.a) none none none
      let d := s.dispatched op .frm (some x.a) none none none
      let act := if nr = 0 then [] else (List.range nc).filter fun j => Spec.on s x.k 0 j
      let b := kvPos (s.me.x x.a).toNat
      let idx := fun j => Spec.el s x.c .n32 0 j
      (act = [] → exec (.kvmove x) s = .next (s.coreDone op .frm (some x.a) none none none fun _ k => k)) ∧
      (act ≠ [] → nc ≤ 64 → (s.me.wide = true → x.c.toNat ≤ 15) → ∀ (l : KvLayer) (htab : Nat),
        Spec.KvLayerAt s (Spec.kvCtx s (s.me.x x.a) 0) l htab → Spec.Plain s l.record 8 →
        ∃ u, Spec.OnlyKv d { u with cores := d.cores, l1 := d.l1 } ∧ { u.me with ck := d.me.ck } = d.me ∧ u.cores.length = d.cores.length ∧
          (kvMoveBad b (s.num l.record 4) l.npage idx act none = none → ∀ t,
            Ends (act.forM fun j => if idx j = j then return () else kvMoveOne e (b + idx j) (b + j)) u t → Spec.Stands s t →
            exec (.kvmove x) s = .next (Spec.ran s op .frm (some x.a) none none none t)))) ∧
    (∀ (b len npage : Nat) (idx : Nat → Nat) (act : List Nat), kvMoveBad b len npage idx act none = none ↔
      (∀ j ∈ act, j ≤ idx j ∧ len ≤ b + j ∧ b + idx j < min (2 ^ 24) (64 * npage)) ∧ act.Pairwise fun i j => idx i < idx j) ∧
    (∀ f ∈ [fmtFp32, fmtBf16, fmtFp16, fmtE4m3, fmtE5m2], ∀ a b phi : Nat,
      ((∃ n, f.decode a = .inf n ∨ f.decode b = .inf n) → rotatePair f a b phi = (f.nanBits, f.nanBits, fNV)) ∧
      ((f.decode a = .nan ∨ f.decode b = .nan) → (∀ n, f.decode a ≠ .inf n ∧ f.decode b ≠ .inf n) →
        rotatePair f a b phi = (f.nanBits, f.nanBits, 0)) ∧
      (∀ n m e n' m' e', f.decode a = .fin n m e → f.decode b = .fin n' m' e' → 0 < m → 0 < m' → a < 2 ^ f.width → b < 2 ^ f.width →
        let neg := fun (v : Nat) => Nat.xor v (2 ^ (f.width - 1))
        rotatePair f a b 0 = (a, b, 0) ∧ rotatePair f a b (2 ^ 30) = (neg b, a, 0) ∧
        rotatePair f a b (2 * 2 ^ 30) = (neg a, neg b, 0) ∧ rotatePair f a b (3 * 2 ^ 30) = (b, neg a, 0)))

/-- KVLEN and KVINV (R172, R173). KVLEN answers LEN and acquires the stamp of its line; with a length it releases first, raises KV-bounds with
reason 7 above 2^24, and else writes LEN and answers the old one. KVINV waits for the core's stores and removes what every die's walker
cache holds, of one sequence or of all; an item that walks of several sequences have used goes with each of them. -/
def Spec.KvLengths : Prop :=
  ∀ s : State, Accepting s → s.cur < 160 → s.dies.length = 4 → Memory.wf s.mem = true →
    (∀ (x : R2T4) (rc nlayer ltab : Nat), Spec.KvSequence s (Spec.kvCtx s (s.me.x x.a) 0) rc nlayer ltab → Spec.Plain s rc 8 →
      ∃ t, exec (.kvlenRead x) s = .next t ∧ SameMemory s t ∧ t.me.ia = s.me.nextIa ∧ t.me.queue = [] ∧
        (∀ r, t.me.x r = if r = x.d ∧ r ≠ 0 then BitVec.ofNat 64 (s.num rc 4) else s.me.x r) ∧
        (∀ h, (s.stampOf (rc / 64)).get h ≤ t.me.ck.get h)) ∧
    (∀ (x : R3T4) (rc nlayer ltab : Nat),
      let op := VecOp.kvlenSet x
      let u := Spec.released (s.dispatched op .frm (some x.a) (some x.b) none none) .device
      let n := (s.me.x x.b).toNat
      Spec.KvSequence u (Spec.kvCtx s (s.me.x x.a) 0) rc nlayer ltab → Spec.Plain u rc 8 → Memory.wf u.mem = true →
      (∀ i, i < 4 → u.statusByte (rc + i) = false) →
        (n ≤ 2 ^ 24 → ∃ t, exec (.kvlenSet x) s = .next t ∧ t.me.ia = s.me.nextIa ∧ t.me.queue = [] ∧ t.num rc 4 = n ∧ SameMemoryBut u t rc 4 ∧
          ∀ r, t.me.x r = if r = x.d ∧ r ≠ 0 then BitVec.ofNat 64 (u.num rc 4) else s.me.x r) ∧
        (2 ^ 24 < n → ∃ t, exec (.kvlenSet x) s = .next t ∧ SameMemory u t ∧ t.me.ia = s.me.nextIa ∧ (∀ r, t.me.x r = s.me.x r) ∧
          t.me.queue.map VEntry.fault = [some { intr := false, code := 15, eva := 0, eaux := 7, ekv := some (s.me.x x.a) }])) ∧
    (∀ x : RabT4,
      let keep := fun (q : Machine.KvItem) => (s.me.x x.b).extractLsb' 0 2 = 0 ∧ (s.me.x x.a).toNat / 2 ^ 40 ∉ q.seqIds
      let done := s.vectorDone (.kvinv x) .frm (some x.a) (some x.b) none none fun t =>
        { t.flushSb s.cur with dies := (t.flushSb s.cur).dies.map fun d => { d with kv := d.kv.filter fun q => decide (keep q) } }
      exec (.kvinvSequence x) s = .next done ∧ exec (.kvinvAll x) s = .next done)

/-! ## The crusts (R175 to R196, R295) -/

/-- An item can be performed: the lines that it reads have no error and no seal, none that it writes is a barrier, sealed or
the STATUS of a host queue (R2), and it stays in device memory (R184, R186, R333). -/
structure Spec.ItemOk (s : State) (o : ItemOp) : Prop where
  reads : ∀ q ∈ o.ranges.1, 0 < q.2 ∧ q.1 + q.2 ≤ 2 ^ 52 ∧ isRemote q.1 = false ∧ isRemote (q.1 + q.2 - 1) = false ∧ Spec.Plain s q.1 q.2
  writes : ∀ q ∈ o.ranges.2, 0 < q.2 ∧ q.1 + q.2 ≤ 2 ^ 52 ∧ isRemote q.1 = false ∧ isRemote (q.1 + q.2 - 1) = false ∧ Spec.Plain s q.1 q.2 ∧
    ∀ i, i < q.2 → s.barrierAt ((q.1 + i) / 64) = none ∧ s.statusByte (q.1 + i) = false
  align : match o with
    | .copyLine a b | .noptLine a b _ _ => a % 64 = 0 ∧ b % 64 = 0
    | .zeroLine a => a % 64 = 0
    | .gatherElem a b n => a % n = 0 ∧ b % n = 0 ∧ n ≤ 8 ∧ 64 % n = 0
    | .nadd _ a _ => a % 4 = 0

/-- CRUST_ITEM (R186, R187, R191, R193 to R195): the crust performs the oldest item of one of the cores that have sent it items: sums of words, a line copied, a line of zeros, an element
moved, or the step of weights and momentum, each rounded to nearest even; nothing else changes. An item that reads a line with an error, or
that would write a barrier, writes nothing and counts as a deferred failure. -/
def Spec.CrustItems : Prop :=
  ∀ (s : State) (k : Nat), k < s.crusts.length → s.dies.length = 4 → Memory.wf s.mem = true →
    ((s.crust k).queue = [] → exec (.crustItem k) s = .next s) ∧
    ((s.crust k).queue ≠ [] → ∃ older i rest t, (s.crust k).queue = older ++ i :: rest ∧ (∀ j ∈ older, j.core ≠ i.core) ∧
      exec (.crustItem k) s = .next t ∧ (t.crust k).queue = older ++ rest ∧
      (s.itemFails i.op = true → SameMemory s t ∧ (i.core < s.cores.length → (t.core i.core).deferred = (s.core i.core).deferred + 1)) ∧
      (Spec.ItemOk s i.op →
        (∀ c, (t.core c).deferred = (s.core c).deferred) ∧
        match i.op with
        | .nadd fp dst vals => SameMemoryBut s t dst (4 * vals.length) ∧ ∀ j (h : j < vals.length),
            let old := s.num (dst + 4 * j) 4
            t.num (dst + 4 * j) 4 = if fp then (fAdd fmtFp32 .rne false (fmtFp32.decode old) (fmtFp32.decode vals[j].toNat)).1
              else (old + vals[j].toNat) % 2 ^ 32
        | .copyLine src dst => SameMemoryBut s t dst 64 ∧ t.bytesAt dst 64 = s.bytesAt src 64
        | .zeroLine dst => SameMemoryBut s t dst 64 ∧ ∀ j, j < 64 → t.byte (dst + j) = 0
        | .gatherElem src dst size => SameMemoryBut s t dst size ∧ t.bytesAt dst size = s.bytesAt src size
        | .noptLine w g lr mu => (∀ a, (a < w ∨ w + 64 ≤ a) → (a < w + 2 ^ 20 ∨ w + 2 ^ 20 + 64 ≤ a) → t.byte a = s.byte a) ∧
            ∀ j, j < 16 →
              let num := fun (v : Nat) => fmtFp32.decode v
              let m := (fFma fmtFp32 .rne false (num mu.toNat) (num (s.num (w + 2 ^ 20 + 4 * j) 4)) (num (s.num (g + 4 * j) 4))).1
              t.num (w + 2 ^ 20 + 4 * j) 4 = m ∧
              t.num (w + 4 * j) 4 = (fFma fmtFp32 .rne false (num lr.toNat).neg (num m) (num (s.num (w + 4 * j) 4))).1))

/-- The operand checks (R188): an operand whose page covers it, with CC, no SEAL and no barrier, aligned as it must be, gives its physical
address; else the first check that fails gives its fault, misaligned before NM-boundary before sealed-target before barrier-protect. -/
def Spec.CrustChecks : Prop :=
  ∀ (s t : State) (x : Ctx) (o : CrustOp) (p : Page), 0 < o.n → 0 < o.align → Answers (place x o.acc o.va) s (.page p) t →
    p.va ≤ o.va → o.va + o.n ≤ p.va + p.size →
    let side := if o.target then 0 else 16
    let ends := crustChecks x [o] (fun _ => none) []
    (o.va % o.align ≠ 0 → Traps ends s (faultOf 4 o.va (if o.target then 0x800 else 0)) t) ∧
    (o.va % o.align = 0 → p.leaf.getLsbD 6 = false → Traps ends s (faultOf 23 o.va (side + 1)) t) ∧
    (o.va % o.align = 0 → p.leaf.getLsbD 6 = true → p.leaf.getLsbD 8 = true → Traps ends s (faultOf 24 o.va side) t) ∧
    (o.va % o.align = 0 → p.leaf.getLsbD 6 = true → p.leaf.getLsbD 8 = false →
      (o.target = false ∨ (∀ i, i < o.n → t.barrierAt ((p.phys o.va + i) / 64) = none) → Answers ends s [p.phys o.va] t) ∧
      (∀ b, o.target = true → p.phys o.va % 64 = 0 → t.barrierAt (p.phys o.va / 64) = some b → Traps ends s (faultOf 22 o.va b.index) t))

/-- The place that ACQ and REL leave a crust command in (R187, R309): the earlier stores of the core have performed, and before a command with
REL the older ones with REL have too, and at SYSTEM scope the writes to other devices are acknowledged. -/
def Spec.ordered (s : State) (acq rel : Bool) (scope : Scope) : State :=
  let u := if acq ∨ rel then s.flushSb s.cur else s
  if rel then Spec.released u scope else u

/-- Items are sent to the crust of a target, in order, with the ordering of their command and the clock of their core (R185, R187, R317). -/
def Spec.sent (s : State) (acq rel : Bool) (scope : Scope) (target : Nat) (ops : List ItemOp) : State :=
  ops.foldl (fun t o => t.sendItem target
    { core := s.cur, acq := acq, rel := rel, scope := (scopeCode scope).toNat, op := o, clock := t.carried (some s.cur) }) s

/-- The crust commands (R187, R190 to R195): each page of an operand is translated once (R99); with nothing to do each does nothing; else, with its operands checked, it sends its items to the
crust of its target: a row of NADD, the lines of NZERO and NROWCPY in the order that makes a true copy, the elements of NGATHER, the lines
of NOPT. NFENCE has the core's commands complete and answers its deferred failures. -/
def Spec.CrustCommands : Prop :=
  ∀ s : State, Accepting s →
    let nr := s.me.nr.toNat
    let nc := s.me.nc.toNat
    (∀ x : NaddF,
      let op := VecOp.nadd x
      let e := s.entry op .frm (some x.a) (some x.b) none none
      let d := s.dispatched op .frm (some x.a) (some x.b) none none
      ((nr = 0 ∨ nc = 0) → exec (.nadd x) s = .next (s.coreDone op .frm (some x.a) (some x.b) none none fun _ k => k)) ∧
      (nr ≠ 0 → nc ≠ 0 → nc ≤ 64 → (s.me.wide = true → x.d.toNat ≤ 15 ∧ x.c.toNat ≤ 15) → ∀ t,
        Ends ((List.range nr).forM (naddRow x e)) (Spec.ordered d x.acq x.rel x.scope) t → Spec.Stands s t →
        exec (.nadd x) s = .next (Spec.ran s op .frm (some x.a) (some x.b) none none t)) ∧
      (∀ (v t : State) (r loc : Nat), v.cur = s.cur → v.me.vregs = s.me.vregs →
        let va := (s.me.x x.a + BitVec.ofNat 64 (Spec.el s x.c .n32 r 0) * if x.b = 0 then BitVec.ofNat 64 (4 * nc) else s.me.x x.b).toNat
        Answers (crustChecks (e.ctx s.cur) [{ va := va, n := 4 * nc, target := true, align := 4 }] (fun _ => none) []) v [loc] t → t.cur = s.cur →
        Ends (naddRow x e r) v (Spec.sent t x.acq x.rel x.scope loc
          [.nadd (x.ty == .fp32) loc ((List.range nc).map fun i => BitVec.ofNat 32 (Spec.el s x.d x.ty r i))]))) ∧
    (∀ x : R1T4, exec (.nfence x) s = .next (s.vectorDone (.nfence x) .frm none none none none fun t =>
      let u := t.crustAll s.cur
      u.updMe fun k => k.setXOf s.me.sstat.mode x.d (BitVec.ofNat 64 u.me.deferred))) ∧
    (∀ x : NcpyF,
      let op := VecOp.nrowcpy x
      let c := (s.entry op .frm (some x.a) (some x.b) none none).ctx s.cur
      let d := s.dispatched op .frm (some x.a) (some x.b) none none
      let n := x.count.toNat
      (n = 0 → exec (.nrowcpy x) s = .next (s.coreDone op .frm (some x.a) (some x.b) none none fun _ k => k)) ∧
      (n ≠ 0 → ∀ (dst src : Nat) (t : State), Answers (crustChecks c [{ va := (s.me.x x.a).toNat, n := 64 * n, target := true, align := 64 },
          { va := (s.me.x x.b).toNat, n := 64 * n, target := false, align := 64 }] (fun _ => none) []) (Spec.ordered d x.acq x.rel x.scope) [dst, src] t →
        Spec.Stands s t → exec (.nrowcpy x) s = .next (Spec.ran s op .frm (some x.a) (some x.b) none none (Spec.sent t x.acq x.rel x.scope dst
          ((if src < dst then (List.range n).reverse else List.range n).map fun i => .copyLine (src + 64 * i) (dst + 64 * i)))))) ∧
    (∀ x : NzeroF,
      let op := VecOp.nzero x
      let c := (s.entry op .frm (some x.a) none none none).ctx s.cur
      let d := s.dispatched op .frm (some x.a) none none none
      let n := x.count.toNat
      (n = 0 → exec (.nzero x) s = .next (s.coreDone op .frm (some x.a) none none none fun _ k => k)) ∧
      (n ≠ 0 → ∀ (dst : Nat) (t : State), Answers (crustChecks c [{ va := (s.me.x x.a).toNat, n := 64 * n, target := true, align := 64 }]
          (fun _ => none) []) (Spec.ordered d x.acq x.rel x.scope) [dst] t →
        Spec.Stands s t → exec (.nzero x) s = .next (Spec.ran s op .frm (some x.a) none none none
          (Spec.sent t x.acq x.rel x.scope dst ((List.range n).map fun i => .zeroLine (dst + 64 * i)))))) ∧
    (∀ x : NgatherF,
      let op := VecOp.ngather x
      let c := (s.entry op .frm (some x.a) (some x.b) none none).ctx s.cur
      let d := s.dispatched op .frm (some x.a) (some x.b) none none
      let n := x.count.toNat
      let dop : CrustOp := { va := (s.me.x x.a).toNat, n := 64 * n, target := true, align := 64 }
      let src := (s.me.x x.b).toNat
      (n = 0 → exec (.ngather x) s = .next (s.coreDone op .frm (some x.a) (some x.b) none none fun _ k => k)) ∧
      (n ≠ 0 → ∀ (ds : List (Nat × Place)) (pg : Page) (t : State) (q : Pattern),
        Answers (do return (← crustPages c .write (64 * n / 4096 + 2) dop.va (dop.va + 64 * n), ← place c .read src))
          (Spec.ordered d x.acq x.rel x.scope) (ds, .page pg) t →
        (let w := (t.crust (stackOf (pg.phys src))).patterns.getD x.pat.toNat 0;
          q = { size := 2 ^ (w.extractLsb' 48 2).toNat, run := (w.extractLsb' 32 16).toNat, stride := (w.extractLsb' 0 32).toNat }) →
        q.run ≠ 0 → src % q.size = 0 → q.stride % q.size = 0 →
        let cnt := n * 64 / q.size
        let sop : CrustOp := { va := src, n := q.span cnt, target := false, align := 1 }
        (∀ j, j < cnt → j % q.run * q.stride + j / q.run * q.size + q.size ≤ q.span cnt) ∧
        ∀ (ss : List (Nat × Place)) (u : State) (a b : Nat), Answers (sop.pagesFrom c (.page pg)) t ss u →
          Answers (crustVerify [(dop, ds), (sop, ss)] none (fun _ => none) []) u [a, b] u → Spec.Stands s u →
          exec (.ngather x) s = .next (Spec.ran s op .frm (some x.a) (some x.b) none none (Spec.sent u x.acq x.rel x.scope a
            ((List.range cnt).map fun j => .gatherElem (b + j % q.run * q.stride + j / q.run * q.size) (a + j * q.size) q.size))))) ∧
    (∀ x : NoptF,
      let op := VecOp.nopt x
      let c := (s.entry op .frm (some x.a) (some x.b) none (some x.d)).ctx s.cur
      let d := s.dispatched op .frm (some x.a) (some x.b) none (some x.d)
      let n := x.count.toNat
      let w := (s.me.x x.a).toNat
      (n = 0 → exec (.nopt x) s = .next (s.coreDone op .frm (some x.a) (some x.b) none (some x.d) fun _ k => k)) ∧
      (n ≠ 0 → ∀ (a b : Nat) (pg : Page) (u t : State), Answers (place c .write w) (Spec.ordered d x.acq x.rel x.scope) (.page pg) u →
        w + 64 * n ≤ pg.va + 2 ^ 20 →
        Answers (crustChecks c [{ va := w, n := 64 * n, target := true, align := 64 },
          { va := (s.me.x x.b).toNat, n := 64 * n, target := false, align := 64 }] (fun _ => none) [(2 ^ 20, 64 * n)])
          (Spec.ordered d x.acq x.rel x.scope) [a, b] t →
        Spec.Stands s t → exec (.nopt x) s = .next (Spec.ran s op .frm (some x.a) (some x.b) none (some x.d)
          (Spec.sent t x.acq x.rel x.scope a ((List.range n).map fun i =>
            .noptLine (a + 64 * i) (b + 64 * i) ((s.me.x x.d).extractLsb' 0 32) ((s.me.x x.d).extractLsb' 32 32))))))

/-- NSTAT (R196) by its selector, and MLDT (R295), whose rows are columns of memory. -/
def Spec.CrustStateAndTransposes : Prop :=
  ∀ s : State, Accepting s →
    (∀ x : R3T4,
      let op := VecOp.nstat x
      let k := (s.me.x x.a).toNat % 8
      let sel := (s.me.x x.b).toNat
      let q := s.crust k
      let all := fun (t : State) => exec (.nstatRead x) s = .next t ∧ exec (.nstatPatternWrite x) s = .next t
      let gives := fun (v : Nat) => all (s.coreDone op .frm (some x.a) (some x.b) none (some x.d) fun e c => c.setXOf e.sup x.d (BitVec.ofNat 64 v))
      (sel = 0 → gives s.carveC) ∧ (sel = 1 → gives s.interI) ∧ (sel = 2 → gives s.sealG) ∧
      (sel = 3 → gives (min q.corrected (2 ^ 64 - 1))) ∧ (sel = 4 → gives (min q.uncorrectable (2 ^ 64 - 1))) ∧
      ((sel = 5 ∨ sel = 6) → k < s.crusts.length → ∃ t n, all t ∧ SameMemory s t ∧ t.me.ia = s.me.nextIa ∧ n < 2 ^ 64 ∧
        (x.d ≠ 0 → t.me.x x.d = BitVec.ofNat 64 n) ∧ (if sel = 5 then (t.crust k).hits else (t.crust k).misses) = n ∧
        ((if sel = 5 then q.hits else q.misses) < 2 ^ 64 → (if sel = 5 then q.hits else q.misses) ≤ n)) ∧
      (16 ≤ sel → sel < 32 → gives (q.patterns.getD (sel - 16) 0).toNat) ∧
      (32 ≤ sel → sel < 48 →
        let old := q.patterns.getD (sel - 32) 0
        (s.me.sstat.mode = false → gives old.toNat) ∧
        (s.me.sstat.mode = true → all (s.vectorDone op .frm (some x.a) (some x.b) none (some x.d) fun t =>
          (t.updCrust k fun c => { c with patterns := c.patterns.set! (sel - 32) (s.me.x x.d &&& 0x3FFFFFFFFFFFF) }).updMe fun c =>
            c.setXOf true x.d old))) ∧
      ((7 ≤ sel ∧ sel < 16) ∨ 48 ≤ sel → gives (2 ^ 64 - 1))) ∧
    (∀ (x : SlotMF) (pg : Page) (t v : State) (q : Pattern) (ps : List (Nat × Place)) (loc : Nat), s.cur < 160 → s.mxes.length = 40 →
      Spec.Rising (Spec.mxe s).rows →
      let op := VecOp.mldt x
      let c := (s.entry op .frm (some x.a) (some x.b) none none).ctx s.cur
      let ctl := s.me.x x.b
      let n := (ctl.extractLsb' 48 8).toNat
      let first := (ctl.extractLsb' 40 7).toNat
      let a := (s.me.x x.a).toNat
      Spec.Fills s x.slot ctl n → (ctl.extractLsb' 32 2 = 1 ∨ ctl.extractLsb' 32 2 = 2) →
      Answers (place c .read a) (s.dispatched op .frm (some x.a) (some x.b) none none) (.page pg) t →
      (let w := (t.crust (stackOf (pg.phys a))).patterns.getD (ctl.extractLsb' 0 4).toNat 0;
        q = { size := 2 ^ (w.extractLsb' 48 2).toNat, run := (w.extractLsb' 32 16).toNat, stride := (w.extractLsb' 0 32).toNat }) →
      q.run ≠ 0 → 8 * q.size = x.ty.width → a % q.size = 0 → q.stride % q.size = 0 →
      let cols := 256 / q.size
      let o : CrustOp := { va := a, n := (cols - 1) * q.stride + n * q.size, target := false, align := q.size }
      Answers (o.pagesFrom c (.page pg)) t ps v → Answers (crustVerify [(o, ps)] none (fun _ => none) []) v [loc] v → Spec.Stands s v →
      v.mxes = s.mxes → loc + o.n ≤ 0xA000000000000 → Spec.Plain v loc o.n →
      ∃ w, exec (.mldt x) s = .next w ∧ SameMemory v w ∧ w.me.ia = s.me.nextIa ∧
        ((Spec.mxe w).slot x.slot.toNat).layout = ctl.extractLsb' 32 2 ∧
        (∀ i, i < n → let r := (Spec.mxe w).slotRow x.slot.toNat (first + i)
          r.rexp = 0 ∧ (∀ b, b < 4 → r.tag b = (tyCode x.ty).toNat * 256 + 0x7F) ∧
          ∀ j, j < cols → (r.bits.extractLsb' (8 * q.size * j) (8 * q.size)).toNat = v.num (loc + j * q.stride + i * q.size) q.size) ∧
        (∀ r, r < 128 → (r < first ∨ first + n ≤ r) → (Spec.mxe w).slotRow x.slot.toNat r = (Spec.mxe s).slotRow x.slot.toNat r))

/-! ## Host queues, shares and streams (R343 to R348, R356) -/

/-- Memory of the scheduler area is in order: it lies in device memory, with no error and no seal, and its contents are defined. -/
structure Spec.AreaGood (s : State) : Prop where
  memory : Memory.wf s.mem = true
  dies : s.dies.length = 4
  place : s.sbase % 2 ^ 26 = 0 ∧ s.sbase + 2 ^ 26 ≤ 0xA000000000000
  good : ∀ l, s.sbase / 64 ≤ l → l < (s.sbase + 2 ^ 26) / 64 → s.badLines.contains l = false ∧ s.sealOf l = none ∧ s.vagueSeed l = none

/-- Host queues (R344 to R348, R356). A device that does not serve does nothing. Heads are served in the highest class that has a servable one;
a rejected head counts in NREJ, a cancelled one in its parent, and one that can be granted takes its share; the record is consumed. A
share has the lowest free cores of its die, its launch's level record is opened, its cores take the launch context, and its first task
joins the injection queue. A head that waited more than 1 ms ages its queue; an idle stream entry past its threshold is written back. -/
def Spec.HostQueues : Prop :=
  (∀ (s : State) (n : Nat), s.serving = false →
    exec .hostQueueServe s = .next s ∧ exec (.shareGrant n) s = .next s ∧ exec (.queueAging n) s = .next s ∧ exec (.streamEviction n) s = .next s) ∧
  (∀ (s : State) (h : QueueHead), h ∈ s.candidates ↔ h ∈ s.queueHeads ∧ s.servable h.rec_ = true ∧
    ∀ g ∈ s.queueHeads, s.servable g.rec_ = true → g.cls ≤ h.cls) ∧
  (∀ (s : State) (h : QueueHead), s.serving = true → s.queueHeads = [h] → s.servable h.rec_ = true →
    let u := (s.noteQueue h.queue).served h
    (s.rejects h = true → ∀ r t, Answers (deviceUpdate (u.lostCtx h) h.rec_.cwa fun w => Nat.lor (w % 2 ^ 32) 3 + 0xFFFFFFFF * 2 ^ 32) u r t →
      exec .hostQueueServe s = .next ((t.updStatus h.queue fun w => (w + 2 ^ 32) % 2 ^ 64).consume h.queue)) ∧
    (s.rejects h = false → s.cancels h.rec_ = true → ∀ t, Ends (cancelHead h) u t → exec .hostQueueServe s = .next t) ∧
    (s.rejects h = false → s.cancels h.rec_ = false → ∀ d, s.chooseDie h.rec_ = some d →
      exec .hostQueueServe s = .next (u.grant h d) ∧ exec (.shareGrant d) s = .next ((s.served h).grant h d) ∧
      ∀ e, e ≠ d → exec (.shareGrant e) s = .next s) ∧
    (s.rejects h = false → s.cancels h.rec_ = false → s.chooseDie h.rec_ = none →
      exec .hostQueueServe s = .next (((s.noteQueue h.queue).holdQueue h.queue).reclaimFor h.rec_))) ∧
  (∀ (s : State) (q : Nat), Spec.AreaGood s → q < 64 →
    let a := s.queueAddr q
    let t := s.consume q
    t.num (a + 24) 8 = (s.num (a + 24) 8 + 1) % 2 ^ 64 ∧ t.num (a + 32) 8 = s.num (a + 32) 8 / 2 ^ 32 * 2 ^ 32 ∧ SameMemoryBut s t (a + 24) 16 ∧
    (∀ n ∈ t.queueNotes, n.queue ≠ q)) ∧
  (∀ (s : State) (r : StartRec) (d : Nat), s.chooseDie r = some d → d ∈ r.permitted ∧ r.least ≤ (s.freeCores d).length ∧
    (r.stream = 0 ∨ s.streamValid d r.stream = true) ∧ (s.die d).injected 0 < 61440 ∧
    ∀ e ∈ r.permitted, e < d →
      ¬ (r.least ≤ (s.freeCores e).length ∧ (r.stream = 0 ∨ s.streamValid e r.stream = true) ∧ (s.die e).injected 0 < 61440)) ∧
  (∀ (s : State) (h : QueueHead) (die : Nat), Spec.AreaGood s → s.cores.length = 160 → die < 4 → h.queue < 64 → h.rec_.stream = 0 →
    (s.die die).injected 0 < 61440 →
    let r := h.rec_
    let a := s.sbase + 64 * r.launch
    let cores := (s.freeCores die).take r.most
    let t := s.grant h die
    (∃ sh : Share, t.shares = s.shares ++ [sh] ∧ sh.launch = r.launch ∧ sh.die = die ∧ sh.cores = cores ∧ sh.ceil = r.ceil ∧ sh.cls = r.cls) ∧
    t.num a 8 = 1 ∧ t.num (a + 8) 8 % 4 = 1 ∧ t.num (a + 16) 8 % 2 = 0 ∧ t.num (a + 24) 8 = r.cwa % 2 ^ 64 ∧ t.num (a + 40) 8 % 2 ^ 32 = 0 ∧
    t.num (a + 32) 8 % 2 ^ 18 = (match r.named with | p :: _ => p.2 + p.1 * 2 ^ 16 | [] => 0) ∧
    t.num (s.queueAddr h.queue + 24) 8 = (s.num (s.queueAddr h.queue + 24) 8 + 1) % 2 ^ 64 ∧
    (∃ task : Rec, (t.die die).inject = (s.die die).inject ++ [(0, task)] ∧ task.cp = BitVec.ofNat 64 (dword r.head 0) ∧
      task.fp = BitVec.ofNat 64 (dword r.head 8) ∧ task.jb = BitVec.ofNat 64 r.jb ∧ task.info.toNat % 2 ^ 16 = r.launch) ∧
    (∀ c, c < 160 → c ∉ cores → t.core c = s.core c) ∧
    (∀ c ∈ cores, ∀ i, i < 4 → (t.core c).cpwp.toArray.getD i 1 = 0) ∧
    (∀ c ∈ cores, match s.launchCtx h.ctx with
      | none => (t.core c).ptroot = (s.core c).ptroot ∧ (t.core c).asid = (s.core c).asid ∧ (t.core c).kvroot = (s.core c).kvroot ∧
          (t.core c).tvec = (s.core c).tvec
      | some x => (t.core c).ptroot = x.ptroot ∧ (t.core c).asid = x.asid ∧ (t.core c).kvroot = x.kvroot ∧ (t.core c).tvec = x.tvec)) ∧
  (∀ (s : State) (q : Nat) (h : QueueHead), s.serving = true → s.queueHead q = some h → s.servable h.rec_ = true →
    ((∀ n ∈ s.queueNotes, n.queue ≠ q) → exec (.queueAging q) s = .next (s.noteQueue q)) ∧
    (∀ n rest, s.queueNotes = n :: rest → n.queue = q → exec (.queueAging q) s = .next
      (if 1000000 < s.dtime - n.since then s.updStatus q fun w => Nat.lor w 4 else s))) ∧
  (∀ (s : State) (die n : Nat), s.serving = true → die < 4 → 0 < n → n < 16384 →
    let a := s.streamAddr die n
    let w := s.num a 8
    let idle := bit w 63 = true ∧ bit w 62 = true ∧ s.streamBusy die n = false ∧ 1000 * (s.num (a + 16) 8 % 2 ^ 32) ≤ s.dtime - s.num (a + 24) 8
    (¬ idle → exec (.streamEviction (die * 16384 + n)) s = .next s) ∧
    (idle → Spec.AreaGood s → (∀ l, (s.streamPlace die n).2.2 / 64 ≤ l → l ≤ ((s.streamPlace die n).2.2 + (s.streamPlace die n).2.1) / 64 →
        s.badLines.contains l = false ∧ s.sealOf l = none ∧ s.vagueSeed l = none) →
      (s.streamPlace die n).2.2 < 0xA000000000000 →
      Spec.Apart (s.streamPlace die n).2.2 (s.streamPlace die n).2.1 s.sbase (2 ^ 26) → (s.streamPlace die n).2.2 + (s.streamPlace die n).2.1 ≤ 0xA000000000000 →
      ∃ t, exec (.streamEviction (die * 16384 + n)) s = .next t ∧ t.num a 8 = w - 2 ^ 62 ∧
        t.bytesAt (s.streamPlace die n).2.2 (s.streamPlace die n).2.1 = s.bytesAt (s.streamPlace die n).1 (s.streamPlace die n).2.1 ∧
        ∀ b, (b < a ∨ a + 8 ≤ b) → (b < (s.streamPlace die n).2.2 ∨ (s.streamPlace die n).2.2 + (s.streamPlace die n).2.1 ≤ b) → t.byte b = s.byte b))

/-! ## Events of the cores (R306, R355, R365, R367, R374, R390) -/

/-- A core stands at an instruction: it runs, nothing that comes before an instruction is due, and it has entered the line `l`. -/
structure Spec.AtInstr (s : State) (l : Line) : Prop where
  cur : s.cur < s.cores.length
  running : s.me.act ≠ .idle
  failing : s.me.failing = none
  push : s.me.pendingPush = none
  draining : s.me.draining = none
  budget : s.overrun s.me = false
  queue : s.me.queue = []
  late : s.me.lateFault = none
  interrupt : s.me.interrupt = none
  line : ∃ i : LineBuf, s.me.line = some i ∧ i.bits = l
  slot : wellFormedIa s.me.ia = true ∧ iaSlot s.me.ia ≤ lineNh l

/-- Events of the cores: a drain goes on, and a pending interrupt is taken (R365, R371, R374), after the WFI that it ends (R380); a request or
message is pending (R367), and an idle core that is reclaimed also leaves its share, its deque staying where it is; an overrun task fails with cause 26 (R355); a scalar load next on a core is
answered at its die or at home (R306); a write to another device is given up after 1 ms, which counts as a
deferred failure of the task that made it (R390). -/
def Spec.CoreEvents : Prop :=
  (∀ (s t : State) (r : Trap) (eia : Word), s.me.ready = true → s.me.draining = some (r, eia) →
    Ends (trapEntry (some r) eia) s t → t.cur = s.cur → exec (.trapEntry s.cur) s = .next t) ∧
  (∀ (s t : State) (r : Trap), s.me.ready = true → s.me.draining = none → s.me.lateFault = none → s.me.interrupt = some r →
    (((s.me.sstat.mode = false ∨ (s.me.sstat.ie = true ∧ s.me.atWfi = false)) → Ends (trapEntry (some r) s.me.ia) s t → t.cur = s.cur →
      exec (.trapEntry s.cur) s = .next t) ∧
    (s.me.sstat.mode = true → s.me.sstat.ie = true → s.me.atWfi = true → wellFormedIa s.me.nextIa = true →
      Ends (trapEntry (some r) s.me.nextIa) s.goesOn t → t.cur = s.cur → exec (.trapEntry s.cur) s = .next t))) ∧
  (∀ (s : State), s.me.ready = true → s.me.draining = none → s.me.lateFault = none → s.me.sstat.mode = true → s.me.sstat.ie = false → exec (.trapEntry s.cur) s = .next s) ∧
  (∀ (s : State) (c : Nat), c < s.cores.length →
    (exec (.managementMessage c) s = .next (s.updCore c fun k => { k with mgmt := true })) ∧
    (∀ rc, let t := s.updCore c fun k => { k with preempt := some (rc || (s.core c).preempt == some true) }
      (((s.core c).act ≠ .idle ∨ rc = false) → exec (.preEmptionRequest c rc) s = .next t) ∧
      ((s.core c).act = .idle → rc = true → ∃ u, exec (.preEmptionRequest c rc) s = .next u ∧ u.shareOf c = none ∧
        { u.core c with reclaim := (s.core c).reclaim } = t.core c ∧ u.dies = s.dies ∧ ∀ d, d ≠ c → u.core d = s.core d)) ∧
    (∀ k, (s.core c).preempt = some k → (s.core c).interrupt =
      some { intr := true, code := 0, eva := 0, eaux := if k then 1 else 0, ekv := none }) ∧
    ((s.core c).preempt = none → (s.core c).mgmt = true → (s.core c).interrupt = some { intr := true, code := 1, eva := 0, eaux := 0, ekv := none })) ∧
  (∀ (s : State), ((s.overrun s.me = false ∨ s.me.failing ≠ none) → exec (.budgetExceeded s.cur) s = .next s) ∧
    (∀ t, s.overrun s.me = true → s.me.failing = none → Ends (failTask 26) s t → t.cur = s.cur → exec (.budgetExceeded s.cur) s = .next t)) ∧
  (∀ (s t : State) (l : Line) (f : LoadForm) (tg : Target), Spec.AtInstr s l →
    loadForm (Raw.ofWords (lineHead l (iaSlot s.me.ia)) (lineTail l (iaSlot s.me.ia))) = some f →
    Answers (readPlace (s.me.ctx s.cur) (Spec.address (s.me.x f.a) f.off)) s tg t →
    let done := s.after (runInstr [f.d, f.a] (do f.run; return .next))
    done.cur = s.cur →
    (t.atDie s.cur tg.loc tg.held = true → exec (.readAtDie s.cur) s = .next done ∧ exec (.readAtHome s.cur) s = .next s) ∧
    (t.atDie s.cur tg.loc tg.held = false → exec (.readAtHome s.cur) s = .next done ∧ exec (.readAtDie s.cur) s = .next s)) ∧
  (∀ (s : State) (n : Nat),
    (∀ f, s.fabric[n]? = some f → f.write = true → 1000000 ≤ s.dtime - f.sent →
      ∃ t, exec (.fabricAccessTimeout n) s = .next t ∧ t.fabric = s.fabric.eraseIdx n ∧ SameMemory s t ∧
        let runs := fun c => c < s.cores.length ∧ (s.core c).act = .running ∧ (s.core c).taskNo = f.task
        ((∀ c, ¬ runs c) → t.cores = s.cores) ∧
        ∀ c, runs c → (∀ d, runs d → d = c) → (t.core c).deferred = (s.core c).deferred + 1 ∧ ∀ d, d ≠ c → t.core d = s.core d) ∧
    (∀ f, s.fabric[n]? = some f → s.dtime - f.sent < 1000000 → exec (.fabricAccessTimeout n) s = .next s) ∧
    (∀ (va loc k : Nat) (key : Option Nat), s.fabric[n]? = none → n = s.fabric.length + k → (∀ f ∈ s.fabric, f.write = true) → isFabric loc = true →
      ∃ t u, exec (.fabricAccessTimeout n) s = .next t ∧ Traps (readHome k key va loc 8) t (faultOf 27 va 0) u ∧ u.fabric = s.fabric))

/-! ## Agents outside the cores (R183, R184, R233, R319, R385 to R391) -/

/-- The value that an atomic of the bus leaves: F of R321 on values of n bytes, with operand b and expected value c. -/
def Spec.busAmo (f n old b c : Nat) : Option Nat :=
  let o := BitVec.ofNat (8 * n) old
  let v := BitVec.ofNat (8 * n) b
  match f with
  | 0 => some (o + v).toNat | 1 => some v.toNat | 2 => some (o &&& v).toNat | 3 => some (o ||| v).toNat | 4 => some (o ^^^ v).toNat
  | 5 => some (if o.sle v then o else v).toNat | 6 => some (if o.sle v then v else o).toNat
  | 7 => some (if o.ule v then o else v).toNat | 8 => some (if o.ule v then v else o).toNat
  | 9 => some (if n = 8 then Spec.fsum (old % 2 ^ 32) (b % 2 ^ 32) + Spec.fsum (old / 2 ^ 32 % 2 ^ 32) (b / 2 ^ 32 % 2 ^ 32) * 2 ^ 32
      else Spec.fsum (old % 2 ^ 32) (b % 2 ^ 32))
  | 10 => if old = c % 2 ^ (8 * n) then some v.toNat else none
  | _ => none

/-- The step of a collective reduction of two elements, and that of several in ascending rank (R233). -/
def Spec.reduced (o : XredOp) (ty : Ty) (vs : List Nat) : Nat :=
  let f := Spec.fmt ty
  match o with
  | .sum => if ty = .i32 then vs.foldl (fun a b => (a + b) % 2 ^ 32) 0
    else match vs with | [] => 0 | v :: r => r.foldl (fun a b => (fAdd f .rne false (f.decode a) (f.decode b)).1) v
  | .max => if ty = .i32 then ((vs.map fun v => (BitVec.ofNat 32 v).toInt).max?.getD 0 % 2 ^ 32).toNat
    else if vs.any (fun v => f.decode v == .nan) then f.nanBits else match vs with | [] => 0 | v :: r => r.foldl (fMinMax f true) v
  | .min => if ty = .i32 then ((vs.map fun v => (BitVec.ofNat 32 v).toInt).min?.getD 0 % 2 ^ 32).toNat
    else if vs.any (fun v => f.decode v == .nan) then f.nanBits else match vs with | [] => 0 | v :: r => r.foldl (fMinMax f false) v

/-- What agents outside the cores do. Once the wipe of bring-up is over (R392) the host and other devices read, write and update the interleaved window, at the home of the line with
no clock of their own, and the host its own memory too, at any time (R319, R387); the STATUS of a host queue keeps its value (R2, R344); a group is registered as the host gives it, with this device's
rank (R391); a round completes in the order of its group, when its copy
waits at the head of its channel, and fails with fabric-timeout when its time has passed (R233, R391); each element is reduced in
ascending rank; an error of memory is counted, and an uncorrectable one stays in its line (R183, R184); the device attests (R395). -/
def Spec.OutsideAgents : Prop :=
  (∀ (s : State) (x : BusAccess) (host : Bool), Memory.wf s.mem = true → s.dies.length = 4 →
    let i := if host then Instr.hostCxlMemAccess x else Instr.remoteFabricAccess x
    let own := host = true ∧ isRemote x.addr = true ∧ isFabric x.addr = false
    let served := s.stage = .running ∨ s.stage = .awaitConfig ∨ own
    (¬ served → exec i s = .next { s with notes := s.notes ++ [.refused] }) ∧ (served →
    let inside := fun (n : Nat) => 0 < n ∧ x.addr % 64 + n ≤ 64 ∧ (x.addr + n ≤ 8 * s.interI ∨ own) ∧
      s.badLines.contains (x.addr / 64) = false ∧ s.sealOf (x.addr / 64) = none ∧ s.vagueSeed (x.addr / 64) = none
    let told := fun (t : State) (m : HostNote) => t.notes = s.notes ++ [m]
    (∀ n, x.op = .load n → inside n → exec i s = .next { s with notes := s.notes ++ [.found x.agent (s.bytesAt x.addr n)] }) ∧
    (∀ bs, x.op = .store bs → inside bs.length → s.barrierOn (x.addr / 64) = none → (x.addr + bs.length ≤ 0xA000000000000 ∨ own) →
      ∃ t, exec i s = .next t ∧
        (∀ j, j < bs.length → some (t.byte (x.addr + j)) = if s.statusByte (x.addr + j) then some (s.byte (x.addr + j)) else bs[j]?) ∧
        SameMemoryBut s t x.addr bs.length ∧ t.notes = s.notes ∧ t.cores = s.cores ∧
        (host = true → ∀ d, d < 4 → ∀ g ∈ (t.die d).guests, g.line ≠ x.addr / 64)) ∧
    (∀ f n b c, x.op = .amo f n b c → host = false → (n = 4 ∨ n = 8) → x.addr % n = 0 → f ≤ 10 → inside n → s.barrierOn (x.addr / 64) = none →
      x.addr + n ≤ 0xA000000000000 → ∃ t, exec i s = .next t ∧ told t (.found x.agent (s.bytesAt x.addr n)) ∧ SameMemoryBut s t x.addr n ∧
        ((∀ j, j < n → s.statusByte (x.addr + j) = false) →
          t.num x.addr n = (Spec.busAmo f n (s.num x.addr n) b.toNat c.toNat).getD (s.num x.addr n)) ∧
        ((∀ j, j < n → s.statusByte (x.addr + j) = true) → t.num x.addr n = s.num x.addr n)) ∧
    (∀ f n b c, x.op = .amo f n b c → host = true → exec i s = .next { s with notes := s.notes ++ [.refused] }) ∧
    (∀ bs b, x.op = .store bs → s.barrierOn (x.addr / 64) = some b → exec i s = .next { s with notes := s.notes ++ [.refused] }))) ∧
  (∀ (s : State) (g : CollGroup), s.stage = .running →
    (g.id < 4096 → g.members.length ≤ 524288 → 1 ≤ g.timeoutUs → g.timeoutUs ≤ 10 ^ 6 → ∃ t, exec (.collectiveGroupRegister g) s = .next t ∧
      g ∈ t.groups ∧ (∀ q ∈ t.groups, q.id = g.id → q = g) ∧
      ∀ q, q.id ≠ g.id → (q ∈ t.groups ↔ q ∈ s.groups)) ∧
    ((4096 ≤ g.id ∨ 524288 < g.members.length ∨ g.timeoutUs = 0 ∨ 10 ^ 6 < g.timeoutUs) →
      exec (.collectiveGroupRegister g) s = .next { s with notes := s.notes ++ [.refused] })) ∧
  (∀ (s : State) (n : Nat),
    (s.rounds[n]? = none → exec (.xredRoundComplete n) s = .next s ∧ exec (.collectiveRoundTimeout n) s = .next s) ∧
    (∀ q p, s.rounds[n]? = some q → p ∈ s.rounds → p.group = q.group → p.round < q.round → exec (.xredRoundComplete n) s = .next s) ∧
    (∀ q c ch f e g t, s.rounds[n]? = some q → (∀ p ∈ s.rounds, p.group = q.group → q.round ≤ p.round) → s.xredHead q = some (c, ch, f, e) →
      s.groups.find? (fun g => g.id == q.group) = some g →
      Ends (xredDeliver q g.members.length s.freeCtr ch f e) { s with freeCtr := s.freeCtr + 1, cur := c } t → t.cur = c →
      ∃ u, Ends (setCopyProg ch 0 2) t u ∧ (u.cur = c → exec (.xredRoundComplete n) s = .next { u.roundDone q with cur := s.cur })) ∧
    (∀ q, s.rounds[n]? = some q → (∀ p ∈ s.rounds, p.group = q.group → q.round ≤ p.round) → s.xredHead q = none →
      exec (.xredRoundComplete n) s = .next (if s.awaits q then s else s.roundDone q)) ∧
    (∀ q, s.rounds[n]? = some q → s.dtime - q.start < ((s.groups.find? fun g => g.id == q.group).map CollGroup.timeoutUs).getD 1 * 1000 →
      exec (.collectiveRoundTimeout n) s = .next s) ∧
    (∀ q c ch f e, s.rounds[n]? = some q → ((s.groups.find? fun g => g.id == q.group).map CollGroup.timeoutUs).getD 1 * 1000 ≤ s.dtime - q.start →
      s.xredHead q = some (c, ch, f, e) → c < s.cores.length → ch < 4 → ∃ t, exec (.collectiveRoundTimeout n) s = .next t ∧ SameMemory s t ∧
        ((t.core c).chan ch).stopped = some (faultOf 27 0 (q.round * 2 ^ 16 + q.group)) ∧ q ∉ t.rounds)) ∧
  (∀ (o : XredOp) (ty : Ty) (n : Nat) (rows : List (List Byte)) (i : Nat), ty ∈ [Ty.i32, .fp32, .bf16] → i < n → rows ≠ [] →
    byteElem ty (xredRow o ty n rows) i = Spec.reduced o ty (rows.map fun r => byteElem ty r i)) ∧
  (∀ (s : State) (e : DramErr),
    (isRemote e.addr = true ∨ s.backed e.addr = false → exec (.dramError e) s = .next s) ∧
    (isRemote e.addr = false → s.backed e.addr = true → stackOf e.addr < s.crusts.length →
      ∃ t, exec (.dramError e) s = .next t ∧ SameMemory s t ∧
        (∀ l, t.badLines.contains l = (s.badLines.contains l || (e.uncorrectable && l == e.addr / 64))) ∧
        (let q := s.crust (stackOf e.addr);
          t.crust (stackOf e.addr) = if e.uncorrectable then { q with uncorrectable := min (q.uncorrectable + 1) (2 ^ 64 - 1) }
            else { q with corrected := min (q.corrected + 1) (2 ^ 64 - 1) }))) ∧
  (∀ s : State, (s.stage = .off → ∀ r, exec (.attestationRequest r) s = .next s) ∧
    (s.stage ≠ .off → exec (.attestationRequest .identity) s = .next { s with notes := s.notes ++ [.identity] } ∧
      let life := match s.life with | .blank => 0 | .provisioned => 1 | .deployed => 2 | .returned => 3
      exec (.attestationRequest .measurements) s =
        .next { s with notes := s.notes ++ [.measurements (Config.firmwareDigest s.firmware) (Config.lifeDigest life)] }))

/-! ## Time, bring-up, reset, keys and power (R388, R392 to R397) -/

/-- A wipe (R393): every core, die, engine and crust is as reset leaves it, every byte of the device's memory is zero, no key is loaded and
no line sealed or bad; the firmware image, the life-cycle state, what the host was told, and the memory of the host and of other devices
stay. -/
structure Spec.Wiped (s t : State) : Prop where
  cores : t.cores = State.reset.cores
  dies : t.dies = State.reset.dies
  mxes : t.mxes = State.reset.mxes
  crusts : t.crusts = State.reset.crusts
  memory : Memory.wf s.mem = true → ∀ a, t.byte a = if isRemote a then s.byte a else 0
  lines : t.badLines = [] ∧ t.sealTags = [] ∧ t.keys = [] ∧ t.inflight = [] ∧ t.fills = [] ∧ t.shares = [] ∧ t.rounds = [] ∧ t.groups = []
  caches : t.l1 = [] ∧ t.dirty = [] ∧ (∀ q ∈ t.vague, isRemote (64 * q.1) = true) ∧ t.counters = [] ∧ t.writes = [] ∧ t.badCounters = [] ∧ t.verOwned = [] ∧ t.verTaint = [] ∧
    t.joinCks = [] ∧ t.parked = []
  time : t.dtime = 0 ∧ t.everLocked = false ∧ t.slew = 0
  kept : t.firmware = s.firmware ∧ t.notes = s.notes

/-- A load, given at the full clock, is held at step k (R10, R397): no compute die draws above 430 W, no stack above 55 W, the I/O die not
above 180 W, the losses are not above 60 W, and the package not above its cap, with each falling as the clock does. -/
def Spec.Held (l : PowerLoad) (cap k : Nat) : Prop :=
  let held := fun (w limit : Nat) => w * (20 - k) ≤ 20 * limit
  (∀ w ∈ l.dies.toList, held w 430) ∧ (∀ w ∈ l.hbm.toList, held w 55) ∧ held l.io 180 ∧ held l.losses 60 ∧
  held (l.dies.toList.sum + l.hbm.toList.sum + l.io + l.losses) cap

/-- Device life. DTIME takes the host's time at the first lock, and from then on it is slewed toward it: it never falls, and gains or loses at
most 100 ppm of the time that passes (R388); power-good, reset,
a new image, a life-cycle move and power-off wipe, and the device waits for its configuration, or for an image (R392 to R394, R396);
BRING_UP_CONFIG fixes what the host supplies and the device runs; keys are taken in DEPLOYED inside a session (R395); the cap keeps its
bounds, the clock takes the first step that holds every part to its allocation (R10) and the package to its cap, and every core is told
of a new clock (R397). -/
def Spec.DeviceLife : Prop :=
  ∀ s : State,
    (∀ w : Word, s.stage = .running → ∃ t, exec (.ptmExchange w) s = .next t ∧ t.locked = true ∧ t.everLocked = true ∧
      (s.everLocked = false → t.dtime = w.toNat) ∧
      (s.everLocked = true → t.dtime = s.dtime ∧ t.slew = (w.toNat : Int) - s.dtime) ∧
      { t with dtime := s.dtime, lastPtm := s.lastPtm, locked := s.locked, everLocked := s.everLocked, slew := s.slew } = s) ∧
    (s.slewAcc < 10000 → let t := s.tick
      let off := (t.dtime : Int) - (s.dtime + s.dNs)
      s.dtime ≤ t.dtime ∧ t.slewAcc < 10000 ∧ 10000 * off.natAbs ≤ s.slewAcc + s.dNs ∧ t.slew = s.slew - off ∧ t.slew.natAbs ≤ s.slew.natAbs ∧
      (s.slewAcc + s.dNs - t.slewAcc = 10000 * off.natAbs ∨ t.slew = 0)) ∧
    (exec .lossOfLock s = .next
      (if s.locked = true ∧ 10 ^ 9 ≤ s.dtime - s.lastPtm then { s with locked := false, slew := 0, notes := s.notes ++ [.lossOfLock] } else s)) ∧
    (let wiped := fun (i : Instr) => ∃ t, exec i s = .next t ∧ Spec.Wiped s t ∧ t.life = s.life ∧
        t.stage = if s.firmware = none then .recovery else .awaitConfig;
      (s.stage = .off → wiped .powerGood ∧ exec .reset s = .next s) ∧ (s.stage ≠ .off → wiped .reset ∧ exec .powerGood s = .next s)) ∧
    (∃ t, exec .powerOff s = .next t ∧ Spec.Wiped s t ∧ t.stage = .off ∧ t.life = s.life) ∧
    (∀ b : BringUp,
      let z := 2 ^ 31 * ((15 * (b.g / 2 ^ 30) + 111) / 112)
      let ok := s.stage = .awaitConfig ∧ b.c % 2 ^ 31 = 0 ∧ b.g % 2 ^ 30 = 0 ∧ b.c + z ≤ 2 ^ 36 ∧ b.sbase % 2 ^ 26 = 0 ∧ b.device < 1024
      let t := { s with carveC := b.c, sealG := b.g, sbase := b.sbase, devNo := b.device, stage := .running }
      (ok → t.backedRange b.sbase (2 ^ 26) = true → isRemote b.sbase = false → exec (.bringUpConfig b) s = .next t) ∧
      (¬ ok → exec (.bringUpConfig b) s = .next { s with notes := s.notes ++ [.refused] })) ∧
    (∀ i : FirmwareImage,
      (s.stage = .recovery → i.verifies = true → ∃ t, exec (.firmwareImageLoad i) s = .next t ∧ Spec.Wiped { s with firmware := some i.image } t ∧
        t.stage = .awaitConfig) ∧
      ((s.stage ≠ .recovery ∨ i.verifies = false) → exec (.firmwareImageLoad i) s = .next { s with notes := s.notes ++ [.refused] })) ∧
    (∀ k : SealKey,
      let ok := s.stage ≠ .off ∧ s.stage ≠ .recovery ∧ s.life = .deployed ∧ k.session = true ∧ k.id < 64
      (ok → ∃ t, exec (.sealKeyLoad k) s = .next t ∧ SameMemory s t ∧ t.sealTags = s.sealTags ∧ (t.keyGenOf k.id).isSome = true ∧
        ((∀ p ∈ s.keys, p.2 ≤ s.keyGen) → t.keyGenOf k.id ≠ s.keyGenOf k.id) ∧ ∀ j, j ≠ k.id → t.keyGenOf j = s.keyGenOf j) ∧
      (¬ ok → exec (.sealKeyLoad k) s = .next { s with notes := s.notes ++ [.refused] })) ∧
    (∀ r : LifeCycleReq,
      let ok := s.stage ≠ .off ∧ r.signed = true ∧ ((s.life = .blank ∧ r.target = .provisioned) ∨ (s.life = .provisioned ∧ r.target = .deployed) ∨
        (s.life = .deployed ∧ r.target = .returned))
      (ok → ∃ t, exec (.lifeCycleTransition r) s = .next t ∧ Spec.Wiped s t ∧ t.life = r.target) ∧
      (¬ ok → exec (.lifeCycleTransition r) s = .next { s with notes := s.notes ++ [.refused] })) ∧
    (∀ w : Nat, s.stage ≠ .off → exec (.powerCapSet w) s =
      .next (if 1200 ≤ w ∧ w ≤ 2400 then { s with cap := w } else { s with notes := s.notes ++ [.refused] })) ∧
    (∀ load : PowerLoad, s.stage = .running → ∃ t, exec (.clockStep load) s = .next t ∧ t.clockK ≤ 10 ∧
      (t.clockK < 10 → Spec.Held load s.cap t.clockK) ∧ (∀ k, k < t.clockK → ¬ Spec.Held load s.cap k) ∧
      (t.clockK = s.clockK → t = s) ∧ (t.clockK ≠ s.clockK → ∀ k ∈ t.cores, k.mgmt = true) ∧
      { t with clockK := s.clockK, cores := s.cores } = s)

/-! ## Encodings, steps, and the whole machine -/

/-- Words that the manual gives, and the instructions they stand for (R18 to R23). -/
def Obligations.DecodeWords : Prop :=
  decodeWords 0x4216 0x31C0 = .ok (.fadd { d := 5, a := 6, b := 7, rm := .rtz }) ∧
  decodeWords 0x5024 0x52C0 = .ok (.barinit { d := 9, a := 10, b := 11 }) ∧
  decodeWords 0x4E24 0x5343 = .ok (.join { d := 9, a := 10, b := 13 }) ∧
  decodeWords 0x8C24 0x00000001 = .ok (.csrr { d := 9, csr := .frm }) ∧
  decodeWords 0x9C28 0x53000200 = .ok (.vfadd { d := 10, a := 10, b := 12, k := 0, ty := .fp32, rm := .frm, sat := false }) ∧
  decodeWords 0xAD24 0x84410002 = .ok (.verld { d := 9, a := 16, b := 17, width := 2 }) ∧
  decodeWords 0xAF10 0x6000020A = .ok (.nadd { d := 4, a := 12, b := 0, c := 5, ty := .fp32, acq := false, rel := false, scope := .core }) ∧
  decodeWords 0xEF00 0x6003000000000400 = .ok (.nzero { a := 12, acq := false, rel := false, scope := .core, ty := .i8, count := 1024 })

/-- An instruction and its words agree (R13, R18 to R23): the words of a well-formed instruction decode to it, or to the instruction
whose words they are; read as the opcode table numbers them, and read from slot 1 of the line that holds them alone, they decode
to the same; and a legal line holds them. Only events of other agents have no words. The model's own choices here: the numbering
of the table is log entry 3, rows that share words log entry 8. -/
def Obligations.RoundTrip : Prop :=
  ∀ (i : Instr) (r : Raw), i.wf = true → encode i = some r →
    decodeWords r.head r.tail = .ok i.canonical ∧
    decodeTableWord (16 + 8 * r.tl.bytes) (r.head.toNat * 2 ^ (8 * r.tl.bytes) + r.tail.toNat) = some i.canonical ∧
    lineLegal (lineOf r.head.toNat r.tail.toNat) = true ∧ decodeSlot (lineOf r.head.toNat r.tail.toNat) 1 = .ok i.canonical

/-- A step (R14, R15, R23): where the scalar unit of core c moves and stands at an instruction, the step runs the instruction that its
slot decodes to, or takes undefined-operation; where its line has not been entered, it is entered first. Otherwise the event that
the tape names runs, or a vector unit runs the entry at the head of its queue, its next rows (R209), its next blocks (R303) or the next
rows of a later entry (R247), or one page of a GCOMMIT settles, which completes after its last (R123), or a line is written back (R105). Time passes first. The model's
own choices here: who moves, and how time passes, is log entry 6; how much of an entry runs at once, log entry 59. -/
def Obligations.StepRunsDecoded : Prop :=
  ∀ (s : State), let next := { s.tick with tape := s.tape.drop 1 }
    (∀ (c : Nat) (l : Line), s.move = .scalar c → c < 160 →
      let t := { next with cur := c }
      Spec.AtInstr t l →
        (∀ i, decodeSlot l (iaSlot t.me.ia) = .ok i → step s = exec i t) ∧
        (∀ n, decodeSlot l (iaSlot t.me.ia) = .error n →
          step s = .next (t.after (trapEntry (some (faultOf 1 0 ((lineHead l (iaSlot t.me.ia)).toNat * 2 ^ 16 + n % 16))) t.me.ia)))) ∧
    (∀ (c : Nat) (l : Line) (u : State), s.move = .scalar c → c < 160 →
      let t := { next with cur := c }
      t.me.line = none → wellFormedIa t.me.ia = true → Answers (enterLine t.me.sstat.mode t.me.ia) t l u →
      let v := u.updMe fun k => k.goAt k.ia (some l)
      Spec.AtInstr v l → (t.me.act ≠ .idle ∧ t.me.failing = none ∧ t.me.pendingPush = none ∧ t.overrun t.me = false ∧
        t.me.draining = none ∧ t.me.queue = [] ∧ t.me.lateFault = none ∧ t.me.interrupt = none) → u.me.ia = t.me.ia →
      ∀ i, decodeSlot l (iaSlot t.me.ia) = .ok i → step s = exec i v) ∧
    (∀ i, s.move = .event i → step s = exec i next) ∧
    (∀ (c n : Nat) (e : VEntry) (es : List VEntry) (m : MaskReg) (t : State), s.move = .rows c n → c < 160 →
      let q := { next with cur := c }
      let part := { e with nr := e.prog.row + n }
      q.me.queue = e :: es → e.op.rowMask = some m → e.fault = none → part.nr < e.nr → anyActive q.me part m = true →
      Ends (do entryGate part; vexec part) q t → t.cur = c → ∃ u, Ends (setProg part.nr 0 0) t u ∧ step s = .next { u with cur := s.cur }) ∧
    (∀ (c n : Nat) (e : VEntry) (es : List VEntry) (o : MmaOp) (x : MmaF) (t : State), s.move = .rows c n → c < 160 →
      let q := { next with cur := c }
      let stop := e.prog.block + n
      q.me.queue = e :: es → e.op = .mma o x → e.fault = none → e.empty = false → 0 < n → stop < 4 →
      Ends (mmaBlocks o x e stop) q t → t.cur = c → ∃ u, Ends (setProg 0 0 stop) t u ∧ step s = .next { u with cur := s.cur }) ∧
    (∀ (c : Nat) (b : Bool) (t : State), s.move = .vector c → c < 160 → Answers stepHead { next with cur := c } b t → t.cur = c →
      step s = .next { t with cur := s.cur }) ∧
    (∀ (c i n lim : Nat) (e : VEntry) (t : State), s.move = .ahead c i n → c < 160 →
      let q := { next with cur := c }
      q.me.queue[i]? = some e → q.chainLimit c i = some lim → i ≠ 0 → (e.op.reads = true ∨ e.op.writes = true ∨ e.op.crustForm.isSome = true) → e.fault = none →
      e.prog.row < n → n ≤ lim → Ends (advance i n) q t → t.cur = c → step s = .next { t with cur := s.cur }) ∧
    (∀ (c : Nat) (l : Line) (x : R3T2) (t : State), s.move = .page c → c < 160 →
      let q := { next with cur := c }
      Spec.AtInstr q l → Ready q [x.d, x.a, x.b] → Spec.Quiet q →
        let settled := fun (commit : Bool) =>
          ∀ r, Answers (settleStep (q.me.ctx c) commit (q.me.x x.a) (q.me.x x.b)) (Spec.released q .device) r t → t.cur = c →
            step s = .next { (match r with | some n => t.wrote x.d n | none => t) with cur := s.cur }
        (decodeSlot l (iaSlot q.me.ia) = .ok (.gcommit x) → settled true) ∧ (decodeSlot l (iaSlot q.me.ia) = .ok (.gdiscard x) → settled false)) ∧
    (∀ l, s.move = .writeBack l → step s = .next (next.writeBack l)) ∧ (∀ l, s.move = .badCounter l → step s = .next (next.failCounter l)) ∧
    (∀ c n, s.move = .rows c n → c < 160 → ({ next with cur := c } : State).me.queue = [] → step s = .next next) ∧
    (s.tape = [] → s.move = .scalar s.cur) ∧
    (∀ c, s.move = .scalar c → c < 160 → ({ next with cur := c } : State).me.act = .idle → ({ next with cur := c } : State).me.failing = none →
      ({ next with cur := c } : State).me.pendingPush = none → step s = .next { next with cur := c })

/-- The tables of the device have their sizes (R5), memory is in canonical form, and so are the register files, slices and operand slots. -/
structure Spec.Shaped (s : State) : Prop where
  sized : s.Sized
  memory : Memory.wf s.mem = true
  rows : ∀ k ∈ s.cores, Spec.Rising k.vregs
  slices : ∀ k ∈ s.cores, Spec.RisingBytes k.slices
  slots : ∀ m ∈ s.mxes, Spec.Rising m.rows

/-- Every step keeps the shape of the device: from every state that has it, whatever core or agent moves. -/
def Obligations.StepKeepsShape : Prop := ∀ s t : State, Spec.Shaped s → step s = .next t → Spec.Shaped t

/-- Reset (R241, R305, R350, R388, R393): every byte of memory, every register, pad, slice, slot and accumulator is 0, every core
idles with nothing queued, no key is loaded, DTIME and the clocks are 0; the device is shaped and its clocks causal. The model's
own choices here: registers without a stated reset value are log entry 1, the device after reset log entry 2, bytes of host and
remote memory log entry 4. -/
def Obligations.ResetState : Prop :=
  let s := State.reset
  Spec.Shaped s ∧ Spec.Causal s ∧ (∀ a, s.byte a = 0) ∧ s.dtime = 0 ∧ s.everLocked = false ∧ s.keys = [] ∧ s.sealTags = [] ∧ s.badLines = [] ∧
  s.l1 = [] ∧ s.dirty = [] ∧ s.vague = [] ∧ s.counters = [] ∧ s.badCounters = [] ∧ s.slew = 0 ∧
  (∀ k ∈ s.cores, k.act = .idle ∧ (∀ r, k.x r = 0) ∧ k.task = Vector.replicate 32 0 ∧ k.sup = Vector.replicate 32 0 ∧ k.flags = 0 ∧ k.vstart = 0 ∧
    k.verstat = 0 ∧ k.queue = [] ∧ k.sb = [] ∧ k.deque = [] ∧ k.held = [] ∧ k.monitor = none ∧ k.cause = 0 ∧ k.eia = 0 ∧ k.eva = 0 ∧ k.eaux = 0 ∧
    k.ck = Clock.reset ∧ (∀ a r, (k.row false a r).bits = 0 ∧ (k.row true a r).bits = 0) ∧ (∀ a, k.slices.get a = 0)) ∧
  (∀ d ∈ s.dies, d.dvc = Clock.reset ∧ d.guests = [] ∧ d.inbox = [] ∧ d.bars = [] ∧ d.monitors = 0 ∧ d.inject = [] ∧ d.tlb = [] ∧ d.kv = [] ∧ d.pools = []) ∧
  (∀ m ∈ s.mxes, ∀ k, (∀ g, m.groups.getD g none = none) ∧ (∀ t r n, (m.acc k).get t r n = 0) ∧ ∀ n, (m.slot n).owner = none) ∧
  (∀ c ∈ s.crusts, c.queue = [] ∧ c.corrected = 0 ∧ c.uncorrectable = 0)

/-- Privilege (R23, R91, R103, R105, R125, R126, R364, R380, R381): in task mode each supervisor instruction takes undefined-operation, case 10. -/
def Spec.SupervisorOnly : Prop :=
  ∀ s : State, s.me.sstat.mode = false → s.me.queue = [] →
    let refused := fun (i : Instr) => exec i s = .next (s.after (trapEntry (some (faultOf 1 0 (s.me.head * 2 ^ 16 + 10))) s.me.ia))
    refused .wfi ∧
    (∀ x : RabT2, refused (.tlbinvAddress x) ∧ refused (.tlbinvAsid x) ∧ refused (.tlbinvAll x)) ∧
    (∀ x : R3T2, refused (.gflatten x) ∧ refused (.gpoolDonate x) ∧ refused (.gpoolDrop x) ∧ refused (.gpoolQuery x)) ∧
    (∀ x : R2T2, refused (.ctxsave x) ∧ refused (.ctxrest x) ∧ refused (.vqsave x) ∧ refused (.vqrest x)) ∧
    (∀ x : CacheF, refused (.cdrop x))

/-- What one write of a register leaves (R15, R236, R364): the register in the bank of the mode, but for x0, which reads 0 and discards it; no other
register, flag, mask, special register, byte of memory, core or die; and the stream goes on with the next instruction. -/
def Spec.RegisterWrites : Prop :=
  ∀ (s : State) (d : Reg) (v : Word), s.cur < s.cores.length → wellFormedIa s.me.nextIa = true →
    let t := s.wrote d v
    (∀ r, t.me.x r = if r = d ∧ r ≠ 0 then v else s.me.x r) ∧ t.me.x 0 = 0 ∧
    (s.me.sstat.mode = true → t.me.task = s.me.task) ∧ (s.me.sstat.mode = false → t.me.sup = s.me.sup) ∧
    { t.me with task := s.me.task, sup := s.me.sup, ia := s.me.ia, line := s.me.line } = s.me ∧ t.me.ia = s.me.nextIa ∧
    (∀ c, c ≠ s.cur → t.core c = s.core c) ∧ { t with cores := s.cores } = s ∧
    (∀ f : FlagSet, let u := s.wroteFp d (v.toNat, f)
      (∀ r, u.me.x r = if r = d ∧ r ≠ 0 then v else s.me.x r) ∧ u.me.flags = s.me.flags ||| f ∧
      { u.me with task := s.me.task, sup := s.me.sup, ia := s.me.ia, line := s.me.line, flags := s.me.flags } = s.me ∧ { u with cores := s.cores } = s)

/-! ## Three rules as the manual states them -/

/-- R25: NOP is the head 0x0000 with no tail; its effect is none, the IA advances, it enters no queue and orders nothing. -/
def Obligations.NopHasNoEffect : Prop :=
  (∀ tail, decodeWords 0x0000 tail = .ok .nop) ∧ headTailBytes 0x0000 = 0 ∧ (encode .nop).map Raw.head = some 0x0000 ∧
  ∀ s : State, Ready s [] → ∃ t, exec .nop s = .next t ∧ t.me.ia = s.me.nextIa ∧ { t with cores := s.cores } = s ∧
    { t.me with ia := s.me.ia, line := s.me.line } = s.me ∧ ∀ c, c ≠ s.cur → t.core c = s.core c

/-- R71: FRM holds the default rounding mode in [1:0], 0 RNE, 1 RTZ, 2 RDN, 3 RUP, is 0 at reset, and its other bits read 0; an RM field of 00
selects it and 01, 10 and 11 select RNE, RTZ and RDN; an entry takes a copy at dispatch, which a later write of FRM does not change. -/
def Obligations.DefaultRoundingMode : Prop :=
  (∀ (s : State) (v : Word), s.cur < s.cores.length → let t := s.updMe fun k => k.setCsr .frm v
    t.csrValue .frm = v &&& 3 ∧ t.me.queue = s.me.queue ∧ ∀ i, i < 4 → (t.me.chan i) = s.me.chan i) ∧
  (∀ k ∈ State.reset.cores, k.frm = 0) ∧
  (∀ f : BitVec 2, modeOf f (rmOf 0) = (if f = 0 then .rne else if f = 1 then .rtz else if f = 2 then .rdn else .rup) ∧
    modeOf f (rmOf 1) = .rne ∧ modeOf f (rmOf 2) = .rtz ∧ modeOf f (rmOf 3) = .rdn) ∧
  (∀ (k : Core) (op : VecOp) (r : BitVec 2) (a b c d : Option Reg), (k.newEntry op (rmOf r) a b c d).rm = modeOf k.frm (rmOf r))

/-- R377: PADUSE is 0 when a task starts; its fields are LANE in [44:32] and PAD in [20:0], a written value above a field's maximum is stored as
that maximum, and the reserved bits read 0 whatever is written. -/
def Obligations.PaduseStoresMaxima : Prop :=
  (∀ (k : Core) (no seed cycle ceil : Nat) (levels : Word) (r : Rec) (strip : Option (Nat × Int × Nat)),
    (k.start no seed cycle ceil levels r strip).paduse = 0) ∧ (∀ k ∈ State.reset.cores, k.paduse = 0) ∧
  (∀ (s : State) (x : CsrF), Ready s [x.d, x.a] → x.csr = .paduse →
    let v := s.me.x x.a
    let t := s.updMe fun k => k.setCsr .paduse v
    let p := t.csrValue .paduse
    exec (.csrw x) s = .next (t.wrote x.d (s.csrValue .paduse)) ∧
    (p.extractLsb' 0 21).toNat = min (v.extractLsb' 0 21).toNat 1048576 ∧ (p.extractLsb' 32 13).toNat = min (v.extractLsb' 32 13).toNat 4096 ∧
    p.extractLsb' 21 11 = 0 ∧ p.extractLsb' 45 19 = 0)

/-! ## Statements of several parts -/

/-- Each scalar integer instruction writes its result at both widths and changes nothing else. -/
def Obligations.IntegerResults : Prop :=
  Spec.AluResults ∧ Spec.AluCounts ∧ Spec.ImmediateResults

/-- Quotients, roots and reciprocal roots are rounded once, the edge cases of the special functions are as given, and the turn functions and
the Gumbel noise are the real ones, rounded once. The model's own choices here: how exactly a real function is enclosed is log entry 55. -/
def Obligations.QuotientsRootsAndEdges : Prop :=
  Spec.DivisionAndRootAreRight ∧ Spec.VectorFunctionEdges ∧ Spec.TurnsAndNoiseAreRounded

/-- Sums, products and fused results are exact before one rounding, and special operands give what the tables say. The model's own
choices here: the sign of an exact zero sum is log entry 22. -/
def Obligations.SumsProductsAndSpecials : Prop :=
  Spec.SumsAndProductsAreExact ∧ Spec.SpecialOperands

/-- Each scalar floating-point instruction writes its result zero-extended and ORs its flags into FLAGS. -/
def Obligations.FpuResults : Prop :=
  Spec.FpuResults ∧ Spec.FpuComparesAndClass

/-- Branches and jumps go to their target or go on, link, and raise illegal-target or the fetch fault as stated. The model's own choices
here: EAUX of a target whose LINE sum leaves its 51 bits is the sum as a 64-bit number (log entry 71). -/
def Obligations.TransfersOfControl : Prop :=
  Spec.BranchResults ∧ Spec.JumpResults ∧ Spec.IllegalTargets ∧ Spec.TargetFetchFault

/-- A register write changes that register of the current bank alone, x0 reads 0, and next_ia advances slot by slot. -/
def Obligations.RegistersAndAddresses : Prop :=
  Spec.RegisterWrites ∧ Spec.NextAddress

/-- Scalar loads write the bytes of memory and of the own stores, extended, to x[D]; LDA also acquires. The model's own choices here:
that waits inside a core take their events in the same step is log entry 11. -/
def Obligations.ScalarLoads : Prop :=
  Spec.PadLoads ∧ Spec.PageLoads

/-- Misaligned scalar accesses, AMOs and task addresses trap with cause misaligned and no effect. -/
def Obligations.AddressFaults : Prop :=
  Spec.MisalignedAccesses ∧ Spec.TaskAddresses

/-- A write that performs changes exactly its bytes and the clocks of its home; an atomic update does so once, and a barrier line is
protected. -/
def Obligations.WritesAndUpdates : Prop :=
  Spec.PerformedWrite ∧ Spec.AtomicUpdates

/-- A core reads its own newest stores first; they change memory when they perform; a drained buffer is empty. The model's own choices
here: the dispatch gate performs the older stores in the same step by log entries 11 and 46. -/
def Obligations.StoresOfACore : Prop :=
  Spec.OwnStoresFirst ∧ Spec.StoreThenLoad ∧ Spec.StoresHavePerformed

/-- Fences, cache maintenance and address waits complete with the effects the text gives. The model's own choices here: CDROP is log
entry 21, pad addresses log entry 20, cached lines log entry 13, waits log entries 11, 45 and 46. -/
def Obligations.FencesCachesAndWaits : Prop :=
  Spec.Fences ∧ Spec.CacheMaintenance ∧ Spec.WaitFirstRead ∧ Spec.WaitEnds

/-- CSR instructions answer the old value and change the fields that the mode and the field map let them change. -/
def Obligations.CsrAccess : Prop :=
  Spec.CsrAccess ∧ Spec.CsrFields

/-- Trap entry saves what the text says, goes to TVEC, holds the queue of a late fault, and fails a task with no handler. The model's
own choices here: which entries are held is log entry 35, and J of a TRAP log entry 38. -/
def Obligations.TrapsAreTaken : Prop :=
  Spec.TrapEntry ∧ Spec.NoHandler ∧ Spec.LateFault ∧ Spec.TrapInstruction ∧ Spec.TrapReachesHandler

/-- TLBINV leaves no translation that it names, WFI waits for an interrupt, and task mode may run no supervisor instruction. The
model's own choices here: that every core performs its stores first is log entry 12. -/
def Obligations.SupervisorInstructions : Prop :=
  Spec.TlbInvalidation ∧ Spec.WaitForInterrupt ∧ Spec.SupervisorOnly

/-- VQSAVE, VQREST, CTXSAVE and CTXREST answer their statuses and move the held set and the context. The model's own choices here: how
an image is known is log entry 44, the order of statuses log entry 43. -/
def Obligations.QueueAndContextStatus : Prop :=
  Spec.QueueImages ∧ Spec.ContextStatus

/-- A saved context block holds the task, and a restored one gives it back. The model's own choices here: the fields of a block are
log entry 44. -/
def Obligations.ContextsMove : Prop :=
  Spec.ContextSaved ∧ Spec.ContextRestored

/-- SPAWN, SPAWNG, SPAWNL, YIELD, LVCANCEL and LVQUERY answer and count as the text gives, and a pushed record takes the place of no
record that its ring still holds. The model's own choices here: the order of statuses is log entry 43, checks of records log entries 42
and 56, releases and waits in the same step log entry 11, which free place of its ring a record takes log entry 33. -/
def Obligations.SpawnsYieldsAndLevels : Prop :=
  Spec.SpawnResults ∧ Spec.YieldResults ∧ Spec.LevelResults ∧ Spec.PlacesApart

/-- JOIN adds to its counter once and pushes the continuation exactly at zero, now or when there is room. The model's own choices
here: a continuation whose KIND is malformed is pushed (log entry 34), the release is taken in the same step (log entry 11), the place
of a pushed record in its ring is log entry 33. -/
def Obligations.Joins : Prop :=
  Spec.JoinResults ∧ Spec.JoinPushRetry

/-- END runs its steps in order, and COUNT falls by one, completing the launch at zero. The model's own choices here: waits in the
same step are log entry 11, failing in supervisor mode log entry 39. -/
def Obligations.EndsAndCounts : Prop :=
  Spec.EndResults ∧ Spec.CountFalls

/-- An idle core takes a record, strip or injected record in that order, and a task begins in the stated registers. The model's own
choices here: TASK_START as the only way to take work is log entry 48. -/
def Obligations.TaskStarts : Prop :=
  Spec.TaskStarts ∧ Spec.TaskStartState

/-- Barriers and iteration posts: statuses, phases, waiters, mirrors and what a released channel does. The model's own choices here:
rows of the table of BARWAIT are tested in order by log entry 26, posts on a released channel are log entry 25, waits log entry
11. -/
def Obligations.BarriersAndRings : Prop :=
  Spec.BarrierInstructions ∧ Spec.BarrierEvents ∧ Spec.BarrierRelease ∧ Spec.RingInstructions ∧ Spec.PostArrives

/-- Every vector integer instruction of both forms gives each active element its result; a failed shape check writes nothing. -/
def Obligations.VectorIntegerResults : Prop :=
  Spec.VectorIntegerResults ∧ Spec.ShapeFaults

/-- Reductions, permutations, VSINCOS, VGUMBEL and VHASH write what their rules give where they give it; that VSINCOS and VGUMBEL give real
functions rounded once is part of `Obligations.QuotientsRootsAndEdges`. The model's own choices here: functions are rounded once by log
entry 55. -/
def Obligations.ReductionsAndPermutations : Prop :=
  Spec.ReductionAndPermutationResults ∧ Spec.SpecialFunctionResults

/-- Vector loads and gathers give each active element the bits of its address and leave the rest. The model's own choices here: order
between rows and lines of described pages is log entry 23. -/
def Obligations.VectorLoads : Prop :=
  Spec.VectorLoads ∧ Spec.VectorAddresses

/-- Vector stores, scatters and atomics change the bits of active elements and no byte they do not touch. -/
def Obligations.VectorStores : Prop :=
  Spec.VectorStores ∧ Spec.VectorAtomics

/-- Copies are issued with their operands, each row of CPY, CPYM and CPYKV is delivered line by line and counted, and XRED contributes its
rows. The model's own choices here: a row read at once is log entry 59, the order of a row's checks log entry 77, an empty XRED log entry
78, when a copy reaches its channel log entry 79. -/
def Obligations.CopyChannels : Prop :=
  Spec.CopiesIssue ∧ Spec.CopyRowsArrive ∧ Spec.KvRowsArrive ∧ Spec.Contributes

/-- Groups, slots and tiles of the matrix engine are granted, filled, read and freed as the text gives. The model's own choices here:
the tag that a plain page gives a slot row is log entry 29. -/
def Obligations.MatrixControlAndSlots : Prop :=
  Spec.MatrixControl ∧ Spec.SlotRows

/-- A version write adds one version and changes no answer; seal and floor only rise; reclaim frees one superseded version. The
model's own choices here: the die in EAUX without a link is log entry 57, when a reclaim happens log entry 6. -/
def Obligations.VersionsNeverChange : Prop :=
  Spec.VersionsNeverChange ∧ Spec.VersionReclaim

/-- KVLDK, KVLDV, KVAPP, KVMOVE, KVLEN and KVINV read, append, turn, move, set lengths and drop cached items. The model's own choices
here: KVLEN releasing first and KVINV draining the stores are log entry 24. -/
def Obligations.KvTransfers : Prop :=
  Spec.KvTransfers ∧ Spec.KvLengths

/-- A crust performs its oldest item, and the operand checks of a crust command report the first failure. The model's own choices
here: deferred failures of writes that cannot be made are log entry 19. -/
def Obligations.CrustItemsAndChecks : Prop :=
  Spec.CrustItems ∧ Spec.CrustChecks

/-- NADD, NROWCPY, NZERO, NGATHER, NOPT, NFENCE, NSTAT and MLDT do what their rules give. The model's own choices here: the cache
counters of NSTAT are free numbers that do not fall (log entry 28), patterns found through the source are log entry 27, the order of the
lines of NROWCPY follows physical addresses (log entry 69), and the waits of ACQ and REL take their events in the same step (log entry 11). -/
def Obligations.CrustCommands : Prop :=
  Spec.CrustCommands ∧ Spec.CrustStateAndTransposes

/-- Host queues are served, aged and granted, and events of cores, loads and the fabric act as the text gives. The model's own choices
here: log entries 47, 48 and 56 for queues and grants, 9 for loads, 31 for interrupts, 40 for a core that leaves, 51 and 52 for
the numbers of events. -/
def Obligations.HostQueuesAndCoreEvents : Prop :=
  Spec.HostQueues ∧ Spec.CoreEvents

/-- The host, other devices, groups, memory errors, time, reset, keys and power act as the text gives. The model's own choices here:
refused accesses are log entry 49, contributions of other devices log entry 32, checks of configuration, keys, groups, cap and
clock log entry 50, what a wipe keeps log entry 2, the numbers of rounds log entry 52. -/
def Obligations.OutsideAgentsAndDeviceLife : Prop :=
  Spec.OutsideAgents ∧ Spec.DeviceLife

end Statements
end

