-- ==== Sys2Proof/Laws/Encode.lean ====
section
/-! SUPPORT. Each layout reads back what it writes: one law for each layout (R18 to R21). -/
namespace Sys2Proof

/-! ## Parts of a word -/

/-- A field above the low part. -/
theorem Laws.field_hi {n m s l : Nat} (x : BitVec n) (y : BitVec m) (h : m ≤ s) :
    (x ++ y).extractLsb' s l = x.extractLsb' (s - m) l := by
  ext i hi
  simp only [BitVec.getElem_extractLsb', BitVec.getLsbD_append]
  have : ¬ s + i < m := by omega
  simp [this, show s + i - m = s - m + i by omega]

/-- A field in the low part. -/
theorem Laws.field_lo {n m s l : Nat} (x : BitVec n) (y : BitVec m) (h : s + l ≤ m) :
    (x ++ y).extractLsb' s l = y.extractLsb' s l := by
  ext i hi
  simp only [BitVec.getElem_extractLsb', BitVec.getLsbD_append]
  have : s + i < m := by omega
  simp [this]

/-- A bit above the low part. -/
theorem Laws.bit_hi {n m s : Nat} (x : BitVec n) (y : BitVec m) (h : m ≤ s) :
    (x ++ y).getLsbD s = x.getLsbD (s - m) := by
  simp only [BitVec.getLsbD_append]; simp [show ¬ s < m by omega]

/-- A bit of the low part. -/
theorem Laws.bit_lo {n m s : Nat} (x : BitVec n) (y : BitVec m) (h : s < m) : (x ++ y).getLsbD s = y.getLsbD s := by
  simp only [BitVec.getLsbD_append]; simp [h]

/-- The bit of a flag. -/
theorem Laws.bit_ofBool (b : Bool) : (BitVec.ofBool b).getLsbD 0 = b := by cases b <;> rfl

/-- A mask over two parts. -/
theorem Laws.mask_append {n m k : Nat} (x : BitVec n) (y : BitVec m) (hx : x &&& BitVec.ofNat n (k >>> m) = 0#n)
    (hy : y &&& BitVec.ofNat m k = 0#m) : (x ++ y) &&& BitVec.ofNat (n + m) k = 0#(n + m) := by
  apply BitVec.eq_of_getLsbD_eq
  intro i hi
  have hx := congrArg (fun v => v.getLsbD (i - m)) hx
  have hy := congrArg (fun v => v.getLsbD i) hy
  simp only [BitVec.getLsbD_and, BitVec.getLsbD_append, BitVec.getLsbD_ofNat, Nat.zero_testBit,
    Nat.testBit_shiftRight, Bool.and_false] at hx hy ⊢
  split
  · rename_i h; simpa [h, hi] using hy
  · rename_i h
    simpa [hi, show m + (i - m) = i by omega, show i - m < n by omega] using hx

/-- A mask over zeros. -/
theorem Laws.mask_zero (n k : Nat) : 0#n &&& BitVec.ofNat n k = 0#n := by simp

/-- A mask that leaves a part out. -/
theorem Laws.mask_none {n k : Nat} (x : BitVec n) (h : k % 2 ^ n = 0) : x &&& BitVec.ofNat n k = 0#n := by
  have : BitVec.ofNat n k = 0#n := BitVec.eq_of_toNat_eq (by simp [h])
  simp [this]

/-- The type of a type's code. -/
theorem Laws.tyOf_tyCode (t : Ty) : tyOf (tyCode t) = some t := by cases t <;> rfl

/-- The scope of a scope's code. -/
theorem Laws.scopeOf_scopeCode (c : Scope) : scopeOf (scopeCode c) = some c := by cases c <;> rfl

/-- The CSR of a CSR's number. -/
theorem Laws.csrOf_csrCode (c : Csr) : csrOf (csrCode c) = some c := by cases c <;> rfl

/-- The rounding field of its code. -/
theorem Laws.rmOf_rmCode (m : Rm) : rmOf (rmCode m) = m := by cases m <;> rfl

/-- The XRED operation of its code. -/
theorem Laws.xredOpOf_xredOpCode (o : XredOp) : xredOpOf (xredOpCode o) = some o := by cases o <;> rfl

/-! ## Layouts -/

/-- The layout R3T2 reads back what it writes. -/
theorem Laws.read_R3T2 (mk : R3T2 → Instr) (op : BitVec 7) (f : BitVec 6) (x : R3T2) :
    decR3T2 mk (encR3T2 op f x) = .ok (mk x) := by
  rcases x with ⟨d, a, b⟩
  simp only [decR3T2, encR3T2]
  simp_all

/-- The layout R2T2 reads back what it writes. -/
theorem Laws.read_R2T2 (mk : R2T2 → Instr) (op : BitVec 7) (f : BitVec 6) (x : R2T2) :
    decR2T2 mk (encR2T2 op f x) = .ok (mk x) := by
  rcases x with ⟨d, a⟩
  simp only [decR2T2, encR2T2]
  simp_all

/-- The layout R1T2 reads back what it writes. -/
theorem Laws.read_R1T2 (mk : R1T2 → Instr) (op : BitVec 7) (f : BitVec 6) (x : R1T2) :
    decR1T2 mk (encR1T2 op f x) = .ok (mk x) := by
  rcases x with ⟨a⟩
  simp only [decR1T2, encR1T2]
  simp_all

/-- The layout RabT2 reads back what it writes. -/
theorem Laws.read_RabT2 (mk : RabT2 → Instr) (op : BitVec 7) (f : BitVec 6) (x : RabT2) :
    decRabT2 mk (encRabT2 op f x) = .ok (mk x) := by
  rcases x with ⟨a, b⟩
  simp only [decRabT2, encRabT2]
  simp_all

/-- The layout AluF reads back what it writes. -/
theorem Laws.read_AluF (mk : AluF → Instr) (op : BitVec 7) (f : BitVec 6) (x : AluF) :
    decAluF mk (encAluF op f x) = .ok (mk x) := by
  rcases x with ⟨d, a, b, w32⟩
  simp only [decAluF, encAluF]
  cases w32 <;> simp_all

/-- The layout AluUF reads back what it writes. -/
theorem Laws.read_AluUF (mk : AluUF → Instr) (op : BitVec 7) (f : BitVec 6) (x : AluUF) :
    decAluUF mk (encAluUF op f x) = .ok (mk x) := by
  rcases x with ⟨d, a, w32⟩
  simp only [decAluUF, encAluUF]
  cases w32 <;> simp_all

/-- The layout AluIF reads back what it writes. -/
theorem Laws.read_AluIF (mk : AluIF → Instr) (op : BitVec 7) (f : BitVec 6) (x : AluIF) :
    decAluIF mk (encAluIF op f x) = .ok (mk x) := by
  rcases x with ⟨d, a, w32, imm⟩
  have h0 : (0#32 ++ imm : BitVec 48).extractLsb' 0 (15 - 0 + 1) = imm :=
    ((Laws.field_lo _ _ (by decide)).trans BitVec.extractLsb'_eq_self)
  simp only [decAluIF, encAluIF, Raw.fld, h0]
  cases w32 <;> simp_all

/-- The layout AluSF reads back what it writes. -/
theorem Laws.read_AluSF (mk : AluSF → Instr) (op : BitVec 7) (f : BitVec 6) (x : AluSF) (hw : x.wf = true) :
    decAluSF mk (encAluSF op f x) = .ok (mk x) := by
  rcases x with ⟨d, a, w32, sh⟩
  have h0 : (0#42 ++ sh : BitVec 48) &&& 0xFFC0#48 = 0#48 :=
    (Laws.mask_append _ _ (Laws.mask_zero _ _) (Laws.mask_none _ (by decide)))
  have h1 : (0#42 ++ sh : BitVec 48).extractLsb' 0 (5 - 0 + 1) = sh :=
    ((Laws.field_lo _ _ (by decide)).trans BitVec.extractLsb'_eq_self)
  have h2 : (0#42 ++ sh : BitVec 48).getLsbD 5 = (sh).getLsbD 5 :=
    ((Laws.bit_lo _ _ (by decide)).trans rfl)
  simp only [decAluSF, encAluSF, Raw.fld, Raw.bit, h0, h1, h2]
  cases w32 <;> simp_all [AluSF.wf]

/-- The layout LiF reads back what it writes. -/
theorem Laws.read_LiF (mk : LiF → Instr) (op : BitVec 7) (f : BitVec 6) (x : LiF) :
    decLiF mk (encLiF op f x) = .ok (mk x) := by
  rcases x with ⟨d, imm⟩
  have h0 : (imm : BitVec 48).extractLsb' 0 (47 - 0 + 1) = imm :=
    BitVec.extractLsb'_eq_self
  simp only [decLiF, encLiF, Raw.fld, h0]
  simp_all

/-- The layout LihF reads back what it writes. -/
theorem Laws.read_LihF (mk : LihF → Instr) (op : BitVec 7) (f : BitVec 6) (x : LihF) :
    decLihF mk (encLihF op f x) = .ok (mk x) := by
  rcases x with ⟨d, imm⟩
  have h0 : (0#32 ++ imm : BitVec 48) &&& 0xFFFFFFFF0000#48 = 0#48 :=
    (Laws.mask_append _ _ (Laws.mask_zero _ _) (Laws.mask_none _ (by decide)))
  have h1 : (0#32 ++ imm : BitVec 48).extractLsb' 0 (15 - 0 + 1) = imm :=
    ((Laws.field_lo _ _ (by decide)).trans BitVec.extractLsb'_eq_self)
  simp only [decLihF, encLihF, Raw.fld, h0, h1]
  simp_all

/-- The layout FpuF reads back what it writes. -/
theorem Laws.read_FpuF (mk : FpuF → Instr) (op : BitVec 7) (f : BitVec 6) (x : FpuF) :
    decFpuF mk (encFpuF op f x) = .ok (mk x) := by
  rcases x with ⟨d, a, b, rm⟩
  simp only [decFpuF, encFpuF, Laws.rmOf_rmCode]

/-- The layout FpuUF reads back what it writes. -/
theorem Laws.read_FpuUF (mk : FpuUF → Instr) (op : BitVec 7) (f : BitVec 6) (x : FpuUF) :
    decFpuUF mk (encFpuUF op f x) = .ok (mk x) := by
  rcases x with ⟨d, a, rm⟩
  simp only [decFpuUF, encFpuUF, Laws.rmOf_rmCode]
  cases rm <;> simp_all

/-- The layout FmaF reads back what it writes. -/
theorem Laws.read_FmaF (mk : FmaF → Instr) (op : BitVec 7) (f : BitVec 6) (x : FmaF) :
    decFmaF mk (encFmaF op f x) = .ok (mk x) := by
  rcases x with ⟨d, a, b, c, rm⟩
  have h0 : (0#32 ++ c ++ 0#11 : BitVec 48) &&& 0x7FF#48 = 0#48 :=
    (Laws.mask_append _ _ (Laws.mask_append _ _ (Laws.mask_zero _ _) (Laws.mask_none _ (by decide))) (Laws.mask_zero _ _))
  have h1 : (0#32 ++ c ++ 0#11 : BitVec 48).extractLsb' 11 (15 - 11 + 1) = c :=
    ((Laws.field_hi _ _ (by decide)).trans ((Laws.field_lo _ _ (by decide)).trans BitVec.extractLsb'_eq_self))
  simp only [decFmaF, encFmaF, Raw.fld, h0, h1, Laws.rmOf_rmCode]
  cases rm <;> simp_all

/-- The layout BrF reads back what it writes. -/
theorem Laws.read_BrF (mk : BrF → Instr) (op : BitVec 7) (f : BitVec 6) (x : BrF) :
    decBrF mk (encBrF op f x) = .ok (mk x) := by
  rcases x with ⟨a, b, delta, slot⟩
  have h0 : (0#32 ++ delta ++ slot : BitVec 48).extractLsb' 5 (15 - 5 + 1) = delta :=
    ((Laws.field_hi _ _ (by decide)).trans ((Laws.field_lo _ _ (by decide)).trans BitVec.extractLsb'_eq_self))
  have h1 : (0#32 ++ delta ++ slot : BitVec 48).extractLsb' 0 (4 - 0 + 1) = slot :=
    ((Laws.field_lo _ _ (by decide)).trans BitVec.extractLsb'_eq_self)
  simp only [decBrF, encBrF, Raw.fld, h0, h1]
  simp_all

/-- The layout JalF reads back what it writes. -/
theorem Laws.read_JalF (mk : JalF → Instr) (op : BitVec 7) (f : BitVec 6) (x : JalF) :
    decJalF mk (encJalF op f x) = .ok (mk x) := by
  rcases x with ⟨d, delta, slot⟩
  have h0 : (delta ++ slot : BitVec 48).extractLsb' 0 (4 - 0 + 1) = slot :=
    ((Laws.field_lo _ _ (by decide)).trans BitVec.extractLsb'_eq_self)
  have h1 : (delta ++ slot : BitVec 48).extractLsb' 5 (47 - 5 + 1) = delta :=
    ((Laws.field_hi _ _ (by decide)).trans BitVec.extractLsb'_eq_self)
  simp only [decJalF, encJalF, Raw.fld, h0, h1]
  simp_all

/-- The layout MemF reads back what it writes. -/
theorem Laws.read_MemF {T : Type} (mk : MemF → T) (op : BitVec 7) (f : BitVec 6) (x : MemF) :
    decMemF mk (encMemF op f x) = .ok (mk x) := by
  rcases x with ⟨d, a, off⟩
  have h0 : (0#32 ++ off : BitVec 48).extractLsb' 0 (15 - 0 + 1) = off :=
    ((Laws.field_lo _ _ (by decide)).trans BitVec.extractLsb'_eq_self)
  simp only [decMemF, encMemF, Raw.fld, h0]
  simp_all

/-- The layout CacheF reads back what it writes. -/
theorem Laws.read_CacheF (mk : CacheF → Instr) (op : BitVec 7) (f : BitVec 6) (x : CacheF) :
    decCacheF mk (encCacheF op f x) = .ok (mk x) := by
  rcases x with ⟨a, off⟩
  have h0 : (0#32 ++ off : BitVec 48).extractLsb' 0 (15 - 0 + 1) = off :=
    ((Laws.field_lo _ _ (by decide)).trans BitVec.extractLsb'_eq_self)
  simp only [decCacheF, encCacheF, Raw.fld, h0]
  simp_all

/-- The layout AmoF reads back what it writes. -/
theorem Laws.read_AmoF (mk : AmoF → Instr) (op : BitVec 7) (f : BitVec 6) (x : AmoF) :
    decAmoF mk (encAmoF op f x) = .ok (mk x) := by
  rcases x with ⟨d, a, b, acq, rel, dw, scope⟩
  have h0 : (0#43 ++ (0#1 ++ BitVec.ofBool dw) ++ scopeCode scope : BitVec 48) &&& 0xFFE0#48 = 0#48 :=
    (Laws.mask_append _ _ (Laws.mask_append _ _ (Laws.mask_zero _ _) (Laws.mask_append _ _ (Laws.mask_zero _ _) (Laws.mask_none _ (by decide)))) (Laws.mask_none _ (by decide)))
  have h1 : (0#43 ++ (0#1 ++ BitVec.ofBool dw) ++ scopeCode scope : BitVec 48).extractLsb' 0 (2 - 0 + 1) = scopeCode scope :=
    ((Laws.field_lo _ _ (by decide)).trans BitVec.extractLsb'_eq_self)
  have h2 : (0#43 ++ (0#1 ++ BitVec.ofBool dw) ++ scopeCode scope : BitVec 48).getLsbD 3 = dw :=
    ((Laws.bit_hi _ _ (by decide)).trans ((Laws.bit_lo _ _ (by decide)).trans ((Laws.bit_lo _ _ (by decide)).trans (Laws.bit_ofBool dw))))
  have h3 : (0#43 ++ (0#1 ++ BitVec.ofBool dw) ++ scopeCode scope : BitVec 48).getLsbD 4 = false :=
    ((Laws.bit_hi _ _ (by decide)).trans ((Laws.bit_lo _ _ (by decide)).trans ((Laws.bit_hi _ _ (by decide)).trans rfl)))
  simp only [decAmoF, encAmoF, Raw.fld, Raw.bit, h0, h1, h2, h3, Laws.scopeOf_scopeCode]
  cases acq <;> cases rel <;> simp_all

/-- The layout AmoCasF reads back what it writes. -/
theorem Laws.read_AmoCasF (mk : AmoCasF → Instr) (op : BitVec 7) (f : BitVec 6) (x : AmoCasF) :
    decAmoCasF mk (encAmoCasF op f x) = .ok (mk x) := by
  rcases x with ⟨d, a, b, c, acq, rel, dw, scope⟩
  have h0 : (0#32 ++ c ++ 0#6 ++ (0#1 ++ BitVec.ofBool dw) ++ scopeCode scope : BitVec 48) &&& 0x7E0#48 = 0#48 :=
    (Laws.mask_append _ _ (Laws.mask_append _ _ (Laws.mask_append _ _ (Laws.mask_append _ _ (Laws.mask_zero _ _) (Laws.mask_none _ (by decide))) (Laws.mask_zero _ _)) (Laws.mask_append _ _ (Laws.mask_zero _ _) (Laws.mask_none _ (by decide)))) (Laws.mask_none _ (by decide)))
  have h1 : (0#32 ++ c ++ 0#6 ++ (0#1 ++ BitVec.ofBool dw) ++ scopeCode scope : BitVec 48).extractLsb' 11 (15 - 11 + 1) = c :=
    ((Laws.field_hi _ _ (by decide)).trans ((Laws.field_hi _ _ (by decide)).trans ((Laws.field_hi _ _ (by decide)).trans ((Laws.field_lo _ _ (by decide)).trans BitVec.extractLsb'_eq_self))))
  have h2 : (0#32 ++ c ++ 0#6 ++ (0#1 ++ BitVec.ofBool dw) ++ scopeCode scope : BitVec 48).extractLsb' 0 (2 - 0 + 1) = scopeCode scope :=
    ((Laws.field_lo _ _ (by decide)).trans BitVec.extractLsb'_eq_self)
  have h3 : (0#32 ++ c ++ 0#6 ++ (0#1 ++ BitVec.ofBool dw) ++ scopeCode scope : BitVec 48).getLsbD 3 = dw :=
    ((Laws.bit_hi _ _ (by decide)).trans ((Laws.bit_lo _ _ (by decide)).trans ((Laws.bit_lo _ _ (by decide)).trans (Laws.bit_ofBool dw))))
  have h4 : (0#32 ++ c ++ 0#6 ++ (0#1 ++ BitVec.ofBool dw) ++ scopeCode scope : BitVec 48).getLsbD 4 = false :=
    ((Laws.bit_hi _ _ (by decide)).trans ((Laws.bit_lo _ _ (by decide)).trans ((Laws.bit_hi _ _ (by decide)).trans rfl)))
  simp only [decAmoCasF, encAmoCasF, Raw.fld, Raw.bit, h0, h1, h2, h3, h4, Laws.scopeOf_scopeCode]
  cases acq <;> cases rel <;> simp_all

/-- The layout OrdF reads back what it writes. -/
theorem Laws.read_OrdF {T : Type} (mk : OrdF → T) (op : BitVec 7) (f : BitVec 6) (x : OrdF) :
    decOrdF mk (encOrdF op f x) = .ok (mk x) := by
  rcases x with ⟨d, a, scope⟩
  have h0 : (0#45 ++ scopeCode scope : BitVec 48) &&& 0xFFF8#48 = 0#48 :=
    (Laws.mask_append _ _ (Laws.mask_zero _ _) (Laws.mask_none _ (by decide)))
  have h1 : (0#45 ++ scopeCode scope : BitVec 48).extractLsb' 0 (2 - 0 + 1) = scopeCode scope :=
    ((Laws.field_lo _ _ (by decide)).trans BitVec.extractLsb'_eq_self)
  simp only [decOrdF, encOrdF, Raw.fld, h0, h1, Laws.scopeOf_scopeCode]
  simp_all

/-- The layout FenceF reads back what it writes. -/
theorem Laws.read_FenceF (mk : FenceF → Instr) (op : BitVec 7) (f : BitVec 6) (x : FenceF) (hw : x.wf = true) :
    decFenceF mk (encFenceF op f x) = .ok (mk x) := by
  rcases x with ⟨acq, rel, scope⟩
  have h : scopeOfReg (0#2 ++ scopeCode scope) = some scope := by cases scope <;> decide
  cases acq <;> cases rel <;> simp_all [decFenceF, encFenceF, FenceF.wf]

/-- The layout WaitF reads back what it writes. -/
theorem Laws.read_WaitF (mk : WaitF → Instr) (op : BitVec 7) (f : BitVec 6) (x : WaitF) :
    decWaitF mk (encWaitF op f x) = .ok (mk x) := by
  rcases x with ⟨d, a, b, tmo⟩
  have h0 : (0#32 ++ tmo : BitVec 48).extractLsb' 0 (15 - 0 + 1) = tmo :=
    ((Laws.field_lo _ _ (by decide)).trans BitVec.extractLsb'_eq_self)
  simp only [decWaitF, encWaitF, Raw.fld, h0]
  simp_all

/-- The layout CsrRF reads back what it writes. -/
theorem Laws.read_CsrRF (mk : CsrRF → Instr) (op : BitVec 7) (f : BitVec 6) (x : CsrRF) :
    decCsrRF mk (encCsrRF op f x) = .ok (mk x) := by
  rcases x with ⟨d, csr⟩
  have h0 : (0#36 ++ csrCode csr : BitVec 48) &&& 0xF000#48 = 0#48 :=
    (Laws.mask_append _ _ (Laws.mask_zero _ _) (Laws.mask_none _ (by decide)))
  have h1 : (0#36 ++ csrCode csr : BitVec 48).extractLsb' 0 (11 - 0 + 1) = csrCode csr :=
    ((Laws.field_lo _ _ (by decide)).trans BitVec.extractLsb'_eq_self)
  simp only [decCsrRF, encCsrRF, Raw.fld, h0, h1, Laws.csrOf_csrCode]
  simp_all

/-- The layout CsrF reads back what it writes. -/
theorem Laws.read_CsrF (mk : CsrF → Instr) (op : BitVec 7) (f : BitVec 6) (x : CsrF) :
    decCsrF mk (encCsrF op f x) = .ok (mk x) := by
  rcases x with ⟨d, a, csr⟩
  have h0 : (0#36 ++ csrCode csr : BitVec 48) &&& 0xF000#48 = 0#48 :=
    (Laws.mask_append _ _ (Laws.mask_zero _ _) (Laws.mask_none _ (by decide)))
  have h1 : (0#36 ++ csrCode csr : BitVec 48).extractLsb' 0 (11 - 0 + 1) = csrCode csr :=
    ((Laws.field_lo _ _ (by decide)).trans BitVec.extractLsb'_eq_self)
  simp only [decCsrF, encCsrF, Raw.fld, h0, h1, Laws.csrOf_csrCode]
  simp_all

/-- The layout CodeF reads back what it writes. -/
theorem Laws.read_CodeF (mk : CodeF → Instr) (op : BitVec 7) (f : BitVec 6) (x : CodeF) :
    decCodeF mk (encCodeF op f x) = .ok (mk x) := by
  rcases x with ⟨code⟩
  have h0 : (0#32 ++ code : BitVec 48).extractLsb' 0 (15 - 0 + 1) = code :=
    ((Laws.field_lo _ _ (by decide)).trans BitVec.extractLsb'_eq_self)
  simp only [decCodeF, encCodeF, Raw.fld, h0]
  simp_all

/-- The layout R3T4 reads back what it writes. -/
theorem Laws.read_R3T4 (mk : R3T4 → Instr) (op : BitVec 7) (f : BitVec 6) (x : R3T4) :
    decR3T4 mk (encR3T4 op f x) = .ok (mk x) := by
  rcases x with ⟨d, a, b⟩
  simp only [decR3T4, encR3T4]
  simp_all

/-- The layout R2T4 reads back what it writes. -/
theorem Laws.read_R2T4 (mk : R2T4 → Instr) (op : BitVec 7) (f : BitVec 6) (x : R2T4) :
    decR2T4 mk (encR2T4 op f x) = .ok (mk x) := by
  rcases x with ⟨d, a⟩
  simp only [decR2T4, encR2T4]
  simp_all

/-- The layout RabT4 reads back what it writes. -/
theorem Laws.read_RabT4 (mk : RabT4 → Instr) (op : BitVec 7) (f : BitVec 6) (x : RabT4) :
    decRabT4 mk (encRabT4 op f x) = .ok (mk x) := by
  rcases x with ⟨a, b⟩
  simp only [decRabT4, encRabT4]
  simp_all

/-- The layout R1T4 reads back what it writes. -/
theorem Laws.read_R1T4 (mk : R1T4 → Instr) (op : BitVec 7) (f : BitVec 6) (x : R1T4) :
    decR1T4 mk (encR1T4 op f x) = .ok (mk x) := by
  rcases x with ⟨d⟩
  simp only [decR1T4, encR1T4]
  simp_all

/-- The layout LenF reads back what it writes. -/
theorem Laws.read_LenF (tys : List Ty) (mk : LenF → Instr) (op : BitVec 7) (f : BitVec 6) (x : LenF) (ht : tys.contains x.ty = true) :
    decLenF tys mk (encLenF op f x) = .ok (mk x) := by
  rcases x with ⟨d, a, b, ty⟩
  have h0 : (0#37 ++ tyCode ty ++ 0#6 : BitVec 48) &&& 0xF83F#48 = 0#48 :=
    (Laws.mask_append _ _ (Laws.mask_append _ _ (Laws.mask_zero _ _) (Laws.mask_none _ (by decide))) (Laws.mask_zero _ _))
  have h1 : (0#37 ++ tyCode ty ++ 0#6 : BitVec 48).extractLsb' 6 (10 - 6 + 1) = tyCode ty :=
    ((Laws.field_hi _ _ (by decide)).trans ((Laws.field_lo _ _ (by decide)).trans BitVec.extractLsb'_eq_self))
  simp only [decLenF, encLenF, Raw.fld, h0, h1, Laws.tyOf_tyCode]
  simp_all

/-- The layout ShpF reads back what it writes. -/
theorem Laws.read_ShpF (mk : ShpF → Instr) (op : BitVec 7) (f : BitVec 6) (x : ShpF) :
    decShpF mk (encShpF op f x) = .ok (mk x) := by
  rcases x with ⟨wide⟩
  have h0 : (0#47 ++ BitVec.ofBool wide : BitVec 48) &&& 0xFFFE#48 = 0#48 :=
    (Laws.mask_append _ _ (Laws.mask_zero _ _) (Laws.mask_none _ (by decide)))
  have h1 : (0#47 ++ BitVec.ofBool wide : BitVec 48).getLsbD 0 = wide :=
    ((Laws.bit_lo _ _ (by decide)).trans (Laws.bit_ofBool wide))
  simp only [decShpF, encShpF, Raw.bit, h0, h1]
  simp_all

/-- The layout K3F reads back what it writes. -/
theorem Laws.read_K3F (mk : K3F → Instr) (op : BitVec 7) (f : BitVec 6) (x : K3F) :
    decK3F mk (encK3F op f x) = .ok (mk x) := by
  rcases x with ⟨d, a, b⟩
  have h0 : (0#3 ++ d : BitVec 5).extractLsb' 2 3 = 0#3 :=
    ((Laws.field_hi _ _ (by decide)).trans (BitVec.extractLsb'_eq_self))
  have h1 : (0#3 ++ d : BitVec 5).extractLsb' 0 2 = d :=
    ((Laws.field_lo _ _ (by decide)).trans (BitVec.extractLsb'_eq_self))
  have h2 : (0#3 ++ a : BitVec 5).extractLsb' 2 3 = 0#3 :=
    ((Laws.field_hi _ _ (by decide)).trans (BitVec.extractLsb'_eq_self))
  have h3 : (0#3 ++ a : BitVec 5).extractLsb' 0 2 = a :=
    ((Laws.field_lo _ _ (by decide)).trans (BitVec.extractLsb'_eq_self))
  have h4 : (0#3 ++ b : BitVec 5).extractLsb' 2 3 = 0#3 :=
    ((Laws.field_hi _ _ (by decide)).trans (BitVec.extractLsb'_eq_self))
  have h5 : (0#3 ++ b : BitVec 5).extractLsb' 0 2 = b :=
    ((Laws.field_lo _ _ (by decide)).trans (BitVec.extractLsb'_eq_self))
  simp only [decK3F, encK3F, h0, h1, h2, h3, h4, h5]
  simp_all

/-- The layout K2F reads back what it writes. -/
theorem Laws.read_K2F (mk : K2F → Instr) (op : BitVec 7) (f : BitVec 6) (x : K2F) :
    decK2F mk (encK2F op f x) = .ok (mk x) := by
  rcases x with ⟨d, a⟩
  have h0 : (0#3 ++ d : BitVec 5).extractLsb' 2 3 = 0#3 :=
    ((Laws.field_hi _ _ (by decide)).trans (BitVec.extractLsb'_eq_self))
  have h1 : (0#3 ++ d : BitVec 5).extractLsb' 0 2 = d :=
    ((Laws.field_lo _ _ (by decide)).trans (BitVec.extractLsb'_eq_self))
  have h2 : (0#3 ++ a : BitVec 5).extractLsb' 2 3 = 0#3 :=
    ((Laws.field_hi _ _ (by decide)).trans (BitVec.extractLsb'_eq_self))
  have h3 : (0#3 ++ a : BitVec 5).extractLsb' 0 2 = a :=
    ((Laws.field_lo _ _ (by decide)).trans (BitVec.extractLsb'_eq_self))
  simp only [decK2F, encK2F, h0, h1, h2, h3]
  simp_all

/-- The layout KxF reads back what it writes. -/
theorem Laws.read_KxF (mk : KxF → Instr) (op : BitVec 7) (f : BitVec 6) (x : KxF) :
    decKxF mk (encKxF op f x) = .ok (mk x) := by
  rcases x with ⟨d, a⟩
  have h0 : (0#3 ++ a : BitVec 5).extractLsb' 2 3 = 0#3 :=
    ((Laws.field_hi _ _ (by decide)).trans (BitVec.extractLsb'_eq_self))
  have h1 : (0#3 ++ a : BitVec 5).extractLsb' 0 2 = a :=
    ((Laws.field_lo _ _ (by decide)).trans (BitVec.extractLsb'_eq_self))
  simp only [decKxF, encKxF, h0, h1]
  simp_all

/-- The layout KsetF reads back what it writes. -/
theorem Laws.read_KsetF (mk : KsetF → Instr) (op : BitVec 7) (f : BitVec 6) (x : KsetF) :
    decKsetF mk (encKsetF op f x) = .ok (mk x) := by
  rcases x with ⟨d, a⟩
  have h0 : (0#3 ++ d : BitVec 5).extractLsb' 2 3 = 0#3 :=
    ((Laws.field_hi _ _ (by decide)).trans (BitVec.extractLsb'_eq_self))
  have h1 : (0#3 ++ d : BitVec 5).extractLsb' 0 2 = d :=
    ((Laws.field_lo _ _ (by decide)).trans (BitVec.extractLsb'_eq_self))
  simp only [decKsetF, encKsetF, h0, h1]
  simp_all

/-- The layout VBinF reads back what it writes. -/
theorem Laws.read_VBinF (tys : List Ty) (mk : VBinF → Instr) (op : BitVec 7) (f : BitVec 6) (x : VBinF) (ht : tys.contains x.ty = true) :
    decVBinF tys mk (encVBinF op f x) = .ok (mk x) := by
  rcases x with ⟨d, a, b, k, ty, sat⟩
  have h0 : (0#37 ++ tyCode ty ++ 0#2 ++ BitVec.ofBool sat ++ 0#3 : BitVec 48) &&& 0xF837#48 = 0#48 :=
    (Laws.mask_append _ _ (Laws.mask_append _ _ (Laws.mask_append _ _ (Laws.mask_append _ _ (Laws.mask_zero _ _) (Laws.mask_none _ (by decide))) (Laws.mask_zero _ _)) (Laws.mask_none _ (by decide))) (Laws.mask_zero _ _))
  have h1 : (0#37 ++ tyCode ty ++ 0#2 ++ BitVec.ofBool sat ++ 0#3 : BitVec 48).extractLsb' 6 (10 - 6 + 1) = tyCode ty :=
    ((Laws.field_hi _ _ (by decide)).trans ((Laws.field_hi _ _ (by decide)).trans ((Laws.field_hi _ _ (by decide)).trans ((Laws.field_lo _ _ (by decide)).trans BitVec.extractLsb'_eq_self))))
  have h2 : (0#37 ++ tyCode ty ++ 0#2 ++ BitVec.ofBool sat ++ 0#3 : BitVec 48).getLsbD 3 = sat :=
    ((Laws.bit_hi _ _ (by decide)).trans ((Laws.bit_lo _ _ (by decide)).trans (Laws.bit_ofBool sat)))
  simp only [decVBinF, encVBinF, Raw.fld, Raw.bit, h0, h1, h2, Laws.tyOf_tyCode]
  simp_all

/-- The layout VUnF reads back what it writes. -/
theorem Laws.read_VUnF (tys : List Ty) (mk : VUnF → Instr) (op : BitVec 7) (f : BitVec 6) (x : VUnF) (ht : tys.contains x.ty = true) :
    decVUnF tys mk (encVUnF op f x) = .ok (mk x) := by
  rcases x with ⟨d, a, k, ty, sat⟩
  have h0 : (0#37 ++ tyCode ty ++ 0#2 ++ BitVec.ofBool sat ++ 0#3 : BitVec 48) &&& 0xF837#48 = 0#48 :=
    (Laws.mask_append _ _ (Laws.mask_append _ _ (Laws.mask_append _ _ (Laws.mask_append _ _ (Laws.mask_zero _ _) (Laws.mask_none _ (by decide))) (Laws.mask_zero _ _)) (Laws.mask_none _ (by decide))) (Laws.mask_zero _ _))
  have h1 : (0#37 ++ tyCode ty ++ 0#2 ++ BitVec.ofBool sat ++ 0#3 : BitVec 48).extractLsb' 6 (10 - 6 + 1) = tyCode ty :=
    ((Laws.field_hi _ _ (by decide)).trans ((Laws.field_hi _ _ (by decide)).trans ((Laws.field_hi _ _ (by decide)).trans ((Laws.field_lo _ _ (by decide)).trans BitVec.extractLsb'_eq_self))))
  have h2 : (0#37 ++ tyCode ty ++ 0#2 ++ BitVec.ofBool sat ++ 0#3 : BitVec 48).getLsbD 3 = sat :=
    ((Laws.bit_hi _ _ (by decide)).trans ((Laws.bit_lo _ _ (by decide)).trans (Laws.bit_ofBool sat)))
  simp only [decVUnF, encVUnF, Raw.fld, Raw.bit, h0, h1, h2, Laws.tyOf_tyCode]
  simp_all

/-- The layout VCmpF reads back what it writes. -/
theorem Laws.read_VCmpF (tys : List Ty) (mk : VCmpF → Instr) (op : BitVec 7) (f : BitVec 6) (x : VCmpF) (ht : tys.contains x.ty = true) :
    decVCmpF tys mk (encVCmpF op f x) = .ok (mk x) := by
  rcases x with ⟨d, a, b, k, ty, sat⟩
  have h0 : (0#37 ++ tyCode ty ++ 0#2 ++ BitVec.ofBool sat ++ 0#3 : BitVec 48) &&& 0xF837#48 = 0#48 :=
    (Laws.mask_append _ _ (Laws.mask_append _ _ (Laws.mask_append _ _ (Laws.mask_append _ _ (Laws.mask_zero _ _) (Laws.mask_none _ (by decide))) (Laws.mask_zero _ _)) (Laws.mask_none _ (by decide))) (Laws.mask_zero _ _))
  have h1 : (0#37 ++ tyCode ty ++ 0#2 ++ BitVec.ofBool sat ++ 0#3 : BitVec 48).extractLsb' 6 (10 - 6 + 1) = tyCode ty :=
    ((Laws.field_hi _ _ (by decide)).trans ((Laws.field_hi _ _ (by decide)).trans ((Laws.field_hi _ _ (by decide)).trans ((Laws.field_lo _ _ (by decide)).trans BitVec.extractLsb'_eq_self))))
  have h2 : (0#37 ++ tyCode ty ++ 0#2 ++ BitVec.ofBool sat ++ 0#3 : BitVec 48).getLsbD 3 = sat :=
    ((Laws.bit_hi _ _ (by decide)).trans ((Laws.bit_lo _ _ (by decide)).trans (Laws.bit_ofBool sat)))
  have h3 : (0#3 ++ d : BitVec 5).extractLsb' 2 3 = 0#3 :=
    ((Laws.field_hi _ _ (by decide)).trans (BitVec.extractLsb'_eq_self))
  have h4 : (0#3 ++ d : BitVec 5).extractLsb' 0 2 = d :=
    ((Laws.field_lo _ _ (by decide)).trans (BitVec.extractLsb'_eq_self))
  simp only [decVCmpF, encVCmpF, Raw.fld, Raw.bit, h0, h1, h2, h3, h4, Laws.tyOf_tyCode]
  simp_all

/-- The layout VIotaF reads back what it writes. -/
theorem Laws.read_VIotaF (tys : List Ty) (mk : VIotaF → Instr) (op : BitVec 7) (f : BitVec 6) (x : VIotaF) (ht : tys.contains x.ty = true) :
    decVIotaF tys mk (encVIotaF op f x) = .ok (mk x) := by
  rcases x with ⟨d, k, ty, sat⟩
  have h0 : (0#37 ++ tyCode ty ++ 0#2 ++ BitVec.ofBool sat ++ 0#3 : BitVec 48) &&& 0xF837#48 = 0#48 :=
    (Laws.mask_append _ _ (Laws.mask_append _ _ (Laws.mask_append _ _ (Laws.mask_append _ _ (Laws.mask_zero _ _) (Laws.mask_none _ (by decide))) (Laws.mask_zero _ _)) (Laws.mask_none _ (by decide))) (Laws.mask_zero _ _))
  have h1 : (0#37 ++ tyCode ty ++ 0#2 ++ BitVec.ofBool sat ++ 0#3 : BitVec 48).extractLsb' 6 (10 - 6 + 1) = tyCode ty :=
    ((Laws.field_hi _ _ (by decide)).trans ((Laws.field_hi _ _ (by decide)).trans ((Laws.field_hi _ _ (by decide)).trans ((Laws.field_lo _ _ (by decide)).trans BitVec.extractLsb'_eq_self))))
  have h2 : (0#37 ++ tyCode ty ++ 0#2 ++ BitVec.ofBool sat ++ 0#3 : BitVec 48).getLsbD 3 = sat :=
    ((Laws.bit_hi _ _ (by decide)).trans ((Laws.bit_lo _ _ (by decide)).trans (Laws.bit_ofBool sat)))
  simp only [decVIotaF, encVIotaF, Raw.fld, Raw.bit, h0, h1, h2, Laws.tyOf_tyCode]
  simp_all

/-- The layout VIotaXF reads back what it writes. -/
theorem Laws.read_VIotaXF (tys : List Ty) (mk : VIotaXF → Instr) (op : BitVec 7) (f : BitVec 6) (x : VIotaXF) (ht : tys.contains x.ty = true) :
    decVIotaXF tys mk (encVIotaXF op f x) = .ok (mk x) := by
  rcases x with ⟨d, b, k, ty, sat⟩
  have h0 : (0#37 ++ tyCode ty ++ 0#2 ++ BitVec.ofBool sat ++ 0#3 : BitVec 48) &&& 0xF837#48 = 0#48 :=
    (Laws.mask_append _ _ (Laws.mask_append _ _ (Laws.mask_append _ _ (Laws.mask_append _ _ (Laws.mask_zero _ _) (Laws.mask_none _ (by decide))) (Laws.mask_zero _ _)) (Laws.mask_none _ (by decide))) (Laws.mask_zero _ _))
  have h1 : (0#37 ++ tyCode ty ++ 0#2 ++ BitVec.ofBool sat ++ 0#3 : BitVec 48).extractLsb' 6 (10 - 6 + 1) = tyCode ty :=
    ((Laws.field_hi _ _ (by decide)).trans ((Laws.field_hi _ _ (by decide)).trans ((Laws.field_hi _ _ (by decide)).trans ((Laws.field_lo _ _ (by decide)).trans BitVec.extractLsb'_eq_self))))
  have h2 : (0#37 ++ tyCode ty ++ 0#2 ++ BitVec.ofBool sat ++ 0#3 : BitVec 48).getLsbD 3 = sat :=
    ((Laws.bit_hi _ _ (by decide)).trans ((Laws.bit_lo _ _ (by decide)).trans (Laws.bit_ofBool sat)))
  simp only [decVIotaXF, encVIotaXF, Raw.fld, Raw.bit, h0, h1, h2, Laws.tyOf_tyCode]
  simp_all

/-- The layout VFpF reads back what it writes. -/
theorem Laws.read_VFpF (tys : List Ty) (mk : VFpF → Instr) (op : BitVec 7) (f : BitVec 6) (x : VFpF) (ht : tys.contains x.ty = true) :
    decVFpF tys mk (encVFpF op f x) = .ok (mk x) := by
  rcases x with ⟨d, a, b, k, ty, rm, sat⟩
  have h0 : (0#37 ++ tyCode ty ++ rmCode rm ++ BitVec.ofBool sat ++ 0#3 : BitVec 48) &&& 0xF807#48 = 0#48 :=
    (Laws.mask_append _ _ (Laws.mask_append _ _ (Laws.mask_append _ _ (Laws.mask_append _ _ (Laws.mask_zero _ _) (Laws.mask_none _ (by decide))) (Laws.mask_none _ (by decide))) (Laws.mask_none _ (by decide))) (Laws.mask_zero _ _))
  have h1 : (0#37 ++ tyCode ty ++ rmCode rm ++ BitVec.ofBool sat ++ 0#3 : BitVec 48).extractLsb' 6 (10 - 6 + 1) = tyCode ty :=
    ((Laws.field_hi _ _ (by decide)).trans ((Laws.field_hi _ _ (by decide)).trans ((Laws.field_hi _ _ (by decide)).trans ((Laws.field_lo _ _ (by decide)).trans BitVec.extractLsb'_eq_self))))
  have h2 : (0#37 ++ tyCode ty ++ rmCode rm ++ BitVec.ofBool sat ++ 0#3 : BitVec 48).extractLsb' 4 (5 - 4 + 1) = rmCode rm :=
    ((Laws.field_hi _ _ (by decide)).trans ((Laws.field_hi _ _ (by decide)).trans ((Laws.field_lo _ _ (by decide)).trans BitVec.extractLsb'_eq_self)))
  have h3 : (0#37 ++ tyCode ty ++ rmCode rm ++ BitVec.ofBool sat ++ 0#3 : BitVec 48).getLsbD 3 = sat :=
    ((Laws.bit_hi _ _ (by decide)).trans ((Laws.bit_lo _ _ (by decide)).trans (Laws.bit_ofBool sat)))
  simp only [decVFpF, encVFpF, Raw.fld, Raw.bit, h0, h1, h2, h3, Laws.tyOf_tyCode, Laws.rmOf_rmCode]
  simp_all

/-- The layout VFpUF reads back what it writes. -/
theorem Laws.read_VFpUF (tys : List Ty) (mk : VFpUF → Instr) (op : BitVec 7) (f : BitVec 6) (x : VFpUF) (ht : tys.contains x.ty = true) :
    decVFpUF tys mk (encVFpUF op f x) = .ok (mk x) := by
  rcases x with ⟨d, a, k, ty, rm, sat⟩
  have h0 : (0#37 ++ tyCode ty ++ rmCode rm ++ BitVec.ofBool sat ++ 0#3 : BitVec 48) &&& 0xF807#48 = 0#48 :=
    (Laws.mask_append _ _ (Laws.mask_append _ _ (Laws.mask_append _ _ (Laws.mask_append _ _ (Laws.mask_zero _ _) (Laws.mask_none _ (by decide))) (Laws.mask_none _ (by decide))) (Laws.mask_none _ (by decide))) (Laws.mask_zero _ _))
  have h1 : (0#37 ++ tyCode ty ++ rmCode rm ++ BitVec.ofBool sat ++ 0#3 : BitVec 48).extractLsb' 6 (10 - 6 + 1) = tyCode ty :=
    ((Laws.field_hi _ _ (by decide)).trans ((Laws.field_hi _ _ (by decide)).trans ((Laws.field_hi _ _ (by decide)).trans ((Laws.field_lo _ _ (by decide)).trans BitVec.extractLsb'_eq_self))))
  have h2 : (0#37 ++ tyCode ty ++ rmCode rm ++ BitVec.ofBool sat ++ 0#3 : BitVec 48).extractLsb' 4 (5 - 4 + 1) = rmCode rm :=
    ((Laws.field_hi _ _ (by decide)).trans ((Laws.field_hi _ _ (by decide)).trans ((Laws.field_lo _ _ (by decide)).trans BitVec.extractLsb'_eq_self)))
  have h3 : (0#37 ++ tyCode ty ++ rmCode rm ++ BitVec.ofBool sat ++ 0#3 : BitVec 48).getLsbD 3 = sat :=
    ((Laws.bit_hi _ _ (by decide)).trans ((Laws.bit_lo _ _ (by decide)).trans (Laws.bit_ofBool sat)))
  simp only [decVFpUF, encVFpUF, Raw.fld, Raw.bit, h0, h1, h2, h3, Laws.tyOf_tyCode, Laws.rmOf_rmCode]
  simp_all

/-- The layout VFCmpF reads back what it writes. -/
theorem Laws.read_VFCmpF (tys : List Ty) (mk : VFCmpF → Instr) (op : BitVec 7) (f : BitVec 6) (x : VFCmpF) (ht : tys.contains x.ty = true) :
    decVFCmpF tys mk (encVFCmpF op f x) = .ok (mk x) := by
  rcases x with ⟨d, a, b, k, ty, rm, sat⟩
  have h0 : (0#37 ++ tyCode ty ++ rmCode rm ++ BitVec.ofBool sat ++ 0#3 : BitVec 48) &&& 0xF807#48 = 0#48 :=
    (Laws.mask_append _ _ (Laws.mask_append _ _ (Laws.mask_append _ _ (Laws.mask_append _ _ (Laws.mask_zero _ _) (Laws.mask_none _ (by decide))) (Laws.mask_none _ (by decide))) (Laws.mask_none _ (by decide))) (Laws.mask_zero _ _))
  have h1 : (0#37 ++ tyCode ty ++ rmCode rm ++ BitVec.ofBool sat ++ 0#3 : BitVec 48).extractLsb' 6 (10 - 6 + 1) = tyCode ty :=
    ((Laws.field_hi _ _ (by decide)).trans ((Laws.field_hi _ _ (by decide)).trans ((Laws.field_hi _ _ (by decide)).trans ((Laws.field_lo _ _ (by decide)).trans BitVec.extractLsb'_eq_self))))
  have h2 : (0#37 ++ tyCode ty ++ rmCode rm ++ BitVec.ofBool sat ++ 0#3 : BitVec 48).extractLsb' 4 (5 - 4 + 1) = rmCode rm :=
    ((Laws.field_hi _ _ (by decide)).trans ((Laws.field_hi _ _ (by decide)).trans ((Laws.field_lo _ _ (by decide)).trans BitVec.extractLsb'_eq_self)))
  have h3 : (0#37 ++ tyCode ty ++ rmCode rm ++ BitVec.ofBool sat ++ 0#3 : BitVec 48).getLsbD 3 = sat :=
    ((Laws.bit_hi _ _ (by decide)).trans ((Laws.bit_lo _ _ (by decide)).trans (Laws.bit_ofBool sat)))
  have h4 : (0#3 ++ d : BitVec 5).extractLsb' 2 3 = 0#3 :=
    ((Laws.field_hi _ _ (by decide)).trans (BitVec.extractLsb'_eq_self))
  have h5 : (0#3 ++ d : BitVec 5).extractLsb' 0 2 = d :=
    ((Laws.field_lo _ _ (by decide)).trans (BitVec.extractLsb'_eq_self))
  simp only [decVFCmpF, encVFCmpF, Raw.fld, Raw.bit, h0, h1, h2, h3, h4, h5, Laws.tyOf_tyCode, Laws.rmOf_rmCode]
  simp_all

/-- The layout VFmaF reads back what it writes. -/
theorem Laws.read_VFmaF (tys : List Ty) (mk : VFmaF → Instr) (op : BitVec 7) (f : BitVec 6) (x : VFmaF) (ht : tys.contains x.ty = true) :
    decVFmaF tys mk (encVFmaF op f x) = .ok (mk x) := by
  rcases x with ⟨d, a, b, c, k, ty, rm, sat⟩
  have h0 : (0#32 ++ c ++ tyCode ty ++ rmCode rm ++ BitVec.ofBool sat ++ 0#3 : BitVec 48) &&& 0x7#48 = 0#48 :=
    (Laws.mask_append _ _ (Laws.mask_append _ _ (Laws.mask_append _ _ (Laws.mask_append _ _ (Laws.mask_append _ _ (Laws.mask_zero _ _) (Laws.mask_none _ (by decide))) (Laws.mask_none _ (by decide))) (Laws.mask_none _ (by decide))) (Laws.mask_none _ (by decide))) (Laws.mask_zero _ _))
  have h1 : (0#32 ++ c ++ tyCode ty ++ rmCode rm ++ BitVec.ofBool sat ++ 0#3 : BitVec 48).extractLsb' 6 (10 - 6 + 1) = tyCode ty :=
    ((Laws.field_hi _ _ (by decide)).trans ((Laws.field_hi _ _ (by decide)).trans ((Laws.field_hi _ _ (by decide)).trans ((Laws.field_lo _ _ (by decide)).trans BitVec.extractLsb'_eq_self))))
  have h2 : (0#32 ++ c ++ tyCode ty ++ rmCode rm ++ BitVec.ofBool sat ++ 0#3 : BitVec 48).extractLsb' 11 (15 - 11 + 1) = c :=
    ((Laws.field_hi _ _ (by decide)).trans ((Laws.field_hi _ _ (by decide)).trans ((Laws.field_hi _ _ (by decide)).trans ((Laws.field_hi _ _ (by decide)).trans ((Laws.field_lo _ _ (by decide)).trans BitVec.extractLsb'_eq_self)))))
  have h3 : (0#32 ++ c ++ tyCode ty ++ rmCode rm ++ BitVec.ofBool sat ++ 0#3 : BitVec 48).extractLsb' 4 (5 - 4 + 1) = rmCode rm :=
    ((Laws.field_hi _ _ (by decide)).trans ((Laws.field_hi _ _ (by decide)).trans ((Laws.field_lo _ _ (by decide)).trans BitVec.extractLsb'_eq_self)))
  have h4 : (0#32 ++ c ++ tyCode ty ++ rmCode rm ++ BitVec.ofBool sat ++ 0#3 : BitVec 48).getLsbD 3 = sat :=
    ((Laws.bit_hi _ _ (by decide)).trans ((Laws.bit_lo _ _ (by decide)).trans (Laws.bit_ofBool sat)))
  simp only [decVFmaF, encVFmaF, Raw.fld, Raw.bit, h0, h1, h2, h3, h4, Laws.tyOf_tyCode, Laws.rmOf_rmCode]
  simp_all

/-- The layout QpackF reads back what it writes. -/
theorem Laws.read_QpackF (tys : List Ty) (mk : QpackF → Instr) (op : BitVec 7) (f : BitVec 6) (x : QpackF) (ht : tys.contains x.ty = true) :
    decQpackF tys mk (encQpackF op f x) = .ok (mk x) := by
  rcases x with ⟨d, a, k, ty, rm⟩
  have h0 : (0#37 ++ tyCode ty ++ rmCode rm ++ 0#4 : BitVec 48) &&& 0xF80F#48 = 0#48 :=
    (Laws.mask_append _ _ (Laws.mask_append _ _ (Laws.mask_append _ _ (Laws.mask_zero _ _) (Laws.mask_none _ (by decide))) (Laws.mask_none _ (by decide))) (Laws.mask_zero _ _))
  have h1 : (0#37 ++ tyCode ty ++ rmCode rm ++ 0#4 : BitVec 48).extractLsb' 6 (10 - 6 + 1) = tyCode ty :=
    ((Laws.field_hi _ _ (by decide)).trans ((Laws.field_hi _ _ (by decide)).trans ((Laws.field_lo _ _ (by decide)).trans BitVec.extractLsb'_eq_self)))
  have h2 : (0#37 ++ tyCode ty ++ rmCode rm ++ 0#4 : BitVec 48).extractLsb' 4 (5 - 4 + 1) = rmCode rm :=
    ((Laws.field_hi _ _ (by decide)).trans ((Laws.field_lo _ _ (by decide)).trans BitVec.extractLsb'_eq_self))
  simp only [decQpackF, encQpackF, Raw.fld, h0, h1, h2, Laws.tyOf_tyCode, Laws.rmOf_rmCode]
  simp_all

/-- The layout VTyF reads back what it writes. -/
theorem Laws.read_VTyF (tys : List Ty) (mk : VTyF → Instr) (op : BitVec 7) (f : BitVec 6) (x : VTyF) (ht : tys.contains x.ty = true) :
    decVTyF tys mk (encVTyF op f x) = .ok (mk x) := by
  rcases x with ⟨d, a, k, ty⟩
  have h0 : (0#37 ++ tyCode ty ++ 0#6 : BitVec 48) &&& 0xF83F#48 = 0#48 :=
    (Laws.mask_append _ _ (Laws.mask_append _ _ (Laws.mask_zero _ _) (Laws.mask_none _ (by decide))) (Laws.mask_zero _ _))
  have h1 : (0#37 ++ tyCode ty ++ 0#6 : BitVec 48).extractLsb' 6 (10 - 6 + 1) = tyCode ty :=
    ((Laws.field_hi _ _ (by decide)).trans ((Laws.field_lo _ _ (by decide)).trans BitVec.extractLsb'_eq_self))
  simp only [decVTyF, encVTyF, Raw.fld, h0, h1, Laws.tyOf_tyCode]
  simp_all

/-- The layout BnormF reads back what it writes. -/
theorem Laws.read_BnormF (tys : List Ty) (mk : BnormF → Instr) (op : BitVec 7) (f : BitVec 6) (x : BnormF) (ht : tys.contains x.ty = true) :
    decBnormF tys mk (encBnormF op f x) = .ok (mk x) := by
  rcases x with ⟨d, a, k, ty, rm⟩
  have h0 : (0#37 ++ tyCode ty ++ rmCode rm ++ 0#4 : BitVec 48) &&& 0xF80F#48 = 0#48 :=
    (Laws.mask_append _ _ (Laws.mask_append _ _ (Laws.mask_append _ _ (Laws.mask_zero _ _) (Laws.mask_none _ (by decide))) (Laws.mask_none _ (by decide))) (Laws.mask_zero _ _))
  have h1 : (0#37 ++ tyCode ty ++ rmCode rm ++ 0#4 : BitVec 48).extractLsb' 6 (10 - 6 + 1) = tyCode ty :=
    ((Laws.field_hi _ _ (by decide)).trans ((Laws.field_hi _ _ (by decide)).trans ((Laws.field_lo _ _ (by decide)).trans BitVec.extractLsb'_eq_self)))
  have h2 : (0#37 ++ tyCode ty ++ rmCode rm ++ 0#4 : BitVec 48).extractLsb' 4 (5 - 4 + 1) = rmCode rm :=
    ((Laws.field_hi _ _ (by decide)).trans ((Laws.field_lo _ _ (by decide)).trans BitVec.extractLsb'_eq_self))
  simp only [decBnormF, encBnormF, Raw.fld, h0, h1, h2, Laws.tyOf_tyCode, Laws.rmOf_rmCode]
  simp_all

/-- The layout VTyBF reads back what it writes. -/
theorem Laws.read_VTyBF (tys : List Ty) (mk : VTyBF → Instr) (op : BitVec 7) (f : BitVec 6) (x : VTyBF) (ht : tys.contains x.ty = true) :
    decVTyBF tys mk (encVTyBF op f x) = .ok (mk x) := by
  rcases x with ⟨d, a, b, k, ty⟩
  have h0 : (0#37 ++ tyCode ty ++ 0#6 : BitVec 48) &&& 0xF83F#48 = 0#48 :=
    (Laws.mask_append _ _ (Laws.mask_append _ _ (Laws.mask_zero _ _) (Laws.mask_none _ (by decide))) (Laws.mask_zero _ _))
  have h1 : (0#37 ++ tyCode ty ++ 0#6 : BitVec 48).extractLsb' 6 (10 - 6 + 1) = tyCode ty :=
    ((Laws.field_hi _ _ (by decide)).trans ((Laws.field_lo _ _ (by decide)).trans BitVec.extractLsb'_eq_self))
  simp only [decVTyBF, encVTyBF, Raw.fld, h0, h1, Laws.tyOf_tyCode]
  simp_all

/-- The layout VTyCF reads back what it writes. -/
theorem Laws.read_VTyCF (tys : List Ty) (mk : VTyCF → Instr) (op : BitVec 7) (f : BitVec 6) (x : VTyCF) (ht : tys.contains x.ty = true) :
    decVTyCF tys mk (encVTyCF op f x) = .ok (mk x) := by
  rcases x with ⟨d, a, c, k, ty⟩
  have h0 : (0#32 ++ c ++ tyCode ty ++ 0#6 : BitVec 48) &&& 0x3F#48 = 0#48 :=
    (Laws.mask_append _ _ (Laws.mask_append _ _ (Laws.mask_append _ _ (Laws.mask_zero _ _) (Laws.mask_none _ (by decide))) (Laws.mask_none _ (by decide))) (Laws.mask_zero _ _))
  have h1 : (0#32 ++ c ++ tyCode ty ++ 0#6 : BitVec 48).extractLsb' 6 (10 - 6 + 1) = tyCode ty :=
    ((Laws.field_hi _ _ (by decide)).trans ((Laws.field_lo _ _ (by decide)).trans BitVec.extractLsb'_eq_self))
  have h2 : (0#32 ++ c ++ tyCode ty ++ 0#6 : BitVec 48).extractLsb' 11 (15 - 11 + 1) = c :=
    ((Laws.field_hi _ _ (by decide)).trans ((Laws.field_hi _ _ (by decide)).trans ((Laws.field_lo _ _ (by decide)).trans BitVec.extractLsb'_eq_self)))
  simp only [decVTyCF, encVTyCF, Raw.fld, h0, h1, h2, Laws.tyOf_tyCode]
  simp_all

/-- The layout RedF reads back what it writes. -/
theorem Laws.read_RedF (tys : List Ty) (mk : RedF → Instr) (op : BitVec 7) (f : BitVec 6) (x : RedF) (ht : tys.contains x.ty = true) (hw : x.wf = true) :
    decRedF tys mk (encRedF op f x) = .ok (mk x) := by
  rcases x with ⟨d, a, k, ty, rm, sat, col⟩
  have h0 : (0#37 ++ tyCode ty ++ rmCode rm ++ BitVec.ofBool sat ++ BitVec.ofBool col ++ 0#2 : BitVec 48) &&& 0xF803#48 = 0#48 :=
    (Laws.mask_append _ _ (Laws.mask_append _ _ (Laws.mask_append _ _ (Laws.mask_append _ _ (Laws.mask_append _ _ (Laws.mask_zero _ _) (Laws.mask_none _ (by decide))) (Laws.mask_none _ (by decide))) (Laws.mask_none _ (by decide))) (Laws.mask_none _ (by decide))) (Laws.mask_zero _ _))
  have h1 : (0#37 ++ tyCode ty ++ rmCode rm ++ BitVec.ofBool sat ++ BitVec.ofBool col ++ 0#2 : BitVec 48).extractLsb' 6 (10 - 6 + 1) = tyCode ty :=
    ((Laws.field_hi _ _ (by decide)).trans ((Laws.field_hi _ _ (by decide)).trans ((Laws.field_hi _ _ (by decide)).trans ((Laws.field_hi _ _ (by decide)).trans ((Laws.field_lo _ _ (by decide)).trans BitVec.extractLsb'_eq_self)))))
  have h2 : (0#37 ++ tyCode ty ++ rmCode rm ++ BitVec.ofBool sat ++ BitVec.ofBool col ++ 0#2 : BitVec 48).extractLsb' 4 (5 - 4 + 1) = rmCode rm :=
    ((Laws.field_hi _ _ (by decide)).trans ((Laws.field_hi _ _ (by decide)).trans ((Laws.field_hi _ _ (by decide)).trans ((Laws.field_lo _ _ (by decide)).trans BitVec.extractLsb'_eq_self))))
  have h3 : (0#37 ++ tyCode ty ++ rmCode rm ++ BitVec.ofBool sat ++ BitVec.ofBool col ++ 0#2 : BitVec 48).getLsbD 2 = col :=
    ((Laws.bit_hi _ _ (by decide)).trans ((Laws.bit_lo _ _ (by decide)).trans (Laws.bit_ofBool col)))
  have h4 : (0#37 ++ tyCode ty ++ rmCode rm ++ BitVec.ofBool sat ++ BitVec.ofBool col ++ 0#2 : BitVec 48).getLsbD 3 = sat :=
    ((Laws.bit_hi _ _ (by decide)).trans ((Laws.bit_hi _ _ (by decide)).trans ((Laws.bit_lo _ _ (by decide)).trans (Laws.bit_ofBool sat))))
  have h5 : (0#37 ++ tyCode ty ++ rmCode rm ++ BitVec.ofBool sat ++ BitVec.ofBool col ++ 0#2 : BitVec 48).extractLsb' 6 5 = tyCode ty :=
    ((Laws.field_hi _ _ (by decide)).trans ((Laws.field_hi _ _ (by decide)).trans ((Laws.field_hi _ _ (by decide)).trans ((Laws.field_hi _ _ (by decide)).trans ((Laws.field_lo _ _ (by decide)).trans BitVec.extractLsb'_eq_self)))))
  simp only [decRedF, encRedF, Raw.fld, Raw.bit, h0, h1, h2, h3, h4, h5, Laws.tyOf_tyCode, Laws.rmOf_rmCode]
  have h : ty.isFp = true → decide (8 ≤ (tyCode ty).toNat) = true := by cases ty <;> decide
  cases rm <;> cases hf : ty.isFp <;> simp_all [RedF.wf, rmCode]

/-- The layout RedNF reads back what it writes. -/
theorem Laws.read_RedNF (tys : List Ty) (mk : RedNF → Instr) (op : BitVec 7) (f : BitVec 6) (x : RedNF) (ht : tys.contains x.ty = true) :
    decRedNF tys mk (encRedNF op f x) = .ok (mk x) := by
  rcases x with ⟨d, a, k, ty, sat, col⟩
  have h0 : (0#37 ++ tyCode ty ++ 0#2 ++ BitVec.ofBool sat ++ BitVec.ofBool col ++ 0#2 : BitVec 48) &&& 0xF833#48 = 0#48 :=
    (Laws.mask_append _ _ (Laws.mask_append _ _ (Laws.mask_append _ _ (Laws.mask_append _ _ (Laws.mask_append _ _ (Laws.mask_zero _ _) (Laws.mask_none _ (by decide))) (Laws.mask_zero _ _)) (Laws.mask_none _ (by decide))) (Laws.mask_none _ (by decide))) (Laws.mask_zero _ _))
  have h1 : (0#37 ++ tyCode ty ++ 0#2 ++ BitVec.ofBool sat ++ BitVec.ofBool col ++ 0#2 : BitVec 48).extractLsb' 6 (10 - 6 + 1) = tyCode ty :=
    ((Laws.field_hi _ _ (by decide)).trans ((Laws.field_hi _ _ (by decide)).trans ((Laws.field_hi _ _ (by decide)).trans ((Laws.field_hi _ _ (by decide)).trans ((Laws.field_lo _ _ (by decide)).trans BitVec.extractLsb'_eq_self)))))
  have h2 : (0#37 ++ tyCode ty ++ 0#2 ++ BitVec.ofBool sat ++ BitVec.ofBool col ++ 0#2 : BitVec 48).getLsbD 2 = col :=
    ((Laws.bit_hi _ _ (by decide)).trans ((Laws.bit_lo _ _ (by decide)).trans (Laws.bit_ofBool col)))
  have h3 : (0#37 ++ tyCode ty ++ 0#2 ++ BitVec.ofBool sat ++ BitVec.ofBool col ++ 0#2 : BitVec 48).getLsbD 3 = sat :=
    ((Laws.bit_hi _ _ (by decide)).trans ((Laws.bit_hi _ _ (by decide)).trans ((Laws.bit_lo _ _ (by decide)).trans (Laws.bit_ofBool sat))))
  simp only [decRedNF, encRedNF, Raw.fld, Raw.bit, h0, h1, h2, h3, Laws.tyOf_tyCode]
  simp_all

/-- The layout SinCosF reads back what it writes. -/
theorem Laws.read_SinCosF (tys : List Ty) (mk : SinCosF → Instr) (op : BitVec 7) (f : BitVec 6) (x : SinCosF) (ht : tys.contains x.ty = true) :
    decSinCosF tys mk (encSinCosF op f x) = .ok (mk x) := by
  rcases x with ⟨d, a, b, k, ty, rm⟩
  have h0 : (0#37 ++ tyCode ty ++ rmCode rm ++ 0#4 : BitVec 48) &&& 0xF80F#48 = 0#48 :=
    (Laws.mask_append _ _ (Laws.mask_append _ _ (Laws.mask_append _ _ (Laws.mask_zero _ _) (Laws.mask_none _ (by decide))) (Laws.mask_none _ (by decide))) (Laws.mask_zero _ _))
  have h1 : (0#37 ++ tyCode ty ++ rmCode rm ++ 0#4 : BitVec 48).extractLsb' 6 (10 - 6 + 1) = tyCode ty :=
    ((Laws.field_hi _ _ (by decide)).trans ((Laws.field_hi _ _ (by decide)).trans ((Laws.field_lo _ _ (by decide)).trans BitVec.extractLsb'_eq_self)))
  have h2 : (0#37 ++ tyCode ty ++ rmCode rm ++ 0#4 : BitVec 48).extractLsb' 4 (5 - 4 + 1) = rmCode rm :=
    ((Laws.field_hi _ _ (by decide)).trans ((Laws.field_lo _ _ (by decide)).trans BitVec.extractLsb'_eq_self))
  simp only [decSinCosF, encSinCosF, Raw.fld, h0, h1, h2, Laws.tyOf_tyCode, Laws.rmOf_rmCode]
  simp_all

/-- The layout VMemF reads back what it writes. -/
theorem Laws.read_VMemF (tys : List Ty) (mk : VMemF → Instr) (op : BitVec 7) (f : BitVec 6) (x : VMemF) (ht : tys.contains x.ty = true) :
    decVMemF tys mk (encVMemF op f x) = .ok (mk x) := by
  rcases x with ⟨d, a, b, k, ty, hint⟩
  have h0 : (0#32 ++ tyCode ty ++ 0#3 ++ hint ++ 0#6 : BitVec 48) &&& 0x73F#48 = 0#48 :=
    (Laws.mask_append _ _ (Laws.mask_append _ _ (Laws.mask_append _ _ (Laws.mask_append _ _ (Laws.mask_zero _ _) (Laws.mask_none _ (by decide))) (Laws.mask_zero _ _)) (Laws.mask_none _ (by decide))) (Laws.mask_zero _ _))
  have h1 : (0#32 ++ tyCode ty ++ 0#3 ++ hint ++ 0#6 : BitVec 48).extractLsb' 11 (15 - 11 + 1) = tyCode ty :=
    ((Laws.field_hi _ _ (by decide)).trans ((Laws.field_hi _ _ (by decide)).trans ((Laws.field_hi _ _ (by decide)).trans ((Laws.field_lo _ _ (by decide)).trans BitVec.extractLsb'_eq_self))))
  have h2 : (0#32 ++ tyCode ty ++ 0#3 ++ hint ++ 0#6 : BitVec 48).extractLsb' 6 (7 - 6 + 1) = hint :=
    ((Laws.field_hi _ _ (by decide)).trans ((Laws.field_lo _ _ (by decide)).trans BitVec.extractLsb'_eq_self))
  simp only [decVMemF, encVMemF, Raw.fld, h0, h1, h2, Laws.tyOf_tyCode]
  simp_all

/-- The layout VMemBF reads back what it writes. -/
theorem Laws.read_VMemBF (tys : List Ty) (mk : VMemBF → Instr) (op : BitVec 7) (f : BitVec 6) (x : VMemBF) (ht : tys.contains x.ty = true) (hw : x.wf = true) :
    decVMemBF tys mk (encVMemBF op f x) = .ok (mk x) := by
  rcases x with ⟨d, a, b, k, ty, bitoff, hint⟩
  have h0 : (0#32 ++ tyCode ty ++ bitoff ++ hint ++ 0#6 : BitVec 48) &&& 0x3F#48 = 0#48 :=
    (Laws.mask_append _ _ (Laws.mask_append _ _ (Laws.mask_append _ _ (Laws.mask_append _ _ (Laws.mask_zero _ _) (Laws.mask_none _ (by decide))) (Laws.mask_none _ (by decide))) (Laws.mask_none _ (by decide))) (Laws.mask_zero _ _))
  have h1 : (0#32 ++ tyCode ty ++ bitoff ++ hint ++ 0#6 : BitVec 48).extractLsb' 8 (10 - 8 + 1) = bitoff :=
    ((Laws.field_hi _ _ (by decide)).trans ((Laws.field_hi _ _ (by decide)).trans ((Laws.field_lo _ _ (by decide)).trans BitVec.extractLsb'_eq_self)))
  have h2 : (0#32 ++ tyCode ty ++ bitoff ++ hint ++ 0#6 : BitVec 48).extractLsb' 11 (15 - 11 + 1) = tyCode ty :=
    ((Laws.field_hi _ _ (by decide)).trans ((Laws.field_hi _ _ (by decide)).trans ((Laws.field_hi _ _ (by decide)).trans ((Laws.field_lo _ _ (by decide)).trans BitVec.extractLsb'_eq_self))))
  have h3 : (0#32 ++ tyCode ty ++ bitoff ++ hint ++ 0#6 : BitVec 48).extractLsb' 6 (7 - 6 + 1) = hint :=
    ((Laws.field_hi _ _ (by decide)).trans ((Laws.field_lo _ _ (by decide)).trans BitVec.extractLsb'_eq_self))
  simp only [decVMemBF, encVMemBF, Raw.fld, h0, h1, h2, h3, Laws.tyOf_tyCode]
  simp_all [VMemBF.wf]

/-- The layout VMemLF reads back what it writes. -/
theorem Laws.read_VMemLF (tys : List Ty) (mk : VMemLF → Instr) (op : BitVec 7) (f : BitVec 6) (x : VMemLF) (ht : tys.contains x.ty = true) :
    decVMemLF tys mk (encVMemLF op f x) = .ok (mk x) := by
  rcases x with ⟨d, a, k, ty, hint⟩
  have h0 : (0#32 ++ tyCode ty ++ 0#3 ++ hint ++ 0#6 : BitVec 48) &&& 0x73F#48 = 0#48 :=
    (Laws.mask_append _ _ (Laws.mask_append _ _ (Laws.mask_append _ _ (Laws.mask_append _ _ (Laws.mask_zero _ _) (Laws.mask_none _ (by decide))) (Laws.mask_zero _ _)) (Laws.mask_none _ (by decide))) (Laws.mask_zero _ _))
  have h1 : (0#32 ++ tyCode ty ++ 0#3 ++ hint ++ 0#6 : BitVec 48).extractLsb' 11 (15 - 11 + 1) = tyCode ty :=
    ((Laws.field_hi _ _ (by decide)).trans ((Laws.field_hi _ _ (by decide)).trans ((Laws.field_hi _ _ (by decide)).trans ((Laws.field_lo _ _ (by decide)).trans BitVec.extractLsb'_eq_self))))
  have h2 : (0#32 ++ tyCode ty ++ 0#3 ++ hint ++ 0#6 : BitVec 48).extractLsb' 6 (7 - 6 + 1) = hint :=
    ((Laws.field_hi _ _ (by decide)).trans ((Laws.field_lo _ _ (by decide)).trans BitVec.extractLsb'_eq_self))
  simp only [decVMemLF, encVMemLF, Raw.fld, h0, h1, h2, Laws.tyOf_tyCode]
  simp_all

/-- The layout VIdxF reads back what it writes. -/
theorem Laws.read_VIdxF (tys : List Ty) (mk : VIdxF → Instr) (op : BitVec 7) (f : BitVec 6) (x : VIdxF) (ht : tys.contains x.ty = true) :
    decVIdxF tys mk (encVIdxF op f x) = .ok (mk x) := by
  rcases x with ⟨d, a, c, k, ty, hint⟩
  have h0 : (0#32 ++ tyCode ty ++ 0#3 ++ hint ++ c ++ 0#1 : BitVec 48) &&& 0x701#48 = 0#48 :=
    (Laws.mask_append _ _ (Laws.mask_append _ _ (Laws.mask_append _ _ (Laws.mask_append _ _ (Laws.mask_append _ _ (Laws.mask_zero _ _) (Laws.mask_none _ (by decide))) (Laws.mask_zero _ _)) (Laws.mask_none _ (by decide))) (Laws.mask_none _ (by decide))) (Laws.mask_zero _ _))
  have h1 : (0#32 ++ tyCode ty ++ 0#3 ++ hint ++ c ++ 0#1 : BitVec 48).extractLsb' 11 (15 - 11 + 1) = tyCode ty :=
    ((Laws.field_hi _ _ (by decide)).trans ((Laws.field_hi _ _ (by decide)).trans ((Laws.field_hi _ _ (by decide)).trans ((Laws.field_hi _ _ (by decide)).trans ((Laws.field_lo _ _ (by decide)).trans BitVec.extractLsb'_eq_self)))))
  have h2 : (0#32 ++ tyCode ty ++ 0#3 ++ hint ++ c ++ 0#1 : BitVec 48).extractLsb' 1 (5 - 1 + 1) = c :=
    ((Laws.field_hi _ _ (by decide)).trans ((Laws.field_lo _ _ (by decide)).trans BitVec.extractLsb'_eq_self))
  have h3 : (0#32 ++ tyCode ty ++ 0#3 ++ hint ++ c ++ 0#1 : BitVec 48).extractLsb' 6 (7 - 6 + 1) = hint :=
    ((Laws.field_hi _ _ (by decide)).trans ((Laws.field_hi _ _ (by decide)).trans ((Laws.field_lo _ _ (by decide)).trans BitVec.extractLsb'_eq_self)))
  simp only [decVIdxF, encVIdxF, Raw.fld, h0, h1, h2, h3, Laws.tyOf_tyCode]
  simp_all

/-- The layout WinF reads back what it writes. -/
theorem Laws.read_WinF (tys : List Ty) (mk : WinF → Instr) (op : BitVec 7) (f : BitVec 6) (x : WinF) (ht : tys.contains x.ty = true) :
    decWinF tys mk (encWinF op f x) = .ok (mk x) := by
  rcases x with ⟨a, b, k, ty, hint⟩
  have h0 : (0#32 ++ tyCode ty ++ 0#3 ++ hint ++ 0#6 : BitVec 48) &&& 0x73F#48 = 0#48 :=
    (Laws.mask_append _ _ (Laws.mask_append _ _ (Laws.mask_append _ _ (Laws.mask_append _ _ (Laws.mask_zero _ _) (Laws.mask_none _ (by decide))) (Laws.mask_zero _ _)) (Laws.mask_none _ (by decide))) (Laws.mask_zero _ _))
  have h1 : (0#32 ++ tyCode ty ++ 0#3 ++ hint ++ 0#6 : BitVec 48).extractLsb' 11 (15 - 11 + 1) = tyCode ty :=
    ((Laws.field_hi _ _ (by decide)).trans ((Laws.field_hi _ _ (by decide)).trans ((Laws.field_hi _ _ (by decide)).trans ((Laws.field_lo _ _ (by decide)).trans BitVec.extractLsb'_eq_self))))
  have h2 : (0#32 ++ tyCode ty ++ 0#3 ++ hint ++ 0#6 : BitVec 48).extractLsb' 6 (7 - 6 + 1) = hint :=
    ((Laws.field_hi _ _ (by decide)).trans ((Laws.field_lo _ _ (by decide)).trans BitVec.extractLsb'_eq_self))
  simp only [decWinF, encWinF, Raw.fld, h0, h1, h2, Laws.tyOf_tyCode]
  simp_all

/-- The layout Win0F reads back what it writes. -/
theorem Laws.read_Win0F (tys : List Ty) (mk : Win0F → Instr) (op : BitVec 7) (f : BitVec 6) (x : Win0F) (ht : tys.contains x.ty = true) :
    decWin0F tys mk (encWin0F op f x) = .ok (mk x) := by
  rcases x with ⟨k, ty, hint⟩
  have h0 : (0#32 ++ tyCode ty ++ 0#3 ++ hint ++ 0#6 : BitVec 48) &&& 0x73F#48 = 0#48 :=
    (Laws.mask_append _ _ (Laws.mask_append _ _ (Laws.mask_append _ _ (Laws.mask_append _ _ (Laws.mask_zero _ _) (Laws.mask_none _ (by decide))) (Laws.mask_zero _ _)) (Laws.mask_none _ (by decide))) (Laws.mask_zero _ _))
  have h1 : (0#32 ++ tyCode ty ++ 0#3 ++ hint ++ 0#6 : BitVec 48).extractLsb' 11 (15 - 11 + 1) = tyCode ty :=
    ((Laws.field_hi _ _ (by decide)).trans ((Laws.field_hi _ _ (by decide)).trans ((Laws.field_hi _ _ (by decide)).trans ((Laws.field_lo _ _ (by decide)).trans BitVec.extractLsb'_eq_self))))
  have h2 : (0#32 ++ tyCode ty ++ 0#3 ++ hint ++ 0#6 : BitVec 48).extractLsb' 6 (7 - 6 + 1) = hint :=
    ((Laws.field_hi _ _ (by decide)).trans ((Laws.field_lo _ _ (by decide)).trans BitVec.extractLsb'_eq_self))
  simp only [decWin0F, encWin0F, Raw.fld, h0, h1, h2, Laws.tyOf_tyCode]
  simp_all

/-- The layout CpyF reads back what it writes. -/
theorem Laws.read_CpyF (mk : CpyF → Instr) (op : BitVec 7) (f : BitVec 6) (x : CpyF) :
    decCpyF mk (encCpyF op f x) = .ok (mk x) := by
  rcases x with ⟨d, a, b, ch, acq, rel, scope, mmask, bar, rows16⟩
  have h0 : (ch ++ BitVec.ofBool acq ++ BitVec.ofBool rel ++ scopeCode scope ++ mmask ++ bar ++ rows16 ++ 0#20 : BitVec 48) &&& 0xFFFFF#48 = 0#48 :=
    (Laws.mask_append _ _ (Laws.mask_append _ _ (Laws.mask_append _ _ (Laws.mask_append _ _ (Laws.mask_append _ _ (Laws.mask_append _ _ (Laws.mask_append _ _ (Laws.mask_none _ (by decide)) (Laws.mask_none _ (by decide))) (Laws.mask_none _ (by decide))) (Laws.mask_none _ (by decide))) (Laws.mask_none _ (by decide))) (Laws.mask_none _ (by decide))) (Laws.mask_none _ (by decide))) (Laws.mask_zero _ _))
  have h1 : (ch ++ BitVec.ofBool acq ++ BitVec.ofBool rel ++ scopeCode scope ++ mmask ++ bar ++ rows16 ++ 0#20 : BitVec 48).extractLsb' 20 (32 - 20 + 1) = rows16 :=
    ((Laws.field_hi _ _ (by decide)).trans ((Laws.field_lo _ _ (by decide)).trans BitVec.extractLsb'_eq_self))
  have h2 : (ch ++ BitVec.ofBool acq ++ BitVec.ofBool rel ++ scopeCode scope ++ mmask ++ bar ++ rows16 ++ 0#20 : BitVec 48).extractLsb' 33 (36 - 33 + 1) = bar :=
    ((Laws.field_hi _ _ (by decide)).trans ((Laws.field_hi _ _ (by decide)).trans ((Laws.field_lo _ _ (by decide)).trans BitVec.extractLsb'_eq_self)))
  have h3 : (ch ++ BitVec.ofBool acq ++ BitVec.ofBool rel ++ scopeCode scope ++ mmask ++ bar ++ rows16 ++ 0#20 : BitVec 48).extractLsb' 37 (40 - 37 + 1) = mmask :=
    ((Laws.field_hi _ _ (by decide)).trans ((Laws.field_hi _ _ (by decide)).trans ((Laws.field_hi _ _ (by decide)).trans ((Laws.field_lo _ _ (by decide)).trans BitVec.extractLsb'_eq_self))))
  have h4 : (ch ++ BitVec.ofBool acq ++ BitVec.ofBool rel ++ scopeCode scope ++ mmask ++ bar ++ rows16 ++ 0#20 : BitVec 48).extractLsb' 41 (43 - 41 + 1) = scopeCode scope :=
    ((Laws.field_hi _ _ (by decide)).trans ((Laws.field_hi _ _ (by decide)).trans ((Laws.field_hi _ _ (by decide)).trans ((Laws.field_hi _ _ (by decide)).trans ((Laws.field_lo _ _ (by decide)).trans BitVec.extractLsb'_eq_self)))))
  have h5 : (ch ++ BitVec.ofBool acq ++ BitVec.ofBool rel ++ scopeCode scope ++ mmask ++ bar ++ rows16 ++ 0#20 : BitVec 48).extractLsb' 46 (47 - 46 + 1) = ch :=
    ((Laws.field_hi _ _ (by decide)).trans ((Laws.field_hi _ _ (by decide)).trans ((Laws.field_hi _ _ (by decide)).trans ((Laws.field_hi _ _ (by decide)).trans ((Laws.field_hi _ _ (by decide)).trans ((Laws.field_hi _ _ (by decide)).trans ((Laws.field_hi _ _ (by decide)).trans BitVec.extractLsb'_eq_self)))))))
  have h6 : (ch ++ BitVec.ofBool acq ++ BitVec.ofBool rel ++ scopeCode scope ++ mmask ++ bar ++ rows16 ++ 0#20 : BitVec 48).getLsbD 44 = rel :=
    ((Laws.bit_hi _ _ (by decide)).trans ((Laws.bit_hi _ _ (by decide)).trans ((Laws.bit_hi _ _ (by decide)).trans ((Laws.bit_hi _ _ (by decide)).trans ((Laws.bit_hi _ _ (by decide)).trans ((Laws.bit_lo _ _ (by decide)).trans (Laws.bit_ofBool rel)))))))
  have h7 : (ch ++ BitVec.ofBool acq ++ BitVec.ofBool rel ++ scopeCode scope ++ mmask ++ bar ++ rows16 ++ 0#20 : BitVec 48).getLsbD 45 = acq :=
    ((Laws.bit_hi _ _ (by decide)).trans ((Laws.bit_hi _ _ (by decide)).trans ((Laws.bit_hi _ _ (by decide)).trans ((Laws.bit_hi _ _ (by decide)).trans ((Laws.bit_hi _ _ (by decide)).trans ((Laws.bit_hi _ _ (by decide)).trans ((Laws.bit_lo _ _ (by decide)).trans (Laws.bit_ofBool acq))))))))
  simp only [decCpyF, encCpyF, Raw.fld, Raw.bit, h0, h1, h2, h3, h4, h5, h6, h7, Laws.scopeOf_scopeCode]
  simp_all

/-- The layout XredF reads back what it writes. -/
theorem Laws.read_XredF (tys : List Ty) (mk : XredF → Instr) (op : BitVec 7) (f : BitVec 6) (x : XredF) (ht : tys.contains x.ty = true) :
    decXredF tys mk (encXredF op f x) = .ok (mk x) := by
  rcases x with ⟨d, a, b, ch, acq, rel, scope, op, bar, ty⟩
  have h0 : (ch ++ BitVec.ofBool acq ++ BitVec.ofBool rel ++ scopeCode scope ++ xredOpCode op ++ bar ++ tyCode ty ++ 0#28 : BitVec 48) &&& 0xFFFFFFF#48 = 0#48 :=
    (Laws.mask_append _ _ (Laws.mask_append _ _ (Laws.mask_append _ _ (Laws.mask_append _ _ (Laws.mask_append _ _ (Laws.mask_append _ _ (Laws.mask_append _ _ (Laws.mask_none _ (by decide)) (Laws.mask_none _ (by decide))) (Laws.mask_none _ (by decide))) (Laws.mask_none _ (by decide))) (Laws.mask_none _ (by decide))) (Laws.mask_none _ (by decide))) (Laws.mask_none _ (by decide))) (Laws.mask_zero _ _))
  have h1 : (ch ++ BitVec.ofBool acq ++ BitVec.ofBool rel ++ scopeCode scope ++ xredOpCode op ++ bar ++ tyCode ty ++ 0#28 : BitVec 48).extractLsb' 28 (32 - 28 + 1) = tyCode ty :=
    ((Laws.field_hi _ _ (by decide)).trans ((Laws.field_lo _ _ (by decide)).trans BitVec.extractLsb'_eq_self))
  have h2 : (ch ++ BitVec.ofBool acq ++ BitVec.ofBool rel ++ scopeCode scope ++ xredOpCode op ++ bar ++ tyCode ty ++ 0#28 : BitVec 48).extractLsb' 33 (36 - 33 + 1) = bar :=
    ((Laws.field_hi _ _ (by decide)).trans ((Laws.field_hi _ _ (by decide)).trans ((Laws.field_lo _ _ (by decide)).trans BitVec.extractLsb'_eq_self)))
  have h3 : (ch ++ BitVec.ofBool acq ++ BitVec.ofBool rel ++ scopeCode scope ++ xredOpCode op ++ bar ++ tyCode ty ++ 0#28 : BitVec 48).extractLsb' 37 (40 - 37 + 1) = xredOpCode op :=
    ((Laws.field_hi _ _ (by decide)).trans ((Laws.field_hi _ _ (by decide)).trans ((Laws.field_hi _ _ (by decide)).trans ((Laws.field_lo _ _ (by decide)).trans BitVec.extractLsb'_eq_self))))
  have h4 : (ch ++ BitVec.ofBool acq ++ BitVec.ofBool rel ++ scopeCode scope ++ xredOpCode op ++ bar ++ tyCode ty ++ 0#28 : BitVec 48).extractLsb' 41 (43 - 41 + 1) = scopeCode scope :=
    ((Laws.field_hi _ _ (by decide)).trans ((Laws.field_hi _ _ (by decide)).trans ((Laws.field_hi _ _ (by decide)).trans ((Laws.field_hi _ _ (by decide)).trans ((Laws.field_lo _ _ (by decide)).trans BitVec.extractLsb'_eq_self)))))
  have h5 : (ch ++ BitVec.ofBool acq ++ BitVec.ofBool rel ++ scopeCode scope ++ xredOpCode op ++ bar ++ tyCode ty ++ 0#28 : BitVec 48).extractLsb' 46 (47 - 46 + 1) = ch :=
    ((Laws.field_hi _ _ (by decide)).trans ((Laws.field_hi _ _ (by decide)).trans ((Laws.field_hi _ _ (by decide)).trans ((Laws.field_hi _ _ (by decide)).trans ((Laws.field_hi _ _ (by decide)).trans ((Laws.field_hi _ _ (by decide)).trans ((Laws.field_hi _ _ (by decide)).trans BitVec.extractLsb'_eq_self)))))))
  have h6 : (ch ++ BitVec.ofBool acq ++ BitVec.ofBool rel ++ scopeCode scope ++ xredOpCode op ++ bar ++ tyCode ty ++ 0#28 : BitVec 48).getLsbD 44 = rel :=
    ((Laws.bit_hi _ _ (by decide)).trans ((Laws.bit_hi _ _ (by decide)).trans ((Laws.bit_hi _ _ (by decide)).trans ((Laws.bit_hi _ _ (by decide)).trans ((Laws.bit_hi _ _ (by decide)).trans ((Laws.bit_lo _ _ (by decide)).trans (Laws.bit_ofBool rel)))))))
  have h7 : (ch ++ BitVec.ofBool acq ++ BitVec.ofBool rel ++ scopeCode scope ++ xredOpCode op ++ bar ++ tyCode ty ++ 0#28 : BitVec 48).getLsbD 45 = acq :=
    ((Laws.bit_hi _ _ (by decide)).trans ((Laws.bit_hi _ _ (by decide)).trans ((Laws.bit_hi _ _ (by decide)).trans ((Laws.bit_hi _ _ (by decide)).trans ((Laws.bit_hi _ _ (by decide)).trans ((Laws.bit_hi _ _ (by decide)).trans ((Laws.bit_lo _ _ (by decide)).trans (Laws.bit_ofBool acq))))))))
  simp only [decXredF, encXredF, Raw.fld, Raw.bit, h0, h1, h2, h3, h4, h5, h6, h7, Laws.tyOf_tyCode, Laws.scopeOf_scopeCode, Laws.xredOpOf_xredOpCode]
  simp_all

/-- The layout CpwF reads back what it writes. -/
theorem Laws.read_CpwF (mk : CpwF → Instr) (op : BitVec 7) (f : BitVec 6) (x : CpwF) :
    decCpwF mk (encCpwF op f x) = .ok (mk x) := by
  rcases x with ⟨a, ch⟩
  have h0 : (0#32 ++ ch ++ 0#14 : BitVec 48) &&& 0x3FFF#48 = 0#48 :=
    (Laws.mask_append _ _ (Laws.mask_append _ _ (Laws.mask_zero _ _) (Laws.mask_none _ (by decide))) (Laws.mask_zero _ _))
  have h1 : (0#32 ++ ch ++ 0#14 : BitVec 48).extractLsb' 14 (15 - 14 + 1) = ch :=
    ((Laws.field_hi _ _ (by decide)).trans ((Laws.field_lo _ _ (by decide)).trans BitVec.extractLsb'_eq_self))
  simp only [decCpwF, encCpwF, Raw.fld, h0, h1]
  simp_all

/-- The layout GrpF reads back what it writes. -/
theorem Laws.read_GrpF (mk : GrpF → Instr) (op : BitVec 7) (f : BitVec 6) (x : GrpF) (hw : x.wf = true) :
    decGrpF mk (encGrpF op f x) = .ok (mk x) := by
  rcases x with ⟨groups⟩
  have h0 : (0#45 ++ groups : BitVec 48) &&& 0xFFF8#48 = 0#48 :=
    (Laws.mask_append _ _ (Laws.mask_zero _ _) (Laws.mask_none _ (by decide)))
  have h1 : (0#45 ++ groups : BitVec 48).extractLsb' 0 (2 - 0 + 1) = groups :=
    ((Laws.field_lo _ _ (by decide)).trans BitVec.extractLsb'_eq_self)
  simp only [decGrpF, encGrpF, Raw.fld, h0, h1]
  simp_all [GrpF.wf]

/-- The layout DetF reads back what it writes. -/
theorem Laws.read_DetF (mk : DetF → Instr) (op : BitVec 7) (f : BitVec 6) (x : DetF) :
    decDetF mk (encDetF op f x) = .ok (mk x) := by
  rcases x with ⟨discard⟩
  have h0 : (0#47 ++ BitVec.ofBool discard : BitVec 48) &&& 0xFFFE#48 = 0#48 :=
    (Laws.mask_append _ _ (Laws.mask_zero _ _) (Laws.mask_none _ (by decide)))
  have h1 : (0#47 ++ BitVec.ofBool discard : BitVec 48).getLsbD 0 = discard :=
    ((Laws.bit_lo _ _ (by decide)).trans (Laws.bit_ofBool discard))
  simp only [decDetF, encDetF, Raw.bit, h0, h1]
  simp_all

/-- The layout SlotF reads back what it writes. -/
theorem Laws.read_SlotF (mk : SlotF → Instr) (op : BitVec 7) (f : BitVec 6) (x : SlotF) :
    decSlotF mk (encSlotF op f x) = .ok (mk x) := by
  rcases x with ⟨slot⟩
  have h0 : (0#32 ++ slot ++ 0#9 : BitVec 48) &&& 0x1FF#48 = 0#48 :=
    (Laws.mask_append _ _ (Laws.mask_append _ _ (Laws.mask_zero _ _) (Laws.mask_none _ (by decide))) (Laws.mask_zero _ _))
  have h1 : (0#32 ++ slot ++ 0#9 : BitVec 48).extractLsb' 9 (15 - 9 + 1) = slot :=
    ((Laws.field_hi _ _ (by decide)).trans ((Laws.field_lo _ _ (by decide)).trans BitVec.extractLsb'_eq_self))
  simp only [decSlotF, encSlotF, Raw.fld, h0, h1]
  simp_all

/-- The layout AccF reads back what it writes. -/
theorem Laws.read_AccF (mk : AccF → Instr) (op : BitVec 7) (f : BitVec 6) (x : AccF) :
    decAccF mk (encAccF op f x) = .ok (mk x) := by
  rcases x with ⟨tile⟩
  have h0 : (0#43 ++ BitVec.ofBool tile ++ 0#4 : BitVec 48) &&& 0xFFEF#48 = 0#48 :=
    (Laws.mask_append _ _ (Laws.mask_append _ _ (Laws.mask_zero _ _) (Laws.mask_none _ (by decide))) (Laws.mask_zero _ _))
  have h1 : (0#43 ++ BitVec.ofBool tile ++ 0#4 : BitVec 48).getLsbD 4 = tile :=
    ((Laws.bit_hi _ _ (by decide)).trans ((Laws.bit_lo _ _ (by decide)).trans (Laws.bit_ofBool tile)))
  simp only [decAccF, encAccF, Raw.bit, h0, h1]
  simp_all

/-- The layout SlotMF reads back what it writes. -/
theorem Laws.read_SlotMF (tys : List Ty) (mk : SlotMF → Instr) (op : BitVec 7) (f : BitVec 6) (x : SlotMF) (ht : tys.contains x.ty = true) :
    decSlotMF tys mk (encSlotMF op f x) = .ok (mk x) := by
  rcases x with ⟨ty, a, b, slot⟩
  have h0 : (0#32 ++ slot ++ 0#9 : BitVec 48) &&& 0x1FF#48 = 0#48 :=
    (Laws.mask_append _ _ (Laws.mask_append _ _ (Laws.mask_zero _ _) (Laws.mask_none _ (by decide))) (Laws.mask_zero _ _))
  have h1 : (0#32 ++ slot ++ 0#9 : BitVec 48).extractLsb' 9 (15 - 9 + 1) = slot :=
    ((Laws.field_hi _ _ (by decide)).trans ((Laws.field_lo _ _ (by decide)).trans BitVec.extractLsb'_eq_self))
  simp only [decSlotMF, encSlotMF, Raw.fld, h0, h1, Laws.tyOf_tyCode]
  simp_all

/-- The layout SlotRF reads back what it writes. -/
theorem Laws.read_SlotRF (mk : SlotRF → Instr) (op : BitVec 7) (f : BitVec 6) (x : SlotRF) :
    decSlotRF mk (encSlotRF op f x) = .ok (mk x) := by
  rcases x with ⟨d, b, slot⟩
  have h0 : (0#32 ++ slot ++ 0#9 : BitVec 48) &&& 0x1FF#48 = 0#48 :=
    (Laws.mask_append _ _ (Laws.mask_append _ _ (Laws.mask_zero _ _) (Laws.mask_none _ (by decide))) (Laws.mask_zero _ _))
  have h1 : (0#32 ++ slot ++ 0#9 : BitVec 48).extractLsb' 9 (15 - 9 + 1) = slot :=
    ((Laws.field_hi _ _ (by decide)).trans ((Laws.field_lo _ _ (by decide)).trans BitVec.extractLsb'_eq_self))
  simp only [decSlotRF, encSlotRF, Raw.fld, h0, h1]
  simp_all

/-- The layout MmaF reads back what it writes. -/
theorem Laws.read_MmaF (mk : MmaF → Instr) (op : BitVec 7) (f : BitVec 6) (x : MmaF) :
    decMmaF mk (encMmaF op f x) = .ok (mk x) := by
  rcases x with ⟨tile, slotA, slotB⟩
  have h0 : (0#32 ++ slotA ++ slotB ++ 0#2 : BitVec 48) &&& 0x3#48 = 0#48 :=
    (Laws.mask_append _ _ (Laws.mask_append _ _ (Laws.mask_append _ _ (Laws.mask_zero _ _) (Laws.mask_none _ (by decide))) (Laws.mask_none _ (by decide))) (Laws.mask_zero _ _))
  have h1 : (0#32 ++ slotA ++ slotB ++ 0#2 : BitVec 48).extractLsb' 9 (15 - 9 + 1) = slotA :=
    ((Laws.field_hi _ _ (by decide)).trans ((Laws.field_hi _ _ (by decide)).trans ((Laws.field_lo _ _ (by decide)).trans BitVec.extractLsb'_eq_self)))
  have h2 : (0#32 ++ slotA ++ slotB ++ 0#2 : BitVec 48).extractLsb' 2 (8 - 2 + 1) = slotB :=
    ((Laws.field_hi _ _ (by decide)).trans ((Laws.field_lo _ _ (by decide)).trans BitVec.extractLsb'_eq_self))
  have h3 : (0#4 ++ BitVec.ofBool tile : BitVec 5).extractLsb' 1 4 = 0#4 :=
    ((Laws.field_hi _ _ (by decide)).trans (BitVec.extractLsb'_eq_self))
  have h4 : (0#4 ++ BitVec.ofBool tile : BitVec 5).getLsbD 0 = tile :=
    ((Laws.bit_lo _ _ (by decide)).trans (Laws.bit_ofBool tile))
  simp only [decMmaF, encMmaF, Raw.fld, h0, h1, h2, h3, h4]
  simp_all

/-- The layout DrnF reads back what it writes. -/
theorem Laws.read_DrnF (tys : List Ty) (mk : DrnF → Instr) (op : BitVec 7) (f : BitVec 6) (x : DrnF) (ht : tys.contains x.ty = true) (hw : x.wf = true) :
    decDrnF tys mk (encDrnF op f x) = .ok (mk x) := by
  rcases x with ⟨d, k, ty, half, tile⟩
  have h0 : (0#37 ++ tyCode ty ++ BitVec.ofBool half ++ BitVec.ofBool tile ++ 0#4 : BitVec 48) &&& 0xF80F#48 = 0#48 :=
    (Laws.mask_append _ _ (Laws.mask_append _ _ (Laws.mask_append _ _ (Laws.mask_append _ _ (Laws.mask_zero _ _) (Laws.mask_none _ (by decide))) (Laws.mask_none _ (by decide))) (Laws.mask_none _ (by decide))) (Laws.mask_zero _ _))
  have h1 : (0#37 ++ tyCode ty ++ BitVec.ofBool half ++ BitVec.ofBool tile ++ 0#4 : BitVec 48).extractLsb' 6 (10 - 6 + 1) = tyCode ty :=
    ((Laws.field_hi _ _ (by decide)).trans ((Laws.field_hi _ _ (by decide)).trans ((Laws.field_hi _ _ (by decide)).trans ((Laws.field_lo _ _ (by decide)).trans BitVec.extractLsb'_eq_self))))
  have h2 : (0#37 ++ tyCode ty ++ BitVec.ofBool half ++ BitVec.ofBool tile ++ 0#4 : BitVec 48).getLsbD 4 = tile :=
    ((Laws.bit_hi _ _ (by decide)).trans ((Laws.bit_lo _ _ (by decide)).trans (Laws.bit_ofBool tile)))
  have h3 : (0#37 ++ tyCode ty ++ BitVec.ofBool half ++ BitVec.ofBool tile ++ 0#4 : BitVec 48).getLsbD 5 = half :=
    ((Laws.bit_hi _ _ (by decide)).trans ((Laws.bit_hi _ _ (by decide)).trans ((Laws.bit_lo _ _ (by decide)).trans (Laws.bit_ofBool half))))
  simp only [decDrnF, encDrnF, Raw.fld, Raw.bit, h0, h1, h2, h3, Laws.tyOf_tyCode]
  simp_all [DrnF.wf]

/-- The layout AccMF reads back what it writes. -/
theorem Laws.read_AccMF (mk : AccMF → Instr) (op : BitVec 7) (f : BitVec 6) (x : AccMF) :
    decAccMF mk (encAccMF op f x) = .ok (mk x) := by
  rcases x with ⟨a, tile⟩
  have h0 : (0#43 ++ BitVec.ofBool tile ++ 0#4 : BitVec 48) &&& 0xFFEF#48 = 0#48 :=
    (Laws.mask_append _ _ (Laws.mask_append _ _ (Laws.mask_zero _ _) (Laws.mask_none _ (by decide))) (Laws.mask_zero _ _))
  have h1 : (0#43 ++ BitVec.ofBool tile ++ 0#4 : BitVec 48).getLsbD 4 = tile :=
    ((Laws.bit_hi _ _ (by decide)).trans ((Laws.bit_lo _ _ (by decide)).trans (Laws.bit_ofBool tile)))
  simp only [decAccMF, encAccMF, Raw.bit, h0, h1]
  simp_all

/-- The layout VerF reads back what it writes. -/
theorem Laws.read_VerF (mk : VerF → Instr) (op : BitVec 7) (f : BitVec 6) (x : VerF) :
    decVerF mk (encVerF op f x) = .ok (mk x) := by
  rcases x with ⟨d, a, b, width⟩
  have h0 : (0#46 ++ width : BitVec 48) &&& 0xFFFC#48 = 0#48 :=
    (Laws.mask_append _ _ (Laws.mask_zero _ _) (Laws.mask_none _ (by decide)))
  have h1 : (0#46 ++ width : BitVec 48).extractLsb' 0 (1 - 0 + 1) = width :=
    ((Laws.field_lo _ _ (by decide)).trans BitVec.extractLsb'_eq_self)
  simp only [decVerF, encVerF, Raw.fld, h0, h1]
  simp_all

/-- The layout VVerF reads back what it writes. -/
theorem Laws.read_VVerF (tys : List Ty) (mk : VVerF → Instr) (op : BitVec 7) (f : BitVec 6) (x : VVerF) (ht : tys.contains x.ty = true) :
    decVVerF tys mk (encVVerF op f x) = .ok (mk x) := by
  rcases x with ⟨d, a, b, c, k, ty, hint⟩
  have h0 : (0#32 ++ tyCode ty ++ 0#3 ++ hint ++ c ++ 0#1 : BitVec 48) &&& 0x701#48 = 0#48 :=
    (Laws.mask_append _ _ (Laws.mask_append _ _ (Laws.mask_append _ _ (Laws.mask_append _ _ (Laws.mask_append _ _ (Laws.mask_zero _ _) (Laws.mask_none _ (by decide))) (Laws.mask_zero _ _)) (Laws.mask_none _ (by decide))) (Laws.mask_none _ (by decide))) (Laws.mask_zero _ _))
  have h1 : (0#32 ++ tyCode ty ++ 0#3 ++ hint ++ c ++ 0#1 : BitVec 48).extractLsb' 11 (15 - 11 + 1) = tyCode ty :=
    ((Laws.field_hi _ _ (by decide)).trans ((Laws.field_hi _ _ (by decide)).trans ((Laws.field_hi _ _ (by decide)).trans ((Laws.field_hi _ _ (by decide)).trans ((Laws.field_lo _ _ (by decide)).trans BitVec.extractLsb'_eq_self)))))
  have h2 : (0#32 ++ tyCode ty ++ 0#3 ++ hint ++ c ++ 0#1 : BitVec 48).extractLsb' 1 (5 - 1 + 1) = c :=
    ((Laws.field_hi _ _ (by decide)).trans ((Laws.field_lo _ _ (by decide)).trans BitVec.extractLsb'_eq_self))
  have h3 : (0#32 ++ tyCode ty ++ 0#3 ++ hint ++ c ++ 0#1 : BitVec 48).extractLsb' 6 (7 - 6 + 1) = hint :=
    ((Laws.field_hi _ _ (by decide)).trans ((Laws.field_hi _ _ (by decide)).trans ((Laws.field_lo _ _ (by decide)).trans BitVec.extractLsb'_eq_self)))
  simp only [decVVerF, encVVerF, Raw.fld, h0, h1, h2, h3, Laws.tyOf_tyCode]
  simp_all

/-- The layout KvappF reads back what it writes. -/
theorem Laws.read_KvappF (tys : List Ty) (mk : KvappF → Instr) (op : BitVec 7) (f : BitVec 6) (x : KvappF) (ht : tys.contains x.ty = true) :
    decKvappF tys mk (encKvappF op f x) = .ok (mk x) := by
  rcases x with ⟨d, a, b, ty, hint⟩
  have h0 : (0#32 ++ tyCode ty ++ 0#3 ++ hint ++ 0#6 : BitVec 48) &&& 0x73F#48 = 0#48 :=
    (Laws.mask_append _ _ (Laws.mask_append _ _ (Laws.mask_append _ _ (Laws.mask_append _ _ (Laws.mask_zero _ _) (Laws.mask_none _ (by decide))) (Laws.mask_zero _ _)) (Laws.mask_none _ (by decide))) (Laws.mask_zero _ _))
  have h1 : (0#32 ++ tyCode ty ++ 0#3 ++ hint ++ 0#6 : BitVec 48).extractLsb' 11 (15 - 11 + 1) = tyCode ty :=
    ((Laws.field_hi _ _ (by decide)).trans ((Laws.field_hi _ _ (by decide)).trans ((Laws.field_hi _ _ (by decide)).trans ((Laws.field_lo _ _ (by decide)).trans BitVec.extractLsb'_eq_self))))
  have h2 : (0#32 ++ tyCode ty ++ 0#3 ++ hint ++ 0#6 : BitVec 48).extractLsb' 6 (7 - 6 + 1) = hint :=
    ((Laws.field_hi _ _ (by decide)).trans ((Laws.field_lo _ _ (by decide)).trans BitVec.extractLsb'_eq_self))
  simp only [decKvappF, encKvappF, Raw.fld, h0, h1, h2, Laws.tyOf_tyCode]
  simp_all

/-- The layout KvmoveF reads back what it writes. -/
theorem Laws.read_KvmoveF (tys : List Ty) (mk : KvmoveF → Instr) (op : BitVec 7) (f : BitVec 6) (x : KvmoveF) (ht : tys.contains x.ty = true) :
    decKvmoveF tys mk (encKvmoveF op f x) = .ok (mk x) := by
  rcases x with ⟨a, c, k, ty, hint⟩
  have h0 : (0#32 ++ tyCode ty ++ 0#3 ++ hint ++ c ++ 0#1 : BitVec 48) &&& 0x701#48 = 0#48 :=
    (Laws.mask_append _ _ (Laws.mask_append _ _ (Laws.mask_append _ _ (Laws.mask_append _ _ (Laws.mask_append _ _ (Laws.mask_zero _ _) (Laws.mask_none _ (by decide))) (Laws.mask_zero _ _)) (Laws.mask_none _ (by decide))) (Laws.mask_none _ (by decide))) (Laws.mask_zero _ _))
  have h1 : (0#32 ++ tyCode ty ++ 0#3 ++ hint ++ c ++ 0#1 : BitVec 48).extractLsb' 11 (15 - 11 + 1) = tyCode ty :=
    ((Laws.field_hi _ _ (by decide)).trans ((Laws.field_hi _ _ (by decide)).trans ((Laws.field_hi _ _ (by decide)).trans ((Laws.field_hi _ _ (by decide)).trans ((Laws.field_lo _ _ (by decide)).trans BitVec.extractLsb'_eq_self)))))
  have h2 : (0#32 ++ tyCode ty ++ 0#3 ++ hint ++ c ++ 0#1 : BitVec 48).extractLsb' 1 (5 - 1 + 1) = c :=
    ((Laws.field_hi _ _ (by decide)).trans ((Laws.field_lo _ _ (by decide)).trans BitVec.extractLsb'_eq_self))
  have h3 : (0#32 ++ tyCode ty ++ 0#3 ++ hint ++ c ++ 0#1 : BitVec 48).extractLsb' 6 (7 - 6 + 1) = hint :=
    ((Laws.field_hi _ _ (by decide)).trans ((Laws.field_hi _ _ (by decide)).trans ((Laws.field_lo _ _ (by decide)).trans BitVec.extractLsb'_eq_self)))
  simp only [decKvmoveF, encKvmoveF, Raw.fld, h0, h1, h2, h3, Laws.tyOf_tyCode]
  simp_all

/-- The layout NaddF reads back what it writes. -/
theorem Laws.read_NaddF (tys : List Ty) (mk : NaddF → Instr) (op : BitVec 7) (f : BitVec 6) (x : NaddF) (ht : tys.contains x.ty = true) :
    decNaddF tys mk (encNaddF op f x) = .ok (mk x) := by
  rcases x with ⟨d, a, b, c, acq, rel, scope, ty⟩
  have h0 : (0#32 ++ BitVec.ofBool acq ++ BitVec.ofBool rel ++ scopeCode scope ++ tyCode ty ++ c ++ 0#1 : BitVec 48) &&& 0x1#48 = 0#48 :=
    (Laws.mask_append _ _ (Laws.mask_append _ _ (Laws.mask_append _ _ (Laws.mask_append _ _ (Laws.mask_append _ _ (Laws.mask_append _ _ (Laws.mask_zero _ _) (Laws.mask_none _ (by decide))) (Laws.mask_none _ (by decide))) (Laws.mask_none _ (by decide))) (Laws.mask_none _ (by decide))) (Laws.mask_none _ (by decide))) (Laws.mask_zero _ _))
  have h1 : (0#32 ++ BitVec.ofBool acq ++ BitVec.ofBool rel ++ scopeCode scope ++ tyCode ty ++ c ++ 0#1 : BitVec 48).extractLsb' 6 (10 - 6 + 1) = tyCode ty :=
    ((Laws.field_hi _ _ (by decide)).trans ((Laws.field_hi _ _ (by decide)).trans ((Laws.field_lo _ _ (by decide)).trans BitVec.extractLsb'_eq_self)))
  have h2 : (0#32 ++ BitVec.ofBool acq ++ BitVec.ofBool rel ++ scopeCode scope ++ tyCode ty ++ c ++ 0#1 : BitVec 48).extractLsb' 11 (13 - 11 + 1) = scopeCode scope :=
    ((Laws.field_hi _ _ (by decide)).trans ((Laws.field_hi _ _ (by decide)).trans ((Laws.field_hi _ _ (by decide)).trans ((Laws.field_lo _ _ (by decide)).trans BitVec.extractLsb'_eq_self))))
  have h3 : (0#32 ++ BitVec.ofBool acq ++ BitVec.ofBool rel ++ scopeCode scope ++ tyCode ty ++ c ++ 0#1 : BitVec 48).extractLsb' 1 (5 - 1 + 1) = c :=
    ((Laws.field_hi _ _ (by decide)).trans ((Laws.field_lo _ _ (by decide)).trans BitVec.extractLsb'_eq_self))
  have h4 : (0#32 ++ BitVec.ofBool acq ++ BitVec.ofBool rel ++ scopeCode scope ++ tyCode ty ++ c ++ 0#1 : BitVec 48).getLsbD 14 = rel :=
    ((Laws.bit_hi _ _ (by decide)).trans ((Laws.bit_hi _ _ (by decide)).trans ((Laws.bit_hi _ _ (by decide)).trans ((Laws.bit_hi _ _ (by decide)).trans ((Laws.bit_lo _ _ (by decide)).trans (Laws.bit_ofBool rel))))))
  have h5 : (0#32 ++ BitVec.ofBool acq ++ BitVec.ofBool rel ++ scopeCode scope ++ tyCode ty ++ c ++ 0#1 : BitVec 48).getLsbD 15 = acq :=
    ((Laws.bit_hi _ _ (by decide)).trans ((Laws.bit_hi _ _ (by decide)).trans ((Laws.bit_hi _ _ (by decide)).trans ((Laws.bit_hi _ _ (by decide)).trans ((Laws.bit_hi _ _ (by decide)).trans ((Laws.bit_lo _ _ (by decide)).trans (Laws.bit_ofBool acq)))))))
  simp only [decNaddF, encNaddF, Raw.fld, Raw.bit, h0, h1, h2, h3, h4, h5, Laws.tyOf_tyCode, Laws.scopeOf_scopeCode]
  simp_all

/-- The layout NcpyF reads back what it writes. -/
theorem Laws.read_NcpyF (tys : List Ty) (mk : NcpyF → Instr) (op : BitVec 7) (f : BitVec 6) (x : NcpyF) (ht : tys.contains x.ty = true) :
    decNcpyF tys mk (encNcpyF op f x) = .ok (mk x) := by
  rcases x with ⟨a, b, acq, rel, scope, ty, count⟩
  have h0 : (0#2 ++ BitVec.ofBool acq ++ BitVec.ofBool rel ++ scopeCode scope ++ tyCode ty ++ 0#4 ++ count : BitVec 48) &&& 0xC00F00000000#48 = 0#48 :=
    (Laws.mask_append _ _ (Laws.mask_append _ _ (Laws.mask_append _ _ (Laws.mask_append _ _ (Laws.mask_append _ _ (Laws.mask_append _ _ (Laws.mask_zero _ _) (Laws.mask_none _ (by decide))) (Laws.mask_none _ (by decide))) (Laws.mask_none _ (by decide))) (Laws.mask_none _ (by decide))) (Laws.mask_zero _ _)) (Laws.mask_none _ (by decide)))
  have h1 : (0#2 ++ BitVec.ofBool acq ++ BitVec.ofBool rel ++ scopeCode scope ++ tyCode ty ++ 0#4 ++ count : BitVec 48).extractLsb' 0 (31 - 0 + 1) = count :=
    ((Laws.field_lo _ _ (by decide)).trans BitVec.extractLsb'_eq_self)
  have h2 : (0#2 ++ BitVec.ofBool acq ++ BitVec.ofBool rel ++ scopeCode scope ++ tyCode ty ++ 0#4 ++ count : BitVec 48).extractLsb' 36 (40 - 36 + 1) = tyCode ty :=
    ((Laws.field_hi _ _ (by decide)).trans ((Laws.field_hi _ _ (by decide)).trans ((Laws.field_lo _ _ (by decide)).trans BitVec.extractLsb'_eq_self)))
  have h3 : (0#2 ++ BitVec.ofBool acq ++ BitVec.ofBool rel ++ scopeCode scope ++ tyCode ty ++ 0#4 ++ count : BitVec 48).extractLsb' 41 (43 - 41 + 1) = scopeCode scope :=
    ((Laws.field_hi _ _ (by decide)).trans ((Laws.field_hi _ _ (by decide)).trans ((Laws.field_hi _ _ (by decide)).trans ((Laws.field_lo _ _ (by decide)).trans BitVec.extractLsb'_eq_self))))
  have h4 : (0#2 ++ BitVec.ofBool acq ++ BitVec.ofBool rel ++ scopeCode scope ++ tyCode ty ++ 0#4 ++ count : BitVec 48).getLsbD 44 = rel :=
    ((Laws.bit_hi _ _ (by decide)).trans ((Laws.bit_hi _ _ (by decide)).trans ((Laws.bit_hi _ _ (by decide)).trans ((Laws.bit_hi _ _ (by decide)).trans ((Laws.bit_lo _ _ (by decide)).trans (Laws.bit_ofBool rel))))))
  have h5 : (0#2 ++ BitVec.ofBool acq ++ BitVec.ofBool rel ++ scopeCode scope ++ tyCode ty ++ 0#4 ++ count : BitVec 48).getLsbD 45 = acq :=
    ((Laws.bit_hi _ _ (by decide)).trans ((Laws.bit_hi _ _ (by decide)).trans ((Laws.bit_hi _ _ (by decide)).trans ((Laws.bit_hi _ _ (by decide)).trans ((Laws.bit_hi _ _ (by decide)).trans ((Laws.bit_lo _ _ (by decide)).trans (Laws.bit_ofBool acq)))))))
  simp only [decNcpyF, encNcpyF, Raw.fld, Raw.bit, h0, h1, h2, h3, h4, h5, Laws.tyOf_tyCode, Laws.scopeOf_scopeCode]
  simp_all

/-- The layout NzeroF reads back what it writes. -/
theorem Laws.read_NzeroF (tys : List Ty) (mk : NzeroF → Instr) (op : BitVec 7) (f : BitVec 6) (x : NzeroF) (ht : tys.contains x.ty = true) :
    decNzeroF tys mk (encNzeroF op f x) = .ok (mk x) := by
  rcases x with ⟨a, acq, rel, scope, ty, count⟩
  have h0 : (0#2 ++ BitVec.ofBool acq ++ BitVec.ofBool rel ++ scopeCode scope ++ tyCode ty ++ 0#4 ++ count : BitVec 48) &&& 0xC00F00000000#48 = 0#48 :=
    (Laws.mask_append _ _ (Laws.mask_append _ _ (Laws.mask_append _ _ (Laws.mask_append _ _ (Laws.mask_append _ _ (Laws.mask_append _ _ (Laws.mask_zero _ _) (Laws.mask_none _ (by decide))) (Laws.mask_none _ (by decide))) (Laws.mask_none _ (by decide))) (Laws.mask_none _ (by decide))) (Laws.mask_zero _ _)) (Laws.mask_none _ (by decide)))
  have h1 : (0#2 ++ BitVec.ofBool acq ++ BitVec.ofBool rel ++ scopeCode scope ++ tyCode ty ++ 0#4 ++ count : BitVec 48).extractLsb' 0 (31 - 0 + 1) = count :=
    ((Laws.field_lo _ _ (by decide)).trans BitVec.extractLsb'_eq_self)
  have h2 : (0#2 ++ BitVec.ofBool acq ++ BitVec.ofBool rel ++ scopeCode scope ++ tyCode ty ++ 0#4 ++ count : BitVec 48).extractLsb' 36 (40 - 36 + 1) = tyCode ty :=
    ((Laws.field_hi _ _ (by decide)).trans ((Laws.field_hi _ _ (by decide)).trans ((Laws.field_lo _ _ (by decide)).trans BitVec.extractLsb'_eq_self)))
  have h3 : (0#2 ++ BitVec.ofBool acq ++ BitVec.ofBool rel ++ scopeCode scope ++ tyCode ty ++ 0#4 ++ count : BitVec 48).extractLsb' 41 (43 - 41 + 1) = scopeCode scope :=
    ((Laws.field_hi _ _ (by decide)).trans ((Laws.field_hi _ _ (by decide)).trans ((Laws.field_hi _ _ (by decide)).trans ((Laws.field_lo _ _ (by decide)).trans BitVec.extractLsb'_eq_self))))
  have h4 : (0#2 ++ BitVec.ofBool acq ++ BitVec.ofBool rel ++ scopeCode scope ++ tyCode ty ++ 0#4 ++ count : BitVec 48).getLsbD 44 = rel :=
    ((Laws.bit_hi _ _ (by decide)).trans ((Laws.bit_hi _ _ (by decide)).trans ((Laws.bit_hi _ _ (by decide)).trans ((Laws.bit_hi _ _ (by decide)).trans ((Laws.bit_lo _ _ (by decide)).trans (Laws.bit_ofBool rel))))))
  have h5 : (0#2 ++ BitVec.ofBool acq ++ BitVec.ofBool rel ++ scopeCode scope ++ tyCode ty ++ 0#4 ++ count : BitVec 48).getLsbD 45 = acq :=
    ((Laws.bit_hi _ _ (by decide)).trans ((Laws.bit_hi _ _ (by decide)).trans ((Laws.bit_hi _ _ (by decide)).trans ((Laws.bit_hi _ _ (by decide)).trans ((Laws.bit_hi _ _ (by decide)).trans ((Laws.bit_lo _ _ (by decide)).trans (Laws.bit_ofBool acq)))))))
  simp only [decNzeroF, encNzeroF, Raw.fld, Raw.bit, h0, h1, h2, h3, h4, h5, Laws.tyOf_tyCode, Laws.scopeOf_scopeCode]
  simp_all

/-- The layout NgatherF reads back what it writes. -/
theorem Laws.read_NgatherF (tys : List Ty) (mk : NgatherF → Instr) (op : BitVec 7) (f : BitVec 6) (x : NgatherF) (ht : tys.contains x.ty = true) :
    decNgatherF tys mk (encNgatherF op f x) = .ok (mk x) := by
  rcases x with ⟨a, b, acq, rel, scope, ty, pat, count⟩
  have h0 : (0#2 ++ BitVec.ofBool acq ++ BitVec.ofBool rel ++ scopeCode scope ++ tyCode ty ++ pat ++ count : BitVec 48) &&& 0xC00000000000#48 = 0#48 :=
    (Laws.mask_append _ _ (Laws.mask_append _ _ (Laws.mask_append _ _ (Laws.mask_append _ _ (Laws.mask_append _ _ (Laws.mask_append _ _ (Laws.mask_zero _ _) (Laws.mask_none _ (by decide))) (Laws.mask_none _ (by decide))) (Laws.mask_none _ (by decide))) (Laws.mask_none _ (by decide))) (Laws.mask_none _ (by decide))) (Laws.mask_none _ (by decide)))
  have h1 : (0#2 ++ BitVec.ofBool acq ++ BitVec.ofBool rel ++ scopeCode scope ++ tyCode ty ++ pat ++ count : BitVec 48).extractLsb' 0 (31 - 0 + 1) = count :=
    ((Laws.field_lo _ _ (by decide)).trans BitVec.extractLsb'_eq_self)
  have h2 : (0#2 ++ BitVec.ofBool acq ++ BitVec.ofBool rel ++ scopeCode scope ++ tyCode ty ++ pat ++ count : BitVec 48).extractLsb' 32 (35 - 32 + 1) = pat :=
    ((Laws.field_hi _ _ (by decide)).trans ((Laws.field_lo _ _ (by decide)).trans BitVec.extractLsb'_eq_self))
  have h3 : (0#2 ++ BitVec.ofBool acq ++ BitVec.ofBool rel ++ scopeCode scope ++ tyCode ty ++ pat ++ count : BitVec 48).extractLsb' 36 (40 - 36 + 1) = tyCode ty :=
    ((Laws.field_hi _ _ (by decide)).trans ((Laws.field_hi _ _ (by decide)).trans ((Laws.field_lo _ _ (by decide)).trans BitVec.extractLsb'_eq_self)))
  have h4 : (0#2 ++ BitVec.ofBool acq ++ BitVec.ofBool rel ++ scopeCode scope ++ tyCode ty ++ pat ++ count : BitVec 48).extractLsb' 41 (43 - 41 + 1) = scopeCode scope :=
    ((Laws.field_hi _ _ (by decide)).trans ((Laws.field_hi _ _ (by decide)).trans ((Laws.field_hi _ _ (by decide)).trans ((Laws.field_lo _ _ (by decide)).trans BitVec.extractLsb'_eq_self))))
  have h5 : (0#2 ++ BitVec.ofBool acq ++ BitVec.ofBool rel ++ scopeCode scope ++ tyCode ty ++ pat ++ count : BitVec 48).getLsbD 44 = rel :=
    ((Laws.bit_hi _ _ (by decide)).trans ((Laws.bit_hi _ _ (by decide)).trans ((Laws.bit_hi _ _ (by decide)).trans ((Laws.bit_hi _ _ (by decide)).trans ((Laws.bit_lo _ _ (by decide)).trans (Laws.bit_ofBool rel))))))
  have h6 : (0#2 ++ BitVec.ofBool acq ++ BitVec.ofBool rel ++ scopeCode scope ++ tyCode ty ++ pat ++ count : BitVec 48).getLsbD 45 = acq :=
    ((Laws.bit_hi _ _ (by decide)).trans ((Laws.bit_hi _ _ (by decide)).trans ((Laws.bit_hi _ _ (by decide)).trans ((Laws.bit_hi _ _ (by decide)).trans ((Laws.bit_hi _ _ (by decide)).trans ((Laws.bit_lo _ _ (by decide)).trans (Laws.bit_ofBool acq)))))))
  simp only [decNgatherF, encNgatherF, Raw.fld, Raw.bit, h0, h1, h2, h3, h4, h5, h6, Laws.tyOf_tyCode, Laws.scopeOf_scopeCode]
  simp_all

/-- The layout NoptF reads back what it writes. -/
theorem Laws.read_NoptF (tys : List Ty) (mk : NoptF → Instr) (op : BitVec 7) (f : BitVec 6) (x : NoptF) (ht : tys.contains x.ty = true) :
    decNoptF tys mk (encNoptF op f x) = .ok (mk x) := by
  rcases x with ⟨d, a, b, acq, rel, scope, ty, count⟩
  have h0 : (0#2 ++ BitVec.ofBool acq ++ BitVec.ofBool rel ++ scopeCode scope ++ tyCode ty ++ 0#4 ++ count : BitVec 48) &&& 0xC00F00000000#48 = 0#48 :=
    (Laws.mask_append _ _ (Laws.mask_append _ _ (Laws.mask_append _ _ (Laws.mask_append _ _ (Laws.mask_append _ _ (Laws.mask_append _ _ (Laws.mask_zero _ _) (Laws.mask_none _ (by decide))) (Laws.mask_none _ (by decide))) (Laws.mask_none _ (by decide))) (Laws.mask_none _ (by decide))) (Laws.mask_zero _ _)) (Laws.mask_none _ (by decide)))
  have h1 : (0#2 ++ BitVec.ofBool acq ++ BitVec.ofBool rel ++ scopeCode scope ++ tyCode ty ++ 0#4 ++ count : BitVec 48).extractLsb' 0 (31 - 0 + 1) = count :=
    ((Laws.field_lo _ _ (by decide)).trans BitVec.extractLsb'_eq_self)
  have h2 : (0#2 ++ BitVec.ofBool acq ++ BitVec.ofBool rel ++ scopeCode scope ++ tyCode ty ++ 0#4 ++ count : BitVec 48).extractLsb' 36 (40 - 36 + 1) = tyCode ty :=
    ((Laws.field_hi _ _ (by decide)).trans ((Laws.field_hi _ _ (by decide)).trans ((Laws.field_lo _ _ (by decide)).trans BitVec.extractLsb'_eq_self)))
  have h3 : (0#2 ++ BitVec.ofBool acq ++ BitVec.ofBool rel ++ scopeCode scope ++ tyCode ty ++ 0#4 ++ count : BitVec 48).extractLsb' 41 (43 - 41 + 1) = scopeCode scope :=
    ((Laws.field_hi _ _ (by decide)).trans ((Laws.field_hi _ _ (by decide)).trans ((Laws.field_hi _ _ (by decide)).trans ((Laws.field_lo _ _ (by decide)).trans BitVec.extractLsb'_eq_self))))
  have h4 : (0#2 ++ BitVec.ofBool acq ++ BitVec.ofBool rel ++ scopeCode scope ++ tyCode ty ++ 0#4 ++ count : BitVec 48).getLsbD 44 = rel :=
    ((Laws.bit_hi _ _ (by decide)).trans ((Laws.bit_hi _ _ (by decide)).trans ((Laws.bit_hi _ _ (by decide)).trans ((Laws.bit_hi _ _ (by decide)).trans ((Laws.bit_lo _ _ (by decide)).trans (Laws.bit_ofBool rel))))))
  have h5 : (0#2 ++ BitVec.ofBool acq ++ BitVec.ofBool rel ++ scopeCode scope ++ tyCode ty ++ 0#4 ++ count : BitVec 48).getLsbD 45 = acq :=
    ((Laws.bit_hi _ _ (by decide)).trans ((Laws.bit_hi _ _ (by decide)).trans ((Laws.bit_hi _ _ (by decide)).trans ((Laws.bit_hi _ _ (by decide)).trans ((Laws.bit_hi _ _ (by decide)).trans ((Laws.bit_lo _ _ (by decide)).trans (Laws.bit_ofBool acq)))))))
  simp only [decNoptF, encNoptF, Raw.fld, Raw.bit, h0, h1, h2, h3, h4, h5, Laws.tyOf_tyCode, Laws.scopeOf_scopeCode]
  simp_all

end Sys2Proof
end

