-- ==== Sys2Proof/Laws/State.lean ====
section
/-! SUPPORT. What an update of a state or of a core leaves: one lemma for each field. -/
namespace Sys2Proof.Machine

open Sys2Proof

/-! ## Lists -/

/-- Changing an entry keeps the length. -/
@[simp] theorem modifyNth_length (f : α → α) (n : Nat) (l : List α) : (modifyNth f n l).length = l.length := by
  induction l generalizing n with
  | nil => simp [modifyNth]
  | cons a r ih => cases n <;> simp [modifyNth, ih]

/-- The changed entry. -/
theorem modifyNth_getD_self (f : α → α) (n : Nat) (l : List α) (d : α) (h : n < l.length) :
    (modifyNth f n l).getD n d = f (l.getD n d) := by
  induction l generalizing n with
  | nil => simp at h
  | cons a r ih =>
    cases n with
    | zero => rfl
    | succ n => simpa [modifyNth] using ih n (by simpa using h)

/-- Another entry. -/
theorem modifyNth_getD_ne (f : α → α) (n m : Nat) (l : List α) (d : α) (h : n ≠ m) :
    (modifyNth f n l).getD m d = l.getD m d := by
  induction l generalizing n m with
  | nil => simp [modifyNth]
  | cons a r ih =>
    cases n with
    | zero => cases m with
      | zero => exact absurd rfl h
      | succ m => rfl
    | succ n => cases m with
      | zero => rfl
      | succ m => simpa [modifyNth] using ih n m (by omega)

/-- Two changes of one entry are one. -/
theorem modifyNth_modifyNth (f g : α → α) (n : Nat) (l : List α) :
    modifyNth g n (modifyNth f n l) = modifyNth (fun a => g (f a)) n l := by
  induction l generalizing n with
  | nil => simp [modifyNth]
  | cons a r ih => cases n <;> simp [modifyNth, ih]

/-! ## The state -/

/-- The changed core. -/
theorem core_updCore_self (s : State) (c : Nat) (f : Core → Core) (h : c < s.cores.length) :
    (s.updCore c f).core c = f (s.core c) := modifyNth_getD_self f c s.cores Core.reset h

/-- Another core. -/
theorem core_updCore_ne (s : State) (c d : Nat) (f : Core → Core) (h : c ≠ d) : (s.updCore c f).core d = s.core d :=
  modifyNth_getD_ne f c d s.cores Core.reset h

/-- The executing core after a change of it. -/
theorem me_updMe (s : State) (f : Core → Core) (h : s.cur < s.cores.length) : (s.updMe f).me = f s.me :=
  core_updCore_self s s.cur f h

/-- Two changes of a core are one. -/
theorem updCore_updCore (s : State) (c : Nat) (f g : Core → Core) :
    (s.updCore c f).updCore c g = s.updCore c fun k => g (f k) := by
  simp only [State.updCore, modifyNth_modifyNth]

/-- Two changes of the executing core are one. -/
@[simp] theorem updMe_updMe (s : State) (f g : Core → Core) : (s.updMe f).updMe g = s.updMe fun k => g (f k) :=
  updCore_updCore s s.cur f g

/-- The changed die. -/
theorem die_updDie_self (s : State) (d : Nat) (f : Die → Die) (h : d < s.dies.length) : (s.updDie d f).die d = f (s.die d) :=
  modifyNth_getD_self f d s.dies Die.reset h

/-- Another die. -/
theorem die_updDie_ne (s : State) (d e : Nat) (f : Die → Die) (h : d ≠ e) : (s.updDie d f).die e = s.die e :=
  modifyNth_getD_ne f d e s.dies Die.reset h

/-- The changed matrix engine. -/
theorem mxe_updMxe_self (s : State) (m : Nat) (f : Mxe → Mxe) (h : m < s.mxes.length) : (s.updMxe m f).mxe m = f (s.mxe m) :=
  modifyNth_getD_self f m s.mxes Mxe.reset h

/-- The changed crust. -/
theorem crust_updCrust_self (s : State) (k : Nat) (f : Crust → Crust) (h : k < s.crusts.length) :
    (s.updCrust k f).crust k = f (s.crust k) := modifyNth_getD_self f k s.crusts Crust.reset h

/-- A change of a core keeps the number of cores. -/
@[simp] theorem updCore_cores_length (s : State) (c : Nat) (f : Core → Core) : (s.updCore c f).cores.length = s.cores.length :=
  modifyNth_length f c s.cores

/-- A change of the executing core keeps the number of cores. -/
@[simp] theorem updMe_cores_length (s : State) (f : Core → Core) : (s.updMe f).cores.length = s.cores.length :=
  modifyNth_length f s.cur s.cores

/-- A change of a die keeps the number of dies. -/
@[simp] theorem updDie_dies_length (s : State) (d : Nat) (f : Die → Die) : (s.updDie d f).dies.length = s.dies.length :=
  modifyNth_length f d s.dies

/-- Bytes written keep every field but the memory. -/
theorem setBytes_eq (s : State) (loc : Nat) (bs : List Byte) : s.setBytes loc bs = { s with mem := (s.setBytes loc bs).mem } := by
  induction bs generalizing s loc with
  | nil => rfl
  | cons v r ih =>
    simp only [State.setBytes]
    rw [ih]
    rfl


/-! ## State.updCore -/

@[simp] theorem updCore_dies (s : State) (c : Nat) (f : Core → Core) : (s.updCore c f).dies = s.dies := rfl
@[simp] theorem updCore_mxes (s : State) (c : Nat) (f : Core → Core) : (s.updCore c f).mxes = s.mxes := rfl
@[simp] theorem updCore_crusts (s : State) (c : Nat) (f : Core → Core) : (s.updCore c f).crusts = s.crusts := rfl
@[simp] theorem updCore_mem (s : State) (c : Nat) (f : Core → Core) : (s.updCore c f).mem = s.mem := rfl
@[simp] theorem updCore_stamps (s : State) (c : Nat) (f : Core → Core) : (s.updCore c f).stamps = s.stamps := rfl
@[simp] theorem updCore_writes (s : State) (c : Nat) (f : Core → Core) : (s.updCore c f).writes = s.writes := rfl
@[simp] theorem updCore_inflight (s : State) (c : Nat) (f : Core → Core) : (s.updCore c f).inflight = s.inflight := rfl
@[simp] theorem updCore_fills (s : State) (c : Nat) (f : Core → Core) : (s.updCore c f).fills = s.fills := rfl
@[simp] theorem updCore_l1 (s : State) (c : Nat) (f : Core → Core) : (s.updCore c f).l1 = s.l1 := rfl
@[simp] theorem updCore_badLines (s : State) (c : Nat) (f : Core → Core) : (s.updCore c f).badLines = s.badLines := rfl
@[simp] theorem updCore_badCounters (s : State) (c : Nat) (f : Core → Core) : (s.updCore c f).badCounters = s.badCounters := rfl
@[simp] theorem updCore_sealTags (s : State) (c : Nat) (f : Core → Core) : (s.updCore c f).sealTags = s.sealTags := rfl
@[simp] theorem updCore_counters (s : State) (c : Nat) (f : Core → Core) : (s.updCore c f).counters = s.counters := rfl
@[simp] theorem updCore_dirty (s : State) (c : Nat) (f : Core → Core) : (s.updCore c f).dirty = s.dirty := rfl
@[simp] theorem updCore_vague (s : State) (c : Nat) (f : Core → Core) : (s.updCore c f).vague = s.vague := rfl
@[simp] theorem updCore_verOwned (s : State) (c : Nat) (f : Core → Core) : (s.updCore c f).verOwned = s.verOwned := rfl
@[simp] theorem updCore_verTaint (s : State) (c : Nat) (f : Core → Core) : (s.updCore c f).verTaint = s.verTaint := rfl
@[simp] theorem updCore_keys (s : State) (c : Nat) (f : Core → Core) : (s.updCore c f).keys = s.keys := rfl
@[simp] theorem updCore_keyGen (s : State) (c : Nat) (f : Core → Core) : (s.updCore c f).keyGen = s.keyGen := rfl
@[simp] theorem updCore_carveC (s : State) (c : Nat) (f : Core → Core) : (s.updCore c f).carveC = s.carveC := rfl
@[simp] theorem updCore_sealG (s : State) (c : Nat) (f : Core → Core) : (s.updCore c f).sealG = s.sealG := rfl
@[simp] theorem updCore_sbase (s : State) (c : Nat) (f : Core → Core) : (s.updCore c f).sbase = s.sbase := rfl
@[simp] theorem updCore_devNo (s : State) (c : Nat) (f : Core → Core) : (s.updCore c f).devNo = s.devNo := rfl
@[simp] theorem updCore_stage (s : State) (c : Nat) (f : Core → Core) : (s.updCore c f).stage = s.stage := rfl
@[simp] theorem updCore_life (s : State) (c : Nat) (f : Core → Core) : (s.updCore c f).life = s.life := rfl
@[simp] theorem updCore_firmware (s : State) (c : Nat) (f : Core → Core) : (s.updCore c f).firmware = s.firmware := rfl
@[simp] theorem updCore_locked (s : State) (c : Nat) (f : Core → Core) : (s.updCore c f).locked = s.locked := rfl
@[simp] theorem updCore_everLocked (s : State) (c : Nat) (f : Core → Core) : (s.updCore c f).everLocked = s.everLocked := rfl
@[simp] theorem updCore_lastPtm (s : State) (c : Nat) (f : Core → Core) : (s.updCore c f).lastPtm = s.lastPtm := rfl
@[simp] theorem updCore_cap (s : State) (c : Nat) (f : Core → Core) : (s.updCore c f).cap = s.cap := rfl
@[simp] theorem updCore_clockK (s : State) (c : Nat) (f : Core → Core) : (s.updCore c f).clockK = s.clockK := rfl
@[simp] theorem updCore_shares (s : State) (c : Nat) (f : Core → Core) : (s.updCore c f).shares = s.shares := rfl
@[simp] theorem updCore_queueNotes (s : State) (c : Nat) (f : Core → Core) : (s.updCore c f).queueNotes = s.queueNotes := rfl
@[simp] theorem updCore_lastQueue (s : State) (c : Nat) (f : Core → Core) : (s.updCore c f).lastQueue = s.lastQueue := rfl
@[simp] theorem updCore_groups (s : State) (c : Nat) (f : Core → Core) : (s.updCore c f).groups = s.groups := rfl
@[simp] theorem updCore_rounds (s : State) (c : Nat) (f : Core → Core) : (s.updCore c f).rounds = s.rounds := rfl
@[simp] theorem updCore_doneRounds (s : State) (c : Nat) (f : Core → Core) : (s.updCore c f).doneRounds = s.doneRounds := rfl
@[simp] theorem updCore_fabric (s : State) (c : Nat) (f : Core → Core) : (s.updCore c f).fabric = s.fabric := rfl
@[simp] theorem updCore_taskCtr (s : State) (c : Nat) (f : Core → Core) : (s.updCore c f).taskCtr = s.taskCtr := rfl
@[simp] theorem updCore_joinCks (s : State) (c : Nat) (f : Core → Core) : (s.updCore c f).joinCks = s.joinCks := rfl
@[simp] theorem updCore_notes (s : State) (c : Nat) (f : Core → Core) : (s.updCore c f).notes = s.notes := rfl
@[simp] theorem updCore_images (s : State) (c : Nat) (f : Core → Core) : (s.updCore c f).images = s.images := rfl
@[simp] theorem updCore_parked (s : State) (c : Nat) (f : Core → Core) : (s.updCore c f).parked = s.parked := rfl
@[simp] theorem updCore_cycle (s : State) (c : Nat) (f : Core → Core) : (s.updCore c f).cycle = s.cycle := rfl
@[simp] theorem updCore_dtime (s : State) (c : Nat) (f : Core → Core) : (s.updCore c f).dtime = s.dtime := rfl
@[simp] theorem updCore_slew (s : State) (c : Nat) (f : Core → Core) : (s.updCore c f).slew = s.slew := rfl
@[simp] theorem updCore_slewAcc (s : State) (c : Nat) (f : Core → Core) : (s.updCore c f).slewAcc = s.slewAcc := rfl
@[simp] theorem updCore_cur (s : State) (c : Nat) (f : Core → Core) : (s.updCore c f).cur = s.cur := rfl
@[simp] theorem updCore_tape (s : State) (c : Nat) (f : Core → Core) : (s.updCore c f).tape = s.tape := rfl
@[simp] theorem updCore_freeCtr (s : State) (c : Nat) (f : Core → Core) : (s.updCore c f).freeCtr = s.freeCtr := rfl
@[simp] theorem updCore_dCycles (s : State) (c : Nat) (f : Core → Core) : (s.updCore c f).dCycles = s.dCycles := rfl
@[simp] theorem updCore_dNs (s : State) (c : Nat) (f : Core → Core) : (s.updCore c f).dNs = s.dNs := rfl
@[simp] theorem updCore_eager (s : State) (c : Nat) (f : Core → Core) : (s.updCore c f).eager = s.eager := rfl

/-! ## State.updMe -/

@[simp] theorem updMe_dies (s : State) (f : Core → Core) : (s.updMe f).dies = s.dies := rfl
@[simp] theorem updMe_mxes (s : State) (f : Core → Core) : (s.updMe f).mxes = s.mxes := rfl
@[simp] theorem updMe_crusts (s : State) (f : Core → Core) : (s.updMe f).crusts = s.crusts := rfl
@[simp] theorem updMe_mem (s : State) (f : Core → Core) : (s.updMe f).mem = s.mem := rfl
@[simp] theorem updMe_stamps (s : State) (f : Core → Core) : (s.updMe f).stamps = s.stamps := rfl
@[simp] theorem updMe_writes (s : State) (f : Core → Core) : (s.updMe f).writes = s.writes := rfl
@[simp] theorem updMe_inflight (s : State) (f : Core → Core) : (s.updMe f).inflight = s.inflight := rfl
@[simp] theorem updMe_fills (s : State) (f : Core → Core) : (s.updMe f).fills = s.fills := rfl
@[simp] theorem updMe_l1 (s : State) (f : Core → Core) : (s.updMe f).l1 = s.l1 := rfl
@[simp] theorem updMe_badLines (s : State) (f : Core → Core) : (s.updMe f).badLines = s.badLines := rfl
@[simp] theorem updMe_badCounters (s : State) (f : Core → Core) : (s.updMe f).badCounters = s.badCounters := rfl
@[simp] theorem updMe_sealTags (s : State) (f : Core → Core) : (s.updMe f).sealTags = s.sealTags := rfl
@[simp] theorem updMe_counters (s : State) (f : Core → Core) : (s.updMe f).counters = s.counters := rfl
@[simp] theorem updMe_dirty (s : State) (f : Core → Core) : (s.updMe f).dirty = s.dirty := rfl
@[simp] theorem updMe_vague (s : State) (f : Core → Core) : (s.updMe f).vague = s.vague := rfl
@[simp] theorem updMe_verOwned (s : State) (f : Core → Core) : (s.updMe f).verOwned = s.verOwned := rfl
@[simp] theorem updMe_verTaint (s : State) (f : Core → Core) : (s.updMe f).verTaint = s.verTaint := rfl
@[simp] theorem updMe_keys (s : State) (f : Core → Core) : (s.updMe f).keys = s.keys := rfl
@[simp] theorem updMe_keyGen (s : State) (f : Core → Core) : (s.updMe f).keyGen = s.keyGen := rfl
@[simp] theorem updMe_carveC (s : State) (f : Core → Core) : (s.updMe f).carveC = s.carveC := rfl
@[simp] theorem updMe_sealG (s : State) (f : Core → Core) : (s.updMe f).sealG = s.sealG := rfl
@[simp] theorem updMe_sbase (s : State) (f : Core → Core) : (s.updMe f).sbase = s.sbase := rfl
@[simp] theorem updMe_devNo (s : State) (f : Core → Core) : (s.updMe f).devNo = s.devNo := rfl
@[simp] theorem updMe_stage (s : State) (f : Core → Core) : (s.updMe f).stage = s.stage := rfl
@[simp] theorem updMe_life (s : State) (f : Core → Core) : (s.updMe f).life = s.life := rfl
@[simp] theorem updMe_firmware (s : State) (f : Core → Core) : (s.updMe f).firmware = s.firmware := rfl
@[simp] theorem updMe_locked (s : State) (f : Core → Core) : (s.updMe f).locked = s.locked := rfl
@[simp] theorem updMe_everLocked (s : State) (f : Core → Core) : (s.updMe f).everLocked = s.everLocked := rfl
@[simp] theorem updMe_lastPtm (s : State) (f : Core → Core) : (s.updMe f).lastPtm = s.lastPtm := rfl
@[simp] theorem updMe_cap (s : State) (f : Core → Core) : (s.updMe f).cap = s.cap := rfl
@[simp] theorem updMe_clockK (s : State) (f : Core → Core) : (s.updMe f).clockK = s.clockK := rfl
@[simp] theorem updMe_shares (s : State) (f : Core → Core) : (s.updMe f).shares = s.shares := rfl
@[simp] theorem updMe_queueNotes (s : State) (f : Core → Core) : (s.updMe f).queueNotes = s.queueNotes := rfl
@[simp] theorem updMe_lastQueue (s : State) (f : Core → Core) : (s.updMe f).lastQueue = s.lastQueue := rfl
@[simp] theorem updMe_groups (s : State) (f : Core → Core) : (s.updMe f).groups = s.groups := rfl
@[simp] theorem updMe_rounds (s : State) (f : Core → Core) : (s.updMe f).rounds = s.rounds := rfl
@[simp] theorem updMe_doneRounds (s : State) (f : Core → Core) : (s.updMe f).doneRounds = s.doneRounds := rfl
@[simp] theorem updMe_fabric (s : State) (f : Core → Core) : (s.updMe f).fabric = s.fabric := rfl
@[simp] theorem updMe_taskCtr (s : State) (f : Core → Core) : (s.updMe f).taskCtr = s.taskCtr := rfl
@[simp] theorem updMe_joinCks (s : State) (f : Core → Core) : (s.updMe f).joinCks = s.joinCks := rfl
@[simp] theorem updMe_notes (s : State) (f : Core → Core) : (s.updMe f).notes = s.notes := rfl
@[simp] theorem updMe_images (s : State) (f : Core → Core) : (s.updMe f).images = s.images := rfl
@[simp] theorem updMe_parked (s : State) (f : Core → Core) : (s.updMe f).parked = s.parked := rfl
@[simp] theorem updMe_cycle (s : State) (f : Core → Core) : (s.updMe f).cycle = s.cycle := rfl
@[simp] theorem updMe_dtime (s : State) (f : Core → Core) : (s.updMe f).dtime = s.dtime := rfl
@[simp] theorem updMe_slew (s : State) (f : Core → Core) : (s.updMe f).slew = s.slew := rfl
@[simp] theorem updMe_slewAcc (s : State) (f : Core → Core) : (s.updMe f).slewAcc = s.slewAcc := rfl
@[simp] theorem updMe_cur (s : State) (f : Core → Core) : (s.updMe f).cur = s.cur := rfl
@[simp] theorem updMe_tape (s : State) (f : Core → Core) : (s.updMe f).tape = s.tape := rfl
@[simp] theorem updMe_freeCtr (s : State) (f : Core → Core) : (s.updMe f).freeCtr = s.freeCtr := rfl
@[simp] theorem updMe_dCycles (s : State) (f : Core → Core) : (s.updMe f).dCycles = s.dCycles := rfl
@[simp] theorem updMe_dNs (s : State) (f : Core → Core) : (s.updMe f).dNs = s.dNs := rfl
@[simp] theorem updMe_eager (s : State) (f : Core → Core) : (s.updMe f).eager = s.eager := rfl

/-! ## State.updDie -/

@[simp] theorem updDie_cores (s : State) (d : Nat) (f : Die → Die) : (s.updDie d f).cores = s.cores := rfl
@[simp] theorem updDie_mxes (s : State) (d : Nat) (f : Die → Die) : (s.updDie d f).mxes = s.mxes := rfl
@[simp] theorem updDie_crusts (s : State) (d : Nat) (f : Die → Die) : (s.updDie d f).crusts = s.crusts := rfl
@[simp] theorem updDie_mem (s : State) (d : Nat) (f : Die → Die) : (s.updDie d f).mem = s.mem := rfl
@[simp] theorem updDie_stamps (s : State) (d : Nat) (f : Die → Die) : (s.updDie d f).stamps = s.stamps := rfl
@[simp] theorem updDie_writes (s : State) (d : Nat) (f : Die → Die) : (s.updDie d f).writes = s.writes := rfl
@[simp] theorem updDie_inflight (s : State) (d : Nat) (f : Die → Die) : (s.updDie d f).inflight = s.inflight := rfl
@[simp] theorem updDie_fills (s : State) (d : Nat) (f : Die → Die) : (s.updDie d f).fills = s.fills := rfl
@[simp] theorem updDie_l1 (s : State) (d : Nat) (f : Die → Die) : (s.updDie d f).l1 = s.l1 := rfl
@[simp] theorem updDie_badLines (s : State) (d : Nat) (f : Die → Die) : (s.updDie d f).badLines = s.badLines := rfl
@[simp] theorem updDie_badCounters (s : State) (d : Nat) (f : Die → Die) : (s.updDie d f).badCounters = s.badCounters := rfl
@[simp] theorem updDie_sealTags (s : State) (d : Nat) (f : Die → Die) : (s.updDie d f).sealTags = s.sealTags := rfl
@[simp] theorem updDie_counters (s : State) (d : Nat) (f : Die → Die) : (s.updDie d f).counters = s.counters := rfl
@[simp] theorem updDie_dirty (s : State) (d : Nat) (f : Die → Die) : (s.updDie d f).dirty = s.dirty := rfl
@[simp] theorem updDie_vague (s : State) (d : Nat) (f : Die → Die) : (s.updDie d f).vague = s.vague := rfl
@[simp] theorem updDie_verOwned (s : State) (d : Nat) (f : Die → Die) : (s.updDie d f).verOwned = s.verOwned := rfl
@[simp] theorem updDie_verTaint (s : State) (d : Nat) (f : Die → Die) : (s.updDie d f).verTaint = s.verTaint := rfl
@[simp] theorem updDie_keys (s : State) (d : Nat) (f : Die → Die) : (s.updDie d f).keys = s.keys := rfl
@[simp] theorem updDie_keyGen (s : State) (d : Nat) (f : Die → Die) : (s.updDie d f).keyGen = s.keyGen := rfl
@[simp] theorem updDie_carveC (s : State) (d : Nat) (f : Die → Die) : (s.updDie d f).carveC = s.carveC := rfl
@[simp] theorem updDie_sealG (s : State) (d : Nat) (f : Die → Die) : (s.updDie d f).sealG = s.sealG := rfl
@[simp] theorem updDie_sbase (s : State) (d : Nat) (f : Die → Die) : (s.updDie d f).sbase = s.sbase := rfl
@[simp] theorem updDie_devNo (s : State) (d : Nat) (f : Die → Die) : (s.updDie d f).devNo = s.devNo := rfl
@[simp] theorem updDie_stage (s : State) (d : Nat) (f : Die → Die) : (s.updDie d f).stage = s.stage := rfl
@[simp] theorem updDie_life (s : State) (d : Nat) (f : Die → Die) : (s.updDie d f).life = s.life := rfl
@[simp] theorem updDie_firmware (s : State) (d : Nat) (f : Die → Die) : (s.updDie d f).firmware = s.firmware := rfl
@[simp] theorem updDie_locked (s : State) (d : Nat) (f : Die → Die) : (s.updDie d f).locked = s.locked := rfl
@[simp] theorem updDie_everLocked (s : State) (d : Nat) (f : Die → Die) : (s.updDie d f).everLocked = s.everLocked := rfl
@[simp] theorem updDie_lastPtm (s : State) (d : Nat) (f : Die → Die) : (s.updDie d f).lastPtm = s.lastPtm := rfl
@[simp] theorem updDie_cap (s : State) (d : Nat) (f : Die → Die) : (s.updDie d f).cap = s.cap := rfl
@[simp] theorem updDie_clockK (s : State) (d : Nat) (f : Die → Die) : (s.updDie d f).clockK = s.clockK := rfl
@[simp] theorem updDie_shares (s : State) (d : Nat) (f : Die → Die) : (s.updDie d f).shares = s.shares := rfl
@[simp] theorem updDie_queueNotes (s : State) (d : Nat) (f : Die → Die) : (s.updDie d f).queueNotes = s.queueNotes := rfl
@[simp] theorem updDie_lastQueue (s : State) (d : Nat) (f : Die → Die) : (s.updDie d f).lastQueue = s.lastQueue := rfl
@[simp] theorem updDie_groups (s : State) (d : Nat) (f : Die → Die) : (s.updDie d f).groups = s.groups := rfl
@[simp] theorem updDie_rounds (s : State) (d : Nat) (f : Die → Die) : (s.updDie d f).rounds = s.rounds := rfl
@[simp] theorem updDie_doneRounds (s : State) (d : Nat) (f : Die → Die) : (s.updDie d f).doneRounds = s.doneRounds := rfl
@[simp] theorem updDie_fabric (s : State) (d : Nat) (f : Die → Die) : (s.updDie d f).fabric = s.fabric := rfl
@[simp] theorem updDie_taskCtr (s : State) (d : Nat) (f : Die → Die) : (s.updDie d f).taskCtr = s.taskCtr := rfl
@[simp] theorem updDie_joinCks (s : State) (d : Nat) (f : Die → Die) : (s.updDie d f).joinCks = s.joinCks := rfl
@[simp] theorem updDie_notes (s : State) (d : Nat) (f : Die → Die) : (s.updDie d f).notes = s.notes := rfl
@[simp] theorem updDie_images (s : State) (d : Nat) (f : Die → Die) : (s.updDie d f).images = s.images := rfl
@[simp] theorem updDie_parked (s : State) (d : Nat) (f : Die → Die) : (s.updDie d f).parked = s.parked := rfl
@[simp] theorem updDie_cycle (s : State) (d : Nat) (f : Die → Die) : (s.updDie d f).cycle = s.cycle := rfl
@[simp] theorem updDie_dtime (s : State) (d : Nat) (f : Die → Die) : (s.updDie d f).dtime = s.dtime := rfl
@[simp] theorem updDie_slew (s : State) (d : Nat) (f : Die → Die) : (s.updDie d f).slew = s.slew := rfl
@[simp] theorem updDie_slewAcc (s : State) (d : Nat) (f : Die → Die) : (s.updDie d f).slewAcc = s.slewAcc := rfl
@[simp] theorem updDie_cur (s : State) (d : Nat) (f : Die → Die) : (s.updDie d f).cur = s.cur := rfl
@[simp] theorem updDie_tape (s : State) (d : Nat) (f : Die → Die) : (s.updDie d f).tape = s.tape := rfl
@[simp] theorem updDie_freeCtr (s : State) (d : Nat) (f : Die → Die) : (s.updDie d f).freeCtr = s.freeCtr := rfl
@[simp] theorem updDie_dCycles (s : State) (d : Nat) (f : Die → Die) : (s.updDie d f).dCycles = s.dCycles := rfl
@[simp] theorem updDie_dNs (s : State) (d : Nat) (f : Die → Die) : (s.updDie d f).dNs = s.dNs := rfl
@[simp] theorem updDie_eager (s : State) (d : Nat) (f : Die → Die) : (s.updDie d f).eager = s.eager := rfl

/-! ## State.updMxe -/

@[simp] theorem updMxe_cores (s : State) (m : Nat) (f : Mxe → Mxe) : (s.updMxe m f).cores = s.cores := rfl
@[simp] theorem updMxe_dies (s : State) (m : Nat) (f : Mxe → Mxe) : (s.updMxe m f).dies = s.dies := rfl
@[simp] theorem updMxe_crusts (s : State) (m : Nat) (f : Mxe → Mxe) : (s.updMxe m f).crusts = s.crusts := rfl
@[simp] theorem updMxe_mem (s : State) (m : Nat) (f : Mxe → Mxe) : (s.updMxe m f).mem = s.mem := rfl
@[simp] theorem updMxe_stamps (s : State) (m : Nat) (f : Mxe → Mxe) : (s.updMxe m f).stamps = s.stamps := rfl
@[simp] theorem updMxe_writes (s : State) (m : Nat) (f : Mxe → Mxe) : (s.updMxe m f).writes = s.writes := rfl
@[simp] theorem updMxe_inflight (s : State) (m : Nat) (f : Mxe → Mxe) : (s.updMxe m f).inflight = s.inflight := rfl
@[simp] theorem updMxe_fills (s : State) (m : Nat) (f : Mxe → Mxe) : (s.updMxe m f).fills = s.fills := rfl
@[simp] theorem updMxe_l1 (s : State) (m : Nat) (f : Mxe → Mxe) : (s.updMxe m f).l1 = s.l1 := rfl
@[simp] theorem updMxe_badLines (s : State) (m : Nat) (f : Mxe → Mxe) : (s.updMxe m f).badLines = s.badLines := rfl
@[simp] theorem updMxe_badCounters (s : State) (m : Nat) (f : Mxe → Mxe) : (s.updMxe m f).badCounters = s.badCounters := rfl
@[simp] theorem updMxe_sealTags (s : State) (m : Nat) (f : Mxe → Mxe) : (s.updMxe m f).sealTags = s.sealTags := rfl
@[simp] theorem updMxe_counters (s : State) (m : Nat) (f : Mxe → Mxe) : (s.updMxe m f).counters = s.counters := rfl
@[simp] theorem updMxe_dirty (s : State) (m : Nat) (f : Mxe → Mxe) : (s.updMxe m f).dirty = s.dirty := rfl
@[simp] theorem updMxe_vague (s : State) (m : Nat) (f : Mxe → Mxe) : (s.updMxe m f).vague = s.vague := rfl
@[simp] theorem updMxe_verOwned (s : State) (m : Nat) (f : Mxe → Mxe) : (s.updMxe m f).verOwned = s.verOwned := rfl
@[simp] theorem updMxe_verTaint (s : State) (m : Nat) (f : Mxe → Mxe) : (s.updMxe m f).verTaint = s.verTaint := rfl
@[simp] theorem updMxe_keys (s : State) (m : Nat) (f : Mxe → Mxe) : (s.updMxe m f).keys = s.keys := rfl
@[simp] theorem updMxe_keyGen (s : State) (m : Nat) (f : Mxe → Mxe) : (s.updMxe m f).keyGen = s.keyGen := rfl
@[simp] theorem updMxe_carveC (s : State) (m : Nat) (f : Mxe → Mxe) : (s.updMxe m f).carveC = s.carveC := rfl
@[simp] theorem updMxe_sealG (s : State) (m : Nat) (f : Mxe → Mxe) : (s.updMxe m f).sealG = s.sealG := rfl
@[simp] theorem updMxe_sbase (s : State) (m : Nat) (f : Mxe → Mxe) : (s.updMxe m f).sbase = s.sbase := rfl
@[simp] theorem updMxe_devNo (s : State) (m : Nat) (f : Mxe → Mxe) : (s.updMxe m f).devNo = s.devNo := rfl
@[simp] theorem updMxe_stage (s : State) (m : Nat) (f : Mxe → Mxe) : (s.updMxe m f).stage = s.stage := rfl
@[simp] theorem updMxe_life (s : State) (m : Nat) (f : Mxe → Mxe) : (s.updMxe m f).life = s.life := rfl
@[simp] theorem updMxe_firmware (s : State) (m : Nat) (f : Mxe → Mxe) : (s.updMxe m f).firmware = s.firmware := rfl
@[simp] theorem updMxe_locked (s : State) (m : Nat) (f : Mxe → Mxe) : (s.updMxe m f).locked = s.locked := rfl
@[simp] theorem updMxe_everLocked (s : State) (m : Nat) (f : Mxe → Mxe) : (s.updMxe m f).everLocked = s.everLocked := rfl
@[simp] theorem updMxe_lastPtm (s : State) (m : Nat) (f : Mxe → Mxe) : (s.updMxe m f).lastPtm = s.lastPtm := rfl
@[simp] theorem updMxe_cap (s : State) (m : Nat) (f : Mxe → Mxe) : (s.updMxe m f).cap = s.cap := rfl
@[simp] theorem updMxe_clockK (s : State) (m : Nat) (f : Mxe → Mxe) : (s.updMxe m f).clockK = s.clockK := rfl
@[simp] theorem updMxe_shares (s : State) (m : Nat) (f : Mxe → Mxe) : (s.updMxe m f).shares = s.shares := rfl
@[simp] theorem updMxe_queueNotes (s : State) (m : Nat) (f : Mxe → Mxe) : (s.updMxe m f).queueNotes = s.queueNotes := rfl
@[simp] theorem updMxe_lastQueue (s : State) (m : Nat) (f : Mxe → Mxe) : (s.updMxe m f).lastQueue = s.lastQueue := rfl
@[simp] theorem updMxe_groups (s : State) (m : Nat) (f : Mxe → Mxe) : (s.updMxe m f).groups = s.groups := rfl
@[simp] theorem updMxe_rounds (s : State) (m : Nat) (f : Mxe → Mxe) : (s.updMxe m f).rounds = s.rounds := rfl
@[simp] theorem updMxe_doneRounds (s : State) (m : Nat) (f : Mxe → Mxe) : (s.updMxe m f).doneRounds = s.doneRounds := rfl
@[simp] theorem updMxe_fabric (s : State) (m : Nat) (f : Mxe → Mxe) : (s.updMxe m f).fabric = s.fabric := rfl
@[simp] theorem updMxe_taskCtr (s : State) (m : Nat) (f : Mxe → Mxe) : (s.updMxe m f).taskCtr = s.taskCtr := rfl
@[simp] theorem updMxe_joinCks (s : State) (m : Nat) (f : Mxe → Mxe) : (s.updMxe m f).joinCks = s.joinCks := rfl
@[simp] theorem updMxe_notes (s : State) (m : Nat) (f : Mxe → Mxe) : (s.updMxe m f).notes = s.notes := rfl
@[simp] theorem updMxe_images (s : State) (m : Nat) (f : Mxe → Mxe) : (s.updMxe m f).images = s.images := rfl
@[simp] theorem updMxe_parked (s : State) (m : Nat) (f : Mxe → Mxe) : (s.updMxe m f).parked = s.parked := rfl
@[simp] theorem updMxe_cycle (s : State) (m : Nat) (f : Mxe → Mxe) : (s.updMxe m f).cycle = s.cycle := rfl
@[simp] theorem updMxe_dtime (s : State) (m : Nat) (f : Mxe → Mxe) : (s.updMxe m f).dtime = s.dtime := rfl
@[simp] theorem updMxe_slew (s : State) (m : Nat) (f : Mxe → Mxe) : (s.updMxe m f).slew = s.slew := rfl
@[simp] theorem updMxe_slewAcc (s : State) (m : Nat) (f : Mxe → Mxe) : (s.updMxe m f).slewAcc = s.slewAcc := rfl
@[simp] theorem updMxe_cur (s : State) (m : Nat) (f : Mxe → Mxe) : (s.updMxe m f).cur = s.cur := rfl
@[simp] theorem updMxe_tape (s : State) (m : Nat) (f : Mxe → Mxe) : (s.updMxe m f).tape = s.tape := rfl
@[simp] theorem updMxe_freeCtr (s : State) (m : Nat) (f : Mxe → Mxe) : (s.updMxe m f).freeCtr = s.freeCtr := rfl
@[simp] theorem updMxe_dCycles (s : State) (m : Nat) (f : Mxe → Mxe) : (s.updMxe m f).dCycles = s.dCycles := rfl
@[simp] theorem updMxe_dNs (s : State) (m : Nat) (f : Mxe → Mxe) : (s.updMxe m f).dNs = s.dNs := rfl
@[simp] theorem updMxe_eager (s : State) (m : Nat) (f : Mxe → Mxe) : (s.updMxe m f).eager = s.eager := rfl

/-! ## State.updCrust -/

@[simp] theorem updCrust_cores (s : State) (k : Nat) (f : Crust → Crust) : (s.updCrust k f).cores = s.cores := rfl
@[simp] theorem updCrust_dies (s : State) (k : Nat) (f : Crust → Crust) : (s.updCrust k f).dies = s.dies := rfl
@[simp] theorem updCrust_mxes (s : State) (k : Nat) (f : Crust → Crust) : (s.updCrust k f).mxes = s.mxes := rfl
@[simp] theorem updCrust_mem (s : State) (k : Nat) (f : Crust → Crust) : (s.updCrust k f).mem = s.mem := rfl
@[simp] theorem updCrust_stamps (s : State) (k : Nat) (f : Crust → Crust) : (s.updCrust k f).stamps = s.stamps := rfl
@[simp] theorem updCrust_writes (s : State) (k : Nat) (f : Crust → Crust) : (s.updCrust k f).writes = s.writes := rfl
@[simp] theorem updCrust_inflight (s : State) (k : Nat) (f : Crust → Crust) : (s.updCrust k f).inflight = s.inflight := rfl
@[simp] theorem updCrust_fills (s : State) (k : Nat) (f : Crust → Crust) : (s.updCrust k f).fills = s.fills := rfl
@[simp] theorem updCrust_l1 (s : State) (k : Nat) (f : Crust → Crust) : (s.updCrust k f).l1 = s.l1 := rfl
@[simp] theorem updCrust_badLines (s : State) (k : Nat) (f : Crust → Crust) : (s.updCrust k f).badLines = s.badLines := rfl
@[simp] theorem updCrust_badCounters (s : State) (k : Nat) (f : Crust → Crust) : (s.updCrust k f).badCounters = s.badCounters := rfl
@[simp] theorem updCrust_sealTags (s : State) (k : Nat) (f : Crust → Crust) : (s.updCrust k f).sealTags = s.sealTags := rfl
@[simp] theorem updCrust_counters (s : State) (k : Nat) (f : Crust → Crust) : (s.updCrust k f).counters = s.counters := rfl
@[simp] theorem updCrust_dirty (s : State) (k : Nat) (f : Crust → Crust) : (s.updCrust k f).dirty = s.dirty := rfl
@[simp] theorem updCrust_vague (s : State) (k : Nat) (f : Crust → Crust) : (s.updCrust k f).vague = s.vague := rfl
@[simp] theorem updCrust_verOwned (s : State) (k : Nat) (f : Crust → Crust) : (s.updCrust k f).verOwned = s.verOwned := rfl
@[simp] theorem updCrust_verTaint (s : State) (k : Nat) (f : Crust → Crust) : (s.updCrust k f).verTaint = s.verTaint := rfl
@[simp] theorem updCrust_keys (s : State) (k : Nat) (f : Crust → Crust) : (s.updCrust k f).keys = s.keys := rfl
@[simp] theorem updCrust_keyGen (s : State) (k : Nat) (f : Crust → Crust) : (s.updCrust k f).keyGen = s.keyGen := rfl
@[simp] theorem updCrust_carveC (s : State) (k : Nat) (f : Crust → Crust) : (s.updCrust k f).carveC = s.carveC := rfl
@[simp] theorem updCrust_sealG (s : State) (k : Nat) (f : Crust → Crust) : (s.updCrust k f).sealG = s.sealG := rfl
@[simp] theorem updCrust_sbase (s : State) (k : Nat) (f : Crust → Crust) : (s.updCrust k f).sbase = s.sbase := rfl
@[simp] theorem updCrust_devNo (s : State) (k : Nat) (f : Crust → Crust) : (s.updCrust k f).devNo = s.devNo := rfl
@[simp] theorem updCrust_stage (s : State) (k : Nat) (f : Crust → Crust) : (s.updCrust k f).stage = s.stage := rfl
@[simp] theorem updCrust_life (s : State) (k : Nat) (f : Crust → Crust) : (s.updCrust k f).life = s.life := rfl
@[simp] theorem updCrust_firmware (s : State) (k : Nat) (f : Crust → Crust) : (s.updCrust k f).firmware = s.firmware := rfl
@[simp] theorem updCrust_locked (s : State) (k : Nat) (f : Crust → Crust) : (s.updCrust k f).locked = s.locked := rfl
@[simp] theorem updCrust_everLocked (s : State) (k : Nat) (f : Crust → Crust) : (s.updCrust k f).everLocked = s.everLocked := rfl
@[simp] theorem updCrust_lastPtm (s : State) (k : Nat) (f : Crust → Crust) : (s.updCrust k f).lastPtm = s.lastPtm := rfl
@[simp] theorem updCrust_cap (s : State) (k : Nat) (f : Crust → Crust) : (s.updCrust k f).cap = s.cap := rfl
@[simp] theorem updCrust_clockK (s : State) (k : Nat) (f : Crust → Crust) : (s.updCrust k f).clockK = s.clockK := rfl
@[simp] theorem updCrust_shares (s : State) (k : Nat) (f : Crust → Crust) : (s.updCrust k f).shares = s.shares := rfl
@[simp] theorem updCrust_queueNotes (s : State) (k : Nat) (f : Crust → Crust) : (s.updCrust k f).queueNotes = s.queueNotes := rfl
@[simp] theorem updCrust_lastQueue (s : State) (k : Nat) (f : Crust → Crust) : (s.updCrust k f).lastQueue = s.lastQueue := rfl
@[simp] theorem updCrust_groups (s : State) (k : Nat) (f : Crust → Crust) : (s.updCrust k f).groups = s.groups := rfl
@[simp] theorem updCrust_rounds (s : State) (k : Nat) (f : Crust → Crust) : (s.updCrust k f).rounds = s.rounds := rfl
@[simp] theorem updCrust_doneRounds (s : State) (k : Nat) (f : Crust → Crust) : (s.updCrust k f).doneRounds = s.doneRounds := rfl
@[simp] theorem updCrust_fabric (s : State) (k : Nat) (f : Crust → Crust) : (s.updCrust k f).fabric = s.fabric := rfl
@[simp] theorem updCrust_taskCtr (s : State) (k : Nat) (f : Crust → Crust) : (s.updCrust k f).taskCtr = s.taskCtr := rfl
@[simp] theorem updCrust_joinCks (s : State) (k : Nat) (f : Crust → Crust) : (s.updCrust k f).joinCks = s.joinCks := rfl
@[simp] theorem updCrust_notes (s : State) (k : Nat) (f : Crust → Crust) : (s.updCrust k f).notes = s.notes := rfl
@[simp] theorem updCrust_images (s : State) (k : Nat) (f : Crust → Crust) : (s.updCrust k f).images = s.images := rfl
@[simp] theorem updCrust_parked (s : State) (k : Nat) (f : Crust → Crust) : (s.updCrust k f).parked = s.parked := rfl
@[simp] theorem updCrust_cycle (s : State) (k : Nat) (f : Crust → Crust) : (s.updCrust k f).cycle = s.cycle := rfl
@[simp] theorem updCrust_dtime (s : State) (k : Nat) (f : Crust → Crust) : (s.updCrust k f).dtime = s.dtime := rfl
@[simp] theorem updCrust_slew (s : State) (k : Nat) (f : Crust → Crust) : (s.updCrust k f).slew = s.slew := rfl
@[simp] theorem updCrust_slewAcc (s : State) (k : Nat) (f : Crust → Crust) : (s.updCrust k f).slewAcc = s.slewAcc := rfl
@[simp] theorem updCrust_cur (s : State) (k : Nat) (f : Crust → Crust) : (s.updCrust k f).cur = s.cur := rfl
@[simp] theorem updCrust_tape (s : State) (k : Nat) (f : Crust → Crust) : (s.updCrust k f).tape = s.tape := rfl
@[simp] theorem updCrust_freeCtr (s : State) (k : Nat) (f : Crust → Crust) : (s.updCrust k f).freeCtr = s.freeCtr := rfl
@[simp] theorem updCrust_dCycles (s : State) (k : Nat) (f : Crust → Crust) : (s.updCrust k f).dCycles = s.dCycles := rfl
@[simp] theorem updCrust_dNs (s : State) (k : Nat) (f : Crust → Crust) : (s.updCrust k f).dNs = s.dNs := rfl
@[simp] theorem updCrust_eager (s : State) (k : Nat) (f : Crust → Crust) : (s.updCrust k f).eager = s.eager := rfl

/-! ## State.setByte -/

@[simp] theorem setByte_cores (s : State) (a : Nat) (v : Byte) : (s.setByte a v).cores = s.cores := rfl
@[simp] theorem setByte_dies (s : State) (a : Nat) (v : Byte) : (s.setByte a v).dies = s.dies := rfl
@[simp] theorem setByte_mxes (s : State) (a : Nat) (v : Byte) : (s.setByte a v).mxes = s.mxes := rfl
@[simp] theorem setByte_crusts (s : State) (a : Nat) (v : Byte) : (s.setByte a v).crusts = s.crusts := rfl
@[simp] theorem setByte_stamps (s : State) (a : Nat) (v : Byte) : (s.setByte a v).stamps = s.stamps := rfl
@[simp] theorem setByte_writes (s : State) (a : Nat) (v : Byte) : (s.setByte a v).writes = s.writes := rfl
@[simp] theorem setByte_inflight (s : State) (a : Nat) (v : Byte) : (s.setByte a v).inflight = s.inflight := rfl
@[simp] theorem setByte_fills (s : State) (a : Nat) (v : Byte) : (s.setByte a v).fills = s.fills := rfl
@[simp] theorem setByte_l1 (s : State) (a : Nat) (v : Byte) : (s.setByte a v).l1 = s.l1 := rfl
@[simp] theorem setByte_badLines (s : State) (a : Nat) (v : Byte) : (s.setByte a v).badLines = s.badLines := rfl
@[simp] theorem setByte_badCounters (s : State) (a : Nat) (v : Byte) : (s.setByte a v).badCounters = s.badCounters := rfl
@[simp] theorem setByte_sealTags (s : State) (a : Nat) (v : Byte) : (s.setByte a v).sealTags = s.sealTags := rfl
@[simp] theorem setByte_counters (s : State) (a : Nat) (v : Byte) : (s.setByte a v).counters = s.counters := rfl
@[simp] theorem setByte_dirty (s : State) (a : Nat) (v : Byte) : (s.setByte a v).dirty = s.dirty := rfl
@[simp] theorem setByte_vague (s : State) (a : Nat) (v : Byte) : (s.setByte a v).vague = s.vague := rfl
@[simp] theorem setByte_verOwned (s : State) (a : Nat) (v : Byte) : (s.setByte a v).verOwned = s.verOwned := rfl
@[simp] theorem setByte_verTaint (s : State) (a : Nat) (v : Byte) : (s.setByte a v).verTaint = s.verTaint := rfl
@[simp] theorem setByte_keys (s : State) (a : Nat) (v : Byte) : (s.setByte a v).keys = s.keys := rfl
@[simp] theorem setByte_keyGen (s : State) (a : Nat) (v : Byte) : (s.setByte a v).keyGen = s.keyGen := rfl
@[simp] theorem setByte_carveC (s : State) (a : Nat) (v : Byte) : (s.setByte a v).carveC = s.carveC := rfl
@[simp] theorem setByte_sealG (s : State) (a : Nat) (v : Byte) : (s.setByte a v).sealG = s.sealG := rfl
@[simp] theorem setByte_sbase (s : State) (a : Nat) (v : Byte) : (s.setByte a v).sbase = s.sbase := rfl
@[simp] theorem setByte_devNo (s : State) (a : Nat) (v : Byte) : (s.setByte a v).devNo = s.devNo := rfl
@[simp] theorem setByte_stage (s : State) (a : Nat) (v : Byte) : (s.setByte a v).stage = s.stage := rfl
@[simp] theorem setByte_life (s : State) (a : Nat) (v : Byte) : (s.setByte a v).life = s.life := rfl
@[simp] theorem setByte_firmware (s : State) (a : Nat) (v : Byte) : (s.setByte a v).firmware = s.firmware := rfl
@[simp] theorem setByte_locked (s : State) (a : Nat) (v : Byte) : (s.setByte a v).locked = s.locked := rfl
@[simp] theorem setByte_everLocked (s : State) (a : Nat) (v : Byte) : (s.setByte a v).everLocked = s.everLocked := rfl
@[simp] theorem setByte_lastPtm (s : State) (a : Nat) (v : Byte) : (s.setByte a v).lastPtm = s.lastPtm := rfl
@[simp] theorem setByte_cap (s : State) (a : Nat) (v : Byte) : (s.setByte a v).cap = s.cap := rfl
@[simp] theorem setByte_clockK (s : State) (a : Nat) (v : Byte) : (s.setByte a v).clockK = s.clockK := rfl
@[simp] theorem setByte_shares (s : State) (a : Nat) (v : Byte) : (s.setByte a v).shares = s.shares := rfl
@[simp] theorem setByte_queueNotes (s : State) (a : Nat) (v : Byte) : (s.setByte a v).queueNotes = s.queueNotes := rfl
@[simp] theorem setByte_lastQueue (s : State) (a : Nat) (v : Byte) : (s.setByte a v).lastQueue = s.lastQueue := rfl
@[simp] theorem setByte_groups (s : State) (a : Nat) (v : Byte) : (s.setByte a v).groups = s.groups := rfl
@[simp] theorem setByte_rounds (s : State) (a : Nat) (v : Byte) : (s.setByte a v).rounds = s.rounds := rfl
@[simp] theorem setByte_doneRounds (s : State) (a : Nat) (v : Byte) : (s.setByte a v).doneRounds = s.doneRounds := rfl
@[simp] theorem setByte_fabric (s : State) (a : Nat) (v : Byte) : (s.setByte a v).fabric = s.fabric := rfl
@[simp] theorem setByte_taskCtr (s : State) (a : Nat) (v : Byte) : (s.setByte a v).taskCtr = s.taskCtr := rfl
@[simp] theorem setByte_joinCks (s : State) (a : Nat) (v : Byte) : (s.setByte a v).joinCks = s.joinCks := rfl
@[simp] theorem setByte_notes (s : State) (a : Nat) (v : Byte) : (s.setByte a v).notes = s.notes := rfl
@[simp] theorem setByte_images (s : State) (a : Nat) (v : Byte) : (s.setByte a v).images = s.images := rfl
@[simp] theorem setByte_parked (s : State) (a : Nat) (v : Byte) : (s.setByte a v).parked = s.parked := rfl
@[simp] theorem setByte_cycle (s : State) (a : Nat) (v : Byte) : (s.setByte a v).cycle = s.cycle := rfl
@[simp] theorem setByte_dtime (s : State) (a : Nat) (v : Byte) : (s.setByte a v).dtime = s.dtime := rfl
@[simp] theorem setByte_slew (s : State) (a : Nat) (v : Byte) : (s.setByte a v).slew = s.slew := rfl
@[simp] theorem setByte_slewAcc (s : State) (a : Nat) (v : Byte) : (s.setByte a v).slewAcc = s.slewAcc := rfl
@[simp] theorem setByte_cur (s : State) (a : Nat) (v : Byte) : (s.setByte a v).cur = s.cur := rfl
@[simp] theorem setByte_tape (s : State) (a : Nat) (v : Byte) : (s.setByte a v).tape = s.tape := rfl
@[simp] theorem setByte_freeCtr (s : State) (a : Nat) (v : Byte) : (s.setByte a v).freeCtr = s.freeCtr := rfl
@[simp] theorem setByte_dCycles (s : State) (a : Nat) (v : Byte) : (s.setByte a v).dCycles = s.dCycles := rfl
@[simp] theorem setByte_dNs (s : State) (a : Nat) (v : Byte) : (s.setByte a v).dNs = s.dNs := rfl
@[simp] theorem setByte_eager (s : State) (a : Nat) (v : Byte) : (s.setByte a v).eager = s.eager := rfl

/-! ## State.tick -/

@[simp] theorem tick_cores (s : State) : (s.tick).cores = s.cores := rfl
@[simp] theorem tick_dies (s : State) : (s.tick).dies = s.dies := rfl
@[simp] theorem tick_mxes (s : State) : (s.tick).mxes = s.mxes := rfl
@[simp] theorem tick_crusts (s : State) : (s.tick).crusts = s.crusts := rfl
@[simp] theorem tick_mem (s : State) : (s.tick).mem = s.mem := rfl
@[simp] theorem tick_stamps (s : State) : (s.tick).stamps = s.stamps := rfl
@[simp] theorem tick_writes (s : State) : (s.tick).writes = s.writes := rfl
@[simp] theorem tick_inflight (s : State) : (s.tick).inflight = s.inflight := rfl
@[simp] theorem tick_fills (s : State) : (s.tick).fills = s.fills := rfl
@[simp] theorem tick_l1 (s : State) : (s.tick).l1 = s.l1 := rfl
@[simp] theorem tick_badLines (s : State) : (s.tick).badLines = s.badLines := rfl
@[simp] theorem tick_badCounters (s : State) : (s.tick).badCounters = s.badCounters := rfl
@[simp] theorem tick_sealTags (s : State) : (s.tick).sealTags = s.sealTags := rfl
@[simp] theorem tick_counters (s : State) : (s.tick).counters = s.counters := rfl
@[simp] theorem tick_dirty (s : State) : (s.tick).dirty = s.dirty := rfl
@[simp] theorem tick_vague (s : State) : (s.tick).vague = s.vague := rfl
@[simp] theorem tick_verOwned (s : State) : (s.tick).verOwned = s.verOwned := rfl
@[simp] theorem tick_verTaint (s : State) : (s.tick).verTaint = s.verTaint := rfl
@[simp] theorem tick_keys (s : State) : (s.tick).keys = s.keys := rfl
@[simp] theorem tick_keyGen (s : State) : (s.tick).keyGen = s.keyGen := rfl
@[simp] theorem tick_carveC (s : State) : (s.tick).carveC = s.carveC := rfl
@[simp] theorem tick_sealG (s : State) : (s.tick).sealG = s.sealG := rfl
@[simp] theorem tick_sbase (s : State) : (s.tick).sbase = s.sbase := rfl
@[simp] theorem tick_devNo (s : State) : (s.tick).devNo = s.devNo := rfl
@[simp] theorem tick_stage (s : State) : (s.tick).stage = s.stage := rfl
@[simp] theorem tick_life (s : State) : (s.tick).life = s.life := rfl
@[simp] theorem tick_firmware (s : State) : (s.tick).firmware = s.firmware := rfl
@[simp] theorem tick_locked (s : State) : (s.tick).locked = s.locked := rfl
@[simp] theorem tick_everLocked (s : State) : (s.tick).everLocked = s.everLocked := rfl
@[simp] theorem tick_lastPtm (s : State) : (s.tick).lastPtm = s.lastPtm := rfl
@[simp] theorem tick_cap (s : State) : (s.tick).cap = s.cap := rfl
@[simp] theorem tick_clockK (s : State) : (s.tick).clockK = s.clockK := rfl
@[simp] theorem tick_shares (s : State) : (s.tick).shares = s.shares := rfl
@[simp] theorem tick_queueNotes (s : State) : (s.tick).queueNotes = s.queueNotes := rfl
@[simp] theorem tick_lastQueue (s : State) : (s.tick).lastQueue = s.lastQueue := rfl
@[simp] theorem tick_groups (s : State) : (s.tick).groups = s.groups := rfl
@[simp] theorem tick_rounds (s : State) : (s.tick).rounds = s.rounds := rfl
@[simp] theorem tick_doneRounds (s : State) : (s.tick).doneRounds = s.doneRounds := rfl
@[simp] theorem tick_fabric (s : State) : (s.tick).fabric = s.fabric := rfl
@[simp] theorem tick_taskCtr (s : State) : (s.tick).taskCtr = s.taskCtr := rfl
@[simp] theorem tick_joinCks (s : State) : (s.tick).joinCks = s.joinCks := rfl
@[simp] theorem tick_notes (s : State) : (s.tick).notes = s.notes := rfl
@[simp] theorem tick_images (s : State) : (s.tick).images = s.images := rfl
@[simp] theorem tick_parked (s : State) : (s.tick).parked = s.parked := rfl
@[simp] theorem tick_cur (s : State) : (s.tick).cur = s.cur := rfl
@[simp] theorem tick_tape (s : State) : (s.tick).tape = s.tape := rfl
@[simp] theorem tick_freeCtr (s : State) : (s.tick).freeCtr = s.freeCtr := rfl
@[simp] theorem tick_dCycles (s : State) : (s.tick).dCycles = s.dCycles := rfl
@[simp] theorem tick_dNs (s : State) : (s.tick).dNs = s.dNs := rfl
@[simp] theorem tick_eager (s : State) : (s.tick).eager = s.eager := rfl

/-! ## State.forgetDirty -/

@[simp] theorem forgetDirty_cores (s : State) (line : Nat) : (s.forgetDirty line).cores = s.cores := rfl
@[simp] theorem forgetDirty_dies (s : State) (line : Nat) : (s.forgetDirty line).dies = s.dies := rfl
@[simp] theorem forgetDirty_mxes (s : State) (line : Nat) : (s.forgetDirty line).mxes = s.mxes := rfl
@[simp] theorem forgetDirty_crusts (s : State) (line : Nat) : (s.forgetDirty line).crusts = s.crusts := rfl
@[simp] theorem forgetDirty_mem (s : State) (line : Nat) : (s.forgetDirty line).mem = s.mem := rfl
@[simp] theorem forgetDirty_stamps (s : State) (line : Nat) : (s.forgetDirty line).stamps = s.stamps := rfl
@[simp] theorem forgetDirty_writes (s : State) (line : Nat) : (s.forgetDirty line).writes = s.writes := rfl
@[simp] theorem forgetDirty_inflight (s : State) (line : Nat) : (s.forgetDirty line).inflight = s.inflight := rfl
@[simp] theorem forgetDirty_fills (s : State) (line : Nat) : (s.forgetDirty line).fills = s.fills := rfl
@[simp] theorem forgetDirty_l1 (s : State) (line : Nat) : (s.forgetDirty line).l1 = s.l1 := rfl
@[simp] theorem forgetDirty_badLines (s : State) (line : Nat) : (s.forgetDirty line).badLines = s.badLines := rfl
@[simp] theorem forgetDirty_badCounters (s : State) (line : Nat) : (s.forgetDirty line).badCounters = s.badCounters := rfl
@[simp] theorem forgetDirty_sealTags (s : State) (line : Nat) : (s.forgetDirty line).sealTags = s.sealTags := rfl
@[simp] theorem forgetDirty_counters (s : State) (line : Nat) : (s.forgetDirty line).counters = s.counters := rfl
@[simp] theorem forgetDirty_vague (s : State) (line : Nat) : (s.forgetDirty line).vague = s.vague := rfl
@[simp] theorem forgetDirty_verOwned (s : State) (line : Nat) : (s.forgetDirty line).verOwned = s.verOwned := rfl
@[simp] theorem forgetDirty_verTaint (s : State) (line : Nat) : (s.forgetDirty line).verTaint = s.verTaint := rfl
@[simp] theorem forgetDirty_keys (s : State) (line : Nat) : (s.forgetDirty line).keys = s.keys := rfl
@[simp] theorem forgetDirty_keyGen (s : State) (line : Nat) : (s.forgetDirty line).keyGen = s.keyGen := rfl
@[simp] theorem forgetDirty_carveC (s : State) (line : Nat) : (s.forgetDirty line).carveC = s.carveC := rfl
@[simp] theorem forgetDirty_sealG (s : State) (line : Nat) : (s.forgetDirty line).sealG = s.sealG := rfl
@[simp] theorem forgetDirty_sbase (s : State) (line : Nat) : (s.forgetDirty line).sbase = s.sbase := rfl
@[simp] theorem forgetDirty_devNo (s : State) (line : Nat) : (s.forgetDirty line).devNo = s.devNo := rfl
@[simp] theorem forgetDirty_stage (s : State) (line : Nat) : (s.forgetDirty line).stage = s.stage := rfl
@[simp] theorem forgetDirty_life (s : State) (line : Nat) : (s.forgetDirty line).life = s.life := rfl
@[simp] theorem forgetDirty_firmware (s : State) (line : Nat) : (s.forgetDirty line).firmware = s.firmware := rfl
@[simp] theorem forgetDirty_locked (s : State) (line : Nat) : (s.forgetDirty line).locked = s.locked := rfl
@[simp] theorem forgetDirty_everLocked (s : State) (line : Nat) : (s.forgetDirty line).everLocked = s.everLocked := rfl
@[simp] theorem forgetDirty_lastPtm (s : State) (line : Nat) : (s.forgetDirty line).lastPtm = s.lastPtm := rfl
@[simp] theorem forgetDirty_cap (s : State) (line : Nat) : (s.forgetDirty line).cap = s.cap := rfl
@[simp] theorem forgetDirty_clockK (s : State) (line : Nat) : (s.forgetDirty line).clockK = s.clockK := rfl
@[simp] theorem forgetDirty_shares (s : State) (line : Nat) : (s.forgetDirty line).shares = s.shares := rfl
@[simp] theorem forgetDirty_queueNotes (s : State) (line : Nat) : (s.forgetDirty line).queueNotes = s.queueNotes := rfl
@[simp] theorem forgetDirty_lastQueue (s : State) (line : Nat) : (s.forgetDirty line).lastQueue = s.lastQueue := rfl
@[simp] theorem forgetDirty_groups (s : State) (line : Nat) : (s.forgetDirty line).groups = s.groups := rfl
@[simp] theorem forgetDirty_rounds (s : State) (line : Nat) : (s.forgetDirty line).rounds = s.rounds := rfl
@[simp] theorem forgetDirty_doneRounds (s : State) (line : Nat) : (s.forgetDirty line).doneRounds = s.doneRounds := rfl
@[simp] theorem forgetDirty_fabric (s : State) (line : Nat) : (s.forgetDirty line).fabric = s.fabric := rfl
@[simp] theorem forgetDirty_taskCtr (s : State) (line : Nat) : (s.forgetDirty line).taskCtr = s.taskCtr := rfl
@[simp] theorem forgetDirty_joinCks (s : State) (line : Nat) : (s.forgetDirty line).joinCks = s.joinCks := rfl
@[simp] theorem forgetDirty_notes (s : State) (line : Nat) : (s.forgetDirty line).notes = s.notes := rfl
@[simp] theorem forgetDirty_images (s : State) (line : Nat) : (s.forgetDirty line).images = s.images := rfl
@[simp] theorem forgetDirty_parked (s : State) (line : Nat) : (s.forgetDirty line).parked = s.parked := rfl
@[simp] theorem forgetDirty_cycle (s : State) (line : Nat) : (s.forgetDirty line).cycle = s.cycle := rfl
@[simp] theorem forgetDirty_dtime (s : State) (line : Nat) : (s.forgetDirty line).dtime = s.dtime := rfl
@[simp] theorem forgetDirty_slew (s : State) (line : Nat) : (s.forgetDirty line).slew = s.slew := rfl
@[simp] theorem forgetDirty_slewAcc (s : State) (line : Nat) : (s.forgetDirty line).slewAcc = s.slewAcc := rfl
@[simp] theorem forgetDirty_cur (s : State) (line : Nat) : (s.forgetDirty line).cur = s.cur := rfl
@[simp] theorem forgetDirty_tape (s : State) (line : Nat) : (s.forgetDirty line).tape = s.tape := rfl
@[simp] theorem forgetDirty_freeCtr (s : State) (line : Nat) : (s.forgetDirty line).freeCtr = s.freeCtr := rfl
@[simp] theorem forgetDirty_dCycles (s : State) (line : Nat) : (s.forgetDirty line).dCycles = s.dCycles := rfl
@[simp] theorem forgetDirty_dNs (s : State) (line : Nat) : (s.forgetDirty line).dNs = s.dNs := rfl
@[simp] theorem forgetDirty_eager (s : State) (line : Nat) : (s.forgetDirty line).eager = s.eager := rfl

/-! ## State.countWrite -/

@[simp] theorem countWrite_cores (s : State) (line : Nat) : (s.countWrite line).cores = s.cores := rfl
@[simp] theorem countWrite_dies (s : State) (line : Nat) : (s.countWrite line).dies = s.dies := rfl
@[simp] theorem countWrite_mxes (s : State) (line : Nat) : (s.countWrite line).mxes = s.mxes := rfl
@[simp] theorem countWrite_crusts (s : State) (line : Nat) : (s.countWrite line).crusts = s.crusts := rfl
@[simp] theorem countWrite_mem (s : State) (line : Nat) : (s.countWrite line).mem = s.mem := rfl
@[simp] theorem countWrite_stamps (s : State) (line : Nat) : (s.countWrite line).stamps = s.stamps := rfl
@[simp] theorem countWrite_writes (s : State) (line : Nat) : (s.countWrite line).writes = s.writes := rfl
@[simp] theorem countWrite_inflight (s : State) (line : Nat) : (s.countWrite line).inflight = s.inflight := rfl
@[simp] theorem countWrite_fills (s : State) (line : Nat) : (s.countWrite line).fills = s.fills := rfl
@[simp] theorem countWrite_l1 (s : State) (line : Nat) : (s.countWrite line).l1 = s.l1 := rfl
@[simp] theorem countWrite_badLines (s : State) (line : Nat) : (s.countWrite line).badLines = s.badLines := rfl
@[simp] theorem countWrite_badCounters (s : State) (line : Nat) : (s.countWrite line).badCounters = s.badCounters := rfl
@[simp] theorem countWrite_sealTags (s : State) (line : Nat) : (s.countWrite line).sealTags = s.sealTags := rfl
@[simp] theorem countWrite_dirty (s : State) (line : Nat) : (s.countWrite line).dirty = s.dirty := rfl
@[simp] theorem countWrite_vague (s : State) (line : Nat) : (s.countWrite line).vague = s.vague := rfl
@[simp] theorem countWrite_verOwned (s : State) (line : Nat) : (s.countWrite line).verOwned = s.verOwned := rfl
@[simp] theorem countWrite_verTaint (s : State) (line : Nat) : (s.countWrite line).verTaint = s.verTaint := rfl
@[simp] theorem countWrite_keys (s : State) (line : Nat) : (s.countWrite line).keys = s.keys := rfl
@[simp] theorem countWrite_keyGen (s : State) (line : Nat) : (s.countWrite line).keyGen = s.keyGen := rfl
@[simp] theorem countWrite_carveC (s : State) (line : Nat) : (s.countWrite line).carveC = s.carveC := rfl
@[simp] theorem countWrite_sealG (s : State) (line : Nat) : (s.countWrite line).sealG = s.sealG := rfl
@[simp] theorem countWrite_sbase (s : State) (line : Nat) : (s.countWrite line).sbase = s.sbase := rfl
@[simp] theorem countWrite_devNo (s : State) (line : Nat) : (s.countWrite line).devNo = s.devNo := rfl
@[simp] theorem countWrite_stage (s : State) (line : Nat) : (s.countWrite line).stage = s.stage := rfl
@[simp] theorem countWrite_life (s : State) (line : Nat) : (s.countWrite line).life = s.life := rfl
@[simp] theorem countWrite_firmware (s : State) (line : Nat) : (s.countWrite line).firmware = s.firmware := rfl
@[simp] theorem countWrite_locked (s : State) (line : Nat) : (s.countWrite line).locked = s.locked := rfl
@[simp] theorem countWrite_everLocked (s : State) (line : Nat) : (s.countWrite line).everLocked = s.everLocked := rfl
@[simp] theorem countWrite_lastPtm (s : State) (line : Nat) : (s.countWrite line).lastPtm = s.lastPtm := rfl
@[simp] theorem countWrite_cap (s : State) (line : Nat) : (s.countWrite line).cap = s.cap := rfl
@[simp] theorem countWrite_clockK (s : State) (line : Nat) : (s.countWrite line).clockK = s.clockK := rfl
@[simp] theorem countWrite_shares (s : State) (line : Nat) : (s.countWrite line).shares = s.shares := rfl
@[simp] theorem countWrite_queueNotes (s : State) (line : Nat) : (s.countWrite line).queueNotes = s.queueNotes := rfl
@[simp] theorem countWrite_lastQueue (s : State) (line : Nat) : (s.countWrite line).lastQueue = s.lastQueue := rfl
@[simp] theorem countWrite_groups (s : State) (line : Nat) : (s.countWrite line).groups = s.groups := rfl
@[simp] theorem countWrite_rounds (s : State) (line : Nat) : (s.countWrite line).rounds = s.rounds := rfl
@[simp] theorem countWrite_doneRounds (s : State) (line : Nat) : (s.countWrite line).doneRounds = s.doneRounds := rfl
@[simp] theorem countWrite_fabric (s : State) (line : Nat) : (s.countWrite line).fabric = s.fabric := rfl
@[simp] theorem countWrite_taskCtr (s : State) (line : Nat) : (s.countWrite line).taskCtr = s.taskCtr := rfl
@[simp] theorem countWrite_joinCks (s : State) (line : Nat) : (s.countWrite line).joinCks = s.joinCks := rfl
@[simp] theorem countWrite_notes (s : State) (line : Nat) : (s.countWrite line).notes = s.notes := rfl
@[simp] theorem countWrite_images (s : State) (line : Nat) : (s.countWrite line).images = s.images := rfl
@[simp] theorem countWrite_parked (s : State) (line : Nat) : (s.countWrite line).parked = s.parked := rfl
@[simp] theorem countWrite_cycle (s : State) (line : Nat) : (s.countWrite line).cycle = s.cycle := rfl
@[simp] theorem countWrite_dtime (s : State) (line : Nat) : (s.countWrite line).dtime = s.dtime := rfl
@[simp] theorem countWrite_slew (s : State) (line : Nat) : (s.countWrite line).slew = s.slew := rfl
@[simp] theorem countWrite_slewAcc (s : State) (line : Nat) : (s.countWrite line).slewAcc = s.slewAcc := rfl
@[simp] theorem countWrite_cur (s : State) (line : Nat) : (s.countWrite line).cur = s.cur := rfl
@[simp] theorem countWrite_tape (s : State) (line : Nat) : (s.countWrite line).tape = s.tape := rfl
@[simp] theorem countWrite_freeCtr (s : State) (line : Nat) : (s.countWrite line).freeCtr = s.freeCtr := rfl
@[simp] theorem countWrite_dCycles (s : State) (line : Nat) : (s.countWrite line).dCycles = s.dCycles := rfl
@[simp] theorem countWrite_dNs (s : State) (line : Nat) : (s.countWrite line).dNs = s.dNs := rfl
@[simp] theorem countWrite_eager (s : State) (line : Nat) : (s.countWrite line).eager = s.eager := rfl

/-! ## State.setStamp -/

@[simp] theorem setStamp_cores (s : State) (line : Nat) (c : Clock) : (s.setStamp line c).cores = s.cores := rfl
@[simp] theorem setStamp_dies (s : State) (line : Nat) (c : Clock) : (s.setStamp line c).dies = s.dies := rfl
@[simp] theorem setStamp_mxes (s : State) (line : Nat) (c : Clock) : (s.setStamp line c).mxes = s.mxes := rfl
@[simp] theorem setStamp_crusts (s : State) (line : Nat) (c : Clock) : (s.setStamp line c).crusts = s.crusts := rfl
@[simp] theorem setStamp_mem (s : State) (line : Nat) (c : Clock) : (s.setStamp line c).mem = s.mem := rfl
@[simp] theorem setStamp_writes (s : State) (line : Nat) (c : Clock) : (s.setStamp line c).writes = s.writes := rfl
@[simp] theorem setStamp_inflight (s : State) (line : Nat) (c : Clock) : (s.setStamp line c).inflight = s.inflight := rfl
@[simp] theorem setStamp_fills (s : State) (line : Nat) (c : Clock) : (s.setStamp line c).fills = s.fills := rfl
@[simp] theorem setStamp_l1 (s : State) (line : Nat) (c : Clock) : (s.setStamp line c).l1 = s.l1 := rfl
@[simp] theorem setStamp_badLines (s : State) (line : Nat) (c : Clock) : (s.setStamp line c).badLines = s.badLines := rfl
@[simp] theorem setStamp_badCounters (s : State) (line : Nat) (c : Clock) : (s.setStamp line c).badCounters = s.badCounters := rfl
@[simp] theorem setStamp_sealTags (s : State) (line : Nat) (c : Clock) : (s.setStamp line c).sealTags = s.sealTags := rfl
@[simp] theorem setStamp_counters (s : State) (line : Nat) (c : Clock) : (s.setStamp line c).counters = s.counters := rfl
@[simp] theorem setStamp_dirty (s : State) (line : Nat) (c : Clock) : (s.setStamp line c).dirty = s.dirty := rfl
@[simp] theorem setStamp_vague (s : State) (line : Nat) (c : Clock) : (s.setStamp line c).vague = s.vague := rfl
@[simp] theorem setStamp_verOwned (s : State) (line : Nat) (c : Clock) : (s.setStamp line c).verOwned = s.verOwned := rfl
@[simp] theorem setStamp_verTaint (s : State) (line : Nat) (c : Clock) : (s.setStamp line c).verTaint = s.verTaint := rfl
@[simp] theorem setStamp_keys (s : State) (line : Nat) (c : Clock) : (s.setStamp line c).keys = s.keys := rfl
@[simp] theorem setStamp_keyGen (s : State) (line : Nat) (c : Clock) : (s.setStamp line c).keyGen = s.keyGen := rfl
@[simp] theorem setStamp_carveC (s : State) (line : Nat) (c : Clock) : (s.setStamp line c).carveC = s.carveC := rfl
@[simp] theorem setStamp_sealG (s : State) (line : Nat) (c : Clock) : (s.setStamp line c).sealG = s.sealG := rfl
@[simp] theorem setStamp_sbase (s : State) (line : Nat) (c : Clock) : (s.setStamp line c).sbase = s.sbase := rfl
@[simp] theorem setStamp_devNo (s : State) (line : Nat) (c : Clock) : (s.setStamp line c).devNo = s.devNo := rfl
@[simp] theorem setStamp_stage (s : State) (line : Nat) (c : Clock) : (s.setStamp line c).stage = s.stage := rfl
@[simp] theorem setStamp_life (s : State) (line : Nat) (c : Clock) : (s.setStamp line c).life = s.life := rfl
@[simp] theorem setStamp_firmware (s : State) (line : Nat) (c : Clock) : (s.setStamp line c).firmware = s.firmware := rfl
@[simp] theorem setStamp_locked (s : State) (line : Nat) (c : Clock) : (s.setStamp line c).locked = s.locked := rfl
@[simp] theorem setStamp_everLocked (s : State) (line : Nat) (c : Clock) : (s.setStamp line c).everLocked = s.everLocked := rfl
@[simp] theorem setStamp_lastPtm (s : State) (line : Nat) (c : Clock) : (s.setStamp line c).lastPtm = s.lastPtm := rfl
@[simp] theorem setStamp_cap (s : State) (line : Nat) (c : Clock) : (s.setStamp line c).cap = s.cap := rfl
@[simp] theorem setStamp_clockK (s : State) (line : Nat) (c : Clock) : (s.setStamp line c).clockK = s.clockK := rfl
@[simp] theorem setStamp_shares (s : State) (line : Nat) (c : Clock) : (s.setStamp line c).shares = s.shares := rfl
@[simp] theorem setStamp_queueNotes (s : State) (line : Nat) (c : Clock) : (s.setStamp line c).queueNotes = s.queueNotes := rfl
@[simp] theorem setStamp_lastQueue (s : State) (line : Nat) (c : Clock) : (s.setStamp line c).lastQueue = s.lastQueue := rfl
@[simp] theorem setStamp_groups (s : State) (line : Nat) (c : Clock) : (s.setStamp line c).groups = s.groups := rfl
@[simp] theorem setStamp_rounds (s : State) (line : Nat) (c : Clock) : (s.setStamp line c).rounds = s.rounds := rfl
@[simp] theorem setStamp_doneRounds (s : State) (line : Nat) (c : Clock) : (s.setStamp line c).doneRounds = s.doneRounds := rfl
@[simp] theorem setStamp_fabric (s : State) (line : Nat) (c : Clock) : (s.setStamp line c).fabric = s.fabric := rfl
@[simp] theorem setStamp_taskCtr (s : State) (line : Nat) (c : Clock) : (s.setStamp line c).taskCtr = s.taskCtr := rfl
@[simp] theorem setStamp_joinCks (s : State) (line : Nat) (c : Clock) : (s.setStamp line c).joinCks = s.joinCks := rfl
@[simp] theorem setStamp_notes (s : State) (line : Nat) (c : Clock) : (s.setStamp line c).notes = s.notes := rfl
@[simp] theorem setStamp_images (s : State) (line : Nat) (c : Clock) : (s.setStamp line c).images = s.images := rfl
@[simp] theorem setStamp_parked (s : State) (line : Nat) (c : Clock) : (s.setStamp line c).parked = s.parked := rfl
@[simp] theorem setStamp_cycle (s : State) (line : Nat) (c : Clock) : (s.setStamp line c).cycle = s.cycle := rfl
@[simp] theorem setStamp_dtime (s : State) (line : Nat) (c : Clock) : (s.setStamp line c).dtime = s.dtime := rfl
@[simp] theorem setStamp_slew (s : State) (line : Nat) (c : Clock) : (s.setStamp line c).slew = s.slew := rfl
@[simp] theorem setStamp_slewAcc (s : State) (line : Nat) (c : Clock) : (s.setStamp line c).slewAcc = s.slewAcc := rfl
@[simp] theorem setStamp_cur (s : State) (line : Nat) (c : Clock) : (s.setStamp line c).cur = s.cur := rfl
@[simp] theorem setStamp_tape (s : State) (line : Nat) (c : Clock) : (s.setStamp line c).tape = s.tape := rfl
@[simp] theorem setStamp_freeCtr (s : State) (line : Nat) (c : Clock) : (s.setStamp line c).freeCtr = s.freeCtr := rfl
@[simp] theorem setStamp_dCycles (s : State) (line : Nat) (c : Clock) : (s.setStamp line c).dCycles = s.dCycles := rfl
@[simp] theorem setStamp_dNs (s : State) (line : Nat) (c : Clock) : (s.setStamp line c).dNs = s.dNs := rfl
@[simp] theorem setStamp_eager (s : State) (line : Nat) (c : Clock) : (s.setStamp line c).eager = s.eager := rfl

/-! ## State.noteWrite -/

@[simp] theorem noteWrite_cores (s : State) (loc n : Nat) : (s.noteWrite loc n).cores = s.cores := rfl
@[simp] theorem noteWrite_dies (s : State) (loc n : Nat) : (s.noteWrite loc n).dies = s.dies := rfl
@[simp] theorem noteWrite_mxes (s : State) (loc n : Nat) : (s.noteWrite loc n).mxes = s.mxes := rfl
@[simp] theorem noteWrite_crusts (s : State) (loc n : Nat) : (s.noteWrite loc n).crusts = s.crusts := rfl
@[simp] theorem noteWrite_mem (s : State) (loc n : Nat) : (s.noteWrite loc n).mem = s.mem := rfl
@[simp] theorem noteWrite_stamps (s : State) (loc n : Nat) : (s.noteWrite loc n).stamps = s.stamps := rfl
@[simp] theorem noteWrite_inflight (s : State) (loc n : Nat) : (s.noteWrite loc n).inflight = s.inflight := rfl
@[simp] theorem noteWrite_fills (s : State) (loc n : Nat) : (s.noteWrite loc n).fills = s.fills := rfl
@[simp] theorem noteWrite_l1 (s : State) (loc n : Nat) : (s.noteWrite loc n).l1 = s.l1 := rfl
@[simp] theorem noteWrite_badLines (s : State) (loc n : Nat) : (s.noteWrite loc n).badLines = s.badLines := rfl
@[simp] theorem noteWrite_badCounters (s : State) (loc n : Nat) : (s.noteWrite loc n).badCounters = s.badCounters := rfl
@[simp] theorem noteWrite_sealTags (s : State) (loc n : Nat) : (s.noteWrite loc n).sealTags = s.sealTags := rfl
@[simp] theorem noteWrite_counters (s : State) (loc n : Nat) : (s.noteWrite loc n).counters = s.counters := rfl
@[simp] theorem noteWrite_dirty (s : State) (loc n : Nat) : (s.noteWrite loc n).dirty = s.dirty := rfl
@[simp] theorem noteWrite_vague (s : State) (loc n : Nat) : (s.noteWrite loc n).vague = s.vague := rfl
@[simp] theorem noteWrite_verOwned (s : State) (loc n : Nat) : (s.noteWrite loc n).verOwned = s.verOwned := rfl
@[simp] theorem noteWrite_verTaint (s : State) (loc n : Nat) : (s.noteWrite loc n).verTaint = s.verTaint := rfl
@[simp] theorem noteWrite_keys (s : State) (loc n : Nat) : (s.noteWrite loc n).keys = s.keys := rfl
@[simp] theorem noteWrite_keyGen (s : State) (loc n : Nat) : (s.noteWrite loc n).keyGen = s.keyGen := rfl
@[simp] theorem noteWrite_carveC (s : State) (loc n : Nat) : (s.noteWrite loc n).carveC = s.carveC := rfl
@[simp] theorem noteWrite_sealG (s : State) (loc n : Nat) : (s.noteWrite loc n).sealG = s.sealG := rfl
@[simp] theorem noteWrite_sbase (s : State) (loc n : Nat) : (s.noteWrite loc n).sbase = s.sbase := rfl
@[simp] theorem noteWrite_devNo (s : State) (loc n : Nat) : (s.noteWrite loc n).devNo = s.devNo := rfl
@[simp] theorem noteWrite_stage (s : State) (loc n : Nat) : (s.noteWrite loc n).stage = s.stage := rfl
@[simp] theorem noteWrite_life (s : State) (loc n : Nat) : (s.noteWrite loc n).life = s.life := rfl
@[simp] theorem noteWrite_firmware (s : State) (loc n : Nat) : (s.noteWrite loc n).firmware = s.firmware := rfl
@[simp] theorem noteWrite_locked (s : State) (loc n : Nat) : (s.noteWrite loc n).locked = s.locked := rfl
@[simp] theorem noteWrite_everLocked (s : State) (loc n : Nat) : (s.noteWrite loc n).everLocked = s.everLocked := rfl
@[simp] theorem noteWrite_lastPtm (s : State) (loc n : Nat) : (s.noteWrite loc n).lastPtm = s.lastPtm := rfl
@[simp] theorem noteWrite_cap (s : State) (loc n : Nat) : (s.noteWrite loc n).cap = s.cap := rfl
@[simp] theorem noteWrite_clockK (s : State) (loc n : Nat) : (s.noteWrite loc n).clockK = s.clockK := rfl
@[simp] theorem noteWrite_shares (s : State) (loc n : Nat) : (s.noteWrite loc n).shares = s.shares := rfl
@[simp] theorem noteWrite_queueNotes (s : State) (loc n : Nat) : (s.noteWrite loc n).queueNotes = s.queueNotes := rfl
@[simp] theorem noteWrite_lastQueue (s : State) (loc n : Nat) : (s.noteWrite loc n).lastQueue = s.lastQueue := rfl
@[simp] theorem noteWrite_groups (s : State) (loc n : Nat) : (s.noteWrite loc n).groups = s.groups := rfl
@[simp] theorem noteWrite_rounds (s : State) (loc n : Nat) : (s.noteWrite loc n).rounds = s.rounds := rfl
@[simp] theorem noteWrite_doneRounds (s : State) (loc n : Nat) : (s.noteWrite loc n).doneRounds = s.doneRounds := rfl
@[simp] theorem noteWrite_fabric (s : State) (loc n : Nat) : (s.noteWrite loc n).fabric = s.fabric := rfl
@[simp] theorem noteWrite_taskCtr (s : State) (loc n : Nat) : (s.noteWrite loc n).taskCtr = s.taskCtr := rfl
@[simp] theorem noteWrite_joinCks (s : State) (loc n : Nat) : (s.noteWrite loc n).joinCks = s.joinCks := rfl
@[simp] theorem noteWrite_notes (s : State) (loc n : Nat) : (s.noteWrite loc n).notes = s.notes := rfl
@[simp] theorem noteWrite_images (s : State) (loc n : Nat) : (s.noteWrite loc n).images = s.images := rfl
@[simp] theorem noteWrite_parked (s : State) (loc n : Nat) : (s.noteWrite loc n).parked = s.parked := rfl
@[simp] theorem noteWrite_cycle (s : State) (loc n : Nat) : (s.noteWrite loc n).cycle = s.cycle := rfl
@[simp] theorem noteWrite_dtime (s : State) (loc n : Nat) : (s.noteWrite loc n).dtime = s.dtime := rfl
@[simp] theorem noteWrite_slew (s : State) (loc n : Nat) : (s.noteWrite loc n).slew = s.slew := rfl
@[simp] theorem noteWrite_slewAcc (s : State) (loc n : Nat) : (s.noteWrite loc n).slewAcc = s.slewAcc := rfl
@[simp] theorem noteWrite_cur (s : State) (loc n : Nat) : (s.noteWrite loc n).cur = s.cur := rfl
@[simp] theorem noteWrite_tape (s : State) (loc n : Nat) : (s.noteWrite loc n).tape = s.tape := rfl
@[simp] theorem noteWrite_freeCtr (s : State) (loc n : Nat) : (s.noteWrite loc n).freeCtr = s.freeCtr := rfl
@[simp] theorem noteWrite_dCycles (s : State) (loc n : Nat) : (s.noteWrite loc n).dCycles = s.dCycles := rfl
@[simp] theorem noteWrite_dNs (s : State) (loc n : Nat) : (s.noteWrite loc n).dNs = s.dNs := rfl
@[simp] theorem noteWrite_eager (s : State) (loc n : Nat) : (s.noteWrite loc n).eager = s.eager := rfl

/-! ## State.setBytes -/

@[simp] theorem setBytes_cores (s : State) (a : Nat) (bs : List Byte) : (s.setBytes a bs).cores = s.cores := by rw [setBytes_eq]
@[simp] theorem setBytes_dies (s : State) (a : Nat) (bs : List Byte) : (s.setBytes a bs).dies = s.dies := by rw [setBytes_eq]
@[simp] theorem setBytes_mxes (s : State) (a : Nat) (bs : List Byte) : (s.setBytes a bs).mxes = s.mxes := by rw [setBytes_eq]
@[simp] theorem setBytes_crusts (s : State) (a : Nat) (bs : List Byte) : (s.setBytes a bs).crusts = s.crusts := by rw [setBytes_eq]
@[simp] theorem setBytes_stamps (s : State) (a : Nat) (bs : List Byte) : (s.setBytes a bs).stamps = s.stamps := by rw [setBytes_eq]
@[simp] theorem setBytes_writes (s : State) (a : Nat) (bs : List Byte) : (s.setBytes a bs).writes = s.writes := by rw [setBytes_eq]
@[simp] theorem setBytes_inflight (s : State) (a : Nat) (bs : List Byte) : (s.setBytes a bs).inflight = s.inflight := by rw [setBytes_eq]
@[simp] theorem setBytes_fills (s : State) (a : Nat) (bs : List Byte) : (s.setBytes a bs).fills = s.fills := by rw [setBytes_eq]
@[simp] theorem setBytes_l1 (s : State) (a : Nat) (bs : List Byte) : (s.setBytes a bs).l1 = s.l1 := by rw [setBytes_eq]
@[simp] theorem setBytes_badLines (s : State) (a : Nat) (bs : List Byte) : (s.setBytes a bs).badLines = s.badLines := by rw [setBytes_eq]
@[simp] theorem setBytes_badCounters (s : State) (a : Nat) (bs : List Byte) : (s.setBytes a bs).badCounters = s.badCounters := by rw [setBytes_eq]
@[simp] theorem setBytes_sealTags (s : State) (a : Nat) (bs : List Byte) : (s.setBytes a bs).sealTags = s.sealTags := by rw [setBytes_eq]
@[simp] theorem setBytes_counters (s : State) (a : Nat) (bs : List Byte) : (s.setBytes a bs).counters = s.counters := by rw [setBytes_eq]
@[simp] theorem setBytes_dirty (s : State) (a : Nat) (bs : List Byte) : (s.setBytes a bs).dirty = s.dirty := by rw [setBytes_eq]
@[simp] theorem setBytes_vague (s : State) (a : Nat) (bs : List Byte) : (s.setBytes a bs).vague = s.vague := by rw [setBytes_eq]
@[simp] theorem setBytes_verOwned (s : State) (a : Nat) (bs : List Byte) : (s.setBytes a bs).verOwned = s.verOwned := by rw [setBytes_eq]
@[simp] theorem setBytes_verTaint (s : State) (a : Nat) (bs : List Byte) : (s.setBytes a bs).verTaint = s.verTaint := by rw [setBytes_eq]
@[simp] theorem setBytes_keys (s : State) (a : Nat) (bs : List Byte) : (s.setBytes a bs).keys = s.keys := by rw [setBytes_eq]
@[simp] theorem setBytes_keyGen (s : State) (a : Nat) (bs : List Byte) : (s.setBytes a bs).keyGen = s.keyGen := by rw [setBytes_eq]
@[simp] theorem setBytes_carveC (s : State) (a : Nat) (bs : List Byte) : (s.setBytes a bs).carveC = s.carveC := by rw [setBytes_eq]
@[simp] theorem setBytes_sealG (s : State) (a : Nat) (bs : List Byte) : (s.setBytes a bs).sealG = s.sealG := by rw [setBytes_eq]
@[simp] theorem setBytes_sbase (s : State) (a : Nat) (bs : List Byte) : (s.setBytes a bs).sbase = s.sbase := by rw [setBytes_eq]
@[simp] theorem setBytes_devNo (s : State) (a : Nat) (bs : List Byte) : (s.setBytes a bs).devNo = s.devNo := by rw [setBytes_eq]
@[simp] theorem setBytes_stage (s : State) (a : Nat) (bs : List Byte) : (s.setBytes a bs).stage = s.stage := by rw [setBytes_eq]
@[simp] theorem setBytes_life (s : State) (a : Nat) (bs : List Byte) : (s.setBytes a bs).life = s.life := by rw [setBytes_eq]
@[simp] theorem setBytes_firmware (s : State) (a : Nat) (bs : List Byte) : (s.setBytes a bs).firmware = s.firmware := by rw [setBytes_eq]
@[simp] theorem setBytes_locked (s : State) (a : Nat) (bs : List Byte) : (s.setBytes a bs).locked = s.locked := by rw [setBytes_eq]
@[simp] theorem setBytes_everLocked (s : State) (a : Nat) (bs : List Byte) : (s.setBytes a bs).everLocked = s.everLocked := by rw [setBytes_eq]
@[simp] theorem setBytes_lastPtm (s : State) (a : Nat) (bs : List Byte) : (s.setBytes a bs).lastPtm = s.lastPtm := by rw [setBytes_eq]
@[simp] theorem setBytes_cap (s : State) (a : Nat) (bs : List Byte) : (s.setBytes a bs).cap = s.cap := by rw [setBytes_eq]
@[simp] theorem setBytes_clockK (s : State) (a : Nat) (bs : List Byte) : (s.setBytes a bs).clockK = s.clockK := by rw [setBytes_eq]
@[simp] theorem setBytes_shares (s : State) (a : Nat) (bs : List Byte) : (s.setBytes a bs).shares = s.shares := by rw [setBytes_eq]
@[simp] theorem setBytes_queueNotes (s : State) (a : Nat) (bs : List Byte) : (s.setBytes a bs).queueNotes = s.queueNotes := by rw [setBytes_eq]
@[simp] theorem setBytes_lastQueue (s : State) (a : Nat) (bs : List Byte) : (s.setBytes a bs).lastQueue = s.lastQueue := by rw [setBytes_eq]
@[simp] theorem setBytes_groups (s : State) (a : Nat) (bs : List Byte) : (s.setBytes a bs).groups = s.groups := by rw [setBytes_eq]
@[simp] theorem setBytes_rounds (s : State) (a : Nat) (bs : List Byte) : (s.setBytes a bs).rounds = s.rounds := by rw [setBytes_eq]
@[simp] theorem setBytes_doneRounds (s : State) (a : Nat) (bs : List Byte) : (s.setBytes a bs).doneRounds = s.doneRounds := by rw [setBytes_eq]
@[simp] theorem setBytes_fabric (s : State) (a : Nat) (bs : List Byte) : (s.setBytes a bs).fabric = s.fabric := by rw [setBytes_eq]
@[simp] theorem setBytes_taskCtr (s : State) (a : Nat) (bs : List Byte) : (s.setBytes a bs).taskCtr = s.taskCtr := by rw [setBytes_eq]
@[simp] theorem setBytes_joinCks (s : State) (a : Nat) (bs : List Byte) : (s.setBytes a bs).joinCks = s.joinCks := by rw [setBytes_eq]
@[simp] theorem setBytes_notes (s : State) (a : Nat) (bs : List Byte) : (s.setBytes a bs).notes = s.notes := by rw [setBytes_eq]
@[simp] theorem setBytes_images (s : State) (a : Nat) (bs : List Byte) : (s.setBytes a bs).images = s.images := by rw [setBytes_eq]
@[simp] theorem setBytes_parked (s : State) (a : Nat) (bs : List Byte) : (s.setBytes a bs).parked = s.parked := by rw [setBytes_eq]
@[simp] theorem setBytes_cycle (s : State) (a : Nat) (bs : List Byte) : (s.setBytes a bs).cycle = s.cycle := by rw [setBytes_eq]
@[simp] theorem setBytes_dtime (s : State) (a : Nat) (bs : List Byte) : (s.setBytes a bs).dtime = s.dtime := by rw [setBytes_eq]
@[simp] theorem setBytes_slew (s : State) (a : Nat) (bs : List Byte) : (s.setBytes a bs).slew = s.slew := by rw [setBytes_eq]
@[simp] theorem setBytes_slewAcc (s : State) (a : Nat) (bs : List Byte) : (s.setBytes a bs).slewAcc = s.slewAcc := by rw [setBytes_eq]
@[simp] theorem setBytes_cur (s : State) (a : Nat) (bs : List Byte) : (s.setBytes a bs).cur = s.cur := by rw [setBytes_eq]
@[simp] theorem setBytes_tape (s : State) (a : Nat) (bs : List Byte) : (s.setBytes a bs).tape = s.tape := by rw [setBytes_eq]
@[simp] theorem setBytes_freeCtr (s : State) (a : Nat) (bs : List Byte) : (s.setBytes a bs).freeCtr = s.freeCtr := by rw [setBytes_eq]
@[simp] theorem setBytes_dCycles (s : State) (a : Nat) (bs : List Byte) : (s.setBytes a bs).dCycles = s.dCycles := by rw [setBytes_eq]
@[simp] theorem setBytes_dNs (s : State) (a : Nat) (bs : List Byte) : (s.setBytes a bs).dNs = s.dNs := by rw [setBytes_eq]
@[simp] theorem setBytes_eager (s : State) (a : Nat) (bs : List Byte) : (s.setBytes a bs).eager = s.eager := by rw [setBytes_eq]

/-! ## Core.setX -/

@[simp] theorem setX_ia (k : Core) (r : Reg) (v : Word) : (k.setX r v).ia = k.ia := by unfold Core.setX; split <;> [rfl; split <;> rfl]
@[simp] theorem setX_line (k : Core) (r : Reg) (v : Word) : (k.setX r v).line = k.line := by unfold Core.setX; split <;> [rfl; split <;> rfl]
@[simp] theorem setX_icache (k : Core) (r : Reg) (v : Word) : (k.setX r v).icache = k.icache := by unfold Core.setX; split <;> [rfl; split <;> rfl]
@[simp] theorem setX_act (k : Core) (r : Reg) (v : Word) : (k.setX r v).act = k.act := by unfold Core.setX; split <;> [rfl; split <;> rfl]
@[simp] theorem setX_vregs (k : Core) (r : Reg) (v : Word) : (k.setX r v).vregs = k.vregs := by unfold Core.setX; split <;> [rfl; split <;> rfl]
@[simp] theorem setX_dirty (k : Core) (r : Reg) (v : Word) : (k.setX r v).dirty = k.dirty := by unfold Core.setX; split <;> [rfl; split <;> rfl]
@[simp] theorem setX_vrows (k : Core) (r : Reg) (v : Word) : (k.setX r v).vrows = k.vrows := by unfold Core.setX; split <;> [rfl; split <;> rfl]
@[simp] theorem setX_wideFile (k : Core) (r : Reg) (v : Word) : (k.setX r v).wideFile = k.wideFile := by unfold Core.setX; split <;> [rfl; split <;> rfl]
@[simp] theorem setX_k1 (k : Core) (r : Reg) (v : Word) : (k.setX r v).k1 = k.k1 := by unfold Core.setX; split <;> [rfl; split <;> rfl]
@[simp] theorem setX_k2 (k : Core) (r : Reg) (v : Word) : (k.setX r v).k2 = k.k2 := by unfold Core.setX; split <;> [rfl; split <;> rfl]
@[simp] theorem setX_k3 (k : Core) (r : Reg) (v : Word) : (k.setX r v).k3 = k.k3 := by unfold Core.setX; split <;> [rfl; split <;> rfl]
@[simp] theorem setX_flags (k : Core) (r : Reg) (v : Word) : (k.setX r v).flags = k.flags := by unfold Core.setX; split <;> [rfl; split <;> rfl]
@[simp] theorem setX_frm (k : Core) (r : Reg) (v : Word) : (k.setX r v).frm = k.frm := by unfold Core.setX; split <;> [rfl; split <;> rfl]
@[simp] theorem setX_wide (k : Core) (r : Reg) (v : Word) : (k.setX r v).wide = k.wide := by unfold Core.setX; split <;> [rfl; split <;> rfl]
@[simp] theorem setX_nr (k : Core) (r : Reg) (v : Word) : (k.setX r v).nr = k.nr := by unfold Core.setX; split <;> [rfl; split <;> rfl]
@[simp] theorem setX_nc (k : Core) (r : Reg) (v : Word) : (k.setX r v).nc = k.nc := by unfold Core.setX; split <;> [rfl; split <;> rfl]
@[simp] theorem setX_vstart (k : Core) (r : Reg) (v : Word) : (k.setX r v).vstart = k.vstart := by unfold Core.setX; split <;> [rfl; split <;> rfl]
@[simp] theorem setX_ffnr (k : Core) (r : Reg) (v : Word) : (k.setX r v).ffnr = k.ffnr := by unfold Core.setX; split <;> [rfl; split <;> rfl]
@[simp] theorem setX_scx (k : Core) (r : Reg) (v : Word) : (k.setX r v).scx = k.scx := by unfold Core.setX; split <;> [rfl; split <;> rfl]
@[simp] theorem setX_verstat (k : Core) (r : Reg) (v : Word) : (k.setX r v).verstat = k.verstat := by unfold Core.setX; split <;> [rfl; split <;> rfl]
@[simp] theorem setX_kvroot (k : Core) (r : Reg) (v : Word) : (k.setX r v).kvroot = k.kvroot := by unfold Core.setX; split <;> [rfl; split <;> rfl]
@[simp] theorem setX_cpwp (k : Core) (r : Reg) (v : Word) : (k.setX r v).cpwp = k.cpwp := by unfold Core.setX; split <;> [rfl; split <;> rfl]
@[simp] theorem setX_taskrec (k : Core) (r : Reg) (v : Word) : (k.setX r v).taskrec = k.taskrec := by unfold Core.setX; split <;> [rfl; split <;> rfl]
@[simp] theorem setX_launch (k : Core) (r : Reg) (v : Word) : (k.setX r v).launch = k.launch := by unfold Core.setX; split <;> [rfl; split <;> rfl]
@[simp] theorem setX_deadline (k : Core) (r : Reg) (v : Word) : (k.setX r v).deadline = k.deadline := by unfold Core.setX; split <;> [rfl; split <;> rfl]
@[simp] theorem setX_paduse (k : Core) (r : Reg) (v : Word) : (k.setX r v).paduse = k.paduse := by unfold Core.setX; split <;> [rfl; split <;> rfl]
@[simp] theorem setX_cause (k : Core) (r : Reg) (v : Word) : (k.setX r v).cause = k.cause := by unfold Core.setX; split <;> [rfl; split <;> rfl]
@[simp] theorem setX_eia (k : Core) (r : Reg) (v : Word) : (k.setX r v).eia = k.eia := by unfold Core.setX; split <;> [rfl; split <;> rfl]
@[simp] theorem setX_eva (k : Core) (r : Reg) (v : Word) : (k.setX r v).eva = k.eva := by unfold Core.setX; split <;> [rfl; split <;> rfl]
@[simp] theorem setX_ekv (k : Core) (r : Reg) (v : Word) : (k.setX r v).ekv = k.ekv := by unfold Core.setX; split <;> [rfl; split <;> rfl]
@[simp] theorem setX_eaux (k : Core) (r : Reg) (v : Word) : (k.setX r v).eaux = k.eaux := by unfold Core.setX; split <;> [rfl; split <;> rfl]
@[simp] theorem setX_tvec (k : Core) (r : Reg) (v : Word) : (k.setX r v).tvec = k.tvec := by unfold Core.setX; split <;> [rfl; split <;> rfl]
@[simp] theorem setX_sstat (k : Core) (r : Reg) (v : Word) : (k.setX r v).sstat = k.sstat := by unfold Core.setX; split <;> [rfl; split <;> rfl]
@[simp] theorem setX_asid (k : Core) (r : Reg) (v : Word) : (k.setX r v).asid = k.asid := by unfold Core.setX; split <;> [rfl; split <;> rfl]
@[simp] theorem setX_ptroot (k : Core) (r : Reg) (v : Word) : (k.setX r v).ptroot = k.ptroot := by unfold Core.setX; split <;> [rfl; split <;> rfl]
@[simp] theorem setX_queue (k : Core) (r : Reg) (v : Word) : (k.setX r v).queue = k.queue := by unfold Core.setX; split <;> [rfl; split <;> rfl]
@[simp] theorem setX_held (k : Core) (r : Reg) (v : Word) : (k.setX r v).held = k.held := by unfold Core.setX; split <;> [rfl; split <;> rfl]
@[simp] theorem setX_chans (k : Core) (r : Reg) (v : Word) : (k.setX r v).chans = k.chans := by unfold Core.setX; split <;> [rfl; split <;> rfl]
@[simp] theorem setX_cpwpCk (k : Core) (r : Reg) (v : Word) : (k.setX r v).cpwpCk = k.cpwpCk := by unfold Core.setX; split <;> [rfl; split <;> rfl]
@[simp] theorem setX_seq (k : Core) (r : Reg) (v : Word) : (k.setX r v).seq = k.seq := by unfold Core.setX; split <;> [rfl; split <;> rfl]
@[simp] theorem setX_fenceSeq (k : Core) (r : Reg) (v : Word) : (k.setX r v).fenceSeq = k.fenceSeq := by unfold Core.setX; split <;> [rfl; split <;> rfl]
@[simp] theorem setX_svFence (k : Core) (r : Reg) (v : Word) : (k.setX r v).svFence = k.svFence := by unfold Core.setX; split <;> [rfl; split <;> rfl]
@[simp] theorem setX_sb (k : Core) (r : Reg) (v : Word) : (k.setX r v).sb = k.sb := by unfold Core.setX; split <;> [rfl; split <;> rfl]
@[simp] theorem setX_ck (k : Core) (r : Reg) (v : Word) : (k.setX r v).ck = k.ck := by unfold Core.setX; split <;> [rfl; split <;> rfl]
@[simp] theorem setX_slices (k : Core) (r : Reg) (v : Word) : (k.setX r v).slices = k.slices := by unfold Core.setX; split <;> [rfl; split <;> rfl]
@[simp] theorem setX_window (k : Core) (r : Reg) (v : Word) : (k.setX r v).window = k.window := by unfold Core.setX; split <;> [rfl; split <;> rfl]
@[simp] theorem setX_deferred (k : Core) (r : Reg) (v : Word) : (k.setX r v).deferred = k.deferred := by unfold Core.setX; split <;> [rfl; split <;> rfl]
@[simp] theorem setX_preempt (k : Core) (r : Reg) (v : Word) : (k.setX r v).preempt = k.preempt := by unfold Core.setX; split <;> [rfl; split <;> rfl]
@[simp] theorem setX_reclaim (k : Core) (r : Reg) (v : Word) : (k.setX r v).reclaim = k.reclaim := by unfold Core.setX; split <;> [rfl; split <;> rfl]
@[simp] theorem setX_mgmt (k : Core) (r : Reg) (v : Word) : (k.setX r v).mgmt = k.mgmt := by unfold Core.setX; split <;> [rfl; split <;> rfl]
@[simp] theorem setX_restored (k : Core) (r : Reg) (v : Word) : (k.setX r v).restored = k.restored := by unfold Core.setX; split <;> [rfl; split <;> rfl]
@[simp] theorem setX_monitor (k : Core) (r : Reg) (v : Word) : (k.setX r v).monitor = k.monitor := by unfold Core.setX; split <;> [rfl; split <;> rfl]
@[simp] theorem setX_mirror (k : Core) (r : Reg) (v : Word) : (k.setX r v).mirror = k.mirror := by unfold Core.setX; split <;> [rfl; split <;> rfl]
@[simp] theorem setX_mirrorCk (k : Core) (r : Reg) (v : Word) : (k.setX r v).mirrorCk = k.mirrorCk := by unfold Core.setX; split <;> [rfl; split <;> rfl]
@[simp] theorem setX_deque (k : Core) (r : Reg) (v : Word) : (k.setX r v).deque = k.deque := by unfold Core.setX; split <;> [rfl; split <;> rfl]
@[simp] theorem setX_run (k : Core) (r : Reg) (v : Word) : (k.setX r v).run = k.run := by unfold Core.setX; split <;> [rfl; split <;> rfl]
@[simp] theorem setX_taskNo (k : Core) (r : Reg) (v : Word) : (k.setX r v).taskNo = k.taskNo := by unfold Core.setX; split <;> [rfl; split <;> rfl]
@[simp] theorem setX_pendingPush (k : Core) (r : Reg) (v : Word) : (k.setX r v).pendingPush = k.pendingPush := by unfold Core.setX; split <;> [rfl; split <;> rfl]
@[simp] theorem setX_settling (k : Core) (r : Reg) (v : Word) : (k.setX r v).settling = k.settling := by unfold Core.setX; split <;> [rfl; split <;> rfl]
@[simp] theorem setX_draining (k : Core) (r : Reg) (v : Word) : (k.setX r v).draining = k.draining := by unfold Core.setX; split <;> [rfl; split <;> rfl]
@[simp] theorem setX_failing (k : Core) (r : Reg) (v : Word) : (k.setX r v).failing = k.failing := by unfold Core.setX; split <;> [rfl; split <;> rfl]

/-! ## Core.setXOf -/

@[simp] theorem setXOf_ia (k : Core) (b : Bool) (r : Reg) (v : Word) : (k.setXOf b r v).ia = k.ia := by unfold Core.setXOf; split <;> [rfl; split <;> rfl]
@[simp] theorem setXOf_line (k : Core) (b : Bool) (r : Reg) (v : Word) : (k.setXOf b r v).line = k.line := by unfold Core.setXOf; split <;> [rfl; split <;> rfl]
@[simp] theorem setXOf_icache (k : Core) (b : Bool) (r : Reg) (v : Word) : (k.setXOf b r v).icache = k.icache := by unfold Core.setXOf; split <;> [rfl; split <;> rfl]
@[simp] theorem setXOf_act (k : Core) (b : Bool) (r : Reg) (v : Word) : (k.setXOf b r v).act = k.act := by unfold Core.setXOf; split <;> [rfl; split <;> rfl]
@[simp] theorem setXOf_vregs (k : Core) (b : Bool) (r : Reg) (v : Word) : (k.setXOf b r v).vregs = k.vregs := by unfold Core.setXOf; split <;> [rfl; split <;> rfl]
@[simp] theorem setXOf_dirty (k : Core) (b : Bool) (r : Reg) (v : Word) : (k.setXOf b r v).dirty = k.dirty := by unfold Core.setXOf; split <;> [rfl; split <;> rfl]
@[simp] theorem setXOf_vrows (k : Core) (b : Bool) (r : Reg) (v : Word) : (k.setXOf b r v).vrows = k.vrows := by unfold Core.setXOf; split <;> [rfl; split <;> rfl]
@[simp] theorem setXOf_wideFile (k : Core) (b : Bool) (r : Reg) (v : Word) : (k.setXOf b r v).wideFile = k.wideFile := by unfold Core.setXOf; split <;> [rfl; split <;> rfl]
@[simp] theorem setXOf_k1 (k : Core) (b : Bool) (r : Reg) (v : Word) : (k.setXOf b r v).k1 = k.k1 := by unfold Core.setXOf; split <;> [rfl; split <;> rfl]
@[simp] theorem setXOf_k2 (k : Core) (b : Bool) (r : Reg) (v : Word) : (k.setXOf b r v).k2 = k.k2 := by unfold Core.setXOf; split <;> [rfl; split <;> rfl]
@[simp] theorem setXOf_k3 (k : Core) (b : Bool) (r : Reg) (v : Word) : (k.setXOf b r v).k3 = k.k3 := by unfold Core.setXOf; split <;> [rfl; split <;> rfl]
@[simp] theorem setXOf_flags (k : Core) (b : Bool) (r : Reg) (v : Word) : (k.setXOf b r v).flags = k.flags := by unfold Core.setXOf; split <;> [rfl; split <;> rfl]
@[simp] theorem setXOf_frm (k : Core) (b : Bool) (r : Reg) (v : Word) : (k.setXOf b r v).frm = k.frm := by unfold Core.setXOf; split <;> [rfl; split <;> rfl]
@[simp] theorem setXOf_wide (k : Core) (b : Bool) (r : Reg) (v : Word) : (k.setXOf b r v).wide = k.wide := by unfold Core.setXOf; split <;> [rfl; split <;> rfl]
@[simp] theorem setXOf_nr (k : Core) (b : Bool) (r : Reg) (v : Word) : (k.setXOf b r v).nr = k.nr := by unfold Core.setXOf; split <;> [rfl; split <;> rfl]
@[simp] theorem setXOf_nc (k : Core) (b : Bool) (r : Reg) (v : Word) : (k.setXOf b r v).nc = k.nc := by unfold Core.setXOf; split <;> [rfl; split <;> rfl]
@[simp] theorem setXOf_vstart (k : Core) (b : Bool) (r : Reg) (v : Word) : (k.setXOf b r v).vstart = k.vstart := by unfold Core.setXOf; split <;> [rfl; split <;> rfl]
@[simp] theorem setXOf_ffnr (k : Core) (b : Bool) (r : Reg) (v : Word) : (k.setXOf b r v).ffnr = k.ffnr := by unfold Core.setXOf; split <;> [rfl; split <;> rfl]
@[simp] theorem setXOf_scx (k : Core) (b : Bool) (r : Reg) (v : Word) : (k.setXOf b r v).scx = k.scx := by unfold Core.setXOf; split <;> [rfl; split <;> rfl]
@[simp] theorem setXOf_verstat (k : Core) (b : Bool) (r : Reg) (v : Word) : (k.setXOf b r v).verstat = k.verstat := by unfold Core.setXOf; split <;> [rfl; split <;> rfl]
@[simp] theorem setXOf_kvroot (k : Core) (b : Bool) (r : Reg) (v : Word) : (k.setXOf b r v).kvroot = k.kvroot := by unfold Core.setXOf; split <;> [rfl; split <;> rfl]
@[simp] theorem setXOf_cpwp (k : Core) (b : Bool) (r : Reg) (v : Word) : (k.setXOf b r v).cpwp = k.cpwp := by unfold Core.setXOf; split <;> [rfl; split <;> rfl]
@[simp] theorem setXOf_taskrec (k : Core) (b : Bool) (r : Reg) (v : Word) : (k.setXOf b r v).taskrec = k.taskrec := by unfold Core.setXOf; split <;> [rfl; split <;> rfl]
@[simp] theorem setXOf_launch (k : Core) (b : Bool) (r : Reg) (v : Word) : (k.setXOf b r v).launch = k.launch := by unfold Core.setXOf; split <;> [rfl; split <;> rfl]
@[simp] theorem setXOf_deadline (k : Core) (b : Bool) (r : Reg) (v : Word) : (k.setXOf b r v).deadline = k.deadline := by unfold Core.setXOf; split <;> [rfl; split <;> rfl]
@[simp] theorem setXOf_paduse (k : Core) (b : Bool) (r : Reg) (v : Word) : (k.setXOf b r v).paduse = k.paduse := by unfold Core.setXOf; split <;> [rfl; split <;> rfl]
@[simp] theorem setXOf_cause (k : Core) (b : Bool) (r : Reg) (v : Word) : (k.setXOf b r v).cause = k.cause := by unfold Core.setXOf; split <;> [rfl; split <;> rfl]
@[simp] theorem setXOf_eia (k : Core) (b : Bool) (r : Reg) (v : Word) : (k.setXOf b r v).eia = k.eia := by unfold Core.setXOf; split <;> [rfl; split <;> rfl]
@[simp] theorem setXOf_eva (k : Core) (b : Bool) (r : Reg) (v : Word) : (k.setXOf b r v).eva = k.eva := by unfold Core.setXOf; split <;> [rfl; split <;> rfl]
@[simp] theorem setXOf_ekv (k : Core) (b : Bool) (r : Reg) (v : Word) : (k.setXOf b r v).ekv = k.ekv := by unfold Core.setXOf; split <;> [rfl; split <;> rfl]
@[simp] theorem setXOf_eaux (k : Core) (b : Bool) (r : Reg) (v : Word) : (k.setXOf b r v).eaux = k.eaux := by unfold Core.setXOf; split <;> [rfl; split <;> rfl]
@[simp] theorem setXOf_tvec (k : Core) (b : Bool) (r : Reg) (v : Word) : (k.setXOf b r v).tvec = k.tvec := by unfold Core.setXOf; split <;> [rfl; split <;> rfl]
@[simp] theorem setXOf_sstat (k : Core) (b : Bool) (r : Reg) (v : Word) : (k.setXOf b r v).sstat = k.sstat := by unfold Core.setXOf; split <;> [rfl; split <;> rfl]
@[simp] theorem setXOf_asid (k : Core) (b : Bool) (r : Reg) (v : Word) : (k.setXOf b r v).asid = k.asid := by unfold Core.setXOf; split <;> [rfl; split <;> rfl]
@[simp] theorem setXOf_ptroot (k : Core) (b : Bool) (r : Reg) (v : Word) : (k.setXOf b r v).ptroot = k.ptroot := by unfold Core.setXOf; split <;> [rfl; split <;> rfl]
@[simp] theorem setXOf_queue (k : Core) (b : Bool) (r : Reg) (v : Word) : (k.setXOf b r v).queue = k.queue := by unfold Core.setXOf; split <;> [rfl; split <;> rfl]
@[simp] theorem setXOf_held (k : Core) (b : Bool) (r : Reg) (v : Word) : (k.setXOf b r v).held = k.held := by unfold Core.setXOf; split <;> [rfl; split <;> rfl]
@[simp] theorem setXOf_chans (k : Core) (b : Bool) (r : Reg) (v : Word) : (k.setXOf b r v).chans = k.chans := by unfold Core.setXOf; split <;> [rfl; split <;> rfl]
@[simp] theorem setXOf_cpwpCk (k : Core) (b : Bool) (r : Reg) (v : Word) : (k.setXOf b r v).cpwpCk = k.cpwpCk := by unfold Core.setXOf; split <;> [rfl; split <;> rfl]
@[simp] theorem setXOf_seq (k : Core) (b : Bool) (r : Reg) (v : Word) : (k.setXOf b r v).seq = k.seq := by unfold Core.setXOf; split <;> [rfl; split <;> rfl]
@[simp] theorem setXOf_fenceSeq (k : Core) (b : Bool) (r : Reg) (v : Word) : (k.setXOf b r v).fenceSeq = k.fenceSeq := by unfold Core.setXOf; split <;> [rfl; split <;> rfl]
@[simp] theorem setXOf_svFence (k : Core) (b : Bool) (r : Reg) (v : Word) : (k.setXOf b r v).svFence = k.svFence := by unfold Core.setXOf; split <;> [rfl; split <;> rfl]
@[simp] theorem setXOf_sb (k : Core) (b : Bool) (r : Reg) (v : Word) : (k.setXOf b r v).sb = k.sb := by unfold Core.setXOf; split <;> [rfl; split <;> rfl]
@[simp] theorem setXOf_ck (k : Core) (b : Bool) (r : Reg) (v : Word) : (k.setXOf b r v).ck = k.ck := by unfold Core.setXOf; split <;> [rfl; split <;> rfl]
@[simp] theorem setXOf_slices (k : Core) (b : Bool) (r : Reg) (v : Word) : (k.setXOf b r v).slices = k.slices := by unfold Core.setXOf; split <;> [rfl; split <;> rfl]
@[simp] theorem setXOf_window (k : Core) (b : Bool) (r : Reg) (v : Word) : (k.setXOf b r v).window = k.window := by unfold Core.setXOf; split <;> [rfl; split <;> rfl]
@[simp] theorem setXOf_deferred (k : Core) (b : Bool) (r : Reg) (v : Word) : (k.setXOf b r v).deferred = k.deferred := by unfold Core.setXOf; split <;> [rfl; split <;> rfl]
@[simp] theorem setXOf_preempt (k : Core) (b : Bool) (r : Reg) (v : Word) : (k.setXOf b r v).preempt = k.preempt := by unfold Core.setXOf; split <;> [rfl; split <;> rfl]
@[simp] theorem setXOf_reclaim (k : Core) (b : Bool) (r : Reg) (v : Word) : (k.setXOf b r v).reclaim = k.reclaim := by unfold Core.setXOf; split <;> [rfl; split <;> rfl]
@[simp] theorem setXOf_mgmt (k : Core) (b : Bool) (r : Reg) (v : Word) : (k.setXOf b r v).mgmt = k.mgmt := by unfold Core.setXOf; split <;> [rfl; split <;> rfl]
@[simp] theorem setXOf_restored (k : Core) (b : Bool) (r : Reg) (v : Word) : (k.setXOf b r v).restored = k.restored := by unfold Core.setXOf; split <;> [rfl; split <;> rfl]
@[simp] theorem setXOf_monitor (k : Core) (b : Bool) (r : Reg) (v : Word) : (k.setXOf b r v).monitor = k.monitor := by unfold Core.setXOf; split <;> [rfl; split <;> rfl]
@[simp] theorem setXOf_mirror (k : Core) (b : Bool) (r : Reg) (v : Word) : (k.setXOf b r v).mirror = k.mirror := by unfold Core.setXOf; split <;> [rfl; split <;> rfl]
@[simp] theorem setXOf_mirrorCk (k : Core) (b : Bool) (r : Reg) (v : Word) : (k.setXOf b r v).mirrorCk = k.mirrorCk := by unfold Core.setXOf; split <;> [rfl; split <;> rfl]
@[simp] theorem setXOf_deque (k : Core) (b : Bool) (r : Reg) (v : Word) : (k.setXOf b r v).deque = k.deque := by unfold Core.setXOf; split <;> [rfl; split <;> rfl]
@[simp] theorem setXOf_run (k : Core) (b : Bool) (r : Reg) (v : Word) : (k.setXOf b r v).run = k.run := by unfold Core.setXOf; split <;> [rfl; split <;> rfl]
@[simp] theorem setXOf_taskNo (k : Core) (b : Bool) (r : Reg) (v : Word) : (k.setXOf b r v).taskNo = k.taskNo := by unfold Core.setXOf; split <;> [rfl; split <;> rfl]
@[simp] theorem setXOf_pendingPush (k : Core) (b : Bool) (r : Reg) (v : Word) : (k.setXOf b r v).pendingPush = k.pendingPush := by unfold Core.setXOf; split <;> [rfl; split <;> rfl]
@[simp] theorem setXOf_settling (k : Core) (b : Bool) (r : Reg) (v : Word) : (k.setXOf b r v).settling = k.settling := by unfold Core.setXOf; split <;> [rfl; split <;> rfl]
@[simp] theorem setXOf_draining (k : Core) (b : Bool) (r : Reg) (v : Word) : (k.setXOf b r v).draining = k.draining := by unfold Core.setXOf; split <;> [rfl; split <;> rfl]
@[simp] theorem setXOf_failing (k : Core) (b : Bool) (r : Reg) (v : Word) : (k.setXOf b r v).failing = k.failing := by unfold Core.setXOf; split <;> [rfl; split <;> rfl]

/-! ## Core.setRow -/

@[simp] theorem setRow_task (k : Core) (w : Bool) (d : Reg) (r : Nat) (v : VRow) : (k.setRow w d r v).task = k.task := rfl
@[simp] theorem setRow_sup (k : Core) (w : Bool) (d : Reg) (r : Nat) (v : VRow) : (k.setRow w d r v).sup = k.sup := rfl
@[simp] theorem setRow_ia (k : Core) (w : Bool) (d : Reg) (r : Nat) (v : VRow) : (k.setRow w d r v).ia = k.ia := rfl
@[simp] theorem setRow_line (k : Core) (w : Bool) (d : Reg) (r : Nat) (v : VRow) : (k.setRow w d r v).line = k.line := rfl
@[simp] theorem setRow_icache (k : Core) (w : Bool) (d : Reg) (r : Nat) (v : VRow) : (k.setRow w d r v).icache = k.icache := rfl
@[simp] theorem setRow_act (k : Core) (w : Bool) (d : Reg) (r : Nat) (v : VRow) : (k.setRow w d r v).act = k.act := rfl
@[simp] theorem setRow_wideFile (k : Core) (w : Bool) (d : Reg) (r : Nat) (v : VRow) : (k.setRow w d r v).wideFile = k.wideFile := rfl
@[simp] theorem setRow_k1 (k : Core) (w : Bool) (d : Reg) (r : Nat) (v : VRow) : (k.setRow w d r v).k1 = k.k1 := rfl
@[simp] theorem setRow_k2 (k : Core) (w : Bool) (d : Reg) (r : Nat) (v : VRow) : (k.setRow w d r v).k2 = k.k2 := rfl
@[simp] theorem setRow_k3 (k : Core) (w : Bool) (d : Reg) (r : Nat) (v : VRow) : (k.setRow w d r v).k3 = k.k3 := rfl
@[simp] theorem setRow_flags (k : Core) (w : Bool) (d : Reg) (r : Nat) (v : VRow) : (k.setRow w d r v).flags = k.flags := rfl
@[simp] theorem setRow_frm (k : Core) (w : Bool) (d : Reg) (r : Nat) (v : VRow) : (k.setRow w d r v).frm = k.frm := rfl
@[simp] theorem setRow_wide (k : Core) (w : Bool) (d : Reg) (r : Nat) (v : VRow) : (k.setRow w d r v).wide = k.wide := rfl
@[simp] theorem setRow_nr (k : Core) (w : Bool) (d : Reg) (r : Nat) (v : VRow) : (k.setRow w d r v).nr = k.nr := rfl
@[simp] theorem setRow_nc (k : Core) (w : Bool) (d : Reg) (r : Nat) (v : VRow) : (k.setRow w d r v).nc = k.nc := rfl
@[simp] theorem setRow_vstart (k : Core) (w : Bool) (d : Reg) (r : Nat) (v : VRow) : (k.setRow w d r v).vstart = k.vstart := rfl
@[simp] theorem setRow_ffnr (k : Core) (w : Bool) (d : Reg) (r : Nat) (v : VRow) : (k.setRow w d r v).ffnr = k.ffnr := rfl
@[simp] theorem setRow_scx (k : Core) (w : Bool) (d : Reg) (r : Nat) (v : VRow) : (k.setRow w d r v).scx = k.scx := rfl
@[simp] theorem setRow_verstat (k : Core) (w : Bool) (d : Reg) (r : Nat) (v : VRow) : (k.setRow w d r v).verstat = k.verstat := rfl
@[simp] theorem setRow_kvroot (k : Core) (w : Bool) (d : Reg) (r : Nat) (v : VRow) : (k.setRow w d r v).kvroot = k.kvroot := rfl
@[simp] theorem setRow_cpwp (k : Core) (w : Bool) (d : Reg) (r : Nat) (v : VRow) : (k.setRow w d r v).cpwp = k.cpwp := rfl
@[simp] theorem setRow_taskrec (k : Core) (w : Bool) (d : Reg) (r : Nat) (v : VRow) : (k.setRow w d r v).taskrec = k.taskrec := rfl
@[simp] theorem setRow_launch (k : Core) (w : Bool) (d : Reg) (r : Nat) (v : VRow) : (k.setRow w d r v).launch = k.launch := rfl
@[simp] theorem setRow_deadline (k : Core) (w : Bool) (d : Reg) (r : Nat) (v : VRow) : (k.setRow w d r v).deadline = k.deadline := rfl
@[simp] theorem setRow_paduse (k : Core) (w : Bool) (d : Reg) (r : Nat) (v : VRow) : (k.setRow w d r v).paduse = k.paduse := rfl
@[simp] theorem setRow_cause (k : Core) (w : Bool) (d : Reg) (r : Nat) (v : VRow) : (k.setRow w d r v).cause = k.cause := rfl
@[simp] theorem setRow_eia (k : Core) (w : Bool) (d : Reg) (r : Nat) (v : VRow) : (k.setRow w d r v).eia = k.eia := rfl
@[simp] theorem setRow_eva (k : Core) (w : Bool) (d : Reg) (r : Nat) (v : VRow) : (k.setRow w d r v).eva = k.eva := rfl
@[simp] theorem setRow_ekv (k : Core) (w : Bool) (d : Reg) (r : Nat) (v : VRow) : (k.setRow w d r v).ekv = k.ekv := rfl
@[simp] theorem setRow_eaux (k : Core) (w : Bool) (d : Reg) (r : Nat) (v : VRow) : (k.setRow w d r v).eaux = k.eaux := rfl
@[simp] theorem setRow_tvec (k : Core) (w : Bool) (d : Reg) (r : Nat) (v : VRow) : (k.setRow w d r v).tvec = k.tvec := rfl
@[simp] theorem setRow_sstat (k : Core) (w : Bool) (d : Reg) (r : Nat) (v : VRow) : (k.setRow w d r v).sstat = k.sstat := rfl
@[simp] theorem setRow_asid (k : Core) (w : Bool) (d : Reg) (r : Nat) (v : VRow) : (k.setRow w d r v).asid = k.asid := rfl
@[simp] theorem setRow_ptroot (k : Core) (w : Bool) (d : Reg) (r : Nat) (v : VRow) : (k.setRow w d r v).ptroot = k.ptroot := rfl
@[simp] theorem setRow_queue (k : Core) (w : Bool) (d : Reg) (r : Nat) (v : VRow) : (k.setRow w d r v).queue = k.queue := rfl
@[simp] theorem setRow_held (k : Core) (w : Bool) (d : Reg) (r : Nat) (v : VRow) : (k.setRow w d r v).held = k.held := rfl
@[simp] theorem setRow_chans (k : Core) (w : Bool) (d : Reg) (r : Nat) (v : VRow) : (k.setRow w d r v).chans = k.chans := rfl
@[simp] theorem setRow_cpwpCk (k : Core) (w : Bool) (d : Reg) (r : Nat) (v : VRow) : (k.setRow w d r v).cpwpCk = k.cpwpCk := rfl
@[simp] theorem setRow_seq (k : Core) (w : Bool) (d : Reg) (r : Nat) (v : VRow) : (k.setRow w d r v).seq = k.seq := rfl
@[simp] theorem setRow_fenceSeq (k : Core) (w : Bool) (d : Reg) (r : Nat) (v : VRow) : (k.setRow w d r v).fenceSeq = k.fenceSeq := rfl
@[simp] theorem setRow_svFence (k : Core) (w : Bool) (d : Reg) (r : Nat) (v : VRow) : (k.setRow w d r v).svFence = k.svFence := rfl
@[simp] theorem setRow_sb (k : Core) (w : Bool) (d : Reg) (r : Nat) (v : VRow) : (k.setRow w d r v).sb = k.sb := rfl
@[simp] theorem setRow_ck (k : Core) (w : Bool) (d : Reg) (r : Nat) (v : VRow) : (k.setRow w d r v).ck = k.ck := rfl
@[simp] theorem setRow_slices (k : Core) (w : Bool) (d : Reg) (r : Nat) (v : VRow) : (k.setRow w d r v).slices = k.slices := rfl
@[simp] theorem setRow_window (k : Core) (w : Bool) (d : Reg) (r : Nat) (v : VRow) : (k.setRow w d r v).window = k.window := rfl
@[simp] theorem setRow_deferred (k : Core) (w : Bool) (d : Reg) (r : Nat) (v : VRow) : (k.setRow w d r v).deferred = k.deferred := rfl
@[simp] theorem setRow_preempt (k : Core) (w : Bool) (d : Reg) (r : Nat) (v : VRow) : (k.setRow w d r v).preempt = k.preempt := rfl
@[simp] theorem setRow_reclaim (k : Core) (w : Bool) (d : Reg) (r : Nat) (v : VRow) : (k.setRow w d r v).reclaim = k.reclaim := rfl
@[simp] theorem setRow_mgmt (k : Core) (w : Bool) (d : Reg) (r : Nat) (v : VRow) : (k.setRow w d r v).mgmt = k.mgmt := rfl
@[simp] theorem setRow_restored (k : Core) (w : Bool) (d : Reg) (r : Nat) (v : VRow) : (k.setRow w d r v).restored = k.restored := rfl
@[simp] theorem setRow_monitor (k : Core) (w : Bool) (d : Reg) (r : Nat) (v : VRow) : (k.setRow w d r v).monitor = k.monitor := rfl
@[simp] theorem setRow_mirror (k : Core) (w : Bool) (d : Reg) (r : Nat) (v : VRow) : (k.setRow w d r v).mirror = k.mirror := rfl
@[simp] theorem setRow_mirrorCk (k : Core) (w : Bool) (d : Reg) (r : Nat) (v : VRow) : (k.setRow w d r v).mirrorCk = k.mirrorCk := rfl
@[simp] theorem setRow_deque (k : Core) (w : Bool) (d : Reg) (r : Nat) (v : VRow) : (k.setRow w d r v).deque = k.deque := rfl
@[simp] theorem setRow_run (k : Core) (w : Bool) (d : Reg) (r : Nat) (v : VRow) : (k.setRow w d r v).run = k.run := rfl
@[simp] theorem setRow_taskNo (k : Core) (w : Bool) (d : Reg) (r : Nat) (v : VRow) : (k.setRow w d r v).taskNo = k.taskNo := rfl
@[simp] theorem setRow_pendingPush (k : Core) (w : Bool) (d : Reg) (r : Nat) (v : VRow) : (k.setRow w d r v).pendingPush = k.pendingPush := rfl
@[simp] theorem setRow_settling (k : Core) (w : Bool) (d : Reg) (r : Nat) (v : VRow) : (k.setRow w d r v).settling = k.settling := rfl
@[simp] theorem setRow_draining (k : Core) (w : Bool) (d : Reg) (r : Nat) (v : VRow) : (k.setRow w d r v).draining = k.draining := rfl
@[simp] theorem setRow_failing (k : Core) (w : Bool) (d : Reg) (r : Nat) (v : VRow) : (k.setRow w d r v).failing = k.failing := rfl

/-! ## Core.setMask -/

@[simp] theorem setMask_task (k : Core) (m : MaskReg) (v : BitVec 65536) : (k.setMask m v).task = k.task := by unfold Core.setMask; split <;> rfl
@[simp] theorem setMask_sup (k : Core) (m : MaskReg) (v : BitVec 65536) : (k.setMask m v).sup = k.sup := by unfold Core.setMask; split <;> rfl
@[simp] theorem setMask_ia (k : Core) (m : MaskReg) (v : BitVec 65536) : (k.setMask m v).ia = k.ia := by unfold Core.setMask; split <;> rfl
@[simp] theorem setMask_line (k : Core) (m : MaskReg) (v : BitVec 65536) : (k.setMask m v).line = k.line := by unfold Core.setMask; split <;> rfl
@[simp] theorem setMask_icache (k : Core) (m : MaskReg) (v : BitVec 65536) : (k.setMask m v).icache = k.icache := by unfold Core.setMask; split <;> rfl
@[simp] theorem setMask_act (k : Core) (m : MaskReg) (v : BitVec 65536) : (k.setMask m v).act = k.act := by unfold Core.setMask; split <;> rfl
@[simp] theorem setMask_vregs (k : Core) (m : MaskReg) (v : BitVec 65536) : (k.setMask m v).vregs = k.vregs := by unfold Core.setMask; split <;> rfl
@[simp] theorem setMask_dirty (k : Core) (m : MaskReg) (v : BitVec 65536) : (k.setMask m v).dirty = k.dirty := by unfold Core.setMask; split <;> rfl
@[simp] theorem setMask_vrows (k : Core) (m : MaskReg) (v : BitVec 65536) : (k.setMask m v).vrows = k.vrows := by unfold Core.setMask; split <;> rfl
@[simp] theorem setMask_wideFile (k : Core) (m : MaskReg) (v : BitVec 65536) : (k.setMask m v).wideFile = k.wideFile := by unfold Core.setMask; split <;> rfl
@[simp] theorem setMask_flags (k : Core) (m : MaskReg) (v : BitVec 65536) : (k.setMask m v).flags = k.flags := by unfold Core.setMask; split <;> rfl
@[simp] theorem setMask_frm (k : Core) (m : MaskReg) (v : BitVec 65536) : (k.setMask m v).frm = k.frm := by unfold Core.setMask; split <;> rfl
@[simp] theorem setMask_wide (k : Core) (m : MaskReg) (v : BitVec 65536) : (k.setMask m v).wide = k.wide := by unfold Core.setMask; split <;> rfl
@[simp] theorem setMask_nr (k : Core) (m : MaskReg) (v : BitVec 65536) : (k.setMask m v).nr = k.nr := by unfold Core.setMask; split <;> rfl
@[simp] theorem setMask_nc (k : Core) (m : MaskReg) (v : BitVec 65536) : (k.setMask m v).nc = k.nc := by unfold Core.setMask; split <;> rfl
@[simp] theorem setMask_vstart (k : Core) (m : MaskReg) (v : BitVec 65536) : (k.setMask m v).vstart = k.vstart := by unfold Core.setMask; split <;> rfl
@[simp] theorem setMask_ffnr (k : Core) (m : MaskReg) (v : BitVec 65536) : (k.setMask m v).ffnr = k.ffnr := by unfold Core.setMask; split <;> rfl
@[simp] theorem setMask_scx (k : Core) (m : MaskReg) (v : BitVec 65536) : (k.setMask m v).scx = k.scx := by unfold Core.setMask; split <;> rfl
@[simp] theorem setMask_verstat (k : Core) (m : MaskReg) (v : BitVec 65536) : (k.setMask m v).verstat = k.verstat := by unfold Core.setMask; split <;> rfl
@[simp] theorem setMask_kvroot (k : Core) (m : MaskReg) (v : BitVec 65536) : (k.setMask m v).kvroot = k.kvroot := by unfold Core.setMask; split <;> rfl
@[simp] theorem setMask_cpwp (k : Core) (m : MaskReg) (v : BitVec 65536) : (k.setMask m v).cpwp = k.cpwp := by unfold Core.setMask; split <;> rfl
@[simp] theorem setMask_taskrec (k : Core) (m : MaskReg) (v : BitVec 65536) : (k.setMask m v).taskrec = k.taskrec := by unfold Core.setMask; split <;> rfl
@[simp] theorem setMask_launch (k : Core) (m : MaskReg) (v : BitVec 65536) : (k.setMask m v).launch = k.launch := by unfold Core.setMask; split <;> rfl
@[simp] theorem setMask_deadline (k : Core) (m : MaskReg) (v : BitVec 65536) : (k.setMask m v).deadline = k.deadline := by unfold Core.setMask; split <;> rfl
@[simp] theorem setMask_paduse (k : Core) (m : MaskReg) (v : BitVec 65536) : (k.setMask m v).paduse = k.paduse := by unfold Core.setMask; split <;> rfl
@[simp] theorem setMask_cause (k : Core) (m : MaskReg) (v : BitVec 65536) : (k.setMask m v).cause = k.cause := by unfold Core.setMask; split <;> rfl
@[simp] theorem setMask_eia (k : Core) (m : MaskReg) (v : BitVec 65536) : (k.setMask m v).eia = k.eia := by unfold Core.setMask; split <;> rfl
@[simp] theorem setMask_eva (k : Core) (m : MaskReg) (v : BitVec 65536) : (k.setMask m v).eva = k.eva := by unfold Core.setMask; split <;> rfl
@[simp] theorem setMask_ekv (k : Core) (m : MaskReg) (v : BitVec 65536) : (k.setMask m v).ekv = k.ekv := by unfold Core.setMask; split <;> rfl
@[simp] theorem setMask_eaux (k : Core) (m : MaskReg) (v : BitVec 65536) : (k.setMask m v).eaux = k.eaux := by unfold Core.setMask; split <;> rfl
@[simp] theorem setMask_tvec (k : Core) (m : MaskReg) (v : BitVec 65536) : (k.setMask m v).tvec = k.tvec := by unfold Core.setMask; split <;> rfl
@[simp] theorem setMask_sstat (k : Core) (m : MaskReg) (v : BitVec 65536) : (k.setMask m v).sstat = k.sstat := by unfold Core.setMask; split <;> rfl
@[simp] theorem setMask_asid (k : Core) (m : MaskReg) (v : BitVec 65536) : (k.setMask m v).asid = k.asid := by unfold Core.setMask; split <;> rfl
@[simp] theorem setMask_ptroot (k : Core) (m : MaskReg) (v : BitVec 65536) : (k.setMask m v).ptroot = k.ptroot := by unfold Core.setMask; split <;> rfl
@[simp] theorem setMask_queue (k : Core) (m : MaskReg) (v : BitVec 65536) : (k.setMask m v).queue = k.queue := by unfold Core.setMask; split <;> rfl
@[simp] theorem setMask_held (k : Core) (m : MaskReg) (v : BitVec 65536) : (k.setMask m v).held = k.held := by unfold Core.setMask; split <;> rfl
@[simp] theorem setMask_chans (k : Core) (m : MaskReg) (v : BitVec 65536) : (k.setMask m v).chans = k.chans := by unfold Core.setMask; split <;> rfl
@[simp] theorem setMask_cpwpCk (k : Core) (m : MaskReg) (v : BitVec 65536) : (k.setMask m v).cpwpCk = k.cpwpCk := by unfold Core.setMask; split <;> rfl
@[simp] theorem setMask_seq (k : Core) (m : MaskReg) (v : BitVec 65536) : (k.setMask m v).seq = k.seq := by unfold Core.setMask; split <;> rfl
@[simp] theorem setMask_fenceSeq (k : Core) (m : MaskReg) (v : BitVec 65536) : (k.setMask m v).fenceSeq = k.fenceSeq := by unfold Core.setMask; split <;> rfl
@[simp] theorem setMask_svFence (k : Core) (m : MaskReg) (v : BitVec 65536) : (k.setMask m v).svFence = k.svFence := by unfold Core.setMask; split <;> rfl
@[simp] theorem setMask_sb (k : Core) (m : MaskReg) (v : BitVec 65536) : (k.setMask m v).sb = k.sb := by unfold Core.setMask; split <;> rfl
@[simp] theorem setMask_ck (k : Core) (m : MaskReg) (v : BitVec 65536) : (k.setMask m v).ck = k.ck := by unfold Core.setMask; split <;> rfl
@[simp] theorem setMask_slices (k : Core) (m : MaskReg) (v : BitVec 65536) : (k.setMask m v).slices = k.slices := by unfold Core.setMask; split <;> rfl
@[simp] theorem setMask_window (k : Core) (m : MaskReg) (v : BitVec 65536) : (k.setMask m v).window = k.window := by unfold Core.setMask; split <;> rfl
@[simp] theorem setMask_deferred (k : Core) (m : MaskReg) (v : BitVec 65536) : (k.setMask m v).deferred = k.deferred := by unfold Core.setMask; split <;> rfl
@[simp] theorem setMask_preempt (k : Core) (m : MaskReg) (v : BitVec 65536) : (k.setMask m v).preempt = k.preempt := by unfold Core.setMask; split <;> rfl
@[simp] theorem setMask_reclaim (k : Core) (m : MaskReg) (v : BitVec 65536) : (k.setMask m v).reclaim = k.reclaim := by unfold Core.setMask; split <;> rfl
@[simp] theorem setMask_mgmt (k : Core) (m : MaskReg) (v : BitVec 65536) : (k.setMask m v).mgmt = k.mgmt := by unfold Core.setMask; split <;> rfl
@[simp] theorem setMask_restored (k : Core) (m : MaskReg) (v : BitVec 65536) : (k.setMask m v).restored = k.restored := by unfold Core.setMask; split <;> rfl
@[simp] theorem setMask_monitor (k : Core) (m : MaskReg) (v : BitVec 65536) : (k.setMask m v).monitor = k.monitor := by unfold Core.setMask; split <;> rfl
@[simp] theorem setMask_mirror (k : Core) (m : MaskReg) (v : BitVec 65536) : (k.setMask m v).mirror = k.mirror := by unfold Core.setMask; split <;> rfl
@[simp] theorem setMask_mirrorCk (k : Core) (m : MaskReg) (v : BitVec 65536) : (k.setMask m v).mirrorCk = k.mirrorCk := by unfold Core.setMask; split <;> rfl
@[simp] theorem setMask_deque (k : Core) (m : MaskReg) (v : BitVec 65536) : (k.setMask m v).deque = k.deque := by unfold Core.setMask; split <;> rfl
@[simp] theorem setMask_run (k : Core) (m : MaskReg) (v : BitVec 65536) : (k.setMask m v).run = k.run := by unfold Core.setMask; split <;> rfl
@[simp] theorem setMask_taskNo (k : Core) (m : MaskReg) (v : BitVec 65536) : (k.setMask m v).taskNo = k.taskNo := by unfold Core.setMask; split <;> rfl
@[simp] theorem setMask_pendingPush (k : Core) (m : MaskReg) (v : BitVec 65536) : (k.setMask m v).pendingPush = k.pendingPush := by unfold Core.setMask; split <;> rfl
@[simp] theorem setMask_settling (k : Core) (m : MaskReg) (v : BitVec 65536) : (k.setMask m v).settling = k.settling := by unfold Core.setMask; split <;> rfl
@[simp] theorem setMask_draining (k : Core) (m : MaskReg) (v : BitVec 65536) : (k.setMask m v).draining = k.draining := by unfold Core.setMask; split <;> rfl
@[simp] theorem setMask_failing (k : Core) (m : MaskReg) (v : BitVec 65536) : (k.setMask m v).failing = k.failing := by unfold Core.setMask; split <;> rfl

/-! ## Core.popHead -/

@[simp] theorem popHead_task (k : Core) : k.popHead.task = k.task := rfl
@[simp] theorem popHead_sup (k : Core) : k.popHead.sup = k.sup := rfl
@[simp] theorem popHead_ia (k : Core) : k.popHead.ia = k.ia := rfl
@[simp] theorem popHead_line (k : Core) : k.popHead.line = k.line := rfl
@[simp] theorem popHead_icache (k : Core) : k.popHead.icache = k.icache := rfl
@[simp] theorem popHead_act (k : Core) : k.popHead.act = k.act := rfl
@[simp] theorem popHead_vregs (k : Core) : k.popHead.vregs = k.vregs := rfl
@[simp] theorem popHead_dirty (k : Core) : k.popHead.dirty = k.dirty := rfl
@[simp] theorem popHead_vrows (k : Core) : k.popHead.vrows = k.vrows := rfl
@[simp] theorem popHead_wideFile (k : Core) : k.popHead.wideFile = k.wideFile := rfl
@[simp] theorem popHead_k1 (k : Core) : k.popHead.k1 = k.k1 := rfl
@[simp] theorem popHead_k2 (k : Core) : k.popHead.k2 = k.k2 := rfl
@[simp] theorem popHead_k3 (k : Core) : k.popHead.k3 = k.k3 := rfl
@[simp] theorem popHead_flags (k : Core) : k.popHead.flags = k.flags := rfl
@[simp] theorem popHead_frm (k : Core) : k.popHead.frm = k.frm := rfl
@[simp] theorem popHead_wide (k : Core) : k.popHead.wide = k.wide := rfl
@[simp] theorem popHead_nr (k : Core) : k.popHead.nr = k.nr := rfl
@[simp] theorem popHead_nc (k : Core) : k.popHead.nc = k.nc := rfl
@[simp] theorem popHead_vstart (k : Core) : k.popHead.vstart = k.vstart := rfl
@[simp] theorem popHead_ffnr (k : Core) : k.popHead.ffnr = k.ffnr := rfl
@[simp] theorem popHead_scx (k : Core) : k.popHead.scx = k.scx := rfl
@[simp] theorem popHead_verstat (k : Core) : k.popHead.verstat = k.verstat := rfl
@[simp] theorem popHead_kvroot (k : Core) : k.popHead.kvroot = k.kvroot := rfl
@[simp] theorem popHead_cpwp (k : Core) : k.popHead.cpwp = k.cpwp := rfl
@[simp] theorem popHead_taskrec (k : Core) : k.popHead.taskrec = k.taskrec := rfl
@[simp] theorem popHead_launch (k : Core) : k.popHead.launch = k.launch := rfl
@[simp] theorem popHead_deadline (k : Core) : k.popHead.deadline = k.deadline := rfl
@[simp] theorem popHead_paduse (k : Core) : k.popHead.paduse = k.paduse := rfl
@[simp] theorem popHead_cause (k : Core) : k.popHead.cause = k.cause := rfl
@[simp] theorem popHead_eia (k : Core) : k.popHead.eia = k.eia := rfl
@[simp] theorem popHead_eva (k : Core) : k.popHead.eva = k.eva := rfl
@[simp] theorem popHead_ekv (k : Core) : k.popHead.ekv = k.ekv := rfl
@[simp] theorem popHead_eaux (k : Core) : k.popHead.eaux = k.eaux := rfl
@[simp] theorem popHead_tvec (k : Core) : k.popHead.tvec = k.tvec := rfl
@[simp] theorem popHead_sstat (k : Core) : k.popHead.sstat = k.sstat := rfl
@[simp] theorem popHead_asid (k : Core) : k.popHead.asid = k.asid := rfl
@[simp] theorem popHead_ptroot (k : Core) : k.popHead.ptroot = k.ptroot := rfl
@[simp] theorem popHead_held (k : Core) : k.popHead.held = k.held := rfl
@[simp] theorem popHead_chans (k : Core) : k.popHead.chans = k.chans := rfl
@[simp] theorem popHead_cpwpCk (k : Core) : k.popHead.cpwpCk = k.cpwpCk := rfl
@[simp] theorem popHead_seq (k : Core) : k.popHead.seq = k.seq := rfl
@[simp] theorem popHead_fenceSeq (k : Core) : k.popHead.fenceSeq = k.fenceSeq := rfl
@[simp] theorem popHead_svFence (k : Core) : k.popHead.svFence = k.svFence := rfl
@[simp] theorem popHead_sb (k : Core) : k.popHead.sb = k.sb := rfl
@[simp] theorem popHead_ck (k : Core) : k.popHead.ck = k.ck := rfl
@[simp] theorem popHead_slices (k : Core) : k.popHead.slices = k.slices := rfl
@[simp] theorem popHead_window (k : Core) : k.popHead.window = k.window := rfl
@[simp] theorem popHead_deferred (k : Core) : k.popHead.deferred = k.deferred := rfl
@[simp] theorem popHead_preempt (k : Core) : k.popHead.preempt = k.preempt := rfl
@[simp] theorem popHead_reclaim (k : Core) : k.popHead.reclaim = k.reclaim := rfl
@[simp] theorem popHead_mgmt (k : Core) : k.popHead.mgmt = k.mgmt := rfl
@[simp] theorem popHead_restored (k : Core) : k.popHead.restored = k.restored := rfl
@[simp] theorem popHead_monitor (k : Core) : k.popHead.monitor = k.monitor := rfl
@[simp] theorem popHead_mirror (k : Core) : k.popHead.mirror = k.mirror := rfl
@[simp] theorem popHead_mirrorCk (k : Core) : k.popHead.mirrorCk = k.mirrorCk := rfl
@[simp] theorem popHead_deque (k : Core) : k.popHead.deque = k.deque := rfl
@[simp] theorem popHead_run (k : Core) : k.popHead.run = k.run := rfl
@[simp] theorem popHead_taskNo (k : Core) : k.popHead.taskNo = k.taskNo := rfl
@[simp] theorem popHead_pendingPush (k : Core) : k.popHead.pendingPush = k.pendingPush := rfl
@[simp] theorem popHead_settling (k : Core) : k.popHead.settling = k.settling := rfl
@[simp] theorem popHead_draining (k : Core) : k.popHead.draining = k.draining := rfl
@[simp] theorem popHead_failing (k : Core) : k.popHead.failing = k.failing := rfl

/-! ## Core.goAt -/

@[simp] theorem goAt_task (k : Core) (a : Word) (l : Option Line) : (k.goAt a l).task = k.task := rfl
@[simp] theorem goAt_sup (k : Core) (a : Word) (l : Option Line) : (k.goAt a l).sup = k.sup := rfl
@[simp] theorem goAt_icache (k : Core) (a : Word) (l : Option Line) : (k.goAt a l).icache = k.icache := rfl
@[simp] theorem goAt_act (k : Core) (a : Word) (l : Option Line) : (k.goAt a l).act = k.act := rfl
@[simp] theorem goAt_vregs (k : Core) (a : Word) (l : Option Line) : (k.goAt a l).vregs = k.vregs := rfl
@[simp] theorem goAt_dirty (k : Core) (a : Word) (l : Option Line) : (k.goAt a l).dirty = k.dirty := rfl
@[simp] theorem goAt_vrows (k : Core) (a : Word) (l : Option Line) : (k.goAt a l).vrows = k.vrows := rfl
@[simp] theorem goAt_wideFile (k : Core) (a : Word) (l : Option Line) : (k.goAt a l).wideFile = k.wideFile := rfl
@[simp] theorem goAt_k1 (k : Core) (a : Word) (l : Option Line) : (k.goAt a l).k1 = k.k1 := rfl
@[simp] theorem goAt_k2 (k : Core) (a : Word) (l : Option Line) : (k.goAt a l).k2 = k.k2 := rfl
@[simp] theorem goAt_k3 (k : Core) (a : Word) (l : Option Line) : (k.goAt a l).k3 = k.k3 := rfl
@[simp] theorem goAt_flags (k : Core) (a : Word) (l : Option Line) : (k.goAt a l).flags = k.flags := rfl
@[simp] theorem goAt_frm (k : Core) (a : Word) (l : Option Line) : (k.goAt a l).frm = k.frm := rfl
@[simp] theorem goAt_wide (k : Core) (a : Word) (l : Option Line) : (k.goAt a l).wide = k.wide := rfl
@[simp] theorem goAt_nr (k : Core) (a : Word) (l : Option Line) : (k.goAt a l).nr = k.nr := rfl
@[simp] theorem goAt_nc (k : Core) (a : Word) (l : Option Line) : (k.goAt a l).nc = k.nc := rfl
@[simp] theorem goAt_vstart (k : Core) (a : Word) (l : Option Line) : (k.goAt a l).vstart = k.vstart := rfl
@[simp] theorem goAt_ffnr (k : Core) (a : Word) (l : Option Line) : (k.goAt a l).ffnr = k.ffnr := rfl
@[simp] theorem goAt_scx (k : Core) (a : Word) (l : Option Line) : (k.goAt a l).scx = k.scx := rfl
@[simp] theorem goAt_verstat (k : Core) (a : Word) (l : Option Line) : (k.goAt a l).verstat = k.verstat := rfl
@[simp] theorem goAt_kvroot (k : Core) (a : Word) (l : Option Line) : (k.goAt a l).kvroot = k.kvroot := rfl
@[simp] theorem goAt_cpwp (k : Core) (a : Word) (l : Option Line) : (k.goAt a l).cpwp = k.cpwp := rfl
@[simp] theorem goAt_taskrec (k : Core) (a : Word) (l : Option Line) : (k.goAt a l).taskrec = k.taskrec := rfl
@[simp] theorem goAt_launch (k : Core) (a : Word) (l : Option Line) : (k.goAt a l).launch = k.launch := rfl
@[simp] theorem goAt_deadline (k : Core) (a : Word) (l : Option Line) : (k.goAt a l).deadline = k.deadline := rfl
@[simp] theorem goAt_paduse (k : Core) (a : Word) (l : Option Line) : (k.goAt a l).paduse = k.paduse := rfl
@[simp] theorem goAt_cause (k : Core) (a : Word) (l : Option Line) : (k.goAt a l).cause = k.cause := rfl
@[simp] theorem goAt_eia (k : Core) (a : Word) (l : Option Line) : (k.goAt a l).eia = k.eia := rfl
@[simp] theorem goAt_eva (k : Core) (a : Word) (l : Option Line) : (k.goAt a l).eva = k.eva := rfl
@[simp] theorem goAt_ekv (k : Core) (a : Word) (l : Option Line) : (k.goAt a l).ekv = k.ekv := rfl
@[simp] theorem goAt_eaux (k : Core) (a : Word) (l : Option Line) : (k.goAt a l).eaux = k.eaux := rfl
@[simp] theorem goAt_tvec (k : Core) (a : Word) (l : Option Line) : (k.goAt a l).tvec = k.tvec := rfl
@[simp] theorem goAt_sstat (k : Core) (a : Word) (l : Option Line) : (k.goAt a l).sstat = k.sstat := rfl
@[simp] theorem goAt_asid (k : Core) (a : Word) (l : Option Line) : (k.goAt a l).asid = k.asid := rfl
@[simp] theorem goAt_ptroot (k : Core) (a : Word) (l : Option Line) : (k.goAt a l).ptroot = k.ptroot := rfl
@[simp] theorem goAt_queue (k : Core) (a : Word) (l : Option Line) : (k.goAt a l).queue = k.queue := rfl
@[simp] theorem goAt_held (k : Core) (a : Word) (l : Option Line) : (k.goAt a l).held = k.held := rfl
@[simp] theorem goAt_chans (k : Core) (a : Word) (l : Option Line) : (k.goAt a l).chans = k.chans := rfl
@[simp] theorem goAt_cpwpCk (k : Core) (a : Word) (l : Option Line) : (k.goAt a l).cpwpCk = k.cpwpCk := rfl
@[simp] theorem goAt_seq (k : Core) (a : Word) (l : Option Line) : (k.goAt a l).seq = k.seq := rfl
@[simp] theorem goAt_fenceSeq (k : Core) (a : Word) (l : Option Line) : (k.goAt a l).fenceSeq = k.fenceSeq := rfl
@[simp] theorem goAt_svFence (k : Core) (a : Word) (l : Option Line) : (k.goAt a l).svFence = k.svFence := rfl
@[simp] theorem goAt_sb (k : Core) (a : Word) (l : Option Line) : (k.goAt a l).sb = k.sb := rfl
@[simp] theorem goAt_ck (k : Core) (a : Word) (l : Option Line) : (k.goAt a l).ck = k.ck := rfl
@[simp] theorem goAt_slices (k : Core) (a : Word) (l : Option Line) : (k.goAt a l).slices = k.slices := rfl
@[simp] theorem goAt_window (k : Core) (a : Word) (l : Option Line) : (k.goAt a l).window = k.window := rfl
@[simp] theorem goAt_deferred (k : Core) (a : Word) (l : Option Line) : (k.goAt a l).deferred = k.deferred := rfl
@[simp] theorem goAt_preempt (k : Core) (a : Word) (l : Option Line) : (k.goAt a l).preempt = k.preempt := rfl
@[simp] theorem goAt_reclaim (k : Core) (a : Word) (l : Option Line) : (k.goAt a l).reclaim = k.reclaim := rfl
@[simp] theorem goAt_mgmt (k : Core) (a : Word) (l : Option Line) : (k.goAt a l).mgmt = k.mgmt := rfl
@[simp] theorem goAt_restored (k : Core) (a : Word) (l : Option Line) : (k.goAt a l).restored = k.restored := rfl
@[simp] theorem goAt_monitor (k : Core) (a : Word) (l : Option Line) : (k.goAt a l).monitor = k.monitor := rfl
@[simp] theorem goAt_mirror (k : Core) (a : Word) (l : Option Line) : (k.goAt a l).mirror = k.mirror := rfl
@[simp] theorem goAt_mirrorCk (k : Core) (a : Word) (l : Option Line) : (k.goAt a l).mirrorCk = k.mirrorCk := rfl
@[simp] theorem goAt_deque (k : Core) (a : Word) (l : Option Line) : (k.goAt a l).deque = k.deque := rfl
@[simp] theorem goAt_run (k : Core) (a : Word) (l : Option Line) : (k.goAt a l).run = k.run := rfl
@[simp] theorem goAt_taskNo (k : Core) (a : Word) (l : Option Line) : (k.goAt a l).taskNo = k.taskNo := rfl
@[simp] theorem goAt_pendingPush (k : Core) (a : Word) (l : Option Line) : (k.goAt a l).pendingPush = k.pendingPush := rfl
@[simp] theorem goAt_settling (k : Core) (a : Word) (l : Option Line) : (k.goAt a l).settling = k.settling := rfl
@[simp] theorem goAt_draining (k : Core) (a : Word) (l : Option Line) : (k.goAt a l).draining = k.draining := rfl
@[simp] theorem goAt_failing (k : Core) (a : Word) (l : Option Line) : (k.goAt a l).failing = k.failing := rfl

/-! ## Core.updChan -/

@[simp] theorem updChan_task (k : Core) (ch : Nat) (g : Chan → Chan) : (k.updChan ch g).task = k.task := rfl
@[simp] theorem updChan_sup (k : Core) (ch : Nat) (g : Chan → Chan) : (k.updChan ch g).sup = k.sup := rfl
@[simp] theorem updChan_ia (k : Core) (ch : Nat) (g : Chan → Chan) : (k.updChan ch g).ia = k.ia := rfl
@[simp] theorem updChan_line (k : Core) (ch : Nat) (g : Chan → Chan) : (k.updChan ch g).line = k.line := rfl
@[simp] theorem updChan_icache (k : Core) (ch : Nat) (g : Chan → Chan) : (k.updChan ch g).icache = k.icache := rfl
@[simp] theorem updChan_act (k : Core) (ch : Nat) (g : Chan → Chan) : (k.updChan ch g).act = k.act := rfl
@[simp] theorem updChan_vregs (k : Core) (ch : Nat) (g : Chan → Chan) : (k.updChan ch g).vregs = k.vregs := rfl
@[simp] theorem updChan_dirty (k : Core) (ch : Nat) (g : Chan → Chan) : (k.updChan ch g).dirty = k.dirty := rfl
@[simp] theorem updChan_vrows (k : Core) (ch : Nat) (g : Chan → Chan) : (k.updChan ch g).vrows = k.vrows := rfl
@[simp] theorem updChan_wideFile (k : Core) (ch : Nat) (g : Chan → Chan) : (k.updChan ch g).wideFile = k.wideFile := rfl
@[simp] theorem updChan_k1 (k : Core) (ch : Nat) (g : Chan → Chan) : (k.updChan ch g).k1 = k.k1 := rfl
@[simp] theorem updChan_k2 (k : Core) (ch : Nat) (g : Chan → Chan) : (k.updChan ch g).k2 = k.k2 := rfl
@[simp] theorem updChan_k3 (k : Core) (ch : Nat) (g : Chan → Chan) : (k.updChan ch g).k3 = k.k3 := rfl
@[simp] theorem updChan_flags (k : Core) (ch : Nat) (g : Chan → Chan) : (k.updChan ch g).flags = k.flags := rfl
@[simp] theorem updChan_frm (k : Core) (ch : Nat) (g : Chan → Chan) : (k.updChan ch g).frm = k.frm := rfl
@[simp] theorem updChan_wide (k : Core) (ch : Nat) (g : Chan → Chan) : (k.updChan ch g).wide = k.wide := rfl
@[simp] theorem updChan_nr (k : Core) (ch : Nat) (g : Chan → Chan) : (k.updChan ch g).nr = k.nr := rfl
@[simp] theorem updChan_nc (k : Core) (ch : Nat) (g : Chan → Chan) : (k.updChan ch g).nc = k.nc := rfl
@[simp] theorem updChan_vstart (k : Core) (ch : Nat) (g : Chan → Chan) : (k.updChan ch g).vstart = k.vstart := rfl
@[simp] theorem updChan_ffnr (k : Core) (ch : Nat) (g : Chan → Chan) : (k.updChan ch g).ffnr = k.ffnr := rfl
@[simp] theorem updChan_scx (k : Core) (ch : Nat) (g : Chan → Chan) : (k.updChan ch g).scx = k.scx := rfl
@[simp] theorem updChan_verstat (k : Core) (ch : Nat) (g : Chan → Chan) : (k.updChan ch g).verstat = k.verstat := rfl
@[simp] theorem updChan_kvroot (k : Core) (ch : Nat) (g : Chan → Chan) : (k.updChan ch g).kvroot = k.kvroot := rfl
@[simp] theorem updChan_cpwp (k : Core) (ch : Nat) (g : Chan → Chan) : (k.updChan ch g).cpwp = k.cpwp := rfl
@[simp] theorem updChan_taskrec (k : Core) (ch : Nat) (g : Chan → Chan) : (k.updChan ch g).taskrec = k.taskrec := rfl
@[simp] theorem updChan_launch (k : Core) (ch : Nat) (g : Chan → Chan) : (k.updChan ch g).launch = k.launch := rfl
@[simp] theorem updChan_deadline (k : Core) (ch : Nat) (g : Chan → Chan) : (k.updChan ch g).deadline = k.deadline := rfl
@[simp] theorem updChan_paduse (k : Core) (ch : Nat) (g : Chan → Chan) : (k.updChan ch g).paduse = k.paduse := rfl
@[simp] theorem updChan_cause (k : Core) (ch : Nat) (g : Chan → Chan) : (k.updChan ch g).cause = k.cause := rfl
@[simp] theorem updChan_eia (k : Core) (ch : Nat) (g : Chan → Chan) : (k.updChan ch g).eia = k.eia := rfl
@[simp] theorem updChan_eva (k : Core) (ch : Nat) (g : Chan → Chan) : (k.updChan ch g).eva = k.eva := rfl
@[simp] theorem updChan_ekv (k : Core) (ch : Nat) (g : Chan → Chan) : (k.updChan ch g).ekv = k.ekv := rfl
@[simp] theorem updChan_eaux (k : Core) (ch : Nat) (g : Chan → Chan) : (k.updChan ch g).eaux = k.eaux := rfl
@[simp] theorem updChan_tvec (k : Core) (ch : Nat) (g : Chan → Chan) : (k.updChan ch g).tvec = k.tvec := rfl
@[simp] theorem updChan_sstat (k : Core) (ch : Nat) (g : Chan → Chan) : (k.updChan ch g).sstat = k.sstat := rfl
@[simp] theorem updChan_asid (k : Core) (ch : Nat) (g : Chan → Chan) : (k.updChan ch g).asid = k.asid := rfl
@[simp] theorem updChan_ptroot (k : Core) (ch : Nat) (g : Chan → Chan) : (k.updChan ch g).ptroot = k.ptroot := rfl
@[simp] theorem updChan_queue (k : Core) (ch : Nat) (g : Chan → Chan) : (k.updChan ch g).queue = k.queue := rfl
@[simp] theorem updChan_held (k : Core) (ch : Nat) (g : Chan → Chan) : (k.updChan ch g).held = k.held := rfl
@[simp] theorem updChan_cpwpCk (k : Core) (ch : Nat) (g : Chan → Chan) : (k.updChan ch g).cpwpCk = k.cpwpCk := rfl
@[simp] theorem updChan_seq (k : Core) (ch : Nat) (g : Chan → Chan) : (k.updChan ch g).seq = k.seq := rfl
@[simp] theorem updChan_fenceSeq (k : Core) (ch : Nat) (g : Chan → Chan) : (k.updChan ch g).fenceSeq = k.fenceSeq := rfl
@[simp] theorem updChan_svFence (k : Core) (ch : Nat) (g : Chan → Chan) : (k.updChan ch g).svFence = k.svFence := rfl
@[simp] theorem updChan_sb (k : Core) (ch : Nat) (g : Chan → Chan) : (k.updChan ch g).sb = k.sb := rfl
@[simp] theorem updChan_ck (k : Core) (ch : Nat) (g : Chan → Chan) : (k.updChan ch g).ck = k.ck := rfl
@[simp] theorem updChan_slices (k : Core) (ch : Nat) (g : Chan → Chan) : (k.updChan ch g).slices = k.slices := rfl
@[simp] theorem updChan_window (k : Core) (ch : Nat) (g : Chan → Chan) : (k.updChan ch g).window = k.window := rfl
@[simp] theorem updChan_deferred (k : Core) (ch : Nat) (g : Chan → Chan) : (k.updChan ch g).deferred = k.deferred := rfl
@[simp] theorem updChan_preempt (k : Core) (ch : Nat) (g : Chan → Chan) : (k.updChan ch g).preempt = k.preempt := rfl
@[simp] theorem updChan_reclaim (k : Core) (ch : Nat) (g : Chan → Chan) : (k.updChan ch g).reclaim = k.reclaim := rfl
@[simp] theorem updChan_mgmt (k : Core) (ch : Nat) (g : Chan → Chan) : (k.updChan ch g).mgmt = k.mgmt := rfl
@[simp] theorem updChan_restored (k : Core) (ch : Nat) (g : Chan → Chan) : (k.updChan ch g).restored = k.restored := rfl
@[simp] theorem updChan_monitor (k : Core) (ch : Nat) (g : Chan → Chan) : (k.updChan ch g).monitor = k.monitor := rfl
@[simp] theorem updChan_mirror (k : Core) (ch : Nat) (g : Chan → Chan) : (k.updChan ch g).mirror = k.mirror := rfl
@[simp] theorem updChan_mirrorCk (k : Core) (ch : Nat) (g : Chan → Chan) : (k.updChan ch g).mirrorCk = k.mirrorCk := rfl
@[simp] theorem updChan_deque (k : Core) (ch : Nat) (g : Chan → Chan) : (k.updChan ch g).deque = k.deque := rfl
@[simp] theorem updChan_run (k : Core) (ch : Nat) (g : Chan → Chan) : (k.updChan ch g).run = k.run := rfl
@[simp] theorem updChan_taskNo (k : Core) (ch : Nat) (g : Chan → Chan) : (k.updChan ch g).taskNo = k.taskNo := rfl
@[simp] theorem updChan_pendingPush (k : Core) (ch : Nat) (g : Chan → Chan) : (k.updChan ch g).pendingPush = k.pendingPush := rfl
@[simp] theorem updChan_settling (k : Core) (ch : Nat) (g : Chan → Chan) : (k.updChan ch g).settling = k.settling := rfl
@[simp] theorem updChan_draining (k : Core) (ch : Nat) (g : Chan → Chan) : (k.updChan ch g).draining = k.draining := rfl
@[simp] theorem updChan_failing (k : Core) (ch : Nat) (g : Chan → Chan) : (k.updChan ch g).failing = k.failing := rfl

/-! ## Core.setCpwp -/

@[simp] theorem setCpwp_task (k : Core) (ch : Nat) (v : Word) : (k.setCpwp ch v).task = k.task := rfl
@[simp] theorem setCpwp_sup (k : Core) (ch : Nat) (v : Word) : (k.setCpwp ch v).sup = k.sup := rfl
@[simp] theorem setCpwp_ia (k : Core) (ch : Nat) (v : Word) : (k.setCpwp ch v).ia = k.ia := rfl
@[simp] theorem setCpwp_line (k : Core) (ch : Nat) (v : Word) : (k.setCpwp ch v).line = k.line := rfl
@[simp] theorem setCpwp_icache (k : Core) (ch : Nat) (v : Word) : (k.setCpwp ch v).icache = k.icache := rfl
@[simp] theorem setCpwp_act (k : Core) (ch : Nat) (v : Word) : (k.setCpwp ch v).act = k.act := rfl
@[simp] theorem setCpwp_vregs (k : Core) (ch : Nat) (v : Word) : (k.setCpwp ch v).vregs = k.vregs := rfl
@[simp] theorem setCpwp_dirty (k : Core) (ch : Nat) (v : Word) : (k.setCpwp ch v).dirty = k.dirty := rfl
@[simp] theorem setCpwp_vrows (k : Core) (ch : Nat) (v : Word) : (k.setCpwp ch v).vrows = k.vrows := rfl
@[simp] theorem setCpwp_wideFile (k : Core) (ch : Nat) (v : Word) : (k.setCpwp ch v).wideFile = k.wideFile := rfl
@[simp] theorem setCpwp_k1 (k : Core) (ch : Nat) (v : Word) : (k.setCpwp ch v).k1 = k.k1 := rfl
@[simp] theorem setCpwp_k2 (k : Core) (ch : Nat) (v : Word) : (k.setCpwp ch v).k2 = k.k2 := rfl
@[simp] theorem setCpwp_k3 (k : Core) (ch : Nat) (v : Word) : (k.setCpwp ch v).k3 = k.k3 := rfl
@[simp] theorem setCpwp_flags (k : Core) (ch : Nat) (v : Word) : (k.setCpwp ch v).flags = k.flags := rfl
@[simp] theorem setCpwp_frm (k : Core) (ch : Nat) (v : Word) : (k.setCpwp ch v).frm = k.frm := rfl
@[simp] theorem setCpwp_wide (k : Core) (ch : Nat) (v : Word) : (k.setCpwp ch v).wide = k.wide := rfl
@[simp] theorem setCpwp_nr (k : Core) (ch : Nat) (v : Word) : (k.setCpwp ch v).nr = k.nr := rfl
@[simp] theorem setCpwp_nc (k : Core) (ch : Nat) (v : Word) : (k.setCpwp ch v).nc = k.nc := rfl
@[simp] theorem setCpwp_vstart (k : Core) (ch : Nat) (v : Word) : (k.setCpwp ch v).vstart = k.vstart := rfl
@[simp] theorem setCpwp_ffnr (k : Core) (ch : Nat) (v : Word) : (k.setCpwp ch v).ffnr = k.ffnr := rfl
@[simp] theorem setCpwp_scx (k : Core) (ch : Nat) (v : Word) : (k.setCpwp ch v).scx = k.scx := rfl
@[simp] theorem setCpwp_verstat (k : Core) (ch : Nat) (v : Word) : (k.setCpwp ch v).verstat = k.verstat := rfl
@[simp] theorem setCpwp_kvroot (k : Core) (ch : Nat) (v : Word) : (k.setCpwp ch v).kvroot = k.kvroot := rfl
@[simp] theorem setCpwp_taskrec (k : Core) (ch : Nat) (v : Word) : (k.setCpwp ch v).taskrec = k.taskrec := rfl
@[simp] theorem setCpwp_launch (k : Core) (ch : Nat) (v : Word) : (k.setCpwp ch v).launch = k.launch := rfl
@[simp] theorem setCpwp_deadline (k : Core) (ch : Nat) (v : Word) : (k.setCpwp ch v).deadline = k.deadline := rfl
@[simp] theorem setCpwp_paduse (k : Core) (ch : Nat) (v : Word) : (k.setCpwp ch v).paduse = k.paduse := rfl
@[simp] theorem setCpwp_cause (k : Core) (ch : Nat) (v : Word) : (k.setCpwp ch v).cause = k.cause := rfl
@[simp] theorem setCpwp_eia (k : Core) (ch : Nat) (v : Word) : (k.setCpwp ch v).eia = k.eia := rfl
@[simp] theorem setCpwp_eva (k : Core) (ch : Nat) (v : Word) : (k.setCpwp ch v).eva = k.eva := rfl
@[simp] theorem setCpwp_ekv (k : Core) (ch : Nat) (v : Word) : (k.setCpwp ch v).ekv = k.ekv := rfl
@[simp] theorem setCpwp_eaux (k : Core) (ch : Nat) (v : Word) : (k.setCpwp ch v).eaux = k.eaux := rfl
@[simp] theorem setCpwp_tvec (k : Core) (ch : Nat) (v : Word) : (k.setCpwp ch v).tvec = k.tvec := rfl
@[simp] theorem setCpwp_sstat (k : Core) (ch : Nat) (v : Word) : (k.setCpwp ch v).sstat = k.sstat := rfl
@[simp] theorem setCpwp_asid (k : Core) (ch : Nat) (v : Word) : (k.setCpwp ch v).asid = k.asid := rfl
@[simp] theorem setCpwp_ptroot (k : Core) (ch : Nat) (v : Word) : (k.setCpwp ch v).ptroot = k.ptroot := rfl
@[simp] theorem setCpwp_queue (k : Core) (ch : Nat) (v : Word) : (k.setCpwp ch v).queue = k.queue := rfl
@[simp] theorem setCpwp_held (k : Core) (ch : Nat) (v : Word) : (k.setCpwp ch v).held = k.held := rfl
@[simp] theorem setCpwp_chans (k : Core) (ch : Nat) (v : Word) : (k.setCpwp ch v).chans = k.chans := rfl
@[simp] theorem setCpwp_seq (k : Core) (ch : Nat) (v : Word) : (k.setCpwp ch v).seq = k.seq := rfl
@[simp] theorem setCpwp_fenceSeq (k : Core) (ch : Nat) (v : Word) : (k.setCpwp ch v).fenceSeq = k.fenceSeq := rfl
@[simp] theorem setCpwp_svFence (k : Core) (ch : Nat) (v : Word) : (k.setCpwp ch v).svFence = k.svFence := rfl
@[simp] theorem setCpwp_sb (k : Core) (ch : Nat) (v : Word) : (k.setCpwp ch v).sb = k.sb := rfl
@[simp] theorem setCpwp_ck (k : Core) (ch : Nat) (v : Word) : (k.setCpwp ch v).ck = k.ck := rfl
@[simp] theorem setCpwp_slices (k : Core) (ch : Nat) (v : Word) : (k.setCpwp ch v).slices = k.slices := rfl
@[simp] theorem setCpwp_window (k : Core) (ch : Nat) (v : Word) : (k.setCpwp ch v).window = k.window := rfl
@[simp] theorem setCpwp_deferred (k : Core) (ch : Nat) (v : Word) : (k.setCpwp ch v).deferred = k.deferred := rfl
@[simp] theorem setCpwp_preempt (k : Core) (ch : Nat) (v : Word) : (k.setCpwp ch v).preempt = k.preempt := rfl
@[simp] theorem setCpwp_reclaim (k : Core) (ch : Nat) (v : Word) : (k.setCpwp ch v).reclaim = k.reclaim := rfl
@[simp] theorem setCpwp_mgmt (k : Core) (ch : Nat) (v : Word) : (k.setCpwp ch v).mgmt = k.mgmt := rfl
@[simp] theorem setCpwp_restored (k : Core) (ch : Nat) (v : Word) : (k.setCpwp ch v).restored = k.restored := rfl
@[simp] theorem setCpwp_monitor (k : Core) (ch : Nat) (v : Word) : (k.setCpwp ch v).monitor = k.monitor := rfl
@[simp] theorem setCpwp_mirror (k : Core) (ch : Nat) (v : Word) : (k.setCpwp ch v).mirror = k.mirror := rfl
@[simp] theorem setCpwp_mirrorCk (k : Core) (ch : Nat) (v : Word) : (k.setCpwp ch v).mirrorCk = k.mirrorCk := rfl
@[simp] theorem setCpwp_deque (k : Core) (ch : Nat) (v : Word) : (k.setCpwp ch v).deque = k.deque := rfl
@[simp] theorem setCpwp_run (k : Core) (ch : Nat) (v : Word) : (k.setCpwp ch v).run = k.run := rfl
@[simp] theorem setCpwp_taskNo (k : Core) (ch : Nat) (v : Word) : (k.setCpwp ch v).taskNo = k.taskNo := rfl
@[simp] theorem setCpwp_pendingPush (k : Core) (ch : Nat) (v : Word) : (k.setCpwp ch v).pendingPush = k.pendingPush := rfl
@[simp] theorem setCpwp_settling (k : Core) (ch : Nat) (v : Word) : (k.setCpwp ch v).settling = k.settling := rfl
@[simp] theorem setCpwp_draining (k : Core) (ch : Nat) (v : Word) : (k.setCpwp ch v).draining = k.draining := rfl
@[simp] theorem setCpwp_failing (k : Core) (ch : Nat) (v : Word) : (k.setCpwp ch v).failing = k.failing := rfl

end Sys2Proof.Machine
end

