-- ==== Sys2Proof/Laws/Memory.lean ====
section
/-! SUPPORT. Memory: its canonical form, what a write leaves, and that every operation over memory keeps the form. -/
namespace Sys2Proof.Machine

open Sys2Proof

/-! ## The canonical form -/

/-- The form in terms of the whole list. -/
theorem wf_iff (l : List Host.Cell) :
    Memory.wf l = true ↔ l.Pairwise (fun p q => p.1 < q.1) ∧ ∀ p ∈ l, p.2 ≠ 0 := by
  induction l with
  | nil => simp [Memory.wf]
  | cons p r ih =>
    obtain ⟨a, v⟩ := p
    cases r with
    | nil => simp [Memory.wf]
    | cons q r =>
      obtain ⟨b, w⟩ := q
      simp only [Memory.wf, Bool.and_eq_true, bne_iff_ne, decide_eq_true_eq, ih]
      simp only [List.pairwise_cons, List.mem_cons, forall_eq_or_imp]
      constructor
      · rintro ⟨⟨hv, hab⟩, ⟨hb, hr⟩, hw, hn⟩
        exact ⟨⟨⟨hab, fun c hc => Nat.lt_trans hab (hb c hc)⟩, hb, hr⟩, hv, hw, hn⟩
      · rintro ⟨⟨⟨hab, _⟩, hb, hr⟩, hv, hw, hn⟩
        exact ⟨⟨hv, hab⟩, ⟨hb, hr⟩, hw, hn⟩

/-- Each cell of a list after a write was there before or is the written one. -/
theorem mem_cellPut {z : Bool} {l : List Host.Cell} {a : Nat} {v : Byte} {p : Host.Cell} (h : p ∈ cellPut z l a v) :
    p ∈ l ∨ (p = (a, v) ∧ ¬ (z = true ∧ v = 0)) := by
  induction l with
  | nil => unfold cellPut at h; split at h <;> simp_all
  | cons q r ih =>
    obtain ⟨b, w⟩ := q
    unfold cellPut at h
    (repeat' split at h) <;> simp_all <;> tauto

/-- A write keeps rising addresses. -/
theorem rising_cellPut {z : Bool} {l : List Host.Cell} (a : Nat) (v : Byte) (h : l.Pairwise fun p q => p.1 < q.1) :
    (cellPut z l a v).Pairwise fun p q => p.1 < q.1 := by
  induction l with
  | nil => unfold cellPut; split <;> simp
  | cons q r ih =>
    obtain ⟨b, w⟩ := q
    obtain ⟨hb, hr⟩ := List.pairwise_cons.1 h
    unfold cellPut
    split
    · subst a; split
      · exact hr
      · exact List.pairwise_cons.2 ⟨hb, hr⟩
    · split
      · split
        · exact h
        · refine List.pairwise_cons.2 ⟨fun p hp => ?_, h⟩
          rcases List.mem_cons.1 hp with rfl | hp
          · assumption
          · have := hb p hp; dsimp only at *; omega
      · refine List.pairwise_cons.2 ⟨fun p hp => ?_, ih hr⟩
        rcases mem_cellPut hp with hp | ⟨rfl, _⟩
        · exact hb p hp
        · dsimp only; omega

/-- A write keeps the canonical form. -/
theorem wf_cellPut {l : List Host.Cell} (a : Nat) (v : Byte) (h : Memory.wf l = true) : Memory.wf (cellPut true l a v) = true := by
  obtain ⟨hr, hn⟩ := (wf_iff l).1 h
  refine (wf_iff _).2 ⟨rising_cellPut a v hr, fun p hp => ?_⟩
  rcases mem_cellPut hp with hp | ⟨rfl, h0⟩
  · exact hn p hp
  · simpa using h0

/-- Leaving cells out keeps the canonical form. -/
theorem wf_filter {l : List Host.Cell} (f : Host.Cell → Bool) (h : Memory.wf l = true) : Memory.wf (l.filter f) = true := by
  obtain ⟨hr, hn⟩ := (wf_iff l).1 h
  exact (wf_iff _).2 ⟨hr.filter f, fun p hp => hn p (List.mem_filter.1 hp).1⟩

/-! ## Reading after writing -/

/-- An address below every listed one is not listed. -/
theorem cellFind_below {l : List Host.Cell} {a : Nat} (h : ∀ p ∈ l, a < p.1) : cellFind l a = none := by
  cases l with
  | nil => rfl
  | cons q r =>
    obtain ⟨b, w⟩ := q
    have : a < b := h (b, w) (by simp)
    simp only [cellFind, this, if_true, if_neg (Nat.ne_of_lt this)]

/-- What is found after a write. -/
theorem cellFind_cellPut {z : Bool} {l : List Host.Cell} (a : Nat) (v : Byte) (x : Nat) (h : l.Pairwise fun p q => p.1 < q.1) :
    cellFind (cellPut z l a v) x = if x = a then (if z = true ∧ v = 0 then none else some v) else cellFind l x := by
  induction l with
  | nil =>
    unfold cellPut
    by_cases hz : z = true ∧ v = 0
    · simp [hz, cellFind]
    · have : (z && v == 0) = false := by simpa using hz
      rw [this, if_neg Bool.false_ne_true, if_neg hz]
      simp only [cellFind]; split
      · rfl
      · split <;> rfl
  | cons q r ih =>
    obtain ⟨b, w⟩ := q
    obtain ⟨hb, hr⟩ := List.pairwise_cons.1 h
    unfold cellPut
    by_cases hab : a = b
    · subst hab
      rw [if_pos rfl]
      by_cases hz : z = true ∧ v = 0
      · have : (z && v == 0) = true := by simpa using hz
        rw [if_pos this]
        by_cases hx : x = a
        · subst hx; rw [if_pos rfl, if_pos hz]; exact cellFind_below hb
        · rw [if_neg hx]
          conv_rhs => rw [cellFind]
          rw [if_neg hx]
          by_cases hxa : x < a
          · rw [if_pos hxa]; exact cellFind_below fun p hp => Nat.lt_trans hxa (hb p hp)
          · rw [if_neg hxa]
      · have : ¬ (z && v == 0) = true := by simpa using hz
        rw [if_neg this, if_neg hz]
        by_cases hx : x = a
        · subst hx; simp [cellFind]
        · rw [if_neg hx]; conv_lhs => unfold cellFind
          conv_rhs => unfold cellFind
          rw [if_neg hx, if_neg hx]
    · rw [if_neg hab]
      by_cases hlt : a < b
      · rw [if_pos hlt]
        by_cases hz : z = true ∧ v = 0
        · have : (z && v == 0) = true := by simpa using hz
          rw [if_pos this, if_pos hz]
          by_cases hx : x = a
          · subst hx; rw [if_pos rfl]; unfold cellFind; rw [if_neg hab, if_pos hlt]
          · rw [if_neg hx]
        · have : ¬ (z && v == 0) = true := by simpa using hz
          rw [if_neg this, if_neg hz]
          by_cases hx : x = a
          · subst hx; simp [cellFind]
          · rw [if_neg hx]
            conv_lhs => unfold cellFind
            rw [if_neg hx]
            split
            · conv_rhs => unfold cellFind
              rw [if_neg (by omega), if_pos (by omega)]
            · rfl
      · rw [if_neg hlt]
        conv_lhs => unfold cellFind
        conv_rhs => rw [cellFind]
        rw [ih hr]
        split
        · subst x; rw [if_neg (Ne.symm hab)]
        · split
          · rw [if_neg (by omega)]
          · rfl

/-- A written byte reads back, and every other byte as before. -/
theorem byte_setByte {s : State} (a : Nat) (v : Byte) (x : Nat) (h : Memory.wf s.mem = true) :
    (s.setByte a v).byte x = if x = a then v else s.byte x := by
  have := cellFind_cellPut (z := true) a v x ((wf_iff _).1 h).1
  unfold State.byte State.setByte
  rw [this]
  split
  · split
    · rename_i hz; simp [hz.2]
    · rfl
  · rfl

/-- Writing bytes keeps the canonical form. -/
theorem wf_setBytes {s : State} (a : Nat) (bs : List Byte) (h : Memory.wf s.mem = true) : Memory.wf (s.setBytes a bs).mem = true := by
  induction bs generalizing s a with
  | nil => exact h
  | cons v r ih => exact ih (s := s.setByte a v) (a + 1) (wf_cellPut a v h)

/-- Written bytes read back, and every other byte as before. -/
theorem byte_setBytes {s : State} (a : Nat) (bs : List Byte) (x : Nat) (h : Memory.wf s.mem = true) :
    (s.setBytes a bs).byte x = if h : a ≤ x ∧ x - a < bs.length then bs[x - a]'h.2 else s.byte x := by
  induction bs generalizing s a with
  | nil => simp [State.setBytes]
  | cons v r ih =>
    rw [show s.setBytes a (v :: r) = (s.setByte a v).setBytes (a + 1) r from rfl,
      ih (s := s.setByte a v) (a + 1) (wf_cellPut a v h), byte_setByte a v x h]
    by_cases hx : x = a
    · subst hx; simp
    · by_cases hr : a + 1 ≤ x ∧ x - (a + 1) < r.length
      · rw [dif_pos hr, dif_pos (by simp only [List.length_cons]; omega)]
        have : x - a = x - (a + 1) + 1 := by omega
        simp only [this, List.getElem_cons_succ]
      · rw [dif_neg hr, dif_neg (by simp only [List.length_cons]; omega), if_neg hx]

/-- The bytes just written. -/
theorem bytesAt_setBytes {s : State} (a : Nat) (bs : List Byte) (h : Memory.wf s.mem = true) :
    (s.setBytes a bs).bytesAt a bs.length = bs := by
  apply List.ext_getElem
  · simp [State.bytesAt]
  · intro i h1 h2
    simp only [State.bytesAt, List.getElem_map, List.getElem_range]
    rw [byte_setBytes a bs (a + i) h, dif_pos (by omega)]
    simp only [Nat.add_sub_cancel_left]

/-- Bytes outside a write read as before. -/
theorem byte_setBytes_out {s : State} {a x : Nat} {bs : List Byte} (h : Memory.wf s.mem = true) (hx : x < a ∨ a + bs.length ≤ x) :
    (s.setBytes a bs).byte x = s.byte x := by
  rw [byte_setBytes a bs x h, dif_neg (by omega)]

/-! ## Every operation over memory keeps the form -/

/-- Clearing the error and the open bytes of a line leaves memory alone. -/
@[simp] theorem mem_clearLine (s : State) (line : Nat) : (s.clearLine line).mem = s.mem := rfl

/-- Settling the open bytes of a line leaves memory alone. -/
@[simp] theorem mem_makeExact (s : State) (line : Nat) : (s.makeExact line).mem = s.mem := rfl

/-- Advancing the counter of a line leaves memory alone. -/
@[simp] theorem mem_countWrite (s : State) (line : Nat) : (s.countWrite line).mem = s.mem := rfl

/-- Keeping what HBM4E holds leaves memory alone. -/
@[simp] theorem mem_noteDirty (s : State) (loc : Nat) : (s.noteDirty loc).mem = s.mem := by
  unfold State.noteDirty; split <;> rfl

/-- A write-back leaves memory alone. -/
@[simp] theorem mem_writeBack (s : State) (line : Nat) : (s.writeBack line).mem = s.mem := by
  unfold State.writeBack; split <;> rfl

/-- Placing bytes into a line. -/
theorem wf_placeBytes {s : State} (key : Option Nat) (loc : Nat) (bs : List Byte) (h : Memory.wf s.mem = true) :
    Memory.wf (s.placeBytes key loc bs).mem = true := by
  have kept : ∀ (u : State) (keep whole : Bool) (line : Nat) (rest : List Byte), Memory.wf u.mem = true →
      Memory.wf (if whole then (if keep then (u.makeExact line).setBytes (line * 64) rest else u).clearLine line
        else (if keep then (u.makeExact line).setBytes (line * 64) rest else u)).mem = true := by
    intro u keep whole line rest hu
    cases keep <;> cases whole <;> first | exact hu | exact wf_setBytes (s := u.makeExact line) _ _ hu
  exact wf_setBytes _ _ (kept (s.noteDirty loc) _ _ _ _ (by simpa using h))

/-- Counting a deferred failure leaves memory alone. -/
@[simp] theorem mem_deferFail (s : State) (c : Option Nat) : (s.deferFail c).mem = s.mem := by cases c <;> rfl

/-- A write transition leaves memory alone: its bytes have been placed before it. -/
@[simp] theorem mem_stampAt (s : State) (c : Option Nat) (h line loc : Nat) (bs : List Byte) :
    (s.stampAt c h line loc bs).mem = s.mem := by cases c <;> rfl

/-- What is known of a version store leaves memory alone. -/
@[simp] theorem mem_softWrite (s : State) (loc n : Nat) : (s.softWrite loc n).mem = s.mem := rfl

/-- Counting the writes of doublewords leaves memory alone. -/
@[simp] theorem mem_noteWrite (s : State) (loc n : Nat) : (s.noteWrite loc n).mem = s.mem := rfl

/-- Acknowledging the writes of ended tasks leaves memory alone. -/
@[simp] theorem mem_ackEnded (s : State) : s.ackEnded.mem = s.mem := rfl

/-- Sending a write to another device leaves memory alone. -/
@[simp] theorem mem_sendFabric (s : State) (c : Option Nat) (loc : Nat) : (s.sendFabric c loc).mem = s.mem := by
  cases c with
  | none => rfl
  | some c => unfold State.sendFabric; dsimp only; split <;> rfl

/-- Applying an inbox leaves memory alone. -/
@[simp] theorem mem_drainInbox (s : State) (d : Nat) : (s.drainInbox d).mem = s.mem := rfl

/-- Catching up leaves memory alone. -/
@[simp] theorem mem_catchUpTo (s : State) (ck : Clock) (h : Nat) : (s.catchUpTo ck h).mem = s.mem := by
  unfold State.catchUpTo; split <;> rfl

/-- Catching up with what a core carries leaves memory alone. -/
@[simp] theorem mem_catchUp (s : State) (c : Option Nat) (h : Nat) : (s.catchUp c h).mem = s.mem := by simp [State.catchUp]

/-- A write at its home. -/
theorem wf_performAt {s : State} (c key : Option Nat) (loc : Nat) (bs : List Byte) (h : Memory.wf s.mem = true) :
    Memory.wf (s.performAt c key loc bs).mem = true := by
  unfold State.performAt
  split
  · simpa using h
  · split
    · simpa using wf_placeBytes key loc bs h
    · dsimp only
      rw [mem_stampAt]
      exact wf_placeBytes _ _ _ (by simpa using h)

/-- A write that leaves its core. -/
theorem wf_perform {s : State} (c key : Option Nat) (loc : Nat) (bs : List Byte) (h : Memory.wf s.mem = true) :
    Memory.wf (s.perform c key loc bs).mem = true := by
  unfold State.perform
  split
  · exact wf_performAt c key loc bs h
  · exact wf_performAt c key loc bs (by simpa using h)

/-- A write that carries a clock of its own. -/
theorem wf_performClock {s : State} (ck : Clock) (c key : Option Nat) (loc : Nat) (bs : List Byte) (h : Memory.wf s.mem = true) :
    Memory.wf (s.performClock ck c key loc bs).mem = true := by
  unfold State.performClock
  split
  · exact wf_performAt c key loc bs h
  · exact wf_performAt c key loc bs (by simpa using h)

/-- A write of the device. -/
theorem wf_publish {s : State} (key : Option Nat) (loc : Nat) (bs : List Byte) (h : Memory.wf s.mem = true) :
    Memory.wf (s.publish key loc bs).mem = true := by
  unfold State.publish
  split
  · exact wf_performAt none key loc bs (by simpa using h)
  · exact wf_performAt none key loc bs (by simpa using h)

/-- A step that keeps the form, taken for each element of a list. -/
theorem wf_foldl {α : Type} {f : State → α → State} (hf : ∀ s a, Memory.wf s.mem = true → Memory.wf (f s a).mem = true)
    (l : List α) {s : State} (h : Memory.wf s.mem = true) : Memory.wf (l.foldl f s).mem = true := by
  induction l generalizing s with
  | nil => exact h
  | cons a r ih => exact ih (hf s a h)

/-- Bytes that may cross lines. -/
theorem wf_performAll {s : State} (c key : Option Nat) (loc : Nat) (bs : List Byte) (h : Memory.wf s.mem = true) :
    Memory.wf (s.performAll c key loc bs).mem = true :=
  wf_foldl (f := fun s (p : Nat × List Byte) => s.perform c key p.1 p.2) (fun _ p => wf_perform c key p.1 p.2) _ h

/-- The scalar stores of a core. -/
theorem wf_flushSb {s : State} (c : Nat) (h : Memory.wf s.mem = true) : Memory.wf (s.flushSb c).mem = true :=
  wf_foldl (f := fun s (e : SbEntry) => s.perform (some c) e.key e.loc e.bytes) (fun _ e => wf_perform _ e.key e.loc e.bytes) _
    (show Memory.wf s.mem = true from h)

/-- The scalar stores of a core, where one touches a range. -/
theorem wf_flushOver {s : State} (c loc n : Nat) (h : Memory.wf s.mem = true) : Memory.wf (s.flushOver c loc n).mem = true := by
  unfold State.flushOver; split
  · exact wf_flushSb c h
  · exact h

/-- A store that leaves its core leaves memory alone. -/
@[simp] theorem mem_commitOne (s : State) (c : Nat) : (s.commitOne c).mem = s.mem := by
  unfold State.commitOne; split
  · rfl
  · dsimp only; split <;> rfl

/-- A write in flight. -/
theorem wf_performFlight {s : State} (n : Nat) (h : Memory.wf s.mem = true) : Memory.wf (s.performFlight n).mem = true := by
  unfold State.performFlight; split
  · exact h
  · split
    · exact wf_performAt _ _ _ _ h
    · exact h

/-- An update that a die applies leaves memory alone. -/
@[simp] theorem mem_applyNth (s : State) (d n : Nat) : (s.applyNth d n).mem = s.mem := by
  unfold State.applyNth; split
  · rfl
  · split <;> rfl

/-- A fill that is installed leaves memory alone. -/
@[simp] theorem mem_installFill (s : State) (n : Nat) : (s.installFill n).mem = s.mem := by
  unfold State.installFill; split
  · rfl
  · dsimp only; split
    · rfl
    · split <;> rfl

/-- Memory after reset. -/
theorem wf_reset : Memory.wf State.reset.mem = true := rfl

end Sys2Proof.Machine
end

