-- ==== Sys2Proof/Laws/Run.lean ====
section
/-! SUPPORT. What running a computation does: one lemma for each way to build one. -/
namespace Sys2Proof.Machine

open Sys2Proof

/-- Running a pure computation. -/
@[simp] theorem run_pure (a : α) (s : State) : runM (pure a : M α) s = (.ok a, s) := rfl

/-- Running one computation after another. -/
@[simp] theorem run_bind (m : M α) (f : α → M β) (s : State) :
    runM (m >>= f) s =
      match runM m s with
      | (.ok a, s') => runM (f a) s'
      | (.error h, s') => (.error h, s') := by
  change (m.run >>= ExceptT.bindCont f).run s = _
  rw [StateT.run_bind]
  change (match (runM m s) with | (x, s') => (ExceptT.bindCont f x).run s') = _
  rcases runM m s with ⟨a | a, s'⟩ <;> rfl

/-- Running one computation after another, the first for its effect. -/
@[simp] theorem run_seqRight (m : M α) (f : M β) (s : State) :
    runM (m *> f) s =
      match runM m s with
      | (.ok _, s') => runM f s'
      | (.error h, s') => (.error h, s') := by
  have := run_bind m (fun _ => f) s
  exact this

/-- Applying a function to a result. -/
@[simp] theorem run_map (m : M α) (f : α → β) (s : State) :
    runM (f <$> m) s =
      match runM m s with
      | (.ok a, s') => (.ok (f a), s')
      | (.error h, s') => (.error h, s') := by
  change runM (m >>= fun a => pure (f a)) s = _
  rw [run_bind]
  rcases runM m s with ⟨a | a, s'⟩ <;> rfl

/-- Reading the state. -/
@[simp] theorem run_get (s : State) : runM (get : M State) s = (.ok s, s) := rfl

/-- Replacing the state. -/
@[simp] theorem run_set (t s : State) : runM (set t : M PUnit) s = (.ok ⟨⟩, t) := rfl

/-- Changing the state. -/
@[simp] theorem run_modify (f : State → State) (s : State) : runM (modify f : M PUnit) s = (.ok ⟨⟩, f s) := rfl

/-- Ending early. -/
@[simp] theorem run_throw (h : Halt) (s : State) : runM (throw h : M α) s = (.error h, s) := rfl

/-- Ending with a trap. -/
@[simp] theorem run_raise (t : Trap) (s : State) : runM (raise t : M α) s = (.error (.trap t), s) := rfl

/-- Ending with a wait. -/
@[simp] theorem run_await (s : State) : runM (await : M α) s = (.error .wait, s) := rfl

/-- Going on after an early end. -/
@[simp] theorem run_tryCatch (m : M α) (f : Halt → M α) (s : State) :
    runM (tryCatch m f) s =
      match runM m s with
      | (.ok a, s') => (.ok a, s')
      | (.error h, s') => runM (f h) s' := by
  rcases h : runM m s with ⟨a | a, s'⟩ <;>
    (have h2 : StateT.run (m := Id) m s = _ := h
     simp only [runM, tryCatch, tryCatchThe, MonadExceptOf.tryCatch, ExceptT.tryCatch, ExceptT.run_mk, StateT.run_bind, h2]
     rfl)

/-- Choosing by a condition. -/
@[simp] theorem run_ite (c : Prop) [Decidable c] (a b : M α) (s : State) :
    runM (if c then a else b) s = if c then runM a s else runM b s := by split <;> rfl

/-- Reading the executing core. -/
@[simp] theorem run_getMe (s : State) : runM getMe s = (.ok s.me, s) := rfl

/-- Changing the executing core. -/
@[simp] theorem run_modMe (f : Core → Core) (s : State) : runM (modMe f) s = (.ok ⟨⟩, s.updMe f) := rfl

/-- The number of the executing core. -/
@[simp] theorem run_myNumber (s : State) : runM myNumber s = (.ok s.cur, s) := rfl

/-- Reading a register. -/
@[simp] theorem run_readX (r : Reg) (s : State) : runM (readX r) s = (.ok (s.me.x r), s) := rfl

/-- Writing a register. -/
@[simp] theorem run_writeX (r : Reg) (v : Word) (s : State) : runM (writeX r v) s = (.ok ⟨⟩, s.updMe fun k => k.setX r v) := rfl

/-- ORing flags. -/
@[simp] theorem run_orFlags (f : BitVec 6) (s : State) :
    runM (orFlags f) s = (.ok ⟨⟩, s.updMe fun k => { k with flags := k.flags ||| f }) := rfl

/-- The translation context of the executing core. -/
@[simp] theorem run_myCtx (s : State) : runM myCtx s = (.ok (s.me.ctx s.cur), s) := rfl

/-- Drawing a fresh number. -/
@[simp] theorem run_drawSeed (s : State) : runM drawSeed s = (.ok s.freeCtr, { s with freeCtr := s.freeCtr + 1 }) := rfl

/-- Drawing a free word. -/
@[simp] theorem run_drawWord (s : State) :
    runM drawWord s = (.ok (Config.freeWord s.freeCtr), { s with freeCtr := s.freeCtr + 1 }) := rfl

/-- Drawing a choice. -/
@[simp] theorem run_drawChoice (k : Nat) (s : State) :
    runM (drawChoice k) s = (.ok (Config.freeChoice s.freeCtr % k), { s with freeCtr := s.freeCtr + 1 }) := rfl

/-- A trap that a computation ends in becomes its answer. -/
@[simp] theorem run_tryTrap (m : M α) (s : State) :
    runM (tryTrap m) s =
      match runM m s with
      | (.ok a, s') => (.ok (.inr a), s')
      | (.error (.trap t), s') => (.ok (.inl t), s')
      | (.error .wait, s') => (.error .wait, s') := by
  unfold tryTrap
  rw [run_tryCatch, run_bind]
  rcases runM m s with ⟨a | a, s'⟩
  · cases a <;> rfl
  · rfl

/-- Recording progress. -/
@[simp] theorem run_setProg (row col block : Nat) (s : State) : runM (setProg row col block) s = (.ok ⟨⟩, s.progressed row col block) := rfl

/-- Raising illegal-shape by a condition, with progress at 0 (R168). -/
@[simp] theorem run_illegalWhen (c : Bool) (s : State) :
    runM (illegalWhen c) s = if c then (.error (.trap shapeTrap), s.progressed 0 0 0) else (.ok ⟨⟩, s) := by
  unfold illegalWhen; split <;> rfl

/-- Running as another core, where nothing ends early. -/
theorem run_onCore_ok {c : Nat} {m : M α} {s t : State} {a : α} (h : runM m { s with cur := c } = (.ok a, t)) :
    runM (onCore c m) s = (.ok a, { t with cur := s.cur }) := by
  simp only [onCore, run_bind, run_get, run_modify, run_tryCatch, h, run_pure]

/-- Running over an empty list. -/
@[simp] theorem run_forM_nil (f : α → M PUnit) (s : State) : runM (([] : List α).forM f) s = (.ok ⟨⟩, s) := rfl

/-- Running over a list. -/
@[simp] theorem run_forM_cons (f : α → M PUnit) (a : α) (l : List α) (s : State) :
    runM ((a :: l).forM f) s =
      match runM (f a) s with
      | (.ok _, s') => runM (l.forM f) s'
      | (.error h, s') => (.error h, s') := by
  change runM (f a >>= fun _ => l.forM f) s = _
  rw [run_bind]
  rcases runM (f a) s with ⟨_ | _, s'⟩ <;> rfl

/-- The state that a computation leaves. -/
theorem after_eq (s : State) (m : M Unit) : s.after m = (runM m s).2 := rfl

end Sys2Proof.Machine
end

