-- ==== Sys2Proof/Laws/Ops.lean ====
section
/-! SUPPORT. What the shared operations do: registers and masks, sparse stores, clocks, and the waits of releases where nothing is
queued. -/
namespace Sys2Proof.Machine

open Sys2Proof

/-! ## Scalar registers (R236, R364) -/

/-- x0 reads zero. -/
@[simp] theorem x_zero (k : Core) : k.x 0 = 0 := by simp [Core.x]

/-- x0 discards what it is given. -/
@[simp] theorem setX_zero (k : Core) (v : Word) : k.setX 0 v = k := by simp [Core.setX]

/-- A read after a write of a register. -/
theorem x_setX (k : Core) (d r : Reg) (v : Word) : (k.setX d v).x r = if r = d ∧ r ≠ 0 then v else k.x r := by
  by_cases hd : d = 0
  · subst hd
    rw [setX_zero]
    split
    · next h => exact absurd h.1 h.2
    · rfl
  · by_cases hr : r = 0
    · subst hr
      rw [if_neg fun h => h.2 rfl]
      exact (x_zero _).trans (x_zero _).symm
    · have e : d.toNat = r.toNat ↔ r = d := ⟨fun h => (BitVec.eq_of_toNat_eq h).symm, fun h => by rw [h]⟩
      simp only [Core.setX, Core.x, hd, hr, if_false, ne_eq, not_false_eq_true, and_true]
      by_cases hm : k.sstat.mode = true <;>
        simp only [hm, if_true, if_false, Bool.false_eq_true, Vector.getElem_set, e]

/-- A write in the bank of the mode. -/
theorem setXOf_mode (k : Core) (d : Reg) (v : Word) : k.setXOf k.sstat.mode d v = k.setX d v := rfl

/-- A register write changes the two banks alone. -/
theorem setX_eq (k : Core) (d : Reg) (v : Word) : k.setX d v = { k with task := (k.setX d v).task, sup := (k.setX d v).sup } := by
  unfold Core.setX
  split
  · rfl
  · split <;> rfl

/-- A register write of an entry changes the two banks alone. -/
theorem setXOf_eq (k : Core) (sup : Bool) (d : Reg) (v : Word) :
    k.setXOf sup d v = { k with task := (k.setXOf sup d v).task, sup := (k.setXOf sup d v).sup } := by
  unfold Core.setXOf
  split
  · rfl
  · split <;> rfl

/-! ## Masks (R239) -/

/-- k0 reads all true. -/
@[simp] theorem mask_zero (k : Core) : k.mask 0 = BitVec.allOnes 65536 := rfl

/-- k0 discards what it is given. -/
@[simp] theorem setMask_zero (k : Core) (v : BitVec 65536) : k.setMask 0 v = k := rfl

/-- A read after a write of a mask. -/
theorem mask_setMask (k : Core) (m n : MaskReg) (v : BitVec 65536) :
    (k.setMask m v).mask n = if n = m ∧ n ≠ 0 then v else k.mask n := by
  have h : ∀ m : MaskReg, m = 0 ∨ m = 1 ∨ m = 2 ∨ m = 3 := by decide
  rcases h m with rfl | rfl | rfl | rfl <;> rcases h n with rfl | rfl | rfl | rfl <;> rfl

/-! ## Clocks (R305) -/

/-- A counter after a write of a counter. -/
theorem get_set (c : Clock) (d e v : Nat) (hd : d < 4) (he : e < 4) : (c.set d v).get e = if e = d then v else c.get e := by
  interval_cases d <;> interval_cases e <;> rfl

/-- A counter of a join. -/
theorem get_join (a b : Clock) (d : Nat) : (a.join b).get d = max (a.get d) (b.get d) := by
  unfold Clock.get Clock.join
  split <;> rfl

/-- One clock covers another but for a die. -/
theorem coversBut_iff (h : Nat) (a b : Clock) : a.coversBut h b = true ↔ ∀ k, k < 4 → k ≠ h → b.get k ≤ a.get k := by
  simp only [Clock.coversBut, List.all_eq_true, List.mem_range, Bool.or_eq_true, beq_iff_eq, decide_eq_true_eq]
  exact forall_congr' fun k => ⟨fun f hk hn => (f hk).resolve_left hn, fun f hk => (Classical.em (k = h)).imp id (f hk)⟩

/-! ## Sparse stores -/

/-- A read after a write of a byte store. -/
theorem get_put (b : Bytes) (a : Nat) (v : Byte) (x : Nat) (h : b.cells.Pairwise fun p q => p.1 < q.1) :
    (b.put a v).get x = if x = a then v else b.get x := by
  unfold Bytes.get Bytes.put
  dsimp only
  rw [cellFind_cellPut a v x h]
  by_cases hx : x = a
  · rw [if_pos hx, if_pos hx]
    by_cases hz : (b.fill == .zero) = true ∧ v = 0
    · rw [if_pos hz, beq_iff_eq.1 hz.1, hz.2]
    · rw [if_neg hz]
  · rw [if_neg hx, if_neg hx]

/-- A write keeps the bytes of a store rising. -/
theorem rising_put (b : Bytes) (a : Nat) (v : Byte) (h : b.cells.Pairwise fun p q => p.1 < q.1) :
    (b.put a v).cells.Pairwise fun p q => p.1 < q.1 := rising_cellPut a v h

/-- Each row of a list after a write was there before or is the written one. -/
theorem mem_rowPut {z : Bool} {l : List (Nat × VRow)} {a : Nat} {v : VRow} {p : Nat × VRow} (h : p ∈ rowPut z l a v) :
    p ∈ l ∨ p = (a, v) := by
  induction l with
  | nil => unfold rowPut at h; split at h <;> simp_all
  | cons q r ih =>
    obtain ⟨b, w⟩ := q
    unfold rowPut at h
    (repeat' split at h) <;> simp_all <;> tauto

/-- A write keeps the rows of a file rising. -/
theorem rising_rowPut {z : Bool} {l : List (Nat × VRow)} (a : Nat) (v : VRow) (h : l.Pairwise fun p q => p.1 < q.1) :
    (rowPut z l a v).Pairwise fun p q => p.1 < q.1 := by
  induction l with
  | nil => unfold rowPut; split <;> simp
  | cons q r ih =>
    obtain ⟨b, w⟩ := q
    obtain ⟨hb, hr⟩ := List.pairwise_cons.1 h
    unfold rowPut
    split
    · subst a; split
      · exact hr
      · exact List.pairwise_cons.2 ⟨hb, hr⟩
    · split
      · split
        · exact h
        · refine List.pairwise_cons.2 ⟨fun p hp => ?_, h⟩
          rcases List.mem_cons.1 hp with rfl | hp
          · assumption
          · have := hb p hp; dsimp only at *; omega
      · refine List.pairwise_cons.2 ⟨fun p hp => ?_, ih hr⟩
        rcases mem_rowPut hp with hp | rfl
        · exact hb p hp
        · dsimp only; omega

/-- A number below every listed one is not listed. -/
theorem rowFind_below {l : List (Nat × VRow)} {a : Nat} (h : ∀ p ∈ l, a < p.1) : rowFind l a = none := by
  cases l with
  | nil => rfl
  | cons q r =>
    obtain ⟨b, w⟩ := q
    have : a < b := h (b, w) (by simp)
    simp only [rowFind, this, if_true, if_neg (Nat.ne_of_lt this)]

/-- What is found after a write of a row. -/
theorem rowFind_rowPut {z : Bool} {l : List (Nat × VRow)} (a : Nat) (v : VRow) (x : Nat) (h : l.Pairwise fun p q => p.1 < q.1) :
    rowFind (rowPut z l a v) x = if x = a then (if z = true ∧ v = VRow.zero then none else some v) else rowFind l x := by
  have e : (z && v == VRow.zero) = decide (z = true ∧ v = VRow.zero) := by
    rw [Bool.eq_iff_iff]; simp
  induction l with
  | nil =>
    unfold rowPut
    by_cases hz : z = true ∧ v = VRow.zero
    · simp [hz, rowFind]
    · rw [e, decide_eq_false hz, if_neg Bool.false_ne_true, if_neg hz]
      simp only [rowFind]; split
      · rfl
      · split <;> rfl
  | cons q r ih =>
    obtain ⟨b, w⟩ := q
    obtain ⟨hb, hr⟩ := List.pairwise_cons.1 h
    unfold rowPut
    rw [e]
    by_cases hab : a = b
    · subst hab
      rw [if_pos rfl]
      by_cases hz : z = true ∧ v = VRow.zero
      · rw [if_pos (decide_eq_true hz)]
        by_cases hx : x = a
        · subst hx; rw [if_pos rfl, if_pos hz]; exact rowFind_below hb
        · rw [if_neg hx]
          conv_rhs => rw [rowFind]
          rw [if_neg hx]
          by_cases hxa : x < a
          · rw [if_pos hxa]; exact rowFind_below fun p hp => Nat.lt_trans hxa (hb p hp)
          · rw [if_neg hxa]
      · rw [decide_eq_false hz, if_neg Bool.false_ne_true, if_neg hz]
        by_cases hx : x = a
        · subst hx; simp [rowFind]
        · rw [if_neg hx]; conv_lhs => unfold rowFind
          conv_rhs => unfold rowFind
          rw [if_neg hx, if_neg hx]
    · rw [if_neg hab]
      by_cases hlt : a < b
      · rw [if_pos hlt]
        by_cases hz : z = true ∧ v = VRow.zero
        · rw [if_pos (decide_eq_true hz), if_pos hz]
          by_cases hx : x = a
          · subst hx; rw [if_pos rfl]; unfold rowFind; rw [if_neg hab, if_pos hlt]
          · rw [if_neg hx]
        · rw [decide_eq_false hz, if_neg Bool.false_ne_true, if_neg hz]
          by_cases hx : x = a
          · subst hx; simp [rowFind]
          · rw [if_neg hx]
            conv_lhs => unfold rowFind
            rw [if_neg hx]
            split
            · conv_rhs => unfold rowFind
              rw [if_neg (by omega), if_pos (by omega)]
            · rfl
      · rw [if_neg hlt]
        conv_lhs => unfold rowFind
        conv_rhs => rw [rowFind]
        rw [ih hr]
        split
        · subst x; rw [if_neg (Ne.symm hab)]
        · split
          · rw [if_neg (by omega)]
          · rfl

/-- A read after a write of a row file. -/
theorem rowFile_get_put (f : RowFile) (i : Nat) (v : VRow) (j : Nat) (h : f.rows.Pairwise fun p q => p.1 < q.1) :
    (f.put i v).get j = if j = i then v else f.get j := by
  unfold RowFile.get RowFile.put
  dsimp only
  rw [rowFind_rowPut i v j h]
  by_cases hj : j = i
  · rw [if_pos hj, if_pos hj]
    by_cases hz : (f.fill == .zero) = true ∧ v = VRow.zero
    · rw [if_pos hz, hz.2, Option.getD_none]
      simp only [RowFile.blank, beq_iff_eq.1 hz.1]
    · rw [if_neg hz, Option.getD_some]
  · rw [if_neg hj, if_neg hj]; rfl

/-- Rows of registers of a shape lie apart. -/
theorem fileRow_inj {wide : Bool} {a b : Reg} {p q : Nat} (hp : p < rowMax wide) (hq : q < rowMax wide)
    (h : fileRow wide a p = fileRow wide b q) : a = b ∧ p = q := by
  unfold fileRow at h
  have hm : 0 < rowMax wide := by cases wide <;> decide
  have h1 := congrArg (· / rowMax wide) h
  have h2 := congrArg (· % rowMax wide) h
  simp only [Nat.add_comm _ p, Nat.add_comm _ q, Nat.add_mul_div_right _ _ hm, Nat.add_mul_mod_self_right, Nat.div_eq_of_lt hp,
    Nat.div_eq_of_lt hq, Nat.mod_eq_of_lt hp, Nat.mod_eq_of_lt hq, Nat.zero_add] at h1 h2
  exact ⟨BitVec.eq_of_toNat_eq h1, h2⟩

/-- A row after a write of a row. -/
theorem row_setRow (k : Core) (wide : Bool) (a d : Reg) (p r : Nat) (w : VRow) (h : k.vregs.rows.Pairwise fun p q => p.1 < q.1)
    (hp : p < rowMax wide) (hr : r < rowMax wide) : (k.setRow wide d r w).row wide a p = if a = d ∧ p = r then w else k.row wide a p := by
  unfold Core.row Core.setRow
  dsimp only
  rw [rowFile_get_put _ _ _ _ h]
  by_cases hc : a = d ∧ p = r
  · rw [if_pos hc, hc.1, hc.2, if_pos rfl]
  · rw [if_neg hc, if_neg fun e => hc (fileRow_inj hp hr e)]

/-! ## Waits where nothing is queued (R221, R245, R309) -/

/-- A channel of a core without issued copies is empty. -/
theorem chan_of_issued {k : Core} (h : k.issued = 0) (i : Nat) (hi : i < 4) : (k.chan i).copies = [] := by
  simp only [Core.issued, List.range, List.range.loop, List.foldl_cons, List.foldl_nil] at h
  apply List.length_eq_zero_iff.1
  interval_cases i <;> omega

/-- No channel of a core without issued copies can move. -/
theorem oldestFirst_of_issued {k : Core} (h : k.issued = 0) : k.oldestFirst = [] := by
  have c := fun i hi => chan_of_issued h i hi
  simp only [Core.oldestFirst, List.range, List.range.loop]
  simp [c 0, c 1, c 2, c 3]

/-- Copies run to their end where there are none. -/
theorem run_runCopiesUntil {s : State} (h : s.me.issued = 0) (test : Core → Bool) (n : Nat) : runM (runCopiesUntil test n) s = (.ok (), s) := by
  cases n with
  | zero => rfl
  | succ n =>
    simp only [runCopiesUntil, run_bind, run_getMe, run_ite, oldestFirst_of_issued h, copyMove, run_pure]
    split
    · rfl
    · rfl

/-- The wait for the copies of a core that has none. -/
theorem run_drainCopies {s : State} (h : s.me.issued = 0) : runM drainCopies s = (.ok (), s) := by
  have c := fun i hi => chan_of_issued h i hi
  simp only [drainCopies, runCopies, run_bind, run_getMe, run_runCopiesUntil h, run_ite]
  rw [if_neg]
  · rfl
  · simp [List.range, List.range.loop, c 0, c 1, c 2, c 3]

/-- A core without issued copies holds no acquire in its channels. -/
theorem olderAcquire_of_issued {k : Core} (h : k.issued = 0) (ch seq : Nat) : k.olderAcquire ch seq = false := by
  have c := fun i hi => chan_of_issued h i hi
  simp [Core.olderAcquire, List.range, List.range.loop, c 0, c 1, c 2, c 3]

/-- An entry passes to its effect where no acquire is older (R310). -/
theorem run_entryGate {s : State} (h : s.me.issued = 0) (ha : s.crustHas s.cur Item.acq = false) (e : VEntry) :
    runM (entryGate e) s = (.ok (), s) := by
  simp [entryGate, settleAcquires, olderAcquire_of_issued h, ha]

/-- The queue runs to its end where it is empty. -/
theorem run_runEntries {s : State} (h : s.me.queue = []) : runM runEntries s = (.ok (), s) := by
  simp only [runEntries, run_bind, run_getMe, h, List.length_nil]; rfl

/-- The wait for an empty queue. -/
theorem run_waitEntries {s : State} (h : s.me.queue = []) : runM waitEntries s = (.ok (), s) := by
  simp only [waitEntries, run_bind, run_runEntries h, run_getMe, h, List.isEmpty_nil, if_true]; rfl

/-- The wait for an empty queue and empty channels. -/
theorem run_waitEmpty {s : State} (h : s.me.queue = []) (hc : s.me.issued = 0) : runM waitEmpty s = (.ok (), s) := by
  simp only [waitEmpty, run_bind, run_waitEntries h, run_drainCopies hc]

/-- A release of a core without issued copies: at scope 0 its stores leave it, beyond it they perform; the crust commands that
carry REL perform, and at scope 4 the writes to other devices are acknowledged. -/
theorem run_releaseWrites {s : State} (h : s.me.issued = 0) (scope : Nat) : runM (releaseWrites scope) s = (.ok (),
    let t := (if scope = 0 then s.commitAll s.cur else s.flushSb s.cur).crustRel s.cur
    if scope = 4 then t.ackFabric s.cur fun _ => true else t) := by
  simp only [releaseWrites, run_bind, run_drainCopies h, run_myNumber, run_ite, run_modify]
  split <;> rfl

/-- An acquire, after its read. -/
theorem run_acquireReads (s : State) (scope : Nat) :
    runM (acquireReads scope) s = (.ok (), if scope = 4 then s.drainInbox (dieOf s.cur) else s) := by
  simp only [acquireReads, run_bind, run_myNumber, run_ite, run_modify]
  split <;> rfl

/-! ## Write transitions leave what they do not name (R306) -/

/-- A write transition keeps the number of dies. -/
@[simp] theorem stampAt_dies_length (s : State) (c : Option Nat) (h line loc : Nat) (bs : List Byte) :
    (s.stampAt c h line loc bs).dies.length = s.dies.length := by
  cases c <;> simp [State.stampAt, State.updCore, State.updDie, State.setStamp, State.dropL1]

/-- A write transition keeps the number of cores. -/
@[simp] theorem stampAt_cores_length (s : State) (c : Option Nat) (h line loc : Nat) (bs : List Byte) :
    (s.stampAt c h line loc bs).cores.length = s.cores.length := by
  cases c <;> simp [State.stampAt, State.updCore, State.updDie, State.setStamp, State.dropL1]

/-- Keeping what HBM4E holds leaves the current core the current one. -/
@[simp] theorem noteDirty_cur (s : State) (loc : Nat) : (s.noteDirty loc).cur = s.cur := by
  unfold State.noteDirty; split <;> rfl

/-- Placing bytes leaves the current core the current one. -/
@[simp] theorem placeBytes_cur (s : State) (key : Option Nat) (loc : Nat) (bs : List Byte) : (s.placeBytes key loc bs).cur = s.cur := by
  have kept : ∀ (u : State) (keep whole : Bool) (line : Nat) (rest : List Byte), u.cur = s.cur →
      (if whole then (if keep then (u.makeExact line).setBytes (line * 64) rest else u).clearLine line
        else (if keep then (u.makeExact line).setBytes (line * 64) rest else u)).cur = s.cur := by
    intro u keep whole line rest hu
    cases keep <;> cases whole <;> first | exact hu | exact (setBytes_cur (u.makeExact line) _ _).trans hu
  exact (setBytes_cur _ _ _).trans (kept (s.noteDirty loc) _ _ _ _ (noteDirty_cur s loc))

/-- What is known of a version store leaves the current core the current one. -/
@[simp] theorem softWrite_cur (s : State) (loc n : Nat) : (s.softWrite loc n).cur = s.cur := rfl

/-- A write transition leaves the current core the current one. -/
@[simp] theorem stampAt_cur (s : State) (c : Option Nat) (h line loc : Nat) (bs : List Byte) :
    (s.stampAt c h line loc bs).cur = s.cur := by cases c <;> rfl

/-- A write that performs leaves the current core the current one. -/
@[simp] theorem performAt_cur (s : State) (c key : Option Nat) (loc : Nat) (bs : List Byte) : (s.performAt c key loc bs).cur = s.cur := by
  unfold State.performAt
  split
  · cases c <;> rfl
  · split
    · cases c with
      | none => simp [State.sendFabric]
      | some c => unfold State.sendFabric; dsimp only; split <;> exact placeBytes_cur s key loc bs
    · simp

end Sys2Proof.Machine
end

