-- ==== Sys2Proof/Laws/Instr.lean ====
section
/-! SUPPORT. What an instruction leaves when its body reaches its end: one law for scalar instructions, one for transfers of
control, one for vector-class instructions, and one for events. -/
namespace Sys2Proof.Machine

open Sys2Proof

/-- With no pending register the interlock passes. -/
theorem run_interlock {rs : List Reg} {s : State} (h : s.me.pending rs = false) : runM (interlock rs) s = (.ok (), s) := by
  simp [interlock, h]

/-- With no store before a FENCE.SV waiting the gate passes. -/
theorem run_svGate {s : State} (h : s.me.svWaits = false) : runM svGate s = (.ok (), s) := by
  simp [svGate, h]

/-- With an empty queue no register is pending. -/
theorem pending_of_queue {k : Core} (h : k.queue = []) (rs : List Reg) : k.pending rs = false := by
  simp [Core.pending, h]

/-- An address that is well formed is where the stream goes on. -/
theorem advance_snd {k : Core} (h : wellFormedIa k.nextIa = true) : k.advance.2 = none := by
  simp [Core.advance, h]

/-- Where the stream goes on in sequence. -/
theorem advance_fst {k : Core} (h : wellFormedIa k.nextIa = true) :
    k.advance.1 = { k with ia := k.nextIa, line := if iaSlot k.ia < k.nh then k.line else none } := by
  simp [Core.advance, h]

/-- Retiring. -/
theorem run_retire {s : State} (hc : s.cur < s.cores.length) (h : wellFormedIa s.me.nextIa = true) :
    runM retire s = (.ok (), s.goesOn) := by
  have h2 := advance_snd h
  simp only [retire, run_bind, run_getMe, State.goesOn]
  rcases hq : s.me.advance with ⟨k', o⟩
  rw [hq] at h2
  simp only at h2
  subst h2
  simp only [run_modMe]
  congr 1
  unfold State.updMe State.updCore
  congr 1
  have : ∀ (l : List Core) (n : Nat) (d : Core), n < l.length → modifyNth (fun _ => (l.getD n d).advance.1) n l
      = modifyNth (fun k => k.advance.1) n l := by
    intro l
    induction l with
    | nil => intro n d h; simp at h
    | cons a r ih =>
      intro n d h
      cases n with
      | zero => rfl
      | succ n => simp only [modifyNth]; congr 1; exact ih n d (by simpa using h)
  have := this s.cores s.cur Core.reset hc
  rw [show s.cores.getD s.cur Core.reset = s.me from rfl, hq] at this
  exact this

/-- A scalar instruction whose body ends goes on in sequence. -/
theorem scalar_completes {rs : List Reg} {body : M Unit} {s t : State} (h : Ready s rs) (hb : Ends body s t)
    (hc : t.cur < t.cores.length) (hn : wellFormedIa t.me.nextIa = true) : scalar rs body s = .next t.goesOn := by
  simp only [scalar, instr, after_eq, runInstr, run_bind, run_tryTrap, run_interlock h.free]
  rw [show runM body s = (.ok (), t) from hb]
  simp [run_retire hc hn]

/-- A scalar instruction that only changes its core, and keeps where it stands. -/
theorem scalar_core {rs : List Reg} {body : M Unit} {s : State} {f : Core → Core} (h : Ready s rs)
    (hb : Ends body s (s.updMe f)) (hia : (f s.me).ia = s.me.ia) (hl : (f s.me).line = s.me.line) :
    scalar rs body s = .next (s.updMe f).goesOn := by
  refine scalar_completes h hb (by simpa using h.cur) ?_
  rw [me_updMe _ _ h.cur]
  simpa [Core.nextIa, Core.nh, hia, hl] using h.next

/-- A scalar instruction that writes one register. -/
theorem scalar_writes {rs : List Reg} {body : M Unit} {s : State} {d : Reg} {v : Word} (h : Ready s rs)
    (hb : Ends body s (s.updMe fun k => k.setX d v)) : scalar rs body s = .next (s.updMe fun k => k.setX d v).goesOn :=
  scalar_core h hb (by simp) (by simp)

/-- A transfer of control leaves the state that its body leaves. -/
theorem instr_stays {rs : List Reg} {body : M Flow} {s t : State} (h : s.me.pending rs = false)
    (hb : Answers body s .stay t) : instr rs body s = .next t := by
  simp only [instr, after_eq, runInstr, run_bind, run_tryTrap, run_interlock h]
  rw [show runM body s = (.ok .stay, t) from hb]
  rfl

/-- An instruction whose body answers that it goes on. -/
theorem instr_goes {rs : List Reg} {body : M Flow} {s t : State} (h : s.me.pending rs = false)
    (hb : Answers body s .next t) (hc : t.cur < t.cores.length) (hn : wellFormedIa t.me.nextIa = true) :
    instr rs body s = .next t.goesOn := by
  simp only [instr, after_eq, runInstr, run_bind, run_tryTrap, run_interlock h]
  rw [show runM body s = (.ok .next, t) from hb]
  simp [run_retire hc hn]

/-- An instruction whose body ends in a trap enters the handler (R365). -/
theorem instr_traps {rs : List Reg} {body : M Flow} {s t : State} {r : Trap} (h : s.me.pending rs = false)
    (hb : Traps body s r t) : instr rs body s = .next (t.after (trapEntry (some r) t.me.ia)) := by
  simp only [instr, after_eq, runInstr, run_bind, run_tryTrap, run_interlock h]
  rw [show runM body s = (.error (.trap r), t) from hb]
  simp

/-- A scalar instruction whose body ends in a trap enters the handler (R365). -/
theorem scalar_traps {rs : List Reg} {body : M Unit} {s t : State} {r : Trap} (h : s.me.pending rs = false)
    (hb : Traps body s r t) : scalar rs body s = .next (t.after (trapEntry (some r) t.me.ia)) := by
  refine instr_traps h ?_
  simp only [Traps, run_bind]
  rw [show runM body s = (.error (.trap r), t) from hb]

/-- Dispatch to an empty queue. -/
theorem run_dispatch {s t : State} {op : VecOp} {rm : Rm} {a b c d : Option Reg} (h : Accepting s)
    (hv : Ends (vexec (s.entry op rm a b c d)) (s.dispatched op rm a b c d) t) :
    Ends (dispatch op rm a b c d) s (t.updMe fun k => k.complete (s.entry op rm a b c d)) := by
  have hq : (s.dispatched op rm a b c d).me.queue = [s.entry op rm a b c d] := by
    rw [State.dispatched, me_updMe _ _ h.cur]
    unfold Core.enqueue
    cases op <;> simp [h.queue, State.entry]
  have hf : (s.entry op rm a b c d).fault = none := rfl
  have hg : runM (entryGate (s.entry op rm a b c d)) (s.dispatched op rm a b c d) = (.ok (), s.dispatched op rm a b c d) := by
    refine run_entryGate (s := s.dispatched op rm a b c d) ?_ h.acquired _
    rw [State.dispatched, me_updMe _ _ h.cur]
    unfold Core.enqueue
    cases op <;> exact h.channels
  have ho : s.me.occupied < Config.queueEntries := by simp [Core.occupied, h.queue, h.channels, Config.queueEntries]
  have he : (s.dispatched op rm a b c d).eager = true := h.eager
  unfold Ends at hv ⊢
  simp only [dispatch, run_bind, run_interlock (pending_of_queue h.queue _), run_svGate h.fence, makeRoom, run_getMe, run_ite, ho, if_true,
    run_pure, run_modMe, run_get]
  rw [show (s.updMe fun k => k.enqueue op rm a b c d) = s.dispatched op rm a b c d from rfl]
  simp only [he, if_true, runEntries, run_bind, run_getMe, hq, List.length_singleton, runQueue, stepHead, hf, Option.isSome_none,
    Bool.false_eq_true, if_false, run_tryCatch, hg, hv, run_modMe, run_pure]

/-- A vector-class instruction whose entry has its effect at once (R244, R245). -/
theorem vector_completes {s t : State} {op : VecOp} {rm : Rm} {a b c d : Option Reg} (h : Accepting s)
    (hv : Ends (vexec (s.entry op rm a b c d)) (s.dispatched op rm a b c d) t) (hc : t.cur < t.cores.length)
    (hn : wellFormedIa (t.me.complete (s.entry op rm a b c d)).nextIa = true) :
    vector op rm a b c d s = .next (t.updMe fun k => k.complete (s.entry op rm a b c d)).goesOn := by
  refine scalar_completes ⟨h.cur, pending_of_queue h.queue _, h.next⟩ (run_dispatch h hv) (by simpa using hc) ?_
  rw [me_updMe _ _ hc]
  exact hn

/-- A completed entry leaves where the core stands. -/
theorem complete_nextIa (k : Core) (e : VEntry) : (k.complete e).nextIa = k.nextIa := by
  unfold Core.complete; split <;> rfl

/-- Dispatch leaves where the core stands. -/
theorem enqueue_nextIa (k : Core) (op : VecOp) (rm : Rm) (a b c d : Option Reg) : (k.enqueue op rm a b c d).nextIa = k.nextIa := by
  unfold Core.enqueue; cases op <;> rfl

/-- A vector-class instruction whose effect is on its core. -/
theorem vector_core {s : State} {op : VecOp} {rm : Rm} {a b c d : Option Reg} {f : Core → Core} (h : Accepting s)
    (hv : Ends (vexec (s.entry op rm a b c d)) (s.dispatched op rm a b c d) ((s.dispatched op rm a b c d).updMe f))
    (hf : ∀ k, (f k).nextIa = k.nextIa) :
    vector op rm a b c d s = .next (s.vectorDone op rm a b c d fun t => t.updMe f) := by
  refine vector_completes h hv (by simpa [State.dispatched] using h.cur) ?_
  rw [complete_nextIa, me_updMe _ _ (by simpa [State.dispatched] using h.cur), hf, State.dispatched, me_updMe _ _ h.cur,
    enqueue_nextIa]
  exact h.next

/-- An event leaves the state that its computation leaves. -/
theorem event_next (m : M Unit) (s : State) : event m s = .next (runM m s).2 := rfl

end Sys2Proof.Machine
end

