-- ==== Sys2Proof/Laws/PerInstr.lean ====
section
/-! SUPPORT. The fields of every well-formed instruction decode to it, or to the instruction that its words stand for: one law for
each constructor. -/
namespace Sys2Proof.Laws.Coding

open Sys2Proof

/-- The fields that the encoder writes for a well-formed instruction decode to the instruction whose words they are (R18 to
R23). -/
def Statement (i : Instr) : Prop := i.wf = true → ∀ r, encode i = some r → decodeRaw r = .ok i.canonical

theorem nop : Statement .nop := by
  intro _ r h; cases h; rfl

theorem add (x : AluF) : Statement (.add x) := by
  intro h r hr; cases hr
  exact read_AluF .add 0x01 0 x

theorem sub (x : AluF) : Statement (.sub x) := by
  intro h r hr; cases hr
  exact read_AluF .sub 0x01 1 x

theorem and (x : AluF) : Statement (.and x) := by
  intro h r hr; cases hr
  exact read_AluF .and 0x01 2 x

theorem or (x : AluF) : Statement (.or x) := by
  intro h r hr; cases hr
  exact read_AluF .or 0x01 3 x

theorem xor (x : AluF) : Statement (.xor x) := by
  intro h r hr; cases hr
  exact read_AluF .xor 0x01 4 x

theorem shl (x : AluF) : Statement (.shl x) := by
  intro h r hr; cases hr
  exact read_AluF .shl 0x01 5 x

theorem shr (x : AluF) : Statement (.shr x) := by
  intro h r hr; cases hr
  exact read_AluF .shr 0x01 6 x

theorem sra (x : AluF) : Statement (.sra x) := by
  intro h r hr; cases hr
  exact read_AluF .sra 0x01 7 x

theorem mul (x : AluF) : Statement (.mul x) := by
  intro h r hr; cases hr
  exact read_AluF .mul 0x01 8 x

theorem mulh (x : AluF) : Statement (.mulh x) := by
  intro h r hr; cases hr
  exact read_AluF .mulh 0x01 9 x

theorem mulhu (x : AluF) : Statement (.mulhu x) := by
  intro h r hr; cases hr
  exact read_AluF .mulhu 0x01 10 x

theorem div (x : AluF) : Statement (.div x) := by
  intro h r hr; cases hr
  exact read_AluF .div 0x01 11 x

theorem divu (x : AluF) : Statement (.divu x) := by
  intro h r hr; cases hr
  exact read_AluF .divu 0x01 12 x

theorem rem (x : AluF) : Statement (.rem x) := by
  intro h r hr; cases hr
  exact read_AluF .rem 0x01 13 x

theorem remu (x : AluF) : Statement (.remu x) := by
  intro h r hr; cases hr
  exact read_AluF .remu 0x01 14 x

theorem min (x : AluF) : Statement (.min x) := by
  intro h r hr; cases hr
  exact read_AluF .min 0x01 15 x

theorem max (x : AluF) : Statement (.max x) := by
  intro h r hr; cases hr
  exact read_AluF .max 0x01 16 x

theorem minu (x : AluF) : Statement (.minu x) := by
  intro h r hr; cases hr
  exact read_AluF .minu 0x01 17 x

theorem maxu (x : AluF) : Statement (.maxu x) := by
  intro h r hr; cases hr
  exact read_AluF .maxu 0x01 18 x

theorem slt (x : AluF) : Statement (.slt x) := by
  intro h r hr; cases hr
  exact read_AluF .slt 0x01 19 x

theorem sltu (x : AluF) : Statement (.sltu x) := by
  intro h r hr; cases hr
  exact read_AluF .sltu 0x01 20 x

theorem seq (x : AluF) : Statement (.seq x) := by
  intro h r hr; cases hr
  exact read_AluF .seq 0x01 21 x

theorem clz (x : AluUF) : Statement (.clz x) := by
  intro h r hr; cases hr
  exact read_AluUF .clz 0x01 22 x

theorem ctz (x : AluUF) : Statement (.ctz x) := by
  intro h r hr; cases hr
  exact read_AluUF .ctz 0x01 23 x

theorem popc (x : AluUF) : Statement (.popc x) := by
  intro h r hr; cases hr
  exact read_AluUF .popc 0x01 24 x

theorem addi (x : AluIF) : Statement (.addi x) := by
  intro h r hr; cases hr
  exact read_AluIF .addi 0x02 0 x

theorem andi (x : AluIF) : Statement (.andi x) := by
  intro h r hr; cases hr
  exact read_AluIF .andi 0x02 1 x

theorem ori (x : AluIF) : Statement (.ori x) := by
  intro h r hr; cases hr
  exact read_AluIF .ori 0x02 2 x

theorem xori (x : AluIF) : Statement (.xori x) := by
  intro h r hr; cases hr
  exact read_AluIF .xori 0x02 3 x

theorem shli (x : AluSF) : Statement (.shli x) := by
  intro h r hr; cases hr
  exact read_AluSF .shli 0x02 4 x h

theorem shri (x : AluSF) : Statement (.shri x) := by
  intro h r hr; cases hr
  exact read_AluSF .shri 0x02 5 x h

theorem srai (x : AluSF) : Statement (.srai x) := by
  intro h r hr; cases hr
  exact read_AluSF .srai 0x02 6 x h

theorem slti (x : AluIF) : Statement (.slti x) := by
  intro h r hr; cases hr
  exact read_AluIF .slti 0x02 7 x

theorem sltui (x : AluIF) : Statement (.sltui x) := by
  intro h r hr; cases hr
  exact read_AluIF .sltui 0x02 8 x

theorem li (x : LiF) : Statement (.li x) := by
  intro h r hr; cases hr
  exact read_LiF .li 0x03 0 x

theorem lih (x : LihF) : Statement (.lih x) := by
  intro h r hr; cases hr
  exact read_LihF .lih 0x03 1 x

theorem fadd (x : FpuF) : Statement (.fadd x) := by
  intro h r hr; cases hr
  exact read_FpuF .fadd 0x04 0 x

theorem fsub (x : FpuF) : Statement (.fsub x) := by
  intro h r hr; cases hr
  exact read_FpuF .fsub 0x04 1 x

theorem fmul (x : FpuF) : Statement (.fmul x) := by
  intro h r hr; cases hr
  exact read_FpuF .fmul 0x04 2 x

theorem fdiv (x : FpuF) : Statement (.fdiv x) := by
  intro h r hr; cases hr
  exact read_FpuF .fdiv 0x04 3 x

theorem fsqrt (x : FpuUF) : Statement (.fsqrt x) := by
  intro h r hr; cases hr
  exact read_FpuUF .fsqrt 0x04 4 x

theorem fmin (x : R3T2) : Statement (.fmin x) := by
  intro h r hr; cases hr
  exact read_R3T2 .fmin 0x04 5 x

theorem fmax (x : R3T2) : Statement (.fmax x) := by
  intro h r hr; cases hr
  exact read_R3T2 .fmax 0x04 6 x

theorem feq (x : R3T2) : Statement (.feq x) := by
  intro h r hr; cases hr
  exact read_R3T2 .feq 0x04 7 x

theorem flt (x : R3T2) : Statement (.flt x) := by
  intro h r hr; cases hr
  exact read_R3T2 .flt 0x04 8 x

theorem fle (x : R3T2) : Statement (.fle x) := by
  intro h r hr; cases hr
  exact read_R3T2 .fle 0x04 9 x

theorem fcvtif (x : FpuUF) : Statement (.fcvtif x) := by
  intro h r hr; cases hr
  exact read_FpuUF .fcvtif 0x04 10 x

theorem fcvtfi (x : FpuUF) : Statement (.fcvtfi x) := by
  intro h r hr; cases hr
  exact read_FpuUF .fcvtfi 0x04 11 x

theorem fclass (x : R2T2) : Statement (.fclass x) := by
  intro h r hr; cases hr
  exact read_R2T2 .fclass 0x04 12 x

theorem ffma (x : FmaF) : Statement (.ffma x) := by
  intro h r hr; cases hr
  exact read_FmaF .ffma 0x05 0 x

theorem ffms (x : FmaF) : Statement (.ffms x) := by
  intro h r hr; cases hr
  exact read_FmaF .ffms 0x05 1 x

theorem fnfma (x : FmaF) : Statement (.fnfma x) := by
  intro h r hr; cases hr
  exact read_FmaF .fnfma 0x05 2 x

theorem beq (x : BrF) : Statement (.beq x) := by
  intro h r hr; cases hr
  exact read_BrF .beq 0x08 0 x

theorem bne (x : BrF) : Statement (.bne x) := by
  intro h r hr; cases hr
  exact read_BrF .bne 0x08 1 x

theorem blt (x : BrF) : Statement (.blt x) := by
  intro h r hr; cases hr
  exact read_BrF .blt 0x08 2 x

theorem bge (x : BrF) : Statement (.bge x) := by
  intro h r hr; cases hr
  exact read_BrF .bge 0x08 3 x

theorem bltu (x : BrF) : Statement (.bltu x) := by
  intro h r hr; cases hr
  exact read_BrF .bltu 0x08 4 x

theorem bgeu (x : BrF) : Statement (.bgeu x) := by
  intro h r hr; cases hr
  exact read_BrF .bgeu 0x08 5 x

theorem jal (x : JalF) : Statement (.jal x) := by
  intro h r hr; cases hr
  exact read_JalF .jal 0x09 0 x

theorem jalr (x : R2T2) : Statement (.jalr x) := by
  intro h r hr; cases hr
  exact read_R2T2 .jalr 0x0A 0 x

theorem lb (x : MemF) : Statement (.lb x) := by
  intro h r hr; cases hr
  exact read_MemF Instr.lb 0x10 0 x

theorem lbu (x : MemF) : Statement (.lbu x) := by
  intro h r hr; cases hr
  exact read_MemF Instr.lbu 0x10 1 x

theorem lh (x : MemF) : Statement (.lh x) := by
  intro h r hr; cases hr
  exact read_MemF Instr.lh 0x10 2 x

theorem lhu (x : MemF) : Statement (.lhu x) := by
  intro h r hr; cases hr
  exact read_MemF Instr.lhu 0x10 3 x

theorem lw (x : MemF) : Statement (.lw x) := by
  intro h r hr; cases hr
  exact read_MemF Instr.lw 0x10 4 x

theorem lwu (x : MemF) : Statement (.lwu x) := by
  intro h r hr; cases hr
  exact read_MemF Instr.lwu 0x10 5 x

theorem ld (x : MemF) : Statement (.ld x) := by
  intro h r hr; cases hr
  exact read_MemF Instr.ld 0x10 6 x

theorem sb (x : MemF) : Statement (.sb x) := by
  intro h r hr; cases hr
  exact read_MemF Instr.sb 0x11 0 x

theorem sh (x : MemF) : Statement (.sh x) := by
  intro h r hr; cases hr
  exact read_MemF Instr.sh 0x11 1 x

theorem sw (x : MemF) : Statement (.sw x) := by
  intro h r hr; cases hr
  exact read_MemF Instr.sw 0x11 2 x

theorem sd (x : MemF) : Statement (.sd x) := by
  intro h r hr; cases hr
  exact read_MemF Instr.sd 0x11 3 x

theorem amoadd (x : AmoF) : Statement (.amoadd x) := by
  intro h r hr; cases hr
  exact read_AmoF .amoadd 0x12 0 x

theorem amoswap (x : AmoF) : Statement (.amoswap x) := by
  intro h r hr; cases hr
  exact read_AmoF .amoswap 0x12 1 x

theorem amoand (x : AmoF) : Statement (.amoand x) := by
  intro h r hr; cases hr
  exact read_AmoF .amoand 0x12 2 x

theorem amoor (x : AmoF) : Statement (.amoor x) := by
  intro h r hr; cases hr
  exact read_AmoF .amoor 0x12 3 x

theorem amoxor (x : AmoF) : Statement (.amoxor x) := by
  intro h r hr; cases hr
  exact read_AmoF .amoxor 0x12 4 x

theorem amomin (x : AmoF) : Statement (.amomin x) := by
  intro h r hr; cases hr
  exact read_AmoF .amomin 0x12 5 x

theorem amomax (x : AmoF) : Statement (.amomax x) := by
  intro h r hr; cases hr
  exact read_AmoF .amomax 0x12 6 x

theorem amominu (x : AmoF) : Statement (.amominu x) := by
  intro h r hr; cases hr
  exact read_AmoF .amominu 0x12 7 x

theorem amomaxu (x : AmoF) : Statement (.amomaxu x) := by
  intro h r hr; cases hr
  exact read_AmoF .amomaxu 0x12 8 x

theorem amofadd (x : AmoF) : Statement (.amofadd x) := by
  intro h r hr; cases hr
  exact read_AmoF .amofadd 0x12 9 x

theorem amocas (x : AmoCasF) : Statement (.amocas x) := by
  intro h r hr; cases hr
  exact read_AmoCasF .amocas 0x12 10 x

theorem ldaW (x : OrdF) : Statement (.ldaW x) := by
  intro h r hr; cases hr
  exact read_OrdF Instr.ldaW 0x13 0 x

theorem ldaD (x : OrdF) : Statement (.ldaD x) := by
  intro h r hr; cases hr
  exact read_OrdF Instr.ldaD 0x13 1 x

theorem stlW (x : OrdF) : Statement (.stlW x) := by
  intro h r hr; cases hr
  exact read_OrdF Instr.stlW 0x13 2 x

theorem stlD (x : OrdF) : Statement (.stlD x) := by
  intro h r hr; cases hr
  exact read_OrdF Instr.stlD 0x13 3 x

theorem fence (x : FenceF) : Statement (.fence x) := by
  intro h r hr; cases hr
  exact read_FenceF .fence 0x14 0 x h

theorem fenceSv : Statement .fenceSv := by
  intro _ r h; cases h; rfl

theorem fenceVs : Statement .fenceVs := by
  intro _ r h; cases h; rfl

theorem cflush (x : CacheF) : Statement (.cflush x) := by
  intro h r hr; cases hr
  exact read_CacheF .cflush 0x15 0 x

theorem cinv (x : CacheF) : Statement (.cinv x) := by
  intro h r hr; cases hr
  exact read_CacheF .cinv 0x15 1 x

theorem cpref (x : CacheF) : Statement (.cpref x) := by
  intro h r hr; cases hr
  exact read_CacheF .cpref 0x15 2 x

theorem cdrop (x : CacheF) : Statement (.cdrop x) := by
  intro h r hr; cases hr
  exact read_CacheF .cdrop 0x15 3 x

theorem waitne (x : WaitF) : Statement (.waitne x) := by
  intro h r hr; cases hr
  exact read_WaitF .waitne 0x16 0 x

theorem waiteq (x : WaitF) : Statement (.waiteq x) := by
  intro h r hr; cases hr
  exact read_WaitF .waiteq 0x16 1 x

theorem waitaReread (core : Nat) : Statement (.waitaReread core) := by
  intro _ r h; exact absurd h (by simp [encode])

theorem waitaTimeout (core : Nat) : Statement (.waitaTimeout core) := by
  intro _ r h; exact absurd h (by simp [encode])

theorem csrr (x : CsrRF) : Statement (.csrr x) := by
  intro h r hr; cases hr
  exact read_CsrRF .csrr 0x18 0 x

theorem csrw (x : CsrF) : Statement (.csrw x) := by
  intro h r hr; cases hr
  exact read_CsrF .csrw 0x18 1 x

theorem csrs (x : CsrF) : Statement (.csrs x) := by
  intro h r hr; cases hr
  exact read_CsrF .csrs 0x18 2 x

theorem csrc (x : CsrF) : Statement (.csrc x) := by
  intro h r hr; cases hr
  exact read_CsrF .csrc 0x18 3 x

theorem cpwpWrite (x : CpwpF) : Statement (.cpwpWrite x) := by
  intro h r hr; cases hr
  exact read_CsrF .csrw 0x18 1 { d := x.d, a := x.a, csr := cpwpCsr x.ch }

theorem trap (x : CodeF) : Statement (.trap x) := by
  intro h r hr; cases hr
  exact read_CodeF .trap 0x19 0 x

theorem eret : Statement .eret := by
  intro _ r h; cases h; rfl

theorem resume (x : R1T2) : Statement (.resume x) := by
  intro h r hr; cases hr
  exact read_R1T2 .resume 0x19 2 x

theorem tlbinvAddress (x : RabT2) : Statement (.tlbinvAddress x) := by
  intro h r hr; cases hr
  exact read_RabT2 .tlbinvAddress 0x19 3 x

theorem tlbinvAsid (x : RabT2) : Statement (.tlbinvAsid x) := by
  intro h r hr; cases hr
  exact read_RabT2 .tlbinvAddress 0x19 3 x

theorem tlbinvAll (x : RabT2) : Statement (.tlbinvAll x) := by
  intro h r hr; cases hr
  exact read_RabT2 .tlbinvAddress 0x19 3 x

theorem wfi : Statement .wfi := by
  intro _ r h; cases h; rfl

theorem ctxsave (x : R2T2) : Statement (.ctxsave x) := by
  intro h r hr; cases hr
  exact read_R2T2 .ctxsave 0x1A 0 x

theorem ctxrest (x : R2T2) : Statement (.ctxrest x) := by
  intro h r hr; cases hr
  exact read_R2T2 .ctxrest 0x1A 1 x

theorem vqsave (x : R2T2) : Statement (.vqsave x) := by
  intro h r hr; cases hr
  exact read_R2T2 .vqsave 0x1A 2 x

theorem vqrest (x : R2T2) : Statement (.vqrest x) := by
  intro h r hr; cases hr
  exact read_R2T2 .vqrest 0x1A 3 x

theorem spawn (x : R2T2) : Statement (.spawn x) := by
  intro h r hr; cases hr
  exact read_R2T2 .spawn 0x1C 0 x

theorem spawng (x : R2T2) : Statement (.spawng x) := by
  intro h r hr; cases hr
  exact read_R2T2 .spawng 0x1C 1 x

theorem spawnl (x : R2T2) : Statement (.spawnl x) := by
  intro h r hr; cases hr
  exact read_R2T2 .spawnl 0x1C 2 x

theorem join (x : R3T2) : Statement (.join x) := by
  intro h r hr; cases hr
  exact read_R3T2 .join 0x1C 3 x

theorem joinPushRetry (core : Nat) : Statement (.joinPushRetry core) := by
  intro _ r h; exact absurd h (by simp [encode])

theorem yield (x : R1T2) : Statement (.yield x) := by
  intro h r hr; cases hr
  exact read_R1T2 .yield 0x1C 4 x

theorem endTask : Statement .endTask := by
  intro _ r h; cases h; rfl

theorem lvcancel (x : R2T2) : Statement (.lvcancel x) := by
  intro h r hr; cases hr
  exact read_R2T2 .lvcancel 0x1E 0 x

theorem lvquery (x : R2T2) : Statement (.lvquery x) := by
  intro h r hr; cases hr
  exact read_R2T2 .lvquery 0x1E 1 x

theorem barinit (x : R3T2) : Statement (.barinit x) := by
  intro h r hr; cases hr
  exact read_R3T2 .barinit 0x20 0 x

theorem barinitUnregister (x : R3T2) : Statement (.barinitUnregister x) := by
  intro h r hr; cases hr
  exact read_R3T2 .barinit 0x20 0 x

theorem bararr (x : R2T2) : Statement (.bararr x) := by
  intro h r hr; cases hr
  exact read_R2T2 .bararr 0x20 1 x

theorem barwait (x : R3T2) : Statement (.barwait x) := by
  intro h r hr; cases hr
  exact read_R3T2 .barwait 0x20 2 x

theorem barkill (x : R2T2) : Statement (.barkill x) := by
  intro h r hr; cases hr
  exact read_R2T2 .barkill 0x20 3 x

theorem post (x : RabT4) : Statement (.post x) := by
  intro h r hr; cases hr
  exact read_RabT4 .post 0x21 0 x

theorem postArrival (die : Nat) (n : Nat) : Statement (.postArrival die n) := by
  intro _ r h; exact absurd h (by simp [encode])

theorem waiti (x : R3T4) : Statement (.waiti x) := by
  intro h r hr; cases hr
  exact read_R3T4 .waiti 0x21 1 x

theorem setlen (x : LenF) : Statement (.setlen x) := by
  intro h r hr; cases hr
  exact read_LenF tyAll .setlen 0x28 0 x h

theorem vshape (x : ShpF) : Statement (.vshape x) := by
  intro h r hr; cases hr
  exact read_ShpF .vshape 0x28 1 x

theorem vmovx (x : LenF) : Statement (.vmovx x) := by
  intro h r hr; cases hr
  exact read_LenF tyAll .vmovx 0x28 2 x h

theorem vmovv (x : LenF) : Statement (.vmovv x) := by
  intro h r hr; cases hr
  exact read_LenF tyNoB24 .vmovv 0x28 3 x h

theorem setlenf (x : R1T4) : Statement (.setlenf x) := by
  intro h r hr; cases hr
  exact read_R1T4 .setlenf 0x28 4 x

theorem kand (x : K3F) : Statement (.kand x) := by
  intro h r hr; cases hr
  exact read_K3F .kand 0x29 0 x

theorem kor (x : K3F) : Statement (.kor x) := by
  intro h r hr; cases hr
  exact read_K3F .kor 0x29 1 x

theorem kxor (x : K3F) : Statement (.kxor x) := by
  intro h r hr; cases hr
  exact read_K3F .kxor 0x29 2 x

theorem kandn (x : K3F) : Statement (.kandn x) := by
  intro h r hr; cases hr
  exact read_K3F .kandn 0x29 3 x

theorem knot (x : K2F) : Statement (.knot x) := by
  intro h r hr; cases hr
  exact read_K2F .knot 0x29 4 x

theorem kpop (x : KxF) : Statement (.kpop x) := by
  intro h r hr; cases hr
  exact read_KxF .kpop 0x29 5 x

theorem kfirst (x : KxF) : Statement (.kfirst x) := by
  intro h r hr; cases hr
  exact read_KxF .kfirst 0x29 6 x

theorem kset (x : KsetF) : Statement (.kset x) := by
  intro h r hr; cases hr
  exact read_KsetF .kset 0x29 7 x

theorem vadd (x : VBinF) : Statement (.vadd x) := by
  intro h r hr; cases hr
  exact read_VBinF tyVint .vadd 0x30 0 x h

theorem vsub (x : VBinF) : Statement (.vsub x) := by
  intro h r hr; cases hr
  exact read_VBinF tyVint .vsub 0x30 1 x h

theorem vmul (x : VBinF) : Statement (.vmul x) := by
  intro h r hr; cases hr
  exact read_VBinF tyVint .vmul 0x30 2 x h

theorem vmulh (x : VBinF) : Statement (.vmulh x) := by
  intro h r hr; cases hr
  exact read_VBinF tyVint .vmulh 0x30 3 x h

theorem vand (x : VBinF) : Statement (.vand x) := by
  intro h r hr; cases hr
  exact read_VBinF tyVint .vand 0x30 4 x h

theorem vor (x : VBinF) : Statement (.vor x) := by
  intro h r hr; cases hr
  exact read_VBinF tyVint .vor 0x30 5 x h

theorem vxor (x : VBinF) : Statement (.vxor x) := by
  intro h r hr; cases hr
  exact read_VBinF tyVint .vxor 0x30 6 x h

theorem vshl (x : VBinF) : Statement (.vshl x) := by
  intro h r hr; cases hr
  exact read_VBinF tyVint .vshl 0x30 7 x h

theorem vshr (x : VBinF) : Statement (.vshr x) := by
  intro h r hr; cases hr
  exact read_VBinF tyVint .vshr 0x30 8 x h

theorem vsra (x : VBinF) : Statement (.vsra x) := by
  intro h r hr; cases hr
  exact read_VBinF tyVint .vsra 0x30 9 x h

theorem vmin (x : VBinF) : Statement (.vmin x) := by
  intro h r hr; cases hr
  exact read_VBinF tyVint .vmin 0x30 10 x h

theorem vmax (x : VBinF) : Statement (.vmax x) := by
  intro h r hr; cases hr
  exact read_VBinF tyVint .vmax 0x30 11 x h

theorem vabs (x : VUnF) : Statement (.vabs x) := by
  intro h r hr; cases hr
  exact read_VUnF tyVint .vabs 0x30 12 x h

theorem vneg (x : VUnF) : Statement (.vneg x) := by
  intro h r hr; cases hr
  exact read_VUnF tyVint .vneg 0x30 13 x h

theorem vcmpeq (x : VCmpF) : Statement (.vcmpeq x) := by
  intro h r hr; cases hr
  exact read_VCmpF tyVint .vcmpeq 0x30 14 x h

theorem vcmplt (x : VCmpF) : Statement (.vcmplt x) := by
  intro h r hr; cases hr
  exact read_VCmpF tyVint .vcmplt 0x30 15 x h

theorem vcmple (x : VCmpF) : Statement (.vcmple x) := by
  intro h r hr; cases hr
  exact read_VCmpF tyVint .vcmple 0x30 16 x h

theorem vsel (x : VBinF) : Statement (.vsel x) := by
  intro h r hr; cases hr
  exact read_VBinF tyVint .vsel 0x30 17 x h

theorem viota (x : VIotaF) : Statement (.viota x) := by
  intro h r hr; cases hr
  exact read_VIotaF tyVint .viota 0x30 18 x h

theorem vaddScalar (x : VBinF) : Statement (.vaddScalar x) := by
  intro h r hr; cases hr
  exact read_VBinF tyVint .vaddScalar 0x31 0 x h

theorem vsubScalar (x : VBinF) : Statement (.vsubScalar x) := by
  intro h r hr; cases hr
  exact read_VBinF tyVint .vsubScalar 0x31 1 x h

theorem vmulScalar (x : VBinF) : Statement (.vmulScalar x) := by
  intro h r hr; cases hr
  exact read_VBinF tyVint .vmulScalar 0x31 2 x h

theorem vmulhScalar (x : VBinF) : Statement (.vmulhScalar x) := by
  intro h r hr; cases hr
  exact read_VBinF tyVint .vmulhScalar 0x31 3 x h

theorem vandScalar (x : VBinF) : Statement (.vandScalar x) := by
  intro h r hr; cases hr
  exact read_VBinF tyVint .vandScalar 0x31 4 x h

theorem vorScalar (x : VBinF) : Statement (.vorScalar x) := by
  intro h r hr; cases hr
  exact read_VBinF tyVint .vorScalar 0x31 5 x h

theorem vxorScalar (x : VBinF) : Statement (.vxorScalar x) := by
  intro h r hr; cases hr
  exact read_VBinF tyVint .vxorScalar 0x31 6 x h

theorem vshlScalar (x : VBinF) : Statement (.vshlScalar x) := by
  intro h r hr; cases hr
  exact read_VBinF tyVint .vshlScalar 0x31 7 x h

theorem vshrScalar (x : VBinF) : Statement (.vshrScalar x) := by
  intro h r hr; cases hr
  exact read_VBinF tyVint .vshrScalar 0x31 8 x h

theorem vsraScalar (x : VBinF) : Statement (.vsraScalar x) := by
  intro h r hr; cases hr
  exact read_VBinF tyVint .vsraScalar 0x31 9 x h

theorem vminScalar (x : VBinF) : Statement (.vminScalar x) := by
  intro h r hr; cases hr
  exact read_VBinF tyVint .vminScalar 0x31 10 x h

theorem vmaxScalar (x : VBinF) : Statement (.vmaxScalar x) := by
  intro h r hr; cases hr
  exact read_VBinF tyVint .vmaxScalar 0x31 11 x h

theorem vabsScalar (x : VUnF) : Statement (.vabsScalar x) := by
  intro h r hr; cases hr
  exact read_VUnF tyVint .vabsScalar 0x31 12 x h

theorem vnegScalar (x : VUnF) : Statement (.vnegScalar x) := by
  intro h r hr; cases hr
  exact read_VUnF tyVint .vnegScalar 0x31 13 x h

theorem vcmpeqScalar (x : VCmpF) : Statement (.vcmpeqScalar x) := by
  intro h r hr; cases hr
  exact read_VCmpF tyVint .vcmpeqScalar 0x31 14 x h

theorem vcmpltScalar (x : VCmpF) : Statement (.vcmpltScalar x) := by
  intro h r hr; cases hr
  exact read_VCmpF tyVint .vcmpltScalar 0x31 15 x h

theorem vcmpleScalar (x : VCmpF) : Statement (.vcmpleScalar x) := by
  intro h r hr; cases hr
  exact read_VCmpF tyVint .vcmpleScalar 0x31 16 x h

theorem vselScalar (x : VBinF) : Statement (.vselScalar x) := by
  intro h r hr; cases hr
  exact read_VBinF tyVint .vselScalar 0x31 17 x h

theorem viotaScalar (x : VIotaXF) : Statement (.viotaScalar x) := by
  intro h r hr; cases hr
  exact read_VIotaXF tyVint .viotaScalar 0x31 18 x h

theorem vfadd (x : VFpF) : Statement (.vfadd x) := by
  intro h r hr; cases hr
  exact read_VFpF tyVfp .vfadd 0x38 0 x h

theorem vfsub (x : VFpF) : Statement (.vfsub x) := by
  intro h r hr; cases hr
  exact read_VFpF tyVfp .vfsub 0x38 1 x h

theorem vfmul (x : VFpF) : Statement (.vfmul x) := by
  intro h r hr; cases hr
  exact read_VFpF tyVfp .vfmul 0x38 2 x h

theorem vfdiv (x : VFpF) : Statement (.vfdiv x) := by
  intro h r hr; cases hr
  exact read_VFpF tyVfp .vfdiv 0x38 3 x h

theorem vfsqrt (x : VFpUF) : Statement (.vfsqrt x) := by
  intro h r hr; cases hr
  exact read_VFpUF tyVfp .vfsqrt 0x38 4 x h

theorem vfmin (x : VFpF) : Statement (.vfmin x) := by
  intro h r hr; cases hr
  exact read_VFpF tyVfp .vfmin 0x38 5 x h

theorem vfmax (x : VFpF) : Statement (.vfmax x) := by
  intro h r hr; cases hr
  exact read_VFpF tyVfp .vfmax 0x38 6 x h

theorem vfabs (x : VFpUF) : Statement (.vfabs x) := by
  intro h r hr; cases hr
  exact read_VFpUF tyVfp .vfabs 0x38 7 x h

theorem vfneg (x : VFpUF) : Statement (.vfneg x) := by
  intro h r hr; cases hr
  exact read_VFpUF tyVfp .vfneg 0x38 8 x h

theorem vfcmpeq (x : VFCmpF) : Statement (.vfcmpeq x) := by
  intro h r hr; cases hr
  exact read_VFCmpF tyVfp .vfcmpeq 0x38 9 x h

theorem vfcmplt (x : VFCmpF) : Statement (.vfcmplt x) := by
  intro h r hr; cases hr
  exact read_VFCmpF tyVfp .vfcmplt 0x38 10 x h

theorem vfcmple (x : VFCmpF) : Statement (.vfcmple x) := by
  intro h r hr; cases hr
  exact read_VFCmpF tyVfp .vfcmple 0x38 11 x h

theorem vfrcp (x : VFpUF) : Statement (.vfrcp x) := by
  intro h r hr; cases hr
  exact read_VFpUF tyVfp .vfrcp 0x38 12 x h

theorem vfrsq (x : VFpUF) : Statement (.vfrsq x) := by
  intro h r hr; cases hr
  exact read_VFpUF tyVfp .vfrsq 0x38 13 x h

theorem vfexp2 (x : VFpUF) : Statement (.vfexp2 x) := by
  intro h r hr; cases hr
  exact read_VFpUF tyVfp .vfexp2 0x38 14 x h

theorem vflog2 (x : VFpUF) : Statement (.vflog2 x) := by
  intro h r hr; cases hr
  exact read_VFpUF tyVfp .vflog2 0x38 15 x h

theorem vfaddScalar (x : VFpF) : Statement (.vfaddScalar x) := by
  intro h r hr; cases hr
  exact read_VFpF tyVfp .vfaddScalar 0x3A 0 x h

theorem vfsubScalar (x : VFpF) : Statement (.vfsubScalar x) := by
  intro h r hr; cases hr
  exact read_VFpF tyVfp .vfsubScalar 0x3A 1 x h

theorem vfmulScalar (x : VFpF) : Statement (.vfmulScalar x) := by
  intro h r hr; cases hr
  exact read_VFpF tyVfp .vfmulScalar 0x3A 2 x h

theorem vfdivScalar (x : VFpF) : Statement (.vfdivScalar x) := by
  intro h r hr; cases hr
  exact read_VFpF tyVfp .vfdivScalar 0x3A 3 x h

theorem vfsqrtScalar (x : VFpUF) : Statement (.vfsqrtScalar x) := by
  intro h r hr; cases hr
  exact read_VFpUF tyVfp .vfsqrtScalar 0x3A 4 x h

theorem vfminScalar (x : VFpF) : Statement (.vfminScalar x) := by
  intro h r hr; cases hr
  exact read_VFpF tyVfp .vfminScalar 0x3A 5 x h

theorem vfmaxScalar (x : VFpF) : Statement (.vfmaxScalar x) := by
  intro h r hr; cases hr
  exact read_VFpF tyVfp .vfmaxScalar 0x3A 6 x h

theorem vfabsScalar (x : VFpUF) : Statement (.vfabsScalar x) := by
  intro h r hr; cases hr
  exact read_VFpUF tyVfp .vfabsScalar 0x3A 7 x h

theorem vfnegScalar (x : VFpUF) : Statement (.vfnegScalar x) := by
  intro h r hr; cases hr
  exact read_VFpUF tyVfp .vfnegScalar 0x3A 8 x h

theorem vfcmpeqScalar (x : VFCmpF) : Statement (.vfcmpeqScalar x) := by
  intro h r hr; cases hr
  exact read_VFCmpF tyVfp .vfcmpeqScalar 0x3A 9 x h

theorem vfcmpltScalar (x : VFCmpF) : Statement (.vfcmpltScalar x) := by
  intro h r hr; cases hr
  exact read_VFCmpF tyVfp .vfcmpltScalar 0x3A 10 x h

theorem vfcmpleScalar (x : VFCmpF) : Statement (.vfcmpleScalar x) := by
  intro h r hr; cases hr
  exact read_VFCmpF tyVfp .vfcmpleScalar 0x3A 11 x h

theorem vfrcpScalar (x : VFpUF) : Statement (.vfrcpScalar x) := by
  intro h r hr; cases hr
  exact read_VFpUF tyVfp .vfrcpScalar 0x3A 12 x h

theorem vfrsqScalar (x : VFpUF) : Statement (.vfrsqScalar x) := by
  intro h r hr; cases hr
  exact read_VFpUF tyVfp .vfrsqScalar 0x3A 13 x h

theorem vfexp2Scalar (x : VFpUF) : Statement (.vfexp2Scalar x) := by
  intro h r hr; cases hr
  exact read_VFpUF tyVfp .vfexp2Scalar 0x3A 14 x h

theorem vflog2Scalar (x : VFpUF) : Statement (.vflog2Scalar x) := by
  intro h r hr; cases hr
  exact read_VFpUF tyVfp .vflog2Scalar 0x3A 15 x h

theorem vfma (x : VFmaF) : Statement (.vfma x) := by
  intro h r hr; cases hr
  exact read_VFmaF tyVfp .vfma 0x39 0 x h

theorem vfms (x : VFmaF) : Statement (.vfms x) := by
  intro h r hr; cases hr
  exact read_VFmaF tyVfp .vfms 0x39 1 x h

theorem vfnma (x : VFmaF) : Statement (.vfnma x) := by
  intro h r hr; cases hr
  exact read_VFmaF tyVfp .vfnma 0x39 2 x h

theorem vcvt (x : VFpF) : Statement (.vcvt x) := by
  intro h r hr; cases hr
  exact read_VFpF tyNoB24 .vcvt 0x3C 0 x h

theorem vcvtd (x : VFpF) : Statement (.vcvtd x) := by
  intro h r hr; cases hr
  exact read_VFpF tyVfp .vcvtd 0x3C 1 x h

theorem vqpack (x : QpackF) : Statement (.vqpack x) := by
  intro h r hr; cases hr
  exact read_QpackF tySmall .vqpack 0x3C 2 x h

theorem vbacc (x : VTyF) : Statement (.vbacc x) := by
  intro h r hr; cases hr
  exact read_VTyF tyB24 .vbacc 0x3C 3 x h

theorem vbnorm (x : BnormF) : Statement (.vbnorm x) := by
  intro h r hr; cases hr
  exact read_BnormF tyFp32 .vbnorm 0x3C 4 x h

theorem vscale (x : VTyBF) : Statement (.vscale x) := by
  intro h r hr; cases hr
  exact read_VTyBF tyZero .vscale 0x3C 5 x h

theorem vredsum (x : RedF) : Statement (.vredsum x) := by
  intro h r hr; cases hr
  simp only [Instr.wf, Bool.and_eq_true] at h
  exact read_RedF tyRed .vredsum 0x3D 0 x h.1 h.2

theorem vredmax (x : RedNF) : Statement (.vredmax x) := by
  intro h r hr; cases hr
  exact read_RedNF tyRed .vredmax 0x3D 1 x h

theorem vredmin (x : RedNF) : Statement (.vredmin x) := by
  intro h r hr; cases hr
  exact read_RedNF tyRed .vredmin 0x3D 2 x h

theorem vargmax (x : RedNF) : Statement (.vargmax x) := by
  intro h r hr; cases hr
  exact read_RedNF tyRed .vargmax 0x3D 3 x h

theorem vargmin (x : RedNF) : Statement (.vargmin x) := by
  intro h r hr; cases hr
  exact read_RedNF tyRed .vargmin 0x3D 4 x h

theorem vredand (x : RedNF) : Statement (.vredand x) := by
  intro h r hr; cases hr
  exact read_RedNF tyVint .vredand 0x3D 5 x h

theorem vredor (x : RedNF) : Statement (.vredor x) := by
  intro h r hr; cases hr
  exact read_RedNF tyVint .vredor 0x3D 6 x h

theorem vcompress (x : VTyF) : Statement (.vcompress x) := by
  intro h r hr; cases hr
  exact read_VTyF tyPlain .vcompress 0x3E 0 x h

theorem vexpand (x : VTyF) : Statement (.vexpand x) := by
  intro h r hr; cases hr
  exact read_VTyF tyPlain .vexpand 0x3E 1 x h

theorem vslideup (x : VTyBF) : Statement (.vslideup x) := by
  intro h r hr; cases hr
  exact read_VTyBF tyPlain .vslideup 0x3E 2 x h

theorem vslidedn (x : VTyBF) : Statement (.vslidedn x) := by
  intro h r hr; cases hr
  exact read_VTyBF tyPlain .vslidedn 0x3E 3 x h

theorem vtrans (x : VTyF) : Statement (.vtrans x) := by
  intro h r hr; cases hr
  exact read_VTyF tyPlain .vtrans 0x3E 4 x h

theorem vpermc (x : VTyCF) : Statement (.vpermc x) := by
  intro h r hr; cases hr
  exact read_VTyCF tyPlain .vpermc 0x3E 5 x h

theorem vbcast (x : VTyBF) : Statement (.vbcast x) := by
  intro h r hr; cases hr
  exact read_VTyBF tyPlain .vbcast 0x3E 6 x h

theorem vsincos (x : SinCosF) : Statement (.vsincos x) := by
  intro h r hr; cases hr
  exact read_SinCosF tyFp32 .vsincos 0x3F 0 x h

theorem vgumbel (x : VTyF) : Statement (.vgumbel x) := by
  intro h r hr; cases hr
  exact read_VTyF tyFp32 .vgumbel 0x3F 1 x h

theorem vhash (x : VTyBF) : Statement (.vhash x) := by
  intro h r hr; cases hr
  exact read_VTyBF tyN32 .vhash 0x3F 2 x h

theorem vld (x : VMemF) : Statement (.vld x) := by
  intro h r hr; cases hr
  exact read_VMemF tyLoad .vld 0x40 0 x h

theorem vldf (x : VMemF) : Statement (.vldf x) := by
  intro h r hr; cases hr
  exact read_VMemF tyLoad .vldf 0x40 1 x h

theorem vldb (x : VMemBF) : Statement (.vldb x) := by
  intro h r hr; cases hr
  simp only [Instr.wf, Bool.and_eq_true] at h
  exact read_VMemBF tySub .vldb 0x40 2 x h.1 h.2

theorem vlds (x : VMemF) : Statement (.vlds x) := by
  intro h r hr; cases hr
  exact read_VMemF tyStride .vlds 0x40 3 x h

theorem vldl (x : VMemLF) : Statement (.vldl x) := by
  intro h r hr; cases hr
  exact read_VMemLF tyAll .vldl 0x40 4 x h

theorem vst (x : VMemF) : Statement (.vst x) := by
  intro h r hr; cases hr
  exact read_VMemF tyAll .vst 0x41 0 x h

theorem vstb (x : VMemBF) : Statement (.vstb x) := by
  intro h r hr; cases hr
  simp only [Instr.wf, Bool.and_eq_true] at h
  exact read_VMemBF tySub .vstb 0x41 1 x h.1 h.2

theorem vsts (x : VMemF) : Statement (.vsts x) := by
  intro h r hr; cases hr
  exact read_VMemF tyStride .vsts 0x41 2 x h

theorem vstl (x : VMemLF) : Statement (.vstl x) := by
  intro h r hr; cases hr
  exact read_VMemLF tyAll .vstl 0x41 3 x h

theorem vgather (x : VIdxF) : Statement (.vgather x) := by
  intro h r hr; cases hr
  exact read_VIdxF tyPlain .vgather 0x42 0 x h

theorem vscatter (x : VIdxF) : Statement (.vscatter x) := by
  intro h r hr; cases hr
  exact read_VIdxF tyPlain .vscatter 0x42 1 x h

theorem vgatherc (x : VIdxF) : Statement (.vgatherc x) := by
  intro h r hr; cases hr
  exact read_VIdxF tyPlain .vgatherc 0x42 2 x h

theorem vscatterc (x : VIdxF) : Statement (.vscatterc x) := by
  intro h r hr; cases hr
  exact read_VIdxF tyPlain .vscatterc 0x42 3 x h

theorem vamoadd (x : VMemF) : Statement (.vamoadd x) := by
  intro h r hr; cases hr
  exact read_VMemF tyAmoInt .vamoadd 0x43 0 x h

theorem vamofadd (x : VMemF) : Statement (.vamofadd x) := by
  intro h r hr; cases hr
  exact read_VMemF tyFp32 .vamofadd 0x43 1 x h

theorem vamomin (x : VMemF) : Statement (.vamomin x) := by
  intro h r hr; cases hr
  exact read_VMemF tyAmoInt .vamomin 0x43 2 x h

theorem vamomax (x : VMemF) : Statement (.vamomax x) := by
  intro h r hr; cases hr
  exact read_VMemF tyAmoInt .vamomax 0x43 3 x h

theorem awin (x : WinF) : Statement (.awin x) := by
  intro h r hr; cases hr
  exact read_WinF tyWin .awin 0x44 0 x h

theorem aadd (x : VMemLF) : Statement (.aadd x) := by
  intro h r hr; cases hr
  exact read_VMemLF tyWin .aadd 0x44 1 x h

theorem amerge (x : Win0F) : Statement (.amerge x) := by
  intro h r hr; cases hr
  exact read_Win0F tyZero .amerge 0x44 2 x h

theorem aclr (x : Win0F) : Statement (.aclr x) := by
  intro h r hr; cases hr
  exact read_Win0F tyZero .aclr 0x44 3 x h

theorem cpy (x : CpyF) : Statement (.cpy x) := by
  intro h r hr; cases hr
  exact read_CpyF .cpy 0x48 0 x

theorem cpym (x : CpyF) : Statement (.cpym x) := by
  intro h r hr; cases hr
  exact read_CpyF .cpym 0x48 1 x

theorem cpykv (x : CpyF) : Statement (.cpykv x) := by
  intro h r hr; cases hr
  exact read_CpyF .cpykv 0x48 2 x

theorem xred (x : XredF) : Statement (.xred x) := by
  intro h r hr; cases hr
  exact read_XredF tyXred .xred 0x48 3 x h

theorem cpwait (x : CpwF) : Statement (.cpwait x) := by
  intro h r hr; cases hr
  exact read_CpwF .cpwait 0x48 4 x

theorem copyIssue (core : Nat) : Statement (.copyIssue core) := by
  intro _ r h; exact absurd h (by simp [encode])

theorem copyRowDelivery (core : Nat) (ch : Nat) : Statement (.copyRowDelivery core ch) := by
  intro _ r h; exact absurd h (by simp [encode])

theorem xredRoundComplete (round : Nat) : Statement (.xredRoundComplete round) := by
  intro _ r h; exact absurd h (by simp [encode])

theorem matt (x : GrpF) : Statement (.matt x) := by
  intro h r hr; cases hr
  exact read_GrpF .matt 0x50 0 x h

theorem mdet (x : DetF) : Statement (.mdet x) := by
  intro h r hr; cases hr
  exact read_DetF .mdet 0x50 1 x

theorem mclaim (x : SlotF) : Statement (.mclaim x) := by
  intro h r hr; cases hr
  exact read_SlotF .mclaim 0x50 2 x

theorem mrel (x : SlotF) : Statement (.mrel x) := by
  intro h r hr; cases hr
  exact read_SlotF .mrel 0x50 3 x

theorem mzero (x : AccF) : Statement (.mzero x) := by
  intro h r hr; cases hr
  exact read_AccF .mzero 0x50 4 x

theorem mstat (x : R1T4) : Statement (.mstat x) := by
  intro h r hr; cases hr
  exact read_R1T4 .mstat 0x50 5 x

theorem mld (x : SlotMF) : Statement (.mld x) := by
  intro h r hr; cases hr
  exact read_SlotMF tyLoad .mld 0x51 0 x h

theorem mldf (x : SlotMF) : Statement (.mldf x) := by
  intro h r hr; cases hr
  exact read_SlotMF tyLoad .mldf 0x51 1 x h

theorem mldt (x : SlotMF) : Statement (.mldt x) := by
  intro h r hr; cases hr
  exact read_SlotMF tyPlain .mldt 0x51 2 x h

theorem mslotw (x : SlotMF) : Statement (.mslotw x) := by
  intro h r hr; cases hr
  exact read_SlotMF tyAll .mslotw 0x51 3 x h

theorem mslotr (x : SlotRF) : Statement (.mslotr x) := by
  intro h r hr; cases hr
  exact read_SlotRF .mslotr 0x51 4 x

theorem mma (x : MmaF) : Statement (.mma x) := by
  intro h r hr; cases hr
  exact read_MmaF .mma 0x52 0 x

theorem mmaz (x : MmaF) : Statement (.mmaz x) := by
  intro h r hr; cases hr
  exact read_MmaF .mmaz 0x52 1 x

theorem mman (x : MmaF) : Statement (.mman x) := by
  intro h r hr; cases hr
  exact read_MmaF .mman 0x52 2 x

theorem mdrain (x : DrnF) : Statement (.mdrain x) := by
  intro h r hr; cases hr
  simp only [Instr.wf, Bool.and_eq_true] at h
  exact read_DrnF tyDrain .mdrain 0x53 0 x h.1 h.2

theorem maccst (x : AccMF) : Statement (.maccst x) := by
  intro h r hr; cases hr
  exact read_AccMF .maccst 0x53 1 x

theorem maccld (x : AccMF) : Statement (.maccld x) := by
  intro h r hr; cases hr
  exact read_AccMF .maccld 0x53 2 x

theorem gspec (x : R2T2) : Statement (.gspec x) := by
  intro h r hr; cases hr
  exact read_R2T2 .gspec 0x58 0 x

theorem gcommit (x : R3T2) : Statement (.gcommit x) := by
  intro h r hr; cases hr
  exact read_R3T2 .gcommit 0x58 1 x

theorem gdiscard (x : R3T2) : Statement (.gdiscard x) := by
  intro h r hr; cases hr
  exact read_R3T2 .gdiscard 0x58 2 x

theorem gflatten (x : R3T2) : Statement (.gflatten x) := by
  intro h r hr; cases hr
  exact read_R3T2 .gflatten 0x58 3 x

theorem gpoolDonate (x : R3T2) : Statement (.gpoolDonate x) := by
  intro h r hr; cases hr
  exact read_R3T2 .gpoolDonate 0x58 4 x

theorem gpoolDrop (x : R3T2) : Statement (.gpoolDrop x) := by
  intro h r hr; cases hr
  exact read_R3T2 .gpoolDonate 0x58 4 x

theorem gpoolQuery (x : R3T2) : Statement (.gpoolQuery x) := by
  intro h r hr; cases hr
  exact read_R3T2 .gpoolDonate 0x58 4 x

theorem gquery (x : R3T2) : Statement (.gquery x) := by
  intro h r hr; cases hr
  exact read_R3T2 .gquery 0x58 5 x

theorem verst (x : VerF) : Statement (.verst x) := by
  intro h r hr; cases hr
  exact read_VerF .verst 0x5A 0 x

theorem verld (x : VerF) : Statement (.verld x) := by
  intro h r hr; cases hr
  exact read_VerF .verld 0x5A 1 x

theorem verldn (x : VerF) : Statement (.verldn x) := by
  intro h r hr; cases hr
  exact read_VerF .verldn 0x5A 2 x

theorem vfloor (x : R3T4) : Statement (.vfloor x) := by
  intro h r hr; cases hr
  exact read_R3T4 .vfloor 0x5A 3 x

theorem vseal (x : R3T4) : Statement (.vseal x) := by
  intro h r hr; cases hr
  exact read_R3T4 .vseal 0x5A 4 x

theorem verq (x : R2T4) : Statement (.verq x) := by
  intro h r hr; cases hr
  exact read_R2T4 .verq 0x5A 5 x

theorem versionReclaim (region : Nat) (head : Nat) (base : Nat) : Statement (.versionReclaim region head base) := by
  intro _ r h; exact absurd h (by simp [encode])

theorem vverst (x : VVerF) : Statement (.vverst x) := by
  intro h r hr; cases hr
  exact read_VVerF tyVer .vverst 0x5B 0 x h

theorem vverld (x : VVerF) : Statement (.vverld x) := by
  intro h r hr; cases hr
  exact read_VVerF tyVer .vverld 0x5B 1 x h

theorem kvapp (x : KvappF) : Statement (.kvapp x) := by
  intro h r hr; cases hr
  exact read_KvappF tyKv .kvapp 0x5C 0 x h

theorem kvldk (x : VMemLF) : Statement (.kvldk x) := by
  intro h r hr; cases hr
  exact read_VMemLF tyKv .kvldk 0x5C 1 x h

theorem kvldv (x : VMemLF) : Statement (.kvldv x) := by
  intro h r hr; cases hr
  exact read_VMemLF tyKv .kvldv 0x5C 2 x h

theorem kvmove (x : KvmoveF) : Statement (.kvmove x) := by
  intro h r hr; cases hr
  exact read_KvmoveF tyN32 .kvmove 0x5C 3 x h

theorem kvlenRead (x : R2T4) : Statement (.kvlenRead x) := by
  intro _ r h; cases h
  change decKvlen (encKvlenR x) = _
  simp [decKvlen, encKvlenR, Raw.bit, Instr.canonical]

theorem kvlenSet (x : R3T4) : Statement (.kvlenSet x) := by
  intro _ r h; cases h
  change decKvlen (encKvlenS x) = _
  simp [decKvlen, encKvlenS, Raw.bit, Instr.canonical]

theorem kvinvSequence (x : RabT4) : Statement (.kvinvSequence x) := by
  intro h r hr; cases hr
  exact read_RabT4 .kvinvSequence 0x5C 5 x

theorem kvinvAll (x : RabT4) : Statement (.kvinvAll x) := by
  intro h r hr; cases hr
  exact read_RabT4 .kvinvSequence 0x5C 5 x

theorem nadd (x : NaddF) : Statement (.nadd x) := by
  intro h r hr; cases hr
  exact read_NaddF tyNadd .nadd 0x5E 0 x h

theorem nfence (x : R1T4) : Statement (.nfence x) := by
  intro h r hr; cases hr
  exact read_R1T4 .nfence 0x5E 1 x

theorem nrowcpy (x : NcpyF) : Statement (.nrowcpy x) := by
  intro h r hr; cases hr
  exact read_NcpyF tyZero .nrowcpy 0x5E 2 x h

theorem nzero (x : NzeroF) : Statement (.nzero x) := by
  intro h r hr; cases hr
  exact read_NzeroF tyZero .nzero 0x5E 3 x h

theorem ngather (x : NgatherF) : Statement (.ngather x) := by
  intro h r hr; cases hr
  exact read_NgatherF tyZero .ngather 0x5E 4 x h

theorem nopt (x : NoptF) : Statement (.nopt x) := by
  intro h r hr; cases hr
  exact read_NoptF tyFp32 .nopt 0x5E 5 x h

theorem nstatRead (x : R3T4) : Statement (.nstatRead x) := by
  intro h r hr; cases hr
  exact read_R3T4 .nstatRead 0x5E 6 x

theorem nstatPatternWrite (x : R3T4) : Statement (.nstatPatternWrite x) := by
  intro h r hr; cases hr
  exact read_R3T4 .nstatRead 0x5E 6 x

theorem crustItem (stack : Nat) : Statement (.crustItem stack) := by
  intro _ r h; exact absurd h (by simp [encode])

theorem commit (core : Nat) : Statement (.commit core) := by
  intro _ r h; exact absurd h (by simp [encode])

theorem perform (n : Nat) : Statement (.perform n) := by
  intro _ r h; exact absurd h (by simp [encode])

theorem apply (die : Nat) (n : Nat) : Statement (.apply die n) := by
  intro _ r h; exact absurd h (by simp [encode])

theorem readAtDie (core : Nat) : Statement (.readAtDie core) := by
  intro _ r h; exact absurd h (by simp [encode])

theorem readAtHome (core : Nat) : Statement (.readAtHome core) := by
  intro _ r h; exact absurd h (by simp [encode])

theorem installFill (n : Nat) : Statement (.installFill n) := by
  intro _ r h; exact absurd h (by simp [encode])

theorem trapEntry (core : Nat) : Statement (.trapEntry core) := by
  intro _ r h; exact absurd h (by simp [encode])

theorem preEmptionRequest (core : Nat) (reclaim : Bool) : Statement (.preEmptionRequest core reclaim) := by
  intro _ r h; exact absurd h (by simp [encode])

theorem managementMessage (core : Nat) : Statement (.managementMessage core) := by
  intro _ r h; exact absurd h (by simp [encode])

theorem budgetExceeded (core : Nat) : Statement (.budgetExceeded core) := by
  intro _ r h; exact absurd h (by simp [encode])

theorem hostQueueServe : Statement .hostQueueServe := by
  intro _ r h; exact absurd h (by simp [encode])

theorem queueAging (queue : Nat) : Statement (.queueAging queue) := by
  intro _ r h; exact absurd h (by simp [encode])

theorem shareGrant (die : Nat) : Statement (.shareGrant die) := by
  intro _ r h; exact absurd h (by simp [encode])

theorem streamEviction (stream : Nat) : Statement (.streamEviction stream) := by
  intro _ r h; exact absurd h (by simp [encode])

theorem taskStart (core : Nat) : Statement (.taskStart core) := by
  intro _ r h; exact absurd h (by simp [encode])

theorem fabricAccessTimeout (n : Nat) : Statement (.fabricAccessTimeout n) := by
  intro _ r h; exact absurd h (by simp [encode])

theorem collectiveRoundTimeout (round : Nat) : Statement (.collectiveRoundTimeout round) := by
  intro _ r h; exact absurd h (by simp [encode])

theorem collectiveGroupRegister (g : CollGroup) : Statement (.collectiveGroupRegister g) := by
  intro _ r h; exact absurd h (by simp [encode])

theorem hostCxlMemAccess (x : BusAccess) : Statement (.hostCxlMemAccess x) := by
  intro _ r h; exact absurd h (by simp [encode])

theorem ptmExchange (hostTime : Word) : Statement (.ptmExchange hostTime) := by
  intro _ r h; exact absurd h (by simp [encode])

theorem lossOfLock : Statement .lossOfLock := by
  intro _ r h; exact absurd h (by simp [encode])

theorem powerGood : Statement .powerGood := by
  intro _ r h; exact absurd h (by simp [encode])

theorem bringUpConfig (cfg : BringUp) : Statement (.bringUpConfig cfg) := by
  intro _ r h; exact absurd h (by simp [encode])

theorem reset : Statement .reset := by
  intro _ r h; exact absurd h (by simp [encode])

theorem firmwareImageLoad (img : FirmwareImage) : Statement (.firmwareImageLoad img) := by
  intro _ r h; exact absurd h (by simp [encode])

theorem sealKeyLoad (k : SealKey) : Statement (.sealKeyLoad k) := by
  intro _ r h; exact absurd h (by simp [encode])

theorem lifeCycleTransition (t : LifeCycleReq) : Statement (.lifeCycleTransition t) := by
  intro _ r h; exact absurd h (by simp [encode])

theorem powerCapSet (watts : Nat) : Statement (.powerCapSet watts) := by
  intro _ r h; exact absurd h (by simp [encode])

theorem clockStep (load : PowerLoad) : Statement (.clockStep load) := by
  intro _ r h; exact absurd h (by simp [encode])

theorem dramError (e : DramErr) : Statement (.dramError e) := by
  intro _ r h; exact absurd h (by simp [encode])

theorem powerOff : Statement .powerOff := by
  intro _ r h; exact absurd h (by simp [encode])

theorem remoteFabricAccess (x : BusAccess) : Statement (.remoteFabricAccess x) := by
  intro _ r h; exact absurd h (by simp [encode])

theorem attestationRequest (r : AttestReq) : Statement (.attestationRequest r) := by
  intro _ r h; exact absurd h (by simp [encode])

end Sys2Proof.Laws.Coding
end

