-- ==== Sys2Proof/Tests/Slice0.lean ====
section
/-! SUPPORT. Tests: words of the spec's encodings and their instructions, ill-formed terms, one-step tests, and for each
statement with hypotheses a state and operands that meet them. -/
namespace Sys2Proof.Tests

open Sys2Proof Sys2Proof.Machine

set_option Elab.async false

/-! ## Decoding: for every instruction a word of its encoding (R18 to R22) -/

/-- OP 0x01. -/
theorem test_decode_01 :
    decodeWords 0x409D 0xF540 = .ok (.add { d := 7, a := 30, b := 21, w32 := true }) ∧
    decodeWords 0x40B1 0x8341 = .ok (.sub { d := 12, a := 16, b := 13, w32 := true }) ∧
    decodeWords 0x40ED 0xD242 = .ok (.and { d := 27, a := 26, b := 9, w32 := true }) ∧
    decodeWords 0x40C5 0x1E43 = .ok (.or { d := 17, a := 3, b := 25, w32 := true }) ∧
    decodeWords 0x40D1 0xA3C4 = .ok (.xor { d := 20, a := 20, b := 15, w32 := true }) ∧
    decodeWords 0x40C1 0x73C5 = .ok (.shl { d := 16, a := 14, b := 15, w32 := true }) ∧
    decodeWords 0x4095 0xDA86 = .ok (.shr { d := 5, a := 27, b := 10, w32 := true }) ∧
    decodeWords 0x40D5 0x2847 = .ok (.sra { d := 21, a := 5, b := 1, w32 := true }) ∧
    decodeWords 0x40E9 0x7288 = .ok (.mul { d := 26, a := 14, b := 10, w32 := true }) ∧
    decodeWords 0x40CC 0x93C9 = .ok (.mulh { d := 19, a := 18, b := 15, w32 := false }) ∧
    decodeWords 0x40C4 0x6C4A = .ok (.mulhu { d := 17, a := 13, b := 17, w32 := false }) ∧
    decodeWords 0x4085 0xF4CB = .ok (.div { d := 1, a := 30, b := 19, w32 := true }) ∧
    decodeWords 0x40CC 0x9F0C = .ok (.divu { d := 19, a := 19, b := 28, w32 := false }) ∧
    decodeWords 0x40D4 0xD08D = .ok (.rem { d := 21, a := 26, b := 2, w32 := false }) ∧
    decodeWords 0x40D1 0xFB4E = .ok (.remu { d := 20, a := 31, b := 13, w32 := true }) ∧
    decodeWords 0x40D9 0x744F = .ok (.min { d := 22, a := 14, b := 17, w32 := true }) ∧
    decodeWords 0x40A5 0xA7D0 = .ok (.max { d := 9, a := 20, b := 31, w32 := true }) ∧
    decodeWords 0x40D9 0x23D1 = .ok (.minu { d := 22, a := 4, b := 15, w32 := true }) ∧
    decodeWords 0x40E9 0x97D2 = .ok (.maxu { d := 26, a := 18, b := 31, w32 := true }) ∧
    decodeWords 0x40B1 0xC1D3 = .ok (.slt { d := 12, a := 24, b := 7, w32 := true }) ∧
    decodeWords 0x40E9 0x6754 = .ok (.sltu { d := 26, a := 12, b := 29, w32 := true }) ∧
    decodeWords 0x40B0 0x1395 = .ok (.seq { d := 12, a := 2, b := 14, w32 := false }) ∧
    decodeWords 0x40D9 0x2816 = .ok (.clz { d := 22, a := 5, w32 := true }) ∧
    decodeWords 0x40D0 0xE017 = .ok (.ctz { d := 20, a := 28, w32 := false }) ∧
    decodeWords 0x40B4 0xC018 = .ok (.popc { d := 13, a := 24, w32 := false }) := by decide +kernel

/-- OP 0x02. -/
theorem test_decode_02 :
    decodeWords 0x8174 0x80008985 = .ok (.addi { d := 29, a := 16, w32 := false, imm := 35205 }) ∧
    decodeWords 0x813D 0x20014178 = .ok (.andi { d := 15, a := 4, w32 := true, imm := 16760 }) ∧
    decodeWords 0x811C 0x68021D34 = .ok (.ori { d := 7, a := 13, w32 := false, imm := 7476 }) ∧
    decodeWords 0x8109 0x9003926E = .ok (.xori { d := 2, a := 18, w32 := true, imm := 37486 }) ∧
    decodeWords 0x8154 0xF8040012 = .ok (.shli { d := 21, a := 31, w32 := false, sh := 18 }) ∧
    decodeWords 0x8109 0xA805001B = .ok (.shri { d := 2, a := 21, w32 := true, sh := 27 }) ∧
    decodeWords 0x815D 0xF006001A = .ok (.srai { d := 23, a := 30, w32 := true, sh := 26 }) ∧
    decodeWords 0x811D 0x80704BB = .ok (.slti { d := 7, a := 1, w32 := true, imm := 1211 }) ∧
    decodeWords 0x8175 0x50086469 = .ok (.sltui { d := 29, a := 10, w32 := true, imm := 25705 }) := by decide +kernel

/-- OP 0x03. -/
theorem test_decode_03 :
    decodeWords 0xC1BC 0x23707E = .ok (.li { d := 15, imm := 2322558 }) ∧
    decodeWords 0xC1D4 0x100000000E149 = .ok (.lih { d := 21, imm := 57673 }) := by decide +kernel

/-- OP 0x04. -/
theorem test_decode_04 :
    decodeWords 0x424A 0xAC0 = .ok (.fadd { d := 18, a := 1, b := 11, rm := .rtz }) ∧
    decodeWords 0x4268 0xE941 = .ok (.fsub { d := 26, a := 29, b := 5, rm := .frm }) ∧
    decodeWords 0x4217 0x4C02 = .ok (.fmul { d := 5, a := 9, b := 16, rm := .rdn }) ∧
    decodeWords 0x4204 0xCE03 = .ok (.fdiv { d := 1, a := 25, b := 24, rm := .frm }) ∧
    decodeWords 0x4222 0xC804 = .ok (.fsqrt { d := 8, a := 25, rm := .rtz }) ∧
    decodeWords 0x4218 0x3F85 = .ok (.fmin { d := 6, a := 7, b := 30 }) ∧
    decodeWords 0x4228 0xE946 = .ok (.fmax { d := 10, a := 29, b := 5 }) ∧
    decodeWords 0x4218 0x4607 = .ok (.feq { d := 6, a := 8, b := 24 }) ∧
    decodeWords 0x4248 0x6DC8 = .ok (.flt { d := 18, a := 13, b := 23 }) ∧
    decodeWords 0x4274 0x3049 = .ok (.fle { d := 29, a := 6, b := 1 }) ∧
    decodeWords 0x4278 0xA80A = .ok (.fcvtif { d := 30, a := 21, rm := .frm }) ∧
    decodeWords 0x427D 0xE00B = .ok (.fcvtfi { d := 31, a := 28, rm := .rne }) ∧
    decodeWords 0x4268 0x880C = .ok (.fclass { d := 26, a := 17 }) := by decide +kernel

/-- OP 0x05. -/
theorem test_decode_05 :
    decodeWords 0x82DD 0xC1C0D000 = .ok (.ffma { d := 23, a := 24, b := 7, c := 26, rm := .rne }) ∧
    decodeWords 0x82D3 0xC6413800 = .ok (.ffms { d := 20, a := 24, b := 25, c := 7, rm := .rdn }) ∧
    decodeWords 0x828E 0x64421800 = .ok (.fnfma { d := 3, a := 12, b := 17, c := 3, rm := .rtz }) := by decide +kernel

/-- OP 0x08. -/
theorem test_decode_08 :
    decodeWords 0x8400 0xE6C06CA9 = .ok (.beq { a := 28, b := 27, delta := 869, slot := 9 }) ∧
    decodeWords 0x8400 0x2281F1ED = .ok (.bne { a := 4, b := 10, delta := 1935, slot := 13 }) ∧
    decodeWords 0x8400 0xBB02AC64 = .ok (.blt { a := 23, b := 12, delta := 1379, slot := 4 }) ∧
    decodeWords 0x8400 0xC303B655 = .ok (.bge { a := 24, b := 12, delta := 1458, slot := 21 }) ∧
    decodeWords 0x8400 0x2D444EB3 = .ok (.bltu { a := 5, b := 21, delta := 629, slot := 19 }) ∧
    decodeWords 0x8400 0x2A85DEB3 = .ok (.bgeu { a := 5, b := 10, delta := 1781, slot := 19 }) := by decide +kernel

/-- OP 0x09. -/
theorem test_decode_09 :
    decodeWords 0xC4F8 0x8DC7DD7 = .ok (.jal { d := 30, delta := 4645870, slot := 23 }) := by decide +kernel

/-- OP 0x0A. -/
theorem test_decode_0A :
    decodeWords 0x4560 0xE800 = .ok (.jalr { d := 24, a := 29 }) := by decide +kernel

/-- OP 0x10. -/
theorem test_decode_10 :
    decodeWords 0x8824 0x4000EB22 = .ok (.lb { d := 9, a := 8, off := 60194 }) ∧
    decodeWords 0x8804 0x2801BDE9 = .ok (.lbu { d := 1, a := 5, off := 48617 }) ∧
    decodeWords 0x8868 0x68026EF9 = .ok (.lh { d := 26, a := 13, off := 28409 }) ∧
    decodeWords 0x880C 0x88034EC3 = .ok (.lhu { d := 3, a := 17, off := 20163 }) ∧
    decodeWords 0x881C 0xF8043968 = .ok (.lw { d := 7, a := 31, off := 14696 }) ∧
    decodeWords 0x8868 0x2005EFB6 = .ok (.lwu { d := 26, a := 4, off := 61366 }) ∧
    decodeWords 0x8824 0x9006A7D8 = .ok (.ld { d := 9, a := 18, off := 42968 }) := by decide +kernel

/-- OP 0x11. -/
theorem test_decode_11 :
    decodeWords 0x88CC 0xE0006004 = .ok (.sb { d := 19, a := 28, off := 24580 }) ∧
    decodeWords 0x88CC 0x80125AB = .ok (.sh { d := 19, a := 1, off := 9643 }) ∧
    decodeWords 0x88C8 0xC0026E84 = .ok (.sw { d := 18, a := 24, off := 28292 }) ∧
    decodeWords 0x88FC 0x3803E57B = .ok (.sd { d := 31, a := 7, off := 58747 }) := by decide +kernel

/-- OP 0x12. -/
theorem test_decode_12 :
    decodeWords 0x8969 0x87800003 = .ok (.amoadd { d := 26, a := 16, b := 30, acq := true, rel := false, dw := false, scope := .device }) ∧
    decodeWords 0x897D 0x15410000 = .ok (.amoswap { d := 31, a := 2, b := 21, acq := true, rel := false, dw := false, scope := .core }) ∧
    decodeWords 0x892A 0xEC020004 = .ok (.amoand { d := 10, a := 29, b := 16, acq := false, rel := true, dw := false, scope := .system }) ∧
    decodeWords 0x8947 0x7BC30008 = .ok (.amoor { d := 17, a := 15, b := 15, acq := true, rel := true, dw := true, scope := .core }) ∧
    decodeWords 0x897E 0x1A440003 = .ok (.amoxor { d := 31, a := 3, b := 9, acq := false, rel := true, dw := false, scope := .device }) ∧
    decodeWords 0x896A 0x9385000A = .ok (.amomin { d := 26, a := 18, b := 14, acq := false, rel := true, dw := true, scope := .die }) ∧
    decodeWords 0x8942 0x2186000B = .ok (.amomax { d := 16, a := 4, b := 6, acq := false, rel := true, dw := true, scope := .device }) ∧
    decodeWords 0x8911 0xBD07000C = .ok (.amominu { d := 4, a := 23, b := 20, acq := true, rel := false, dw := true, scope := .system }) ∧
    decodeWords 0x895E 0x24880008 = .ok (.amomaxu { d := 23, a := 4, b := 18, acq := false, rel := true, dw := true, scope := .core }) ∧
    decodeWords 0x8911 0xB7090004 = .ok (.amofadd { d := 4, a := 22, b := 28, acq := true, rel := false, dw := false, scope := .system }) ∧
    decodeWords 0x8925 0xDF4A3000 = .ok (.amocas { d := 9, a := 27, b := 29, c := 6, acq := true, rel := false, dw := false, scope := .core }) := by decide +kernel

/-- OP 0x13. -/
theorem test_decode_13 :
    decodeWords 0x8984 0x78000002 = .ok (.ldaW { d := 1, a := 15, scope := .die }) ∧
    decodeWords 0x899C 0xA0010002 = .ok (.ldaD { d := 7, a := 20, scope := .die }) ∧
    decodeWords 0x8988 0xB8020000 = .ok (.stlW { d := 2, a := 23, scope := .core }) ∧
    decodeWords 0x89BC 0x40030001 = .ok (.stlD { d := 15, a := 8, scope := .cluster }) := by decide +kernel

/-- OP 0x14. -/
theorem test_decode_14 :
    decodeWords 0x4A01 0x2000 = .ok (.fence { acq := true, rel := false, scope := .system }) ∧
    decodeWords 0x4A00 0x1 = .ok (.fenceSv) ∧
    decodeWords 0x4A00 0x2 = .ok (.fenceVs) := by decide +kernel

/-- OP 0x15. -/
theorem test_decode_15 :
    decodeWords 0x8A80 0x70007A8B = .ok (.cflush { a := 14, off := 31371 }) ∧
    decodeWords 0x8A80 0x1001B963 = .ok (.cinv { a := 2, off := 47459 }) ∧
    decodeWords 0x8A80 0x8025F04 = .ok (.cpref { a := 1, off := 24324 }) ∧
    decodeWords 0x8A80 0x90034E5A = .ok (.cdrop { a := 18, off := 20058 }) := by decide +kernel

/-- OP 0x16. -/
theorem test_decode_16 :
    decodeWords 0x8B1C 0x55403AAB = .ok (.waitne { d := 7, a := 10, b := 21, tmo := 15019 }) ∧
    decodeWords 0x8B30 0x4DC16B53 = .ok (.waiteq { d := 12, a := 9, b := 23, tmo := 27475 }) := by decide +kernel

/-- OP 0x18. -/
theorem test_decode_18 :
    decodeWords 0x8C38 0x13 = .ok (.csrr { d := 14, csr := .kvroot }) ∧
    decodeWords 0x8C14 0x48010013 = .ok (.csrw { d := 5, a := 9, csr := .kvroot }) ∧
    decodeWords 0x8C4C 0xE8020013 = .ok (.csrs { d := 19, a := 29, csr := .kvroot }) ∧
    decodeWords 0x8C4C 0x68030013 = .ok (.csrc { d := 19, a := 13, csr := .kvroot }) := by decide +kernel

/-- OP 0x19. -/
theorem test_decode_19 :
    decodeWords 0x8C80 0x5FDD = .ok (.trap { code := 24541 }) ∧
    decodeWords 0x4C80 0x1 = .ok (.eret) ∧
    decodeWords 0x4C80 0x8002 = .ok (.resume { a := 16 }) ∧
    decodeWords 0x4C80 0x2643 = .ok (.tlbinvAddress { a := 4, b := 25 }) ∧
    decodeWords 0x4C80 0x4 = .ok (.wfi) := by decide +kernel

/-- OP 0x1A. -/
theorem test_decode_1A :
    decodeWords 0x4D04 0xE800 = .ok (.ctxsave { d := 1, a := 29 }) ∧
    decodeWords 0x4D58 0xE001 = .ok (.ctxrest { d := 22, a := 28 }) ∧
    decodeWords 0x4D0C 0xB002 = .ok (.vqsave { d := 3, a := 22 }) ∧
    decodeWords 0x4D7C 0x5803 = .ok (.vqrest { d := 31, a := 11 }) := by decide +kernel

/-- OP 0x1C. -/
theorem test_decode_1C :
    decodeWords 0x4E64 0x3800 = .ok (.spawn { d := 25, a := 7 }) ∧
    decodeWords 0x4E4C 0x801 = .ok (.spawng { d := 19, a := 1 }) ∧
    decodeWords 0x4E70 0x1802 = .ok (.spawnl { d := 28, a := 3 }) ∧
    decodeWords 0x4E68 0x3883 = .ok (.join { d := 26, a := 7, b := 2 }) ∧
    decodeWords 0x4E00 0x3804 = .ok (.yield { a := 7 }) := by decide +kernel

/-- OP 0x1E. -/
theorem test_decode_1E :
    decodeWords 0x4F58 0x5000 = .ok (.lvcancel { d := 22, a := 10 }) ∧
    decodeWords 0x4F74 0xB001 = .ok (.lvquery { d := 29, a := 22 }) := by decide +kernel

/-- OP 0x20. -/
theorem test_decode_20 :
    decodeWords 0x5028 0xAA40 = .ok (.barinit { d := 10, a := 21, b := 9 }) ∧
    decodeWords 0x505C 0xA001 = .ok (.bararr { d := 23, a := 20 }) ∧
    decodeWords 0x5050 0x6A82 = .ok (.barwait { d := 20, a := 13, b := 10 }) ∧
    decodeWords 0x5070 0xA803 = .ok (.barkill { d := 28, a := 21 }) := by decide +kernel

/-- OP 0x21. -/
theorem test_decode_21 :
    decodeWords 0x9080 0x2B000000 = .ok (.post { a := 5, b := 12 }) ∧
    decodeWords 0x90AC 0xE3410000 = .ok (.waiti { d := 11, a := 28, b := 13 }) := by decide +kernel

/-- OP 0x28. -/
theorem test_decode_28 :
    decodeWords 0x9440 0xB6000100 = .ok (.setlen { d := 16, a := 22, b := 24, ty := .i32 }) ∧
    decodeWords 0x9400 0x10001 = .ok (.vshape { wide := true }) ∧
    decodeWords 0x9418 0xB7020440 = .ok (.vmovx { d := 6, a := 22, b := 28, ty := .i4 }) ∧
    decodeWords 0x9414 0xC5C30000 = .ok (.vmovv { d := 5, a := 24, b := 23, ty := .i8 }) ∧
    decodeWords 0x9464 0x40000 = .ok (.setlenf { d := 25 }) := by decide +kernel

/-- OP 0x29. -/
theorem test_decode_29 :
    decodeWords 0x5480 0x1880 = .ok (.kand { d := 0, a := 3, b := 2 }) ∧
    decodeWords 0x5480 0x10C1 = .ok (.kor { d := 0, a := 2, b := 3 }) ∧
    decodeWords 0x5480 0x1002 = .ok (.kxor { d := 0, a := 2, b := 0 }) ∧
    decodeWords 0x5480 0x1003 = .ok (.kandn { d := 0, a := 2, b := 0 }) ∧
    decodeWords 0x548C 0x1004 = .ok (.knot { d := 3, a := 2 }) ∧
    decodeWords 0x5488 0x805 = .ok (.kpop { d := 2, a := 1 }) ∧
    decodeWords 0x549C 0x1806 = .ok (.kfirst { d := 7, a := 3 }) ∧
    decodeWords 0x5480 0x8007 = .ok (.kset { d := 0, a := 16 }) := by decide +kernel

/-- OP 0x30. -/
theorem test_decode_30 :
    decodeWords 0x9834 0x28800140 = .ok (.vadd { d := 13, a := 5, b := 2, k := 0, ty := .n32, sat := false }) ∧
    decodeWords 0x9876 0x16C10088 = .ok (.vsub { d := 29, a := 2, b := 27, k := 2, ty := .i16, sat := true }) ∧
    decodeWords 0x9829 0x88420048 = .ok (.vmul { d := 10, a := 17, b := 1, k := 1, ty := .n8, sat := true }) ∧
    decodeWords 0x983B 0x258301C8 = .ok (.vmulh { d := 14, a := 4, b := 22, k := 3, ty := .n64, sat := true }) ∧
    decodeWords 0x982D 0x57C40148 = .ok (.vand { d := 11, a := 10, b := 31, k := 1, ty := .n32, sat := true }) ∧
    decodeWords 0x980B 0x85850140 = .ok (.vor { d := 2, a := 16, b := 22, k := 3, ty := .n32, sat := false }) ∧
    decodeWords 0x9826 0x7C060080 = .ok (.vxor { d := 9, a := 15, b := 16, k := 2, ty := .i16, sat := false }) ∧
    decodeWords 0x981C 0xB28700C8 = .ok (.vshl { d := 7, a := 22, b := 10, k := 0, ty := .n16, sat := true }) ∧
    decodeWords 0x9833 0x3E880188 = .ok (.vshr { d := 12, a := 7, b := 26, k := 3, ty := .i64, sat := true }) ∧
    decodeWords 0x9879 0x2F890148 = .ok (.vsra { d := 30, a := 5, b := 30, k := 1, ty := .n32, sat := true }) ∧
    decodeWords 0x9871 0xA14A00C0 = .ok (.vmin { d := 28, a := 20, b := 5, k := 1, ty := .n16, sat := false }) ∧
    decodeWords 0x9858 0x854B0048 = .ok (.vmax { d := 22, a := 16, b := 21, k := 0, ty := .n8, sat := true }) ∧
    decodeWords 0x985F 0x400C0008 = .ok (.vabs { d := 23, a := 8, k := 3, ty := .i8, sat := true }) ∧
    decodeWords 0x982B 0xE00D01C8 = .ok (.vneg { d := 10, a := 28, k := 3, ty := .n64, sat := true }) ∧
    decodeWords 0x9801 0xA98E0140 = .ok (.vcmpeq { d := 0, a := 21, b := 6, k := 1, ty := .n32, sat := false }) ∧
    decodeWords 0x9809 0x17CF0040 = .ok (.vcmplt { d := 2, a := 2, b := 31, k := 1, ty := .n8, sat := false }) ∧
    decodeWords 0x980D 0x5FD000C8 = .ok (.vcmple { d := 3, a := 11, b := 31, k := 1, ty := .n16, sat := true }) ∧
    decodeWords 0x986A 0x8E510100 = .ok (.vsel { d := 26, a := 17, b := 25, k := 2, ty := .i32, sat := false }) ∧
    decodeWords 0x9837 0x120180 = .ok (.viota { d := 13, k := 3, ty := .i64, sat := false }) := by decide +kernel

/-- OP 0x31. -/
theorem test_decode_31 :
    decodeWords 0x9891 0x870000C8 = .ok (.vaddScalar { d := 4, a := 16, b := 28, k := 1, ty := .n16, sat := true }) ∧
    decodeWords 0x98CC 0xA4410000 = .ok (.vsubScalar { d := 19, a := 20, b := 17, k := 0, ty := .i8, sat := false }) ∧
    decodeWords 0x98EC 0x4AC20040 = .ok (.vmulScalar { d := 27, a := 9, b := 11, k := 0, ty := .n8, sat := false }) ∧
    decodeWords 0x98C9 0x80830188 = .ok (.vmulhScalar { d := 18, a := 16, b := 2, k := 1, ty := .i64, sat := true }) ∧
    decodeWords 0x988D 0xC8840108 = .ok (.vandScalar { d := 3, a := 25, b := 2, k := 1, ty := .i32, sat := true }) ∧
    decodeWords 0x98C0 0xFA850040 = .ok (.vorScalar { d := 16, a := 31, b := 10, k := 0, ty := .n8, sat := false }) ∧
    decodeWords 0x98DE 0xCC60080 = .ok (.vxorScalar { d := 23, a := 1, b := 19, k := 2, ty := .i16, sat := false }) ∧
    decodeWords 0x98CF 0x26C701C8 = .ok (.vshlScalar { d := 19, a := 4, b := 27, k := 3, ty := .n64, sat := true }) ∧
    decodeWords 0x98ED 0xD08801C0 = .ok (.vshrScalar { d := 27, a := 26, b := 2, k := 1, ty := .n64, sat := false }) ∧
    decodeWords 0x98D3 0x79090088 = .ok (.vsraScalar { d := 20, a := 15, b := 4, k := 3, ty := .i16, sat := true }) ∧
    decodeWords 0x9888 0x3E0A0148 = .ok (.vminScalar { d := 2, a := 7, b := 24, k := 0, ty := .n32, sat := true }) ∧
    decodeWords 0x98FF 0x260B0108 = .ok (.vmaxScalar { d := 31, a := 4, b := 24, k := 3, ty := .i32, sat := true }) ∧
    decodeWords 0x98BF 0xF00C0000 = .ok (.vabsScalar { d := 15, a := 30, k := 3, ty := .i8, sat := false }) ∧
    decodeWords 0x98E8 0xB80D0040 = .ok (.vnegScalar { d := 26, a := 23, k := 0, ty := .n8, sat := false }) ∧
    decodeWords 0x9885 0xA54E0048 = .ok (.vcmpeqScalar { d := 1, a := 20, b := 21, k := 1, ty := .n8, sat := true }) ∧
    decodeWords 0x988D 0x958F0088 = .ok (.vcmpltScalar { d := 3, a := 18, b := 22, k := 1, ty := .i16, sat := true }) ∧
    decodeWords 0x988F 0x6C100108 = .ok (.vcmpleScalar { d := 3, a := 13, b := 16, k := 3, ty := .i32, sat := true }) ∧
    decodeWords 0x98A7 0xF1910000 = .ok (.vselScalar { d := 9, a := 30, b := 6, k := 3, ty := .i8, sat := false }) ∧
    decodeWords 0x98A8 0x29200C8 = .ok (.viotaScalar { d := 10, b := 10, k := 0, ty := .n16, sat := true }) := by decide +kernel

/-- OP 0x38. -/
theorem test_decode_38 :
    decodeWords 0x9C30 0xA3800248 = .ok (.vfadd { d := 12, a := 20, b := 14, k := 0, ty := .bf16, rm := .frm, sat := true }) ∧
    decodeWords 0x9C74 0x34410258 = .ok (.vfsub { d := 29, a := 6, b := 17, k := 0, ty := .bf16, rm := .rne, sat := true }) ∧
    decodeWords 0x9C58 0x394202B0 = .ok (.vfmul { d := 22, a := 7, b := 5, k := 0, ty := .fp16, rm := .rdn, sat := false }) ∧
    decodeWords 0x9C77 0xD030230 = .ok (.vfdiv { d := 29, a := 1, b := 20, k := 3, ty := .fp32, rm := .rdn, sat := false }) ∧
    decodeWords 0x9C42 0xF80402B8 = .ok (.vfsqrt { d := 16, a := 31, k := 2, ty := .fp16, rm := .rdn, sat := true }) ∧
    decodeWords 0x9C0C 0xD7050260 = .ok (.vfmin { d := 3, a := 26, b := 28, k := 0, ty := .bf16, rm := .rtz, sat := false }) ∧
    decodeWords 0x9C0D 0xDC060270 = .ok (.vfmax { d := 3, a := 27, b := 16, k := 1, ty := .bf16, rm := .rdn, sat := false }) ∧
    decodeWords 0x9C2E 0xB8070278 = .ok (.vfabs { d := 11, a := 23, k := 2, ty := .bf16, rm := .rdn, sat := true }) ∧
    decodeWords 0x9C42 0xC0080260 = .ok (.vfneg { d := 16, a := 24, k := 2, ty := .bf16, rm := .rtz, sat := false }) ∧
    decodeWords 0x9C0F 0xDBC90290 = .ok (.vfcmpeq { d := 3, a := 27, b := 15, k := 3, ty := .fp16, rm := .rne, sat := false }) ∧
    decodeWords 0x9C0F 0x53CA0260 = .ok (.vfcmplt { d := 3, a := 10, b := 15, k := 3, ty := .bf16, rm := .rtz, sat := false }) ∧
    decodeWords 0x9C04 0x260B0240 = .ok (.vfcmple { d := 1, a := 4, b := 24, k := 0, ty := .bf16, rm := .frm, sat := false }) ∧
    decodeWords 0x9C7A 0x180C0250 = .ok (.vfrcp { d := 30, a := 3, k := 2, ty := .bf16, rm := .rne, sat := false }) ∧
    decodeWords 0x9C3B 0xF80D0260 = .ok (.vfrsq { d := 14, a := 31, k := 3, ty := .bf16, rm := .rtz, sat := false }) ∧
    decodeWords 0x9C04 0xB00E02A8 = .ok (.vfexp2 { d := 1, a := 22, k := 0, ty := .fp16, rm := .rtz, sat := true }) ∧
    decodeWords 0x9C66 0x700F0210 = .ok (.vflog2 { d := 25, a := 14, k := 2, ty := .fp32, rm := .rne, sat := false }) := by decide +kernel

/-- OP 0x39. -/
theorem test_decode_39 :
    decodeWords 0x9CD3 0x48C0B288 = .ok (.vfma { d := 20, a := 9, b := 3, c := 22, k := 3, ty := .fp16, rm := .frm, sat := true }) ∧
    decodeWords 0x9CF6 0x9C1E280 = .ok (.vfms { d := 29, a := 1, b := 7, c := 28, k := 2, ty := .fp16, rm := .frm, sat := false }) ∧
    decodeWords 0x9CDE 0x6C824220 = .ok (.vfnma { d := 23, a := 13, b := 18, c := 8, k := 2, ty := .fp32, rm := .rtz, sat := false }) := by decide +kernel

/-- OP 0x3A. -/
theorem test_decode_3A :
    decodeWords 0x9D36 0xB7800268 = .ok (.vfaddScalar { d := 13, a := 22, b := 30, k := 2, ty := .bf16, rm := .rtz, sat := true }) ∧
    decodeWords 0x9D25 0x8AC10210 = .ok (.vfsubScalar { d := 9, a := 17, b := 11, k := 1, ty := .fp32, rm := .rne, sat := false }) ∧
    decodeWords 0x9D7D 0x23420238 = .ok (.vfmulScalar { d := 31, a := 4, b := 13, k := 1, ty := .fp32, rm := .rdn, sat := true }) ∧
    decodeWords 0x9D6A 0x41830218 = .ok (.vfdivScalar { d := 26, a := 8, b := 6, k := 2, ty := .fp32, rm := .rne, sat := true }) ∧
    decodeWords 0x9D7D 0x98040238 = .ok (.vfsqrtScalar { d := 31, a := 19, k := 1, ty := .fp32, rm := .rdn, sat := true }) ∧
    decodeWords 0x9D11 0x71050218 = .ok (.vfminScalar { d := 4, a := 14, b := 4, k := 1, ty := .fp32, rm := .rne, sat := true }) ∧
    decodeWords 0x9D56 0x628602A0 = .ok (.vfmaxScalar { d := 21, a := 12, b := 10, k := 2, ty := .fp16, rm := .rtz, sat := false }) ∧
    decodeWords 0x9D2D 0xB0070278 = .ok (.vfabsScalar { d := 11, a := 22, k := 1, ty := .bf16, rm := .rdn, sat := true }) ∧
    decodeWords 0x9D5E 0xC8080208 = .ok (.vfnegScalar { d := 23, a := 25, k := 2, ty := .fp32, rm := .frm, sat := true }) ∧
    decodeWords 0x9D0A 0xC6090270 = .ok (.vfcmpeqScalar { d := 2, a := 24, b := 24, k := 2, ty := .bf16, rm := .rdn, sat := false }) ∧
    decodeWords 0x9D07 0xB6CA02B8 = .ok (.vfcmpltScalar { d := 1, a := 22, b := 27, k := 3, ty := .fp16, rm := .rdn, sat := true }) ∧
    decodeWords 0x9D05 0x94B0250 = .ok (.vfcmpleScalar { d := 1, a := 1, b := 5, k := 1, ty := .bf16, rm := .rne, sat := false }) ∧
    decodeWords 0x9D0E 0xB80C0250 = .ok (.vfrcpScalar { d := 3, a := 23, k := 2, ty := .bf16, rm := .rne, sat := false }) ∧
    decodeWords 0x9D48 0x900D0270 = .ok (.vfrsqScalar { d := 18, a := 18, k := 0, ty := .bf16, rm := .rdn, sat := false }) ∧
    decodeWords 0x9D1A 0x900E0208 = .ok (.vfexp2Scalar { d := 6, a := 18, k := 2, ty := .fp32, rm := .frm, sat := true }) ∧
    decodeWords 0x9D46 0xD80F02A8 = .ok (.vflog2Scalar { d := 17, a := 27, k := 2, ty := .fp16, rm := .rtz, sat := true }) := by decide +kernel

/-- OP 0x3C. -/
theorem test_decode_3C :
    decodeWords 0x9E18 0xE6800028 = .ok (.vcvt { d := 6, a := 28, b := 26, k := 0, ty := .i8, rm := .rtz, sat := true }) ∧
    decodeWords 0x9E79 0x53C10220 = .ok (.vcvtd { d := 30, a := 10, b := 15, k := 1, ty := .fp32, rm := .rtz, sat := false }) ∧
    decodeWords 0x9E4B 0x10020330 = .ok (.vqpack { d := 18, a := 2, k := 3, ty := .e5m2, rm := .rdn }) ∧
    decodeWords 0x9E51 0x18030480 = .ok (.vbacc { d := 20, a := 3, k := 1, ty := .b24 }) ∧
    decodeWords 0x9E79 0x8040210 = .ok (.vbnorm { d := 30, a := 1, k := 1, ty := .fp32, rm := .rne }) ∧
    decodeWords 0x9E1B 0xD5C50000 = .ok (.vscale { d := 6, a := 26, b := 23, k := 3, ty := .i8 }) := by decide +kernel

/-- OP 0x3D. -/
theorem test_decode_3D :
    decodeWords 0x9EFA 0xC8000210 = .ok (.vredsum { d := 30, a := 25, k := 2, ty := .fp32, rm := .rne, sat := false, col := false }) ∧
    decodeWords 0x9ED3 0xE0010244 = .ok (.vredmax { d := 20, a := 28, k := 3, ty := .bf16, sat := false, col := true }) ∧
    decodeWords 0x9E8D 0xF002028C = .ok (.vredmin { d := 3, a := 30, k := 1, ty := .fp16, sat := true, col := true }) ∧
    decodeWords 0x9EC7 0x28030284 = .ok (.vargmax { d := 17, a := 5, k := 3, ty := .fp16, sat := false, col := true }) ∧
    decodeWords 0x9EB1 0xB804004C = .ok (.vargmin { d := 12, a := 23, k := 1, ty := .n8, sat := true, col := true }) ∧
    decodeWords 0x9EB8 0x6005000C = .ok (.vredand { d := 14, a := 12, k := 0, ty := .i8, sat := true, col := true }) ∧
    decodeWords 0x9EA4 0xD8060088 = .ok (.vredor { d := 9, a := 27, k := 0, ty := .i16, sat := true, col := false }) := by decide +kernel

/-- OP 0x3E. -/
theorem test_decode_3E :
    decodeWords 0x9F6D 0xC00000C0 = .ok (.vcompress { d := 27, a := 24, k := 1, ty := .n16 }) ∧
    decodeWords 0x9F0D 0xA0010140 = .ok (.vexpand { d := 3, a := 20, k := 1, ty := .n32 }) ∧
    decodeWords 0x9F39 0xEE820200 = .ok (.vslideup { d := 14, a := 29, b := 26, k := 1, ty := .fp32 }) ∧
    decodeWords 0x9F7E 0x750302C0 = .ok (.vslidedn { d := 31, a := 14, b := 20, k := 2, ty := .e4m3 }) ∧
    decodeWords 0x9F4A 0x8040140 = .ok (.vtrans { d := 18, a := 1, k := 2, ty := .n32 }) ∧
    decodeWords 0x9F40 0x8005C880 = .ok (.vpermc { d := 16, a := 16, c := 25, k := 0, ty := .i16 }) ∧
    decodeWords 0x9F7F 0xC8460040 = .ok (.vbcast { d := 31, a := 25, b := 1, k := 3, ty := .n8 }) := by decide +kernel

/-- OP 0x3F. -/
theorem test_decode_3F :
    decodeWords 0x9F91 0x7C000210 = .ok (.vsincos { d := 4, a := 15, b := 16, k := 1, ty := .fp32, rm := .rne }) ∧
    decodeWords 0x9FA7 0x38010200 = .ok (.vgumbel { d := 9, a := 7, k := 3, ty := .fp32 }) ∧
    decodeWords 0x9FD0 0x22820140 = .ok (.vhash { d := 20, a := 4, b := 10, k := 0, ty := .n32 }) := by decide +kernel

/-- OP 0x40. -/
theorem test_decode_40 :
    decodeWords 0xA04F 0xF2C03840 = .ok (.vld { d := 19, a := 30, b := 11, k := 3, ty := .n64, hint := 1 }) ∧
    decodeWords 0xA073 0xFEC19080 = .ok (.vldf { d := 28, a := 31, b := 27, k := 3, ty := .b24, hint := 2 }) ∧
    decodeWords 0xA055 0xC426C40 = .ok (.vldb { d := 21, a := 1, b := 17, k := 1, ty := .e3m2, bitoff := 4, hint := 1 }) ∧
    decodeWords 0xA054 0x8E432840 = .ok (.vlds { d := 21, a := 17, b := 25, k := 0, ty := .n32, hint := 1 }) ∧
    decodeWords 0xA068 0x98041840 = .ok (.vldl { d := 26, a := 19, k := 0, ty := .n16, hint := 1 }) := by decide +kernel

/-- OP 0x41. -/
theorem test_decode_41 :
    decodeWords 0xA0C0 0xD18008C0 = .ok (.vst { d := 16, a := 26, b := 6, k := 0, ty := .n8, hint := 3 }) ∧
    decodeWords 0xA096 0x76817C40 = .ok (.vstb { d := 5, a := 14, b := 26, k := 2, ty := .e2m1, bitoff := 4, hint := 1 }) ∧
    decodeWords 0xA0D9 0xA4426080 = .ok (.vsts { d := 22, a := 20, b := 17, k := 1, ty := .e5m2, hint := 2 }) ∧
    decodeWords 0xA088 0x8032040 = .ok (.vstl { d := 2, a := 1, k := 0, ty := .i32, hint := 1 }) := by decide +kernel

/-- OP 0x42. -/
theorem test_decode_42 :
    decodeWords 0xA14E 0xF00008B0 = .ok (.vgather { d := 19, a := 30, c := 24, k := 2, ty := .n8, hint := 2 }) ∧
    decodeWords 0xA14E 0x90012078 = .ok (.vscatter { d := 19, a := 18, c := 28, k := 2, ty := .i32, hint := 1 }) ∧
    decodeWords 0xA16A 0xA0026096 = .ok (.vgatherc { d := 26, a := 20, c := 11, k := 2, ty := .e5m2, hint := 2 }) ∧
    decodeWords 0xA109 0xE80300A4 = .ok (.vscatterc { d := 2, a := 29, c := 18, k := 1, ty := .i8, hint := 2 }) := by decide +kernel

/-- OP 0x43. -/
theorem test_decode_43 :
    decodeWords 0xA1EB 0x24C02880 = .ok (.vamoadd { d := 26, a := 4, b := 19, k := 3, ty := .n32, hint := 2 }) ∧
    decodeWords 0xA188 0x9C814080 = .ok (.vamofadd { d := 2, a := 19, b := 18, k := 0, ty := .fp32, hint := 2 }) ∧
    decodeWords 0xA1DC 0x17823040 = .ok (.vamomin { d := 23, a := 2, b := 30, k := 0, ty := .i64, hint := 1 }) ∧
    decodeWords 0xA1C9 0xA3C32840 = .ok (.vamomax { d := 18, a := 20, b := 15, k := 1, ty := .n32, hint := 1 }) := by decide +kernel

/-- OP 0x44. -/
theorem test_decode_44 :
    decodeWords 0xA201 0x940020C0 = .ok (.awin { a := 18, b := 16, k := 1, ty := .i32, hint := 3 }) ∧
    decodeWords 0xA24D 0xA00140C0 = .ok (.aadd { d := 19, a := 20, k := 1, ty := .fp32, hint := 3 }) ∧
    decodeWords 0xA201 0x200C0 = .ok (.amerge { k := 1, ty := .i8, hint := 3 }) ∧
    decodeWords 0xA202 0x30040 = .ok (.aclr { k := 2, ty := .i8, hint := 1 }) := by decide +kernel

/-- OP 0x48. -/
theorem test_decode_48 :
    decodeWords 0xE430 0x5540E95E63C00000 = .ok (.cpy { d := 12, a := 10, b := 21, ch := 3, acq := true, rel := false, scope := .system, mmask := 10, bar := 15, rows16 := 1596 }) ∧
    decodeWords 0xE41C 0x1981583CE9C00000 = .ok (.cpym { d := 7, a := 3, b := 6, ch := 1, acq := false, rel := true, scope := .system, mmask := 1, bar := 14, rows16 := 3740 }) ∧
    decodeWords 0xE45C 0x3F42E97C43000000 = .ok (.cpykv { d := 23, a := 7, b := 29, ch := 3, acq := true, rel := false, scope := .system, mmask := 11, bar := 14, rows16 := 1072 }) ∧
    decodeWords 0xE444 0x8A43421440000000 = .ok (.xred { d := 17, a := 17, b := 9, ch := 1, acq := false, rel := false, scope := .cluster, op := .sum, bar := 10, ty := .i32 }) ∧
    decodeWords 0xA400 0x804C000 = .ok (.cpwait { a := 1, ch := 3 }) := by decide +kernel

/-- OP 0x50. -/
theorem test_decode_50 :
    decodeWords 0xA800 0x3 = .ok (.matt { groups := 3 }) ∧
    decodeWords 0xA800 0x10001 = .ok (.mdet { discard := true }) ∧
    decodeWords 0xA800 0x24600 = .ok (.mclaim { slot := 35 }) ∧
    decodeWords 0xA800 0x33800 = .ok (.mrel { slot := 28 }) ∧
    decodeWords 0xA800 0x40010 = .ok (.mzero { tile := true }) ∧
    decodeWords 0xA808 0x50000 = .ok (.mstat { d := 2 }) := by decide +kernel

/-- OP 0x51. -/
theorem test_decode_51 :
    decodeWords 0xA890 0xDFC05C00 = .ok (.mld { ty := .i32, a := 27, b := 31, slot := 46 }) ∧
    decodeWords 0xA8C0 0xFD017600 = .ok (.mldf { ty := .q4n, a := 31, b := 20, slot := 59 }) ∧
    decodeWords 0xA8A0 0xCE02D000 = .ok (.mldt { ty := .fp32, a := 25, b := 24, slot := 104 }) ∧
    decodeWords 0xA89C 0xC483D000 = .ok (.mslotw { ty := .n64, a := 24, b := 18, slot := 104 }) ∧
    decodeWords 0xA890 0x4047800 = .ok (.mslotr { d := 4, b := 16, slot := 60 }) := by decide +kernel

/-- OP 0x52. -/
theorem test_decode_52 :
    decodeWords 0xA904 0x37CC = .ok (.mma { tile := true, slotA := 27, slotB := 115 }) ∧
    decodeWords 0xA904 0x13CE0 = .ok (.mmaz { tile := true, slotA := 30, slotB := 56 }) ∧
    decodeWords 0xA904 0x235B4 = .ok (.mman { tile := true, slotA := 26, slotB := 109 }) := by decide +kernel

/-- OP 0x53. -/
theorem test_decode_53 :
    decodeWords 0xA9BC 0x220 = .ok (.mdrain { d := 15, k := 0, ty := .fp32, half := true, tile := false }) ∧
    decodeWords 0xA980 0x68010010 = .ok (.maccst { a := 13, tile := true }) ∧
    decodeWords 0xA980 0xF8020000 = .ok (.maccld { a := 31, tile := false }) := by decide +kernel

/-- OP 0x58. -/
theorem test_decode_58 :
    decodeWords 0x6C5C 0x4800 = .ok (.gspec { d := 23, a := 9 }) ∧
    decodeWords 0x6C28 0x4501 = .ok (.gcommit { d := 10, a := 8, b := 20 }) ∧
    decodeWords 0x6C5C 0xCE42 = .ok (.gdiscard { d := 23, a := 25, b := 25 }) ∧
    decodeWords 0x6C2C 0xE983 = .ok (.gflatten { d := 11, a := 29, b := 6 }) ∧
    decodeWords 0x6C7C 0x8844 = .ok (.gpoolDonate { d := 31, a := 17, b := 1 }) ∧
    decodeWords 0x6C08 0x2445 = .ok (.gquery { d := 2, a := 4, b := 17 }) := by decide +kernel

/-- OP 0x5A. -/
theorem test_decode_5A :
    decodeWords 0xAD04 0x59400002 = .ok (.verst { d := 1, a := 11, b := 5, width := 2 }) ∧
    decodeWords 0xAD78 0x95410001 = .ok (.verld { d := 30, a := 18, b := 21, width := 1 }) ∧
    decodeWords 0xAD68 0x61820001 = .ok (.verldn { d := 26, a := 12, b := 6, width := 1 }) ∧
    decodeWords 0xAD14 0x39430000 = .ok (.vfloor { d := 5, a := 7, b := 5 }) ∧
    decodeWords 0xAD68 0x6F040000 = .ok (.vseal { d := 26, a := 13, b := 28 }) ∧
    decodeWords 0xAD60 0xC0050000 = .ok (.verq { d := 24, a := 24 }) := by decide +kernel

/-- OP 0x5B. -/
theorem test_decode_5B :
    decodeWords 0xADC9 0xCDC07892 = .ok (.vverst { d := 18, a := 25, b := 23, c := 9, k := 1, ty := .e2m1, hint := 2 }) ∧
    decodeWords 0xADE0 0x901306E = .ok (.vverld { d := 24, a := 1, b := 4, c := 23, k := 0, ty := .i64, hint := 1 }) := by decide +kernel

/-- OP 0x5C. -/
theorem test_decode_5C :
    decodeWords 0xAE5C 0xF5C04080 = .ok (.kvapp { d := 23, a := 30, b := 23, ty := .fp32, hint := 2 }) ∧
    decodeWords 0xAE2F 0xE8014840 = .ok (.kvldk { d := 11, a := 29, k := 3, ty := .bf16, hint := 1 }) ∧
    decodeWords 0xAE67 0x480250C0 = .ok (.kvldv { d := 25, a := 9, k := 3, ty := .fp16, hint := 3 }) ∧
    decodeWords 0xAE01 0x400328BC = .ok (.kvmove { a := 8, c := 30, k := 1, ty := .n32, hint := 2 }) ∧
    decodeWords 0xAE68 0xF0040000 = .ok (.kvlenRead { d := 26, a := 30 }) ∧
    decodeWords 0xAE50 0xACC40001 = .ok (.kvlenSet { d := 20, a := 21, b := 19 }) ∧
    decodeWords 0xAE00 0xAA850000 = .ok (.kvinvSequence { a := 21, b := 10 }) := by decide +kernel

/-- OP 0x5E. -/
theorem test_decode_5E :
    decodeWords 0xAF04 0x61C0893A = .ok (.nadd { d := 1, a := 12, b := 7, c := 29, acq := true, rel := false, scope := .cluster, ty := .i32 }) ∧
    decodeWords 0xAF0C 0x10000 = .ok (.nfence { d := 3 }) ∧
    decodeWords 0xEF00 0x1C4236000030D932 = .ok (.nrowcpy { a := 3, b := 17, acq := true, rel := true, scope := .device, ty := .i8, count := 3201330 }) ∧
    decodeWords 0xEF00 0x60030000006AB087 = .ok (.nzero { a := 12, acq := false, rel := false, scope := .core, ty := .i8, count := 6992007 }) ∧
    decodeWords 0xEF00 0xD6C4300F005F9E2F = .ok (.ngather { a := 26, b := 27, acq := true, rel := true, scope := .core, ty := .i8, pat := 15, count := 6266415 }) ∧
    decodeWords 0xEF24 0x9D452280006107F7 = .ok (.nopt { d := 9, a := 19, b := 21, acq := true, rel := false, scope := .cluster, ty := .fp32, count := 6359031 }) ∧
    decodeWords 0xAF44 0xFA060000 = .ok (.nstatRead { d := 17, a := 31, b := 8 }) := by decide +kernel


/-! ## Words that the manual prints -/

/-- Words of R252, R253, R243, R258, R260 and R267. -/
theorem test_printed_registers :
    decodeWords 0x4216 0x31C0 = .ok (.fadd { d := 5, a := 6, b := 7, rm := .rtz }) ∧
    decodeWords 0x8294 0x31C04000 = .ok (.ffma { d := 5, a := 6, b := 7, c := 8, rm := .frm }) ∧
    decodeWords 0x8C24 0x1 = .ok (.csrr { d := 9, csr := .frm }) ∧
    decodeWords 0x8C00 0x28010001 = .ok (.csrw { d := 0, a := 5, csr := .frm }) ∧
    decodeWords 0x9428 0x1AC20200 = .ok (.vmovx { d := 10, a := 3, b := 11, ty := .fp32 }) ∧
    decodeWords 0x54A4 0x0805 = .ok (.kpop { d := 9, a := 1 }) ∧
    decodeWords 0x9C28 0x53000200 = .ok (.vfadd { d := 10, a := 10, b := 12, k := 0, ty := .fp32, rm := .frm, sat := false }) ∧
    decodeWords 0x9EB4 0x50030200 = .ok (.vargmax { d := 13, a := 10, k := 0, ty := .fp32, sat := false, col := false }) := by
  decide +kernel

/-- Words of the copy, matrix, overlay and barrier sections. -/
theorem test_printed_transfers :
    decodeWords 0xA400 0xC8040000 = .ok (.cpwait { a := 25, ch := 0 }) ∧
    decodeWords 0xA800 0x00000001 = .ok (.matt { groups := 1 }) ∧
    decodeWords 0xA800 0x00020200 = .ok (.mclaim { slot := 1 }) ∧
    decodeWords 0x6C34 0x6000 = .ok (.gspec { d := 13, a := 12 }) ∧
    decodeWords 0x6C28 0x5B01 = .ok (.gcommit { d := 10, a := 11, b := 12 }) ∧
    decodeWords 0xE420 0x31C153E401000000 = .ok (.cpym
      { d := 8, a := 6, b := 7, ch := 1, acq := false, rel := true, scope := .cluster, mmask := 0xF, bar := 2, rows16 := 16 }) ∧
    decodeWords 0x4C80 0x52C3 = .ok (.tlbinvAddress { a := 10, b := 11 }) ∧
    decodeWords 0x9080 0x29C00000 = .ok (.post { a := 5, b := 7 }) ∧
    decodeWords 0x90A4 0x29C10000 = .ok (.waiti { d := 9, a := 5, b := 7 }) := by decide +kernel

/-- Words of the task, version, KV and crust sections. -/
theorem test_printed_tables :
    decodeWords 0x4E24 0x6000 = .ok (.spawn { d := 9, a := 12 }) ∧
    decodeWords 0x4E24 0x5343 = .ok (.join { d := 9, a := 10, b := 13 }) ∧ decodeWords 0x0E80 0 = .ok .endTask ∧
    decodeWords 0xAD44 0x84800003 = .ok (.verst { d := 17, a := 16, b := 18, width := 3 }) ∧
    decodeWords 0xAD24 0x84410002 = .ok (.verld { d := 9, a := 16, b := 17, width := 2 }) ∧
    decodeWords 0xAD24 0x84440000 = .ok (.vseal { d := 9, a := 16, b := 17 }) ∧
    decodeWords 0xAE54 0xA5840001 = .ok (.kvlenSet { d := 21, a := 20, b := 22 }) ∧
    decodeWords 0x8C80 0x21 = .ok (.trap { code := 0x21 }) ∧ decodeWords 0x4C80 0x1 = .ok .eret ∧
    decodeWords 0x4C80 0x5002 = .ok (.resume { a := 10 }) ∧ decodeWords 0x4C80 0x4 = .ok .wfi := by decide +kernel

/-- The five instructions of the line that the manual decodes, at their slots. -/
theorem test_printed_line :
    decodeWords 0x941C 0x42400200 = .ok (.setlen { d := 7, a := 8, b := 9, ty := .fp32 }) ∧
    decodeWords 0x9C0D 0x08800210 = .ok (.vfadd { d := 3, a := 1, b := 2, k := 1, ty := .fp32, rm := .rne, sat := false }) ∧
    decodeWords 0x4094 0x2980 = .ok (.add { d := 5, a := 5, b := 6, w32 := false }) ∧
    decodeWords 0x8400 0x2A41FFE1 = .ok (.bne { a := 5, b := 9, delta := -1, slot := 1 }) ∧
    decodeWords 0x0E80 0 = .ok .endTask := by decide +kernel

/-! ## Rejected words: cases 1 to 9 of R23 -/

/-- Unassigned OP; heads near NOP and END; a family with no tail; F that is not assigned; a T2 head whose F names a T4 form. -/
theorem test_rejects_heads :
    decodeWords 0xBF80 0 = .error 1 ∧ decodeWords 0x0004 0 = .error 2 ∧ decodeWords 0x0E81 0 = .error 3 ∧
    decodeWords 0x0080 0 = .error 4 ∧ decodeWords 0x4080 25 = .error 5 ∧ decodeWords 0x4C80 5 = .error 5 ∧
    decodeWords 0x8214 0x31C00000 = .error 6 := by decide +kernel

/-- A reserved register field, a reserved K, and reserved values of TY, scope, CSR number, AMO width and MATT groups. -/
theorem test_rejects_fields :
    decodeWords 0x4C84 0x0001 = .error 7 ∧ decodeWords 0x4C81 0x0001 = .error 8 ∧ decodeWords 0x941C 0x424005C0 = .error 9 ∧
    decodeWords 0x8C24 0xFFF = .error 9 ∧ decodeWords 0xA800 0x00000000 = .error 9 ∧ decodeWords 0xA800 0x00000005 = .error 9 := by
  decide +kernel

/-! ## Ill-formed terms: one for each check -/

/-- Operand checks of the layouts. -/
theorem test_ill_formed_operands :
    Instr.wf (.shli { d := 1, a := 2, w32 := true, sh := 32 }) = false ∧ Instr.wf (.shli { d := 1, a := 2, w32 := false, sh := 32 }) = true ∧
    Instr.wf (.vredsum { d := 1, a := 2, k := 0, ty := .i32, rm := .rtz, sat := false, col := false }) = false ∧
    Instr.wf (.vredsum { d := 1, a := 2, k := 0, ty := .fp32, rm := .rtz, sat := false, col := false }) = true ∧
    Instr.wf (.fence { acq := false, rel := false, scope := .device }) = false ∧
    Instr.wf (.matt { groups := 0 }) = false ∧ Instr.wf (.matt { groups := 5 }) = false ∧ Instr.wf (.matt { groups := 4 }) = true ∧
    Instr.wf (.vldb { d := 1, a := 2, b := 3, k := 0, ty := .i4, bitoff := 2, hint := 0 }) = false ∧
    Instr.wf (.vstb { d := 1, a := 2, b := 3, k := 0, ty := .e3m2, bitoff := 1, hint := 0 }) = false ∧
    Instr.wf (.vldb { d := 1, a := 2, b := 3, k := 0, ty := .e3m2, bitoff := 6, hint := 0 }) = true ∧
    Instr.wf (.mdrain { d := 1, k := 0, tile := false, ty := .bf16, half := true }) = false := by decide +kernel

/-- Type sets: each refuses a type outside it. -/
theorem test_ill_formed_types :
    Instr.wf (.vadd { d := 1, a := 2, b := 3, k := 0, ty := .fp32, sat := false }) = false ∧
    Instr.wf (.vfadd { d := 1, a := 2, b := 3, k := 0, ty := .i32, rm := .frm, sat := false }) = false ∧
    Instr.wf (.vtrans { d := 1, a := 2, k := 0, ty := .e2m1 }) = false ∧
    Instr.wf (.vld { d := 1, a := 2, b := 3, k := 0, ty := .a36, hint := 0 }) = false ∧
    Instr.wf (.vst { d := 1, a := 2, b := 3, k := 0, ty := .desc, hint := 0 }) = false ∧
    Instr.wf (.vmovv { d := 1, a := 2, b := 3, ty := .b24 }) = false ∧
    Instr.wf (.vldb { d := 1, a := 2, b := 3, k := 0, ty := .i8, bitoff := 0, hint := 0 }) = false ∧
    Instr.wf (.vlds { d := 1, a := 2, b := 3, k := 0, ty := .i4, hint := 0 }) = false ∧
    Instr.wf (.vamoadd { d := 1, a := 2, b := 3, k := 0, ty := .i16, hint := 0 }) = false ∧
    Instr.wf (.vamofadd { d := 1, a := 2, b := 3, k := 0, ty := .bf16, hint := 0 }) = false ∧
    Instr.wf (.awin { a := 1, b := 2, k := 0, ty := .i16, hint := 0 }) = false ∧ Instr.wf (.amerge { k := 0, ty := .fp32, hint := 0 }) = false ∧
    Instr.wf (.vqpack { d := 1, a := 2, k := 0, ty := .bf16, rm := .frm }) = false ∧
    Instr.wf (.vbacc { d := 1, a := 2, k := 0, ty := .fp32 }) = false := by decide +kernel

/-- The remaining type sets. -/
theorem test_ill_formed_more_types :
    Instr.wf (.vredmax { d := 1, a := 2, k := 0, ty := .e4m3, sat := false, col := false }) = false ∧
    Instr.wf (.vhash { d := 1, a := 2, b := 3, k := 0, ty := .i32 }) = false ∧
    Instr.wf (.xred { d := 1, a := 2, b := 3, ch := 0, acq := false, rel := false, scope := .core, op := .sum, bar := 0, ty := .i8 }) = false ∧
    Instr.wf (.mdrain { d := 1, k := 0, tile := false, ty := .fp16, half := false }) = false ∧
    Instr.wf (.vverst { d := 1, a := 2, b := 3, c := 4, k := 0, ty := .e3m2, hint := 0 }) = false ∧
    Instr.wf (.kvldk { d := 1, a := 2, k := 0, ty := .i8, hint := 0 }) = false ∧
    Instr.wf (.nadd { d := 1, a := 2, b := 3, c := 4, acq := false, rel := false, scope := .core, ty := .i16 }) = false := by
  decide +kernel

/-! ## Small states, and how a computation ends -/

/-- Core 5 stands at slot 1 of line 1 in task mode, with the given registers. -/
def onCore (regs : List (Nat × Nat)) (f : Core → Core) : State :=
  { State.reset with
    stage := .running, cur := 5,
    cores := modifyNth (fun k => f { k with
      act := .running, ia := 0x41, line := some { va := 64, asid := 0, bits := 0 },
      task := regs.foldl (fun t p => t.set! p.1 (BitVec.ofNat 64 p.2)) k.task }) 5 State.reset.cores }

/-- The core with the given registers and nothing else. -/
def plain (regs : List (Nat × Nat)) : State := onCore regs id

/-- The core with a vector shape. -/
def shaped (nr nc : Nat) (regs : List (Nat × Nat)) (f : Core → Core) : State :=
  { onCore regs fun k => f { k with nr := BitVec.ofNat 8 nr, nc := BitVec.ofNat 10 nc } with eager := true }

/-- A reading of the next state. -/
def out {α : Type} (o : Host.Outcome State Fault Refusal) (f : State → α) : Option α :=
  match o with
  | .next t => some (f t)
  | _ => none

/-- The next state of an instruction; the same state where there is none. -/
noncomputable def after (i : Instr) (s : State) : State := (out (exec i s) id).getD s

/-- A computation answers a value that passes a check. -/
def answersOk {α : Type} (m : M α) (s : State) (p : α → State → Bool) : Bool :=
  match runM m s with
  | (.ok a, t) => p a t
  | _ => false

theorem answers_of {α : Type} {m : M α} {s : State} {p : α → State → Bool} (h : answersOk m s p = true) :
    ∃ a t, Answers m s a t ∧ p a t = true := by
  unfold answersOk at h
  split at h
  · rename_i a t e; exact ⟨a, t, e, h⟩
  · simp at h

theorem ends_of {m : M Unit} {s : State} {p : State → Bool} (h : answersOk m s (fun _ => p) = true) :
    ∃ t, Ends m s t ∧ p t = true := by
  obtain ⟨_, t, e, h⟩ := answers_of h
  exact ⟨t, e, h⟩

/-- A computation ends in a trap that passes a check. -/
def trapsOk {α : Type} (m : M α) (s : State) (p : Trap → State → Bool) : Bool :=
  match runM m s with
  | (.error (.trap r), t) => p r t
  | _ => false

theorem traps_of {α : Type} {m : M α} {s : State} {p : Trap → State → Bool} (h : trapsOk m s p = true) :
    ∃ r t, Traps m s r t ∧ p r t = true := by
  unfold trapsOk at h
  split at h
  · rename_i r t e; exact ⟨r, t, e, h⟩
  · simp at h

/-- What `Ready` asks for. -/
def isReady (s : State) (rs : List Reg) : Bool :=
  decide (s.cur < s.cores.length) && !s.me.pending rs && wellFormedIa s.me.nextIa

theorem ready_of {s : State} {rs : List Reg} (h : isReady s rs = true) : Ready s rs := by
  simp only [isReady, Bool.and_eq_true, decide_eq_true_eq, Bool.not_eq_true'] at h
  exact ⟨h.1.1, h.1.2, h.2⟩

/-- What `Accepting` asks for. -/
def isAccepting (s : State) : Bool :=
  decide (s.cur < s.cores.length) && wellFormedIa s.me.nextIa && s.eager && decide (s.me.queue = []) && decide (s.me.issued = 0) &&
    !s.me.svWaits && !s.crustHas s.cur Item.acq

theorem accepting_of {s : State} (h : isAccepting s = true) : Accepting s := by
  simp only [isAccepting, Bool.and_eq_true, decide_eq_true_eq, Bool.not_eq_true'] at h
  obtain ⟨⟨⟨⟨⟨⟨cur, next⟩, eager⟩, queue⟩, channels⟩, fence⟩, acquired⟩ := h
  exact ⟨cur, next, eager, queue, channels, fence, acquired⟩

/-- A core is ready for a scalar instruction. -/
theorem test_meets_ready : Ready (plain [(1, 7), (2, 3)]) [3, 1, 2] := ready_of (by decide +kernel)

/-- A core accepts a vector instruction, whose shape fits. -/
theorem test_meets_accepting : Accepting (shaped 2 3 [] id) ∧ Spec.Fits (shaped 2 3 [] id) 64 [1, 2, 3] :=
  ⟨accepting_of (by decide +kernel), .inr (.inr (by decide +kernel))⟩

theorem test_add : out (exec (.add { d := 3, a := 1, b := 2, w32 := false }) (plain [(1, 7), (2, 2 ^ 64 - 3)])) (fun t => (t.me.x 3, t.me.ia)) = some (4, 0x81) := by decide +kernel

/-! ## One step of each instruction -/

/-- Register r after an instruction. -/
noncomputable def reg (i : Instr) (s : State) (r : Reg) : Option Nat := out (exec i s) fun t => (t.me.x r).toNat

/-- R249: -7 and 3, at 64 and at 32 bits. -/
theorem test_alu_arithmetic :
    reg (.add { d := 3, a := 1, b := 2, w32 := false }) (plain [(1, 0xfffffffffffffff9), (2, 3), (4, 8)]) 3 = some 0xfffffffffffffffc ∧
    reg (.add { d := 3, a := 1, b := 2, w32 := true }) (plain [(1, 0xfffffffffffffff9), (2, 3), (4, 8)]) 3 = some 0xfffffffffffffffc ∧
    reg (.sub { d := 3, a := 1, b := 2, w32 := false }) (plain [(1, 0xfffffffffffffff9), (2, 3), (4, 8)]) 3 = some 0xfffffffffffffff6 ∧
    reg (.and { d := 3, a := 1, b := 2, w32 := false }) (plain [(1, 0xfffffffffffffff9), (2, 3), (4, 8)]) 3 = some 0x1 ∧
    reg (.or { d := 3, a := 1, b := 2, w32 := false }) (plain [(1, 0xfffffffffffffff9), (2, 3), (4, 8)]) 3 = some 0xfffffffffffffffb ∧
    reg (.xor { d := 3, a := 1, b := 2, w32 := false }) (plain [(1, 0xfffffffffffffff9), (2, 3), (4, 8)]) 3 = some 0xfffffffffffffffa ∧
    reg (.shl { d := 3, a := 1, b := 2, w32 := false }) (plain [(1, 0xfffffffffffffff9), (2, 3), (4, 8)]) 3 = some 0xffffffffffffffc8 ∧
    reg (.shr { d := 3, a := 1, b := 2, w32 := true }) (plain [(1, 0xfffffffffffffff9), (2, 3), (4, 8)]) 3 = some 0x1fffffff ∧
    reg (.shr { d := 3, a := 1, b := 2, w32 := false }) (plain [(1, 0xfffffffffffffff9), (2, 3), (4, 8)]) 3 = some 0x1fffffffffffffff ∧
    reg (.sra { d := 3, a := 1, b := 2, w32 := false }) (plain [(1, 0xfffffffffffffff9), (2, 3), (4, 8)]) 3 = some 0xffffffffffffffff ∧
    reg (.mul { d := 3, a := 1, b := 2, w32 := false }) (plain [(1, 0xfffffffffffffff9), (2, 3), (4, 8)]) 3 = some 0xffffffffffffffeb ∧
    reg (.mulh { d := 3, a := 1, b := 2, w32 := false }) (plain [(1, 0xfffffffffffffff9), (2, 3), (4, 8)]) 3 = some 0xffffffffffffffff ∧
    reg (.mulhu { d := 3, a := 1, b := 2, w32 := false }) (plain [(1, 0xfffffffffffffff9), (2, 3), (4, 8)]) 3 = some 0x2 ∧
    reg (.mulhu { d := 3, a := 1, b := 2, w32 := true }) (plain [(1, 0xfffffffffffffff9), (2, 3), (4, 8)]) 3 = some 0x2 := by decide +kernel

/-- R249: signed quotients truncate, and a zero divisor saturates. -/
theorem test_alu_division :
    reg (.div { d := 3, a := 1, b := 2, w32 := false }) (plain [(1, 0xfffffffffffffff9), (2, 3), (4, 8)]) 3 = some 0xfffffffffffffffe ∧
    reg (.divu { d := 3, a := 1, b := 2, w32 := false }) (plain [(1, 0xfffffffffffffff9), (2, 3), (4, 8)]) 3 = some 0x5555555555555553 ∧
    reg (.rem { d := 3, a := 1, b := 2, w32 := false }) (plain [(1, 0xfffffffffffffff9), (2, 3), (4, 8)]) 3 = some 0xffffffffffffffff ∧
    reg (.remu { d := 3, a := 1, b := 2, w32 := true }) (plain [(1, 0xfffffffffffffff9), (2, 3), (4, 8)]) 3 = some 0x0 ∧
    reg (.div { d := 3, a := 1, b := 0, w32 := false }) (plain [(1, 0xfffffffffffffff9), (2, 3), (4, 8)]) 3 = some 0x8000000000000000 ∧
    reg (.div { d := 3, a := 2, b := 0, w32 := false }) (plain [(1, 0xfffffffffffffff9), (2, 3), (4, 8)]) 3 = some 0x7fffffffffffffff ∧
    reg (.divu { d := 3, a := 2, b := 0, w32 := true }) (plain [(1, 0xfffffffffffffff9), (2, 3), (4, 8)]) 3 = some 0xffffffffffffffff ∧
    reg (.rem { d := 3, a := 1, b := 0, w32 := false }) (plain [(1, 0xfffffffffffffff9), (2, 3), (4, 8)]) 3 = some 0x0 ∧
    reg (.div { d := 3, a := 0, b := 0, w32 := true }) (plain [(1, 0xfffffffffffffff9), (2, 3), (4, 8)]) 3 = some 0x0 := by decide +kernel

/-- R249: orders signed and unsigned, and counts. -/
theorem test_alu_compares :
    reg (.min { d := 3, a := 1, b := 2, w32 := false }) (plain [(1, 0xfffffffffffffff9), (2, 3), (4, 8)]) 3 = some 0xfffffffffffffff9 ∧
    reg (.max { d := 3, a := 1, b := 2, w32 := false }) (plain [(1, 0xfffffffffffffff9), (2, 3), (4, 8)]) 3 = some 0x3 ∧
    reg (.minu { d := 3, a := 1, b := 2, w32 := false }) (plain [(1, 0xfffffffffffffff9), (2, 3), (4, 8)]) 3 = some 0x3 ∧
    reg (.maxu { d := 3, a := 1, b := 2, w32 := false }) (plain [(1, 0xfffffffffffffff9), (2, 3), (4, 8)]) 3 = some 0xfffffffffffffff9 ∧
    reg (.slt { d := 3, a := 1, b := 2, w32 := false }) (plain [(1, 0xfffffffffffffff9), (2, 3), (4, 8)]) 3 = some 0x1 ∧
    reg (.sltu { d := 3, a := 1, b := 2, w32 := false }) (plain [(1, 0xfffffffffffffff9), (2, 3), (4, 8)]) 3 = some 0x0 ∧
    reg (.seq { d := 3, a := 1, b := 2, w32 := false }) (plain [(1, 0xfffffffffffffff9), (2, 3), (4, 8)]) 3 = some 0x0 ∧
    reg (.seq { d := 3, a := 2, b := 2, w32 := false }) (plain [(1, 0xfffffffffffffff9), (2, 3), (4, 8)]) 3 = some 0x1 ∧
    reg (.clz { d := 3, a := 2, w32 := false }) (plain [(1, 0xfffffffffffffff9), (2, 3), (4, 8)]) 3 = some 0x3e ∧
    reg (.clz { d := 3, a := 2, w32 := true }) (plain [(1, 0xfffffffffffffff9), (2, 3), (4, 8)]) 3 = some 0x1e ∧
    reg (.ctz { d := 3, a := 4, w32 := false }) (plain [(1, 0xfffffffffffffff9), (2, 3), (4, 8)]) 3 = some 0x3 ∧
    reg (.ctz { d := 3, a := 0, w32 := true }) (plain [(1, 0xfffffffffffffff9), (2, 3), (4, 8)]) 3 = some 0x20 ∧
    reg (.popc { d := 3, a := 1, w32 := true }) (plain [(1, 0xfffffffffffffff9), (2, 3), (4, 8)]) 3 = some 0x1e := by decide +kernel

/-- R250, R251: sign-extended immediates, shifts, and the parts of a constant. -/
theorem test_immediates :
    reg (.addi { d := 3, a := 1, w32 := false, imm := 0xfffe }) (plain [(1, 0xfffffffffffffff9), (2, 3), (4, 8)]) 3 = some 0xfffffffffffffff7 ∧
    reg (.andi { d := 3, a := 1, w32 := false, imm := 0xfff8 }) (plain [(1, 0xfffffffffffffff9), (2, 3), (4, 8)]) 3 = some 0xfffffffffffffff8 ∧
    reg (.ori { d := 3, a := 1, w32 := false, imm := 0x6 }) (plain [(1, 0xfffffffffffffff9), (2, 3), (4, 8)]) 3 = some 0xffffffffffffffff ∧
    reg (.xori { d := 3, a := 1, w32 := false, imm := 0xffff }) (plain [(1, 0xfffffffffffffff9), (2, 3), (4, 8)]) 3 = some 0x6 ∧
    reg (.slti { d := 3, a := 1, w32 := false, imm := 0xfffa }) (plain [(1, 0xfffffffffffffff9), (2, 3), (4, 8)]) 3 = some 0x1 ∧
    reg (.sltui { d := 3, a := 1, w32 := false, imm := 0x3 }) (plain [(1, 0xfffffffffffffff9), (2, 3), (4, 8)]) 3 = some 0x0 ∧
    reg (.sltui { d := 3, a := 2, w32 := false, imm := 0xffff }) (plain [(1, 0xfffffffffffffff9), (2, 3), (4, 8)]) 3 = some 0x1 ∧
    reg (.shli { d := 3, a := 2, w32 := false, sh := 63 }) (plain [(1, 0xfffffffffffffff9), (2, 3), (4, 8)]) 3 = some 0x8000000000000000 ∧
    reg (.shri { d := 3, a := 1, w32 := false, sh := 60 }) (plain [(1, 0xfffffffffffffff9), (2, 3), (4, 8)]) 3 = some 0xf ∧
    reg (.srai { d := 3, a := 1, w32 := true, sh := 1 }) (plain [(1, 0xfffffffffffffff9), (2, 3), (4, 8)]) 3 = some 0xfffffffffffffffc ∧
    reg (.li { d := 3, imm := 0x800000000000 }) (plain [(1, 0xfffffffffffffff9), (2, 3), (4, 8)]) 3 = some 0xffff800000000000 ∧
    reg (.lih { d := 1, imm := 0x1234 }) (plain [(1, 0xfffffffffffffff9), (2, 3), (4, 8)]) 1 = some 0x1234fffffffffff9 ∧
    reg (.addi { d := 0, a := 1, w32 := false, imm := 1 }) (plain [(1, 0xfffffffffffffff9), (2, 3), (4, 8)]) 0 = some 0 := by decide +kernel

/-- x3 and FLAGS after an instruction. -/
noncomputable def fpu (i : Instr) (s : State) : Option (Nat × Nat) := out (exec i s) fun t => ((t.me.x 3).toNat, t.me.flags.toNat)

/-- R252: 1, -3, ∞, 0, 2^-23 and a NaN; NX is flag 0, UF 1, OF 2, DZ 3 and NV 4. -/
theorem test_fpu_arithmetic :
    fpu (.fadd { d := 3, a := 1, b := 2, rm := .frm }) (plain [(1, 0x3f800000), (2, 0xc0400000), (4, 0x7f800000), (5, 0), (6, 0x34000000), (7, 0x7fc12345)]) = some (0xc0000000, 0) ∧
    fpu (.fsub { d := 3, a := 1, b := 2, rm := .frm }) (plain [(1, 0x3f800000), (2, 0xc0400000), (4, 0x7f800000), (5, 0), (6, 0x34000000), (7, 0x7fc12345)]) = some (0x40800000, 0) ∧
    fpu (.fmul { d := 3, a := 2, b := 2, rm := .frm }) (plain [(1, 0x3f800000), (2, 0xc0400000), (4, 0x7f800000), (5, 0), (6, 0x34000000), (7, 0x7fc12345)]) = some (0x41100000, 0) ∧
    fpu (.fdiv { d := 3, a := 1, b := 2, rm := .frm }) (plain [(1, 0x3f800000), (2, 0xc0400000), (4, 0x7f800000), (5, 0), (6, 0x34000000), (7, 0x7fc12345)]) = some (0xbeaaaaab, 1) ∧
    fpu (.fdiv { d := 3, a := 1, b := 2, rm := .rtz }) (plain [(1, 0x3f800000), (2, 0xc0400000), (4, 0x7f800000), (5, 0), (6, 0x34000000), (7, 0x7fc12345)]) = some (0xbeaaaaaa, 1) ∧
    fpu (.fdiv { d := 3, a := 1, b := 5, rm := .frm }) (plain [(1, 0x3f800000), (2, 0xc0400000), (4, 0x7f800000), (5, 0), (6, 0x34000000), (7, 0x7fc12345)]) = some (0x7f800000, 8) ∧
    fpu (.fdiv { d := 3, a := 5, b := 5, rm := .frm }) (plain [(1, 0x3f800000), (2, 0xc0400000), (4, 0x7f800000), (5, 0), (6, 0x34000000), (7, 0x7fc12345)]) = some (0x7fc00000, 16) ∧
    fpu (.fsub { d := 3, a := 4, b := 4, rm := .frm }) (plain [(1, 0x3f800000), (2, 0xc0400000), (4, 0x7f800000), (5, 0), (6, 0x34000000), (7, 0x7fc12345)]) = some (0x7fc00000, 16) ∧
    fpu (.fadd { d := 3, a := 7, b := 1, rm := .frm }) (plain [(1, 0x3f800000), (2, 0xc0400000), (4, 0x7f800000), (5, 0), (6, 0x34000000), (7, 0x7fc12345)]) = some (0x7fc00000, 0) ∧
    fpu (.fsqrt { d := 3, a := 1, rm := .frm }) (plain [(1, 0x3f800000), (2, 0xc0400000), (4, 0x7f800000), (5, 0), (6, 0x34000000), (7, 0x7fc12345)]) = some (0x3f800000, 0) ∧
    fpu (.fsqrt { d := 3, a := 2, rm := .frm }) (plain [(1, 0x3f800000), (2, 0xc0400000), (4, 0x7f800000), (5, 0), (6, 0x34000000), (7, 0x7fc12345)]) = some (0x7fc00000, 16) := by decide +kernel

/-- R252: extremes, compares with a NaN, integers of 64 bits and classes. -/
theorem test_fpu_compares_and_conversions :
    fpu (.fmin { d := 3, a := 1, b := 2 }) (plain [(1, 0x3f800000), (2, 0xc0400000), (4, 0x7f800000), (5, 0), (6, 0x34000000), (7, 0x7fc12345)]) = some (0xc0400000, 0) ∧
    fpu (.fmax { d := 3, a := 1, b := 2 }) (plain [(1, 0x3f800000), (2, 0xc0400000), (4, 0x7f800000), (5, 0), (6, 0x34000000), (7, 0x7fc12345)]) = some (0x3f800000, 0) ∧
    fpu (.feq { d := 3, a := 1, b := 1 }) (plain [(1, 0x3f800000), (2, 0xc0400000), (4, 0x7f800000), (5, 0), (6, 0x34000000), (7, 0x7fc12345)]) = some (0x1, 0) ∧
    fpu (.flt { d := 3, a := 2, b := 1 }) (plain [(1, 0x3f800000), (2, 0xc0400000), (4, 0x7f800000), (5, 0), (6, 0x34000000), (7, 0x7fc12345)]) = some (0x1, 0) ∧
    fpu (.fle { d := 3, a := 1, b := 2 }) (plain [(1, 0x3f800000), (2, 0xc0400000), (4, 0x7f800000), (5, 0), (6, 0x34000000), (7, 0x7fc12345)]) = some (0x0, 0) ∧
    fpu (.fcvtif { d := 3, a := 6, rm := .frm }) (plain [(1, 0x3f800000), (2, 0xc0400000), (4, 0x7f800000), (5, 0), (6, 0x34000000), (7, 0x7fc12345)]) = some (0x4e500000, 0) ∧
    fpu (.fcvtfi { d := 3, a := 2, rm := .frm }) (plain [(1, 0x3f800000), (2, 0xc0400000), (4, 0x7f800000), (5, 0), (6, 0x34000000), (7, 0x7fc12345)]) = some (0xfffffffffffffffd, 0) ∧
    fpu (.fclass { d := 3, a := 2 }) (plain [(1, 0x3f800000), (2, 0xc0400000), (4, 0x7f800000), (5, 0), (6, 0x34000000), (7, 0x7fc12345)]) = some (2, 0) ∧
    fpu (.fclass { d := 3, a := 7 }) (plain [(1, 0x3f800000), (2, 0xc0400000), (4, 0x7f800000), (5, 0), (6, 0x34000000), (7, 0x7fc12345)]) = some (256, 0) ∧
    fpu (.fclass { d := 3, a := 5 }) (plain [(1, 0x3f800000), (2, 0xc0400000), (4, 0x7f800000), (5, 0), (6, 0x34000000), (7, 0x7fc12345)]) = some (16, 0) := by decide +kernel

/-- R253: a × b + c, a × b - c and -(a × b) + c. -/
theorem test_fpu_fused :
    fpu (.ffma { d := 3, a := 2, b := 2, c := 1, rm := .rne }) (plain [(1, 0x3f800000), (2, 0xc0400000), (4, 0x7f800000), (5, 0), (6, 0x34000000), (7, 0x7fc12345)]) = some (0x41200000, 0) ∧
    fpu (.ffms { d := 3, a := 2, b := 2, c := 1, rm := .rne }) (plain [(1, 0x3f800000), (2, 0xc0400000), (4, 0x7f800000), (5, 0), (6, 0x34000000), (7, 0x7fc12345)]) = some (0x41000000, 0) ∧
    fpu (.fnfma { d := 3, a := 2, b := 2, c := 1, rm := .rne }) (plain [(1, 0x3f800000), (2, 0xc0400000), (4, 0x7f800000), (5, 0), (6, 0x34000000), (7, 0x7fc12345)]) = some (0xc1000000, 0) := by decide +kernel

/-- The bytes of three table levels at 1000H, 2000H and 3000H, and of two lines with a NOP each at 80H and C0H: the words 0800H, 2003H,
3003H, 0090000000000019H and 0090000040000015H. -/
def tables : List Host.Cell :=
  [(0x81, 0x08), (0xC1, 0x08), (0x1000, 0x03), (0x1001, 0x20), (0x2000, 0x03), (0x2001, 0x30), (0x3000, 0x19), (0x3006, 0x90),
    (0x3008, 0x15), (0x300B, 0x40), (0x300E, 0x90)]

/-- Core 5 under tables that map the first GiB for fetches and the second for reads and writes; lines 2 and 3 hold a NOP each,
and the line that it executes has two slots. TVEC is slot 1 of line 3. -/
def paged (regs : List (Nat × Nat)) (f : Core → Core) : State :=
  { onCore regs fun k => f { k with ptroot := 0x1000, tvec := 0xC1, line := some { va := 64, asid := 0, bits := 2 * 2 ^ 11 } } with
    eager := true, mem := tables }

/-- The address 16 of the core pad, and its location. -/
def padVa : Nat := 0x01F0000000000010

def padAt : Nat := (padLoc 5 padVa).getD 0

/-- The paged core with 8 bytes at its pad address 16, which is in x1. -/
def padded (regs : List (Nat × Nat)) : State := (paged ((1, padVa) :: regs) id).setBytes padAt (leBytes 8 0xDEADBEEF1234FF80)

/-- Where the stream stands after an instruction. -/
noncomputable def goes (i : Instr) (s : State) : Option Nat := out (exec i s) fun t => t.me.ia.toNat

/-- CAUSE, EIA, EVA, EAUX and the address of the handler, where a trap was taken. -/
noncomputable def trap (i : Instr) (s : State) : Option (Nat × Nat × Nat × Nat × Nat) := out (exec i s) fun t =>
  (t.me.cause.toNat, t.me.eia.toNat, t.me.eva.toNat, t.me.eaux.toNat, t.me.ia.toNat)

/-- The eight bytes at the pad address after an instruction, once the stores of the core have performed. -/
noncomputable def left (i : Instr) (s : State) : Option Nat := out (exec i s) fun t => (t.flushSb 5).num padAt 8

/-- R254, R255: taken and not taken, and the link. -/
theorem test_branches :
    let s := paged [(1, 2 ^ 64 - 7), (2, 2 ^ 64 - 7), (3, 8), (6, 0x81)] id
    let b := fun (a b : Nat) => ({ a := BitVec.ofNat 5 a, b := BitVec.ofNat 5 b, delta := 1, slot := 1 } : BrF)
    goes (.beq (b 1 2)) s = some 0x81 ∧ goes (.beq (b 1 3)) s = some 0x42 ∧ goes (.bne (b 1 3)) s = some 0x81 ∧
    goes (.bne (b 1 2)) s = some 0x42 ∧ goes (.blt (b 1 3)) s = some 0x81 ∧ goes (.bge (b 1 3)) s = some 0x42 ∧
    goes (.bltu (b 1 3)) s = some 0x42 ∧ goes (.bgeu (b 1 3)) s = some 0x81 ∧
    goes (.jal { d := 5, delta := 1, slot := 1 }) s = some 0x81 ∧ reg (.jal { d := 5, delta := 1, slot := 1 }) s 5 = some 0x42 ∧
    goes (.jalr { d := 6, a := 6 }) s = some 0x81 ∧ reg (.jalr { d := 6, a := 6 }) s 6 = some 0x42 := by decide +kernel

/-- R16: a slot that the target's line does not have, and an address with bit 5 set. -/
theorem test_illegal_targets :
    trap (.jal { d := 5, delta := 1, slot := 2 }) (paged [] id) = some (3, 0x41, 0, 0x82, 0xC1) ∧
    trap (.jalr { d := 5, a := 6 }) (paged [(6, 0xA1)] id) = some (3, 0x41, 0, 0xA1, 0xC1) ∧
    out (exec (.jalr { d := 5, a := 6 }) (paged [(6, 0xA1)] id)) (fun t => t.me.task[5].toNat) = some 0 := by decide +kernel

/-- R204: bytes, halfwords and words of DEADBEEF1234FF80H, sign- and zero-extended. -/
theorem test_loads :
    let m := fun (o : Nat) => ({ d := 3, a := 1, off := BitVec.ofNat 16 o } : MemF)
    let s := padded []
    reg (.lb (m 0)) s 3 = some 0xFFFFFFFFFFFFFF80 ∧ reg (.lbu (m 0)) s 3 = some 0x80 ∧ reg (.lh (m 0)) s 3 = some 0xFFFFFFFFFFFFFF80 ∧
    reg (.lhu (m 0)) s 3 = some 0xFF80 ∧ reg (.lw (m 4)) s 3 = some 0xFFFFFFFFDEADBEEF ∧ reg (.lwu (m 4)) s 3 = some 0xDEADBEEF ∧
    reg (.ld (m 0)) s 3 = some 0xDEADBEEF1234FF80 ∧
    reg (.ldaW { d := 3, a := 1, scope := .device }) s 3 = some 0x1234FF80 ∧
    reg (.ldaD { d := 3, a := 1, scope := .core }) s 3 = some 0xDEADBEEF1234FF80 := by decide +kernel

/-- R204, R313: stores of the low bytes of x2. -/
theorem test_stores :
    let m := fun (o : Nat) => ({ d := 2, a := 1, off := BitVec.ofNat 16 o } : MemF)
    let s := padded [(2, 0x1122334455667788)]
    left (.sb (m 1)) s = some 0xDEADBEEF12348880 ∧ left (.sh (m 2)) s = some 0xDEADBEEF7788FF80 ∧
    left (.sw (m 4)) s = some 0x556677881234FF80 ∧ left (.sd (m 0)) s = some 0x1122334455667788 ∧
    left (.stlW { d := 2, a := 1, scope := .die }) s = some 0xDEADBEEF55667788 ∧
    left (.stlD { d := 2, a := 1, scope := .system }) s = some 0x1122334455667788 ∧
    out (exec (.sd (m 0)) s) (fun t => t.num padAt 8) = some 0xDEADBEEF1234FF80 := by decide +kernel

/-- R204, R367: misaligned accesses, with the write bit in EAUX. -/
theorem test_misaligned :
    trap (.lw { d := 3, a := 1, off := 2 }) (padded []) = some (4, 0x41, padVa + 2, 0, 0xC1) ∧
    trap (.sd { d := 3, a := 1, off := 4 }) (padded []) = some (4, 0x41, padVa + 4, 0x800, 0xC1) := by decide +kernel

/-- R321: the old word in x3, sign-extended but for AMOFADD, and the new one in memory. -/
theorem test_amo_words :
    let x : AmoF := { d := 3, a := 1, b := 2, acq := true, rel := true, dw := false, scope := .device }
    let s := (padded [(2, 0xFFFFFFFFFFFFFFF0)]).setBytes padAt (leBytes 4 0x80000010)
    let is := fun (i : Instr) (v : Nat) => reg i s 3 = some 0xFFFFFFFF80000010 ∧ left i s = some (0xDEADBEEF00000000 + v)
    is (.amoadd x) 0x80000000 ∧ is (.amoswap x) 0xFFFFFFF0 ∧ is (.amoand x) 0x80000010 ∧ is (.amoor x) 0xFFFFFFF0 ∧
    is (.amoxor x) 0x7FFFFFE0 ∧ is (.amomin x) 0x80000010 ∧ is (.amomax x) 0xFFFFFFF0 ∧ is (.amominu x) 0x80000010 ∧
    is (.amomaxu x) 0xFFFFFFF0 := by decide +kernel

/-- R321: FP32 sums of one word and of two, and the compare-and-swap. -/
theorem test_amo_sums_and_swaps :
    let s := (padded [(2, 0x4000000040000000), (4, 0x3F80000040400000)]).setBytes padAt (leBytes 8 0x3F80000040400000)
    let x : AmoF := { d := 3, a := 1, b := 2, acq := false, rel := false, dw := false, scope := .core }
    reg (.amofadd x) s 3 = some 0x40400000 ∧ left (.amofadd x) s = some 0x3F80000040A00000 ∧
    left (.amofadd { x with dw := true }) s = some 0x4040000040A00000 ∧
    left (.amocas { d := 3, a := 1, b := 2, c := 4, acq := false, rel := false, dw := true, scope := .core }) s = some 0x4000000040000000 ∧
    left (.amocas { d := 3, a := 1, b := 2, c := 2, acq := false, rel := false, dw := true, scope := .core }) s = some 0x3F80000040400000 := by
  decide +kernel

/-- R315, R105, R106, R314: fences and cache maintenance go on, and a fence has the stores performed. -/
theorem test_fences_and_caches :
    let s := padded [(2, 5)]
    let after := fun (i : Instr) => out (exec (.sd { d := 2, a := 1, off := 0 }) s) fun t => out (exec i t) fun u => (u.num padAt 8, u.me.sb.length)
    after (.fence { acq := true, rel := true, scope := .device }) = some (some (5, 0)) ∧ after .fenceSv = some (some (0xDEADBEEF1234FF80, 1)) ∧
    after .fenceVs = some (some (0xDEADBEEF1234FF80, 1)) ∧
    goes (.cflush { a := 1, off := 0 }) s = some 0x42 ∧ goes (.cinv { a := 1, off := 0 }) s = some 0x42 ∧
    goes (.cpref { a := 2, off := 0 }) s = some 0x42 ∧
    trap (.cdrop { a := 1, off := 0 }) s = some (1, 0x41, 0, 0xA * 1 + 0 * 2 ^ 16, 0xC1) := by decide +kernel

/-- R324: WAITEQ and WAITNE where the first read meets the condition, and where it does not. -/
theorem test_waits :
    let s := padded [(2, 0xDEADBEEF1234FF80), (4, 9)]
    reg (.waiteq { d := 4, a := 1, b := 2, tmo := 0 }) s 4 = some 0 ∧ reg (.waitne { d := 4, a := 1, b := 3, tmo := 0 }) s 4 = some 0 ∧
    out (exec (.waitne { d := 4, a := 1, b := 2, tmo := 3 }) s) (fun t => (t.me.ia, (t.me.monitor.map Monitor.deadline), (t.die 0).monitors)) =
      some (0x41, some (some (s.cycle + 3072)), 1) := by decide +kernel

/-- R241, R243: the old value in x3, and what the register reads then; task mode may not write TVEC and PTROOT. -/
theorem test_csrs :
    let s := paged [(2, 0xFF)] fun k => { k with flags := 5, frm := 1 }
    let f := fun (i : Instr) (c : Csr) => out (exec i s) fun t => ((t.me.x 3).toNat, (t.csrValue c).toNat)
    f (.csrr { d := 3, csr := .flags }) .flags = some (5, 5) ∧ f (.csrw { d := 3, a := 2, csr := .flags }) .flags = some (5, 0x3F) ∧
    f (.csrs { d := 3, a := 2, csr := .frm }) .frm = some (1, 3) ∧ f (.csrc { d := 3, a := 2, csr := .flags }) .flags = some (5, 0) ∧
    f (.csrw { d := 3, a := 2, csr := .tvec }) .tvec = some (0xC1, 0xC1) ∧
    f (.cpwpWrite { d := 3, a := 2, ch := 1 }) .cpwp1 = some (0, 0) ∧
    trap (.csrw { d := 3, a := 2, csr := .ptroot }) s = some (1, 0x41, 0, 10, 0xC1) := by decide +kernel

/-- The paged core in supervisor mode, with a return address and a mode to return to. -/
def super (regs : List (Nat × Nat)) (pm loaded : Bool) : State :=
  let s := paged [] fun k => { k with
    sstat := { k.sstat with mode := true, pm := pm, loaded := loaded, pie := true }, eia := 0x81,
    sup := regs.foldl (fun t p => t.set! p.1 (BitVec.ofNat 64 p.2)) k.sup }
  s

/-- R364 to R369, R378: TRAP saves the next address, the code and the mode. -/
theorem test_traps :
    trap (.trap { code := 0x21 }) (paged [] id) = some (28, 0x42, 0, 0x21, 0xC1) ∧
    out (exec (.trap { code := 0x21 }) (paged [] fun k => { k with sstat := { k.sstat with ie := true } }))
      (fun t => (t.me.sstat.mode, t.me.sstat.pm, t.me.sstat.pie, t.me.sstat.ie)) = some (true, false, true, false) := by decide +kernel

/-- R379: ERET and RESUME go back to EIA with IE from PIE, or leave the core idle where no context is loaded. -/
theorem test_returns :
    out (exec .eret (super [] true true)) (fun t => (t.me.ia, t.me.sstat.mode, t.me.sstat.ie)) = some (0x81, true, true) ∧
    out (exec .eret (super [] false true)) (fun t => (t.me.ia, t.me.sstat.mode)) = some (0x81, false) ∧
    out (exec (.resume { a := 1 }) (super [] false true)) (fun t => (t.me.ia, t.me.sstat.mode)) = some (0x81, false) ∧
    out (exec .eret (super [] false false)) (fun t => t.me.act) = some .idle := by decide +kernel

/-- R23, R379: returns and WFI in task mode. -/
theorem test_privilege :
    trap .eret (paged [] id) = some (28, 0x41, 0, 0x10001, 0xC1) ∧ trap .wfi (paged [] id) = some (1, 0x41, 0, 10, 0xC1) := by decide +kernel

/-- R103, R380: TLBINV and WFI in supervisor mode. -/
theorem test_supervisor :
    let s := super [(1, 0), (2, 2 * 2 ^ 16)] true true
    let p : Page := { va := 0, size := 2 ^ 30, base := 0, leaf := 0x19, level := 2, pdb := none, spans := [] }
    let t := s.updDie 0 fun d => { d with tlb := [{ asid := 0, page := p }] }
    out (exec (.tlbinvAll { a := 1, b := 2 }) t) (fun u => ((u.die 0).tlb.length, u.me.ia)) = some (0, 0x42) ∧
    out (exec (.tlbinvAddress { a := 1, b := 3 }) t) (fun u => (u.die 0).tlb.length) = some 0 ∧
    out (exec (.tlbinvAsid { a := 1, b := 2 }) t) (fun u => (u.die 0).tlb.length) = some 0 ∧
    goes .wfi s = some 0x41 ∧ goes .wfi (s.updMe fun k => { k with mgmt := true }) = some 0x42 ∧ goes .nop s = some 0x42 := by decide +kernel

/-- Row r of a vector register with the given elements. -/
def putRow (d r : Nat) (ty : Ty) (vs : List Nat) (k : Core) : Core :=
  k.setRow k.wide (BitVec.ofNat 5 d) r ((k.row k.wide (BitVec.ofNat 5 d) r).write ty (vs.zipIdx.map fun q => (q.2, q.1)) (plainTag ty) (plainExp ty))

/-- The first n elements of row r of vD after an instruction, and FLAGS. -/
noncomputable def vec (i : Instr) (s : State) (d r : Nat) (ty : Ty) (n : Nat) : Option (List Nat × Nat) :=
  out (exec i s) fun t => ((List.range n).map fun c => (t.me.row t.me.wide (BitVec.ofNat 5 d) r).elem ty c, t.me.flags.toNat)

/-- The first n bits of row r of a mask register after an instruction. -/
noncomputable def bits (i : Instr) (s : State) (m : MaskReg) (r n : Nat) : Option (List Bool) :=
  out (exec i s) fun t => (List.range n).map fun c => t.me.maskBit m r c

/-- One row of 4 I8 elements in v1 and v2, an old one in v3, and k1 with columns 0 and 2. -/
def ints : State := shaped 1 4 [(2, 3)] fun k =>
  { putRow 3 0 .i8 [9, 9, 9, 9] (putRow 2 0 .i8 [0xFF, 1, 3, 2] (putRow 1 0 .i8 [0x80, 0x7F, 5, 0xFE] k)) with k1 := 5 }

/-- R265: I8, wrapped and saturated, signed and unsigned; k1 leaves columns 1 and 3. -/
theorem test_vector_integers :
    vec (.vadd { d := 3, a := 1, b := 2, k := 0, ty := .i8, sat := false }) ints 3 0 .i8 4 = some ([127, 128, 8, 0], 0) ∧
    vec (.vadd { d := 3, a := 1, b := 2, k := 0, ty := .i8, sat := true }) ints 3 0 .i8 4 = some ([128, 127, 8, 0], 32) ∧
    vec (.vsub { d := 3, a := 1, b := 2, k := 0, ty := .i8, sat := false }) ints 3 0 .i8 4 = some ([129, 126, 2, 252], 0) ∧
    vec (.vmul { d := 3, a := 1, b := 2, k := 0, ty := .i8, sat := false }) ints 3 0 .i8 4 = some ([128, 127, 15, 252], 0) ∧
    vec (.vmulh { d := 3, a := 1, b := 2, k := 0, ty := .i8, sat := false }) ints 3 0 .i8 4 = some ([0, 0, 0, 255], 0) ∧
    vec (.vand { d := 3, a := 1, b := 2, k := 0, ty := .i8, sat := false }) ints 3 0 .i8 4 = some ([128, 1, 1, 2], 0) ∧
    vec (.vor { d := 3, a := 1, b := 2, k := 0, ty := .i8, sat := false }) ints 3 0 .i8 4 = some ([255, 127, 7, 254], 0) ∧
    vec (.vxor { d := 3, a := 1, b := 2, k := 0, ty := .i8, sat := false }) ints 3 0 .i8 4 = some ([127, 126, 6, 252], 0) := by decide +kernel

/-- R265: I8, wrapped and saturated, signed and unsigned; k1 leaves columns 1 and 3. -/
theorem test_vector_integers_more :
    vec (.vshl { d := 3, a := 1, b := 2, k := 0, ty := .i8, sat := false }) ints 3 0 .i8 4 = some ([0, 254, 40, 248], 0) ∧
    vec (.vshr { d := 3, a := 1, b := 2, k := 0, ty := .i8, sat := false }) ints 3 0 .i8 4 = some ([1, 63, 0, 63], 0) ∧
    vec (.vsra { d := 3, a := 1, b := 2, k := 0, ty := .i8, sat := false }) ints 3 0 .i8 4 = some ([255, 63, 0, 255], 0) ∧
    vec (.vmin { d := 3, a := 1, b := 2, k := 0, ty := .i8, sat := false }) ints 3 0 .i8 4 = some ([128, 1, 3, 254], 0) ∧
    vec (.vmax { d := 3, a := 1, b := 2, k := 0, ty := .i8, sat := false }) ints 3 0 .i8 4 = some ([255, 127, 5, 2], 0) ∧
    vec (.vmax { d := 3, a := 1, b := 2, k := 0, ty := .n8, sat := false }) ints 3 0 .i8 4 = some ([255, 127, 5, 254], 0) ∧
    vec (.vadd { d := 3, a := 1, b := 2, k := 1, ty := .i8, sat := false }) ints 3 0 .i8 4 = some ([127, 9, 8, 9], 0) ∧
    vec (.vsel { d := 3, a := 1, b := 2, k := 1, ty := .i8, sat := false }) ints 3 0 .i8 4 = some ([255, 127, 3, 254], 0) ∧
    vec (.vselScalar { d := 3, a := 1, b := 2, k := 1, ty := .i8, sat := false }) ints 3 0 .i8 4 = some ([3, 127, 3, 254], 0) := by decide +kernel

/-- R264, R265: the scalar 3 as second source. -/
theorem test_vector_integer_scalars :
    vec (.vaddScalar { d := 3, a := 1, b := 2, k := 0, ty := .i8, sat := false }) ints 3 0 .i8 4 = some ([131, 130, 8, 1], 0) ∧
    vec (.vsubScalar { d := 3, a := 1, b := 2, k := 0, ty := .i8, sat := false }) ints 3 0 .i8 4 = some ([125, 124, 2, 251], 0) ∧
    vec (.vmulScalar { d := 3, a := 1, b := 2, k := 0, ty := .i8, sat := false }) ints 3 0 .i8 4 = some ([128, 125, 15, 250], 0) ∧
    vec (.vmulhScalar { d := 3, a := 1, b := 2, k := 0, ty := .i8, sat := false }) ints 3 0 .i8 4 = some ([254, 1, 0, 255], 0) ∧
    vec (.vandScalar { d := 3, a := 1, b := 2, k := 0, ty := .i8, sat := false }) ints 3 0 .i8 4 = some ([0, 3, 1, 2], 0) ∧
    vec (.vorScalar { d := 3, a := 1, b := 2, k := 0, ty := .i8, sat := false }) ints 3 0 .i8 4 = some ([131, 127, 7, 255], 0) := by decide +kernel

/-- R264, R265: the scalar 3 as second source. -/
theorem test_vector_integer_scalars_more :
    vec (.vxorScalar { d := 3, a := 1, b := 2, k := 0, ty := .i8, sat := false }) ints 3 0 .i8 4 = some ([131, 124, 6, 253], 0) ∧
    vec (.vshlScalar { d := 3, a := 1, b := 2, k := 0, ty := .i8, sat := false }) ints 3 0 .i8 4 = some ([0, 248, 40, 240], 0) ∧
    vec (.vshrScalar { d := 3, a := 1, b := 2, k := 0, ty := .i8, sat := false }) ints 3 0 .i8 4 = some ([16, 15, 0, 31], 0) ∧
    vec (.vsraScalar { d := 3, a := 1, b := 2, k := 0, ty := .i8, sat := false }) ints 3 0 .i8 4 = some ([240, 15, 0, 255], 0) ∧
    vec (.vminScalar { d := 3, a := 1, b := 2, k := 0, ty := .i8, sat := false }) ints 3 0 .i8 4 = some ([128, 3, 3, 254], 0) ∧
    vec (.vmaxScalar { d := 3, a := 1, b := 2, k := 0, ty := .i8, sat := false }) ints 3 0 .i8 4 = some ([3, 127, 5, 3], 0) := by decide +kernel

/-- R265: absolute values and negations of -128, 127, 5 and -2. -/
theorem test_vector_integer_unaries :
    vec (.vabs { d := 3, a := 1, k := 0, ty := .i8, sat := false }) ints 3 0 .i8 4 = some ([128, 127, 5, 2], 0) ∧
    vec (.vabs { d := 3, a := 1, k := 0, ty := .i8, sat := true }) ints 3 0 .i8 4 = some ([127, 127, 5, 2], 32) ∧
    vec (.vneg { d := 3, a := 1, k := 0, ty := .i8, sat := false }) ints 3 0 .i8 4 = some ([128, 129, 251, 2], 0) ∧
    vec (.vnegScalar { d := 3, a := 1, k := 0, ty := .i8, sat := false }) ints 3 0 .i8 4 = some ([128, 129, 251, 2], 0) ∧
    vec (.vabsScalar { d := 3, a := 1, k := 0, ty := .i8, sat := false }) ints 3 0 .i8 4 = some ([128, 127, 5, 2], 0) ∧
    vec (.viota { d := 3, k := 0, ty := .i8, sat := false }) ints 3 0 .i8 4 = some ([0, 1, 2, 3], 0) ∧
    vec (.viotaScalar { d := 3, b := 2, k := 0, ty := .i8, sat := false }) ints 3 0 .i8 4 = some ([3, 4, 5, 6], 0) := by decide +kernel

/-- R265, R266: bits of k2. -/
theorem test_vector_integer_compares :
    bits (.vcmpeq { d := 2, a := 1, b := 2, k := 0, ty := .i8, sat := false }) ints 2 0 4 = some [false, false, false, false] ∧
    bits (.vcmplt { d := 2, a := 1, b := 2, k := 0, ty := .i8, sat := false }) ints 2 0 4 = some [true, false, false, true] ∧
    bits (.vcmple { d := 2, a := 1, b := 2, k := 0, ty := .i8, sat := false }) ints 2 0 4 = some [true, false, false, true] ∧
    bits (.vcmplt { d := 2, a := 1, b := 2, k := 0, ty := .n8, sat := false }) ints 2 0 4 = some [true, false, false, false] ∧
    bits (.vcmpeqScalar { d := 2, a := 1, b := 2, k := 0, ty := .i8, sat := false }) ints 2 0 4 = some [false, false, false, false] ∧
    bits (.vcmpltScalar { d := 2, a := 1, b := 2, k := 0, ty := .i8, sat := false }) ints 2 0 4 = some [true, false, false, true] ∧
    bits (.vcmpleScalar { d := 2, a := 1, b := 2, k := 0, ty := .i8, sat := false }) ints 2 0 4 = some [true, false, false, true] := by decide +kernel

/-- One row of 4 FP32 elements in v1, v2 and v4. -/
def floats : State := shaped 1 4 [(2, 0x40000000)] fun k =>
  putRow 4 0 .fp32 [0x3f800000, 0x3f800000, 0x3f800000, 0x3f800000] (putRow 2 0 .fp32 [0x40000000, 0xc0400000, 0x3f000000, 0x3f800000] (putRow 1 0 .fp32 [0x3f800000, 0xc0400000, 0x3e800000, 0x7f800000] k))

/-- R267: FP32, with the vector and with the scalar 2 as second source. -/
theorem test_vector_floats :
    vec (.vfadd { d := 3, a := 1, b := 2, k := 0, ty := .fp32, rm := .rne, sat := false }) floats 3 0 .fp32 4 = some ([0x40400000, 0xc0c00000, 0x3f400000, 0x7f800000], 0) ∧
    vec (.vfsub { d := 3, a := 1, b := 2, k := 0, ty := .fp32, rm := .rne, sat := false }) floats 3 0 .fp32 4 = some ([0xbf800000, 0x0, 0xbe800000, 0x7f800000], 0) ∧
    vec (.vfmul { d := 3, a := 1, b := 2, k := 0, ty := .fp32, rm := .rne, sat := false }) floats 3 0 .fp32 4 = some ([0x40000000, 0x41100000, 0x3e000000, 0x7f800000], 0) ∧
    vec (.vfdiv { d := 3, a := 1, b := 2, k := 0, ty := .fp32, rm := .rne, sat := false }) floats 3 0 .fp32 4 = some ([0x3f000000, 0x3f800000, 0x3f000000, 0x7f800000], 0) ∧
    vec (.vfmin { d := 3, a := 1, b := 2, k := 0, ty := .fp32, rm := .rne, sat := false }) floats 3 0 .fp32 4 = some ([0x3f800000, 0xc0400000, 0x3e800000, 0x3f800000], 0) ∧
    vec (.vfmax { d := 3, a := 1, b := 2, k := 0, ty := .fp32, rm := .rne, sat := false }) floats 3 0 .fp32 4 = some ([0x40000000, 0xc0400000, 0x3f000000, 0x7f800000], 0) := by decide +kernel

/-- R267: FP32, with the vector and with the scalar 2 as second source. -/
theorem test_vector_floats_more :
    vec (.vfaddScalar { d := 3, a := 1, b := 2, k := 0, ty := .fp32, rm := .rne, sat := false }) floats 3 0 .fp32 4 = some ([0x40400000, 0xbf800000, 0x40100000, 0x7f800000], 0) ∧
    vec (.vfsubScalar { d := 3, a := 1, b := 2, k := 0, ty := .fp32, rm := .rne, sat := false }) floats 3 0 .fp32 4 = some ([0xbf800000, 0xc0a00000, 0xbfe00000, 0x7f800000], 0) ∧
    vec (.vfmulScalar { d := 3, a := 1, b := 2, k := 0, ty := .fp32, rm := .rne, sat := false }) floats 3 0 .fp32 4 = some ([0x40000000, 0xc0c00000, 0x3f000000, 0x7f800000], 0) ∧
    vec (.vfdivScalar { d := 3, a := 1, b := 2, k := 0, ty := .fp32, rm := .rne, sat := false }) floats 3 0 .fp32 4 = some ([0x3f000000, 0xbfc00000, 0x3e000000, 0x7f800000], 0) ∧
    vec (.vfminScalar { d := 3, a := 1, b := 2, k := 0, ty := .fp32, rm := .rne, sat := false }) floats 3 0 .fp32 4 = some ([0x3f800000, 0xc0400000, 0x3e800000, 0x40000000], 0) ∧
    vec (.vfmaxScalar { d := 3, a := 1, b := 2, k := 0, ty := .fp32, rm := .rne, sat := false }) floats 3 0 .fp32 4 = some ([0x40000000, 0x40000000, 0x40000000, 0x7f800000], 0) := by decide +kernel

/-- R267, R268: of 1, -3, 0.25 and ∞. -/
theorem test_vector_float_unaries :
    vec (.vfsqrt { d := 3, a := 1, k := 0, ty := .fp32, rm := .frm, sat := false }) floats 3 0 .fp32 4 = some ([0x3f800000, 0x7fc00000, 0x3f000000, 0x7f800000], 16) ∧
    vec (.vfsqrtScalar { d := 3, a := 1, k := 0, ty := .fp32, rm := .frm, sat := false }) floats 3 0 .fp32 4 = some ([0x3f800000, 0x7fc00000, 0x3f000000, 0x7f800000], 16) ∧
    vec (.vfabs { d := 3, a := 1, k := 0, ty := .fp32, rm := .frm, sat := false }) floats 3 0 .fp32 4 = some ([0x3f800000, 0x40400000, 0x3e800000, 0x7f800000], 0) ∧
    vec (.vfabsScalar { d := 3, a := 1, k := 0, ty := .fp32, rm := .frm, sat := false }) floats 3 0 .fp32 4 = some ([0x3f800000, 0x40400000, 0x3e800000, 0x7f800000], 0) ∧
    vec (.vfneg { d := 3, a := 1, k := 0, ty := .fp32, rm := .frm, sat := false }) floats 3 0 .fp32 4 = some ([0xbf800000, 0x40400000, 0xbe800000, 0xff800000], 0) ∧
    vec (.vfnegScalar { d := 3, a := 1, k := 0, ty := .fp32, rm := .frm, sat := false }) floats 3 0 .fp32 4 = some ([0xbf800000, 0x40400000, 0xbe800000, 0xff800000], 0) ∧
    vec (.vfrcp { d := 3, a := 1, k := 0, ty := .fp32, rm := .frm, sat := false }) floats 3 0 .fp32 4 = some ([0x3f800000, 0xbeaaaaab, 0x40800000, 0x0], 1) := by decide +kernel

/-- R267, R268: of 1, -3, 0.25 and ∞. -/
theorem test_vector_float_unaries_more :
    vec (.vfrcpScalar { d := 3, a := 1, k := 0, ty := .fp32, rm := .frm, sat := false }) floats 3 0 .fp32 4 = some ([0x3f800000, 0xbeaaaaab, 0x40800000, 0x0], 1) ∧
    vec (.vfrsq { d := 3, a := 1, k := 0, ty := .fp32, rm := .frm, sat := false }) floats 3 0 .fp32 4 = some ([0x3f800000, 0x7fc00000, 0x40000000, 0x0], 16) ∧
    vec (.vfrsqScalar { d := 3, a := 1, k := 0, ty := .fp32, rm := .frm, sat := false }) floats 3 0 .fp32 4 = some ([0x3f800000, 0x7fc00000, 0x40000000, 0x0], 16) ∧
    vec (.vfexp2 { d := 3, a := 1, k := 0, ty := .fp32, rm := .frm, sat := false }) floats 3 0 .fp32 4 = some ([0x40000000, 0x3e000000, 0x3f9837f0, 0x7f800000], 1) ∧
    vec (.vfexp2Scalar { d := 3, a := 1, k := 0, ty := .fp32, rm := .frm, sat := false }) floats 3 0 .fp32 4 = some ([0x40000000, 0x3e000000, 0x3f9837f0, 0x7f800000], 1) ∧
    vec (.vflog2 { d := 3, a := 1, k := 0, ty := .fp32, rm := .frm, sat := false }) floats 3 0 .fp32 4 = some ([0x0, 0x7fc00000, 0xc0000000, 0x7f800000], 16) ∧
    vec (.vflog2Scalar { d := 3, a := 1, k := 0, ty := .fp32, rm := .frm, sat := false }) floats 3 0 .fp32 4 = some ([0x0, 0x7fc00000, 0xc0000000, 0x7f800000], 16) := by decide +kernel

/-- R267: bits of k2. -/
theorem test_vector_float_compares :
    bits (.vfcmpeq { d := 2, a := 1, b := 2, k := 0, ty := .fp32, rm := .frm, sat := false }) floats 2 0 4 = some [false, true, false, false] ∧
    bits (.vfcmplt { d := 2, a := 1, b := 2, k := 0, ty := .fp32, rm := .frm, sat := false }) floats 2 0 4 = some [true, false, true, false] ∧
    bits (.vfcmple { d := 2, a := 1, b := 2, k := 0, ty := .fp32, rm := .frm, sat := false }) floats 2 0 4 = some [true, true, true, false] ∧
    bits (.vfcmpeqScalar { d := 2, a := 1, b := 2, k := 0, ty := .fp32, rm := .frm, sat := false }) floats 2 0 4 = some [false, false, false, false] ∧
    bits (.vfcmpltScalar { d := 2, a := 1, b := 2, k := 0, ty := .fp32, rm := .frm, sat := false }) floats 2 0 4 = some [true, true, true, false] ∧
    bits (.vfcmpleScalar { d := 2, a := 1, b := 2, k := 0, ty := .fp32, rm := .frm, sat := false }) floats 2 0 4 = some [true, true, true, false] := by decide +kernel

/-- R269: a × b + c, a × b - c and -(a × b) + c. -/
theorem test_vector_fused :
    vec (.vfma { d := 3, a := 1, b := 2, c := 4, k := 0, ty := .fp32, rm := .frm, sat := false }) floats 3 0 .fp32 3 = some ([0x40400000, 0x41200000, 0x3f900000], 0) ∧
    vec (.vfms { d := 3, a := 1, b := 2, c := 4, k := 0, ty := .fp32, rm := .frm, sat := false }) floats 3 0 .fp32 3 = some ([0x3f800000, 0x41000000, 0xbf600000], 0) ∧
    vec (.vfnma { d := 3, a := 1, b := 2, c := 4, k := 0, ty := .fp32, rm := .frm, sat := false }) floats 3 0 .fp32 3 = some ([0xbf800000, 0xc1000000, 0x3f600000], 0) := by decide +kernel

/-- R270 to R272: row form, and column form of one row. -/
theorem test_reductions :
    vec (.vredsum { d := 3, a := 1, k := 0, ty := .fp32, rm := .frm, sat := false, col := false }) floats 3 0 .fp32 1 = some ([0x7f800000], 0) ∧
    vec (.vredmax { d := 3, a := 1, k := 0, ty := .fp32, sat := false, col := false }) floats 3 0 .fp32 1 = some ([0x7f800000], 0) ∧
    vec (.vredmin { d := 3, a := 1, k := 0, ty := .fp32, sat := false, col := false }) floats 3 0 .fp32 1 = some ([0xc0400000], 0) ∧
    vec (.vargmax { d := 3, a := 1, k := 0, ty := .fp32, sat := false, col := false }) floats 3 0 .n32 1 = some ([3], 0) ∧
    vec (.vargmin { d := 3, a := 1, k := 0, ty := .fp32, sat := false, col := false }) floats 3 0 .n32 1 = some ([1], 0) ∧
    vec (.vredsum { d := 3, a := 1, k := 0, ty := .i8, rm := .frm, sat := false, col := false }) ints 3 0 .i8 1 = some ([2], 0) ∧
    vec (.vredand { d := 3, a := 1, k := 0, ty := .i8, sat := false, col := false }) ints 3 0 .i8 1 = some ([0], 0) ∧
    vec (.vredor { d := 3, a := 1, k := 0, ty := .i8, sat := false, col := false }) ints 3 0 .i8 1 = some ([255], 0) ∧
    vec (.vredmax { d := 3, a := 1, k := 0, ty := .i8, sat := false, col := true }) ints 3 0 .i8 4 = some ([128, 127, 5, 254], 0) := by decide +kernel

/-- R273, R274: k1 holds columns 0 and 2, x2 is 3, v2 holds the indices 255, 1, 3 and 2. -/
theorem test_permutations :
    vec (.vcompress { d := 3, a := 1, k := 1, ty := .i8 }) ints 3 0 .i8 4 = some ([128, 5, 9, 9], 0) ∧
    vec (.vexpand { d := 3, a := 1, k := 1, ty := .i8 }) ints 3 0 .i8 4 = some ([128, 9, 127, 9], 0) ∧
    vec (.vslideup { d := 3, a := 1, b := 2, k := 0, ty := .i8 }) ints 3 0 .i8 4 = some ([9, 9, 9, 128], 0) ∧
    vec (.vslidedn { d := 3, a := 1, b := 2, k := 0, ty := .i8 }) ints 3 0 .i8 4 = some ([254, 0, 0, 0], 0) ∧
    vec (.vpermc { d := 3, a := 1, c := 2, k := 0, ty := .i8 }) ints 3 0 .i8 4 = some ([0, 127, 254, 5], 0) ∧
    vec (.vbcast { d := 3, a := 1, b := 2, k := 0, ty := .i8 }) ints 3 0 .i8 4 = some ([0, 0, 0, 0], 0) ∧
    vec (.vtrans { d := 3, a := 1, k := 0, ty := .i8 }) (ints.updMe fun k => { k with nc := 1 }) 3 0 .i8 2 = some ([128, 9], 0) := by decide +kernel

/-- R275 to R277: a quarter turn, and the hash of two words. -/
theorem test_special_functions :
    vec (.vsincos { d := 3, a := 1, b := 4, k := 0, ty := .fp32, rm := .rne }) (shaped 1 2 [] (putRow 1 0 .n32 [0x40000000, 0x80000000])) 3 0 .fp32 2 = some ([0, 0xBF800000], 0) ∧
    vec (.vsincos { d := 3, a := 1, b := 4, k := 0, ty := .fp32, rm := .rne }) (shaped 1 2 [] (putRow 1 0 .n32 [0x40000000, 0x80000000])) 4 0 .fp32 2 = some ([0x3F800000, 0], 0) ∧
    vec (.vhash { d := 3, a := 1, b := 2, k := 0, ty := .n32 }) (shaped 1 1 [] fun k => putRow 2 0 .n32 [7] (putRow 1 0 .n32 [5] k)) 3 0 .n32 1 = some ([447487635], 0) ∧
    (vec (.vgumbel { d := 3, a := 1, k := 0, ty := .fp32 }) (shaped 1 1 [] (putRow 1 0 .n32 [0x80000000])) 3 0 .fp32 1).isSome = true := by decide +kernel

/-- R257, R258: lengths are capped by the shape and the type; VSHAPE caps NR. -/
theorem test_lengths :
    reg (.setlen { d := 3, a := 1, b := 2, ty := .fp32 }) (shaped 9 9 [(1, 100), (2, 5)] id) 3 = some 0x500000040 ∧
    reg (.setlen { d := 3, a := 1, b := 2, ty := .fp32 }) (shaped 9 9 [(1, 2), (2, 500)] id) 3 = some 0x4000000002 ∧
    reg (.setlenf { d := 3 }) (shaped 9 8 [] fun k => { k with ffnr := 4 }) 3 = some 0x800000004 ∧
    out (exec (.vshape { wide := true }) (shaped 9 8 [] id)) (fun t => (t.me.wide, t.me.nr.toNat)) = some (true, 9) := by decide +kernel

/-- R259 to R261. -/
theorem test_moves_and_masks :
    reg (.vmovx { d := 3, a := 1, b := 4, ty := .i8 }) (ints.updMe fun k => k.setX 4 0x300000000) 3 = some 0xFFFFFFFFFFFFFFFE ∧
    vec (.vmovv { d := 3, a := 2, b := 4, ty := .i8 }) (ints.updMe fun k => k.setX 4 0x200000000) 3 0 .i8 4 = some ([9, 9, 3, 9], 0) ∧
    bits (.kand { d := 2, a := 1, b := 0 }) ints 2 0 4 = some [true, false, true, false] ∧
    bits (.kor { d := 2, a := 1, b := 2 }) ints 2 0 4 = some [true, false, true, false] ∧
    bits (.kxor { d := 2, a := 1, b := 0 }) ints 2 0 4 = some [false, true, false, true] := by decide +kernel

/-- R259 to R261. -/
theorem test_moves_and_masks_more :
    bits (.kandn { d := 2, a := 0, b := 1 }) ints 2 0 4 = some [false, true, false, true] ∧
    bits (.knot { d := 2, a := 1 }) ints 2 0 4 = some [false, true, false, true] ∧
    reg (.kpop { d := 3, a := 1 }) ints 3 = some 2 ∧
    reg (.kfirst { d := 3, a := 2 }) ints 3 = some 0xFFFFFFFFFFFFFFFF ∧
    reg (.kfirst { d := 3, a := 1 }) ints 3 = some 0 ∧
    bits (.kset { d := 2, a := 2 }) ints 2 0 4 = some [true, true, true, false] := by decide +kernel

/-! ## Conversions and vector memory -/

/-- R76 to R79: FP32 to BF16, E4M3 with a scale of 2 to FP32, and a packed block with the scale 2^-7. -/
theorem test_conversions :
    let s := shaped 1 3 [] (putRow 1 0 .fp32 [0x3F800000, 0xC0400000, 0x3E800000])
    let scaled := fun (k : Core) => k.setRow false 1 0 ((k.row false 1 0).write .e4m3 [(0, 0x38), (1, 0xB8), (2, 0x40)] 0x0B80 0)
    vec (.vcvt { d := 3, a := 1, b := 0, k := 0, ty := .bf16, rm := .rne, sat := false }) s 3 0 .bf16 3 = some ([0x3F80, 0xC040, 0x3E80], 0) ∧
    vec (.vcvtd { d := 3, a := 1, b := 0, k := 0, ty := .fp32, rm := .rne, sat := false }) (shaped 1 3 [] scaled) 3 0 .fp32 3 =
      some ([0x40000000, 0xC0000000, 0x40800000], 0) ∧
    vec (.vqpack { d := 3, a := 1, k := 0, ty := .e4m3, rm := .rne }) s 3 0 .e4m3 3 = some ([0x70, 0xFC, 0x60], 0) ∧
    out (exec (.vqpack { d := 3, a := 1, k := 0, ty := .e4m3, rm := .rne }) s) (fun t => (t.me.row false 3 0).tag 0) = some (0x0B00 + 120) := by
  decide +kernel

/-- R80 to R82: B24 and back gives the values, and VSCALE adds to the scale of a described block. -/
theorem test_accumulator_rows :
    let s := shaped 1 3 [(2, 3)] (putRow 1 0 .fp32 [0x3F800000, 0xC0400000, 0x3E800000])
    (out (exec (.vbacc { d := 3, a := 1, k := 0, ty := .b24 }) s) fun t =>
      vec (.vbnorm { d := 4, a := 3, k := 0, ty := .fp32, rm := .rne }) t 4 0 .fp32 3) = some (some ([0x3F800000, 0xC0400000, 0x3E800000], 0)) ∧
    out (exec (.vscale { d := 3, a := 1, b := 2, k := 0, ty := .i8 }) s) (fun t => ((t.me.row false 3 0).tag 0, (t.me.row false 3 0).elem .fp32 1)) =
      some (0x0882, 0xC0400000) := by decide +kernel

/-- Core 5 under tables with x1 the pad address 16 and a vector shape. -/
def memory (nr nc : Nat) (regs : List (Nat × Nat)) (f : Core → Core) : State :=
  (padded regs).updMe fun k => f { k with nr := BitVec.ofNat 8 nr, nc := BitVec.ofNat 10 nc }

/-- R206 to R212: the bytes 80 FF 34 12 EF BE AD DE as unit, strided, 4-bit and indexed elements. -/
theorem test_vector_loads :
    let m := fun (b : Nat) (ty : Ty) => ({ d := 3, a := 1, b := BitVec.ofNat 5 b, k := 0, ty := ty, hint := 0 } : VMemF)
    let s := memory 1 4 [(2, 2)] (putRow 2 0 .n32 [7, 0, 0xFFFFFFFF, 2])
    vec (.vld (m 0 .i8)) s 3 0 .i8 4 = some ([0x80, 0xFF, 0x34, 0x12], 0) ∧ vec (.vldf (m 0 .i8)) s 3 0 .i8 4 = some ([0x80, 0xFF, 0x34, 0x12], 0) ∧
    out (exec (.vldf (m 0 .i8)) s) (fun t => t.me.ffnr.toNat) = some 1 ∧
    vec (.vlds (m 2 .i8)) s 3 0 .i8 4 = some ([0x80, 0x34, 0xEF, 0xAD], 0) ∧
    vec (.vldb { d := 3, a := 1, b := 0, k := 0, ty := .i4, bitoff := 4, hint := 0 }) s 3 0 .i4 4 = some ([0x8, 0xF, 0xF, 0x4], 0) ∧
    vec (.vgather { d := 3, a := 1, c := 2, k := 0, ty := .i8, hint := 0 }) s 3 0 .i8 4 = some ([0xDE, 0x80, 0, 0x34], 0) := by decide +kernel

/-- R206 to R212: elements of v1 to the pad. -/
theorem test_vector_stores :
    let m := fun (b : Nat) (ty : Ty) => ({ d := 5, a := 1, b := BitVec.ofNat 5 b, k := 0, ty := ty, hint := 0 } : VMemF)
    let s := memory 1 2 [(2, 3)] fun k => putRow 5 0 .i8 [0x11, 0x22] (putRow 2 0 .n32 [7, 1] k)
    left (.vst (m 0 .i8)) s = some 0xDEADBEEF12342211 ∧ left (.vsts (m 2 .i8)) s = some 0xDEADBEEF2234FF11 ∧
    left (.vstb { d := 6, a := 1, b := 0, k := 0, ty := .i4, bitoff := 4, hint := 0 }) (s.updMe (putRow 6 0 .i4 [5, 6])) = some 0xDEADBEEF1234F650 ∧
    left (.vscatter { d := 5, a := 1, c := 2, k := 0, ty := .i8, hint := 0 }) s = some 0x11ADBEEF12342280 := by decide +kernel

/-- R210, R213: the lane-private slices and the cluster memory give back what was stored. -/
theorem test_lanes_and_cluster :
    let s := memory 2 2 [(2, 64), (7, 0x100)] fun k => putRow 4 1 .n32 [2, 5] (putRow 4 0 .n32 [0, 1] (putRow 5 1 .i8 [3, 4] (putRow 5 0 .i8 [1, 2] k)))
    (out (exec (.vstl { d := 5, a := 2, k := 0, ty := .i8, hint := 0 }) s) fun t =>
      vec (.vldl { d := 6, a := 2, k := 0, ty := .i8, hint := 0 }) t 6 1 .i8 2) = some (some ([3, 4], 0)) ∧
    (out (exec (.vscatterc { d := 5, a := 7, c := 4, k := 0, ty := .i8, hint := 0 }) s) fun t =>
      vec (.vgatherc { d := 6, a := 7, c := 4, k := 0, ty := .i8, hint := 0 }) t 6 1 .i8 2) = some (some ([3, 4], 0)) ∧
    out (exec (.vscatterc { d := 5, a := 7, c := 4, k := 0, ty := .i8, hint := 0 }) s) (fun t => t.num (clusterLoc 4 0 + 0x100) 8) = some 0x40000030201 := by
  decide +kernel

/-- R215: vector atomics on two words. -/
theorem test_vector_atomics :
    let x : VMemF := { d := 5, a := 1, b := 0, k := 0, ty := .i32, hint := 0 }
    let s := memory 1 2 [] (putRow 5 0 .i32 [0x80, 5])
    left (.vamoadd x) s = some 0xDEADBEF412350000 ∧ left (.vamomin x) s = some 0xDEADBEEF00000080 ∧ left (.vamomax x) s = some 0x000000051234FF80 ∧
    left (.vamofadd { x with ty := .fp32 }) ((memory 1 2 [] (putRow 5 0 .fp32 [0x3F800000, 0x40000000])).setBytes padAt (leBytes 8 0x4040000040000000)) =
      some 0x40A0000040400000 := by decide +kernel

/-! ## Windows, copies, barriers and rings -/

/-- R216 to R220: a window over one line; two elements add into it, and AMERGE folds them into memory. -/
theorem test_windows :
    let s := memory 1 2 [(2, 64), (8, 0x01F0000000000000)] fun k => putRow 6 0 .i32 [4, 4] (putRow 5 0 .i32 [7, 8] k)
    let t := after (.awin { a := 8, b := 2, k := 0, ty := .i32, hint := 0 }) s
    let u := after (.amerge { k := 0, ty := .i8, hint := 0 }) (after (.aadd { d := 5, a := 6, k := 0, ty := .i32, hint := 0 }) t)
    (t.me.window.isOpen, t.me.window.len, u.num padAt 8) = (true, 64, 0xDEADBEEF1234FF8F) ∧
    (after (.aclr { k := 0, ty := .i8, hint := 0 }) u).me.window.isOpen = false := by decide +kernel

/-- A copy of one row of 16 bytes from the address in x1 to that in x8, on channel 1. -/
def copy16 (mask : BitVec 4) : CpyF :=
  { d := 0, a := 8, b := 1, ch := 1, acq := false, rel := false, scope := .core, mmask := mask, bar := 0, rows16 := 1 }

/-- R221 to R227: CPY joins its channel; the row arrives and is counted, and CPWAIT goes on. -/
theorem test_copies :
    let s := memory 1 1 [(8, 0x01F0000000000040), (9, 16)] id
    let t := after (.cpy (copy16 0)) s
    let u := after (.copyRowDelivery 5 1) t
    (t.me.queue.length, (t.me.chan 1).copies.length) = (0, 1) ∧
    (u.num (padAt + 0x30) 8, u.me.cpwp[1].toNat) = (0xDEADBEEF1234FF80, 16) ∧
    goes (.cpwait { a := 9, ch := 1 }) u = some 0x81 ∧ (after (.cpwait { a := 9, ch := 1 }) u).me.queue.length = 0 ∧
    (after (.cpwait { a := 9, ch := 1 }) s).me.queue.length = 1 := by decide +kernel

/-- R225: a CPYM delivers its row at the pads of its mask; CPYKV and XRED join their channel. -/
theorem test_multicasts :
    let s := memory 1 1 [(8, 0x01F0000000000040), (9, 16)] id
    let u := after (.copyRowDelivery 5 1) (after (.cpym (copy16 3)) s)
    (u.num ((padLoc 4 0x01F0000000000040).getD 0) 8, (u.core 4).cpwp[1].toNat) = (0xDEADBEEF1234FF80, 16) ∧
    ((after (.cpykv (copy16 0)) s).me.chan 1).copies.length = 1 ∧
    ((after (.xred { d := 0, a := 8, b := 1, ch := 1, acq := false, rel := false, scope := .core, op := .sum, bar := 0, ty := .i32 }) s).me.chan 1).copies.length = 1 := by
  decide +kernel

/-- R222, R226, R227: a row of 80 bytes from pad offset 16 to 48 of cores 4 and 5 goes out as 16 and 64 bytes for core 4, then for core 5;
the second copy of the row is still to come when the first has arrived. -/
theorem test_copy_lines :
    let s := memory 1 1 [(8, 0x01F0000000000030), (9, 16)] id
    let u := after (.copyRowDelivery 5 1) (after (.cpym { copy16 3 with rows16 := 5 }) s)
    let v := after (.copyRowDelivery 5 1) u
    let w := after (.copyRowDelivery 5 1) (after (.copyRowDelivery 5 1) v)
    (u.num (corePadLoc 4 48) 8, (u.core 4).cpwp[1].toNat, u.me.cpwp[1].toNat) = (0xDEADBEEF1234FF80, 16, 0) ∧
    ((v.core 4).cpwp[1].toNat, v.me.cpwp[1].toNat, (v.me.chan 1).row.length) = (80, 0, 2) ∧
    (w.num (corePadLoc 5 48) 8, w.me.cpwp[1].toNat, (w.me.chan 1).row.length) = (0xDEADBEEF1234FF80, 80, 0) := by decide +kernel

/-- R328 to R332: a barrier of two arrivals: its index, the phase of each arrival, and a wait for the phase that has passed. -/
theorem test_barriers :
    let s := memory 1 1 [(8, 0x01F0000000000040), (9, 2)] id
    let t := after (.barinit { d := 3, a := 8, b := 9 }) s
    let u := after (.bararr { d := 4, a := 8 }) t
    let v := after (.bararr { d := 4, a := 8 }) u
    reg (.barinit { d := 3, a := 8, b := 9 }) s 3 = some 1 ∧ (u.me.x 4).toNat = 0 ∧ (v.me.x 4).toNat = 0 ∧
    ((v.die 0).bars.map fun b => (b.arrived, b.phase)) = [(0, 1)] ∧ reg (.barwait { d := 7, a := 8, b := 0 }) v 7 = some 0 ∧
    (after (.barwait { d := 7, a := 8, b := 0 }) u).me.queue.length = 1 ∧ reg (.barkill { d := 3, a := 8 }) v 3 = some 0 := by decide +kernel

/-- R328 to R332: no such line. -/
theorem test_barriers_unregistered :
    let s := memory 1 1 [(8, 0x01F0000000000040), (9, 2)] id
    reg (.barinitUnregister { d := 3, a := 8, b := 0 }) s 3 = some 0 ∧ reg (.barwait { d := 7, a := 8, b := 0 }) s 7 = some 2 ∧
    reg (.bararr { d := 7, a := 8 }) s 7 = some (2 ^ 64 - 1) := by decide +kernel

/-- R334, R336: a post sets the own mirror at once and travels to the others; WAITI passes, and gives 1 on a released channel. -/
theorem test_rings :
    let s := (memory 1 1 [(8, 40), (9, 2)] id).updDie 0 fun d => { d with bound := 4 }
    let t := after (.post { a := 8, b := 9 }) s
    ((t.me.mirror.getD 2 0).toNat, (t.die 0).posts.length) = (40, 39) ∧ reg (.waiti { d := 3, a := 8, b := 9 }) t 3 = some 0 ∧
    (((after (.postArrival 0 0) t).core 0).mirror.getD 2 0).toNat = 40 ∧ reg (.waiti { d := 3, a := 8, b := 1 }) s 3 = some 1 ∧
    (after (.waiti { d := 3, a := 8, b := 9 }) s).me.queue.length = 1 := by decide +kernel

/-! ## The matrix engine -/

/-- The cluster's engine after a core of it has claimed two slots and two groups; slots 1 and 2 hold one row with one BF16 element,
2 and 3. -/
noncomputable def engine : State :=
  let s := memory 1 1 [(3, 0x1010000000000), (4, 0x1020000000000), (8, 0x01F0000000004000)] fun k =>
    putRow 6 0 .bf16 [0x4040] (putRow 5 0 .bf16 [0x4000] k)
  let s := after (.mclaim { slot := 2 }) (after (.mclaim { slot := 1 }) (after (.matt { groups := 2 }) s))
  let s := after (.mslotw { a := 5, b := 3, slot := 1, ty := .bf16 }) (s.updMe fun k => k.setX 3 0x100000000)
  after (.mslotw { a := 6, b := 4, slot := 2, ty := .bf16 }) (s.updMe fun k => k.setX 4 0x200000000)

/-- R280 to R285, R292, R293: two groups are granted, the slots hold their rows, and MSLOTR and MSTAT read them. -/
theorem test_matrix_slots :
    (engine.mgrant 5).toNat = 0x34000 ∧ reg (.mstat { d := 7 }) engine 7 = some 0x2030C ∧
    vec (.mslotr { d := 7, b := 3, slot := 1 }) engine 7 0 .bf16 1 = some ([0x4000], 0) ∧
    (((after (.mrel { slot := 1 }) engine).mxe 1).slot 1).owner = none ∧ (after (.mdet { discard := true }) engine).mgrant 5 = 0 := by
  decide +kernel

/-- R286 to R288, R298: 2 × 3, drained as FP32; negated; and cleared. -/
theorem test_matrix_products :
    let x : MmaF := { tile := false, slotA := 1, slotB := 2 }
    let drain := fun (s : State) => vec (.mdrain { d := 7, k := 0, ty := .fp32, half := false, tile := false }) s 7 0 .fp32 1
    drain (after (.mma x) engine) = some ([0x40C00000], 0) ∧ drain (after (.mman x) (after (.mmaz x) engine)) = some ([0], 0) ∧
    drain (after (.mzero { tile := false }) (after (.mma x) engine)) = some ([0], 0) := by decide +kernel

/-- R294, R299, R300: MLD and MLDF take a row of the pad; a tile goes to memory and comes back. -/
theorem test_matrix_memory :
    let ctl := engine.updMe fun k => (k.setX 9 0x01F0000000000000).setX 3 0x1000100000000
    let row := fun (s : State) => (((s.mxe 1).slotRow 1 0).bits.toNat / 2 ^ 128) % 2 ^ 64
    row (after (.mld { a := 9, b := 3, slot := 1, ty := .i8 }) ctl) = 0xDEADBEEF1234FF80 ∧
    row (after (.mldf { a := 9, b := 3, slot := 1, ty := .i8 }) ctl) = 0xDEADBEEF1234FF80 := by decide +kernel

/-! ## Overlays, versions, the KV space and the crusts -/

/-- Writes doublewords. -/
def puts (l : List (Nat × Nat)) (s : State) : State := l.foldl (fun s q => s.setBytes q.1 (leBytes 8 q.2)) s

/-- The bytes of the tables of `device` beside those of `tables`: entries 4003H at 3010H, 5003H, 00580000000000D5H and
00580000002000D5H from 4000H on, 6415H and 7815H at 5000H; the version descriptor at 6000H (base 8000H, region 240H, chain A000H); the
overlay descriptor at 7000H (base C000H, context 1); and the heap record at 9010H. -/
def deviceTables : List Host.Cell :=
  [(0x81, 0x08), (0xC1, 0x08), (0x1000, 0x03), (0x1001, 0x20), (0x2000, 0x03), (0x2001, 0x30), (0x3000, 0x19), (0x3006, 0x90),
    (0x3008, 0x15), (0x300B, 0x40), (0x300E, 0x90), (0x3010, 0x03), (0x3011, 0x40), (0x4000, 0x03), (0x4001, 0x50), (0x4008, 0xD5),
    (0x400E, 0x58), (0x4010, 0xD5), (0x4012, 0x20), (0x4016, 0x58), (0x5000, 0x15), (0x5001, 0x64), (0x5008, 0x15), (0x5009, 0x78),
    (0x6001, 0x80), (0x6018, 0x40), (0x6019, 0x02), (0x6021, 0xA0), (0x7001, 0xC0), (0x7028, 0x01), (0x9011, 0xB0), (0x9018, 0x04),
    (0x901C, 0x01)]

/-- Beyond the pages of `paged`: a versioned page at 80000000H, an overlay page at 80001000H, and two compute-capable pages at
80200000H and 80400000H in the first stack. -/
def device (regs : List (Nat × Nat)) (f : Core → Core) : State :=
  { paged regs f with carveC := 2 ^ 32, sbase := 2 ^ 26, mem := deviceTables }

/-- The device with a chunk for versions and one for glaze lines on every die. -/
def pooled (regs : List (Nat × Nat)) (f : Core → Core) : State :=
  let s := device regs f
  { s with dies := s.dies.map fun d => (d.setPool 0 0 [0x10000]).setPool 0 1 [0x10100] }

/-! What the next theorem speaks of. -/
noncomputable def overlays_s : State := after (.gspec { d := 3, a := 2 }) (pooled [(1, 0x80001000), (2, 7), (4, 9), (5, 1), (6, 4096)] id)

/-- R121: the context is 7. -/
theorem test_overlays : overlays_s.me.scx = 7 := by decide +kernel

/-! What the next theorem speaks of. -/
noncomputable def pools_s : State := (device [] id).updMe fun k => { k with sstat := { k.sstat with mode := true }, sup := ((k.sup.set! 1 0x40000000).set! 2 0x20000).set! 4 0x80001000 }

noncomputable def pools_pin : State := pools_s.setBytes 0x3008 (leBytes 8 0x0090000040000095)

noncomputable def pools_x : R3T2 := { d := 3, a := 1, b := 2 }

/-- R125, R126: pools and GFLATTEN in supervisor mode. -/
theorem test_pools :
    reg (.gpoolDonate pools_x) pools_pin 3 = some 2 ∧ reg (.gpoolQuery pools_x) pools_s 3 = some 0xFFFFFFFFFFFFFFFF ∧
    reg (.gpoolDrop { d := 3, a := 1, b := 0 }) (after (.gpoolDonate pools_x) pools_pin) 3 = some 2 ∧
    reg (.gflatten { d := 3, a := 1, b := 1 }) pools_s 3 = some 3 := by decide +kernel

/-! What the next theorem speaks of. -/
noncomputable def versions_s : State := pooled [(1, 0x80000000), (2, 0x11223344), (5, 5), (7, 7), (9, 9), (8, 0x80000004)] id

noncomputable def versions_t : State := after (.verst { d := 5, a := 8, b := 2, width := 2 }) versions_s

noncomputable abbrev versions_ld := fun (v : Nat) => ({ d := 3, a := 1, b := BitVec.ofNat 5 v, width := 3 } : VerF)

noncomputable abbrev versions_r := fun (i : Instr) (versions_s : State) => out (exec i versions_s) fun u => ((u.me.x 3).toNat, u.me.verstat.toNat)

/-- R135 to R150: version 5 of a line over version 0, its answers, the newest version, seal and floor. -/
theorem test_versions :
    versions_r (.verld (versions_ld 5)) versions_t = some (0x1122334400000000, 0x500000001) ∧ versions_r (.verldn (versions_ld 7)) versions_t = some (0x1122334400000000, 0x500000000) ∧
    goes (.verld (versions_ld 7)) versions_t = some versions_t.me.ia.toNat ∧ reg (.verq { d := 3, a := 1 }) versions_t 3 = some 5 ∧
    reg (.vseal { d := 3, a := 1, b := 9 }) versions_t 3 = some 9 ∧
    reg (.vfloor { d := 3, a := 1, b := 5 }) versions_t 3 = some 5 := by decide +kernel

/-! What the next theorem speaks of. -/
noncomputable def version_faults_s : State := pooled [(1, 0x80000000), (2, 0x11223344), (5, 5), (7, 7), (9, 9)] id

noncomputable abbrev version_faults_st := fun (v : Nat) => ({ d := BitVec.ofNat 5 v, a := 1, b := 2, width := 3 } : VerF)

noncomputable def version_faults_t : State := after (.verst (version_faults_st 5)) version_faults_s

noncomputable abbrev version_faults_c := fun (i : Instr) (version_faults_s : State) => out (exec i version_faults_s) fun u => (u.me.cause.toNat, u.me.eva.toNat, u.me.eaux.toNat)

/-- R135, R145, R134: a collision, a sealed write, an empty pool; a floor hides no version. -/
theorem test_version_faults :
    version_faults_c (.verst (version_faults_st 5)) version_faults_t = some (10, 0x80000000, 5 * 2 ^ 32) ∧ version_faults_c (.verst (version_faults_st 7)) (puts [(0x9000, 0x900000000)] version_faults_s) =
      some (11, 0x80000000, 7 * 2 ^ 32 + 9) ∧ version_faults_c (.verst (version_faults_st 7)) version_faults_t = some (12, 0x80000000, 7 * 2 ^ 32 + 1 * 16) ∧
    ((after (.vfloor { d := 3, a := 1, b := 5 }) version_faults_t).versions { head := 0xA000, base := 0x8000, region := 0x240 }).map Ver.num = [5, 0] := by
  decide +kernel

/-! What the next theorem speaks of. -/
noncomputable def vector_versions_s : State := (pooled [(1, 0x80000000), (5, 5)] (putRow 6 0 .n64 [0x77, 0x88])).updMe fun k => { k with nr := 1, nc := 2 }

noncomputable def vector_versions_t : State := after (.vverst { d := 6, a := 1, b := 0, c := 5, k := 0, ty := .n64, hint := 0 }) vector_versions_s

/-- R151 to R154: a row of a version is written and read back. -/
theorem test_vector_versions :
    vec (.vverld { d := 7, a := 1, b := 0, c := 5, k := 0, ty := .n64, hint := 0 }) vector_versions_t 7 0 .n64 2 = some ([0x77, 0x88], 0) ∧
    (after (.versionReclaim 0x240 0xA000 0x8000) vector_versions_t).versions { head := 0xA000, base := 0x8000, region := 0x240 } =
      vector_versions_t.versions { head := 0xA000, base := 0x8000, region := 0x240 } := by decide +kernel

/-- A sequence 1 of one layer and head, FP32 rows of dimension 4, KSC 80H and VSC 81H, and one page at 28000H. -/
def kv (regs : List (Nat × Nat)) (f : Core → Core) : State :=
  puts [(0x10000, 0x18001), (0x18008, 0x20001), (0x20008, 0x10001), (0x20010, 0x20100), (0x20100, 0x20140),
    (0x20140, 0x0001000400818008), (0x20150, 0x20200), (0x20158, 1), (0x20200, 0x20240), (0x20240, 0x28001)]
    (paged ((1, 0x10000000003) :: regs) fun k => f { k with kvroot := 0x10001, nr := 1, nc := 2 })

/-! What the next theorem speaks of. -/
noncomputable def kv_s : State := kv [(2, 6)] fun k => putRow 6 0 .fp32 [0x40400000, 0x3F800000] (putRow 5 0 .fp32 [0x40000000, 0x41000000] k)

noncomputable def kv_t : State := after (.kvapp { d := 5, a := 1, b := 6, ty := .fp32, hint := 0 }) kv_s

/-- R156 to R172: a row is appended at position 3 and read back with the scales of its layer; LEN is set and read. -/
theorem test_kv :
    kv_t.num 0x28300 8 = 0x4100000040000000 ∧ kv_t.num 0x2C300 8 = 0x3F80000040400000 ∧
    vec (.kvldk { d := 7, a := 1, k := 0, ty := .fp32, hint := 0 }) kv_t 7 0 .fp32 2 = some ([0x40000000, 0x41000000], 0) ∧
    vec (.kvldv { d := 7, a := 1, k := 0, ty := .fp32, hint := 0 }) kv_t 7 0 .fp32 2 = some ([0x40400000, 0x3F800000], 0) ∧
    out (exec (.kvldv { d := 7, a := 1, k := 0, ty := .fp32, hint := 0 }) kv_t) (fun u => (u.me.row false 7 0).tag 0) = some 0x881 := by decide +kernel

/-! What the next theorem speaks of. -/
noncomputable def kv_moves_s : State := (puts [(0x28200, 22), (0x28500, 55), (0x2C200, 222), (0x2C500, 555)] (kv [(2, 6)] (putRow 5 0 .n32 [0, 2, 5]))).updMe fun k =>
  (k.setX 1 0x10000000000)

noncomputable def kv_moves_t : State := after (.kvmove { a := 1, c := 5, k := 0, ty := .n32, hint := 0 }) (kv_moves_s.updMe fun k => { k with nc := 3 })

/-- R171 to R173: the drafts of the manual's example move from 2 to 1 and from 5 to 2; LEN; and the walker caches after KVINV. -/
theorem test_kv_moves :
    (kv_moves_t.num 0x28100 8, kv_moves_t.num 0x28200 8, kv_moves_t.num 0x2C100 8, kv_moves_t.num 0x2C200 8) = (22, 55, 222, 555) ∧
    reg (.kvlenSet { d := 3, a := 1, b := 2 }) kv_moves_s 3 = some 0 ∧
    reg (.kvlenRead { d := 3, a := 1 }) (after (.kvlenSet { d := 3, a := 1, b := 2 }) kv_moves_s) 3 = some 6 ∧
    ((after (.kvinvAll { a := 1, b := 2 }) kv_moves_t).die 0).kv = [] ∧ ((after (.kvinvSequence { a := 1, b := 4 }) kv_moves_t).die 0).kv.length ≤ (kv_moves_t.die 0).kv.length := by
  decide +kernel

/-- The words of the first line of a compute-capable page once the crust has performed all its items. -/
noncomputable def crust (i : Instr) (s : State) (n : Nat) : Nat × Nat :=
  let t := (List.range n).foldl (fun t _ => after (.crustItem 0) t) (after i s)
  (((after i s).crust 0).queue.length, t.num 0x8000000000000 8)

/-! What the next theorem speaks of. -/
noncomputable def crust_commands_s : State := puts [(0x8000000000000, 0x3F80000040000000), (0x8000000200000, 0x1111222233334444), (0x8000000200008, 0x55)]
  (device [(1, 0x80200000), (2, 0x80400000), (7, 0x3F000000)] fun k =>
    putRow 6 0 .n32 [0, 0] (putRow 5 0 .fp32 [0x3F800000, 0x40000000] { k with nr := 1, nc := 2 }))

/-- R190 to R193: sums of FP32 words, lines of zeros, copies and elements, at their crust. -/
theorem test_crust_commands :
    crust (.nadd { d := 5, a := 1, b := 0, c := 6, acq := false, rel := false, scope := .core, ty := .fp32 }) crust_commands_s 1 = (1, 0x4040000040400000) ∧
    crust (.nzero { a := 1, acq := false, rel := false, scope := .core, ty := .i8, count := 2 }) crust_commands_s 2 = (2, 0) ∧
    crust (.nrowcpy { a := 1, b := 2, acq := false, rel := false, scope := .core, ty := .i8, count := 1 }) crust_commands_s 1 = (1, 0x1111222233334444) ∧
    crust (.nopt { d := 7, a := 1, b := 2, acq := false, rel := false, scope := .core, ty := .fp32, count := 1 }) crust_commands_s 1 =
      (1, 0x3F80000040000000) ∧
    reg (.nfence { d := 3 }) (after (.nzero { a := 1, acq := false, rel := true, scope := .core, ty := .i8, count := 1 }) crust_commands_s) 3 = some 0 := by
  decide +kernel

/-! What the next theorem speaks of. -/
noncomputable def crust_patterns_s : State := puts [(0x8000000200000, 0x1111222233334444)] (device [(1, 0x80200000), (2, 0x80400000), (4, 0), (5, 18), (6, 1)] id)

noncomputable def crust_patterns_p : State := crust_patterns_s.updCrust 0 fun c => { c with patterns := c.patterns.set! 2 0x3000100000008 }

/-- R194: where a pattern of runs of 2, stride 64 and 8-byte elements finds its elements, and how many bytes four of them span. -/
theorem test_pattern_elements : (List.range 4).map (Pattern.offset { size := 8, run := 2, stride := 64 }) = [0, 64, 8, 72] ∧
    Pattern.span { size := 8, run := 2, stride := 64 } 4 = 80 := by decide +kernel

/-- R196: NSTAT reads and writes pattern 2. -/
theorem test_crust_patterns :
    reg (.nstatRead { d := 3, a := 4, b := 5 }) crust_patterns_p 3 = some 0x3000100000008 ∧ reg (.nstatPatternWrite { d := 3, a := 4, b := 5 }) crust_patterns_p 3 = some 0x3000100000008 ∧
    reg (.nstatRead { d := 3, a := 4, b := 6 }) crust_patterns_p 3 = some (2 ^ 36 - 2 ^ 32) := by decide +kernel

/-! ## Tasks, contexts and the host -/

/-- A task of launch 1 on core 5, with records at 40000100H (KIND 0) and 40000120H (KIND 1, its frame at 40000140H) and a join
block at 40000180H. -/
def tasks (regs : List (Nat × Nat)) : State :=
  let r : Rec := { addr := 0, slot := 0, cp := 0x81, fp := 0, jb := 0, info := 1, ck := Clock.reset }
  puts [(0x40000100, 0x81), (0x40000120, 0x81), (0x40000128, 0x40000140), (0x40000138, 0x10000), (0x40000148, 10), (0x40000150, 4),
    (0x40000180, 1), (0x400001A0, 0x81), (0x4000040, 2)]
    (paged ([(1, 0x40000100), (2, 0x40000120), (4, 0x40000180), (5, 2 ^ 64 - 1), (6, 0x40000104)] ++ regs) fun k =>
      { k with launch := 1, run := some { task := r, strip := none } })

/-- The tasks with the scheduler area at 4000000H. -/
def area (regs : List (Nat × Nat)) : State := { tasks regs with sbase := 2 ^ 26 }

/-- R359: a task pushed onto the deque, the injection queue and the loop table, and counted. -/
theorem test_spawns :
    reg (.spawn { d := 3, a := 1 }) (area []) 3 = some 0 ∧
    ((after (.spawn { d := 3, a := 1 }) (area [])).me.deque.map Rec.cp, (after (.spawn { d := 3, a := 1 }) (area [])).num 0x4000040 8) = ([0x81], 3) ∧
    reg (.spawng { d := 3, a := 1 }) (area []) 3 = some 0 ∧ ((after (.spawng { d := 3, a := 1 }) (area [])).die 0).inject.length = 1 ∧
    reg (.spawnl { d := 3, a := 2 }) (area []) 3 = some 0 ∧
    ((after (.spawnl { d := 3, a := 2 }) (area [])).die 0).loops.map (fun l => (l.lo, l.hi, l.strip)) = [(0, 10, 4)] ∧
    reg (.spawn { d := 3, a := 2 }) (area []) 3 = some 3 ∧ reg (.spawnl { d := 3, a := 1 }) (area []) 3 = some 3 ∧
    trap (.spawn { d := 3, a := 6 }) (area []) = some (4, 0x41, 0x40000104, 0, 0xC1) := by decide +kernel

/-- R360, R361: the last arrival of a join pushes the continuation; a yielded record waits in the reserve. -/
theorem test_joins_and_yields :
    reg (.join { d := 3, a := 4, b := 5 }) (area []) 3 = some 0 ∧
    ((after (.join { d := 3, a := 4, b := 5 }) (area [])).me.deque.map Rec.addr, (after (.join { d := 3, a := 4, b := 5 }) (area [])).num 0x4000040 8) =
      ([0x400001A0], 3) ∧
    (after (.yield { a := 1 }) (area [])).me.act = .idle ∧ ((after (.yield { a := 1 }) (area [])).die 0).inject.map Prod.fst = [1] ∧
    out (exec (.yield { a := 2 }) (area [])) (fun t => (t.me.cause.toNat, t.me.eaux.toNat)) = some (1, 11) := by decide +kernel

/-- R351, R353, R362: END leaves the core idle and takes one from COUNT; TASK_START takes the record of the deque. -/
theorem test_ends_and_starts :
    ((after .endTask (area [])).me.act, (after .endTask (area [])).num 0x4000040 8) = (.idle, 1) ∧
    (after (.joinPushRetry 5) ((area []).updMe fun k => { k with pendingPush := some { addr := 9, slot := 0, cp := 0x81, fp := 0, jb := 0, info := 1, ck := Clock.reset } })).me.deque.map Rec.addr = [9] := by
  decide +kernel

/-- An idle core of a share of launch 1 with a record in its deque. -/
def idleCore : State :=
  { area [] with
    shares := [{ launch := 1, die := 0, cores := [4, 5], ceil := 32, cls := 0, levels := 1, stream := 0, ptroot := 0x1000, asid := 0 }],
    cores := modifyNth (fun k => { k with act := .idle, deque := [{ addr := 9, slot := 0, cp := 0x81, fp := 77, jb := 0, info := 1, ck := Clock.reset }] }) 5 (area []).cores }

/-- R11, R351: the record that the core takes, and the registers of the new task. -/
theorem test_task_start :
    ((after (.taskStart 5) idleCore).me.act, (after (.taskStart 5) idleCore).me.ia, (after (.taskStart 5) idleCore).me.deque.length) = (.running, 0x81, 0) ∧
    ((after (.taskStart 5) idleCore).me.x 3, (after (.taskStart 5) idleCore).me.x 4, (after (.taskStart 5) idleCore).me.nr) = (77, 9, 32) := by decide +kernel

/-- R363: the CANCEL flag and the state of the own launch. -/
theorem test_levels :
    reg (.lvquery { d := 3, a := 0 }) (area []) 3 = some 0x200000000 ∧ reg (.lvcancel { d := 3, a := 0 }) (area []) 3 = some 0 ∧
    reg (.lvquery { d := 3, a := 0 }) (after (.lvcancel { d := 7, a := 0 }) (area [])) 3 = some 0x200000003 ∧
    reg (.lvquery { d := 3, a := 7 }) (area [(7, 5)]) 3 = some (2 ^ 64 - 1) := by decide +kernel

/-- A supervisor at core 5 whose x1 is the first address of cluster memory. -/
def saving (loaded held : Bool) : State :=
  { super [(1, 0x01F1000000000000), (2, 0x01F1000000000040)] false loaded with sbase := 2 ^ 26 }.updMe fun k =>
    { k with sstat := { k.sstat with held := held } }

/-- R381 to R384: statuses where nothing is loaded, where a context is loaded, and where nothing is held; addresses that are not aligned. -/
theorem test_contexts :
    reg (.ctxsave { d := 3, a := 1 }) (saving false false) 3 = some 1 ∧ reg (.ctxrest { d := 3, a := 1 }) (saving true false) 3 = some 1 ∧
    reg (.vqsave { d := 3, a := 1 }) (saving true false) 3 = some 1 ∧ reg (.vqrest { d := 3, a := 1 }) (saving true true) 3 = some 1 ∧
    reg (.vqrest { d := 3, a := 1 }) (saving true false) 3 = some 2 ∧
    out (exec (.ctxsave { d := 3, a := 2 }) (saving true false)) (fun t => (t.me.cause.toNat, t.me.eva.toNat)) = some (4, 0x01F1000000000040) := by decide +kernel

/-- A device that serves one queue, queue 3, whose record at 8000000H asks for 1 to 2 cores, 64 rows and class 1 for launch 9. -/
def serving : State :=
  { puts [(0x6E000C0, 0x8000000), (0x6E000C8, 0x80000002), (0x6E000D0, 1), (0x8000000, 0x81), (0x8000008, 77), (0x8000018, 9),
      (0x8000028, 0x1400201)] (plain []) with sbase := 2 ^ 26 }

/-- R346, R348: the record is consumed, two cores form the share, the level record opens, and the first task waits for a core. -/
theorem test_queue_serve :
    (after .hostQueueServe serving).shares.map (fun h => (h.launch, h.die, h.cores, h.ceil, h.cls)) = [(9, 0, [0, 1], 64, 1)] ∧
    ((after .hostQueueServe serving).num 0x6E000D8 8, (after .hostQueueServe serving).num 0x4000240 8, (after .hostQueueServe serving).num 0x4000248 8) =
      (1, 1, 1) ∧
    ((after .hostQueueServe serving).die 0).inject.map (fun q => (q.1, q.2.cp, q.2.fp)) = [(0, 0x81, 77)] ∧
    (after (.shareGrant 0) serving).shares.length = 1 ∧ (after (.shareGrant 1) serving).shares = [] := by decide +kernel

/-- R346: a head that has waited more than 1 ms ages its queue; no stream entry is valid. -/
theorem test_queue_aging :
    (after (.queueAging 3) serving).queueNotes.map QueueNote.queue = [3] ∧
    (after (.queueAging 3) { after (.queueAging 3) serving with dtime := 1000001 }).num 0x6E000E0 8 = 4 ∧
    (after (.streamEviction 5) serving).mem = serving.mem := by decide +kernel

/-- A store of core 5 to the pad that waits in its buffer, and one to memory at 40000000H. -/
noncomputable def stored : State := after (.sd { d := 2, a := 1, off := 0 }) (paged [(1, 0x40000000), (2, 5)] id)

/-- R306: COMMIT sends it to its home, PERFORM writes it there and tells the other dies, APPLY has one of them see it. -/
theorem test_abstract_machine :
    ((after (.commit 5) stored).inflight.length, (after (.commit 5) stored).num 0x40000000 8) = (1, 0) ∧
    ((after (.perform 0) (after (.commit 5) stored)).num 0x40000000 8, (after (.perform 0) (after (.commit 5) stored)).inflight.length) = (5, 0) ∧
    ((after (.perform 0) (after (.commit 5) stored)).die 1).inbox.length = 1 ∧
    ((after (.apply 1 0) (after (.perform 0) (after (.commit 5) stored))).die 1).dvc.c0 = 1 ∧
    (after (.installFill 0) stored).fills = [] := by decide +kernel

/-- R355, R365, R367, R374: requests and messages are pending until they are taken; a task over its budget fails with cause 26. -/
theorem test_core_events :
    (after (.preEmptionRequest 5 true) (paged [] id)).me.preempt = some true ∧ (after (.managementMessage 5) (paged [] id)).me.mgmt = true ∧
    ((after (.trapEntry 5) (after (.managementMessage 5) (paged [] id))).me.cause, (after (.trapEntry 5) (after (.managementMessage 5) (paged [] id))).me.ia) =
      (0x8000000000000001, 0xC1) ∧
    (after (.budgetExceeded 5) ((area []).updMe fun k => { k with deadline := some 0 })).me.failing = some 26 ∧
    (after (.waitaReread 5) (paged [] id)).me.monitor = none ∧ (after (.waitaTimeout 5) (paged [] id)).me.monitor = none := by decide +kernel

/-- R319: the host and another device read, write and update memory. -/
theorem test_outside_accesses :
    (after (.hostCxlMemAccess { agent := 7, addr := 0x1000, op := .load 8, rel := false, acq := false }) (paged [] id)).notes =
      [.found 7 (leBytes 8 0x2003)] ∧
    (after (.hostCxlMemAccess { agent := 7, addr := 0x40000, op := .store [1, 2], rel := false, acq := false }) (paged [] id)).num 0x40000 4 = 0x201 ∧
    (after (.remoteFabricAccess { agent := 2, addr := 0x1000, op := .amo 0 8 1 0, rel := false, acq := false }) (paged [] id)).num 0x1000 8 = 0x2004 := by
  decide +kernel

/-- R183, R233, R388 to R397: the life of the device. -/
theorem test_device_life :
    ((after (.dramError { addr := 0x1000, uncorrectable := true }) (plain [])).badLines, (after (.ptmExchange 99) (plain [])).dtime) = ([0x40], 99) ∧
    (after .powerOff (plain [])).stage = .off ∧ (after .powerGood (after .powerOff (plain []))).stage = .awaitConfig ∧
    (after (.bringUpConfig { c := 2 ^ 31, g := 0, sbase := 2 ^ 31, device := 3 }) State.reset).devNo = 3 ∧
    (after .reset (plain [(1, 5)])).me.x 1 = 0 ∧ (after (.sealKeyLoad { id := 3, session := true }) (plain [])).keys.length = 1 ∧
    (after (.powerCapSet 2000) (plain [])).cap = 2000 ∧ (after (.attestationRequest .identity) (plain [])).notes = [.identity] := by decide +kernel

/-- Every part draws its allocation of the package budget, die 0 so many watts (R10). -/
def drawing (die : Nat) : PowerLoad := { dies := #v[die, 430, 430, 430], io := 180, hbm := .replicate 8 55, losses := 60 }

/-- R10, R233, R391, R394, R396, R397: groups, rounds, images, states and clocks. -/
theorem test_device_life_more :
    (after (.collectiveGroupRegister { id := 5, members := [0, 1], rank := 0, timeoutUs := 10 }) (plain [])).groups.length = 1 ∧
    (after (.collectiveRoundTimeout 0) (plain [])).rounds = [] ∧ (after (.xredRoundComplete 0) (plain [])).rounds = [] ∧
    (after (.firmwareImageLoad { image := 4, verifies := true }) { State.reset with stage := .recovery }).firmware = some 4 ∧
    (after (.lifeCycleTransition { target := .returned, signed := true }) (plain [])).life = .returned ∧
    (after .lossOfLock { plain [] with locked := true, dtime := 2000000000 }).locked = false ∧ (after (.clockStep (drawing 430)) (plain [])).clockK = 0 ∧ (after (.clockStep (drawing 431)) (plain [])).clockK = 1 ∧
    (after (.fabricAccessTimeout 0) (plain [])).fabric.length = 1 ∧ (after (.copyIssue 5) (plain [])).me.queue = [] ∧
    (after (.readAtHome 5) (plain [])).stage = .running ∧ (after (.readAtDie 5) (plain [])).stage = .running := by decide +kernel

/-! ## Hypotheses that are met

For each statement with hypotheses, states and operands that meet them together. -/

/-- The value that a computation answers, if it answers one, and the state that it leaves. -/
def result {α : Type} (m : M α) (s : State) : Option α :=
  match (runM m s).1 with
  | .ok a => some a
  | _ => none

def ended {α : Type} (m : M α) (s : State) : State := (runM m s).2

theorem answers_eq {α : Type} {m : M α} {s : State} {a : α} (h : result m s = some a) : Answers m s a (ended m s) := by
  unfold result at h
  unfold Answers ended
  split at h
  · rename_i b e
    simp only [Option.some.injEq] at h
    rw [← h, ← e]
  · simp at h

theorem answers_get {α : Type} {m : M α} {s : State} (h : (result m s).isSome = true) :
    Answers m s ((result m s).get h) (ended m s) := answers_eq (by simp)

theorem answers_same {α : Type} {m : M α} {s : State} {a : α} (h : result m s = some a) (e : ended m s = s) : Answers m s a s := by
  have := answers_eq h
  rwa [e] at this

theorem ends_same {m : M Unit} {s : State} (h : result m s = some ()) (e : ended m s = s) : Ends m s s := answers_same h e

theorem ends_unit {m : M Unit} {s : State} (h : (result m s).isSome = true) : Ends m s (ended m s) := answers_get h

/-- The trap that a computation ends in. -/
def failure {α : Type} (m : M α) (s : State) : Option Trap :=
  match (runM m s).1 with
  | .error (.trap r) => some r
  | _ => none

theorem traps_get {α : Type} {m : M α} {s : State} (h : (failure m s).isSome = true) :
    Traps m s ((failure m s).get h) (ended m s) := by
  obtain ⟨r, e⟩ := Option.isSome_iff_exists.1 h
  rw [show (failure m s).get h = r by simp only [e, Option.get_some]]
  unfold failure at e
  unfold Traps ended
  split at e
  · rename_i b f
    simp only [Option.some.injEq] at e
    rw [← e, ← f]
  · simp at e

theorem succeeds_of {ε α : Type} {e : Except ε α} (h : e.toBool = true) : ∃ a, e = .ok a := by
  cases e with
  | ok a => exact ⟨a, rfl⟩
  | error _ => exact absurd h Bool.false_ne_true

theorem accessing_of {s : State} {rs : List Reg} (h : isReady s rs = true) (f : s.acquiring s.cur = false) : Spec.Accessing s rs :=
  ⟨ready_of h, f⟩

theorem quiet_of {s : State} (h : s.me.queue = []) (f : s.me.issued = 0) : Spec.Quiet s := ⟨h, f⟩

/-- Active elements lie within the shape. -/
theorem forall_on {s : State} {k : MaskReg} {P : Nat → Nat → Prop}
    (h : ∀ r ∈ List.range s.me.nr.toNat, ∀ c ∈ List.range s.me.nc.toNat, P r c) :
    ∀ r c, Spec.on s k r c = true → P r c := by
  intro r c e
  simp only [Spec.on, Bool.and_eq_true, decide_eq_true_eq] at e
  exact h r (List.mem_range.2 e.1.1) c (List.mem_range.2 e.1.2)

/-- Real values within a format: 1 is at most the largest value. -/
theorem test_meets_rounding : ∀ f ∈ Spec.formats, Spec.real false 1 0 ≤ Spec.real false f.maxM f.maxE := by
  intro f hf
  simp only [Spec.formats, List.mem_cons, List.mem_nil_iff, or_false] at hf
  rcases hf with rfl | rfl | rfl | rfl | rfl | rfl | rfl | rfl | rfl <;>
    norm_num [Spec.real, fmtFp32, fmtBf16, fmtFp16, fmtE4m3, fmtE5m2, fmtE3m2, fmtE2m3, fmtE2m1, fmtA36, Fmt.maxM, Fmt.maxE]

/-- Quotients, roots and reciprocal roots of 1, and an exponent within each format. -/
theorem test_meets_quotients_and_edges : ∀ f ∈ [fmtFp32, fmtBf16, fmtFp16],
    Spec.real false 1 0 / Spec.real false 1 0 ≤ Spec.real false f.maxM f.maxE ∧
    Real.sqrt (Spec.real false 1 0) ≤ Spec.real false f.maxM f.maxE ∧
    1 / Real.sqrt (Spec.real false 1 0) ≤ Spec.real false f.maxM f.maxE ∧ f.emin ≤ 0 ∧ 0 ≤ f.bias := by
  intro f hf
  simp only [List.mem_cons, List.mem_nil_iff, or_false] at hf
  rcases hf with rfl | rfl | rfl <;> norm_num [Spec.real, fmtFp32, fmtBf16, fmtFp16, Fmt.maxM, Fmt.maxE, Fmt.emin, Fmt.bias]

/-- A turn of 1 ÷ 2^32 and the noise of a hash, which their enclosures decide. -/
theorem test_meets_enclosures : (1 : Nat) % 2 ^ 30 ≠ 0 ∧ Spec.Decided .rne (turnEnc true 1) ∧ Spec.Decided .rtz (turnEnc false 0x12345678) ∧
    Spec.Decided .rne (gumbelEnc 0x12345678) :=
  ⟨by decide, ⟨96, by decide, by decide +kernel⟩, ⟨96, by decide, by decide +kernel⟩, ⟨96, by decide, by decide +kernel⟩⟩

/-- Line 2 of the paged core. -/
def nopLine : Line := 0x0800#512

theorem can_go : Spec.CanGo (paged [(6, 0x81)] id) 0x81 nopLine (ended (enterLine false 0x81) (paged [(6, 0x81)] id)) :=
  ⟨by decide +kernel, answers_eq (by decide +kernel), by decide +kernel⟩

/-- R15: a last instruction whose next address leaves 57 bits. -/
theorem test_meets_next_address :
    let s := onCore [] fun k => { k with ia := 0x01FFFFFFFFFFFFC1 }
    s.cur < s.cores.length ∧ s.me.pending [3, 1, 2] = false ∧ wellFormedIa s.me.nextIa = false := by decide +kernel

/-- A branch, a jump and an indirect jump to line 2. -/
theorem test_meets_transfers :
    Ready (paged [(6, 0x81)] id) [1, 2] ∧ (paged [(6, 0x81)] id).me.pending [5, 6] = false ∧
    Spec.LineInRange (paged [(6, 0x81)] id) 1 ∧ Spec.target (paged [(6, 0x81)] id) 1 1 = 0x81 ∧ (paged [(6, 0x81)] id).me.x 6 = 0x81 ∧
    ∃ l t, Spec.CanGo (paged [(6, 0x81)] id) 0x81 l t :=
  ⟨ready_of (by decide +kernel), by decide +kernel, by unfold Spec.LineInRange; decide +kernel, by decide +kernel, by decide +kernel, _, _, can_go⟩

/-- Targets out of range, not well formed, and without their slot. -/
theorem test_meets_illegal_targets :
    ¬ Spec.LineInRange (paged [] id) (-2) ∧ wellFormedIa (Spec.target (paged [] id) 1 0) = false ∧
    wellFormedIa ((paged [(6, 0xA1)] id).me.x 6) = false ∧
    Spec.LineInRange (paged [] id) 1 ∧ wellFormedIa (Spec.target (paged [] id) 1 2) = true ∧
    Answers (enterLine false (Spec.target (paged [] id) 1 2)) (paged [] id) nopLine (ended (enterLine false 0x82) (paged [] id)) ∧
    lineNh nopLine < iaSlot (Spec.target (paged [] id) 1 2) :=
  ⟨by unfold Spec.LineInRange; decide +kernel, by decide +kernel, by decide +kernel, by unfold Spec.LineInRange; decide +kernel,
    by decide +kernel, answers_eq (by decide +kernel), by decide +kernel⟩

/-- Each transfer of control with its target, the comparison of a branch true. -/
theorem test_meets_transfer_forms : let s := paged [(6, 0xA1)] id
    let br := fun (a b : Reg) => ({ a := a, b := b, delta := 1, slot := 2 } : BrF)
    (∃ l, Spec.Transfers s (.jal { d := 5, delta := 1, slot := 2 }) (Spec.target s 1 2) (Spec.LineInRange s 1) l) ∧
    (∃ l, Spec.Transfers s (.jalr { d := 5, a := 6 }) (s.me.x 6) True l) ∧
    ∀ i ∈ [Instr.beq (br 0 0), .bne (br 0 6), .blt (br 0 6), .bge (br 6 0), .bltu (br 0 6), .bgeu (br 6 0)],
      Spec.Transfers s i (Spec.target s 1 2) (Spec.LineInRange s 1) id := by
  refine ⟨⟨_, .jal _ (by decide +kernel)⟩, ⟨_, .jalr _ (by decide +kernel)⟩, fun i h => ?_⟩
  simp only [List.mem_cons, List.mem_nil_iff, or_false] at h
  rcases h with rfl | rfl | rfl | rfl | rfl | rfl
  · exact .branch { a := 0, b := 0, delta := 1, slot := 2 } _ _ (by decide +kernel) (by decide +kernel) (.head _)
  · exact .branch { a := 0, b := 6, delta := 1, slot := 2 } _ _ (by decide +kernel) (by decide +kernel) (.tail _ (.head _))
  · exact .branch { a := 0, b := 6, delta := 1, slot := 2 } _ _ (by decide +kernel) (by decide +kernel) (.tail _ (.tail _ (.head _)))
  · exact .branch { a := 6, b := 0, delta := 1, slot := 2 } _ _ (by decide +kernel) (by decide +kernel) (.tail _ (.tail _ (.tail _ (.head _))))
  · exact .branch { a := 0, b := 6, delta := 1, slot := 2 } _ _ (by decide +kernel) (by decide +kernel) (.tail _ (.tail _ (.tail _ (.tail _ (.head _)))))
  · exact .branch { a := 6, b := 0, delta := 1, slot := 2 } _ _ (by decide +kernel) (by decide +kernel)
      (.tail _ (.tail _ (.tail _ (.tail _ (.tail _ (.head _))))))

/-- A jump to a page that no table maps. -/
theorem test_meets_fetch_fault :
    let s := paged [(6, 0x4000000001)] id
    s.me.pending [5, 6] = false ∧ wellFormedIa (s.me.x 6) = true ∧
    ∃ r t, Traps (enterLine s.me.sstat.mode (s.me.x 6)) s r t ∧ t.cur < t.cores.length :=
  ⟨by decide +kernel, by decide +kernel, _, _, traps_get (by decide +kernel), by decide +kernel⟩

/-- A pad address for every width, seen from core 5. -/
theorem pad_read : Spec.PadRead (padded []) padVa 8 padAt where
  aligned := by decide +kernel
  place := by decide +kernel
  good := by decide +kernel
  plain := by decide +kernel
  exact := by decide +kernel

theorem test_meets_pad_loads : Spec.Accessing (padded []) [3, 1] ∧ Spec.address ((padded []).me.x 1) 0 = padVa ∧
    Spec.PadRead (padded []) padVa 8 padAt :=
  ⟨accessing_of (by decide +kernel) (by decide +kernel), by decide +kernel, pad_read⟩

/-- The paged core with the address of its data page in x1. -/
def onPage : State := paged [(1, 0x40000000), (2, 5)] id

/-- The data page. -/
def dataPage : Page := { va := 0x40000000, size := 2 ^ 30, base := 0x40000000, leaf := 0x0090000040000015, level := 2, pdb := none, spans := [] }

theorem test_meets_page_loads : Spec.Accessing onPage [3, 1] ∧ 0x40000000 % 8 = 0 ∧
    ∃ tg t bs u, Answers (readPlace (onPage.me.ctx onPage.cur) 0x40000000) onPage tg t ∧
      Answers (readScalar onPage.cur tg.key tg.held 0x40000000 tg.loc 8) t bs u :=
  ⟨accessing_of (by decide +kernel) (by decide +kernel), by decide +kernel, _, _, _, _, answers_get (by decide +kernel),
    answers_get (by decide +kernel)⟩

/-- A store, and a store with release, to the data page. -/
theorem test_meets_stores : Spec.Accessing onPage [2, 1] ∧ Spec.Quiet onPage ∧
    ∃ t tg u v, Answers (place (onPage.me.ctx 5) .write 0x40000000) onPage (.page dataPage) t ∧
      t.inserts (onPage.me.ctx 5) (.page dataPage) 0x40000000 = false ∧
      Answers (writeTarget (onPage.me.ctx 5) (.page dataPage) 0x40000000 0x40000000) t tg u ∧
      Answers (writeTarget (onPage.me.ctx 5) (.page dataPage) 0x40000000 0x40000000) (Spec.released t .device) tg v :=
  ⟨accessing_of (by decide +kernel) (by decide +kernel), quiet_of (by decide +kernel) (by decide +kernel), _, _, _, _,
    answers_eq (by decide +kernel), by decide +kernel, answers_eq (a := { loc := 0x40000000, key := none, held := false }) (by decide +kernel),
    answers_eq (by decide +kernel)⟩

/-- A store that inserts a line of the glaze page. -/
theorem test_meets_inserting_stores : ∃ q t tg u,
    Answers (place (overlays_s.me.ctx 5) .write 0x80001000) overlays_s q t ∧ t.inserts (overlays_s.me.ctx 5) q 0x80001000 = true ∧
    Answers (writeTarget (overlays_s.me.ctx 5) q 0x80001000 0x80001000) (t.flushSb 5) tg u :=
  ⟨_, _, _, _, answers_get (by decide +kernel), by decide +kernel, answers_get (by decide +kernel)⟩

/-- Misaligned addresses of every width. -/
theorem test_meets_misaligned : Spec.Accessing (plain [(1, 1)]) [3, 1] ∧ Spec.Accessing (plain [(1, 1)]) [3, 1, 2] ∧
    (plain [(1, 1)]).me.queue = [] ∧ ((plain [(1, 1)]).me.x 1).toNat % 2 ≠ 0 ∧ ((plain [(1, 1)]).me.x 1).toNat % 64 ≠ 0 :=
  ⟨accessing_of (by decide +kernel) (by decide +kernel), accessing_of (by decide +kernel) (by decide +kernel), by decide +kernel,
    by decide +kernel, by decide +kernel⟩

/-- An AMO of 8 bytes with release on the data page, and a compare-and-swap. -/
theorem test_meets_amos : ((onPage.me.x 1).toNat % 8 = 0) ∧ Spec.Quiet onPage ∧ Spec.Accessing onPage [3, 1, 2] ∧
    Spec.Accessing onPage [3, 1, 2, 4] ∧
    ∃ q t old w, Answers (place (onPage.me.ctx onPage.cur) .write (onPage.me.x 1).toNat) onPage q t ∧
      Answers (atomicAt (onPage.me.ctx onPage.cur) q (onPage.me.x 1).toNat 8 (Spec.amo (fun _ o b => o + b) 8 5))
        ((Spec.released t .device).flushOver onPage.cur
          ((Spec.released t .device).amoLoc (onPage.me.ctx onPage.cur) q (onPage.me.x 1).toNat) 8) old w :=
  ⟨by decide +kernel, quiet_of (by decide +kernel) (by decide +kernel), accessing_of (by decide +kernel) (by decide +kernel),
    accessing_of (by decide +kernel) (by decide +kernel), _, _, _, _, answers_get (by decide +kernel), answers_get (by decide +kernel)⟩

/-- A write of 8 bytes that may perform. -/
theorem test_meets_performed_write : Spec.InLine 0x40000000 (leBytes 8 5).length ∧ homeOf 0x40000000 = some 0 ∧ 0 < onPage.dies.length ∧
    onPage.dies.length = 4 ∧ Memory.wf onPage.mem = true ∧ onPage.writable none 0x40000000 8 = true ∧ onPage.sealOf (0x40000000 / 64) = none ∧
    onPage.vagueSeed (0x40000000 / 64) = none := ⟨⟨by decide, by decide⟩, by decide +kernel⟩

/-- Barrier 1 in the first line of the data page. -/
def oneBarrier : Barrier :=
  { index := 1, line := 0x1000000, key := none, count := 1, arrived := 0, phase := 0, killed := false, waiters := [], clock := Clock.reset, cur := Clock.reset }

/-- An atomic update on the data page, on a pad, and on a line that is a barrier. -/
theorem test_meets_atomic_updates :
    let c := onPage.me.ctx onPage.cur
    ∃ t, Answers (place c .write 0x40000000) onPage (.page dataPage) t ∧ dataPage.phys 0x40000000 = 0x40000000 ∧ pteHasPdb dataPage.leaf.toNat = false ∧
      dataPage.key = none ∧ isFabric 0x40000000 = false ∧ t.badLines.contains (0x40000000 / 64) = false ∧ t.sealOf (0x40000000 / 64) = none ∧
      t.vagueSeed (0x40000000 / 64) = none ∧
      ((t.core c.core).sb.all fun e => !overlaps e.loc e.bytes.length 0x40000000 8) = true ∧ t.barrierOn (0x40000000 / 64) = none ∧
      ((onPage.updDie 0 fun d => { d with bars := [oneBarrier] }).barrierOn (0x40000000 / 64)).isSome = true :=
  ⟨_, answers_eq (by decide +kernel), by decide +kernel⟩

/-- A location of this device, as a check. -/
def onDevice (loc : Nat) : Bool := match homeOf loc with | some h => decide (h < 4) | none => true

theorem onDevice_of {loc : Nat} (h : onDevice loc = true) : Spec.OnDevice loc := by
  intro d e
  simpa [onDevice, e] using h

/-- The clocks are causal while a store waits, and it leaves. -/
theorem test_meets_causal : Spec.Causal stored ∧ ∃ t, exec (.commit 5) stored = .next t := by
  refine ⟨⟨by decide +kernel, ?_, ?_, ?_, ?_⟩, ?_⟩
  · intro d h hd hh
    exact (by decide +kernel : ∀ d, d < 4 → ∀ h, h < 4 → (stored.die d).dvc.get h ≤ (stored.die h).dvc.get h) d hd h hh
  · intro d hd u hu
    exact absurd hu ((by decide +kernel : ∀ d, d < 4 → (stored.die d).inbox = []) d hd ▸ List.not_mem_nil)
  · intro w hw
    exact absurd hw ((by decide +kernel : stored.inflight = []) ▸ List.not_mem_nil)
  · intro k hk e he
    exact onDevice_of ((by decide +kernel : ∀ k ∈ stored.cores, ∀ e ∈ k.sb, onDevice e.loc = true) k hk e he)
  · exact ⟨after (.commit 5) stored, by
      have h : ∃ t, exec (.commit 5) stored = .next t := ⟨_, rfl⟩
      obtain ⟨t, h⟩ := h
      simp only [after, out, h, Option.getD_some, id_eq]⟩

/-- A store that may leave its core, one in flight that may perform, an update that is next, and a fill that its die still allows. -/
theorem test_meets_core_stores : ((stored.core 5).sb.find? fun e => !e.committed).isSome = true ∧
    ((stored.core 5).sb.all fun e => stored.mayLeave 5 e) = true := by decide +kernel

theorem test_meets_flights : ((after (.commit 5) stored).inflight[0]?.map fun w => ((after (.commit 5) stored).flightReady w, homeOf w.loc, w.key,
      (after (.commit 5) stored).sealOf (w.loc / 64))) = some (true, some 0, none, none) ∧
    ((after (.commit 5) stored).inflight[0]?.map fun w => (after (.commit 5) stored).vagueSeed (w.loc / 64)) = some none := by decide +kernel

theorem test_meets_flight_lines : ((after (.commit 5) stored).inflight[0]?.map fun w =>
      ((after (.commit 5) stored).writable none w.loc w.bytes.length, w.loc % 64, w.bytes.length)) = some (true, 0, 8) ∧
    Memory.wf (after (.commit 5) stored).mem = true := by decide +kernel

theorem test_meets_updates : ((after (.perform 0) (after (.commit 5) stored)).die 1).inbox[0]?.map
    (updateReady ((after (.perform 0) (after (.commit 5) stored)).die 1)) = some true := by decide +kernel

/-- A recorded fill of line 1 for die 1. -/
def filling : State :=
  { State.reset with fills := [{ die := 1, home := 0, line := 1, bytes := 0, stamp := Clock.reset, h := 0, core := 40 }] }

theorem test_meets_fill : (filling.fills[0]?.map fun f => (f.die, (filling.die f.die).dvc.get f.home, f.h)) = some (1, 0, 0) := by decide +kernel

/-- Fences, caches and waits: a quiet core that is ready, a page to read and to write, a pad, and an address that no table maps. -/
theorem test_meets_fences : Ready onPage [] ∧ Spec.Quiet onPage ∧ onPage.me.queue = [] ∧
    (Spec.released onPage .system).crustHas onPage.cur Item.acq = false :=
  ⟨ready_of (by decide +kernel), quiet_of (by decide +kernel) (by decide +kernel), by decide +kernel, by decide +kernel⟩

/-- Dispatch passes where the buffer is empty, and a store before a FENCE.SV that it performs. -/
theorem test_meets_fence_gates : (∃ t, Ends svGate onPage t) ∧
    (let s := stored.updMe fun k => { k with svFence := k.seq }; s.cur < s.cores.length ∧ s.me.queue = [] ∧ ∃ w ∈ s.me.sb, w.seq < s.me.svFence) :=
  ⟨⟨_, ends_unit (by decide +kernel)⟩, by decide +kernel⟩

theorem test_meets_caches : Ready onPage [1] ∧ ¬ ((onPage.me.x 1).toNat / 64 * 64 < 2 ^ 57 ∧ Sys2Proof.Machine.bits ((onPage.me.x 1).toNat / 64 * 64) 56 52 = 0x1F) ∧
    (∃ t, Answers (place (onPage.me.ctx 5) .read 0x40000000) onPage (.page dataPage) t ∧ dataPage.leaf.getLsbD 10 = false) ∧
    (∃ t, Answers (place ((super [] true true).me.ctx 5) .write 0x40000000) (super [] true true) (.page dataPage) t ∧ Memory.wf t.mem = true) ∧
    (∃ r t, Traps (place (onPage.me.ctx 5) .read 0x4000000000) onPage r t) ∧
    (Spec.address ((padded []).me.x 1) 0 / 64 * 64 < 2 ^ 57 ∧ Sys2Proof.Machine.bits (Spec.address ((padded []).me.x 1) 0 / 64 * 64) 56 52 = 0x1F) :=
  ⟨ready_of (by decide +kernel), by decide +kernel, ⟨_, answers_eq (by decide +kernel), by decide +kernel⟩,
    ⟨_, answers_eq (by decide +kernel), by decide +kernel⟩, ⟨_, _, traps_get (by decide +kernel)⟩, by decide +kernel⟩

/-- A first read of a WAITA that meets its condition, and one that does not; a pad; a misaligned address. -/
theorem test_meets_waits : Spec.Accessing (padded []) [3, 1, 2] ∧ (padded []).me.queue = [] ∧ (padded []).me.monitor = none ∧
    (∃ t, Answers (waitRead 0x40000000) onPage (0, .page dataPage) t ∧ Spec.met true 0 (onPage.me.x 3) ∧ ¬ Spec.met false 0 (onPage.me.x 3) ∧
      (t.die (dieOf 5)).monitors < 256) ∧
    Spec.PadRead (padded []) padVa 8 padAt ∧ ((padded []).me.sb.all fun e => !overlaps e.loc e.bytes.length padAt 8) = true ∧
    ((plain [(1, 1)]).me.x 1).toNat % 8 ≠ 0 :=
  ⟨accessing_of (by decide +kernel) (by decide +kernel), by decide +kernel, by decide +kernel, ⟨_, answers_eq (by decide +kernel), by unfold Spec.met; decide +kernel,
    by unfold Spec.met; decide +kernel, by decide +kernel⟩, pad_read, by decide +kernel, by decide +kernel⟩

/-- A wait for the doubleword at 40000000H to be 0, until cycle 0, whose last read saw one write there. -/
def lastRead : Monitor :=
  { d := 3, va := 0x40000000, value := 0, equal := true, deadline := some 0, place := .page dataPage, scx := 0, seen := (0x40000000, 1) }

def waiting : State := onPage.updMe fun k => { k with monitor := some lastRead }

theorem test_meets_wait_ends : (waiting.core 5).queue = [] ∧ wellFormedIa (waiting.core 5).nextIa = true ∧
    (waiting.core 5).monitor = some lastRead ∧
    lastRead.seen ≠ ({ waiting with cur := 5 } : State).watched lastRead.scx lastRead.place lastRead.va ∧
    (0x40000000, 0) = ({ waiting with cur := 5 } : State).watched lastRead.scx lastRead.place lastRead.va ∧
    ∃ v q t, Answers (waitRead 0x40000000) { waiting with cur := 5 } (v, q) t ∧ Spec.met true v 0 :=
  ⟨by decide +kernel, by decide +kernel, by decide +kernel, by decide +kernel, by decide +kernel, 0, .page dataPage, _, answers_eq (by decide +kernel),
    by unfold Spec.met; decide +kernel⟩

/-- CSR instructions in task mode and in supervisor mode. -/
theorem test_meets_csrs : Ready onPage [3, 1] ∧ Spec.Quiet onPage ∧ onPage.me.sstat.mode = false ∧ Csr.tvec ∉ Spec.taskWritable ∧ Csr.frm ∈ Spec.taskWritable ∧
    (super [] true true).me.sstat.mode = true ∧ Ready (super [] true true) [3, 1] :=
  ⟨ready_of (by decide +kernel), quiet_of (by decide +kernel) (by decide +kernel), by decide +kernel, by decide, by decide, by decide +kernel,
    ready_of (by decide +kernel)⟩

/-- A wait for the handler's line of a fault in task mode. -/
theorem test_meets_trap_entry : wellFormedIa (paged [] id).me.tvec = true ∧ iaSlot (paged [] id).me.tvec ≤ lineNh nopLine ∧
    (paged [] id).me.sstat.mode = false ∧ (paged [] id).me.queue = [] ∧ Spec.NoneStopped (paged [] id).me ∧
    ∃ v, Answers (enterLine true (paged [] id).me.tvec) ((((paged [] id).freeMonitor 5).leaveBarriers 5).updMe fun k =>
      { Spec.saved (faultOf 4 1 0) false 0x41 false k with held := [] }) nopLine v :=
  ⟨by decide +kernel, by decide +kernel, by decide +kernel, by decide +kernel, by unfold Spec.NoneStopped; decide +kernel, _, answers_eq (by decide +kernel)⟩

/-- The same in supervisor mode, and for TRAP in both. -/
theorem test_meets_nested_trap : (super [] true true).me.sstat.mode = true ∧
    (∃ v, Answers (enterLine true (super [] true true).me.tvec) (((super [] true true).freeMonitor 5).updMe
      (Spec.saved (faultOf 28 0 1) false (super [] true true).me.nextIa (super [] true true).me.sstat.held)) nopLine v) ∧
    ∃ v, Answers (enterLine true (paged [] id).me.tvec) ((((paged [] id).freeMonitor 5).leaveBarriers 5).updMe fun k =>
      { Spec.saved (faultOf 28 0 1) false (paged [] id).me.nextIa false k with held := [] }) nopLine v :=
  ⟨by decide +kernel, ⟨_, answers_eq (by decide +kernel)⟩, _, answers_eq (by decide +kernel)⟩

/-- An entry of the vector queue that has stopped at a fault. -/
def stoppedEntry : VEntry := { (paged [] id).entry (.kpop { d := 3, a := 1 }) .frm none none none none with fault := some (faultOf 21 0 0) }

/-- The core with that entry at the head of its queue. -/
def lateCore : State := (paged [] id).updMe fun k => { k with queue := [stoppedEntry] }

theorem test_meets_late_fault : lateCore.me.sstat.mode = false ∧ lateCore.me.queue = [stoppedEntry] ∧ stoppedEntry.fault = some (faultOf 21 0 0) ∧
    Spec.NoneStopped lateCore.me ∧ (∀ i, 0 < i → lateCore.chainLimit lateCore.cur i = none) ∧ ∃ v, Answers (enterLine true lateCore.me.tvec) (((lateCore.freeMonitor 5).leaveBarriers 5).updMe fun k =>
      { Spec.saved (faultOf 21 0 0) true 0x41 true k with queue := [], held := [{ stoppedEntry with fault := none }], vstart := stoppedEntry.prog.word }) nopLine v :=
  ⟨by decide +kernel, by decide +kernel, by decide +kernel, by unfold Spec.NoneStopped; decide +kernel, fun i h => by
      have q : (lateCore.core lateCore.cur).queue = [stoppedEntry] := by decide +kernel
      unfold State.chainLimit
      simp only [q, List.getElem?_eq_none (show [stoppedEntry].length ≤ i from h)], _, answers_eq (by decide +kernel)⟩

theorem test_meets_chains : (lateCore.me.queue.head?.bind VEntry.fault).isSome = true ∧ ∃ w, Ends chainStopped lateCore w ∧ w.cur = lateCore.cur ∧
    w.cur < w.cores.length ∧ w.me.queue = [stoppedEntry] ∧ Spec.NoneStopped w.me ∧ wellFormedIa w.me.tvec = true :=
  ⟨by decide +kernel, _, ends_unit (by decide +kernel), by decide +kernel, by decide +kernel, by decide +kernel, by unfold Spec.NoneStopped; decide +kernel,
    by decide +kernel⟩

/-- A task without a handler. -/
theorem test_meets_no_handler : ((area []).updMe fun k => { k with tvec := 0 }).me.sstat.mode = false ∧
    wellFormedIa ((area []).updMe fun k => { k with tvec := 0 }).me.tvec = false ∧
    ((area []).updMe fun k => { k with tvec := 0 }).me.run.isSome = true ∧ Spec.NoneStopped ((area []).updMe fun k => { k with tvec := 0 }).me :=
  ⟨by decide +kernel, by decide +kernel, by decide +kernel, by unfold Spec.NoneStopped; decide +kernel⟩

/-- Returns to supervisor mode, to a task, and to no context. -/
theorem test_meets_returns : Spec.Quiet (super [] true true) ∧ wellFormedIa (super [] true true).me.eia = true ∧
    iaSlot (super [] true true).me.eia ≤ lineNh nopLine ∧ (∃ u, Answers (enterLine true 0x81) (super [] true true) nopLine u) ∧
    (∃ u, Answers (enterLine false 0x81) (super [] false true) nopLine u) ∧ (super [] false true).me.sstat.loaded = true ∧
    (super [] false false).me.sstat.loaded = false ∧ (super [] false false).me.reclaim = false :=
  ⟨quiet_of (by decide +kernel) (by decide +kernel), by decide +kernel, by decide +kernel, ⟨_, answers_eq (by decide +kernel)⟩,
    ⟨_, answers_eq (by decide +kernel)⟩, by decide +kernel, by decide +kernel, by decide +kernel⟩

/-- TLBINV where no other core has a store left, and WFI with and without a pending message. -/
theorem test_meets_supervisor : Ready (super [] true true) [1, 2] ∧ Spec.Quiet (super [] true true) ∧
    (∀ k ∈ (Spec.released (super [] true true) .device).flushEvery.cores, k.sb = []) ∧
    (Spec.released (super [] true true) .device).flushEvery.rowsLeft = [] ∧ (Spec.released (super [] true true) .device).flushEvery.itemsLeft = [] ∧
    Ready (super [] true true) [] ∧
    (super [] true true).me.preempt = none ∧ (super [] true true).me.mgmt = false ∧ (paged [] id).me.sstat.mode = false :=
  ⟨ready_of (by decide +kernel), quiet_of (by decide +kernel) (by decide +kernel), by decide +kernel, by decide +kernel, by decide +kernel,
    ready_of (by decide +kernel), by decide +kernel, by decide +kernel, by decide +kernel⟩

/-- A supervisor with nothing queued saves a held set and restores an image. -/
theorem saving_of (loaded held : Bool) (h : isReady (saving loaded held) [3, 1] = true) (q : (saving loaded held).me.queue = [])
    (i : (saving loaded held).me.issued = 0) (m : (saving loaded held).me.sstat.mode = true) :
    Spec.Saving (saving loaded held) { d := 3, a := 1 } := ⟨ready_of h, ⟨q, i⟩, m⟩

theorem test_meets_queue_images : Spec.Saving (saving true true) { d := 3, a := 1 } ∧ ((saving true true).me.x 1).toNat % 64 = 0 ∧
    (∃ g u, Answers (checkRange ((saving true true).me.ctx 5) .write [] ((saving true true).me.x 1).toNat 2112) ((saving true true).flushSb 5) g u ∧
      ∃ w, Ends (g.write ((saving true true).me.ctx 5) ((saving true true).me.x 1).toNat (imageOf u.freeCtr (saving true true).me.held (saving true true).me.vstart))
        { u with freeCtr := u.freeCtr + 1 } w) ∧
    ∃ g u, Answers (checkRange ((saving true true).me.ctx 5) .read [] ((saving true true).me.x 1).toNat 2112) ((saving true true).flushSb 5) g u ∧
      ∃ bs w, Answers (g.read ((saving true true).me.ctx 5) .read ((saving true true).me.x 1).toNat 2112) u bs w :=
  ⟨saving_of _ _ (by decide +kernel) (by decide +kernel) (by decide +kernel) (by decide +kernel), by decide +kernel,
    ⟨_, _, answers_get (by decide +kernel), _, ends_unit (by decide +kernel)⟩, _, _, answers_get (by decide +kernel), _, _, answers_get (by decide +kernel)⟩

/-- No line has an error, a seal, undefined contents or a barrier. -/
abbrev Calm (s : State) : Prop := (s.badLines = [] ∧ s.sealTags = [] ∧ s.vague = []) ∧ ∀ d ∈ s.dies, d.bars = []

theorem Calm.plain {s : State} (h : s.badLines = [] ∧ s.sealTags = [] ∧ s.vague = []) (l : Nat) :
    s.badLines.contains l = false ∧ s.sealOf l = none ∧ s.vagueSeed l = none := by
  simp [State.sealOf, State.vagueSeed, h]

theorem Calm.all {s : State} (h : Calm s) (l : Nat) :
    s.badLines.contains l = false ∧ s.sealOf l = none ∧ s.vagueSeed l = none ∧ s.barrierOn l = none := by
  obtain ⟨a, b, c⟩ := Calm.plain h.1 l
  refine ⟨a, b, c, ?_⟩
  simp only [State.barrierOn, List.findSome?_eq_none_iff]
  intro d hd
  rw [h.2 d hd]
  rfl

/-- CTXSAVE with no context loaded, CTXREST with one, and an address that is not aligned. -/
theorem test_meets_context_status : Spec.Saving (saving false false) { d := 3, a := 1 } ∧ (saving false false).cores.length = 160 ∧
    (saving false false).mxes.length = 40 ∧ (saving false false).cur < 160 ∧
    (∃ st t, Answers (ctxsave ((saving false false).me.ctx 5) ((saving false false).me.x 1).toNat) (saving false false) st t) ∧
    (∃ st t, Answers (ctxrest ((saving true false).me.ctx 5) ((saving true false).me.x 1).toNat) (saving true false) st t) ∧
    ((saving true false).me.x 2).toNat % 4096 ≠ 0 :=
  ⟨saving_of _ _ (by decide +kernel) (by decide +kernel) (by decide +kernel) (by decide +kernel), by decide +kernel, by decide +kernel, by decide +kernel,
    ⟨_, _, answers_get (by decide +kernel)⟩, ⟨_, _, answers_get (by decide +kernel)⟩, by decide +kernel⟩

theorem block_of {s : State} {va loc n : Nat} (h : va % 4096 = 0 ∧ (0x01F1000000000000 ≤ va ∧ va + n ≤ 0x01F1000000000000 + 2 ^ 22) ∧
    loc = clusterLoc (s.cur / 4 * 4) 0 + (va - 0x01F1000000000000) ∧ Memory.wf s.mem = true ∧ Calm s) : Spec.BlockAt s va loc n :=
  ⟨h.1, h.2.1, h.2.2.1, h.2.2.2.1, fun l _ _ => h.2.2.2.2.all l⟩

/-- A loaded context that holds nothing else, and a block in the first bytes of cluster memory. -/
theorem test_meets_context_saved : Spec.Saving (saving true false) { d := 3, a := 1 } ∧ (saving true false).cur < 160 ∧ (saving true false).me.sb = [] ∧
    (saving true false).me.sstat.loaded = true ∧ (saving true false).me.sstat.held = false ∧ (saving true false).me.held = [] ∧
    ((saving true false).mxe 1).holds 1 = false :=
  ⟨saving_of _ _ (by decide +kernel) (by decide +kernel) (by decide +kernel) (by decide +kernel), by decide +kernel⟩

theorem test_meets_saved_block : (∀ k ∈ (saving true false).crusts, k.queue = []) ∧ (saving true false).me.window.isOpen = false ∧
    (∀ i, i < 32 → (saving true false).me.saveRows i ≤ if (saving true false).me.wideFile then (if i < 16 then 128 else 0) else 64) ∧
    ((saving true false).me.paduse.extractLsb' 32 13).toNat ≤ 4096 ∧
    (saving true false).num (clusterLoc 4 0 + 0x50) 8 = 0 ∧
    Spec.BlockAt (saving true false) ((saving true false).me.x 1).toNat (clusterLoc 4 0) (0x10EA40 + ((saving true false).me.paduse.extractLsb' 0 21).toNat) :=
  ⟨by decide +kernel, by decide +kernel, by decide +kernel, by decide +kernel, by decide +kernel, block_of (by decide +kernel)⟩

/-- A block that says SAVED, of launch 9, at the first bytes of cluster memory, and a core of a share of that launch. -/
def restoring : State :=
  { saving false false with
    mem := [(clusterLoc 4 0, 1), (clusterLoc 4 0 + 2, 1), (clusterLoc 4 0 + 8, 9)]
    shares := [{ launch := 9, die := 0, cores := [4, 5], ceil := 32, cls := 0, levels := 9, stream := 0, ptroot := 0x1000, asid := 0 }] }

theorem test_meets_context_restored : Spec.Saving restoring { d := 3, a := 1 } ∧ restoring.cur < 160 ∧ restoring.cores.length = 160 ∧
    restoring.me.sb = [] ∧ restoring.me.sstat.loaded = false ∧ Spec.BlockAt restoring (restoring.me.x 1).toNat (clusterLoc 4 0) (0x10EA40 + 2 ^ 20) ∧
    restoring.num (clusterLoc 4 0) 8 % 2 ^ 18 = 1 + 2 ^ 16 ∧ Sys2Proof.Machine.bits (restoring.num (clusterLoc 4 0) 8) 21 20 = restoring.cur / 40 ∧
    restoring.num (clusterLoc 4 0 + 0x50) 8 = 0 ∧ restoring.num (clusterLoc 4 0 + 0x58) 8 = 0 ∧ restoring.num (clusterLoc 4 0 + 0x60) 8 = 0 ∧ restoring.num (clusterLoc 4 0 + 0x68) 8 = 0 ∧
    (restoring.shareOf restoring.cur).map Share.launch = some (restoring.num (clusterLoc 4 0 + 8) 8 % 2 ^ 16) :=
  ⟨⟨ready_of (by decide +kernel), ⟨by decide +kernel, by decide +kernel⟩, by decide +kernel⟩, by decide +kernel, by decide +kernel, by decide +kernel,
    by decide +kernel, block_of (by decide +kernel), by decide +kernel⟩

/-- The records at 40000100H, of KIND 0, and at 40000120H, of KIND 1, are read. -/
theorem record_read (a : Nat) (h : a % 32 = 0) (p : (result (place ((area []).taskCtx (area []).cur) .read a) (area [])).isSome = true)
    (v : (result (vecRead ((area []).taskCtx (area []).cur) ((result (place ((area []).taskCtx (area []).cur) .read a) (area [])).get p) a 32)
      (Spec.released (ended (place ((area []).taskCtx (area []).cur) .read a) (area [])) .device)).isSome = true) :
    Spec.RecordRead (area []) a
      ((result (vecRead ((area []).taskCtx (area []).cur) ((result (place ((area []).taskCtx (area []).cur) .read a) (area [])).get p) a 32)
        (Spec.released (ended (place ((area []).taskCtx (area []).cur) .read a) (area [])) .device)).get v)
      (ended (vecRead ((area []).taskCtx (area []).cur) ((result (place ((area []).taskCtx (area []).cur) .read a) (area [])).get p) a 32)
        (Spec.released (ended (place ((area []).taskCtx (area []).cur) .read a) (area [])) .device)) :=
  ⟨h, _, _, answers_get p, answers_get v⟩

/-- Spawns: a record of each KIND and the frame of a loop, in a launch that is not cancelled. -/
theorem test_meets_spawns : Ready (area []) [3, 1] ∧ Spec.Quiet (area []) ∧
    (∃ bs w, Spec.RecordRead (area []) ((area []).me.x 1).toNat bs w ∧ Spec.kind bs = 0 ∧ w.cancelled 0 (Spec.launch w) = false) ∧
    (∃ bs w, Spec.RecordRead (area []) ((area []).me.x 2).toNat bs w ∧ Spec.kind bs = 1 ∧ w.cancelled 0 (Spec.launch w) = false ∧
      ∃ f v, Answers (readFrame (Spec.record w bs ((area []).me.x 2)).fp) w f v) :=
  ⟨ready_of (by decide +kernel), quiet_of (by decide +kernel) (by decide +kernel),
    ⟨_, _, record_read _ (by decide +kernel) (by decide +kernel) (by decide +kernel), by decide +kernel, by decide +kernel⟩,
    _, _, record_read _ (by decide +kernel) (by decide +kernel) (by decide +kernel), by decide +kernel, by decide +kernel, _, _,
      answers_get (by decide +kernel)⟩

/-- A launch whose CANCEL flag is set. -/
theorem test_meets_cancelled : ((area []).setBytes 0x4000050 [1]).cancelled 0 (Spec.launch (area [])) = true := by decide +kernel

/-- Addresses of task instructions that are not aligned. -/
theorem test_meets_task_addresses : ((area []).me.x 6).toNat % 32 ≠ 0 ∧ ((area []).me.x 6).toNat % 64 ≠ 0 ∧ (area []).me.queue = [] := by decide +kernel

/-- A join counter on the data page, and one on the core pad. -/
theorem test_meets_joins : Ready (area []) [3, 4, 5] ∧ ((area []).me.x 4).toNat % 64 = 0 ∧
    (∃ q t w v, Answers (place ((area []).taskCtx 5) .write ((area []).me.x 4).toNat) (area []) q t ∧
      Answers (joinAdd ((area []).taskCtx 5) q ((area []).me.x 4).toNat ((area []).me.x 5)) (Spec.released t .device) v w) ∧
    padLoc 5 0x01F0000000000040 = some (padAt + 0x30) ∧ (area []).me.sb = [] :=
  ⟨ready_of (by decide +kernel), by decide +kernel, ⟨_, _, _, _, answers_get (by decide +kernel), answers_get (by decide +kernel)⟩, by decide +kernel,
    by decide +kernel⟩

/-- A record that waits to be pushed: with room in the deque, with room in the reserve alone, and with no room. -/
def waitingPush (deque inject : Nat) : State :=
  let r : Rec := { addr := 9, slot := 0, cp := 0x81, fp := 0, jb := 0, info := 1, ck := Clock.reset }
  ((area []).updMe fun k => { k with pendingPush := some r, deque := List.replicate deque r }).updDie 0 fun d =>
    { d with inject := List.replicate inject (1, r) }

theorem test_meets_join_retries : ((waitingPush 0 0).core 5).pendingPush.isSome = true ∧ ((waitingPush 0 0).core 5).deque.length < 32 + 4096 ∧
    32 + 4096 ≤ ((waitingPush 4128 0).core 5).deque.length ∧
    (((waitingPush 4128 0).die 0).inject.filter fun q => q.1 == 1).length < 4096 ∧
    4096 ≤ (((waitingPush 4128 4096).die 0).inject.filter fun q => q.1 == 1).length ∧ dieOf 5 < (waitingPush 4128 4096).dies.length := by
  decide +kernel

/-- END: its waits, the check of JB, step 2, and COUNT, in a launch whose COUNT is 2; and a task that supervisor mode ends. -/
theorem test_meets_ends : (area []).me.sstat.mode = false ∧ ((area []).me.run.map fun r => (r.strip, r.task.jb)) = some (none, 0) ∧
    (area []).me.reclaim = false ∧ (∃ v, Ends checkJb (Spec.ended (area [])) v ∧ ∃ u1, Ends (endStep2 none 1) (Spec.released v .device) u1 ∧
      ∃ w, Ends (countDown ((area []).taskCtx 5) (Spec.launch (area []))) u1 w) ∧
    ((area []).updMe fun k => { k with sstat := { k.sstat with mode := true } }).me.run.isSome = true :=
  ⟨by decide +kernel, by decide +kernel, by decide +kernel, ⟨_, ends_unit (by decide +kernel), _, ends_unit (by decide +kernel), _,
    ends_unit (by decide +kernel)⟩, by decide +kernel⟩

/-- COUNT of launch 1 is 2, and then 1, with no parent and no completion word. -/
theorem test_meets_count_falls : (area []).num 0x4000040 8 ≠ 1 ∧ homeOf 0x4000040 ≠ none ∧ Memory.wf (area []).mem = true ∧
    ((area []).setBytes 0x4000040 [1]).num 0x4000040 8 = 1 ∧
    Sys2Proof.Machine.bits (((area []).setBytes 0x4000040 [1]).num (0x4000040 + 32) 8) 15 0 = 0 ∧
    (area []).badLines = [] ∧ (area []).sealTags = [] ∧ (area []).vague = [] := by decide +kernel

/-- A yield of the record at 40000100H; the one at 40000120H is of another KIND. -/
theorem test_meets_yields : (area []).cur < (area []).cores.length ∧ Spec.Quiet (area []) ∧
    (∃ q t v bs w, Answers (place ((area []).taskCtx 5) .read ((area []).me.x 1).toNat) (area []) q t ∧ Ends checkJb (Spec.ended t) v ∧
      Answers (vecRead ((area []).taskCtx 5) q ((area []).me.x 1).toNat 32) (Spec.released v .device) bs w ∧ Spec.kind bs = 0 ∧
      ((w.die 0).inject.filter fun q => q.1 == 1).length < 4096 ∧ ∃ u, Ends (endStep2 none 0) w u) ∧
    ∃ q t v bs w, Answers (place ((area []).taskCtx 5) .read ((area []).me.x 2).toNat) (area []) q t ∧ Ends checkJb (Spec.ended t) v ∧
      Answers (vecRead ((area []).taskCtx 5) q ((area []).me.x 2).toNat 32) (Spec.released v .device) bs w ∧ Spec.kind bs ≠ 0 :=
  ⟨by decide +kernel, quiet_of (by decide +kernel) (by decide +kernel),
    ⟨_, _, _, _, _, answers_get (by decide +kernel), ends_unit (by decide +kernel), answers_get (by decide +kernel), by decide +kernel,
      by decide +kernel, _, ends_unit (by decide +kernel)⟩,
    _, _, _, _, _, answers_get (by decide +kernel), ends_unit (by decide +kernel), answers_get (by decide +kernel), by decide +kernel⟩

/-- The own launch, a level that may not be named, and a level record without a completion word. -/
theorem test_meets_levels : Spec.Accessing (area [(7, 5)]) [3, 7] ∧ Spec.Quiet (area [(7, 5)]) ∧ Spec.level (area [(7, 5)]) ((area [(7, 5)]).me.x 7) = none ∧
    Spec.level (area [(7, 5)]) ((area [(7, 5)]).me.x 0) = some (0, 1) ∧ (area [(7, 5)]).num (0x4000040 + 24) 8 % 8 = 0 ∧
    (∀ d, d < 4 → ((Spec.released (area [(7, 5)]) .device).die d).loops = []) ∧
    ∃ w t, Answers (deviceRead ((area [(7, 5)]).levelCtx 5 0 1) ((area [(7, 5)]).num (0x4000040 + 24) 8) 8) (area [(7, 5)]) w t :=
  ⟨accessing_of (by decide +kernel) (by decide +kernel), quiet_of (by decide +kernel) (by decide +kernel), by decide +kernel, by decide +kernel,
    by decide +kernel, by decide +kernel, _, _, answers_get (by decide +kernel)⟩

/-- An idle core of a share: with a record in its deque, with a loop on its die, with an injected record. -/
def looping : State :=
  (idleCore.updDie 0 fun d => { d with
    loops := [{ number := 0, task := { addr := 9, slot := 0, cp := 0x81, fp := 0, jb := 0, info := 1, ck := Clock.reset }, launch := 1, next := 0, lo := 0, hi := 10,
                strip := 4, channel := 2, bound := false, live := 0, ck := Clock.reset }]
    inject := [(0, { addr := 9, slot := 0, cp := 0x81, fp := 0, jb := 0, info := 1, ck := Clock.reset })] }).updCore 5 fun k => { k with deque := [] }

theorem test_meets_task_starts : (idleCore.shareOf 5).map Share.launch = some 1 ∧ (idleCore.core 5).act = .idle ∧ (idleCore.core 5).pendingPush = none ∧
    idleCore.cancelled 0 1 = false ∧ (idleCore.core 5).deque.map (fun r => (r.launchId, wellFormedIa r.cp)) = [(1, true)] := by decide +kernel

theorem test_meets_strip_starts : (looping.core 5).deque = [] ∧
    ((looping.die 0).loops.find? fun l => l.launch == 1 && l.nextStrip.isSome).map (fun l => (l.nextStrip, wellFormedIa l.task.cp)) = some (some (0, 4), true) ∧
    ((looping.die 0).inject.find? fun q => q.2.launchId == 1).map (fun q => wellFormedIa q.2.cp) = some true ∧
    (∀ l ∈ (idleCore.die 0).loops, ¬ (l.launch = 1 ∧ l.nextStrip.isSome = true)) := by decide +kernel

/-- A core that only dispatches, and one whose head entry completes or faults. -/
def dispatching : State := { plain [] with eager := false }

theorem test_meets_dispatch : dispatching.cur < dispatching.cores.length ∧ dispatching.eager = false ∧ dispatching.me.occupied < 32 ∧
    wellFormedIa dispatching.me.nextIa = true ∧ dispatching.me.pending [2] = false ∧ dispatching.me.svWaits = false := by decide +kernel

/-- An entry for KPOP, and one whose shape does not fit: register 20 of a wide shape. -/
def popEntry : VEntry := (shaped 2 3 [] id).entry (.kpop { d := 3, a := 1 }) .frm none none none none

def unfitEntry : VEntry :=
  (shaped 2 3 [] fun k => { k with wide := true }).entry (.int .add false { d := 20, a := 1, b := 2, k := 0, ty := .i32, sat := false }) .frm none none none none

def popping : State := (shaped 2 3 [] id).updMe fun k => { k with queue := [popEntry] }

def unfit : State := (shaped 2 3 [] fun k => { k with wide := true }).updMe fun k => { k with queue := [unfitEntry] }

theorem test_meets_runs : popping.me.queue = [popEntry] ∧ popEntry.fault = none ∧ popEntry.op.accesses = false ∧
    (popping.me.issued = 0 ∧ popping.crustHas popping.cur Item.acq = false) ∧
    (∃ t, Ends (vexec popEntry) popping t) ∧ unfit.me.queue = [unfitEntry] ∧ unfitEntry.fault = none ∧ unfitEntry.op.accesses = false ∧
    ∃ r t, Traps (vexec unfitEntry) unfit r t ∧ t.cur < t.cores.length ∧ t.me.queue = [unfitEntry] :=
  ⟨by decide +kernel, by decide +kernel, by decide +kernel, by decide +kernel, ⟨_, ends_unit (by decide +kernel)⟩, by decide +kernel, by decide +kernel,
    by decide +kernel, _, _, traps_get (by decide +kernel), by decide +kernel⟩

/-- A core with a barrier of two arrivals in the pad line of x8, and one with that line unregistered. -/
def barred (killed : Bool) (phase : Nat) : State :=
  (memory 1 1 [(8, 0x01F0000000000040), (9, 2)] id).updDie 0 fun d => { d with bars := [{ oneBarrier with
    line := (padAt + 0x30) / 64, count := 2, killed := killed, phase := phase }] }

theorem test_meets_barriers : Accepting (barred false 0) ∧ ((barred false 0).me.x 8).toNat % 64 = 0 ∧
    (∃ q t, Answers (place ((barred false 0).me.ctx 5) .write ((barred false 0).me.x 8).toNat)
      ((barred false 0).dispatched (.barinit { d := 3, a := 8, b := 9 }) .frm (some 8) (some 9) none none) q t) ∧
    (∃ q t, Answers (place ((barred false 0).me.ctx 5) .read ((barred false 0).me.x 8).toNat)
      ((barred false 0).dispatched (.bararr { d := 3, a := 8 }) .frm (some 8) none none none) q t) ∧
    ∃ q t, Answers (place ((barred false 0).me.ctx 5) .read ((barred false 0).me.x 8).toNat)
      ((barred false 0).dispatched (.barkill { d := 3, a := 8 }) .frm (some 8) none none none) q t :=
  ⟨accepting_of (by decide +kernel), by decide +kernel, ⟨_, _, answers_get (by decide +kernel)⟩, ⟨_, _, answers_get (by decide +kernel)⟩, _, _,
    answers_get (by decide +kernel)⟩

/-- A BARWAIT for phase 0 where the phase is 0, has passed, and where the barrier was killed. -/
theorem test_meets_barrier_waits : ∀ b ∈ [barred false 0, barred false 1, barred true 0],
    Accepting b ∧ ∃ q t, Answers (place (b.me.ctx 5) .read (b.me.x 8).toNat)
      (b.dispatched (.barwait { d := 3, a := 8, b := 0 }) .frm (some 8) (some 0) none none) q t ∧ (t.barrierAt ((padAt + 0x30) / 64)).isSome = true := by
  intro b hb
  simp only [List.mem_cons, List.mem_nil_iff, or_false] at hb
  rcases hb with rfl | rfl | rfl
  all_goals exact ⟨accepting_of (by decide +kernel), _, _, answers_get (by decide +kernel), by decide +kernel⟩

/-- A table with no entry for line 1000000H, with one, with one that has a waiter, and with 63 others. -/
def barTable (bars : List Barrier) : State := (plain []).updDie 0 fun d => { d with bars := bars }

theorem test_meets_barrier_events : homeOf (0x1000000 * 64) = some 0 ∧ 0 < (barTable []).dies.length ∧
    (((barTable []).die 0).bars.find? fun b => b.line == 0x1000000) = none ∧
    (((barTable [oneBarrier]).die 0).bars.find? fun b => b.line == 0x1000000).map Barrier.waiters = some [] ∧
    (((barTable [{ oneBarrier with waiters := [7] }]).die 0).bars.find? fun b => b.line == 0x1000000).map Barrier.waiters = some [7] ∧
    (∃ b ∈ ((barTable [{ oneBarrier with line := 5, index := 9 }]).die 0).bars, b.index = 9) ∧
    (∀ i, i < 63 → ∃ b ∈ ((barTable ((List.range 63).map fun i => { oneBarrier with line := 5, index := i + 1 })).die 0).bars, b.index = i + 1) ∧
    oneBarrier.arrived + 1 = oneBarrier.count ∧ ({ oneBarrier with count := 2 } : Barrier).arrived + 1 ≠ 2 := by decide +kernel

/-- A core whose queue holds a BARWAIT. -/
def waitEntry : VEntry := (plain []).entry (.barwait { d := 3, a := 8, b := 0 }) .frm none none none none

theorem test_meets_barrier_release : (((plain []).updMe fun k => { k with queue := [waitEntry] }).core 5).queue = [waitEntry] ∧
    waitEntry.op = .barwait { d := 3, a := 8, b := 0 } ∧ waitEntry.sup = false ∧ ({ waitEntry with sup := true } : VEntry).sup = true := by decide +kernel

/-- Channel 2 of die 0 is bound, channel 1 is not; the mirror of channel 2 shows 0. -/
def ringed : State := (memory 1 1 [(8, 40), (9, 2)] id).updDie 0 fun d =>
  { d with bound := 4, posts := [{ src := 5, core := 6, channel := 2, value := 40, clock := Clock.reset }, { src := 5, core := 6, channel := 2, value := 41, clock := Clock.reset },
    { src := 5, core := 7, channel := 1, value := 41, clock := Clock.reset }] }

theorem test_meets_rings : Accepting ringed ∧ (ringed.die 0).bound.getLsbD 2 = true ∧ (ringed.die 0).bound.getLsbD 1 = false ∧
    (ringed.me.x 0).toInt ≤ (ringed.me.mirror.getD 2 0).toInt ∧ (ringed.me.mirror.getD 2 0).toInt < (ringed.me.x 8).toInt ∧ (5 : Nat) < ringed.cores.length :=
  ⟨accepting_of (by decide +kernel), by decide +kernel, by decide +kernel, by decide +kernel, by decide +kernel, by decide +kernel⟩

theorem test_meets_posts : ((ringed.die 0).posts[0]?.map Post.channel, (ringed.die 0).posts[1]?.map Post.channel, (ringed.die 0).posts[2]?.map Post.channel) =
      (some 2, some 2, some 1) ∧ (6 : Nat) < ringed.cores.length ∧ (ringed.core 6).queue = [] ∧
    ((ringed.die 0).posts.take 0).any (fun q => q.src == 5 && q.core == 6) = false ∧
    ((ringed.die 0).posts.take 1).any (fun q => q.src == 5 && q.core == 6) = true ∧
    ((ringed.die 0).posts.take 2).any (fun q => q.src == 5 && q.core == 7) = false := by decide +kernel

/-- A row file without rows is in order, and an entry of 2 rows and 3 columns lies within the shape. -/
theorem test_meets_element_writes : Spec.Rising (shaped 2 3 [] id).me.vregs ∧ popEntry.prog.row = 0 ∧ popEntry.nr ≤ rowMax popEntry.wide ∧
    popEntry.nc ≤ Ty.i32.capacity ∧ popEntry.wide = false ∧ ({ popEntry with wide := true } : VEntry).wide = true :=
  ⟨by unfold Spec.Rising; decide +kernel, by decide +kernel, by decide +kernel, by decide +kernel, by decide +kernel, rfl⟩

/-- Lengths, moves and masks: row 1 and column 2 are within the shape, row 70 is not. -/
theorem test_meets_lengths : Ready (shaped 2 3 [] id) [3, 1, 2] ∧ Spec.Quiet (shaped 2 3 [] id) ∧ Accepting (shaped 2 3 [(2, 0x200000001), (4, 70)] id) ∧
    (((shaped 2 3 [(2, 0x200000001), (4, 70)] id).me.x 2).toNat % 2 ^ 32 < rowMax false ∧
      ((shaped 2 3 [(2, 0x200000001), (4, 70)] id).me.x 2).toNat / 2 ^ 32 < Ty.i32.capacity) ∧
    ¬ ((shaped 2 3 [(2, 0x200000001), (4, 70)] id).me.x 4).toNat % 2 ^ 32 < rowMax false ∧
    (shaped 2 3 [] id).me.nc.toNat ≤ 512 ∧ (shaped 2 3 [] id).me.nr.toNat ≤ 128 ∧ (shaped 2 3 [] id).me.wideFile ≠ true :=
  ⟨ready_of (by decide +kernel), quiet_of (by decide +kernel) (by decide +kernel), accepting_of (by decide +kernel), by decide +kernel, by decide +kernel,
    by decide +kernel, by decide +kernel, by decide +kernel⟩

theorem fits_of {s : State} {cap : Nat} {rs : List Reg} (h : s.me.nc.toNat ≤ cap) (w : s.me.wide = false) : Spec.Fits s cap rs :=
  .inr (.inr ⟨h, by rw [w]; exact fun e => absurd e (by decide)⟩)

/-- Shapes that fit each integer and floating-point type and are empty, and one that does not fit: register 20 of a wide shape. -/
theorem test_meets_vectors : Accepting (shaped 2 3 [] id) ∧ (∀ ty ∈ Spec.intTypes ++ Spec.fpTypes, Spec.Fits (shaped 2 3 [] id) ty.capacity [1, 2, 3]) ∧
    Spec.Fits (shaped 0 3 [] id) 2 [1] ∧ Spec.Fits (shaped 2 0 [] id) 2 [1] ∧
    Accepting (shaped 2 3 [] fun k => { k with wide := true }) ∧ ¬ Spec.Fits (shaped 2 3 [] fun k => { k with wide := true }) Ty.i32.capacity [20, 1, 2] ∧
    ¬ Spec.Fits (shaped 2 100 [] id) Ty.i32.capacity [3, 1, 2] := by
  refine ⟨accepting_of (by decide +kernel), ?_, ?_, ?_, accepting_of (by decide +kernel), ?_, ?_⟩
  · intro ty h
    exact fits_of ((by decide +kernel : ∀ ty ∈ Spec.intTypes ++ Spec.fpTypes, (shaped 2 3 [] id).me.nc.toNat ≤ ty.capacity) ty h) (by decide +kernel)
  all_goals unfold Spec.Fits; decide +kernel

/-- A row of FP32 elements, one of B24 elements, one of a described FP8 block. -/
def sources : State := shaped 1 3 [] fun k =>
  (putRow 2 0 .b24 (List.replicate 64 1) (putRow 1 0 .fp32 [0x3F800000, 0xC0400000, 0x3E800000] k)).setRow false 4 0
    ((k.row false 4 0).write .e4m3 [(0, 0x38), (1, 0xB8), (2, 0x40)] 0x0B80 0)

theorem sourced_of {s : State} {a : Reg} {lo : Nat} {ok : Ty → Bool}
    (h : ∀ r, r < s.me.nr.toNat → (s.me.row s.me.wide a r).srcBad lo (lo + s.me.nc.toNat) ok = false) : Spec.Sourced s a lo ok := .inr (.inr h)

theorem test_meets_conversions : Accepting sources ∧ Spec.Fits sources 64 [3, 1] ∧ Spec.Sourced sources 1 0 (fun ty => ty != .b24) ∧
    Spec.Sourced sources 4 0 (fun ty => ty != .b24) ∧ Spec.Sourced sources 1 0 Ty.isFp ∧ Spec.Sourced sources 1 0 (fun ty => ty == .fp32) ∧
    (∀ r ∈ List.range sources.me.nr.toNat, (sources.me.row sources.me.wide 2 r).isB24 = true) ∧ Spec.Sourced sources 4 0 (fun _ => true) ∧
    Spec.Rising sources.me.vregs :=
  ⟨accepting_of (by decide +kernel), fits_of (by decide +kernel) (by decide +kernel), by
      refine ⟨sourced_of ?_, sourced_of ?_, sourced_of ?_, sourced_of ?_, ?_, sourced_of ?_, ?_⟩ <;> first | decide +kernel | (unfold Spec.Rising; decide +kernel)⟩

/-- R73: E4M3 ends at 448, which a tie at 464 goes to; 465 is beyond it; a Q4N magnitude of 2; and integers beyond a byte. -/
theorem test_meets_converted_values : Spec.largest fmtE4m3 = 448 ∧ ¬ Spec.Over fmtE4m3 .rne false 464 ∧ Spec.Over fmtE4m3 .rne false 465 ∧
    Spec.Over fmtE4m3 .rup false 449 ∧ ¬ Spec.Over fmtE4m3 .rtz false 479 ∧ 1 < Spec.real false 2 0 ∧
    Spec.toInt .rtz (Spec.real true 300 0) < -128 ∧ 127 < Spec.toInt .rup (Spec.real false 300 0) ∧ Spec.toInt .rne (5 / 2) = 2 := by
  refine ⟨?_, ?_, ?_, ?_, ?_, ?_, ?_, ?_, ?_⟩ <;>
    norm_num [Spec.Over, Spec.largest, Spec.real, Spec.toInt, Spec.rne, fmtE4m3, Fmt.maxM, Fmt.maxE, Int.fract]

/-- R73, R79: the same through the conversion, with and without SAT, and an element of a packed block. -/
theorem test_converted_values :
    [convertTo .e4m3 .rne false (.fin false 464 0) false, convertTo .e4m3 .rne false (.fin false 465 0) false, convertTo .e4m3 .rne true (.fin true 465 0) false,
      convertTo .e4m3 .rtz false (.fin false 479 0) false, convertTo .i8 .rne false (.fin true 300 0) false, convertTo .q4n .rne false (.fin false 2 0) false] =
      [(0x7E, 1), (0x7F, 5), (0xFE, 0x25), (0x7E, 1), (0x80, 0x10), (15, 0x21)] ∧
    vec (.vqpack { d := 3, a := 1, k := 0, ty := .e4m3, rm := .rne }) (shaped 1 1 [] (putRow 1 0 .fp32 [0x43E10000])) 3 0 .e4m3 1 = some ([0x7E], 0x25) := by
  decide +kernel

/-- Values of a block: zeros, and 1 among them as its greatest magnitude; and a value within the codebook. -/
theorem test_meets_scales : (∀ v ∈ [(false, 0, (0 : Int))], v.2.1 = 0) ∧
    (∀ u ∈ [(false, 1, (0 : Int)), (true, 0, 5)], Spec.real false u.2.1 u.2.2 ≤ Spec.real false 1 0) ∧ (2 : ℝ) ^ (0 : Int) ≤ Spec.real false 1 0 ∧
    Spec.real false 1 0 < (2 : ℝ) ^ ((0 : Int) + 1) ∧ Spec.real false 1 0 ≤ 1 := by
  norm_num [Spec.real]

/-- Reductions and permutations: shapes and operands of VARGMAX, VTRANS and VBCAST. -/
theorem test_meets_permutations : Accepting (shaped 2 3 [(2, 2 ^ 64 - 1), (4, 0x200000001)] id) ∧
    Spec.Fits (shaped 2 3 [(2, 2 ^ 64 - 1), (4, 0x200000001)] id) 64 [3, 1, 2] ∧
    (shaped 2 3 [(2, 2 ^ 64 - 1), (4, 0x200000001)] id).me.nc.toNat ≤ 64 ∧ (shaped 2 3 [(2, 2 ^ 64 - 1), (4, 0x200000001)] id).me.nr.toNat ≤ 64 ∧
    ((shaped 2 3 [(2, 2 ^ 64 - 1), (4, 0x200000001)] id).me.x 2).toNat % 2 ^ 32 = 0xFFFFFFFF ∧
    ((shaped 2 3 [(2, 2 ^ 64 - 1), (4, 0x200000001)] id).me.x 4).toNat % 2 ^ 32 < rowMax false ∧
    ((shaped 2 3 [(2, 2 ^ 64 - 1), (4, 0x200000001)] id).me.x 4).toNat / 2 ^ 32 < Ty.i32.capacity :=
  ⟨accepting_of (by decide +kernel), fits_of (by decide +kernel) (by decide +kernel), by decide +kernel, by decide +kernel, by decide +kernel,
    by decide +kernel, by decide +kernel⟩

/-- Reductions of one element, of a NaN, and of none. -/
theorem test_meets_trees : Ty.i32 ∈ Spec.intTypes ++ Spec.fpTypes ∧ Ty.fp32 ∈ Spec.intTypes ++ Spec.fpTypes ∧
    (∃ j, j < 2 ∧ ((fun j => if j = 0 then some 0x7FC00000 else none : Nat → Option Nat) j).isSome = true) ∧ elemNan .fp32 0x7FC00000 = true ∧
    (0x7FC00000 : Nat) < 2 ^ Ty.fp32.width ∧ (¬ ∃ j, j < 2 ∧ ((fun _ => none : Nat → Option Nat) j).isSome = true) ∧
    ∀ j u, j < 2 → (fun j => if j = 0 then some 5 else none : Nat → Option Nat) j = some u → elemNan .fp32 u = false := by
  refine ⟨by decide, by decide, ⟨0, by decide⟩, by decide +kernel, by decide, by simp, ?_⟩
  intro j u hj h
  dsimp only at h
  split at h
  · simp only [Option.some.injEq] at h
    rw [← h]
    decide +kernel
  · simp at h

/-- The location of the first byte of element (r, c). -/
def locOf (s : State) (m : VAddr) (ci : Reg) (e : VEntry) (f : VMemBF) (r c : Nat) : Nat := (padLoc 5 (elemBit s.me m ci e f r c / 8)).getD 0

/-- What `Spec.InPads` asks of each element. -/
def elemsOk (s : State) (m : VAddr) (ci : Reg) (e : VEntry) (f : VMemBF) : Bool :=
  decide (s.cur = 5) && (List.range s.me.nr.toNat).all fun r => (List.range s.me.nc.toNat).all fun c =>
    !elemMisaligned m f (rowBase m e f r) (elemBit s.me m ci e f r c) && (padLoc 5 (elemBit s.me m ci e f r c / 8)).isSome &&
    !s.badLines.contains (locOf s m ci e f r c / 64) && decide (s.sealOf (locOf s m ci e f r c / 64) = none) &&
    decide (s.vagueSeed (locOf s m ci e f r c / 64) = none) && decide ((s.barrierOn (locOf s m ci e f r c / 64)).isNone = true)

theorem in_pads {s : State} {m : VAddr} {ci : Reg} {e : VEntry} {f : VMemBF} (h : elemsOk s m ci e f = true) :
    Spec.InPads s m ci e f (locOf s m ci e f) ∧ ∀ r c, Spec.on s f.k r c = true → s.barrierOn (locOf s m ci e f r c / 64) = none := by
  simp only [elemsOk, Bool.and_eq_true, decide_eq_true_eq, List.all_eq_true, Bool.not_eq_true', Option.isNone_iff_eq_none] at h
  refine ⟨forall_on fun r hr c hc => ?_, forall_on fun r hr c hc => (h.2 r hr c hc).2⟩
  obtain ⟨⟨⟨⟨⟨a, p⟩, g⟩, q⟩, v⟩, _⟩ := h.2 r hr c hc
  refine ⟨a, ?_, g, q, v⟩
  rw [h.1]
  simp only [locOf]
  obtain ⟨l, hl⟩ := Option.isSome_iff_exists.1 p
  simp only [hl, Option.getD_some]

/-- Core 5 with x1 the pad address 16, a stride in x2, an offset in x7, indices in v2 and data in v5. -/
def vmem : State := memory 1 2 [(2, 2), (7, 0x100), (4, 0)] fun k => putRow 5 0 .i8 [0x11, 0x22] (putRow 2 0 .n32 [7, 1] k)

def vunit (d a b : Reg) (ty : Ty) : VMemBF := { d := d, a := a, b := b, k := 0, ty := ty, bitoff := 0, hint := 0 }

theorem test_meets_vector_memory : Accepting vmem ∧ vmem.cur < 160 ∧ Spec.Rising vmem.me.vregs ∧ vmem.dies.length = 4 ∧ vmem.me.sb = [] ∧
    Memory.wf vmem.mem = true ∧ Spec.Fits vmem 64 [3, 2] ∧ Spec.Fits vmem 64 [5, 2] ∧ ({ vunit 3 1 0 .i4 with bitoff := 4 } : VMemBF).wf = true :=
  ⟨accepting_of (by decide +kernel), by decide +kernel, by unfold Spec.Rising; decide +kernel, by decide +kernel, by decide +kernel, by decide +kernel,
    fits_of (by decide +kernel) (by decide +kernel), fits_of (by decide +kernel) (by decide +kernel), by decide +kernel⟩

/-- Unit, first-fault, strided, bit and indexed loads whose elements lie in pads. -/
theorem test_meets_pad_elements : ∀ q ∈ [(VAddr.unit, vunit 3 1 0 .i8), (.firstFault, vunit 3 1 0 .i8), (.strided, vunit 3 1 2 .i8),
      (.bit, { vunit 3 1 0 .i4 with bitoff := 4 }), (.gather, vunit 3 1 0 .i8), (.gatherc, vunit 3 7 0 .i8)],
    elemsOk vmem q.1 2 (vmem.entry (.load q.1 2 q.2) .frm (some q.2.a) (if q.2.b = 0 then none else some q.2.b) none none) q.2 = true ∧
    elemsOk vmem q.1 2 (vmem.entry (.store q.1 2 { q.2 with d := 5 }) .frm (some q.2.a) (if q.2.b = 0 then none else some q.2.b) none none) q.2 = true := by
  decide +kernel

/-- The rows of a load and of a store, and the core still stands at its instruction. -/
def loadRows (m : VAddr) (f : VMemBF) : M Unit :=
  (List.range vmem.me.nr.toNat).forM (loadRow ((vmem.entry (.load m 2 f) .frm (some f.a) (some f.b) none none).ctx 5)
    (vmem.entry (.load m 2 f) .frm (some f.a) (some f.b) none none) m 2 f)

def storeRows (m : VAddr) (f : VMemBF) : M Unit :=
  (List.range vmem.me.nr.toNat).forM (storeRow ((vmem.entry (.store m 2 f) .frm (some f.a) (some f.b) none none).ctx 5)
    (vmem.entry (.store m 2 f) .frm (some f.a) (some f.b) none none) m 2 f)

/-- What `Spec.Stands` asks for. -/
def stands (s t : State) : Bool :=
  decide (t.cur = s.cur) && decide (t.cores.length = s.cores.length) && decide (t.me.ia = s.me.ia) && decide (t.me.line = s.me.line)

theorem stands_of {s t : State} (h : stands s t = true) : Spec.Stands s t := by
  simp only [stands, Bool.and_eq_true, decide_eq_true_eq] at h
  exact ⟨h.1.1.1, h.1.1.2, h.1.2, h.2⟩

theorem test_meets_load_rows :
    (∃ t, Ends (loadRows .unit (vunit 3 1 2 .i8)) (vmem.dispatched (.load .unit 2 (vunit 3 1 2 .i8)) .frm (some 1) (some 2) none none) t ∧ Spec.Stands vmem t) ∧
    ∃ n t, Answers (loadFirstFault ((vmem.entry (.load .firstFault 0 (vunit 3 1 2 .i8)) .frm (some 1) (some 2) none none).ctx 5)
      (vmem.entry (.load .firstFault 0 (vunit 3 1 2 .i8)) .frm (some 1) (some 2) none none) 0 (vunit 3 1 2 .i8) (List.range vmem.me.nr.toNat) false)
      (vmem.dispatched (.load .firstFault 0 (vunit 3 1 2 .i8)) .frm (some 1) (some 2) none none) n t ∧ Spec.Stands vmem t :=
  ⟨⟨_, ends_unit (by decide +kernel), stands_of (by decide +kernel)⟩, _, _, answers_get (by decide +kernel), stands_of (by decide +kernel)⟩

theorem test_meets_store_rows :
    ∃ t, Ends (storeRows .unit (vunit 5 1 2 .i8)) (vmem.dispatched (.store .unit 2 (vunit 5 1 2 .i8)) .frm (some 1) (some 2) none none) t ∧ Spec.Stands vmem t :=
  ⟨_, ends_unit (by decide +kernel), stands_of (by decide +kernel)⟩

/-- A lane-private access, and slices in order. -/
theorem test_meets_lanes : (vmem.me.x 4).toNat % 32 = 0 ∧ (vmem.me.x 4).toNat + 32 * ((vmem.me.nr.toNat + 15) / 16) ≤ 4096 ∧
    Spec.RisingBytes vmem.me.slices := ⟨by decide +kernel, by decide +kernel, by unfold Spec.RisingBytes; decide +kernel⟩

/-- Atomics on two words of the pad, no two of which overlap. -/
def amoEntry : VEntry := vmem.entry (.vamo .add { d := 5, a := 1, b := 0, k := 0, ty := .i32, hint := 0 }) .frm (some 1) (some 0) none none

theorem test_meets_vector_atomics : elemsOk vmem .unit 0 amoEntry (vunit 5 1 0 .i32) = true ∧
    (∀ r c p q, Spec.on vmem 0 r c = true → Spec.on vmem 0 p q = true → (p, q) ≠ (r, c) →
      locOf vmem .unit 0 amoEntry (vunit 5 1 0 .i32) r c + 4 ≤ locOf vmem .unit 0 amoEntry (vunit 5 1 0 .i32) p q ∨
      locOf vmem .unit 0 amoEntry (vunit 5 1 0 .i32) p q + 4 ≤ locOf vmem .unit 0 amoEntry (vunit 5 1 0 .i32) r c) := by
  refine ⟨by decide +kernel, ?_⟩
  intro r c p q h
  revert p q
  revert r c
  refine forall_on fun r hr c hc p q g => ?_
  revert p q
  refine forall_on fun p hp q hq => ?_
  exact (by decide +kernel : ∀ r ∈ List.range vmem.me.nr.toNat, ∀ c ∈ List.range vmem.me.nc.toNat, ∀ p ∈ List.range vmem.me.nr.toNat,
    ∀ q ∈ List.range vmem.me.nc.toNat, (p, q) ≠ (r, c) →
      locOf vmem .unit 0 amoEntry (vunit 5 1 0 .i32) r c + 4 ≤ locOf vmem .unit 0 amoEntry (vunit 5 1 0 .i32) p q ∨
      locOf vmem .unit 0 amoEntry (vunit 5 1 0 .i32) p q + 4 ≤ locOf vmem .unit 0 amoEntry (vunit 5 1 0 .i32) r c) r hr c hc p hp q hq

theorem test_meets_atomic_rows :
    (∀ r c, Spec.on vmem 0 r c = true → elemBit vmem.me .unit 0 amoEntry (vunit 5 1 0 .i32) r c / 8 % (32 / 8) = 0) ∧
    ∃ t, Ends ((List.range vmem.me.nr.toNat).forM fun r => do
        let cs := (List.range vmem.me.nc.toNat).filter fun c => Spec.on vmem 0 r c
        let va := fun (c : Nat) => elemBit vmem.me .unit 0 amoEntry (vunit 5 1 0 .i32) r c / 8
        let places ← rowMap (amoEntry.ctx (← myNumber)) .write (cs.map va) []
        cs.forM fun c => do
          let q ← rowPlace (amoEntry.ctx (← myNumber)) .write places (va c)
          let _ ← atomicAt (amoEntry.ctx (← myNumber)) q (va c) (32 / 8) fun old => some (Spec.vamo .add .i32 old (Spec.el vmem 5 .i32 r c))
          return ()) (vmem.dispatched (.vamo .add { d := 5, a := 1, b := 0, k := 0, ty := .i32, hint := 0 }) .frm (some 1) (some 0) none none) t ∧
      Spec.Stands vmem t := ⟨forall_on (by decide +kernel), _, ends_unit (by decide +kernel), stands_of (by decide +kernel)⟩

/-- A window over one line of the pad, open and closed, and a length of 100. -/
def windowed (o : Bool) : State := (memory 1 2 [(2, 64), (4, 100), (8, 0x01F0000000000000)] fun k => putRow 6 0 .i32 [4, 4] (putRow 5 0 .i32 [7, 8] k)).updMe fun k =>
  { k with window := { isOpen := o, ty := .i32, base := 0x01F0000000000000, len := 64 } }

theorem test_meets_windows : Accepting (windowed true) ∧ Spec.RisingBytes (windowed true).me.slices ∧ ((windowed true).me.x 2).toNat = 64 ∧
    ((windowed true).me.x 8).toNat % 64 = 0 ∧ (∀ i, i < 1 → (padLoc 5 (((windowed true).me.x 8).toNat + 64 * i)).isSome = true) ∧
    ((windowed true).me.x 4).toNat % 64 ≠ 0 ∧ (windowed true).me.window.isOpen = true ∧ (windowed false).me.window.isOpen = false ∧
    (windowed false).me.nr ≠ 0 ∧ (windowed false).me.nc ≠ 0 :=
  ⟨accepting_of (by decide +kernel), by unfold Spec.RisingBytes; decide +kernel, by decide +kernel⟩

theorem test_meets_window_elements : Spec.Fits (windowed true) 64 [5, 6] ∧
    (∀ r c, Spec.on (windowed true) 0 r c = true → 0 ≤ (BitVec.ofNat 32 (Spec.el (windowed true) 6 .i32 r c)).toInt ∧
      (BitVec.ofNat 32 (Spec.el (windowed true) 6 .i32 r c)).toInt < 64 * 8 / 32) ∧
    Spec.PadElem (windowed true) (8 * 0x01F0000000000000) (64 * ((padAt - 16) / 64)) ∧ (windowed true).barrierOn ((padAt - 16) / 64) = none :=
  ⟨fits_of (by decide +kernel) (by decide +kernel), forall_on (by decide +kernel), ⟨by decide +kernel, by decide +kernel, by decide +kernel, by decide +kernel⟩,
    by decide +kernel⟩

/-! ### Copies and the matrix engine -/

/-- A row of core pad bytes of a state without errors, seals and barriers. -/
theorem pad_row {s : State} (c off n : Nat) (h : off + n ≤ 2 ^ 20) (b : Calm s) :
    Spec.RowIn s c (0x01F0000000000000 + off) (corePadLoc c off) n := by
  refine ⟨fun i hi => ?_, fun i _ => b.all _⟩
  unfold padLoc corePadLoc
  rw [if_pos (by omega)]
  congr 1
  omega

/-- A core whose channel 1 holds a copy of one row of 16 bytes from the pad address 16 to 40H, or to 48H, or one that is done. -/
def copyEntry (op : VecOp) (dst row : Nat) : VEntry :=
  { (memory 1 1 [(8, 0x01F0000000000000 + dst), (9, 16)] id).entry op .frm (some 8) (some 1) none (some 0) with prog := { row := row, col := 0, block := 0 } }

def copying (op : VecOp) (dst row : Nat) : State := (memory 1 1 [] id).updMe fun k =>
  { k with chans := k.chans.set! 1 { copies := [copyEntry op dst row], stopped := none, row := [] } }

theorem test_meets_copy_rows : (((copying (.cpy (copy16 0)) 0x40 0).core 5).chan 1).copies = [copyEntry (.cpy (copy16 0)) 0x40 0] ∧
    (((copying (.cpy (copy16 0)) 0x40 0).core 5).chan 1).stopped = none ∧ (0 : Nat) < (copy16 0).rows16.toNat ∧ (copy16 0).bar = 0 ∧
    (copyEntry (.cpy (copy16 0)) 0x40 0).prog.row < (copyEntry (.cpy (copy16 0)) 0x40 0).nr ∧
    (copyEntry (.cpy (copy16 0)) 0x40 1).nr ≤ (copyEntry (.cpy (copy16 0)) 0x40 1).prog.row ∧
    (copyEntry (.cpy (copy16 0)) 0x48 0).opa.toNat % 16 ≠ 0 ∧ (copyEntry (.cpym (copy16 3)) 0x40 0).opa.toNat < 0x01F0000000000000 + 2 ^ 20 ∧ (copy16 0).acq = false ∧
    ((copying (.cpy (copy16 0)) 0x40 0).core 5).olderAcquire 1 (copyEntry (.cpy (copy16 0)) 0x40 0).seq = false := by decide +kernel

theorem test_meets_copy_state : (copying (.cpy (copy16 0)) 0x40 0).cores.length = 160 ∧ (copying (.cpy (copy16 0)) 0x40 0).dies.length = 4 ∧
    Memory.wf (copying (.cpy (copy16 0)) 0x40 0).mem = true ∧ ((copying (.cpy (copy16 0)) 0x40 0).core 5).sb = [] ∧
    Spec.RowIn (copying (.cpy (copy16 0)) 0x40 0) 5 (0x01F0000000000000 + 0x10) (corePadLoc 5 0x10) 16 ∧
    Spec.RowIn (copying (.cpy (copy16 0)) 0x40 0) 5 (0x01F0000000000000 + 0x40) (corePadLoc 5 0x40) 16 ∧
    (∀ k, k < 4 → Spec.RowIn (copying (.cpym (copy16 3)) 0x40 0) (5 / 4 * 4 + k) (0x01F0000000000000 + 0x40) (corePadLoc (5 / 4 * 4 + k) 0x40) 16) :=
  ⟨by decide +kernel, by decide +kernel, by decide +kernel, by decide +kernel, pad_row _ _ _ (by decide) (by decide +kernel),
    pad_row _ _ _ (by decide) (by decide +kernel), fun _ _ => pad_row _ _ _ (by decide) (by decide +kernel)⟩

/-- A row of which 16 bytes are still to go to the pad address 64. -/
def partLeft : RowPart := { owner := 5, key := none, loc := corePadLoc 5 0x40, bytes := List.replicate 16 7, desc := none }

def rowLeft : State := (copying (.cpy (copy16 0)) 0x40 1).updMe fun k => k.updChan 1 fun q => { q with row := [partLeft] }

theorem test_meets_rows_left : ((rowLeft.core 5).chan 1).row = [partLeft] ∧ ((rowLeft.core 5).chan 1).copies = [copyEntry (.cpy (copy16 0)) 0x40 1] ∧
    partLeft.owner < 160 ∧ partLeft.loc % 64 + partLeft.bytes.length ≤ 64 ∧ rowLeft.cores.length = 160 ∧ rowLeft.dies.length = 4 ∧
    Memory.wf rowLeft.mem = true ∧ (rowLeft.core 5).sb = [] ∧ ((rowLeft.core 5).chan 1).stopped = none ∧
    ((copying (.cpy (copy16 0)) 0x40 0).core 5).chans[1].row = [] ∧ Calm rowLeft := by decide +kernel

theorem test_meets_row_left_place : Spec.RowIn rowLeft 5 (0x01F0000000000000 + 0x40) partLeft.loc partLeft.bytes.length :=
  pad_row _ _ _ (by decide) test_meets_rows_left.2.2.2.2.2.2.2.2.2.2

/-- A copy at the head of the queue, a pointer that has reached x0 and one that has not reached x9. -/
def queuedCopy : State := (memory 1 1 [(9, 16)] id).updMe fun k => { k with queue := [copyEntry (.cpy (copy16 0)) 0x40 0] }

theorem test_meets_copies : Accepting (memory 1 1 [(9, 16)] id) ∧ (memory 1 1 [(9, 16)] id).me.x 0 ≤ (memory 1 1 [(9, 16)] id).me.cpwp.getD 1 0 ∧
    (memory 1 1 [(9, 16)] id).me.cpwp.getD 1 0 < (memory 1 1 [(9, 16)] id).me.x 9 ∧ (queuedCopy.core 5).queue = [copyEntry (.cpy (copy16 0)) 0x40 0] ∧
    (copyEntry (.cpy (copy16 0)) 0x40 0).fault = none ∧ ((queuedCopy.core 5).chan 1).copies.length < 8 ∧
    (queuedCopy.core 5).olderAcquire 4 (copyEntry (.cpy (copy16 0)) 0x40 0).seq = false ∧ queuedCopy.crustHas 5 Item.acq = false :=
  ⟨accepting_of (by decide +kernel), by decide +kernel⟩

/-- Copies of every other form at the head of the queue. -/
theorem test_meets_copies_queued : let x := copy16 0
    let r : XredF := { d := 4, a := 8, b := 9, ch := 1, acq := false, rel := false, scope := .core, op := .sum, bar := 0, ty := .i32 }
    ∀ op ∈ [VecOp.cpym x, .cpykv x, .xred r], let s := (memory 1 1 [(9, 16)] id).updMe fun k => { k with queue := [copyEntry op 0x40 0] }
      (s.core 5).queue = [copyEntry op 0x40 0] ∧ (copyEntry op 0x40 0).fault = none ∧ ((s.core 5).chan 1).copies.length < 8 ∧
      (s.core 5).olderAcquire 4 (copyEntry op 0x40 0).seq = false ∧ s.crustHas 5 Item.acq = false := by decide +kernel

/-- The engine of `engine` with a dirty tile 1, and with a slot that core 2 of the cluster owns. -/
noncomputable def dirtied : State := engine.updMxe 1 fun m => m.updAcc 1 fun a => a.setDirty true true

noncomputable def foreign : State := engine.updMxe 1 fun m => { m with slots := m.slots.set! 3 { owner := some 2, layout := 0 } }

theorem test_meets_matrix : Accepting engine ∧ engine.cur < 160 ∧ engine.mxes.length = 40 ∧ Spec.Rising (Spec.mxe engine).rows ∧
    (Spec.mxe engine).held 1 ≠ [] ∧ (Spec.mxe (memory 1 1 [] id)).held 1 = [] ∧ Accepting (memory 1 1 [] id) :=
  ⟨accepting_of (by decide +kernel), by decide +kernel, by decide +kernel, by unfold Spec.Rising; decide +kernel, by decide +kernel, by decide +kernel,
    accepting_of (by decide +kernel)⟩

theorem test_meets_matrix_slots : ((Spec.mxe engine).acc 1).dirty0 = false ∧ ((Spec.mxe engine).acc 1).dirty1 = false ∧
    ((Spec.mxe dirtied).acc 1).dirty1 = true ∧ Accepting dirtied ∧ ((Spec.mxe engine).slot 3).owner = none ∧ ((Spec.mxe engine).slot 1).owner = some 1 ∧
    ((Spec.mxe foreign).slot 3).owner = some 2 ∧ Accepting foreign :=
  ⟨by decide +kernel, by decide +kernel, by decide +kernel, accepting_of (by decide +kernel), by decide +kernel, by decide +kernel, by decide +kernel,
    accepting_of (by decide +kernel)⟩

/-- One row at the first address of the pad for slot 1, at layout 1; the register v5 holds BF16 elements. -/
theorem test_meets_slot_rows : Spec.Fills engine 1 0x1000100000000 1 ∧ ((0x1000100000000 : Word).extractLsb' 48 8).toNat = 1 ∧
    (0x1000100000000 : Word).extractLsb' 32 2 = 1 ∧ Spec.RowIn engine 5 (0x01F0000000000000 + 0) (corePadLoc 5 0) 256 ∧
    (∀ r b, r < engine.me.nr.toNat → b < min 4 ((engine.me.nc.toNat + Ty.bf16.perBlock - 1) / Ty.bf16.perBlock) →
      (engine.me.row engine.me.wide 5 r).tag b / 256 = (tyCode .bf16).toNat) ∧ engine.me.wide = false ∧ engine.me.nr.toNat = 1 := by
  refine ⟨⟨by decide +kernel, by decide, by decide⟩, by decide, by decide, pad_row _ _ _ (by decide) (by decide +kernel),
    ?_, by decide +kernel, by decide +kernel⟩
  have h : ∀ r ∈ List.range engine.me.nr.toNat, ∀ b ∈ List.range (min 4 ((engine.me.nc.toNat + Ty.bf16.perBlock - 1) / Ty.bf16.perBlock)),
      (engine.me.row engine.me.wide 5 r).tag b / 256 = (tyCode .bf16).toNat := by decide +kernel
  exact fun r b hr hb => h r (List.mem_range.2 hr) b (List.mem_range.2 hb)

theorem test_meets_products : ((Spec.mxe engine).slot 1).layout = 1 ∧ ((Spec.mxe engine).slot 2).layout = 2 ∧ ((Spec.mxe engine).slot 2).owner = some 1 ∧
    engine.me.nr ≠ 0 ∧ engine.me.nr.toNat ≤ 32 * ((Spec.mxe engine).held 1).length ∧
    ∀ i ∈ List.range engine.me.nr.toNat, ∀ n ∈ List.range 128, ∀ j ∈ List.range 4,
      pairOk (((Spec.mxe engine).slotRow 1 i).tag j / 256) (((Spec.mxe engine).slotRow 2 n).tag j / 256) = true := by decide +kernel

/-- Rows of a tile at the first addresses of the pad, an address that is not aligned, and a core without a grant. -/
theorem test_meets_accumulators : Spec.Fits engine 64 [7] ∧ engine.dies.length = 4 ∧ engine.me.sb = [] ∧ Memory.wf engine.mem = true ∧
    (engine.me.x 9).toNat % 64 = 0 ∧ (engine.me.x 1).toNat % 64 ≠ 0 ∧
    Spec.RowIn engine 5 (0x01F0000000000000 + 0) (corePadLoc 5 0) (1024 * (32 * ((Spec.mxe engine).held 1).length)) :=
  ⟨fits_of (by decide +kernel) (by decide +kernel), by decide +kernel, by decide +kernel, by decide +kernel, by decide +kernel, by decide +kernel,
    pad_row _ _ _ (by decide +kernel) (by decide +kernel)⟩

/-! ### Overlays and versions -/

/-- The device with SCX 7, and the overlay page. -/
def specced : State := pooled [(1, 0x80001000), (2, 7), (4, 9), (5, 1), (6, 4096), (8, 0x40000000)] fun k => { k with scx := 7 }

def overlayPdb : Pdb := specced.readPdb 0x7000

def overlayPage : Page := { va := 0x80001000, size := 4096, base := 0xC000, leaf := 0x7815, level := 0, pdb := some overlayPdb, spans := specced.spansOf overlayPdb }

theorem test_meets_overlays : Ready specced [3, 1, 6] ∧ Spec.Quiet specced ∧ specced.me.scx ≠ 0 ∧ specced.me.settling = none ∧ (specced.me.x 6).toNat ≠ 0 ∧
    (specced.me.x 0).toNat = 0 ∧
    (∃ k t, Answers (settlePages (specced.me.ctx 5) true (4096 / 4096 + 2) 0x80001000 (0x80001000 + 4096) 0) (Spec.released specced .device) k t ∧
      Spec.Stands specced t) ∧
    (∃ k t, Answers (settlePages (specced.me.ctx 5) false (4096 / 4096 + 2) 0x80001000 (0x80001000 + 4096) 0) (Spec.released specced .device) k t ∧
      Spec.Stands specced t) ∧
    (∃ t, Answers (place (specced.me.ctx 5) .read 0x80001000) specced (.page overlayPage) t ∧ Spec.Stands specced t) ∧ overlayPage.leaf.getLsbD 11 = true :=
  ⟨ready_of (by decide +kernel), quiet_of (by decide +kernel) (by decide +kernel), by decide +kernel, by decide +kernel, by decide +kernel, by decide +kernel,
    ⟨_, _, answers_get (by decide +kernel), stands_of (by decide +kernel)⟩, ⟨_, _, answers_get (by decide +kernel), stands_of (by decide +kernel)⟩,
    ⟨_, answers_eq (by decide +kernel), stands_of (by decide +kernel)⟩, by decide +kernel⟩

/-- GQUERY where no descriptor is named, and on the pad; GFLATTEN of an overlay page to a plain one and of a plain one. -/
noncomputable def flattening : State := { pools_s with dies := specced.dies }

theorem test_meets_flatten : Ready flattening [3, 4, 1] ∧ Spec.Quiet flattening ∧ flattening.me.sstat.mode = true ∧
    (∃ t, Answers (place (specced.me.ctx 5) .read 0x40000000) specced (.page dataPage) t ∧ Spec.Stands specced t) ∧ dataPage.pdb = none ∧
    (∃ p t, Answers (do let p ← place (flattening.me.ctx 5) .read (flattening.me.x 4).toNat; let q ← place (flattening.me.ctx 5) .write (flattening.me.x 1).toNat; return (p, q))
      (Spec.released flattening .device) p t ∧ Spec.Stands flattening t) ∧
    (∃ p t, Answers (do let p ← place (flattening.me.ctx 5) .read (flattening.me.x 1).toNat; let q ← place (flattening.me.ctx 5) .write (flattening.me.x 1).toNat; return (p, q))
      (Spec.released flattening .device) p t ∧ Spec.Stands flattening t) ∧
    flattening.storesTo (flattening.usedLines overlayPdb (List.range overlayPdb.nspan)) = false :=
  ⟨ready_of (by decide +kernel), quiet_of (by decide +kernel) (by decide +kernel), by decide +kernel, ⟨_, answers_eq (by decide +kernel), stands_of (by decide +kernel)⟩,
    rfl, ⟨_, _, answers_get (by decide +kernel), stands_of (by decide +kernel)⟩, ⟨_, _, answers_get (by decide +kernel), stands_of (by decide +kernel)⟩,
    by decide +kernel⟩

/-- GPOOL: a code of 7, a drop, a count of 0, and two chunks in a pinned page and in one that is not pinned. -/
theorem test_meets_pools : ((7 : Word).extractLsb' 0 3).toNat = 7 ∧ ((0x80 : Word).extractLsb' 0 3).toNat ≠ 7 ∧ (0x80 : Word).getLsbD 7 = true ∧
    ((0 : Word).extractLsb' 16 16).toNat = 0 ∧ ((0x20000 : Word).extractLsb' 16 16).toNat = 2 ∧ (0x20000 : Word).getLsbD 7 = false ∧
    (pools_s.me.x 1).toNat % 64 = 0 ∧ (pools_s.me.x 1).toNat + 2 * 64 ≤ 0x40000000 + 2 ^ 30 := by decide +kernel

theorem test_meets_donations : Ready pools_pin [3, 1, 2] ∧
    (∃ p t, Answers (place (pools_pin.me.ctx 5) .write 0x40000000) pools_pin (.page p) t ∧ Spec.Stands pools_pin t ∧ p.leaf.getLsbD 7 = true ∧ plainLeaf p = true) ∧
    ∃ p t, Answers (place (pools_s.me.ctx 5) .write 0x40000000) pools_s (.page p) t ∧ Spec.Stands pools_s t ∧ p.leaf.getLsbD 7 = false := by
  refine ⟨ready_of (by decide +kernel), ⟨{ dataPage with leaf := 0x0090000040000095 }, _, answers_eq (by decide +kernel), stands_of (by decide +kernel), by decide +kernel,
    by decide +kernel⟩, dataPage, _, answers_eq (by decide +kernel), stands_of (by decide +kernel), by decide +kernel⟩

/-- A donation that begins on a pad. -/
theorem test_meets_far_donations : ∃ l t q v, Answers (place (pools_pin.me.ctx 5) .write 0x01F0000000000000) pools_pin (.pad l) t ∧
    Answers (donated (pools_pin.me.ctx 5) (2 * 64 / 4096 + 2) 0x01F0000000000000 (0x01F0000000000000 + 2 * 64 - 1) none true) pools_pin q v ∧
    Spec.Stands pools_pin v :=
  ⟨corePadLoc 5 0, _, _, _, answers_eq (by decide +kernel), answers_get (by decide +kernel), stands_of (by decide +kernel)⟩

/-- The first span of the overlay page, with no speculative line, and with one of context 7 in a chunk of two lines. -/
def lined : State := puts [(0x7048, 1), (0x7050, 0x10007), (0x7058, 0x10200)] specced

/-- R107, R108, R110: a speculative store is read back. -/
theorem test_speculative_store : reg (.ld { d := 3, a := 1, off := 0 }) (after (.sd { d := 4, a := 1, off := 0 }) specced) 3 = some 9 := by decide +kernel

/-- R122 to R124, R127: GQUERY sees its line; a commit and a discard count it, and the discard gives the old bytes back. -/
theorem test_settling :
    reg (.gquery { d := 3, a := 1, b := 5 }) lined 3 = some 1 ∧ reg (.gcommit { d := 7, a := 1, b := 6 }) lined 7 = some 1 ∧
    reg (.gdiscard { d := 7, a := 1, b := 6 }) lined 7 = some 1 ∧
    reg (.ld { d := 3, a := 1, off := 0 }) (after (.gdiscard { d := 7, a := 1, b := 6 }) lined) 3 = some 0 := by decide +kernel

theorem span_ok {s : State} {b : Pdb} (w : Memory.wf s.mem = true ∧ (s.span b 0).cls ≤ 6 ∧
      (if (s.span b 0).cls = 0 then (s.span b 0).used = 0 else (s.span b 0).used ≤ 2 ^ (s.span b 0).cls) ∧
      ((s.span b 0).owner = 0 → (s.span b 0).smask = 0) ∧ (s.span b 0).chunk < 2 ^ 64 ∧ (s.span b 0).chunk % 64 = 0 ∧
      ((s.span b 0).chunk + 64 * 2 ^ (s.span b 0).cls ≤ spanAddr b 0 ∨ spanAddr b 0 + 32 ≤ (s.span b 0).chunk) ∧
      ((s.span b 0).chunk + 64 * 2 ^ (s.span b 0).cls ≤ 0xC000 + 4096 * 0 ∨ 0xC000 + 4096 * 0 + 4096 ≤ (s.span b 0).chunk) ∧
      spanAddr b 0 + 32 ≤ 0xC000 + 4096 * 0)
    (sb : ∀ k ∈ s.cores, k.sb = [])
    (p : ∀ code, 1 ≤ code → code ≤ 6 → (s.die (glazeDie b)).pool 0 code = if code = 1 then [0x10100] else []) : Spec.SpanOk s b 0 0xC000 0 := by
  obtain ⟨m, c, f, o, k1, k2, k3, k4, r⟩ := w
  refine ⟨m, c, f, o, ⟨k1, k2, k3, k4⟩, .inl r, by decide, ?_, ?_⟩
  · intro n h e he
    rw [State.core, List.getD_eq_getElem _ _ h, sb _ (List.getElem_mem h)] at he
    exact absurd he List.not_mem_nil
  intro code e es l h g
  rw [p code l h] at g
  split at g
  · rename_i q
    simp only [List.cons.injEq] at g
    rw [← g.1, q]
    refine ⟨by decide, by decide, .inr ?_, .inr (by decide)⟩
    omega
  · simp at g

theorem span_pool (s : State) (h : ∀ code ∈ List.range 7, 1 ≤ code → (s.die (glazeDie overlayPdb)).pool 0 code = if code = 1 then [0x10100] else []) :
    ∀ code, 1 ≤ code → code ≤ 6 → (s.die (glazeDie overlayPdb)).pool 0 code = if code = 1 then [0x10100] else [] :=
  fun code l u => h code (List.mem_range.2 (by omega)) l

theorem test_meets_spans : overlayPage.pdb = some overlayPdb ∧ Spec.SpanOk specced overlayPdb 0 0xC000 0 ∧ Spec.SpanOk lined overlayPdb 0 0xC000 0 ∧
    (lined.span overlayPdb 0).owner = 7 ∧ (specced.span overlayPdb 0).owner ≠ 7 ∧ specced.dies.length = 4 ∧
    ∃ q, specced.routeGlaze (specced.me.ctx 5) overlayPage overlayPdb 0x80001000 0x80001000 = .ok q :=
  ⟨rfl, span_ok (by decide +kernel) (by decide +kernel) (span_pool _ (by decide +kernel)),
    span_ok (by decide +kernel) (by decide +kernel) (span_pool _ (by decide +kernel)),
    by decide +kernel, by decide +kernel, by decide +kernel, succeeds_of (by decide +kernel)⟩

/-- The versioned line at 80000000H with versions 7, 5 and 0, floor and seal 7, and one chunk left. -/
def chained : State :=
  let s := puts [(0x9000, 0x700000007), (0x9018, 0x300000004), (0x9020, 0x200000000), (0xA000, 2), (0xB010, 5), (0xB018, 0x10040), (0xB020, 0x100000007), (0xB028, 0x10080)]
    (pooled [(1, 0x80000000), (2, 0x11223344), (5, 5), (7, 7), (9, 9), (8, 0x80000004)] id)
  { s with verOwned := [(0xA000, 8), (0xB010, 16), (0xB020, 16), (0x10040, 64), (0x10080, 64)].map fun q => { addr := q.1, size := q.2, region := 0x240 } }

def vline : VLine := { head := 0xA000, base := 0x8000, region := 0x240 }

theorem chain_ok {s : State} (w : Memory.wf s.mem = true ∧ s.tainted vline = false ∧ ((s.region 0x240).linkFree ≠ 0 →
        s.foreign 0x240 ((s.region 0x240).link (s.region 0x240).linkFree) = false) ∧
      (s.chainFrom (s.region 0x240) (s.region 0x240).linkCount (s.num 0xA000 4)).length < (s.region 0x240).linkCount)
    (l : ∀ v ∈ s.versions vline, v.link < (s.region 0x240).linkCount ∧ (v.link = 0 → v = { link := 0, num := 0, loc := 0x8000 }))
    (f : (s.versions vline).Pairwise fun v w => w.num < v.num ∧ w.link ≠ v.link)
    (g : (s.region 0x240).linkFree < (s.region 0x240).linkCount ∧ (s.region 0x240).linkNext ≠ 0 ∧
      ∀ v ∈ s.versions vline, (v.link ≠ 0 → v.link ≠ (s.region 0x240).linkFree) ∧ v.link ≠ (s.region 0x240).linkNext)
    (b : (s.region 0x240).linkBase = 0xB000 ∧ (s.region 0x240).linkCount = 4)
    (v : ∀ w ∈ s.versions vline, (w.loc + 64 ≤ 0x9000 ∨ 0xB040 ≤ w.loc) ∧ (w.loc ≤ 0xFFC0 ∨ 0x10040 ≤ w.loc))
    (p : (s.die ((homeOf vline.base).getD 0)).pool (s.region 0x240).pool 0 = [0x10000]) : Spec.ChainOk s vline := by
  obtain ⟨m, t, o, c⟩ := w
  refine ⟨m, by decide, ⟨t, o⟩, c, l, f, g, ⟨.inl (by decide), .inl ?_, .inl ?_⟩, fun w hw => ?_, ?_⟩
  · show 0x240 * 64 + 64 ≤ (s.region 0x240).linkBase
    rw [b.1]; decide
  · show 0xA000 + 8 ≤ (s.region 0x240).linkBase
    rw [b.1]; decide
  · have := (v w hw).1
    show Spec.Apart w.loc 64 (0x240 * 64) 64 ∧ Spec.Apart w.loc 64 0xA000 8 ∧
      Spec.Apart w.loc 64 (s.region 0x240).linkBase (16 * (s.region 0x240).linkCount)
    rw [b.1, b.2]
    unfold Spec.Apart
    omega
  · intro e es h
    have h' : (s.die ((homeOf vline.base).getD 0)).pool (s.region 0x240).pool 0 = e :: es := h
    rw [p] at h'
    simp only [List.cons.injEq] at h'
    obtain ⟨rfl, rfl⟩ := h'
    refine ⟨by decide, by decide, .inr (by decide), .inr (by decide), ?_, fun w hw => ?_⟩
    · show Spec.Apart 0x10000 64 (s.region 0x240).linkBase (16 * (s.region 0x240).linkCount)
      rw [b.1, b.2]
      exact .inr (by decide)
    · have := (v w hw).2
      unfold Spec.Apart
      omega

theorem chained_ok : Spec.ChainOk chained vline :=
  chain_ok (w := by decide +kernel) (l := by decide +kernel) (f := by decide +kernel) (g := by decide +kernel) (b := by decide +kernel)
    (v := by decide +kernel) (p := by decide +kernel)

/-- A write of version 9, collisions, sealed writes, answers, and the reclaim of version 5. -/
theorem test_meets_version_chains : Spec.ChainOk chained vline ∧ (∃ t, chained.writeVersion 5 vline 9 [(0, 5)] false 0x80000000 = .ok t) ∧
    chained.versions vline = [{ link := 2, num := 7, loc := 0x10080 }, { link := 1, num := 5, loc := 0x10040 }, { link := 0, num := 0, loc := 0x8000 }] ∧
    (chained.region 0x240).floorNo = 7 ∧ (chained.region 0x240).sealNo = 7 :=
  ⟨chained_ok, succeeds_of (by decide +kernel), by decide +kernel, by decide +kernel, by decide +kernel⟩

theorem test_meets_reclaims : retained (chained.versions vline) 7 5 = false ∧ retained (chained.versions vline) 7 7 = true ∧
    (0 : Nat) < (chained.region 0x240).live ∧ (homeOf 0x8000).getD 0 < chained.dies.length ∧
    (∀ w ∈ versions_s.versions vline, w.link = 0 ∨ retained (versions_s.versions vline) (versions_s.region 0x240).floorNo w.num = true) := by decide +kernel

/-- Writes that fail: no link left, no chunk left, a floor above the seal. -/
theorem test_meets_version_faults :
    ((puts [(0x9018, 0x400000004)] chained).region 0x240).linkFree = 0 ∧
    ((puts [(0x9018, 0x400000004)] chained).region 0x240).linkCount ≤ ((puts [(0x9018, 0x400000004)] chained).region 0x240).linkNext ∧
    (((chained.updDie ((homeOf 0x8000).getD 0) fun d => d.setPool 0 0 []).die ((homeOf 0x8000).getD 0)).pool 0 0) = [] ∧ (chained.region 0x240).linkNext < (chained.region 0x240).linkCount ∧
    ({ chained with verTaint := [0x10080] }).tainted vline = true ∧ ({ chained with verOwned := [] }).tainted vline = true ∧
    (let s := puts [(0x9018, 0x400000004), (0x9020, 0x200000003)] chained;
      s.tainted vline = false ∧ (s.region 0x240).linkFree = 3 ∧ s.foreign 0x240 ((s.region 0x240).link 3) = true) ∧ chained.tainted vline = false ∧ chained.acquiring chained.cur = false ∧
    ((puts [(0x9000, 0x600000007)] chained).region 0x240).sealNo < ((puts [(0x9000, 0x600000007)] chained).region 0x240).floorNo := by decide +kernel

/-- Version instructions: places with and without VERS, answers that come and that wait. -/
def versionPage : Page := { va := 0x80000000, size := 4096, base := 0x8000, leaf := 0x6415, level := 0, pdb := some (chained.readPdb 0x6000), spans := [] }

theorem test_meets_versions : Ready chained [5, 1, 2] ∧ Spec.Quiet chained ∧ (chained.me.x 8).toNat % 8 ≠ 0 ∧ (chained.me.x 1).toNat % 8 = 0 ∧
    (∃ t, Answers (place (chained.me.ctx 5) .write 0x80000000) chained (.page versionPage) t) ∧
    (∃ t, Answers (place (chained.me.ctx 5) .read 0x80000000) chained (.page versionPage) t) ∧ chained.verPlace (.page versionPage) 0x80000000 = some vline ∧
    (∃ t, Answers (place (onPage.me.ctx 5) .read 0x40000000) onPage (.page dataPage) t ∧
      t.me.sb = [] ∧ Ends (fabricOrder (t.targetOf (onPage.me.ctx 5) (.page dataPage) 0x40000000).loc 8) t t ∧
      ∃ bs u, Answers (vecRead (onPage.me.ctx 5) (.page dataPage) 0x40000000 8) t bs u) ∧ onPage.verPlace (.page dataPage) 0x40000000 = none :=
  ⟨ready_of (by decide +kernel), quiet_of (by decide +kernel) (by decide +kernel), by decide +kernel, by decide +kernel, ⟨_, answers_eq (by decide +kernel)⟩,
    ⟨_, answers_eq (by decide +kernel)⟩, by decide +kernel, ⟨_, answers_eq (by decide +kernel), by decide +kernel, ends_same (by decide +kernel)
      (by decide +kernel), _, _, answers_get (by decide +kernel)⟩, by decide +kernel⟩

theorem test_meets_answers : chained.answer vline 7 true 0x80000000 = .got { link := 2, num := 7, loc := 0x10080 } false ∧
    chained.answer vline 9 true 0x80000000 = .pending ∧ (∃ r, chained.answer vline 5 true 0x80000000 = .fault r) ∧
    ∃ t, chained.writeVersion 5 vline 9 [(0, 5)] false 0x80000000 = .ok t := ⟨by decide +kernel, by decide +kernel, ⟨_, rfl⟩, succeeds_of (by decide +kernel)⟩

/-- Rows of a vector version write and read, and a shape without elements. -/
noncomputable def versionWrite : VVerF := { d := 6, a := 1, b := 0, c := 5, k := 0, ty := .n64, hint := 0 }

noncomputable def rowsOf (s : State) (op : VecOp) : VEntry := s.entry op .frm (some 1) (some 0) (some 5) none

theorem test_meets_vector_versions : Accepting vector_versions_s ∧ verShapeBad true versionWrite (rowsOf vector_versions_s (.vverst versionWrite)) = false ∧
    verShapeBad false versionWrite (rowsOf vector_versions_s (.vverld versionWrite)) = false ∧ Spec.on vector_versions_s 0 0 0 = true ∧
    (vector_versions_s.updMe fun k => { k with nr := 0 }).me.nr.toNat = 0 :=
  ⟨accepting_of (by decide +kernel), by decide +kernel, by decide +kernel, by decide +kernel, by decide +kernel⟩

/-- The lines that a computation of lines finds. -/
noncomputable def linesOf {α β : Type} (m : M (List α × Option β)) (s : State) : List α := ((result m s).map Prod.fst).getD []

theorem lines_of {α β : Type} {m : M (List α × Option β)} {s : State} (h : ((result m s).map fun p => p.2.isNone) = some true) :
    Answers m s (linesOf m s, none) (ended m s) := by
  obtain ⟨p, e, q⟩ := Option.map_eq_some_iff.1 h
  apply answers_eq
  simp only [linesOf, e, Option.map_some, Option.getD_some, Option.some.injEq]
  exact Prod.ext rfl (Option.isNone_iff_eq_none.1 q)

noncomputable def versionRead (c : Reg) : VVerF := { versionWrite with c := c }

noncomputable def findWrites : M (List VerLine × Option (Trap × Nat × Nat)) :=
  verLines ((rowsOf vector_versions_s (.vverst versionWrite)).ctx 5) .write versionWrite (rowsOf vector_versions_s (.vverst versionWrite))
    (List.range vector_versions_s.me.nr.toNat)

noncomputable def startWrites : State := Spec.released (vector_versions_s.dispatched (.vverst versionWrite) .frm (some 1) (some 0) (some 5) none) .device

theorem test_meets_version_writes : Answers findWrites startWrites (linesOf findWrites startWrites, none) (ended findWrites startWrites) ∧
    ∃ w, Ends ((linesOf findWrites startWrites).forM (verWrite 5 versionWrite (rowsOf vector_versions_s (.vverst versionWrite)))) (ended findWrites startWrites) w ∧
      Spec.Stands vector_versions_s w :=
  ⟨lines_of (by decide +kernel), _, ends_unit (by decide +kernel), stands_of (by decide +kernel)⟩

/-- A read of version 0, which is there, and of version 5, which is not yet. -/
noncomputable def findReads (c : Reg) : M (List VerLine × Option (Trap × Nat × Nat)) :=
  verLines ((vector_versions_s.entry (.vverld (versionRead c)) .frm (some 1) (some 0) (some c) none).ctx 5) .read (versionRead c)
    (vector_versions_s.entry (.vverld (versionRead c)) .frm (some 1) (some 0) (some c) none) (List.range vector_versions_s.me.nr.toNat)

noncomputable def startReads (c : Reg) : State := vector_versions_s.dispatched (.vverld (versionRead c)) .frm (some 1) (some 0) (some c) none

theorem test_meets_version_reads : Answers (findReads 0) (startReads 0) (linesOf (findReads 0) (startReads 0), none) (ended (findReads 0) (startReads 0)) ∧
    (linesOf (findReads 0) (startReads 0)).all ((ended (findReads 0) (startReads 0)).verReady 0) = true ∧
    (∃ w, Ends ((linesOf (findReads 0) (startReads 0)).forM (verRead ((vector_versions_s.entry (.vverld (versionRead 0)) .frm (some 1) (some 0) (some 0) none).ctx 5)
      (versionRead 0) (vector_versions_s.entry (.vverld (versionRead 0)) .frm (some 1) (some 0) (some 0) none))) (ended (findReads 0) (startReads 0)) w ∧
      Spec.Stands vector_versions_s w) ∧
    (linesOf (findReads 5) (startReads 5)).all ((ended (findReads 5) (startReads 5)).verReady 5) = false ∧ Spec.Stands vector_versions_s (ended (findReads 5) (startReads 5)) :=
  ⟨lines_of (by decide +kernel), by decide +kernel, ⟨_, ends_unit (by decide +kernel), stands_of (by decide +kernel)⟩, by decide +kernel,
    stands_of (by decide +kernel)⟩

/-! ### The KV space and the crusts -/

theorem kv_item {s : State} {c : KvCtx} {pa n : Nat} (k : (s.die c.die).kv = []) (r : s.devRange pa (8 * n) = true)
    (g : s.badLines.contains (pa / 64) = false) : Spec.KvItem s c pa n :=
  ⟨r, g, fun q h => absurd h (by simp [k])⟩

/-- The KV context of row 0 in `kv_s`, and the layer of its tables. -/
def kvc : KvCtx := { die := 0, root := 0x10001, addr := 0x10000000003 }

def kvl : KvLayer := { fmt := .fp32, ksc := 0x80, vsc := 0x81, dim := 4, rot := 0, npage := 1, record := 0x20000, nhead := 1 }

theorem kv_sequence {s : State} {c : KvCtx} (r : c.root = 0x10001) (e1 : s.devRange 0x10000 (2 ^ 15) = true) (ad : c.addr / 2 ^ 40 = 1)
    (w : (s.num 0x10000 8, s.num 0x18008 8, s.num 0x20008 8, s.num 0x20010 8, s.num 0x20000 8) = (0x18001, 0x20001, 0x10001, 0x20100, s.num 0x20000 8))
    (n : s.num 0x20000 8 ≤ 2 ^ 24) (k : (s.die c.die).kv = []) (b : s.badLines = [])
    (v : s.devRange 0x10000 8 = true ∧ s.devRange 0x18008 8 = true ∧ s.devRange 0x20008 16 = true ∧ s.devRange 0x20100 8 = true) : Spec.KvSequence s c 0x20000 1 0x20100 := by
  simp only [Prod.mk.injEq] at w
  obtain ⟨w0, w1, w2, w3, -⟩ := w
  have hi : Sys2Proof.Machine.bits c.addr 63 52 = 0 := by unfold Sys2Proof.Machine.bits; omega
  have hj : Sys2Proof.Machine.bits c.addr 51 40 = 1 := by unfold Sys2Proof.Machine.bits; omega
  have hr : Sys2Proof.Machine.bits c.root.toNat 51 15 * 2 ^ 15 = 0x10000 := by rw [r]; decide
  have g : ∀ l, s.badLines.contains l = false := by simp [b]
  refine ⟨by rw [r]; decide, by rw [hr]; exact e1, ?_, ?_, kv_item k v.2.2.1 (g _), ⟨w2, by decide, n⟩, ⟨w3, by decide, by decide, v.2.2.2⟩⟩
  · rw [hr, hi]; exact kv_item k v.1 (g _)
  · rw [hr, hi, hj]
    simp only [Nat.mul_zero, Nat.add_zero, w0]
    exact ⟨by decide, by decide, by decide, _, rfl, kv_item k v.2.1 (g _), by
      show s.num 0x18008 8 % 2 = 1
      rw [w1], by show Sys2Proof.Machine.bits (s.num 0x18008 8) 5 1 = 0; rw [w1]; decide, by show Sys2Proof.Machine.bits (s.num 0x18008 8) 63 52 = 0; rw [w1]; decide,
      by show 0x20000 = Sys2Proof.Machine.bits (s.num 0x18008 8) 51 6 * 64; rw [w1]; decide⟩

theorem test_meets_sequences : Spec.KvSequence kv_s kvc 0x20000 1 0x20100 ∧ Spec.kvCtx kv_s (kv_s.me.x 1) 0 = kvc ∧ Accepting kv_s ∧ kv_s.dies.length = 4 ∧
    Memory.wf kv_s.mem = true ∧ Spec.Rising kv_s.me.vregs :=
  ⟨kv_sequence rfl (by decide +kernel) (by decide) (by decide +kernel) (by decide +kernel) (by decide +kernel) (by decide +kernel) (by decide +kernel),
    by decide +kernel, accepting_of (by decide +kernel), by decide +kernel, by decide +kernel, by unfold Spec.Rising; decide +kernel⟩

/-- The words of a table of `kv_s` are there to be read. -/
theorem kv_s_item {pa n : Nat} (r : kv_s.devRange pa (8 * n) = true) : Spec.KvItem kv_s kvc pa n :=
  kv_item (by decide +kernel) r (by rw [show kv_s.badLines = [] by decide +kernel]; rfl)

/-- The layer record at 20140H holds the fields of `kvl` and its HTAB. -/
theorem kv_s_layer : let w := fun (i : Nat) => kv_s.num (0x20140 + 8 * i) 8
    kvFmt (Sys2Proof.Machine.bits (w 0) 4 0) = some kvl.fmt ∧ Sys2Proof.Machine.bits (w 0) 7 5 = 0 ∧ Sys2Proof.Machine.bits (w 0) 31 24 = 0 ∧
    kvl.ksc = Sys2Proof.Machine.bits (w 0) 15 8 ∧ kvl.vsc = Sys2Proof.Machine.bits (w 0) 23 16 ∧ kvl.dim = Sys2Proof.Machine.bits (w 0) 47 32 ∧
    kvl.nhead = Sys2Proof.Machine.bits (w 0) 63 48 ∧ 0 < kvl.nhead ∧ kvl.nhead ≤ 256 ∧
    w 1 = kvl.rot ∧ w 2 = 0x20200 ∧ w 3 = kvl.npage ∧ kvl.npage < 2 ^ 32 ∧ ∀ i ∈ List.range 8, 4 ≤ i → w i = 0 := by decide +kernel

theorem kv_layer_at : Spec.KvLayerAt kv_s kvc kvl 0x20200 where
  sequence := by
    obtain ⟨fmt, r1, r2, ksc, vsc, dim, heads, some_, most, rot, htab, pages, bound, zeros⟩ := kv_s_layer
    exact ⟨1, 0x20100, test_meets_sequences.1, by decide, kv_s_item (by decide +kernel), 0x20140, by decide +kernel, by decide, by decide, by decide,
      kv_s_item (by decide +kernel), fmt, r1, r2, ksc, vsc, dim, heads, some_, most, rot, htab, pages, bound,
      fun i h l => zeros i (List.mem_range.2 l) h⟩
  dim := by decide
  rot := by decide
  heads := by decide +kernel

theorem kv_page : Spec.KvPage kv_s kvc kvl 0x28001 where
  list := ⟨0x20200, 0x20240, kv_layer_at, kv_s_item (by decide +kernel), by decide +kernel, by decide, by decide, by decide, by decide +kernel,
    kv_s_item (by decide +kernel), by decide +kernel⟩
  pos := by decide
  head := by decide

theorem kv_mapped (w : Bool) : Spec.KvMapped kv_s kvc w kvl 0x28300 :=
  ⟨⟨0x28001, kv_page, by decide, by decide, by decide, fun _ => by decide, by decide +kernel, by decide⟩⟩

/-- A mapped row; tables of which each step is missing: no root, no directory entry, no sequence, no layer. -/
theorem test_meets_walks : Spec.KvMapped kv_s kvc true kvl 0x28300 ∧ Spec.KvLayerAt kv_s kvc kvl 0x20200 ∧ Spec.KvPage kv_s kvc kvl 0x28001 ∧
    ({ kvc with root := 0 } : KvCtx).root.getLsbD 0 = false ∧ kv_s.num (0x10000 + 8 * 1) 8 % 2 = 0 ∧ kv_s.num (0x18000 + 8 * 2) 8 % 2 = 0 ∧
    1 ≤ kvLayer (0x10000000003 + 2 ^ 32) ∧ kvl.nhead ≤ kvHead (0x10000000003 + 2 ^ 24) ∧ 64 * kvl.npage ≤ kvPos (0x10000000003 + 61) :=
  ⟨kv_mapped true, kv_layer_at, kv_page, by decide, by decide +kernel, by decide +kernel, by decide, by decide, by decide⟩

theorem test_meets_walk_failures : ((puts [(0x20100, 0)] kv_s).num 0x20100 8 = 0) ∧ ((puts [(0x20200, 0)] kv_s).num 0x20200 8 = 0) ∧
    ((puts [(0x20200, 4)] kv_s).num 0x20200 8 = 4) ∧ kv_s.devRange 0xA000000000000 8 = false ∧
    (0x28000 : Nat) % 2 = 0 ∧ Sys2Proof.Machine.bits 0x28005 14 2 ≠ 0 ∧ (0x28003 : Nat) % 2 = 1 ∧ Sys2Proof.Machine.bits 0x28003 1 1 = 1 ∧
    Sys2Proof.Machine.bits ((puts [(0x20008, 0)] kv_s).num 0x20008 8) 16 16 = 0 := by decide +kernel

theorem plain_of {s : State} {pa n : Nat} (h : s.badLines = [] ∧ s.sealTags = [] ∧ s.vague = []) : Spec.Plain s pa n := fun _ _ => Calm.plain h _

theorem kv_item_cores {s : State} {c : KvCtx} {pa n : Nat} (ks : List Core) (h : Spec.KvItem s c pa n) : Spec.KvItem { s with cores := ks } c pa n :=
  ⟨h.range, h.good, h.fresh⟩

theorem kv_sequence_cores {s : State} {c : KvCtx} {rc n l : Nat} (ks : List Core) (h : Spec.KvSequence s c rc n l) :
    Spec.KvSequence { s with cores := ks } c rc n l := by
  refine ⟨h.enabled, h.directory, kv_item_cores ks h.first, ?_, kv_item_cores ks h.record, h.valid, h.layers⟩
  obtain ⟨v, z, y, f, e, i, r⟩ := h.second
  exact ⟨v, z, y, f, e, kv_item_cores ks i, r⟩

/-- What the tables map does not depend on the cores. -/
theorem kv_mapped_cores {s : State} {c : KvCtx} {w : Bool} {l : KvLayer} {pa : Nat} (ks : List Core) (h : Spec.KvMapped s c w l pa) :
    Spec.KvMapped { s with cores := ks } c w l pa := by
  obtain ⟨pe, p, m⟩ := h.page
  obtain ⟨htab, pl, y, i, q, a, b, d, g, j, r⟩ := p.list
  obtain ⟨nl, lt, sq, lay, i1, v, hv, v0, v1, v2, i2, rest⟩ := y.sequence
  exact ⟨pe, ⟨⟨htab, pl, ⟨⟨nl, lt, kv_sequence_cores ks sq, lay, kv_item_cores ks i1, v, hv, v0, v1, v2, kv_item_cores ks i2, rest⟩, y.dim, y.rot, y.heads⟩,
    kv_item_cores ks i, q, a, b, d, g, kv_item_cores ks j, r⟩, p.pos, p.head⟩, m⟩

/-- A CPYKV of the row at position 3, with a row of 16 bytes or of 32, to the pad address 40H, alone or to cores 4 and 5. -/
noncomputable def kvCopyEntry (x : CpyF) : VEntry :=
  { kv_s.entry (.cpykv x) .frm (some 8) (some 1) none (some 0) with opa := 0x01F0000000000040, prog := { row := 0, col := 0, block := 0 } }

noncomputable def kvCopying (x : CpyF) : State := kv_s.updMe fun k =>
  { k with chans := k.chans.set! 1 { copies := [kvCopyEntry x], stopped := none, row := [] } }

theorem test_meets_kv_copies : (∀ x ∈ [copy16 0, copy16 3, { copy16 0 with rows16 := 2 }],
      (kvCopying x).cores.length = 160 ∧ (kvCopying x).dies.length = 4 ∧ Memory.wf (kvCopying x).mem = true ∧ ((kvCopying x).core 5).sb = [] ∧
      ((kvCopying x).core 5).chan 1 = { copies := [kvCopyEntry x], stopped := none, row := [] } ∧ x.bar = 0 ∧ 0 < x.rows16.toNat ∧
      (kvCopyEntry x).prog.row < (kvCopyEntry x).nr ∧ ((kvCopying x).core 5).olderAcquire 1 (kvCopyEntry x).seq = false ∧ x.acq = false ∧
      ({ die := dieOf 5, root := (kvCopyEntry x).kvroot, addr := (kvCopyEntry x).opb.toNat + 0 } : KvCtx) = kvc) ∧
    kvl.dim * kvl.fmt.width / 8 = 16 ∧ 2 ^ 24 ≤ kvPos 0x10000FFFFFF + 1 ∧ Spec.KvMapped (kvCopying (copy16 0)) kvc false kvl 0x28300 ∧
    Spec.Plain (kvCopying (copy16 0)) 0x28300 16 ∧ Spec.RowIn (kvCopying (copy16 0)) 5 (0x01F0000000000000 + 0x40) (corePadLoc 5 0x40) 16 ∧
    ∀ k, Spec.RowIn (kvCopying (copy16 3)) (5 / 4 * 4 + k) (0x01F0000000000000 + 0x40) (corePadLoc (5 / 4 * 4 + k) 0x40) 16 :=
  ⟨by decide +kernel, by decide, by decide, kv_mapped_cores _ (kv_mapped false), plain_of (by decide +kernel), pad_row _ _ _ (by decide) (by decide +kernel),
    fun _ => pad_row _ _ _ (by decide) (by decide +kernel)⟩

/-- One row of FP32 elements at position 3: a load of it, and an append. -/
def kvLoad : VMemLF := { d := 7, a := 1, k := 0, ty := .fp32, hint := 0 }

def kvApp : KvappF := { d := 5, a := 1, b := 6, ty := .fp32, hint := 0 }

theorem test_meets_kv_loads : kvPos (kv_s.me.x 1).toNat + kv_s.me.nr.toNat ≤ 2 ^ 24 ∧ kvl.fmt = .fp32 ∧ kv_s.me.nc.toNat ≤ kvl.dim ∧ Spec.on kv_s 0 0 0 = true ∧
    (∀ r c, Spec.on kv_s 0 r c = true → Spec.KvMapped kv_s (Spec.kvCtx kv_s (kv_s.me.x 1) r) false kvl 0x28300 ∧ Spec.Plain kv_s 0x28300 256) ∧
    ∃ t, Ends ((List.range kv_s.me.nr.toNat).forM (kvLoadRow true kvLoad (kv_s.entry (.kvld true kvLoad) .frm (some 1) none none none)))
      (kv_s.dispatched (.kvld true kvLoad) .frm (some 1) none none none) t ∧ Spec.Stands kv_s t := by
  refine ⟨by decide +kernel, rfl, by decide +kernel, by decide +kernel, ?_, _, ends_unit (by decide +kernel), stands_of (by decide +kernel)⟩
  refine forall_on fun r hr c _ => ⟨?_, plain_of (by decide +kernel)⟩
  rw [show kv_s.me.nr.toNat = 1 by decide +kernel, List.mem_range] at hr
  rw [show r = 0 by omega, test_meets_sequences.2.1]
  exact kv_mapped false

theorem test_meets_kv_appends : kv_s.me.nr.toNat = 1 ∧ kv_s.me.nc.toNat ≠ 0 ∧ kv_s.num kvl.record 4 ≤ kvPos (kv_s.me.x 1).toNat ∧
    (∀ i ∈ List.range 256, kv_s.statusByte (0x28300 + i) = false ∧ kv_s.statusByte (0x28300 + 16384 + i) = false) ∧
    kv_s.me.unperformed 0x28300 256 = false ∧ kv_s.me.unperformed (0x28300 + 16384) 256 = false ∧
    (∀ r ∈ List.range kv_s.me.nr.toNat, ∀ c ∈ List.range kv_s.me.nc.toNat,
      (kv_s.me.row kv_s.me.wide 5 r).tag (elemBlock .fp32 c) / 256 = (tyCode .fp32).toNat ∧
      (kv_s.me.row kv_s.me.wide 6 r).tag (elemBlock .fp32 c) / 256 = (tyCode .fp32).toNat) ∧
    ∃ t, Ends (kvAppendRows kvApp (kv_s.entry (.kvapp kvApp) .frm (some 1) none none none) (List.range kv_s.me.nr.toNat) none)
      (kv_s.dispatched (.kvapp kvApp) .frm (some 1) none none none) t ∧ Spec.Stands kv_s t :=
  ⟨by decide +kernel, by decide +kernel, by decide +kernel, by decide +kernel, by decide +kernel, by decide +kernel, by decide +kernel, _, ends_unit (by decide +kernel),
    stands_of (by decide +kernel)⟩

/-- A move of the row at 3 + 1 to 3 + 0. -/
noncomputable def moving : State := kv [(2, 6)] fun k => putRow 5 0 .n32 [1] { k with nc := 1 }

def kvMove : KvmoveF := { a := 1, c := 5, k := 0, ty := .n32, hint := 0 }

theorem test_meets_kv_moves : ((List.range moving.me.nc.toNat).filter fun j => Spec.on moving 0 0 j) = [0] ∧ moving.me.nc.toNat ≤ 64 ∧
    kvMoveBad (kvPos (moving.me.x 1).toNat) (moving.num 0x20000 4) 1 (fun j => Spec.el moving 5 .n32 0 j) [0] none = none ∧
    ∃ t, Ends ([0].forM fun j => if Spec.el moving 5 .n32 0 j = j then return () else
        kvMoveOne (moving.entry (.kvmove kvMove) .frm (some 1) none none none) (3 + Spec.el moving 5 .n32 0 j) (3 + j))
      (moving.dispatched (.kvmove kvMove) .frm (some 1) none none none) t ∧ Spec.Stands moving t :=
  ⟨by decide +kernel, by decide +kernel, by decide +kernel, _, ends_unit (by decide +kernel), stands_of (by decide +kernel)⟩

/-- Pairs to turn: numbers, a NaN, and an infinity. -/
theorem test_meets_turns : ∀ f ∈ [fmtFp32, fmtBf16, fmtFp16, fmtE4m3, fmtE5m2], (∃ n m e, f.decode 1 = .fin n m e ∧ 0 < m) ∧ (1 : Nat) < 2 ^ f.width ∧
    f.decode f.nanBits = .nan := by
  intro f hf
  simp only [List.mem_cons, List.mem_nil_iff, or_false] at hf
  rcases hf with rfl | rfl | rfl | rfl | rfl <;> exact ⟨⟨_, _, _, rfl, by decide⟩, by decide +kernel, by decide +kernel⟩

/-- KVLEN: a length that is set, and one above 2^24. -/
theorem test_meets_kv_lengths : (kv_s.me.x 2).toNat ≤ 2 ^ 24 ∧ (2 : Nat) ^ 24 < (kv_s.me.x 1).toNat ∧
    Spec.KvSequence (Spec.released (kv_s.dispatched (.kvlenSet { d := 3, a := 1, b := 2 }) .frm (some 1) (some 2) none none) .device) kvc 0x20000 1 0x20100 ∧
    Memory.wf (Spec.released (kv_s.dispatched (.kvlenSet { d := 3, a := 1, b := 2 }) .frm (some 1) (some 2) none none) .device).mem = true ∧
    ∀ i ∈ List.range 4, (Spec.released (kv_s.dispatched (.kvlenSet { d := 3, a := 1, b := 2 }) .frm (some 1) (some 2) none none) .device).statusByte (0x20000 + i) = false :=
  ⟨by decide +kernel, by decide +kernel, kv_sequence rfl (by decide +kernel) (by decide) (by decide +kernel) (by decide +kernel) (by decide +kernel)
    (by decide +kernel) (by decide +kernel), by decide +kernel, by decide +kernel⟩

/-- Items of each kind, one that reads a line with an error, and a crust that holds them. -/
def items : List ItemOp := [.nadd true 0x8000000000000 [1, 2], .copyLine 0x8000000000000 0x8000000000040, .zeroLine 0x8000000000000,
  .gatherElem 0x8000000000000 0x8000000000008 8, .noptLine 0x8000000000000 0x8000000200000 0 0]

theorem item_ok {s : State} {o : ItemOp} (k : Calm s)
    (r : ∀ q ∈ o.ranges.1, 0 < q.2 ∧ q.1 + q.2 ≤ 2 ^ 52 ∧ isRemote q.1 = false ∧ isRemote (q.1 + q.2 - 1) = false)
    (w : ∀ q ∈ o.ranges.2, 0 < q.2 ∧ q.1 + q.2 ≤ 2 ^ 52 ∧ isRemote q.1 = false ∧ isRemote (q.1 + q.2 - 1) = false ∧
      ∀ i ∈ List.range q.2, s.statusByte (q.1 + i) = false)
    (a : match o with
      | .copyLine a b | .noptLine a b _ _ => a % 64 = 0 ∧ b % 64 = 0
      | .zeroLine a => a % 64 = 0
      | .gatherElem a b n => a % n = 0 ∧ b % n = 0 ∧ n ≤ 8 ∧ 64 % n = 0
      | .nadd _ a _ => a % 4 = 0) : Spec.ItemOk s o := by
  refine ⟨fun q h => ?_, fun q h => ?_, by cases o <;> exact a⟩
  · obtain ⟨x, y, z, u⟩ := r q h
    exact ⟨x, y, z, u, plain_of k.1⟩
  · obtain ⟨x, y, z, u, v⟩ := w q h
    refine ⟨x, y, z, u, plain_of k.1, fun i hi => ⟨?_, v i (List.mem_range.2 hi)⟩⟩
    unfold State.barrierAt
    split
    · rfl
    · rename_i h _
      have : (s.die h).bars = [] := by
        unfold State.die
        rcases Nat.lt_or_ge h s.dies.length with l | l
        · simp only [List.getD_eq_getElem?_getD, List.getElem?_eq_getElem l, Option.getD_some]
          exact k.2 _ (List.getElem_mem l)
        · simp only [List.getD_eq_getElem?_getD, List.getElem?_eq_none l, Option.getD_none]
          rfl
      rw [this]
      rfl

theorem test_meets_items : (∀ o ∈ items, Spec.ItemOk (plain []) o) ∧ (0 : Nat) < (plain []).crusts.length ∧ ((plain []).crust 0).queue = [] ∧
    ({ plain [] with badLines := [0x200000000000] }).itemFails (.copyLine 0x8000000000000 0x8000000000040) = true := by
  refine ⟨?_, by decide +kernel, by decide +kernel, by decide +kernel⟩
  intro o h
  simp only [items, List.mem_cons, List.mem_nil_iff, or_false] at h
  rcases h with rfl | rfl | rfl | rfl | rfl <;>
    exact item_ok (by decide +kernel) (by decide +kernel) (by decide +kernel) (by decide)

/-! Crust commands on the compute-capable pages at 80200000H and 80400000H. -/

def ccPage : Page := { va := 0x80200000, size := 2 ^ 21, base := 0x8000000000000, leaf := 0x00580000000000D5, level := 1, pdb := none, spans := [] }

def crusty : State := puts [(0x8000000000000, 0x3F80000040000000), (0x8000000200000, 0x1111222233334444)]
  (device [(1, 0x80200000), (2, 0x80400000), (7, 0x3F000000), (8, 0x40000000), (9, 0x80200004)] fun k =>
    putRow 6 0 .n32 [0, 0] (putRow 5 0 .fp32 [0x3F800000, 0x40000000] { k with nr := 1, nc := 2 }))

/-- Operands: a whole line of a compute-capable page, one that is not aligned, one of a page without CC, and a line that is a barrier. -/
theorem test_meets_crust_checks : (∃ t, Answers (place (crusty.me.ctx 5) .write 0x80200000) crusty (.page ccPage) t ∧
      (∀ i ∈ List.range 64, t.barrierAt ((ccPage.phys 0x80200000 + i) / 64) = none)) ∧ ccPage.leaf.getLsbD 6 = true ∧ ccPage.leaf.getLsbD 8 = false ∧
    (0x80200004 : Nat) % 64 ≠ 0 ∧ (∃ t, Answers (place (onPage.me.ctx 5) .write 0x40000000) onPage (.page dataPage) t) ∧ dataPage.leaf.getLsbD 6 = false ∧
    ccPage.phys 0x80200000 % 64 = 0 :=
  ⟨⟨_, answers_eq (by decide +kernel), by decide +kernel⟩, by decide, by decide, by decide, ⟨_, answers_eq (by decide +kernel)⟩, by decide, by decide⟩

/-- The compute-capable page with SEAL set, and a barrier on its first line. -/
theorem test_meets_crust_targets : ({ ccPage with leaf := 0x00580000000001D5 } : Page).leaf.getLsbD 8 = true ∧
    ((crusty.updDie 0 fun d => { d with bars := [{ oneBarrier with line := 0x8000000000000 / 64 }] }).barrierAt (ccPage.phys 0x80200000 / 64)).isSome = true := by
  decide +kernel

def naddOp : NaddF := { d := 5, a := 1, b := 0, c := 6, acq := false, rel := false, scope := .core, ty := .fp32 }

def target64 (va : Nat) (t : Bool) : CrustOp := { va := va, n := 64, target := t, align := 64 }

theorem test_meets_nadd : Accepting crusty ∧ crusty.me.nr.toNat ≠ 0 ∧ crusty.me.nc.toNat ≠ 0 ∧ crusty.me.nc.toNat ≤ 64 ∧ crusty.me.wide = false ∧
    (∃ t, Ends ((List.range crusty.me.nr.toNat).forM (naddRow naddOp (crusty.entry (.nadd naddOp) .frm (some 1) (some 0) none none)))
      (Spec.ordered (crusty.dispatched (.nadd naddOp) .frm (some 1) (some 0) none none) false false .core) t ∧ Spec.Stands crusty t) ∧
    ∃ t, Answers (crustChecks ((crusty.entry (.nadd naddOp) .frm (some 1) (some 0) none none).ctx 5) [{ va := 0x80200000, n := 8, target := true, align := 4 }]
      (fun _ => none) []) crusty [0x8000000000000] t ∧ t.cur = crusty.cur :=
  ⟨accepting_of (by decide +kernel), by decide +kernel, by decide +kernel, by decide +kernel, by decide +kernel,
    ⟨_, ends_unit (by decide +kernel), stands_of (by decide +kernel)⟩, _, answers_eq (by decide +kernel), by decide +kernel⟩

/-- The checks of one target, and of a target and a source. -/
theorem test_meets_crust_commands :
    (∃ t, Answers (crustChecks (crusty.me.ctx 5) [target64 0x80200000 true] (fun _ => none) []) crusty [0x8000000000000] t ∧ Spec.Stands crusty t) ∧
    (∃ t, Answers (crustChecks (crusty.me.ctx 5) [target64 0x80200000 true, target64 0x80400000 false] (fun _ => none) []) crusty
      [0x8000000000000, 0x8000000200000] t ∧ Spec.Stands crusty t) ∧
    ∃ t, Answers (crustChecks (crusty.me.ctx 5) [target64 0x80200000 true, target64 0x80400000 false] (fun _ => none) [(2 ^ 20, 64)]) crusty
      [0x8000000000000, 0x8000000200000] t ∧ Spec.Stands crusty t :=
  ⟨⟨_, answers_eq (by decide +kernel), stands_of (by decide +kernel)⟩, ⟨_, answers_eq (by decide +kernel), stands_of (by decide +kernel)⟩, _,
    answers_eq (by decide +kernel), stands_of (by decide +kernel)⟩

/-- Pattern 2 of the source's crust: a run of 1 with stride 8 of elements of 8 bytes, gathered into one line. -/
def patterned : State := crusty.updCrust 0 fun c => { c with patterns := c.patterns.set! 2 0x3000100000008 }

def run8 : Pattern := { size := 8, run := 1, stride := 8 }

def sourcePage : Page := { ccPage with va := 0x80400000, base := 0x8000000200000, leaf := 0x00580000002000D5 }

/-- The same where die 0 holds both pages and their tables. -/
def holding : State := patterned.updDie 0 fun d => { d with
  tlb := [{ asid := 0, page := sourcePage }, { asid := 0, page := ccPage }]
  walk := [{ asid := 0, level := 4, prefixVa := 0, next := 8192 }, { asid := 0, level := 3, prefixVa := 0, next := 12288 },
    { asid := 0, level := 2, prefixVa := 2, next := 16384 }] }

def gatherOp : NgatherF := { a := 1, b := 2, count := 1, pat := 2, acq := false, rel := false, scope := .core, ty := .n64 }

noncomputable def gatherCtx : Ctx := (holding.entry (.ngather gatherOp) .frm (some 1) (some 2) none none).ctx 5

noncomputable def gathering : State := Spec.ordered (holding.dispatched (.ngather gatherOp) .frm (some 1) (some 2) none none) false false .core

theorem test_meets_gathers : Accepting holding ∧ Answers (do
      return (← crustPages gatherCtx .write (64 * 1 / 4096 + 2) 0x80200000 (0x80200000 + 64 * 1), ← place gatherCtx .read 0x80400000))
      gathering ([(0x80200000, .page ccPage)], .page sourcePage) gathering ∧
    (gathering.crust (stackOf (sourcePage.phys 0x80400000))).patterns.getD 2 0 = 0x3000100000008 ∧ run8.run ≠ 0 ∧ run8.stride % run8.size = 0 ∧
    run8.span 8 = 64 ∧ (holding.me.x 1, holding.me.x 2) = (0x80200000, 0x80400000) :=
  ⟨accepting_of (by decide +kernel), answers_same (by decide +kernel) (by decide +kernel), by decide +kernel⟩

theorem test_meets_gathers_checked : let dop := target64 0x80200000 true
    let sop : CrustOp := { va := 0x80400000, n := 64, target := false, align := 1 }
    Answers (sop.pagesFrom gatherCtx (.page sourcePage)) gathering [(0x80400000, .page sourcePage)] gathering ∧
    Answers (crustVerify [(dop, [(0x80200000, .page ccPage)]), (sop, [(0x80400000, .page sourcePage)])] none (fun _ => none) []) gathering
      [0x8000000000000, 0x8000000200000] gathering ∧ Spec.Stands holding gathering :=
  ⟨answers_same (by decide +kernel) (by decide +kernel), answers_same (by decide +kernel) (by decide +kernel), stands_of (by decide +kernel)⟩

/-- NSTAT: selectors of each kind, in task mode and in supervisor mode. -/
theorem test_meets_nstat : Accepting crusty ∧ crusty.me.sstat.mode = false ∧ (0 : Nat) < crusty.crusts.length ∧
    Accepting (crusty.updMe fun k => { k with sstat := { k.sstat with mode := true } }) :=
  ⟨accepting_of (by decide +kernel), by decide +kernel, by decide +kernel, accepting_of (by decide +kernel)⟩

/-- MLDT into slot 1: one row of FP32 columns through pattern 3, whose elements of 4 bytes lie 64 bytes apart. -/
noncomputable def transposing : State :=
  { engine with mem := deviceTables, carveC := 2 ^ 32, sbase := 2 ^ 26 }.updMe (fun k => (k.setX 9 0x80200000).setX 3 0x1000100000003) |>.updCrust 0 fun c =>
    { c with patterns := c.patterns.set! 3 0x2000100000040 }

def slotRow1 : SlotMF := { a := 9, b := 3, slot := 1, ty := .fp32 }

noncomputable def transposeCtx : Ctx := (transposing.entry (.mldt slotRow1) .frm (some 9) (some 3) none none).ctx 5

noncomputable def transposed : State :=
  ended (place transposeCtx .read 0x80200000) (transposing.dispatched (.mldt slotRow1) .frm (some 9) (some 3) none none)

theorem test_meets_transposes : Accepting transposing ∧ Spec.Fills transposing 1 (transposing.me.x 3) 1 ∧ ((transposing.me.x 3).extractLsb' 48 8).toNat = 1 ∧
    (transposing.me.x 3).extractLsb' 32 2 = 1 ∧ ((transposing.me.x 3).extractLsb' 0 4).toNat = 3 ∧
    Answers (place transposeCtx .read 0x80200000) (transposing.dispatched (.mldt slotRow1) .frm (some 9) (some 3) none none) (.page ccPage) transposed ∧
    (transposed.crust (stackOf (ccPage.phys 0x80200000))).patterns.getD 3 0 = 0x2000100000040 ∧
    (let o : CrustOp := { va := 0x80200000, n := 63 * 64 + 1 * 4, target := false, align := 4 };
      Answers (o.pagesFrom transposeCtx (.page ccPage)) transposed [(0x80200000, .page ccPage)] transposed ∧
      Answers (crustVerify [(o, [(0x80200000, .page ccPage)])] none (fun _ => none) []) transposed [0x8000000000000] transposed) ∧
    Spec.Stands transposing transposed ∧ transposed.mxes = transposing.mxes ∧ Spec.Plain transposed 0x8000000000000 (63 * 64 + 1 * 4) :=
  ⟨accepting_of (by decide +kernel), ⟨by decide +kernel, by decide +kernel, by decide⟩, by decide +kernel, by decide +kernel, by decide +kernel,
    answers_eq (by decide +kernel), by decide +kernel, ⟨answers_same (by decide +kernel) (by decide +kernel), answers_same (by decide +kernel) (by decide +kernel)⟩,
    stands_of (by decide +kernel), by decide +kernel, plain_of (by decide +kernel)⟩

/-! ### Host queues, events and outside agents -/

/-- The head of queue 3. -/
def served3 (s : State) : QueueHead := { queue := 3, cls := 0, ctx := 0, rec_ := s.startRec 0x8000000 }

/-- The record of `serving` with MIN 0, which is rejected; in a cancelled graph; and with all cores in other shares. -/
def rejecting : State := puts [(0x8000028, 0x1400200)] serving

def cancelling : State := puts [(0x8000038, 7), (0x4000000 + 64 * 65543 + 16, 1)] serving

def crowded : State := { serving with shares := (List.range 4).map fun d =>
  { launch := 20 + d, die := d, cores := (List.range 40).map fun c => 40 * d + c, ceil := 64, cls := 3, levels := 0, stream := 0, ptroot := 0, asid := 0 } }

theorem test_meets_queues : State.reset.serving = false ∧ serving.serving = true ∧ serving.queueHeads = [served3 serving] ∧
    serving.servable (served3 serving).rec_ = true ∧ serving.rejects (served3 serving) = false ∧ serving.cancels (served3 serving).rec_ = false ∧
    serving.chooseDie (served3 serving).rec_ = some 0 := by decide +kernel

theorem test_meets_rejects : rejecting.queueHeads = [served3 rejecting] ∧ rejecting.servable (served3 rejecting).rec_ = true ∧
    rejecting.rejects (served3 rejecting) = true ∧
    ∃ r t, Answers (deviceUpdate (((rejecting.noteQueue 3).served (served3 rejecting)).lostCtx (served3 rejecting)) (served3 rejecting).rec_.cwa
      fun w => Nat.lor (w % 2 ^ 32) 3 + 0xFFFFFFFF * 2 ^ 32) ((rejecting.noteQueue 3).served (served3 rejecting)) r t :=
  ⟨by decide +kernel, by decide +kernel, by decide +kernel, _, _, answers_get (by decide +kernel)⟩

theorem test_meets_cancels : cancelling.queueHeads = [served3 cancelling] ∧ cancelling.rejects (served3 cancelling) = false ∧
    cancelling.cancels (served3 cancelling).rec_ = true ∧
    ∃ t, Ends (cancelHead (served3 cancelling)) ((cancelling.noteQueue 3).served (served3 cancelling)) t :=
  ⟨by decide +kernel, by decide +kernel, by decide +kernel, _, ends_unit (by decide +kernel)⟩

theorem test_meets_crowds : crowded.queueHeads = [served3 crowded] ∧ crowded.rejects (served3 crowded) = false ∧
    crowded.cancels (served3 crowded).rec_ = false ∧ crowded.chooseDie (served3 crowded).rec_ = none := by decide +kernel

theorem area_good {s : State} (m : Memory.wf s.mem = true) (d : s.dies.length = 4) (p : s.sbase % 2 ^ 26 = 0 ∧ s.sbase + 2 ^ 26 ≤ 0xA000000000000)
    (h : s.badLines = [] ∧ s.sealTags = [] ∧ s.vague = []) : Spec.AreaGood s :=
  ⟨m, d, p, fun l _ _ => Calm.plain h l⟩

/-- Aging: a head noted at time 0, and one not noted. -/
theorem test_meets_aging : Spec.AreaGood serving ∧ serving.queueHead 3 = some (served3 serving) ∧ serving.queueNotes = [] ∧
    (after (.queueAging 3) serving).queueNotes.map QueueNote.queue = [3] ∧ (served3 serving).rec_.stream = 0 ∧ serving.cores.length = 160 ∧
    (serving.die 0).injected 0 < 61440 :=
  ⟨area_good (by decide +kernel) (by decide +kernel) (by decide +kernel) (by decide +kernel), by decide +kernel, by decide +kernel,
    by decide +kernel, by decide +kernel, by decide +kernel, by decide +kernel⟩

/-- A resident stream entry 1 of die 0, of 64 bytes, whose copy is at 9000000H. -/
def streaming : State := puts [(0x6C00020, 0xC000000100000000), (0x6C00028, 0x9000000)] serving

theorem test_meets_evictions : Spec.AreaGood streaming ∧ bit (streaming.num (streaming.streamAddr 0 1) 8) 63 = true ∧
    bit (streaming.num (streaming.streamAddr 0 1) 8) 62 = true ∧ streaming.streamBusy 0 1 = false ∧
    1000 * (streaming.num (streaming.streamAddr 0 1 + 16) 8 % 2 ^ 32) ≤ streaming.dtime - streaming.num (streaming.streamAddr 0 1 + 24) 8 ∧
    streaming.streamPlace 0 1 = (chipPadLoc 0 0, 64, 0x9000000) ∧ Spec.Apart 0x9000000 64 streaming.sbase (2 ^ 26) ∧
    bit (serving.num (serving.streamAddr 0 1) 8) 63 = false :=
  ⟨area_good (by decide +kernel) (by decide +kernel) (by decide +kernel) (by decide +kernel), by decide +kernel, by decide +kernel,
    by decide +kernel, by decide +kernel, by decide +kernel, by unfold Spec.Apart; decide +kernel, by decide +kernel⟩

/-- A core with a message pending, and a supervisor that takes none. -/
def messaged : State := paged [] fun k => { k with mgmt := true }

/-- A WFI that waits in supervisor mode with IE set while a message is pending, and a core whose drain goes on. -/
def woken : State := (super [] true true).updMe fun k =>
  { k with mgmt := true, sstat := { k.sstat with ie := true }, line := some { va := 64, asid := 0, bits := ((encode .wfi).map fun r => lineOf r.head.toNat r.tail.toNat).getD 0 } }

def drains : State := messaged.updMe fun k => { k with draining := some ({ intr := true, code := 1, eva := 0, eaux := 0, ekv := none }, 0x41) }

theorem test_meets_wakes : (woken.me.ready = true ∧ woken.me.draining = none ∧ woken.me.lateFault = none ∧ woken.me.interrupt.isSome = true ∧
      woken.me.sstat.mode = true ∧ woken.me.sstat.ie = true ∧ woken.me.atWfi = true ∧ wellFormedIa woken.me.nextIa = true) ∧
    (∃ t, Ends (trapEntry (some { intr := true, code := 1, eva := 0, eaux := 0, ekv := none }) woken.me.nextIa) woken.goesOn t ∧ t.cur = woken.cur) ∧
    drains.me.ready = true ∧
    ∃ t, Ends (trapEntry (some { intr := true, code := 1, eva := 0, eaux := 0, ekv := none }) 0x41) drains t ∧ t.cur = drains.cur :=
  ⟨by decide +kernel, ⟨_, ends_unit (by decide +kernel), by decide +kernel⟩, by decide +kernel, _, ends_unit (by decide +kernel), by decide +kernel⟩

theorem test_meets_interrupts : messaged.me.ready = true ∧ messaged.me.draining = none ∧ messaged.me.lateFault = none ∧ messaged.me.interrupt.isSome = true ∧ messaged.me.sstat.mode = false ∧
    (∃ t, Ends (trapEntry (some { intr := true, code := 1, eva := 0, eaux := 0, ekv := none }) messaged.me.ia) messaged t ∧ t.cur = messaged.cur) ∧
    (super [] true true).me.ready = true ∧ (super [] true true).me.lateFault = none ∧ (super [] true true).me.sstat.ie = false :=
  ⟨by decide +kernel, by decide +kernel, by decide +kernel, by decide +kernel, by decide +kernel, ⟨_, ends_unit (by decide +kernel), by decide +kernel⟩, by decide +kernel,
    by decide +kernel, by decide +kernel⟩

/-- Requests to a core that runs and to one that is idle; a task over its budget, and one that is not. -/
def late : State := (area []).updMe fun k => { k with deadline := some 0 }

theorem test_meets_requests : ((paged [] id).core 5).act ≠ .idle ∧ (idleCore.core 5).act = .idle ∧ idleCore.dies.length = 4 ∧
    ((after (.preEmptionRequest 5 true) (paged [] id)).core 5).preempt = some true ∧ (messaged.core 5).preempt = none ∧ (messaged.core 5).mgmt = true ∧
    late.overrun late.me = true ∧ late.me.failing = none ∧ (area []).overrun (area []).me = false := by decide +kernel

theorem test_meets_overruns : ∃ t, Ends (failTask 26) late t ∧ t.cur = late.cur := ⟨_, ends_unit (by decide +kernel), by decide +kernel⟩

/-- The line of LD x3, 0(x1), and a core that stands at it. -/
def ldLine : Line := ((encode (.ld { d := 3, a := 1, off := 0 })).map fun r => lineOf r.head.toNat r.tail.toNat).getD 0

def atLoad (va : Nat) (guests : List Guest) : State :=
  (paged [(1, va), (2, 5)] fun k => { k with line := some { va := 64, asid := 0, bits := ldLine } }).updDie 0 fun d => { d with guests := guests }

/-- What `Spec.AtInstr` asks for. -/
def standsAt (s : State) (l : Line) : Bool :=
  decide (s.cur < s.cores.length) && decide (s.me.act ≠ .idle) && decide (s.me.failing = none) && decide (s.me.pendingPush = none) &&
  decide (s.me.draining = none) &&
  decide (s.overrun s.me = false) && decide (s.me.queue = []) && decide (s.me.lateFault = none) && decide (s.me.interrupt = none) &&
  decide (s.me.line.map LineBuf.bits = some l) && wellFormedIa s.me.ia && decide (iaSlot s.me.ia ≤ lineNh l)

theorem at_instr {s : State} {l : Line} (h : standsAt s l = true) : Spec.AtInstr s l := by
  simp only [standsAt, Bool.and_eq_true, decide_eq_true_eq] at h
  obtain ⟨⟨⟨⟨⟨⟨⟨⟨⟨⟨⟨core, act⟩, failing⟩, push⟩, draining⟩, budget⟩, queue⟩, late⟩, interrupt⟩, line⟩, ia⟩, slot⟩ := h
  obtain ⟨q, hq, hl⟩ := Option.map_eq_some_iff.1 line
  exact ⟨core, act, failing, push, draining, budget, queue, late, interrupt, ⟨q, hq, hl⟩, ia, slot⟩

theorem test_meets_loads_next : Spec.AtInstr (atLoad 0x40000000 []) ldLine ∧
    (∃ f, loadForm (Raw.ofWords (lineHead ldLine (iaSlot (atLoad 0x40000000 []).me.ia)) (lineTail ldLine (iaSlot (atLoad 0x40000000 []).me.ia))) = some f) ∧
    (∃ tg t, Answers (readPlace ((atLoad 0x40000000 []).me.ctx 5) 0x40000000) (atLoad 0x40000000 []) tg t ∧ t.atDie 5 tg.loc tg.held = true) ∧
    ∃ tg t, Answers (readPlace ((atLoad padVa []).me.ctx 5) padVa) (atLoad padVa []) tg t ∧ t.atDie 5 tg.loc tg.held = false :=
  ⟨at_instr (by decide +kernel), Option.isSome_iff_exists.1 (by decide +kernel), ⟨_, _, answers_get (by decide +kernel), by decide +kernel⟩, _, _,
    answers_get (by decide +kernel), by decide +kernel⟩

/-- The load runs on the core at which it stands. -/
theorem test_meets_load_runs : ((atLoad 0x40000000 []).after (runInstr [3, 1] (do loadOp 8 false { d := 3, a := 1, off := 0 }; return .next))).cur = 5 := by decide +kernel

/-- A write to another device sent at time 0, one sent just now, and an address of another device. -/
theorem test_meets_fabric : (({ paged [] id with fabric := [{ core := 5, task := 0, loc := 0xA000000000000, write := true, sent := 0 }], dtime := 1000000 } : State).fabric[0]?.map
      fun f => (f.write, decide (1000000 ≤ 1000000 - f.sent))) = some (true, true) ∧
    isFabric 0xA000000000000 = true ∧ (paged [] id).fabric[0]? = none ∧
    ((List.range 160).all fun c => decide (((paged [] id).core c).act = .running ∧ ((paged [] id).core c).taskNo = 0) == decide (c = 5)) = true := by
  decide +kernel

/-- Accesses of the host to the interleaved window, and a barrier line. -/
theorem test_meets_bus : (paged [] id).stage = .running ∧ Memory.wf (paged [] id).mem = true ∧ (paged [] id).dies.length = 4 ∧
    0x1000 + 8 ≤ 8 * (paged [] id).interI ∧ (paged [] id).badLines.contains (0x1000 / 64) = false ∧ (paged [] id).sealOf (0x1000 / 64) = none ∧
    (paged [] id).vagueSeed (0x1000 / 64) = none ∧ (isRemote 0xC000000000000 = true ∧ isFabric 0xC000000000000 = false) ∧
    (paged [] id).barrierOn (0x1000 / 64) = none ∧
    (((paged [] id).updDie 0 fun d => { d with bars := [{ oneBarrier with line := 0x1000 / 64 }] }).barrierOn (0x1000 / 64)).isSome = true ∧
    ({ paged [] id with stage := .awaitConfig } : State).stage = .awaitConfig ∧ ({ paged [] id with stage := .off } : State).stage = .off ∧
    ((List.range 8).all fun j => (paged [] id).statusByte (0x2E00020 + j) && !(paged [] id).statusByte (0x1000 + j)) = true := by decide +kernel

/-- A group of this device alone, and one whose time is out of range. -/
def alone : CollGroup := { id := 7, members := [0], rank := 0, timeoutUs := 10 }

theorem test_meets_groups : alone.id < 4096 ∧ alone.members.length ≤ 524288 ∧ 1 ≤ alone.timeoutUs ∧ alone.timeoutUs ≤ 10 ^ 6 ∧ ({ alone with timeoutUs := 0 } : CollGroup).timeoutUs = 0 ∧
    alone.members[0]? = some (plain []).devNo := by decide +kernel

/-- A round of that group whose XRED waits at the head of channel 1 of core 5. -/
def reduce : XredF := { d := 4, a := 8, b := 9, ch := 1, acq := false, rel := false, scope := .core, op := .sum, bar := 0, ty := .i32 }

def reducing (dtime : Nat) : State :=
  let s := memory 1 16 [(8, 0x01F0000000000040), (9, 0x01F0000000000000), (4, 7)] id
  { s with dtime := dtime, groups := [alone], rounds := [{ group := 7, round := 0, start := 0, local_ := some (5, 1), parts := [(0, [List.replicate 64 0])] }] }.updMe fun k =>
    { k with chans := k.chans.set! 1 { copies := [{ s.entry (.xred reduce) .frm (some 8) (some 9) none (some 4) with prog := { row := 0, col := 0, block := 1 } }], stopped := none, row := [] } }

def round0 : Round := { group := 7, round := 0, start := 0, local_ := some (5, 1), parts := [(0, [List.replicate 64 0])] }

def reduceEntry : VEntry := { (memory 1 16 [(8, 0x01F0000000000040), (9, 0x01F0000000000000), (4, 7)] id).entry (.xred reduce) .frm (some 8) (some 9) none (some 4) with
  prog := { row := 0, col := 0, block := 1 } }

theorem test_meets_rounds : (reducing 0).rounds = [round0] ∧ (reducing 0).xredHead round0 = some (5, 1, reduce, reduceEntry) ∧
    (reducing 0).groups.find? (fun g => g.id == 7) = some alone ∧
    ∃ t, Ends (xredDeliver round0 1 (reducing 0).freeCtr 1 reduce reduceEntry) { reducing 0 with freeCtr := (reducing 0).freeCtr + 1, cur := 5 } t ∧ t.cur = 5 ∧
      ∃ u, Ends (setCopyProg 1 0 2) t u ∧ u.cur = 5 :=
  ⟨by decide +kernel, by decide +kernel, by decide +kernel, _, ends_unit (by decide +kernel), by decide +kernel, _, ends_unit (by decide +kernel), by decide +kernel⟩

/-- The XRED before its first move: 16 words from the pad address 0 to 40H; and the shapes and addresses that stop it. -/
def contributing (dtime : Nat) : State := { reducing dtime with rounds := [] }.updMe fun k =>
  { k with chans := k.chans.set! 1 { copies := [{ reduceEntry with prog := { row := 0, col := 0, block := 0 } }], stopped := none, row := [] } }

theorem test_meets_contributions : let s := contributing 0
    let e := { reduceEntry with prog := { row := 0, col := 0, block := 0 } }
    s.cores.length = 160 ∧ s.dies.length = 4 ∧ (s.core 5).sb = [] ∧ (s.core 5).chan 1 = { copies := [e], stopped := none, row := [] } ∧
    reduce.bar = 0 ∧ reduce.ty ∈ [Ty.i32, .fp32, .bf16] ∧ (s.core 5).olderAcquire 1 e.seq = false ∧ reduce.acq = false ∧ e.nr = 1 ∧ e.nc = 16 ∧
    e.nc ≤ reduce.ty.capacity ∧ e.nr * (e.nc * reduce.ty.width / 8) = 64 ∧ e.opa.toNat % 64 = 0 ∧ e.opb.toNat % 64 = 0 ∧
    (s.groups.find? fun g => g.id == (e.opd.extractLsb' 0 16).toNat) = some alone ∧ alone.rank < alone.members.length ∧ s.doneRounds = [] ∧ s.rounds = [] ∧
    (∀ g ∈ s.groups, g.id ≠ 8) ∧ Ty.capacity .i32 < 65 ∧ 65536 < 300 * 256 ∧
    Spec.RowIn s 5 (0x01F0000000000000 + 0) (corePadLoc 5 0) 64 ∧ Spec.RowIn s 5 (0x01F0000000000000 + 0x40) (corePadLoc 5 0x40) 64 :=
  ⟨by decide +kernel, by decide +kernel, by decide +kernel, by decide +kernel, by decide +kernel, by decide +kernel, by decide +kernel, by decide +kernel,
    by decide +kernel, by decide +kernel, by decide +kernel, by decide +kernel, by decide +kernel, by decide +kernel, by decide +kernel, by decide +kernel,
    by decide +kernel, by decide +kernel, by decide +kernel, by decide +kernel, by decide +kernel, pad_row _ _ _ (by decide) (by decide +kernel),
    pad_row _ _ _ (by decide) (by decide +kernel)⟩

theorem test_meets_late_rounds : 10 * 1000 ≤ (reducing 10000).dtime - round0.start ∧ (reducing 0).dtime - round0.start < 10 * 1000 ∧
    (reducing 10000).xredHead round0 = some (5, 1, reduce, reduceEntry) ∧ (plain []).rounds[0]? = none ∧
    ({ plain [] with rounds := [round0] }).xredHead round0 = none := by decide +kernel

/-- Elements to reduce, an address in memory, and one that is not backed. -/
theorem test_meets_reductions : Ty.i32 ∈ [Ty.i32, .fp32, .bf16] ∧ ([[1, 0, 0, 0]] : List (List Byte)) ≠ [] ∧ isRemote 0x1000 = false ∧ (plain []).backed 0x1000 = true ∧
    stackOf 0x1000 < (plain []).crusts.length ∧ isRemote 0xA000000000000 = true ∧ (plain []).stage ≠ .off ∧ (after .powerOff (plain [])).stage = .off := by decide +kernel

/-- Device life: what each event asks for. -/
theorem test_meets_life : (plain []).stage = .running ∧ State.reset.stage = .awaitConfig ∧ ({ plain [] with locked := true, dtime := 10 ^ 9 } : State).locked = true ∧
    (2 ^ 31 + 2 ^ 31 * ((15 * (0 / 2 ^ 30) + 111) / 112) ≤ 2 ^ 36) ∧
    ({ State.reset with carveC := 2 ^ 31, sbase := 2 ^ 31, stage := .running } : State).backedRange (2 ^ 31) (2 ^ 26) = true ∧ isRemote (2 ^ 31) = false ∧
    ({ State.reset with stage := .recovery } : State).stage = .recovery ∧ State.reset.life = .deployed ∧ (plain []).keys = [] := by decide +kernel

/-- The life-cycle moves. -/
theorem test_meets_moves : ∀ q ∈ [(LifeCycle.blank, LifeCycle.provisioned), (.provisioned, .deployed), (.deployed, .returned)],
    ({ plain [] with life := q.1 } : State).life = q.1 ∧ ({ plain [] with life := q.1 } : State).stage ≠ .off := by decide +kernel

/-! ### Encodings and steps -/

theorem test_meets_round_trip : (Instr.ld { d := 3, a := 1, off := 0 }).wf = true ∧ (encode (.ld { d := 3, a := 1, off := 0 })).isSome = true := by decide +kernel

/-- A core that stands at its instruction, one that has to enter its line, an idle one, and an event of the tape. -/
def entering : State := (paged [] fun k => { k with ia := 0x81, line := none })

theorem test_meets_steps : ({ (atLoad 0x40000000 []).tick with tape := [] } : State).cur = 5 ∧ (atLoad 0x40000000 []).move = .scalar 5 ∧
    Spec.AtInstr { (atLoad 0x40000000 []).tick with tape := [], cur := 5 } ldLine ∧
    (decodeSlot ldLine (iaSlot (atLoad 0x40000000 []).me.ia)).toOption = some (.ld { d := 3, a := 1, off := 0 }) ∧
    (plain []).move = .scalar 5 ∧ (plain []).tape = [] ∧ ({ plain [] with tape := [.event .nop] } : State).move = .event .nop ∧
    ({ plain [] with tape := [.writeBack 1] } : State).move = .writeBack 1 ∧ ({ plain [] with tape := [.badCounter 1] } : State).move = .badCounter 1 :=
  ⟨by decide +kernel, by decide +kernel, at_instr (by decide +kernel), by decide +kernel, by decide +kernel, by decide +kernel, by decide +kernel, by decide +kernel⟩

theorem test_meets_entered_lines : entering.move = .scalar 5 ∧ ({ entering.tick with tape := [], cur := 5 } : State).me.line = none ∧
    (∃ u, Answers (enterLine false 0x81) { entering.tick with tape := [], cur := 5 } nopLine u ∧
      Spec.AtInstr (u.updMe fun k => k.goAt k.ia (some nopLine)) nopLine ∧ u.me.ia = 0x81) ∧
    (decodeSlot nopLine 1).toOption = some .nop ∧ ({ State.reset with stage := .running } : State).move = .scalar 0 ∧ (State.reset.core 0).act = .idle :=
  ⟨by decide +kernel, by decide +kernel, ⟨_, answers_eq (by decide +kernel), at_instr (by decide +kernel), by decide +kernel⟩, by decide +kernel, by decide +kernel,
    by decide +kernel⟩

/-- The device after reset is shaped, and steps. -/
theorem test_meets_shape : Spec.Shaped State.reset ∧ (out (step (plain [])) fun t => t.cores.length) = some 160 := by
  refine ⟨⟨?_, by decide +kernel, ?_, ?_, ?_⟩, by decide +kernel⟩
  · constructor <;> decide +kernel
  · unfold Spec.Rising; decide +kernel
  · unfold Spec.RisingBytes; decide +kernel
  · unfold Spec.Rising; decide +kernel

/-- Supervisor instructions in task mode, and writes of registers and of CSRs. -/
theorem test_meets_privilege : (paged [] id).me.sstat.mode = false ∧ (paged [] id).me.queue = [] ∧ (paged [] id).cur < (paged [] id).cores.length ∧
    wellFormedIa (paged [] id).me.nextIa = true ∧ (super [] true true).me.sstat.mode = true := by decide +kernel

/-- A load of two rows of four I8 elements at the head of the queue of core 5, whose first row is the next to run. -/
def twoRowLoad : VEntry := (memory 2 4 [] id).entry (.load .unit 0 (vunit 3 1 0 .i8)) .frm (some 1) none none none

def rowMoving : State := { (memory 2 4 [] id).updMe fun k => { k with queue := [twoRowLoad] } with tape := [.rows 5 1] }

theorem test_meets_row_moves : rowMoving.move = .rows 5 1 ∧ ({ rowMoving.tick with tape := [], cur := 5 } : State).me.queue = [twoRowLoad] ∧
    twoRowLoad.op.rowMask = some 0 ∧ twoRowLoad.fault = none ∧ ({ twoRowLoad with nr := twoRowLoad.prog.row + 1 } : VEntry).nr < twoRowLoad.nr ∧
    anyActive ({ rowMoving.tick with tape := [], cur := 5 } : State).me { twoRowLoad with nr := 1 } 0 = true ∧
    (∃ t, Ends (do entryGate { twoRowLoad with nr := twoRowLoad.prog.row + 1 }; vexec { twoRowLoad with nr := twoRowLoad.prog.row + 1 }) { rowMoving.tick with tape := [], cur := 5 } t ∧ t.cur = 5) ∧
    ({ plain [] with tape := [.rows 5 1] } : State).move = .rows 5 1 ∧ (plain []).me.queue = [] ∧ (plain []).cur = 5 :=
  ⟨by decide +kernel, by decide +kernel, by decide +kernel, by decide +kernel, by decide +kernel, by decide +kernel,
    ⟨_, ends_unit (by decide +kernel), by decide +kernel⟩, by decide +kernel, by decide +kernel, by decide +kernel⟩

/-- R209, R308: the first row of the load stands in v3, the second does not yet, and the entry goes on at row 1. -/
theorem test_row_moves :
    out (step rowMoving) (fun t => ((List.range 4).map fun c => (t.me.row t.me.wide 3 0).elem .i8 c)) = some [0x80, 0xFF, 0x34, 0x12] ∧
    out (step rowMoving) (fun t => (t.me.row t.me.wide 3 1).elem .i8 0) = some 0 ∧
    out (step rowMoving) (fun t => (t.me.queue.map fun e => e.prog.row)) = some [1] ∧
    (out (step rowMoving) fun t => out (event (vectorMove 5) t) fun u => ((u.me.row u.me.wide 3 1).elem .i8 0, u.me.queue.length)) =
      some (some (0xEF, 0)) := by decide +kernel

/-- The head of that queue runs whole. -/
theorem test_meets_vector_moves : ({ rowMoving with tape := [.vector 5] } : State).move = .vector 5 ∧
    ∃ b t, Answers stepHead { ({ rowMoving with tape := [.vector 5] } : State).tick with tape := [], cur := 5 } b t ∧ t.cur = 5 :=
  ⟨by decide +kernel, _, _, answers_get (by decide +kernel), by decide +kernel⟩

/-- The same load behind a reciprocal of another register, which has not begun. -/
def behind : State :=
  let s := memory 2 4 [] id
  { s.updMe fun k => { k with queue := [s.entry (.fp .rcp false { d := 9, a := 8, b := 0, k := 0, ty := .fp32, rm := .frm, sat := false }) .frm none none none none,
      twoRowLoad] } with tape := [.ahead 5 1 1] }

theorem test_meets_ahead_moves : behind.move = .ahead 5 1 1 ∧ ({ behind.tick with tape := [], cur := 5 } : State).me.queue[1]? = some twoRowLoad ∧
    ({ behind.tick with tape := [], cur := 5 } : State).chainLimit 5 1 = some 2 ∧ twoRowLoad.op.reads = true ∧ twoRowLoad.fault = none ∧
    twoRowLoad.prog.row < 1 ∧ ∃ t, Ends (advance 1 1) { behind.tick with tape := [], cur := 5 } t ∧ t.cur = 5 :=
  ⟨by decide +kernel, by decide +kernel, by decide +kernel, by decide +kernel, by decide +kernel, by decide +kernel, _, ends_unit (by decide +kernel),
    by decide +kernel⟩

/-- Two blocks of a product of `engine`. -/
noncomputable def multiplying : State :=
  { engine.updMe fun k => { k with queue := [engine.entry (.mma .acc { tile := false, slotA := 1, slotB := 2 }) .frm none none none none] } with tape := [.rows 5 2] }

theorem test_meets_block_moves : multiplying.move = .rows 5 2 ∧
    ∃ t, Ends (mmaBlocks .acc { tile := false, slotA := 1, slotB := 2 } (engine.entry (.mma .acc { tile := false, slotA := 1, slotB := 2 }) .frm none none none none) 2)
      { multiplying.tick with tape := [], cur := 5 } t ∧ t.cur = 5 :=
  ⟨by decide +kernel, _, ends_unit (by decide +kernel), by decide +kernel⟩

/-- A core that stands at a GCOMMIT, or at a GDISCARD, of the overlay page. -/
def settles (i : Instr) : Line := ((encode i).map fun r => lineOf r.head.toNat r.tail.toNat).getD 0

def committing (i : Instr) : State :=
  { specced.updMe fun k => { k with line := some { va := 64, asid := 0, bits := settles i } } with tape := [.page 5] }

theorem test_meets_page_moves : (committing (.gcommit { d := 7, a := 1, b := 6 })).move = .page 5 ∧
    Spec.AtInstr { (committing (.gcommit { d := 7, a := 1, b := 6 })).tick with tape := [], cur := 5 } (settles (.gcommit { d := 7, a := 1, b := 6 })) ∧
    (decodeSlot (settles (.gcommit { d := 7, a := 1, b := 6 })) 1).toOption = some (.gcommit { d := 7, a := 1, b := 6 }) ∧
    Ready { (committing (.gcommit { d := 7, a := 1, b := 6 })).tick with tape := [], cur := 5 } [7, 1, 6] ∧
    Spec.Quiet { (committing (.gcommit { d := 7, a := 1, b := 6 })).tick with tape := [], cur := 5 } ∧
    ∃ r t, Answers (settleStep (specced.me.ctx 5) true 0x80001000 4096)
      (Spec.released { (committing (.gcommit { d := 7, a := 1, b := 6 })).tick with tape := [], cur := 5 } .device) r t ∧ t.cur = 5 :=
  ⟨by decide +kernel, at_instr (by decide +kernel), by decide +kernel, ready_of (by decide +kernel), quiet_of (by decide +kernel) (by decide +kernel), _, _,
    answers_get (by decide +kernel), by decide +kernel⟩

theorem test_meets_discarded_pages : Spec.AtInstr { (committing (.gdiscard { d := 7, a := 1, b := 6 })).tick with tape := [], cur := 5 }
      (settles (.gdiscard { d := 7, a := 1, b := 6 })) ∧
    (decodeSlot (settles (.gdiscard { d := 7, a := 1, b := 6 })) 1).toOption = some (.gdiscard { d := 7, a := 1, b := 6 }) ∧
    ∃ r t, Answers (settleStep (specced.me.ctx 5) false 0x80001000 4096)
      (Spec.released { (committing (.gdiscard { d := 7, a := 1, b := 6 })).tick with tape := [], cur := 5 } .device) r t ∧ t.cur = 5 :=
  ⟨at_instr (by decide +kernel), by decide +kernel, _, _, answers_get (by decide +kernel), by decide +kernel⟩

/-- R123: the last page of a range ends the GCOMMIT with the count; after another page it stands at it still. -/
theorem test_page_moves :
    out (step (committing (.gcommit { d := 7, a := 1, b := 6 }))) (fun t => (t.me.ia, t.me.settling, t.me.x 7)) = some (0x81, none, 0) ∧
    out (step ((committing (.gcommit { d := 7, a := 1, b := 6 })).updMe fun k => { k with task := k.task.set 6 8192 }))
      (fun t => (t.me.ia, t.me.settling)) = some (0x41, some (0x80002000, 0)) := by decide +kernel

/-- A gather whose destination is its index register. -/
theorem test_meets_index_rows : Spec.IndexStays .gather 2 (vunit 2 1 0 .i8) := fun _ _ => ⟨by decide, by decide⟩

/-! ### Time and copies that are taken back -/

/-- R388: 100 ppm of 20,000 ns are 2 ns, back where the host is behind, and DTIME keeps the rest of the slew. -/
theorem test_slew : ({ State.reset with dNs := 20000, dtime := 500, slew := -5 }.tick.dtime, { State.reset with dNs := 20000, dtime := 500, slew := -5 }.tick.slew) =
    (20498, -3) := by decide +kernel

end Sys2Proof.Tests
end

section
/-! Encoding (02_encoding.md): what a scalar instruction with no effect of its own leaves, and NOP (R25). -/
namespace Sys2Proof.Machine

open Sys2Proof

/-! ## Going on in sequence (R15) -/

/-- The executing core stands at the next instruction address. -/
theorem me_goesOn_ia {s : State} (hc : s.cur < s.cores.length) (h : wellFormedIa s.me.nextIa = true) :
    s.goesOn.me.ia = s.me.nextIa := by
  rw [State.goesOn, me_updMe _ _ hc, advance_fst h]

/-- Going on changes no part of the executing core but where it stands. -/
theorem me_goesOn_frame {s : State} (hc : s.cur < s.cores.length) (h : wellFormedIa s.me.nextIa = true) :
    { s.goesOn.me with ia := s.me.ia, line := s.me.line } = s.me := by
  rw [State.goesOn, me_updMe _ _ hc, advance_fst h]

/-- Going on changes no part of the device but the cores. -/
theorem goesOn_frame (s : State) : { s.goesOn with cores := s.cores } = s := rfl

/-- Going on changes no other core. -/
theorem core_goesOn_ne {s : State} {c : Nat} (h : c ≠ s.cur) : s.goesOn.core c = s.core c :=
  core_updCore_ne s s.cur c _ h.symm

/-! ## NOP -/

/-- A head of zeros has TL 00, so its fields are those of NOP whatever the tail (R13, R18). -/
theorem ofWords_zero (tail : BitVec 64) : Raw.ofWords 0x0000 tail = rawNop := rfl

/-- The head of zeros is NOP with any tail, since the fields of NOP decode to it. -/
theorem decodeWords_zero (tail : BitVec 64) : decodeWords 0x0000 tail = .ok .nop := by
  rw [decodeWords, ofWords_zero]
  exact Laws.Coding.nop rfl rawNop rfl

/-- NOP is a scalar instruction with an empty body, so all it does is go on in sequence. -/
theorem exec_nop {s : State} (h : Ready s []) : exec .nop s = .next s.goesOn :=
  scalar_completes h rfl h.cur h.next

/-- Settles O58: NOP leaves `State.goesOn`, whose frame is known part by part. -/
theorem nopHasNoEffect : Obligations.NopHasNoEffect := by
  refine ⟨decodeWords_zero, rfl, rfl, fun s h => ⟨s.goesOn, exec_nop h, ?_, goesOn_frame s, ?_, ?_⟩⟩
  · exact me_goesOn_ia h.cur h.next
  · exact me_goesOn_frame h.cur h.next
  · exact fun c hc => core_goesOn_ne hc

end Sys2Proof.Machine
end

section
/-! Formats (04_formats.md): FRM and the rounding mode it selects (R71). -/
namespace Sys2Proof.Machine

open Sys2Proof

/-! ## FRM as a register of the core -/

/-- The CSR reads the two bits of the core, and 0 in the reserved ones. -/
theorem csrValue_frm (s : State) : s.csrValue .frm = s.me.frm.setWidth 64 := rfl

/-- A write of FRM changes the two bits of the core and nothing else of it. -/
theorem setCsr_frm (k : Core) (v : Word) : k.setCsr .frm v = { k with frm := v.setWidth 2 } := rfl

/-- Keeping the two low bits of a word and filling up with zeros is masking with 3. -/
theorem setWidth_two_setWidth (v : Word) : (v.setWidth 2).setWidth 64 = v &&& 3 := by
  apply BitVec.eq_of_toNat_eq
  have hlt : v.toNat % 2 ^ 2 < 2 ^ 64 := by omega
  calc ((v.setWidth 2).setWidth 64).toNat
      _ = v.toNat % 2 ^ 2 := by rw [BitVec.toNat_setWidth, BitVec.toNat_setWidth, Nat.mod_eq_of_lt hlt]
      _ = v.toNat &&& 2 ^ 2 - 1 := (Nat.and_two_pow_sub_one_eq_mod v.toNat 2).symm
      _ = (v &&& 3).toNat := (BitVec.toNat_and v 3).symm

/-- The executing core after a write of FRM. -/
theorem me_updMe_setCsr_frm {s : State} (hc : s.cur < s.cores.length) (v : Word) :
    (s.updMe fun k => k.setCsr .frm v).me = { s.me with frm := v.setWidth 2 } := by
  rw [me_updMe _ _ hc, setCsr_frm]

/-- FRM reads back what was written, without the reserved bits. -/
theorem csrValue_frm_setCsr_frm {s : State} (hc : s.cur < s.cores.length) (v : Word) :
    (s.updMe fun k => k.setCsr .frm v).csrValue .frm = v &&& 3 := by
  rw [csrValue_frm, me_updMe_setCsr_frm hc, setWidth_two_setWidth]

/-- Every core is at its reset values after reset. -/
theorem eq_reset_of_mem_reset_cores {k : Core} (hk : k ∈ State.reset.cores) : k = Core.reset :=
  List.eq_of_mem_replicate hk

/-! ## The mode an RM field selects -/

/-- The modes of FRM by its value. -/
theorem frmMode_eq (f : BitVec 2) :
    frmMode f = if f = 0 then .rne else if f = 1 then .rtz else if f = 2 then .rdn else .rup := by
  decide +revert

/-- An RM field of 0 leaves the choice to FRM. -/
theorem modeOf_rmOf_zero (f : BitVec 2) : modeOf f (rmOf 0) = frmMode f := rfl

/-- An RM field of 1, 2 or 3 selects its own mode whatever FRM holds. -/
theorem modeOf_rmOf_own (f : BitVec 2) :
    modeOf f (rmOf 1) = .rne ∧ modeOf f (rmOf 2) = .rtz ∧ modeOf f (rmOf 3) = .rdn :=
  ⟨rfl, rfl, rfl⟩

/-- An entry stores the mode that its RM field selects at dispatch, so it does not look at FRM again. -/
theorem newEntry_rm (k : Core) (op : VecOp) (rm : Rm) (a b c d : Option Reg) :
    (k.newEntry op rm a b c d).rm = modeOf k.frm rm := rfl

/-- Settles O59: the register FRM, the modes it selects, and the copy that an entry takes, each by its own lemma. -/
theorem defaultRoundingMode : Obligations.DefaultRoundingMode := by
  refine ⟨fun s v hc => ⟨csrValue_frm_setCsr_frm hc v, ?_, ?_⟩, ?_, ?_, ?_⟩
  · rw [me_updMe_setCsr_frm hc]
  · intro i _
    rw [me_updMe_setCsr_frm hc, Core.chan, Core.chan]
  · intro k hk
    rw [eq_reset_of_mem_reset_cores hk, Core.reset]
  · exact fun f => ⟨(modeOf_rmOf_zero f).trans (frmMode_eq f), modeOf_rmOf_own f⟩
  · exact fun k op r => newEntry_rm k op (rmOf r)

end Sys2Proof.Machine
end

section
/-! Faults and pre-emption (18_faults.md): PADUSE, what a save keeps (R377). -/
namespace Sys2Proof.Machine

open Sys2Proof

/-! ## Writing a CSR (R241, R243) -/

/-- A write of a CSR leaves where the core stands. -/
@[simp] theorem setCsr_ia (k : Core) (c : Csr) (v : Word) : (k.setCsr c v).ia = k.ia := by
  unfold Core.setCsr; split <;> rfl

/-- A write of a CSR leaves the line that the core has entered. -/
@[simp] theorem setCsr_line (k : Core) (c : Csr) (v : Word) : (k.setCsr c v).line = k.line := by
  unfold Core.setCsr; split <;> rfl

/-- In supervisor mode the privilege check passes. -/
theorem run_supervisorOnly {s : State} (h : s.me.sstat.mode = true) : runM supervisorOnly s = (.ok (), s) := by
  simp [supervisorOnly, h]

/-- Reading a CSR that is not of side "vector" waits for nothing (R246). -/
theorem run_readCsr {c : Csr} (h : Csr.vectorSide c = false) (s : State) : runM (readCsr c) s = (.ok (s.csrValue c), s) := by
  simp [readCsr, h]

/-- A write that the mode allows changes the CSR, and x[D] receives the old value. PTROOT is not task-writable, so its own
check passes wherever the write is allowed. -/
theorem csrWrite_ends {f : Word → Word → Word} {x : CsrF} {s : State} (hv : Csr.vectorSide x.csr = false)
    (hw : (s.me.sstat.mode || Csr.taskWritable x.csr) = true) :
    Ends (csrWrite f x) s (s.updMe fun k => (k.setCsr x.csr (f (s.csrValue x.csr) (s.me.x x.a))).setX x.d (s.csrValue x.csr)) := by
  simp only [Ends, csrWrite, run_ite, run_bind, run_readX, run_readCsr hv, run_getMe, hw, if_true, run_modMe, run_writeX,
    updMe_updMe]
  split
  · next hc =>
    have hm : s.me.sstat.mode = true := by simpa [hc, Csr.taskWritable] using hw
    simp only [run_supervisorOnly hm, hw, if_true]
  · rfl

/-- CSRW of a CSR that is not of side "vector", where the mode allows the write: x[A] goes into the CSR, its old value into x[D]. -/
theorem exec_csrw {x : CsrF} {s : State} (h : Ready s [x.d, x.a]) (hv : Csr.vectorSide x.csr = false)
    (hw : (s.me.sstat.mode || Csr.taskWritable x.csr) = true) :
    exec (.csrw x) s = .next ((s.updMe fun k => k.setCsr x.csr (s.me.x x.a)).wrote x.d (s.csrValue x.csr)) := by
  rw [State.wrote, updMe_updMe]
  exact scalar_core h (csrWrite_ends hv hw) (by simp) (by simp)

/-! ## The fields of PADUSE (R377) -/

/-- The model's bit fields are those of the word. -/
theorem bits_toNat (v : Word) (hi lo : Nat) : bits v.toNat hi lo = (v.extractLsb' lo (hi + 1 - lo)).toNat := by
  rw [bits, BitVec.extractLsb'_toNat]

/-- PADUSE as it is stored: PAD from bit 0 and LANE from bit 32. -/
theorem paduseWord_toNat (v : Word) : (paduseWord v).toNat =
    min (v.extractLsb' 0 21).toNat 1048576 + min (v.extractLsb' 32 13).toNat 4096 * 2 ^ 32 := by
  rw [paduseWord, word, BitVec.toNat_ofNat, bits_toNat, bits_toNat]
  exact Nat.mod_eq_of_lt (by omega)

/-- Any bits of PADUSE as it is stored. -/
theorem paduseWord_extractLsb' (v : Word) (lo len : Nat) : ((paduseWord v).extractLsb' lo len).toNat =
    (min (v.extractLsb' 0 21).toNat 1048576 + min (v.extractLsb' 32 13).toNat 4096 * 2 ^ 32) / 2 ^ lo % 2 ^ len := by
  rw [BitVec.extractLsb'_toNat, paduseWord_toNat, Nat.shiftRight_eq_div_pow]

/-- PAD is stored at most at its maximum. -/
theorem paduseWord_pad (v : Word) : ((paduseWord v).extractLsb' 0 21).toNat = min (v.extractLsb' 0 21).toNat 1048576 := by
  rw [paduseWord_extractLsb']
  omega

/-- LANE is stored at most at its maximum. -/
theorem paduseWord_lane (v : Word) : ((paduseWord v).extractLsb' 32 13).toNat = min (v.extractLsb' 32 13).toNat 4096 := by
  rw [paduseWord_extractLsb']
  omega

/-- The reserved bits above PAD and above LANE are stored as 0: neither maximum reaches them. -/
theorem paduseWord_reserved (v : Word) :
    (paduseWord v).extractLsb' 21 11 = 0 ∧ (paduseWord v).extractLsb' 45 19 = 0 := by
  constructor
  · apply BitVec.eq_of_toNat_eq
    rw [paduseWord_extractLsb', BitVec.ofNat_eq_ofNat, BitVec.toNat_zero]
    omega
  · apply BitVec.eq_of_toNat_eq
    rw [paduseWord_extractLsb', BitVec.ofNat_eq_ofNat, BitVec.toNat_zero]
    omega

/-! ## PADUSE as a register of the core -/

/-- PADUSE reads as a write has stored it. -/
theorem csrValue_paduse_setCsr_paduse {s : State} (hc : s.cur < s.cores.length) (v : Word) :
    (s.updMe fun k => k.setCsr .paduse v).csrValue .paduse = paduseWord v := by
  rw [State.csrValue, me_updMe _ _ hc, Core.setCsr]

/-- A task starts with PADUSE 0. -/
theorem start_paduse (k : Core) (no seed cycle ceil : Nat) (levels : Word) (r : Rec) (strip : Option (Nat × Int × Nat)) :
    (k.start no seed cycle ceil levels r strip).paduse = 0 := rfl

/-- Settles O60: the start of a task, reset, and CSRW, whose stored word has each field by its own lemma. -/
theorem paduseStoresMaxima : Obligations.PaduseStoresMaxima := by
  refine ⟨start_paduse, ?_, ?_⟩
  · intro k hk
    rw [eq_reset_of_mem_reset_cores hk, Core.reset]
  · rintro s ⟨d, a, _⟩ h rfl
    simp only [csrValue_paduse_setCsr_paduse h.cur]
    exact ⟨exec_csrw h rfl (Bool.or_true _), paduseWord_pad _, paduseWord_lane _, paduseWord_reserved _⟩

end Sys2Proof.Machine
end

section
/-! The words of an instruction (02_encoding.md): fields that fit their tail read back (R18, R19). -/
namespace Sys2Proof
open Sys2Proof

/-- The fields of a tail that a head does not announce are zero (R18, R19). -/
def Raw.Fits (r : Raw) : Prop :=
  match r.tl with
  | .none => r.a = 0 ∧ r.b = 0 ∧ r.f = 0 ∧ r.imm = 0
  | .t2 => r.imm = 0
  | .t4 => r.imm.extractLsb' 16 32 = 0
  | .t8 => True

/-- The code of a tail is read back. -/
@[simp] theorem tailOf_code (t : Tail) : tailOf t.code = t := by cases t <;> rfl

/-- The fields of a head. -/
theorem Raw.head_fields (r : Raw) : r.head.extractLsb' 14 2 = r.tl.code ∧ r.head.extractLsb' 7 7 = r.op ∧
    r.head.extractLsb' 2 5 = r.d ∧ r.head.extractLsb' 0 2 = r.k :=
  ⟨(Laws.field_hi _ _ (by decide)).trans ((Laws.field_hi _ _ (by decide)).trans ((Laws.field_hi _ _ (by decide)).trans BitVec.extractLsb'_eq_self)),
   (Laws.field_hi _ _ (by decide)).trans ((Laws.field_hi _ _ (by decide)).trans ((Laws.field_lo _ _ (by decide)).trans BitVec.extractLsb'_eq_self)),
   (Laws.field_hi _ _ (by decide)).trans ((Laws.field_lo _ _ (by decide)).trans BitVec.extractLsb'_eq_self),
   (Laws.field_lo _ _ (by decide)).trans BitVec.extractLsb'_eq_self⟩

/-- The fields of a tail of two bytes. -/
theorem t2_fields (a b : BitVec 5) (f : BitVec 6) : let v : BitVec 64 := 0#48 ++ a ++ b ++ f
    v.extractLsb' 11 5 = a ∧ v.extractLsb' 6 5 = b ∧ v.extractLsb' 0 6 = f :=
  ⟨(Laws.field_hi _ _ (by decide)).trans ((Laws.field_hi _ _ (by decide)).trans ((Laws.field_lo _ _ (by decide)).trans BitVec.extractLsb'_eq_self)),
   (Laws.field_hi _ _ (by decide)).trans ((Laws.field_lo _ _ (by decide)).trans BitVec.extractLsb'_eq_self),
   (Laws.field_lo _ _ (by decide)).trans BitVec.extractLsb'_eq_self⟩

/-- The fields of a tail of four bytes. -/
theorem t4_fields (a b : BitVec 5) (f : BitVec 6) (i : BitVec 16) : let v : BitVec 64 := 0#32 ++ a ++ b ++ f ++ i
    v.extractLsb' 27 5 = a ∧ v.extractLsb' 22 5 = b ∧ v.extractLsb' 16 6 = f ∧ v.extractLsb' 0 16 = i :=
  ⟨(Laws.field_hi _ _ (by decide)).trans (t2_fields a b f).1, (Laws.field_hi _ _ (by decide)).trans (t2_fields a b f).2.1,
   (Laws.field_hi _ _ (by decide)).trans (t2_fields a b f).2.2, (Laws.field_lo _ _ (by decide)).trans BitVec.extractLsb'_eq_self⟩

/-- The fields of a tail of eight bytes. -/
theorem t8_fields (a b : BitVec 5) (f : BitVec 6) (i : BitVec 48) : let v : BitVec 64 := a ++ b ++ f ++ i
    v.extractLsb' 59 5 = a ∧ v.extractLsb' 54 5 = b ∧ v.extractLsb' 48 6 = f ∧ v.extractLsb' 0 48 = i :=
  ⟨(Laws.field_hi _ _ (by decide)).trans ((Laws.field_hi _ _ (by decide)).trans ((Laws.field_hi _ _ (by decide)).trans BitVec.extractLsb'_eq_self)),
   (Laws.field_hi _ _ (by decide)).trans ((Laws.field_hi _ _ (by decide)).trans ((Laws.field_lo _ _ (by decide)).trans BitVec.extractLsb'_eq_self)),
   (Laws.field_hi _ _ (by decide)).trans ((Laws.field_lo _ _ (by decide)).trans BitVec.extractLsb'_eq_self),
   (Laws.field_lo _ _ (by decide)).trans BitVec.extractLsb'_eq_self⟩

/-- An immediate whose high part is zero is its low part. -/
theorem imm_of_high_zero {v : BitVec 48} (h : v.extractLsb' 16 32 = 0) : 0#32 ++ v.extractLsb' 0 16 = v := by
  have hv : v.extractLsb' 16 32 ++ v.extractLsb' 0 16 = v := by
    ext i hi
    simp only [BitVec.getElem_append, BitVec.getElem_extractLsb']
    split
    · simp [BitVec.getLsbD_eq_getElem hi]
    · simp [show 16 + (i - 16) = i by omega, BitVec.getLsbD_eq_getElem hi]
  rwa [h] at hv

/-- Fields that fit their tail read back from the words (R18, R19). -/
theorem Raw.ofWords_words {r : Raw} (h : r.Fits) : Raw.ofWords r.head r.tail = r := by
  obtain ⟨h1, h2, h3, h4⟩ := r.head_fields
  simp only [Raw.ofWords, h1, h2, h3, h4, tailOf_code]
  obtain ⟨tl, op, d, k, a, b, f, imm⟩ := r
  cases tl with
  | none => obtain ⟨rfl, rfl, rfl, rfl⟩ := h; rfl
  | t2 =>
    obtain ⟨ha, hb, hf⟩ := t2_fields a b f
    simp only [Raw.tail, ha, hb, hf]
    rw [show imm = 0 from h]
  | t4 =>
    obtain ⟨ha, hb, hf, hi⟩ := t4_fields a b f (imm.extractLsb' 0 16)
    simp only [Raw.tail, ha, hb, hf, hi, imm_of_high_zero h]
  | t8 =>
    obtain ⟨ha, hb, hf, hi⟩ := t8_fields a b f imm
    simp only [Raw.tail, ha, hb, hf, hi]

/-- Zeros above the low part. -/
theorem high_zero_append {n m s l : Nat} {x : BitVec n} {y : BitVec m} (h : m ≤ s) (hx : x.extractLsb' (s - m) l = 0#l) :
    (x ++ y).extractLsb' s l = 0#l := by rw [Laws.field_hi x y h, hx]

/-- A field of zeros. -/
theorem high_zero {n s l : Nat} : (0#n).extractLsb' s l = 0#l := by simp

/-! ## Each layout writes fields that fit its tail -/

@[simp] theorem fits_R3T2 (op : BitVec 7) (f : BitVec 6) (x : R3T2) : (encR3T2 op f x).Fits :=
  rfl

@[simp] theorem fits_R2T2 (op : BitVec 7) (f : BitVec 6) (x : R2T2) : (encR2T2 op f x).Fits :=
  rfl

@[simp] theorem fits_R1T2 (op : BitVec 7) (f : BitVec 6) (x : R1T2) : (encR1T2 op f x).Fits :=
  rfl

@[simp] theorem fits_RabT2 (op : BitVec 7) (f : BitVec 6) (x : RabT2) : (encRabT2 op f x).Fits :=
  rfl

@[simp] theorem fits_AluF (op : BitVec 7) (f : BitVec 6) (x : AluF) : (encAluF op f x).Fits :=
  rfl

@[simp] theorem fits_AluUF (op : BitVec 7) (f : BitVec 6) (x : AluUF) : (encAluUF op f x).Fits :=
  rfl

@[simp] theorem fits_AluIF (op : BitVec 7) (f : BitVec 6) (x : AluIF) : (encAluIF op f x).Fits :=
  high_zero_append (by decide) high_zero

@[simp] theorem fits_AluSF (op : BitVec 7) (f : BitVec 6) (x : AluSF) : (encAluSF op f x).Fits :=
  high_zero_append (by decide) high_zero

@[simp] theorem fits_LiF (op : BitVec 7) (f : BitVec 6) (x : LiF) : (encLiF op f x).Fits :=
  trivial

@[simp] theorem fits_LihF (op : BitVec 7) (f : BitVec 6) (x : LihF) : (encLihF op f x).Fits :=
  trivial

@[simp] theorem fits_FpuF (op : BitVec 7) (f : BitVec 6) (x : FpuF) : (encFpuF op f x).Fits :=
  rfl

@[simp] theorem fits_FpuUF (op : BitVec 7) (f : BitVec 6) (x : FpuUF) : (encFpuUF op f x).Fits :=
  rfl

@[simp] theorem fits_FmaF (op : BitVec 7) (f : BitVec 6) (x : FmaF) : (encFmaF op f x).Fits :=
  high_zero_append (by decide) (high_zero_append (by decide) high_zero)

@[simp] theorem fits_BrF (op : BitVec 7) (f : BitVec 6) (x : BrF) : (encBrF op f x).Fits :=
  high_zero_append (by decide) (high_zero_append (by decide) high_zero)

@[simp] theorem fits_JalF (op : BitVec 7) (f : BitVec 6) (x : JalF) : (encJalF op f x).Fits :=
  trivial

@[simp] theorem fits_MemF (op : BitVec 7) (f : BitVec 6) (x : MemF) : (encMemF op f x).Fits :=
  high_zero_append (by decide) high_zero

@[simp] theorem fits_CacheF (op : BitVec 7) (f : BitVec 6) (x : CacheF) : (encCacheF op f x).Fits :=
  high_zero_append (by decide) high_zero

@[simp] theorem fits_AmoF (op : BitVec 7) (f : BitVec 6) (x : AmoF) : (encAmoF op f x).Fits :=
  high_zero_append (by decide) (high_zero_append (by decide) high_zero)

@[simp] theorem fits_AmoCasF (op : BitVec 7) (f : BitVec 6) (x : AmoCasF) : (encAmoCasF op f x).Fits :=
  high_zero_append (by decide) (high_zero_append (by decide) (high_zero_append (by decide) (high_zero_append (by decide) high_zero)))

@[simp] theorem fits_OrdF (op : BitVec 7) (f : BitVec 6) (x : OrdF) : (encOrdF op f x).Fits :=
  high_zero_append (by decide) high_zero

@[simp] theorem fits_FenceF (op : BitVec 7) (f : BitVec 6) (x : FenceF) : (encFenceF op f x).Fits :=
  rfl

@[simp] theorem fits_WaitF (op : BitVec 7) (f : BitVec 6) (x : WaitF) : (encWaitF op f x).Fits :=
  high_zero_append (by decide) high_zero

@[simp] theorem fits_CsrRF (op : BitVec 7) (f : BitVec 6) (x : CsrRF) : (encCsrRF op f x).Fits :=
  high_zero_append (by decide) high_zero

@[simp] theorem fits_CsrF (op : BitVec 7) (f : BitVec 6) (x : CsrF) : (encCsrF op f x).Fits :=
  high_zero_append (by decide) high_zero

@[simp] theorem fits_CodeF (op : BitVec 7) (f : BitVec 6) (x : CodeF) : (encCodeF op f x).Fits :=
  high_zero_append (by decide) high_zero

@[simp] theorem fits_R3T4 (op : BitVec 7) (f : BitVec 6) (x : R3T4) : (encR3T4 op f x).Fits :=
  high_zero

@[simp] theorem fits_R2T4 (op : BitVec 7) (f : BitVec 6) (x : R2T4) : (encR2T4 op f x).Fits :=
  high_zero

@[simp] theorem fits_RabT4 (op : BitVec 7) (f : BitVec 6) (x : RabT4) : (encRabT4 op f x).Fits :=
  high_zero

@[simp] theorem fits_R1T4 (op : BitVec 7) (f : BitVec 6) (x : R1T4) : (encR1T4 op f x).Fits :=
  high_zero

@[simp] theorem fits_LenF (op : BitVec 7) (f : BitVec 6) (x : LenF) : (encLenF op f x).Fits :=
  high_zero_append (by decide) (high_zero_append (by decide) high_zero)

@[simp] theorem fits_ShpF (op : BitVec 7) (f : BitVec 6) (x : ShpF) : (encShpF op f x).Fits :=
  high_zero_append (by decide) high_zero

@[simp] theorem fits_K3F (op : BitVec 7) (f : BitVec 6) (x : K3F) : (encK3F op f x).Fits :=
  rfl

@[simp] theorem fits_K2F (op : BitVec 7) (f : BitVec 6) (x : K2F) : (encK2F op f x).Fits :=
  rfl

@[simp] theorem fits_KxF (op : BitVec 7) (f : BitVec 6) (x : KxF) : (encKxF op f x).Fits :=
  rfl

@[simp] theorem fits_KsetF (op : BitVec 7) (f : BitVec 6) (x : KsetF) : (encKsetF op f x).Fits :=
  rfl

@[simp] theorem fits_VBinF (op : BitVec 7) (f : BitVec 6) (x : VBinF) : (encVBinF op f x).Fits :=
  high_zero_append (by decide) (high_zero_append (by decide) (high_zero_append (by decide) (high_zero_append (by decide) high_zero)))

@[simp] theorem fits_VUnF (op : BitVec 7) (f : BitVec 6) (x : VUnF) : (encVUnF op f x).Fits :=
  high_zero_append (by decide) (high_zero_append (by decide) (high_zero_append (by decide) (high_zero_append (by decide) high_zero)))

@[simp] theorem fits_VCmpF (op : BitVec 7) (f : BitVec 6) (x : VCmpF) : (encVCmpF op f x).Fits :=
  high_zero_append (by decide) (high_zero_append (by decide) (high_zero_append (by decide) (high_zero_append (by decide) high_zero)))

@[simp] theorem fits_VIotaF (op : BitVec 7) (f : BitVec 6) (x : VIotaF) : (encVIotaF op f x).Fits :=
  high_zero_append (by decide) (high_zero_append (by decide) (high_zero_append (by decide) (high_zero_append (by decide) high_zero)))

@[simp] theorem fits_VIotaXF (op : BitVec 7) (f : BitVec 6) (x : VIotaXF) : (encVIotaXF op f x).Fits :=
  high_zero_append (by decide) (high_zero_append (by decide) (high_zero_append (by decide) (high_zero_append (by decide) high_zero)))

@[simp] theorem fits_VFpF (op : BitVec 7) (f : BitVec 6) (x : VFpF) : (encVFpF op f x).Fits :=
  high_zero_append (by decide) (high_zero_append (by decide) (high_zero_append (by decide) (high_zero_append (by decide) high_zero)))

@[simp] theorem fits_VFpUF (op : BitVec 7) (f : BitVec 6) (x : VFpUF) : (encVFpUF op f x).Fits :=
  high_zero_append (by decide) (high_zero_append (by decide) (high_zero_append (by decide) (high_zero_append (by decide) high_zero)))

@[simp] theorem fits_VFCmpF (op : BitVec 7) (f : BitVec 6) (x : VFCmpF) : (encVFCmpF op f x).Fits :=
  high_zero_append (by decide) (high_zero_append (by decide) (high_zero_append (by decide) (high_zero_append (by decide) high_zero)))

@[simp] theorem fits_VFmaF (op : BitVec 7) (f : BitVec 6) (x : VFmaF) : (encVFmaF op f x).Fits :=
  high_zero_append (by decide) (high_zero_append (by decide) (high_zero_append (by decide) (high_zero_append (by decide) (high_zero_append (by decide) high_zero))))

@[simp] theorem fits_QpackF (op : BitVec 7) (f : BitVec 6) (x : QpackF) : (encQpackF op f x).Fits :=
  high_zero_append (by decide) (high_zero_append (by decide) (high_zero_append (by decide) high_zero))

@[simp] theorem fits_VTyF (op : BitVec 7) (f : BitVec 6) (x : VTyF) : (encVTyF op f x).Fits :=
  high_zero_append (by decide) (high_zero_append (by decide) high_zero)

@[simp] theorem fits_BnormF (op : BitVec 7) (f : BitVec 6) (x : BnormF) : (encBnormF op f x).Fits :=
  high_zero_append (by decide) (high_zero_append (by decide) (high_zero_append (by decide) high_zero))

@[simp] theorem fits_VTyBF (op : BitVec 7) (f : BitVec 6) (x : VTyBF) : (encVTyBF op f x).Fits :=
  high_zero_append (by decide) (high_zero_append (by decide) high_zero)

@[simp] theorem fits_VTyCF (op : BitVec 7) (f : BitVec 6) (x : VTyCF) : (encVTyCF op f x).Fits :=
  high_zero_append (by decide) (high_zero_append (by decide) (high_zero_append (by decide) high_zero))

@[simp] theorem fits_RedF (op : BitVec 7) (f : BitVec 6) (x : RedF) : (encRedF op f x).Fits :=
  high_zero_append (by decide) (high_zero_append (by decide) (high_zero_append (by decide) (high_zero_append (by decide) (high_zero_append (by decide) high_zero))))

@[simp] theorem fits_RedNF (op : BitVec 7) (f : BitVec 6) (x : RedNF) : (encRedNF op f x).Fits :=
  high_zero_append (by decide) (high_zero_append (by decide) (high_zero_append (by decide) (high_zero_append (by decide) (high_zero_append (by decide) high_zero))))

@[simp] theorem fits_SinCosF (op : BitVec 7) (f : BitVec 6) (x : SinCosF) : (encSinCosF op f x).Fits :=
  high_zero_append (by decide) (high_zero_append (by decide) (high_zero_append (by decide) high_zero))

@[simp] theorem fits_VMemF (op : BitVec 7) (f : BitVec 6) (x : VMemF) : (encVMemF op f x).Fits :=
  high_zero_append (by decide) (high_zero_append (by decide) (high_zero_append (by decide) (high_zero_append (by decide) high_zero)))

@[simp] theorem fits_VMemBF (op : BitVec 7) (f : BitVec 6) (x : VMemBF) : (encVMemBF op f x).Fits :=
  high_zero_append (by decide) (high_zero_append (by decide) (high_zero_append (by decide) (high_zero_append (by decide) high_zero)))

@[simp] theorem fits_VMemLF (op : BitVec 7) (f : BitVec 6) (x : VMemLF) : (encVMemLF op f x).Fits :=
  high_zero_append (by decide) (high_zero_append (by decide) (high_zero_append (by decide) (high_zero_append (by decide) high_zero)))

@[simp] theorem fits_VIdxF (op : BitVec 7) (f : BitVec 6) (x : VIdxF) : (encVIdxF op f x).Fits :=
  high_zero_append (by decide) (high_zero_append (by decide) (high_zero_append (by decide) (high_zero_append (by decide) (high_zero_append (by decide) high_zero))))

@[simp] theorem fits_WinF (op : BitVec 7) (f : BitVec 6) (x : WinF) : (encWinF op f x).Fits :=
  high_zero_append (by decide) (high_zero_append (by decide) (high_zero_append (by decide) (high_zero_append (by decide) high_zero)))

@[simp] theorem fits_Win0F (op : BitVec 7) (f : BitVec 6) (x : Win0F) : (encWin0F op f x).Fits :=
  high_zero_append (by decide) (high_zero_append (by decide) (high_zero_append (by decide) (high_zero_append (by decide) high_zero)))

@[simp] theorem fits_CpyF (op : BitVec 7) (f : BitVec 6) (x : CpyF) : (encCpyF op f x).Fits :=
  trivial

@[simp] theorem fits_XredF (op : BitVec 7) (f : BitVec 6) (x : XredF) : (encXredF op f x).Fits :=
  trivial

@[simp] theorem fits_CpwF (op : BitVec 7) (f : BitVec 6) (x : CpwF) : (encCpwF op f x).Fits :=
  high_zero_append (by decide) (high_zero_append (by decide) high_zero)

@[simp] theorem fits_GrpF (op : BitVec 7) (f : BitVec 6) (x : GrpF) : (encGrpF op f x).Fits :=
  high_zero_append (by decide) high_zero

@[simp] theorem fits_DetF (op : BitVec 7) (f : BitVec 6) (x : DetF) : (encDetF op f x).Fits :=
  high_zero_append (by decide) high_zero

@[simp] theorem fits_SlotF (op : BitVec 7) (f : BitVec 6) (x : SlotF) : (encSlotF op f x).Fits :=
  high_zero_append (by decide) (high_zero_append (by decide) high_zero)

@[simp] theorem fits_AccF (op : BitVec 7) (f : BitVec 6) (x : AccF) : (encAccF op f x).Fits :=
  high_zero_append (by decide) (high_zero_append (by decide) high_zero)

@[simp] theorem fits_SlotMF (op : BitVec 7) (f : BitVec 6) (x : SlotMF) : (encSlotMF op f x).Fits :=
  high_zero_append (by decide) (high_zero_append (by decide) high_zero)

@[simp] theorem fits_SlotRF (op : BitVec 7) (f : BitVec 6) (x : SlotRF) : (encSlotRF op f x).Fits :=
  high_zero_append (by decide) (high_zero_append (by decide) high_zero)

@[simp] theorem fits_MmaF (op : BitVec 7) (f : BitVec 6) (x : MmaF) : (encMmaF op f x).Fits :=
  high_zero_append (by decide) (high_zero_append (by decide) (high_zero_append (by decide) high_zero))

@[simp] theorem fits_DrnF (op : BitVec 7) (f : BitVec 6) (x : DrnF) : (encDrnF op f x).Fits :=
  high_zero_append (by decide) (high_zero_append (by decide) (high_zero_append (by decide) (high_zero_append (by decide) high_zero)))

@[simp] theorem fits_AccMF (op : BitVec 7) (f : BitVec 6) (x : AccMF) : (encAccMF op f x).Fits :=
  high_zero_append (by decide) (high_zero_append (by decide) high_zero)

@[simp] theorem fits_VerF (op : BitVec 7) (f : BitVec 6) (x : VerF) : (encVerF op f x).Fits :=
  high_zero_append (by decide) high_zero

@[simp] theorem fits_VVerF (op : BitVec 7) (f : BitVec 6) (x : VVerF) : (encVVerF op f x).Fits :=
  high_zero_append (by decide) (high_zero_append (by decide) (high_zero_append (by decide) (high_zero_append (by decide) (high_zero_append (by decide) high_zero))))

@[simp] theorem fits_KvappF (op : BitVec 7) (f : BitVec 6) (x : KvappF) : (encKvappF op f x).Fits :=
  high_zero_append (by decide) (high_zero_append (by decide) (high_zero_append (by decide) (high_zero_append (by decide) high_zero)))

@[simp] theorem fits_KvmoveF (op : BitVec 7) (f : BitVec 6) (x : KvmoveF) : (encKvmoveF op f x).Fits :=
  high_zero_append (by decide) (high_zero_append (by decide) (high_zero_append (by decide) (high_zero_append (by decide) (high_zero_append (by decide) high_zero))))

@[simp] theorem fits_NaddF (op : BitVec 7) (f : BitVec 6) (x : NaddF) : (encNaddF op f x).Fits :=
  high_zero_append (by decide) (high_zero_append (by decide) (high_zero_append (by decide) (high_zero_append (by decide) (high_zero_append (by decide) (high_zero_append (by decide) high_zero)))))

@[simp] theorem fits_NcpyF (op : BitVec 7) (f : BitVec 6) (x : NcpyF) : (encNcpyF op f x).Fits :=
  trivial

@[simp] theorem fits_NzeroF (op : BitVec 7) (f : BitVec 6) (x : NzeroF) : (encNzeroF op f x).Fits :=
  trivial

@[simp] theorem fits_NgatherF (op : BitVec 7) (f : BitVec 6) (x : NgatherF) : (encNgatherF op f x).Fits :=
  trivial

@[simp] theorem fits_NoptF (op : BitVec 7) (f : BitVec 6) (x : NoptF) : (encNoptF op f x).Fits :=
  trivial

@[simp] theorem fits_Z2 (op : BitVec 7) (f : BitVec 6) : (encZ2 op f).Fits :=
  rfl

@[simp] theorem fits_KvlenR (x : R2T4) : (encKvlenR x).Fits :=
  high_zero

@[simp] theorem fits_KvlenS (x : R3T4) : (encKvlenS x).Fits := by
  simp [Raw.Fits, encKvlenS]

@[simp] theorem fits_rawNop : rawNop.Fits := ⟨rfl, rfl, rfl, rfl⟩

@[simp] theorem fits_rawEnd : rawEnd.Fits := ⟨rfl, rfl, rfl, rfl⟩

/-- The fields of every instruction fit its tail. -/
theorem fits_of_encode {i : Instr} {r : Raw} (h : encode i = some r) : r.Fits := by
  cases i <;> cases h <;> simp

end Sys2Proof
end

section
/-! Decoding and encoding agree for every instruction (02_encoding.md). -/
namespace Sys2Proof.Laws.Coding
open Sys2Proof

/-- Every instruction: its law, by its constructor. -/
theorem statement : ∀ i : Instr, Statement i
  | .nop => nop | .add x => add x | .sub x => sub x | .and x => and x | .or x => or x | .xor x => xor x | .shl x => shl x
  | .shr x => shr x | .sra x => sra x | .mul x => mul x | .mulh x => mulh x | .mulhu x => mulhu x | .div x => div x
  | .divu x => divu x | .rem x => rem x | .remu x => remu x | .min x => min x | .max x => max x | .minu x => minu x
  | .maxu x => maxu x | .slt x => slt x | .sltu x => sltu x | .seq x => seq x | .clz x => clz x | .ctz x => ctz x
  | .popc x => popc x | .addi x => addi x | .andi x => andi x | .ori x => ori x | .xori x => xori x | .shli x => shli x
  | .shri x => shri x | .srai x => srai x | .slti x => slti x | .sltui x => sltui x | .li x => li x | .lih x => lih x
  | .fadd x => fadd x | .fsub x => fsub x | .fmul x => fmul x | .fdiv x => fdiv x | .fsqrt x => fsqrt x | .fmin x => fmin x
  | .fmax x => fmax x | .feq x => feq x | .flt x => flt x | .fle x => fle x | .fcvtif x => fcvtif x | .fcvtfi x => fcvtfi x
  | .fclass x => fclass x | .ffma x => ffma x | .ffms x => ffms x | .fnfma x => fnfma x | .beq x => beq x | .bne x => bne x
  | .blt x => blt x | .bge x => bge x | .bltu x => bltu x | .bgeu x => bgeu x | .jal x => jal x | .jalr x => jalr x
  | .lb x => lb x | .lbu x => lbu x | .lh x => lh x | .lhu x => lhu x | .lw x => lw x | .lwu x => lwu x | .ld x => ld x
  | .sb x => sb x | .sh x => sh x | .sw x => sw x | .sd x => sd x | .amoadd x => amoadd x | .amoswap x => amoswap x
  | .amoand x => amoand x | .amoor x => amoor x | .amoxor x => amoxor x | .amomin x => amomin x | .amomax x => amomax x
  | .amominu x => amominu x | .amomaxu x => amomaxu x | .amofadd x => amofadd x | .amocas x => amocas x | .ldaW x => ldaW x
  | .ldaD x => ldaD x | .stlW x => stlW x | .stlD x => stlD x | .fence x => fence x | .fenceSv => fenceSv
  | .fenceVs => fenceVs | .cflush x => cflush x | .cinv x => cinv x | .cpref x => cpref x | .cdrop x => cdrop x
  | .waitne x => waitne x | .waiteq x => waiteq x | .waitaReread x => waitaReread x | .waitaTimeout x => waitaTimeout x
  | .csrr x => csrr x | .csrw x => csrw x | .csrs x => csrs x | .csrc x => csrc x | .cpwpWrite x => cpwpWrite x
  | .trap x => trap x | .eret => eret | .resume x => resume x | .tlbinvAddress x => tlbinvAddress x
  | .tlbinvAsid x => tlbinvAsid x | .tlbinvAll x => tlbinvAll x | .wfi => wfi | .ctxsave x => ctxsave x
  | .ctxrest x => ctxrest x | .vqsave x => vqsave x | .vqrest x => vqrest x | .spawn x => spawn x | .spawng x => spawng x
  | .spawnl x => spawnl x | .join x => join x | .joinPushRetry x => joinPushRetry x | .yield x => yield x
  | .endTask => endTask | .lvcancel x => lvcancel x | .lvquery x => lvquery x | .barinit x => barinit x
  | .barinitUnregister x => barinitUnregister x | .bararr x => bararr x | .barwait x => barwait x | .barkill x => barkill x
  | .post x => post x | .postArrival x0 x1 => postArrival x0 x1 | .waiti x => waiti x | .setlen x => setlen x
  | .vshape x => vshape x | .vmovx x => vmovx x | .vmovv x => vmovv x | .setlenf x => setlenf x | .kand x => kand x
  | .kor x => kor x | .kxor x => kxor x | .kandn x => kandn x | .knot x => knot x | .kpop x => kpop x
  | .kfirst x => kfirst x | .kset x => kset x | .vadd x => vadd x | .vsub x => vsub x | .vmul x => vmul x
  | .vmulh x => vmulh x | .vand x => vand x | .vor x => vor x | .vxor x => vxor x | .vshl x => vshl x | .vshr x => vshr x
  | .vsra x => vsra x | .vmin x => vmin x | .vmax x => vmax x | .vabs x => vabs x | .vneg x => vneg x
  | .vcmpeq x => vcmpeq x | .vcmplt x => vcmplt x | .vcmple x => vcmple x | .vsel x => vsel x | .viota x => viota x
  | .vaddScalar x => vaddScalar x | .vsubScalar x => vsubScalar x | .vmulScalar x => vmulScalar x
  | .vmulhScalar x => vmulhScalar x | .vandScalar x => vandScalar x | .vorScalar x => vorScalar x
  | .vxorScalar x => vxorScalar x | .vshlScalar x => vshlScalar x | .vshrScalar x => vshrScalar x
  | .vsraScalar x => vsraScalar x | .vminScalar x => vminScalar x | .vmaxScalar x => vmaxScalar x
  | .vabsScalar x => vabsScalar x | .vnegScalar x => vnegScalar x | .vcmpeqScalar x => vcmpeqScalar x
  | .vcmpltScalar x => vcmpltScalar x | .vcmpleScalar x => vcmpleScalar x | .vselScalar x => vselScalar x
  | .viotaScalar x => viotaScalar x | .vfadd x => vfadd x | .vfsub x => vfsub x | .vfmul x => vfmul x | .vfdiv x => vfdiv x
  | .vfsqrt x => vfsqrt x | .vfmin x => vfmin x | .vfmax x => vfmax x | .vfabs x => vfabs x | .vfneg x => vfneg x
  | .vfcmpeq x => vfcmpeq x | .vfcmplt x => vfcmplt x | .vfcmple x => vfcmple x | .vfrcp x => vfrcp x | .vfrsq x => vfrsq x
  | .vfexp2 x => vfexp2 x | .vflog2 x => vflog2 x | .vfaddScalar x => vfaddScalar x | .vfsubScalar x => vfsubScalar x
  | .vfmulScalar x => vfmulScalar x | .vfdivScalar x => vfdivScalar x | .vfsqrtScalar x => vfsqrtScalar x
  | .vfminScalar x => vfminScalar x | .vfmaxScalar x => vfmaxScalar x | .vfabsScalar x => vfabsScalar x
  | .vfnegScalar x => vfnegScalar x | .vfcmpeqScalar x => vfcmpeqScalar x | .vfcmpltScalar x => vfcmpltScalar x
  | .vfcmpleScalar x => vfcmpleScalar x | .vfrcpScalar x => vfrcpScalar x | .vfrsqScalar x => vfrsqScalar x
  | .vfexp2Scalar x => vfexp2Scalar x | .vflog2Scalar x => vflog2Scalar x | .vfma x => vfma x | .vfms x => vfms x
  | .vfnma x => vfnma x | .vcvt x => vcvt x | .vcvtd x => vcvtd x | .vqpack x => vqpack x | .vbacc x => vbacc x
  | .vbnorm x => vbnorm x | .vscale x => vscale x | .vredsum x => vredsum x | .vredmax x => vredmax x
  | .vredmin x => vredmin x | .vargmax x => vargmax x | .vargmin x => vargmin x | .vredand x => vredand x
  | .vredor x => vredor x | .vcompress x => vcompress x | .vexpand x => vexpand x | .vslideup x => vslideup x
  | .vslidedn x => vslidedn x | .vtrans x => vtrans x | .vpermc x => vpermc x | .vbcast x => vbcast x
  | .vsincos x => vsincos x | .vgumbel x => vgumbel x | .vhash x => vhash x | .vld x => vld x | .vldf x => vldf x
  | .vldb x => vldb x | .vlds x => vlds x | .vldl x => vldl x | .vst x => vst x | .vstb x => vstb x | .vsts x => vsts x
  | .vstl x => vstl x | .vgather x => vgather x | .vscatter x => vscatter x | .vgatherc x => vgatherc x
  | .vscatterc x => vscatterc x | .vamoadd x => vamoadd x | .vamofadd x => vamofadd x | .vamomin x => vamomin x
  | .vamomax x => vamomax x | .awin x => awin x | .aadd x => aadd x | .amerge x => amerge x | .aclr x => aclr x
  | .cpy x => cpy x | .cpym x => cpym x | .cpykv x => cpykv x | .xred x => xred x | .cpwait x => cpwait x
  | .copyIssue x => copyIssue x | .copyRowDelivery x0 x1 => copyRowDelivery x0 x1
  | .xredRoundComplete x => xredRoundComplete x | .matt x => matt x | .mdet x => mdet x | .mclaim x => mclaim x
  | .mrel x => mrel x | .mzero x => mzero x | .mstat x => mstat x | .mld x => mld x | .mldf x => mldf x | .mldt x => mldt x
  | .mslotw x => mslotw x | .mslotr x => mslotr x | .mma x => mma x | .mmaz x => mmaz x | .mman x => mman x
  | .mdrain x => mdrain x | .maccst x => maccst x | .maccld x => maccld x | .gspec x => gspec x | .gcommit x => gcommit x
  | .gdiscard x => gdiscard x | .gflatten x => gflatten x | .gpoolDonate x => gpoolDonate x | .gpoolDrop x => gpoolDrop x
  | .gpoolQuery x => gpoolQuery x | .gquery x => gquery x | .verst x => verst x | .verld x => verld x
  | .verldn x => verldn x | .vfloor x => vfloor x | .vseal x => vseal x | .verq x => verq x
  | .versionReclaim x0 x1 x2 => versionReclaim x0 x1 x2 | .vverst x => vverst x | .vverld x => vverld x
  | .kvapp x => kvapp x | .kvldk x => kvldk x | .kvldv x => kvldv x | .kvmove x => kvmove x | .kvlenRead x => kvlenRead x
  | .kvlenSet x => kvlenSet x | .kvinvSequence x => kvinvSequence x | .kvinvAll x => kvinvAll x | .nadd x => nadd x
  | .nfence x => nfence x | .nrowcpy x => nrowcpy x | .nzero x => nzero x | .ngather x => ngather x | .nopt x => nopt x
  | .nstatRead x => nstatRead x | .nstatPatternWrite x => nstatPatternWrite x | .crustItem x => crustItem x
  | .commit x => commit x | .perform x => perform x | .apply x0 x1 => apply x0 x1 | .readAtDie x => readAtDie x
  | .readAtHome x => readAtHome x | .installFill x => installFill x | .trapEntry x => trapEntry x
  | .preEmptionRequest x0 x1 => preEmptionRequest x0 x1 | .managementMessage x => managementMessage x
  | .budgetExceeded x => budgetExceeded x | .hostQueueServe => hostQueueServe | .queueAging x => queueAging x
  | .shareGrant x => shareGrant x | .streamEviction x => streamEviction x | .taskStart x => taskStart x
  | .fabricAccessTimeout x => fabricAccessTimeout x | .collectiveRoundTimeout x => collectiveRoundTimeout x
  | .collectiveGroupRegister x => collectiveGroupRegister x | .hostCxlMemAccess x => hostCxlMemAccess x
  | .ptmExchange x => ptmExchange x | .lossOfLock => lossOfLock | .powerGood => powerGood
  | .bringUpConfig x => bringUpConfig x | .reset => reset | .firmwareImageLoad x => firmwareImageLoad x
  | .sealKeyLoad x => sealKeyLoad x | .lifeCycleTransition x => lifeCycleTransition x | .powerCapSet x => powerCapSet x
  | .clockStep x => clockStep x | .dramError x => dramError x | .powerOff => powerOff
  | .remoteFabricAccess x => remoteFabricAccess x | .attestationRequest x => attestationRequest x

end Sys2Proof.Laws.Coding

namespace Sys2Proof
open Sys2Proof Sys2Proof.Machine

/-- The words of a well-formed instruction decode to it, or to the instruction whose words they are (R18 to R23). -/
theorem decodeWords_of_encode {i : Instr} {r : Raw} (hi : i.wf = true) (hr : encode i = some r) :
    decodeWords r.head r.tail = .ok i.canonical := by
  rw [decodeWords, Raw.ofWords_words (fits_of_encode hr)]
  exact Laws.Coding.statement i hi r hr

/-- The tail bytes of a head are those of its fields. -/
theorem headTailBytes_head (r : Raw) : headTailBytes r.head = r.tl.bytes := by
  rw [headTailBytes, r.head_fields.1, tailOf_code]

/-- A word without its high part. -/
theorem toNat_lt_of_high_zero {v : BitVec 64} {n : Nat} (h : v.extractLsb' n (64 - n) = 0#(64 - n)) (hn : n ≤ 64) :
    v.toNat < 2 ^ n := by
  have h := congrArg BitVec.toNat h
  rw [BitVec.extractLsb'_toNat, Nat.shiftRight_eq_div_pow, BitVec.toNat_zero, Nat.mod_eq_of_lt] at h
  · exact (Nat.div_eq_zero_iff_lt (by positivity)).mp h
  · rw [Nat.div_lt_iff_lt_mul (by positivity), ← pow_add, Nat.sub_add_cancel hn]
    exact v.isLt

/-- A tail lies in its bytes (R19). -/
theorem Raw.tail_lt (r : Raw) : r.tail.toNat < 2 ^ (8 * r.tl.bytes) := by
  obtain ⟨tl, op, d, k, a, b, f, imm⟩ := r
  cases tl with
  | none => exact Nat.zero_lt_one
  | t2 =>
    refine toNat_lt_of_high_zero (n := 16) ?_ (by decide)
    exact high_zero_append (by decide) (high_zero_append (by decide) (high_zero_append (by decide) high_zero))
  | t4 =>
    refine toNat_lt_of_high_zero (n := 32) ?_ (by decide)
    exact high_zero_append (by decide) (high_zero_append (by decide) (high_zero_append (by decide) (high_zero_append (by decide) high_zero)))
  | t8 => exact BitVec.isLt _

/-! ## The line that holds one instruction (R13, R14) -/

/-- The lengths of tails. -/
theorem Tail.bytes_cases (t : Tail) : t.bytes = 0 ∨ t.bytes = 2 ∨ t.bytes = 4 ∨ t.bytes = 8 := by
  cases t <;> simp [Tail.bytes]

/-- The number that a line with one instruction is: NH = 1, the head above it, and the tail at the top. -/
theorem lineOf_toNat (r : Raw) : (lineOf r.head.toNat r.tail.toNat).toNat =
    2 ^ 11 + r.head.toNat * 2 ^ 16 + r.tail.toNat * 2 ^ (512 - 8 * r.tl.bytes) := by
  have hh := r.head.isLt
  have ht := r.tail_lt
  rw [lineOf, BitVec.ofNat_toNat, BitVec.setWidth_eq, headTailBytes_head, BitVec.toNat_ofNat, Nat.mod_eq_of_lt hh, Nat.mod_eq_of_lt ht,
    one_mul]
  apply Nat.mod_eq_of_lt
  rcases r.tl.bytes_cases with h | h | h | h <;> rw [h] at ht ⊢ <;> omega

/-- The line control word: NH is 1 and the rest is zero. -/
theorem lineLc_lineOf (r : Raw) : lineLc (lineOf r.head.toNat r.tail.toNat) = 0x800#16 := by
  apply BitVec.eq_of_toNat_eq
  rw [lineLc, BitVec.extractLsb'_toNat, lineOf_toNat, Nat.shiftRight_zero]
  rcases r.tl.bytes_cases with h | h | h | h <;> rw [h] <;> simp <;> omega

/-- The head of slot 1. -/
theorem lineHead_lineOf (r : Raw) : lineHead (lineOf r.head.toNat r.tail.toNat) 1 = r.head := by
  have hh := r.head.isLt
  have ht := r.tail_lt
  apply BitVec.eq_of_toNat_eq
  rw [lineHead, BitVec.extractLsb'_toNat, lineOf_toNat, Nat.shiftRight_eq_div_pow]
  rcases r.tl.bytes_cases with h | h | h | h <;> rw [h] at ht ⊢ <;> omega

/-- The tail of slot 1 stands at the top of the line. -/
theorem tailTop_lineOf (r : Raw) : tailTop (lineOf r.head.toNat r.tail.toNat) 1 = 64 - r.tl.bytes := by
  rw [tailTop, tailTop, zero_add, lineHead_lineOf, headTailBytes_head]

/-- The tail of slot 1. -/
theorem lineTail_lineOf (r : Raw) : lineTail (lineOf r.head.toNat r.tail.toNat) 1 = r.tail := by
  have hh := r.head.isLt
  have ht := r.tail_lt
  apply BitVec.eq_of_toNat_eq
  rw [lineTail, lineHead_lineOf, headTailBytes_head, tailTop_lineOf, BitVec.toNat_and, BitVec.extractLsb'_toNat, Nat.shiftRight_zero,
    BitVec.toNat_ushiftRight, lineOf_toNat, BitVec.toNat_ofNat, Nat.shiftRight_eq_div_pow]
  rw [Nat.mod_eq_of_lt (a := 2 ^ (8 * r.tl.bytes) - 1), Nat.and_two_pow_sub_one_eq_mod]
  · rcases r.tl.bytes_cases with h | h | h | h <;> rw [h] at ht ⊢ <;> omega
  · rcases r.tl.bytes_cases with h | h | h | h <;> rw [h] <;> decide

/-- Slot 1 decodes as the words do. -/
theorem decodeSlot_lineOf (r : Raw) : decodeSlot (lineOf r.head.toNat r.tail.toNat) 1 = decodeWords r.head r.tail := by
  rw [decodeSlot, lineHead_lineOf, lineTail_lineOf]

/-- The line is legal (R14). -/
theorem lineLegal_lineOf (r : Raw) : lineLegal (lineOf r.head.toNat r.tail.toNat) = true := by
  have hn : lineNh (lineOf r.head.toNat r.tail.toNat) = 1 := by rw [lineNh, lineLc_lineOf]; rfl
  have hs : tailSum (lineOf r.head.toNat r.tail.toNat) 1 = r.tl.bytes := by
    rw [tailSum, tailSum, zero_add, zero_add, lineHead_lineOf, headTailBytes_head]
  rw [lineLegal, hn, hs, lineLc_lineOf]
  rcases r.tl.bytes_cases with h | h | h | h <;> rw [h] <;> rfl

/-- A word that the opcode table numbers decodes as its head and tail do. -/
theorem decodeTableWord_words {r : Raw} {i : Instr} (h : decodeWords r.head r.tail = .ok i) :
    decodeTableWord (16 + 8 * r.tl.bytes) (r.head.toNat * 2 ^ (8 * r.tl.bytes) + r.tail.toNat) = some i := by
  have ht := r.tail_lt
  have hd : (r.head.toNat * 2 ^ (8 * r.tl.bytes) + r.tail.toNat) / 2 ^ (8 * r.tl.bytes) = r.head.toNat := by
    rw [Nat.add_comm, Nat.add_mul_div_right _ _ (by positivity), Nat.div_eq_of_lt ht, zero_add]
  have hm : (r.head.toNat * 2 ^ (8 * r.tl.bytes) + r.tail.toNat) % 2 ^ (8 * r.tl.bytes) = r.tail.toNat := by
    rw [Nat.add_comm, Nat.add_mul_mod_self_right, Nat.mod_eq_of_lt ht]
  simp only [decodeTableWord, Nat.add_sub_cancel_left, hd, hm, BitVec.ofNat_toNat, BitVec.setWidth_eq, h]

/-- Settles O53: the kernel decodes each of the eight words. -/
theorem Laws.decodeWords : Obligations.DecodeWords := by
  unfold Obligations.DecodeWords
  decide +kernel

/-- Settles O54: the law of each constructor, carried to the words, to the table's numbering and to a line. -/
theorem roundTrip : Obligations.RoundTrip := fun _ r hi hr =>
  have h := decodeWords_of_encode hi hr
  ⟨h, decodeTableWord_words h, lineLegal_lineOf r, (decodeSlot_lineOf r).trans h⟩

end Sys2Proof
end

section
/-! Scalar integer arithmetic (12_registers.md): every instruction of ALU, ALUI and LI gives its result (R249 to R251). -/
namespace Sys2Proof.Machine

open Sys2Proof

/-! ## Numbers and bit vectors -/

/-- The signed value of a number below 2^n is that of its bit vector. -/
theorem sint_toNat {n : Nat} (hn : 0 < n) (a : BitVec n) : sint n a.toNat = a.toInt := by
  rw [sint, Nat.mod_eq_of_lt a.isLt, BitVec.toInt_eq_toNat_cond]
  have h : 2 ^ n = 2 * 2 ^ (n - 1) := by rw [← pow_succ', Nat.sub_add_cancel hn]
  simp only [show a.toNat < 2 ^ (n - 1) ↔ 2 * a.toNat < 2 ^ n by omega]

/-- The pattern of an integer is its bit vector. -/
theorem ofNat_wrapInt (n : Nat) (i : Int) : BitVec.ofNat n (wrapInt n i) = BitVec.ofInt n i := by
  apply BitVec.eq_of_toNat_eq
  have h : (0 : Int) < ((2 ^ n : Nat) : Int) := by positivity
  have := Int.emod_nonneg i h.ne'
  have := Int.emod_lt_of_pos i h
  rw [BitVec.toNat_ofNat, BitVec.toNat_ofInt, wrapInt, Nat.mod_eq_of_lt (by omega)]

/-- Sign extension of a number's low bits. -/
theorem sextWord_eq {w : Nat} (hw : 0 < w) (v : Nat) : sextWord w v = (BitVec.ofNat w v).signExtend 64 := by
  rw [sextWord, BitVec.signExtend, ← sint_toNat hw, BitVec.toNat_ofNat]
  simp only [sint, Nat.mod_mod]

/-! ## Operations of the ALU family (R249) -/

/-- An operation on numbers is one on bit vectors, at every width. -/
def Computes (g : Nat → Nat → Nat → Nat) (f : (n : Nat) → BitVec n → BitVec n → BitVec n) : Prop :=
  ∀ n, 1 < n → ∀ a b : BitVec n, BitVec.ofNat n (g n a.toNat b.toNat) = f n a b

/-- The result that x[D] receives, at both widths. -/
theorem aluApply_eq {g : Nat → Nat → Nat → Nat} {f : (n : Nat) → BitVec n → BitVec n → BitVec n} (h : Computes g f) (w32 : Bool)
    (a b : Word) : aluApply g w32 a b = Spec.alu w32 f a b := by
  cases w32 with
  | true => 
    have := h 32 (by decide) (a.setWidth 32) (b.setWidth 32)
    simp only [BitVec.toNat_setWidth] at this
    simp only [aluApply, aluWidth, aluResult, Spec.alu, if_true, sextWord_eq (show 0 < 32 by decide), this]
  | false =>
    have := h 64 (by decide) a b
    simp only [aluApply, aluWidth, aluResult, Spec.alu, Bool.false_eq_true, if_false, Nat.mod_eq_of_lt a.isLt, Nat.mod_eq_of_lt b.isLt, word,
      this]

/-- The bit vector of a truth value. -/
theorem ofNat_flagNat (n : Nat) (b : Bool) : BitVec.ofNat n (flagNat b) = Spec.truth n b := by cases b <;> rfl

theorem computes_add : Computes aluAdd fun _ a b => a + b := fun n _ a b => by
  rw [aluAdd, BitVec.ofNat_add, BitVec.ofNat_toNat, BitVec.ofNat_toNat, BitVec.setWidth_eq, BitVec.setWidth_eq]

theorem computes_sub : Computes aluSub fun _ a b => a - b := fun n _ a b => by
  apply BitVec.eq_of_toNat_eq
  rw [aluSub, BitVec.toNat_ofNat, BitVec.toNat_sub]
  congr 1; have := b.isLt; omega

theorem computes_and : Computes aluAnd fun _ a b => a &&& b := fun n _ a b => by
  change BitVec.ofNat n (a.toNat &&& b.toNat) = a &&& b
  rw [← BitVec.toNat_and, BitVec.ofNat_toNat, BitVec.setWidth_eq]

theorem computes_or : Computes aluOr fun _ a b => a ||| b := fun n _ a b => by
  change BitVec.ofNat n (a.toNat ||| b.toNat) = a ||| b
  rw [← BitVec.toNat_or, BitVec.ofNat_toNat, BitVec.setWidth_eq]

theorem computes_xor : Computes aluXor fun _ a b => a ^^^ b := fun n _ a b => by
  change BitVec.ofNat n (a.toNat ^^^ b.toNat) = a ^^^ b
  rw [← BitVec.toNat_xor, BitVec.ofNat_toNat, BitVec.setWidth_eq]

theorem computes_shl : Computes aluShl fun n a b => a <<< (b.toNat % n) := fun n _ a b => by
  apply BitVec.eq_of_toNat_eq
  rw [aluShl, BitVec.toNat_ofNat, BitVec.toNat_shiftLeft, Nat.shiftLeft_eq]

theorem computes_shr : Computes aluShr fun n a b => a >>> (b.toNat % n) := fun n _ a b => by
  apply BitVec.eq_of_toNat_eq
  rw [aluShr, BitVec.toNat_ofNat, BitVec.toNat_ushiftRight, Nat.shiftRight_eq_div_pow,
    Nat.mod_eq_of_lt ((Nat.div_le_self _ _).trans_lt a.isLt)]

theorem computes_sra : Computes aluSra fun n a b => a.sshiftRight (b.toNat % n) := fun n hn a b => by
  dsimp only
  rw [aluSra, ofNat_wrapInt, sint_toNat (by omega), BitVec.sshiftRight_eq, Int.shiftRight_eq_div_pow]

theorem computes_mul : Computes aluMul fun _ a b => a * b := fun n _ a b => by
  apply BitVec.eq_of_toNat_eq
  rw [aluMul, BitVec.toNat_ofNat, BitVec.toNat_mul]

theorem computes_mulh : Computes aluMulh fun n a b => BitVec.ofInt n (a.toInt * b.toInt / 2 ^ n) := fun n hn a b => by
  rw [aluMulh, ofNat_wrapInt, sint_toNat (by omega), sint_toNat (by omega)]
  norm_cast

theorem computes_mulhu : Computes aluMulhu fun n a b => BitVec.ofNat n (a.toNat * b.toNat / 2 ^ n) := fun _ _ _ _ => rfl

/-- Zero, the least value and -1 by their signed values. -/
theorem toInt_eq_zero_iff {n : Nat} (c : BitVec n) : c.toInt = 0 ↔ c = 0 := by
  rw [← BitVec.toInt_inj, BitVec.ofNat_eq_ofNat, BitVec.toInt_zero]

theorem toInt_eq_least_iff {n : Nat} (hn : 0 < n) (c : BitVec n) : c.toInt = -(2 ^ (n - 1) : Nat) ↔ c = BitVec.intMin n := by
  rw [← BitVec.toInt_inj, BitVec.toInt_intMin, Nat.mod_eq_of_lt (Nat.pow_lt_pow_right (by decide) (by omega))]

theorem toInt_eq_neg_one_iff {n : Nat} (hn : 0 < n) (c : BitVec n) : c.toInt = -1 ↔ c = BitVec.allOnes n := by
  rw [← BitVec.toInt_inj, BitVec.toInt_allOnes, if_pos hn]

/-- Zero by its number. -/
theorem toNat_eq_zero_iff {n : Nat} (c : BitVec n) : c.toNat = 0 ↔ c = 0 := by
  rw [← BitVec.toNat_inj, BitVec.ofNat_eq_ofNat, BitVec.toNat_zero]

/-- The greatest and the least value by their numbers. -/
theorem ofNat_greatest (n : Nat) : BitVec.ofNat n (2 ^ (n - 1) - 1) = BitVec.intMax n := by
  apply BitVec.eq_of_toNat_eq
  have : 2 ^ (n - 1) ≤ 2 ^ n := Nat.pow_le_pow_right (by decide) (by omega)
  have : 0 < 2 ^ (n - 1) := by positivity
  rw [BitVec.toNat_ofNat, BitVec.toNat_intMax, Nat.mod_eq_of_lt (by omega)]

theorem ofNat_least (n : Nat) : BitVec.ofNat n (2 ^ (n - 1)) = BitVec.intMin n := by
  apply BitVec.eq_of_toNat_eq
  rw [BitVec.toNat_ofNat, BitVec.toNat_intMin]

theorem computes_div : Computes aluDiv Spec.div := fun n hn a b => by
  have h0 : 0 < n := by omega
  simp only [aluDiv, sint_toNat h0, Spec.div, toInt_eq_zero_iff, toInt_eq_least_iff h0, toInt_eq_neg_one_iff h0, apply_ite (BitVec.ofNat n),
    ofNat_greatest, ofNat_least, ofNat_wrapInt]
  rfl

theorem computes_divu : Computes aluDivu Spec.divu := fun n _ a b => by
  have h1 : BitVec.ofNat n (2 ^ n - 1) = BitVec.allOnes n :=
    BitVec.eq_of_toNat_eq (by rw [BitVec.toNat_ofNat, BitVec.toNat_allOnes, Nat.mod_eq_of_lt (Nat.sub_one_lt (by positivity))])
  simp only [aluDivu, Spec.divu, toNat_eq_zero_iff, apply_ite (BitVec.ofNat n), h1]
  rfl

theorem computes_rem : Computes aluRem Spec.rem := fun n hn a b => by
  have h0 : 0 < n := by omega
  simp only [aluRem, sint_toNat h0, Spec.rem, toInt_eq_zero_iff, apply_ite (BitVec.ofNat n), ofNat_wrapInt]
  rfl

theorem computes_remu : Computes aluRemu Spec.remu := fun n _ a b => by
  simp only [aluRemu, Spec.remu, toNat_eq_zero_iff, apply_ite (BitVec.ofNat n)]
  rfl

/-- A number of a bit vector. -/
theorem ofNat_ite {n : Nat} (c : Prop) [Decidable c] (a b : BitVec n) :
    BitVec.ofNat n (if c then a.toNat else b.toNat) = if c then a else b := by
  split <;> rw [BitVec.ofNat_toNat, BitVec.setWidth_eq]

theorem computes_min : Computes aluMin fun _ a b => if a.sle b then a else b := fun n hn a b => by
  simp only [aluMin, sint_toNat (show 0 < n by omega), ofNat_ite, BitVec.sle_iff_toInt_le]

theorem computes_max : Computes aluMax fun _ a b => if a.sle b then b else a := fun n hn a b => by
  simp only [aluMax, sint_toNat (show 0 < n by omega), ofNat_ite, BitVec.sle_iff_toInt_le]

theorem computes_minu : Computes aluMinu fun _ a b => if a.ule b then a else b := fun n _ a b => by
  simp only [aluMinu, Nat.min_def, ofNat_ite, BitVec.ule_iff_toNat_le]

theorem computes_maxu : Computes aluMaxu fun _ a b => if a.ule b then b else a := fun n _ a b => by
  simp only [aluMaxu, Nat.max_def, ofNat_ite, BitVec.ule_iff_toNat_le]

theorem computes_slt : Computes aluSlt fun n a b => Spec.truth n (a.slt b) := fun n hn a b => by
  dsimp only
  rw [aluSlt, ofNat_flagNat, sint_toNat (by omega), sint_toNat (by omega), BitVec.slt_eq_decide]

theorem computes_sltu : Computes aluSltu fun n a b => Spec.truth n (a.ult b) := fun n _ a b => by
  dsimp only
  rw [aluSltu, ofNat_flagNat, BitVec.ult_eq_decide]

theorem computes_seq : Computes aluSeq fun n a b => Spec.truth n (a == b) := fun n _ a b => by
  rw [aluSeq, ofNat_flagNat]
  congr 1
  rw [Bool.eq_iff_iff, beq_iff_eq, beq_iff_eq, BitVec.toNat_inj]

/-- An instruction of two operands. -/
theorem scalar_aluTwo {g : Nat → Nat → Nat → Nat} {f : (n : Nat) → BitVec n → BitVec n → BitVec n} (h : Computes g f) {s : State}
    {x : AluF} (hr : Ready s [x.d, x.a, x.b]) :
    scalar [x.d, x.a, x.b] (aluTwo g x) s = .next (s.wrote x.d (Spec.alu x.w32 f (s.me.x x.a) (s.me.x x.b))) := by
  rw [← aluApply_eq h]
  exact scalar_writes hr rfl

/-- Each instruction of two operands. -/
theorem aluResults : Spec.AluResults := fun _ _ h =>
  ⟨scalar_aluTwo computes_add h, scalar_aluTwo computes_sub h, scalar_aluTwo computes_and h, scalar_aluTwo computes_or h,
    scalar_aluTwo computes_xor h, scalar_aluTwo computes_shl h, scalar_aluTwo computes_shr h, scalar_aluTwo computes_sra h,
    scalar_aluTwo computes_mul h, scalar_aluTwo computes_mulh h, scalar_aluTwo computes_mulhu h, scalar_aluTwo computes_div h,
    scalar_aluTwo computes_divu h, scalar_aluTwo computes_rem h, scalar_aluTwo computes_remu h, scalar_aluTwo computes_min h,
    scalar_aluTwo computes_max h, scalar_aluTwo computes_minu h, scalar_aluTwo computes_maxu h, scalar_aluTwo computes_slt h,
    scalar_aluTwo computes_sltu h, scalar_aluTwo computes_seq h⟩

/-! ## Counts of bits (R249) -/

/-- The value of the width that the flag selects, as a number. -/
theorem low_toNat (w32 : Bool) (a : Word) : (Spec.low w32 a).2.toNat = a.toNat % 2 ^ aluWidth w32 := by
  cases w32 with
  | true => exact BitVec.toNat_setWidth _ _
  | false => exact (Nat.mod_eq_of_lt a.isLt).symm

theorem low_width (w32 : Bool) (a : Word) : (Spec.low w32 a).1 = aluWidth w32 := by cases w32 <;> rfl

/-- A count is the same number at both widths, as it has no sign. -/
theorem aluResult_count {w32 : Bool} {c : Nat} (h : c ≤ aluWidth w32) : aluResult w32 c = BitVec.ofNat 64 c := by
  cases w32 with
  | false => rfl
  | true =>
    have h : c ≤ 32 := h
    rw [aluResult, if_pos rfl, sextWord, sint, Nat.mod_eq_of_lt (by omega), if_pos (by omega)]
    rfl

/-- An instruction that counts bits. -/
theorem scalar_aluOne {f : Nat → Nat → Nat} {s : State} {x : AluUF} (h : Ready s [x.d, x.a])
    (hf : let v := Spec.low x.w32 (s.me.x x.a); f v.1 v.2.toNat ≤ v.1) : let v := Spec.low x.w32 (s.me.x x.a)
    scalar [x.d, x.a] (aluOne f x) s = .next (s.wrote x.d (BitVec.ofNat 64 (f v.1 v.2.toNat))) := by
  simp only [low_width, low_toNat] at hf ⊢
  rw [← aluResult_count hf]
  exact scalar_writes h rfl

/-- Leading zeros. -/
theorem leadingZeros_aluClz {n : Nat} (a : BitVec n) : Spec.LeadingZeros n a (aluClz n a.toNat) := by
  by_cases h : a.toNat = 0
  · rw [aluClz, if_pos h]
    refine ⟨le_rfl, fun i _ => ?_, fun hlt => absurd hlt (lt_irrefl _)⟩
    rw [BitVec.getLsbD, h, Nat.zero_testBit]
  · have hl : a.toNat.log2 < n := (Nat.log2_lt h).2 a.isLt
    rw [aluClz, if_neg h]
    refine ⟨by omega, fun i hi => Nat.testBit_lt_two_pow ((Nat.log2_lt h).1 (by omega)), fun _ => ?_⟩
    rw [BitVec.getLsbD, show n - 1 - (n - 1 - a.toNat.log2) = a.toNat.log2 by omega]
    exact Nat.testBit_log2 h

/-- Trailing zeros of a number, at most n. -/
theorem aluCtz_spec (n a : Nat) : aluCtz n a ≤ n ∧ (∀ i, i < aluCtz n a → a.testBit i = false) ∧
    (aluCtz n a < n → a.testBit (aluCtz n a) = true) := by
  induction n generalizing a with
  | zero => exact ⟨le_rfl, fun i h => absurd h (Nat.not_lt_zero i), fun h => absurd h (Nat.not_lt_zero 0)⟩
  | succ n ih =>
    obtain ⟨h1, h2, h3⟩ := ih (a / 2)
    rw [aluCtz]
    split
    · next h => exact ⟨Nat.zero_le _, fun i hi => absurd hi (Nat.not_lt_zero i), fun _ => by simp [Nat.testBit_zero, h]⟩
    · next h =>
      refine ⟨by omega, fun i hi => ?_, fun hlt => ?_⟩
      · cases i with
        | zero => simp [Nat.testBit_zero, h]
        | succ i => rw [Nat.testBit_succ]; exact h2 i (by omega)
      · rw [Nat.testBit_succ]; exact h3 (by omega)

/-- The set bits of a number below n. -/
theorem popBelow_eq (m n : Nat) : popBelow m n = ((List.range n).filter fun i => m.testBit i).length := by
  induction n with
  | zero => rfl
  | succ n ih =>
    rw [popBelow, ih, List.range_succ, List.filter_append, List.length_append, List.filter_singleton]
    cases m.testBit n <;> rfl

/-- CLZ, CTZ and POPC. -/
theorem aluCounts : Spec.AluCounts := by
  intro s x h
  refine ⟨⟨_, leadingZeros_aluClz _, scalar_aluOne h (leadingZeros_aluClz _).1⟩, ⟨_, aluCtz_spec _ _, scalar_aluOne h (aluCtz_spec _ _).1⟩, ?_⟩
  have hp := popBelow_eq (Spec.low x.w32 (s.me.x x.a)).2.toNat (Spec.low x.w32 (s.me.x x.a)).1
  have hle := (List.length_filter_le (fun i => (Spec.low x.w32 (s.me.x x.a)).2.toNat.testBit i)
    (List.range (Spec.low x.w32 (s.me.x x.a)).1)).trans_eq List.length_range
  exact (scalar_aluOne (f := aluPopc) h (hp.trans_le hle)).trans (congrArg (fun c => Host.Outcome.next (s.wrote x.d (BitVec.ofNat 64 c))) hp)

/-! ## Immediates (R250, R251) -/

/-- An instruction with a 16-bit immediate. -/
theorem scalar_aluImm {g : Nat → Nat → Nat → Nat} {f : (n : Nat) → BitVec n → BitVec n → BitVec n} (h : Computes g f) {s : State}
    {x : AluIF} (hr : Ready s [x.d, x.a]) :
    scalar [x.d, x.a] (aluImm g x) s = .next (s.wrote x.d (Spec.alu x.w32 f (s.me.x x.a) (x.imm.signExtend 64))) := by
  rw [← aluApply_eq h]
  exact scalar_writes hr rfl

/-- An instruction with a shift field: the amount is read modulo the width, so that it keeps its value at 32 bits. -/
theorem scalar_aluShift {g : Nat → Nat → Nat → Nat} {f : (n : Nat) → BitVec n → Nat → BitVec n}
    (h : Computes g fun n a b => f n a (b.toNat % n)) {s : State} {x : AluSF} (hr : Ready s [x.d, x.a]) :
    scalar [x.d, x.a] (aluShift g x) s =
      .next (s.wrote x.d (Spec.alu x.w32 (fun n a _ => f n a (x.sh.toNat % n)) (s.me.x x.a) 0)) := by
  have hs := x.sh.isLt
  have he : Spec.alu x.w32 (fun n a b => f n a (b.toNat % n)) (s.me.x x.a) (x.sh.setWidth 64) =
      Spec.alu x.w32 (fun n a _ => f n a (x.sh.toNat % n)) (s.me.x x.a) 0 := by
    simp only [Spec.alu, BitVec.toNat_setWidth]
    rw [Nat.mod_eq_of_lt (show x.sh.toNat < 2 ^ 64 by omega), Nat.mod_eq_of_lt (show x.sh.toNat < 2 ^ 32 by omega)]
  rw [← he, ← aluApply_eq h]
  exact scalar_writes hr rfl

/-- The word of LIH. -/
theorem word_lih (i : BitVec 16) (v : Word) : word (i.toNat * 2 ^ 48 + v.toNat % 2 ^ 48) = i ++ v.extractLsb' 0 48 := by
  apply BitVec.eq_of_toNat_eq
  have hi := i.isLt
  rw [word, BitVec.toNat_ofNat, BitVec.toNat_append, BitVec.extractLsb'_toNat, Nat.shiftRight_zero, Nat.shiftLeft_eq,
    Nat.mod_eq_of_lt (by omega), Nat.mul_comm, ← Nat.two_pow_add_eq_or_of_lt (Nat.mod_lt _ (by positivity))]

/-- The immediate forms, LI and LIH. -/
theorem immediateResults : Spec.ImmediateResults := fun s =>
  ⟨fun _ h => ⟨scalar_aluImm computes_add h, scalar_aluImm computes_and h, scalar_aluImm computes_or h, scalar_aluImm computes_xor h,
      scalar_aluImm computes_slt h, scalar_aluImm computes_sltu h⟩,
    fun _ h => ⟨scalar_aluShift computes_shl h, scalar_aluShift computes_shr h, scalar_aluShift computes_sra h⟩,
    fun _ h => scalar_writes h rfl,
    fun x h => by
      rw [← word_lih]
      exact scalar_writes h rfl⟩

/-- Settles O1: the ALU family by its operations on bit vectors, the counts, and the immediate forms. -/
theorem integerResults : Obligations.IntegerResults := ⟨aluResults, aluCounts, immediateResults⟩

end Sys2Proof.Machine
end

section
/-! Formats (04_formats.md): the real values of encodings, and rounding to a format (R56 to R62, R71, R72). -/
namespace Sys2Proof.Machine

open Sys2Proof

/-! ## Real values -/

/-- A real value by its sign and its magnitude. -/
theorem real_eq (neg : Bool) (m : Nat) (e : Int) : Spec.real neg m e = (if neg then -1 else 1) * Spec.real false m e := by
  simp [Spec.real]

/-- The magnitude of a real value. -/
theorem real_false (m : Nat) (e : Int) : Spec.real false m e = m * (2 : ℝ) ^ e := by simp [Spec.real]

/-- A magnitude is not negative. -/
theorem real_false_nonneg (m : Nat) (e : Int) : 0 ≤ Spec.real false m e := by rw [real_false]; positivity

/-- The magnitude of a non-zero number. -/
theorem real_false_pos {m : Nat} (h : 0 < m) (e : Int) : 0 < Spec.real false m e := by
  rw [real_false]; have : (0 : ℝ) < m := by exact_mod_cast h
  positivity

/-- The absolute value of a real value is its magnitude. -/
theorem abs_real (neg : Bool) (m : Nat) (e : Int) : |Spec.real neg m e| = Spec.real false m e := by
  rw [real_eq, abs_mul, abs_of_nonneg (real_false_nonneg m e)]
  cases neg <;> simp

/-- Powers of two of a difference that is not negative. -/
theorem two_pow_toNat {a b : Int} (h : b ≤ a) : (((2 ^ (a - b).toNat : Nat) : ℝ)) * (2 : ℝ) ^ b = (2 : ℝ) ^ a := by
  rw [Nat.cast_pow, Nat.cast_ofNat, ← zpow_natCast, Int.toNat_of_nonneg (by omega), ← zpow_add₀ two_ne_zero, sub_add_cancel]

/-- A magnitude in smaller units. -/
theorem scaled_real {m : Nat} {e k : Int} (h : k ≤ e) : ((m * 2 ^ (e - k).toNat : Nat) : ℝ) * (2 : ℝ) ^ k = m * (2 : ℝ) ^ e := by
  rw [Nat.cast_mul, mul_assoc, two_pow_toNat h]

/-- The signed multiple of 2^k that a real value is. -/
theorem signedAt_real (n : Bool) (m : Nat) {e k : Int} (h : k ≤ e) : (signedAt n m e k : ℝ) * (2 : ℝ) ^ k = Spec.real n m e := by
  rw [real_eq, real_false, ← scaled_real h, signedAt]
  cases n <;> simp

/-- An exact value from a signed multiple of 2^k: the same real value, and a zero takes the sign given. -/
theorem ofSigned_real (i k : Int) (z : Bool) : ∃ n m e, ofSigned i k z = .fin n m e ∧ Spec.real n m e = i * (2 : ℝ) ^ k ∧ (m = 0 → n = z) := by
  unfold ofSigned
  split
  · next h => exact ⟨z, 0, 0, rfl, by simp [Spec.real, h], fun _ => rfl⟩
  · next h =>
    refine ⟨_, _, _, rfl, ?_, fun h0 => absurd (Int.natAbs_eq_zero.1 h0) h⟩
    rw [real_eq, real_false, ← mul_assoc]
    congr 1
    by_cases hi : i < 0
    · rw [decide_eq_true hi, if_pos rfl, Nat.cast_natAbs, abs_of_neg hi]; push_cast; ring
    · rw [decide_eq_false hi, if_neg Bool.false_ne_true, one_mul, Nat.cast_natAbs, abs_of_nonneg (not_lt.1 hi)]

/-- Two multiples of units compare as their real values do. -/
theorem compare_scaled {a b : Int} {x y : ℝ} {k : Int} (ha : (a : ℝ) * (2 : ℝ) ^ k = x) (hb : (b : ℝ) * (2 : ℝ) ^ k = y) :
    (compare a b = .lt ↔ x < y) ∧ (compare a b = .eq ↔ x = y) ∧ (compare a b = .gt ↔ y < x) := by
  have h2 : (0 : ℝ) < (2 : ℝ) ^ k := by positivity
  subst ha hb
  rw [compare_lt_iff_lt, compare_eq_iff_eq, compare_gt_iff_gt, mul_lt_mul_iff_left₀ h2, mul_lt_mul_iff_left₀ h2, mul_left_inj' h2.ne',
    Int.cast_lt, Int.cast_inj, Int.cast_lt]
  exact ⟨Iff.rfl, Iff.rfl, Iff.rfl⟩

/-- The order of finite values is that of the reals. -/
theorem cmpVal_fin (n1 n2 : Bool) (m1 m2 : Nat) (e1 e2 : Int) :
    (cmpVal (.fin n1 m1 e1) (.fin n2 m2 e2) = .lt ↔ Spec.real n1 m1 e1 < Spec.real n2 m2 e2) ∧
    (cmpVal (.fin n1 m1 e1) (.fin n2 m2 e2) = .eq ↔ Spec.real n1 m1 e1 = Spec.real n2 m2 e2) ∧
    (cmpVal (.fin n1 m1 e1) (.fin n2 m2 e2) = .gt ↔ Spec.real n2 m2 e2 < Spec.real n1 m1 e1) :=
  compare_scaled (signedAt_real n1 m1 (min_le_left e1 e2)) (signedAt_real n2 m2 (min_le_right e1 e2))

/-- The order of exact magnitudes is that of the reals. -/
theorem cmpExact_real (a : Nat) (i : Int) (b : Nat) (j : Int) :
    (cmpExact a i b j = .lt ↔ (a : ℝ) * (2 : ℝ) ^ i < b * (2 : ℝ) ^ j) ∧ (cmpExact a i b j = .gt ↔ (b : ℝ) * (2 : ℝ) ^ j < a * (2 : ℝ) ^ i) := by
  have h2 : (0 : ℝ) < (2 : ℝ) ^ min i j := by positivity
  rw [← scaled_real (min_le_left i j), ← scaled_real (min_le_right i j), mul_lt_mul_iff_left₀ h2, mul_lt_mul_iff_left₀ h2, Nat.cast_lt,
    Nat.cast_lt]
  exact ⟨compare_lt_iff_lt, compare_gt_iff_gt⟩

/-! ## Sums and products (R252, R253) -/

/-- The exact sum of two finite values. -/
theorem add_fin (mode : Mode) (n1 n2 : Bool) (m1 m2 : Nat) (e1 e2 : Int) :
    ∃ n m e, Val.add mode (.fin n1 m1 e1) (.fin n2 m2 e2) = (.fin n m e, 0) ∧
      Spec.real n m e = Spec.real n1 m1 e1 + Spec.real n2 m2 e2 ∧ (m = 0 → n = if n1 = n2 then n1 else decide (mode = .rdn)) := by
  obtain ⟨n, m, e, h, hr, hz⟩ := ofSigned_real (signedAt n1 m1 e1 (min e1 e2) + signedAt n2 m2 e2 (min e1 e2)) (min e1 e2) (zeroSumNeg mode n1 n2)
  refine ⟨n, m, e, congrArg (·, 0) h, ?_, fun h0 => (hz h0).trans ?_⟩
  · rw [hr, Int.cast_add, add_mul, signedAt_real _ _ (min_le_left _ _), signedAt_real _ _ (min_le_right _ _)]
  · unfold zeroSumNeg; split <;> [rfl; (cases mode <;> rfl)]

/-- The exact product of two finite values. -/
theorem real_mul (n1 n2 : Bool) (m1 m2 : Nat) (e1 e2 : Int) :
    Spec.real (n1 != n2) (m1 * m2) (e1 + e2) = Spec.real n1 m1 e1 * Spec.real n2 m2 e2 := by
  have h : (2 : ℝ) ^ (e1 + e2) = 2 ^ e1 * 2 ^ e2 := zpow_add₀ two_ne_zero e1 e2
  cases n1 <;> cases n2 <;> simp [Spec.real, h] <;> ring

theorem sumsAndProductsAreExact : Spec.SumsAndProductsAreExact := by
  intro f mode sat n1 n2 n3 m1 m2 m3 e1 e2 e3
  refine ⟨?_, ⟨n1 != n2, m1 * m2, e1 + e2, real_mul _ _ _ _ _ _, rfl, ?_⟩, ?_⟩
  · obtain ⟨n, m, e, h, hr, hz⟩ := add_fin mode n1 n2 m1 m2 e1 e2
    exact ⟨n, m, e, hr, by simp [fAdd, h], hz⟩
  · simp [fMul, Val.mul]
  · obtain ⟨n, m, e, h, hr, hz⟩ := add_fin mode (n1 != n2) n3 (m1 * m2) m3 (e1 + e2) e3
    exact ⟨n, m, e, by rw [hr, real_mul], by simp [fFma, Val.mul, h], fun h0 => (hz h0).trans (by split <;> simp_all)⟩

/-- Rounding a NaN to FP32. -/
theorem round_fp32_nan (mode : Mode) (sat : Bool) : fmtFp32.round mode sat .nan = (fmtFp32.nanBits, 0) := rfl

/-- A NaN operand of a sum. -/
theorem add_nan_left (mode : Mode) (a : Val) : Val.add mode .nan a = (.nan, 0) := rfl

theorem add_nan_right (mode : Mode) (a : Val) : Val.add mode a .nan = (.nan, 0) := by cases a <;> rfl

/-- A NaN operand of a product. -/
theorem mul_nan_left (a : Val) : Val.mul .nan a = (.nan, 0) := rfl

theorem mul_nan_right (a : Val) : Val.mul a .nan = (.nan, 0) := by cases a <;> rfl

/-- Opposite infinities have no sum. -/
theorem add_inf_inf (mode : Mode) (p : Bool) : Val.add mode (.inf p) (.inf (!p)) = (.nan, fNV) := by cases p <;> rfl

/-- An infinity and a zero have no product. -/
theorem mul_inf_zero (p q : Bool) (e : Int) : Val.mul (.inf p) (.fin q 0 e) = (.nan, fNV) ∧ Val.mul (.fin q 0 e) (.inf p) = (.nan, fNV) :=
  ⟨rfl, rfl⟩

/-- A quotient with a NaN. -/
theorem fDiv_nan (f : Fmt) (mode : Mode) (sat : Bool) (a : Val) :
    fDiv f mode sat .nan a = (f.nanBits, 0) ∧ fDiv f mode sat a .nan = (f.nanBits, 0) := by cases a <;> exact ⟨rfl, rfl⟩

/-- NaNs, infinities and zeros where an operation has no result. -/
theorem specialOperands : Spec.SpecialOperands := by
  intro mode a c p q m e e2 hm
  have hm : m ≠ 0 := by omega
  refine ⟨rfl, ?_, ?_, ?_, ?_, (fDiv_nan _ _ _ a).1, (fDiv_nan _ _ _ a).2, rfl, ?_, ?_, ?_, ?_, rfl, ?_, ?_, ?_, ?_, ?_⟩
  · simp [fAdd, add_nan_left, round_fp32_nan]
  · simp [fAdd, add_nan_right, round_fp32_nan]
  · simp [fMul, mul_nan_left, round_fp32_nan]
  · simp [fMul, mul_nan_right, round_fp32_nan]
  · simp [fAdd, add_inf_inf, round_fp32_nan]
  · simp [fMul, mul_inf_zero, round_fp32_nan]
  · simp [fMul, mul_inf_zero, round_fp32_nan]
  · simp [fDiv]
  · simp [fDiv, hm]
  · simp [fSqrt, hm]
  · rfl
  · simp [fFma, mul_inf_zero, add_nan_left, round_fp32_nan]
  · simp [fFma, mul_inf_zero, add_nan_left, round_fp32_nan]

/-- Settles O4: exact sums and products before one rounding, and the special operands. -/
theorem sumsProductsAndSpecials : Obligations.SumsProductsAndSpecials := ⟨sumsAndProductsAreExact, specialOperands⟩

end Sys2Proof.Machine
end

section
/-! Formats (04_formats.md): the encodings of a format in the order of their magnitudes, and rounding to the nearest or the next of
them (R57, R58, R61, R71, R72). -/
namespace Sys2Proof.Machine

open Sys2Proof

/-! ## Rounding a real to an integer -/

/-- k is x rounded to an integer in a mode; `neg` says that x is the magnitude of a negative number. -/
def IsRounded (mode : Mode) (neg : Bool) (x : ℝ) (k : Nat) : Prop :=
  match mode with
  | .rne => |x - k| ≤ 1 / 2 ∧ (|x - k| = 1 / 2 → k % 2 = 0)
  | .rtz => k ≤ x ∧ x < k + 1
  | .rdn => if neg then x ≤ k ∧ k < x + 1 else k ≤ x ∧ x < k + 1
  | .rup => if neg then k ≤ x ∧ x < k + 1 else x ≤ k ∧ k < x + 1

/-- A rounded number is less than one away. -/
theorem IsRounded.near {mode : Mode} {neg : Bool} {x : ℝ} {k : Nat} (h : IsRounded mode neg x k) : |x - k| < 1 := by
  rw [abs_lt]
  cases mode with
  | rne => have := abs_le.1 h.1; constructor <;> linarith
  | rtz => obtain ⟨h1, h2⟩ := h; constructor <;> linarith
  | rdn => cases neg <;> (obtain ⟨h1, h2⟩ := h; constructor <;> linarith)
  | rup => cases neg <;> (obtain ⟨h1, h2⟩ := h; constructor <;> linarith)

/-- An integer at most x is at most the rounded number. -/
theorem IsRounded.le_of_le {mode : Mode} {neg : Bool} {x : ℝ} {k : Nat} (h : IsRounded mode neg x k) {j : Nat} (hj : (j : ℝ) ≤ x) : j ≤ k := by
  have := (abs_lt.1 h.near).2
  have : (j : ℝ) < ((k + 1 : Nat) : ℝ) := by push_cast; linarith
  exact Nat.lt_succ_iff.1 (Nat.cast_lt.1 this)

/-- An integer at least x is at least the rounded number. -/
theorem IsRounded.ge_of_ge {mode : Mode} {neg : Bool} {x : ℝ} {k : Nat} (h : IsRounded mode neg x k) {j : Nat} (hj : x ≤ j) : k ≤ j := by
  have := (abs_lt.1 h.near).1
  have : (k : ℝ) < ((j + 1 : Nat) : ℝ) := by push_cast; linarith
  exact Nat.lt_succ_iff.1 (Nat.cast_lt.1 this)

/-- A rounded number is one of the two integers around x, by the fraction of x. -/
theorem isRounded_of_fraction {mode : Mode} {neg up : Bool} {x r : ℝ} {q : Nat} (hx : x = q + r) (h0 : 0 ≤ r) (h1 : r < 1)
    (hu : up = match mode with
      | .rne => decide (1 / 2 < r) || (decide (r = 1 / 2) && q % 2 == 1)
      | .rtz => false
      | .rdn => neg && decide (r ≠ 0)
      | .rup => !neg && decide (r ≠ 0)) : IsRounded mode neg x (if up then q + 1 else q) := by
  subst hx hu
  cases mode with
  | rtz => exact ⟨by simpa using h0, by simpa using h1⟩
  | rne =>
    by_cases h2 : 1 / 2 < r
    · simp only [IsRounded, h2, decide_true, Bool.true_or, if_true]
      rw [abs_of_nonpos (by push_cast; linarith)]
      exact ⟨by push_cast; linarith, fun he => by push_cast at he; linarith⟩
    · by_cases h3 : r = 1 / 2
      · subst h3
        by_cases h4 : q % 2 = 1
        · simp only [IsRounded, h4, lt_self_iff_false, decide_false, decide_true, Bool.false_or, beq_self_eq_true, Bool.true_and, if_true]
          rw [abs_of_nonpos (by push_cast; linarith)]
          exact ⟨by push_cast; linarith, fun _ => by omega⟩
        · have : (q % 2 == 1) = false := by simpa using h4
          simp only [IsRounded, this, lt_self_iff_false, decide_false, Bool.and_false, Bool.or_false, Bool.false_eq_true, if_false]
          rw [abs_of_nonneg (by linarith)]
          exact ⟨by linarith, fun _ => by omega⟩
      · simp only [IsRounded, h2, h3, decide_false, Bool.false_and, Bool.or_false, Bool.false_eq_true, if_false]
        rw [abs_of_nonneg (by linarith)]
        have : r < 1 / 2 := lt_of_le_of_ne (not_lt.1 h2) h3
        exact ⟨by linarith, fun he => by linarith⟩
  | rdn =>
    cases neg with
    | false => exact ⟨by simpa using h0, by simpa using h1⟩
    | true =>
      by_cases hr : r = 0
      · subst hr; exact ⟨by simp, by simp⟩
      · have : 0 < r := lt_of_le_of_ne h0 (Ne.symm hr)
        simp only [IsRounded, hr, Bool.true_and, ne_eq, not_false_eq_true, decide_true, if_true]
        exact ⟨by push_cast; linarith, by push_cast; linarith⟩
  | rup =>
    cases neg with
    | true => exact ⟨by simpa using h0, by simpa using h1⟩
    | false =>
      by_cases hr : r = 0
      · subst hr; exact ⟨by simp, by simp⟩
      · have : 0 < r := lt_of_le_of_ne h0 (Ne.symm hr)
        simp only [IsRounded, hr, Bool.not_false, Bool.true_and, ne_eq, not_false_eq_true, decide_true, if_true, Bool.false_eq_true, if_false]
        exact ⟨by push_cast; linarith, by push_cast; linarith⟩

/-- A magnitude q that m × 2^e stands for: exactly, or, where `sticky`, with a little more. -/
structure StandsFor (m : Nat) (e : Int) (sticky : Bool) (q : ℝ) : Prop where
  exact : sticky = false → q = m * (2 : ℝ) ^ e
  above : sticky = true → m * (2 : ℝ) ^ e < q ∧ q < (m + 1) * (2 : ℝ) ^ e

/-- Halves of a power of two. -/
theorem half_iff {sh : Nat} (hp : (0 : ℝ) < 2 ^ (sh + 1)) (r : ℝ) : (1 / 2 < r / 2 ^ (sh + 1) ↔ 2 ^ sh < r) ∧ (r / 2 ^ (sh + 1) = 1 / 2 ↔ r = 2 ^ sh) := by
  have h : (2 : ℝ) ^ (sh + 1) = 2 * 2 ^ sh := pow_succ' 2 sh
  rw [lt_div_iff₀ hp, div_eq_iff hp.ne', h]
  constructor <;> constructor <;> intro <;> linarith

/-- Rounding to a multiple of 2^u: the multiple is rounded, and inexactness is that of the multiple. -/
theorem roundTo_isRounded {mode : Mode} {neg : Bool} {m : Nat} {e : Int} {sticky : Bool} {u : Int} {q : ℝ} (h : StandsFor m e sticky q)
    (hs : sticky = true → e < u) : IsRounded mode neg (q / (2 : ℝ) ^ u) (roundTo mode neg m e sticky u).1 ∧
      ((roundTo mode neg m e sticky u).2 = true ↔ q ≠ (roundTo mode neg m e sticky u).1 * (2 : ℝ) ^ u) := by
  have h2 : (0 : ℝ) < (2 : ℝ) ^ u := by positivity
  by_cases hu : u ≤ e
  · have hst : sticky = false := by
      cases sticky with
      | false => rfl
      | true => exact absurd (hs rfl) (by omega)
    have hq : q = ((m * 2 ^ (e - u).toNat : Nat) : ℝ) * (2 : ℝ) ^ u := by rw [scaled_real hu]; exact h.exact hst
    simp only [roundTo, hu, if_true, hst]
    refine ⟨?_, by simpa using hq⟩
    have : q / (2 : ℝ) ^ u = ((m * 2 ^ (e - u).toNat : Nat) : ℝ) + 0 := by rw [hq, add_zero, mul_div_cancel_right₀ _ h2.ne']
    have := isRounded_of_fraction (mode := mode) (neg := neg) (up := false) this le_rfl one_pos (by cases mode <;> simp)
    exact this
  · have he : (0 : ℝ) < (2 : ℝ) ^ e := by positivity
    obtain ⟨sh, hsh⟩ : ∃ sh : Nat, (u - e).toNat = sh + 1 := ⟨(u - e).toNat - 1, by omega⟩
    have hpu : (2 : ℝ) ^ u = (2 : ℝ) ^ (sh + 1) * (2 : ℝ) ^ e := by
      rw [← two_pow_toNat (le_of_not_ge hu : e ≤ u), hsh, Nat.cast_pow, Nat.cast_ofNat]
    have hp : (0 : ℝ) < (2 : ℝ) ^ (sh + 1) := by positivity
    -- the part of q below m, in units of 2^e
    obtain ⟨t, ht⟩ : ∃ t : ℝ, q = (m + t) * (2 : ℝ) ^ e := ⟨q / (2 : ℝ) ^ e - m, by field_simp; ring⟩
    have ht0 : 0 ≤ t ∧ t < 1 ∧ (t = 0 ↔ sticky = false) := by
      cases sticky with
      | false =>
        have := h.exact rfl
        rw [ht, mul_left_inj' he.ne'] at this
        have : t = 0 := by linarith
        simp [this]
      | true =>
        obtain ⟨h1, h2⟩ := h.above rfl
        rw [ht, mul_lt_mul_iff_left₀ he] at h1 h2
        exact ⟨by linarith, by linarith, by simp; intro h; linarith⟩
    obtain ⟨t0, t1, tz⟩ := ht0
    have hlt : m % 2 ^ (sh + 1) < 2 ^ (sh + 1) := Nat.mod_lt _ (by positivity)
    have hdm : ((2 ^ (sh + 1) : Nat) : ℝ) * ((m / 2 ^ (sh + 1) : Nat) : ℝ) + ((m % 2 ^ (sh + 1) : Nat) : ℝ) = m := by
      exact_mod_cast Nat.div_add_mod m (2 ^ (sh + 1))
    have hnz : (decide (m % 2 ^ (sh + 1) ≠ 0) || sticky) = decide (((m % 2 ^ (sh + 1) : Nat) : ℝ) + t ≠ 0) := by
      have hr0 : (0 : ℝ) ≤ ((m % 2 ^ (sh + 1) : Nat) : ℝ) := Nat.cast_nonneg _
      rw [Bool.eq_iff_iff]
      simp only [ne_eq, Bool.or_eq_true, decide_eq_true_eq]
      rw [add_eq_zero_iff_of_nonneg hr0 t0, tz, Nat.cast_eq_zero]
      cases sticky <;> simp
    have hpn : ((2 ^ (sh + 1) : Nat) : ℝ) = (2 : ℝ) ^ (sh + 1) := by push_cast; rfl
    rw [hpn] at hdm
    simp only [roundTo, hu, if_false, hsh]
    generalize hq : m / 2 ^ (sh + 1) = k at *
    generalize hr : m % 2 ^ (sh + 1) = rem at *
    have hremlt : (rem : ℝ) + 1 ≤ (2 : ℝ) ^ (sh + 1) := by rw [← hpn]; exact_mod_cast hlt
    have hfrac : q / (2 : ℝ) ^ u = k + (rem + t) / (2 : ℝ) ^ (sh + 1) := by
      rw [ht, hpu, ← hdm]; field_simp; ring
    have hz : (rem + t) / (2 : ℝ) ^ (sh + 1) = 0 ↔ (rem : ℝ) + t = 0 := by simp [hp.ne']
    have hr0 : (0 : ℝ) ≤ rem := Nat.cast_nonneg _
    have hrounded : IsRounded mode neg (q / (2 : ℝ) ^ u) (if roundsUp mode neg k rem (sh + 1) sticky then k + 1 else k) := by
      refine isRounded_of_fraction hfrac (by positivity) (by rw [div_lt_one hp]; linarith) ?_
      unfold roundsUp
      cases mode with
      | rtz => rfl
      | rdn => simp only [hnz, ne_eq, hz]
      | rup => simp only [hnz, ne_eq, hz]
      | rne =>
        obtain ⟨g1, g2⟩ := half_iff hp (rem + t)
        have hP : (2 : Nat) ^ (sh + 1) = 2 * 2 ^ sh := pow_succ' 2 sh
        simp only [g1, g2, hP]
        rcases lt_trichotomy rem (2 ^ sh) with hc | hc | hc
        · have : (rem : ℝ) + 1 ≤ 2 ^ sh := by exact_mod_cast hc
          rw [decide_eq_false (by omega), decide_eq_false (by linarith), decide_eq_false (by linarith)]
          simp [show 2 * rem ≠ 2 * 2 ^ sh by omega]
        · have hc' : (rem : ℝ) = 2 ^ sh := by exact_mod_cast hc
          cases sticky with
          | false =>
            have : t = 0 := tz.2 rfl
            simp [hc, this]
          | true =>
            have : 0 < t := lt_of_le_of_ne t0 fun h0 => by simpa using tz.1 h0.symm
            simp [hc, this]
        · have : (2 : ℝ) ^ sh + 1 ≤ rem := by exact_mod_cast hc
          rw [decide_eq_true (by omega), decide_eq_true (by linarith)]
          simp
    refine ⟨hrounded, ?_⟩
    rw [hnz, decide_eq_true_iff, not_iff_not, ← hz]
    constructor
    · intro h0
      rw [h0, add_zero] at hfrac
      rw [hfrac] at hrounded
      have : (if roundsUp mode neg k rem (sh + 1) sticky then k + 1 else k) = k := le_antisymm (hrounded.ge_of_ge le_rfl) (hrounded.le_of_le le_rfl)
      rw [this, ← hfrac, div_mul_cancel₀ _ h2.ne']
    · intro h0
      rw [← div_eq_iff h2.ne', hfrac] at h0
      have : (rem + t) / (2 : ℝ) ^ (sh + 1) < 1 := by rw [div_lt_one hp]; linarith
      split at h0
      · push_cast at h0; linarith
      · linarith

/-! ## The encodings of a format -/

/-- The significand of the encoding u without its sign. -/
def Fmt.mant (f : Fmt) (u : Nat) : Nat := if u < 2 ^ f.fbits then u else 2 ^ f.fbits + u % 2 ^ f.fbits

/-- The exponent of its unit. -/
def Fmt.expo (f : Fmt) (u : Nat) : Int := (max (u / 2 ^ f.fbits) 1 : Nat) - f.bias - f.fbits

/-- The magnitude of the encoding u. -/
noncomputable def Fmt.mag (f : Fmt) (u : Nat) : ℝ := f.mant u * (2 : ℝ) ^ f.expo u

/-- The encoding of the largest finite value, without its sign. -/
def Fmt.top (f : Fmt) : Nat := (f.maxE + f.fbits + f.bias).toNat * 2 ^ f.fbits + (f.maxM - 2 ^ f.fbits)

/-- A format whose finite encodings are those up to the largest value, and whose special encodings lie above it (R57, R58, R61). -/
structure Fmt.Sound (f : Fmt) : Prop where
  fbits : 0 < f.fbits
  maxLow : 2 ^ f.fbits ≤ f.maxM
  maxHigh : f.maxM < 2 ^ (f.fbits + 1)
  maxExp : f.emin - f.fbits ≤ f.maxE
  top : f.top < 2 ^ (f.ebits + f.fbits)
  infinities : f.hasInf = true → f.top + 1 = (2 ^ f.ebits - 1) * 2 ^ f.fbits
  nan : f.hasInf = false → f.nan.isSome = true → f.top + 2 = 2 ^ (f.ebits + f.fbits)
  full : f.hasInf = false → f.nan.isSome = false → f.top + 1 = 2 ^ (f.ebits + f.fbits)

/-- The formats with exponent and fraction are sound. -/
theorem sound_of_mem {f : Fmt} (h : f ∈ Spec.formats) : f.Sound := by
  simp only [Spec.formats, List.mem_cons, List.not_mem_nil, or_false] at h
  rcases h with rfl | rfl | rfl | rfl | rfl | rfl | rfl | rfl | rfl <;> constructor <;> decide

/-- The next encoding is one unit above. -/
theorem mag_succ (f : Fmt) (u : Nat) : f.mag (u + 1) = f.mag u + (2 : ℝ) ^ f.expo u := by
  have hp : 0 < 2 ^ f.fbits := by positivity
  have hdm := Nat.div_add_mod u (2 ^ f.fbits)
  have hml := Nat.mod_lt u hp
  unfold Fmt.mag Fmt.mant Fmt.expo
  generalize hP : 2 ^ f.fbits = P at *
  by_cases hlast : u % P + 1 = P
  · have h1 : (u + 1) / P = u / P + 1 := by
      rw [show u + 1 = P * (u / P + 1) by rw [mul_add, mul_one]; omega, Nat.mul_div_cancel_left _ hp]
    have h2 : (u + 1) % P = 0 := by rw [show u + 1 = P * (u / P + 1) by rw [mul_add, mul_one]; omega, Nat.mul_mod_right]
    rw [h1, h2, if_neg fun h => by have := Nat.div_eq_of_lt h; omega]
    have hPr : (1 : ℝ) ≤ P := by exact_mod_cast hp
    by_cases hu : u < P
    · rw [if_pos hu, Nat.div_eq_of_lt hu, show u = P - 1 by rw [Nat.mod_eq_of_lt hu] at hlast; omega]
      push_cast [Nat.cast_sub (show 1 ≤ P from hp)]
      simp only [add_zero, max_self, zero_le_one, max_eq_right]
      ring
    · have h3 : 1 ≤ u / P := (Nat.one_le_div_iff hp).2 (not_lt.1 hu)
      rw [if_neg hu, max_eq_left (by omega), max_eq_left h3, show u % P = P - 1 by omega,
        show ((u / P + 1 : Nat) : Int) - f.bias - f.fbits = ((u / P : Nat) : Int) - f.bias - f.fbits + 1 by push_cast; ring, zpow_add_one₀ two_ne_zero]
      push_cast [Nat.cast_sub (show 1 ≤ P from hp)]
      ring
  · have h1 : (u + 1) / P = u / P := by
      conv_lhs => rw [← hdm, add_assoc, Nat.mul_add_div hp, Nat.div_eq_of_lt (show u % P + 1 < P by omega), add_zero]
    have h2 : (u + 1) % P = u % P + 1 := by
      conv_lhs => rw [← hdm, add_assoc, Nat.mul_add_mod, Nat.mod_eq_of_lt (show u % P + 1 < P by omega)]
    rw [h1, h2]
    by_cases hu : u < P
    · have hu' : u + 1 < P := by rw [Nat.mod_eq_of_lt hu] at hlast; omega
      rw [if_pos hu, if_pos hu']; push_cast; ring
    · rw [if_neg hu, if_neg fun h => hu (by omega)]; push_cast; ring

/-- Encodings rise with their magnitudes. -/
theorem mag_strictMono (f : Fmt) : StrictMono f.mag :=
  strictMono_nat_of_lt_succ fun u => by rw [mag_succ]; have : (0 : ℝ) < (2 : ℝ) ^ f.expo u := by positivity
                                        linarith

/-- The encoding zero. -/
theorem mag_zero (f : Fmt) : f.mag 0 = 0 := by simp [Fmt.mag, Fmt.mant]

/-- A significand has at most one bit more than the fraction. -/
theorem mant_lt (f : Fmt) (u : Nat) : f.mant u < 2 ^ (f.fbits + 1) := by
  have := Nat.mod_lt u (show 0 < 2 ^ f.fbits by positivity)
  rw [Fmt.mant, pow_succ]; split <;> omega

/-- The units of encodings. -/
theorem expo_ge (f : Fmt) (u : Nat) : f.emin - f.fbits ≤ f.expo u := by
  unfold Fmt.expo Fmt.emin; omega

/-- What an encoding decodes to, by its sign and the rest. -/
theorem decode_eq {f : Fmt} (hf : f.Sound) (b : Nat) :
    let u := b % 2 ^ (f.ebits + f.fbits)
    (u ≤ f.top → f.decode b = .fin (b.testBit (f.ebits + f.fbits)) (f.mant u) (f.expo u)) ∧
    (f.top < u → ∀ n m e, f.decode b ≠ .fin n m e) := by
  have hE : 0 < 2 ^ f.ebits := by positivity
  have hP : 0 < 2 ^ f.fbits := by positivity
  have hx : b / 2 ^ f.fbits % 2 ^ f.ebits = b % 2 ^ (f.ebits + f.fbits) / 2 ^ f.fbits := by
    rw [add_comm, pow_add, Nat.mod_mul_right_div_self]
  have hr : b % 2 ^ f.fbits = b % 2 ^ (f.ebits + f.fbits) % 2 ^ f.fbits := by
    rw [Nat.mod_mod_of_dvd _ (pow_dvd_pow 2 (Nat.le_add_left _ _))]
  have hu : b % 2 ^ (f.ebits + f.fbits) < 2 ^ (f.ebits + f.fbits) := Nat.mod_lt _ (by positivity)
  have ht := hf.top
  have h1 := hf.infinities
  have h2 := hf.nan
  have h3 := hf.full
  have hex : f.emin - f.fbits = (1 : Nat) - f.bias - f.fbits := by unfold Fmt.emin; push_cast; ring
  simp only [Fmt.decode, hx, hr, Fmt.mant, Fmt.expo, hex]
  rw [pow_add] at hu ht h2 h3 ⊢
  generalize hu' : b % (2 ^ f.ebits * 2 ^ f.fbits) = u at *
  generalize 2 ^ f.ebits = E at *
  generalize 2 ^ f.fbits = P at *
  have hdm := Nat.div_add_mod u P
  have hml := Nat.mod_lt u hP
  have hdl : u / P < E := Nat.div_lt_of_lt_mul (by rwa [mul_comm] at hu)
  -- the finite part of the definition
  have hfin : (if u / P = 0 then Val.fin (b.testBit (f.ebits + f.fbits)) (u % P) ((1 : Nat) - f.bias - f.fbits)
      else .fin (b.testBit (f.ebits + f.fbits)) (P + u % P) (((u / P : Nat) : Int) - f.bias - f.fbits)) =
      .fin (b.testBit (f.ebits + f.fbits)) (if u < P then u else P + u % P) ((max (u / P) 1 : Nat) - f.bias - f.fbits) := by
    by_cases hlt : u < P
    · rw [if_pos (Nat.div_eq_of_lt hlt), if_pos hlt, Nat.mod_eq_of_lt hlt, Nat.div_eq_of_lt hlt]; rfl
    · have : 1 ≤ u / P := (Nat.one_le_div_iff hP).2 (not_lt.1 hlt)
      rw [if_neg (by omega), if_neg hlt, max_eq_left this]
  rw [hfin]
  cases hi : f.hasInf with
  | true =>
    have h1 := h1 hi
    have hc : u < (E - 1) * P ↔ u / P < E - 1 := (Nat.div_lt_iff_lt_mul hP).symm
    refine ⟨fun h => ?_, fun h n m e => ?_⟩
    · have : u / P ≠ E - 1 := (hc.1 (by omega)).ne
      simp [this]
    · have : u / P = E - 1 := by have := mt hc.2 (by omega); omega
      simp only [this, beq_self_eq_true, Bool.and_self, if_true]
      split <;> exact fun h => by cases h
  | false =>
    cases hn : f.nan.isSome with
    | true =>
      have h2 := h2 hi hn
      refine ⟨fun h => ?_, fun h n m e => ?_⟩
      · have : ¬ (u / P = E - 1 ∧ u % P = P - 1) := by
          rintro ⟨a1, a2⟩
          rw [a1, a2, Nat.mul_sub_one, mul_comm] at hdm
          have : P ≤ E * P := Nat.le_mul_of_pos_left P hE
          omega
        simp only [Bool.false_and, Bool.false_eq_true, if_false, Bool.not_false, Bool.true_and, Bool.and_eq_true, beq_iff_eq, this]
      · have : u / P = E - 1 ∧ u % P = P - 1 := by
          have hu1 : u = (E - 1) * P + (P - 1) := by
            rw [Nat.sub_one_mul]
            have : P ≤ E * P := Nat.le_mul_of_pos_left P hE
            omega
          rw [hu1, mul_comm]
          exact ⟨by rw [Nat.mul_add_div hP, Nat.div_eq_of_lt (by omega), add_zero], by rw [Nat.mul_add_mod, Nat.mod_eq_of_lt (by omega)]⟩
        simp only [this, Bool.false_and, Bool.false_eq_true, if_false, Bool.not_false, Bool.true_and, beq_self_eq_true, if_true]
        exact fun h => by cases h
    | false =>
      have h3 := h3 hi hn
      exact ⟨fun _ => by simp, fun h => absurd hu (by omega)⟩

/-- The real values that encodings have. -/
theorem encodes_iff {f : Fmt} (hf : f.Sound) (b : Nat) (w : ℝ) : Spec.Encodes f b w ↔ b < 2 ^ f.width ∧ b % 2 ^ (f.ebits + f.fbits) ≤ f.top ∧
    w = (if b.testBit (f.ebits + f.fbits) then -1 else 1) * f.mag (b % 2 ^ (f.ebits + f.fbits)) := by
  obtain ⟨hfin, hspecial⟩ := decode_eq hf b
  refine and_congr_right fun _ => ⟨?_, ?_⟩
  · rintro ⟨n, m, e, hd, rfl⟩
    have hle : b % 2 ^ (f.ebits + f.fbits) ≤ f.top := le_of_not_gt fun h => hspecial h n m e hd
    refine ⟨hle, ?_⟩
    rw [hfin hle] at hd
    cases hd
    rw [real_eq, real_false]; rfl
  · rintro ⟨hle, rfl⟩
    exact ⟨_, _, _, hfin hle, by rw [real_eq, real_false]; rfl⟩

/-- An encoding from its sign and the rest. -/
theorem signed_encoding {f : Fmt} {u : Nat} (hu : u < 2 ^ (f.ebits + f.fbits)) (neg : Bool) :
    let b := (if neg then 2 ^ (f.ebits + f.fbits) else 0) + u
    b < 2 ^ f.width ∧ b % 2 ^ (f.ebits + f.fbits) = u ∧ b.testBit (f.ebits + f.fbits) = neg := by
  have hw : 2 ^ f.width = 2 * 2 ^ (f.ebits + f.fbits) := by rw [Fmt.width, ← pow_succ']; congr 1; omega
  rw [hw]
  cases neg with
  | false => exact ⟨by simp; omega, by simp [Nat.mod_eq_of_lt hu], by simp [Nat.testBit_lt_two_pow hu]⟩
  | true => exact ⟨by simp; omega, by simp [Nat.mod_eq_of_lt hu], by simp [Nat.testBit_two_pow_add_eq, Nat.testBit_lt_two_pow hu]⟩

/-- The place of k × 2^v among the encodings. -/
def Fmt.place (f : Fmt) (k : Nat) (v : Int) : Nat :=
  if k < 2 ^ f.fbits then k else (v + f.fbits + f.bias).toNat * 2 ^ f.fbits + (k - 2 ^ f.fbits)

/-- Packing puts the sign above the place. -/
theorem pack_eq (f : Fmt) (neg : Bool) (k : Nat) (v : Int) :
    f.pack neg k v = (if neg then 2 ^ (f.ebits + f.fbits) else 0) + f.place k v := by
  by_cases hk : k < 2 ^ f.fbits
  · simp only [Fmt.pack, Fmt.place, if_pos hk]
  · simp only [Fmt.pack, Fmt.place, if_neg hk, Nat.add_assoc]

/-- A significand and a unit that a format has: that of the subnormals, or one of a normal value, or of the power of two above them. -/
structure Fmt.Fits (f : Fmt) (k : Nat) (v : Int) : Prop where
  unit : f.emin - f.fbits ≤ v
  small : k < 2 ^ f.fbits → v = f.emin - f.fbits
  bound : k ≤ 2 ^ (f.fbits + 1)

/-- The place of k × 2^v has that magnitude. -/
theorem mag_place {f : Fmt} {k : Nat} {v : Int} (h : f.Fits k v) : f.mag (f.place k v) = k * (2 : ℝ) ^ v := by
  have hP : 0 < 2 ^ f.fbits := by positivity
  obtain ⟨h1, h2, h3⟩ := h
  rw [pow_succ'] at h3
  have hz : (1 : Int) ≤ v + f.fbits + f.bias := by unfold Fmt.emin at h1; omega
  obtain ⟨z, hz'⟩ : ∃ z : Nat, v + f.fbits + f.bias = z + 1 := ⟨(v + f.fbits + f.bias).toNat - 1, by omega⟩
  by_cases hk : k < 2 ^ f.fbits
  · rw [Fmt.place, if_pos hk, Fmt.mag, Fmt.mant, if_pos hk, Fmt.expo, Nat.div_eq_of_lt hk, h2 hk]
    congr 2
  · have hp : f.place k v = 2 ^ f.fbits * (z + 1) + (k - 2 ^ f.fbits) := by
      rw [Fmt.place, if_neg hk, hz', mul_comm]; congr 2
    rw [hp, Fmt.mag, Fmt.mant, Fmt.expo]
    generalize 2 ^ f.fbits = P at *
    rw [if_neg (by rw [mul_add, mul_one]; omega)]
    by_cases hk2 : k = 2 * P
    · have hs : P * (z + 1) + (k - P) = P * (z + 2) := by rw [show k - P = P by omega]; ring
      rw [hs, Nat.mul_mod_right, Nat.mul_div_cancel_left _ hP, max_eq_left (by omega), hk2,
        show ((z + 2 : Nat) : Int) - f.bias - f.fbits = v + 1 by push_cast; omega, zpow_add_one₀ two_ne_zero]
      push_cast; ring
    · rw [Nat.mul_add_mod, Nat.mod_eq_of_lt (by omega), Nat.mul_add_div hP, Nat.div_eq_of_lt (show k - P < P by omega), add_zero,
        max_eq_left (by omega), show ((z + 1 : Nat) : Int) - f.bias - f.fbits = v by push_cast; omega, show P + (k - P) = k by omega]

/-- A place is even where its significand is. -/
theorem place_mod_two {f : Fmt} (hf : f.Sound) (k : Nat) (v : Int) : f.place k v % 2 = k % 2 := by
  obtain ⟨n, hn⟩ : ∃ n, f.fbits = n + 1 := ⟨f.fbits - 1, by have := hf.fbits; omega⟩
  unfold Fmt.place
  rw [hn, pow_succ, ← mul_assoc]
  split <;> omega

/-- The largest finite value. -/
theorem mag_top {f : Fmt} (hf : f.Sound) : f.mag f.top = Spec.real false f.maxM f.maxE := by
  have h : f.place f.maxM f.maxE = f.top := if_neg (not_lt.2 hf.maxLow)
  rw [← h, real_false]
  exact mag_place ⟨hf.maxExp, fun h => absurd hf.maxLow (not_le.2 h), hf.maxHigh.le⟩

/-- A packed value within the largest finite one is an encoding of it. -/
theorem encodes_pack {f : Fmt} (hf : f.Sound) {k : Nat} {v : Int} (h : f.Fits k v) (hm : k * (2 : ℝ) ^ v ≤ Spec.real false f.maxM f.maxE) (neg : Bool) :
    Spec.Encodes f (f.pack neg k v) ((if neg then -1 else 1) * (k * (2 : ℝ) ^ v)) ∧ (f.pack neg k v).testBit (f.width - 1) = neg ∧
      f.pack neg k v % 2 = k % 2 := by
  rw [← mag_place h, ← mag_top hf, (mag_strictMono f).le_iff_le] at hm
  obtain ⟨h1, h2, h3⟩ := signed_encoding (hm.trans_lt hf.top) neg
  rw [pack_eq, encodes_iff hf, h2, h3, mag_place h, show f.width - 1 = f.ebits + f.fbits by unfold Fmt.width; omega, h3]
  refine ⟨⟨h1, hm, rfl⟩, rfl, ?_⟩
  obtain ⟨n, hn⟩ : ∃ n, f.fbits = n + 1 := ⟨f.fbits - 1, by have := hf.fbits; omega⟩
  rw [← place_mod_two hf k v, hn, show f.ebits + (n + 1) = f.ebits + n + 1 by omega, pow_succ]
  cases neg <;> simp

end Sys2Proof.Machine
end

section
/-! Formats (04_formats.md): a real number within the largest finite value is rounded once (R71, R72). -/
namespace Sys2Proof.Machine

open Sys2Proof

/-! ## The exponent of a magnitude -/

/-- A magnitude lies between the power of two of its exponent and the next. -/
theorem expOf_bounds {m : Nat} {e : Int} {sticky : Bool} {q : ℝ} (h : StandsFor m e sticky q) (hm : 0 < m) :
    (2 : ℝ) ^ expOf m e ≤ q ∧ q < (2 : ℝ) ^ (expOf m e + 1) := by
  have he : (0 : ℝ) < (2 : ℝ) ^ e := by positivity
  have h1 : (2 : ℝ) ^ m.log2 ≤ m := by exact_mod_cast Nat.log2_self_le hm.ne'
  have h2 : (m : ℝ) + 1 ≤ (2 : ℝ) ^ (m.log2 + 1) := by exact_mod_cast Nat.lt_log2_self
  have e1 : (2 : ℝ) ^ expOf m e = (2 : ℝ) ^ m.log2 * (2 : ℝ) ^ e := by rw [expOf, zpow_add₀ two_ne_zero, zpow_natCast]
  have e2 : (2 : ℝ) ^ (expOf m e + 1) = (2 : ℝ) ^ (m.log2 + 1) * (2 : ℝ) ^ e := by
    rw [zpow_add_one₀ two_ne_zero, e1, pow_succ]; ring
  have h3 : m * (2 : ℝ) ^ e ≤ q ∧ q < (m + 1) * (2 : ℝ) ^ e := by
    cases sticky with
    | false => rw [h.exact rfl]; exact ⟨le_rfl, by linarith⟩
    | true => exact ⟨(h.above rfl).1.le, (h.above rfl).2⟩
  rw [e1, e2]
  exact ⟨(mul_le_mul_of_nonneg_right h1 he.le).trans h3.1, h3.2.trans_le (mul_le_mul_of_nonneg_right h2 he.le)⟩

/-! ## Rounding to the unit of a result -/

/-- What roundFin knows of a magnitude q: what stands for it, with enough bits where a rest lies below, and that it is within the
largest finite value. -/
structure Roundable (f : Fmt) (m : Nat) (e : Int) (sticky : Bool) (q : ℝ) : Prop where
  sound : f.Sound
  stands : StandsFor m e sticky q
  pos : 0 < m
  bits : sticky = true → 2 ^ (f.fbits + 1) ≤ m
  within : q ≤ Spec.real false f.maxM f.maxE

/-- The unit of a normal value with the exponent of q, were exponents unbounded. -/
def Fmt.freeUnit (f : Fmt) (m : Nat) (e : Int) : Int := expOf m e - f.fbits

/-- The unit of the result. -/
def Fmt.unit (f : Fmt) (m : Nat) (e : Int) : Int := max (f.freeUnit m e) (f.emin - f.fbits)

/-- A multiple of the unit at most q is at most the rounded one. -/
theorem IsRounded.le_multiple {mode : Mode} {neg : Bool} {q : ℝ} {u : Int} {k : Nat} (hk : IsRounded mode neg (q / (2 : ℝ) ^ u) k) {j : Nat}
    (hj : j * (2 : ℝ) ^ u ≤ q) : j ≤ k :=
  hk.le_of_le ((le_div_iff₀ (by positivity)).2 hj)

/-- A multiple of the unit at least q is at least the rounded one. -/
theorem IsRounded.ge_multiple {mode : Mode} {neg : Bool} {q : ℝ} {u : Int} {k : Nat} (hk : IsRounded mode neg (q / (2 : ℝ) ^ u) k) {j : Nat}
    (hj : q ≤ j * (2 : ℝ) ^ u) : k ≤ j :=
  hk.ge_of_ge ((div_le_iff₀ (by positivity)).2 hj)

/-- A bound in greater units is one for the rounded multiple too. -/
theorem IsRounded.bounded {mode : Mode} {neg : Bool} {q : ℝ} {u v : Int} {k b : Nat} (hk : IsRounded mode neg (q / (2 : ℝ) ^ u) k) (hu : u ≤ v)
    (hq : q ≤ b * (2 : ℝ) ^ v) : k * (2 : ℝ) ^ u ≤ b * (2 : ℝ) ^ v := by
  rw [← scaled_real hu] at hq ⊢
  have : (k : ℝ) ≤ ((b * 2 ^ (v - u).toNat : Nat) : ℝ) := by exact_mod_cast hk.ge_multiple hq
  gcongr

/-- The nearest multiple: no other one is nearer, and the even one stands where two are as near. -/
theorem IsRounded.nearest {neg : Bool} {q : ℝ} {u : Int} {k : Nat} (hk : IsRounded .rne neg (q / (2 : ℝ) ^ u) k) (j : Nat) :
    |q - k * (2 : ℝ) ^ u| ≤ |q - j * (2 : ℝ) ^ u| ∧ (j ≠ k → |q - k * (2 : ℝ) ^ u| = |q - j * (2 : ℝ) ^ u| → k % 2 = 0) := by
  have h2 : (0 : ℝ) < (2 : ℝ) ^ u := by positivity
  have hs : ∀ i : Nat, |q - i * (2 : ℝ) ^ u| = |q / (2 : ℝ) ^ u - i| * (2 : ℝ) ^ u := fun i => by
    rw [← abs_of_pos h2, ← abs_mul, abs_of_pos h2, sub_mul, div_mul_cancel₀ _ h2.ne']
  obtain ⟨hk1, hk2⟩ := hk
  rw [hs, hs, mul_le_mul_iff_left₀ h2, mul_left_inj' h2.ne']
  by_cases hj : j = k
  · exact ⟨by rw [hj], fun h => absurd hj h⟩
  · have h1 : (1 : ℝ) ≤ |(k : ℝ) - j| := by
      have : (1 : Int) ≤ |(k : Int) - j| := Int.one_le_abs (by omega)
      exact_mod_cast this
    have h3 := abs_sub_le (k : ℝ) (q / (2 : ℝ) ^ u) j
    rw [abs_sub_comm (k : ℝ) (q / (2 : ℝ) ^ u)] at h3
    exact ⟨by linarith, fun _ he => hk2 (by linarith)⟩

section
variable {f : Fmt} {m : Nat} {e : Int} {sticky : Bool} {q : ℝ} (h : Roundable f m e sticky q)
include h

theorem Roundable.lower : (2 : ℝ) ^ f.fbits * (2 : ℝ) ^ f.freeUnit m e ≤ q := by
  rw [← zpow_natCast, ← zpow_add₀ two_ne_zero, Fmt.freeUnit, add_sub_cancel]
  exact (expOf_bounds h.stands h.pos).1

theorem Roundable.upper : q < (2 : ℝ) ^ (f.fbits + 1) * (2 : ℝ) ^ f.freeUnit m e := by
  rw [← zpow_natCast, ← zpow_add₀ two_ne_zero, Fmt.freeUnit, show ((f.fbits + 1 : Nat) : Int) + (expOf m e - f.fbits) = expOf m e + 1 by push_cast; ring]
  exact (expOf_bounds h.stands h.pos).2

theorem Roundable.positive : 0 < q := lt_of_lt_of_le (by positivity) h.lower

/-- A rest lies below the unit. -/
theorem Roundable.rest (hs : sticky = true) : e < f.freeUnit m e := by
  have : f.fbits + 1 ≤ m.log2 := (Nat.le_log2 h.pos.ne').2 (h.bits hs)
  unfold Fmt.freeUnit expOf; omega

/-- The units do not exceed that of the largest value. -/
theorem Roundable.freeUnit_le : f.freeUnit m e ≤ f.maxE := by
  have h1 : (2 : ℝ) ^ f.fbits * (2 : ℝ) ^ f.freeUnit m e < (2 : ℝ) ^ f.fbits * (2 : ℝ) ^ (f.maxE + 1) := by
    refine (h.lower.trans h.within).trans_lt ?_
    rw [real_false, zpow_add_one₀ two_ne_zero, mul_comm _ (2 : ℝ), ← mul_assoc, ← pow_succ]
    have : (f.maxM : ℝ) < (2 : ℝ) ^ (f.fbits + 1) := by exact_mod_cast h.sound.maxHigh
    gcongr
  rw [mul_lt_mul_iff_right₀ (by positivity), zpow_lt_zpow_iff_right₀ one_lt_two] at h1
  omega

theorem Roundable.unit_le : f.unit m e ≤ f.maxE := max_le h.freeUnit_le h.sound.maxExp

/-- The magnitude of an encoding is a multiple of the unit, or lies below the least normal value with that unit, which q does not. -/
theorem Roundable.mag_cases (c : Nat) : (∃ j : Nat, f.mag c = j * (2 : ℝ) ^ f.unit m e) ∨
    (f.mag c < ((2 ^ f.fbits : Nat) : ℝ) * (2 : ℝ) ^ f.unit m e ∧ ((2 ^ f.fbits : Nat) : ℝ) * (2 : ℝ) ^ f.unit m e ≤ q) := by
  by_cases hc : f.unit m e ≤ f.expo c
  · exact .inl ⟨_, (scaled_real hc).symm⟩
  · have hu : f.unit m e = f.freeUnit m e := by
      have := expo_ge f c; unfold Fmt.unit at hc ⊢; omega
    refine .inr ⟨?_, by rw [hu]; push_cast; exact h.lower⟩
    have h1 : (f.mant c : ℝ) < (2 : ℝ) ^ (f.fbits + 1) := by exact_mod_cast mant_lt f c
    have h2 : (2 : ℝ) ^ (f.expo c + 1) ≤ (2 : ℝ) ^ f.unit m e := zpow_le_zpow_right₀ one_le_two (by omega)
    calc f.mag c < (2 : ℝ) ^ (f.fbits + 1) * (2 : ℝ) ^ f.expo c := by unfold Fmt.mag; gcongr
      _ = (2 : ℝ) ^ f.fbits * (2 : ℝ) ^ (f.expo c + 1) := by rw [zpow_add_one₀ two_ne_zero, pow_succ]; ring
      _ ≤ _ := by push_cast; gcongr

variable {mode : Mode} {neg : Bool} {k : Nat} (hk : IsRounded mode neg (q / (2 : ℝ) ^ f.unit m e) k)
include hk

/-- The magnitude of an encoding at most q is at most the rounded one. -/
theorem Roundable.mag_le {c : Nat} (hc : f.mag c ≤ q) : f.mag c ≤ k * (2 : ℝ) ^ f.unit m e := by
  rcases h.mag_cases c with ⟨j, hj⟩ | ⟨h1, h2⟩
  · rw [hj] at hc ⊢
    have : (j : ℝ) ≤ k := by exact_mod_cast hk.le_multiple hc
    gcongr
  · have : ((2 ^ f.fbits : Nat) : ℝ) ≤ k := by exact_mod_cast hk.le_multiple h2
    exact h1.le.trans (by gcongr)

/-- The magnitude of an encoding at least q is at least the rounded one. -/
theorem Roundable.le_mag {c : Nat} (hc : q ≤ f.mag c) : k * (2 : ℝ) ^ f.unit m e ≤ f.mag c := by
  rcases h.mag_cases c with ⟨j, hj⟩ | ⟨h1, h2⟩
  · rw [hj] at hc ⊢
    have : (k : ℝ) ≤ j := by exact_mod_cast hk.ge_multiple hc
    gcongr
  · exact absurd (hc.trans_lt h1) (not_lt.2 h2)

/-- The rounded value has a place in the format. -/
theorem Roundable.fits : f.Fits k (f.unit m e) := by
  refine ⟨le_max_right _ _, fun hs => ?_, ?_⟩
  · by_contra hne
    have hu : f.unit m e = f.freeUnit m e := by unfold Fmt.unit at hne ⊢; omega
    have := hk.le_multiple (j := 2 ^ f.fbits) (by rw [hu]; push_cast; exact h.lower)
    omega
  · refine hk.ge_multiple (h.upper.le.trans ?_)
    have : (2 : ℝ) ^ f.freeUnit m e ≤ (2 : ℝ) ^ f.unit m e := zpow_le_zpow_right₀ one_le_two (le_max_left _ _)
    push_cast; gcongr

/-- The rounded value is within the largest finite one. -/
theorem Roundable.rounded_within : k * (2 : ℝ) ^ f.unit m e ≤ Spec.real false f.maxM f.maxE := by
  have hw := h.within
  rw [← mag_top h.sound] at hw ⊢
  exact h.le_mag hk hw

/-- The nearest encoding: no other magnitude is nearer, and the even multiple stands where two are as near. -/
theorem Roundable.mag_nearest (hm : mode = .rne) (c : Nat) : |q - k * (2 : ℝ) ^ f.unit m e| ≤ |q - f.mag c| ∧
    (f.mag c ≠ k * (2 : ℝ) ^ f.unit m e → |q - k * (2 : ℝ) ^ f.unit m e| = |q - f.mag c| → k % 2 = 0) := by
  subst hm
  rcases h.mag_cases c with ⟨j, hj⟩ | ⟨h1, h2⟩
  · rw [hj]
    exact ⟨(hk.nearest j).1, fun hne => (hk.nearest j).2 fun he => hne (by rw [he])⟩
  · have h3 := (hk.nearest (2 ^ f.fbits)).1
    rw [abs_of_nonneg (sub_nonneg.2 h2)] at h3
    rw [abs_of_pos (show 0 < q - f.mag c by linarith)]
    exact ⟨by linarith, fun _ he => by linarith⟩

/-- The rounded value, with its sign, is that of the mode. -/
theorem Roundable.roundsTo : Spec.RoundsTo f mode ((if neg then -1 else 1) * q) (f.pack neg k (f.unit m e)) := by
  obtain ⟨henc, -, hpar⟩ := encodes_pack h.sound (h.fits hk) (h.rounded_within hk) neg
  have hq := h.positive
  have hw : (0 : ℝ) ≤ k * (2 : ℝ) ^ f.unit m e := by positivity
  have hv : ∀ {c : Nat} {v : ℝ}, Spec.Encodes f c v → ∃ (s : Bool) (d : Nat), v = (if s then -1 else 1) * f.mag d ∧ 0 ≤ f.mag d :=
    fun hc => ⟨_, _, ((encodes_iff h.sound _ _).1 hc).2.2, by unfold Fmt.mag; positivity⟩
  refine ⟨_, henc, ?_⟩
  cases mode with
  | rne =>
    have habs : |(if neg then -1 else 1) * q - (if neg then -1 else 1) * (k * (2 : ℝ) ^ f.unit m e)| = |q - k * (2 : ℝ) ^ f.unit m e| := by
      rw [← mul_sub, abs_mul]; cases neg <;> simp
    intro c v hc
    obtain ⟨s, d, rfl, hd⟩ := hv hc
    rw [hpar, habs]
    by_cases hs : s = neg
    · subst hs
      rw [← mul_sub, abs_mul, show |(if s then -1 else 1 : ℝ)| = 1 by cases s <;> simp, one_mul]
      obtain ⟨h1, h2⟩ := h.mag_nearest hk rfl d
      exact ⟨h1, fun hne => h2 fun he => hne (by rw [he])⟩
    · have h0 := h.mag_nearest hk rfl 0
      rw [mag_zero, sub_zero, abs_of_pos hq] at h0
      have he : |(if neg then -1 else 1) * q - (if s then -1 else 1) * f.mag d| = q + f.mag d := by
        have : s = !neg := by cases s <;> cases neg <;> simp_all
        subst this
        cases neg with
        | false => simp only [Bool.not_false, if_true, Bool.false_eq_true, if_false]; rw [abs_of_pos] <;> linarith
        | true => simp only [Bool.not_true, if_true, Bool.false_eq_true, if_false]; rw [abs_of_neg] <;> linarith
      rw [he]
      refine ⟨by linarith [h0.1], fun hne hh => ?_⟩
      have hd0 : f.mag d = 0 := by linarith [h0.1]
      rw [hd0, mul_zero] at hne
      exact h0.2 (fun h0 => hne (by rw [← h0, mul_zero])) (by linarith)
  | rtz =>
    have hle : k * (2 : ℝ) ^ f.unit m e ≤ q := (le_div_iff₀ (by positivity)).1 hk.1
    have habs : ∀ (s : Bool) (x : ℝ), 0 ≤ x → |(if s then -1 else 1) * x| = x := fun s x hx => by cases s <;> simp [abs_of_nonneg hx]
    rw [habs _ _ hw, habs _ _ hq.le]
    refine ⟨hle, ?_, fun c v hc _ hvq => ?_⟩
    · cases neg <;> simp only [if_true, Bool.false_eq_true, if_false] <;> nlinarith [mul_nonneg hw hq.le]
    · obtain ⟨s, d, rfl, hd⟩ := hv hc
      rw [habs _ _ hd] at hvq ⊢
      exact h.mag_le hk hvq
  | rdn =>
    cases neg with
    | false =>
      have hle : k * (2 : ℝ) ^ f.unit m e ≤ q := (le_div_iff₀ (by positivity)).1 hk.1
      simp only [Bool.false_eq_true, if_false, one_mul]
      refine ⟨hle, fun c v hc hvq => ?_⟩
      obtain ⟨s, d, rfl, hd⟩ := hv hc
      cases s with
      | false => simp only [Bool.false_eq_true, if_false, one_mul] at hvq ⊢; exact h.mag_le hk hvq
      | true => simp only [if_true]; linarith
    | true =>
      have hle : q ≤ k * (2 : ℝ) ^ f.unit m e := (div_le_iff₀ (by positivity)).1 hk.1
      simp only [if_true]
      refine ⟨by linarith, fun c v hc hvq => ?_⟩
      obtain ⟨s, d, rfl, hd⟩ := hv hc
      cases s with
      | false => simp only [Bool.false_eq_true, if_false, one_mul] at hvq; linarith
      | true => simp only [if_true] at hvq ⊢; linarith [h.le_mag hk (c := d) (by linarith)]
  | rup =>
    cases neg with
    | false =>
      have hle : q ≤ k * (2 : ℝ) ^ f.unit m e := (div_le_iff₀ (by positivity)).1 hk.1
      simp only [Bool.false_eq_true, if_false, one_mul]
      refine ⟨hle, fun c v hc hvq => ?_⟩
      obtain ⟨s, d, rfl, hd⟩ := hv hc
      cases s with
      | false => simp only [Bool.false_eq_true, if_false, one_mul] at hvq ⊢; exact h.le_mag hk hvq
      | true => simp only [if_true] at hvq; linarith
    | true =>
      have hle : k * (2 : ℝ) ^ f.unit m e ≤ q := (le_div_iff₀ (by positivity)).1 hk.1
      simp only [if_true]
      refine ⟨by linarith, fun c v hc hvq => ?_⟩
      obtain ⟨s, d, rfl, hd⟩ := hv hc
      cases s with
      | false => simp only [Bool.false_eq_true, if_false, one_mul]; linarith
      | true => simp only [if_true] at hvq ⊢; linarith [h.mag_le hk (c := d) (by linarith)]

end

/-! ## Flags (R72) -/

section
variable {f : Fmt} {m : Nat} {e : Int} {sticky : Bool} {q : ℝ} (h : Roundable f m e sticky q) {mode : Mode} {neg : Bool} {k : Nat}
  (hk : IsRounded mode neg (q / (2 : ℝ) ^ f.freeUnit m e) k)
include h hk

/-- A magnitude that rounds below the least normal value lies below it. -/
theorem Roundable.lt_of_tiny (ht : k * (2 : ℝ) ^ f.freeUnit m e < (2 : ℝ) ^ f.emin) : q < (2 : ℝ) ^ f.emin := by
  by_contra hge
  have h1 := (not_lt.1 hge).trans_lt h.upper
  rw [← zpow_natCast, ← zpow_add₀ two_ne_zero, zpow_lt_zpow_iff_right₀ one_lt_two] at h1
  have h2 : 2 ^ f.fbits ≤ k := hk.le_multiple (by push_cast; exact h.lower)
  have h3 : (2 : ℝ) ^ f.emin ≤ ((2 ^ f.fbits : Nat) : ℝ) * (2 : ℝ) ^ f.freeUnit m e := by
    push_cast
    rw [← zpow_natCast, ← zpow_add₀ two_ne_zero]
    exact zpow_le_zpow_right₀ one_le_two (by push_cast at h1; omega)
  have h4 : ((2 ^ f.fbits : Nat) : ℝ) ≤ k := by exact_mod_cast h2
  exact absurd (ht.trans_le h3) (not_lt.2 (by gcongr))

/-- A magnitude up to the greatest subnormal rounds below the least normal value. -/
theorem Roundable.tiny_of_le (hq : q ≤ (2 ^ f.fbits - 1) * (2 : ℝ) ^ (f.emin - f.fbits)) :
    k * (2 : ℝ) ^ f.freeUnit m e < (2 : ℝ) ^ f.emin := by
  have hsub : ((2 ^ f.fbits - 1 : Nat) : ℝ) * (2 : ℝ) ^ (f.emin - f.fbits) < (2 : ℝ) ^ f.emin := by
    have h2 : (2 : ℝ) ^ f.emin = (2 : ℝ) ^ f.fbits * (2 : ℝ) ^ (f.emin - f.fbits) := by
      rw [← zpow_natCast, ← zpow_add₀ two_ne_zero, add_sub_cancel]
    rw [h2, Nat.cast_sub Nat.one_le_two_pow]
    push_cast
    exact mul_lt_mul_of_pos_right (by linarith) (by positivity)
  have hc : (2 ^ f.fbits - 1 : ℝ) = ((2 ^ f.fbits - 1 : Nat) : ℝ) := by rw [Nat.cast_sub Nat.one_le_two_pow]; push_cast; rfl
  rw [hc] at hq
  have h1 := h.lower.trans_lt (hq.trans_lt hsub)
  rw [← zpow_natCast, ← zpow_add₀ two_ne_zero, zpow_lt_zpow_iff_right₀ one_lt_two] at h1
  exact (hk.bounded (by omega) hq).trans_lt hsub

/-- A magnitude within the largest finite value rounds within it. -/
theorem Roundable.not_big : ¬ Spec.real false f.maxM f.maxE < k * (2 : ℝ) ^ f.freeUnit m e := by
  have hw := h.within
  rw [real_false] at hw ⊢
  exact not_lt.2 (hk.bounded h.freeUnit_le hw)

end

/-- The flags of a rounding are NX and UF. -/
theorem flags_of (inexact tiny : Bool) : let r : FlagSet := (if inexact then fNX else 0) ||| (if inexact && tiny then fUF else 0)
    (r.getLsbD 0 = inexact) ∧ (r.getLsbD 1 = (inexact && tiny)) ∧ r &&& ~~~(fNX ||| fUF) = 0 := by
  cases inexact <;> cases tiny <;> decide

/-- A magnitude within the largest finite value is rounded once (R71, R72). -/
theorem roundFin_roundedOnce {f : Fmt} {m : Nat} {e : Int} {sticky : Bool} {q : ℝ} (h : Roundable f m e sticky q) (mode : Mode) (sat neg : Bool) :
    Spec.RoundedOnce f mode neg ((if neg then -1 else 1) * q) (f.roundFin mode sat neg m e sticky) := by
  obtain ⟨hfree, -⟩ := roundTo_isRounded (mode := mode) (neg := neg) h.stands h.rest
  obtain ⟨hk, hinexact⟩ := roundTo_isRounded (mode := mode) (neg := neg) (u := f.unit m e) h.stands fun hs => (h.rest hs).trans_le (le_max_left _ (f.emin - f.fbits))
  have hbig : (cmpExact (roundTo mode neg m e sticky (f.freeUnit m e)).1 (f.freeUnit m e) f.maxM f.maxE == .gt) = false := by
    rw [beq_eq_false_iff_ne, ne_eq, (cmpExact_real _ _ _ _).2, ← real_false]
    exact h.not_big hfree
  have htiny : (cmpExact (roundTo mode neg m e sticky (f.freeUnit m e)).1 (f.freeUnit m e) 1 f.emin == .lt) = true ↔
      (roundTo mode neg m e sticky (f.freeUnit m e)).1 * (2 : ℝ) ^ f.freeUnit m e < (2 : ℝ) ^ f.emin := by
    rw [beq_iff_eq, (cmpExact_real _ _ _ _).1, Nat.cast_one, one_mul]
  have hr : f.roundFin mode sat neg m e sticky = (f.pack neg (roundTo mode neg m e sticky (f.unit m e)).1 (f.unit m e),
      (if (roundTo mode neg m e sticky (f.unit m e)).2 then fNX else 0) |||
        (if (roundTo mode neg m e sticky (f.unit m e)).2 && (cmpExact (roundTo mode neg m e sticky (f.freeUnit m e)).1 (f.freeUnit m e) 1 f.emin == .lt)
          then fUF else 0)) :=
    if_neg (Bool.eq_false_iff.1 hbig)
  obtain ⟨henc, hsign, -⟩ := encodes_pack h.sound (h.fits hk) (h.rounded_within hk) neg
  obtain ⟨f0, f1, f2⟩ := flags_of (roundTo mode neg m e sticky (f.unit m e)).2
    (cmpExact (roundTo mode neg m e sticky (f.freeUnit m e)).1 (f.freeUnit m e) 1 f.emin == .lt)
  have habs : |(if neg then -1 else 1) * q| = q := by have := h.positive.le; cases neg <;> simp [abs_of_nonneg this]
  rw [hr]
  refine ⟨h.roundsTo hk, hsign, ?_, f2, ?_, ?_⟩
  · refine (iff_of_eq (congrArg (· = true) f0)).trans (hinexact.trans (not_iff_not.2 ?_))
    have hσ : (if neg then -1 else 1 : ℝ) ≠ 0 := by cases neg <;> simp
    rw [encodes_iff h.sound] at henc ⊢
    constructor
    · intro he; rw [← he] at henc; exact henc
    · intro he; exact mul_left_cancel₀ hσ (he.2.2.trans henc.2.2.symm)
  · rw [f0, f1, Bool.and_eq_true, htiny, habs]
    exact fun ⟨h1, h2⟩ => ⟨h1, h.lt_of_tiny hfree h2⟩
  · rw [f0, f1, Bool.and_eq_true, htiny, habs]
    exact fun h1 h2 => ⟨h1, h.tiny_of_le hfree h2⟩

/-- An exact magnitude. -/
theorem roundable_exact {f : Fmt} (hf : f.Sound) {m : Nat} {e : Int} (hm : 0 < m) (hq : Spec.real false m e ≤ Spec.real false f.maxM f.maxE) :
    Roundable f m e false (Spec.real false m e) :=
  ⟨hf, ⟨fun _ => real_false m e, nofun⟩, hm, nofun, hq⟩

/-- Settles O2: every non-zero real is rounded once. -/
theorem roundingIsRight : Obligations.RoundingIsRight := by
  intro f hf mode sat neg m e hm hq
  rw [real_eq, Fmt.round, if_neg hm.ne']
  exact roundFin_roundedOnce (roundable_exact (sound_of_mem hf) hm hq) mode sat neg

end Sys2Proof.Machine
end

section
/-! Scalar floating point (12_registers.md): results, compares and classes on the bits of FP32 (R252, R253). -/
namespace Sys2Proof.Machine

open Sys2Proof

/-! ## Results with flags -/

/-- A scalar instruction whose body writes a floating-point result. -/
theorem scalar_writesFp {rs : List Reg} {body : M Unit} {s : State} {d : Reg} {r : Nat × FlagSet} (h : Ready s rs)
    (hb : runM body s = runM (writeFp d r) s) : scalar rs body s = .next (s.wroteFp d r) := by
  refine scalar_core h (f := fun k => { k.setX d (word r.1) with flags := k.flags ||| r.2 }) ?_ (by simp) (by simp)
  rw [Ends, hb]
  simp [writeFp]

/-- The rounding mode of a scalar instruction. -/
@[simp] theorem run_scalarMode (r : Rm) (s : State) : runM (scalarMode r) s = (.ok (modeOf s.me.frm r), s) := rfl

/-- The rounded operations, by the value that each writes. -/
theorem fpuResults_rounded : Spec.FpuResults := by
  refine fun s => ⟨fun x h => ⟨?_, ?_, ?_, ?_⟩, fun x h => ⟨?_, ?_, ?_⟩, fun x h => ⟨?_, ?_, ?_⟩⟩
  all_goals exact scalar_writesFp h (by simp only [fpuTwo, fpuFma, run_bind, run_readX, run_scalarMode]; rfl)

/-! ## The bits of FP32 -/

/-- The magnitude bits of an FP32 encoding. -/
theorem fp32_magnitude (v : BitVec 32) : (v.setWidth 31).toNat = v.toNat % 2 ^ 31 := BitVec.toNat_setWidth _ _

/-- The sign bit of an FP32 encoding. -/
theorem fp32_sign (v : BitVec 32) : v.toNat.testBit 31 = v.msb := by
  rw [BitVec.msb_eq_getLsbD_last]; rfl

/-- The finite FP32 encodings are those whose magnitude bits lie below the infinity's. -/
theorem fp32_top : fmtFp32.top = 0x7F7FFFFF := rfl

/-- What an FP32 encoding decodes to. -/
theorem fp32_decode (v : BitVec 32) : fmtFp32.decode v.toNat =
    if Spec.isNan v then .nan else if (v.setWidth 31).toNat = 0x7F800000 then .inf v.msb
    else .fin v.msb (fmtFp32.mant (v.setWidth 31).toNat) (fmtFp32.expo (v.setWidth 31).toNat) := by
  have hfin := (decode_eq (sound_of_mem (f := fmtFp32) (by simp [Spec.formats])) v.toNat).1
  have hm : v.toNat % 2 ^ (fmtFp32.ebits + fmtFp32.fbits) = (v.setWidth 31).toNat := (fp32_magnitude v).symm
  have hs : v.toNat.testBit (fmtFp32.ebits + fmtFp32.fbits) = v.msb := fp32_sign v
  rw [hm, hs, fp32_top] at hfin
  have hlt := (v.setWidth 31).isLt
  by_cases hle : (v.setWidth 31).toNat ≤ 0x7F7FFFFF
  · have : Spec.isNan v = false := decide_eq_false (by omega)
    rw [hfin hle, this, if_neg Bool.false_ne_true, if_neg (by omega)]
  · have hv := fp32_magnitude v
    have hex : v.toNat / 2 ^ 23 % 2 ^ 8 = 255 := by omega
    have hfr : v.toNat % 2 ^ 23 = (v.setWidth 31).toNat - 0x7F800000 := by omega
    have hd : fmtFp32.decode v.toNat = if v.toNat % 2 ^ 23 = 0 then .inf (v.toNat.testBit 31) else .nan := by
      simp only [Fmt.decode, fmtFp32, hex]; rfl
    rw [hd, hfr, fp32_sign]
    by_cases hi : (v.setWidth 31).toNat = 0x7F800000
    · have : Spec.isNan v = false := decide_eq_false (by omega)
      rw [if_pos (by omega), this, if_neg Bool.false_ne_true, if_pos hi]
    · have : Spec.isNan v = true := decide_eq_true (by omega)
      rw [if_neg (by omega), this, if_pos rfl]

/-- The encodings of NaN. -/
theorem fp32_decode_isNan (v : BitVec 32) : fmtFp32.decode v.toNat = .nan ↔ Spec.isNan v = true := by
  rw [fp32_decode]
  split
  · next h => simp [h]
  · next h => split <;> simp [h]

/-- The FP32 value that an instruction reads. -/
theorem fpVal_eq (a : Word) : fpVal a = fmtFp32.decode (a.setWidth 32).toNat := by
  rw [BitVec.toNat_setWidth]; rfl

/-! ## The order of FP32 values -/

/-- The magnitude bits with the sign, as an integer. -/
def signedBits (neg : Bool) (u : Nat) : Int := if neg then -(u : Int) else u

/-- Finite values of a format compare as their magnitude bits with their signs do. -/
theorem signed_mag_lt (f : Fmt) (n1 n2 : Bool) (u1 u2 : Nat) :
    ((if n1 then -1 else 1) * f.mag u1 < (if n2 then -1 else 1) * f.mag u2 ↔ signedBits n1 u1 < signedBits n2 u2) ∧
    ((if n1 then -1 else 1) * f.mag u1 = (if n2 then -1 else 1) * f.mag u2 ↔ signedBits n1 u1 = signedBits n2 u2) := by
  have hm := mag_strictMono f
  have h0 := mag_zero f
  have pos : ∀ u, 0 < u → 0 < f.mag u := fun u hu => h0 ▸ hm hu
  have nonneg : ∀ u, 0 ≤ f.mag u := fun u => by rw [← h0]; exact hm.monotone (Nat.zero_le u)
  have same : ∀ u v, (f.mag u < f.mag v ↔ u < v) ∧ (f.mag u = f.mag v ↔ u = v) := fun u v => ⟨hm.lt_iff_lt, hm.injective.eq_iff⟩
  have zero : ∀ u, f.mag u = 0 ↔ u = 0 := fun u => ⟨fun h => by by_contra hn; exact (pos u (by omega)).ne' h, fun h => by rw [h, h0]⟩
  cases n1 <;> cases n2 <;> simp only [signedBits, Bool.false_eq_true, if_true, if_false, one_mul, neg_mul, neg_lt_neg_iff, neg_inj, Nat.cast_lt,
    Nat.cast_inj]
  · exact same u1 u2
  · refine ⟨⟨fun h => absurd h (not_lt.2 (by linarith [nonneg u1, nonneg u2])), fun h => by omega⟩, ⟨fun h => ?_, fun h => ?_⟩⟩
    · have h1 := (zero u1).1 (by linarith [nonneg u1, nonneg u2]); have h2 := (zero u2).1 (by linarith [nonneg u1, nonneg u2]); omega
    · rw [show u1 = 0 by omega, show u2 = 0 by omega, h0, neg_zero]
  · refine ⟨⟨fun h => ?_, fun h => ?_⟩, ⟨fun h => ?_, fun h => ?_⟩⟩
    · by_contra hn; rw [show u1 = 0 by omega, show u2 = 0 by omega, h0] at h; linarith
    · rcases Nat.eq_zero_or_pos u1 with h1 | h1
      · have := pos u2 (by omega); linarith [nonneg u1]
      · have := pos u1 h1; linarith [nonneg u2]
    · have h1 := (zero u1).1 (by linarith [nonneg u1, nonneg u2]); have h2 := (zero u2).1 (by linarith [nonneg u1, nonneg u2]); omega
    · rw [show u1 = 0 by omega, show u2 = 0 by omega, h0, neg_zero]
  · exact ⟨(same u2 u1).1.trans ⟨fun h => by omega, fun h => by omega⟩, (same u1 u2).2⟩

/-- Orders that agree on "less" and on "equal" are the same. -/
theorem ordering_ext {x y : Ordering} (hl : x = .lt ↔ y = .lt) (he : x = .eq ↔ y = .eq) : x = y := by
  cases x <;> cases y <;> simp at hl he <;> rfl

/-- The value of an FP32 encoding by its sign and magnitude bits. -/
theorem value_eq (v : BitVec 32) : Spec.value v = signedBits v.msb (v.setWidth 31).toNat := rfl

/-- The order of FP32 values, -0 equal to +0. -/
theorem fp32_cmpVal {a b : BitVec 32} (ha : Spec.isNan a = false) (hb : Spec.isNan b = false) :
    cmpVal (fmtFp32.decode a.toNat) (fmtFp32.decode b.toNat) = compare (Spec.value a) (Spec.value b) := by
  have la : (a.setWidth 31).toNat ≤ 0x7F800000 := not_lt.1 (of_decide_eq_false ha)
  have lb : (b.setWidth 31).toNat ≤ 0x7F800000 := not_lt.1 (of_decide_eq_false hb)
  rw [fp32_decode, fp32_decode, ha, hb, if_neg Bool.false_ne_true, if_neg Bool.false_ne_true, value_eq, value_eq]
  generalize (a.setWidth 31).toNat = u at *
  generalize (b.setWidth 31).toNat = v at *
  generalize a.msb = n at *
  generalize b.msb = p at *
  -- an infinity lies beyond every finite value of its sign
  have beyond : ∀ (n p : Bool) (v : Nat), v < 0x7F800000 → (if n then Ordering.lt else .gt) = compare (signedBits n 0x7F800000) (signedBits p v) := by
    intro n p v hv
    cases n <;> cases p <;> simp only [signedBits, if_true, Bool.false_eq_true, if_false] <;> symm <;>
      [rw [compare_gt_iff_gt]; rw [compare_gt_iff_gt]; rw [compare_lt_iff_lt]; rw [compare_lt_iff_lt]] <;> omega
  by_cases hu : u = 0x7F800000 <;> by_cases hv : v = 0x7F800000
  · subst hu hv
    cases n <;> cases p <;> rfl
  · rw [if_pos hu, if_neg hv, hu]
    exact beyond n p v (by omega)
  · rw [if_neg hu, if_pos hv, hv, Std.OrientedCmp.eq_swap (cmp := compare), ← beyond p n u (by omega)]
    cases p <;> rfl
  · rw [if_neg hu, if_neg hv]
    obtain ⟨hlt, heq, -⟩ := cmpVal_fin n p (fmtFp32.mant u) (fmtFp32.mant v) (fmtFp32.expo u) (fmtFp32.expo v)
    rw [real_eq n, real_eq p, real_false, real_false] at hlt heq
    obtain ⟨slt, seq⟩ := signed_mag_lt fmtFp32 n p u v
    exact ordering_ext (hlt.trans (slt.trans compare_lt_iff_lt.symm)) (heq.trans (seq.trans compare_eq_iff_eq.symm))

/-- The significand of an encoding is zero where its magnitude bits are. -/
theorem mant_eq_zero_iff (f : Fmt) (u : Nat) : f.mant u = 0 ↔ u = 0 := by
  have : 0 < 2 ^ f.fbits := by positivity
  unfold Fmt.mant
  split
  · rfl
  · omega

/-- The encodings of zero. -/
theorem fp32_zero_of_decode {v : BitVec 32} {n : Bool} {e : Int} (h : fmtFp32.decode v.toNat = .fin n 0 e) : (v.setWidth 31).toNat = 0 := by
  rw [fp32_decode] at h
  split at h
  · cases h
  · split at h
    · cases h
    · exact (mant_eq_zero_iff _ _).1 (Val.fin.inj h).2.1

/-- Equal orders for integers that are ordered alike. -/
theorem compare_congr {a b c d : Int} (hl : a < b ↔ c < d) (he : a = b ↔ c = d) : compare a b = compare c d :=
  ordering_ext (by rw [compare_lt_iff_lt, compare_lt_iff_lt]; exact hl) (by rw [compare_eq_iff_eq, compare_eq_iff_eq]; exact he)

/-- The order with -0 below +0 is that of values, but at two zeros. -/
theorem cmpSigned_of_ne {a b : Val} (h : cmpVal a b ≠ .eq) : cmpSigned a b = cmpVal a b := by
  unfold cmpSigned
  split
  · next he => exact absurd he h
  · rfl

/-- A finite FP32 encoding. -/
theorem fp32_decode_fin {v : BitVec 32} (h : (v.setWidth 31).toNat < 0x7F800000) :
    fmtFp32.decode v.toNat = .fin v.msb (fmtFp32.mant (v.setWidth 31).toNat) (fmtFp32.expo (v.setWidth 31).toNat) := by
  rw [fp32_decode, if_neg, if_neg h.ne]
  rw [Spec.isNan, decide_eq_true_eq]; omega

/-- The order of FP32 values, -0 below +0. -/
theorem fp32_cmpSigned {a b : BitVec 32} (ha : Spec.isNan a = false) (hb : Spec.isNan b = false) :
    cmpSigned (fmtFp32.decode a.toNat) (fmtFp32.decode b.toNat) = compare (Spec.key a) (Spec.key b) := by
  have hc := fp32_cmpVal ha hb
  by_cases he : Spec.value a = Spec.value b
  · rw [he, compare_eq_iff_eq.2 rfl] at hc
    by_cases hz : (a.setWidth 31).toNat = 0 ∧ (b.setWidth 31).toNat = 0
    · obtain ⟨hz, hz2⟩ := hz
      have da := fp32_decode_fin (v := a) (by omega)
      have db := fp32_decode_fin (v := b) (by omega)
      rw [hz, show fmtFp32.mant 0 = 0 from rfl] at da
      rw [hz2, show fmtFp32.mant 0 = 0 from rfl] at db
      rw [da, db] at hc ⊢
      unfold cmpSigned
      rw [hc, Spec.key, Spec.key, hz, hz2]
      cases a.msb <;> cases b.msb <;> rfl
    · have hk : Spec.key a = Spec.key b := by
        cases ha : a.msb <;> cases hb : b.msb <;> simp only [Spec.value, Spec.key, ha, hb, if_true, Bool.false_eq_true, if_false] at he ⊢ <;> omega
      rw [hk, compare_eq_iff_eq.2 rfl]
      unfold cmpSigned
      rw [hc]
      dsimp only
      split
      · next x e y e' h1 h2 =>
        exact absurd ⟨fp32_zero_of_decode h1, fp32_zero_of_decode h2⟩ hz
      · rfl
  · have hne : cmpVal (fmtFp32.decode a.toNat) (fmtFp32.decode b.toNat) ≠ .eq := by rw [hc, ne_eq, compare_eq_iff_eq]; exact he
    rw [cmpSigned_of_ne hne, hc]
    cases ha : a.msb <;> cases hb : b.msb <;>
      simp only [Spec.value, Spec.key, ha, hb, if_true, Bool.false_eq_true, if_false] at he ⊢ <;>
      exact compare_congr (by omega) (by omega)

/-! ## Minimum, maximum and compares (R252) -/

/-- FMIN and FMAX. -/
theorem fMinMax_eq (mx : Bool) (a b : BitVec 32) : fMinMax fmtFp32 mx a.toNat b.toNat =
    (if Spec.isNan a && Spec.isNan b then 0x7FC00000#32 else if Spec.isNan a then b else if Spec.isNan b then a
      else if decide (if mx then Spec.key b ≤ Spec.key a else Spec.key a ≤ Spec.key b) then a else b).toNat := by
  have hd := fun v : BitVec 32 => fp32_decode_isNan v
  cases ha : Spec.isNan a <;> cases hb : Spec.isNan b
  · have hc := fp32_cmpSigned ha hb
    have na := mt (hd a).1 (by simp [ha])
    have nb := mt (hd b).1 (by simp [hb])
    unfold fMinMax
    split
    · next h _ => exact absurd h na
    · next h _ => exact absurd h na
    · next h _ => exact absurd h nb
    · rw [hc]
      rcases lt_trichotomy (Spec.key a) (Spec.key b) with h | h | h
      · rw [compare_lt_iff_lt.2 h]
        cases mx <;> simp [h.le, not_le.2 h]
      · rw [compare_eq_iff_eq.2 h]
        cases mx <;> simp [h]
      · rw [compare_gt_iff_gt.2 h]
        cases mx <;> simp [h.le, not_le.2 h]
  · have na := mt (hd a).1 (by simp [ha])
    rw [fMinMax, (hd b).2 hb]
    cases h : fmtFp32.decode a.toNat <;> simp_all
  · have nb := mt (hd b).1 (by simp [hb])
    rw [fMinMax, (hd a).2 ha]
    cases h : fmtFp32.decode b.toNat <;> simp_all
  · rw [fMinMax, (hd a).2 ha, (hd b).2 hb]
    rfl

/-- The compares. -/
theorem fCompare_eq (o : CmpOp) (a b : BitVec 32) : fCompare o (fmtFp32.decode a.toNat) (fmtFp32.decode b.toNat) =
    (!(Spec.isNan a || Spec.isNan b) && (match o with
      | .eq => Spec.value a == Spec.value b
      | .lt => decide (Spec.value a < Spec.value b)
      | .le => decide (Spec.value a ≤ Spec.value b)), if (Spec.isNan a || Spec.isNan b) && o != .eq then fNV else 0) := by
  have hd := fun v : BitVec 32 => fp32_decode_isNan v
  cases ha : Spec.isNan a
  · cases hb : Spec.isNan b
    · have hc := fp32_cmpVal ha hb
      have na := mt (hd a).1 (by simp [ha])
      have nb := mt (hd b).1 (by simp [hb])
      unfold fCompare
      split
      · next h => exact absurd h na
      · next h _ => exact absurd h nb
      · rw [hc]
        rcases lt_trichotomy (Spec.value a) (Spec.value b) with h | h | h
        · rw [compare_lt_iff_lt.2 h]
          cases o <;> simp [h, h.le, h.ne]
        · rw [compare_eq_iff_eq.2 h]
          cases o <;> simp [h]
        · rw [compare_gt_iff_gt.2 h]
          cases o <;> simp [h.not_gt, h.not_ge, h.ne']
    · rw [(hd b).2 hb]
      cases h : fmtFp32.decode a.toNat <;> cases o <;> rfl
  · rw [(hd a).2 ha]
    cases o <;> rfl

/-- The class of an encoding. -/
theorem fpClass_eq (a : BitVec 32) : fpClass a.toNat = 2 ^ (
    if Spec.isNan a then 8
    else if a.extractLsb' 23 8 = 0xFF then (if a.msb then 0 else 7)
    else if a.extractLsb' 23 8 = 0 ∧ a.extractLsb' 0 23 = 0 then (if a.msb then 3 else 4)
    else if a.extractLsb' 23 8 = 0 then (if a.msb then 2 else 5)
    else (if a.msb then 1 else 6)) := by
  have hu := fp32_magnitude a
  have hlt := a.isLt
  have hex : (a.extractLsb' 23 8).toNat = (a.setWidth 31).toNat / 2 ^ 23 := by
    rw [BitVec.extractLsb'_toNat, Nat.shiftRight_eq_div_pow, hu]; omega
  have hfr : (a.extractLsb' 0 23).toNat = (a.setWidth 31).toNat % 2 ^ 23 := by
    rw [BitVec.extractLsb'_toNat, Nat.shiftRight_zero, hu]; omega
  have hbits : bits a.toNat 30 23 = (a.setWidth 31).toNat / 2 ^ 23 := by
    rw [bits, Nat.shiftRight_eq_div_pow, hu]; omega
  have hsign : bit a.toNat 31 = a.msb := fp32_sign a
  have h31 := (a.setWidth 31).isLt
  obtain ⟨u, hue⟩ : ∃ u, (a.setWidth 31).toNat = u := ⟨_, rfl⟩
  rw [hue] at h31
  simp only [fpClass, hbits, hsign, fp32_decode, ← BitVec.toNat_inj, hex, hfr, Spec.isNan, hue, decide_eq_true_eq, BitVec.ofNat_eq_ofNat,
    BitVec.toNat_ofNat]
  by_cases h1 : 0x7F800000 < u
  · simp [h1]
  · by_cases h2 : u = 0x7F800000
    · subst h2
      cases a.msb <;> rfl
    · have h3 : u / 2 ^ 23 ≠ 255 := by omega
      simp only [h1, h2, if_false, mant_eq_zero_iff]
      rw [if_neg (show ¬ u / 2 ^ 23 = 255 % 2 ^ 8 from h3)]
      by_cases h4 : u = 0
      · subst h4
        cases a.msb <;> rfl
      · rw [if_neg h4, if_neg (show ¬ (u / 2 ^ 23 = 0 % 2 ^ 8 ∧ u % 2 ^ 23 = 0 % 2 ^ 23) by omega)]
        by_cases h5 : u / 2 ^ 23 = 0
        · rw [if_pos h5, if_pos (show u / 2 ^ 23 = 0 % 2 ^ 8 from h5)]
          cases a.msb <;> rfl
        · rw [if_neg h5, if_neg (show ¬ u / 2 ^ 23 = 0 % 2 ^ 8 from h5)]
          cases a.msb <;> rfl

/-- FMIN, FMAX, FEQ, FLT, FLE and FCLASS. -/
theorem fpuComparesAndClass : Spec.FpuComparesAndClass := by
  have hb : ∀ a : Word, fpBits a = (a.setWidth 32).toNat := fun a => (BitVec.toNat_setWidth _ _).symm
  refine fun s => ⟨fun x h => ⟨?_, ?_, ?_, ?_, ?_⟩, fun x h => ?_⟩
  · exact scalar_writesFp h (by simp only [fpuMinMax, run_bind, run_readX, hb, fMinMax_eq]; rfl)
  · exact scalar_writesFp h (by simp only [fpuMinMax, run_bind, run_readX, hb, fMinMax_eq]; rfl)
  · refine scalar_writesFp h ?_
    simp only [fpuCompare, run_bind, run_readX, fpVal_eq, fCompare_eq, bne_self_eq_false, Bool.and_false]
    rfl
  · refine scalar_writesFp h ?_
    simp only [fpuCompare, run_bind, run_readX, fpVal_eq, fCompare_eq, show (CmpOp.lt != CmpOp.eq) = true from rfl, Bool.and_true]
    rfl
  · refine scalar_writesFp h ?_
    simp only [fpuCompare, run_bind, run_readX, fpVal_eq, fCompare_eq, show (CmpOp.le != CmpOp.eq) = true from rfl, Bool.and_true]
    rfl
  · refine scalar_writes h ?_
    simp only [Ends, run_bind, run_readX, hb, fpClass_eq]
    rfl

/-- Settles O5: the rounded operations, and the operations on the bits of FP32. -/
theorem fpuResults : Obligations.FpuResults := ⟨fpuResults_rounded, fpuComparesAndClass⟩

end Sys2Proof.Machine
end

section
/-! Transfers of control (02_encoding.md, 12_registers.md): branches and jumps (R14 to R16, R254, R255). -/
namespace Sys2Proof.Machine

open Sys2Proof

/-! ## Going to a target (R16) -/

/-- A target that is not well formed, or whose LINE leaves 51 bits. -/
theorem run_goTo_malformed {sup ok : Bool} {ia : Word} (h : ok = false ∨ wellFormedIa ia = false) (taken : M Unit) (s : State) :
    runM (goTo sup ia ok taken) s = (.error (.trap (illegalTarget ia)), s) := by
  have : (!ok || !wellFormedIa ia) = true := by rcases h with h | h <;> simp [h]
  simp only [goTo, this, if_true, run_raise]

/-- A target whose line is fetched. -/
theorem run_goTo_line {sup : Bool} {ia : Word} {l : Line} {s t : State} (hw : wellFormedIa ia = true) (hl : Answers (enterLine sup ia) s l t)
    (taken : M Unit) : runM (goTo sup ia true taken) s =
      if lineNh l < iaSlot ia then (.error (.trap (illegalTarget ia)), t) else runM (do taken; modMe fun k => k.goAt ia (some l)) t := by
  simp only [goTo, hw, Bool.not_true, Bool.or_self, Bool.false_eq_true, if_false, run_bind (tryTrap _), run_tryTrap]
  rw [show runM (enterLine sup ia) s = (.ok l, t) from hl]
  simp only [run_ite, run_raise]

/-- A target whose fetch faults. -/
theorem run_goTo_fault {sup : Bool} {ia : Word} {r : Trap} {s t : State} (hw : wellFormedIa ia = true) (hl : Traps (enterLine sup ia) s r t)
    (taken : M Unit) : runM (goTo sup ia true taken) s = runM (do taken; modMe fun k => k.goAt ia none; raise r) t := by
  simp only [goTo, hw, Bool.not_true, Bool.or_self, Bool.false_eq_true, if_false, run_bind (tryTrap _), run_tryTrap]
  rw [show runM (enterLine sup ia) s = (.error (.trap r), t) from hl]

/-! ## What transfers (R254, R255) -/

/-- The relative target of the executing core. -/
theorem relTarget_eq (s : State) (delta : Int) (slot : BitVec 5) :
    (relTarget s.me delta slot).1 = Spec.target s delta slot ∧ ((relTarget s.me delta slot).2 = true ↔ Spec.LineInRange s delta) := by
  refine ⟨rfl, ?_⟩
  rw [relTarget, Bool.and_eq_true, decide_eq_true_iff, decide_eq_true_iff]
  exact Iff.rfl

/-- The body of a transfer: it goes to its target, and writes its link as it goes. -/
structure IsTransfer (s : State) (i : Instr) (ia : Word) (ok : Prop) (link : State → State) (rs : List Reg) (body : M Flow) (inRange : Bool)
    (taken : M Unit) : Prop where
  exec : exec i s = instr rs body s
  free : s.me.pending rs = false
  body : runM body s = runM (do goTo s.me.sstat.mode ia inRange taken; return .stay) s
  inRange : inRange = true ↔ ok
  taken : ∀ t, runM taken t = (.ok (), link t)

/-- A branch whose comparison is true goes to its target. -/
theorem run_branch_true {cond : Word → Word → Bool} {x : BrF} {s : State} (h : cond (s.me.x x.a) (s.me.x x.b) = true) :
    runM (branch cond x) s = runM (do goTo s.me.sstat.mode (Spec.target s x.delta.toInt x.slot) (relTarget s.me x.delta.toInt x.slot).2 (pure ()); return .stay) s := by
  simp only [branch, run_bind (readX _), run_readX, h, if_true, run_bind getMe, run_getMe]
  rfl

/-- A branch whose comparison is false goes on. -/
theorem run_branch_false {cond : Word → Word → Bool} {x : BrF} {s : State} (h : cond (s.me.x x.a) (s.me.x x.b) = false) :
    Answers (branch cond x) s .next s := by
  simp only [Answers, branch, run_bind, run_readX, h, Bool.false_eq_true, if_false, run_pure]

/-- The six branches: the comparison of each, as a condition on the values. -/
theorem branch_cases {s : State} {x : BrF} {i : Instr} {c : Prop}
    (h : (i, c) ∈ [(Instr.beq x, s.me.x x.a = s.me.x x.b), (.bne x, s.me.x x.a ≠ s.me.x x.b),
        (.blt x, (s.me.x x.a).toInt < (s.me.x x.b).toInt), (.bge x, (s.me.x x.b).toInt ≤ (s.me.x x.a).toInt),
        (.bltu x, (s.me.x x.a).toNat < (s.me.x x.b).toNat), (.bgeu x, (s.me.x x.b).toNat ≤ (s.me.x x.a).toNat)]) :
    ∃ cond : Word → Word → Bool, exec i s = instr [x.a, x.b] (branch cond x) s ∧ (cond (s.me.x x.a) (s.me.x x.b) = true ↔ c) := by
  simp only [List.mem_cons, Prod.mk.injEq, List.not_mem_nil, or_false] at h
  rcases h with ⟨rfl, rfl⟩ | ⟨rfl, rfl⟩ | ⟨rfl, rfl⟩ | ⟨rfl, rfl⟩ | ⟨rfl, rfl⟩ | ⟨rfl, rfl⟩
  · exact ⟨_, rfl, by simp⟩
  · exact ⟨_, rfl, by simp⟩
  · exact ⟨_, rfl, by simp [BitVec.slt_iff_toInt_lt]⟩
  · exact ⟨_, rfl, by simp [BitVec.slt_eq_decide]⟩
  · exact ⟨_, rfl, by simp [BitVec.ult_iff_toNat_lt]⟩
  · exact ⟨_, rfl, by simp [BitVec.ult_eq_decide]⟩

/-- Every transfer of control has such a body. -/
theorem isTransfer_of_transfers {s : State} {i : Instr} {ia : Word} {ok : Prop} {link : State → State} (h : Spec.Transfers s i ia ok link) :
    ∃ rs body inRange taken, IsTransfer s i ia ok link rs body inRange taken := by
  cases h with
  | jal x hp => exact ⟨_, _, _, _, rfl, hp, rfl, (relTarget_eq s x.delta.toInt x.slot).2, fun t => rfl⟩
  | jalr x hp => exact ⟨_, _, _, _, rfl, hp, rfl, by simp, fun t => rfl⟩
  | branch x i c hp hc hm =>
    obtain ⟨cond, he, hcond⟩ := branch_cases hm
    exact ⟨_, _, _, _, he, hp, run_branch_true (hcond.2 hc), (relTarget_eq s x.delta.toInt x.slot).2, fun t => rfl⟩

/-- A transfer whose target can be entered goes there. -/
theorem exec_transfer {s : State} {i : Instr} {ia : Word} {ok : Prop} {link : State → State} (h : Spec.Transfers s i ia ok link) {l : Line} {t : State}
    (hok : ok) (hg : Spec.CanGo s ia l t) : exec i s = .next ((link t).wentTo ia l) := by
  obtain ⟨rs, body, inRange, taken, hx⟩ := isTransfer_of_transfers h
  rw [hx.exec]
  refine instr_stays hx.free ?_
  rw [Answers, hx.body, run_bind, hx.inRange.2 hok, run_goTo_line hg.formed hg.line, if_neg (not_lt.2 hg.slot)]
  simp only [run_bind, hx.taken, run_modMe, run_pure]
  rfl

theorem illegalTargets : Spec.IllegalTargets := by
  intro s i ia ok link h
  obtain ⟨rs, body, inRange, taken, hx⟩ := isTransfer_of_transfers h
  rw [hx.exec]
  refine ⟨fun hbad => instr_traps hx.free ?_, fun l t hok hw hl hs => instr_traps hx.free ?_⟩
  · rw [Traps, hx.body, run_bind, run_goTo_malformed (hbad.imp_left fun h => Bool.eq_false_iff.2 (mt hx.inRange.1 h))]
    rfl
  · rw [Traps, hx.body, run_bind, hx.inRange.2 hok, run_goTo_line hw hl, if_pos hs]
    rfl

theorem targetFetchFault : Spec.TargetFetchFault := by
  intro s i ia ok link r t h hok hw hc hl
  obtain ⟨rs, body, inRange, taken, hx⟩ := isTransfer_of_transfers h
  have hlink : (link t).cur < (link t).cores.length := by
    cases h <;> simpa using hc
  rw [hx.exec]
  have hb : Traps body s r ((link t).updMe fun k => k.goAt ia none) := by
    rw [Traps, hx.body, run_bind, hx.inRange.2 hok, run_goTo_fault hw hl]
    simp only [run_bind, hx.taken, run_modMe, run_raise]
  rw [instr_traps hx.free hb, me_updMe _ _ hlink]
  rfl

/-- A branch goes to its target where its comparison is true, and on where it is not. -/
theorem exec_branch {s : State} {x : BrF} {l : Line} {t : State} (h : Ready s [x.a, x.b]) (hr : Spec.LineInRange s x.delta.toInt)
    (hg : Spec.CanGo s (Spec.target s x.delta.toInt x.slot) l t) {i : Instr} {c : Prop}
    (hm : (i, c) ∈ [(Instr.beq x, s.me.x x.a = s.me.x x.b), (.bne x, s.me.x x.a ≠ s.me.x x.b),
        (.blt x, (s.me.x x.a).toInt < (s.me.x x.b).toInt), (.bge x, (s.me.x x.b).toInt ≤ (s.me.x x.a).toInt),
        (.bltu x, (s.me.x x.a).toNat < (s.me.x x.b).toNat), (.bgeu x, (s.me.x x.b).toNat ≤ (s.me.x x.a).toNat)]) :
    (c → exec i s = .next (t.wentTo (Spec.target s x.delta.toInt x.slot) l)) ∧ (¬ c → exec i s = .next s.goesOn) := by
  refine ⟨fun hc => exec_transfer (.branch x i c h.free hc hm) hr hg, fun hc => ?_⟩
  obtain ⟨cond, he, hcond⟩ := branch_cases hm
  rw [he]
  exact instr_goes h.free (run_branch_false (Bool.eq_false_iff.2 (mt hcond.1 hc))) h.cur h.next

theorem branchResults : Spec.BranchResults := by
  intro s x l t h hr hg
  refine ⟨?_, ?_, ?_, ?_, ?_, ?_⟩ <;> exact exec_branch h hr hg (by simp)

theorem jumpResults : Spec.JumpResults := fun _ _ _ =>
  ⟨fun x hp hr hg => exec_transfer (.jal x hp) hr hg, fun x hp hg => exec_transfer (.jalr x hp) trivial hg⟩

/-- Settles O6: every transfer has the same body, which goes to its target or traps there. -/
theorem transfersOfControl : Obligations.TransfersOfControl := ⟨branchResults, jumpResults, illegalTargets, targetFetchFault⟩

/-! ## Register writes and addresses (R15, R236) -/

/-- A register write in supervisor mode leaves the task bank, and one in task mode the supervisor bank. -/
theorem setX_task {k : Core} (h : k.sstat.mode = true) (d : Reg) (v : Word) : (k.setX d v).task = k.task := by
  rw [Core.setX, h, if_pos rfl]; split <;> rfl

theorem setX_sup {k : Core} (h : k.sstat.mode = false) (d : Reg) (v : Word) : (k.setX d v).sup = k.sup := by
  rw [Core.setX, h, if_neg Bool.false_ne_true]; split <;> rfl

/-- The executing core after a change that leaves where it stands, and going on. -/
theorem me_goesOn_updMe {s : State} {f : Core → Core} (hc : s.cur < s.cores.length) (hw : wellFormedIa s.me.nextIa = true)
    (hia : (f s.me).ia = s.me.ia) (hl : (f s.me).line = s.me.line) :
    (s.updMe f).goesOn.me = { f s.me with ia := s.me.nextIa, line := if iaSlot s.me.ia < s.me.nh then s.me.line else none } := by
  have hn : (f s.me).nextIa = s.me.nextIa := by rw [Core.nextIa, Core.nextIa, Core.nh, Core.nh, hia, hl]
  rw [State.goesOn, updMe_updMe, me_updMe _ _ hc, advance_fst (by rw [hn]; exact hw), hn, hia, hl, Core.nh, hl]
  rfl

/-- The whole frame of a register write. -/
theorem registerWrites : Spec.RegisterWrites := by
  intro s d v hc hw
  have ht : (s.wrote d v).me = _ := me_goesOn_updMe hc hw (setX_ia s.me d v) (setX_line s.me d v)
  have hx : ∀ (k : Core) (ia : Word) (l : Option LineBuf) (fl : BitVec 6) (r : Reg), ({ k with ia := ia, line := l, flags := fl } : Core).x r = k.x r :=
    fun _ _ _ _ _ => rfl
  have hframe := setX_eq s.me d v
  refine ⟨fun r => ?_, x_zero _, fun hm => ?_, fun hm => ?_, ?_, ?_, fun c hne => ?_, rfl, fun f => ?_⟩
  · rw [ht]; exact (hx _ _ _ _ r).trans (x_setX s.me d r v)
  · rw [ht]; exact setX_task hm d v
  · rw [ht]; exact setX_sup hm d v
  · rw [ht, hframe]
  · rw [ht]
  · exact (core_goesOn_ne (s := s.updMe fun k => k.setX d v) hne).trans (core_updCore_ne s s.cur c _ hne.symm)
  · have hu : (s.wroteFp d (v.toNat, f)).me = _ :=
      me_goesOn_updMe (f := fun k => { k.setX d (word v.toNat) with flags := k.flags ||| f }) hc hw (setX_ia s.me d _) (setX_line s.me d _)
    have hv : word v.toNat = v := by rw [word, BitVec.ofNat_toNat, BitVec.setWidth_eq]
    rw [hv] at hu
    refine ⟨fun r => ?_, ?_, ?_, rfl⟩
    · rw [hu]; exact (hx _ _ _ _ r).trans (x_setX s.me d r v)
    · rw [hu]
    · rw [hu, hframe]

/-- An address is well formed by its fields. -/
theorem wellFormedIa_iff (ia : Word) : wellFormedIa ia = true ↔ ia.extractLsb' 57 7 = 0 ∧ ia.getLsbD 5 = false ∧ ia.extractLsb' 0 5 ≠ 0 := by
  have := ia.isLt
  simp only [wellFormedIa, Bool.and_eq_true, decide_eq_true_iff, Bool.not_eq_true', bne_iff_ne, ne_eq, ← BitVec.toNat_inj,
    BitVec.extractLsb'_toNat, Nat.shiftRight_eq_div_pow, and_assoc]
  refine and_congr ?_ (and_congr Iff.rfl ?_)
  · simp only [BitVec.ofNat_eq_ofNat, BitVec.toNat_ofNat]
    omega
  · rw [iaSlot, pow_zero, Nat.div_one]
    rfl

/-- The next address, by its fields. -/
theorem nextIa_eq (ia : Word) (nh : Nat) : nextIa ia nh =
    if (ia.extractLsb' 0 5).toNat < nh then ia + 1 else (((ia.extractLsb' 6 51).setWidth 64 + 1) <<< 6) ||| 1 := by
  have hs : (ia.extractLsb' 0 5).toNat = iaSlot ia := by rw [BitVec.extractLsb'_toNat, Nat.shiftRight_zero]; rfl
  have hl : (ia.extractLsb' 6 51).toNat = iaLine ia := BitVec.extractLsb'_toNat _ _ _
  rw [nextIa, hs]
  congr 1
  apply BitVec.eq_of_toNat_eq
  have hlt : iaLine ia < 2 ^ 51 := hl ▸ (ia.extractLsb' 6 51).isLt
  have h1 : (((ia.extractLsb' 6 51).setWidth 64 + 1) <<< 6).toNat = 2 ^ 6 * (iaLine ia + 1) := by
    rw [BitVec.toNat_shiftLeft, BitVec.toNat_add, BitVec.toNat_setWidth, hl, Nat.shiftLeft_eq]
    simp only [BitVec.ofNat_eq_ofNat, BitVec.toNat_ofNat]
    omega
  rw [BitVec.toNat_or, h1, word, BitVec.toNat_ofNat, show (1 : Word).toNat = 1 from rfl, ← Nat.two_pow_add_eq_or_of_lt (by decide : 1 < 2 ^ 6)]
  omega

/-- An instruction whose body ends where next_ia is not well formed has its effect and traps there. -/
theorem scalar_retire_traps {rs : List Reg} {body : M Unit} {s t : State} (hp : s.me.pending rs = false) (hb : Ends body s t)
    (hw : wellFormedIa t.me.nextIa = false) : scalar rs body s = .next (t.after (trapEntry (some (illegalTarget t.me.nextIa)) t.me.ia)) := by
  have hr : runM retire t = runM (trapEntry (some (illegalTarget t.me.nextIa)) t.me.ia) t := by
    simp only [retire, run_bind getMe, run_getMe, Core.advance, hw, Bool.false_eq_true, if_false]
  simp only [scalar, instr, after_eq, runInstr, run_bind, run_tryTrap, run_interlock hp]
  rw [show runM body s = (.ok (), t) from hb]
  simp only [run_pure, hr]

/-- Well-formed addresses, the next address, and the ADD where that is not well formed. -/
theorem nextAddress : Spec.NextAddress := by
  refine ⟨wellFormedIa_iff, nextIa_eq, fun s x hc hp hw => ?_⟩
  have hme : (s.updMe fun k => k.setX x.d (Spec.alu x.w32 (fun _ a b => a + b) (s.me.x x.a) (s.me.x x.b))).me = _ := me_updMe s _ hc
  have hn : ∀ v, (s.me.setX x.d v).nextIa = s.me.nextIa := fun v => by simp [Core.nextIa, Core.nh]
  have hb : Ends (aluTwo aluAdd x) s (s.updMe fun k => k.setX x.d (Spec.alu x.w32 (fun _ a b => a + b) (s.me.x x.a) (s.me.x x.b))) := by
    rw [← aluApply_eq computes_add]; rfl
  refine (scalar_retire_traps hp hb (by rw [hme, hn]; exact hw)).trans ?_
  rw [hme, hn, setX_ia]
  rfl

/-- Settles O7: the frame of a register write, and the addresses. -/
theorem registersAndAddresses : Obligations.RegistersAndAddresses := ⟨registerWrites, nextAddress⟩

end Sys2Proof.Machine
end

section
/-! PROOF. The state after reset, and the abstract machine of the clocks (R305, R306, R393). -/
namespace Sys2Proof.Machine

open Sys2Proof

/-! ## Reset (R393) -/

/-- The parts of the device are at their reset values after reset. -/
theorem core_reset {k : Core} (h : k ∈ State.reset.cores) : k = Core.reset := List.eq_of_mem_replicate h

theorem die_reset {d : Die} (h : d ∈ State.reset.dies) : d = Die.reset := List.eq_of_mem_replicate h

theorem mxe_reset {m : Mxe} (h : m ∈ State.reset.mxes) : m = Mxe.reset := List.eq_of_mem_replicate h

theorem crust_reset {c : Crust} (h : c ∈ State.reset.crusts) : c = Crust.reset := List.eq_of_mem_replicate h

/-- A vector of one value reads it, or the default beyond its end where that is the value too. -/
theorem getD_replicate {α : Type} (n i : Nat) (a : α) : (Vector.replicate n a).getD i a = a := by
  rw [Vector.getD, Array.getD_eq_getD_getElem?, Vector.toArray_replicate, Array.getElem?_replicate]
  split <;> rfl

theorem reset_shaped : Spec.Shaped State.reset where
  sized := ⟨List.length_replicate, List.length_replicate, List.length_replicate, List.length_replicate, by decide⟩
  memory := rfl
  rows k h := core_reset h ▸ List.Pairwise.nil
  slices k h := core_reset h ▸ List.Pairwise.nil
  slots m h := mxe_reset h ▸ List.Pairwise.nil

/-- Every die of a number, also of one that no die has, is at its reset values. -/
theorem die_of_reset (d : Nat) : State.reset.die d = Die.reset := by
  rw [State.die, List.getD_eq_getElem?_getD, State.reset, List.getElem?_replicate]
  split <;> rfl

theorem reset_causal : Spec.Causal State.reset where
  dies := List.length_replicate
  clocks d h _ _ := by rw [die_of_reset, die_of_reset]
  inbox d _ u hu := by rw [die_of_reset] at hu; exact absurd hu List.not_mem_nil
  flight _ h := absurd h List.not_mem_nil
  stores k hk e he := by rw [core_reset hk] at he; exact absurd he List.not_mem_nil

/-- A core after reset reads 0 in every register. -/
theorem x_reset (r : Reg) : Core.reset.x r = 0 := by
  unfold Core.x
  split
  · rfl
  · exact Vector.getElem_replicate _

/-- Settles O57: each part of the reset state is a table of the reset values. -/
theorem resetState : Obligations.ResetState := by
  refine ⟨reset_shaped, reset_causal, fun _ => rfl, rfl, rfl, rfl, rfl, rfl, rfl, rfl, rfl, rfl, rfl, rfl, fun k hk => ?_, fun d hd => ?_,
    fun m hm k => ?_, fun c hc => ?_⟩
  · rw [core_reset hk]
    exact ⟨rfl, x_reset, rfl, rfl, rfl, rfl, rfl, rfl, rfl, rfl, rfl, rfl, rfl, rfl, rfl, rfl, rfl, fun _ _ => ⟨rfl, rfl⟩, fun _ => rfl⟩
  · rw [die_reset hd]
    exact ⟨rfl, rfl, rfl, rfl, rfl, rfl, rfl, rfl, rfl⟩
  · rw [mxe_reset hm]
    refine ⟨fun g => getD_replicate 4 g none, fun t r n => ?_, fun n => ?_⟩
    · rw [Mxe.acc, Mxe.reset, getD_replicate]; rfl
    · rw [Mxe.slot, Mxe.reset, getD_replicate]
  · rw [crust_reset hc]
    exact ⟨rfl, rfl, rfl⟩

/-! ## What a write leaves (R306) -/

/-- A state without its memory and what is known of the lines. -/
def State.bare (s : State) : State :=
  { s with mem := [], dirty := [], vague := [], badLines := [], badCounters := [], sealTags := [] }

theorem bare_noteDirty (s : State) (loc : Nat) : (s.noteDirty loc).bare = s.bare := by
  unfold State.noteDirty; split <;> rfl

theorem bare_setBytes (s : State) (loc : Nat) (bs : List Byte) : (s.setBytes loc bs).bare = s.bare := by
  rw [setBytes_eq]; rfl

theorem bare_makeExact (s : State) (line : Nat) : (s.makeExact line).bare = s.bare := rfl

theorem bare_clearLine (s : State) (line : Nat) : (s.clearLine line).bare = s.bare := rfl

/-- Placing bytes changes memory and what is known of the lines. -/
theorem bare_placeBytes (s : State) (key : Option Nat) (loc : Nat) (bs : List Byte) : (s.placeBytes key loc bs).bare = s.bare := by
  have kept : ∀ (u : State) (keep whole : Bool) (line : Nat) (rest : List Byte),
      (if whole then (if keep then (u.makeExact line).setBytes (line * 64) rest else u).clearLine line
        else (if keep then (u.makeExact line).setBytes (line * 64) rest else u)).bare = u.bare := by
    intro u keep whole line rest
    cases keep <;> cases whole <;>
      simp only [Bool.false_eq_true, if_false, if_true, bare_clearLine, bare_setBytes, bare_makeExact]
  exact (bare_setBytes _ _ _).trans ((kept _ _ _ _ _).trans (bare_noteDirty s loc))

@[simp] theorem placeBytes_cores (s : State) (key : Option Nat) (loc : Nat) (bs : List Byte) : (s.placeBytes key loc bs).cores = s.cores :=
  (congrArg State.cores (bare_placeBytes s key loc bs) :)

@[simp] theorem placeBytes_dies (s : State) (key : Option Nat) (loc : Nat) (bs : List Byte) : (s.placeBytes key loc bs).dies = s.dies :=
  (congrArg State.dies (bare_placeBytes s key loc bs) :)

@[simp] theorem placeBytes_stamps (s : State) (key : Option Nat) (loc : Nat) (bs : List Byte) : (s.placeBytes key loc bs).stamps = s.stamps :=
  (congrArg State.stamps (bare_placeBytes s key loc bs) :)

@[simp] theorem placeBytes_inflight (s : State) (key : Option Nat) (loc : Nat) (bs : List Byte) :
    (s.placeBytes key loc bs).inflight = s.inflight :=
  (congrArg State.inflight (bare_placeBytes s key loc bs) :)

@[simp] theorem placeBytes_die (s : State) (key : Option Nat) (loc : Nat) (bs : List Byte) (d : Nat) :
    (s.placeBytes key loc bs).die d = s.die d := congrArg (fun l => l.getD d Die.reset) (placeBytes_dies s key loc bs)

@[simp] theorem placeBytes_core (s : State) (key : Option Nat) (loc : Nat) (bs : List Byte) (c : Nat) :
    (s.placeBytes key loc bs).core c = s.core c := congrArg (fun l => l.getD c Core.reset) (placeBytes_cores s key loc bs)

/-- Written bytes depend on memory alone. -/
theorem mem_setBytes_congr {s t : State} (h : s.mem = t.mem) (loc : Nat) (bs : List Byte) : (s.setBytes loc bs).mem = (t.setBytes loc bs).mem := by
  induction bs generalizing s t loc with
  | nil => exact h
  | cons v r ih => exact ih (s := s.setByte loc v) (t := t.setByte loc v) (congrArg (cellPut true · loc v) h) (loc + 1)

/-- A byte depends on memory alone. -/
theorem byte_congr {s t : State} (h : s.mem = t.mem) (a : Nat) : s.byte a = t.byte a := congrArg (fun m => (cellFind m a).getD 0) h

theorem bytesAt_congr {s t : State} (h : s.mem = t.mem) (a n : Nat) : s.bytesAt a n = t.bytesAt a n := by
  simp only [State.bytesAt, byte_congr h]

/-- A line with defined contents that no key seals, or that is written under a key, takes the bytes alone. -/
theorem mem_placeBytes {s : State} {key : Option Nat} {loc : Nat} (hv : s.vagueSeed (loc / 64) = none)
    (hk : key = none → s.sealOf (loc / 64) = none) (bs : List Byte) : (s.placeBytes key loc bs).mem = (s.setBytes loc bs).mem := by
  have hkeep : ((s.vagueSeed (loc / 64)).isSome || (key.isNone && (s.sealOf (loc / 64)).isSome)) = false := by
    cases key with
    | none => simp [hv, hk rfl]
    | some k => simp [hv]
  unfold State.placeBytes
  dsimp only
  simp only [hkeep, Bool.and_false, Bool.false_eq_true, if_false]
  refine mem_setBytes_congr ?_ loc bs
  dsimp only
  split
  · exact (mem_clearLine _ _).trans (mem_noteDirty s loc)
  · exact mem_noteDirty s loc

/-! ## A write transition (R306) -/

/-- A die after a list of dies has been changed by position. -/
theorem getD_mapIdx {α : Type} (f : Nat → α → α) (l : List α) (d : Nat) (a : α) (h : d < l.length) :
    (l.mapIdx f).getD d a = f d (l.getD d a) := by
  rw [List.getD_eq_getElem _ _ (by simpa using h), List.getElem_mapIdx, List.getD_eq_getElem _ _ h]

/-- The home takes the stamp, and every other die is sent the update. -/
theorem die_stampAt (s : State) (c : Option Nat) (h line loc : Nat) (bs : List Byte) {d : Nat} (hd : d < s.dies.length) :
    (s.stampAt c h line loc bs).die d =
      if d = h then { s.die h with dvc := s.nextStamp h }
      else { s.die d with inbox := (s.die d).inbox ++ [{ home := h, loc := loc, bytes := bs, stamp := s.nextStamp h }] } := by
  have hdies : (s.stampAt c h line loc bs).die d =
      ((modifyNth (fun d : Die => { d with dvc := s.nextStamp h }) h s.dies).mapIdx fun i d =>
        if i = h then d else { d with inbox := d.inbox ++ [{ home := h, loc := loc, bytes := bs, stamp := s.nextStamp h }] }).getD d Die.reset := by
    cases c <;> rfl
  rw [hdies, getD_mapIdx _ _ _ _ (by simpa using hd)]
  by_cases hdh : d = h
  · subst hdh
    rw [if_pos rfl, if_pos rfl, modifyNth_getD_self _ _ _ _ hd]
    rfl
  · rw [if_neg hdh, if_neg hdh, modifyNth_getD_ne _ _ _ _ _ (Ne.symm hdh)]
    rfl

theorem stampOf_setStamp (s : State) (line l : Nat) (ck : Clock) :
    (s.setStamp line ck).stampOf l = if l = line then ck else s.stampOf l := by
  unfold State.stampOf State.setStamp
  dsimp only
  by_cases hl : l = line
  · simp [hl]
  · have hne : (line == l) = false := beq_false_of_ne (Ne.symm hl)
    rw [List.find?_cons, hne, if_neg hl, List.find?_filter]
    refine congrArg (fun q => match List.find? q s.stamps with | some p => p.2 | none => Clock.reset) (funext fun p => ?_)
    by_cases hp : p.1 = l <;> simp [hp, hl]

theorem stampOf_stampAt (s : State) (c : Option Nat) (h line loc : Nat) (bs : List Byte) (l : Nat) :
    (s.stampAt c h line loc bs).stampOf l = if l = line then s.nextStamp h else s.stampOf l := by
  have := stampOf_setStamp (s.noteWrite loc bs.length) line l (s.nextStamp h)
  cases c <;> exact this

/-- The counter of its home in the stamp of a write. -/
theorem nextStamp_get (s : State) {h k : Nat} (hh : h < 4) (hk : k < 4) :
    (s.nextStamp h).get k = if k = h then (s.die h).dvc.get h + 1 else (s.die h).dvc.get k := get_set _ _ _ _ hh hk

/-- Each entry of a list after a change was there before or is a changed one. -/
theorem mem_modifyNth {α : Type} {f : α → α} {n : Nat} {l : List α} {b : α} (h : b ∈ modifyNth f n l) : b ∈ l ∨ ∃ a ∈ l, b = f a := by
  induction l generalizing n with
  | nil => simp [modifyNth] at h
  | cons a r ih =>
    cases n with
    | zero =>
      rcases List.mem_cons.1 h with rfl | h
      · exact .inr ⟨a, List.mem_cons_self, rfl⟩
      · exact .inl (List.mem_cons_of_mem _ h)
    | succ n =>
      rcases List.mem_cons.1 h with rfl | h
      · exact .inl List.mem_cons_self
      · exact (ih h).imp (List.mem_cons_of_mem _) fun ⟨x, hx, e⟩ => ⟨x, List.mem_cons_of_mem _ hx, e⟩

/-! ## Causal clocks (R305, R306) -/

/-- The stores of a core have homes on this device. -/
def Core.StoresHere (k : Core) : Prop := ∀ e ∈ k.sb, Spec.OnDevice e.loc

/-- A change of one core that leaves no store outside the device. -/
theorem storesHere_updCore {s : State} {c : Nat} {f : Core → Core} (h : ∀ k ∈ s.cores, k.StoresHere)
    (hf : ∀ k : Core, k.StoresHere → (f k).StoresHere) : ∀ k ∈ (s.updCore c f).cores, k.StoresHere := by
  intro k hk
  rcases mem_modifyNth hk with hk | ⟨a, ha, rfl⟩
  · exact h k hk
  · exact hf a (h a ha)

/-- A write transition of one of the four homes keeps the clocks causal. -/
theorem causal_stampAt {s : State} (hs : Spec.Causal s) (c : Option Nat) {h : Nat} (hh : h < 4) (line loc : Nat) (bs : List Byte) :
    Spec.Causal (s.stampAt c h line loc bs) := by
  have hdie : ∀ {d}, d < 4 → (s.stampAt c h line loc bs).die d = _ := fun {d} hd => die_stampAt s c h line loc bs (d := d) (by rw [hs.dies]; exact hd)
  have hdvc : ∀ {d}, d < 4 → ((s.stampAt c h line loc bs).die d).dvc = if d = h then s.nextStamp h else (s.die d).dvc := by
    intro d hd; rw [hdie hd]; split <;> rfl
  have hown : ∀ {k}, k < 4 → (s.die k).dvc.get k ≤ ((s.stampAt c h line loc bs).die k).dvc.get k := by
    intro k hk
    rw [hdvc hk]
    split
    · next e => subst e; rw [nextStamp_get s hh hh, if_pos rfl]; omega
    · exact le_rfl
  have hnew : ∀ {k}, k < 4 → (s.nextStamp h).get k ≤ ((s.stampAt c h line loc bs).die k).dvc.get k := by
    intro k hk
    by_cases e : k = h
    · subst e; rw [hdvc hk, if_pos rfl]
    · rw [nextStamp_get s hh hk, if_neg e]
      exact (hs.clocks h k hh hk).trans (hown hk)
  refine ⟨by rw [stampAt_dies_length, hs.dies], fun d k hd hk => ?_, fun d hd u hu => ?_, ?_, ?_⟩
  · rw [hdvc hd]
    split
    · exact hnew hk
    · exact (hs.clocks d k hd hk).trans (hown hk)
  · rw [hdie hd] at hu
    split at hu
    · next e =>
      subst e
      obtain ⟨hne, hlt, hle⟩ := hs.inbox d hd u hu
      exact ⟨hne, hlt, fun k hk => (hle k hk).trans (hown hk)⟩
    · next e =>
      rcases List.mem_append.1 hu with hu | hu
      · obtain ⟨hne, hlt, hle⟩ := hs.inbox d hd u hu
        exact ⟨hne, hlt, fun k hk => (hle k hk).trans (hown hk)⟩
      · rw [List.mem_singleton.1 hu]
        exact ⟨Ne.symm e, hh, fun k hk => hnew hk⟩
  · cases c <;> exact hs.flight
  · cases c with
    | none => exact hs.stores
    | some n => exact storesHere_updCore (s := s) hs.stores fun k hk => hk

/-- Clocks stay causal where dies keep theirs and their inboxes only lose updates, and no place outside the device is new. -/
theorem causal_of_eq {s t : State} (hs : Spec.Causal s) (hl : t.dies.length = 4) (hdvc : ∀ d, d < 4 → (t.die d).dvc = (s.die d).dvc)
    (hin : ∀ d, d < 4 → ∀ u ∈ (t.die d).inbox, u ∈ (s.die d).inbox) (hf : ∀ w ∈ t.inflight, Spec.OnDevice w.loc)
    (hsb : ∀ k ∈ t.cores, k.StoresHere) : Spec.Causal t where
  dies := hl
  clocks d h hd hh := by rw [hdvc d hd, hdvc h hh]; exact hs.clocks d h hd hh
  inbox d hd u hu := by
    obtain ⟨hne, hlt, hle⟩ := hs.inbox d hd u (hin d hd u hu)
    exact ⟨hne, hlt, fun k hk => by rw [hdvc k hk]; exact hle k hk⟩
  flight := hf
  stores := hsb

/-- A write that performs at a place of this device, or outside it, keeps the clocks causal. -/
theorem causal_performAt {s : State} (hs : Spec.Causal s) (c key : Option Nat) {loc : Nat} (hl : Spec.OnDevice loc) (bs : List Byte) :
    Spec.Causal (s.performAt c key loc bs) := by
  have hplace : ∀ (u : State) bs, u.dies = s.dies → u.inflight = s.inflight → u.cores = s.cores → Spec.Causal (u.placeBytes key loc bs) := by
    intro u bs hd hi hc
    have hdie : ∀ d, (u.placeBytes key loc bs).die d = s.die d := fun d => (placeBytes_die u key loc bs d).trans (by rw [State.die, hd]; rfl)
    exact causal_of_eq hs (by rw [placeBytes_dies, hd, hs.dies]) (fun d _ => by rw [hdie]) (fun d _ u hu => by rwa [hdie] at hu)
      (by rw [placeBytes_inflight, hi]; exact hs.flight) (by rw [placeBytes_cores, hc]; exact hs.stores)
  unfold State.performAt
  split
  · cases c with
    | none => exact hs
    | some n => exact causal_of_eq hs hs.dies (fun _ _ => rfl) (fun _ _ _ h => h) hs.flight (storesHere_updCore (s := s) hs.stores fun k hk => hk)
  · cases hh : homeOf loc with
    | none =>
      have hp := hplace s bs rfl rfl rfl
      have hq : Spec.Causal ((s.placeBytes key loc bs).noteWrite loc bs.length) :=
        causal_of_eq hp hp.dies (fun _ _ => rfl) (fun _ _ _ h => h) hp.flight hp.stores
      cases c with
      | none => exact hq
      | some n =>
        simp only [State.sendFabric]
        split
        · exact causal_of_eq hq hq.dies (fun _ _ => rfl) (fun _ _ _ h => h) hq.flight hq.stores
        · exact hq
    | some h => exact causal_stampAt (hplace (s.softWrite loc _) _ rfl rfl rfl) c (hl h hh) _ _ _

theorem causal_commitOne {s : State} (hs : Spec.Causal s) (c : Nat) : Spec.Causal (s.commitOne c) := by
  unfold State.commitOne
  split
  · exact hs
  · next e he =>
    dsimp only
    split
    · exact hs
    · have hmem : ∃ k ∈ s.cores, e ∈ k.sb := by
        have hin := List.mem_of_find?_eq_some he
        by_cases hc : c < s.cores.length
        · exact ⟨s.core c, by rw [State.core, List.getD_eq_getElem _ _ hc]; exact List.getElem_mem hc, hin⟩
        · rw [State.core, List.getD_eq_default _ _ (Nat.le_of_not_lt hc)] at hin
          exact absurd hin List.not_mem_nil
      obtain ⟨k, hk, hek⟩ := hmem
      refine causal_of_eq hs hs.dies (fun _ _ => rfl) (fun _ _ _ h => h) (fun w hw => ?_) (storesHere_updCore (s := s) hs.stores fun k hk x hx => ?_)
      · rcases List.mem_append.1 hw with hw | hw
        · exact hs.flight w hw
        · rw [List.mem_singleton.1 hw]
          exact hs.stores k hk e hek
      · obtain ⟨y, hy, rfl⟩ := List.mem_map.1 hx
        split <;> exact hk y hy

theorem causal_performFlight {s : State} (hs : Spec.Causal s) (n : Nat) : Spec.Causal (s.performFlight n) := by
  unfold State.performFlight
  split
  · exact hs
  · next w hw =>
    split
    · refine causal_performAt ?_ _ _ (hs.flight w (List.mem_of_getElem? hw)) _
      exact causal_of_eq hs hs.dies (fun _ _ => rfl) (fun _ _ _ h => h) (fun v hv => hs.flight v (List.mem_of_mem_eraseIdx hv))
        (storesHere_updCore (s := s) hs.stores fun k hk x hx => hk x (List.mem_of_mem_filter hx))
    · exact hs

theorem causal_applyNth {s : State} (hs : Spec.Causal s) (d n : Nat) : Spec.Causal (s.applyNth d n) := by
  unfold State.applyNth
  split
  · exact hs
  · next u hu =>
    split
    · by_cases hd : d < 4
      · obtain ⟨hne, hlt, hle⟩ := hs.inbox d hd u (List.mem_of_getElem? hu)
        have hself := die_updDie_self (s.dropL1 d (u.loc / 64)) d (fun k => { applyUpdate k u with inbox := k.inbox.eraseIdx n })
          (by rw [show (s.dropL1 d (u.loc / 64)).dies = s.dies from rfl, hs.dies]; exact hd)
        have hother : ∀ e, e ≠ d → _ = s.die e := fun e he =>
          die_updDie_ne (s.dropL1 d (u.loc / 64)) d e (fun k => { applyUpdate k u with inbox := k.inbox.eraseIdx n }) (Ne.symm he)
        have hget : ∀ e k, e < 4 → k < 4 → (((s.dropL1 d (u.loc / 64)).updDie d fun k => { applyUpdate k u with inbox := k.inbox.eraseIdx n }).die e).dvc.get k =
            if e = d ∧ k = u.home then u.stamp.get u.home else (s.die e).dvc.get k := by
          intro e k he hk
          by_cases hed : e = d
          · subst hed
            rw [hself]
            exact (get_set _ _ _ _ hlt hk).trans (by by_cases hku : k = u.home <;> [rw [if_pos hku, if_pos ⟨rfl, hku⟩]; (rw [if_neg hku, if_neg fun h => hku h.2]; rfl)])
          · rw [hother e hed, if_neg fun h => hed h.1]
        have hown : ∀ k, k < 4 → (((s.dropL1 d (u.loc / 64)).updDie d fun k => { applyUpdate k u with inbox := k.inbox.eraseIdx n }).die k).dvc.get k = (s.die k).dvc.get k := by
          intro k hk
          rw [hget k k hk hk, if_neg fun h => hne (h.2.symm.trans h.1)]
        refine ⟨by rw [updDie_dies_length]; exact hs.dies, fun e k he hk => ?_, fun e he v hv => ?_, hs.flight, hs.stores⟩
        · rw [hown k hk, hget e k he hk]
          split
          · next h => rw [h.2]; exact hle _ hlt
          · exact hs.clocks e k he hk
        · have hv' : v ∈ (s.die e).inbox := by
            by_cases hed : e = d
            · subst hed; rw [hself] at hv; exact List.mem_of_mem_eraseIdx hv
            · rwa [hother e hed] at hv
          obtain ⟨h1, h2, h3⟩ := hs.inbox e he v hv'
          exact ⟨h1, h2, fun k hk => by rw [hown k hk]; exact h3 k hk⟩
      · rw [State.die, List.getD_eq_default _ _ (by rw [hs.dies]; omega)] at hu
        exact absurd hu (by simp [Die.reset])
    · exact hs

theorem causal_installFill {s : State} (hs : Spec.Causal s) (n : Nat) : Spec.Causal (s.installFill n) := by
  have hupd : ∀ (u : State) (d : Nat) (g : List Guest → List Guest), u.dies = s.dies → u.cores = s.cores → u.inflight = s.inflight →
      Spec.Causal (u.updDie d fun k => { k with guests := g k.guests }) := by
    intro u d g hu hc hi
    have hk : ∀ e, ∃ gs, ((u.updDie d fun k => { k with guests := g k.guests }).die e) = { s.die e with guests := gs } := by
      intro e
      have he : u.die e = s.die e := by rw [State.die, hu]; rfl
      by_cases hed : d = e
      · subst hed
        by_cases hlt : d < u.dies.length
        · exact ⟨g (s.die d).guests, by rw [die_updDie_self _ _ _ hlt, he]⟩
        · refine ⟨(s.die d).guests, ?_⟩
          rw [State.die, List.getD_eq_default _ _ (by rw [updDie_dies_length]; omega), State.die, List.getD_eq_default _ _ (by rw [← hu]; omega)]
      · exact ⟨(s.die e).guests, by rw [die_updDie_ne _ _ _ _ hed, he]⟩
    refine causal_of_eq hs (by rw [updDie_dies_length, hu, hs.dies]) (fun e _ => ?_) (fun e _ v hv => ?_) (hi ▸ hs.flight) (hc ▸ hs.stores)
    · obtain ⟨gs, h⟩ := hk e; rw [h]
    · obtain ⟨gs, h⟩ := hk e; rw [h] at hv; exact hv
  unfold State.installFill
  split
  · exact hs
  · dsimp only
    split
    · exact hupd _ _ (fun gs => _ :: gs.filter _) rfl rfl rfl
    · split
      · exact causal_of_eq hs hs.dies (fun _ _ => rfl) (fun _ _ _ h => h) hs.flight hs.stores
      · exact hs

/-- Settles O14: each of the four events is one change of the state that keeps the clocks causal. -/
theorem clocksStayCausal : Obligations.ClocksStayCausal := by
  rintro s t a b hs (h | h | h | h) <;> cases h
  · exact causal_commitOne hs a
  · exact causal_performFlight hs a
  · exact causal_applyNth hs a b
  · exact causal_installFill hs a

end Sys2Proof.Machine
end

section
/-! PROOF. What a write leaves of the cores and dies, the store buffer, and the abstract transitions (R305, R306, R308). -/
namespace Sys2Proof.Machine

open Sys2Proof

/-! ## What writes and clocks leave

A write changes memory, what is known of the lines, and clocks; `calm` leaves these out. -/

def Core.calm (k : Core) : Core := { k with ck := Clock.reset, deferred := 0 }

def Die.calm (d : Die) : Die := { d with dvc := Clock.reset, guests := [], inbox := [] }

def State.calm (s : State) : State :=
  { s.bare with
    cores := s.cores.map Core.calm, dies := s.dies.map Die.calm, stamps := [], writes := [], l1 := [], fabric := [],
    verOwned := [], verTaint := [] }

theorem map_modifyNth {α β : Type} {f : α → β} {g : α → α} (h : ∀ a, f (g a) = f a) (n : Nat) (l : List α) :
    (modifyNth g n l).map f = l.map f := by
  induction l generalizing n with
  | nil => cases n <;> rfl
  | cons a r ih => cases n <;> simp [modifyNth, h, ih]

theorem calm_updCore {f : Core → Core} (h : ∀ k, (f k).calm = k.calm) (s : State) (c : Nat) : (s.updCore c f).calm = s.calm := by
  unfold State.calm State.updCore State.bare
  simp only [map_modifyNth h]

theorem calm_updDie {f : Die → Die} (h : ∀ d, (f d).calm = d.calm) (s : State) (d : Nat) : (s.updDie d f).calm = s.calm := by
  unfold State.calm State.updDie State.bare
  simp only [map_modifyNth h]

theorem calm_applyPass (us : List Update) (d : Die) : (applyPass d us).1.calm = d.calm := by
  induction us generalizing d with
  | nil => rfl
  | cons u r ih =>
    unfold applyPass
    split
    · exact ih _
    · exact ih d

theorem calm_drainPasses (n : Nat) (d : Die) : (drainPasses n d).calm = d.calm := by
  induction n generalizing d with
  | zero => rfl
  | succ n ih =>
    have hp := calm_applyPass d.inbox { d with inbox := [] }
    unfold drainPasses
    dsimp only
    split
    · exact hp
    · exact (ih _).trans hp

theorem calm_drainInbox (s : State) (d : Nat) : (s.drainInbox d).calm = s.calm :=
  calm_updDie (s := { s with l1 := _ }) (fun k => calm_drainPasses _ k) d

theorem calm_catchUpTo (s : State) (ck : Clock) (h : Nat) : (s.catchUpTo ck h).calm = s.calm := by
  unfold State.catchUpTo; split
  · rfl
  · exact calm_drainInbox s h

theorem calm_placeBytes (s : State) (key : Option Nat) (loc : Nat) (bs : List Byte) : (s.placeBytes key loc bs).calm = s.calm :=
  congrArg (fun u : State => { u with
    cores := u.cores.map Core.calm, dies := u.dies.map Die.calm, stamps := [], writes := [], l1 := [], fabric := [],
    verOwned := [], verTaint := [] }) (bare_placeBytes s key loc bs)

theorem calm_stampAt (s : State) (c : Option Nat) (h line loc : Nat) (bs : List Byte) : (s.stampAt c h line loc bs).calm = s.calm := by
  have hd : ∀ (l : List Die) (f : Nat → Die → Die), (∀ i d, (f i d).calm = d.calm) → (l.mapIdx f).map Die.calm = l.map Die.calm := by
    intro l f hf
    apply List.ext_getElem (by simp)
    intro i h1 h2
    simp [hf]
  have hs : ∀ u : State, ({ u with dies := u.dies.mapIdx fun i d => if i = h then d else
      { d with inbox := d.inbox ++ [{ home := h, loc := loc, bytes := bs, stamp := s.nextStamp h }] } } : State).calm = u.calm := by
    intro u
    unfold State.calm State.bare
    simp only
    rw [hd]
    intro i d
    split <;> rfl
  have hall := (hs ((((s.noteWrite loc bs.length).setStamp line (s.nextStamp h)).dropL1 h line).updDie h fun d => { d with dvc := s.nextStamp h })).trans
    (calm_updDie (f := fun d => { d with dvc := s.nextStamp h }) (fun _ => rfl) _ h)
  cases c with
  | none => exact hall
  | some n => exact (calm_updCore (f := fun k => { k with ck := k.ck.join (s.nextStamp h) }) (fun _ => rfl) _ n).trans hall

theorem calm_performAt (s : State) (c key : Option Nat) (loc : Nat) (bs : List Byte) : (s.performAt c key loc bs).calm = s.calm := by
  unfold State.performAt
  split
  · cases c with
    | none => rfl
    | some n => exact calm_updCore (f := fun k => { k with deferred := k.deferred + 1 }) (fun _ => rfl) s n
  · split
    · refine Eq.trans ?_ (calm_placeBytes s key loc bs)
      cases c with
      | none => rfl
      | some n => simp only [State.sendFabric]; split <;> rfl
    · exact (calm_stampAt _ _ _ _ _ _).trans (calm_placeBytes (s.softWrite loc _) _ _ _)

theorem calm_perform (s : State) (c key : Option Nat) (loc : Nat) (bs : List Byte) : (s.perform c key loc bs).calm = s.calm := by
  unfold State.perform
  split
  · exact calm_performAt s c key loc bs
  · exact (calm_performAt _ _ _ _ _).trans (calm_catchUpTo _ _ _)

/-- Calmness of a fold of calm steps. -/
theorem calm_foldl {α : Type} {f : State → α → State} (hf : ∀ s a, (f s a).calm = s.calm) (l : List α) (s : State) :
    (l.foldl f s).calm = s.calm := by
  induction l generalizing s with
  | nil => rfl
  | cons a r ih => exact (ih _).trans (hf s a)

/-- Each core of states that agree but for memory and clocks. -/
theorem core_of_calm {s t : State} (h : s.calm = t.calm) (c : Nat) : (s.core c).calm = (t.core c).calm := by
  have hm : ∀ u : State, (u.core c).calm = u.calm.core c := fun u => by
    rw [State.core, State.core, List.getD_eq_getElem?_getD, List.getD_eq_getElem?_getD]
    simp only [State.calm, List.getElem?_map]
    cases u.cores[c]? <;> rfl
  rw [hm, hm, h]

theorem cur_of_calm {s t : State} (h : s.calm = t.calm) : s.cur = t.cur := (congrArg State.cur h :)

theorem cores_length_of_calm {s t : State} (h : s.calm = t.calm) : s.cores.length = t.cores.length := by
  have := congrArg (fun u : State => u.cores.length) h
  simpa [State.calm] using this

theorem dies_length_of_calm {s t : State} (h : s.calm = t.calm) : s.dies.length = t.dies.length := by
  have := congrArg (fun u : State => u.dies.length) h
  simpa [State.calm] using this

theorem sb_of_calm {s t : State} (h : s.calm = t.calm) (c : Nat) : (s.core c).sb = (t.core c).sb := (congrArg Core.sb (core_of_calm h c) :)

/-! ## The store buffer (R204, R308) -/

/-- The stores of a core that may leave it have left its buffer. -/
def State.emptied (s : State) (c : Nat) : State :=
  { s.updCore c fun k => { k with sb := k.sb.drop (s.leaving c).length } with inflight := s.inflight.filter fun w => w.core != c }

/-- Beside memory and clocks, a core that performs its stores empties its buffer. -/
theorem calm_flushSb (s : State) (c : Nat) : (s.flushSb c).calm = (s.emptied c).calm :=
  calm_foldl (f := fun s (e : SbEntry) => s.perform (some c) e.key e.loc e.bytes) (fun s e => calm_perform s (some c) e.key e.loc e.bytes) _ _

theorem flushSb_cur (s : State) (c : Nat) : (s.flushSb c).cur = s.cur := (cur_of_calm (calm_flushSb s c) :)

theorem flushSb_cores_length (s : State) (c : Nat) : (s.flushSb c).cores.length = s.cores.length :=
  (cores_length_of_calm (calm_flushSb s c)).trans (updCore_cores_length _ _ _)

/-- With an empty queue every store of a core leaves it. -/
theorem leaving_of_queue {s : State} {c : Nat} (h : (s.core c).queue = []) : s.leaving c = (s.core c).sb := by
  refine List.takeWhile_eq_self_iff.2 fun e _ => ?_
  simp [State.mayLeave, h]

theorem flushSb_sb {s : State} {c : Nat} (hc : c < s.cores.length) (h : (s.core c).queue = []) : ((s.flushSb c).core c).sb = [] := by
  have he : ((s.emptied c).core c).sb = (s.core c).sb.drop (s.leaving c).length := congrArg Core.sb (core_updCore_self s c _ hc)
  rw [sb_of_calm (calm_flushSb s c) c, he, leaving_of_queue h]
  exact List.drop_length

/-- One own store laid over bytes. -/
def SbEntry.over (e : SbEntry) (loc : Nat) (acc : List Byte) : List Byte :=
  (List.range acc.length).map fun i =>
    if e.loc ≤ loc + i ∧ loc + i < e.loc + e.bytes.length then e.bytes.getD (loc + i - e.loc) 0 else acc.getD i 0

theorem overlaySb_append (sb : List SbEntry) (e : SbEntry) (loc : Nat) (bs : List Byte) :
    overlaySb (sb ++ [e]) loc bs = e.over loc (overlaySb sb loc bs) := List.foldl_append

theorem over_length (e : SbEntry) (loc : Nat) (acc : List Byte) : (e.over loc acc).length = acc.length := by simp [SbEntry.over]

theorem over_getElem? (e : SbEntry) (loc : Nat) {acc : List Byte} {i : Nat} (h : i < acc.length) :
    (e.over loc acc)[i]? = if e.loc ≤ loc + i ∧ loc + i < e.loc + e.bytes.length then e.bytes[loc + i - e.loc]? else acc[i]? := by
  rw [SbEntry.over, List.getElem?_map, List.getElem?_range h, Option.map_some]
  split
  · rw [List.getD_eq_getElem _ _ (by omega), List.getElem?_eq_getElem (by omega)]
  · rw [List.getD_eq_getElem _ _ h, List.getElem?_eq_getElem h]

theorem overlaySb_length (sb : List SbEntry) (loc : Nat) (bs : List Byte) : (overlaySb sb loc bs).length = bs.length := by
  induction sb using List.reverseRecOn with
  | nil => rfl
  | append_singleton sb e ih => rw [overlaySb_append, over_length, ih]

theorem ownStoresFirst : Spec.OwnStoresFirst := by
  intro sb loc i bs hi
  refine ⟨overlaySb_length sb loc bs, ?_⟩
  induction sb using List.reverseRecOn with
  | nil => rfl
  | append_singleton sb e ih =>
    rw [overlaySb_append, over_getElem? e loc (by rwa [overlaySb_length]), List.reverse_append]
    by_cases h : e.loc ≤ loc + i ∧ loc + i < e.loc + e.bytes.length
    · simp [h]
    · have hf : (decide (e.loc ≤ loc + i) && decide (loc + i < e.loc + e.bytes.length)) = false := by simpa using h
      rw [if_neg h, ih]
      simp only [List.reverse_singleton, List.singleton_append, List.find?_cons, hf]

theorem leBytes_length (n v : Nat) : (leBytes n v).length = n := by
  induction n generalizing v with
  | zero => rfl
  | succ n ih => rw [leBytes, List.length_cons, ih]

theorem bytesAt_length (s : State) (a n : Nat) : (s.bytesAt a n).length = n := by simp [State.bytesAt]

theorem storeThenLoad : Spec.StoreThenLoad := by
  intro s via loc n v hc
  refine ⟨fun _ => rfl, ?_⟩
  have hsb : (s.enterSb s.cur via none loc (leBytes n v)).me.sb = s.me.sb ++ [_] := congrArg Core.sb (core_updCore_self s s.cur _ hc)
  rw [hsb, overlaySb_append]
  apply List.ext_getElem?
  intro i
  by_cases hi : i < n
  · rw [over_getElem? _ _ (by rwa [overlaySb_length, bytesAt_length]), if_pos ⟨by simp, by simpa [leBytes_length] using hi⟩]
    simp
  · rw [List.getElem?_eq_none (by rw [over_length, overlaySb_length, bytesAt_length]; omega),
      List.getElem?_eq_none (by rw [leBytes_length]; omega)]

/-- The gate that every dispatch passes (R315). -/
theorem svWaits_false_iff (k : Core) : k.svWaits = false ↔ ∀ w ∈ k.sb, k.svFence ≤ w.seq := by
  simp [Core.svWaits]

theorem dispatchAfterFence : Spec.DispatchAfterFence := by
  refine ⟨fun s t h => ?_, fun s hc hq hw => ?_⟩
  · refine (svWaits_false_iff t.me).1 ?_
    simp only [Ends, svGate, run_bind, run_myNumber, run_getMe, run_ite, run_modify, run_await, run_pure] at h
    split at h
    · rcases hr : runM runEntries s with ⟨_ | _, u⟩
      · rw [hr] at h; cases h
      · rw [hr] at h
        dsimp only at h
        split at h
        · cases h
        · next hn => cases h; exact Bool.eq_false_iff.2 hn
    · next hn => cases h; exact Bool.eq_false_iff.2 hn
  · have hsv : s.me.svWaits = true := by
      refine Bool.eq_true_of_not_eq_false fun hf => ?_
      obtain ⟨w, hw, hlt⟩ := hw
      exact absurd ((svWaits_false_iff _).1 hf w hw) (Nat.not_le_of_lt hlt)
    have hafter : (s.flushSb s.cur).me.svWaits = false := by
      rw [svWaits_false_iff, State.me, flushSb_cur, flushSb_sb hc hq]
      exact fun w hw => absurd hw List.not_mem_nil
    simp only [Ends, svGate, run_bind, run_myNumber, run_getMe, run_modify, run_runEntries hq, hsv, if_true, hafter,
      Bool.false_eq_true, if_false, run_pure]

theorem storesHavePerformed : Spec.StoresHavePerformed :=
  ⟨fun s hc hq => by rw [State.me, flushSb_cur]; exact flushSb_sb hc hq, dispatchAfterFence⟩

/-- Settles O13: the newest own store lies over memory, and a core whose queue is empty lets every store leave. -/
theorem storesOfACore : Obligations.StoresOfACore := ⟨ownStoresFirst, storeThenLoad, storesHavePerformed⟩

/-! ## A write that performs (R306) -/

theorem keepRo_length (s : State) (loc : Nat) (bs : List Byte) : (s.keepRo loc bs).length = bs.length := by simp [State.keepRo]

theorem keepRo_getElem? (s : State) (loc : Nat) (bs : List Byte) (i : Nat) (h : i < bs.length) :
    (s.keepRo loc bs)[i]? = if s.statusByte (loc + i) then some (s.byte (loc + i)) else bs[i]? := by
  rw [State.keepRo, List.getElem?_mapIdx, List.getElem?_eq_getElem h]
  exact apply_ite some _ _ _

/-- A writable place with a home on this device takes the bytes, and its home the write transition. -/
theorem performAt_home {s : State} {c key : Option Nat} {loc h : Nat} {bs : List Byte} (hh : homeOf loc = some h)
    (hw : s.writable key loc bs.length = true) : s.performAt c key loc bs =
      ((s.softWrite loc bs.length).placeBytes key loc (if c.isSome then s.keepRo loc bs else bs)).stampAt c h (loc / 64) loc
        (if c.isSome then s.keepRo loc bs else bs) := by
  have hl : (if c.isSome then s.keepRo loc bs else bs).length = bs.length := by split <;> [exact keepRo_length s loc bs; rfl]
  unfold State.performAt
  rw [hw, hh]
  simp only [Bool.not_true, Bool.false_eq_true, if_false, hl]

/-- Memory after a write at its home of bytes in a line that no key seals, or under a key, with defined contents. -/
theorem mem_performAt {s : State} {c key : Option Nat} {loc h : Nat} {bs : List Byte} (hh : homeOf loc = some h)
    (hw : s.writable key loc bs.length = true) (hv : s.vagueSeed (loc / 64) = none) (hk : key = none → s.sealOf (loc / 64) = none) :
    (s.performAt c key loc bs).mem = (s.setBytes loc (if c.isSome then s.keepRo loc bs else bs)).mem := by
  rw [performAt_home hh hw, mem_stampAt]
  exact (mem_placeBytes (s := s.softWrite loc bs.length) hv hk _).trans (mem_setBytes_congr (mem_softWrite s loc bs.length) loc _)

/-- A state whose memory is that of another with bytes written differs from it in these bytes alone. -/
theorem sameMemoryBut_of_mem {s t : State} {loc : Nat} {bs : List Byte} (hm : t.mem = (s.setBytes loc bs).mem) (hwf : Memory.wf s.mem = true) :
    SameMemoryBut s t loc bs.length :=
  fun a ha => (byte_congr hm a).trans (byte_setBytes_out hwf ha)

theorem bytesAt_of_mem {s t : State} {loc : Nat} {bs : List Byte} (hm : t.mem = (s.setBytes loc bs).mem) (hwf : Memory.wf s.mem = true) :
    t.bytesAt loc bs.length = bs := (bytesAt_congr hm loc _).trans (bytesAt_setBytes loc bs hwf)

/-! ## The abstract transitions (R306) -/

theorem commit_result (s : State) (c : Nat) (e : SbEntry) (he : ((s.core c).sb.find? fun e => !e.committed) = some e) (hl : s.mayLeave c e = true) :
    s.commitOne c = { s.updCore c fun k => { k with sb := k.sb.map fun x => if x.seq = e.seq then { x with committed := true } else x } with
      inflight := s.inflight ++ [s.departing c e] } := by
  simp only [State.commitOne, he, hl, Bool.not_true, Bool.false_eq_true, if_false]
  rfl

/-- The state from which a write in flight performs: it has left the buffer. -/
def State.arrived (s : State) (n : Nat) (w : InFlight) : State :=
  { s with inflight := s.inflight.eraseIdx n }.updCore w.core fun k => { k with sb := k.sb.filter fun e => e.seq != w.seq }

theorem performFlight_result {s : State} {n : Nat} {w : InFlight} (hw : s.inflight[n]? = some w) (hr : s.flightReady w = true) :
    s.performFlight n = (s.arrived n w).performAt (some w.core) w.key w.loc w.bytes := by
  simp only [State.performFlight, hw, hr, if_true]
  rfl

theorem applyNth_result {s : State} {d n : Nat} {u : Update} (hu : (s.die d).inbox[n]? = some u) (hr : updateReady (s.die d) u = true) :
    s.applyNth d n = (s.dropL1 d (u.loc / 64)).updDie d fun k => { applyUpdate k u with inbox := k.inbox.eraseIdx n } := by
  simp only [State.applyNth, hu, hr, if_true]

/-- The counter of its home in a ready update is the next one. -/
theorem stamp_of_ready {d : Die} {u : Update} (h : updateReady d u = true) : u.stamp.get u.home = d.dvc.get u.home + 1 := by
  obtain ⟨h, _⟩ := (Bool.and_eq_true _ _).mp h
  exact (beq_iff_eq.1 h).symm

theorem installFill_result {s : State} {n : Nat} {f : FillRec} (hf : s.fills[n]? = some f) (hc : (s.die f.die).dvc.get f.home = f.h) :
    s.installFill n = ({ s with fills := s.fills.eraseIdx n }.holdL1 f.core f.line).updDie f.die fun d =>
      { d with guests := { line := f.line, bytes := f.bytes, stamp := f.stamp } :: d.guests.filter fun g => g.line != f.line } := by
  simp only [State.installFill, hf, hc, if_true]

theorem arrived_sb {s : State} {n : Nat} {w : InFlight} (hc : w.core < s.cores.length) :
    ((s.arrived n w).core w.core).sb = (s.core w.core).sb.filter fun e => e.seq != w.seq :=
  congrArg Core.sb (core_updCore_self { s with inflight := s.inflight.eraseIdx n } w.core _ hc)

theorem inflight_of_calm {s t : State} (h : s.calm = t.calm) : s.inflight = t.inflight := (congrArg State.inflight h :)

/-- Settles O15: each event is one change of the state, and what it changes are memory, clocks, or lists of writes, updates and fills. -/
theorem abstractTransitions : Obligations.AbstractTransitions := by
  refine ⟨fun s c e hc he hl => ⟨s.commitOne c, rfl, fun a => ?_, ?_⟩, fun s n h w hw hr hh hc hwf hk hs hv hwr hin => ⟨s.performFlight n, rfl, ?_⟩,
    fun s d n u hd hu hr => ⟨s.applyNth d n, rfl, fun a => byte_congr (mem_applyNth s d n) a, ?_⟩,
    fun s n f hf hd hclk => ⟨s.installFill n, rfl, fun a => byte_congr (mem_installFill s n) a, ?_⟩⟩
  · exact byte_congr (mem_commitOne s c) a
  · rw [commit_result s c e he hl]
    rfl
  · rw [performFlight_result hw hr]
    have hm : ((s.arrived n w).performAt (some w.core) w.key w.loc w.bytes).mem = (s.setBytes w.loc (s.keepRo w.loc w.bytes)).mem :=
      (mem_performAt (s := s.arrived n w) hh (hk ▸ hwr) hv fun _ => hs).trans (mem_setBytes_congr (s := s.arrived n w) (t := s) rfl w.loc _)
    have hcalm := calm_performAt (s.arrived n w) (some w.core) w.key w.loc w.bytes
    refine ⟨keepRo_length s w.loc w.bytes ▸ bytesAt_of_mem hm hwf, keepRo_length s w.loc w.bytes ▸ sameMemoryBut_of_mem hm hwf,
      inflight_of_calm hcalm, fun e he => ?_⟩
    rw [sb_of_calm hcalm, arrived_sb hc] at he
    simpa using (List.mem_filter.1 he).2
  · rw [applyNth_result hu hr, die_updDie_self (s.dropL1 d (u.loc / 64)) d _ hd]
    refine ⟨rfl, congrArg ((s.die d).dvc.set u.home) (stamp_of_ready hr), List.length_map _, fun g hg hl => ?_⟩
    obtain ⟨g', _, rfl⟩ := List.mem_map.1 hg
    split at hl
    · rw [if_pos ‹_›]
    · next hne => exact absurd hl hne
  · rw [installFill_result hf hclk]
    refine ⟨rfl, ?_⟩
    rw [die_updDie_self _ _ _ (by exact hd)]
    rfl

/-! ## The STATUS of a host queue outside the device

A location of host memory has no home, so a write there takes all its bytes; where SBASE puts a STATUS there, the bytes that
the field would keep change too. -/

/-- A running device whose scheduler area lies in host memory, and whose page table maps 2^30 there. -/
def areaInHostMemory : State :=
  { State.reset with mem := [(0, 3), (8, 0x15), (14, 0x9C)], sbase := 0xC000000000000 - 0x2E00000, stage := .running }

def hostCtx : Ctx := { core := 0, asid := 0, ptroot := 0, sup := true, scx := 0 }

def hostPage : Page := { va := 2 ^ 30, size := 2 ^ 30, base := 0xC000000000000, leaf := 0x009C000000000015, level := 2, pdb := none, spans := [] }

/-- The state after the translation of an address in that page. -/
def areaTranslated : State := areaInHostMemory.holdPage hostCtx .write (2 ^ 30 + 32) hostPage

theorem place_hostPage : Answers (place hostCtx .write (2 ^ 30 + 32)) areaInHostMemory (.page hostPage) areaTranslated := by
  unfold Answers
  decide +kernel

/-- The new value stands in the STATUS, which reads 0 before. -/
theorem status_changed : (runM (atomicUpdate hostCtx (2 ^ 30 + 32) 8 fun _ => some 1) areaInHostMemory).2.bytesAt 0xC000000000020 8 ≠
    areaTranslated.keepRo 0xC000000000020 (leBytes 8 1) := by
  decide +kernel

/-- Refutes O12: an atomic update of 8 bytes of host memory, where SBASE puts the STATUS of a queue, writes its new value 1 there. -/
theorem not_writesAndUpdates : ¬ Obligations.WritesAndUpdates := by
  rintro ⟨-, h⟩
  obtain ⟨hb, -⟩ := h areaInHostMemory areaTranslated hostCtx (2 ^ 30 + 32) 8 0xC000000000020 (.page hostPage) (fun _ => some 1) (.inr rfl)
    (by decide +kernel) (by decide +kernel) rfl (by decide +kernel) place_hostPage (.inr ⟨hostPage, rfl, rfl, by decide, by decide, by decide, by decide⟩) (by decide +kernel)
    (by decide +kernel) (by decide +kernel) (by decide +kernel) (by decide +kernel)
  obtain ⟨-, hw⟩ := hb (by decide)
  obtain ⟨u, hu, hbytes, -⟩ := hw 1 rfl
  exact status_changed (by rw [hu]; exact hbytes)

end Sys2Proof.Machine
end

section
/-! PROOF. Frames: relations that a computation keeps between the state it starts in and the one it leaves, and the cores that an
access, a release or a side change leaves as they stand. -/
namespace Sys2Proof.Machine

open Sys2Proof

/-! ## Frames -/

/-- A relation between states that holds of any run of steps that each keep it. -/
structure Frame (R : State → State → Prop) : Prop where
  refl : ∀ s, R s s
  trans : ∀ {s t u}, R s t → R t u → R s u

/-- A computation from a state leaves one in a relation to it. -/
def KeepsAt (R : State → State → Prop) (m : M α) (s : State) : Prop := R s (runM m s).2

/-- A computation keeps a relation from every state. -/
def Keeps (R : State → State → Prop) (m : M α) : Prop := ∀ s, KeepsAt R m s

section Rules

variable {R : State → State → Prop} (hR : Frame R)
include hR

theorem keeps_pure (a : α) : Keeps R (pure a : M α) := fun s => hR.refl s

theorem keeps_raise (t : Trap) : Keeps R (raise t : M α) := fun s => hR.refl s

theorem keeps_throw (h : Halt) : Keeps R (throw h : M α) := fun s => hR.refl s

theorem keeps_await : Keeps R (await : M α) := fun s => hR.refl s

theorem keeps_get : Keeps R (get : M State) := fun s => hR.refl s

theorem keeps_getMe : Keeps R getMe := fun s => hR.refl s

theorem keeps_myNumber : Keeps R myNumber := fun s => hR.refl s

theorem keeps_myCtx : Keeps R myCtx := fun s => hR.refl s

theorem keeps_readX (r : Reg) : Keeps R (readX r) := fun s => hR.refl s

theorem keepsAt_bind {m : M α} {f : α → M β} {s : State} (hm : KeepsAt R m s) (hf : ∀ a t, runM m s = (.ok a, t) → KeepsAt R (f a) t) :
    KeepsAt R (m >>= f) s := by
  unfold KeepsAt at *
  rw [run_bind]
  rcases hr : runM m s with ⟨_ | a, t⟩
  · rw [hr] at hm; exact hm
  · rw [hr] at hm; exact hR.trans hm (hf a t hr)

theorem keeps_bind {m : M α} {f : α → M β} (hm : Keeps R m) (hf : ∀ a, Keeps R (f a)) : Keeps R (m >>= f) :=
  fun s => keepsAt_bind hR (hm s) fun a t _ => hf a t

theorem keeps_seqRight {m : M α} {f : M β} (hm : Keeps R m) (hf : Keeps R f) : Keeps R (m *> f) := by
  intro s
  unfold KeepsAt
  rw [run_seqRight]
  have h := hm s
  unfold KeepsAt at h
  rcases hr : runM m s with ⟨_ | a, t⟩
  · rw [hr] at h; exact h
  · rw [hr] at h; exact hR.trans h (hf t)

theorem keeps_tryCatch {m : M α} {f : Halt → M α} (hm : Keeps R m) (hf : ∀ h, Keeps R (f h)) : Keeps R (tryCatch m f) := by
  intro s
  have h := hm s
  unfold KeepsAt at *
  rw [run_tryCatch]
  rcases hr : runM m s with ⟨e | a, t⟩
  · rw [hr] at h; exact hR.trans h (hf e t)
  · rw [hr] at h; exact h

theorem keeps_tryTrap {m : M α} (hm : Keeps R m) : Keeps R (tryTrap m) := by
  refine keeps_tryCatch hR (keeps_bind hR hm fun a => keeps_pure hR _) fun h => ?_
  cases h
  · exact keeps_pure hR _
  · exact keeps_throw hR _

theorem keeps_forM {f : α → M PUnit} (l : List α) (hf : ∀ a, Keeps R (f a)) : Keeps R (l.forM f) := by
  induction l with
  | nil => exact keeps_pure hR _
  | cons a r ih => exact keeps_bind hR (hf a) fun _ => ih

/-- A step that keeps a relation, taken for each element of a list. -/
theorem keeps_foldl {f : State → α → State} (hf : ∀ s a, R s (f s a)) (l : List α) (s : State) : R s (l.foldl f s) := by
  induction l generalizing s with
  | nil => exact hR.refl s
  | cons a r ih => exact hR.trans (hf s a) (ih _)

end Rules

section Changes

variable {R : State → State → Prop}

theorem keeps_map {m : M α} {f : α → β} (hm : Keeps R m) : Keeps R (f <$> m) := by
  intro s
  have h := hm s
  unfold KeepsAt at *
  rw [run_map]
  rcases hr : runM m s with ⟨_ | a, t⟩ <;> (rw [hr] at h; exact h)

theorem keeps_ite {c : Prop} [Decidable c] {a b : M α} (ha : Keeps R a) (hb : Keeps R b) : Keeps R (if c then a else b) := by
  split
  · exact ha
  · exact hb

theorem keeps_modify {f : State → State} (h : ∀ s, R s (f s)) : Keeps R (modify f : M PUnit) := h

theorem keeps_modMe {f : Core → Core} (h : ∀ s : State, R s (s.updMe f)) : Keeps R (modMe f) := h

/-- A computation that reads the state and goes on with it. -/
theorem keeps_get_bind {f : State → M α} (h : ∀ s, KeepsAt R (f s) s) : Keeps R (get >>= f) := by
  intro s
  have := h s
  unfold KeepsAt at *
  rwa [run_bind, run_get]

theorem keepsAt_set_bind {f : PUnit → M α} {s t : State} (hR : Frame R) (h : R s t) (hf : Keeps R (f ⟨⟩)) : KeepsAt R (set t >>= f) s :=
  keepsAt_bind hR h fun _ u hu => by
    cases hu
    exact hf t

end Changes

/-! ## The cores that an access leaves

An access, a release and a side change leave each core but for its clock, its counters, its store buffer and where a GCOMMIT stands. -/

def Core.still (k : Core) : Core := { k with ck := Clock.reset, deferred := 0, sb := [], settling := none }

/-- The cores stand as they did. -/
def SameCores (s t : State) : Prop := t.cur = s.cur ∧ t.cores.map Core.still = s.cores.map Core.still

theorem sameCores_frame : Frame SameCores where
  refl _ := ⟨rfl, rfl⟩
  trans h1 h2 := ⟨h2.1.trans h1.1, h2.2.trans h1.2⟩

theorem sameCores_of_eq {s t : State} (hc : t.cores = s.cores) (hu : t.cur = s.cur) : SameCores s t := ⟨hu, by rw [hc]⟩

theorem sameCores_of_calm {s t : State} (h : t.calm = s.calm) : SameCores s t := by
  refine ⟨cur_of_calm h, ?_⟩
  have hm : ∀ u : State, u.cores.map Core.still = u.calm.cores.map Core.still := fun u => by
    simp only [State.calm, List.map_map]
    rfl
  exact (hm t).trans ((congrArg (fun u : State => u.cores.map Core.still) h).trans (hm s).symm)

theorem sameCores_updCore {f : Core → Core} (hf : ∀ k, (f k).still = k.still) (s : State) (c : Nat) : SameCores s (s.updCore c f) :=
  ⟨rfl, map_modifyNth hf c s.cores⟩

theorem sameCores_updMe {f : Core → Core} (hf : ∀ k, (f k).still = k.still) (s : State) : SameCores s (s.updMe f) :=
  sameCores_updCore hf s s.cur

theorem SameCores.core {s t : State} (h : SameCores s t) (c : Nat) : (t.core c).still = (s.core c).still := by
  have hm : ∀ u : State, (u.core c).still = ((u.cores.map Core.still)[c]?).getD Core.reset := fun u => by
    rw [State.core, List.getD_eq_getElem?_getD, List.getElem?_map]
    cases u.cores[c]? <;> rfl
  rw [hm, hm, h.2]

theorem SameCores.me {s t : State} (h : SameCores s t) : t.me.still = s.me.still := by
  rw [State.me, State.me, h.1]
  exact h.core s.cur

theorem SameCores.length {s t : State} (h : SameCores s t) : t.cores.length = s.cores.length := by
  have := congrArg List.length h.2
  simpa using this

theorem SameCores.nextIa {s t : State} (h : SameCores s t) : t.me.nextIa = s.me.nextIa :=
  (congrArg Core.nextIa h.me : t.me.still.nextIa = s.me.still.nextIa)

theorem SameCores.queue {s t : State} (h : SameCores s t) : t.me.queue = s.me.queue := (congrArg Core.queue h.me : t.me.still.queue = _)

theorem SameCores.issued {s t : State} (h : SameCores s t) : t.me.issued = s.me.issued :=
  (congrArg Core.issued h.me : t.me.still.issued = s.me.still.issued)

theorem SameCores.x {s t : State} (h : SameCores s t) (r : Reg) : t.me.x r = s.me.x r :=
  (congrArg (fun k : Core => k.x r) h.me : t.me.still.x r = s.me.still.x r)

theorem SameCores.ctx {s t : State} (h : SameCores s t) (n : Nat) : t.me.ctx n = s.me.ctx n :=
  (congrArg (fun k : Core => k.ctx n) h.me : t.me.still.ctx n = s.me.still.ctx n)

theorem SameCores.sstat {s t : State} (h : SameCores s t) : t.me.sstat = s.me.sstat := (congrArg Core.sstat h.me : t.me.still.sstat = _)

theorem SameCores.valid {s t : State} (h : SameCores s t) (hc : s.cur < s.cores.length) : t.cur < t.cores.length := by
  rw [h.1, h.length]; exact hc

/-! ## Writes and releases keep the cores -/

/-- A core but for its clock, its counters and its store buffer. -/
def Core.firm (k : Core) : Core := { k with ck := Clock.reset, deferred := 0, sb := [] }

/-- What a write or a release leaves of the cores. -/
def SameFirm (s t : State) : Prop := t.cur = s.cur ∧ t.cores.map Core.firm = s.cores.map Core.firm

theorem sameFirm_frame : Frame SameFirm where
  refl _ := ⟨rfl, rfl⟩
  trans h1 h2 := ⟨h2.1.trans h1.1, h2.2.trans h1.2⟩

theorem sameFirm_of_eq {s t : State} (hc : t.cores = s.cores) (hu : t.cur = s.cur) : SameFirm s t := ⟨hu, by rw [hc]⟩

theorem sameFirm_of_calm {s t : State} (h : t.calm = s.calm) : SameFirm s t := by
  refine ⟨cur_of_calm h, ?_⟩
  have hm : ∀ u : State, u.cores.map Core.firm = u.calm.cores.map Core.firm := fun u => by
    simp only [State.calm, List.map_map]
    rfl
  exact (hm t).trans ((congrArg (fun u : State => u.cores.map Core.firm) h).trans (hm s).symm)

theorem sameFirm_updCore {f : Core → Core} (hf : ∀ k, (f k).firm = k.firm) (s : State) (c : Nat) : SameFirm s (s.updCore c f) :=
  ⟨rfl, map_modifyNth hf c s.cores⟩

theorem SameFirm.map {α : Type} {s t : State} (h : SameFirm s t) {g : Core → α} (hg : ∀ k, g k = g k.firm) : t.cores.map g = s.cores.map g := by
  have hm : ∀ u : State, u.cores.map g = (u.cores.map Core.firm).map g := fun u => by
    rw [List.map_map]
    exact List.map_congr_left fun k _ => hg k
  rw [hm, hm, h.2]

theorem SameFirm.sameCores {s t : State} (h : SameFirm s t) : SameCores s t := ⟨h.1, h.map fun _ => rfl⟩

theorem SameFirm.settling {s t : State} (h : SameFirm s t) : t.me.settling = s.me.settling := by
  have hget := congrArg (fun l => l.getD s.cur Core.reset.settling) (h.map (g := Core.settling) fun _ => rfl)
  unfold State.me State.core
  rw [h.1]
  simpa [List.getD_map] using hget

theorem sameFirm_perform (s : State) (c key : Option Nat) (loc : Nat) (bs : List Byte) : SameFirm s (s.perform c key loc bs) :=
  sameFirm_of_calm (calm_perform s c key loc bs)

theorem sameFirm_flushSb (s : State) (c : Nat) : SameFirm s (s.flushSb c) :=
  sameFirm_frame.trans (t := s.emptied c) ⟨rfl, map_modifyNth (g := fun k => { k with sb := k.sb.drop (s.leaving c).length }) (fun _ => rfl) c s.cores⟩
    (sameFirm_of_calm (calm_flushSb s c))

theorem sameFirm_flushOver (s : State) (c loc n : Nat) : SameFirm s (s.flushOver c loc n) := by
  unfold State.flushOver; split
  · exact sameFirm_flushSb s c
  · exact sameFirm_frame.refl s

theorem sameFirm_commitOne (s : State) (c : Nat) : SameFirm s (s.commitOne c) := by
  unfold State.commitOne; split
  · exact sameFirm_frame.refl s
  · next e _ =>
    dsimp only; split
    · exact sameFirm_frame.refl s
    · exact sameFirm_updCore (f := fun k => { k with sb := k.sb.map fun x => if x.seq = e.seq then { x with committed := true } else x })
        (fun _ => rfl) s c

theorem sameFirm_commitAll (s : State) (c : Nat) : SameFirm s (s.commitAll c) :=
  keeps_foldl sameFirm_frame (fun s _ => sameFirm_commitOne s c) _ s

theorem sameFirm_drainInbox (s : State) (d : Nat) : SameFirm s (s.drainInbox d) := sameFirm_of_calm (calm_drainInbox s d)

theorem sameFirm_performClock (s : State) (ck : Clock) (c key : Option Nat) (loc : Nat) (bs : List Byte) :
    SameFirm s (s.performClock ck c key loc bs) := by
  unfold State.performClock; split
  · exact sameFirm_of_calm (calm_performAt s c key loc bs)
  · exact sameFirm_of_calm ((calm_performAt _ _ _ _ _).trans (calm_catchUpTo _ _ _))

theorem sameFirm_writeBack (s : State) (line : Nat) : SameFirm s (s.writeBack line) := by
  unfold State.writeBack; split <;> exact sameFirm_of_eq rfl rfl

theorem sameFirm_lockLines (s : State) (ls : List Nat) : SameFirm s (s.lockLines ls) :=
  sameFirm_frame.trans (keeps_foldl sameFirm_frame (fun s l => sameFirm_writeBack s l) ls s) (sameFirm_of_eq rfl rfl)

theorem sameFirm_joinCk (s : State) (c : Nat) (ck : Clock) : SameFirm s (s.joinCk c ck) :=
  sameFirm_updCore (f := fun k => { k with ck := k.ck.join ck }) (fun _ => rfl) s c

theorem sameFirm_deferFail (s : State) (c : Option Nat) : SameFirm s (s.deferFail c) := by
  cases c with
  | none => exact sameFirm_frame.refl s
  | some c => exact sameFirm_updCore (f := fun k => { k with deferred := k.deferred + 1 }) (fun _ => rfl) s c

theorem sameFirm_unlockItem (s : State) (o : ItemOp) : SameFirm s (s.unlockItem o) :=
  sameFirm_frame.trans (keeps_foldl sameFirm_frame (f := State.forgetDirty) (fun _ _ => sameFirm_of_eq rfl rfl) o.lines.2 s)
    (sameFirm_of_eq rfl rfl)

theorem sameFirm_performItem (s : State) (i : Item) : SameFirm s (s.performItem i) := by
  unfold State.performItem; split
  · exact sameFirm_deferFail s _
  · refine sameFirm_frame.trans (sameFirm_lockLines s (i.op.lines.1 ++ i.op.lines.2)) ?_
    refine sameFirm_frame.trans (keeps_foldl sameFirm_frame (fun s l => sameFirm_joinCk s i.core (s.stampOf l)) i.op.lines.1 _) ?_
    refine sameFirm_frame.trans (keeps_foldl sameFirm_frame (fun s (p : Nat × List Byte) =>
      sameFirm_performClock s i.clock (some i.core) none p.1 p.2) _ _) (sameFirm_unlockItem _ _)

theorem sameFirm_crustStepOf (s : State) (k core : Nat) : SameFirm s (s.crustStepOf k core) := by
  unfold State.crustStepOf; split
  · exact sameFirm_frame.refl s
  · next i _ =>
    have hp : SameFirm s ((s.updCrust k fun c => { c with queue := dropFirst core c.queue }).performItem i) :=
      sameFirm_frame.trans (sameFirm_of_eq rfl rfl) (sameFirm_performItem _ i)
    dsimp only; split
    · exact sameFirm_frame.trans hp (sameFirm_drainInbox _ _)
    · exact hp

theorem sameFirm_crustDrain (s : State) (core : Nat) (test : Item → Bool) : SameFirm s (s.crustDrain core test) :=
  keeps_foldl sameFirm_frame (fun s k => keeps_foldl sameFirm_frame (fun s _ => sameFirm_crustStepOf s k core) _ s) _ s

theorem sameFirm_crustRel (s : State) (core : Nat) : SameFirm s (s.crustRel core) := sameFirm_crustDrain s core _

theorem sameFirm_flushed (s : State) : SameFirm s ((s.flushSb s.cur).crustRel s.cur) :=
  sameFirm_frame.trans (sameFirm_flushSb s s.cur) (sameFirm_crustRel _ _)

theorem sameFirm_ackFabric (s : State) (c : Nat) (test : Nat → Bool) : SameFirm s (s.ackFabric c test) := sameFirm_of_eq rfl rfl

theorem sameFirm_released (s : State) (scope : Scope) : SameFirm s (Spec.released s scope) := by
  cases scope with
  | core =>
    change SameFirm s ((s.commitAll s.cur).crustRel s.cur)
    exact sameFirm_frame.trans (sameFirm_commitAll s s.cur) (sameFirm_crustRel _ _)
  | system =>
    change SameFirm s (((s.flushSb s.cur).crustRel s.cur).ackFabric s.cur fun _ => true)
    exact sameFirm_frame.trans (sameFirm_flushed s) (sameFirm_ackFabric _ _ _)
  | cluster => exact sameFirm_flushed s
  | die => exact sameFirm_flushed s
  | device => exact sameFirm_flushed s

theorem sameCores_perform (s : State) (c key : Option Nat) (loc : Nat) (bs : List Byte) : SameCores s (s.perform c key loc bs) :=
  (sameFirm_perform s c key loc bs).sameCores

theorem sameCores_flushSb (s : State) (c : Nat) : SameCores s (s.flushSb c) :=
  (sameFirm_flushSb s c).sameCores

theorem sameCores_flushOver (s : State) (c loc n : Nat) : SameCores s (s.flushOver c loc n) :=
  (sameFirm_flushOver s c loc n).sameCores

theorem sameCores_commitOne (s : State) (c : Nat) : SameCores s (s.commitOne c) :=
  (sameFirm_commitOne s c).sameCores

theorem sameCores_commitAll (s : State) (c : Nat) : SameCores s (s.commitAll c) :=
  (sameFirm_commitAll s c).sameCores

theorem sameCores_drainInbox (s : State) (d : Nat) : SameCores s (s.drainInbox d) :=
  (sameFirm_drainInbox s d).sameCores

theorem sameCores_performClock (s : State) (ck : Clock) (c key : Option Nat) (loc : Nat) (bs : List Byte) : SameCores s (s.performClock ck c key loc bs) :=
  (sameFirm_performClock s ck c key loc bs).sameCores

theorem sameCores_writeBack (s : State) (line : Nat) : SameCores s (s.writeBack line) :=
  (sameFirm_writeBack s line).sameCores

theorem sameCores_lockLines (s : State) (ls : List Nat) : SameCores s (s.lockLines ls) :=
  (sameFirm_lockLines s ls).sameCores

theorem sameCores_joinCk (s : State) (c : Nat) (ck : Clock) : SameCores s (s.joinCk c ck) :=
  (sameFirm_joinCk s c ck).sameCores

theorem sameCores_deferFail (s : State) (c : Option Nat) : SameCores s (s.deferFail c) :=
  (sameFirm_deferFail s c).sameCores

theorem sameCores_unlockItem (s : State) (o : ItemOp) : SameCores s (s.unlockItem o) :=
  (sameFirm_unlockItem s o).sameCores

theorem sameCores_performItem (s : State) (i : Item) : SameCores s (s.performItem i) :=
  (sameFirm_performItem s i).sameCores

theorem sameCores_crustStepOf (s : State) (k core : Nat) : SameCores s (s.crustStepOf k core) :=
  (sameFirm_crustStepOf s k core).sameCores

theorem sameCores_crustDrain (s : State) (core : Nat) (test : Item → Bool) : SameCores s (s.crustDrain core test) :=
  (sameFirm_crustDrain s core test).sameCores

theorem sameCores_crustRel (s : State) (core : Nat) : SameCores s (s.crustRel core) :=
  (sameFirm_crustRel s core).sameCores

theorem sameCores_flushed (s : State) : SameCores s ((s.flushSb s.cur).crustRel s.cur) :=
  (sameFirm_flushed s).sameCores

theorem sameCores_ackFabric (s : State) (c : Nat) (test : Nat → Bool) : SameCores s (s.ackFabric c test) :=
  (sameFirm_ackFabric s c test).sameCores

theorem sameCores_released (s : State) (scope : Scope) : SameCores s (Spec.released s scope) :=
  (sameFirm_released s scope).sameCores

/-- A release of a core with an empty queue and empty channels. -/
theorem run_scalarRelease {s : State} (hq : Spec.Quiet s) (scope : Scope) : runM (scalarRelease scope) s = (.ok (), Spec.released s scope) := by
  unfold scalarRelease
  rw [run_bind, run_waitEntries hq.queue]
  dsimp only
  rw [run_releaseWrites hq.channels]
  cases scope <;> rfl

end Sys2Proof.Machine
end

section
/-! PROOF. One step of the device (R15 to R17, R23, R123, R245): what the scalar unit comes to, and what the other agents run. -/
namespace Sys2Proof.Machine

open Sys2Proof

/-! ## Translation and settling keep the cores -/

theorem sameCores_lostRead (c va loc : Nat) : Keeps SameCores (lostRead c va loc) := by
  unfold lostRead
  refine keeps_get_bind fun s => ?_
  split
  · exact keepsAt_set_bind sameCores_frame (sameCores_of_eq rfl rfl) (keeps_raise sameCores_frame _)
  · exact keeps_pure sameCores_frame () s

theorem sameCores_walkLost (x : Ctx) (va : Nat) : Keeps SameCores (walkLost x va) := by
  unfold walkLost
  refine keeps_get_bind fun s => ?_
  split
  · exact keeps_pure sameCores_frame () s
  · split
    · exact sameCores_lostRead _ _ _ s
    · exact keeps_pure sameCores_frame () s

theorem sameCores_drawChoice (k : Nat) : Keeps SameCores (drawChoice k) := fun _ => sameCores_of_eq rfl rfl

theorem sameCores_holdPage (s : State) (x : Ctx) (acc : Acc) (va : Nat) (p : Page) : SameCores s (s.holdPage x acc va p) :=
  sameCores_of_eq rfl rfl

theorem sameCores_translate (x : Ctx) (acc : Acc) (va : Nat) : Keeps SameCores (translate x acc va) := by
  unfold translate
  refine keeps_bind sameCores_frame (sameCores_walkLost x va) fun _ => keeps_bind sameCores_frame (keeps_get sameCores_frame) fun s => ?_
  have hend : ∀ o : Except Trap Page, Keeps SameCores (match o with
      | .error t => raise t
      | .ok p => do
        modify fun s => s.holdPage x acc va p
        return p : M Page) := by
    intro o
    cases o with
    | error t => exact keeps_raise sameCores_frame t
    | ok p => exact keeps_bind sameCores_frame (keeps_modify fun s => sameCores_holdPage s x acc va p) fun _ => keeps_pure sameCores_frame p
  dsimp only
  split
  · exact keeps_raise sameCores_frame _
  · exact keeps_ite (keeps_bind sameCores_frame (keeps_pure sameCores_frame _) hend)
      (keeps_bind sameCores_frame (sameCores_drawChoice _) fun _ => keeps_bind sameCores_frame (keeps_pure sameCores_frame _) hend)

theorem sameCores_place (x : Ctx) (acc : Acc) (va : Nat) : Keeps SameCores (place x acc va) := by
  unfold place
  refine keeps_ite (keeps_raise sameCores_frame _) (keeps_ite (keeps_ite (keeps_raise sameCores_frame _) ?_) ?_)
  · split
    · exact keeps_raise sameCores_frame _
    · exact keeps_pure sameCores_frame _
  · exact keeps_bind sameCores_frame (sameCores_translate x acc va) fun _ => keeps_pure sameCores_frame _

theorem sameCores_settleStores (s : State) (ls : List Nat) : SameCores s (s.settleStores ls) :=
  keeps_foldl sameCores_frame (fun s c => by split <;> [exact sameCores_flushSb s c; exact sameCores_frame.refl s]) _ s

theorem sameCores_awaitStores (ls : List Nat) : Keeps SameCores (awaitStores ls) :=
  keeps_bind sameCores_frame (keeps_modify fun s => sameCores_settleStores s ls) fun _ =>
    keeps_bind sameCores_frame (keeps_get sameCores_frame) fun _ => keeps_ite (keeps_await sameCores_frame) (keeps_pure sameCores_frame _)

theorem sameCores_noteDirty (s : State) (loc : Nat) : SameCores s (s.noteDirty loc) := by
  unfold State.noteDirty; split <;> exact sameCores_of_eq rfl rfl

theorem sameCores_setBytes (s : State) (loc : Nat) (bs : List Byte) : SameCores s (s.setBytes loc bs) :=
  sameCores_of_eq (setBytes_cores s loc bs) (setBytes_cur s loc bs)

theorem sameCores_putLineOrError (s : State) (loc : Nat) (v : Option (List Byte)) : SameCores s (s.putLineOrError loc v) := by
  cases v with
  | none => exact sameCores_of_eq rfl rfl
  | some bs => exact sameCores_of_eq (placeBytes_cores s none loc bs) (placeBytes_cur s none loc bs)

theorem sameCores_layRecord (s : State) (pdb : Pdb) (j : Nat) (p : Span) (slots : List (Option (List Byte))) :
    SameCores s (s.layRecord pdb j p slots) := by
  have hrec : SameCores s ((s.noteDirty (spanAddr pdb j)).setBytes (spanAddr pdb j) (p.bytes (s.num (spanAddr pdb j + 16) 8))) :=
    sameCores_frame.trans (sameCores_noteDirty s _) (sameCores_setBytes _ _ _)
  have hslots := keeps_foldl sameCores_frame (fun s (q : Option (List Byte) × Nat) => sameCores_putLineOrError s (p.chunk + 64 * q.2) q.1)
    slots.zipIdx ((s.noteDirty (spanAddr pdb j)).setBytes (spanAddr pdb j) (p.bytes (s.num (spanAddr pdb j + 16) 8)))
  have hfree : ∀ (ks : List Nat) (u : State), SameCores u (ks.foldl (fun s k => s.makeVague (p.chunk / 64 + k) s.freeCtr) u) :=
    fun ks u => keeps_foldl sameCores_frame (f := fun s k => s.makeVague (p.chunk / 64 + k) s.freeCtr) (fun _ _ => sameCores_of_eq rfl rfl) ks u
  exact sameCores_frame.trans hrec (sameCores_frame.trans hslots (sameCores_frame.trans (hfree _ _) (sameCores_of_eq rfl rfl)))

theorem sameCores_sideEvent (s : State) (core : Nat) (pdb : Pdb) (js ls : List Nat) : SameCores s (s.sideEvent core pdb js ls) := by
  have hstamps : ∀ (ck : Clock) (u : State), SameCores u (ls.foldl (fun s l => s.setStamp l ((s.stampOf l).join ck)) u) :=
    fun ck u => keeps_foldl sameCores_frame (f := fun s l => s.setStamp l ((s.stampOf l).join ck)) (fun _ _ => sameCores_of_eq rfl rfl) ls u
  unfold State.sideEvent
  dsimp only
  refine sameCores_frame.trans (t := s.shootDown pdb js) (sameCores_of_eq rfl rfl) ?_
  refine sameCores_frame.trans (sameCores_of_calm (calm_catchUpTo (s.shootDown pdb js) ((s.shootDown pdb js).carried (some core)) (glazeDie pdb))) ?_
  refine sameCores_frame.trans (sameCores_of_calm (calm_stampAt _ (some core) (glazeDie pdb) (pdb.addr / 64) pdb.addr [])) ?_
  exact sameCores_frame.trans (sameCores_of_eq rfl rfl) (hstamps _ _)

theorem sameCores_takeChunk {s t : State} {d : Nat} {asid : BitVec 16} {code c : Nat} (h : s.takeChunk d asid code = some (c, t)) :
    SameCores s t := by
  unfold State.takeChunk at h
  split at h
  · cases h
  · cases h; exact sameCores_of_eq rfl rfl

theorem sameCores_shrunk (s : State) (asid : BitVec 16) (d : Nat) (p : Span) : SameCores s (s.shrunk asid d p).2 := by
  unfold State.shrunk
  split
  · exact sameCores_frame.refl s
  · split
    · exact sameCores_of_eq rfl rfl
    · split
      · exact sameCores_frame.refl s
      · next h => exact sameCores_frame.trans (sameCores_takeChunk h) (sameCores_of_eq rfl rfl)

theorem sameCores_settleSpan (s : State) (x : Ctx) (pdb : Pdb) (commit : Bool) (j : Nat) : SameCores s (s.settleSpan x pdb commit j).1 := by
  cases commit with
  | true => exact sameCores_layRecord s _ _ _ _
  | false => exact sameCores_frame.trans (sameCores_shrunk s x.asid (glazeDie pdb) _) (sameCores_layRecord _ _ _ _ _)

theorem sameCores_settlePage (s : State) (x : Ctx) (pdb : Pdb) (commit : Bool) : SameCores s (s.settlePage x pdb commit).1 := by
  have hfold : ∀ (js : List Nat) (r : State × List Nat), SameCores r.1
      (js.foldl (fun r j => let q := r.1.settleSpan x pdb commit j; (q.1, r.2 ++ q.2)) r).1 := by
    intro js
    induction js with
    | nil => exact fun r => sameCores_frame.refl r.1
    | cons j js ih => exact fun r => sameCores_frame.trans (sameCores_settleSpan r.1 x pdb commit j) (ih _)
  unfold State.settlePage
  dsimp only
  split
  · exact sameCores_frame.refl s
  · exact sameCores_frame.trans (hfold _ (s, [])) (sameCores_sideEvent _ _ _ _ _)

theorem sameCores_settleNext (x : Ctx) (commit : Bool) (a : Nat) : Keeps SameCores (settleNext x commit a) := by
  unfold settleNext
  refine keeps_ite (keeps_raise sameCores_frame _) (keeps_ite (keeps_raise sameCores_frame _)
    (keeps_bind sameCores_frame (sameCores_translate _ _ _) fun p => ?_))
  split
  · refine keeps_bind sameCores_frame (keeps_get sameCores_frame) fun s => keeps_bind sameCores_frame (sameCores_awaitStores _) fun _ =>
      keeps_get_bind fun s => ?_
    exact keepsAt_set_bind sameCores_frame (sameCores_settlePage s x _ commit) (keeps_pure sameCores_frame _)
  · exact keeps_pure sameCores_frame _

theorem sameCores_settling (o : Option (Nat × Nat)) (s : State) : SameCores s (s.updMe fun k => { k with settling := o }) :=
  sameCores_updMe (f := fun k => { k with settling := o }) (fun _ => rfl) s

/-- One page of a GCOMMIT or GDISCARD leaves the cores but for where the instruction stands. -/
theorem sameCores_settleStep (x : Ctx) (commit : Bool) (a len : Word) : Keeps SameCores (settleStep x commit a len) := by
  unfold settleStep
  refine keeps_ite (keeps_pure sameCores_frame _) (keeps_bind sameCores_frame (keeps_getMe sameCores_frame) fun k => ?_)
  dsimp only
  have hend : ∀ r : Nat × Nat, Keeps SameCores (do
      modMe fun k' => { k' with settling := if decide (r.1 < a.toNat + len.toNat) then some (r.1, (k.settlingFrom a.toNat).2 + r.2) else none }
      return if decide (r.1 < a.toNat + len.toNat) then none else some (word ((k.settlingFrom a.toNat).2 + r.2)) : M (Option Word)) :=
    fun r => keeps_bind sameCores_frame (keeps_modMe (sameCores_settling _)) fun _ => keeps_pure sameCores_frame _
  exact keeps_ite (keeps_bind sameCores_frame (keeps_pure sameCores_frame _) hend)
    (keeps_bind sameCores_frame (sameCores_settleNext _ _ _) hend)

/-! ## The turn of the scalar unit -/

/-- What must hold before an instruction is looked at, whether or not its line has been entered. -/
structure ComesTo (s : State) : Prop where
  running : s.me.act ≠ .idle
  failing : s.me.failing = none
  push : s.me.pendingPush = none
  budget : s.overrun s.me = false
  draining : s.me.draining = none
  queue : s.me.queue = []
  late : s.me.lateFault = none
  interrupt : s.me.interrupt = none

theorem run_turn {s : State} (h : ComesTo s) : runM turn s = runM fetchNext s := by
  simp only [turn, run_bind, run_myNumber, run_get, h.failing, h.push, if_neg h.running, h.budget, Bool.false_eq_true, if_false, h.draining]
  split <;> simp only [run_bind, run_runEntries h.queue, run_getMe, h.late, h.interrupt]

theorem comesTo_of_atInstr {s : State} {l : Line} (h : Spec.AtInstr s l) : ComesTo s :=
  ⟨h.running, h.failing, h.push, h.budget, h.draining, h.queue, h.late, h.interrupt⟩

theorem run_enterNext_held {s : State} {l : Line} (h : Spec.AtInstr s l) : runM enterNext s = (.ok (some l), s) := by
  obtain ⟨b, hb, rfl⟩ := h.line
  simp [enterNext, hb, h.slot.1, h.slot.2]

theorem run_fetchNext_of {s t : State} {l : Option Line} (h : runM enterNext s = (.ok l, t)) : runM fetchNext s = (.ok l, t) := by
  simp only [fetchNext, run_bind, run_getMe, run_tryTrap, h, run_pure]

theorem supInterrupt_none {k : Core} (h : k.interrupt = none) (b : Bool) : k.supInterrupt b = none := by
  rw [Core.supInterrupt, h, ite_self]

theorem run_decodeNext {s : State} {l : Line} (h : s.me.interrupt = none) {i : Instr} (hd : decodeSlot l (iaSlot s.me.ia) = .ok i) :
    runM (decodeNext l) s = (.ok (some i), s) := by
  simp only [decodeNext, run_bind, run_getMe, hd, supInterrupt_none h, run_pure]

theorem run_nextInstr {s t : State} {l : Line} (h : ComesTo s) (hf : runM enterNext s = (.ok (some l), t)) :
    runM nextInstr s = runM (decodeNext l) t := by
  simp only [nextInstr, run_bind, run_turn h, run_fetchNext_of hf]

/-- The scalar unit runs the instruction that it comes to. -/
theorem scalarStep_of_ok {s t : State} {i : Instr} (h : runM nextInstr s = (.ok (some i), t)) : scalarStep s = exec i t := by
  have : nextInstr.run.run s = (.ok (some i), t) := h
  simp only [scalarStep, State.takeTurn, this]

theorem scalarStep_of_none {s t : State} (h : runM nextInstr s = (.ok none, t)) : scalarStep s = .next t := by
  have : nextInstr.run.run s = (.ok none, t) := h
  simp only [scalarStep, State.takeTurn, this]

theorem scalarStep_of_error {s t : State} {e : Halt} (h : runM nextInstr s = (.error e, t)) : scalarStep s = .next t := by
  have : nextInstr.run.run s = (.error e, t) := h
  simp only [scalarStep, State.takeTurn, this]

theorem toNat_undefAux (h : BitVec 16) (n : Nat) : (undefAux h n).toNat = h.toNat * 2 ^ 16 + n % 16 := by
  have h1 := h.isLt
  have h2 := Nat.mod_lt n (by decide : 0 < 16)
  simp only [undefAux, BitVec.toNat_append, BitVec.toNat_ofNat, Nat.zero_mod, Nat.zero_shiftLeft, Nat.zero_or, Nat.or_zero,
    Nat.reducePow, ← Nat.shiftLeft_add]
  rw [← Nat.shiftLeft_add_eq_or_of_lt (by omega), Nat.shiftLeft_eq]

/-- The trap of a slot that decodes to no instruction. -/
theorem run_decodeNext_error {s : State} {l : Line} {n : Nat} (hd : decodeSlot l (iaSlot s.me.ia) = .error n) :
    (runM (decodeNext l) s).2 = s.after (trapEntry (some (faultOf 1 0 ((lineHead l (iaSlot s.me.ia)).toNat * 2 ^ 16 + n % 16))) s.me.ia) ∧
      ∀ i, (runM (decodeNext l) s).1 ≠ .ok (some i) := by
  simp only [decodeNext, run_bind, run_getMe, hd, toNat_undefAux, after_eq]
  rcases runM (trapEntry _ s.me.ia) s with ⟨_ | _, u⟩ <;> exact ⟨rfl, fun i => by simp⟩

theorem scalarStep_of_stop {s t : State} (h : (runM nextInstr s).2 = t) (hi : ∀ i, (runM nextInstr s).1 ≠ .ok (some i)) : scalarStep s = .next t := by
  rcases hr : runM nextInstr s with ⟨e | _ | i, u⟩
  · rw [hr] at h; cases h; exact scalarStep_of_error hr
  · rw [hr] at h; cases h; exact scalarStep_of_none hr
  · exact absurd (by rw [hr]) (hi i)

/-! ## One step -/

/-- Time passes, and the tape moves on. -/
def State.later (s : State) : State := { s.tick with tape := s.tape.drop 1 }

theorem step_scalar {s : State} {c : Nat} (h : s.move = .scalar c) (hc : c < 160) : step s = scalarStep { s.later with cur := c } := by
  have hc' : c < Config.coreCount := hc
  simp only [step, h, if_pos hc']
  rfl

theorem step_rows {s : State} {c n : Nat} (h : s.move = .rows c n) (hc : c < 160) : step s = .next (runM (vectorRows c n) s.later).2 := by
  have hc' : c < Config.coreCount := hc
  simp only [step, h, if_pos hc']
  rfl

theorem step_vector {s : State} {c : Nat} (h : s.move = .vector c) (hc : c < 160) : step s = .next (runM (vectorMove c) s.later).2 := by
  have hc' : c < Config.coreCount := hc
  simp only [step, h, if_pos hc']
  rfl

theorem step_ahead {s : State} {c i n : Nat} (h : s.move = .ahead c i n) (hc : c < 160) : step s = .next (runM (aheadMove c i n) s.later).2 := by
  have hc' : c < Config.coreCount := hc
  simp only [step, h, if_pos hc']
  rfl

theorem step_page {s : State} {c : Nat} (h : s.move = .page c) (hc : c < 160) : step s = .next (runM (pageMove c) s.later).2 := by
  have hc' : c < Config.coreCount := hc
  simp only [step, h, if_pos hc']
  rfl

/-- A line that has not been entered is entered first (R17). -/
theorem run_enterNext_entering {s u : State} {l : Line} (hl : s.me.line = none) (hw : wellFormedIa s.me.ia = true)
    (he : Answers (enterLine s.me.sstat.mode s.me.ia) s l u) (hia : u.me.ia = s.me.ia)
    (hv : Spec.AtInstr (u.updMe fun k => k.goAt k.ia (some l)) l) :
    runM enterNext s = (.ok (some l), u.updMe fun k => k.goAt k.ia (some l)) := by
  have hc : u.cur < u.cores.length := by simpa using hv.cur
  have hslot : iaSlot s.me.ia ≤ lineNh l := by
    have := hv.slot.2
    rwa [me_updMe _ _ hc, show (u.me.goAt u.me.ia (some l)).ia = s.me.ia from hia] at this
  have he' : runM (enterLine s.me.sstat.mode s.me.ia) s = (.ok l, u) := he
  simp only [enterNext, run_bind, run_getMe, hl, he', run_modMe, run_pure, hw, hslot, decide_true, Bool.and_self, if_true]

/-- The condition under which the head of a queue runs by rows names the accesses whose rows it may run one after another. -/
theorem not_mma_of_rowMask {o : VecOp} {m : MaskReg} (h : o.rowMask = some m) : ∀ p x, o ≠ .mma p x := by
  rintro p x rfl
  cases h

theorem run_runPart {m : M Unit} {s t : State} (h : Ends m s t) (row block : Nat) : runM (runPart m row block) s = (.ok (), t.progressed row 0 block) := by
  simp only [runPart, run_tryCatch, run_bind, show runM m s = (.ok (), t) from h, run_setProg]

/-- A state as another core sees it. -/
def State.as (s : State) (c : Nat) : State := { s with cur := c }

/-- Another core's computation gives the number of the executing core back however it ends. -/
theorem onCore_state (c : Nat) (m : M α) (s : State) : (runM (onCore c m) s).2 = (runM m (s.as c)).2.as s.cur := by
  simp only [onCore, run_bind, run_get, run_modify, run_tryCatch]
  rcases hr : runM m (s.as c) with ⟨e | a, t⟩ <;> rw [show runM m { s with cur := c } = _ from hr] <;> rfl

theorem run_vectorRows {s t : State} {c n : Nat} {e : VEntry} {es : List VEntry} {m : MaskReg}
    (hq : (s.as c).me.queue = e :: es) (hm : e.op.rowMask = some m) (hf : e.fault = none) (hn : e.prog.row + n < e.nr)
    (ha : anyActive (s.as c).me { e with nr := e.prog.row + n } m = true)
    (h : Ends (do entryGate { e with nr := e.prog.row + n }; vexec { e with nr := e.prog.row + n }) (s.as c) t) :
    runM (vectorRows c n) s = (.ok (), (t.progressed (e.prog.row + n) 0 0).as s.cur) := by
  refine run_onCore_ok (s := s) ?_
  rw [run_bind, run_getMe]
  change runM (match (s.as c).me.queue with | [] => _ | e :: _ => _) (s.as c) = _
  rw [hq]
  dsimp only
  rw [if_neg (by simp [hf])]
  split
  · next hop => exact absurd hop (not_mma_of_rowMask hm _ _)
  · next m' hm' _ =>
    cases hm.symm.trans hm'
    refine (congrArg (fun m => runM m (s.as c)) (if_neg (not_or.2 ⟨Nat.not_le.2 hn, fun h => ?_⟩))).trans (run_runPart h _ _)
    exact Bool.false_ne_true ((congrArg not ha).symm.trans h)
  · next hm' _ => cases hm.symm.trans hm'

theorem run_vectorBlocks {s t : State} {c n : Nat} {e : VEntry} {es : List VEntry} {o : MmaOp} {x : MmaF}
    (hq : (s.as c).me.queue = e :: es) (hop : e.op = .mma o x) (hf : e.fault = none) (he : e.empty = false) (hn : 0 < n)
    (hs : e.prog.block + n < 4) (h : Ends (mmaBlocks o x e (e.prog.block + n)) (s.as c) t) :
    runM (vectorRows c n) s = (.ok (), (t.progressed 0 0 (e.prog.block + n)).as s.cur) := by
  refine run_onCore_ok (s := s) ?_
  rw [run_bind, run_getMe]
  change runM (match (s.as c).me.queue with | [] => _ | e :: _ => _) (s.as c) = _
  rw [hq]
  dsimp only
  rw [if_neg (by simp [hf])]
  split
  · next hop' =>
    cases hop.symm.trans hop'
    rw [if_neg (by simp [he]; omega)]
    exact run_runPart h _ _
  · next hm' _ => rw [hop] at hm'; cases hm'
  · next hne => exact absurd hop (hne o x)

theorem run_vectorRows_idle {s : State} {c : Nat} (n : Nat) (hq : (s.as c).me.queue = []) : runM (vectorRows c n) s = (.ok (), s) := by
  refine (run_onCore_ok (s := s) (t := s.as c) (a := ()) ?_)
  rw [run_bind, run_getMe]
  change runM (match (s.as c).me.queue with | [] => _ | e :: _ => _) (s.as c) = _
  rw [hq]
  rfl

theorem run_vectorMove {s t : State} {c : Nat} {b : Bool} (h : Answers stepHead (s.as c) b t) : runM (vectorMove c) s = (.ok (), t.as s.cur) := by
  refine run_onCore_ok (s := s) ?_
  rw [run_bind, show runM stepHead { s with cur := c } = (.ok b, t) from h]
  rfl

theorem run_aheadMove {s t : State} {c i n lim : Nat} {e : VEntry} (hq : (s.as c).me.queue[i]? = some e) (hl : (s.as c).chainLimit c i = some lim)
    (hi : i ≠ 0) (ho : e.op.reads = true ∨ e.op.writes = true ∨ e.op.crustForm.isSome = true) (hf : e.fault = none) (hr : e.prog.row < n) (hn : n ≤ lim)
    (h : Ends (advance i n) (s.as c) t) : runM (aheadMove c i n) s = (.ok (), t.as s.cur) := by
  refine run_onCore_ok (s := s) ?_
  rw [run_bind, run_get]
  have hq' : ((s.as c).core c).queue[i]? = some e := hq
  change runM (match ((s.as c).core c).queue[i]?, (s.as c).chainLimit c i with | some e, some lim => _ | _, _ => _) (s.as c) = _
  rw [hq', hl]
  dsimp only
  rw [if_pos ⟨hi, ho, hf, hr, hn⟩]
  exact h

/-- A core goes on where its next address is well formed, and the rest of the device is as it was. -/
theorem run_retire_written {s t : State} (hst : SameCores s t) (hc : s.cur < s.cores.length) (hw : wellFormedIa s.me.nextIa = true) (d : Reg) (v : Word) :
    runM retire (t.updMe fun k => k.setX d v) = (.ok (), t.wrote d v) := by
  refine run_retire (by simpa using hst.valid hc) ?_
  rw [me_updMe _ _ (hst.valid hc), show (t.me.setX d v).nextIa = t.me.nextIa by simp [Core.nextIa, Core.nh], hst.nextIa]
  exact hw

/-- One page of a GCOMMIT or GDISCARD (R123). -/
theorem run_settleOne {s t : State} {x : R3T2} {commit : Bool} (hr : Ready s [x.d, x.a, x.b]) (hq : Spec.Quiet s) {r : Option Word}
    (h : Answers (settleStep (s.me.ctx s.cur) commit (s.me.x x.a) (s.me.x x.b)) (Spec.released s .device) r t) :
    runM (runInstr [x.d, x.a, x.b] (settleOne commit x)) s = (match r with | some n => (.ok (), t.wrote x.d n) | none => (.error .wait, t)) := by
  have hrel := sameCores_released s .device
  have hst : SameCores s t := sameCores_frame.trans hrel (by
    have := sameCores_settleStep (s.me.ctx s.cur) commit (s.me.x x.a) (s.me.x x.b) (Spec.released s .device)
    unfold KeepsAt at this
    rwa [show runM _ _ = _ from h] at this)
  have hctx : (Spec.released s .device).me.ctx (Spec.released s .device).cur = s.me.ctx s.cur := by rw [hrel.1, hrel.ctx]
  simp only [runInstr, run_bind, run_tryTrap, run_interlock hr.free, settleOne, run_readX, run_scalarRelease hq, run_myCtx, hctx]
  rw [show runM (settleStep (s.me.ctx s.cur) commit (s.me.x x.a) (s.me.x x.b)) (Spec.released s .device) = (.ok r, t) from h]
  cases r with
  | none => rfl
  | some n =>
    simp only [run_bind, run_writeX, run_pure]
    exact run_retire_written hst hr.cur hr.next x.d n


theorem run_nextInstr_idle {s : State} (ha : s.me.act = .idle) (hf : s.me.failing = none) (hp : s.me.pendingPush = none) :
    runM nextInstr s = (.ok none, s) := by
  simp only [nextInstr, turn, run_bind, run_myNumber, run_get, hf, hp, ha, if_true, run_pure]

/-- Settles O55: the turn of a scalar unit comes to the instruction of its slot, and every other agent runs its one computation. -/
theorem stepRunsDecoded : Obligations.StepRunsDecoded := by
  intro s
  refine ⟨?_, ?_, ?_, ?_, ?_, ?_, ?_, ?_, ?_, ?_, ?_, ?_, ?_⟩
  · intro c l hm hc t hl
    have hrun := run_nextInstr (comesTo_of_atInstr hl) (run_enterNext_held hl)
    refine ⟨fun i hi => ?_, fun n hn => ?_⟩
    · exact (step_scalar hm hc).trans (scalarStep_of_ok (hrun.trans (run_decodeNext hl.interrupt hi)))
    · obtain ⟨hs, hne⟩ := run_decodeNext_error hn
      exact (step_scalar hm hc).trans (scalarStep_of_stop (s := t) ((congrArg Prod.snd hrun).trans hs) fun i h => hne i ((congrArg Prod.fst hrun).symm.trans h))
  · rintro c l u hm hc t hl hw he v hv ⟨ha, hf, hp, ho, hd, hq, hlate, hi⟩ hia i hdec
    have hct : ComesTo t := ⟨ha, hf, hp, ho, hd, hq, hlate, hi⟩
    have hrun := run_nextInstr hct (run_enterNext_entering hl hw he hia hv)
    have hc' : u.cur < u.cores.length := updMe_cores_length u (fun k => k.goAt k.ia (some l)) ▸ hv.cur
    have hvia : v.me.ia = t.me.ia := by
      rw [show v.me = u.me.goAt u.me.ia (some l) from me_updMe u _ hc', ← hia]
      rfl
    exact (step_scalar hm hc).trans (scalarStep_of_ok (hrun.trans (run_decodeNext hv.interrupt (by rw [hvia]; exact hdec))))
  · intro i hm
    rw [step, hm]
  · intro c n e es m t hm hc q part hq hop hf hn ha h htc
    refine ⟨t.progressed part.nr 0 0, run_setProg _ _ _ _, ?_⟩
    exact (step_rows hm hc).trans (congrArg (fun r => Host.Outcome.next r.2) (run_vectorRows (s := s.later) hq hop hf hn ha h))
  · intro c n e es o x t hm hc q stop hq hop hf he hn hs h htc
    refine ⟨t.progressed 0 0 stop, run_setProg _ _ _ _, ?_⟩
    exact (step_rows hm hc).trans (congrArg (fun r => Host.Outcome.next r.2) (run_vectorBlocks (s := s.later) hq hop hf he hn hs h))
  · intro c b t hm hc h htc
    exact (step_vector hm hc).trans (congrArg (fun r => Host.Outcome.next r.2) (run_vectorMove (s := s.later) h))
  · intro c i n lim e t hm hc q hq hl hi ho hf hr hn h htc
    exact (step_ahead hm hc).trans (congrArg (fun r => Host.Outcome.next r.2) (run_aheadMove (s := s.later) hq hl hi ho hf hr hn h))
  · intro c l x t hm hc q hl hr hqt settled
    have hpage : ∀ (i : Instr) (commit : Bool), decodeSlot l (iaSlot q.me.ia) = .ok i →
        (i = .gcommit x ∧ commit = true ∨ i = .gdiscard x ∧ commit = false) → settled commit := by
      intro i commit hi hx r h htc
      have hnext := (run_nextInstr (comesTo_of_atInstr hl) (run_enterNext_held hl)).trans (run_decodeNext hl.interrupt hi)
      rw [step_page hm hc]
      refine congrArg Host.Outcome.next ((onCore_state c _ s.later).trans ?_)
      have hrun := run_settleOne hr hqt h
      rw [run_bind, show runM nextInstr (s.later.as c) = (.ok (some i), q) from hnext]
      rcases hx with ⟨rfl, rfl⟩ | ⟨rfl, rfl⟩ <;> dsimp only <;> rw [hrun] <;> cases r <;> rfl
    exact ⟨fun h => hpage _ true h (.inl ⟨rfl, rfl⟩), fun h => hpage _ false h (.inr ⟨rfl, rfl⟩)⟩
  · intro l hm
    rw [step, hm]
  · intro l hm
    rw [step, hm]
  · intro c n hm hc hq
    exact (step_rows hm hc).trans (congrArg (fun r => Host.Outcome.next r.2) (run_vectorRows_idle (s := s.later) n hq))
  · intro h
    rw [State.move, h]
    rfl
  · intro c hm hc ha hf hp
    refine (step_scalar hm hc).trans (scalarStep_of_none (s := s.later.as c) (t := s.later.as c) ?_)
    exact run_nextInstr_idle ha hf hp

end Sys2Proof.Machine
end

section
/-! PROOF. A frame of the whole machine: what a computation of a core, a unit or an agent leaves of the sizes of the tables, of the canonical form
of memory and of the sparse files, and of where each core stands. -/
namespace Sys2Proof.Machine

open Sys2Proof

/-! ## The parts of the frame -/

/-- A part of a core that only some computations change. -/
def Stays {α : Type} (p : Prop) (a b : α) : Prop := p → b = a

def SameLength {α : Type} (l l' : List α) : Prop := l'.length = l.length

def RowsOk (f g : RowFile) : Prop := Spec.Rising f → Spec.Rising g

def CellsOk (b c : Bytes) : Prop := Spec.RisingBytes b → Spec.RisingBytes c

def MemOk (m m' : List Host.Cell) : Prop := Memory.wf m = true → Memory.wf m' = true

/-- A core keeps its sparse files in order, and, where `p` holds, stands where it stood. -/
structure CoreOk (p : Prop) (k k' : Core) : Prop where
  ia : Stays p k.ia k'.ia
  line : Stays p k.line k'.line
  vregs : RowsOk k.vregs k'.vregs
  slices : CellsOk k.slices k'.slices

def CoresOk (p : Prop) (l l' : List Core) : Prop := List.Forall₂ (CoreOk p) l l'

def MxesOk (l l' : List Mxe) : Prop := List.Forall₂ (fun m m' => RowsOk m.rows m'.rows) l l'

/-- A state follows another without a change of the sizes or forms of its tables; where `p` holds, each core stands where it stood. -/
structure Mild (p : Prop) (s t : State) : Prop where
  cores : CoresOk p s.cores t.cores
  dies : SameLength s.dies t.dies
  mxes : MxesOk s.mxes t.mxes
  crusts : SameLength s.crusts t.crusts
  mem : MemOk s.mem t.mem
  cur : t.cur = s.cur

variable {p : Prop}

@[simp] theorem stays_refl {α : Type} (a : α) : Stays p a a := fun _ => rfl

@[simp] theorem stays_false {α : Type} (a b : α) : Stays False a b := fun h => h.elim

@[simp] theorem sameLength_refl {α : Type} (l : List α) : SameLength l l := rfl

@[simp] theorem rowsOk_refl (f : RowFile) : RowsOk f f := id

@[simp] theorem cellsOk_refl (b : Bytes) : CellsOk b b := id

@[simp] theorem memOk_refl (m : List Host.Cell) : MemOk m m := id

@[simp] theorem coreOk_refl (k : Core) : CoreOk p k k := ⟨stays_refl _, stays_refl _, rowsOk_refl _, cellsOk_refl _⟩

@[simp] theorem coresOk_refl (l : List Core) : CoresOk p l l := List.forall₂_same.2 fun k _ => coreOk_refl k

@[simp] theorem mxesOk_refl (l : List Mxe) : MxesOk l l := List.forall₂_same.2 fun m _ => rowsOk_refl m.rows

@[simp] theorem mild_refl (s : State) : Mild p s s := ⟨coresOk_refl _, rfl, mxesOk_refl _, rfl, memOk_refl _, rfl⟩

theorem CoreOk.trans {k l m : Core} (h : CoreOk p k l) (g : CoreOk p l m) : CoreOk p k m :=
  ⟨fun hp => (g.ia hp).trans (h.ia hp), fun hp => (g.line hp).trans (h.line hp), fun hr => g.vregs (h.vregs hr), fun hc => g.slices (h.slices hc)⟩

theorem forall₂_trans {α : Type} {r : α → α → Prop} (hr : ∀ {a b c}, r a b → r b c → r a c) {l m n : List α} (h : List.Forall₂ r l m)
    (g : List.Forall₂ r m n) : List.Forall₂ r l n := by
  induction h generalizing n with
  | nil => exact g
  | cons hab _ ih => cases g with | cons hbc g => exact .cons (hr hab hbc) (ih g)

theorem Mild.trans {s t u : State} (h : Mild p s t) (g : Mild p t u) : Mild p s u :=
  ⟨forall₂_trans (r := CoreOk p) (fun h g => h.trans g) h.cores g.cores, Eq.trans g.dies h.dies,
    forall₂_trans (r := fun m m' : Mxe => RowsOk m.rows m'.rows) (fun h g hr => g (h hr)) h.mxes g.mxes,
    Eq.trans g.crusts h.crusts, fun hm => g.mem (h.mem hm), g.cur.trans h.cur⟩

theorem mild_frame : Frame (Mild p) := ⟨mild_refl, Mild.trans⟩

/-- A frame that keeps where the cores stand keeps less as well. -/
theorem Mild.weaken {s t : State} (h : Mild True s t) : Mild p s t :=
  ⟨h.cores.imp fun _ _ hk => ⟨fun _ => hk.ia trivial, fun _ => hk.line trivial, hk.vregs, hk.slices⟩, h.dies, h.mxes, h.crusts, h.mem, h.cur⟩

/-! ## Changes of parts -/

@[simp] theorem rowsOk_put {f g : RowFile} (h : RowsOk f g) (i : Nat) (v : VRow) : RowsOk f (g.put i v) := fun hf => rising_rowPut i v (h hf)

@[simp] theorem rowsOk_nil (f : RowFile) (z : Fill) : RowsOk f { fill := z, rows := [] } := fun _ => List.Pairwise.nil

@[simp] theorem cellsOk_put {b c : Bytes} (h : CellsOk b c) (a : Nat) (v : Byte) : CellsOk b (c.put a v) := fun hb => rising_put c a v (h hb)

@[simp] theorem cellsOk_foldl {α : Type} {b c : Bytes} (h : CellsOk b c) {f : Bytes → α → Bytes} (hf : ∀ d a, CellsOk d (f d a)) (l : List α) :
    CellsOk b (l.foldl f c) := by
  induction l generalizing c with
  | nil => exact h
  | cons a r ih => exact ih fun hb => hf c a (h hb)

@[simp] theorem rowsOk_foldl {α : Type} {b c : RowFile} (h : RowsOk b c) {f : RowFile → α → RowFile} (hf : ∀ d a, RowsOk d (f d a))
    (l : List α) : RowsOk b (l.foldl f c) := by
  induction l generalizing c with
  | nil => exact h
  | cons a r ih => exact ih fun hb => hf c a (h hb)

@[simp] theorem cellsOk_filter (b : Bytes) (z : Fill) (f : Nat × Byte → Bool) : CellsOk b { fill := z, cells := b.cells.filter f } :=
  fun hb => List.Pairwise.filter f hb

@[simp] theorem cellsOk_nil (b : Bytes) (z : Fill) : CellsOk b { fill := z, cells := [] } := fun _ => List.Pairwise.nil

@[simp] theorem cellsOk_putAll {b c : Bytes} (h : CellsOk b c) (a : Nat) (vs : List Byte) : CellsOk b (c.putAll a vs) := by
  induction vs generalizing c a with
  | nil => exact h
  | cons v r ih => exact ih (cellsOk_put h a v) (a + 1)

@[simp] theorem stays_ia {k l : Core} (h : CoreOk p k l) : Stays p k.ia l.ia := h.ia

@[simp] theorem stays_line {k l : Core} (h : CoreOk p k l) : Stays p k.line l.line := h.line

@[simp] theorem rowsOk_vregs {k l : Core} (h : CoreOk False k l) : RowsOk k.vregs l.vregs := h.vregs

@[simp] theorem cellsOk_slices {k l : Core} (h : CoreOk False k l) : CellsOk k.slices l.slices := h.slices

/-- A core given by its fields. -/
@[simp] theorem coreOk_mk (k : Core) a_task a_sup a_ia a_line a_icache a_act a_vregs a_dirty a_vrows a_wideFile a_k1 a_k2 a_k3 a_flags a_frm a_wide a_nr a_nc a_vstart a_ffnr a_scx a_verstat a_kvroot a_cpwp a_taskrec a_launch a_deadline a_paduse a_cause a_eia a_eva a_ekv a_eaux a_tvec a_sstat a_asid a_ptroot a_queue a_held a_chans a_cpwpCk a_seq a_fenceSeq a_svFence a_sb a_ck a_slices a_window a_deferred a_preempt a_reclaim a_mgmt a_restored a_monitor a_mirror a_mirrorCk a_deque a_run a_taskNo a_pendingPush a_settling a_draining a_failing :
    CoreOk p k ⟨a_task, a_sup, a_ia, a_line, a_icache, a_act, a_vregs, a_dirty, a_vrows, a_wideFile, a_k1, a_k2, a_k3, a_flags, a_frm, a_wide, a_nr, a_nc, a_vstart, a_ffnr, a_scx, a_verstat, a_kvroot, a_cpwp, a_taskrec, a_launch, a_deadline, a_paduse, a_cause, a_eia, a_eva, a_ekv, a_eaux, a_tvec, a_sstat, a_asid, a_ptroot, a_queue, a_held, a_chans, a_cpwpCk, a_seq, a_fenceSeq, a_svFence, a_sb, a_ck, a_slices, a_window, a_deferred, a_preempt, a_reclaim, a_mgmt, a_restored, a_monitor, a_mirror, a_mirrorCk, a_deque, a_run, a_taskNo, a_pendingPush, a_settling, a_draining, a_failing⟩ ↔
      Stays p k.ia a_ia ∧ Stays p k.line a_line ∧ RowsOk k.vregs a_vregs ∧ CellsOk k.slices a_slices :=
  ⟨fun h => ⟨h.ia, h.line, h.vregs, h.slices⟩, fun ⟨h1, h2, h3, h4⟩ => ⟨h1, h2, h3, h4⟩⟩

theorem forall₂_modifyNth {α : Type} {r : α → α → Prop} {f : α → α} (hr : ∀ a b, r a b → r a (f b)) {l m : List α} (h : List.Forall₂ r l m) (n : Nat) :
    List.Forall₂ r l (modifyNth f n m) := by
  induction h generalizing n with
  | nil => cases n <;> exact .nil
  | cons hab h ih =>
    cases n with
    | zero => exact .cons (hr _ _ hab) h
    | succ n => exact .cons hab (ih n)

@[simp] theorem coresOk_modifyNth {l m : List Core} {f : Core → Core} (h : CoresOk p l m) (hf : ∀ k, CoreOk p k (f k)) (n : Nat) :
    CoresOk p l (modifyNth f n m) := forall₂_modifyNth (fun _ b hab => hab.trans (hf b)) h n

@[simp] theorem coresOk_map {l m : List Core} {f : Core → Core} (h : CoresOk p l m) (hf : ∀ k, CoreOk p k (f k)) : CoresOk p l (m.map f) :=
  List.forall₂_map_right_iff.2 (h.imp fun _ b hab => hab.trans (hf b))

@[simp] theorem mxesOk_modifyNth {l m : List Mxe} {f : Mxe → Mxe} (h : MxesOk l m) (hf : ∀ k : Mxe, RowsOk k.rows (f k).rows) (n : Nat) :
    MxesOk l (modifyNth f n m) := forall₂_modifyNth (fun _ b hab hr => hf b (hab hr)) h n

@[simp] theorem sameLength_modifyNth {α : Type} {l m : List α} (h : SameLength l m) (f : α → α) (n : Nat) : SameLength l (modifyNth f n m) :=
  (modifyNth_length f n m).trans h

@[simp] theorem sameLength_map {α : Type} {l m : List α} (h : SameLength l m) (f : α → α) : SameLength l (m.map f) := (List.length_map f).trans h

@[simp] theorem sameLength_mapIdx {α : Type} {l m : List α} (h : SameLength l m) (f : Nat → α → α) : SameLength l (m.mapIdx f) :=
  (List.length_mapIdx).trans h

@[simp] theorem memOk_cellPut {m m' : List Host.Cell} (h : MemOk m m') (a : Nat) (v : Byte) : MemOk m (cellPut true m' a v) :=
  fun hm => wf_cellPut a v (h hm)

@[simp] theorem memOk_filter {m m' : List Host.Cell} (h : MemOk m m') (f : Host.Cell → Bool) : MemOk m (m'.filter f) := fun hm => wf_filter f (h hm)

@[simp] theorem coresOk_cores {s t : State} (h : Mild p s t) : CoresOk p s.cores t.cores := h.cores

@[simp] theorem sameLength_dies {s t : State} (h : Mild False s t) : SameLength s.dies t.dies := h.dies

@[simp] theorem mxesOk_mxes {s t : State} (h : Mild False s t) : MxesOk s.mxes t.mxes := h.mxes

@[simp] theorem sameLength_crusts {s t : State} (h : Mild False s t) : SameLength s.crusts t.crusts := h.crusts

@[simp] theorem memOk_mem {s t : State} (h : Mild False s t) : MemOk s.mem t.mem := h.mem

/-- The number of the executing core stays. -/
def SameCur (a b : Nat) : Prop := b = a

@[simp] theorem sameCur_refl (a : Nat) : SameCur a a := rfl

@[simp] theorem sameCur_cur {s t : State} (h : Mild False s t) : SameCur s.cur t.cur := h.cur

/-- A state given by its fields. -/
@[simp] theorem mild_mk (s : State) a_cores a_dies a_mxes a_crusts a_mem a_stamps a_writes a_inflight a_fills a_l1 a_badLines a_badCounters a_sealTags a_counters a_dirty a_vague a_verOwned a_verTaint a_keys a_keyGen a_carveC a_sealG a_sbase a_devNo a_stage a_life a_firmware a_locked a_everLocked a_lastPtm a_cap a_clockK a_shares a_queueNotes a_lastQueue a_groups a_rounds a_doneRounds a_fabric a_taskCtr a_joinCks a_notes a_images a_parked a_cycle a_dtime a_slew a_slewAcc a_cur a_tape a_freeCtr a_dCycles a_dNs a_eager :
    Mild p s ⟨a_cores, a_dies, a_mxes, a_crusts, a_mem, a_stamps, a_writes, a_inflight, a_fills, a_l1, a_badLines, a_badCounters, a_sealTags, a_counters, a_dirty, a_vague, a_verOwned, a_verTaint, a_keys, a_keyGen, a_carveC, a_sealG, a_sbase, a_devNo, a_stage, a_life, a_firmware, a_locked, a_everLocked, a_lastPtm, a_cap, a_clockK, a_shares, a_queueNotes, a_lastQueue, a_groups, a_rounds, a_doneRounds, a_fabric, a_taskCtr, a_joinCks, a_notes, a_images, a_parked, a_cycle, a_dtime, a_slew, a_slewAcc, a_cur, a_tape, a_freeCtr, a_dCycles, a_dNs, a_eager⟩ ↔
      CoresOk p s.cores a_cores ∧ SameLength s.dies a_dies ∧ MxesOk s.mxes a_mxes ∧ SameLength s.crusts a_crusts ∧ MemOk s.mem a_mem ∧
        SameCur s.cur a_cur :=
  ⟨fun h => ⟨h.cores, h.dies, h.mxes, h.crusts, h.mem, h.cur⟩, fun ⟨h1, h2, h3, h4, h5, h6⟩ => ⟨h1, h2, h3, h4, h5, h6⟩⟩

/-- A change of other fields of the state. -/
theorem mild_of_same {s t u : State} (h : Mild p s t) (hc : u.cores = t.cores) (hd : u.dies = t.dies) (hx : u.mxes = t.mxes)
    (hr : u.crusts = t.crusts) (hm : u.mem = t.mem) (hn : u.cur = t.cur) : Mild p s u :=
  ⟨hc ▸ h.cores, hd ▸ h.dies, hx ▸ h.mxes, hr ▸ h.crusts, hm ▸ h.mem, hn.trans h.cur⟩

theorem mild_dies {s t : State} (h : Mild p s t) {ds : List Die} (hd : SameLength t.dies ds) : Mild p s { t with dies := ds } :=
  ⟨h.cores, Eq.trans hd h.dies, h.mxes, h.crusts, h.mem, h.cur⟩

@[simp] theorem mild_updCore {s t : State} (h : Mild p s t) {f : Core → Core} (hf : ∀ k, CoreOk p k (f k)) (c : Nat) : Mild p s (t.updCore c f) :=
  h.trans (by simp [State.updCore, hf])

@[simp] theorem mild_updMe {s t : State} (h : Mild p s t) {f : Core → Core} (hf : ∀ k, CoreOk p k (f k)) : Mild p s (t.updMe f) :=
  mild_updCore h hf t.cur

theorem forall₂_modifyNth_at {α : Type} {r : α → α → Prop} {f : α → α} {l m : List α} (h : List.Forall₂ r l m) (n : Nat)
    (hf : ∀ a b, l[n]? = some a → m[n]? = some b → r a (f b)) : List.Forall₂ r l (modifyNth f n m) := by
  induction h generalizing n with
  | nil => cases n <;> exact .nil
  | cons hab h ih =>
    cases n with
    | zero => exact .cons (hf _ _ rfl rfl) h
    | succ n => exact .cons hab (ih n hf)

theorem forall₂_getElem? {α : Type} {r : α → α → Prop} {l m : List α} (h : List.Forall₂ r l m) (n : Nat) :
    (l[n]? = none ∧ m[n]? = none) ∨ ∃ a b, l[n]? = some a ∧ m[n]? = some b ∧ r a b := by
  induction h generalizing n with
  | nil => exact .inl ⟨rfl, rfl⟩
  | cons hab h ih =>
    cases n with
    | zero => exact .inr ⟨_, _, rfl, rfl, hab⟩
    | succ n => exact ih n

theorem Mild.core {s t : State} (h : Mild p s t) (c : Nat) : CoreOk p (s.core c) (t.core c) := by
  rcases forall₂_getElem? h.cores c with ⟨ha, hb⟩ | ⟨a, b, ha, hb, hab⟩
  · simp [State.core, List.getD, ha, hb]
  · simpa [State.core, List.getD, ha, hb] using hab

theorem Mild.me {s t : State} (h : Mild p s t) : CoreOk p s.me t.me := by
  have hm : t.me = t.core s.cur := by unfold State.me; rw [h.cur]
  exact hm ▸ h.core s.cur

/-- A change of the engine of the executing core that depends on what it held before. -/
theorem mild_updMxe_of {s t : State} (h : Mild p s t) {n : Nat} {f : Mxe → Mxe} (hf : RowsOk (s.mxe n).rows (f (t.mxe n)).rows) :
    Mild p s (t.updMxe n f) := by
  refine ⟨h.cores, h.dies, forall₂_modifyNth_at h.mxes _ fun a b ha hb => ?_, h.crusts, h.mem, h.cur⟩
  have hs : s.mxe n = a := by simp [State.mxe, ha, List.getD]
  have ht : t.mxe n = b := by simp [State.mxe, hb, List.getD]
  exact hs ▸ ht ▸ hf

/-- A change of the executing core that depends on what it held before. -/
theorem mild_updMe_of {s t : State} (h : Mild p s t) {f : Core → Core} (hf : CoreOk p s.me (f t.me)) : Mild p s (t.updMe f) := by
  refine ⟨forall₂_modifyNth_at h.cores _ fun a b ha hb => ?_, h.dies, h.mxes, h.crusts, h.mem, h.cur⟩
  have hs : s.me = a := by simp [State.me, State.core, ← h.cur, ha, List.getD]
  have ht : t.me = b := by simp [State.me, State.core, hb, List.getD]
  exact hs ▸ ht ▸ hf

@[simp] theorem mild_updDie {s t : State} (h : Mild p s t) (f : Die → Die) (d : Nat) : Mild p s (t.updDie d f) :=
  h.trans (by simp [State.updDie])

@[simp] theorem mild_updMxe {s t : State} (h : Mild p s t) {f : Mxe → Mxe} (hf : ∀ m : Mxe, RowsOk m.rows (f m).rows) (n : Nat) :
    Mild p s (t.updMxe n f) :=
  h.trans (by simp [State.updMxe, hf])

@[simp] theorem mild_updCrust {s t : State} (h : Mild p s t) (f : Crust → Crust) (n : Nat) : Mild p s (t.updCrust n f) :=
  h.trans (by simp [State.updCrust])

@[simp] theorem mild_ite {s t u : State} {c : Prop} [Decidable c] (ht : Mild p s t) (hu : Mild p s u) : Mild p s (if c then t else u) := by
  split
  · exact ht
  · exact hu

@[simp] theorem coreOk_ite {k l m : Core} {c : Prop} [Decidable c] (hl : CoreOk p k l) (hm : CoreOk p k m) : CoreOk p k (if c then l else m) := by
  split
  · exact hl
  · exact hm

@[simp] theorem mild_foldl {α : Type} {s t : State} (h : Mild p s t) {f : State → α → State} (hf : ∀ u a, Mild p u (f u a)) (l : List α) :
    Mild p s (l.foldl f t) := h.trans (keeps_foldl mild_frame hf l t)

@[simp] theorem coreOk_foldl {α : Type} {k m : Core} (h : CoreOk p k m) {f : Core → α → Core} (hf : ∀ u a, CoreOk p u (f u a)) (l : List α) :
    CoreOk p k (l.foldl f m) := by
  induction l generalizing m with
  | nil => exact h
  | cons a r ih => exact ih (h.trans (hf m a))

/-! ## Computations -/

/-- A computation leaves a state that follows the one it starts in. -/
def Tame (p : Prop) (m : M α) : Prop := Keeps (Mild p) m

/-- A computation from a given state leaves one that follows it. -/
def TameAt (p : Prop) (s : State) (m : M α) : Prop := KeepsAt (Mild p) m s

@[simp] theorem tame_pure (a : α) : Tame p (pure a : M α) := keeps_pure mild_frame a
@[simp] theorem tame_raise (t : Trap) : Tame p (raise t : M α) := keeps_raise mild_frame t
@[simp] theorem tame_throw (h : Halt) : Tame p (throw h : M α) := keeps_throw mild_frame h
@[simp] theorem tame_await : Tame p (await : M α) := keeps_await mild_frame
@[simp] theorem tame_get : Tame p (get : M State) := keeps_get mild_frame
@[simp] theorem tame_getMe : Tame p getMe := keeps_getMe mild_frame
@[simp] theorem tame_myNumber : Tame p myNumber := keeps_myNumber mild_frame
@[simp] theorem tame_myCtx : Tame p myCtx := keeps_myCtx mild_frame
@[simp] theorem tame_readX (r : Reg) : Tame p (readX r) := keeps_readX mild_frame r

@[simp] theorem tame_bind {m : M α} {f : α → M β} (hm : Tame p m) (hf : ∀ a, Tame p (f a)) : Tame p (m >>= f) := keeps_bind mild_frame hm hf
@[simp] theorem tame_seqRight {m : M α} {f : M β} (hm : Tame p m) (hf : Tame p f) : Tame p (m *> f) := keeps_seqRight mild_frame hm hf
@[simp] theorem tame_map {m : M α} {f : α → β} (hm : Tame p m) : Tame p (f <$> m) := keeps_map hm
@[simp] theorem tame_tryCatch {m : M α} {f : Halt → M α} (hm : Tame p m) (hf : ∀ h, Tame p (f h)) : Tame p (tryCatch m f) :=
  keeps_tryCatch mild_frame hm hf
@[simp] theorem tame_tryTrap {m : M α} (hm : Tame p m) : Tame p (tryTrap m) := keeps_tryTrap mild_frame hm
@[simp] theorem tame_ite {c : Prop} [Decidable c] {a b : M α} (ha : Tame p a) (hb : Tame p b) : Tame p (if c then a else b) := keeps_ite ha hb
@[simp] theorem tame_forM {f : α → M PUnit} (hf : ∀ a, Tame p (f a)) (l : List α) : Tame p (l.forM f) := keeps_forM mild_frame l hf
@[simp] theorem tame_mapM {f : α → M β} (hf : ∀ a, Tame p (f a)) (l : List α) : Tame p (l.mapM f) := by
  induction l with
  | nil => exact tame_pure []
  | cons a r ih => rw [List.mapM_cons]; exact tame_bind (hf a) fun _ => tame_bind ih fun _ => tame_pure _
@[simp] theorem tame_modify {f : State → State} (h : ∀ s, Mild p s (f s)) : Tame p (modify f : M PUnit) := h
@[simp] theorem tame_modMe {f : Core → Core} (h : ∀ k, CoreOk p k (f k)) : Tame p (modMe f) := fun s => mild_updMe (mild_refl s) h
@[simp] theorem tame_writeX (r : Reg) (v : Word) : Tame p (writeX r v) := by
  refine tame_modMe fun k => ?_
  unfold Core.setX
  simp
@[simp] theorem tame_orFlags (f : BitVec 6) : Tame p (orFlags f) := tame_modMe fun k => by simp
@[simp] theorem tame_drawChoice (n : Nat) : Tame p (drawChoice n) := fun s => by unfold KeepsAt; simp
@[simp] theorem tame_drawSeed : Tame p drawSeed := fun s => by unfold KeepsAt; simp
@[simp] theorem tame_drawWord : Tame p drawWord := fun s => by unfold KeepsAt; simp

@[simp] theorem tame_get_bind {f : State → M α} : Tame p (get >>= f) ↔ ∀ s, TameAt p s (f s) := Iff.rfl
@[simp] theorem tameAt_get_bind {f : State → M α} {s : State} : TameAt p s (get >>= f) ↔ TameAt p s (f s) := Iff.rfl

@[simp] theorem tameAt_of_tame {m : M α} (h : Tame p m) (s : State) : TameAt p s m := h s

@[simp] theorem tameAt_set {s t : State} (h : Mild p s t) : TameAt p s (set t : M PUnit) := h

@[simp] theorem tameAt_set_bind {s t : State} {f : PUnit → M α} (h : Mild p s t) (hf : Tame p (f ⟨⟩)) : TameAt p s (set t >>= f) :=
  keepsAt_set_bind mild_frame h hf

theorem tameAt_bind {m : M α} {f : α → M β} {s : State} (hm : TameAt p s m) (hf : ∀ a t, Mild p s t → Mild p s (runM (f a) t).2) :
    TameAt p s (m >>= f) := by
  unfold TameAt KeepsAt at *
  rw [run_bind]
  rcases hr : runM m s with ⟨_ | a, t⟩
  · rw [hr] at hm; exact hm
  · rw [hr] at hm; exact hf a t hm

/-- A state that is put back comes from an earlier one. -/
theorem mild_set_bind {s t u : State} {f : PUnit → M α} (h : Mild p s u) (hf : Tame p (f ⟨⟩)) : Mild p s (runM (set u >>= f) t).2 :=
  h.trans (hf u)

/-- A computation that goes on from a state which follows an earlier one. -/
theorem mild_bind {s t : State} {m : M α} {f : α → M β} (h : Mild p s t) (hm : Tame p m)
    (hf : ∀ a u, Mild p s u → Mild p s (runM (f a) u).2) : Mild p s (runM (m >>= f) t).2 := by
  have hu := h.trans (hm t)
  rw [run_bind]
  rcases hr : runM m t with ⟨_ | a, u⟩
  · rw [hr] at hu; exact hu
  · rw [hr] at hu; exact hf a u hu

theorem tameAt_tryCatch {m : M α} {f : Halt → M α} {s : State} (hm : TameAt p s m) (hf : ∀ h t, Mild p s t → Mild p s (runM (f h) t).2) :
    TameAt p s (tryCatch m f) := by
  unfold TameAt KeepsAt at *
  rw [run_tryCatch]
  rcases hr : runM m s with ⟨e | a, t⟩
  · rw [hr] at hm; exact hf e t hm
  · rw [hr] at hm; exact hm

@[simp] theorem tame_getMe_bind {f : Core → M α} : Tame p (getMe >>= f) ↔ ∀ s : State, TameAt p s (f s.me) := Iff.rfl

@[simp] theorem tameAt_pure (a : α) (s : State) : TameAt p s (pure a) := tame_pure a s
@[simp] theorem tameAt_raise (t : Trap) (s : State) : TameAt p s (raise t : M α) := tame_raise t s
@[simp] theorem tameAt_await (s : State) : TameAt p s (await : M α) := tame_await s
@[simp] theorem tameAt_modify {f : State → State} {s : State} (h : Mild p s (f s)) : TameAt p s (modify f : M PUnit) := h
@[simp] theorem tameAt_ite {c : Prop} [Decidable c] {a b : M α} {s : State} (ha : TameAt p s a) (hb : TameAt p s b) :
    TameAt p s (if c then a else b) := by
  split
  · exact ha
  · exact hb

/-- The number of the executing core comes back. -/
@[simp] theorem tame_onCore {m : M α} (hm : Tame p m) (c : Nat) : Tame p (onCore c m) := by
  intro s
  unfold KeepsAt
  rw [onCore_state]
  have h : Mild p (s.as c) (runM m (s.as c)).2 := hm (s.as c)
  exact ⟨h.cores, h.dies, h.mxes, h.crusts, h.mem, rfl⟩

end Sys2Proof.Machine
end

section
/-! PROOF. The frame of the whole machine for the functions of memory, of translation, of the store buffer and of the overlays. -/
namespace Sys2Proof.Machine

open Sys2Proof

variable {p : Prop}

@[simp] theorem coreOk_setX {k l : Core} (h : CoreOk p k l) (a1 : Reg) (a2 : Word) : CoreOk p k (Core.setX l a1 a2) := h.trans (by simp [Core.setX])

@[simp] theorem coreOk_clearVstart {k l : Core} (h : CoreOk p k l) : CoreOk p k (Core.clearVstart l) := h.trans (by simp [Core.clearVstart])

@[simp] theorem mild_setByte {s t : State} (h : Mild p s t) (a1 : ℕ) (a2 : Byte) : Mild p s (State.setByte t a1 a2) := h.trans (by simp [State.setByte])

@[simp] theorem mild_setBytes {s t : State} (h : Mild p s t) (a : Nat) (bs : List Byte) : Mild p s (t.setBytes a bs) := by
  induction bs generalizing t a with
  | nil => exact h
  | cons b r ih => exact ih (mild_setByte h a b) (a + 1)

@[simp] theorem mild_setStamp {s t : State} (h : Mild p s t) (a1 : ℕ) (a2 : Clock) : Mild p s (State.setStamp t a1 a2) := h.trans (by simp [State.setStamp])

@[simp] theorem mild_countWrite {s t : State} (h : Mild p s t) (a1 : ℕ) : Mild p s (State.countWrite t a1) := h.trans (by simp [State.countWrite])

@[simp] theorem mild_makeVague {s t : State} (h : Mild p s t) (a1 : ℕ) (a2 : ℕ) : Mild p s (State.makeVague t a1 a2) := h.trans (by simp [State.makeVague])

@[simp] theorem mild_makeExact {s t : State} (h : Mild p s t) (a1 : ℕ) : Mild p s (State.makeExact t a1) := h.trans (by simp [State.makeExact])

@[simp] theorem mild_deferFail {s t : State} (h : Mild p s t) (a1 : Option ℕ) : Mild p s (State.deferFail t a1) := by
  refine h.trans ?_
  unfold State.deferFail
  split <;> simp

@[simp] theorem mild_clearLine {s t : State} (h : Mild p s t) (a1 : ℕ) : Mild p s (State.clearLine t a1) := h.trans (by simp [State.clearLine])

@[simp] theorem mild_noteDirty {s t : State} (h : Mild p s t) (a1 : ℕ) : Mild p s (State.noteDirty t a1) := h.trans (by simp [State.noteDirty])

@[simp] theorem mild_forgetDirty {s t : State} (h : Mild p s t) (a1 : ℕ) : Mild p s (State.forgetDirty t a1) := h.trans (by simp [State.forgetDirty])

@[simp] theorem mild_writeBack {s t : State} (h : Mild p s t) (a1 : ℕ) : Mild p s (State.writeBack t a1) := h.trans (by simp (disch := simp) [State.writeBack])

@[simp] theorem mild_lockLines {s t : State} (h : Mild p s t) (a1 : List ℕ) : Mild p s (State.lockLines t a1) := h.trans (by simp (disch := simp) [State.lockLines])

@[simp] theorem mild_placeBytes {s t : State} (h : Mild p s t) (key : Option Nat) (a : Nat) (bs : List Byte) :
    Mild p s (t.placeBytes key a bs) := by
  have hd := mild_noteDirty h a
  have hx := mild_setBytes (mild_makeExact hd (a / 64)) (a / 64 * 64) (t.readAs key (a / 64 * 64) 64)
  have hc (c d : Bool) : Mild p s (if c then (if d then ((t.noteDirty a).makeExact (a / 64)).setBytes (a / 64 * 64)
      (t.readAs key (a / 64 * 64) 64) else t.noteDirty a).clearLine (a / 64) else if d then ((t.noteDirty a).makeExact (a / 64)).setBytes
      (a / 64 * 64) (t.readAs key (a / 64 * 64) 64) else t.noteDirty a) :=
    mild_ite (mild_clearLine (mild_ite hx hd) _) (mild_ite hx hd)
  unfold State.placeBytes
  refine mild_setBytes ?_ a bs
  exact ⟨(hc _ _).cores, (hc _ _).dies, (hc _ _).mxes, (hc _ _).crusts, (hc _ _).mem, (hc _ _).cur⟩

@[simp] theorem mild_holdL1 {s t : State} (h : Mild p s t) (a1 : ℕ) (a2 : ℕ) : Mild p s (State.holdL1 t a1 a2) := h.trans (by simp [State.holdL1])

@[simp] theorem mild_dropAway {s t : State} (h : Mild p s t) (a1 : ℕ) : Mild p s (State.dropAway t a1) := h.trans (by simp [State.dropAway])

@[simp] theorem mild_dropGuests {s t : State} (h : Mild p s t) (a1 : List ℕ) : Mild p s (State.dropGuests t a1) := h.trans (by simp [State.dropGuests])

@[simp] theorem mild_dropL1 {s t : State} (h : Mild p s t) (a1 : ℕ) (a2 : ℕ) : Mild p s (State.dropL1 t a1 a2) := h.trans (by simp [State.dropL1])

@[simp] theorem mild_dropL1Of {s t : State} (h : Mild p s t) (a1 : ℕ) (a2 : ℕ) : Mild p s (State.dropL1Of t a1 a2) := h.trans (by simp [State.dropL1Of])

@[simp] theorem mild_noteWrite {s t : State} (h : Mild p s t) (a1 : ℕ) (a2 : ℕ) : Mild p s (State.noteWrite t a1 a2) := h.trans (by simp [State.noteWrite])

@[simp] theorem mild_drainInbox {s t : State} (h : Mild p s t) (a1 : ℕ) : Mild p s (State.drainInbox t a1) := h.trans (by simp [State.drainInbox])

@[simp] theorem mild_stampAt {s t : State} (h : Mild p s t) (core : Option Nat) (d line loc : Nat) (bs : List Byte) :
    Mild p s (t.stampAt core d line loc bs) := by
  have hi := mild_dies (mild_updDie (mild_dropL1 (mild_setStamp (mild_noteWrite h loc bs.length) line (t.nextStamp d)) d line)
    (fun k => { k with dvc := t.nextStamp d }) d) (sameLength_mapIdx rfl fun i k => if i = d then k else
      { k with inbox := k.inbox ++ [{ home := d, loc := loc, bytes := bs, stamp := t.nextStamp d }] })
  unfold State.stampAt
  cases core with
  | none => exact hi
  | some c => exact mild_updCore hi (by simp) c

@[simp] theorem mild_catchUpTo {s t : State} (h : Mild p s t) (a1 : Clock) (a2 : ℕ) : Mild p s (State.catchUpTo t a1 a2) := h.trans (by simp [State.catchUpTo])

@[simp] theorem mild_catchUp {s t : State} (h : Mild p s t) (a1 : Option ℕ) (a2 : ℕ) : Mild p s (State.catchUp t a1 a2) := h.trans (by simp [State.catchUp])

@[simp] theorem mild_sendFabric {s t : State} (h : Mild p s t) (a1 : Option ℕ) (a2 : ℕ) : Mild p s (State.sendFabric t a1 a2) := by
  refine h.trans ?_
  unfold State.sendFabric
  split <;> simp

@[simp] theorem mild_ackFabric {s t : State} (h : Mild p s t) (a1 : ℕ) (a2 : ℕ → Bool) : Mild p s (State.ackFabric t a1 a2) := h.trans (by simp [State.ackFabric])

@[simp] theorem mild_softWrite {s t : State} (h : Mild p s t) (a1 : ℕ) (a2 : ℕ) : Mild p s (State.softWrite t a1 a2) := h.trans (by simp [State.softWrite])

@[simp] theorem mild_performAt {s t : State} (h : Mild p s t) (a1 : Option ℕ) (a2 : Option ℕ) (a3 : ℕ) (a4 : List Byte) : Mild p s (State.performAt t a1 a2 a3 a4) := by
  refine h.trans ?_
  unfold State.performAt
  refine mild_ite ?_ ?_
  · simp
  · split
    · simp (disch := simp)
    · simp (disch := simp)

@[simp] theorem mild_perform {s t : State} (h : Mild p s t) (a1 : Option ℕ) (a2 : Option ℕ) (a3 : ℕ) (a4 : List Byte) : Mild p s (State.perform t a1 a2 a3 a4) := by
  refine h.trans ?_
  unfold State.perform
  split <;> simp

@[simp] theorem mild_performClock {s t : State} (h : Mild p s t) (a1 : Clock) (a2 : Option ℕ) (a3 : Option ℕ) (a4 : ℕ) (a5 : List Byte) : Mild p s (State.performClock t a1 a2 a3 a4 a5) := by
  refine h.trans ?_
  unfold State.performClock
  split <;> simp

@[simp] theorem mild_ackEnded {s t : State} (h : Mild p s t) : Mild p s (State.ackEnded t) := h.trans (by simp [State.ackEnded])

@[simp] theorem mild_publish {s t : State} (h : Mild p s t) (a1 : Option ℕ) (a2 : ℕ) (a3 : List Byte) : Mild p s (State.publish t a1 a2 a3) := by
  refine h.trans ?_
  unfold State.publish
  split <;> simp

@[simp] theorem mild_performAll {s t : State} (h : Mild p s t) (a1 : Option ℕ) (a2 : Option ℕ) (a3 : ℕ) (a4 : List Byte) : Mild p s (State.performAll t a1 a2 a3 a4) := h.trans (by simp [State.performAll])

@[simp] theorem mild_applyNth {s t : State} (h : Mild p s t) (a1 : ℕ) (a2 : ℕ) : Mild p s (State.applyNth t a1 a2) := by
  refine h.trans ?_
  unfold State.applyNth
  split
  · simp
  · simp (disch := simp)

@[simp] theorem mild_installFill {s t : State} (h : Mild p s t) (a1 : ℕ) : Mild p s (State.installFill t a1) := by
  refine h.trans ?_
  unfold State.installFill
  split
  · simp
  · simp (disch := simp)

@[simp] theorem mild_joinCk {s t : State} (h : Mild p s t) (a1 : ℕ) (a2 : Clock) : Mild p s (State.joinCk t a1 a2) := h.trans (by simp [State.joinCk])

@[simp] theorem tame_lostRead (a0 : ℕ) (a1 : ℕ) (a2 : ℕ) : Tame p (lostRead a0 a1 a2) := by simp [lostRead]

@[simp] theorem tame_readHome (a0 : ℕ) (a1 : Option ℕ) (a2 : ℕ) (a3 : ℕ) (a4 : ℕ) : Tame p (readHome a0 a1 a2 a3 a4) := by
  unfold readHome
  refine tame_bind (by simp) fun _ => ?_
  refine tame_get_bind.2 fun _ => ?_
  split
  · simp
  · refine tameAt_set_bind (by simp) ?_
    simp

@[simp] theorem tame_readScalar (a0 : ℕ) (a1 : Option ℕ) (a2 : Bool) (a3 : ℕ) (a4 : ℕ) (a5 : ℕ) : Tame p (readScalar a0 a1 a2 a3 a4 a5) := by
  unfold readScalar
  refine tame_get_bind.2 fun _ => ?_
  split
  · split
    · refine tameAt_set_bind (by simp) ?_
      simp
    · simp
  · split
    · dsimp only
      refine tameAt_of_tame ?_ _
      simp
    · split
      · dsimp only
        refine tameAt_of_tame ?_ _
        simp
      · split
        · dsimp only
          refine tameAt_of_tame ?_ _
          refine tame_bind (by simp) fun _ => ?_
          simp (disch := simp)
        · dsimp only
          refine tameAt_of_tame ?_ _
          simp (disch := simp)

@[simp] theorem tame_walkLost (a0 : Ctx) (a1 : ℕ) : Tame p (walkLost a0 a1) := by
  unfold walkLost
  refine tame_bind (by simp) fun _ => ?_
  split
  · simp
  · split <;> simp

@[simp] theorem mild_holdPage {s t : State} (h : Mild p s t) (a1 : Ctx) (a2 : Acc) (a3 : ℕ) (a4 : Page) : Mild p s (State.holdPage t a1 a2 a3 a4) := h.trans (by simp [State.holdPage])

@[simp] theorem tame_translate (x : Ctx) (acc : Acc) (va : Nat) : Tame p (translate x acc va) := by
  have hd (r : Except Trap Page) : Tame p (match r with
      | .error t => raise t
      | .ok q => do
        modify fun s => s.holdPage x acc va q
        return q) := by
    cases r with
    | error t => exact tame_raise t
    | ok q => exact tame_bind (tame_modify fun s => by simp) fun _ => tame_pure q
  refine tame_bind (tame_walkLost x va) fun _ => tame_bind tame_get fun s => ?_
  generalize s.outcomes x acc va = os
  cases os with
  | nil => exact tame_raise _
  | cons o rest => exact tame_ite (hd o) (tame_bind (tame_drawChoice _) fun _ => hd _)

@[simp] theorem tame_place (a0 : Ctx) (a1 : Acc) (a2 : ℕ) : Tame p (place a0 a1 a2) := by
  unfold place
  split
  · simp
  · split
    · split
      · simp
      · split <;> simp
    · simp

@[simp] theorem mild_tlbinv {s t : State} (h : Mild p s t) (a1 : ℕ) (a2 : BitVec 16) (a3 : ℕ) : Mild p s (State.tlbinv t a1 a2 a3) := h.trans (by simp [State.tlbinv])

@[simp] theorem mild_flushSb {s t : State} (h : Mild p s t) (a1 : ℕ) : Mild p s (State.flushSb t a1) := h.trans (by simp (disch := simp) [State.flushSb])

@[simp] theorem mild_flushOver {s t : State} (h : Mild p s t) (a1 : ℕ) (a2 : ℕ) (a3 : ℕ) : Mild p s (State.flushOver t a1 a2 a3) := h.trans (by simp [State.flushOver])

@[simp] theorem mild_enterSb {s t : State} (h : Mild p s t) (a1 : ℕ) (a2 : Option TlbEntry) (a3 : Option ℕ) (a4 : ℕ) (a5 : List Byte) : Mild p s (State.enterSb t a1 a2 a3 a4 a5) := h.trans (by simp [State.enterSb])

@[simp] theorem mild_commitOne {s t : State} (h : Mild p s t) (a1 : ℕ) : Mild p s (State.commitOne t a1) := by
  refine h.trans ?_
  unfold State.commitOne
  split
  · simp
  · simp (disch := simp)

@[simp] theorem mild_commitAll {s t : State} (h : Mild p s t) (a1 : ℕ) : Mild p s (State.commitAll t a1) := h.trans (by simp [State.commitAll])

@[simp] theorem mild_performFlight {s t : State} (h : Mild p s t) (a1 : ℕ) : Mild p s (State.performFlight t a1) := by
  refine h.trans ?_
  unfold State.performFlight
  split
  · simp
  · simp (disch := simp)

@[simp] theorem mild_putLineOrError {s t : State} (h : Mild p s t) (a1 : ℕ) (a2 : Option (List Byte)) : Mild p s (State.putLineOrError t a1 a2) := by
  refine h.trans ?_
  unfold State.putLineOrError
  split <;> simp

@[simp] theorem mild_freeChunk {s t : State} (h : Mild p s t) (a1 : ℕ) (a2 : BitVec 16) (a3 : ℕ) (a4 : ℕ) : Mild p s (State.freeChunk t a1 a2 a3 a4) := h.trans (by simp [State.freeChunk])

theorem mild_takeChunk {t u : State} {d code n : Nat} {asid : BitVec 16} (h : t.takeChunk d asid code = some (n, u)) : Mild p t u := by
  unfold State.takeChunk at h
  split at h
  · simp at h
  · obtain ⟨-, rfl⟩ := by simpa using h
    simp

@[simp] theorem mild_settleStores {s t : State} (h : Mild p s t) (a1 : List ℕ) : Mild p s (State.settleStores t a1) := h.trans (by simp (disch := simp) [State.settleStores])

@[simp] theorem mild_moveStores {s t : State} (h : Mild p s t) (a1 : ℕ → ℕ) : Mild p s (State.moveStores t a1) := h.trans (by simp [State.moveStores])

@[simp] theorem mild_shootDown {s t : State} (h : Mild p s t) (a1 : Pdb) (a2 : List ℕ) : Mild p s (State.shootDown t a1 a2) := h.trans (by simp [State.shootDown])

@[simp] theorem mild_sideEvent {s t : State} (h : Mild p s t) (c : Nat) (pdb : Pdb) (js lines : List Nat) :
    Mild p s (t.sideEvent c pdb js lines) := by
  have hi := mild_stampAt (mild_catchUp (mild_shootDown h pdb js) (some c) (glazeDie pdb)) (some c) (glazeDie pdb) (pdb.addr / 64) pdb.addr []
  refine mild_foldl (f := fun s l => s.setStamp l _) ?_ (fun u l => ?_) lines
  · exact ⟨hi.cores, sameLength_map hi.dies _, hi.mxes, hi.crusts, hi.mem, hi.cur⟩
  · exact mild_setStamp (mild_refl u) l _

end Sys2Proof.Machine
end

section
/-! PROOF. The frame of the whole machine for the functions of the overlays, of versioned regions, of operands and of vector rows. -/
namespace Sys2Proof.Machine

open Sys2Proof

variable {p : Prop}

@[simp] theorem mild_layRecord {s t : State} (h : Mild p s t) (pdb : Pdb) (j : Nat) (q : Span) (slots : List (Option (List Byte))) :
    Mild p s (t.layRecord pdb j q slots) := by
  unfold State.layRecord
  dsimp only
  generalize hv : List.foldl (fun s q' => State.putLineOrError s (q.chunk + 64 * q'.2) q'.1) _ slots.zipIdx = v
  have hs : Mild p s v := hv ▸ mild_foldl (mild_setBytes (mild_noteDirty h _) ..) (by simp) _
  generalize hw : List.foldl (fun s k => State.makeVague s (q.chunk / 64 + k) s.freeCtr) v _ = w
  have hu : Mild p s w := hw ▸ mild_foldl hs (by simp) _
  exact ⟨hu.cores, hu.dies, hu.mxes, hu.crusts, hu.mem, hu.cur⟩

@[simp] theorem mild_putSpan {s t : State} (h : Mild p s t) (a1 : ℕ) (a2 : Pdb) (a3 : ℕ) (a4 : Span) (a5 : List (Option (List Byte))) : Mild p s (State.putSpan t a1 a2 a3 a4 a5) := h.trans (by simp [State.putSpan])

theorem mild_insertLine {t u : State} {x : Ctx} {pdb : Pdb} {j i va : Nat} {spec : Bool} {init : Option (List Byte)}
    (h : t.insertLine x pdb j i spec init va = .ok u) : Mild p t u := by
  have hs : Mild p t (t.settleStores (chunkLines (t.span pdb j).chunk (t.span pdb j).used)) := by simp
  unfold State.insertLine at h
  dsimp only at h
  generalize hg : (if (t.span pdb j).cls ≠ 0 ∧ (t.span pdb j).used + 1 ≤ 2 ^ (t.span pdb j).cls then _ else _ :
    Except Trap (State × Span)) = g at h
  cases g with
  | error r => cases h
  | ok g =>
    have hv : Mild p t g.1 := by
      split at hg
      · exact Except.ok.inj hg ▸ hs
      · split at hg
        · cases hg
        · split at hg
          · cases hg
          next ht => exact Except.ok.inj hg ▸ hs.trans (mild_ite (mild_takeChunk ht) (mild_freeChunk (mild_takeChunk ht) ..))
    exact Except.ok.inj h ▸ mild_putSpan (mild_moveStores hv _) ..

theorem mild_routeGlaze {t u : State} {x : Ctx} {q : Page} {pdb : Pdb} {va eva l : Nat}
    (h : t.routeGlaze x q pdb va eva = .ok (u, l)) : Mild p t u := by
  simp only [State.routeGlaze] at h
  split at h
  · simp at h
  · split at h
    · obtain ⟨rfl, -⟩ := by simpa using h
      simp
    · split at h
      · simp at h
      next hi =>
        obtain ⟨rfl, -⟩ := by simpa using h
        exact mild_insertLine hi

@[simp] theorem mild_shrunk {s t : State} (h : Mild p s t) (asid : BitVec 16) (d : Nat) (q : Span) : Mild p s (t.shrunk asid d q).2 := by
  refine h.trans ?_
  unfold State.shrunk
  split
  · simp
  · split
    · simp
    · split
      · simp
      next ht => exact mild_freeChunk (mild_takeChunk ht) ..

@[simp] theorem mild_settleSpan {s t : State} (h : Mild p s t) (x : Ctx) (pdb : Pdb) (commit : Bool) (j : Nat) :
    Mild p s (t.settleSpan x pdb commit j).1 := by
  unfold State.settleSpan
  cases commit
  · exact mild_layRecord (mild_shrunk h ..) ..
  · exact mild_layRecord h ..

@[simp] theorem tame_awaitStores (a0 : List ℕ) : Tame p (awaitStores a0) := by simp (disch := simp) [awaitStores]

@[simp] theorem mild_settlePage {s t : State} (h : Mild p s t) (x : Ctx) (pdb : Pdb) (commit : Bool) :
    Mild p s (t.settlePage x pdb commit).1 := by
  have hf (js : List Nat) (r : State × List Nat) (hr : Mild p s r.1) : Mild p s (js.foldl (fun r j =>
      let q := r.1.settleSpan x pdb commit j
      (q.1, r.2 ++ q.2)) r).1 := by
    induction js generalizing r with
    | nil => exact hr
    | cons j js ih => exact ih _ (mild_settleSpan hr x pdb commit j)
  simp only [State.settlePage]
  split
  · exact h
  · exact mild_sideEvent (hf _ _ h) ..

@[simp] theorem tame_settleNext (a0 : Ctx) (a1 : Bool) (a2 : ℕ) : Tame p (settleNext a0 a1 a2) := by
  unfold settleNext
  split
  · simp
  · split
    · simp
    · refine tame_bind (by simp) fun _ => ?_
      split
      · refine tame_get_bind.2 fun _ => ?_
        refine tameAt_of_tame ?_ _
        refine tame_bind (by simp) fun _ => ?_
        refine tame_get_bind.2 fun _ => ?_
        refine tameAt_set_bind (by simp) ?_
        simp
      · simp

@[simp] theorem tame_settlePages (a0 : Ctx) (a1 : Bool) (a2 : ℕ) (a3 : ℕ) (a4 : ℕ) (a5 : ℕ) : Tame p (settlePages a0 a1 a2 a3 a4 a5) := by
  fun_induction settlePages
  · simp
  · simp
  · refine tame_bind (by simp) fun _ => ?_
    simp [*]

@[simp] theorem tame_settle (a0 : Ctx) (a1 : Bool) (a2 : Word) (a3 : Word) : Tame p (settle a0 a1 a2 a3) := by
  unfold settle
  split
  · simp
  · refine tame_get_bind.2 fun _ => ?_
    refine tameAt_of_tame ?_ _
    simp (disch := simp)

@[simp] theorem tame_settleStep (a0 : Ctx) (a1 : Bool) (a2 : Word) (a3 : Word) : Tame p (settleStep a0 a1 a2 a3) := by
  unfold settleStep
  split
  · simp
  · refine tame_get_bind.2 fun _ => ?_
    split
    · refine tameAt_of_tame ?_ _
      simp
    · refine tameAt_of_tame ?_ _
      simp (disch := simp)

@[simp] theorem mild_flatten {s t : State} (h : Mild p s t) (x : Ctx) (q : Page) (pdb : Pdb) (frame : Nat) :
    Mild p s (t.flatten x q pdb frame) := by
  have hf (js : List Nat) (r : State × List Nat) (hr : Mild p s r.1) : Mild p s (js.foldl (fun (r : State × List Nat) j =>
      let q := r.1.span pdb j
      let t := if q.cls = 0 then r.1 else r.1.freeChunk (glazeDie pdb) x.asid q.cls q.chunk
      let q' := { q with pmask := 0, cls := 0, chunk := 0 }
      (t.layRecord pdb j q' [], r.2 ++ t.spanLines pdb j q' 0)) r).1 := by
    induction js generalizing r with
    | nil => exact hr
    | cons j js ih => exact ih _ (mild_layRecord (mild_ite hr (mild_freeChunk hr ..)) ..)
  unfold State.flatten
  refine mild_sideEvent (mild_setBytes (mild_noteDirty (hf _ _ ?_) _) ..) ..
  exact mild_foldl h (by simp) _

@[simp] theorem tame_gflatten (a0 : Ctx) (a1 : Word) (a2 : Word) : Tame p (gflatten a0 a1 a2) := by
  unfold gflatten
  refine tame_bind (by simp) fun _ => ?_
  refine tame_bind (by simp) fun _ => ?_
  split
  · simp
  · split
    · simp
    · split
      · simp
      · refine tame_get_bind.2 fun _ => ?_
        split
        · simp
        · split
          · simp
          · split
            · simp
            · refine tameAt_of_tame ?_ _
              refine tame_bind (by simp) fun _ => ?_
              simp (disch := simp)

@[simp] theorem tame_donated (a0 : Ctx) (a1 : ℕ) (a2 : ℕ) (a3 : ℕ) (a4 : Option Page) (a5 : Bool) : Tame p (donated a0 a1 a2 a3 a4 a5) := by
  fun_induction donated
  · simp
  · simp
  · refine tame_bind (by simp) fun _ => ?_
    split
    · simp [*]
    · simp [*]

@[simp] theorem tame_gpool (a0 : Ctx) (a1 : Word) (a2 : Word) : Tame p (gpool a0 a1 a2) := by
  unfold gpool
  dsimp only
  refine tame_get_bind.2 fun _ => ?_
  split
  · simp
  · split
    · refine tameAt_set_bind (by simp) ?_
      simp
    · split
      · simp
      · refine tameAt_of_tame ?_ _
        refine tame_bind (by simp) fun _ => ?_
        split
        · simp
        · split
          · simp
          · simp (disch := simp)

@[simp] theorem tame_gquery (a0 : Ctx) (a1 : Word) (a2 : Word) : Tame p (gquery a0 a1 a2) := by
  unfold gquery
  split
  · simp
  · refine tame_bind (by simp) fun _ => ?_
    split
    · simp
    · split
      · simp
      · split
        · simp
        · refine tame_get_bind.2 fun _ => ?_
          split <;> simp

@[simp] theorem mild_ownItem {s t : State} (h : Mild p s t) (a1 : ℕ) (a2 : ℕ) (a3 : ℕ) : Mild p s (State.ownItem t a1 a2 a3) := h.trans (by simp [State.ownItem])

@[simp] theorem mild_lineEvent {s t : State} (h : Mild p s t) (a1 : ℕ) (a2 : ℕ) : Mild p s (State.lineEvent t a1 a2) := by
  refine h.trans ?_
  unfold State.lineEvent
  split <;> simp

theorem mild_takeLink {t u : State} {g : Region} {n : Nat} (h : t.takeLink g = some (n, u)) : Mild p t u := by
  unfold State.takeLink at h
  split at h
  · obtain ⟨-, rfl⟩ := by simpa using h
    simp
  · split at h
    · obtain ⟨-, rfl⟩ := by simpa using h
      simp
    · simp at h

@[simp] theorem mild_insertLink {s t : State} (h : Mild p s t) (a1 : Region) (a2 : VLine) (a3 : ℕ) (a4 : ℕ) (a5 : ℕ) : Mild p s (State.insertLink t a1 a2 a3 a4 a5) := by
  refine h.trans ?_
  unfold State.insertLink
  dsimp only
  split <;> simp

@[simp] theorem mild_versionEvent {s t : State} (h : Mild p s t) (a1 : ℕ) (a2 : VLine) (a3 : ℕ) : Mild p s (State.versionEvent t a1 a2 a3) := h.trans (by simp [State.versionEvent])

theorem mild_writeVersion {t u : State} {core v va : Nat} {l : VLine} {b : List (Nat × Byte)} {whole : Bool}
    (h : t.writeVersion core l v b whole va = .ok u) : Mild p t u := by
  unfold State.writeVersion at h
  dsimp only at h
  split at h
  · simp at h
  · split at h
    · simp at h
    · split at h
      · simp at h
      · split at h
        · simp at h
        · split at h
          · simp at h
          · split at h
            · simp at h
            next hl =>
              split at h
              · simp at h
              next hc =>
                obtain rfl := by simpa using h
                exact (mild_takeLink hl).trans (mild_versionEvent (mild_ownItem (mild_ownItem (mild_ownItem (mild_setBytes
                  (mild_insertLink (mild_placeBytes (mild_takeChunk hc) ..) ..) ..) ..) ..) ..) ..)

@[simp] theorem mild_acquireVersion {s t : State} (h : Mild p s t) (a1 : ℕ) (a2 : VLine) : Mild p s (State.acquireVersion t a1 a2) := h.trans (by simp [State.acquireVersion])

@[simp] theorem mild_regionEvent {s t : State} (h : Mild p s t) (a1 : ℕ) (a2 : ℕ) : Mild p s (State.regionEvent t a1 a2) := by
  refine h.trans ?_
  unfold State.regionEvent
  dsimp only
  refine mild_foldl ?_ (fun _ _ => ?_) _
  · simp (disch := simp)
  · simp

@[simp] theorem mild_raiseRegion {s t : State} (h : Mild p s t) (a1 : ℕ) (a2 : ℕ) (a3 : Bool) (a4 : ℕ) : Mild p s (State.raiseRegion t a1 a2 a3 a4).1 := h.trans (by simp [State.raiseRegion])

@[simp] theorem mild_reclaim {s t : State} (h : Mild p s t) (l : VLine) : Mild p s (t.reclaim l) := by
  refine h.trans ?_
  unfold State.reclaim
  dsimp only
  generalize (if t.tainted l then none else (t.versions l).reverse.find? fun w =>
    w.link != 0 && !(retained (t.versions l) (t.region l.region).floorNo w.num)) = o
  cases o with
  | none => exact mild_refl t
  | some w =>
    dsimp only
    split
    · exact mild_freeChunk (by simp (disch := simp (disch := simp))) ..
    · exact mild_freeChunk (by simp (disch := simp (disch := simp))) ..

@[simp] theorem tame_readIn (a0 : Ctx) (a1 : Place) (a2 : ℕ) : Tame p (readIn a0 a1 a2) := by
  unfold readIn
  refine tame_get_bind.2 fun _ => ?_
  split <;> simp

@[simp] theorem tame_readPlace (a0 : Ctx) (a1 : ℕ) : Tame p (readPlace a0 a1) := by simp [readPlace]

@[simp] theorem tame_writeTarget (x : Ctx) (q : Place) (va eva : Nat) : Tame p (writeTarget x q va eva) := by
  unfold writeTarget
  refine tame_get_bind.2 fun s => ?_
  split
  · split <;> simp
  · split
    · simp
    · split
      · simp
      next hr => exact tameAt_set_bind (mild_routeGlaze hr) (by simp)
    · split <;> simp

@[simp] theorem tame_rowMap (a0 : Ctx) (a1 : Acc) (a2 : List ℕ) (a3 : RowMap) : Tame p (rowMap a0 a1 a2 a3) := by
  fun_induction rowMap
  · simp
  · simp [*]
  · simp [*]

@[simp] theorem tame_rowPlace (a0 : Ctx) (a1 : Acc) (a2 : RowMap) (a3 : ℕ) : Tame p (rowPlace a0 a1 a2 a3) := by
  unfold rowPlace
  split <;> simp

@[simp] theorem mild_performLine {s t : State} (h : Mild p s t) (a1 : ℕ) (a2 : LineWrite) : Mild p s (State.performLine t a1 a2) := h.trans (by simp (disch := simp) [State.performLine])

@[simp] theorem mild_performTogether {s t : State} (h : Mild p s t) (a1 : ℕ) (a2 : List (ℕ × List Byte)) : Mild p s (State.performTogether t a1 a2) := by
  refine h.trans ?_
  unfold State.performTogether
  dsimp only
  refine mild_ite ?_ ?_
  · simp (disch := simp)
  · simp

@[simp] theorem tame_performLines (a0 : ℕ) (a1 : List LineWrite) : Tame p (performLines a0 a1) := by simp (disch := simp) [performLines]

@[simp] theorem tame_vecRead (a0 : Ctx) (a1 : Place) (a2 : ℕ) (a3 : ℕ) : Tame p (vecRead a0 a1 a2 a3) := by
  unfold vecRead
  refine tame_bind (by simp) fun _ => ?_
  refine tame_bind ?_ fun _ => ?_
  · refine tame_modify fun _ => ?_
    simp (disch := simp)
  · simp

@[simp] theorem tame_oldGlaze (x : Ctx) (q : Place) (va n : Nat) : Tame p (oldGlaze x q va n) := by
  cases q with
  | pad l => exact tame_pure none
  | page q =>
    unfold oldGlaze
    dsimp only
    generalize q.pdb = o
    generalize pteGlz q.leaf.toNat = g
    cases o with
    | none => exact tame_pure none
    | some pdb =>
      cases g with
      | false => exact tame_pure none
      | true =>
        refine tame_bind tame_get fun s => ?_
        generalize s.glazeDenied x q pdb va va = d
        cases d with
        | some r => exact tame_raise r
        | none => exact tame_bind (by simp) fun _ => tame_bind tame_get fun _ => by simp

@[simp] theorem tame_atomicAt (a0 : Ctx) (a1 : Place) (a2 : ℕ) (a3 : ℕ) (a4 : ℕ → Option ℕ) : Tame p (atomicAt a0 a1 a2 a3 a4) := by
  unfold atomicAt
  refine tame_bind (by simp) fun _ => ?_
  split
  · simp
  · refine tame_bind (by simp) fun _ => ?_
    refine tame_bind (by simp) fun _ => ?_
    refine tame_bind (by simp) fun _ => ?_
    dsimp only
    split
    · simp
    · refine tame_bind ?_ fun _ => ?_
      · simp (disch := simp)
      · simp

@[simp] theorem tame_atomicUpdate (a0 : Ctx) (a1 : ℕ) (a2 : ℕ) (a3 : ℕ → Option ℕ) : Tame p (atomicUpdate a0 a1 a2 a3) := by simp [atomicUpdate]

@[simp] theorem coreOk_setRow {k l : Core} (h : CoreOk p k l) (a1 : Bool) (a2 : Reg) (a3 : ℕ) (a4 : VRow) : CoreOk p k (Core.setRow l a1 a2 a3 a4) := h.trans (by simp [Core.setRow])

@[simp] theorem coreOk_setMask {k l : Core} (h : CoreOk p k l) (a1 : MaskReg) (a2 : BitVec 65536) : CoreOk p k (Core.setMask l a1 a2) := by
  refine h.trans ?_
  unfold Core.setMask
  split <;> simp

@[simp] theorem tame_setProg (a0 : ℕ) (a1 : ℕ) (a2 : ℕ) : Tame p (setProg a0 a1 a2) := by
  unfold setProg
  refine tame_modMe fun _ => ?_
  split <;> simp

@[simp] theorem tame_illegalWhen (a0 : Bool) : Tame p (illegalWhen a0) := by simp [illegalWhen]

@[simp] theorem tame_raiseAt {α : Type} (a1 : ℕ) (a2 : ℕ) (a3 : Trap) : Tame p (raiseAt a1 a2 a3 : M α) := by simp [raiseAt]

@[simp] theorem coreOk_writeElems {k l : Core} (h : CoreOk p k l) (a1 : VEntry) (a2 : Reg) (a3 : Ty) (a4 : ElemFn) : CoreOk p k (Core.writeElems l a1 a2 a3 a4) := h.trans (by simp (disch := simp) [Core.writeElems])

@[simp] theorem coreOk_writeMaskBits {k l : Core} (h : CoreOk p k l) (a1 : VEntry) (a2 : MaskReg) (a3 : ElemFn) : CoreOk p k (Core.writeMaskBits l a1 a2 a3) := h.trans (by simp [Core.writeMaskBits])

@[simp] theorem coreOk_setXOf {k l : Core} (h : CoreOk p k l) (a1 : Bool) (a2 : Reg) (a3 : Word) : CoreOk p k (Core.setXOf l a1 a2 a3) := h.trans (by simp [Core.setXOf])

@[simp] theorem tame_entryX (a0 : VEntry) (a1 : Reg) (a2 : Word) : Tame p (entryX a0 a1 a2) := by simp [entryX]

@[simp] theorem tame_vexecInt (a0 : IntOp) (a1 : Bool) (a2 : VBinF) (a3 : VEntry) : Tame p (vexecInt a0 a1 a2 a3) := by
  unfold vexecInt
  split
  · simp
  · simp (disch := simp)

@[simp] theorem tame_vexecIcmp (a0 : CmpOp) (a1 : Bool) (a2 : VCmpF) (a3 : VEntry) : Tame p (vexecIcmp a0 a1 a2 a3) := by
  unfold vexecIcmp
  split
  · simp
  · simp (disch := simp)

@[simp] theorem tame_vexecSel (a0 : Bool) (a1 : VBinF) (a2 : VEntry) : Tame p (vexecSel a0 a1 a2) := by
  unfold vexecSel
  split
  · simp
  · simp (disch := simp)

@[simp] theorem tame_vexecIota (a0 : VIotaF) (a1 : VEntry) : Tame p (vexecIota a0 a1) := by
  unfold vexecIota
  split
  · simp
  · simp (disch := simp)

@[simp] theorem tame_vexecFp (a0 : FpOp) (a1 : Bool) (a2 : VFpF) (a3 : VEntry) : Tame p (vexecFp a0 a1 a2 a3) := by
  unfold vexecFp
  split
  · simp
  · simp (disch := simp)

@[simp] theorem tame_vexecFcmp (a0 : CmpOp) (a1 : Bool) (a2 : VFCmpF) (a3 : VEntry) : Tame p (vexecFcmp a0 a1 a2 a3) := by
  unfold vexecFcmp
  split
  · simp
  · simp (disch := simp)

@[simp] theorem tame_vexecFma (a0 : FmaOp) (a1 : VFmaF) (a2 : VEntry) : Tame p (vexecFma a0 a1 a2) := by
  unfold vexecFma
  split
  · simp
  · simp (disch := simp)

@[simp] theorem tame_vexecCvt (a0 : Bool) (a1 : VFpF) (a2 : VEntry) : Tame p (vexecCvt a0 a1 a2) := by
  unfold vexecCvt
  split
  · simp
  · dsimp only
    refine tame_get_bind.2 fun _ => ?_
    refine tameAt_of_tame ?_ _
    simp (disch := simp)

@[simp] theorem coreOk_packRow {k l : Core} (h : CoreOk p k l) (a1 : VEntry) (a2 : QpackF) (a3 : ℕ) (a4 : VRow) : CoreOk p k (packRow l a1 a2 a3 a4) := h.trans (by simp [packRow])

@[simp] theorem tame_vexecQpack (a0 : QpackF) (a1 : VEntry) : Tame p (vexecQpack a0 a1) := by
  unfold vexecQpack
  split
  · simp
  · refine tame_get_bind.2 fun _ => ?_
    refine tameAt_of_tame ?_ _
    refine tame_bind (by simp) fun _ => ?_
    simp (disch := simp)

@[simp] theorem coreOk_baccRow {k l : Core} (h : CoreOk p k l) (a1 : VEntry) (a2 : VTyF) (a3 : ℕ) (a4 : VRow) : CoreOk p k (baccRow l a1 a2 a3 a4) := h.trans (by simp (disch := simp) [baccRow])

@[simp] theorem tame_vexecBacc (a0 : VTyF) (a1 : VEntry) : Tame p (vexecBacc a0 a1) := by
  unfold vexecBacc
  split
  · simp
  · refine tame_get_bind.2 fun _ => ?_
    refine tameAt_of_tame ?_ _
    refine tame_bind (by simp) fun _ => ?_
    simp (disch := simp)

@[simp] theorem tame_vexecBnorm (a0 : BnormF) (a1 : VEntry) : Tame p (vexecBnorm a0 a1) := by
  unfold vexecBnorm
  split
  · simp
  · refine tame_get_bind.2 fun _ => ?_
    refine tameAt_of_tame ?_ _
    simp (disch := simp)

@[simp] theorem tame_vexecScale (a0 : VTyBF) (a1 : VEntry) : Tame p (vexecScale a0 a1) := by
  unfold vexecScale
  split
  · simp
  · refine tame_get_bind.2 fun _ => ?_
    refine tameAt_of_tame ?_ _
    refine tame_bind (by simp) fun _ => ?_
    dsimp only
    refine tame_modMe fun _ => ?_
    simp (disch := simp)

@[simp] theorem mild_putBarrier {s t : State} (h : Mild p s t) (a1 : ℕ) (a2 : Barrier) : Mild p s (State.putBarrier t a1 a2) := by
  refine h.trans ?_
  unfold State.putBarrier
  split <;> simp

@[simp] theorem mild_dropBarrier {s t : State} (h : Mild p s t) (a1 : ℕ) (a2 : ℕ) (a3 : Option ℕ) : Mild p s (State.dropBarrier t a1 a2 a3) := by
  refine h.trans ?_
  unfold State.dropBarrier
  split <;> simp

@[simp] theorem mild_releaseWaiter {s t : State} (h : Mild p s t) (a1 : ℕ) (a2 : ℕ) (a3 : Option Clock) : Mild p s (State.releaseWaiter t a1 a2 a3) := by
  refine h.trans ?_
  unfold State.releaseWaiter
  refine mild_updCore (by simp) (fun _ => ?_) _
  split
  · simp
  · split
    · simp
    · split
      · split
        · simp
        · simp (disch := simp)
      · split
        · simp
        · simp (disch := simp)

@[simp] theorem mild_arrive {s t : State} (h : Mild p s t) (a1 : ℕ) (a2 : Option Barrier) : Mild p s (State.arrive t a1 a2).1 := by
  refine h.trans ?_
  unfold State.arrive
  split
  · simp
  · split
    · simp
    · split
      · simp (disch := simp)
      · simp

@[simp] theorem mild_kill {s t : State} (h : Mild p s t) (a1 : ℕ) (a2 : Barrier) : Mild p s (State.kill t a1 a2).1 := h.trans (by simp (disch := simp) [State.kill])

@[simp] theorem mild_barInit {s t : State} (h : Mild p s t) (a1 : ℕ) (a2 : ℕ) (a3 : Option ℕ) (a4 : Bool) (a5 : ℕ) (a6 : ℕ) : Mild p s (State.barInit t a1 a2 a3 a4 a5 a6).1 := by
  refine h.trans ?_
  unfold State.barInit
  split
  · split
    · dsimp only
      split
      · split <;> simp
      · simp
    · split
      · dsimp only
        split
        · split <;> simp
        · split <;> simp
      · dsimp only
        split
        · split <;> simp
        · split <;> simp
  · simp

@[simp] theorem mild_leaveBarriers {s t : State} (h : Mild p s t) (a1 : ℕ) : Mild p s (State.leaveBarriers t a1) := h.trans (by simp [State.leaveBarriers])

@[simp] theorem mild_joinBarrier {s t : State} (h : Mild p s t) (a1 : Barrier) (a2 : ℕ) : Mild p s (State.joinBarrier t a1 a2) := by
  refine h.trans ?_
  unfold State.joinBarrier
  split <;> simp

@[simp] theorem coreOk_applyPost {k l : Core} (h : CoreOk p k l) (a1 : ℕ) (a2 : Word) (a3 : Clock) : CoreOk p k (Core.applyPost l a1 a2 a3) := h.trans (by simp [Core.applyPost])

@[simp] theorem mild_sendPost {s t : State} (h : Mild p s t) (a1 : ℕ) (a2 : ℕ) (a3 : Word) : Mild p s (State.sendPost t a1 a2 a3) := by
  refine h.trans ?_
  unfold State.sendPost
  dsimp only
  refine mild_ite ?_ ?_
  · simp
  · simp (disch := simp)

@[simp] theorem mild_arrivePost {s t : State} (h : Mild p s t) (a1 : ℕ) (a2 : ℕ) : Mild p s (State.arrivePost t a1 a2).1 := by
  refine h.trans ?_
  unfold State.arrivePost
  split
  · simp
  · split
    · simp
    · dsimp only
      split <;> simp

@[simp] theorem mild_bindChannel {s t : State} (h : Mild p s t) (a1 : ℕ) (a2 : ℕ) (a3 : Word) : Mild p s (State.bindChannel t a1 a2 a3) := h.trans (by simp [State.bindChannel])

@[simp] theorem coreOk_endWaiti {k l : Core} (h : CoreOk p k l) (a1 : ℕ) : CoreOk p k (Core.endWaiti l a1) := by
  refine h.trans ?_
  unfold Core.endWaiti
  split
  · simp
  · split
    · split
      · simp
      · simp (disch := simp)
    · simp

@[simp] theorem mild_freeChannel {s t : State} (h : Mild p s t) (a1 : ℕ) (a2 : ℕ) : Mild p s (State.freeChannel t a1 a2) := h.trans (by simp (disch := simp) [State.freeChannel])

@[simp] theorem mild_unlockItem {s t : State} (h : Mild p s t) (a1 : ItemOp) : Mild p s (State.unlockItem t a1) := h.trans (by simp (disch := simp) [State.unlockItem])

@[simp] theorem mild_performItem {s t : State} (h : Mild p s t) (a1 : Item) : Mild p s (State.performItem t a1) := by
  refine h.trans ?_
  unfold State.performItem
  refine mild_ite ?_ ?_
  · simp
  · dsimp only
    refine mild_unlockItem ?_ ..
    simp (disch := simp)

@[simp] theorem mild_crustStepOf {s t : State} (h : Mild p s t) (a1 : ℕ) (a2 : ℕ) : Mild p s (State.crustStepOf t a1 a2) := by
  refine h.trans ?_
  unfold State.crustStepOf
  split
  · simp
  · dsimp only
    refine mild_ite ?_ ?_
    · simp (disch := simp)
    · simp

@[simp] theorem mild_crustStep {s t : State} (h : Mild p s t) (a1 : ℕ) : Mild p s (State.crustStep t a1) := by
  refine h.trans ?_
  unfold State.crustStep
  split <;> simp

@[simp] theorem mild_crustDrain {s t : State} (h : Mild p s t) (a1 : ℕ) (a2 : Item → Bool) : Mild p s (State.crustDrain t a1 a2) := h.trans (by simp (disch := simp) [State.crustDrain])

@[simp] theorem mild_sendItem {s t : State} (h : Mild p s t) (a1 : ℕ) (a2 : Item) : Mild p s (State.sendItem t a1 a2) := h.trans (by simp [State.sendItem])

@[simp] theorem mild_crustAll {s t : State} (h : Mild p s t) (a1 : ℕ) : Mild p s (State.crustAll t a1) := h.trans (by simp [State.crustAll])

@[simp] theorem mild_crustAcq {s t : State} (h : Mild p s t) (a1 : ℕ) : Mild p s (State.crustAcq t a1) := h.trans (by simp [State.crustAcq])

@[simp] theorem mild_crustRel {s t : State} (h : Mild p s t) (a1 : ℕ) : Mild p s (State.crustRel t a1) := h.trans (by simp [State.crustRel])

@[simp] theorem tame_atPoint {α : Type} {m : M α} (h : Tame p m) (row col : Nat) : Tame p (atPoint row col m) :=
  tame_tryCatch h fun _ => by simp

@[simp] theorem tame_loadElem (a0 : Ctx) (a1 : Bool) (a2 : Reg) (a3 : Ty) (a4 : ℕ) (a5 : ℕ) (a6 : ℕ) (a7 : Place) : Tame p (loadElem a0 a1 a2 a3 a4 a5 a6 a7) := by simp (disch := simp) [loadElem]

@[simp] theorem tame_loadElems (a0 : Ctx) (a1 : RowMap) (a2 : Bool) (a3 : Reg) (a4 : Ty) (a5 : ℕ) (a6 : List (ℕ × ℕ)) : Tame p (loadElems a0 a1 a2 a3 a4 a5 a6) := by
  fun_induction loadElems
  · simp
  · refine tame_bind (by simp) fun _ => ?_
    simp [*]

@[simp] theorem tame_writeBits (a0 : ℕ) (a1 : Target) (a2 : ℕ) (a3 : List (ℕ × ℕ)) : Tame p (writeBits a0 a1 a2 a3) := by simp (disch := simp) [writeBits]

@[simp] theorem tame_readSs (a0 : Ctx) (a1 : Page) (a2 : Pdb) (a3 : ℕ) (a4 : ℕ) (a5 : ℕ) : Tame p (readSs a0 a1 a2 a3 a4 a5) := by
  unfold readSs
  split
  · simp
  · simp (disch := simp)

@[simp] theorem tame_readDescIn (a0 : Ctx) (a1 : Option Ty) (a2 : Place) (a3 : ℕ) : Tame p (readDescIn a0 a1 a2 a3) := by
  unfold readDescIn
  split
  · split
    · split
      · dsimp only
        refine tame_bind (by simp) fun _ => ?_
        refine tame_get_bind.2 fun _ => ?_
        refine tameAt_of_tame ?_ _
        refine tame_bind (by simp) fun _ => ?_
        split
        · simp
        · simp (disch := simp)
      · dsimp only
        refine tame_bind (by simp) fun _ => ?_
        refine tame_get_bind.2 fun _ => ?_
        refine tameAt_of_tame ?_ _
        simp (disch := simp)
    · simp
    · simp
  · split
    · split
      · dsimp only
        refine tame_bind (by simp) fun _ => ?_
        refine tame_get_bind.2 fun _ => ?_
        refine tameAt_of_tame ?_ _
        refine tame_bind (by simp) fun _ => ?_
        split
        · simp
        · simp (disch := simp)
      · dsimp only
        refine tame_bind (by simp) fun _ => ?_
        refine tame_get_bind.2 fun _ => ?_
        refine tameAt_of_tame ?_ _
        simp (disch := simp)
    · simp
    · simp

@[simp] theorem tame_readDescLine (a0 : Ctx) (a1 : Option Ty) (a2 : RowMap) (a3 : ℕ) : Tame p (readDescLine a0 a1 a2 a3) := by simp [readDescLine]

@[simp] theorem tame_checkRow (a0 : Ctx) (a1 : Option Ty) (a2 : RowMap) (a3 : ℕ) (a4 : List (ℕ × DescLine)) (a5 : Bool) : Tame p (checkRow a0 a1 a2 a3 a4 a5) := by
  unfold checkRow
  split
  · split
    · split
      · dsimp only
        refine tame_bind (by simp) fun _ => ?_
        split <;> simp
      · dsimp only
        refine tame_get_bind.2 fun _ => ?_
        split <;> simp
    · simp
  · split
    · split
      · split
        · dsimp only
          refine tame_bind (by simp) fun _ => ?_
          split <;> simp
        · dsimp only
          refine tame_get_bind.2 fun _ => ?_
          split
          · refine tameAt_of_tame ?_ _
            simp
          · simp
      · simp
    · split
      · split
        · dsimp only
          refine tame_bind (by simp) fun _ => ?_
          split <;> simp
        · dsimp only
          refine tame_get_bind.2 fun _ => ?_
          split <;> simp
      · simp

@[simp] theorem tame_readLines (a0 : Ctx) (a1 : RowMap) (a2 : VEntry) (a3 : Reg) (a4 : Option Ty) (a5 : Ty) (a6 : ℕ) (a7 : List ℕ) (a8 : ℕ → ℕ) (a9 : List ℕ) (a10 : List (ℕ × DescLine)) : Tame p (readLines a0 a1 a2 a3 a4 a5 a6 a7 a8 a9 a10) := by
  fun_induction readLines
  · simp
  · simp [*]
  · refine tame_bind ?_ fun _ => ?_
    · refine tame_tryCatch ?_ fun _ => ?_
      · simp
      · split <;> simp
    · simp [*]
  · refine tame_bind ?_ fun _ => ?_
    · refine tame_tryCatch ?_ fun _ => ?_
      · simp
      · split
        · split
          · simp
          · dsimp only
            refine tame_bind ?_ fun _ => ?_
            · simp (disch := simp)
            · simp
        · simp
    · simp [*]

@[simp] theorem tame_blockDesc (a0 : List (ℕ × DescLine)) (a1 : List ℕ) (a2 : Ty) (a3 : ℕ → ℕ) (a4 : ℕ) : Tame p (blockDesc a0 a1 a2 a3 a4) := by
  unfold blockDesc
  dsimp only
  split <;> simp

end Sys2Proof.Machine
end

section
/-! PROOF. The frame of the whole machine for the effects of vector memory, KV, window, copy, crust and matrix instructions. -/
namespace Sys2Proof.Machine

open Sys2Proof

variable {p : Prop}

@[simp] theorem tame_putDescRow (a0 : VEntry) (a1 : Reg) (a2 : Ty) (a3 : ℕ) (a4 : List ℕ) (a5 : List ℕ) (a6 : ℕ → ℕ) (a7 : List (ℕ × DescLine)) (a8 : Bool) : Tame p (putDescRow a0 a1 a2 a3 a4 a5 a6 a7 a8) := by
  unfold putDescRow
  refine tame_bind (by simp) fun _ => ?_
  simp (disch := simp)

@[simp] theorem tame_loadDescRow (a0 : Ctx) (a1 : RowMap) (a2 : VEntry) (a3 : VAddr) (a4 : Reg) (a5 : Ty) (a6 : ℕ) (a7 : ℕ) (a8 : List ℕ) (a9 : ℕ → ℕ) (a10 : Bool) : Tame p (loadDescRow a0 a1 a2 a3 a4 a5 a6 a7 a8 a9 a10) := by
  unfold loadDescRow
  split
  · simp
  · simp (disch := simp)

@[simp] theorem tame_firstTyped (a0 : Ctx) (a1 : RowMap) (a2 : ℕ) (a3 : List ℕ) : Tame p (firstTyped a0 a1 a2 a3) := by
  fun_induction firstTyped
  · simp
  · refine tame_bind (by simp) fun _ => ?_
    split
    · simp
    · simp [*]

@[simp] theorem tame_loadAsDescribed (a0 : Ctx) (a1 : VEntry) (a2 : Reg) (a3 : ℕ) (a4 : ℕ) (a5 : List ℕ) : Tame p (loadAsDescribed a0 a1 a2 a3 a4 a5) := by
  unfold loadAsDescribed
  split
  · simp
  · dsimp only
    refine tame_bind (by simp) fun _ => ?_
    refine tame_bind (by simp) fun _ => ?_
    split
    · simp
    · refine tame_bind (by simp) fun _ => ?_
      split <;> simp

@[simp] theorem tame_gatherElems (a0 : Ctx) (a1 : VEntry) (a2 : VAddr) (a3 : Reg) (a4 : VMemBF) (a5 : ℕ) (a6 : List ℕ) : Tame p (gatherElems a0 a1 a2 a3 a4 a5 a6) := by
  fun_induction gatherElems
  · simp
  · refine tame_get_bind.2 fun _ => ?_
    refine tameAt_of_tame ?_ _
    refine tame_bind ?_ fun _ => ?_
    · simp (disch := simp)
    · simp [*]

@[simp] theorem tame_tagRow (a0 : VEntry) (a1 : VMemBF) (a2 : ℕ) : Tame p (tagRow a0 a1 a2) := by simp [tagRow]

@[simp] theorem tame_loadTyped (a0 : Ctx) (a1 : VEntry) (a2 : VAddr) (a3 : VMemBF) (a4 : ℕ) (a5 : ℕ) (a6 : List ℕ) (a7 : ℕ → ℕ) : Tame p (loadTyped a0 a1 a2 a3 a4 a5 a6 a7) := by
  unfold loadTyped
  split
  · dsimp only
    refine tame_bind (by simp) fun _ => ?_
    split
    · refine tame_bind (by simp) fun _ => ?_
      split <;> simp
    · refine tame_bind (by simp) fun _ => ?_
      refine tame_bind ?_ fun _ => ?_
      · split <;> simp
      · simp
  · dsimp only
    refine tame_bind (by simp) fun _ => ?_
    split
    · simp
    · refine tame_bind (by simp) fun _ => ?_
      refine tame_bind ?_ fun _ => ?_
      · split <;> simp
      · simp

@[simp] theorem tame_loadRow (a0 : Ctx) (a1 : VEntry) (a2 : VAddr) (a3 : Reg) (a4 : VMemBF) (a5 : ℕ) : Tame p (loadRow a0 a1 a2 a3 a4 a5) := by
  unfold loadRow
  refine tame_bind (by simp) fun _ => ?_
  simp (disch := simp)

@[simp] theorem tame_checkLane (a0 : VEntry) (a1 : ℕ) (a2 : ℕ) : Tame p (checkLane a0 a1 a2) := by simp (disch := simp) [checkLane]

@[simp] theorem coreOk_setSliceElem {k l : Core} (h : CoreOk p k l) (a1 : ℕ) (a2 : Ty) (a3 : ℕ) (a4 : ℕ) (a5 : ℕ) : CoreOk p k (setSliceElem l a1 a2 a3 a4 a5) := h.trans (by simp [setSliceElem])

@[simp] theorem tame_loadLane (a0 : VEntry) (a1 : VMemBF) : Tame p (loadLane a0 a1) := by
  unfold loadLane
  refine tame_get_bind.2 fun _ => ?_
  refine tameAt_of_tame ?_ _
  simp (disch := simp)

@[simp] theorem tame_loadFirstFault (x : Ctx) (e : VEntry) (ci : Reg) (f : VMemBF) (rs : List Nat) (seen : Bool) :
    Tame p (loadFirstFault x e ci f rs seen) := by
  induction rs generalizing seen with
  | nil => exact tame_pure e.nr
  | cons r rest ih =>
    unfold loadFirstFault
    refine tame_getMe_bind.2 fun s => ?_
    refine tameAt_ite (ih _ s) (tameAt_ite (tame_bind (by simp) (fun _ => ih _) s) (tameAt_bind (tameAt_tryCatch ?_ fun h t ht => ?_) ?_))
    · exact tame_bind (by simp) (fun _ => tame_pure true) s
    · cases h with
      | wait => exact ht
      | trap r =>
        have hc : CoreOk p s.me t.me := ht.me
        have hr := mild_updMe_of ht (f := fun k => { k with vregs := s.me.vregs, dirty := s.me.dirty, vrows := s.me.vrows })
          ⟨hc.ia, hc.line, rowsOk_refl _, hc.slices⟩
        exact hr.trans (tame_bind (tame_setProg _ _ _) (fun _ => tame_pure false) _)
    · intro ok t ht
      cases ok
      · exact ht
      · exact ht.trans (ih true t)

@[simp] theorem tame_vexecLoad (a0 : VAddr) (a1 : Reg) (a2 : VMemBF) (a3 : VEntry) : Tame p (vexecLoad a0 a1 a2 a3) := by
  unfold vexecLoad
  refine tame_get_bind.2 fun _ => ?_
  refine tameAt_of_tame ?_ _
  refine tame_bind (by simp) fun _ => ?_
  split
  · simp
  · refine tame_bind (by simp) fun _ => ?_
    split
    · simp
    · simp
    · refine tame_forM (fun _ => ?_) _
      simp

@[simp] theorem tame_checkTags (a0 : RowMap) (a1 : VMemBF) (a2 : VRow) (a3 : ℕ) (a4 : ℕ) (a5 : List (List (ℕ × ℕ))) : Tame p (checkTags a0 a1 a2 a3 a4 a5) := by
  fun_induction checkTags
  · simp
  · simp [*]
  · simp
  · simp [*]
  · simp [*]
  · simp

@[simp] theorem tame_routeElems (a0 : Ctx) (a1 : ℕ → M Place) (h1 : ∀ x, Tame p (a1 x)) (a2 : List (ℕ × ℕ)) : Tame p (routeElems a0 a1 a2) := by
  fun_induction routeElems
  · simp
  · refine tame_bind ?_ fun _ => ?_
    · refine tame_tryTrap ?_
      simp [*]
    · split
      · simp
      · simp [*]

@[simp] theorem tame_byTarget (a0 : Ctx) (a1 : List StoreElem) (a2 : List (Target × List StoreElem)) : Tame p (byTarget a0 a1 a2) := by
  fun_induction byTarget
  · simp
  · simp [*]

@[simp] theorem tame_storeLine (x : Ctx) (f : VMemBF) (w : VRow) (tagged : Bool) (g : Target × List StoreElem) :
    Tame p (storeLine x f w tagged g) := by
  have hw (es : List (Nat × Nat)) : Tame p (writeBits x.core g.1 f.ty.width es) := tame_writeBits _ _ _ es
  unfold storeLine
  split
  · refine tame_get_bind.2 fun s => ?_
    split
    · exact tameAt_set (mild_deferFail (mild_refl s) _)
    · exact tame_bind (hw _) (fun _ => tame_modify fun u => mild_perform (mild_refl u) ..) s
  · exact hw _

@[simp] theorem tame_storeElems (a0 : Ctx) (a1 : VMemBF) (a2 : VRow) (a3 : ℕ) (a4 : Bool) (a5 : ℕ → M Place) (h5 : ∀ x, Tame p (a5 x)) (a6 : List (ℕ × ℕ)) : Tame p (storeElems a0 a1 a2 a3 a4 a5 a6) := by
  unfold storeElems
  refine tame_bind ?_ fun _ => ?_
  · simp [*]
  · split
    refine tame_bind (by simp) fun _ => ?_
    refine tame_bind ?_ fun _ => ?_
    · refine tame_forM (fun _ => ?_) _
      simp
    · split <;> simp

@[simp] theorem tame_storeTyped (a0 : Ctx) (a1 : VMemBF) (a2 : VRow) (a3 : ℕ) (a4 : ℕ) (a5 : List (ℕ × ℕ)) : Tame p (storeTyped a0 a1 a2 a3 a4 a5) := by
  unfold storeTyped
  refine tame_bind (by simp) fun _ => ?_
  dsimp only
  split
  · simp
  · simp (disch := simp)

@[simp] theorem tame_storeRow (a0 : Ctx) (a1 : VEntry) (a2 : VAddr) (a3 : Reg) (a4 : VMemBF) (a5 : ℕ) : Tame p (storeRow a0 a1 a2 a3 a4 a5) := by
  unfold storeRow
  refine tame_get_bind.2 fun _ => ?_
  split
  · simp
  · split
    · dsimp only
      refine tameAt_of_tame ?_ _
      refine tame_bind (by simp) fun _ => ?_
      split <;> simp
    · dsimp only
      refine tameAt_of_tame ?_ _
      refine tame_bind (by simp) fun _ => ?_
      split <;> simp

@[simp] theorem tame_storeLane (a0 : VEntry) (a1 : VMemBF) : Tame p (storeLane a0 a1) := by
  unfold storeLane
  refine tame_get_bind.2 fun _ => ?_
  refine tameAt_of_tame ?_ _
  refine tame_bind (by simp) fun _ => ?_
  refine tame_modMe fun _ => ?_
  simp (disch := simp)

@[simp] theorem tame_vexecStore (a0 : VAddr) (a1 : Reg) (a2 : VMemBF) (a3 : VEntry) : Tame p (vexecStore a0 a1 a2 a3) := by
  unfold vexecStore
  refine tame_get_bind.2 fun _ => ?_
  refine tameAt_of_tame ?_ _
  refine tame_get_bind.2 fun _ => ?_
  split
  · simp
  · refine tameAt_of_tame ?_ _
    refine tame_bind (by simp) fun _ => ?_
    split
    · simp
    · refine tame_forM (fun _ => ?_) _
      simp

@[simp] theorem tame_vexecVamo (a0 : VAmoOp) (a1 : VMemF) (a2 : VEntry) : Tame p (vexecVamo a0 a1 a2) := by
  unfold vexecVamo
  refine tame_get_bind.2 fun _ => ?_
  split
  · simp
  · refine tameAt_of_tame ?_ _
    refine tame_bind (by simp) fun _ => ?_
    dsimp only
    refine tame_forM (fun _ => ?_) _
    refine tame_get_bind.2 fun _ => ?_
    refine tameAt_of_tame ?_ _
    refine tame_bind (by simp) fun _ => ?_
    refine tame_forM (fun _ => ?_) _
    refine tame_atPoint ?_ _ _
    split
    · simp
    · refine tame_get_bind.2 fun _ => ?_
      refine tameAt_of_tame ?_ _
      simp (disch := simp)

@[simp] theorem tame_kvWords (a0 : KvCtx) (a1 : ℕ) (a2 : ℕ) (a3 : List KvItem) : Tame p (kvWords a0 a1 a2 a3) := by
  unfold kvWords
  refine tame_get_bind.2 fun _ => ?_
  split
  · simp
  · split
    · simp
    · dsimp only
      split
      · simp
      · refine tameAt_of_tame ?_ _
        simp

@[simp] theorem tame_kvHold (a0 : KvCtx) (a1 : List KvItem) : Tame p (kvHold a0 a1) := by simp [kvHold]

@[simp] theorem tame_kvRecord (a0 : KvCtx) : Tame p (kvRecord a0) := by
  unfold kvRecord
  dsimp only
  split
  · simp
  · refine tame_get_bind.2 fun _ => ?_
    split
    · simp
    · refine tameAt_of_tame ?_ _
      refine tame_bind (by simp) fun _ => ?_
      split
      · simp
      · split
        · simp
        · refine tame_bind (by simp) fun _ => ?_
          split
          · simp
          · split
            · simp
            · simp (disch := simp)

@[simp] theorem tame_kvLayerRec (a0 : KvCtx) : Tame p (kvLayerRec a0) := by
  unfold kvLayerRec
  refine tame_bind (by simp) fun _ => ?_
  split
  split
  · simp
  · refine tame_bind (by simp) fun _ => ?_
    split
    dsimp only
    split
    · simp
    · split
      · simp
      · refine tame_bind (by simp) fun _ => ?_
        split <;> simp

@[simp] theorem tame_kvWalk (a0 : KvCtx) (a1 : Bool) : Tame p (kvWalk a0 a1) := by
  unfold kvWalk
  refine tame_bind (by simp) fun _ => ?_
  split
  split
  · simp
  · refine tame_bind (by simp) fun _ => ?_
    split
    split
    · simp
    · dsimp only
      split
      · simp
      · refine tame_get_bind.2 fun _ => ?_
        split
        · simp
        · refine tameAt_of_tame ?_ _
          refine tame_bind (by simp) fun _ => ?_
          split
          · simp
          · refine tame_get_bind.2 fun _ => ?_
            split
            · simp
            · split
              · simp
              · refine tameAt_set_bind (by simp) ?_
                simp

@[simp] theorem tame_kvRow (a0 : VEntry) (a1 : ℕ) (a2 : ℕ) : Tame p (kvRow a0 a1 a2) := by simp [kvRow]

@[simp] theorem tame_kvReadOf (core pa n : Nat) (need : Nat → Bool) : Tame p (kvReadOf core pa n need) := by
  unfold kvReadOf
  refine tame_bind tame_get fun s => ?_
  dsimp only
  split
  · simp
  · exact tame_bind (tame_modify fun u => mild_foldl (mild_refl u) (by simp) _) fun _ => by simp

@[simp] theorem tame_kvRead (a0 : ℕ) (a1 : ℕ) (a2 : ℕ) : Tame p (kvRead a0 a1 a2) := by simp [kvRead]

@[simp] theorem tame_kvLen (a0 : ℕ) : Tame p (kvLen a0) := by simp [kvLen]

@[simp] theorem tame_kvLoadRow (a0 : Bool) (a1 : VMemLF) (a2 : VEntry) (a3 : ℕ) : Tame p (kvLoadRow a0 a1 a2 a3) := by
  unfold kvLoadRow
  refine tame_get_bind.2 fun _ => ?_
  refine tameAt_of_tame ?_ _
  refine tame_get_bind.2 fun _ => ?_
  split
  · simp
  · refine tameAt_of_tame ?_ _
    refine tame_bind (by simp) fun _ => ?_
    refine tame_bind (by simp) fun _ => ?_
    split
    split
    · simp
    · split
      · simp
      · simp (disch := simp)

@[simp] theorem tame_vexecKvld (a0 : Bool) (a1 : VMemLF) (a2 : VEntry) : Tame p (vexecKvld a0 a1 a2) := by
  unfold vexecKvld
  refine tame_get_bind.2 fun _ => ?_
  split
  · simp
  · refine tameAt_of_tame ?_ _
    refine tame_bind (by simp) fun _ => ?_
    refine tame_forM (fun _ => ?_) _
    simp

@[simp] theorem tame_kvAppendRow (a0 : KvappF) (a1 : VEntry) (a2 : Option ℕ) (a3 : ℕ) : Tame p (kvAppendRow a0 a1 a2 a3) := by
  unfold kvAppendRow
  refine tame_get_bind.2 fun _ => ?_
  refine tameAt_of_tame ?_ _
  refine tame_get_bind.2 fun _ => ?_
  refine tameAt_of_tame ?_ _
  refine tame_bind (by simp) fun _ => ?_
  refine tame_bind (by simp) fun _ => ?_
  split
  split
  · split <;> simp
  · split
    · split <;> simp
    · split
      · split
        · dsimp only
          refine tame_get_bind.2 fun _ => ?_
          split
          · simp
          · refine tameAt_of_tame ?_ _
            simp (disch := simp)
        · dsimp only
          refine tame_bind (by simp) fun _ => ?_
          split
          · simp
          · simp (disch := simp)
      · split
        · dsimp only
          refine tame_get_bind.2 fun _ => ?_
          split
          · simp
          · refine tameAt_of_tame ?_ _
            refine tame_bind (by simp) fun _ => ?_
            simp (disch := simp)
        · dsimp only
          refine tame_bind (by simp) fun _ => ?_
          split
          · simp
          · refine tame_bind (by simp) fun _ => ?_
            simp (disch := simp)

@[simp] theorem tame_kvAppendRows (a0 : KvappF) (a1 : VEntry) (a2 : List ℕ) (a3 : Option ℕ) : Tame p (kvAppendRows a0 a1 a2 a3) := by
  fun_induction kvAppendRows
  · simp
  · simp [*]

@[simp] theorem tame_vexecKvapp (a0 : KvappF) (a1 : VEntry) : Tame p (vexecKvapp a0 a1) := by simp (disch := simp) [vexecKvapp]

@[simp] theorem tame_kvMoveOne (a0 : VEntry) (a1 : ℕ) (a2 : ℕ) : Tame p (kvMoveOne a0 a1 a2) := by
  unfold kvMoveOne
  refine tame_get_bind.2 fun _ => ?_
  refine tameAt_of_tame ?_ _
  refine tame_bind (by simp) fun _ => ?_
  split
  refine tame_bind (by simp) fun _ => ?_
  split
  dsimp only
  refine tame_bind (by simp) fun _ => ?_
  simp (disch := simp)

@[simp] theorem tame_vexecKvmove (a0 : KvmoveF) (a1 : VEntry) : Tame p (vexecKvmove a0 a1) := by
  unfold vexecKvmove
  refine tame_get_bind.2 fun _ => ?_
  refine tameAt_of_tame ?_ _
  refine tame_get_bind.2 fun _ => ?_
  split
  · simp
  · refine tameAt_of_tame ?_ _
    refine tame_bind (by simp) fun _ => ?_
    split
    · dsimp only
      refine tame_bind (by simp) fun _ => ?_
      refine tame_bind (by simp) fun _ => ?_
      refine tame_bind (by simp) fun _ => ?_
      split <;> simp
    · dsimp only
      refine tame_bind (by simp) fun _ => ?_
      refine tame_bind (by simp) fun _ => ?_
      refine tame_bind (by simp) fun _ => ?_
      split
      · simp
      · refine tame_forM (fun _ => ?_) _
        simp

@[simp] theorem coreOk_zeroCopies {k l : Core} (h : CoreOk p k l) (a1 : ℕ) (a2 : ℕ) (a3 : ℕ) : CoreOk p k (Core.zeroCopies l a1 a2 a3) := by
  refine h.trans ?_
  unfold Core.zeroCopies
  split <;> simp

@[simp] theorem tame_vexecAwin (a0 : WinF) (a1 : VEntry) : Tame p (vexecAwin a0 a1) := by
  unfold vexecAwin
  refine tame_get_bind.2 fun _ => ?_
  refine tameAt_of_tame ?_ _
  refine tame_bind (by simp) fun _ => ?_
  split
  · simp
  · dsimp only
    refine tame_bind (by simp) fun _ => ?_
    refine tame_bind (by simp) fun _ => ?_
    refine tame_bind ?_ fun _ => ?_
    · refine tame_forM (fun _ => ?_) _
      simp
    · simp (disch := simp)

@[simp] theorem tame_vexecAadd (a0 : VMemLF) (a1 : VEntry) : Tame p (vexecAadd a0 a1) := by
  unfold vexecAadd
  split
  · simp
  · refine tame_get_bind.2 fun _ => ?_
    refine tameAt_of_tame ?_ _
    refine tame_bind (by simp) fun _ => ?_
    refine tame_forM (fun _ => ?_) _
    refine tame_forM (fun _ => ?_) _
    simp (disch := simp)

@[simp] theorem tame_mergeLine (a0 : Ctx) (a1 : ℕ) : Tame p (mergeLine a0 a1) := by
  unfold mergeLine
  refine tame_get_bind.2 fun _ => ?_
  refine tameAt_of_tame ?_ _
  refine tame_bind (by simp) fun _ => ?_
  refine tame_bind (by simp) fun _ => ?_
  refine tame_bind (by simp) fun _ => ?_
  refine tame_bind (by simp) fun _ => ?_
  simp (disch := simp)

@[simp] theorem tame_vexecAmerge (a0 : VEntry) : Tame p (vexecAmerge a0) := by
  unfold vexecAmerge
  refine tame_get_bind.2 fun _ => ?_
  refine tameAt_of_tame ?_ _
  refine tame_bind (by simp) fun _ => ?_
  split
  · simp
  · refine tame_forM (fun _ => ?_) _
    simp

@[simp] theorem tame_vexecAclr (a0 : VEntry) : Tame p (vexecAclr a0) := by
  unfold vexecAclr
  refine tame_modMe fun _ => ?_
  simp (disch := simp)

end Sys2Proof.Machine
end

section
/-! PROOF. The frame of the whole machine for copies, releases, crust commands and the other effects of the vector unit. -/
namespace Sys2Proof.Machine

open Sys2Proof

variable {p : Prop}

@[simp] theorem tame_findParts (a0 : ℕ → M Place) (h0 : ∀ x, Tame p (a0 x)) (a1 : List (ℕ × List Byte)) : Tame p (findParts a0 a1) := by
  fun_induction findParts
  · simp
  · simp [*]

@[simp] theorem tame_partsOf (a0 : Ctx) (a1 : Acc) (a2 : ℕ) (a3 : ℕ) : Tame p (partsOf a0 a1 a2 a3) := by simp [partsOf]

@[simp] theorem tame_targetParts (a0 : Ctx) (a1 : Option ℕ) (a2 : ℕ) (a3 : ℤ) (a4 : ℕ) : Tame p (targetParts a0 a1 a2 a3 a4) := by
  unfold targetParts
  split <;> simp

@[simp] theorem tame_readParts (a0 : Ctx) (a1 : List Part) : Tame p (readParts a0 a1) := by
  fun_induction readParts
  · simp
  · simp [*]

@[simp] theorem tame_checkParts (a0 : Ctx) (a1 : ℕ) (a2 : ℕ → DescSrc) (a3 : List Part) (a4 : ℕ) : Tame p (checkParts a0 a1 a2 a3 a4) := by
  fun_induction checkParts
  · simp
  · simp [*]

@[simp] theorem tame_rowParts (a0 : Ctx) (a1 : ℕ) (a2 : ℕ) (a3 : List Byte) (a4 : ℕ → DescSrc) (a5 : List Part) (a6 : ℕ) : Tame p (rowParts a0 a1 a2 a3 a4 a5 a6) := by
  fun_induction rowParts
  · simp
  · refine tame_bind (by simp) fun _ => ?_
    split
    · dsimp only
      refine tame_get_bind.2 fun _ => ?_
      refine tameAt_of_tame ?_ _
      refine tame_bind (by simp) fun _ => ?_
      simp [*]
    · simp [*]

@[simp] theorem mild_countBytes {s t : State} (h : Mild p s t) (a1 : ℕ) (a2 : ℕ) (a3 : ℕ) (a4 : ℕ) : Mild p s (State.countBytes t a1 a2 a3 a4) := h.trans (by simp [State.countBytes])

@[simp] theorem coreOk_setCpwp {k l : Core} (h : CoreOk p k l) (a1 : ℕ) (a2 : Word) : CoreOk p k (Core.setCpwp l a1 a2) := h.trans (by simp [Core.setCpwp])

@[simp] theorem tame_deliverPart (a0 : ℕ) (a1 : ℕ) (a2 : RowPart) : Tame p (deliverPart a0 a1 a2) := by
  unfold deliverPart
  refine tame_get_bind.2 fun _ => ?_
  split
  · dsimp only
    refine tameAt_of_tame ?_ _
    refine tame_bind (by simp) fun _ => ?_
    split
    · simp (disch := simp)
    · simp
  · dsimp only
    refine tameAt_of_tame ?_ _
    simp (disch := simp)

@[simp] theorem coreOk_updChan {k l : Core} (h : CoreOk p k l) (a1 : ℕ) (a2 : Chan → Chan) : CoreOk p k (Core.updChan l a1 a2) := h.trans (by simp [Core.updChan])

@[simp] theorem tame_sendParts (a0 : ℕ) (a1 : ℕ) (a2 : Bool) (a3 : List RowPart) : Tame p (sendParts a0 a1 a2 a3) := by
  unfold sendParts
  split
  · refine tame_forM (fun _ => ?_) _
    simp
  · simp

@[simp] theorem tame_deliverNext (a0 : ℕ) : Tame p (deliverNext a0) := by
  unfold deliverNext
  refine tame_bind (by simp) fun _ => ?_
  split
  · simp
  · simp (disch := simp)

@[simp] theorem tame_allOrNothing {α : Type} {m : M α} (h : Tame p m) : Tame p (allOrNothing m) := by
  unfold allOrNothing
  refine tame_get_bind.2 fun s => tameAt_tryCatch (h s) fun r t ht => ?_
  exact ⟨coresOk_refl _, rfl, mxesOk_refl _, rfl, memOk_refl _, rfl⟩

@[simp] theorem tame_copySource (a0 : Ctx) (a1 : VEntry) (a2 : ℕ) (a3 : ℕ) : Tame p (copySource a0 a1 a2 a3) := by
  unfold copySource
  split
  · simp (disch := simp)
  · simp

@[simp] theorem tame_readSource (a0 : Ctx) (a1 : ℕ) (a2 : RowSrc) : Tame p (readSource a0 a1 a2) := by
  unfold readSource
  split <;> simp

@[simp] theorem tame_descAligned (a0 : RowSrc) (a1 : List Part) (a2 : ℕ) : Tame p (descAligned a0 a1 a2) := by
  unfold descAligned
  split
  · split
    · simp
    · split <;> simp
  · simp

@[simp] theorem tame_acquireReads (a0 : ℕ) : Tame p (acquireReads a0) := by
  unfold acquireReads
  refine tame_bind (by simp) fun _ => ?_
  simp (disch := simp)

@[simp] theorem tame_copyRow (a0 : VEntry) (a1 : CopyCtl) (a2 : ℕ) : Tame p (copyRow a0 a1 a2) := by
  unfold copyRow
  refine tame_bind (by simp) fun _ => ?_
  split
  · dsimp only
    split
    · simp
    · refine tame_bind (by simp) fun _ => ?_
      refine tame_bind (by simp) fun _ => ?_
      refine tame_bind (by simp) fun _ => ?_
      refine tame_get_bind.2 fun _ => ?_
      refine tameAt_of_tame ?_ _
      refine tame_bind ?_ fun _ => ?_
      · refine tame_forM (fun _ => ?_) _
        simp
      · refine tame_get_bind.2 fun _ => ?_
        refine tameAt_of_tame ?_ _
        refine tame_bind (by simp) fun _ => ?_
        simp (disch := simp)
  · dsimp only
    split
    · simp
    · refine tame_bind (by simp) fun _ => ?_
      refine tame_bind (by simp) fun _ => ?_
      refine tame_bind (by simp) fun _ => ?_
      refine tame_get_bind.2 fun _ => ?_
      refine tameAt_of_tame ?_ _
      refine tame_bind ?_ fun _ => ?_
      · refine tame_forM (fun _ => ?_) _
        simp
      · refine tame_get_bind.2 fun _ => ?_
        refine tameAt_of_tame ?_ _
        simp (disch := simp)

@[simp] theorem tame_xredRows (a0 : Ctx) (a1 : Acc) (a2 : Word) (a3 : XredF) (a4 : VEntry) : Tame p (xredRows a0 a1 a2 a3 a4) := by simp [xredRows]

@[simp] theorem tame_xredDest (a0 : Ctx) (a1 : XredF) (a2 : VEntry) : Tame p (xredDest a0 a1 a2) := by
  unfold xredDest
  refine tame_bind (by simp) fun _ => ?_
  refine tame_bind ?_ fun _ => ?_
  · refine tame_forM (fun _ => ?_) _
    simp
  · simp

@[simp] theorem tame_roundStart (a0 : CollGroup) : Tame p (roundStart a0) := by simp (disch := simp) [roundStart]

@[simp] theorem tame_xredSend (f : XredF) (e : VEntry) : Tame p (xredSend f e) := by
  have hs (c group round : Nat) (rows : List (List Byte)) : Tame p (do
      let s ← get
      match s.groups.find? fun g => g.id == group with
      | none => raise (roundTrap group round)
      | some g =>
        if !isMember g ∨ s.doneRounds.any (fun q => q.1 == group && decide (round ≤ q.2)) then raise (roundTrap group round)
        else
        match s.rounds.find? fun q => q.group == group && q.round == round with
        | some q =>
          if s.roundHeld q then await
          else modify fun s => { s with rounds := s.rounds.map fun p => if p = q then { q with local_ := some (c, f.ch.toNat) } else p }
        | none =>
          let q : Round := { group := group, round := round, start := ← roundStart g, local_ := some (c, f.ch.toNat),
                             parts := [(g.rank, rows)] }
          modify fun s => { s with rounds := s.rounds ++ [q] }) := by
    refine tame_bind tame_get fun s => ?_
    split
    · simp
    · refine tame_ite (by simp) ?_
      split
      · simp
      · simp
  refine tame_bind (by simp) fun c => ?_
  refine tame_ite (by simp) (tame_ite (by simp) (tame_ite (by simp) ?_))
  refine tame_bind (by simp) fun _ => tame_bind (by simp) fun _ => tame_bind (by simp) fun _ => tame_bind (by simp) fun _ => ?_
  refine tame_bind (tame_mapM (by simp) _) fun _ => ?_
  exact tame_ite (tame_bind (by simp) fun _ => hs _ _ _ _) (hs _ _ _ _)

@[simp] theorem tame_setCopyProg (a0 : ℕ) (a1 : ℕ) (a2 : ℕ) : Tame p (setCopyProg a0 a1 a2) := by simp [setCopyProg]

@[simp] theorem tame_copyRelease (a0 : VEntry) (a1 : ℕ) (a2 : ℕ) : Tame p (copyRelease a0 a1 a2) := by
  unfold copyRelease
  refine tame_bind (by simp) fun _ => ?_
  refine tame_get_bind.2 fun _ => ?_
  split
  · simp
  · refine tameAt_of_tame ?_ _
    refine tame_bind ?_ fun _ => ?_
    · refine tame_modify fun _ => ?_
      simp (disch := simp)
    · simp (disch := simp)

@[simp] theorem tame_finishCopy (a0 : VEntry) (a1 : CopyCtl) : Tame p (finishCopy a0 a1) := by
  unfold finishCopy
  refine tame_bind (by simp) fun _ => ?_
  split
  · simp
  · split
    · dsimp only
      refine tame_bind (by simp) fun _ => ?_
      simp (disch := simp)
    · simp (disch := simp)

@[simp] theorem tame_copyAcquire (a0 : VEntry) (a1 : CopyCtl) : Tame p (copyAcquire a0 a1) := by
  unfold copyAcquire
  refine tame_bind (by simp) fun _ => ?_
  refine tame_get_bind.2 fun _ => ?_
  split
  · simp
  · refine tameAt_of_tame ?_ _
    simp (disch := simp)

@[simp] theorem tame_stopChan (a0 : ℕ) (a1 : Trap) : Tame p (stopChan a0 a1) := by simp [stopChan]

@[simp] theorem tame_leaveChan (a0 : VEntry) (a1 : CopyCtl) : Tame p (leaveChan a0 a1) := by
  unfold leaveChan
  refine tame_bind (by simp) fun _ => ?_
  simp (disch := simp)

@[simp] theorem tame_copyNext (a0 : VEntry) (a1 : CopyCtl) : Tame p (copyNext a0 a1) := by
  unfold copyNext
  split
  · split
    · simp
    · split
      · dsimp only
        refine tame_tryCatch ?_ fun _ => ?_
        · simp
        · split <;> simp
      · simp
  · dsimp only
    refine tame_bind ?_ fun _ => ?_
    · refine tame_tryCatch ?_ fun _ => ?_
      · simp
      · split <;> simp
    · simp

@[simp] theorem tame_chanStep (a0 : ℕ) : Tame p (chanStep a0) := by
  unfold chanStep
  refine tame_bind (by simp) fun _ => ?_
  split
  · simp
  · simp
  · simp
  · split
    · simp
    · refine tame_get_bind.2 fun _ => ?_
      refine tameAt_of_tame ?_ _
      refine tame_bind (by simp) fun _ => ?_
      split
      · simp
      · split
        · simp
        · simp (disch := simp)

@[simp] theorem tame_copyMove (a0 : List ℕ) : Tame p (copyMove a0) := by
  fun_induction copyMove
  · simp
  · refine tame_bind ?_ fun _ => ?_
    · refine tame_tryCatch ?_ fun _ => ?_
      · simp
      · split <;> simp
    · simp [*]

@[simp] theorem tame_runCopiesUntil (a0 : Core → Bool) (a1 : ℕ) : Tame p (runCopiesUntil a0 a1) := by
  fun_induction runCopiesUntil
  · simp
  · refine tame_bind (by simp) fun _ => ?_
    simp [*]

@[simp] theorem tame_runCopies (a0 : ℕ) : Tame p (runCopies a0) := by simp [runCopies]

@[simp] theorem tame_drainCopies : Tame p (drainCopies ) := by simp (disch := simp) [drainCopies]

@[simp] theorem tame_issueCopy (e : VEntry) : Tame p (issueCopy e) := by
  have hp (ch : Nat) : Tame p (issueCopy.push e ch) := tame_modMe fun _ => by simp
  unfold issueCopy
  split
  · simp
  · refine tame_bind (by simp) fun _ => tame_ite (tame_bind (by simp) fun _ => tame_bind (by simp) fun _ => ?_) (hp _)
    exact tame_ite (by simp) (hp _)



@[simp] theorem tame_vexecCpwait (a0 : CpwF) (a1 : VEntry) : Tame p (vexecCpwait a0 a1) := by
  unfold vexecCpwait
  dsimp only
  refine tame_bind (by simp) fun _ => ?_
  split
  · simp (disch := simp)
  · refine tame_bind (by simp) fun _ => ?_
    simp (disch := simp)

@[simp] theorem tame_releaseWrites (a0 : ℕ) : Tame p (releaseWrites a0) := by
  unfold releaseWrites
  refine tame_bind (by simp) fun _ => ?_
  refine tame_bind (by simp) fun _ => ?_
  refine tame_bind ?_ fun _ => ?_
  · refine tame_modify fun _ => ?_
    simp (disch := simp)
  · simp (disch := simp)

@[simp] theorem tame_barrierPlace (a0 : Ctx) (a1 : Acc) (a2 : ℕ) : Tame p (barrierPlace a0 a1 a2) := by simp [barrierPlace]

@[simp] theorem tame_vexecBarinit (a0 : R3T2) (a1 : VEntry) : Tame p (vexecBarinit a0 a1) := by
  unfold vexecBarinit
  refine tame_bind (by simp) fun _ => ?_
  dsimp only
  refine tame_bind (by simp) fun _ => ?_
  simp (disch := simp)

@[simp] theorem tame_vexecBararr (a0 : R2T2) (a1 : VEntry) : Tame p (vexecBararr a0 a1) := by
  unfold vexecBararr
  refine tame_bind (by simp) fun _ => ?_
  dsimp only
  refine tame_bind (by simp) fun _ => ?_
  simp (disch := simp)

@[simp] theorem tame_vexecBarwait (a0 : R3T2) (a1 : VEntry) : Tame p (vexecBarwait a0 a1) := by
  unfold vexecBarwait
  refine tame_bind (by simp) fun _ => ?_
  refine tame_get_bind.2 fun _ => ?_
  split
  · simp
  · dsimp only
    refine tameAt_of_tame ?_ _
    refine tame_bind (by simp) fun _ => ?_
    refine tame_get_bind.2 fun _ => ?_
    split
    · simp
    · split
      · simp (disch := simp)
      · simp (disch := simp)

@[simp] theorem tame_vexecBarkill (a0 : R2T2) (a1 : VEntry) : Tame p (vexecBarkill a0 a1) := by
  unfold vexecBarkill
  refine tame_bind (by simp) fun _ => ?_
  dsimp only
  refine tame_bind (by simp) fun _ => ?_
  refine tame_bind (by simp) fun _ => ?_
  refine tame_get_bind.2 fun _ => ?_
  split <;> simp

@[simp] theorem tame_vexecPost (a0 : VEntry) : Tame p (vexecPost a0) := by
  unfold vexecPost
  refine tame_bind (by simp) fun _ => ?_
  simp (disch := simp)

@[simp] theorem tame_vexecWaiti (a0 : R3T4) (a1 : VEntry) : Tame p (vexecWaiti a0 a1) := by
  unfold vexecWaiti
  refine tame_bind (by simp) fun _ => ?_
  refine tame_get_bind.2 fun _ => ?_
  dsimp only
  split
  · simp
  · split
    · simp
    · simp (disch := simp)

@[simp] theorem tame_vexecKvlenRead (a0 : R2T4) (a1 : VEntry) : Tame p (vexecKvlenRead a0 a1) := by
  unfold vexecKvlenRead
  refine tame_bind (by simp) fun _ => ?_
  simp (disch := simp)

@[simp] theorem tame_vexecKvlenSet (a0 : R3T4) (a1 : VEntry) : Tame p (vexecKvlenSet a0 a1) := by
  unfold vexecKvlenSet
  refine tame_bind (by simp) fun _ => ?_
  split
  · simp (disch := simp)
  · dsimp only
    refine tame_bind (by simp) fun _ => ?_
    refine tame_bind (by simp) fun _ => ?_
    refine tame_bind (by simp) fun _ => ?_
    refine tame_bind (by simp) fun _ => ?_
    simp (disch := simp)

@[simp] theorem tame_vexecKvinv (a0 : VEntry) : Tame p (vexecKvinv a0) := by
  unfold vexecKvinv
  refine tame_bind (by simp) fun _ => ?_
  refine tame_bind (by simp) fun _ => ?_
  dsimp only
  refine tame_modify fun _ => ?_
  simp (disch := simp)

@[simp] theorem tame_crustPages (a0 : Ctx) (a1 : Acc) (a2 : ℕ) (a3 : ℕ) (a4 : ℕ) : Tame p (crustPages a0 a1 a2 a3 a4) := by
  fun_induction crustPages
  · simp
  · simp
  · simp [*]

@[simp] theorem tame_pagesFrom (a0 : Ctx) (a1 : CrustOp) (a2 : Place) : Tame p (CrustOp.pagesFrom a0 a1 a2) := by simp [CrustOp.pagesFrom]

@[simp] theorem tame_raiseFirst (a0 : List (Option Trap)) : Tame p (raiseFirst a0) := by
  unfold raiseFirst
  split <;> simp

@[simp] theorem tame_crustVerify (a0 : List (CrustOp × List (ℕ × Place))) (a1 : Option Trap) (a2 : List Page → Option Trap) (a3 : List (ℕ × ℕ)) : Tame p (crustVerify a0 a1 a2 a3) := by simp [crustVerify]

@[simp] theorem tame_crustChecks (a0 : Ctx) (a1 : List CrustOp) (a2 : List Page → Option Trap) (a3 : List (ℕ × ℕ)) : Tame p (crustChecks a0 a1 a2 a3) := by simp (disch := simp) [crustChecks]

@[simp] theorem tame_crustOrder (a0 : VEntry) : Tame p (crustOrder a0) := by
  unfold crustOrder
  split
  · simp
  · refine tame_bind (by simp) fun _ => ?_
    split
    · split
      · split
        · dsimp only
          refine tame_bind (by simp) fun _ => ?_
          refine tame_bind (by simp) fun _ => ?_
          simp (disch := simp)
        · simp (disch := simp)
      · split
        · dsimp only
          refine tame_bind (by simp) fun _ => ?_
          simp (disch := simp)
        · simp
    · split
      · simp (disch := simp)
      · simp

@[simp] theorem tame_sendOne (a0 : VEntry) (a1 : ℕ) (a2 : ItemOp) : Tame p (sendOne a0 a1 a2) := by simp (disch := simp) [sendOne]

@[simp] theorem tame_naddRow (a0 : NaddF) (a1 : VEntry) (a2 : ℕ) : Tame p (naddRow a0 a1 a2) := by simp (disch := simp) [naddRow]

@[simp] theorem tame_vexecNadd (a0 : NaddF) (a1 : VEntry) : Tame p (vexecNadd a0 a1) := by
  unfold vexecNadd
  split
  · simp
  · refine tame_bind (by simp) fun _ => ?_
    refine tame_bind (by simp) fun _ => ?_
    refine tame_forM (fun _ => ?_) _
    simp

@[simp] theorem tame_vexecNfence (a0 : R1T4) (a1 : VEntry) : Tame p (vexecNfence a0 a1) := by
  unfold vexecNfence
  refine tame_bind (by simp) fun _ => ?_
  simp (disch := simp)

@[simp] theorem tame_vexecNrowcpy (a0 : NcpyF) (a1 : VEntry) : Tame p (vexecNrowcpy a0 a1) := by
  unfold vexecNrowcpy
  dsimp only
  split
  · simp
  · refine tame_bind (by simp) fun _ => ?_
    refine tame_bind (by simp) fun _ => ?_
    refine tame_bind (by simp) fun _ => ?_
    refine tame_forM (fun _ => ?_) _
    simp

@[simp] theorem tame_vexecNzero (a0 : NzeroF) (a1 : VEntry) : Tame p (vexecNzero a0 a1) := by
  unfold vexecNzero
  dsimp only
  split
  · simp
  · refine tame_bind (by simp) fun _ => ?_
    refine tame_bind (by simp) fun _ => ?_
    refine tame_bind (by simp) fun _ => ?_
    refine tame_forM (fun _ => ?_) _
    simp

@[simp] theorem tame_vexecNgather (a0 : NgatherF) (a1 : VEntry) : Tame p (vexecNgather a0 a1) := by
  unfold vexecNgather
  dsimp only
  split
  · simp
  · refine tame_bind (by simp) fun _ => ?_
    refine tame_bind (by simp) fun _ => ?_
    refine tame_bind (by simp) fun _ => ?_
    refine tame_bind (by simp) fun _ => ?_
    refine tame_get_bind.2 fun _ => ?_
    refine tameAt_of_tame ?_ _
    refine tame_bind (by simp) fun _ => ?_
    refine tame_bind (by simp) fun _ => ?_
    refine tame_forM (fun _ => ?_) _
    simp

@[simp] theorem tame_vexecNopt (a0 : NoptF) (a1 : VEntry) : Tame p (vexecNopt a0 a1) := by
  unfold vexecNopt
  dsimp only
  split
  · simp
  · refine tame_bind (by simp) fun _ => ?_
    refine tame_bind (by simp) fun _ => ?_
    refine tame_bind (by simp) fun _ => ?_
    refine tame_forM (fun _ => ?_) _
    simp

@[simp] theorem tame_vexecNstat (f : R3T4) (e : VEntry) : Tame p (vexecNstat f e) := by
  have hx (v : Word) : Tame p (entryX e f.d v) := by simp
  have hm (g : Crust → Crust) (v : Word) : Tame p (do
      modify fun s => s.updCrust (e.opa.toNat % 8) g
      entryX e f.d v) := tame_bind (tame_modify fun s => by simp) fun _ => hx v
  refine tame_bind (by simp) fun s => ?_
  refine tame_ite (hx _) (tame_ite (hx _) (tame_ite (hx _) (tame_ite (hx _) (tame_ite (hx _) (tame_ite ?_ (tame_ite ?_ ?_))))))
  · exact tame_bind (by simp) fun _ => hm _ _
  · exact tame_bind (by simp) fun _ => hm _ _
  · exact tame_ite (hx _) (tame_ite (tame_ite (hm _ _) (hx _)) (hx _))

@[simp] theorem tame_vexecPerm (a0 : PermOp) (a1 : VTyCF) (a2 : VEntry) : Tame p (vexecPerm a0 a1 a2) := by
  unfold vexecPerm
  split
  · simp
  · simp (disch := simp)

@[simp] theorem tame_vexecSinCos (a0 : SinCosF) (a1 : VEntry) : Tame p (vexecSinCos a0 a1) := by
  unfold vexecSinCos
  split
  · simp
  · refine tame_bind (by simp) fun _ => ?_
    simp (disch := simp)

@[simp] theorem tame_vexecGumbel (a0 : VTyF) (a1 : VEntry) : Tame p (vexecGumbel a0 a1) := by
  unfold vexecGumbel
  split
  · simp
  · simp (disch := simp)

@[simp] theorem tame_vexecHash (a0 : VTyBF) (a1 : VEntry) : Tame p (vexecHash a0 a1) := by
  unfold vexecHash
  split
  · simp
  · simp (disch := simp)

@[simp] theorem tame_vexecRed (a0 : RedOp) (a1 : RedF) (a2 : VEntry) : Tame p (vexecRed a0 a1 a2) := by
  unfold vexecRed
  split
  · simp
  · simp (disch := simp)

@[simp] theorem coreOk_clean {k l : Core} (h : CoreOk p k l) : CoreOk p k (Core.clean l) := h.trans (by simp [Core.clean])

@[simp] theorem tame_vexecShape (a0 : Bool) (a1 : VEntry) : Tame p (vexecShape a0 a1) := by
  unfold vexecShape
  refine tame_bind (by simp) fun _ => ?_
  split
  · simp
  · refine tame_bind (by simp) fun _ => ?_
    simp (disch := simp)

@[simp] theorem tame_vexecMovx (a0 : LenF) (a1 : VEntry) : Tame p (vexecMovx a0 a1) := by simp [vexecMovx]

@[simp] theorem tame_vexecMovv (a0 : LenF) (a1 : VEntry) : Tame p (vexecMovv a0 a1) := by simp (disch := simp) [vexecMovv]

@[simp] theorem tame_vexecMask (a0 : MaskOp) (a1 : MaskReg) (a2 : MaskReg) (a3 : MaskReg) (a4 : VEntry) : Tame p (vexecMask a0 a1 a2 a3 a4) := by simp [vexecMask]

@[simp] theorem tame_vexecKpop (a0 : KxF) (a1 : VEntry) : Tame p (vexecKpop a0 a1) := by simp [vexecKpop]

@[simp] theorem tame_vexecKfirst (a0 : KxF) (a1 : VEntry) : Tame p (vexecKfirst a0 a1) := by simp [vexecKfirst]

@[simp] theorem tame_vexecKset (a0 : KsetF) (a1 : VEntry) : Tame p (vexecKset a0 a1) := by simp [vexecKset]

end Sys2Proof.Machine
end

section
/-! PROOF. The frame of the whole machine for the matrix engine, versioned vectors, the queue and its units. -/
namespace Sys2Proof.Machine

open Sys2Proof

variable {p : Prop}

theorem rowsOk_rowPut {f : RowFile} {b : Bool} {rs : List (Nat × VRow)} {z : Fill} (h : RowsOk f { fill := z, rows := rs }) (i : Nat) (v : VRow) :
    RowsOk f { fill := z, rows := rowPut b rs i v } := fun hf => rising_rowPut i v (h hf)

@[simp] theorem rowsOk_setSlotRow {f : RowFile} {m : Mxe} (h : RowsOk f m.rows) (slot r : Nat) (v : VRow) : RowsOk f (m.setSlotRow slot r v).rows :=
  rowsOk_rowPut h _ v

@[simp] theorem rowsOk_resetSlot {f : RowFile} {m : Mxe} (h : RowsOk f m.rows) (n : Nat) (o : Option Nat) : RowsOk f (m.resetSlot n o).rows :=
  fun hf => List.Pairwise.filter _ (h hf)

@[simp] theorem rowsOk_setLayout {f : RowFile} {m : Mxe} (h : RowsOk f m.rows) (n : Nat) (l : BitVec 2) : RowsOk f (m.setLayout n l).rows := h

@[simp] theorem rowsOk_updAcc {f : RowFile} {m : Mxe} (h : RowsOk f m.rows) (k : Nat) (g : Accs → Accs) : RowsOk f (m.updAcc k g).rows := h

@[simp] theorem rowsOk_detach {f : RowFile} {m : Mxe} (h : RowsOk f m.rows) (k : Nat) : RowsOk f (m.detach k).rows := h

@[simp] theorem rowsOk_foldl_mxe {α : Type} {f : RowFile} {m : Mxe} (h : RowsOk f m.rows) {g : Mxe → α → Mxe}
    (hg : ∀ n a, RowsOk n.rows (g n a).rows) (l : List α) : RowsOk f (l.foldl g m).rows := by
  induction l generalizing m with
  | nil => exact h
  | cons a r ih => exact ih fun hf => hg m a (h hf)

@[simp] theorem rowsOk_ite_mxe {f : RowFile} {m n : Mxe} {c : Prop} [Decidable c] (hm : RowsOk f m.rows) (hn : RowsOk f n.rows) :
    RowsOk f (if c then m else n).rows := by
  split
  · exact hm
  · exact hn

@[simp] theorem tame_getMxe : Tame p (getMxe ) := by simp [getMxe]

@[simp] theorem tame_modMxe {f : Mxe → Mxe} (hf : ∀ m : Mxe, RowsOk m.rows (f m).rows) : Tame p (modMxe f) :=
  tame_modify fun s => mild_updMxe (mild_refl s) hf _

@[simp] theorem tame_myPlace : Tame p (myPlace ) := by simp [myPlace]

@[simp] theorem tame_needSlot (a0 : ℕ) : Tame p (needSlot a0) := by simp (disch := simp) [needSlot]

@[simp] theorem mild_releaseMxe {s t : State} (h : Mild p s t) (core : Nat) : Mild p s (t.releaseMxe core) :=
  mild_updMxe h (fun m => rowsOk_detach (rowsOk_foldl_mxe (rowsOk_refl _) (fun m n => by simp) _) _) _

@[simp] theorem tame_vexecMatt (a0 : GrpF) (a1 : VEntry) : Tame p (vexecMatt a0 a1) := by
  unfold vexecMatt
  refine tame_bind (by simp) fun _ => ?_
  simp (disch := simp)

@[simp] theorem tame_vexecMdet (a0 : DetF) (a1 : VEntry) : Tame p (vexecMdet a0 a1) := by
  unfold vexecMdet
  refine tame_bind (by simp) fun _ => ?_
  refine tame_bind (by simp) fun _ => ?_
  split
  · simp
  · simp (disch := simp)

@[simp] theorem tame_vexecMclaim (a0 : SlotF) (a1 : VEntry) : Tame p (vexecMclaim a0 a1) := by
  unfold vexecMclaim
  refine tame_bind (by simp) fun _ => ?_
  refine tame_bind (by simp) fun _ => ?_
  split <;> simp

@[simp] theorem tame_vexecMrel (a0 : SlotF) (a1 : VEntry) : Tame p (vexecMrel a0 a1) := by simp (disch := simp) [vexecMrel]

@[simp] theorem tame_vexecMzero (a0 : AccF) (a1 : VEntry) : Tame p (vexecMzero a0 a1) := by
  unfold vexecMzero
  refine tame_bind (by simp) fun _ => ?_
  refine tame_bind (by simp) fun _ => ?_
  simp (disch := simp)

@[simp] theorem tame_vexecMstat (a0 : R1T4) (a1 : VEntry) : Tame p (vexecMstat a0 a1) := by simp [vexecMstat]

@[simp] theorem tame_slotChecks (a0 : VEntry) (a1 : ℕ) (a2 : ℕ) (a3 : Bool) (a4 : List Reg) : Tame p (slotChecks a0 a1 a2 a3 a4) := by simp [slotChecks]

@[simp] theorem tame_mldRow (a0 : SlotMF) (a1 : VEntry) (a2 : ℕ) : Tame p (mldRow a0 a1 a2) := by
  unfold mldRow
  refine tame_bind (by simp) fun _ => ?_
  split
  · dsimp only
    split
    · split
      · simp
      · refine tame_bind (by simp) fun _ => ?_
        refine tame_bind (by simp) fun _ => ?_
        split
        · simp (disch := simp)
        · simp
    · split
      · simp
      · refine tame_bind (by simp) fun _ => ?_
        refine tame_bind (by simp) fun _ => ?_
        split
        · simp (disch := simp)
        · simp
  · dsimp only
    split
    · split
      · simp
      · refine tame_bind (by simp) fun _ => ?_
        refine tame_bind (by simp) fun _ => ?_
        split
        · simp (disch := simp)
        · simp
    · split
      · simp
      · refine tame_bind (by simp) fun _ => ?_
        refine tame_bind (by simp) fun _ => ?_
        split
        · simp (disch := simp)
        · simp

@[simp] theorem tame_mldfRows (a0 : SlotMF) (a1 : VEntry) (a2 : ℕ) (a3 : List ℕ) : Tame p (mldfRows a0 a1 a2 a3) := by
  fun_induction mldfRows
  · simp
  · refine tame_bind ?_ fun _ => ?_
    · refine tame_tryCatch ?_ fun _ => ?_
      · simp
      · split <;> simp
    · simp [*]

@[simp] theorem tame_vexecMld (a0 : Bool) (a1 : SlotMF) (a2 : VEntry) : Tame p (vexecMld a0 a1 a2) := by
  unfold vexecMld
  split
  · dsimp only
    split
    · simp
    · refine tame_bind (by simp) fun _ => ?_
      refine tame_bind (by simp) fun _ => ?_
      refine tame_forM (fun _ => ?_) _
      simp
  · dsimp only
    split
    · simp
    · refine tame_bind (by simp) fun _ => ?_
      refine tame_bind (by simp) fun _ => ?_
      split
      · simp
      · simp (disch := simp)

@[simp] theorem tame_crustElem (a0 : ℕ) (a1 : ℕ) (a2 : ℕ) : Tame p (crustElem a0 a1 a2) := by
  unfold crustElem
  refine tame_bind (by simp) fun _ => ?_
  simp (disch := simp)

@[simp] theorem tame_vexecMldt (a0 : SlotMF) (a1 : VEntry) : Tame p (vexecMldt a0 a1) := by
  unfold vexecMldt
  dsimp only
  split
  · simp
  · refine tame_bind (by simp) fun _ => ?_
    refine tame_bind (by simp) fun _ => ?_
    refine tame_bind (by simp) fun _ => ?_
    refine tame_get_bind.2 fun _ => ?_
    refine tameAt_of_tame ?_ _
    refine tame_bind (by simp) fun _ => ?_
    refine tame_bind (by simp) fun _ => ?_
    refine tame_bind (by simp) fun _ => ?_
    refine tame_bind (by simp) fun _ => ?_
    refine tame_forM (fun _ => ?_) _
    refine tame_atPoint ?_ _ _
    simp (disch := simp)

@[simp] theorem tame_vexecMslotw (a0 : SlotMF) (a1 : VEntry) : Tame p (vexecMslotw a0 a1) := by
  unfold vexecMslotw
  split
  · simp
  · refine tame_bind (by simp) fun _ => ?_
    refine tame_bind (by simp) fun _ => ?_
    dsimp only
    refine tame_forM (fun _ => ?_) _
    refine tame_bind (by simp) fun _ => ?_
    split <;> simp

@[simp] theorem tame_vexecMslotr (a0 : SlotRF) (a1 : VEntry) : Tame p (vexecMslotr a0 a1) := by
  unfold vexecMslotr
  split
  · simp
  · refine tame_bind (by simp) fun _ => ?_
    refine tame_bind (by simp) fun _ => ?_
    simp (disch := simp)

@[simp] theorem tame_mmaBlock (a0 : MmaOp) (a1 : MmaF) (a2 : ℕ) (a3 : ℕ) (a4 : List VRow) (a5 : List VRow) : Tame p (mmaBlock a0 a1 a2 a3 a4 a5) := by
  unfold mmaBlock
  refine tame_bind (by simp) fun _ => ?_
  split <;> simp

@[simp] theorem tame_mmaBlocks (a0 : MmaOp) (a1 : MmaF) (a2 : VEntry) (a3 : ℕ) : Tame p (mmaBlocks a0 a1 a2 a3) := by
  unfold mmaBlocks
  split
  · simp
  · refine tame_bind (by simp) fun _ => ?_
    refine tame_bind (by simp) fun _ => ?_
    refine tame_bind (by simp) fun _ => ?_
    refine tame_bind (by simp) fun _ => ?_
    refine tame_bind (by simp) fun _ => ?_
    dsimp only
    split
    · simp
    · refine tame_forM (fun _ => ?_) _
      simp

@[simp] theorem tame_vexecMma (a0 : MmaOp) (a1 : MmaF) (a2 : VEntry) : Tame p (vexecMma a0 a1 a2) := by simp [vexecMma]

@[simp] theorem tame_vexecMdrain (a0 : DrnF) (a1 : VEntry) : Tame p (vexecMdrain a0 a1) := by
  unfold vexecMdrain
  split
  · simp
  · refine tame_bind (by simp) fun _ => ?_
    refine tame_bind (by simp) fun _ => ?_
    refine tame_bind (by simp) fun _ => ?_
    split
    · dsimp only
      refine tame_bind (by simp) fun _ => ?_
      refine tame_bind (by simp) fun _ => ?_
      simp (disch := simp)
    · dsimp only
      refine tame_bind (by simp) fun _ => ?_
      refine tame_bind (by simp) fun _ => ?_
      simp (disch := simp)

@[simp] theorem tame_accChecks (a0 : VEntry) (a1 : Bool) : Tame p (accChecks a0 a1) := by
  unfold accChecks
  refine tame_bind (by simp) fun _ => ?_
  simp (disch := simp)

@[simp] theorem tame_maccstRow (a0 : Ctx) (a1 : AccMF) (a2 : VEntry) (a3 : ℕ) (a4 : ℕ) : Tame p (maccstRow a0 a1 a2 a3 a4) := by
  unfold maccstRow
  refine tame_bind (by simp) fun _ => ?_
  dsimp only
  refine tame_bind (by simp) fun _ => ?_
  refine tame_bind ?_ fun _ => ?_
  · refine tame_forM (fun _ => ?_) _
    simp
  · simp

@[simp] theorem tame_vexecMaccst (a0 : AccMF) (a1 : VEntry) : Tame p (vexecMaccst a0 a1) := by
  unfold vexecMaccst
  refine tame_bind (by simp) fun _ => ?_
  refine tame_bind (by simp) fun _ => ?_
  refine tame_bind (by simp) fun _ => ?_
  dsimp only
  refine tame_bind ?_ fun _ => ?_
  · refine tame_forM (fun _ => ?_) _
    simp
  · simp

@[simp] theorem tame_vexecMaccld (a0 : AccMF) (a1 : VEntry) : Tame p (vexecMaccld a0 a1) := by
  unfold vexecMaccld
  refine tame_bind (by simp) fun _ => ?_
  refine tame_bind (by simp) fun _ => ?_
  refine tame_bind (by simp) fun _ => ?_
  dsimp only
  refine tame_bind ?_ fun _ => ?_
  · refine tame_forM (fun _ => ?_) _
    refine tame_atPoint ?_ _ _
    refine tame_bind (by simp) fun _ => ?_
    simp (disch := simp)
  · simp

@[simp] theorem tame_verRow (a0 : Ctx) (a1 : Acc) (a2 : VVerF) (a3 : ℕ) (a4 : ℕ) (a5 : List (List ℕ)) : Tame p (verRow a0 a1 a2 a3 a4 a5) := by
  fun_induction verRow
  · simp
  · simp [*]
  · refine tame_bind ?_ fun _ => ?_
    · refine tame_tryCatch ?_ fun _ => ?_
      · simp
      · split <;> simp
    · split
      · simp
      · simp [*]

@[simp] theorem tame_verLines (a0 : Ctx) (a1 : Acc) (a2 : VVerF) (a3 : VEntry) (a4 : List ℕ) : Tame p (verLines a0 a1 a2 a3 a4) := by
  fun_induction verLines
  · simp
  · refine tame_bind (by simp) fun _ => ?_
    split
    · simp [*]
    · dsimp only
      split
      · simp
      · refine tame_bind (by simp) fun _ => ?_
        split
        · simp
        · simp [*]

@[simp] theorem tame_verWrite (core : Nat) (f : VVerF) (e : VEntry) (l : VerLine) : Tame p (verWrite core f e l) := by
  refine tame_bind tame_get fun _ => ?_
  split
  · simp
  · refine tame_bind tame_getMe fun _ => tame_get_bind.2 fun s => ?_
    dsimp only
    split
    · simp
    next hw => exact tameAt_set (mild_writeVersion hw)

@[simp] theorem tame_verRead (a0 : Ctx) (a1 : VVerF) (a2 : VEntry) (a3 : VerLine) : Tame p (verRead a0 a1 a2 a3) := by
  unfold verRead
  split
  · dsimp only
    refine tame_get_bind.2 fun _ => ?_
    split
    · refine tameAt_of_tame ?_ _
      simp (disch := simp)
    · split
      · refine tameAt_of_tame ?_ _
        simp (disch := simp)
      · refine tameAt_of_tame ?_ _
        simp (disch := simp)
      · simp (disch := simp)
  · dsimp only
    refine tame_get_bind.2 fun _ => ?_
    split
    · refine tameAt_of_tame ?_ _
      simp (disch := simp)
    · split
      · refine tameAt_of_tame ?_ _
        simp (disch := simp)
      · refine tameAt_of_tame ?_ _
        simp (disch := simp)
      · simp (disch := simp)

@[simp] theorem tame_verEach (a0 : VerLine → M Unit) (h0 : ∀ x, Tame p (a0 x)) (a1 : List VerLine) (a2 : Option (Trap × ℕ × ℕ)) : Tame p (verEach a0 a1 a2) := by
  unfold verEach
  refine tame_bind ?_ fun _ => ?_
  · refine tame_forM (fun _ => ?_) _
    simp [*]
  · split <;> simp

@[simp] theorem tame_vexecVverst (a0 : VVerF) (a1 : VEntry) : Tame p (vexecVverst a0 a1) := by
  unfold vexecVverst
  refine tame_bind (by simp) fun _ => ?_
  split
  · simp
  · refine tame_bind (by simp) fun _ => ?_
    refine tame_bind (by simp) fun _ => ?_
    simp (disch := simp)

@[simp] theorem tame_vexecVverld (a0 : VVerF) (a1 : VEntry) : Tame p (vexecVverld a0 a1) := by
  unfold vexecVverld
  refine tame_bind (by simp) fun _ => ?_
  split
  · simp
  · refine tame_bind (by simp) fun _ => ?_
    refine tame_bind (by simp) fun _ => ?_
    dsimp only
    refine tame_bind (by simp) fun _ => ?_
    simp (disch := simp)

@[simp] theorem tame_vexec (a0 : VEntry) : Tame p (vexec a0) := by
  unfold vexec
  split <;> simp

@[simp] theorem tame_settleAcquires (a0 : ℕ) : Tame p (settleAcquires a0) := by
  unfold settleAcquires
  refine tame_bind (by simp) fun _ => ?_
  refine tame_bind (by simp) fun _ => ?_
  split
  · dsimp only
    refine tame_bind (by simp) fun _ => ?_
    simp (disch := simp)
  · simp (disch := simp)

@[simp] theorem tame_entryGate (a0 : VEntry) : Tame p (entryGate a0) := by simp (disch := simp) [entryGate]

@[simp] theorem coreOk_popHead {k l : Core} (h : CoreOk p k l) : CoreOk p k (Core.popHead l) := h.trans (by simp [Core.popHead])

@[simp] theorem coreOk_headFault {k l : Core} (h : CoreOk p k l) (a1 : Trap) : CoreOk p k (Core.headFault l a1) := by
  refine h.trans ?_
  unfold Core.headFault
  split <;> simp

@[simp] theorem coreOk_complete {k l : Core} (h : CoreOk p k l) (a1 : VEntry) : CoreOk p k (Core.complete l a1) := h.trans (by simp (disch := simp) [Core.complete])

@[simp] theorem tame_stepHead : Tame p (stepHead ) := by
  unfold stepHead
  refine tame_bind (by simp) fun _ => ?_
  split
  · simp
  · split
    · simp
    · refine tame_tryCatch ?_ fun _ => ?_
      · refine tame_bind (by simp) fun _ => ?_
        refine tame_bind (by simp) fun _ => ?_
        simp (disch := simp)
      · split
        · simp (disch := simp)
        · simp

@[simp] theorem tame_runQueue (a0 : ℕ) : Tame p (runQueue a0) := by
  fun_induction runQueue
  · simp
  · simp [*]

@[simp] theorem tame_runEntries : Tame p (runEntries ) := by simp [runEntries]

@[simp] theorem tame_waitEntries : Tame p (waitEntries ) := by simp [waitEntries]

@[simp] theorem tame_waitEmpty : Tame p (waitEmpty ) := by simp [waitEmpty]

@[simp] theorem tame_interlock (a0 : List Reg) : Tame p (interlock a0) := by
  unfold interlock
  refine tame_bind (by simp) fun _ => ?_
  simp (disch := simp)

@[simp] theorem tame_acquireGate : Tame p (acquireGate ) := by
  unfold acquireGate
  refine tame_bind (by simp) fun _ => ?_
  refine tame_get_bind.2 fun _ => ?_
  split
  · refine tameAt_of_tame ?_ _
    refine tame_bind (by simp) fun _ => ?_
    simp (disch := simp)
  · simp

@[simp] theorem tame_makeRoom : Tame p (makeRoom ) := by
  unfold makeRoom
  refine tame_bind (by simp) fun _ => ?_
  split
  · simp
  · refine tame_bind (by simp) fun _ => ?_
    simp (disch := simp)

@[simp] theorem coreOk_enqueue {k l : Core} (h : CoreOk p k l) (a1 : VecOp) (a2 : Rm) (a3 : Option Reg) (a4 : Option Reg) (a5 : Option Reg) (a6 : Option Reg) : CoreOk p k (Core.enqueue l a1 a2 a3 a4 a5 a6) := by
  refine h.trans ?_
  unfold Core.enqueue
  split <;> simp

@[simp] theorem tame_svGate : Tame p (svGate ) := by
  unfold svGate
  refine tame_bind (by simp) fun _ => ?_
  refine tame_bind (by simp) fun _ => ?_
  split
  · refine tame_bind (by simp) fun _ => ?_
    simp (disch := simp)
  · simp

@[simp] theorem tame_dispatch (a0 : VecOp) (a1 : Rm) (a2 : Option Reg) (a3 : Option Reg) (a4 : Option Reg) (a5 : Option Reg) : Tame p (dispatch a0 a1 a2 a3 a4 a5) := by
  unfold dispatch
  refine tame_bind (by simp) fun _ => ?_
  refine tame_bind (by simp) fun _ => ?_
  refine tame_bind (by simp) fun _ => ?_
  simp (disch := simp)

@[simp] theorem tame_verWaits (a0 : VVerF) (a1 : VEntry) : Tame p (verWaits a0 a1) := by
  unfold verWaits
  refine tame_bind (by simp) fun _ => ?_
  split
  · simp
  · simp (disch := simp)

@[simp] theorem tame_failQueue (a0 : ℕ) : Tame p (failQueue a0) := by
  fun_induction failQueue
  · simp
  · refine tame_bind (by simp) fun _ => ?_
    split
    · simp [*]
    · refine tame_bind (by simp) fun _ => ?_
      split
      · simp
      · split
        · refine tame_bind (by simp) fun _ => ?_
          refine tame_bind (by simp) fun _ => ?_
          refine tame_bind (by simp) fun _ => ?_
          simp [*]
        · simp

@[simp] theorem coreOk_endStopped {k l : Core} (h : CoreOk p k l) : CoreOk p k (Core.endStopped l) := h.trans (by simp [Core.endStopped])

@[simp] theorem tame_failWork (a0 : ℕ) : Tame p (failWork a0) := by
  fun_induction failWork
  · simp
  · refine tame_bind (by simp) fun _ => ?_
    refine tame_bind (by simp) fun _ => ?_
    refine tame_bind (by simp) fun _ => ?_
    refine tame_bind (by simp) fun _ => ?_
    refine tame_bind (by simp) fun _ => ?_
    split
    · refine tame_bind (by simp) fun _ => ?_
      simp [*]
    · simp

@[simp] theorem tame_advance (i n : Nat) : Tame p (advance i n) := by
  have hv (e : VEntry) : Tame p (do
      entryGate e
      modMe fun k => { k with queue := [e] }
      vexec e
      return true) := by simp (disch := simp)
  unfold advance
  refine tame_bind tame_getMe fun k => ?_
  dsimp only
  split
  · simp
  · refine tame_bind tame_getMe fun _ => tame_ite (by simp) (tame_bind ?_ fun _ => by simp)
    exact tame_tryCatch (tame_allOrNothing (hv _)) fun _ => tame_pure false

@[simp] theorem tame_chainEntry (a0 : ℕ) : Tame p (chainEntry a0) := by
  unfold chainEntry
  refine tame_bind (by simp) fun _ => ?_
  refine tame_get_bind.2 fun _ => ?_
  dsimp only
  split
  · split
    · simp
    · split
      · simp
      · simp (disch := simp)
  · simp

@[simp] theorem tame_chainStopped : Tame p (chainStopped ) := by
  unfold chainStopped
  refine tame_bind (by simp) fun _ => ?_
  split
  · simp
  · split
    · refine tame_forM (fun _ => ?_) _
      simp
    · simp

@[simp] theorem tame_aheadMove (a0 : ℕ) (a1 : ℕ) (a2 : ℕ) : Tame p (aheadMove a0 a1 a2) := by
  unfold aheadMove
  refine tame_onCore ?_ _
  refine tame_get_bind.2 fun _ => ?_
  split <;> simp

end Sys2Proof.Machine
end

section
/-! PROOF. The frame of the whole machine for fetches, tasks, traps and the scalar instructions. -/
namespace Sys2Proof.Machine

open Sys2Proof

variable {p : Prop}

@[simp] theorem tame_fetchLine (a0 : Bool) (a1 : Word) : Tame p (fetchLine a0 a1) := by
  unfold fetchLine
  refine tame_bind (by simp) fun _ => ?_
  dsimp only
  refine tame_bind (by simp) fun _ => ?_
  split
  · simp
  · refine tame_bind (by simp) fun _ => ?_
    refine tame_get_bind.2 fun _ => ?_
    split
    · simp
    · split
      · simp (disch := simp)
      · refine tameAt_of_tame ?_ _
        simp (disch := simp)

@[simp] theorem tame_enterLine (a0 : Bool) (a1 : Word) : Tame p (enterLine a0 a1) := by simp [enterLine]

@[simp] theorem coreOk_goAt {k l : Core} (h : CoreOk False k l) (ia : Word) (b : Option Line) : CoreOk False k (l.goAt ia b) :=
  ⟨stays_false _ _, stays_false _ _, h.vregs, h.slices⟩

@[simp] theorem tame_goTo (a0 : Bool) (a1 : Word) (a2 : Bool) (a3 : M Unit) (h3 : Tame False a3) : Tame False (goTo a0 a1 a2 a3) := by
  unfold goTo
  split
  · simp
  · refine tame_bind (by simp) fun _ => ?_
    split
    · split
      · simp
      · refine tame_bind ?_ fun _ => ?_
        · simp [*]
        · simp
    · refine tame_bind ?_ fun _ => ?_
      · simp [*]
      · simp (disch := simp)

theorem coreOk_advance {k l : Core} (h : CoreOk False k l) : CoreOk False k l.advance.1 := by
  unfold Core.advance
  dsimp only
  split
  · exact ⟨stays_false _ _, stays_false _ _, h.vregs, h.slices⟩
  · exact h

@[simp] theorem mild_putWord {s t : State} (h : Mild p s t) (a1 : ℕ) (a2 : ℕ) : Mild p s (State.putWord t a1 a2) := h.trans (by simp [State.putWord])

@[simp] theorem tame_deviceUpdate (a0 : Ctx) (a1 : ℕ) (a2 : ℕ → ℕ) : Tame p (deviceUpdate a0 a1 a2) := by
  unfold deviceUpdate
  refine tame_bind ?_ fun _ => ?_
  · refine tame_tryTrap ?_
    split
    · simp
    · refine tame_bind (by simp) fun _ => ?_
      refine tame_bind (by simp) fun _ => ?_
      refine tame_get_bind.2 fun _ => ?_
      split
      · simp
      · dsimp only
        refine tameAt_set_bind (by simp) ?_
        simp
  · split <;> simp

@[simp] theorem tame_deviceRead (a0 : Ctx) (a1 : ℕ) (a2 : ℕ) : Tame p (deviceRead a0 a1 a2) := by
  unfold deviceRead
  refine tame_bind ?_ fun _ => ?_
  · refine tame_tryTrap ?_
    refine tame_bind (by simp) fun _ => ?_
    refine tame_get_bind.2 fun _ => ?_
    split <;> simp
  · split <;> simp

@[simp] theorem mild_freeShare {s t : State} (h : Mild p s t) (a1 : ℕ) : Mild p s (State.freeShare t a1) := by
  refine h.trans ?_
  unfold State.freeShare
  split <;> simp

@[simp] theorem tame_childDone (x : Ctx) (q : Nat × Nat) (w : Nat) : Tame p (childDone x q w) := by
  unfold childDone
  exact tame_get_bind.2 fun s => tameAt_set_bind (mild_putWord (mild_refl s) _ _) (tame_bind (tame_deviceUpdate _ _ _) fun _ => tame_pure _)

@[simp] theorem tame_completeLevel (x : Ctx) (fuel kind id : Nat) : Tame p (completeLevel x fuel kind id) := by
  induction fuel generalizing kind id with
  | zero => exact tame_pure ()
  | succ fuel ih =>
    unfold completeLevel
    have hw (s : State) (a v : Nat) : Mild p s (s.putWord a v) := mild_putWord (mild_refl s) a v
    refine tame_get_bind.2 fun s => tameAt_set_bind (mild_ite (mild_freeShare (hw s _ _) id) (hw s _ _)) ?_
    refine tame_bind tame_get fun s => tame_bind (tame_deviceUpdate _ _ _) fun w => ?_
    split
    · simp
    · exact tame_bind (by simp) fun _ => tame_ite (ih _ _) (by simp)

@[simp] theorem mild_countUp {s t : State} (h : Mild p s t) (launch : Nat) : Mild p s (t.countUp launch) := by
  unfold State.countUp
  exact mild_putWord h _ _

@[simp] theorem tame_countDown (x : Ctx) (launch : Nat) : Tame p (countDown x launch) := by
  unfold countDown
  exact tame_get_bind.2 fun s => tameAt_set_bind (mild_putWord (mild_refl s) _ _) (tame_ite (by simp) (by simp))

@[simp] theorem mild_countCancelled {s t : State} (h : Mild p s t) (launch : Nat) : Mild p s (t.countCancelled launch) := by
  unfold State.countCancelled
  exact mild_putWord h _ _

theorem mild_pushDeque {t u : State} {core : Nat} {r : Rec} (h : t.pushDeque core r = some u) : Mild p t u := by
  unfold State.pushDeque at h
  dsimp only at h
  split at h
  · simp at h
  · split at h
    · obtain rfl := by simpa using h
      simp
    · obtain rfl := by simpa using h
      simp

theorem mild_pushInject {t u : State} {die part : Nat} {r : Rec} (h : t.pushInject die part r = some u) : Mild p t u := by
  obtain ⟨-, h⟩ := Option.ite_none_right_eq_some.1 h
  exact Option.some.inj h ▸ mild_updDie (mild_publish (mild_refl t) ..) ..

theorem mild_tryPush {t u : State} {core : Nat} {r : Rec} (h : t.tryPush core r = some u) : Mild p t u := by
  unfold State.tryPush at h
  split at h
  next hd => exact Option.some.inj h ▸ mild_pushDeque hd
  · exact mild_pushInject h

@[simp] theorem mild_pushContinuation {s t : State} (h : Mild p s t) (core : Nat) (r : Rec) : Mild p s (t.pushContinuation core r) := by
  refine h.trans ?_
  unfold State.pushContinuation
  split
  next ht => exact mild_tryPush ht
  · simp

@[simp] theorem mild_retryPush {s t : State} (h : Mild p s t) (core : Nat) : Mild p s (t.retryPush core) := by
  refine h.trans ?_
  unfold State.retryPush
  split
  · simp
  · split
    · simp
    next ht => exact mild_updCore (mild_tryPush ht) (by simp) core

@[simp] theorem mild_noteJoin {s t : State} (h : Mild p s t) (a1 : ℕ) (a2 : ℕ) : Mild p s (State.noteJoin t a1 a2) := by
  refine h.trans ?_
  unfold State.noteJoin
  split <;> simp

@[simp] theorem tame_joinAdd (x : Ctx) (q : Place) (va : Nat) (delta : Word) : Tame p (joinAdd x q va delta) := by
  unfold joinAdd
  refine tame_bind (tame_writeTarget x q va va) fun w => tame_get_bind.2 fun s => ?_
  refine keepsAt_bind mild_frame (tame_myNumber s) fun c t hc => ?_
  obtain ⟨rfl, rfl⟩ : s.cur = c ∧ s = t := by simpa using hc
  refine tameAt_bind (tame_lostRead _ _ _ s) fun _ t ht => ?_
  split
  · exact ht.trans (tame_raise _ t)
  · refine mild_set_bind (mild_flushOver (mild_refl s) ..) (tame_bind tame_get fun _ => ?_)
    refine tame_bind (tame_modify fun u => ?_) fun _ => tame_ite ?_ (tame_pure _)
    · exact mild_noteJoin (mild_ackFabric (mild_perform (mild_refl u) ..) ..) ..
    · refine tame_get_bind.2 fun u => ?_
      exact tameAt_set_bind (mild_pushContinuation (mild_countUp (mild_refl u) _) ..) (tame_pure _)

theorem mild_findWork {t u : State} {core : Nat} {h : Share} {w : Work} (hw : t.findWork core h = some (w, u)) : Mild p t u := by
  unfold State.findWork at hw
  dsimp only at hw
  split at hw
  · obtain ⟨-, rfl⟩ := by simpa using hw
    simp
  · split at hw
    · obtain ⟨-, rfl⟩ := by simpa using hw
      simp
    · split at hw
      · obtain ⟨-, rfl⟩ := by simpa using hw
        simp
      · obtain ⟨v, -, hv⟩ := List.exists_of_findSome?_eq_some hw
        obtain ⟨q, -, hq⟩ := Option.map_eq_some_iff.1 hv
        obtain ⟨-, rfl⟩ := by simpa using hq
        simp

@[simp] theorem coreOk_start {k l : Core} (h : CoreOk False k l) (no seed cycle ceil : Nat) (levels : Word) (r : Rec)
    (strip : Option (Nat × Int × Nat)) : CoreOk False k (l.start no seed cycle ceil levels r strip) :=
  ⟨stays_false _ _, stays_false _ _, rowsOk_nil _ _, cellsOk_nil _ _⟩

@[simp] theorem tame_startOn (h : Share) (r : Rec) (strip : Option (Nat × Int × Nat)) : Tame False (startOn h r strip) := by
  have hs (no n cycle : Nat) : Tame False (modMe fun k => k.start no n cycle h.ceil h.levels r strip) :=
    tame_modMe fun k => coreOk_start (coreOk_refl k) ..
  unfold startOn
  refine tame_bind tame_get fun _ => tame_bind tame_get fun _ => tame_bind (by simp) fun _ => tame_bind tame_get fun _ => ?_
  exact tame_bind (hs _ _ _) fun _ => tame_ite (by simp) (by simp)

@[simp] theorem mild_updLoop {s t : State} (h : Mild p s t) (a1 : ℕ) (a2 : ℕ) (a3 : Loop → Loop) : Mild p s (State.updLoop t a1 a2 a3) := h.trans (by simp [State.updLoop])

@[simp] theorem mild_dropLoop {s t : State} (h : Mild p s t) (a1 : ℕ) (a2 : Loop) : Mild p s (State.dropLoop t a1 a2) := h.trans (by simp (disch := simp) [State.dropLoop])

@[simp] theorem tame_discard (h : Share) : Tame p (takeWork.discard h) := by
  unfold takeWork.discard
  exact tame_bind (tame_modify fun s => mild_countCancelled (mild_refl s) _) fun _ => by simp

@[simp] theorem tame_takeWork (h : Share) : Tame False (takeWork h) := by
  unfold takeWork
  refine tame_bind (by simp) fun c => tame_get_bind.2 fun s => ?_
  dsimp only
  split
  · simp
  next w s' hw =>
    refine tameAt_set_bind (mild_findWork hw) (tame_ite ?_ ?_)
    · split
      · simp
      · exact tame_bind (by simp) fun _ => by simp
    · split
      · simp
      · split
        · simp
        · exact tame_ite (tame_bind (by simp) fun _ => tame_bind (by simp) fun _ => by simp) (tame_bind (by simp) fun _ => by simp)



@[simp] theorem mild_leaveShare {s t : State} (h : Mild p s t) (a1 : ℕ) : Mild p s (State.leaveShare t a1) := h.trans (by simp [State.leaveShare])

@[simp] theorem mild_freeMonitor {s t : State} (h : Mild p s t) (a1 : ℕ) : Mild p s (State.freeMonitor t a1) := h.trans (by simp (disch := simp) [State.freeMonitor])

@[simp] theorem coreOk_pend {k l : Core} (h : CoreOk p k l) (a1 : Option Trap) : CoreOk p k (Core.pend l a1) := by
  refine h.trans ?_
  unfold Core.pend
  split <;> simp

@[simp] theorem coreOk_dropDrain {k l : Core} (h : CoreOk p k l) : CoreOk p k (Core.dropDrain l) := h.trans (by simp [Core.dropDrain])

@[simp] theorem tame_goIdle : Tame False goIdle := by
  have hd (k : Core) : CoreOk False k k.dropDrain := coreOk_dropDrain (coreOk_refl k)
  have hi (k : Core) : CoreOk False k { k.dropDrain with
      act := .idle, line := none, queue := [], held := [], run := none, failing := none, deadline := none, restored := false,
      settling := none, sstat := { k.sstat with held := false, loaded := false, nest := false, mode := false } } :=
    ⟨stays_false _ _, stays_false _ _, (hd k).vregs, (hd k).slices⟩
  unfold goIdle
  refine tame_bind (by simp) fun c => tame_bind ?_ fun _ => tame_bind (tame_modMe hi) fun _ => tame_bind (by simp) fun k => ?_
  · exact tame_modify fun s => mild_leaveBarriers (mild_freeMonitor (mild_refl s) c) c
  · exact tame_ite (by simp) (by simp)

@[simp] theorem tame_endStep2 (a0 : Option ℕ) (a1 : ℕ) : Tame p (endStep2 a0 a1) := by
  unfold endStep2
  refine tame_bind (by simp) fun _ => ?_
  simp (disch := simp)

@[simp] theorem tame_endStep3 (a0 : Word) : Tame p (endStep3 a0) := by
  unfold endStep3
  split
  · simp
  · split
    · simp
    · refine tame_get_bind.2 fun _ => ?_
      refine tameAt_of_tame ?_ _
      refine tame_bind (by simp) fun _ => ?_
      simp (disch := simp)

@[simp] theorem tame_endStrip (a0 : ℕ) : Tame p (endStrip a0) := by
  unfold endStrip
  refine tame_bind (by simp) fun _ => ?_
  dsimp only
  refine tame_bind (by simp) fun _ => ?_
  refine tame_get_bind.2 fun _ => ?_
  split
  · simp
  · split
    · split
      · refine tameAt_of_tame ?_ _
        refine tame_bind (by simp) fun _ => ?_
        refine tame_bind ?_ fun _ => ?_
        · simp (disch := simp)
        · simp
      · refine tameAt_of_tame ?_ _
        refine tame_bind ?_ fun _ => ?_
        · simp (disch := simp)
        · simp
    · simp

@[simp] theorem tame_finishTask (a0 : Option ℕ) (a1 : ℕ) : Tame False (finishTask a0 a1) := by
  unfold finishTask
  refine tame_bind (by simp) fun _ => ?_
  refine tame_get_bind.2 fun _ => ?_
  dsimp only
  split
  · simp
  · refine tameAt_of_tame ?_ _
    refine tame_bind (by simp) fun _ => ?_
    split
    · simp
    · refine tame_bind (by simp) fun _ => ?_
      split <;> simp

@[simp] theorem tame_failTask (a0 : ℕ) : Tame False (failTask a0) := by
  unfold failTask
  refine tame_bind (by simp) fun _ => ?_
  refine tame_bind ?_ fun _ => ?_
  · simp (disch := simp)
  · refine tame_bind ?_ fun _ => ?_
    · simp (disch := simp)
    · simp (disch := simp)

@[simp] theorem tame_continueFailing (a0 : Word) : Tame False (continueFailing a0) := by
  unfold continueFailing
  refine tame_bind (by simp) fun _ => ?_
  refine tame_bind (by simp) fun _ => ?_
  refine tame_bind (by simp) fun _ => ?_
  split
  · simp
  · refine tame_bind (by simp) fun _ => ?_
    refine tame_bind (by simp) fun _ => ?_
    refine tame_bind (by simp) fun _ => ?_
    split
    · refine tame_bind ?_ fun _ => ?_
      · refine tame_modify fun _ => ?_
        simp (disch := simp)
      · simp
    · simp

@[simp] theorem tame_stopsMma : Tame p (stopsMma ) := by
  unfold stopsMma
  refine tame_bind (by simp) fun _ => ?_
  split
  · simp
  · split <;> simp

@[simp] theorem coreOk_dropStopped {k l : Core} (h : CoreOk p k l) : CoreOk p k (Core.dropStopped l) := h.trans (by simp [Core.dropStopped])

@[simp] theorem coreOk_hold {k l : Core} (h : CoreOk p k l) (a1 : List VEntry) : CoreOk p k (Core.hold l a1) := by
  refine h.trans ?_
  unfold Core.hold
  split <;> simp

@[simp] theorem coreOk_accept {k l : Core} (h : CoreOk p k l) (a1 : Option Trap) : CoreOk p k (Core.accept l a1) := by
  refine h.trans ?_
  unfold Core.accept
  split <;> simp

@[simp] theorem coreOk_saveTrap {k l : Core} (h : CoreOk False k l) (r : Trap) (late : Bool) (eia : Word) (held : Bool) :
    CoreOk False k (l.saveTrap r late eia held) := ⟨stays_false _ _, stays_false _ _, h.vregs, h.slices⟩

@[simp] theorem tame_deliver (a0 : Trap) (a1 : Bool) (a2 : Word) (a3 : Bool) : Tame False (deliver a0 a1 a2 a3) := by
  unfold deliver
  refine tame_bind (by simp) fun _ => ?_
  refine tame_bind (by simp) fun _ => ?_
  split
  · simp
  · refine tame_bind (by simp) fun _ => ?_
    split
    · simp
    · simp (disch := simp)

@[simp] theorem tame_drain (a0 : Option Trap) (a1 : Word) : Tame p (drain a0 a1) := by
  unfold drain
  refine tame_bind (by simp) fun _ => ?_
  refine tame_bind (by simp) fun _ => ?_
  split
  · simp
  · refine tame_bind (by simp) fun _ => ?_
    refine tame_get_bind.2 fun _ => ?_
    split
    · simp
    · refine tameAt_of_tame ?_ _
      simp (disch := simp)

@[simp] theorem tame_trapEntry (a0 : Option Trap) (a1 : Word) : Tame False (trapEntry a0 a1) := by
  unfold trapEntry
  refine tame_bind (by simp) fun _ => ?_
  refine tame_bind (by simp) fun _ => ?_
  split
  · split
    · split
      · dsimp only
        refine tame_bind (by simp) fun _ => ?_
        simp (disch := simp)
      · simp (disch := simp)
    · simp (disch := simp)
  · split
    · dsimp only
      refine tame_bind (by simp) fun _ => ?_
      refine tame_bind (by simp) fun _ => ?_
      refine tame_bind (by simp) fun _ => ?_
      refine tame_bind (by simp) fun _ => ?_
      refine tame_bind ?_ fun _ => ?_
      · simp (disch := simp)
      · refine tame_bind (by simp) fun _ => ?_
        split
        · simp (disch := simp)
        · simp
        · simp
    · dsimp only
      refine tame_bind (by simp) fun _ => ?_
      refine tame_bind (by simp) fun _ => ?_
      refine tame_bind (by simp) fun _ => ?_
      refine tame_bind ?_ fun _ => ?_
      · simp (disch := simp)
      · refine tame_bind (by simp) fun _ => ?_
        split
        · simp (disch := simp)
        · simp
        · simp

@[simp] theorem coreOk_discardFrom {k l : Core} (h : CoreOk p k l) (a1 : VEntry) : CoreOk p k (Core.discardFrom l a1) := h.trans (by simp [Core.discardFrom])

@[simp] theorem tame_takeLate (a0 : VEntry) (a1 : Trap) : Tame False (takeLate a0 a1) := by
  unfold takeLate
  refine tame_bind (by simp) fun _ => ?_
  split
  · simp
  · refine tame_bind (by simp) fun _ => ?_
    refine tame_bind (by simp) fun _ => ?_
    refine tame_bind ?_ fun _ => ?_
    · simp (disch := simp)
    · simp (disch := simp)

@[simp] theorem coreOk_settleHeld {k l : Core} (h : CoreOk p k l) (a1 : Word) : CoreOk p k (Core.settleHeld l a1) := h.trans (by simp [Core.settleHeld])

@[simp] theorem coreOk_unnest {k l : Core} (h : CoreOk p k l) : CoreOk p k (Core.unnest l) := h.trans (by simp [Core.unnest])

@[simp] theorem tame_waitUnstopped : Tame p (waitUnstopped ) := by
  unfold waitUnstopped
  refine tame_bind (by simp) fun _ => ?_
  simp (disch := simp)

@[simp] theorem tame_resumeWith (a0 : Word) (a1 : ℕ) : Tame False (resumeWith a0 a1) := by
  unfold resumeWith
  refine tame_bind (by simp) fun _ => ?_
  split
  · simp
  · refine tame_bind (by simp) fun _ => ?_
    refine tame_bind (by simp) fun _ => ?_
    split
    · simp (disch := simp)
    · split
      · simp
      · refine tame_bind ?_ fun _ => ?_
        · refine tame_tryTrap ?_
          simp (disch := simp)
        · split <;> simp

@[simp] theorem tame_retire : Tame False retire := by
  refine tame_getMe_bind.2 fun s => ?_
  have hk : CoreOk False s.me s.me.advance.1 := coreOk_advance (coreOk_refl _)
  split
  next ha =>
    rw [ha] at hk
    exact mild_updMe_of (mild_refl s) hk
  · simp

@[simp] theorem tame_runInstr (a0 : List Reg) (a1 : M Flow) (h1 : Tame False a1) : Tame False (runInstr a0 a1) := by
  unfold runInstr
  refine tame_bind ?_ fun _ => ?_
  · simp [*]
  · split <;> simp

theorem mild_after {s : State} {m : M Unit} (h : Tame p m) : Mild p s (s.after m) := h s

@[simp] theorem tame_aluTwo (a0 : ℕ → ℕ → ℕ → ℕ) (a1 : AluF) : Tame p (aluTwo a0 a1) := by simp [aluTwo]

@[simp] theorem tame_aluOne (a0 : ℕ → ℕ → ℕ) (a1 : AluUF) : Tame p (aluOne a0 a1) := by simp [aluOne]

@[simp] theorem tame_aluImm (a0 : ℕ → ℕ → ℕ → ℕ) (a1 : AluIF) : Tame p (aluImm a0 a1) := by simp [aluImm]

@[simp] theorem tame_aluShift (a0 : ℕ → ℕ → ℕ → ℕ) (a1 : AluSF) : Tame p (aluShift a0 a1) := by simp [aluShift]

@[simp] theorem tame_scalarMode (a0 : Rm) : Tame p (scalarMode a0) := by simp [scalarMode]

@[simp] theorem tame_writeFp (a0 : Reg) (a1 : ℕ × FlagSet) : Tame p (writeFp a0 a1) := by simp [writeFp]

@[simp] theorem tame_fpuTwo (a0 : Mode → Val → Val → ℕ × FlagSet) (a1 : FpuF) : Tame p (fpuTwo a0 a1) := by simp (disch := simp) [fpuTwo]

@[simp] theorem tame_fpuFma (a0 : Mode → Val → Val → Val → ℕ × FlagSet) (a1 : FmaF) : Tame p (fpuFma a0 a1) := by
  unfold fpuFma
  refine tame_bind (by simp) fun _ => ?_
  simp (disch := simp)

@[simp] theorem tame_fpuCompare (a0 : CmpOp) (a1 : R3T2) : Tame p (fpuCompare a0 a1) := by simp [fpuCompare]

@[simp] theorem tame_fpuMinMax (a0 : Bool) (a1 : R3T2) : Tame p (fpuMinMax a0 a1) := by simp [fpuMinMax]

@[simp] theorem tame_branch (a0 : Word → Word → Bool) (a1 : BrF) : Tame False (branch a0 a1) := by
  unfold branch
  refine tame_bind (by simp) fun _ => ?_
  refine tame_bind (by simp) fun _ => ?_
  split
  · simp (disch := simp)
  · simp

@[simp] theorem tame_awaitQueue (a0 : State → Bool) : Tame p (awaitQueue a0) := by
  unfold awaitQueue
  refine tame_get_bind.2 fun _ => ?_
  split
  · simp (disch := simp)
  · simp

@[simp] theorem tame_settleOwn (a0 : ℕ) (a1 : ℕ) : Tame p (settleOwn a0 a1) := by
  unfold settleOwn
  refine tame_bind (by simp) fun _ => ?_
  refine tame_bind (by simp) fun _ => ?_
  refine tame_bind (by simp) fun _ => ?_
  split
  · refine tame_bind (by simp) fun _ => ?_
    simp (disch := simp)
  · simp

@[simp] theorem tame_fabricOrder (a0 : ℕ) (a1 : ℕ) : Tame p (fabricOrder a0 a1) := by simp (disch := simp) [fabricOrder]

@[simp] theorem tame_scalarLoad (a0 : ℕ) (a1 : ℕ) : Tame p (scalarLoad a0 a1) := by
  unfold scalarLoad
  split
  · simp
  · simp (disch := simp)

@[simp] theorem tame_storeAt (a0 : Ctx) (a1 : Place) (a2 : ℕ) (a3 : List Byte) : Tame p (storeAt a0 a1 a2 a3) := by
  unfold storeAt
  refine tame_get_bind.2 fun _ => ?_
  split
  · refine tameAt_of_tame ?_ _
    refine tame_bind (by simp) fun _ => ?_
    refine tame_bind (by simp) fun _ => ?_
    simp (disch := simp)
  · refine tameAt_of_tame ?_ _
    simp (disch := simp)

@[simp] theorem tame_scalarStore (a0 : ℕ) (a1 : List Byte) : Tame p (scalarStore a0 a1) := by simp (disch := simp) [scalarStore]

@[simp] theorem tame_loadOp (a0 : ℕ) (a1 : Bool) (a2 : MemF) : Tame p (loadOp a0 a1 a2) := by simp (disch := simp) [loadOp]

@[simp] theorem tame_storeOp (a0 : ℕ) (a1 : MemF) : Tame p (storeOp a0 a1) := by simp (disch := simp) [storeOp]

@[simp] theorem tame_scalarRelease (a0 : Scope) : Tame p (scalarRelease a0) := by simp [scalarRelease]

@[simp] theorem tame_amoRun (a0 : AmoF) (a1 : Bool) (a2 : ℕ → Option ℕ) : Tame p (amoRun a0 a1 a2) := by
  unfold amoRun
  refine tame_bind (by simp) fun _ => ?_
  split
  · split
    · split
      · dsimp only
        refine tame_bind (by simp) fun _ => ?_
        split
        · simp
        · refine tame_bind (by simp) fun _ => ?_
          refine tame_bind (by simp) fun _ => ?_
          refine tame_bind (by simp) fun _ => ?_
          refine tame_get_bind.2 fun _ => ?_
          refine tameAt_of_tame ?_ _
          refine tame_bind (by simp) fun _ => ?_
          simp (disch := simp)
      · dsimp only
        refine tame_bind (by simp) fun _ => ?_
        split
        · simp
        · refine tame_bind (by simp) fun _ => ?_
          refine tame_bind (by simp) fun _ => ?_
          refine tame_get_bind.2 fun _ => ?_
          refine tameAt_of_tame ?_ _
          refine tame_bind (by simp) fun _ => ?_
          simp (disch := simp)
    · split
      · dsimp only
        refine tame_bind (by simp) fun _ => ?_
        split
        · simp
        · refine tame_bind (by simp) fun _ => ?_
          refine tame_bind (by simp) fun _ => ?_
          refine tame_bind (by simp) fun _ => ?_
          refine tame_get_bind.2 fun _ => ?_
          refine tameAt_of_tame ?_ _
          simp (disch := simp)
      · dsimp only
        refine tame_bind (by simp) fun _ => ?_
        split
        · simp
        · refine tame_bind (by simp) fun _ => ?_
          refine tame_bind (by simp) fun _ => ?_
          refine tame_get_bind.2 fun _ => ?_
          refine tameAt_of_tame ?_ _
          simp (disch := simp)
  · split
    · split
      · dsimp only
        refine tame_bind (by simp) fun _ => ?_
        split
        · simp
        · refine tame_bind (by simp) fun _ => ?_
          refine tame_bind (by simp) fun _ => ?_
          refine tame_bind (by simp) fun _ => ?_
          refine tame_get_bind.2 fun _ => ?_
          refine tameAt_of_tame ?_ _
          refine tame_bind (by simp) fun _ => ?_
          simp (disch := simp)
      · dsimp only
        refine tame_bind (by simp) fun _ => ?_
        split
        · simp
        · refine tame_bind (by simp) fun _ => ?_
          refine tame_bind (by simp) fun _ => ?_
          refine tame_get_bind.2 fun _ => ?_
          refine tameAt_of_tame ?_ _
          refine tame_bind (by simp) fun _ => ?_
          simp (disch := simp)
    · split
      · dsimp only
        refine tame_bind (by simp) fun _ => ?_
        split
        · simp
        · refine tame_bind (by simp) fun _ => ?_
          refine tame_bind (by simp) fun _ => ?_
          refine tame_bind (by simp) fun _ => ?_
          refine tame_get_bind.2 fun _ => ?_
          refine tameAt_of_tame ?_ _
          simp (disch := simp)
      · dsimp only
        refine tame_bind (by simp) fun _ => ?_
        split
        · simp
        · refine tame_bind (by simp) fun _ => ?_
          refine tame_bind (by simp) fun _ => ?_
          refine tame_get_bind.2 fun _ => ?_
          refine tameAt_of_tame ?_ _
          simp (disch := simp)

@[simp] theorem tame_amoOp (a0 : ℕ → ℕ → ℕ → ℕ) (a1 : AmoF) : Tame p (amoOp a0 a1) := by simp [amoOp]

@[simp] theorem tame_ldaOp (a0 : ℕ) (a1 : OrdF) : Tame p (ldaOp a0 a1) := by
  unfold ldaOp
  refine tame_bind (by simp) fun _ => ?_
  simp (disch := simp)

@[simp] theorem tame_stlOp (a0 : ℕ) (a1 : OrdF) : Tame p (stlOp a0 a1) := by
  unfold stlOp
  refine tame_bind (by simp) fun _ => ?_
  refine tame_bind (by simp) fun _ => ?_
  dsimp only
  refine tame_bind (by simp) fun _ => ?_
  split
  · simp
  · simp (disch := simp)

@[simp] theorem tame_fenceAcquire (a0 : Scope) : Tame p (fenceAcquire a0) := by simp (disch := simp) [fenceAcquire]

@[simp] theorem tame_cacheLine (a0 : Acc) (a1 : CacheF) : Tame p (cacheLine a0 a1) := by
  unfold cacheLine
  refine tame_bind (by simp) fun _ => ?_
  dsimp only
  split
  · simp
  · refine tame_bind (by simp) fun _ => ?_
    refine tame_bind (by simp) fun _ => ?_
    split <;> simp

@[simp] theorem mild_flushLine {s t : State} (h : Mild p s t) (a1 : ℕ) (a2 : ℕ) : Mild p s (State.flushLine t a1 a2) := h.trans (by simp (disch := simp) [State.flushLine])

@[simp] theorem mild_prefetch {s t : State} (h : Mild p s t) (a1 : ℕ) (a2 : Target) : Mild p s (State.prefetch t a1 a2) := by
  refine h.trans ?_
  unfold State.prefetch
  split
  · simp
  · simp (disch := simp)

@[simp] theorem tame_supervisorOnly : Tame p (supervisorOnly ) := by simp [supervisorOnly]

@[simp] theorem mild_uncache {s t : State} (h : Mild p s t) (a1 : ℕ) : Mild p s (State.uncache t a1) := h.trans (by simp [State.uncache])

@[simp] theorem mild_restoreLine {s t : State} (h : Mild p s t) (a1 : Stale) : Mild p s (State.restoreLine t a1) := h.trans (by simp [State.restoreLine])

@[simp] theorem tame_dropLine (a0 : ℕ) : Tame p (dropLine a0) := by
  unfold dropLine
  refine tame_bind (by simp) fun _ => ?_
  refine tame_get_bind.2 fun _ => ?_
  split
  · simp
  · refine tameAt_of_tame ?_ _
    refine tame_bind (by simp) fun _ => ?_
    simp (disch := simp)

@[simp] theorem tame_waitRead (a0 : ℕ) : Tame p (waitRead a0) := by
  unfold waitRead
  refine tame_bind (by simp) fun _ => ?_
  refine tame_bind (by simp) fun _ => ?_
  simp (disch := simp)

@[simp] theorem tame_waitReread (a0 : Monitor) : Tame p (waitReread a0) := by
  unfold waitReread
  refine tame_bind (by simp) fun _ => ?_
  refine tame_get_bind.2 fun _ => ?_
  split
  · simp
  · refine tameAt_of_tame ?_ _
    refine tame_bind (by simp) fun _ => ?_
    split
    split
    · simp (disch := simp)
    · simp (disch := simp)

@[simp] theorem tame_waitTimeout (a0 : Monitor) : Tame p (waitTimeout a0) := by
  unfold waitTimeout
  refine tame_bind (by simp) fun _ => ?_
  refine tame_get_bind.2 fun _ => ?_
  split
  · split
    · refine tameAt_of_tame ?_ _
      simp (disch := simp)
    · simp
  · simp

@[simp] theorem tame_waita (a0 : Bool) (a1 : WaitF) : Tame p (waita a0 a1) := by
  unfold waita
  refine tame_bind (by simp) fun _ => ?_
  refine tame_bind (by simp) fun _ => ?_
  split
  · simp
  · refine tame_bind (by simp) fun _ => ?_
    refine tame_bind (by simp) fun _ => ?_
    split
    · dsimp only
      refine tame_bind (by simp) fun _ => ?_
      split
      · simp
      · refine tame_bind (by simp) fun _ => ?_
        refine tame_get_bind.2 fun _ => ?_
        split
        · simp
        · split
          · simp
          · refine tameAt_of_tame ?_ _
            simp (disch := simp)
    · dsimp only
      refine tame_bind (by simp) fun _ => ?_
      split
      · simp
      · refine tame_bind (by simp) fun _ => ?_
        refine tame_get_bind.2 fun _ => ?_
        split
        · simp
        · split
          · simp
          · refine tameAt_of_tame ?_ _
            simp (disch := simp)

@[simp] theorem tame_onMonitor (c : Nat) {test : Monitor → M Bool} (h : ∀ m, Tame False (test m)) : Tame False (onMonitor c test) := by
  unfold onMonitor
  refine tame_onCore (tame_bind tame_getMe fun k => ?_) c
  split
  · simp
  · exact tame_runInstr [] _ (tame_bind (h _) fun _ => tame_ite (by simp) (by simp))

end Sys2Proof.Machine
end

section
/-! PROOF. The frame of the whole machine for system, context and spawn instructions, and for the events of cores and queues. -/
namespace Sys2Proof.Machine

open Sys2Proof

variable {p : Prop}

@[simp] theorem coreOk_setCsr {k l : Core} (h : CoreOk p k l) (a1 : Csr) (a2 : Word) : CoreOk p k (Core.setCsr l a1 a2) := by
  refine h.trans ?_
  unfold Core.setCsr
  split <;> simp

@[simp] theorem tame_waitQueue : Tame p (waitQueue ) := by simp [waitQueue]

@[simp] theorem tame_readCsr (a0 : Csr) : Tame p (readCsr a0) := by simp (disch := simp) [readCsr]

@[simp] theorem tame_csrWrite (a0 : Word → Word → Word) (a1 : CsrF) : Tame p (csrWrite a0 a1) := by
  unfold csrWrite
  split
  · dsimp only
    refine tame_bind (by simp) fun _ => ?_
    refine tame_bind (by simp) fun _ => ?_
    refine tame_bind (by simp) fun _ => ?_
    refine tame_bind (by simp) fun _ => ?_
    split
    · simp (disch := simp)
    · simp
  · dsimp only
    refine tame_bind (by simp) fun _ => ?_
    refine tame_bind (by simp) fun _ => ?_
    refine tame_bind (by simp) fun _ => ?_
    split
    · simp (disch := simp)
    · simp

@[simp] theorem mild_flushEvery {s t : State} (h : Mild p s t) : Mild p s (State.flushEvery t) := h.trans (by simp [State.flushEvery])

@[simp] theorem tame_deliverRows : Tame p (deliverRows ) := by
  unfold deliverRows
  refine tame_forM (fun _ => ?_) _
  refine tame_bind (by simp) fun _ => ?_
  dsimp only
  refine tame_bind (by simp) fun _ => ?_
  refine tame_bind (by simp) fun _ => ?_
  refine tame_forM (fun _ => ?_) _
  simp

@[simp] theorem tame_tlbinvOp (a0 : RabT2) : Tame p (tlbinvOp a0) := by
  unfold tlbinvOp
  refine tame_bind (by simp) fun _ => ?_
  refine tame_bind (by simp) fun _ => ?_
  refine tame_bind (by simp) fun _ => ?_
  refine tame_bind (by simp) fun _ => ?_
  refine tame_bind (by simp) fun _ => ?_
  dsimp only
  refine tame_get_bind.2 fun _ => ?_
  split
  · refine tameAt_of_tame ?_ _
    refine tame_bind (by simp) fun _ => ?_
    refine tame_get_bind.2 fun _ => ?_
    refine tameAt_of_tame ?_ _
    refine tame_bind ?_ fun _ => ?_
    · refine tame_forM (fun _ => ?_) _
      simp
    · refine tame_bind ?_ fun _ => ?_
      · simp (disch := simp)
      · simp
  · refine tameAt_of_tame ?_ _
    refine tame_get_bind.2 fun _ => ?_
    refine tameAt_of_tame ?_ _
    refine tame_bind ?_ fun _ => ?_
    · refine tame_forM (fun _ => ?_) _
      simp
    · refine tame_bind ?_ fun _ => ?_
      · simp (disch := simp)
      · simp

@[simp] theorem tame_settleOp (a0 : Bool) (a1 : R3T2) : Tame p (settleOp a0 a1) := by
  unfold settleOp
  refine tame_bind (by simp) fun _ => ?_
  refine tame_bind (by simp) fun _ => ?_
  simp (disch := simp)

@[simp] theorem tame_settleOne (a0 : Bool) (a1 : R3T2) : Tame p (settleOne a0 a1) := by
  unfold settleOne
  refine tame_bind (by simp) fun _ => ?_
  refine tame_bind (by simp) fun _ => ?_
  refine tame_bind (by simp) fun _ => ?_
  refine tame_bind (by simp) fun _ => ?_
  refine tame_bind (by simp) fun _ => ?_
  split <;> simp

@[simp] theorem tame_gpoolOp (a0 : R3T2) : Tame p (gpoolOp a0) := by
  unfold gpoolOp
  refine tame_bind (by simp) fun _ => ?_
  refine tame_bind (by simp) fun _ => ?_
  simp (disch := simp)

@[simp] theorem tame_verstOp (x : VerF) : Tame p (verstOp x) := by
  unfold verstOp
  refine tame_bind (by simp) fun c => tame_bind (by simp) fun a => tame_bind (by simp) fun b => tame_bind (by simp) fun d => ?_
  refine tame_ite (by simp) (tame_bind (by simp) fun y => tame_bind (by simp) fun q => tame_bind (by simp) fun _ => ?_)
  refine tame_bind tame_get fun s => ?_
  split
  · simp
  · refine tame_get_bind.2 fun s => ?_
    split
    · simp
    next hw => exact tameAt_set (mild_writeVersion hw)

@[simp] theorem tame_verldOp (a0 : Bool) (a1 : VerF) : Tame p (verldOp a0 a1) := by
  unfold verldOp
  refine tame_bind (by simp) fun _ => ?_
  refine tame_bind (by simp) fun _ => ?_
  dsimp only
  refine tame_bind (by simp) fun _ => ?_
  refine tame_bind (by simp) fun _ => ?_
  split
  · simp
  · refine tame_bind (by simp) fun _ => ?_
    refine tame_bind (by simp) fun _ => ?_
    refine tame_get_bind.2 fun _ => ?_
    split
    · refine tameAt_of_tame ?_ _
      refine tame_bind (by simp) fun _ => ?_
      refine tame_bind (by simp) fun _ => ?_
      refine tame_bind (by simp) fun _ => ?_
      simp (disch := simp)
    · refine tameAt_of_tame ?_ _
      refine tame_get_bind.2 fun _ => ?_
      split
      · simp
      · simp
      · simp (disch := simp)

@[simp] theorem tame_regionOp (a0 : Bool) (a1 : R3T4) : Tame p (regionOp a0 a1) := by
  unfold regionOp
  refine tame_bind (by simp) fun _ => ?_
  refine tame_bind (by simp) fun _ => ?_
  dsimp only
  refine tame_bind (by simp) fun _ => ?_
  refine tame_bind (by simp) fun _ => ?_
  refine tame_bind (by simp) fun _ => ?_
  refine tame_bind (by simp) fun _ => ?_
  refine tame_get_bind.2 fun _ => ?_
  split <;> simp

@[simp] theorem tame_checkRange (a0 : Ctx) (a1 : Acc) (a2 : RowMap) (a3 : ℕ) (a4 : ℕ) : Tame p (checkRange a0 a1 a2 a3 a4) := by
  unfold checkRange
  refine tame_bind (by simp) fun _ => ?_
  refine tame_bind ?_ fun _ => ?_
  · refine tame_forM (fun _ => ?_) _
    simp
  · simp

@[simp] theorem tame_rangePlace (g : Range) (x : Ctx) (acc : Acc) (va : Nat) : Tame p (g.place x acc va) := by
  unfold Range.place
  refine tame_bind (by simp) fun q => ?_
  split <;> simp

@[simp] theorem tame_read (a0 : Range) (a1 : Ctx) (a2 : Acc) (a3 : ℕ) (a4 : ℕ) : Tame p (Range.read a0 a1 a2 a3 a4) := by simp [Range.read]

@[simp] theorem tame_write (a0 : Range) (a1 : Ctx) (a2 : ℕ) (a3 : List Byte) : Tame p (Range.write a0 a1 a2 a3) := by
  unfold Range.write
  refine tame_forM (fun _ => ?_) _
  refine tame_bind (by simp) fun _ => ?_
  simp (disch := simp)

@[simp] theorem tame_readMem (a0 : Ctx) (a1 : ℕ) (a2 : ℕ) : Tame p (readMem a0 a1 a2) := by simp [readMem]

@[simp] theorem tame_settleStores : Tame p (settleStores ) := by
  unfold settleStores
  refine tame_bind (by simp) fun _ => ?_
  refine tame_bind (by simp) fun _ => ?_
  refine tame_bind (by simp) fun _ => ?_
  split
  · simp
  · refine tame_bind (by simp) fun _ => ?_
    simp (disch := simp)

@[simp] theorem tame_saveImage (a0 : Ctx) (a1 : Range) (a2 : ℕ) (a3 : List VEntry) (a4 : Word) : Tame p (saveImage a0 a1 a2 a3 a4) := by simp (disch := simp) [saveImage]

@[simp] theorem coreOk_holdImage {k l : Core} (h : CoreOk p k l) (a1 : ℕ × List VEntry) : CoreOk p k (Core.holdImage l a1) := h.trans (by simp [Core.holdImage])

@[simp] theorem tame_vqsave (a0 : Ctx) (a1 : ℕ) : Tame p (vqsave a0 a1) := by
  unfold vqsave
  split
  · simp
  · refine tame_bind (by simp) fun _ => ?_
    refine tame_bind (by simp) fun _ => ?_
    refine tame_bind (by simp) fun _ => ?_
    split
    · simp
    · refine tame_bind ?_ fun _ => ?_
      · simp (disch := simp)
      · simp

@[simp] theorem tame_vqrest (a0 : Ctx) (a1 : ℕ) : Tame p (vqrest a0 a1) := by
  unfold vqrest
  split
  · simp
  · refine tame_bind (by simp) fun _ => ?_
    refine tame_bind (by simp) fun _ => ?_
    refine tame_bind (by simp) fun _ => ?_
    refine tame_bind (by simp) fun _ => ?_
    split
    · simp
    · refine tame_get_bind.2 fun _ => ?_
      split
      · simp
      · refine tameAt_of_tame ?_ _
        refine tame_bind ?_ fun _ => ?_
        · refine tame_modMe fun _ => ?_
          simp (disch := simp)
        · simp

@[simp] theorem tame_saveMxe (a0 : Ctx) (a1 : Range) (a2 : ℕ) : Tame p (saveMxe a0 a1 a2) := by
  unfold saveMxe
  refine tame_bind (by simp) fun _ => ?_
  refine tame_bind (by simp) fun _ => ?_
  refine tame_bind ?_ fun _ => ?_
  · refine tame_forM (fun _ => ?_) _
    refine tame_forM (fun _ => ?_) _
    simp
  · refine tame_forM (fun _ => ?_) _
    refine tame_forM (fun _ => ?_) _
    simp

@[simp] theorem tame_saveBulk (a0 : Ctx) (a1 : Range) (a2 : ℕ) : Tame p (saveBulk a0 a1 a2) := by
  unfold saveBulk
  refine tame_get_bind.2 fun _ => ?_
  dsimp only
  refine tameAt_of_tame ?_ _
  refine tame_bind ?_ fun _ => ?_
  · refine tame_forM (fun _ => ?_) _
    refine tame_forM (fun _ => ?_) _
    simp
  · refine tame_bind (by simp) fun _ => ?_
    refine tame_bind ?_ fun _ => ?_
    · refine tame_forM (fun _ => ?_) _
      refine tame_forM (fun _ => ?_) _
      simp
    · simp

@[simp] theorem coreOk_unload {k l : Core} (h : CoreOk p k l) : CoreOk p k (Core.unload l) := h.trans (by simp [Core.unload])

@[simp] theorem mild_park {s t : State} (h : Mild p s t) (a1 : ℕ) (a2 : Parked) : Mild p s (State.park t a1 a2) := h.trans (by simp [State.park])

@[simp] theorem tame_ctxsaveLoaded (x : Ctx) (g gm : Range) (a : Nat) (old : List Byte) (area : Word) (used : Bool) :
    Tame p (ctxsaveLoaded x g gm a old area used) := by
  have hh (k : Core) : CoreOk p k k.dropStopped := coreOk_dropStopped (coreOk_refl k)
  have hend (c : Nat) (b : List Byte) (r : Parked) : Tame p (do
      modify fun s => s.releaseMxe c
      g.write x a b
      let t ← readIn x (← g.place x .write a) a
      modify fun s => s.park t.loc r
      modMe Core.unload) := by
    refine tame_bind (by simp) fun _ => tame_bind (by simp) fun _ => tame_bind (by simp) fun _ => tame_bind (by simp) fun _ => ?_
    exact tame_bind (by simp) fun _ => tame_modMe fun k => by simp
  have hmx (c : Nat) (b : List Byte) (r : Parked) : Tame p (do
      saveBulk x g a
      if used then saveMxe x gm area.toNat else pure ()
      modify fun s => s.releaseMxe c
      g.write x a b
      let t ← readIn x (← g.place x .write a) a
      modify fun s => s.park t.loc r
      modMe Core.unload) := tame_bind (by simp) fun _ => tame_ite (tame_bind (by simp) fun _ => hend _ _ _) (hend _ _ _)
  unfold ctxsaveLoaded
  refine tame_bind (by simp) fun c => tame_bind (tame_modMe fun k => ?_) fun _ => tame_bind tame_get fun s => ?_
  · exact ⟨(hh k).ia, (hh k).line, (hh k).vregs, (hh k).slices⟩
  refine tame_bind (by simp) fun _ => tame_bind (by simp) fun _ => ?_
  exact tame_ite (tame_bind (by simp) fun _ => hmx _ _ _) (hmx _ _ _)

@[simp] theorem tame_ctxsave (a0 : Ctx) (a1 : ℕ) : Tame p (ctxsave a0 a1) := by
  unfold ctxsave
  refine tame_bind (by simp) fun _ => ?_
  split
  · simp
  · refine tame_bind (by simp) fun _ => ?_
    refine tame_bind (by simp) fun _ => ?_
    refine tame_bind ?_ fun _ => ?_
    · simp (disch := simp)
    · refine tame_bind (by simp) fun _ => ?_
      refine tame_bind (by simp) fun _ => ?_
      refine tame_bind (by simp) fun _ => ?_
      refine tame_bind (by simp) fun _ => ?_
      split
      · simp
      · dsimp only
        split
        · refine tame_bind (by simp) fun _ => ?_
          simp (disch := simp)
        · refine tame_bind (by simp) fun _ => ?_
          simp (disch := simp)

@[simp] theorem tame_restoreMxe (a0 : Ctx) (a1 : Range) (a2 : ℕ) (a3 : ℕ) (a4 : ℕ) (a5 : Bool) (a6 : Bool) : Tame p (restoreMxe a0 a1 a2 a3 a4 a5 a6) := by
  unfold restoreMxe
  refine tame_bind (by simp) fun _ => ?_
  refine tame_bind ?_ fun _ => ?_
  · refine tame_forM (fun _ => ?_) _
    refine tame_forM (fun _ => ?_) _
    simp (disch := simp)
  · split
    · dsimp only
      refine tame_forM (fun _ => ?_) _
      refine tame_forM (fun _ => ?_) _
      refine tame_bind (by simp) fun _ => ?_
      refine tame_bind (by simp) fun _ => ?_
      split
      · simp (disch := simp)
      · simp
    · dsimp only
      refine tame_bind (by simp) fun _ => ?_
      refine tame_forM (fun _ => ?_) _
      refine tame_forM (fun _ => ?_) _
      refine tame_bind (by simp) fun _ => ?_
      refine tame_bind (by simp) fun _ => ?_
      split
      · simp (disch := simp)
      · simp

@[simp] theorem tame_restoreRegs (a0 : Ctx) (a1 : Range) (a2 : ℕ) (a3 : Bool) (a4 : ℕ) (a5 : ℕ → ℕ) : Tame p (restoreRegs a0 a1 a2 a3 a4 a5) := by
  unfold restoreRegs
  refine tame_bind (by simp) fun _ => ?_
  refine tame_bind ?_ fun _ => ?_
  · refine tame_forM (fun _ => ?_) _
    refine tame_forM (fun _ => ?_) _
    split
    refine tame_bind (by simp) fun _ => ?_
    simp (disch := simp)
  · simp

@[simp] theorem coreOk_loadStreams {k l : Core} (h : CoreOk p k l) (a1 : List Byte) (a2 : Vector (List (ℕ × Clock)) 4) : CoreOk p k (Core.loadStreams l a1 a2) := h.trans (by simp [Core.loadStreams])

@[simp] theorem coreOk_loadFields {k l : Core} (h : CoreOk p k l) (a1 : ℕ) (a2 : List Byte) (a3 : List VEntry) : CoreOk p k (Core.loadFields l a1 a2 a3) := h.trans (by simp [Core.loadFields])

@[simp] theorem tame_restoreBytes (a0 : Ctx) (a1 : Range) (a2 : ℕ) : Tame p (restoreBytes a0 a1 a2) := by
  unfold restoreBytes
  refine tame_bind (by simp) fun _ => ?_
  refine tame_bind (by simp) fun _ => ?_
  refine tame_bind (by simp) fun _ => ?_
  refine tame_bind ?_ fun _ => ?_
  · refine tame_forM (fun _ => ?_) _
    refine tame_forM (fun _ => ?_) _
    simp (disch := simp)
  · refine tame_bind (by simp) fun _ => ?_
    simp (disch := simp)

@[simp] theorem mild_takePosts {s t : State} (h : Mild p s t) (a1 : ℕ) : Mild p s (State.takePosts t a1) := h.trans (by simp (disch := simp) [State.takePosts])

theorem tameAt_ctxrestLoad {s : State} {m : Mxe} (hm : RowsOk (s.mxe (clusterOf s.cur)).rows m.rows) (x : Ctx) (g gm : Range) (hdr : Place)
    (a : Nat) (tcb : List Byte) (es : Nat × List VEntry) : TameAt p s (ctxrestLoad x g gm hdr a tcb es m) := by
  have hl (k : Core) (cycle : Nat) (c : Vector (List (Nat × Clock)) 4) :
      CoreOk p k (((k.loadFields cycle tcb es.2).holdImage es).loadStreams tcb c) :=
    coreOk_loadStreams (coreOk_holdImage (coreOk_loadFields (coreOk_refl k) ..) es) tcb c
  unfold ctxrestLoad
  refine tameAt_bind (mild_updMxe_of (mild_refl s) hm) fun _ t ht => ht.trans (tame_bind (by simp) (fun _ => ?_) t)
  refine tame_bind (by simp) fun _ => tame_bind (by simp) fun ks => tame_bind tame_get fun u => ?_
  refine tame_bind (by simp) fun _ => tame_bind (by simp) fun w => tame_bind tame_get fun v => ?_
  refine tame_bind (tame_modMe fun k => ?_) fun _ => tame_bind (by simp) fun _ => tame_bind (by simp) fun c => ?_
  · have hk := hl k u.cycle (v.parkedAt w.loc).counted
    generalize ((k.loadFields u.cycle tcb es.2).holdImage es).loadStreams tcb (v.parkedAt w.loc).counted = k' at hk ⊢
    exact ⟨hk.ia, hk.line, hk.vregs, hk.slices⟩
  refine tame_bind (tame_modify fun u => ?_) fun _ => tame_bind (by simp) fun _ => tame_modify fun u => mild_perform (mild_refl u) ..
  have hu := mild_takePosts (mild_refl (p := p) u) c
  exact ⟨hu.cores, hu.dies, hu.mxes, hu.crusts, hu.mem, hu.cur⟩

theorem rowsOk_takeMxe {m m' : Mxe} {q rows own : Nat} (h : takeMxe m q rows own = some m') : RowsOk m.rows m'.rows := by
  unfold takeMxe at h
  dsimp only at h
  split at h
  · cases h
  · obtain rfl := Option.some.inj h
    refine rowsOk_foldl_mxe (rowsOk_ite_mxe ?_ ?_) (fun n i => by simp) _
    · exact rowsOk_refl _
    · exact rowsOk_refl _

theorem tameAt_allOrNothing {α : Type} {m : M α} {s : State} (h : TameAt p s m) : TameAt p s (allOrNothing m) := by
  unfold allOrNothing
  refine tameAt_get_bind.2 (tameAt_tryCatch h fun r t ht => ?_)
  exact ⟨coresOk_refl _, rfl, mxesOk_refl _, rfl, memOk_refl _, rfl⟩

@[simp] theorem tame_ctxrest (x : Ctx) (a : Nat) : Tame p (ctxrest x a) := by
  intro s
  refine keepsAt_bind mild_frame (tame_myNumber s) fun c t hc => ?_
  obtain ⟨rfl, rfl⟩ : s.cur = c ∧ s = t := by simpa using hc
  refine tameAt_ite (tame_raise _ s) (tameAt_bind (by simp) fun _ t ht => ?_)
  refine mild_bind ht (by simp) fun g t ht => mild_bind ht (by simp) fun hdr t ht => mild_bind ht (by simp) fun tcb t ht => ?_
  refine mild_bind ht (by simp) fun image t ht => mild_bind ht (by simp) fun g t ht => ?_
  have hload (t : State) (ht : Mild p s t) (g gm : Range) (es : Nat × List VEntry) (m : Mxe) (rows own : Nat)
      (hm : takeMxe (t.mxe (clusterOf s.cur)) (inCluster4 s.cur) rows own = some m) :
      TameAt p t (do allOrNothing (ctxrestLoad x g gm hdr a tcb es m); return (0 : Word)) := by
    refine tameAt_bind (tameAt_allOrNothing (tameAt_ctxrestLoad ?_ x g gm hdr a tcb es)) fun _ u hu => hu
    rw [ht.cur]
    exact rowsOk_takeMxe hm
  dsimp only
  split
  · simpa using ht
  · refine mild_bind ht (by simp) fun gm t ht => ht.trans (tameAt_get_bind.2 (tameAt_ite (by simp) ?_))
    split
    · refine tameAt_ite (by simp) ?_
      split
      · simp
      next hm => exact hload t ht _ _ _ _ _ _ hm
    · simp

@[simp] theorem tame_contextOp (a0 : Ctx → ℕ → M Word) (h0 : ∀ x y, Tame p (a0 x y)) (a1 : R2T2) : Tame p (contextOp a0 a1) := by
  unfold contextOp
  refine tame_bind (by simp) fun _ => ?_
  refine tame_bind (by simp) fun _ => ?_
  simp [*]

@[simp] theorem tame_readRecord (a0 : ℕ) (a1 : M Unit) (h1 : Tame p a1) : Tame p (readRecord a0 a1) := by
  unfold readRecord
  split
  · simp
  · refine tame_get_bind.2 fun _ => ?_
    refine tameAt_of_tame ?_ _
    refine tame_bind (by simp) fun _ => ?_
    simp [*]

@[simp] theorem tame_spawnOp {push : State → Rec → Option State} (hp : ∀ s r t, push s r = some t → Mild p s t) (x : R2T2) :
    Tame p (spawnOp push x) := by
  unfold spawnOp
  refine tame_bind (by simp) fun a => tame_bind (by simp) fun bs => tame_get_bind.2 fun s => ?_
  refine tameAt_ite (by simp) (tameAt_ite (by simp) ?_)
  split
  · simp
  next ht => exact tameAt_set_bind (mild_countUp (hp _ _ _ ht) _) (by simp)

@[simp] theorem tame_readFrame (a0 : Word) : Tame p (readFrame a0) := by
  unfold readFrame
  split
  · simp
  · simp (disch := simp)

@[simp] theorem tame_spawnlOp (a0 : R2T2) : Tame p (spawnlOp a0) := by
  unfold spawnlOp
  refine tame_bind (by simp) fun _ => ?_
  refine tame_bind (by simp) fun _ => ?_
  refine tame_get_bind.2 fun _ => ?_
  split
  · simp
  · dsimp only
    split
    · simp
    · refine tameAt_of_tame ?_ _
      refine tame_bind (by simp) fun _ => ?_
      refine tame_get_bind.2 fun _ => ?_
      split
      · simp
      · split
        · simp
        · split
          · simp
          · simp (disch := simp)

@[simp] theorem tame_endWaits : Tame p (endWaits ) := by
  unfold endWaits
  refine tame_bind (by simp) fun _ => ?_
  refine tame_bind (by simp) fun _ => ?_
  refine tame_bind (by simp) fun _ => ?_
  simp (disch := simp)

@[simp] theorem tame_checkJb : Tame p (checkJb ) := by
  unfold checkJb
  refine tame_get_bind.2 fun _ => ?_
  split
  · simp
  · dsimp only
    split
    · simp
    · simp (disch := simp)

theorem mild_getD_pushInject {s t : State} (h : Mild p s t) (die part : Nat) (r : Rec) : Mild p s ((t.pushInject die part r).getD t) := by
  cases hp : t.pushInject die part r with
  | none => exact h
  | some u => exact h.trans (mild_pushInject hp)

@[simp] theorem tame_yieldTo (bs : List Byte) (a : Word) : Tame False (yieldTo bs a) := by
  unfold yieldTo
  refine tame_bind (by simp) fun c => tame_bind tame_get fun s => tame_ite (by simp) ?_
  have hp (r : Rec) : Tame False (modify fun s => (s.pushInject (dieOf c) 1 r).getD s : M Unit) :=
    tame_modify fun s => mild_getD_pushInject (mild_refl s) ..
  dsimp only
  split
  · exact tame_bind (by simp) fun _ => tame_bind (hp _) fun _ => tame_goIdle
  · exact tame_bind (hp _) fun _ => tame_bind (by simp) fun _ => by simp

@[simp] theorem mild_releaseLoops {s t : State} (h : Mild p s t) (a1 : ℕ) : Mild p s (State.releaseLoops t a1) := h.trans (by simp (disch := simp) [State.releaseLoops])

@[simp] theorem mild_cancelLevel {s t : State} (h : Mild p s t) (a1 : ℕ) (a2 : ℕ) : Mild p s (State.cancelLevel t a1 a2) := h.trans (by simp [State.cancelLevel])

@[simp] theorem mild_acquireFlags {s t : State} (h : Mild p s t) (a1 : ℕ) (a2 : ℕ) : Mild p s (State.acquireFlags t a1 a2) := h.trans (by simp [State.acquireFlags])

@[simp] theorem tame_enterNext : Tame False enterNext := by
  have hg (l : Line) : Tame False (modMe fun k => k.goAt k.ia (some l)) := tame_modMe fun k => coreOk_goAt (coreOk_refl k) ..
  have hf (k : Core) (l : Line) : Tame False (if wellFormedIa k.ia && decide (iaSlot k.ia ≤ lineNh l) then return some l
      else if k.sstat.mode then raise (illegalTarget k.ia) else do
        failTask 3
        return none) := tame_ite (by simp) (tame_ite (by simp) (tame_bind (tame_failTask 3) fun _ => tame_pure _))
  unfold enterNext
  refine tame_bind tame_getMe fun k => ?_
  dsimp only
  split
  · exact hf k _
  · exact tame_bind (by simp) fun l => tame_bind (hg l) fun _ => hf k l

@[simp] theorem tame_fetchNext : Tame False (fetchNext ) := by simp (disch := simp) [fetchNext]

@[simp] theorem tame_turn : Tame False (turn ) := by
  unfold turn
  refine tame_bind (by simp) fun _ => ?_
  refine tame_get_bind.2 fun _ => ?_
  split
  · dsimp only
    split
    · simp
    · refine tameAt_of_tame ?_ _
      simp (disch := simp)
    · split
      · simp
      · split
        · simp
        · split
          · simp
          · refine tameAt_of_tame ?_ _
            refine tame_bind (by simp) fun _ => ?_
            refine tame_bind (by simp) fun _ => ?_
            split <;> simp
  · dsimp only
    split
    · simp
    · refine tameAt_of_tame ?_ _
      simp (disch := simp)
    · split
      · simp
      · split
        · simp
        · split
          · simp
          · refine tameAt_of_tame ?_ _
            refine tame_bind (by simp) fun _ => ?_
            split <;> simp

@[simp] theorem tame_decodeNext (a0 : Line) : Tame False (decodeNext a0) := by
  unfold decodeNext
  refine tame_bind (by simp) fun _ => ?_
  split
  · simp
  · split <;> simp

@[simp] theorem tame_nextInstr : Tame False (nextInstr ) := by
  unfold nextInstr
  refine tame_bind (by simp) fun _ => ?_
  split <;> simp

@[simp] theorem mild_tick {s t : State} (h : Mild p s t) : Mild p s (State.tick t) := h.trans (by simp [State.tick])

@[simp] theorem tame_vectorMove (a0 : ℕ) : Tame p (vectorMove a0) := by simp [vectorMove]

@[simp] theorem tame_runPart (a0 : M Unit) (h0 : Tame p a0) (a1 : ℕ) (a2 : ℕ) : Tame p (runPart a0 a1 a2) := by
  unfold runPart
  refine tame_tryCatch ?_ fun _ => ?_
  · simp [*]
  · split <;> simp

@[simp] theorem tame_vectorRows (a0 : ℕ) (a1 : ℕ) : Tame p (vectorRows a0 a1) := by
  unfold vectorRows
  refine tame_onCore ?_ _
  refine tame_bind (by simp) fun _ => ?_
  split
  · simp
  · split
    · simp
    · split
      · simp
      · simp (disch := simp)
      · simp

@[simp] theorem tame_pageMove (a0 : ℕ) : Tame False (pageMove a0) := by
  unfold pageMove
  refine tame_onCore ?_ _
  refine tame_bind (by simp) fun _ => ?_
  split <;> simp

@[simp] theorem mild_failCounter {s t : State} (h : Mild p s t) (a1 : ℕ) : Mild p s (State.failCounter t a1) := h.trans (by simp [State.failCounter])







@[simp] theorem tame_turnLoad : Tame False (turnLoad ) := by
  unfold turnLoad
  refine tame_bind (by simp) fun _ => ?_
  split <;> simp

/-- Looking at the next load leaves the state as it was. -/
theorem run_nextLoad_state (s : State) : (runM nextLoad s).2 = s := by
  have hr (m : M (Option (LoadForm × Bool))) : (runM (do
      let r ← tryCatch m fun _ => return none
      set s
      return r) s).2 = s := by
    rw [run_bind, run_tryCatch]
    rcases runM m s with ⟨_ | _, t⟩ <;> rfl
  unfold nextLoad
  rw [run_bind, run_get]
  exact hr _

@[simp] theorem tame_nextLoad : Tame p nextLoad := fun s => by
  unfold KeepsAt
  rw [run_nextLoad_state]
  exact mild_refl s

@[simp] theorem tame_takeInterrupt (a0 : Trap) : Tame False (takeInterrupt a0) := by
  unfold takeInterrupt
  refine tame_bind (by simp) fun _ => ?_
  split
  · simp (disch := simp)
  · simp

@[simp] theorem mild_requestPreempt {s t : State} (h : Mild p s t) (a1 : ℕ) (a2 : Bool) : Mild p s (State.requestPreempt t a1 a2) := h.trans (by simp (disch := simp) [State.requestPreempt])

@[simp] theorem mild_fabricTimeout {s t : State} (h : Mild p s t) (a1 : ℕ) : Mild p s (State.fabricTimeout t a1) := by
  refine h.trans ?_
  unfold State.fabricTimeout
  split <;> simp

@[simp] theorem mild_updStatus {s t : State} (h : Mild p s t) (a1 : ℕ) (a2 : ℕ → ℕ) : Mild p s (State.updStatus t a1 a2) := h.trans (by simp [State.updStatus])

@[simp] theorem mild_holdQueue {s t : State} (h : Mild p s t) (a1 : ℕ) : Mild p s (State.holdQueue t a1) := h.trans (by simp [State.holdQueue])

@[simp] theorem mild_consume {s t : State} (h : Mild p s t) (a1 : ℕ) : Mild p s (State.consume t a1) := h.trans (by simp (disch := simp) [State.consume])

@[simp] theorem tame_rejectHead (a0 : QueueHead) : Tame p (rejectHead a0) := by
  unfold rejectHead
  refine tame_get_bind.2 fun _ => ?_
  refine tameAt_of_tame ?_ _
  refine tame_bind (by simp) fun _ => ?_
  simp (disch := simp)

@[simp] theorem tame_cancelHead (a0 : QueueHead) : Tame p (cancelHead a0) := by
  unfold cancelHead
  refine tame_get_bind.2 fun _ => ?_
  split
  · dsimp only
    refine tameAt_of_tame ?_ _
    simp (disch := simp)
  · dsimp only
    refine tameAt_of_tame ?_ _
    refine tame_bind (by simp) fun _ => ?_
    refine tame_bind (by simp) fun _ => ?_
    split
    · simp (disch := simp)
    · simp

@[simp] theorem mild_copyBytes {s t : State} (h : Mild p s t) (a1 : ℕ) (a2 : ℕ) (a3 : ℕ) : Mild p s (State.copyBytes t a1 a2 a3) := h.trans (by simp [State.copyBytes])

@[simp] theorem mild_restoreStream {s t : State} (h : Mild p s t) (a1 : ℕ) (a2 : ℕ) : Mild p s (State.restoreStream t a1 a2) := by
  refine h.trans ?_
  unfold State.restoreStream
  refine mild_ite ?_ ?_
  · simp
  · split
    dsimp only
    refine mild_putWord ?_ ..
    simp (disch := simp)

@[simp] theorem mild_openLaunch {s t : State} (h : Mild p s t) (a1 : StartRec) : Mild p s (State.openLaunch t a1) := by
  refine h.trans ?_
  unfold State.openLaunch
  split
  · dsimp only
    refine mild_putWord ?_ ..
    refine mild_putWord ?_ ..
    refine mild_putWord ?_ ..
    simp (disch := simp)
  · dsimp only
    refine mild_putWord ?_ ..
    refine mild_putWord ?_ ..
    refine mild_putWord ?_ ..
    simp (disch := simp)

@[simp] theorem coreOk_granted {k l : Core} (h : CoreOk p k l) (a1 : Option LaunchCtx) : CoreOk p k (Core.granted l a1) := by
  refine h.trans ?_
  unfold Core.granted
  split <;> simp

@[simp] theorem mild_grant {s t : State} (h : Mild p s t) (q : QueueHead) (die : Nat) : Mild p s (t.grant q die) := by
  have hs := mild_restoreStream (mild_foldl (f := fun s c => s.updCore c fun k => k.granted (t.launchCtx q.ctx)) (mild_openLaunch h q.rec_)
    (by simp) ((t.freeCores die).take q.rec_.most)) die q.rec_.stream
  unfold State.grant
  dsimp only
  refine mild_consume (mild_getD_pushInject ?_ ..) _
  exact ⟨hs.cores, hs.dies, hs.mxes, hs.crusts, hs.mem, hs.cur⟩

@[simp] theorem mild_reclaimFor {s t : State} (h : Mild p s t) (a1 : StartRec) : Mild p s (State.reclaimFor t a1) := h.trans (by simp (disch := simp) [State.reclaimFor])

@[simp] theorem mild_noteQueue {s t : State} (h : Mild p s t) (a1 : ℕ) : Mild p s (State.noteQueue t a1) := h.trans (by simp [State.noteQueue])

@[simp] theorem mild_served {s t : State} (h : Mild p s t) (a1 : QueueHead) : Mild p s (State.served t a1) := h.trans (by simp [State.served])

@[simp] theorem tame_takeHead (a0 : QueueHead) : Tame p (takeHead a0) := by
  unfold takeHead
  refine tame_bind (by simp) fun _ => ?_
  refine tame_get_bind.2 fun _ => ?_
  split
  · simp
  · split
    · simp
    · split <;> simp

@[simp] theorem tame_serveQueues : Tame p (serveQueues ) := by
  unfold serveQueues
  refine tame_get_bind.2 fun _ => ?_
  split
  · simp
  · refine tameAt_of_tame ?_ _
    refine tame_bind ?_ fun _ => ?_
    · refine tame_modify fun _ => ?_
      simp (disch := simp)
    · refine tame_get_bind.2 fun _ => ?_
      dsimp only
      refine tameAt_of_tame ?_ _
      refine tame_bind ?_ fun _ => ?_
      · refine tame_modify fun _ => ?_
        simp (disch := simp)
      · split <;> simp

@[simp] theorem mild_ageQueue {s t : State} (h : Mild p s t) (a1 : ℕ) : Mild p s (State.ageQueue t a1) := by
  refine h.trans ?_
  unfold State.ageQueue
  split
  · simp
  · refine mild_ite ?_ ?_
    · simp
    · split <;> simp

@[simp] theorem mild_evictStream {s t : State} (h : Mild p s t) (a1 : ℕ) (a2 : ℕ) : Mild p s (State.evictStream t a1 a2) := h.trans (by simp (disch := simp) [State.evictStream])

end Sys2Proof.Machine
end

section
/-! PROOF. The frame of the whole machine for the agents outside the cores, and for every instruction and event. -/
namespace Sys2Proof.Machine

open Sys2Proof

variable {p : Prop}

@[simp] theorem tame_xredDeliver (a0 : Round) (a1 : ℕ) (a2 : ℕ) (a3 : ℕ) (a4 : XredF) (a5 : VEntry) : Tame p (xredDeliver a0 a1 a2 a3 a4 a5) := by
  unfold xredDeliver
  refine tame_bind (by simp) fun _ => ?_
  simp (disch := simp)

@[simp] theorem mild_dropRound {s t : State} (h : Mild p s t) (a1 : Round) : Mild p s (State.dropRound t a1) := h.trans (by simp [State.dropRound])

@[simp] theorem mild_roundDone {s t : State} (h : Mild p s t) (a1 : Round) : Mild p s (State.roundDone t a1) := h.trans (by simp [State.roundDone])

@[simp] theorem tame_completeRound (a0 : ℕ) : Tame p (completeRound a0) := by
  unfold completeRound
  refine tame_get_bind.2 fun _ => ?_
  split
  · simp
  · split
    · simp
    · split
      · refine tameAt_of_tame ?_ _
        refine tame_bind (by simp) fun _ => ?_
        refine tame_onCore ?_ _
        refine tame_bind (by simp) fun _ => ?_
        split
        · simp
        · simp (disch := simp)
      · simp (disch := simp)

@[simp] theorem tame_timeoutRound (a0 : ℕ) : Tame p (timeoutRound a0) := by
  unfold timeoutRound
  refine tame_get_bind.2 fun _ => ?_
  split
  · simp
  · split
    · dsimp only
      split
      · simp
      · refine tameAt_of_tame ?_ _
        simp (disch := simp)
    · split
      · simp
      · simp (disch := simp)

@[simp] theorem mild_note {s t : State} (h : Mild p s t) (a1 : HostNote) : Mild p s (State.note t a1) := h.trans (by simp [State.note])

@[simp] theorem mild_registerGroup {s t : State} (h : Mild p s t) (a1 : CollGroup) : Mild p s (State.registerGroup t a1) := h.trans (by simp [State.registerGroup])

@[simp] theorem mild_busWrite {s t : State} (h : Mild p s t) (a1 : Bool) (a2 : ℕ) (a3 : List Byte) : Mild p s (State.busWrite t a1 a2 a3) := by
  refine h.trans ?_
  unfold State.busWrite
  refine mild_ite ?_ ?_
  · simp
  · simp (disch := simp)

@[simp] theorem mild_busAccess {s t : State} (h : Mild p s t) (a1 : Bool) (a2 : BusAccess) : Mild p s (State.busAccess t a1 a2) := by
  refine h.trans ?_
  unfold State.busAccess
  refine mild_ite ?_ ?_
  · simp
  · split
    · simp
    · simp
    · refine mild_ite ?_ ?_
      · simp
      · dsimp only
        refine mild_note ?_ ..
        split <;> simp

@[simp] theorem mild_ptm {s t : State} (h : Mild p s t) (a1 : ℕ) : Mild p s (State.ptm t a1) := h.trans (by simp [State.ptm])

@[simp] theorem mild_loseLock {s t : State} (h : Mild p s t) : Mild p s (State.loseLock t) := h.trans (by simp [State.loseLock])





@[simp] theorem mild_configure {s t : State} (h : Mild p s t) (a1 : BringUp) : Mild p s (State.configure t a1) := h.trans (by simp [State.configure])



@[simp] theorem mild_loadKey {s t : State} (h : Mild p s t) (a1 : SealKey) : Mild p s (State.loadKey t a1) := h.trans (by simp [State.loadKey])



@[simp] theorem mild_attest {s t : State} (h : Mild p s t) (a1 : AttestReq) : Mild p s (State.attest t a1) := by
  refine h.trans ?_
  unfold State.attest
  refine mild_ite ?_ ?_
  · simp
  · split <;> simp

@[simp] theorem mild_setCap {s t : State} (h : Mild p s t) (a1 : ℕ) : Mild p s (State.setCap t a1) := h.trans (by simp [State.setCap])

@[simp] theorem mild_stepClock {s t : State} (h : Mild p s t) (a1 : PowerLoad) : Mild p s (State.stepClock t a1) := h.trans (by simp [State.stepClock])

@[simp] theorem mild_memoryError {s t : State} (h : Mild p s t) (a1 : DramErr) : Mild p s (State.memoryError t a1) := h.trans (by simp (disch := simp) [State.memoryError])



end Sys2Proof.Machine
end

section
/-! PROOF. Every step keeps the shape of the device: what each instruction and event leaves, what the movers of a step leave, and the wipes
of reset and power, which leave the reset state but for the memory of others. -/
namespace Sys2Proof.Machine

open Sys2Proof

variable {p : Prop}

/-! ## Instructions and events -/

/-- An outcome that is a next state follows the state it comes from. -/
def Gentle (o : Host.Outcome State Fault Refusal) (s : State) : Prop := ∀ t, o = .next t → Mild False s t

theorem gentle_after {m : M Unit} (h : Tame False m) (s : State) : Gentle (.next (s.after m)) s := by
  rintro t ⟨⟩
  exact mild_after h

theorem gentle_instr {rs : List Reg} {m : M Flow} (h : Tame False m) (s : State) : Gentle (instr rs m s) s :=
  gentle_after (tame_runInstr rs m h) s

theorem gentle_scalar {rs : List Reg} {m : M Unit} (h : Tame False m) (s : State) : Gentle (scalar rs m s) s :=
  gentle_instr (tame_bind h fun _ => tame_pure _) s

theorem gentle_event {m : M Unit} (h : Tame False m) (s : State) : Gentle (event m s) s := gentle_after h s

theorem gentle_execLih (x : LihF) (s : State) : Gentle (execLih x s) s :=
  gentle_scalar (by simp) s

theorem gentle_execFsqrt (x : FpuUF) (s : State) : Gentle (execFsqrt x s) s :=
  gentle_scalar (by simp) s

theorem gentle_execFcvtif (x : FpuUF) (s : State) : Gentle (execFcvtif x s) s :=
  gentle_scalar (by simp) s

theorem gentle_execFcvtfi (x : FpuUF) (s : State) : Gentle (execFcvtfi x s) s :=
  gentle_scalar (by simp) s

theorem gentle_execFclass (x : R2T2) (s : State) : Gentle (execFclass x s) s :=
  gentle_scalar (by simp) s

theorem gentle_execJal (x : JalF) (s : State) : Gentle (execJal x s) s := by
  refine gentle_instr ?_ s
  simp (disch := simp)

theorem gentle_execJalr (x : R2T2) (s : State) : Gentle (execJalr x s) s := by
  refine gentle_instr ?_ s
  refine tame_bind (by simp) fun _ => ?_
  simp (disch := simp)

theorem gentle_execAmofadd (x : AmoF) (s : State) : Gentle (execAmofadd x s) s :=
  gentle_scalar (by simp) s

theorem gentle_execAmocas (x : AmoCasF) (s : State) : Gentle (execAmocas x s) s :=
  gentle_scalar (by simp) s

theorem gentle_execFence (x : FenceF) (s : State) : Gentle (execFence x s) s := by
  refine gentle_scalar ?_ s
  simp (disch := simp)

theorem gentle_execFenceSv  (s : State) : Gentle (execFenceSv s) s :=
  gentle_scalar (by simp) s

theorem gentle_execFenceVs  (s : State) : Gentle (execFenceVs s) s := by
  refine gentle_scalar ?_ s
  refine tame_bind (by simp) fun _ => ?_
  simp (disch := simp)

theorem gentle_execCflush (x : CacheF) (s : State) : Gentle (execCflush x s) s := by
  refine gentle_scalar ?_ s
  refine tame_bind (by simp) fun _ => ?_
  split
  · simp
  · split
    · simp
    · refine tame_bind (by simp) fun _ => ?_
      simp (disch := simp)

theorem gentle_execCinv (x : CacheF) (s : State) : Gentle (execCinv x s) s := by
  refine gentle_scalar ?_ s
  refine tame_bind (by simp) fun _ => ?_
  split
  · simp
  · refine tame_bind (by simp) fun _ => ?_
    simp (disch := simp)

theorem gentle_execCpref (x : CacheF) (s : State) : Gentle (execCpref x s) s := by
  refine gentle_scalar ?_ s
  refine tame_bind (by simp) fun _ => ?_
  split
  · simp (disch := simp)
  · simp

theorem gentle_execCdrop (x : CacheF) (s : State) : Gentle (execCdrop x s) s := by
  refine gentle_scalar ?_ s
  refine tame_bind (by simp) fun _ => ?_
  refine tame_bind (by simp) fun _ => ?_
  split <;> simp

theorem gentle_execCsrr (x : CsrRF) (s : State) : Gentle (execCsrr x s) s :=
  gentle_scalar (by simp) s

theorem gentle_execTrap (x : CodeF) (s : State) : Gentle (execTrap x s) s :=
  gentle_instr (by simp) s

theorem gentle_execResume (x : R1T2) (s : State) : Gentle (execResume x s) s :=
  gentle_instr (by simp) s

theorem gentle_execWfi  (s : State) : Gentle (execWfi s) s :=
  gentle_scalar (by simp) s

theorem gentle_execCtxsave (x : R2T2) (s : State) : Gentle (execCtxsave x s) s :=
  gentle_scalar (by simp) s

theorem gentle_execCtxrest (x : R2T2) (s : State) : Gentle (execCtxrest x s) s :=
  gentle_scalar (by simp) s

theorem gentle_execVqsave (x : R2T2) (s : State) : Gentle (execVqsave x s) s :=
  gentle_scalar (by simp) s

theorem gentle_execVqrest (x : R2T2) (s : State) : Gentle (execVqrest x s) s :=
  gentle_scalar (by simp) s

theorem gentle_execJoin (x : R3T2) (s : State) : Gentle (execJoin x s) s := by
  refine gentle_scalar ?_ s
  refine tame_bind (by simp) fun _ => ?_
  dsimp only
  refine tame_bind (by simp) fun _ => ?_
  split
  · simp
  · refine tame_get_bind.2 fun _ => ?_
    refine tameAt_of_tame ?_ _
    refine tame_bind (by simp) fun _ => ?_
    simp (disch := simp)

theorem gentle_execEndTask  (s : State) : Gentle (execEndTask s) s := by
  refine gentle_instr ?_ s
  refine tame_bind (by simp) fun _ => ?_
  split
  · simp (disch := simp)
  · dsimp only
    refine tame_bind (by simp) fun _ => ?_
    simp (disch := simp)

theorem gentle_execLvcancel (x : R2T2) (s : State) : Gentle (execLvcancel x s) s := by
  refine gentle_scalar ?_ s
  refine tame_bind (by simp) fun _ => ?_
  refine tame_bind (by simp) fun _ => ?_
  split
  · simp
  · simp (disch := simp)

theorem gentle_execLvquery (x : R2T2) (s : State) : Gentle (execLvquery x s) s := by
  refine gentle_scalar ?_ s
  refine tame_bind (by simp) fun _ => ?_
  refine tame_bind (by simp) fun _ => ?_
  split
  · simp
  · refine tame_bind (by simp) fun _ => ?_
    refine tame_get_bind.2 fun _ => ?_
    dsimp only
    split
    · refine tameAt_of_tame ?_ _
      refine tame_bind (by simp) fun _ => ?_
      simp (disch := simp)
    · refine tameAt_of_tame ?_ _
      simp (disch := simp)

theorem gentle_execSetlen (x : LenF) (s : State) : Gentle (execSetlen x s) s := by
  refine gentle_scalar ?_ s
  refine tame_bind (by simp) fun _ => ?_
  refine tame_bind (by simp) fun _ => ?_
  simp (disch := simp)

theorem gentle_execSetlenf (x : R1T4) (s : State) : Gentle (execSetlenf x s) s := by
  refine gentle_scalar ?_ s
  refine tame_bind (by simp) fun _ => ?_
  simp (disch := simp)

theorem gentle_execCopyIssue (core : ℕ) (s : State) : Gentle (execCopyIssue core s) s := by
  refine gentle_event ?_ s
  refine tame_onCore ?_ _
  refine tame_bind (by simp) fun _ => ?_
  split <;> simp

theorem gentle_execGspec (x : R2T2) (s : State) : Gentle (execGspec x s) s := by
  refine gentle_scalar ?_ s
  refine tame_bind (by simp) fun _ => ?_
  refine tame_bind (by simp) fun _ => ?_
  simp (disch := simp)

theorem gentle_execGflatten (x : R3T2) (s : State) : Gentle (execGflatten x s) s := by
  refine gentle_scalar ?_ s
  refine tame_bind (by simp) fun _ => ?_
  refine tame_bind (by simp) fun _ => ?_
  refine tame_bind (by simp) fun _ => ?_
  simp (disch := simp)

theorem gentle_execGquery (x : R3T2) (s : State) : Gentle (execGquery x s) s := by
  refine gentle_scalar ?_ s
  refine tame_bind (by simp) fun _ => ?_
  simp (disch := simp)

theorem gentle_execVerq (x : R2T4) (s : State) : Gentle (execVerq x s) s := by
  refine gentle_scalar ?_ s
  refine tame_bind (by simp) fun _ => ?_
  dsimp only
  refine tame_bind (by simp) fun _ => ?_
  refine tame_bind (by simp) fun _ => ?_
  refine tame_get_bind.2 fun _ => ?_
  split <;> simp

theorem gentle_execTrapEntry (core : ℕ) (s : State) : Gentle (execTrapEntry core s) s := by
  refine gentle_event ?_ s
  refine tame_onCore ?_ _
  refine tame_bind (by simp) fun _ => ?_
  split
  · split <;> simp
  · simp

theorem gentle_execBudgetExceeded (core : ℕ) (s : State) : Gentle (execBudgetExceeded core s) s := by
  refine gentle_event ?_ s
  simp (disch := simp)

theorem gentle_execQueueAging (queue : ℕ) (s : State) : Gentle (execQueueAging queue s) s := by
  refine gentle_event ?_ s
  simp (disch := simp)

theorem gentle_execShareGrant (die : ℕ) (s : State) : Gentle (execShareGrant die s) s := by
  refine gentle_event ?_ s
  refine tame_get_bind.2 fun _ => ?_
  split
  · simp
  · split <;> simp

theorem gentle_execStreamEviction (stream : ℕ) (s : State) : Gentle (execStreamEviction stream s) s := by
  refine gentle_event ?_ s
  simp (disch := simp)

theorem gentle_execTaskStart (core : ℕ) (s : State) : Gentle (execTaskStart core s) s := by
  refine gentle_event ?_ s
  refine tame_onCore ?_ _
  refine tame_get_bind.2 fun _ => ?_
  split <;> simp

theorem gentle_execCollectiveGroupRegister (g : CollGroup) (s : State) : Gentle (execCollectiveGroupRegister g s) s := by
  refine gentle_event ?_ s
  simp (disch := simp)

theorem gentle_execPtmExchange (hostTime : Word) (s : State) : Gentle (execPtmExchange hostTime s) s := by
  refine gentle_event ?_ s
  simp (disch := simp)

theorem gentle_execClockStep (load : PowerLoad) (s : State) : Gentle (execClockStep load s) s := by
  refine gentle_event ?_ s
  simp (disch := simp)

theorem decMemF_eq {T : Type} {mk : MemF → T} {r : Raw} {a : T} (h : (decMemF mk r).toOption = some a) : ∃ x, mk x = a := by
  unfold decMemF at h
  split at h
  · split at h
    · exact ⟨_, Option.some.inj h⟩
    · cases h
  · cases h

theorem decOrdF_eq {T : Type} {mk : OrdF → T} {r : Raw} {a : T} (h : (decOrdF mk r).toOption = some a) : ∃ x, mk x = a := by
  unfold decOrdF at h
  split at h
  · split at h
    · split at h
      · exact ⟨_, Option.some.inj h⟩
      · cases h
    · cases h
  · cases h

/-- What a scalar load does. -/
theorem tame_loadForm {r : Raw} {f : LoadForm} (h : loadForm r = some f) : Tame p f.run := by
  unfold loadForm at h
  dsimp only at h
  split at h <;> try obtain ⟨x, rfl⟩ := decMemF_eq h
  case h_8 | h_9 =>
    obtain ⟨x, rfl⟩ := decOrdF_eq h
    simp
  case h_10 => cases h
  all_goals simp

theorem tame_of_turnLoad {s t : State} {f : LoadForm} (h : runM turnLoad s = (.ok (some f), t)) : Tame p f.run := by
  unfold turnLoad at h
  rw [run_bind] at h
  generalize runM turn s = q at h
  obtain ⟨_ | _ | l, u⟩ := q
  · cases h
  · cases h
  · dsimp only at h
    rw [run_bind, run_getMe] at h
    dsimp only at h
    split at h
    · cases h
    · rw [run_pure] at h
      exact tame_loadForm (Except.ok.inj (Prod.ext_iff.1 h).1)

/-- What a load that a core comes to would read, and whether its die answers it. -/
def readAnswer (g : LoadForm) : M (Option (LoadForm × Bool)) := do
  let x ← myCtx
  let va := memAddr (← readX g.a) g.off
  let t ← readPlace x va
  let s ← get
  return some (g, s.atDie x.core t.loc t.held)

theorem readAnswer_load {g f : LoadForm} {b : Bool} {s t : State} (h : runM (readAnswer g) s = (.ok (some (f, b)), t)) : f = g := by
  unfold readAnswer at h
  rw [run_bind, run_myCtx] at h
  dsimp only at h
  rw [run_bind, run_readX] at h
  dsimp only at h
  rw [run_bind] at h
  generalize runM (readPlace _ _) s = q at h
  obtain ⟨_ | r, u⟩ := q
  · cases h
  · dsimp only at h
    rw [run_bind, run_get] at h
    dsimp only at h
    rw [run_pure] at h
    exact (congrArg Prod.fst (Option.some.inj (Except.ok.inj (Prod.ext_iff.1 h).1))).symm

theorem tame_of_nextLoad {s t : State} {f : LoadForm} {b : Bool} (h : runM nextLoad s = (.ok (some (f, b)), t)) : Tame p f.run := by
  unfold nextLoad at h
  rw [run_bind, run_get] at h
  dsimp only at h
  rw [run_bind, run_tryCatch, run_bind] at h
  rcases hr : runM turnLoad s with ⟨_ | _ | g, u⟩
  · rw [hr] at h; cases h
  · rw [hr] at h; cases h
  · rw [hr] at h
    have hg : Tame p g.run := tame_of_turnLoad hr
    dsimp only at h
    rcases hk : runM (readAnswer g) u with ⟨_ | o, v⟩
    · unfold readAnswer at hk; rw [hk] at h; cases h
    · have hf := hk
      unfold readAnswer at hk
      rw [hk] at h
      obtain rfl : o = some (f, b) := Except.ok.inj (Prod.ext_iff.1 h).1
      exact readAnswer_load hf ▸ hg

/-- The load that a core comes to runs. -/
theorem tame_nextLoad_bind {g : Option (LoadForm × Bool) → M Unit} (hn : Tame p (g none)) (hg : ∀ f b, Tame p f.run → Tame p (g (some (f, b)))) :
    Tame p (nextLoad >>= g) := by
  intro s
  refine keepsAt_bind mild_frame (tame_nextLoad s) fun o t h => ?_
  cases o with
  | none => exact hn t
  | some q => exact hg q.1 q.2 (tame_of_nextLoad h) t

theorem gentle_execSpawn (x : R2T2) (s : State) : Gentle (execSpawn x s) s :=
  gentle_scalar (tame_spawnOp (fun _ _ _ h => mild_pushDeque h) x) s

theorem gentle_execSpawng (x : R2T2) (s : State) : Gentle (execSpawng x s) s :=
  gentle_scalar (tame_spawnOp (fun _ _ _ h => mild_pushInject h) x) s

theorem gentle_execYield (x : R1T2) (s : State) : Gentle (execYield x s) s := by
  refine gentle_instr ?_ s
  refine tame_bind (by simp) fun a => tame_bind (tame_readRecord _ _ ?_) fun bs => tame_bind (by simp) fun k => ?_
  · exact tame_bind (by simp) fun _ => tame_bind (by simp) fun _ => tame_ite (by simp) (tame_bind (by simp) fun _ => by simp)
  · exact tame_ite (by simp) (tame_bind (by simp) fun _ => by simp)

theorem gentle_execPostArrival (die n : Nat) (s : State) : Gentle (execPostArrival die n s) s := by
  have hend (got : Option Nat) : Tame False (do
      match got with
      | none => return ()
      | some c =>
        onCore c (do
          let k ← getMe
          match k.queue with
          | e :: _ =>
            match e.op with
            | .waiti _ => do
              let _ ← stepHead
              return ()
            | _ => return ()
          | [] => return ()) : M Unit) := by
    cases got with
    | none => simp
    | some c =>
      refine tame_onCore (tame_bind (by simp) fun k => ?_) c
      split
      · split <;> simp
      · simp
  refine gentle_event (tame_get_bind.2 fun t => ?_) s
  dsimp only
  exact tameAt_set_bind (mild_arrivePost (mild_refl t) die n) (hend _)

theorem tame_runLoad {f : LoadForm} (h : Tame False f.run) : Tame False (do
    let _ ← turn
    runInstr [f.d, f.a] (do f.run; return .next)) :=
  tame_bind (by simp) fun _ => tame_runInstr _ _ (tame_bind h fun _ => tame_pure _)

theorem gentle_execReadAtDie (core : Nat) (s : State) : Gentle (execReadAtDie core s) s := by
  refine gentle_event (tame_onCore (tame_nextLoad_bind (tame_pure _) fun f b hf => ?_) core) s
  cases b
  · exact tame_pure _
  · exact tame_runLoad hf

theorem gentle_execReadAtHome (core : Nat) (s : State) : Gentle (execReadAtHome core s) s := by
  have hq : Tame False (do
      let k ← getMe
      match k.queue with
      | e :: _ =>
        if e.op.reads then
          let _ ← stepHead
          return ()
        else return ()
      | [] => return () : M Unit) := by
    refine tame_bind (by simp) fun k => ?_
    split <;> simp
  refine gentle_event (tame_onCore (tame_nextLoad_bind hq fun f b hf => ?_) core) s
  cases b
  · exact tame_runLoad hf
  · exact hq

/-! ## The shape of the device -/

theorem Mild.mem_core {s t : State} (h : Mild p s t) {k : Core} (hk : k ∈ t.cores) : ∃ l ∈ s.cores, CoreOk p l k := by
  obtain ⟨i, hi⟩ := List.mem_iff_getElem?.1 hk
  rcases forall₂_getElem? h.cores i with ⟨-, hn⟩ | ⟨a, b, ha, hb, hab⟩
  · rw [hn] at hi; cases hi
  · rw [hb] at hi
    exact ⟨a, List.mem_of_getElem? ha, Option.some.inj hi ▸ hab⟩

theorem Mild.mem_mxe {s t : State} (h : Mild p s t) {m : Mxe} (hm : m ∈ t.mxes) : ∃ l ∈ s.mxes, RowsOk l.rows m.rows := by
  obtain ⟨i, hi⟩ := List.mem_iff_getElem?.1 hm
  rcases forall₂_getElem? h.mxes i with ⟨-, hn⟩ | ⟨a, b, ha, hb, hab⟩
  · rw [hn] at hi; cases hi
  · rw [hb] at hi
    exact ⟨a, List.mem_of_getElem? ha, Option.some.inj hi ▸ hab⟩

/-- A state that follows one of the right shape has it. -/
theorem Mild.shaped {s t : State} (h : Mild p s t) (hs : Spec.Shaped s) : Spec.Shaped t := by
  obtain ⟨⟨hcores, hdies, hmxes, hcrusts, hcur⟩, hmem, hrows, hslices, hslots⟩ := hs
  refine ⟨⟨h.cores.length_eq.symm.trans hcores, Eq.trans h.dies hdies, h.mxes.length_eq.symm.trans hmxes, Eq.trans h.crusts hcrusts, ?_⟩,
    h.mem hmem, fun k hk => ?_, fun k hk => ?_, fun m hm => ?_⟩
  · rw [h.cur]; exact hcur
  · obtain ⟨l, hl, hlk⟩ := h.mem_core hk
    exact hlk.vregs (hrows l hl)
  · obtain ⟨l, hl, hlk⟩ := h.mem_core hk
    exact hlk.slices (hslices l hl)
  · obtain ⟨l, hl, hlm⟩ := h.mem_mxe hm
    exact hlm (hslots l hl)

/-- A wipe leaves the tables of reset and a part of memory (R393). -/
theorem shaped_wipe {s : State} (h : Spec.Shaped s) : Spec.Shaped s.wipe :=
  have ⟨hz, _, hrows, hslices, hslots⟩ := reset_shaped
  ⟨⟨hz.1, hz.2, hz.3, hz.4, h.sized.5⟩, wf_filter _ h.memory, hrows, hslices, hslots⟩

/-- The shape is that of the tables: other fields do not matter. -/
theorem shaped_of_same {s t : State} (h : Spec.Shaped s) (hc : t.cores = s.cores) (hd : t.dies = s.dies) (hx : t.mxes = s.mxes)
    (hr : t.crusts = s.crusts) (hm : t.mem = s.mem) (hn : t.cur = s.cur) : Spec.Shaped t :=
  (mild_of_same (p := False) (mild_refl s) hc hd hx hr hm hn).shaped h

theorem shaped_bringUp {s : State} (h : Spec.Shaped s) : Spec.Shaped s.bringUp := shaped_of_same (shaped_wipe h) rfl rfl rfl rfl rfl rfl

theorem shaped_note {s : State} (h : Spec.Shaped s) (n : HostNote) : Spec.Shaped (s.note n) := shaped_of_same h rfl rfl rfl rfl rfl rfl

theorem shaped_loadFirmware {s : State} (h : Spec.Shaped s) (img : FirmwareImage) : Spec.Shaped (s.loadFirmware img) := by
  unfold State.loadFirmware
  split
  · exact shaped_bringUp (shaped_of_same h rfl rfl rfl rfl rfl rfl)
  · exact shaped_note h _

theorem shaped_moveLife {s : State} (h : Spec.Shaped s) (r : LifeCycleReq) : Spec.Shaped (s.moveLife r) := by
  unfold State.moveLife
  split
  · exact shaped_bringUp (shaped_of_same h rfl rfl rfl rfl rfl rfl)
  · exact shaped_note h _

/-- An outcome that is a next state has the shape of the device. -/
def KeepsShape (o : Host.Outcome State Fault Refusal) : Prop := ∀ t, o = .next t → Spec.Shaped t

theorem Gentle.keepsShape {o : Host.Outcome State Fault Refusal} {s : State} (h : Gentle o s) (hs : Spec.Shaped s) : KeepsShape o :=
  fun t ht => (h t ht).shaped hs

theorem keepsShape_modify {s : State} {f : State → State} (h : Spec.Shaped (f s)) : KeepsShape (event (modify f) s) := by
  rintro t ⟨⟩
  exact h

/-- Whether an event wipes the package. -/
def wipes : Instr → Bool
  | .powerGood | .reset | .firmwareImageLoad _ | .lifeCycleTransition _ | .powerOff => true
  | _ => false

/-- An instruction or event that does not wipe the package leaves a state that follows the one before. -/
theorem gentle_exec {i : Instr} (hi : wipes i = false) (s : State) : Gentle (exec i s) s := by
  cases i with
  | lih  x => exact gentle_execLih  x s
  | fsqrt  x => exact gentle_execFsqrt  x s
  | fcvtif  x => exact gentle_execFcvtif  x s
  | fcvtfi  x => exact gentle_execFcvtfi  x s
  | fclass  x => exact gentle_execFclass  x s
  | jal  x => exact gentle_execJal  x s
  | jalr  x => exact gentle_execJalr  x s
  | amofadd  x => exact gentle_execAmofadd  x s
  | amocas  x => exact gentle_execAmocas  x s
  | fence  x => exact gentle_execFence  x s
  | fenceSv => exact gentle_execFenceSv s
  | fenceVs => exact gentle_execFenceVs s
  | cflush  x => exact gentle_execCflush  x s
  | cinv  x => exact gentle_execCinv  x s
  | cpref  x => exact gentle_execCpref  x s
  | cdrop  x => exact gentle_execCdrop  x s
  | csrr  x => exact gentle_execCsrr  x s
  | trap  x => exact gentle_execTrap  x s
  | resume  x => exact gentle_execResume  x s
  | wfi => exact gentle_execWfi s
  | ctxsave  x => exact gentle_execCtxsave  x s
  | ctxrest  x => exact gentle_execCtxrest  x s
  | vqsave  x => exact gentle_execVqsave  x s
  | vqrest  x => exact gentle_execVqrest  x s
  | spawn  x => exact gentle_execSpawn  x s
  | spawng  x => exact gentle_execSpawng  x s
  | join  x => exact gentle_execJoin  x s
  | yield  x => exact gentle_execYield  x s
  | endTask => exact gentle_execEndTask s
  | lvcancel  x => exact gentle_execLvcancel  x s
  | lvquery  x => exact gentle_execLvquery  x s
  | postArrival  die n => exact gentle_execPostArrival  die n s
  | setlen  x => exact gentle_execSetlen  x s
  | setlenf  x => exact gentle_execSetlenf  x s
  | copyIssue  core => exact gentle_execCopyIssue  core s
  | gspec  x => exact gentle_execGspec  x s
  | gflatten  x => exact gentle_execGflatten  x s
  | gquery  x => exact gentle_execGquery  x s
  | verq  x => exact gentle_execVerq  x s
  | readAtDie  core => exact gentle_execReadAtDie  core s
  | readAtHome  core => exact gentle_execReadAtHome  core s
  | trapEntry  core => exact gentle_execTrapEntry  core s
  | budgetExceeded  core => exact gentle_execBudgetExceeded  core s
  | queueAging  queue => exact gentle_execQueueAging  queue s
  | shareGrant  die => exact gentle_execShareGrant  die s
  | streamEviction  stream => exact gentle_execStreamEviction  stream s
  | taskStart  core => exact gentle_execTaskStart  core s
  | collectiveGroupRegister  g => exact gentle_execCollectiveGroupRegister  g s
  | ptmExchange  hostTime => exact gentle_execPtmExchange  hostTime s
  | clockStep  load => exact gentle_execClockStep  load s
  | powerGood | reset | firmwareImageLoad _ | lifeCycleTransition _ | powerOff => cases hi
  | _ => exact gentle_after (by simp) s

theorem keepsShape_wiping {i : Instr} (hi : wipes i = true) {s : State} (hs : Spec.Shaped s) : KeepsShape (exec i s) := by
  cases i with
  | powerGood => exact keepsShape_modify (by split; exacts [shaped_bringUp hs, hs])
  | reset => exact keepsShape_modify (by split; exacts [hs, shaped_bringUp hs])
  | firmwareImageLoad img => exact keepsShape_modify (shaped_loadFirmware hs img)
  | lifeCycleTransition r => exact keepsShape_modify (shaped_moveLife hs r)
  | powerOff => exact keepsShape_modify (shaped_of_same (shaped_wipe hs) rfl rfl rfl rfl rfl rfl)
  | _ => exact absurd hi (by simp [wipes])

/-- Every instruction and event keeps the shape of the device. -/
theorem keepsShape_exec (i : Instr) {s : State} (hs : Spec.Shaped s) : KeepsShape (exec i s) := by
  cases hw : wipes i
  · exact (gentle_exec hw s).keepsShape hs
  · exact keepsShape_wiping hw hs

/-- The scalar unit of a core takes its turn, and the instruction that it comes to runs. -/
theorem keepsShape_scalarStep {s : State} (hs : Spec.Shaped s) : KeepsShape (scalarStep s) := by
  have hn : Mild False s (runM nextInstr s).2 := tame_nextInstr s
  unfold scalarStep State.takeTurn
  rw [show nextInstr.run.run s = runM nextInstr s from rfl]
  rcases hr : runM nextInstr s with ⟨_ | i, u⟩ <;> rw [hr] at hn <;> dsimp only
  · rintro t ⟨⟩
    exact hn.shaped hs
  · cases i with
    | none => rintro t ⟨⟩; exact hn.shaped hs
    | some i => exact keepsShape_exec i (hn.shaped hs)

theorem keepsShape_event {s : State} (hs : Spec.Shaped s) {m : M Unit} (hm : Tame False m) : KeepsShape (event m s) :=
  (gentle_event hm s).keepsShape hs

/-- A move of a core that the device does not have is none. -/
theorem keepsShape_core {c : Nat} {o : Host.Outcome State Fault Refusal} (h : c < 160 → KeepsShape o) :
    KeepsShape (if c < Config.coreCount then o else .fault .noSuchCore) := by
  split
  next hc => exact h hc
  next => rintro t ⟨⟩

theorem keepsShape_step {s : State} (hs : Spec.Shaped s) : KeepsShape (step s) := by
  have ht : Spec.Shaped { s.tick with tape := s.tape.drop 1 } :=
    shaped_of_same ((mild_tick (p := False) (mild_refl s)).shaped hs) rfl rfl rfl rfl rfl rfl
  unfold step
  dsimp only
  split
  · exact keepsShape_core fun hc => keepsShape_scalarStep
      ⟨⟨ht.sized.1, ht.sized.2, ht.sized.3, ht.sized.4, hc⟩, ht.memory, ht.rows, ht.slices, ht.slots⟩
  · exact keepsShape_core fun _ => keepsShape_event ht (tame_vectorMove _)
  · exact keepsShape_core fun _ => keepsShape_event ht (tame_vectorRows _ _)
  · exact keepsShape_core fun _ => keepsShape_event ht (tame_aheadMove _ _ _)
  · exact keepsShape_core fun _ => keepsShape_event ht (tame_pageMove _)
  · rintro t ⟨⟩; exact (mild_writeBack (p := False) (mild_refl _) _).shaped ht
  · rintro t ⟨⟩; exact (mild_failCounter (p := False) (mild_refl _) _).shaped ht
  · exact keepsShape_exec _ ht

/-- Settles O56: what a step leaves follows the state before it in every table, or is a wiped state. -/
theorem stepKeepsShape : Obligations.StepKeepsShape := fun _ _ hs => keepsShape_step hs _

end Sys2Proof.Machine
end

section
/-! PROOF. Scalar memory: where a scalar instruction goes on in sequence, the loads, stores, atomics and misaligned accesses. -/
namespace Sys2Proof.Machine

open Sys2Proof

/-! ## Instructions that go on in sequence -/

theorem Mild.next_ok {s t : State} (h : Mild True s t) (hc : s.cur < s.cores.length) (hn : wellFormedIa s.me.nextIa = true) :
    t.cur < t.cores.length ∧ wellFormedIa t.me.nextIa = true := by
  refine ⟨by rw [h.cur, ← h.cores.length_eq]; exact hc, ?_⟩
  have hia : t.me.nextIa = s.me.nextIa := by unfold Core.nextIa Core.nh; rw [h.me.ia trivial, h.me.line trivial]
  rw [hia]; exact hn

/-- A scalar instruction whose computation keeps where the cores stand goes on in sequence after its effect. -/
theorem scalar_ends {rs : List Reg} {body : M Unit} {s t : State} (h : Ready s rs) (hb : Ends body s t) (hk : Tame True body) :
    scalar rs body s = .next t.goesOn := by
  have hm : Mild True s (runM body s).2 := hk s
  rw [show runM body s = (.ok (), t) from hb] at hm
  obtain ⟨hc, hn⟩ := hm.next_ok h.cur h.next
  exact scalar_completes h hb hc hn

/-- A computation that continues an earlier one which ended. -/
theorem ends_bind {m : M α} {f : α → M Unit} {s t u : State} {a : α} (h : Answers m s a t) (hf : Ends (f a) t u) : Ends (m >>= f) s u := by
  unfold Ends
  rw [run_bind, show runM m s = (.ok a, t) from h]
  exact hf

theorem answers_bind {β : Type} {m : M α} {f : α → M β} {s t u : State} {a : α} {b : β} (h : Answers m s a t) (hf : Answers (f a) t b u) :
    Answers (m >>= f) s b u := by
  unfold Answers
  rw [run_bind, show runM m s = (.ok a, t) from h]
  exact hf

theorem traps_bind {β : Type} {m : M α} {f : α → M β} {s t u : State} {a : α} {r : Trap} (h : Answers m s a t) (hf : Traps (f a) t r u) :
    Traps (m >>= f) s r u := by
  unfold Traps
  rw [run_bind, show runM m s = (.ok a, t) from h]
  exact hf

/-! ## Scalar loads (R204, R313) -/

theorem run_acquireGate {s : State} (h : s.acquiring s.cur = false) : Answers acquireGate s () s := by
  unfold acquireGate Answers
  simp [h]

/-- What a scalar load reads. -/
structure LoadReads (s : State) (va n : Nat) (bs : List Byte) (u : State) : Prop where
  aligned : va % n = 0
  reads : ∃ tg t r, Answers (readPlace (s.me.ctx s.cur) va) s tg t ∧ Ends (fabricOrder tg.loc n) t r ∧
    Answers (readScalar s.cur tg.key tg.held va tg.loc n) r bs u

theorem answers_scalarLoad {s u : State} {va n : Nat} {bs : List Byte} (h : LoadReads s va n bs u) : Answers (scalarLoad va n) s bs u := by
  obtain ⟨ha, tg, t, r, hp, hf, hr⟩ := h
  unfold scalarLoad
  rw [if_neg (by simp [ha])]
  exact answers_bind (run_myCtx s) (answers_bind hp (answers_bind hf hr))

theorem load_completes {s u : State} {x : MemF} (h : Spec.Accessing s [x.d, x.a]) {n : Nat} {bs : List Byte} (signed : Bool)
    (hr : LoadReads s (Spec.address (s.me.x x.a) x.off) n bs u) :
    scalar [x.d, x.a] (loadOp n signed x) s = .next (u.wrote x.d (if signed then sextWord (8 * n) (leNat bs) else word (leNat bs))) :=
  scalar_ends h.ready (ends_bind (run_acquireGate h.free) (ends_bind (run_readX _ s) (ends_bind (answers_scalarLoad hr) (run_writeX _ _ u))))
    (tame_loadOp _ _ _)

theorem lda_completes {s u : State} {x : OrdF} (h : Spec.Accessing s [x.d, x.a]) {n : Nat} {bs : List Byte}
    (hr : LoadReads s (s.me.x x.a).toNat n bs u) :
    scalar [x.d, x.a] (ldaOp n x) s = .next (Spec.acquired (u.updMe fun k => k.setX x.d (Spec.unsigned bs)) x.scope).goesOn := by
  refine scalar_ends h.ready (ends_bind (run_acquireGate h.free) (ends_bind (run_readX _ s) (ends_bind (answers_scalarLoad hr)
    (ends_bind (run_writeX _ _ u) ?_)))) (tame_ldaOp _ _)
  unfold Ends
  rw [run_acquireReads, Spec.acquired]
  cases x.scope <;> rfl

theorem load_signed {s u : State} {x : MemF} (h : Spec.Accessing s [x.d, x.a]) {n : Nat} {bs : List Byte} (hn : 0 < n)
    (hr : LoadReads s (Spec.address (s.me.x x.a) x.off) n bs u) :
    scalar [x.d, x.a] (loadOp n true x) s = .next (u.wrote x.d (Spec.signed n bs)) := by
  rw [load_completes h true hr, if_pos rfl, sextWord_eq (by omega), Spec.signed]

theorem load_unsigned {s u : State} {x : MemF} (h : Spec.Accessing s [x.d, x.a]) {n : Nat} {bs : List Byte}
    (hr : LoadReads s (Spec.address (s.me.x x.a) x.off) n bs u) :
    scalar [x.d, x.a] (loadOp n false x) s = .next (u.wrote x.d (Spec.unsigned bs)) := load_completes h false hr

theorem pageLoads : Spec.PageLoads := by
  intro s t r u tg bs
  have hl {va n : Nat} (h : va % n = 0 ∧ Answers (readPlace (s.me.ctx s.cur) va) s tg t ∧ Ends (fabricOrder tg.loc n) t r ∧
      Answers (readScalar s.cur tg.key tg.held va tg.loc n) r bs u) : LoadReads s va n bs u :=
    ⟨h.1, tg, t, r, h.2⟩
  refine ⟨fun x h => ⟨?_, ?_, ?_, ?_, ?_, ?_, ?_⟩, fun x h => ⟨?_, ?_⟩⟩
  · exact fun hr => load_signed h (by decide) (hl hr)
  · exact fun hr => load_unsigned h (hl hr)
  · exact fun hr => load_signed h (by decide) (hl hr)
  · exact fun hr => load_unsigned h (hl hr)
  · exact fun hr => load_signed h (by decide) (hl hr)
  · exact fun hr => load_unsigned h (hl hr)
  · exact fun hr => load_unsigned h (hl hr)
  · exact fun hr => lda_completes h (hl hr)
  · exact fun hr => lda_completes h (hl hr)

/-! ## Pad addresses -/

theorem padLoc_ge {c va loc : Nat} (h : padLoc c va = some loc) : 2 ^ 52 ≤ loc := by
  unfold padLoc corePadLoc clusterLoc chipPadLoc at h
  split at h
  · cases h; omega
  · split at h
    · cases h; omega
    · split at h
      · cases h; omega
      · cases h

theorem padLoc_va {c va loc : Nat} (h : padLoc c va = some loc) : va < 2 ^ 57 ∧ isPadVa va = true := by
  have hr : 0x01F0000000000000 ≤ va ∧ va < 0x0200000000000000 := by
    unfold padLoc at h
    split at h
    · omega
    · split at h
      · omega
      · split at h
        · omega
        · cases h
  refine ⟨by omega, ?_⟩
  have hb : bits va 56 52 = 0x1F := by
    rw [bits, Nat.shiftRight_eq_div_pow]
    omega
  exact decide_eq_true hb

theorem place_pad {x : Ctx} {acc : Acc} {va loc : Nat} (h : padLoc x.core va = some loc) (ha : acc ≠ .fetch) (s : State) :
    Answers (place x acc va) s (.pad loc) s := by
  obtain ⟨hlt, hpad⟩ := padLoc_va h
  unfold place Answers
  rw [if_neg (by omega), if_pos hpad, if_neg ha, h]
  rfl

theorem isFabric_pad {loc : Nat} (h : 2 ^ 52 ≤ loc) : isFabric loc = false := by
  simp only [isFabric, Bool.and_eq_false_iff, decide_eq_false_iff_not]
  omega

theorem isPad_of_ge {loc : Nat} (h : 2 ^ 52 ≤ loc) : isPad loc = true := decide_eq_true h

theorem fabricOrder_pad {loc : Nat} (h : 2 ^ 52 ≤ loc) (n : Nat) (s : State) : Ends (fabricOrder loc n) s s := by
  unfold fabricOrder Ends
  rw [isFabric_pad h]
  rfl

theorem readHome_pad {s : State} {c va n loc : Nat} (h : 2 ^ 52 ≤ loc) (hg : s.badLines.contains (loc / 64) = false)
    (hp : s.sealOf (loc / 64) = none) (hv : s.vagueSeed (loc / 64) = none) :
    Answers (readHome c none va loc n) s (s.bytesAt loc n) (s.joinCk c (s.stampOf (loc / 64))) := by
  have hl : Answers (lostRead c va loc) s () s := by unfold lostRead Answers; simp [isFabric_pad h]
  refine answers_bind hl ?_
  have he : s.lineError none (loc / 64) = none := by unfold State.lineError; rw [hg]; rfl
  have hr : s.readAs none loc n = s.bytesAt loc n := by unfold State.readAs; rw [hv, hp]
  unfold Answers
  simp [he, hr]

theorem loadReads_pad {s : State} {va n loc : Nat} (h : Spec.PadRead s va n loc) :
    LoadReads s va n (overlaySb s.me.sb loc (s.bytesAt loc n)) (Spec.sawLine s loc) := by
  have hge := padLoc_ge h.place
  refine ⟨h.aligned, { loc := loc, key := none, held := false }, s, s, ?_, fabricOrder_pad hge n s, ?_⟩
  · exact answers_bind (place_pad (x := s.me.ctx s.cur) h.place (by decide) s) rfl
  · have hd : s.atDie s.cur loc false = false := rfl
    unfold readScalar
    refine answers_bind (run_get s) ?_
    dsimp only
    rw [hd]
    refine answers_bind (readHome_pad hge h.good h.plain h.exact) ?_
    cases homeOf loc <;> rfl

theorem padLoads : Spec.PadLoads := by
  intro s loc
  refine ⟨fun x h => ⟨?_, ?_, ?_, ?_, ?_, ?_, ?_⟩, fun x h => ⟨?_, ?_⟩⟩
  · exact fun hp => load_signed h (by decide) (loadReads_pad hp)
  · exact fun hp => load_unsigned h (loadReads_pad hp)
  · exact fun hp => load_signed h (by decide) (loadReads_pad hp)
  · exact fun hp => load_unsigned h (loadReads_pad hp)
  · exact fun hp => load_signed h (by decide) (loadReads_pad hp)
  · exact fun hp => load_unsigned h (loadReads_pad hp)
  · exact fun hp => load_unsigned h (loadReads_pad hp)
  · exact fun hp => lda_completes h (loadReads_pad hp)
  · exact fun hp => lda_completes h (loadReads_pad hp)

/-- Settles O8: a load reads at its place, pads included, and the rest of it is a register write. -/
theorem scalarLoads : Obligations.ScalarLoads := ⟨padLoads, pageLoads⟩

/-! ## Scalar stores (R204, R313) -/

theorem memAddr_eq (a : Word) (off : BitVec 16) : memAddr a off = Spec.address a off := rfl

/-- What a store to a place does from a state: an inserting store performs at once, another enters the buffer. -/
theorem ends_storeAt {x : Ctx} {q : Place} {va : Nat} {bs : List Byte} {r r' u : State} {tg : Target}
    (hr : if r.inserts x q va then Ends (awaitQueue fun s => s.storeMeets x.core q va bs.length) r r' else r' = r)
    (hw : Answers (writeTarget x q va va) (if r.inserts x q va then r'.flushSb x.core else r') tg u) :
    Ends (storeAt x q va bs) r (if r.inserts x q va then u.perform (some x.core) tg.key tg.loc bs
      else u.enterSb x.core (q.via x) tg.key tg.loc bs) := by
  unfold storeAt
  refine ends_bind (run_get r) ?_
  unfold Ends
  rw [run_ite]
  cases hi : r.inserts x q va <;> simp only [hi, if_true, if_false, Bool.false_eq_true] at hr hw ⊢
  · subst hr
    exact ends_bind hw rfl
  · exact ends_bind hr (ends_bind (run_modify _ r') (ends_bind hw rfl))

theorem quiet_of_sameCores {s t : State} (h : SameCores s t) (hq : Spec.Quiet s) : Spec.Quiet t := ⟨h.queue.trans hq.queue, h.issued.trans hq.channels⟩

theorem sameCores_of_answers {m : M α} (hm : Keeps SameCores m) {s t : State} {a : α} (h : Answers m s a t) : SameCores s t := by
  have hk : SameCores s (runM m s).2 := hm s
  rwa [show runM m s = (.ok a, t) from h] at hk

theorem store_completes {s t r' u : State} {q : Place} {tg : Target} {f : MemF} {n : Nat} (h : Spec.Accessing s [f.d, f.a])
    (ha : Spec.address (s.me.x f.a) f.off % n = 0) (hp : Answers (place (s.me.ctx s.cur) .write (Spec.address (s.me.x f.a) f.off)) s q t)
    (hr : if t.inserts (s.me.ctx s.cur) q (Spec.address (s.me.x f.a) f.off) then
      Ends (awaitQueue fun s' => s'.storeMeets s.cur q (Spec.address (s.me.x f.a) f.off) n) t r' else r' = t)
    (hw : Answers (writeTarget (s.me.ctx s.cur) q (Spec.address (s.me.x f.a) f.off) (Spec.address (s.me.x f.a) f.off))
      (if t.inserts (s.me.ctx s.cur) q (Spec.address (s.me.x f.a) f.off) then r'.flushSb s.cur else r') tg u) :
    scalar [f.d, f.a] (storeOp n f) s = .next (if t.inserts (s.me.ctx s.cur) q (Spec.address (s.me.x f.a) f.off)
      then u.perform (some s.cur) tg.key tg.loc (leBytes n (s.me.x f.d).toNat)
      else u.enterSb s.cur (q.via (s.me.ctx s.cur)) tg.key tg.loc (leBytes n (s.me.x f.d).toNat)).goesOn := by
  refine scalar_ends h.ready (ends_bind (run_acquireGate h.free) (ends_bind (run_readX _ s) (ends_bind (run_readX _ s) ?_))) (tame_storeOp _ _)
  unfold scalarStore
  rw [memAddr_eq, leBytes_length, if_neg (not_not.2 ha)]
  refine ends_bind (run_myCtx s) (ends_bind hp (ends_storeAt ?_ hw))
  rw [leBytes_length]
  exact hr

theorem stl_completes {s t r' u : State} {q : Place} {tg : Target} {f : OrdF} {n : Nat} (h : Spec.Accessing s [f.d, f.a]) (hq : Spec.Quiet s)
    (ha : (s.me.x f.a).toNat % n = 0) (hp : Answers (place (s.me.ctx s.cur) .write (s.me.x f.a).toNat) s q t)
    (hr : if (Spec.released t f.scope).inserts (s.me.ctx s.cur) q (s.me.x f.a).toNat then
      Ends (awaitQueue fun s' => s'.storeMeets s.cur q (s.me.x f.a).toNat n) (Spec.released t f.scope) r' else r' = Spec.released t f.scope)
    (hw : Answers (writeTarget (s.me.ctx s.cur) q (s.me.x f.a).toNat (s.me.x f.a).toNat)
      (if (Spec.released t f.scope).inserts (s.me.ctx s.cur) q (s.me.x f.a).toNat then r'.flushSb s.cur else r') tg u) :
    scalar [f.d, f.a] (stlOp n f) s = .next (if (Spec.released t f.scope).inserts (s.me.ctx s.cur) q (s.me.x f.a).toNat
      then u.perform (some s.cur) tg.key tg.loc (leBytes n (s.me.x f.d).toNat)
      else u.enterSb s.cur (q.via (s.me.ctx s.cur)) tg.key tg.loc (leBytes n (s.me.x f.d).toNat)).goesOn := by
  refine scalar_ends h.ready (ends_bind (run_acquireGate h.free) (ends_bind (run_readX _ s) (ends_bind (run_readX _ s) ?_))) (tame_stlOp _ _)
  rw [if_neg (not_not.2 ha)]
  have hqt := quiet_of_sameCores (sameCores_of_answers (sameCores_place _ _ _) hp) hq
  refine ends_bind (run_myCtx s) (ends_bind hp (ends_bind (run_scalarRelease hqt _) (ends_storeAt ?_ hw)))
  rw [leBytes_length]
  exact hr

/-- Settles O9: a store is its place, the release of an STL, and the write to its target. -/
theorem scalarStores : Obligations.ScalarStores := by
  intro s t r' u q tg
  refine ⟨fun f h => ⟨?_, ?_, ?_, ?_⟩, fun f h hq => ⟨?_, ?_⟩⟩
  · exact fun ha hp hr hw => store_completes h ha hp hr hw
  · exact fun ha hp hr hw => store_completes h ha hp hr hw
  · exact fun ha hp hr hw => store_completes h ha hp hr hw
  · exact fun ha hp hr hw => store_completes h ha hp hr hw
  · exact fun ha hp hr hw => stl_completes h hq ha hp hr hw
  · exact fun ha hp hr hw => stl_completes h hq ha hp hr hw

/-! ## Misaligned accesses (R204, R313, R322, R367) -/

theorem load_misaligned {s : State} {x : MemF} (h : Spec.Accessing s [x.d, x.a]) {n : Nat} (ha : Spec.address (s.me.x x.a) x.off % n ≠ 0)
    (signed : Bool) : scalar [x.d, x.a] (loadOp n signed x) s =
      .next (s.after (trapEntry (some (faultOf 4 (Spec.address (s.me.x x.a) x.off) 0)) s.me.ia)) := by
  refine scalar_traps h.ready.free (traps_bind (run_acquireGate h.free) (traps_bind (run_readX _ s) ?_))
  unfold Traps scalarLoad
  rw [memAddr_eq, run_bind, if_pos ha]
  rfl

theorem lda_misaligned {s : State} {x : OrdF} (h : Spec.Accessing s [x.d, x.a]) {n : Nat} (ha : (s.me.x x.a).toNat % n ≠ 0) :
    scalar [x.d, x.a] (ldaOp n x) s = .next (s.after (trapEntry (some (faultOf 4 (s.me.x x.a).toNat 0)) s.me.ia)) := by
  refine scalar_traps h.ready.free (traps_bind (run_acquireGate h.free) (traps_bind (run_readX _ s) ?_))
  unfold Traps scalarLoad
  rw [run_bind, if_pos ha]
  rfl

theorem store_misaligned {s : State} {x : MemF} (h : Spec.Accessing s [x.d, x.a]) {n : Nat} (ha : Spec.address (s.me.x x.a) x.off % n ≠ 0) :
    scalar [x.d, x.a] (storeOp n x) s =
      .next (s.after (trapEntry (some (faultOf 4 (Spec.address (s.me.x x.a) x.off) 0x800)) s.me.ia)) := by
  refine scalar_traps h.ready.free (traps_bind (run_acquireGate h.free) (traps_bind (run_readX _ s) (traps_bind (run_readX _ s) ?_)))
  unfold scalarStore
  rw [memAddr_eq, leBytes_length, if_pos ha]
  rfl

theorem stl_misaligned {s : State} {x : OrdF} (h : Spec.Accessing s [x.d, x.a]) {n : Nat} (ha : (s.me.x x.a).toNat % n ≠ 0) :
    scalar [x.d, x.a] (stlOp n x) s = .next (s.after (trapEntry (some (faultOf 4 (s.me.x x.a).toNat 0x800)) s.me.ia)) := by
  refine scalar_traps h.ready.free (traps_bind (run_acquireGate h.free) (traps_bind (run_readX _ s) (traps_bind (run_readX _ s) ?_)))
  rw [if_pos ha]
  rfl

theorem amo_misaligned {s : State} {x : AmoF} (h : s.acquiring s.cur = false) (ha : (s.me.x x.a).toNat % amoSize x.dw ≠ 0) (fp : Bool)
    (f : Nat → Option Nat) : Traps (amoRun x fp f) s (faultOf 4 (s.me.x x.a).toNat 0x800) s := by
  refine traps_bind (run_acquireGate h) (traps_bind (run_readX _ s) ?_)
  rw [if_pos ha]
  rfl

theorem misalignedAccesses : Spec.MisalignedAccesses := by
  intro s
  refine ⟨fun x h => ⟨fun ha => ⟨?_, ?_, ?_⟩, fun ha => ⟨?_, ?_, ?_⟩, fun ha => ⟨?_, ?_⟩⟩,
    fun x h => ⟨fun ha => ⟨?_, ?_⟩, fun ha => ⟨?_, ?_⟩⟩, fun x h ha => ⟨?_, ?_⟩⟩
  · exact load_misaligned h ha true
  · exact load_misaligned h ha false
  · exact store_misaligned h ha
  · exact load_misaligned h ha true
  · exact load_misaligned h ha false
  · exact store_misaligned h ha
  · exact load_misaligned h ha false
  · exact store_misaligned h ha
  · exact lda_misaligned h ha
  · exact stl_misaligned h ha
  · exact lda_misaligned h ha
  · exact stl_misaligned h ha
  · exact scalar_traps h.ready.free (traps_bind (run_readX _ s) (amo_misaligned h.free ha false _))
  · exact scalar_traps h.ready.free (traps_bind (run_readX _ s) (amo_misaligned h.free ha true _))

/-! ## Misaligned records and counters (R359 to R361, R367) -/

theorem record_misaligned {a : Nat} (h : a % 32 ≠ 0) (release : M Unit) (s : State) : Traps (readRecord a release) s (faultOf 4 a 0) s := by
  unfold Traps readRecord
  rw [if_pos h]
  rfl

theorem traps_of_bind {β : Type} {m : M α} {f : α → M β} {s u : State} {r : Trap} (h : Traps m s r u) : Traps (m >>= f) s r u := by
  unfold Traps
  rw [run_bind, show runM m s = (.error (.trap r), u) from h]

theorem taskAddresses : Spec.TaskAddresses := by
  intro s hc hq
  have hp (rs : List Reg) : s.me.pending rs = false := pending_of_queue hq rs
  refine ⟨fun x ha => ⟨?_, ?_, ?_⟩, fun x ha => ?_, fun x ha => ?_⟩
  · exact scalar_traps (hp _) (traps_bind (run_readX _ s) (traps_of_bind (record_misaligned ha _ s)))
  · exact scalar_traps (hp _) (traps_bind (run_readX _ s) (traps_of_bind (record_misaligned ha _ s)))
  · exact scalar_traps (hp _) (traps_bind (run_readX _ s) (traps_of_bind (record_misaligned ha _ s)))
  · refine scalar_traps (hp _) (traps_bind (run_readX _ s) (traps_bind (run_readX _ s) ?_))
    rw [if_pos ha]
    rfl
  · exact instr_traps (hp _) (traps_bind (run_readX _ s) (traps_of_bind (record_misaligned ha _ s)))

/-- Settles O10: the test of the address comes before every effect. -/
theorem addressFaults : Obligations.AddressFaults := ⟨misalignedAccesses, taskAddresses⟩

end Sys2Proof.Machine
end

section
/-! PROOF. Atomics (R320 to R322): the value that each AMO writes, and its one read-modify-write. -/
namespace Sys2Proof.Machine

open Sys2Proof

/-! ## What an update reads -/

theorem leNat_lt (bs : List Byte) : leNat bs < 2 ^ (8 * bs.length) := by
  induction bs with
  | nil => exact Nat.one_pos
  | cons b r ih =>
    have hb := b.isLt
    rw [leNat, List.length_cons, Nat.mul_add, Nat.pow_add]
    omega

theorem readAs_length (s : State) (key : Option Nat) (loc n : Nat) : (s.readAs key loc n).length = n := by
  unfold State.readAs
  split
  · simp
  · simp
  · exact bytesAt_length s loc n

theorem readHome_length {c va loc n : Nat} {key : Option Nat} {s t : State} {bs : List Byte} (h : Answers (readHome c key va loc n) s bs t) :
    bs.length = n := by
  unfold Answers readHome at h
  rw [run_bind] at h
  rcases hl : runM (lostRead c va loc) s with ⟨_ | _, u⟩ <;> rw [hl] at h
  · cases h
  · dsimp only at h
    rw [run_bind, run_get] at h
    dsimp only at h
    split at h
    · cases h
    · rw [run_bind, run_set] at h
      dsimp only at h
      rw [run_pure] at h
      exact Except.ok.inj (Prod.ext_iff.1 h).1 ▸ readAs_length _ _ _ _

theorem oldGlaze_lt {x : Ctx} {q : Place} {va n v : Nat} {s t : State} (h : Answers (oldGlaze x q va n) s (some v) t) : v < 2 ^ (8 * n) := by
  unfold Answers oldGlaze at h
  split at h
  · cases h
  · split at h
    · rw [run_bind, run_get] at h
      dsimp only at h
      split at h
      · cases h
      · rw [run_bind, run_modify] at h
        dsimp only at h
        rw [run_bind, run_get] at h
        dsimp only at h
        rw [run_bind] at h
        rcases hr : runM (readHome x.core none va _ n) _ with ⟨_ | bs, u⟩ <;> rw [hr] at h
        · cases h
        · dsimp only at h
          rw [run_pure] at h
          have hv : leNat bs = v := Option.some.inj (Except.ok.inj (Prod.ext_iff.1 h).1)
          have hlen := readHome_length hr
          exact hv ▸ hlen ▸ leNat_lt bs
    · cases h

/-- An update depends on its function at the values of n bytes alone. -/
theorem atomicAt_congr {f g : Nat → Option Nat} {n : Nat} (h : ∀ v, v < 2 ^ (8 * n) → f v = g v) (x : Ctx) (q : Place) (va : Nat) (s : State) :
    runM (atomicAt x q va n f) s = runM (atomicAt x q va n g) s := by
  have hrest (u : State) : runM (do
        let t ← writeTarget x q va va
        modify fun s => s.flushOver x.core t.loc n
        let bs ← readHome x.core t.key va t.loc n
        let old := leNat bs
        match f old with
        | none => return old
        | some new =>
          modify fun s => (s.perform (some x.core) t.key t.loc (leBytes n new)).ackFabric x.core fun l => l == t.loc
          return old) u = runM (do
        let t ← writeTarget x q va va
        modify fun s => s.flushOver x.core t.loc n
        let bs ← readHome x.core t.key va t.loc n
        let old := leNat bs
        match g old with
        | none => return old
        | some new =>
          modify fun s => (s.perform (some x.core) t.key t.loc (leBytes n new)).ackFabric x.core fun l => l == t.loc
          return old) u := by
    rw [run_bind, run_bind]
    rcases runM (writeTarget x q va va) u with ⟨_ | t, v⟩
    · rfl
    · dsimp only
      rw [run_bind, run_bind, run_modify]
      dsimp only
      rw [run_bind, run_bind]
      rcases hr : runM (readHome x.core t.key va t.loc n) (v.flushOver x.core t.loc n) with ⟨_ | bs, w⟩
      · rfl
      · have hlen := readHome_length hr
        dsimp only
        rw [h (leNat bs) (hlen ▸ leNat_lt bs)]
  unfold atomicAt
  rw [run_bind, run_bind]
  rcases ho : runM (oldGlaze x q va n) s with ⟨_ | _ | v, u⟩
  · rfl
  · exact hrest u
  · dsimp only
    rw [Option.bind_some, Option.bind_some, h v (oldGlaze_lt ho)]
    cases hv : g v with
    | none => rfl
    | some new => exact hrest u

/-! ## One AMO (R322) -/

/-- No store of a core waits over bytes that its older stores have been performed for. -/
theorem unperformed_flushOver {s : State} (hc : s.cur < s.cores.length) (hq : s.me.queue = []) (loc n : Nat) :
    (s.flushOver s.cur loc n).me.unperformed loc n = false := by
  unfold State.flushOver
  split
  · have h : (s.flushSb s.cur).me.sb = [] := by
      rw [State.me, flushSb_cur]
      exact flushSb_sb hc hq
    rw [Core.unperformed, h]
    rfl
  next hu => exact Bool.eq_false_iff.2 hu

theorem run_settleOwn {s : State} (hc : s.cur < s.cores.length) (hq : s.me.queue = []) (loc n : Nat) :
    Ends (settleOwn loc n) s (s.flushOver s.cur loc n) := by
  unfold Ends settleOwn
  rw [run_bind, run_myNumber]
  dsimp only
  rw [run_bind, run_modify]
  dsimp only
  rw [run_bind, run_getMe]
  dsimp only
  rw [unperformed_flushOver hc hq]
  rfl

theorem run_awaitQueue {s : State} {meets : State → Bool} (h : meets s = false) : Ends (awaitQueue meets) s s := by
  unfold Ends awaitQueue
  rw [run_bind, run_get]
  dsimp only
  rw [h]
  rfl

/-- Nothing of an empty queue has yet to access the bytes of a store. -/
theorem storeMeets_of_queue {s : State} {c : Nat} (h : (s.core c).queue = []) (q : Place) (va n : Nat) : s.storeMeets c q va n = false := by
  have hm (l : Nat) : s.queueMeets c l n = false := by rw [State.queueMeets, h]; rfl
  unfold State.storeMeets
  split
  · exact hm _
  · split
    · rw [State.queueMeetsPage, h]; rfl
    · exact hm _

/-- A computation after one that a condition asks for. -/
theorem ends_when_bind {c : Prop} [Decidable c] {m f : M Unit} {s t u : State} (h : Ends (if c then m else pure ()) s t) (hf : Ends f t u) :
    Ends (if c then (do m; f) else f) s u := by
  split at h
  next hc => rw [if_pos hc]; exact ends_bind h hf
  next hc =>
    rw [if_neg hc]
    cases h
    exact hf

/-- What an AMO does where its address translates: a release, the update after the core's own stores, its register, an acquire. -/
theorem ends_amoRun {s t w : State} {q : Place} {x : AmoF} {old : Nat} (hc : s.cur < s.cores.length) (hg : s.acquiring s.cur = false)
    (hq : Spec.Quiet s) (ha : (s.me.x x.a).toNat % amoSize x.dw = 0)
    (hp : Answers (place (s.me.ctx s.cur) .write (s.me.x x.a).toNat) s q t) {r : State} (hr : r = if x.rel then Spec.released t x.scope else t)
    (fp : Bool) {f : Nat → Option Nat}
    (hu : Answers (atomicAt (s.me.ctx s.cur) q (s.me.x x.a).toNat (amoSize x.dw) f)
      (r.flushOver s.cur (r.amoLoc (s.me.ctx s.cur) q (s.me.x x.a).toNat) (amoSize x.dw)) old w) :
    Ends (amoRun x fp f) s (let v := w.updMe fun k => k.setX x.d (if x.dw || fp then word old else sextWord 32 old)
      if x.acq then Spec.acquired v x.scope else v) := by
  have hst : SameCores s t := sameCores_of_answers (sameCores_place _ _ _) hp
  have hsr : SameCores s r := by
    subst hr
    split
    · exact sameCores_frame.trans hst (sameCores_released t _)
    · exact hst
  have hrc : r.cur = s.cur := hsr.1
  have hrel : Ends (if x.rel then scalarRelease x.scope else pure ()) t r := by
    unfold Ends
    subst hr
    cases x.rel
    · rfl
    · exact run_scalarRelease (quiet_of_sameCores hst hq) _
  have hset := run_settleOwn (hsr.valid hc) (hsr.queue.trans hq.queue) (r.amoLoc (s.me.ctx s.cur) q (s.me.x x.a).toNat) (amoSize x.dw)
  rw [hrc] at hset
  have hfo := sameCores_flushOver r s.cur (r.amoLoc (s.me.ctx s.cur) q (s.me.x x.a).toNat) (amoSize x.dw)
  refine ends_bind (run_acquireGate hg) (ends_bind (run_readX _ s) ?_)
  rw [if_neg (not_not.2 ha)]
  refine ends_bind (run_myCtx s) (ends_bind hp (ends_when_bind hrel (ends_bind (run_get r) (ends_bind hset (ends_bind (run_awaitQueue ?_)
    (ends_bind hu (ends_bind (run_writeX _ _ w) ?_)))))))
  · refine storeMeets_of_queue ?_ _ _ _
    have hm := (hfo.queue.trans (hsr.queue.trans hq.queue))
    rwa [State.me, hfo.1, hrc] at hm
  · unfold Ends
    cases x.acq
    · rfl
    · rw [if_pos rfl, run_acquireReads, if_pos rfl, Spec.acquired]
      cases x.scope <;> rfl

/-! ## The operations (R321) -/

/-- The operation of an AMO on numbers is that on bit vectors, at the values of n bytes. -/
theorem amo_eq {g : Nat → Nat → Nat → Nat} {f : (n : Nat) → BitVec n → BitVec n → BitVec n} (h : Computes g f) {n : Nat} (hn : 1 < 8 * n)
    (b : Nat) {v : Nat} (hv : v < 2 ^ (8 * n)) : some (g (8 * n) v (b % 2 ^ (8 * n)) % 2 ^ (8 * n)) = Spec.amo f n b v := by
  have hg := congrArg BitVec.toNat (h (8 * n) hn (BitVec.ofNat _ v) (BitVec.ofNat _ b))
  rw [BitVec.toNat_ofNat, BitVec.toNat_ofNat, BitVec.toNat_ofNat, Nat.mod_eq_of_lt hv] at hg
  exact congrArg some hg

theorem computes_second : Computes (fun _ _ b => b) fun _ _ b => b := fun n _ _ b => by
  rw [BitVec.ofNat_toNat, BitVec.setWidth_eq]

theorem one_lt_amoSize (dw : Bool) : 1 < 8 * amoSize dw := by cases dw <;> decide

/-- What an AMO leaves once its update has left a state. -/
def State.amoDone (w : State) (d : Reg) (acq : Bool) (scope : Scope) (v : Word) : State :=
  let r := w.updMe fun k => k.setX d v
  (if acq then Spec.acquired r scope else r).goesOn

section
variable {s t w : State} {q : Place} {x : AmoF} {old : Nat} (hq : Spec.Quiet s) (ha : (s.me.x x.a).toNat % amoSize x.dw = 0)
  (hp : Answers (place (s.me.ctx s.cur) .write (s.me.x x.a).toNat) s q t) {r : State} (hr : r = if x.rel then Spec.released t x.scope else t)
include hq ha hp hr

/-- An AMO of two values. -/
theorem amo_completes (h : Spec.Accessing s [x.d, x.a, x.b]) {g : Nat → Nat → Nat → Nat} {f : (n : Nat) → BitVec n → BitVec n → BitVec n}
    (hgf : Computes g f)
    (hu : Answers (atomicAt (s.me.ctx s.cur) q (s.me.x x.a).toNat (amoSize x.dw) (Spec.amo f (amoSize x.dw) (s.me.x x.b).toNat))
      (r.flushOver s.cur (r.amoLoc (s.me.ctx s.cur) q (s.me.x x.a).toNat) (amoSize x.dw)) old w) :
    scalar [x.d, x.a, x.b] (amoOp g x) s =
      .next (w.amoDone x.d x.acq x.scope (if x.dw then BitVec.ofNat 64 old else (BitVec.ofNat 32 old).signExtend 64)) := by
  have hu' := (atomicAt_congr (fun v hv => amo_eq hgf (one_lt_amoSize x.dw) (s.me.x x.b).toNat hv) _ _ _ _).trans hu
  have he := ends_amoRun h.ready.cur h.free hq ha hp hr false hu'
  rw [Bool.or_false, sextWord_eq (by decide)] at he
  exact scalar_ends h.ready (ends_bind (run_readX _ s) he) (tame_amoOp _ _)

theorem amofadd_completes (h : Spec.Accessing s [x.d, x.a, x.b])
    (hu : Answers (atomicAt (s.me.ctx s.cur) q (s.me.x x.a).toNat (amoSize x.dw) fun o => some (amoFadd (amoSize x.dw) o
        ((s.me.x x.b).toNat % 2 ^ (8 * amoSize x.dw))))
      (r.flushOver s.cur (r.amoLoc (s.me.ctx s.cur) q (s.me.x x.a).toNat) (amoSize x.dw)) old w) :
    exec (.amofadd x) s = .next (w.amoDone x.d x.acq x.scope (BitVec.ofNat 64 old)) := by
  have he := ends_amoRun h.ready.cur h.free hq ha hp hr true hu
  rw [Bool.or_true, if_pos rfl] at he
  exact scalar_ends h.ready (ends_bind (run_readX _ s) he) (tame_bind (tame_readX _) fun _ => tame_amoRun _ _ _)

theorem amocas_completes {c : Reg} (h : Spec.Accessing s [x.d, x.a, x.b, c])
    (hu : Answers (atomicAt (s.me.ctx s.cur) q (s.me.x x.a).toNat (amoSize x.dw) fun o =>
        if o = (s.me.x c).toNat % 2 ^ (8 * amoSize x.dw) then some ((s.me.x x.b).toNat % 2 ^ (8 * amoSize x.dw)) else none)
      (r.flushOver s.cur (r.amoLoc (s.me.ctx s.cur) q (s.me.x x.a).toNat) (amoSize x.dw)) old w) :
    exec (.amocas { d := x.d, a := x.a, b := x.b, c := c, acq := x.acq, rel := x.rel, dw := x.dw, scope := x.scope }) s =
      .next (w.amoDone x.d x.acq x.scope (if x.dw then BitVec.ofNat 64 old else (BitVec.ofNat 32 old).signExtend 64)) := by
  have he := ends_amoRun h.ready.cur h.free hq ha hp hr false hu
  rw [Bool.or_false, sextWord_eq (by decide)] at he
  exact scalar_ends h.ready (ends_bind (run_readX _ s) (ends_bind (run_readX _ s) he))
    (tame_bind (tame_readX _) fun _ => tame_bind (tame_readX _) fun _ => tame_amoRun _ _ _)

end

/-- The sum of AMOFADD, as a word or as two halves of a doubleword. -/
theorem amoFadd_eq (dw : Bool) (o : Nat) (b : Word) : amoFadd (amoSize dw) o (b.toNat % 2 ^ (8 * amoSize dw)) =
    if dw then Spec.fsum (o % 2 ^ 32) (b.toNat % 2 ^ 32) + Spec.fsum (o / 2 ^ 32) (b.toNat / 2 ^ 32) * 2 ^ 32
    else Spec.fsum o (b.toNat % 2 ^ 32) := by
  have hs : amoFsum = Spec.fsum := rfl
  cases dw
  · rw [amoSize, if_neg (by decide), amoFadd, if_pos rfl, if_neg (by decide), hs]
  · have hb : b.toNat % 2 ^ (8 * 8) = b.toNat := Nat.mod_eq_of_lt b.isLt
    rw [amoSize, amoFadd, if_pos rfl, if_neg (by decide), if_pos rfl, hb, hs]

/-- Settles O11: an AMO is a release, one update after the core's own stores to its bytes, a register write and an acquire. -/
theorem amoResults : Obligations.AmoResults := by
  intro s t w q x old
  refine fun ha hp hq => ⟨fun h => ⟨?_, ?_, ?_, ?_, ?_, ?_, ?_, ?_, ?_, ?_⟩, fun c h hu => ?_⟩
  · exact fun hu => amo_completes hq ha hp rfl h computes_add hu
  · exact fun hu => amo_completes hq ha hp rfl h computes_second hu
  · exact fun hu => amo_completes hq ha hp rfl h computes_and hu
  · exact fun hu => amo_completes hq ha hp rfl h computes_or hu
  · exact fun hu => amo_completes hq ha hp rfl h computes_xor hu
  · exact fun hu => amo_completes hq ha hp rfl h computes_min hu
  · exact fun hu => amo_completes hq ha hp rfl h computes_max hu
  · exact fun hu => amo_completes hq ha hp rfl h computes_minu hu
  · exact fun hu => amo_completes hq ha hp rfl h computes_maxu hu
  · intro hu
    refine amofadd_completes hq ha hp rfl h ?_
    rw [show (fun o => some (amoFadd (amoSize x.dw) o ((s.me.x x.b).toNat % 2 ^ (8 * amoSize x.dw)))) = _ from
      funext fun o => congrArg some (amoFadd_eq x.dw o (s.me.x x.b))]
    exact hu
  · exact amocas_completes hq ha hp rfl h hu

end Sys2Proof.Machine
end

section
/-! PROOF. Fences, cache maintenance and address waits (R105, R106, R314, R315, R324, R325). -/
namespace Sys2Proof.Machine

open Sys2Proof

/-! ## Instructions that wait -/

/-- An instruction that waits leaves what it has done, and the core stays where it is. -/
theorem instr_waits {rs : List Reg} {body : M Flow} {s t : State} (h : s.me.pending rs = false) (hb : runM body s = (.error .wait, t)) :
    instr rs body s = .next t := by
  simp only [instr, after_eq, runInstr, run_bind, run_tryTrap, run_interlock h]
  rw [hb]

theorem waits_bind {β : Type} {m : M α} {f : α → M β} {s t u : State} {a : α} (h : Answers m s a t) (hf : runM (f a) t = (.error .wait, u)) :
    runM (m >>= f) s = (.error .wait, u) := by
  rw [run_bind, show runM m s = (.ok a, t) from h]
  exact hf

theorem waits_of_bind {β : Type} {m : M α} {f : α → M β} {s u : State} (h : runM m s = (.error .wait, u)) :
    runM (m >>= f) s = (.error .wait, u) := by
  rw [run_bind, h]

theorem scalar_waits {rs : List Reg} {body : M Unit} {s t : State} (h : s.me.pending rs = false) (hb : runM body s = (.error .wait, t)) :
    scalar rs body s = .next t := instr_waits h (waits_of_bind hb)

/-! ## Fences (R315) -/

theorem acquiring_of_quiet {s : State} (hq : Spec.Quiet s) (hc : s.crustHas s.cur Item.acq = false) : s.acquiring s.cur = false := by
  have hk : s.me.acquiring = false := by
    unfold Core.acquiring
    rw [hq.queue, olderAcquire_of_issued hq.channels]
    rfl
  unfold State.acquiring
  rw [hc]
  change (s.me.acquiring || false) = false
  rw [hk]
  rfl

theorem run_fenceAcquire {s : State} (hq : Spec.Quiet s) (hc : s.crustHas s.cur Item.acq = false) (hv : s.cur < s.cores.length) (scope : Scope) :
    Ends (fenceAcquire scope) s (Spec.acquired (s.updMe fun k => { k with fenceSeq := k.seq }) scope) := by
  refine ends_bind (run_modMe _ s) ?_
  have hst : (s.updMe fun k => { k with fenceSeq := k.seq }).me = { s.me with fenceSeq := s.me.seq } := me_updMe s _ hv
  have hq' : Spec.Quiet (s.updMe fun k => { k with fenceSeq := k.seq }) := ⟨by rw [hst]; exact hq.queue, by rw [hst]; exact hq.channels⟩
  split
  next h =>
    refine ends_bind (run_acquireGate (acquiring_of_quiet hq' hc)) ?_
    unfold Ends
    rw [run_acquireReads, h]
    rfl
  next h =>
    unfold Ends Spec.acquired
    rw [if_neg h]
    rfl

theorem run_waitEmpty_quiet {s : State} (h : Spec.Quiet s) : Ends waitEmpty s s := run_waitEmpty h.queue h.channels

theorem tame_fence (x : FenceF) : Tame True (do
    if x.rel then scalarRelease x.scope else pure ()
    if x.acq then fenceAcquire x.scope else pure () : M Unit) := by
  cases x.rel <;> cases x.acq <;> simp

theorem fences : Spec.Fences := by
  intro s h
  refine ⟨fun hq => ⟨fun x hc => ?_, ?_⟩, ?_⟩
  · have hu : Ends (if x.rel then scalarRelease x.scope else pure ()) s (if x.rel then Spec.released s x.scope else s) := by
      unfold Ends
      cases x.rel
      · rfl
      · exact run_scalarRelease hq _
    have hsu : SameCores s (if x.rel then Spec.released s x.scope else s) := by
      split
      · exact sameCores_released s _
      · exact sameCores_frame.refl s
    refine scalar_ends h (ends_when_bind hu ?_) (tame_fence x)
    generalize (if x.rel then Spec.released s x.scope else s) = u at hsu hc
    split
    · exact run_fenceAcquire (quiet_of_sameCores hsu hq) (by rw [hsu.1]; exact hc) (hsu.valid h.cur) _
    · rfl
  · exact scalar_ends h (ends_bind (run_waitEmpty_quiet hq) rfl) (tame_bind tame_waitEmpty fun _ => tame_bind tame_myNumber fun c => by simp)
  · exact scalar_core (f := fun k => { k with svFence := k.seq }) h rfl rfl rfl

/-! ## Cache maintenance (R105) -/

theorem pteVers_eq (w : Word) : pteVers w.toNat = w.getLsbD 10 := rfl

theorem cacheLine_pad {acc : Acc} {s : State} {x : CacheF} (h : Spec.address (s.me.x x.a) x.off / 64 * 64 < 2 ^ 57)
    (hp : bits (Spec.address (s.me.x x.a) x.off / 64 * 64) 56 52 = 0x1F) : Answers (cacheLine acc x) s none s := by
  refine answers_bind (run_readX _ s) ?_
  rw [memAddr_eq]
  dsimp only
  rw [if_pos ⟨h, decide_eq_true hp⟩]
  rfl

section
variable {acc : Acc} {s t : State} {x : CacheF} (h : ¬ (Spec.address (s.me.x x.a) x.off / 64 * 64 < 2 ^ 57 ∧
  bits (Spec.address (s.me.x x.a) x.off / 64 * 64) 56 52 = 0x1F))
include h

theorem cacheLine_page {p : Page} (hp : Answers (place (s.me.ctx s.cur) acc (Spec.address (s.me.x x.a) x.off / 64 * 64)) s (.page p) t) :
    Answers (cacheLine acc x) s (some (t.readTarget (s.me.ctx s.cur) p (Spec.address (s.me.x x.a) x.off / 64 * 64), p.leaf.getLsbD 10)) t := by
  refine answers_bind (run_readX _ s) ?_
  rw [memAddr_eq]
  dsimp only
  rw [if_neg fun hb => h ⟨hb.1, of_decide_eq_true hb.2⟩]
  exact answers_bind (run_myCtx s) (answers_bind hp rfl)

theorem cacheLine_traps {r : Trap} (hp : Traps (place (s.me.ctx s.cur) acc (Spec.address (s.me.x x.a) x.off / 64 * 64)) s r t) :
    Traps (cacheLine acc x) s r t := by
  refine traps_bind (run_readX _ s) ?_
  rw [memAddr_eq]
  dsimp only
  rw [if_neg fun hb => h ⟨hb.1, of_decide_eq_true hb.2⟩]
  exact traps_bind (run_myCtx s) (traps_of_bind hp)

end

theorem supervisorOnly_traps {s : State} (h : s.me.sstat.mode = false) :
    Traps supervisorOnly s (faultOf 1 0 (s.me.head * 2 ^ 16 + 10)) s := by
  unfold Traps supervisorOnly
  rw [run_bind, run_getMe]
  dsimp only
  rw [if_neg (by rw [h]; decide)]
  rfl

/-- What a computation leaves where a condition does not ask for it is the state before. -/
theorem ends_unless {c : Prop} [Decidable c] {m : M Unit} {s t : State} (h : ¬ c → Ends m s t) :
    Ends (if c then pure () else m) s (if c then s else t) := by
  split
  · rfl
  next hc => exact h hc

theorem cflush_page {s t : State} {x : CacheF} (hr : Ready s [x.a]) {tg : Target} {vers : Bool} (hl : Answers (cacheLine .read x) s (some (tg, vers)) t)
    (hq : t.me.queue = []) (hc : t.cur < t.cores.length) (hn : t.cur = s.cur) : exec (.cflush x) s =
      .next (if vers then t else (t.flushOver s.cur (tg.loc / 64 * 64) 64).flushLine s.cur (tg.loc / 64)).goesOn := by
  refine scalar_ends hr (ends_bind hl (ends_unless fun _ => ?_)) ?_
  · have hs := run_settleOwn hc hq (tg.loc / 64 * 64) 64
    rw [hn] at hs
    refine ends_bind hs (ends_bind (run_myNumber _) ?_)
    rw [(sameCores_flushOver t s.cur (tg.loc / 64 * 64) 64).1, hn]
    rfl
  · refine tame_bind (by simp) fun o => ?_
    split
    · simp
    · exact tame_ite (tame_pure _) (tame_bind (by simp) fun _ => tame_bind (by simp) fun c => by simp)

theorem cinv_page {s t : State} {x : CacheF} (hr : Ready s [x.a]) {tg : Target} {vers : Bool} (hl : Answers (cacheLine .read x) s (some (tg, vers)) t)
    (hn : t.cur = s.cur) : exec (.cinv x) s = .next ((t.updMe fun k =>
      { k with icache := k.icache.filter fun l => l.loc != tg.loc / 64 * 64 }).dropL1Of s.cur (tg.loc / 64)).goesOn := by
  refine scalar_ends hr (ends_bind hl (ends_bind (run_modMe _ t) (ends_bind (run_myNumber _) ?_))) ?_
  · rw [← hn]
    rfl
  · refine tame_bind (by simp) fun o => ?_
    split
    · simp
    · exact tame_bind (by simp) fun _ => tame_bind (by simp) fun c => by simp

theorem cpref_ends {s t : State} {x : CacheF} (hr : Ready s [x.a]) {o : Trap ⊕ Option (Target × Bool)}
    (hl : Answers (tryTrap (cacheLine .read x)) s o t) (hn : t.cur = s.cur) : exec (.cpref x) s = .next (match o with
      | .inr (some (tg, false)) => t.prefetch s.cur tg
      | _ => t).goesOn := by
  refine scalar_ends hr (ends_bind hl ?_) ?_
  · rcases o with _ | _ | ⟨tg, _ | _⟩
    · rfl
    · rfl
    · refine ends_bind (run_myNumber t) ?_
      rw [← hn]
      rfl
    · rfl
  · refine tame_bind (by simp) fun o => ?_
    split <;> simp (disch := simp)

theorem tryTrap_answers {m : M α} {s t : State} {a : α} (h : Answers m s a t) : Answers (tryTrap m) s (.inr a) t := by
  unfold Answers
  rw [run_tryTrap, show runM m s = _ from h]

theorem tryTrap_traps {m : M α} {s t : State} {r : Trap} (h : Traps m s r t) : Answers (tryTrap m) s (.inl r) t := by
  unfold Answers
  rw [run_tryTrap, show runM m s = _ from h]

theorem tame_cdrop (x : CacheF) : Tame True (do
    supervisorOnly
    match ← cacheLine .write x with
    | none => pure ()
    | some (t, vers) => if vers then pure () else dropLine (t.loc / 64) : M Unit) := by
  refine tame_bind (by simp) fun _ => tame_bind (by simp) fun o => ?_
  split <;> simp

/-! ## The line that CDROP discards -/

/-- A line that no cache holds, and whose memory is as before or as HBM4E holds it. -/
structure Dropped (t u : State) (line : Nat) : Prop where
  rest : SameMemoryBut t u (line * 64) 64
  kept : u.bytesAt (line * 64) 64 = t.bytesAt (line * 64) 64 ∨
    ∃ old, t.hbmLine line = some old ∧ u.bytesAt (line * 64) 64 = bytesOfLine old.bytes
  guests : ∀ d ∈ u.dies, ∀ g ∈ d.guests, g.line ≠ line
  fills : ∀ f ∈ u.fills, f.line ≠ line
  l1 : ∀ q ∈ u.l1, q.2 ≠ line
  cores : u.cores = t.cores
  cur : u.cur = t.cur

theorem dropAway_eq (s : State) (line : Nat) : s.dropAway line = { s with l1 := (s.dropAway line).l1 } := rfl

theorem dropGuests_eq (s : State) (line : Nat) : s.dropGuests [line] =
    { s with dies := s.dies.map fun d => { d with guests := d.guests.filter fun g => !([line].contains g.line) },
             l1 := (s.dropGuests [line]).l1 } := rfl

theorem mem_dropGuests {s : State} {line : Nat} : ∀ d ∈ (s.dropGuests [line]).dies, ∀ g ∈ d.guests, g.line ≠ line := by
  intro d hd g hg
  rw [dropGuests_eq] at hd
  obtain ⟨e, -, rfl⟩ := List.mem_map.1 hd
  have hf := (List.mem_filter.1 hg).2
  simpa using hf

theorem dropped_uncache (t : State) (line : Nat) : Dropped t (t.uncache line) line where
  rest _ _ := rfl
  kept := .inl rfl
  guests := mem_dropGuests
  fills f hf := by simpa using (List.mem_filter.1 hf).2
  l1 q hq := by simpa using (List.mem_filter.1 hq).2
  cores := rfl
  cur := rfl

/-- A change of other fields keeps a line dropped. -/
theorem Dropped.of_same {t u v : State} {line : Nat} (h : Dropped t u line) (hm : v.mem = u.mem) (hd : v.dies = u.dies) (hf : v.fills = u.fills)
    (hl : v.l1 = u.l1) (hc : v.cores = u.cores) (hn : v.cur = u.cur) : Dropped t v line := by
  obtain ⟨hrest, hline, hg, hfi, hl1, hco, hcu⟩ := h
  refine ⟨fun a ha => (byte_congr hm a).trans (hrest a ha), ?_, hd ▸ hg, hf ▸ hfi, hl ▸ hl1, hc.trans hco, hn.trans hcu⟩
  rw [bytesAt_congr hm]
  exact hline

theorem dropped_writeBack {t u : State} {line : Nat} (h : Dropped t u line) (l : Nat) : Dropped t (u.writeBack l) line := by
  have he : u.writeBack l = { u with dirty := (u.writeBack l).dirty, counters := (u.writeBack l).counters } := by
    unfold State.writeBack
    split <;> rfl
  rw [he]
  exact h.of_same rfl rfl rfl rfl rfl rfl

theorem bytesOfLine_length (l : Line) : (bytesOfLine l).length = 64 := leBytes_length 64 _

theorem dies_of_bare {s t : State} (h : s.bare = t.bare) : s.dies = t.dies := (congrArg State.dies h :)

theorem fills_of_bare {s t : State} (h : s.bare = t.bare) : s.fills = t.fills := (congrArg State.fills h :)

theorem l1_of_bare {s t : State} (h : s.bare = t.bare) : s.l1 = t.l1 := (congrArg State.l1 h :)

theorem cores_of_bare {s t : State} (h : s.bare = t.bare) : s.cores = t.cores := (congrArg State.cores h :)

theorem cur_of_bare {s t : State} (h : s.bare = t.bare) : s.cur = t.cur := (congrArg State.cur h :)

theorem restoreLine_eq (s : State) (p : Stale) : ∃ w : State, w.bare = s.bare ∧ w.mem = s.mem ∧
    s.restoreLine p = (w.setBytes (p.line * 64) (bytesOfLine p.bytes)).forgetDirty p.line := by
  exact ⟨{ s with sealTags := match p.tag with
    | some t => (p.line, t) :: s.sealTags.filter fun t => t.1 != p.line
    | none => s.sealTags.filter fun t => t.1 != p.line }, rfl, rfl, rfl⟩

theorem dropped_restore {t u : State} (h : Dropped t u line) (hm : u.mem = t.mem) (hwf : Memory.wf t.mem = true) {old : Stale}
    (ho : t.hbmLine line = some old) (hl : old.line = line) : Dropped t (u.restoreLine old) line := by
  obtain ⟨-, -, hg, hfi, hl1, hco, hcu⟩ := h
  obtain ⟨w, hwb, hwm, hw⟩ := restoreLine_eq u old
  have hlen := bytesOfLine_length old.bytes
  generalize hbs : bytesOfLine old.bytes = bs at hw hlen
  rw [hl] at hw
  have hmem : (u.restoreLine old).mem = (t.setBytes (line * 64) bs).mem := by
    rw [hw]
    exact mem_setBytes_congr (hwm.trans hm) _ _
  have hbare : (u.restoreLine old).bare = u.bare := by
    rw [hw]
    exact (bare_setBytes w (line * 64) bs).trans hwb
  have hline : (u.restoreLine old).bytesAt (line * 64) 64 = bytesOfLine old.bytes := by
    rw [hbs, bytesAt_congr hmem, ← hlen, bytesAt_setBytes _ _ hwf]
  refine ⟨fun a ha => ?_, Or.inr (Exists.intro old (And.intro ho hline)), ?_, ?_, ?_, ?_, ?_⟩
  · rw [byte_congr hmem, byte_setBytes_out hwf (by rw [hlen]; exact ha)]
  · rw [dies_of_bare hbare]
    exact hg
  · rw [fills_of_bare hbare]
    exact hfi
  · rw [l1_of_bare hbare]
    exact hl1
  · exact (cores_of_bare hbare).trans hco
  · exact (cur_of_bare hbare).trans hcu

theorem run_dropLine {t : State} (hwf : Memory.wf t.mem = true) (line : Nat) : ∃ u, Ends (dropLine line) t u ∧ Dropped t u line := by
  have hd := dropped_uncache t line
  unfold dropLine Ends
  rw [run_bind, run_modify]
  dsimp only
  rw [run_bind, run_get]
  dsimp only
  rw [show (t.uncache line).hbmLine line = t.hbmLine line from rfl]
  cases ho : t.hbmLine line with
  | none => exact ⟨_, rfl, hd⟩
  | some old =>
    dsimp only
    rw [run_bind, run_drawChoice]
    dsimp only
    rw [run_modify]
    have hd' : Dropped t { t.uncache line with freeCtr := (t.uncache line).freeCtr + 1 } line := hd.of_same rfl rfl rfl rfl rfl rfl
    refine ⟨_, rfl, ?_⟩
    split
    · exact dropped_writeBack hd' line
    · exact dropped_restore hd' rfl hwf ho (by simpa using List.find?_some ho)

/-- A core goes on beside a line that no cache holds. -/
theorem Dropped.goesOn {t u : State} {line : Nat} (h : Dropped t u line) : SameMemoryBut t u.goesOn (line * 64) 64 ∧
    (u.goesOn.bytesAt (line * 64) 64 = t.bytesAt (line * 64) 64 ∨
      ∃ old, t.hbmLine line = some old ∧ u.goesOn.bytesAt (line * 64) 64 = bytesOfLine old.bytes) ∧
    (∀ d ∈ u.goesOn.dies, ∀ g ∈ d.guests, g.line ≠ line) ∧ (∀ f ∈ u.goesOn.fills, f.line ≠ line) ∧ (∀ q ∈ u.goesOn.l1, q.2 ≠ line) :=
  ⟨h.rest, h.kept, h.guests, h.fills, h.l1⟩

theorem mild_of_answers {p : Prop} {m : M α} (hm : Tame p m) {s t : State} {a : α} (h : Answers m s a t) : Mild p s t := by
  have hk : Mild p s (runM m s).2 := hm s
  rwa [show runM m s = (.ok a, t) from h] at hk

theorem cdrop_page {s t : State} {x : CacheF} (hr : Ready s [x.a]) (hm : s.me.sstat.mode = true) {tg : Target}
    (hl : Answers (cacheLine .write x) s (some (tg, false)) t) (hwf : Memory.wf t.mem = true) :
    ∃ v, exec (.cdrop x) s = .next v.goesOn ∧ Dropped t v (tg.loc / 64) ∧ v.goesOn.me.ia = s.me.nextIa := by
  obtain ⟨v, hv, hd⟩ := run_dropLine hwf (tg.loc / 64)
  have hst : Mild True s v := (mild_of_answers (tame_cacheLine _ _) hl).trans (mild_of_answers (tame_dropLine _) hv)
  obtain ⟨hc, hn⟩ := hst.next_ok hr.cur hr.next
  refine ⟨v, scalar_ends hr (ends_bind (run_supervisorOnly hm) (ends_bind hl hv)) (tame_cdrop x), hd, ?_⟩
  rw [me_goesOn_ia hc hn]
  unfold Core.nextIa Core.nh
  rw [hst.me.ia trivial, hst.me.line trivial]

theorem flushLine_result (s : State) (k l : Nat) : let t := s.flushLine k l
    SameMemory s t ∧ t.hbmLine l = none ∧ (k, l) ∉ t.l1 ∧ ∀ d ∈ t.dies, ∀ g ∈ d.guests, g.line ≠ l := by
  have hmem : (s.writeBack l).mem = s.mem := by unfold State.writeBack; split <;> rfl
  refine ⟨fun a => byte_congr hmem a, List.find?_eq_none.2 fun q hq => ?_, fun hm => ?_, fun d hd => mem_dropGuests d hd⟩
  · have hq' : q ∈ (s.writeBack l).dirty := hq
    have hf := (List.mem_filter.1 hq').2
    simpa using hf
  · simpa using (List.mem_filter.1 hm).2

theorem cacheMaintenance : Spec.CacheMaintenance := by
  intro s x hr
  refine ⟨fun hv hp => ⟨?_, ?_, ?_, fun hm => ?_⟩, fun h => ⟨fun p t hp => ⟨fun hq => ?_, ?_, ?_⟩, fun r t hp => ?_, fun p t hm hwf hp hvers => ?_,
    fun p t hm hp hvers => ?_, fun hm => ?_⟩, flushLine_result s⟩
  · refine scalar_ends hr (ends_bind (cacheLine_pad hv hp) rfl) (tame_bind (by simp) fun o => ?_)
    split
    · simp
    · exact tame_ite (tame_pure _) (tame_bind (by simp) fun _ => tame_bind (by simp) fun c => by simp)
  · refine scalar_ends hr (ends_bind (cacheLine_pad hv hp) rfl) (tame_bind (by simp) fun o => ?_)
    split
    · simp
    · exact tame_bind (by simp) fun _ => tame_bind (by simp) fun c => by simp
  · exact cpref_ends hr (tryTrap_answers (cacheLine_pad hv hp)) rfl
  · exact scalar_ends hr (ends_bind (run_supervisorOnly hm) (ends_bind (cacheLine_pad hv hp) rfl)) (tame_cdrop x)
  · have hst := sameCores_of_answers (sameCores_place _ _ _) hp
    exact cflush_page hr (cacheLine_page h hp) (hst.queue.trans hq) (hst.valid hr.cur) hst.1
  · exact cinv_page hr (cacheLine_page h hp) (sameCores_of_answers (sameCores_place _ _ _) hp).1
  · rw [cpref_ends hr (tryTrap_answers (cacheLine_page h hp)) (sameCores_of_answers (sameCores_place _ _ _) hp).1]
    cases p.leaf.getLsbD 10 <;> rfl
  · refine cpref_ends hr (tryTrap_traps (cacheLine_traps h hp)) ?_
    have hk : SameCores s (runM (place (s.me.ctx s.cur) .read (Spec.address (s.me.x x.a) x.off / 64 * 64)) s).2 := sameCores_place _ _ _ s
    rw [show runM _ s = _ from hp] at hk
    exact hk.1
  · obtain ⟨v, he, hd, hia⟩ := cdrop_page hr hm (hvers ▸ cacheLine_page h hp) hwf
    obtain ⟨h1, h2, h3, h4, h5⟩ := hd.goesOn
    exact ⟨v.goesOn, he, h1, h2, h3, h4, h5, hia⟩
  · refine scalar_ends hr (ends_bind (run_supervisorOnly hm) (ends_bind (cacheLine_page h hp) ?_)) (tame_cdrop x)
    dsimp only
    rw [hvers]
    rfl
  · exact scalar_traps hr.free (traps_of_bind (supervisorOnly_traps hm))

/-! ## Address waits (R324, R325) -/

theorem waitMet_iff (eq : Bool) (v value : Word) : waitMet eq v value = true ↔ Spec.met eq v value := by
  cases eq <;> simp [waitMet, Spec.met]

theorem run_acquireDevice (s : State) : Ends (acquireReads deviceScope) s s := run_acquireReads s deviceScope

/-- The wait that a WAITA leaves which its first read does not end. -/
def waiting (s t : State) (x : WaitF) (eq : Bool) (q : Place) : Monitor :=
  { d := x.d, va := (s.me.x x.a).toNat, value := s.me.x x.b, equal := eq, place := q, scx := s.me.scx,
    seen := t.watched s.me.scx q (s.me.x x.a).toNat, deadline := if x.tmo = 0 then none else some (t.cycle + 1024 * x.tmo.toNat) }

section
variable {s t : State} {x : WaitF} {v : Word} {q : Place} (h : Spec.Accessing s [x.d, x.a, x.b]) (hm : s.me.monitor = none)
include h hm

/-- A WAITA that begins, up to its first read. -/
theorem run_waita (eq : Bool) (ha : (s.me.x x.a).toNat % 8 = 0) (hr : Answers (waitRead (s.me.x x.a).toNat) s (v, q) t) :
    runM (waita eq x) s = runM (do
      let s' ← get
      if waitMet eq v (s.me.x x.b) then
        writeX x.d 0
        acquireReads deviceScope
      else if monitorRoom ≤ (s'.die (dieOf s.cur)).monitors then writeX x.d 2
      else
        modify fun s' => s'.updDie (dieOf s.cur) fun d => { d with monitors := d.monitors + 1 }
        modMe fun k => { k with monitor := some (waiting s s' x eq q) }
        await : M Unit) t := by
  unfold waita
  rw [run_bind, run_myNumber]
  dsimp only
  rw [run_bind, run_getMe]
  dsimp only
  rw [hm]
  dsimp only
  rw [run_bind, run_acquireGate h.free]
  dsimp only
  rw [run_bind, run_readX]
  dsimp only
  rw [run_bind, run_readX]
  dsimp only
  rw [if_neg (not_not.2 ha), run_bind, hr]
  rfl

theorem waita_misaligned (eq : Bool) (ha : (s.me.x x.a).toNat % 8 ≠ 0) : Traps (waita eq x) s (faultOf 4 (s.me.x x.a).toNat 0) s := by
  unfold Traps waita
  rw [run_bind, run_myNumber]
  dsimp only
  rw [run_bind, run_getMe]
  dsimp only
  rw [hm]
  dsimp only
  rw [run_bind, run_acquireGate h.free]
  dsimp only
  rw [run_bind, run_readX]
  dsimp only
  rw [run_bind, run_readX]
  dsimp only
  rw [if_pos ha]
  rfl

theorem waita_first (eq : Bool) (ha : (s.me.x x.a).toNat % 8 = 0) (hr : Answers (waitRead (s.me.x x.a).toNat) s (v, q) t) :
    (Spec.met eq v (s.me.x x.b) → scalar [x.d, x.a, x.b] (waita eq x) s = .next (t.wrote x.d 0)) ∧
    (¬ Spec.met eq v (s.me.x x.b) → 256 ≤ (t.die (dieOf s.cur)).monitors → scalar [x.d, x.a, x.b] (waita eq x) s = .next (t.wrote x.d 2)) ∧
    (¬ Spec.met eq v (s.me.x x.b) → (t.die (dieOf s.cur)).monitors < 256 → scalar [x.d, x.a, x.b] (waita eq x) s =
      .next ((t.updDie (dieOf s.cur) fun d => { d with monitors := d.monitors + 1 }).updMe fun k =>
        { k with monitor := some (waiting s t x eq q) })) := by
  have hrun := run_waita h hm eq ha hr
  rw [run_bind, run_get] at hrun
  dsimp only at hrun
  refine ⟨fun hv => ?_, fun hv hfull => ?_, fun hv hroom => ?_⟩
  · rw [if_pos ((waitMet_iff _ _ _).2 hv)] at hrun
    exact scalar_ends h.ready (hrun.trans (ends_bind (run_writeX _ _ t) (run_acquireDevice _))) (tame_waita _ _)
  · rw [if_neg (fun hb => hv ((waitMet_iff _ _ _).1 hb)), if_pos (show monitorRoom ≤ (t.die (dieOf s.cur)).monitors from hfull)] at hrun
    exact scalar_ends h.ready hrun (tame_waita _ _)
  · rw [if_neg (fun hb => hv ((waitMet_iff _ _ _).1 hb)), if_neg (by unfold monitorRoom; omega)] at hrun
    exact scalar_waits h.ready.free hrun

end

theorem waitRead_pad {s : State} {a loc : Nat} (h : Spec.PadRead s a 8 loc)
    (hsb : (s.me.sb.all fun e => !overlaps e.loc e.bytes.length loc 8) = true) :
    Answers (waitRead a) s (Spec.unsigned (s.bytesAt loc 8), .pad loc) (Spec.sawHome s loc) := by
  have hge := padLoc_ge h.place
  have hun : s.me.unperformed loc 8 = false := by
    unfold Core.unperformed
    rw [List.any_eq_false]
    intro e he
    have hn := List.all_eq_true.1 hsb e he
    simpa using hn
  have hfo : s.flushOver s.cur loc 8 = s := by
    unfold State.flushOver
    exact if_neg (by rw [show (s.core s.cur).unperformed loc 8 = false from hun]; decide)
  have hset : Ends (settleOwn loc 8) s s := by
    unfold Ends settleOwn
    rw [run_bind, run_myNumber]
    dsimp only
    rw [run_bind, run_modify]
    dsimp only
    rw [run_bind, run_getMe]
    dsimp only
    rw [hfo, hun]
    rfl
  have hin : Answers (readIn (s.me.ctx s.cur) (.pad loc) a) s { loc := loc, key := none, held := false } s := rfl
  have hvec : Answers (vecRead (s.me.ctx s.cur) (.pad loc) a 8) s (s.bytesAt loc 8) (Spec.sawHome s loc) := by
    unfold vecRead
    refine answers_bind hin (answers_bind (run_modify _ s) ?_)
    dsimp only
    rw [isFabric_pad hge]
    exact readHome_pad (s := s.dropL1Of s.cur (loc / 64)) hge h.good h.plain h.exact
  exact answers_bind (run_myCtx s) (answers_bind (place_pad (x := s.me.ctx s.cur) h.place (by decide) s)
    (answers_bind hin (answers_bind hset (answers_bind hvec rfl))))

theorem waitFirstRead : Spec.WaitFirstRead := by
  intro s t x v q h hq hm
  refine ⟨fun ha hr => ⟨waita_first h hm false ha hr, waita_first h hm true ha hr⟩, fun ha => ⟨?_, ?_⟩, fun loc hp hsb => waitRead_pad hp hsb⟩
  · exact scalar_traps h.ready.free (waita_misaligned h hm false ha)
  · exact scalar_traps h.ready.free (waita_misaligned h hm true ha)

/-! ## The end of a wait -/

/-- A blocked WAITA whose test answers that it has ended. -/
theorem onMonitor_ends {s t : State} {c : Nat} {m : Monitor} {test : Monitor → M Bool} (hm : (s.core c).monitor = some m) (hq : (s.core c).queue = [])
    (hc : c < s.cores.length) (hn : wellFormedIa (s.core c).nextIa = true) (hk : Tame True (test m)) (ht : Answers (test m) (s.as c) true t) :
    event (onMonitor c test) s = .next (t.goesOn.as s.cur) := by
  have hst : Mild True (s.as c) t := mild_of_answers hk ht
  obtain ⟨hc', hn'⟩ := hst.next_ok (s := s.as c) hc hn
  have hgo := instr_goes (body := do if ← test m then return .next else await) (rs := []) (s := s.as c) (pending_of_queue hq [])
    (answers_bind ht rfl) hc' hn'
  rw [event_next, onMonitor, onCore_state]
  rw [run_bind, run_getMe]
  dsimp only
  rw [show (s.as c).me.monitor = some m from hm]
  have hst := congrArg (fun u : State => u.as s.cur) (Host.Outcome.next.inj hgo)
  exact congrArg Host.Outcome.next hst

theorem onMonitor_waits {s : State} {c : Nat} {m : Monitor} {test : Monitor → M Bool} (hm : (s.core c).monitor = some m) (hq : (s.core c).queue = [])
    (ht : Answers (test m) (s.as c) false (s.as c)) : event (onMonitor c test) s = .next s := by
  have hgo := instr_waits (body := do if ← test m then return .next else await) (rs := []) (s := s.as c) (t := s.as c) (pending_of_queue hq [])
    (waits_bind ht rfl)
  rw [event_next, onMonitor, onCore_state]
  rw [run_bind, run_getMe]
  dsimp only
  rw [show (s.as c).me.monitor = some m from hm]
  have hst := congrArg (fun u : State => u.as s.cur) (Host.Outcome.next.inj hgo)
  exact congrArg Host.Outcome.next hst

theorem waitEnds : Spec.WaitEnds := by
  intro s c m hc hm hq hn
  refine ⟨fun v q t hseen hr hmet => ?_, fun hseen => ?_, fun n hd hle => ?_⟩
  · have hcur : t.cur = c := (mild_of_answers (p := True) (tame_waitRead _) hr).cur
    refine onMonitor_ends (test := waitReread) (t := (t.freeMonitor c).updMe fun k => k.setX m.d 0) hm hq hc hn (tame_waitReread m) ?_
    refine answers_bind (run_myNumber (s.as c)) (answers_bind (run_get (s.as c)) ?_)
    have hne : ¬ (m.seen == (s.as c).watched m.scx m.place m.va) = true := fun hb => hseen (beq_iff_eq.1 hb)
    rw [if_neg hne]
    refine answers_bind hr ?_
    dsimp only
    rw [if_pos ((waitMet_iff _ _ _).2 hmet)]
    exact answers_bind (run_modify _ t) (answers_bind (run_writeX _ _ _) (answers_bind (run_acquireDevice _) rfl))
  · refine onMonitor_waits (test := waitReread) hm hq (answers_bind (run_myNumber (s.as c)) (answers_bind (run_get (s.as c)) ?_))
    have heq : (m.seen == (s.as c).watched m.scx m.place m.va) = true := beq_iff_eq.2 hseen
    rw [if_pos heq]
    rfl
  · refine onMonitor_ends (test := waitTimeout) (t := ((s.as c).freeMonitor c).updMe fun k => k.setX m.d 1) hm hq hc hn (tame_waitTimeout m) ?_
    refine answers_bind (run_myNumber (s.as c)) (answers_bind (run_get (s.as c)) ?_)
    rw [hd]
    dsimp only
    rw [if_pos (show n ≤ (s.as c).cycle from hle)]
    exact answers_bind (run_modify _ _) (answers_bind (run_writeX _ _ _) rfl)

/-- Settles O16: each fence, cache instruction and wait by what its parts do. -/
theorem fencesCachesAndWaits : Obligations.FencesCachesAndWaits := ⟨fences, cacheMaintenance, waitFirstRead, waitEnds⟩

end Sys2Proof.Machine
end

section
/-! PROOF. Control and status registers (R241 to R243, R369, R377): what each instruction does, and that HEADWAIT, which a VVERLD's wait gives, reads
nothing of a core but its masks. -/
namespace Sys2Proof.Machine

open Sys2Proof

/-! ## Computations that read nothing of the cores but masks -/

/-- The same device with other cores. -/
def State.withCores (s : State) (l : List Core) : State := { s with cores := l }

/-- Two tables of cores have the same masks. -/
def SameMasks (l l' : List Core) : Prop := ∀ c m, (l'.getD c Core.reset).mask m = (l.getD c Core.reset).mask m

/-- What a computation answers, and what it does beside the cores, which it leaves, depends on their masks alone. -/
def Blind (m : M α) : Prop := ∀ s l, SameMasks s.cores l →
  runM m (s.withCores l) = ((runM m s).1, (runM m s).2.withCores l) ∧ (runM m s).2.cores = s.cores

theorem blind_pure (a : α) : Blind (pure a : M α) := fun _ _ _ => ⟨rfl, rfl⟩

theorem blind_raise (t : Trap) : Blind (raise t : M α) := fun _ _ _ => ⟨rfl, rfl⟩

theorem blind_throw (h : Halt) : Blind (throw h : M α) := fun _ _ _ => ⟨rfl, rfl⟩

theorem blind_bind {m : M α} {f : α → M β} (hm : Blind m) (hf : ∀ a, Blind (f a)) : Blind (m >>= f) := by
  intro s l h
  obtain ⟨h1, h2⟩ := hm s l h
  rw [run_bind, run_bind, h1]
  rcases hr : runM m s with ⟨_ | a, t⟩ <;> rw [hr] at h2 <;> dsimp only
  · exact ⟨rfl, h2⟩
  · obtain ⟨h3, h4⟩ := hf a t l (show SameMasks t.cores l by rw [show t.cores = s.cores from h2]; exact h)
    exact ⟨h3, h4.trans h2⟩

theorem blind_tryCatch {m : M α} {f : Halt → M α} (hm : Blind m) (hf : ∀ e, Blind (f e)) : Blind (tryCatch m f) := by
  intro s l h
  obtain ⟨h1, h2⟩ := hm s l h
  rw [run_tryCatch, run_tryCatch, h1]
  rcases hr : runM m s with ⟨e | a, t⟩ <;> rw [hr] at h2 <;> dsimp only
  · obtain ⟨h3, h4⟩ := hf e t l (show SameMasks t.cores l by rw [show t.cores = s.cores from h2]; exact h)
    exact ⟨h3, h4.trans h2⟩
  · exact ⟨rfl, h2⟩

theorem blind_ite {c : Prop} [Decidable c] {a b : M α} (ha : Blind a) (hb : Blind b) : Blind (if c then a else b) := by
  split
  · exact ha
  · exact hb

/-- A computation that reads of the state what does not depend on the cores. -/
theorem blind_get_bind {f : State → M α} (hf : ∀ s l, f (s.withCores l) = f s) (hb : ∀ s, Blind (f s)) : Blind (get >>= f) := by
  intro s l h
  rw [run_bind, run_bind, run_get, run_get]
  dsimp only
  rw [hf]
  exact hb s s l h

theorem blind_getMe_bind {f : Core → M α} (hf : ∀ k k' : Core, (∀ m, k'.mask m = k.mask m) → f k' = f k) (hb : ∀ k, Blind (f k)) :
    Blind (getMe >>= f) := by
  intro s l h
  rw [run_bind, run_bind, run_getMe, run_getMe]
  dsimp only
  rw [hf s.me (s.withCores l).me (h s.cur)]
  exact hb s.me s l h

theorem blind_modify {f : State → State} (hf : ∀ s l, f (s.withCores l) = (f s).withCores l) (hc : ∀ s, (f s).cores = s.cores) :
    Blind (modify f : M PUnit) := fun s l _ => ⟨congrArg (fun t => (Except.ok PUnit.unit, t)) (hf s l), hc s⟩

theorem blind_myNumber : Blind myNumber := fun _ _ _ => ⟨rfl, rfl⟩

theorem blind_drawChoice (n : Nat) : Blind (drawChoice n) := fun _ _ _ => ⟨rfl, rfl⟩

/-! ## Translation reads no core -/

section
variable (s : State) (l : List Core)

theorem walkFrom_withCores (x : Ctx) (acc : Acc) (va lv table : Nat) :
    (s.withCores l).walkFrom x acc va lv table = s.walkFrom x acc va lv table := by
  induction lv generalizing table with
  | zero => rfl
  | succ lv ih =>
    rw [State.walkFrom, State.walkFrom, funext ih]
    rfl

theorem outcomes_withCores (x : Ctx) (acc : Acc) (va : Nat) : (s.withCores l).outcomes x acc va = s.outcomes x acc va := by
  unfold State.outcomes State.freshWalk State.heldWalks
  simp only [walkFrom_withCores]
  rfl

theorem pointersOf_withCores (va lv table : Nat) : (s.withCores l).pointersOf va lv table = s.pointersOf va lv table := by
  induction lv generalizing table with
  | zero => rfl
  | succ lv ih =>
    rw [State.pointersOf, State.pointersOf, ih]
    rfl

theorem walkFabric_withCores (x : Ctx) (va : Nat) : (s.withCores l).walkFabric x va = s.walkFabric x va := by
  unfold State.walkFabric
  simp only [pointersOf_withCores]
  rfl

theorem holdPage_withCores (x : Ctx) (acc : Acc) (va : Nat) (p : Page) :
    (s.withCores l).holdPage x acc va p = (s.holdPage x acc va p).withCores l := by
  unfold State.holdPage State.freshWalk
  simp only [walkFrom_withCores, pointersOf_withCores]
  rfl

end

theorem blind_lostRead (c va loc : Nat) : Blind (lostRead c va loc) := by
  intro s l _
  unfold lostRead
  rw [run_bind, run_bind, run_get, run_get]
  dsimp only
  rw [show (s.withCores l).fabric = s.fabric from rfl]
  split
  · exact ⟨rfl, rfl⟩
  · exact ⟨rfl, rfl⟩

theorem blind_walkLost (x : Ctx) (va : Nat) : Blind (walkLost x va) := by
  refine blind_get_bind (fun s l => ?_) fun s => blind_ite (blind_pure ()) ?_
  · rw [walkFabric_withCores]
    rfl
  · split
    · exact blind_lostRead _ _ _
    · exact blind_pure ()

theorem blind_translate (x : Ctx) (acc : Acc) (va : Nat) : Blind (translate x acc va) := by
  have hend : ∀ o : Except Trap Page, Blind (match o with
      | .error t => raise t
      | .ok p => do
        modify fun s => s.holdPage x acc va p
        return p : M Page) := by
    intro o
    cases o with
    | error t => exact blind_raise t
    | ok p => exact blind_bind (blind_modify (fun s l => holdPage_withCores s l x acc va p) fun _ => rfl) fun _ => blind_pure p
  refine blind_bind (blind_walkLost x va) fun _ => blind_get_bind (fun s l => ?_) fun s => ?_
  · rw [outcomes_withCores]
  · dsimp only
    split
    · exact blind_raise _
    · exact blind_ite (blind_bind (blind_pure _) hend) (blind_bind (blind_drawChoice _) fun _ => blind_bind (blind_pure _) hend)

theorem blind_place (x : Ctx) (acc : Acc) (va : Nat) : Blind (place x acc va) := by
  unfold place
  refine blind_ite (blind_raise _) (blind_ite (blind_ite (blind_raise _) ?_) (blind_bind (blind_translate x acc va) fun _ => blind_pure _))
  split
  · exact blind_raise _
  · exact blind_pure _

/-! ## A VVERLD at the head (R407) -/

theorem blind_verRow (x : Ctx) (acc : Acc) (f : VVerF) (base r : Nat) (gs : List (List Nat)) : Blind (verRow x acc f base r gs) := by
  induction gs with
  | nil => exact blind_pure _
  | cons g gs ih =>
    cases g with
    | nil => exact ih
    | cons c cs =>
      rw [verRow]
      refine blind_bind (blind_tryCatch (blind_bind (blind_place _ _ _) fun _ => blind_pure _) fun h => ?_) fun q => ?_
      · cases h
        · exact blind_pure _
        · exact blind_throw _
      · cases q
        · exact blind_bind ih fun _ => blind_pure _
        · exact blind_pure _

theorem active_of_masks {k k' : Core} (h : ∀ m, k'.mask m = k.mask m) (e : VEntry) (m : MaskReg) (r c : Nat) :
    k'.active e m r c = k.active e m r c := by
  unfold Core.active Core.maskBit
  rw [h]

theorem liveCols_of_masks {k k' : Core} (h : ∀ m, k'.mask m = k.mask m) (e : VEntry) (m : MaskReg) (r : Nat) :
    liveCols k' e m r = liveCols k e m r := by
  unfold liveCols
  simp only [active_of_masks h]

theorem anyActive_of_masks {k k' : Core} (h : ∀ m, k'.mask m = k.mask m) (e : VEntry) (m : MaskReg) : anyActive k' e m = anyActive k e m := by
  unfold anyActive
  simp only [active_of_masks h]

theorem blind_verLines (x : Ctx) (acc : Acc) (f : VVerF) (e : VEntry) (rs : List Nat) : Blind (verLines x acc f e rs) := by
  induction rs with
  | nil => exact blind_pure _
  | cons r rest ih =>
    rw [verLines]
    refine blind_getMe_bind (fun k k' h => by rw [liveCols_of_masks h]) fun k => ?_
    split
    · exact ih
    · refine blind_ite (blind_pure _) (blind_bind (blind_verRow _ _ _ _ _ _) fun o => ?_)
      obtain ⟨ls, bad⟩ := o
      cases bad with
      | some _ => exact blind_pure _
      | none => exact blind_bind ih fun _ => blind_pure _

theorem chainFrom_withCores (s : State) (l : List Core) (g : Region) (fuel n : Nat) :
    (s.withCores l).chainFrom g fuel n = s.chainFrom g fuel n := by
  induction fuel generalizing n with
  | zero => rfl
  | succ fuel ih =>
    simp only [State.chainFrom, ih]
    rfl

theorem versions_withCores (s : State) (l : List Core) (v : VLine) : (s.withCores l).versions v = s.versions v := by
  unfold State.versions
  dsimp only
  rw [chainFrom_withCores]
  rfl

theorem verReady_withCores (s : State) (l : List Core) (v : Nat) (r : VerLine) : (s.withCores l).verReady v r = s.verReady v r := by
  unfold State.verReady State.answer State.tainted
  simp only [versions_withCores]
  rfl

theorem blind_verWaits (f : VVerF) (e : VEntry) : Blind (verWaits f e) := by
  unfold verWaits
  refine blind_getMe_bind (fun k k' h => by rw [anyActive_of_masks h]) fun k => blind_ite (blind_pure _) ?_
  refine blind_bind blind_myNumber fun c => blind_bind (blind_verLines _ _ _ _ _) fun o => ?_
  refine blind_get_bind (fun s l => ?_) fun s => blind_pure _
  simp only [funext (verReady_withCores s l _)]

theorem onCore_answer (c : Nat) (m : M α) (s : State) : (runM (onCore c m) s).1 = (runM m (s.as c)).1 := by
  simp only [onCore, run_bind, run_get, run_modify, run_tryCatch]
  rw [show ({ s with cur := c } : State) = s.as c from rfl]
  rcases runM m (s.as c) with ⟨_ | _, t⟩ <;> rfl

/-- HEADWAIT does not change with what a CSR write changes of a core: its queue and its masks are as they were. -/
theorem headWaits_withCores {s : State} {l : List Core} (h : SameMasks s.cores l) {c : Nat} (hq : ((s.withCores l).core c).queue = (s.core c).queue) :
    (s.withCores l).headWaits c = s.headWaits c := by
  unfold State.headWaits State.entryWaits
  rw [hq]
  split
  · rfl
  next e es heq =>
    have hb (f : VVerF) : ((onCore c (verWaits f e)).run.run (s.withCores l)).1 = ((onCore c (verWaits f e)).run.run s).1 := by
      obtain ⟨hrun, -⟩ := blind_verWaits f e (s.as c) l h
      change (runM (onCore c (verWaits f e)) (s.withCores l)).1 = (runM (onCore c (verWaits f e)) s).1
      rw [onCore_answer, onCore_answer]
      exact (congrArg Prod.fst hrun :)
    simp only [hb]

/-! ## Access (R243) -/

theorem vectorSide_iff (c : Csr) : Csr.vectorSide c = true ↔ c ∈ Spec.vectorSide := by cases c <;> decide

theorem taskWritable_iff (c : Csr) : Csr.taskWritable c = true ↔ c ∈ Spec.taskWritable := by cases c <;> decide

/-- A CSR is read as it stands, of the vector side once the queue is empty. -/
theorem answers_readCsr {s : State} {c : Csr} (hq : c ∈ Spec.vectorSide → Spec.Quiet s) : Answers (readCsr c) s (s.csrValue c) s := by
  cases hv : Csr.vectorSide c with
  | false => exact run_readCsr hv s
  | true =>
    unfold Answers readCsr
    rw [if_pos hv]
    exact answers_bind (run_waitEmpty_quiet (hq ((vectorSide_iff c).1 hv))) rfl

section
variable {s : State} {x : CsrF} (h : Ready s [x.d, x.a]) (hq : x.csr ∈ Spec.vectorSide → Spec.Quiet s)
include h hq

theorem csrWrite_stored (f : Word → Word → Word) (hw : s.me.sstat.mode = true ∨ x.csr ∈ Spec.taskWritable) :
    scalar [x.d, x.a] (csrWrite f x) s =
      .next ((s.updMe fun k => k.setCsr x.csr (f (s.csrValue x.csr) (s.me.x x.a))).wrote x.d (s.csrValue x.csr)) := by
  have hm : (s.me.sstat.mode || Csr.taskWritable x.csr) = true := Bool.or_eq_true_iff.2 (hw.imp id (taskWritable_iff _).2)
  have hpt : Ends (if x.csr = .ptroot then supervisorOnly else pure ()) s s := by
    split
    next hc =>
      refine run_supervisorOnly (hw.resolve_right fun ht => ?_)
      rw [hc] at ht
      exact absurd ht (by decide)
    · rfl
  refine scalar_ends h (ends_when_bind hpt (ends_bind (run_readX _ s) (ends_bind (answers_readCsr hq) (ends_bind (run_getMe s)
    (ends_when_bind ?_ (run_writeX _ _ _)))))) (tame_csrWrite _ _)
  rw [if_pos hm]
  rfl

theorem csrWrite_ignored (f : Word → Word → Word) (hm : s.me.sstat.mode = false) (hw : x.csr ∉ Spec.taskWritable) (hp : x.csr ≠ .ptroot) :
    scalar [x.d, x.a] (csrWrite f x) s = .next (s.wrote x.d (s.csrValue x.csr)) := by
  have ht : ¬ (s.me.sstat.mode || Csr.taskWritable x.csr) = true := by
    rw [hm, Bool.false_or]
    exact fun hb => hw ((taskWritable_iff _).1 hb)
  have hpt : Ends (if x.csr = .ptroot then supervisorOnly else pure ()) s s := by
    rw [if_neg hp]
    rfl
  refine scalar_ends h (ends_when_bind hpt (ends_bind (run_readX _ s) (ends_bind (answers_readCsr hq) (ends_bind (run_getMe s)
    (ends_when_bind ?_ (run_writeX _ _ _)))))) (tame_csrWrite _ _)
  rw [if_neg ht]
  rfl

end

theorem csrWrite_refused {s : State} {x : CsrF} (h : Ready s [x.d, x.a]) (f : Word → Word → Word) (hm : s.me.sstat.mode = false)
    (hp : x.csr = .ptroot) : scalar [x.d, x.a] (csrWrite f x) s =
      .next (s.after (trapEntry (some (faultOf 1 0 (s.me.head * 2 ^ 16 + 10))) s.me.ia)) := by
  refine scalar_traps h.free ?_
  unfold csrWrite
  rw [if_pos hp]
  exact traps_of_bind (supervisorOnly_traps hm)

theorem cpwpCsr_eq (ch : BitVec 2) : cpwpCsr ch = [Csr.cpwp0, .cpwp1, .cpwp2, .cpwp3].getD ch.toNat .cpwp0 := by
  revert ch
  decide

theorem csrInstructions : Spec.CsrAccess := by
  intro s
  have his (x : CsrF) (h : Ready s [x.d, x.a]) (hq : x.csr ∈ Spec.vectorSide → Spec.Quiet s) (f : Word → Word → Word) :=
    And.intro (csrWrite_stored h hq f) (And.intro (csrWrite_ignored h hq f) (csrWrite_refused h f))
  refine ⟨fun x h hq => ?_, fun x h hq => ⟨his x h hq _, his x h hq _, his x h hq _⟩, fun x h hq => ?_⟩
  · exact scalar_ends h (ends_bind (answers_readCsr hq) rfl) (tame_bind (tame_readCsr _) fun _ => tame_writeX _ _)
  · rw [← cpwpCsr_eq]
    rfl

/-! ## The fields of a CSR (R2, R241, R369, R377) -/

/-- The low bits of a word, as a mask gives them. -/
theorem setWidth_setWidth_eq_and (v : Word) {n : Nat} (h : n ≤ 64) : (v.setWidth n).setWidth 64 = v &&& BitVec.ofNat 64 (2 ^ n - 1) := by
  have hp : 2 ^ n ≤ 2 ^ 64 := Nat.pow_le_pow_right (by decide) h
  have h1 : 0 < 2 ^ n := Nat.two_pow_pos n
  apply BitVec.eq_of_toNat_eq
  rw [BitVec.toNat_setWidth, BitVec.toNat_setWidth, BitVec.toNat_and, BitVec.toNat_ofNat, Nat.mod_eq_of_lt (a := 2 ^ n - 1) (by omega),
    Nat.and_two_pow_sub_one_eq_mod, Nat.mod_eq_of_lt ((Nat.mod_lt _ h1).trans_le hp)]

theorem and_bit (v : Word) (i : Nat) : v &&& BitVec.twoPow 64 i = if bit v.toNat i then BitVec.twoPow 64 i else 0 := by
  rw [BitVec.and_twoPow]
  rfl

/-- The bits of SSTAT that software may write. -/
theorem and_sstatMask (v : Word) : v &&& 0x1A = (if bit v.toNat 1 then BitVec.twoPow 64 1 else 0) |||
    ((if bit v.toNat 3 then BitVec.twoPow 64 3 else 0) ||| if bit v.toNat 4 then BitVec.twoPow 64 4 else 0) := by
  rw [show (0x1A : Word) = BitVec.twoPow 64 1 ||| (BitVec.twoPow 64 3 ||| BitVec.twoPow 64 4) by decide, BitVec.and_or_distrib_left,
    BitVec.and_or_distrib_left, and_bit, and_bit, and_bit]

/-- The writable bits of SSTAT come from the value written, and the others stay. -/
theorem sstat_word_written (q : Sstat) (b1 b3 b4 : Bool) : ({ q with pie := b4, ie := b3, pm := b1 } : Sstat).word =
    (q.word &&& ~~~0x1A) ||| ((if b1 then BitVec.twoPow 64 1 else 0) ||| ((if b3 then BitVec.twoPow 64 3 else 0) |||
      if b4 then BitVec.twoPow 64 4 else 0)) := by
  obtain ⟨mode, pm, ie, pie, nest, loaded, held⟩ := q
  revert mode pm ie pie nest loaded held b1 b3 b4
  decide

theorem getElem_set!_self (w : Vector Word 4) {i : Nat} (h : i < 4) (v : Word) : (w.set! i v)[i]'h = v := by
  simp [Vector.set!]

theorem getElem_set!_ne (w : Vector Word 4) {i j : Nat} (h : j < 4) (hij : i ≠ j) (v : Word) : (w.set! i v)[j]'h = w[j]'h := by
  have ha := Array.getElem_setIfInBounds_ne (xs := w.toArray) (a := v) (by simpa using h) hij
  simpa [Vector.set!] using ha

theorem setCsr_queue (k : Core) (c : Csr) (v : Word) : (k.setCsr c v).queue = k.queue := by
  unfold Core.setCsr; split <;> rfl

theorem setCsr_chans (k : Core) (c : Csr) (v : Word) : (k.setCsr c v).chans = k.chans := by
  unfold Core.setCsr; split <;> rfl

theorem setCsr_deadline (k : Core) (c : Csr) (v : Word) : (k.setCsr c v).deadline = k.deadline := by
  unfold Core.setCsr; split <;> rfl

theorem setCsr_masks (k : Core) (c : Csr) (v : Word) : (k.setCsr c v).k1 = k.k1 ∧ (k.setCsr c v).k2 = k.k2 ∧ (k.setCsr c v).k3 = k.k3 := by
  unfold Core.setCsr; split <;> exact ⟨rfl, rfl, rfl⟩

theorem setCsr_mask (k : Core) (c : Csr) (v : Word) (m : MaskReg) : (k.setCsr c v).mask m = k.mask m := by
  obtain ⟨h1, h2, h3⟩ := setCsr_masks k c v
  unfold Core.mask
  rw [h1, h2, h3]

section
variable {s : State} (hc : s.cur < s.cores.length) (c : Csr) (v : Word)
include hc

/-- VQSTAT does not change with a write of a CSR. -/
theorem vqstat_setCsr : (s.updMe fun k => k.setCsr c v).csrValue .vqstat = s.csrValue .vqstat := by
  have hk : (s.updMe fun k => k.setCsr c v).core s.cur = s.me.setCsr c v := me_updMe s _ hc
  have hmasks : SameMasks s.cores (s.updMe fun k => k.setCsr c v).cores := by
    intro i m
    change ((s.updCore s.cur fun k => k.setCsr c v).core i).mask m = (s.core i).mask m
    by_cases hi : i = s.cur
    · subst hi
      rw [core_updCore_self _ _ _ hc, setCsr_mask]
    · rw [core_updCore_ne _ _ _ _ (Ne.symm hi)]
  have hw : (s.updMe fun k => k.setCsr c v).headWaits s.cur = s.headWaits s.cur := by
    refine headWaits_withCores hmasks ?_
    exact (congrArg Core.queue hk).trans (setCsr_queue _ _ _)
  change (s.updMe fun k => k.setCsr c v).vqstat s.cur = s.vqstat s.cur
  unfold State.vqstat Core.occupied Core.issued Core.chan
  rw [hw, hk]
  simp only [setCsr_queue, setCsr_chans]
  rfl

/-- No write of a CSR changes what another CSR reads, and of the cores' own state each reads what its write has stored. -/
theorem csrValue_setCsr_ne {b : Csr} (hb : b ≠ c) : (s.updMe fun k => k.setCsr c v).csrValue b = s.csrValue b := by
  by_cases hv : b = .vqstat
  · subst hv
    exact vqstat_setCsr hc c v
  · have hk : (s.updMe fun k => k.setCsr c v).me = s.me.setCsr c v := me_updMe s _ hc
    have hg : (s.updMe fun k => k.setCsr c v).mgrant (s.updMe fun k => k.setCsr c v).cur = s.mgrant s.cur := rfl
    have hd : (s.updMe fun k => k.setCsr c v).dtime = s.dtime := rfl
    have hcy : (s.updMe fun k => k.setCsr c v).cycle = s.cycle := rfl
    generalize (s.updMe fun k => k.setCsr c v) = t at hk hg hd hcy
    unfold State.csrValue State.budgetLeft
    rw [hk, hg, hd, hcy, setCsr_deadline]
    unfold Core.setCsr Core.setCpwp
    cases b
    case vqstat => exact absurd rfl hv
    all_goals dsimp only
    all_goals split <;> try trivial
    all_goals refine getElem_set!_ne _ _ ?_ _; decide

/-- What a CSR reads after a write of it. -/
theorem csrValue_setCsr : (s.updMe fun k => k.setCsr c v).csrValue c = (match c, Spec.csrMask c with
      | _, some m => v &&& m
      | .sstat, none => (s.csrValue .sstat &&& ~~~0x1A) ||| (v &&& 0x1A)
      | .paduse, none => BitVec.ofNat 64 (min (v.extractLsb' 0 21).toNat 1048576 + min (v.extractLsb' 32 13).toNat 4096 * 2 ^ 32)
      | _, none => s.csrValue c) := by
  have hk : (s.updMe fun k => k.setCsr c v).me = s.me.setCsr c v := me_updMe s _ hc
  have hall (w : Word) : w &&& BitVec.allOnes 64 = w := BitVec.and_allOnes
  by_cases hv : c = .vqstat
  · subst hv
    exact vqstat_setCsr hc _ v
  · have hg : (s.updMe fun k => k.setCsr c v).mgrant (s.updMe fun k => k.setCsr c v).cur = s.mgrant s.cur := rfl
    have hd : (s.updMe fun k => k.setCsr c v).dtime = s.dtime := rfl
    have hcy : (s.updMe fun k => k.setCsr c v).cycle = s.cycle := rfl
    generalize (s.updMe fun k => k.setCsr c v) = t at hk hg hd hcy
    unfold State.csrValue State.budgetLeft
    rw [hk, hg, hd, hcy]
    unfold Core.setCsr Spec.csrMask
    cases c <;> dsimp only
    case vqstat => exact absurd rfl hv
    case flags => exact setWidth_setWidth_eq_and v (by decide)
    case frm => exact setWidth_setWidth_eq_and v (by decide)
    case scx => exact setWidth_setWidth_eq_and v (by decide)
    case asid => exact setWidth_setWidth_eq_and v (by decide)
    case cpwp0 => exact (getElem_set!_self _ (by decide) v).trans (hall v).symm
    case cpwp1 => exact (getElem_set!_self _ (by decide) v).trans (hall v).symm
    case cpwp2 => exact (getElem_set!_self _ (by decide) v).trans (hall v).symm
    case cpwp3 => exact (getElem_set!_self _ (by decide) v).trans (hall v).symm
    case sstat => rw [and_sstatMask, sstat_word_written]
    case paduse =>
      rw [paduseWord, bits_toNat, bits_toNat]
      rfl
    case eia | eva | ekv | eaux | tvec => exact (hall v).symm

end

theorem csrFields : Spec.CsrFields := by
  intro s c v hc
  refine ⟨csrValue_setCsr hc c v, fun b hb _ => csrValue_setCsr_ne hc c v hb, ?_, fun _ => vqstat_setCsr hc c v⟩
  rw [vqstat_setCsr hc]

/-- Settles O17: each access by the mode, and each CSR by the field that holds it. -/
theorem csrAccess : Obligations.CsrAccess := ⟨csrInstructions, csrFields⟩

end Sys2Proof.Machine
end

section
/-! PROOF. Traps and returns (R364 to R372, R378, R379). -/
namespace Sys2Proof.Machine

open Sys2Proof

/-! ## Changes of the executing core -/

theorem modifyNth_congr {α : Type} {f g : α → α} {n : Nat} {l : List α} (h : ∀ a, l[n]? = some a → f a = g a) : modifyNth f n l = modifyNth g n l := by
  induction l generalizing n with
  | nil => cases n <;> rfl
  | cons a r ih =>
    cases n with
    | zero => exact congrArg (· :: r) (h a rfl)
    | succ n => exact congrArg (a :: ·) (ih h)

theorem modifyNth_id {α : Type} (n : Nat) (l : List α) : modifyNth id n l = l := by
  induction l generalizing n with
  | nil => cases n <;> rfl
  | cons a r ih =>
    cases n with
    | zero => rfl
    | succ n => exact congrArg (a :: ·) (ih n)

/-- Only what a change makes of the executing core matters. -/
theorem updMe_congr {s : State} {f g : Core → Core} (h : f s.me = g s.me) : s.updMe f = s.updMe g := by
  unfold State.updMe State.updCore
  rw [modifyNth_congr (f := f) (g := g)]
  intro a ha
  have hm : s.me = a := by simp [State.me, State.core, ha, List.getD]
  rw [← hm]
  exact h

theorem updMe_id {s : State} {f : Core → Core} (h : f s.me = s.me) : s.updMe f = s := by
  rw [updMe_congr (g := id) h]
  unfold State.updMe State.updCore
  rw [modifyNth_id]

/-! ## Abandoned waits -/

theorem me_freeMonitor {s : State} (hc : s.cur < s.cores.length) : (s.freeMonitor s.cur).me = { s.me with monitor := none } := by
  unfold State.freeMonitor
  split
  · exact me_updMe s _ hc
  next h =>
    have hm : s.me.monitor = none := Option.not_isSome_iff_eq_none.1 h
    rw [← hm]

theorem freeMonitor_cores_length (s : State) (c : Nat) : (s.freeMonitor c).cores.length = s.cores.length := by
  unfold State.freeMonitor
  split
  · exact modifyNth_length _ _ _
  · rfl

theorem freeMonitor_mem (s : State) (c : Nat) : (s.freeMonitor c).mem = s.mem := by
  unfold State.freeMonitor
  split <;> rfl

theorem freeMonitor_cur (s : State) (c : Nat) : (s.freeMonitor c).cur = s.cur := by
  unfold State.freeMonitor
  split <;> rfl

/-- The state at trap entry, once the waits of the core are given up. -/
def State.abandoned (s : State) : State := (s.freeMonitor s.cur).leaveBarriers s.cur

theorem me_abandoned {s : State} (hc : s.cur < s.cores.length) : s.abandoned.me = { s.me with monitor := none } := me_freeMonitor hc

/-! ## What a trap records -/

theorem causeWord_eq {t : Trap} (h : t.intr = false) (late : Bool) :
    causeWord t late = (if late then 1#64 <<< 62 else 0) ||| BitVec.ofNat 64 (t.code % 256) := by
  have hlt := Nat.mod_lt t.code (show 0 < 256 by decide)
  unfold causeWord word
  rw [h]
  generalize t.code % 256 = n at hlt
  cases late with
  | false => simp
  | true =>
    apply BitVec.eq_of_toNat_eq
    have hor : 2 ^ 62 * 1 + n = 2 ^ 62 * 1 ||| n := Nat.two_pow_add_eq_or_of_lt (by omega) 1
    rw [if_pos rfl, if_pos rfl, if_neg (by decide), BitVec.toNat_or, BitVec.toNat_ofNat, BitVec.toNat_ofNat, Nat.mod_eq_of_lt (a := n) (by omega),
      show (1#64 <<< 62).toNat = 2 ^ 62 * 1 by decide, ← hor]
    exact Nat.mod_eq_of_lt (by simp; omega)

theorem saveTrap_eq {t : Trap} (h : t.intr = false) (late : Bool) (eia : Word) (held : Bool) (k : Core) :
    k.saveTrap t late eia held = Spec.saved t late eia held k := by
  unfold Core.saveTrap Spec.saved
  rw [causeWord_eq h, h, Bool.false_and, Bool.false_and, Bool.or_false]

theorem accept_eq {t : Trap} (h : t.intr = false) (k : Core) : k.accept (some t) = k := by
  unfold Core.accept
  dsimp only
  rw [h]
  rfl

theorem ends_accept {e : Option Trap} (h : ∀ t, e = some t → t.intr = false) (s : State) :
    Ends (if s.me.draining.isNone then modMe fun k => k.accept e else pure ()) s s := by
  split
  · have hk : s.me.accept e = s.me := by
      cases e with
      | none => rfl
      | some t => exact accept_eq (h t rfl) _
    unfold Ends
    rw [run_modMe, updMe_id hk]
  · rfl

/-! ## What the fetch of a line leaves -/

/-- A core without what its instruction cache holds. -/
def Core.uncached (k : Core) : Core := { k with icache := [] }

/-- A fetch has filled instruction caches, and translations and free choices besides. -/
def Fetched (s t : State) : Prop := t.cur = s.cur ∧ t.mem = s.mem ∧ t.cores.map Core.uncached = s.cores.map Core.uncached

theorem fetched_frame : Frame Fetched where
  refl _ := ⟨rfl, rfl, rfl⟩
  trans h g := ⟨g.1.trans h.1, g.2.1.trans h.2.1, g.2.2.trans h.2.2⟩

theorem fetched_of_same {s t : State} (hn : t.cur = s.cur) (hm : t.mem = s.mem) (hc : t.cores = s.cores) : Fetched s t := ⟨hn, hm, by rw [hc]⟩

theorem fetched_lostRead (c va loc : Nat) : Keeps Fetched (lostRead c va loc) := by
  unfold lostRead
  refine keeps_get_bind fun s => ?_
  split
  · exact keepsAt_set_bind fetched_frame (fetched_of_same rfl rfl rfl) (keeps_raise fetched_frame _)
  · exact keeps_pure fetched_frame () s

theorem fetched_walkLost (x : Ctx) (va : Nat) : Keeps Fetched (walkLost x va) := by
  unfold walkLost
  refine keeps_get_bind fun s => ?_
  split
  · exact keeps_pure fetched_frame () s
  · split
    · exact fetched_lostRead _ _ _ s
    · exact keeps_pure fetched_frame () s

theorem fetched_drawChoice (k : Nat) : Keeps Fetched (drawChoice k) := fun _ => fetched_of_same rfl rfl rfl

theorem fetched_translate (x : Ctx) (acc : Acc) (va : Nat) : Keeps Fetched (translate x acc va) := by
  unfold translate
  refine keeps_bind fetched_frame (fetched_walkLost x va) fun _ => keeps_bind fetched_frame (keeps_get fetched_frame) fun s => ?_
  have hend : ∀ o : Except Trap Page, Keeps Fetched (match o with
      | .error t => raise t
      | .ok p => do
        modify fun s => s.holdPage x acc va p
        return p : M Page) := by
    intro o
    cases o with
    | error t => exact keeps_raise fetched_frame t
    | ok p =>
      exact keeps_bind fetched_frame (keeps_modify fun s => fetched_of_same rfl rfl rfl) fun _ => keeps_pure fetched_frame p
  dsimp only
  split
  · exact keeps_raise fetched_frame _
  · exact keeps_ite (keeps_bind fetched_frame (keeps_pure fetched_frame _) hend)
      (keeps_bind fetched_frame (fetched_drawChoice _) fun _ => keeps_bind fetched_frame (keeps_pure fetched_frame _) hend)

theorem fetched_place (x : Ctx) (acc : Acc) (va : Nat) : Keeps Fetched (place x acc va) := by
  unfold place
  refine keeps_ite (keeps_raise fetched_frame _) (keeps_ite (keeps_ite (keeps_raise fetched_frame _) ?_) ?_)
  · split
    · exact keeps_raise fetched_frame _
    · exact keeps_pure fetched_frame _
  · exact keeps_bind fetched_frame (fetched_translate x acc va) fun _ => keeps_pure fetched_frame _

/-- A core's instruction cache takes a line. -/
theorem fetched_icache (f : Core → List ILine) : Keeps Fetched (modMe fun k => { k with icache := f k }) :=
  fun s => ⟨rfl, rfl, map_modifyNth (g := fun k => { k with icache := f k }) (fun _ => rfl) s.cur s.cores⟩

theorem fetched_enterLine (sup : Bool) (ia : Word) : Keeps Fetched (enterLine sup ia) := by
  unfold enterLine fetchLine
  refine keeps_bind fetched_frame (keeps_bind fetched_frame (keeps_myCtx fetched_frame) fun x =>
    keeps_bind fetched_frame (fetched_place _ _ _) fun q => ?_) fun l => keeps_ite (keeps_pure fetched_frame l) (keeps_raise fetched_frame _)
  cases q with
  | pad _ => exact keeps_raise fetched_frame _
  | page p =>
    refine keeps_bind fetched_frame (fetched_lostRead _ _ _) fun _ => keeps_bind fetched_frame (keeps_get fetched_frame) fun s => ?_
    split
    · exact keeps_raise fetched_frame _
    · have hend (l : Line) : Keeps Fetched (do
          let i : ILine := { loc := p.phys (iaLine ia * 64), bits := l }
          modMe fun k => { k with icache := if k.icache.contains i then k.icache else i :: k.icache }
          return l : M Line) :=
        keeps_bind fetched_frame (fetched_icache _) fun _ => keeps_pure fetched_frame l
      exact keeps_ite (keeps_bind fetched_frame (keeps_pure fetched_frame _) hend)
        (keeps_bind fetched_frame (fetched_drawChoice _) fun _ => keeps_bind fetched_frame (keeps_pure fetched_frame _) hend)

theorem fetched_of_answers {m : M α} (hm : Keeps Fetched m) {s t : State} {a : α} (h : Answers m s a t) : Fetched s t := by
  have hk : Fetched s (runM m s).2 := hm s
  rwa [show runM m s = (.ok a, t) from h] at hk

theorem Fetched.me {s t : State} (h : Fetched s t) : t.me.uncached = s.me.uncached := by
  have hc : (t.cores.map Core.uncached).getD s.cur Core.reset.uncached = (s.cores.map Core.uncached).getD s.cur Core.reset.uncached := by rw [h.2.2]
  rw [List.getD_map, List.getD_map] at hc
  unfold State.me State.core
  rw [h.1]
  exact hc

theorem Fetched.valid {s t : State} (h : Fetched s t) (hc : s.cur < s.cores.length) : t.cur < t.cores.length := by
  have hl := congrArg List.length h.2.2
  rw [List.length_map, List.length_map] at hl
  rw [h.1, hl]
  exact hc

theorem Fetched.tvec {s t : State} (h : Fetched s t) : t.me.tvec = s.me.tvec := (congrArg Core.tvec h.me : t.me.uncached.tvec = _)

/-- Delivery to a handler whose line is entered. -/
theorem run_deliver {s v : State} {t : Trap} {late held : Bool} {eia : Word} {l : Line} (hc : s.cur < s.cores.length) (ht : t.intr = false)
    (hw : wellFormedIa s.me.tvec = true) (hl : iaSlot s.me.tvec ≤ lineNh l)
    (he : Answers (enterLine true s.me.tvec) (s.updMe (Spec.saved t late eia held)) l v) :
    Ends (deliver t late eia held) s (v.wentTo s.me.tvec l) := by
  have hm : (s.updMe (Spec.saved t late eia held)).me.tvec = s.me.tvec := by rw [me_updMe _ _ hc]; rfl
  unfold deliver
  rw [show (fun k : Core => k.saveTrap t late eia held) = Spec.saved t late eia held from funext (saveTrap_eq ht late eia held)]
  refine ends_bind (run_modMe _ s) (ends_bind (run_getMe _) ?_)
  rw [hm, if_neg (by rw [hw]; decide)]
  refine ends_bind (tryTrap_answers he) ?_
  have hv : v.me.tvec = s.me.tvec := (fetched_of_answers (fetched_enterLine _ _) he).tvec.trans hm
  dsimp only
  rw [if_neg (by omega)]
  unfold Ends
  rw [run_modMe, updMe_congr (g := fun k => k.goAt s.me.tvec (some l)) (by rw [hv])]
  rfl

/-! ## The drain at trap entry (R365) -/

theorem run_stopsMma_empty {s : State} (h : s.me.queue = []) : Answers stopsMma s false s := by
  unfold stopsMma
  refine answers_bind (run_getMe s) ?_
  rw [h]
  rfl

theorem run_drain_empty {s : State} (h : s.me.queue = []) (e : Option Trap) (eia : Word) : Ends (drain e eia) s s := by
  have hd : s.drained s.cur = true := by
    unfold State.drained
    rw [show (s.core s.cur).queue = [] from h]
  unfold drain
  refine ends_bind (run_myNumber s) (ends_bind (run_stopsMma_empty h) ?_)
  rw [if_neg (by decide)]
  refine ends_bind (run_runEntries h) (ends_bind (run_get s) ?_)
  rw [hd]
  rfl

theorem run_chainStopped_empty {s : State} (h : s.me.queue = []) : Ends chainStopped s s := by
  unfold chainStopped
  refine ends_bind (run_getMe s) ?_
  rw [h]
  rfl

theorem recalled_of_noneStopped {k : Core} (h : Spec.NoneStopped k) : k.recalled = [] := by
  have hr (i : Nat) (hi : i < 4) : (k.chan i).recalled = [] := by
    unfold Chan.recalled
    rw [h i hi]
  unfold Core.recalled
  rw [show (List.range 4) = [0, 1, 2, 3] by decide]
  simp [hr]

theorem dropStopped_of_noneStopped {k : Core} (h : Spec.NoneStopped k) : k.dropStopped = k := by
  have hc : (k.chans.map fun c => match c.stopped with
      | some _ => ({ copies := [], stopped := none, row := [] } : Chan)
      | none => c) = k.chans := by
    refine Vector.ext fun i hi => ?_
    have hi' : k.chans[i].stopped = none := by
      have hci : k.chan i = k.chans[i] := by simp [Core.chan, Vector.getD, hi]
      rw [← hci]
      exact h i hi
    rw [Vector.getElem_map, hi']
  unfold Core.dropStopped
  exact congrArg (fun cs => { k with chans := cs }) hc

/-! ## Trap entry (R365, R366) -/

theorem run_hold_nil {s : State} (hq : s.me.queue = []) (hs : Spec.NoneStopped s.me) (g : Core → Core) :
    (s.updMe fun k => k.hold []).updMe g = s.updMe fun k => g { k with held := [] } := by
  rw [updMe_updMe]
  refine updMe_congr ?_
  unfold Core.hold
  dsimp only
  rw [dropStopped_of_noneStopped hs]
  exact congrArg g (congrArg (fun q => { s.me with queue := q, held := [] }) hq.symm)

theorem noneStopped_abandoned {s : State} (hc : s.cur < s.cores.length) (h : Spec.NoneStopped s.me) : Spec.NoneStopped s.abandoned.me := by
  rw [me_abandoned hc]
  exact h

theorem ends_when_run {c : Prop} [Decidable c] {m f : M Unit} {s t : State} (h : Ends (if c then m else pure ()) s t) :
    runM (if c then (do m; f) else f) s = runM f t := by
  split at h
  next hc => rw [if_pos hc, run_bind, show runM m s = _ from h]
  next hc =>
    rw [if_neg hc]
    cases h
    rfl

/-- Trap entry in task mode of a core with nothing queued or stopped. -/
theorem run_trapEntry_task {s : State} {t : Trap} {eia : Word} (hc : s.cur < s.cores.length) (ht : t.intr = false)
    (hm : s.me.sstat.mode = false) (hq : s.me.queue = []) (hs : Spec.NoneStopped s.me) :
    runM (trapEntry (some t) eia) s = runM (deliver t false eia false) (s.abandoned.updMe fun k => { k with held := [] }) := by
  have hacc := ends_accept (e := some t) (fun _ h => Option.some.inj h ▸ ht) s
  have hrest : runM (do
      drain (some t) eia
      chainStopped
      let k ← getMe
      modify fun s' => (s'.freeMonitor s.cur).leaveBarriers s.cur
      let es := k.recalled ++ k.queue
      modMe fun k => k.hold es
      match es.findSome? VEntry.fault, some t with
      | some t', _ => do
        modMe fun k => k.pend (some t)
        deliver t' true eia true
      | none, some t => deliver t false eia !es.isEmpty
      | none, none => return () : M Unit) s = runM (deliver t false eia false) (s.abandoned.updMe fun k => { k with held := [] }) := by
    rw [run_bind, run_drain_empty hq]
    dsimp only
    rw [run_bind, run_chainStopped_empty hq]
    dsimp only
    rw [run_bind, run_getMe]
    dsimp only
    rw [run_bind, run_modify]
    dsimp only
    rw [recalled_of_noneStopped hs, hq, run_bind, run_modMe]
    have hqa : s.abandoned.me.queue = [] := by rw [me_abandoned hc]; exact hq
    have hh := run_hold_nil hqa (noneStopped_abandoned hc hs) id
    rw [updMe_id (f := id) rfl] at hh
    exact congrArg (fun u => runM (deliver t false eia false) u) hh
  unfold trapEntry
  rw [run_bind, run_myNumber]
  dsimp only
  rw [run_bind, run_getMe]
  dsimp only
  have hmode : (s.me.sstat.mode = true) = False := by rw [hm]; simp
  simp only [hmode, if_false]
  exact (ends_when_run hacc).trans hrest

/-- Trap entry in supervisor mode: a blocked wait is given up, and nothing is held. -/
theorem run_trapEntry_sup {s : State} {t : Trap} {eia : Word} (ht : t.intr = false) (hm : s.me.sstat.mode = true) :
    runM (trapEntry (some t) eia) s = runM (deliver t false eia s.me.sstat.held) (s.freeMonitor s.cur) := by
  have hacc := ends_accept (e := some t) (fun _ h => Option.some.inj h ▸ ht) s
  unfold trapEntry
  rw [run_bind, run_myNumber]
  dsimp only
  rw [run_bind, run_getMe]
  dsimp only
  have hmode : (s.me.sstat.mode = true) = True := by rw [hm]; simp
  simp only [hmode, if_true]
  exact (ends_when_run hacc).trans rfl

theorem valid_freeMonitor {s : State} (hc : s.cur < s.cores.length) : (s.freeMonitor s.cur).cur < (s.freeMonitor s.cur).cores.length := by
  rw [freeMonitor_cur, freeMonitor_cores_length]
  exact hc

theorem valid_abandoned {s : State} (hc : s.cur < s.cores.length) : s.abandoned.cur < s.abandoned.cores.length := valid_freeMonitor hc

theorem trapEntry_spec : Spec.TrapEntry := by
  intro s v t eia l hc ht hw hl
  refine ⟨fun hm hq hs he => ?_, fun hm he => ?_⟩
  · have htv : (s.abandoned.updMe fun k => { k with held := [] }).me.tvec = s.me.tvec := by
      rw [me_updMe _ _ (valid_abandoned hc), me_abandoned hc]
    have hd := run_deliver (s := s.abandoned.updMe fun k => { k with held := [] }) (v := v) (t := t) (late := false) (held := false) (eia := eia)
      (l := l) (by simpa using valid_abandoned hc) ht (by rw [htv]; exact hw) (by rw [htv]; exact hl) (by rw [htv, updMe_updMe]; exact he)
    rw [htv] at hd
    exact (run_trapEntry_task hc ht hm hq hs).trans hd
  · have htv : (s.freeMonitor s.cur).me.tvec = s.me.tvec := by rw [me_freeMonitor hc]
    have hd := run_deliver (s := s.freeMonitor s.cur) (v := v) (t := t) (late := false) (held := s.me.sstat.held) (eia := eia)
      (l := l) (valid_freeMonitor hc) ht (by rw [htv]; exact hw) (by rw [htv]; exact hl) (by rw [htv]; exact he)
    rw [htv] at hd
    exact (run_trapEntry_sup ht hm).trans hd

/-! ## A trap with no handler (R365, R373) -/

theorem failCause_saved {t : Trap} (ht : t.intr = false) : failCause (causeWord t false) = t.code % 256 := by
  have hlt := Nat.mod_lt t.code (show 0 < 256 by decide)
  rw [causeWord_eq ht]
  generalize t.code % 256 = n at hlt
  have hn : ((if false = true then 1#64 <<< 62 else 0) ||| BitVec.ofNat 64 n : Word).toNat = n := by simp; omega
  unfold failCause bits bit
  rw [hn, Nat.testBit_lt_two_pow (by omega)]
  simp
  omega

/-- What the failure of a task makes of its core, before it is known whether a task is loaded. -/
def Core.failed (k : Core) : Core := { k.dropDrain with held := [], settling := none, sstat := { k.sstat with held := false } }

theorem failed_run (k : Core) : k.failed.run = k.run := by
  unfold Core.failed Core.dropDrain Core.pend
  dsimp only
  split
  · split
    · rfl
    · split <;> rfl
  · rfl

/-- The state of a task that begins to fail with a cause (R373). -/
def State.failingWith (s : State) (n : Nat) : State := (s.abandoned.updMe Core.failed).updMe fun k => { k with failing := some (word n) }

theorem ends_failTask {s : State} (hc : s.cur < s.cores.length) (hr : s.me.run.isSome = true) (n : Nat) :
    Ends (failTask n) s (s.failingWith n) := by
  have hf : (s.abandoned.updMe Core.failed).me.run.isSome = true := by
    rw [me_updMe _ _ (valid_abandoned hc), me_abandoned hc, failed_run]
    exact hr
  refine ends_bind (run_myNumber s) (ends_bind (run_modify _ s) (ends_bind (run_modMe Core.failed _) (ends_bind (run_getMe _) ?_)))
  rw [show ((s.freeMonitor s.cur).leaveBarriers s.cur) = s.abandoned from rfl, if_pos hf]
  rfl

theorem me_failingWith {s : State} (hc : s.cur < s.cores.length) (n : Nat) :
    (s.failingWith n).me = { Core.failed { s.me with monitor := none } with failing := some (word n) } := by
  rw [State.failingWith, me_updMe _ _ (by simpa using valid_abandoned hc), me_updMe _ _ (valid_abandoned hc), me_abandoned hc]

/-- A task fails where it runs: it begins to fail with the cause. -/
theorem run_failTask {s : State} (hc : s.cur < s.cores.length) (hr : s.me.run.isSome = true) (n : Nat) :
    ∃ u, Ends (failTask n) s u ∧ u.me.failing = some (word n) ∧ SameMemory s u :=
  ⟨s.failingWith n, ends_failTask hc hr n, by rw [me_failingWith hc], fun a => byte_congr (freeMonitor_mem s s.cur) a⟩

theorem noHandler : Spec.NoHandler := by
  intro s t eia hc ht hm hq hs hw hr
  have hvx : (s.abandoned.updMe fun k => { k with held := [] }).cur < (s.abandoned.updMe fun k => { k with held := [] }).cores.length := by
    simpa using valid_abandoned hc
  have hmx : (s.abandoned.updMe fun k => { k with held := [] }).me = { s.me with monitor := none, held := [] } := by
    rw [me_updMe _ _ (valid_abandoned hc), me_abandoned hc]
  generalize hx : (s.abandoned.updMe fun k => { k with held := [] }) = x at hvx hmx
  have hmy : (x.updMe fun k => k.saveTrap t false eia false).me = x.me.saveTrap t false eia false := me_updMe x _ hvx
  have hrun : (x.updMe fun k => k.saveTrap t false eia false).me.run.isSome = true := by
    rw [hmy, hmx]
    exact hr
  obtain ⟨u, hu, hfail, hmem⟩ := run_failTask (s := x.updMe fun k => k.saveTrap t false eia false) (by simpa using hvx) hrun (t.code % 256)
  refine ⟨u, (run_trapEntry_task hc ht hm hq hs).trans ?_, hfail, fun a => ?_⟩
  · rw [hx]
    unfold deliver
    refine ends_bind (run_modMe _ x) (ends_bind (run_getMe _) ?_)
    have htv : (x.updMe fun k => k.saveTrap t false eia false).me.tvec = s.me.tvec := by rw [hmy, hmx]; rfl
    have hca : (x.updMe fun k => k.saveTrap t false eia false).me.cause = causeWord t false := by rw [hmy]; rfl
    rw [htv, hw, hca, failCause_saved ht]
    exact hu
  · have hxs : x.mem = s.mem := by
      rw [← hx]
      exact freeMonitor_mem s s.cur
    exact (hmem a).trans (byte_congr (t := s) (s := x.updMe fun k => k.saveTrap t false eia false) hxs a)

/-! ## Late faults (R365, R370, R371) -/

theorem run_stopsMma_fault {s : State} {e : VEntry} {es : List VEntry} (hq : s.me.queue = e :: es) (hf : e.fault.isSome = true) :
    Answers stopsMma s false s := by
  unfold stopsMma
  refine answers_bind (run_getMe s) ?_
  rw [hq]
  dsimp only
  split
  · rw [if_pos (Or.inr hf)]
    rfl
  · rfl

theorem run_stepHead_fault {s : State} {e : VEntry} {es : List VEntry} (hq : s.me.queue = e :: es) (hf : e.fault.isSome = true) :
    Answers stepHead s false s := by
  unfold stepHead
  refine answers_bind (run_getMe s) ?_
  rw [hq]
  dsimp only
  rw [if_pos hf]
  rfl

theorem run_runEntries_fault {s : State} {e : VEntry} {es : List VEntry} (hq : s.me.queue = e :: es) (hf : e.fault.isSome = true) :
    Ends runEntries s s := by
  unfold runEntries
  refine ends_bind (run_getMe s) ?_
  rw [hq, List.length_cons, runQueue]
  exact ends_bind (run_stepHead_fault hq hf) rfl

theorem run_drain_fault {s : State} {e : VEntry} {es : List VEntry} (hq : s.me.queue = e :: es) (hf : e.fault.isSome = true)
    (ev : Option Trap) (eia : Word) : Ends (drain ev eia) s s := by
  have hd : s.drained s.cur = true := by
    unfold State.drained
    rw [show (s.core s.cur).queue = e :: es from hq]
    dsimp only
    rw [hf]
    rfl
  unfold drain
  refine ends_bind (run_myNumber s) (ends_bind (run_stopsMma_fault hq hf) ?_)
  rw [if_neg (by decide)]
  refine ends_bind (run_runEntries_fault hq hf) (ends_bind (run_get s) ?_)
  rw [hd]
  rfl

/-- Trap entry in task mode of an entry that has faulted: the entries behind it come to their points, and all are held. -/
theorem run_trapEntry_late {s w : State} {e : VEntry} {es : List VEntry} {t : Trap} {eia : Word} (hm : s.me.sstat.mode = false)
    (hh : (s.me.queue.head?.bind VEntry.fault).isSome = true) (hw : Ends chainStopped s w) (hn : w.cur = s.cur)
    (hq : w.me.queue = e :: es) (hf : e.fault = some t) (hs : Spec.NoneStopped w.me) :
    runM (trapEntry none eia) s = runM (deliver t true eia true) (w.abandoned.updMe fun k => k.hold (e :: es)) := by
  obtain ⟨e₀, r₀, hq₀⟩ : ∃ e₀ r₀, s.me.queue = e₀ :: r₀ := by
    cases h : s.me.queue with
    | nil => rw [h] at hh; cases hh
    | cons a r => exact ⟨a, r, rfl⟩
  have hf₀ : e₀.fault.isSome = true := by rw [hq₀] at hh; exact hh
  have hacc := ends_accept (e := none) (fun _ h => by cases h) s
  unfold trapEntry
  rw [run_bind, run_myNumber]
  dsimp only
  rw [run_bind, run_getMe]
  dsimp only
  have hmode : (s.me.sstat.mode = true) = False := by rw [hm]; simp
  simp only [hmode, if_false]
  refine (ends_when_run hacc).trans ?_
  rw [run_bind, run_drain_fault hq₀ hf₀]
  dsimp only
  rw [run_bind, hw]
  dsimp only
  rw [run_bind, run_getMe]
  dsimp only
  rw [run_bind, run_modify]
  dsimp only
  rw [recalled_of_noneStopped hs, hq, run_bind, run_modMe, ← hn]
  dsimp only [List.nil_append, List.findSome?_cons]
  rw [hf]
  dsimp only
  rw [run_bind, run_modMe, updMe_id rfl]
  rfl

theorem hold_cons (k : Core) (e : VEntry) (es : List VEntry) : k.hold (e :: es) =
    { k.dropStopped with queue := [], held := (e :: es).map fun q => { q with fault := none }, vstart := e.prog.word } := rfl

theorem hold_tvec (k : Core) (e : VEntry) (es : List VEntry) : (k.hold (e :: es)).tvec = k.tvec := by
  rw [hold_cons]
  generalize e.prog.word = w
  rfl

theorem saved_hold {k : Core} (h : Spec.NoneStopped k) (e : VEntry) (es : List VEntry) (t : Trap) (eia : Word) :
    Spec.saved t true eia true (k.hold (e :: es)) = { Spec.saved t true eia true k with
      queue := [], held := (e :: es).map fun q => { q with fault := none }, vstart := e.prog.word } := by
  rw [hold_cons, dropStopped_of_noneStopped h]
  generalize e.prog.word = w
  rfl

theorem lateFault : Spec.LateFault := by
  refine ⟨fun s w v e es t eia l hm hh hw hn hc hq hf ht hs htv hl he => ?_, fun s h => ?_⟩
  · have hva := valid_abandoned hc
    have hhold : (w.abandoned.updMe fun k => k.hold (e :: es)).updMe (Spec.saved t true eia true) = w.abandoned.updMe fun k =>
        { Spec.saved t true eia true k with
          queue := [], held := (e :: es).map fun q => { q with fault := none }, vstart := e.prog.word } := by
      rw [updMe_updMe]
      exact updMe_congr (saved_hold (noneStopped_abandoned hc hs) e es t eia)
    have htve : (w.abandoned.updMe fun k => k.hold (e :: es)).me.tvec = w.me.tvec := by
      rw [me_updMe _ _ hva, hold_tvec, me_abandoned hc]
    refine (run_trapEntry_late hm hh hw hn hq hf hs).trans ?_
    have hd := run_deliver (s := w.abandoned.updMe fun k => k.hold (e :: es)) (v := v) (t := t) (late := true) (held := true) (eia := eia) (l := l)
      (by simpa using hva) ht (by rw [htve]; exact htv) (by rw [htve]; exact hl) (by rw [htve, hhold]; exact he)
    rw [htve] at hd
    exact hd
  · unfold chainStopped
    refine ends_bind (run_getMe s) ?_
    split
    · rfl
    next e r hq =>
      split
      · have hall : ∀ is : List Nat, Ends (is.forM fun i => chainEntry (i + 1)) s s := by
          intro is
          induction is with
          | nil => rfl
          | cons i is ih =>
            have hi : Ends (chainEntry (i + 1)) s s := by
              unfold chainEntry
              refine ends_bind (run_myNumber s) (ends_bind (run_get s) ?_)
              rw [h (i + 1) (Nat.succ_pos i)]
              dsimp only
              cases (s.core s.cur).queue[i + 1]? <;> rfl
            unfold Ends
            rw [run_forM_cons, hi]
            exact ih
        exact hall _
      · rfl

/-! ## TRAP (R378) -/

/-- A computation that ends in no trap. -/
def Trapless (m : M α) : Prop := ∀ s r t, runM m s ≠ (.error (.trap r), t)

theorem trapless_pure (a : α) : Trapless (pure a : M α) := fun _ _ _ h => by cases h

theorem trapless_await : Trapless (await : M α) := fun _ _ _ h => by cases h

theorem trapless_get : Trapless (get : M State) := fun _ _ _ h => by cases h

theorem trapless_getMe : Trapless getMe := fun _ _ _ h => by cases h

theorem trapless_myNumber : Trapless myNumber := fun _ _ _ h => by cases h

theorem trapless_modify (f : State → State) : Trapless (modify f : M PUnit) := fun _ _ _ h => by cases h

theorem trapless_modMe (f : Core → Core) : Trapless (modMe f) := fun _ _ _ h => by cases h

theorem trapless_drawChoice (n : Nat) : Trapless (drawChoice n) := fun _ _ _ h => by cases h

theorem trapless_bind {m : M α} {f : α → M β} (hm : Trapless m) (hf : ∀ a, Trapless (f a)) : Trapless (m >>= f) := by
  intro s r t h
  rw [run_bind] at h
  rcases hr : runM m s with ⟨e | a, u⟩ <;> rw [hr] at h
  · cases h
    exact hm s r t hr
  · exact hf a u r t h

theorem trapless_ite {c : Prop} [Decidable c] {a b : M α} (ha : Trapless a) (hb : Trapless b) : Trapless (if c then a else b) := by
  split
  · exact ha
  · exact hb

theorem trapless_tryCatch (m : M α) {f : Halt → M α} (hf : ∀ e, Trapless (f e)) : Trapless (tryCatch m f) := by
  intro s r t h
  rw [run_tryCatch] at h
  rcases hr : runM m s with ⟨e | a, u⟩ <;> rw [hr] at h
  · exact hf e u r t h
  · cases h

theorem trapless_tryTrap (m : M α) : Trapless (tryTrap m) := by
  intro s r t h
  rw [run_tryTrap] at h
  rcases hr : runM m s with ⟨(_ | _) | a, u⟩ <;> rw [hr] at h <;> cases h

theorem trapless_forM {f : α → M PUnit} (hf : ∀ a, Trapless (f a)) (l : List α) : Trapless (l.forM f) := by
  induction l with
  | nil => exact trapless_pure ()
  | cons a r ih => exact trapless_bind (hf a) fun _ => ih

theorem trapless_stepHead : Trapless stepHead := by
  refine trapless_bind trapless_getMe fun k => ?_
  split
  · exact trapless_pure _
  · refine trapless_ite (trapless_pure _) (trapless_tryCatch _ fun e => ?_)
    cases e
    · exact trapless_bind (trapless_modMe _) fun _ => trapless_pure _
    · exact trapless_pure _

theorem trapless_runQueue (n : Nat) : Trapless (runQueue n) := by
  induction n with
  | zero => exact trapless_pure ()
  | succ n ih => exact trapless_bind trapless_stepHead fun _ => trapless_ite ih (trapless_pure ())

theorem trapless_runEntries : Trapless runEntries := trapless_bind trapless_getMe fun _ => trapless_runQueue _

theorem trapless_advance (i n : Nat) : Trapless (advance i n) := by
  refine trapless_bind trapless_getMe fun k => ?_
  dsimp only
  split
  · exact trapless_pure ()
  · exact trapless_bind trapless_getMe fun _ => trapless_ite (trapless_pure ())
      (trapless_bind (trapless_tryCatch _ fun _ => trapless_pure _) fun _ => trapless_modMe _)

theorem trapless_chainEntry (i : Nat) : Trapless (chainEntry i) := by
  refine trapless_bind trapless_myNumber fun c => trapless_bind trapless_get fun s => ?_
  dsimp only
  split
  · exact trapless_ite (trapless_pure ()) (trapless_bind (trapless_drawChoice _) fun _ => trapless_ite (trapless_pure ()) (trapless_advance _ _))
  · exact trapless_pure ()

theorem trapless_chainStopped : Trapless chainStopped := by
  refine trapless_bind trapless_getMe fun k => ?_
  split
  · exact trapless_pure ()
  · exact trapless_ite (trapless_forM (fun i => trapless_chainEntry _) _) (trapless_pure ())

theorem trapless_stopsMma : Trapless stopsMma := by
  refine trapless_bind trapless_getMe fun k => ?_
  split
  · exact trapless_pure _
  · split
    · exact trapless_ite (trapless_pure _) (trapless_bind (trapless_drawChoice 2) fun _ => trapless_pure _)
    · exact trapless_pure _

theorem trapless_drain (e : Option Trap) (eia : Word) : Trapless (drain e eia) :=
  trapless_bind trapless_myNumber fun _ => trapless_bind trapless_stopsMma fun _ => trapless_ite (trapless_pure ())
    (trapless_bind trapless_runEntries fun _ => trapless_bind trapless_get fun _ => trapless_ite (trapless_pure ())
      (trapless_bind (trapless_modify _) fun _ => trapless_bind (trapless_modMe _) fun _ => trapless_await))

theorem trapless_goIdle : Trapless goIdle :=
  trapless_bind trapless_myNumber fun _ => trapless_bind (trapless_modify _) fun _ => trapless_bind (trapless_modMe _) fun _ =>
    trapless_bind trapless_getMe fun _ => trapless_ite (trapless_modify _) (trapless_pure ())

theorem trapless_failTask (n : Nat) : Trapless (failTask n) :=
  trapless_bind trapless_myNumber fun _ => trapless_bind (trapless_modify _) fun _ => trapless_bind (trapless_modMe _) fun _ =>
    trapless_bind trapless_getMe fun _ => trapless_ite (trapless_modMe _) trapless_goIdle

theorem trapless_deliver (t : Trap) (late : Bool) (eia : Word) (held : Bool) : Trapless (deliver t late eia held) := by
  refine trapless_bind (trapless_modMe _) fun _ => trapless_bind trapless_getMe fun k => trapless_ite (trapless_failTask _)
    (trapless_bind (trapless_tryTrap _) fun r => ?_)
  cases r
  · exact trapless_failTask _
  · exact trapless_ite (trapless_failTask _) (trapless_modMe _)

/-- Trap entry ends in no trap of its own. -/
theorem trapless_trapEntry (e : Option Trap) (eia : Word) : Trapless (trapEntry e eia) := by
  have hrest (k : Core) (c : Nat) : Trapless (if k.sstat.mode then
      match e with
      | some t => do
        modify fun s => s.freeMonitor c
        deliver t false eia k.sstat.held
      | none => return ()
    else do
      drain e eia
      chainStopped
      let k ← getMe
      modify fun s => (s.freeMonitor c).leaveBarriers c
      let es := k.recalled ++ k.queue
      modMe fun k => k.hold es
      match es.findSome? VEntry.fault, e with
      | some t, _ => do
        modMe fun k => k.pend e
        deliver t true eia true
      | none, some t => deliver t false eia !es.isEmpty
      | none, none => return () : M Unit) := by
    refine trapless_ite ?_ (trapless_bind (trapless_drain _ _) fun _ => trapless_bind trapless_chainStopped fun _ =>
      trapless_bind trapless_getMe fun k => trapless_bind (trapless_modify _) fun _ => ?_)
    · cases e
      · exact trapless_pure ()
      · exact trapless_bind (trapless_modify _) fun _ => trapless_deliver _ _ _ _
    · dsimp only
      refine trapless_bind (trapless_modMe _) fun _ => ?_
      split
      · exact trapless_bind (trapless_modMe _) fun _ => trapless_deliver _ _ _ _
      · exact trapless_deliver _ _ _ _
      · exact trapless_pure ()
  exact trapless_bind trapless_myNumber fun c => trapless_bind trapless_getMe fun k =>
    trapless_ite (trapless_bind (trapless_modMe _) fun _ => hrest k c) (hrest k c)

theorem pending_nil (k : Core) : k.pending [] = false := by
  unfold Core.pending
  rw [List.any_eq_false]
  intro e _
  cases e.op.dest <;> simp

theorem exec_trap (s : State) (x : CodeF) :
    exec (.trap x) s = .next (s.after (trapEntry (some (faultOf 28 0 x.code.toNat)) s.me.nextIa)) := by
  change instr [] (do
    let k ← getMe
    trapEntry (some (faultOf 28 0 x.code.toNat)) k.nextIa
    return .stay) s = _
  have hb := run_bind (trapEntry (some (faultOf 28 0 x.code.toNat)) s.me.nextIa) (fun _ => (pure .stay : M Flow)) s
  rw [after_eq]
  rcases hr : runM (trapEntry (some (faultOf 28 0 x.code.toNat)) s.me.nextIa) s with ⟨(_ | _) | _, u⟩ <;> rw [hr] at hb
  · exact absurd hr (trapless_trapEntry _ _ s _ u)
  · exact instr_waits (pending_nil _) (waits_bind (run_getMe s) hb)
  · exact instr_stays (pending_nil _) (answers_bind (run_getMe s) hb)

theorem trapInstruction : Spec.TrapInstruction := fun s x => ⟨exec_trap s x, fun _ _ _ _ => ⟨rfl, rfl⟩⟩

/-- What a core shows once it has entered a handler's line. -/
theorem wentTo_result {r v : State} {k : Core} {ia : Word} {l : Line} (hc : r.cur < r.cores.length) (hk : r.me = k) (h : Fetched r v) :
    (v.wentTo ia l).me.uncached = { k with ia := ia, line := some { va := iaLine ia * 64, asid := v.me.asid, bits := l }, icache := [] } := by
  have hm : v.me.uncached = k.uncached := by rw [h.me, hk]
  rw [State.wentTo, me_updMe _ _ (h.valid hc)]
  exact congrArg (fun q : Core => { q with ia := ia, line := some { va := iaLine ia * 64, asid := v.me.asid, bits := l } }) hm

theorem trapReachesHandler : Spec.TrapReachesHandler := by
  intro s v x l hc hw hl he
  have haux : (BitVec.ofNat 64 x.code.toNat : Word) = x.code.setWidth 64 := BitVec.ofNat_toNat 64 x.code
  have hspec := trapEntry_spec s v (faultOf 28 0 x.code.toNat) s.me.nextIa l hc rfl hw hl
  have hends : ∃ (r : State) (k : Core), Ends (trapEntry (some (faultOf 28 0 x.code.toNat)) s.me.nextIa) s (v.wentTo s.me.tvec l) ∧
      r.cur < r.cores.length ∧ r.me = k ∧ Fetched r v ∧ r.mem = s.mem ∧ ∃ q held, q.sstat = s.me.sstat ∧ q.task = s.me.task ∧ q.sup = s.me.sup ∧
        q.flags = s.me.flags ∧ k = { Spec.saved (faultOf 28 0 x.code.toNat) false s.me.nextIa held q with held := k.held } := by
    split at he
    next hm =>
      exact ⟨_, _, hspec.2 hm he, by simpa using valid_freeMonitor hc, me_updMe _ _ (valid_freeMonitor hc),
        fetched_of_answers (fetched_enterLine _ _) he, freeMonitor_mem s s.cur, _, _, by rw [me_freeMonitor hc], by rw [me_freeMonitor hc],
        by rw [me_freeMonitor hc], by rw [me_freeMonitor hc], rfl⟩
    next hm =>
      obtain ⟨hq, hs, he⟩ := he
      exact ⟨_, _, hspec.1 (Bool.eq_false_iff.2 hm) hq hs he, by simpa using valid_abandoned hc, me_updMe _ _ (valid_abandoned hc),
        fetched_of_answers (fetched_enterLine _ _) he, freeMonitor_mem s s.cur, s.abandoned.me, _, by rw [me_abandoned hc],
        by rw [me_abandoned hc], by rw [me_abandoned hc], by rw [me_abandoned hc], rfl⟩
  obtain ⟨r, k, hends, hrc, hrk, hf, hmem, q, held, hss, htask, hsup, hfl, hk⟩ := hends
  have hu := wentTo_result (ia := s.me.tvec) (l := l) hrc hrk hf
  have hsm : SameMemory s (v.wentTo s.me.tvec l) := fun a => byte_congr (t := s) (s := v.wentTo s.me.tvec l) (hf.2.1.trans hmem) a
  refine ⟨v.wentTo s.me.tvec l, (exec_trap s x).trans (congrArg Host.Outcome.next (congrArg Prod.snd hends)), ?_⟩
  generalize v.wentTo s.me.tvec l = t at hu hsm
  have hsstat : t.me.sstat = { s.me.sstat with
      pm := s.me.sstat.mode, pie := s.me.sstat.ie, ie := false, nest := s.me.sstat.mode, mode := true, held := held } := by
    refine (congrArg Core.sstat hu : t.me.uncached.sstat = _).trans ?_
    rw [hk, ← hss]
    rfl
  have hf28 : t.me.cause = 28 ∧ t.me.eia = s.me.nextIa ∧ t.me.eva = 0 ∧ t.me.eaux = x.code.setWidth 64 ∧ t.me.task = s.me.task ∧
      t.me.sup = s.me.sup ∧ t.me.flags = s.me.flags := by
    refine ⟨(congrArg Core.cause hu : t.me.uncached.cause = _).trans ?_, (congrArg Core.eia hu : t.me.uncached.eia = _).trans ?_,
      (congrArg Core.eva hu : t.me.uncached.eva = _).trans ?_, (congrArg Core.eaux hu : t.me.uncached.eaux = _).trans ?_,
      (congrArg Core.task hu : t.me.uncached.task = _).trans ?_, (congrArg Core.sup hu : t.me.uncached.sup = _).trans ?_,
      (congrArg Core.flags hu : t.me.uncached.flags = _).trans ?_⟩ <;> rw [hk]
    · show ((if false = true then 1#64 <<< 62 else 0) ||| BitVec.ofNat 64 (28 % 256) : Word) = 28
      decide
    · rfl
    · rfl
    · exact haux
    · exact htask
    · exact hsup
    · exact hfl
  obtain ⟨h1, h2, h3, h4, h5, h6, h7⟩ := hf28
  exact ⟨(congrArg Core.ia hu : t.me.uncached.ia = _), by rw [hsstat], by rw [hsstat], by rw [hsstat], by rw [hsstat], h1, h2, h3, h4, h5, h6, h7, hsm⟩

/-- Settles O18: trap entry by mode and by what is queued, the failure of a task without a handler, and TRAP. -/
theorem trapsAreTaken : Obligations.TrapsAreTaken := ⟨trapEntry_spec, noHandler, lateFault, trapInstruction, trapReachesHandler⟩

end Sys2Proof.Machine
end

section
/-! PROOF. ERET and RESUME (R379). -/
namespace Sys2Proof.Machine

open Sys2Proof

/-! ## The wait before a return -/

theorem lateFault_of_quiet {k : Core} (hq : k.queue = []) (hi : k.issued = 0) : k.lateFault = none := by
  have hr (i : Nat) (h : i < 4) : (k.chan i).recalled = [] := by
    unfold Chan.recalled
    rw [chan_of_issued hi i h]
    cases (k.chan i).stopped <;> rfl
  have hrec : k.recalled = [] := by
    unfold Core.recalled
    rw [show (List.range 4) = [0, 1, 2, 3] by decide]
    simp [hr]
  unfold Core.lateFault
  rw [hrec, hq]
  rfl

theorem run_waitUnstopped {s : State} (hq : Spec.Quiet s) : Ends waitUnstopped s s := by
  have hcopies := fun i hi => chan_of_issued hq.channels i hi
  unfold waitUnstopped
  refine ends_bind (run_waitEntries hq.queue) (ends_bind (run_getMe s) (ends_bind (run_runCopiesUntil hq.channels _ _) (ends_bind (run_getMe s) ?_)))
  rw [lateFault_of_quiet hq.queue hq.channels, if_neg]
  · rfl
  · simp [List.range, List.range.loop, hcopies 0, hcopies 1, hcopies 2, hcopies 3]

/-! ## What the returns make of the core -/

theorem pointOf_fields (w : Word) : pointOf w =
    { row := (w.extractLsb' 32 16).toNat, col := (w.extractLsb' 16 16).toNat, block := (w.extractLsb' 0 2).toNat } := by
  simp [pointOf, bits, Nat.shiftRight_eq_div_pow]

/-- The held entries at the points at which they restart: entry 0 at VSTART's (R370, R379). -/
def Core.heldPoints (k : Core) : List VEntry :=
  k.held.mapIdx fun i e => if i = 0 then
    { e with prog := { row := (k.vstart.extractLsb' 32 16).toNat, col := (k.vstart.extractLsb' 16 16).toNat,
                       block := (k.vstart.extractLsb' 0 2).toNat } } else e

theorem heldPoints_nil {k : Core} (h : k.held = []) : k.heldPoints = [] := by
  unfold Core.heldPoints
  rw [h]
  rfl

theorem heldPoints_cons {k : Core} {e : VEntry} {rest : List VEntry} (h : k.held = e :: rest) :
    k.heldPoints = { e with prog := pointOf k.vstart } :: rest := by
  unfold Core.heldPoints
  rw [h, List.mapIdx_cons, ← pointOf_fields]
  refine congrArg (List.cons _) ?_
  simp only [Nat.succ_ne_zero, if_false]
  rw [List.mapIdx_eq_zipIdx_map]
  simp

/-- The core after its held entries have returned to the queue. -/
def Core.requeued (k : Core) (es : List VEntry) (mask : Word) : Core :=
  { k with queue := (es.zipIdx.filter fun q => !mask.toNat.testBit q.2).map Prod.fst, held := [], restored := false,
           sstat := { k.sstat with held := false, nest := false, mode := false, ie := k.sstat.pie } }

theorem settleHeld_eq {k : Core} (hq : k.queue = []) (mask : Word) : k.settleHeld mask = k.requeued k.heldPoints mask := by
  unfold Core.settleHeld Core.requeued
  rw [hq]
  dsimp only
  rw [List.append_nil]
  cases h : k.held with
  | nil => rw [heldPoints_nil h]
  | cons e rest => rw [heldPoints_cons h]

/-! ## The ways out (R379) -/

theorem resumeWith_task {s : State} (h : s.me.sstat.mode = false) (mask : Word) (f : Nat) :
    Traps (resumeWith mask f) s (faultOf 28 0 (0x10000 + f)) s := by
  unfold resumeWith
  refine traps_bind (run_getMe s) ?_
  rw [if_pos (by rw [h]; rfl)]
  rfl

/-- In supervisor mode the return begins once the core is quiet, which it is. -/
theorem resumeWith_sup {s t : State} (hq : Spec.Quiet s) (hm : s.me.sstat.mode = true) (mask : Word) (f : Nat)
    (h : Ends (do
      if s.me.sstat.pm then goTo true s.me.eia true (modMe Core.unnest)
      else if !s.me.sstat.loaded then goIdle
      else
        let r ← tryTrap (goTo false s.me.eia true (modMe fun k => k.settleHeld mask))
        match r with
        | .inr () => return ()
        | .inl t => if t.code = 3 ∧ s.me.restored then failTask 3 else raise t) s t) : Ends (resumeWith mask f) s t := by
  unfold resumeWith
  refine ends_bind (run_getMe s) ?_
  rw [if_neg (by rw [hm]; decide)]
  exact ends_bind (run_waitUnstopped hq) (ends_bind (run_getMe s) h)

/-- A transfer to a line that is entered. -/
theorem ends_goTo {sup : Bool} {ia : Word} {l : Line} {s u : State} {f g : Core → Core} (hw : wellFormedIa ia = true)
    (he : Answers (enterLine sup ia) s l u) (hl : iaSlot ia ≤ lineNh l) (hf : f u.me = g u.me) :
    Ends (goTo sup ia true (modMe f)) s ((u.updMe g).wentTo ia l) := by
  unfold Ends
  rw [run_goTo_line hw he, if_neg (by omega), run_bind, run_modMe, updMe_congr hf]
  rfl

theorem resumeWith_nested {s u : State} {l : Line} (hq : Spec.Quiet s) (hm : s.me.sstat.mode = true) (hp : s.me.sstat.pm = true)
    (hw : wellFormedIa s.me.eia = true) (he : Answers (enterLine true s.me.eia) s l u) (hl : iaSlot s.me.eia ≤ lineNh l) (mask : Word) (f : Nat) :
    Ends (resumeWith mask f) s ((u.updMe Core.unnest).wentTo s.me.eia l) := by
  refine resumeWith_sup hq hm mask f ?_
  rw [if_pos hp]
  exact ends_goTo hw he hl rfl

/-- What a fetch leaves of the executing core: all but its instruction cache. -/
theorem Fetched.held {s u : State} (h : Fetched s u) : u.me.heldPoints = s.me.heldPoints ∧ u.me.queue = s.me.queue :=
  ⟨(congrArg Core.heldPoints h.me : u.me.uncached.heldPoints = _), (congrArg Core.queue h.me : u.me.uncached.queue = _)⟩

theorem resumeWith_loaded {s u : State} {l : Line} (hq : Spec.Quiet s) (hm : s.me.sstat.mode = true) (hp : s.me.sstat.pm = false)
    (hd : s.me.sstat.loaded = true) (hw : wellFormedIa s.me.eia = true) (he : Answers (enterLine false s.me.eia) s l u)
    (hl : iaSlot s.me.eia ≤ lineNh l) (mask : Word) (f : Nat) :
    Ends (resumeWith mask f) s ((u.updMe fun k => k.requeued s.me.heldPoints mask).wentTo s.me.eia l) := by
  obtain ⟨hheld, hqueue⟩ := (fetched_of_answers (fetched_enterLine _ _) he).held
  refine resumeWith_sup hq hm mask f ?_
  rw [if_neg (by rw [hp]; decide), if_neg (by rw [hd]; decide)]
  refine ends_bind (tryTrap_answers (ends_goTo hw he hl ?_)) rfl
  rw [settleHeld_eq (hqueue.trans hq.queue), hheld]

theorem resumeWith_idle {s : State} (hc : s.cur < s.cores.length) (hq : Spec.Quiet s) (hm : s.me.sstat.mode = true) (hp : s.me.sstat.pm = false)
    (hd : s.me.sstat.loaded = false) (hr : s.me.reclaim = false) (mask : Word) (f : Nat) :
    ∃ t, Ends (resumeWith mask f) s t ∧ t.me.act = .idle ∧ SameMemory s t := by
  have hidle : ∃ t, Ends goIdle s t ∧ t.me.act = .idle ∧ SameMemory s t := by
    let g : Core → Core := fun k =>
      { k.dropDrain with
        act := .idle, line := none, queue := [], held := [], run := none, failing := none, deadline := none, restored := false,
        settling := none,
        sstat := { k.sstat with held := false, loaded := false, nest := false, mode := false } }
    have hg (k : Core) : (g k).reclaim = k.reclaim := by
      show (k.pend (k.draining.map Prod.fst)).reclaim = k.reclaim
      unfold Core.pend
      split
      · split
        · rfl
        · split <;> rfl
      · rfl
    have hme : (s.abandoned.updMe g).me = g { s.me with monitor := none } := by rw [me_updMe _ _ (valid_abandoned hc), me_abandoned hc]
    refine ⟨s.abandoned.updMe g, ?_, by rw [hme], fun a => byte_congr (freeMonitor_mem s s.cur) a⟩
    refine ends_bind (run_myNumber s) (ends_bind (run_modify _ s) (ends_bind (run_modMe g _) (ends_bind (run_getMe _) ?_)))
    have hrec : (s.abandoned.updMe g).me.reclaim = false := by rw [hme, hg]; exact hr
    rw [show ((s.freeMonitor s.cur).leaveBarriers s.cur) = s.abandoned from rfl, hrec]
    rfl
  obtain ⟨t, ht, hrest⟩ := hidle
  refine ⟨t, resumeWith_sup hq hm mask f ?_, hrest⟩
  rw [if_neg (by rw [hp]; decide), if_pos (by rw [hd]; decide)]
  exact ht

/-- Settles O19: every way out of `resumeWith`, of which ERET is the case of the mask 0. -/
theorem returns : Obligations.Returns := by
  intro s u l hc hq is
  have key (i : Instr) (mask : Word) (f : Nat) (hends : ∀ t, Ends (resumeWith mask f) s t → exec i s = .next t)
      (htraps : ∀ r, Traps (resumeWith mask f) s r s → exec i s = .next (s.after (trapEntry (some r) s.me.ia))) : is i mask f := by
    refine ⟨fun hm => htraps _ (resumeWith_task hm mask f), fun hm hp hw he hl => hends _ (resumeWith_nested hq hm hp hw he hl mask f),
      fun hm hp hd hw he hl => hends _ (resumeWith_loaded hq hm hp hd hw he hl mask f), fun hm hp hd hr => ?_⟩
    obtain ⟨t, ht, hrest⟩ := resumeWith_idle hc hq hm hp hd hr mask f
    exact ⟨t, hends t ht, hrest⟩
  have hfree (rs : List Reg) : s.me.pending rs = false := pending_of_queue hq.queue rs
  refine ⟨key .eret 0 1 (fun t ht => instr_stays (hfree []) (answers_bind ht rfl)) fun r hr => instr_traps (hfree []) (traps_of_bind hr), fun x => ?_⟩
  exact key (.resume x) (s.me.x x.a) 2 (fun t ht => instr_stays (hfree [x.a]) (answers_bind (run_readX x.a s) (answers_bind ht rfl)))
    fun r hr => instr_traps (hfree [x.a]) (traps_bind (run_readX x.a s) (traps_of_bind hr))

end Sys2Proof.Machine
end

section
/-! PROOF. TLBINV, WFI and what task mode may not run (R103, R379, R380). -/
namespace Sys2Proof.Machine

open Sys2Proof

/-! ## TLBINV (R103) -/

/-- Whether a store has not performed that a removed translation gave. -/
theorem storesVia_iff (s : State) (test : TlbEntry → Bool) :
    s.storesVia test = true ↔ ∃ k ∈ s.cores, ∃ w ∈ k.sb, ∃ t, w.via = some t ∧ test t = true := by
  unfold State.storesVia
  simp only [List.any_eq_true, Option.any_eq_true]

/-- What a translation that stays held is not. -/
theorem kept_of_not_removed {e : TlbEntry} {va mode : Nat} {asid : BitVec 16} (h : e.removed va asid mode = false) :
    (mode = 0 → va < 2 ^ 57 → isPadVa va = false →
      ¬ (e.page.va ≤ va ∧ va < e.page.va + e.page.size ∧ (e.asid = asid ∨ e.page.leaf.getLsbD 5 = true))) ∧
    (mode = 1 → e.asid ≠ asid ∨ e.page.leaf.getLsbD 5 = true) ∧ mode < 2 := by
  match mode, h with
  | 0, h =>
    refine ⟨fun _ hva hpad hserves => ?_, fun h1 => absurd h1 (by decide), by decide⟩
    obtain ⟨h1, h2, h3⟩ := hserves
    have hs : tlbServes asid va e = true := by
      unfold tlbServes bit
      rw [decide_eq_true h1, decide_eq_true h2]
      simpa [BitVec.getLsbD] using h3
    unfold TlbEntry.removed at h
    rw [hs, hpad, decide_eq_true hva] at h
    cases h
  | 1, h =>
    refine ⟨fun h0 => absurd h0 (by decide), fun _ => ?_, by decide⟩
    unfold TlbEntry.removed bit at h
    rcases Bool.and_eq_false_iff.1 h with ha | hb
    · exact .inl (by simpa using ha)
    · exact .inr (by simpa [BitVec.getLsbD] using hb)
  | n + 2, h => cases h

theorem mem_tlbinv {s : State} {va mode : Nat} {asid : BitVec 16} {d : Die} (hd : d ∈ (s.tlbinv va asid mode).dies) {e : TlbEntry}
    (he : e ∈ d.tlb) : e.removed va asid mode = false := by
  obtain ⟨d, -, rfl⟩ := List.mem_map.1 hd
  simpa using (List.mem_filter.1 he).2

/-- TLBINV up to the wait for the stores of removed translations. -/
theorem run_tlbinvOp {s : State} {x : RabT2} (hq : Spec.Quiet s) (hm : s.me.sstat.mode = true) :
    runM (tlbinvOp x) s = runM (do
      let asid := (s.me.x x.b).extractLsb' 0 16
      let mode := ((s.me.x x.b).extractLsb' 16 2).toNat
      if (← get).storesVia fun t => t.removed (s.me.x x.a).toNat asid mode then await else pure ()
      (← get).rowsLeft.forM fun c => onCore c deliverRows
      modify fun s => s.itemsLeft.foldl State.crustAll s
      modify fun s' => s'.tlbinv (s.me.x x.a).toNat asid mode) (Spec.released s .device).flushEvery := by
  have hasid : BitVec.ofNat 16 (bits (s.me.x x.b).toNat 15 0) = (s.me.x x.b).extractLsb' 0 16 := by
    rw [bits_toNat]
    exact BitVec.ofNat_toNat 16 _ |>.trans (BitVec.setWidth_eq _)
  have hmode : bits (s.me.x x.b).toNat 17 16 = ((s.me.x x.b).extractLsb' 16 2).toNat := bits_toNat _ _ _
  unfold tlbinvOp
  rw [run_bind, run_supervisorOnly hm]
  dsimp only
  rw [run_bind, run_readX]
  dsimp only
  rw [run_bind, run_readX]
  dsimp only
  rw [run_bind, run_scalarRelease hq]
  dsimp only
  rw [run_bind, run_modify]
  dsimp only
  rw [hasid, hmode]

theorem tlbinvOp_waits {s : State} {x : RabT2} (hq : Spec.Quiet s) (hm : s.me.sstat.mode = true)
    (h : (Spec.released s .device).flushEvery.storesVia (fun t => t.removed (s.me.x x.a).toNat ((s.me.x x.b).extractLsb' 0 16)
      ((s.me.x x.b).extractLsb' 16 2).toNat) = true) :
    runM (tlbinvOp x) s = (.error .wait, (Spec.released s .device).flushEvery) := by
  rw [run_tlbinvOp hq hm]
  dsimp only
  rw [run_bind, run_get]
  dsimp only
  rw [if_pos h]
  rfl

theorem tlbinvOp_ends {s u : State} {x : RabT2} (hq : Spec.Quiet s) (hm : s.me.sstat.mode = true)
    (h : (Spec.released s .device).flushEvery.storesVia (fun t => t.removed (s.me.x x.a).toNat ((s.me.x x.b).extractLsb' 0 16)
      ((s.me.x x.b).extractLsb' 16 2).toNat) = false)
    (hu : Ends ((Spec.released s .device).flushEvery.rowsLeft.forM fun c => onCore c deliverRows) (Spec.released s .device).flushEvery u) :
    Ends (tlbinvOp x) s ((u.itemsLeft.foldl State.crustAll u).tlbinv (s.me.x x.a).toNat ((s.me.x x.b).extractLsb' 0 16)
      ((s.me.x x.b).extractLsb' 16 2).toNat) := by
  unfold Ends
  rw [run_tlbinvOp hq hm]
  refine ends_bind (run_get _) ?_
  rw [if_neg (by rw [h]; decide)]
  exact ends_bind (run_get _) (ends_bind hu (ends_bind (run_modify _ u) rfl))

theorem tlbInvalidation : Spec.TlbInvalidation := by
  intro s x hr hq hm va asid mode r left
  have hleft : r.storesVia (fun t => t.removed va asid mode) = true ↔ left := storesVia_iff r _
  constructor
  · intro hl
    have hw := scalar_waits hr.free (tlbinvOp_waits hq hm (hleft.2 hl))
    exact ⟨hw, hw, hw⟩
  · intro hl goes
    have hno : r.storesVia (fun t => t.removed va asid mode) = false := Bool.eq_false_iff.2 fun h => hl (hleft.1 h)
    have hgoes (t : State) (h : scalar [x.a, x.b] (tlbinvOp x) s = .next (t.tlbinv va asid mode).goesOn) : goes (t.tlbinv va asid mode) :=
      ⟨h, h, h, fun d hd e he => kept_of_not_removed (mem_tlbinv hd he)⟩
    constructor
    · intro hrows hitems
      have hends := tlbinvOp_ends (x := x) (u := r) hq hm hno (by rw [show (Spec.released s .device).flushEvery.rowsLeft = [] from hrows]; rfl)
      rw [hitems, List.foldl_nil] at hends
      exact hgoes r (scalar_ends hr hends (tame_tlbinvOp x))
    · intro u hu t hc hn
      exact hgoes (u.itemsLeft.foldl State.crustAll u) (scalar_completes hr (tlbinvOp_ends hq hm hno hu) hc hn)

/-! ## WFI (R380) -/

theorem interrupt_isSome (k : Core) : k.interrupt.isSome = true ↔ k.preempt.isSome = true ∨ k.mgmt = true := by
  unfold Core.interrupt
  cases k.preempt with
  | none => cases k.mgmt <;> decide
  | some r => exact ⟨fun _ => .inl rfl, fun _ => rfl⟩

theorem waitForInterrupt : Spec.WaitForInterrupt := by
  intro s hr hm
  constructor
  · intro h
    refine scalar_completes hr ?_ hr.cur hr.next
    refine ends_bind (run_supervisorOnly hm) (ends_bind (run_getMe s) ?_)
    rw [if_pos ((interrupt_isSome _).2 h)]
    rfl
  · intro hp hg
    refine scalar_waits hr.free ?_
    rw [run_bind, run_supervisorOnly hm]
    dsimp only
    rw [run_bind, run_getMe]
    dsimp only
    rw [if_neg]
    · rfl
    · rw [interrupt_isSome, hp, hg]
      decide

/-! ## Task mode (R379) -/

/-- An instruction that first asks for supervisor mode is refused in task mode. -/
theorem scalar_refused {rs : List Reg} {f : M Unit} {s : State} (hm : s.me.sstat.mode = false) (hq : s.me.queue = []) :
    scalar rs (do supervisorOnly; f) s = .next (s.after (trapEntry (some (faultOf 1 0 (s.me.head * 2 ^ 16 + 10))) s.me.ia)) :=
  scalar_traps (pending_of_queue hq rs) (traps_of_bind (supervisorOnly_traps hm))

theorem supervisorOnly_spec : Spec.SupervisorOnly := by
  intro s hm hq refused
  exact ⟨scalar_refused hm hq, fun x => ⟨scalar_refused hm hq, scalar_refused hm hq, scalar_refused hm hq⟩,
    fun x => ⟨scalar_refused hm hq, scalar_refused hm hq, scalar_refused hm hq, scalar_refused hm hq⟩,
    fun x => ⟨scalar_refused hm hq, scalar_refused hm hq, scalar_refused hm hq, scalar_refused hm hq⟩, fun x => scalar_refused hm hq⟩

/-- Settles O20: TLBINV with what it waits for and what it removes, WFI, and the instructions that task mode is refused. -/
theorem supervisorInstructions : Obligations.SupervisorInstructions := ⟨tlbInvalidation, waitForInterrupt, supervisorOnly_spec⟩

end Sys2Proof.Machine
end

section
/-! PROOF. Dispatch, and the head of the vector queue (R244, R245, R310). -/
namespace Sys2Proof.Machine

open Sys2Proof

/-! ## Dispatch -/

/-- A VADD joins the queue with copies of what it needs, while the vector unit stays behind. -/
theorem vaddScalar_dispatches {s : State} {x : VBinF} (hc : s.cur < s.cores.length) (he : s.eager = false) (ho : s.me.occupied < 32)
    (hn : wellFormedIa s.me.nextIa = true) (hp : s.me.pending [x.b] = false) (hs : s.me.svWaits = false) :
    exec (.vaddScalar x) s = .next (s.dispatched (.int .add true x) .frm none (some x.b) none none).goesOn := by
  refine scalar_completes (t := s.dispatched (.int .add true x) .frm none (some x.b) none none) ⟨hc, pending_nil _, hn⟩ ?_ ?_ ?_
  · refine ends_bind (run_interlock hp) (ends_bind (run_svGate hs) (ends_bind (a := ()) (t := s) ?_ (ends_bind (run_modMe _ s) (ends_bind (run_get _) ?_))))
    · refine answers_bind (run_getMe s) ?_
      rw [if_pos (show s.me.occupied < Config.queueEntries from ho)]
      rfl
    · rw [show (s.updMe _).eager = false from he, if_neg (by decide)]
      rfl
  · simpa [State.dispatched] using hc
  · rw [State.dispatched, me_updMe _ _ hc, enqueue_nextIa]
    exact hn

/-! ## The head of the queue -/

/-- The head of the queue runs to an end. -/
theorem stepHead_completes {s w t : State} {e : VEntry} {es : List VEntry} (hq : s.me.queue = e :: es) (hf : e.fault = none)
    (hg : Ends (entryGate e) s w) (hv : Ends (vexec e) w t) : Answers stepHead s true (t.updMe fun k => k.complete e) := by
  refine answers_bind (run_getMe s) ?_
  rw [hq]
  dsimp only
  rw [hf, if_neg (by decide)]
  unfold Answers
  rw [run_tryCatch]
  rw [show runM (do entryGate e; vexec e; modMe fun k => k.complete e; return true) s = (.ok true, t.updMe fun k => k.complete e) from
    answers_bind hg (answers_bind hv (answers_bind (run_modMe _ t) rfl))]

/-- The head of the queue stops at a fault. -/
theorem stepHead_faults {s w t : State} {e : VEntry} {es : List VEntry} {r : Trap} (hq : s.me.queue = e :: es) (hf : e.fault = none)
    (hg : Ends (entryGate e) s w) (hv : Traps (vexec e) w r t) :
    Answers stepHead s false (t.updMe fun k => k.headFault r) := by
  refine answers_bind (run_getMe s) ?_
  rw [hq]
  dsimp only
  rw [hf, if_neg (by decide)]
  unfold Answers
  rw [run_tryCatch]
  rw [show runM (do entryGate e; vexec e; modMe fun k => k.complete e; return true) s = (.error (.trap r), t) from
    traps_bind hg (traps_of_bind hv)]
  rfl

/-- An entry that accesses no memory, or that no acquire is before, passes at once. -/
theorem entryGate_passes {s : State} {e : VEntry} (h : e.op.accesses = false ∨ (s.me.issued = 0 ∧ s.crustHas s.cur Item.acq = false)) :
    Ends (entryGate e) s s := by
  rcases h with h | ⟨hi, ha⟩
  · unfold entryGate
    rw [h]
    rfl
  · exact run_entryGate hi ha e

/-- Settles O27: dispatch with its copies, and the head of the queue that completes or faults once its gate is passed. -/
theorem dispatchAndRun : Obligations.DispatchAndRun := by
  refine ⟨fun s x hc he ho hn hp hs => ?_, fun s w t e es hq hf hg hv => stepHead_completes hq hf hg hv, fun s e h => entryGate_passes h,
    fun s w t e f es r hq hf hg hv hc ht => ⟨_, stepHead_faults hq hf hg hv, ?_⟩⟩
  · refine ⟨vaddScalar_dispatches hc he ho hn hp hs, ?_, rfl, rfl, rfl, rfl, rfl, rfl, rfl, rfl, rfl, rfl, rfl⟩
    rw [State.dispatched, me_updMe _ _ hc]
    rfl
  · rw [me_updMe _ _ hc]
    unfold Core.headFault
    rw [ht]

end Sys2Proof.Machine
end

section
/-! PROOF. A vector-class instruction whose entry runs at once: it completes, waits or faults (R244, R245). -/
namespace Sys2Proof.Machine

open Sys2Proof

/-- A computation goes on from what its first part answers. -/
theorem run_bind_of {β : Type} {m : M α} {f : α → M β} {s t : State} {a : α} (h : Answers m s a t) : runM (m >>= f) s = runM (f a) t := by
  rw [run_bind, show runM m s = (.ok a, t) from h]

section Dispatched

variable {s t u : State} {op : VecOp} {rm : Rm} {a b c d : Option Reg}

theorem enqueue_queue (k : Core) (op : VecOp) (rm : Rm) (a b c d : Option Reg) :
    (k.enqueue op rm a b c d).queue = k.queue ++ [k.newEntry op rm a b c d] := by
  unfold Core.enqueue
  cases op <;> rfl

theorem enqueue_chans (k : Core) (op : VecOp) (rm : Rm) (a b c d : Option Reg) : (k.enqueue op rm a b c d).chans = k.chans := by
  unfold Core.enqueue
  cases op <;> rfl

theorem issued_of_chans {k l : Core} (h : k.chans = l.chans) : k.issued = l.issued := by
  unfold Core.issued Core.chan
  rw [h]

theorem valid_dispatched (hc : s.cur < s.cores.length) : (s.dispatched op rm a b c d).cur < (s.dispatched op rm a b c d).cores.length := by
  simpa [State.dispatched] using hc

theorem me_dispatched (hc : s.cur < s.cores.length) : (s.dispatched op rm a b c d).me = s.me.enqueue op rm a b c d := me_updMe _ _ hc

theorem dispatched_queue (h : Accepting s) : (s.dispatched op rm a b c d).me.queue = [s.entry op rm a b c d] := by
  rw [me_dispatched h.cur, enqueue_queue, h.queue]
  rfl

theorem dispatched_issued (h : Accepting s) : (s.dispatched op rm a b c d).me.issued = 0 := by
  rw [me_dispatched h.cur, issued_of_chans (enqueue_chans _ _ _ _ _ _ _)]
  exact h.channels

theorem dispatched_gate (h : Accepting s) (e : VEntry) : Ends (entryGate e) (s.dispatched op rm a b c d) (s.dispatched op rm a b c d) :=
  run_entryGate (dispatched_issued h) h.acquired e

/-- Dispatch lets the head of the queue run once. -/
theorem ends_dispatch {more : Bool} (h : Accepting s) (hs : Answers stepHead (s.dispatched op rm a b c d) more u) :
    Ends (dispatch op rm a b c d) s u := by
  have ho : s.me.occupied < Config.queueEntries := by simp [Core.occupied, h.queue, h.channels, Config.queueEntries]
  have hroom : Ends makeRoom s s := by
    refine ends_bind (run_getMe s) ?_
    rw [if_pos ho]
    rfl
  refine ends_bind (run_interlock (pending_of_queue h.queue _)) (ends_bind (run_svGate h.fence) (ends_bind hroom
    (ends_bind (run_modMe _ s) (ends_bind (run_get _) ?_))))
  change Ends (if (s.dispatched op rm a b c d).eager = true then runEntries else pure ()) (s.dispatched op rm a b c d) u
  rw [if_pos (show (s.dispatched op rm a b c d).eager = true from h.eager)]
  refine ends_bind (run_getMe _) ?_
  rw [dispatched_queue h]
  refine ends_bind hs ?_
  cases more <;> rfl

/-- Where the stream stands after the head of the queue has run. -/
theorem next_ok_dispatched (h : Accepting s) {m : M α} (hm : Tame True m) {r : Except Halt α} (hr : runM m (s.dispatched op rm a b c d) = (r, u)) :
    u.cur < u.cores.length ∧ wellFormedIa u.me.nextIa = true := by
  have hmild : Mild True (s.dispatched op rm a b c d) (runM m (s.dispatched op rm a b c d)).2 := hm _
  rw [hr] at hmild
  refine hmild.next_ok (valid_dispatched h.cur) ?_
  rw [me_dispatched h.cur, enqueue_nextIa]
  exact h.next

/-- A vector-class instruction goes on after the head of the queue has run. -/
theorem vector_goes {more : Bool} (h : Accepting s) (hs : Answers stepHead (s.dispatched op rm a b c d) more u) (hc : u.cur < u.cores.length)
    (hn : wellFormedIa u.me.nextIa = true) : vector op rm a b c d s = .next u.goesOn :=
  scalar_completes ⟨h.cur, pending_nil _, h.next⟩ (ends_dispatch h hs) hc hn

/-- A vector-class instruction whose entry completes. -/
theorem vector_ends (h : Accepting s) (hv : Ends (vexec (s.entry op rm a b c d)) (s.dispatched op rm a b c d) t) :
    vector op rm a b c d s = .next (Spec.ran s op rm a b c d t) := by
  obtain ⟨hc, hn⟩ := next_ok_dispatched h (tame_vexec _) hv
  refine vector_goes h (stepHead_completes (dispatched_queue h) rfl (dispatched_gate h _) hv) (by simpa using hc) ?_
  rw [me_updMe _ _ hc, complete_nextIa]
  exact hn

/-- A vector-class instruction whose entry waits in the queue. -/
theorem vector_waits (h : Accepting s) (hv : runM (vexec (s.entry op rm a b c d)) (s.dispatched op rm a b c d) = (.error .wait, t)) :
    vector op rm a b c d s = .next t.goesOn := by
  obtain ⟨hc, hn⟩ := next_ok_dispatched h (tame_vexec _) hv
  refine vector_goes (more := false) h ?_ hc hn
  refine answers_bind (run_getMe _) ?_
  rw [dispatched_queue h]
  dsimp only
  rw [if_neg (show ¬ (s.entry op rm a b c d).fault.isSome = true from Bool.false_ne_true)]
  unfold Answers
  rw [run_tryCatch]
  rw [show runM (do entryGate (s.entry op rm a b c d); vexec (s.entry op rm a b c d); modMe fun k => k.complete (s.entry op rm a b c d); return true)
    (s.dispatched op rm a b c d) = (.error .wait, t) from waits_bind (dispatched_gate h _) (waits_of_bind hv)]
  rfl

/-- A vector-class instruction whose entry stays in the queue with its fault. -/
theorem vector_faults {r : Trap} (h : Accepting s) (hv : Traps (vexec (s.entry op rm a b c d)) (s.dispatched op rm a b c d) r t) :
    vector op rm a b c d s = .next (t.updMe fun k => k.headFault r).goesOn := by
  obtain ⟨hc, hn⟩ := next_ok_dispatched h (tame_vexec _) hv
  refine vector_goes h (stepHead_faults (dispatched_queue h) rfl (dispatched_gate h _) hv) (by simpa using hc) ?_
  rw [me_updMe _ _ hc, ← hn]
  unfold Core.headFault
  split <;> rfl

end Dispatched

end Sys2Proof.Machine
end

section
/-! PROOF. Barriers and the iteration ring (R326 to R336). -/
namespace Sys2Proof.Machine

open Sys2Proof

/-! ## What barrier entries do at the head of the queue (R328 to R332) -/

theorem barrierPlace_answers {x : Ctx} {acc : Acc} {a : Nat} {s t : State} {q : Place} (ha : a % 64 = 0) (h : Answers (place x acc a) s q t) :
    Answers (barrierPlace x acc a) s q t := by
  unfold barrierPlace
  rw [if_neg (by rw [ha]; decide)]
  exact h

/-- A release beyond the core's own die, where no copy is issued. -/
theorem releaseWrites_ends {s : State} (h : s.me.issued = 0) (sc : Scope) {n : Nat} (h0 : n ≠ 0) (h4 : n ≠ 4) (hs : sc ≠ .core) (hy : sc ≠ .system) :
    Ends (releaseWrites n) s (Spec.released s sc) := by
  unfold Ends
  rw [run_releaseWrites h]
  dsimp only
  rw [if_neg h4, if_neg h0]
  cases sc with
  | core => exact absurd rfl hs
  | system => exact absurd rfl hy
  | cluster => rfl
  | die => rfl
  | device => rfl

theorem placed {c : Ctx} {acc : Acc} {a : Nat} {s t : State} {q : Place} (h : Answers (place c acc a) s q t) : SameCores s t :=
  sameCores_of_answers (sameCores_place c acc a) h

section Instructions

variable {s t : State} {q : Place}

/-- The event of a BARINIT, whose release has left the state u. -/
theorem barinit_event (e : VEntry) (x : R3T2) (c : Ctx) (a : Nat) (u : State) (wanted : Nat) (hw : bits e.opb.toNat 37 32 = wanted) :
    Ends (do
      let s ← get
      let (line, key, plain) := s.barrierLine c q a
      let (s, status, index) := s.barInit c.core line key plain (bits e.opb.toNat 15 0) (bits e.opb.toNat 37 32)
      set s
      entryX e x.d (word (status * 2 ^ 32 + index))) u
      (let p := u.barrierLine c q a
       let r := u.barInit c.core p.1 p.2.1 p.2.2 (e.opb.toNat % 2 ^ 16) wanted
       r.1.updMe fun k => k.setXOf e.sup x.d (BitVec.ofNat 64 (r.2.1 * 2 ^ 32 + r.2.2))) := by
  refine ends_bind (run_get u) ?_
  rw [hw]
  exact ends_bind (run_set _ u) (run_modMe _ _)

theorem barinit_ends {x : R3T2} {u : State} (ha : (s.me.x x.a).toNat % 64 = 0)
    (h : Answers (place (s.me.ctx s.cur) .write (s.me.x x.a).toNat) (s.dispatched (.barinit x) .frm (some x.a) (some x.b) none none) q t)
    (hu : Ends (releaseWrites deviceScope) t u) :
    let p := u.barrierLine (s.me.ctx s.cur) q (s.me.x x.a).toNat
    let r := u.barInit s.cur p.1 p.2.1 p.2.2 ((s.me.x x.b).toNat % 2 ^ 16) ((s.me.x x.b).extractLsb' 32 6).toNat
    Ends (vexec (s.entry (.barinit x) .frm (some x.a) (some x.b) none none)) (s.dispatched (.barinit x) .frm (some x.a) (some x.b) none none)
      (Spec.gave s r.1 x.d (BitVec.ofNat 64 (r.2.1 * 2 ^ 32 + r.2.2))) :=
  ends_bind (run_myNumber _) (ends_bind (barrierPlace_answers ha h) (ends_bind hu
    (barinit_event (s.entry (.barinit x) .frm (some x.a) (some x.b) none none) x (s.me.ctx s.cur) _ u _ (bits_toNat _ _ _))))

theorem bararr_ends {x : R2T2} (hs : Accepting s) (ha : (s.me.x x.a).toNat % 64 = 0)
    (h : Answers (place (s.me.ctx s.cur) .read (s.me.x x.a).toNat) (s.dispatched (.bararr x) .frm (some x.a) none none none) q t) :
    let u := Spec.released t .device
    let r := u.arrive s.cur (u.barrierAt (u.barrierLine (s.me.ctx s.cur) q (s.me.x x.a).toNat).1)
    Ends (vexec (s.entry (.bararr x) .frm (some x.a) none none none)) (s.dispatched (.bararr x) .frm (some x.a) none none none)
      (Spec.gave s r.1 x.d (match r.2 with | some p => BitVec.ofNat 64 p | none => BitVec.allOnes 64)) := by
  intro u r
  have hi : t.me.issued = 0 := (placed h).issued.trans (dispatched_issued hs)
  refine ends_bind (run_myNumber _) (ends_bind (barrierPlace_answers ha h) (ends_bind (releaseWrites_ends hi .device (by decide) (by decide)
    (by decide) (by decide)) (ends_bind (run_get u) (ends_bind (run_set r.1 u) ?_))))
  refine (run_modMe _ _).trans (congrArg (fun v : Word => (Except.ok (), r.1.updMe fun k => k.setXOf s.me.sstat.mode x.d v)) ?_)
  change (match r.2 with | some p => word p | none => BitVec.allOnes 64 : Word) = _
  cases r.2 <;> rfl

theorem barkill_ends {x : R2T2} (hs : Accepting s) (ha : (s.me.x x.a).toNat % 64 = 0)
    (h : Answers (place (s.me.ctx s.cur) .read (s.me.x x.a).toNat) (s.dispatched (.barkill x) .frm (some x.a) none none none) q t) :
    let u := Spec.released t .device
    Ends (vexec (s.entry (.barkill x) .frm (some x.a) none none none)) (s.dispatched (.barkill x) .frm (some x.a) none none none)
      (match u.barrierAt (u.barrierLine (s.me.ctx s.cur) q (s.me.x x.a).toNat).1 with
        | none => Spec.gave s u x.d (BitVec.allOnes 64)
        | some b => Spec.gave s (u.kill s.cur b).1 x.d (BitVec.ofNat 64 b.waiters.length)) := by
  intro u
  have hi : t.me.issued = 0 := (placed h).issued.trans (dispatched_issued hs)
  refine ends_bind (run_myNumber _) (ends_bind (barrierPlace_answers ha h) (ends_bind (releaseWrites_ends hi .device (by decide) (by decide)
    (by decide) (by decide)) (ends_bind (run_get u) ?_)))
  change Ends (match u.barrierAt (u.barrierLine (s.me.ctx s.cur) q (s.me.x x.a).toNat).1 with
    | none => entryX (s.entry (.barkill x) .frm (some x.a) none none none) x.d (BitVec.allOnes 64)
    | some b => do
      set (u.kill s.cur b).1
      entryX (s.entry (.barkill x) .frm (some x.a) none none none) x.d (word (u.kill s.cur b).2)) u _
  cases u.barrierAt (u.barrierLine (s.me.ctx s.cur) q (s.me.x x.a).toNat).1 with
  | none => exact run_modMe _ u
  | some b => exact ends_bind (run_set _ u) (run_modMe _ _)

/-- The dispatch of an entry changes its core's queue alone: what the tables of the dies hold is as it was. -/
theorem barwait_found {x : R3T2} (ha : (s.me.x x.a).toNat % 64 = 0)
    (hb : (s.dispatched (.barwait x) .frm (some x.a) (some x.b) none none).atBarrier s.cur = false)
    (h : Answers (place (s.me.ctx s.cur) .read (s.me.x x.a).toNat) (s.dispatched (.barwait x) .frm (some x.a) (some x.b) none none) q t) :
    runM (vexec (s.entry (.barwait x) .frm (some x.a) (some x.b) none none)) (s.dispatched (.barwait x) .frm (some x.a) (some x.b) none none) =
      match t.barrierAt (t.barrierLine (s.me.ctx s.cur) q (s.me.x x.a).toNat).1 with
      | none => (.ok (), Spec.gave s t x.d 2)
      | some b =>
        if b.phase ≠ (s.me.x x.b).toNat % 2 ^ 32 then
          (.ok (), Spec.gave s (t.updMe fun k => { k with ck := k.ck.join b.clock }) x.d 0)
        else if b.killed = true then (.ok (), Spec.gave s t x.d 1)
        else (.error .wait, t.joinBarrier b s.cur) := by
  change runM (vexecBarwait x (s.entry (.barwait x) .frm (some x.a) (some x.b) none none)) _ = _
  refine (run_bind_of (run_myNumber _)).trans ((run_bind_of (run_get _)).trans ?_)
  rw [if_neg (by rw [show (s.dispatched (.barwait x) .frm (some x.a) (some x.b) none none).cur = s.cur from rfl, hb]; decide)]
  refine (run_bind_of (barrierPlace_answers ha h)).trans ((run_bind_of (run_get t)).trans ?_)
  change runM (match t.barrierAt (t.barrierLine (s.me.ctx s.cur) q (s.me.x x.a).toNat).1 with
    | none => _
    | some b => _) t = _
  cases t.barrierAt (t.barrierLine (s.me.ctx s.cur) q (s.me.x x.a).toNat).1 with
  | none => exact run_modMe _ t
  | some b =>
    dsimp only
    rw [run_ite, run_ite]
    refine if_congr Iff.rfl ?_ (if_congr Iff.rfl (run_modMe _ t) ?_)
    · rw [run_bind, run_modMe]
      exact run_modMe _ _
    · rw [run_bind, run_set]
      rfl

theorem barwait_waiting {x : R3T2} (hb : (s.dispatched (.barwait x) .frm (some x.a) (some x.b) none none).atBarrier s.cur = true) :
    runM (vexec (s.entry (.barwait x) .frm (some x.a) (some x.b) none none)) (s.dispatched (.barwait x) .frm (some x.a) (some x.b) none none) =
      (.error .wait, s.dispatched (.barwait x) .frm (some x.a) (some x.b) none none) := by
  change runM (vexecBarwait x (s.entry (.barwait x) .frm (some x.a) (some x.b) none none)) _ = _
  refine (run_bind_of (run_myNumber _)).trans ((run_bind_of (run_get _)).trans ?_)
  rw [if_pos (show (s.dispatched (.barwait x) .frm (some x.a) (some x.b) none none).atBarrier
    (s.dispatched (.barwait x) .frm (some x.a) (some x.b) none none).cur = true from hb)]
  rfl

end Instructions

theorem barrierInstructions : Spec.BarrierInstructions := by
  intro s t q hs c
  refine ⟨?_, ?_, ?_, ?_⟩
  · intro x ha a ran h u p r v
    have hv := vector_ends hs (barinit_ends ha h (releaseWrites_ends ((placed h).issued.trans (dispatched_issued hs)) .device (by decide) (by decide)
      (by decide) (by decide)))
    exact ⟨hv, hv⟩
  · intro x ha a h u r
    exact vector_ends hs (bararr_ends hs ha h)
  · intro x ha a h u
    exact vector_ends hs (barkill_ends hs ha h)
  · intro x ha a d ran
    refine ⟨fun hb => vector_waits hs (barwait_waiting hb), fun hb h => ?_⟩
    have hrun := barwait_found ha hb h
    split at hrun
    next hn =>
      rw [hn]
      exact vector_ends hs hrun
    next b hn =>
      rw [hn]
      dsimp only
      split at hrun
      next hp =>
        rw [if_pos hp]
        exact vector_ends hs hrun
      next hp =>
        rw [if_neg hp]
        split at hrun
        next hk =>
          rw [if_pos hk]
          exact vector_ends hs hrun
        next hk =>
          rw [if_neg hk]
          exact vector_waits hs hrun

/-! ## Events of a barrier (R327, R329, R330, R332) -/

/-- A write leaves what barriers a table holds. -/
theorem bars_perform (s : State) (core key : Option Nat) (loc : Nat) (bs : List Byte) (h : Nat) :
    ((s.perform core key loc bs).die h).bars = (s.die h).bars := by
  have hm (u : State) : (u.die h).calm = u.calm.die h := by
    rw [State.die, State.die, List.getD_eq_getElem?_getD, List.getD_eq_getElem?_getD]
    simp only [State.calm, List.getElem?_map]
    cases u.dies[h]? <;> rfl
  refine (congrArg Die.bars ?_ : ((s.perform core key loc bs).die h).calm.bars = (s.die h).calm.bars)
  rw [hm, hm, calm_perform]

section Tables

variable {s : State} {core line h : Nat} (hl : homeOf (line * 64) = some h) (hd : h < s.dies.length)
include hl

theorem barrierAt_eq (u : State) : u.barrierAt line = (u.die h).bars.find? fun b => b.line == line := by
  unfold State.barrierAt
  rw [hl]

include hd

/-- The entry of a line after it has been replaced. -/
theorem barrierAt_put {b : Barrier} (hb : b.line = line) : (s.putBarrier core b).barrierAt line = some b := by
  unfold State.putBarrier
  rw [hb, hl, barrierAt_eq hl]
  dsimp only
  rw [bars_perform, die_updDie_self _ _ _ hd, List.find?_cons_of_pos (by simp [hb])]

theorem barrierAt_drop (key : Option Nat) : (s.dropBarrier core line key).barrierAt line = none := by
  unfold State.dropBarrier
  rw [hl, barrierAt_eq hl]
  dsimp only
  rw [bars_perform, die_updDie_self _ _ _ hd]
  exact List.find?_eq_none.2 fun b hb => by simpa using (List.mem_filter.1 hb).2

end Tables

/-! ## The image of an entry (R327) -/

theorem leNat_append (as bs : List Byte) : leNat (as ++ bs) = leNat as + 2 ^ (8 * as.length) * leNat bs := by
  induction as with
  | nil => simp [leNat]
  | cons a r ih =>
    rw [List.cons_append, leNat, leNat, ih, List.length_cons, show 8 * (r.length + 1) = 8 + 8 * r.length by ring, pow_add]
    ring

theorem leNat_leBytes (n v : Nat) : leNat (leBytes n v) = v % 2 ^ (8 * n) := by
  induction n generalizing v with
  | zero => simp [leBytes, leNat, Nat.mod_one]
  | succ n ih =>
    rw [leBytes, leNat, ih, BitVec.toNat_ofNat, show 8 * (n + 1) = 8 + 8 * n by ring, pow_add, Nat.mod_mul]
    rfl

theorem image_length (b : Barrier) : b.image.length = 64 := by
  unfold Barrier.image
  simp only [List.length_append, leBytes_length, List.length_replicate]

/-- The first doubleword of an image: COUNT, ARRIVED and PHASE. -/
theorem image_head (b : Barrier) :
    leNat (b.image.take 8) = b.count % 2 ^ 16 + b.arrived % 2 ^ 16 * 2 ^ 16 + b.phase % 2 ^ 32 * 2 ^ 32 := by
  have ht : b.image.take 8 = leBytes 2 b.count ++ (leBytes 2 b.arrived ++ leBytes 4 b.phase) := by
    unfold Barrier.image
    rw [List.append_assoc, List.append_assoc, List.append_assoc, ← List.append_assoc (leBytes 2 b.arrived), ← List.append_assoc (leBytes 2 b.count)]
    exact List.take_left' (by simp [leBytes_length])
  rw [ht, leNat_append, leNat_append, leNat_leBytes, leNat_leBytes, leNat_leBytes, leBytes_length, leBytes_length]
  ring

/-- The second doubleword of an image: KILLED and the index. -/
theorem image_second (b : Barrier) (h : b.index < 64) : leNat ((b.image.drop 8).take 8) = (if b.killed then 1 else 0) + b.index * 256 := by
  have hd : (b.image.drop 8).take 8 = leBytes 8 ((if b.killed then 1 else 0) + b.index * 256) := by
    unfold Barrier.image
    rw [List.append_assoc, List.drop_left' (by simp [leBytes_length])]
    exact List.take_left' (by simp [leBytes_length])
  rw [hd, leNat_leBytes]
  refine Nat.mod_eq_of_lt ?_
  split <;> omega

theorem image_rest (b : Barrier) : ∀ v ∈ b.image.drop 16, v = 0 := by
  unfold Barrier.image
  rw [List.drop_left' (by simp [leBytes_length])]
  exact fun v hv => List.eq_of_mem_replicate hv

/-! ## The outcomes at a table (R329, R330, R332) -/

theorem freeIndex_none {bars : List Barrier} (h : ∀ i, 1 ≤ i → i ≤ 63 → ∃ b ∈ bars, b.index = i) : freeIndex bars = none := by
  refine List.find?_eq_none.2 fun i hi => ?_
  obtain ⟨j, hj, rfl⟩ := List.mem_map.1 hi
  obtain ⟨b, hb, hi⟩ := h (j + 1) (by omega) (by have := List.mem_range.1 hj; omega)
  simp only [Bool.not_eq_true', Bool.not_eq_false, List.any_eq_true, beq_iff_eq]
  exact ⟨b, hb, hi⟩

theorem freeIndex_some {bars : List Barrier} (h : ¬ ∀ i, 1 ≤ i → i ≤ 63 → ∃ b ∈ bars, b.index = i) :
    ∃ i, freeIndex bars = some i ∧ 1 ≤ i ∧ i ≤ 63 := by
  cases hf : freeIndex bars with
  | none =>
    refine absurd (fun i h1 h2 => ?_) h
    have hn := List.find?_eq_none.1 hf i (List.mem_map.2 ⟨i - 1, List.mem_range.2 (by omega), by omega⟩)
    simpa using hn
  | some i =>
    obtain ⟨j, hj, rfl⟩ := List.mem_map.1 (List.mem_of_find?_eq_some hf)
    exact ⟨j + 1, rfl, by omega, by have := List.mem_range.1 hj; omega⟩

theorem barrierEvents : Spec.BarrierEvents := by
  intro s core line h key count wanted hl hd bars b? init
  have hinit : init = s.barInit core line key true count wanted := rfl
  have hput (b : Barrier) (hb : b.line = line) : (s.putBarrier core b).barrierAt line = some b := barrierAt_put hl hd hb
  have hline (b : Barrier) (hb : b? = some b) : b.line = line := by simpa using List.find?_some hb
  unfold State.barInit at hinit
  rw [hl] at hinit
  dsimp only at hinit
  refine ⟨rfl, ?_, ?_, ?_, ?_, ?_, ?_, ?_, ?_, fun _ => rfl, ?_, ?_, ?_, fun b => ⟨image_length b, image_head b, image_second b, image_rest b⟩⟩
  · intro b hb hw
    rw [show bars.find? (fun b => b.line == line) = some b from hb] at hinit
    rw [hinit]
    exact if_pos (by simpa using hw)
  · intro b hb hw h0
    rw [show bars.find? (fun b => b.line == line) = some b from hb] at hinit
    dsimp only at hinit
    rw [hw, if_neg (by decide), if_pos h0] at hinit
    rw [hinit]
    exact ⟨rfl, barrierAt_drop hl hd key⟩
  · intro b hb hw h0
    rw [show bars.find? (fun b => b.line == line) = some b from hb] at hinit
    dsimp only at hinit
    rw [hw, if_neg (by decide), if_neg h0] at hinit
    rw [hinit]
    exact ⟨rfl, _, hput _ rfl, rfl, rfl, rfl, rfl, rfl⟩
  · intro hn h0
    rw [show bars.find? (fun b => b.line == line) = none from hn] at hinit
    rw [hinit]
    exact if_pos h0
  · intro hn h0 hw hi
    rw [show bars.find? (fun b => b.line == line) = none from hn] at hinit
    dsimp only at hinit
    rw [if_neg h0, if_pos hw, if_pos (by simpa using hi)] at hinit
    exact hinit
  · intro hn h0 hw hi
    rw [show bars.find? (fun b => b.line == line) = none from hn] at hinit
    dsimp only at hinit
    rw [if_neg h0, if_pos hw, if_neg (by simpa using hi)] at hinit
    rw [hinit]
    exact ⟨rfl, _, hput _ rfl, rfl, rfl, rfl, rfl, rfl⟩
  · intro hn h0 hw hi
    rw [show bars.find? (fun b => b.line == line) = none from hn] at hinit
    dsimp only at hinit
    rw [if_neg h0, if_neg (by simpa using hw), show freeIndex (s.die h).bars = none from freeIndex_none hi] at hinit
    exact hinit
  · intro hn h0 hw hi
    obtain ⟨i, hf, h1, h2⟩ := freeIndex_some hi
    rw [show bars.find? (fun b => b.line == line) = none from hn] at hinit
    dsimp only at hinit
    rw [if_neg h0, if_neg (by simpa using hw), show freeIndex (s.die h).bars = some i from hf] at hinit
    rw [hinit]
    exact ⟨rfl, h1, h2, _, hput _ rfl, rfl, rfl⟩
  · intro c b _ hk
    unfold State.arrive
    dsimp only
    rw [if_pos hk]
  · intro c b hb hk hw
    have hp (b : Barrier) (hb : b.line = line) : (s.putBarrier c b).barrierAt line = some b := barrierAt_put hl hd hb
    unfold State.arrive
    dsimp only
    rw [if_neg (by rw [hk]; decide), hw]
    by_cases hc : b.arrived + 1 = b.count
    · rw [if_pos hc]
      exact ⟨rfl, _, hp _ hb, rfl, hk, fun _ => ⟨rfl, rfl, rfl⟩, fun hne => absurd hc hne⟩
    · rw [if_neg hc]
      exact ⟨rfl, _, hp _ hb, rfl, hk, fun he => absurd he hc, fun _ => ⟨rfl, rfl⟩⟩
  · intro b hb
    have hdies : ∀ (cs : List Nat) (u : State), (cs.foldl (fun s c => s.releaseWaiter c 1 none) u).dies = u.dies := by
      intro cs
      induction cs with
      | nil => exact fun _ => rfl
      | cons c r ih => exact fun u => ih _
    exact ⟨rfl, _, barrierAt_put hl (by rw [hdies]; exact hd) hb, rfl, rfl, rfl, rfl⟩

/-! ## A released waiter (R330, R332) -/

/-- What a waiter's core holds after its release. -/
theorem core_releaseWaiter {s : State} {c status : Nat} {e : VEntry} {es : List VEntry} {x : R3T2} {ck : Option Clock} (hc : c < s.cores.length)
    (hq : (s.core c).queue = e :: es) (ho : e.op = .barwait x) : (s.releaseWaiter c status ck).core c =
      ({ (s.core c).clearVstart with
        queue := es, ck := match ck with | some q => (s.core c).ck.join q | none => (s.core c).ck } : Core).setXOf e.sup x.d (word status) := by
  refine (core_updCore_self s c _ hc).trans ?_
  dsimp only
  rw [hq]
  dsimp only
  rw [ho]
  rfl

theorem barrierRelease : Spec.BarrierRelease := by
  intro s c status e es x ck hc hq ho k
  have hk : k = _ := core_releaseWaiter hc hq ho
  rw [hk]
  unfold Core.setXOf
  by_cases hd : x.d = 0
  · rw [if_pos hd]
    exact ⟨rfl, fun h => absurd hd h, fun h => absurd hd h, fun r _ => rfl⟩
  · rw [if_neg hd]
    cases hs : e.sup with
    | true => exact ⟨rfl, fun _ h => Bool.noConfusion h, fun _ _ => Vector.getElem_set_self x.d.isLt, fun r _ => rfl⟩
    | false =>
      refine ⟨rfl, fun _ _ => Vector.getElem_set_self x.d.isLt, fun _ h => Bool.noConfusion h, fun r hr => ?_⟩
      exact Vector.getElem_set_ne x.d.isLt r.isLt fun he => hr (BitVec.eq_of_toNat_eq he.symm)

/-! ## The iteration ring (R334, R336) -/

theorem post_ends {s : State} {x : RabT4} (hs : Accepting s) :
    let d := s.dispatched (.post x) .frm (some x.a) (some x.b) none none
    Ends (vexec (s.entry (.post x) .frm (some x.a) (some x.b) none none)) d
      ((Spec.released d .die).sendPost s.cur ((s.me.x x.b).toNat % 16) (s.me.x x.a)) :=
  ends_bind (run_myNumber _) (ends_bind (releaseWrites_ends (dispatched_issued hs) .die (by decide) (by decide) (by decide) (by decide))
    (run_modify _ _))

/-- What a WAITI finds at the head of the queue. -/
theorem waiti_found {s : State} {x : R3T4} (hs : Accepting s) :
    let ch := (s.me.x x.b).toNat % 16
    let d := s.dispatched (.waiti x) .frm (some x.a) (some x.b) none none
    runM (vexec (s.entry (.waiti x) .frm (some x.a) (some x.b) none none)) d =
      if (s.die (s.cur / 40)).bound.getLsbD ch = false then (.ok (), Spec.gave s d x.d 1)
      else if (s.me.mirror.getD ch 0).toInt < (s.me.x x.a).toInt then (.error .wait, d)
      else (.ok (), Spec.gave s (d.updMe fun k => { k with ck := k.ck.join (k.mirrorCk.getD ch Clock.reset) }) x.d 0) := by
  intro ch d
  have hm : d.me.mirror = s.me.mirror := by
    rw [show d.me = _ from me_dispatched hs.cur]
    rfl
  refine (run_bind_of (run_myNumber _)).trans ((run_bind_of (run_get _)).trans ?_)
  change runM (if (!d.chanBound (dieOf s.cur) ch) = true then entryX (s.entry (.waiti x) .frm (some x.a) (some x.b) none none) x.d 1
    else if (d.me.mirror.getD ch 0).slt (s.me.x x.a) = true then await
    else do
      modMe fun k => { k with ck := k.ck.join (k.mirrorCk.getD ch Clock.reset) }
      entryX (s.entry (.waiti x) .frm (some x.a) (some x.b) none none) x.d 0) d = _
  rw [run_ite, run_ite, hm]
  refine if_congr ?_ (run_modMe _ d) (if_congr ?_ rfl ?_)
  · rw [Bool.not_eq_true']
    exact Iff.rfl
  · exact BitVec.slt_iff_toInt_lt
  · exact (run_bind_of (run_modMe _ d)).trans (run_modMe _ _)

theorem applyPost_mirror {k : Core} {ch : Nat} (h : ch < 16) (v : Word) (ck : Clock) :
    (k.applyPost ch v ck).mirror.getD ch 0 = maxSigned (k.mirror.getD ch 0) v := by
  unfold Core.applyPost
  simp [Vector.getD, h]

/-- A post that is sent on a bound channel. -/
theorem sendPost_bound {s : State} {c ch : Nat} {v : Word} (hb : (s.die (c / 40)).bound.getLsbD ch = true) (hc : c < s.cores.length)
    (hd : c / 40 < s.dies.length) (hch : ch < 16) :
    ((s.sendPost c ch v).core c).mirror.getD ch 0 = maxSigned ((s.core c).mirror.getD ch 0) v ∧
      ∀ m, m / 40 = c / 40 → m ≠ c →
        { src := c, core := m, channel := ch, value := v, clock := (s.core c).ck } ∈ ((s.sendPost c ch v).die (c / 40)).posts := by
  unfold State.sendPost
  rw [if_neg (show ¬ (!s.chanBound (dieOf c) ch) = true by rw [show s.chanBound (dieOf c) ch = true from hb]; decide)]
  constructor
  · change (((s.updCore c fun k => k.applyPost ch v (s.core c).ck).core c).mirror.getD ch 0) = _
    rw [core_updCore_self _ _ _ hc, applyPost_mirror hch]
  · intro m hm hne
    change _ ∈ (((s.updCore c fun k => k.applyPost ch v (s.core c).ck).updDie (c / 40) _).die (c / 40)).posts
    rw [die_updDie_self (s.updCore c fun k => k.applyPost ch v (s.core c).ck) _ _ hd]
    refine List.mem_append_right _ (List.mem_map.2 ⟨m % 40, List.mem_filter.2 ⟨List.mem_range.2 (Nat.mod_lt _ (by decide)), ?_⟩, ?_⟩)
    · have : c / 40 * 40 + m % 40 = m := by omega
      simpa [Config.coresPerDie, dieOf, this] using hne
    · have : c / 40 * 40 + m % 40 = m := by omega
      simp [Config.coresPerDie, dieOf, this]

theorem ringInstructions : Spec.RingInstructions := by
  intro s hs
  refine ⟨fun x => vector_ends hs (post_ends hs), fun x => ?_, fun c ch v => ⟨fun hb => ?_, fun hb hc hd hch => ?_⟩⟩
  · intro ch d ran
    have hrun := waiti_found (x := x) hs
    refine ⟨fun hb => ?_, fun hb hw => ?_, fun hb hw => ?_⟩
    · exact vector_ends hs (hrun.trans (if_pos hb))
    · exact vector_ends hs (hrun.trans ((if_neg (by rw [hb]; decide)).trans (if_neg (not_lt.2 hw))))
    · exact vector_waits hs (hrun.trans ((if_neg (by rw [hb]; decide)).trans (if_pos hw)))
  · unfold State.sendPost
    exact if_pos (by rw [show s.chanBound (dieOf c) ch = false from hb]; rfl)
  · exact sendPost_bound hb hc hd hch

/-! ## POST_ARRIVAL (R334, R336) -/

/-- POST_ARRIVAL where nothing at the head of the queue waits for it. -/
theorem postArrival_eq {s : State} {d n : Nat} (h : ∀ c, (s.arrivePost d n).2 = some c → ((s.arrivePost d n).1.core c).queue = []) :
    exec (.postArrival d n) s = .next (s.arrivePost d n).1 := by
  refine congrArg Host.Outcome.next (congrArg Prod.snd ?_ : (runM _ s).2 = (Except.ok (), (s.arrivePost d n).1).2)
  refine (run_bind_of (run_get s)).trans ((run_bind_of (run_set _ s)).trans ?_)
  change runM (match (s.arrivePost d n).2 with
    | none => pure ()
    | some c => _) (s.arrivePost d n).1 = _
  cases hg : (s.arrivePost d n).2 with
  | none => rfl
  | some c =>
    dsimp only
    refine run_onCore_ok (t := (s.arrivePost d n).1.as c) ((run_bind_of (run_getMe _)).trans ?_)
    rw [show ({ (s.arrivePost d n).1 with cur := c } : State).me.queue = [] from h c hg]
    rfl

theorem postArrives : Spec.PostArrives := by
  intro s d n p hd hp hc hch
  have harr : s.arrivePost d n = if (((s.die d).posts.take n).any fun q => q.src == p.src && q.core == p.core) = true then (s, none) else
      (let u := s.updDie d fun k => { k with posts := k.posts.eraseIdx n }
       if s.chanBound d p.channel = true then (u.updCore p.core fun k => k.applyPost p.channel p.value p.clock, some p.core) else (u, none)) := by
    unfold State.arrivePost
    rw [hp]
  have hposts : (((s.updDie d fun k => { k with posts := k.posts.eraseIdx n }).die d).posts) = (s.die d).posts.eraseIdx n := by
    rw [die_updDie_self _ _ _ hd]
  refine ⟨fun hb => ?_, fun hf => ⟨fun hb => ?_, fun hb hq => ?_⟩⟩
  · rw [if_pos hb] at harr
    rw [postArrival_eq (by rw [harr]; exact fun c h => by cases h), harr]
  · rw [if_neg (by rw [hf]; decide)] at harr
    dsimp only at harr
    rw [if_neg (by rw [show s.chanBound d p.channel = false from hb]; decide)] at harr
    exact ⟨_, postArrival_eq (by rw [harr]; exact fun c h => by cases h), by rw [harr]; exact hposts, by rw [harr]; rfl⟩
  · rw [if_neg (by rw [hf]; decide)] at harr
    dsimp only at harr
    rw [if_pos (show s.chanBound d p.channel = true from hb)] at harr
    have hcore : ((s.updDie d fun k => { k with posts := k.posts.eraseIdx n }).updCore p.core fun k =>
        k.applyPost p.channel p.value p.clock).core p.core = (s.core p.core).applyPost p.channel p.value p.clock :=
      core_updCore_self _ _ _ hc
    refine ⟨_, postArrival_eq ?_, by rw [harr]; exact hposts, ?_, fun m hm => ?_⟩
    · rw [harr]
      intro c h
      cases h
      rw [hcore]
      exact hq
    · rw [harr]
      dsimp only
      rw [hcore, applyPost_mirror hch]
    · rw [harr]
      exact core_updCore_ne _ _ _ _ (Ne.symm hm)

/-- Settles O28: the barrier instructions and events, released waiters, POST, WAITI and arriving posts. -/
theorem barriersAndRings : Obligations.BarriersAndRings :=
  ⟨barrierInstructions, barrierEvents, barrierRelease, ringInstructions, postArrives⟩

end Sys2Proof.Machine
end

section
/-! PROOF. Elements and tags of a row, and what an entry that writes elements leaves (R63 to R67, R240, R263). -/
namespace Sys2Proof.Machine

open Sys2Proof

/-! ## Where the columns of a type lie (R67) -/

theorem sixBit_block (c : Nat) : (512 * (c / 85) + 6 * (c % 85)) / 512 = c / 85 := by
  rw [Nat.mul_add_div (by decide), Nat.div_eq_of_lt (a := 6 * (c % 85)) (by omega), Nat.add_zero]

/-- A column lies in the row, and within the part of its block that elements of a 6-bit type use. -/
theorem elemPos_bounds {ty : Ty} {c : Nat} (h : c < ty.capacity) :
    elemPos ty c + ty.width ≤ 2048 ∧ 512 * elemBlock ty c ≤ elemPos ty c ∧ (ty.width = 6 → elemPos ty c + 6 ≤ 512 * elemBlock ty c + 510) := by
  cases ty <;> simp only [Ty.capacity, elemBlock, elemPos, Ty.width, sixBit_block] at h ⊢ <;> omega

/-- Two columns lie apart. -/
theorem elemPos_apart {ty : Ty} {b c : Nat} (hb : b < ty.capacity) (hc : c < ty.capacity) (h : b ≠ c) :
    elemPos ty b + ty.width ≤ elemPos ty c ∨ elemPos ty c + ty.width ≤ elemPos ty b := by
  cases ty <;> simp only [Ty.capacity, elemPos, Ty.width] at hb hc ⊢ <;> omega

theorem elemBlock_lt {ty : Ty} {c : Nat} (h : c < ty.capacity) : elemBlock ty c < 4 := by
  have := elemPos_bounds h
  cases ty <;> simp only [Ty.capacity, elemBlock, elemPos, Ty.width] at h this ⊢ <;> omega

/-! ## The bits of a row -/

theorem testBit_elem (w : VRow) (ty : Ty) (c j : Nat) :
    (w.elem ty c).testBit j = (decide (j < ty.width) && w.bits.getLsbD (elemPos ty c + j)) := by
  simp [VRow.elem, Nat.testBit_mod_two_pow, Nat.testBit_shiftRight, BitVec.getLsbD]

theorem testBit_ones_shift (n p i : Nat) : ((2 ^ n - 1) <<< p).testBit i = (decide (p ≤ i) && decide (i < p + n)) := by
  rw [Nat.testBit_shiftLeft, Nat.testBit_two_pow_sub_one]
  by_cases h : p ≤ i
  · simp only [h, decide_true, Bool.true_and]
    exact decide_eq_decide.2 (by omega)
  · simp [h]

/-- A bit of a row after a write of a column. -/
theorem getLsbD_setElem (w : VRow) (ty : Ty) (c v i : Nat) (hi : i < 2048) :
    (w.setElem ty c v).bits.getLsbD i =
      (w.bits.getLsbD i && !((decide (elemPos ty c ≤ i) && decide (i < elemPos ty c + ty.width)) ||
        (decide (ty.width = 6) && (decide (512 * elemBlock ty c + 510 ≤ i) && decide (i < 512 * elemBlock ty c + 512)))) ||
        (decide (elemPos ty c ≤ i) && (v % 2 ^ ty.width).testBit (i - elemPos ty c))) := by
  have hhole : (elemHole ty c).testBit i = ((decide (elemPos ty c ≤ i) && decide (i < elemPos ty c + ty.width)) ||
      (decide (ty.width = 6) && (decide (512 * elemBlock ty c + 510 ≤ i) && decide (i < 512 * elemBlock ty c + 512)))) := by
    unfold elemHole
    rw [Nat.testBit_or, testBit_ones_shift]
    by_cases h6 : ty.width = 6
    · rw [if_pos h6, show (3 : Nat) = 2 ^ 2 - 1 by decide, testBit_ones_shift]
      simp [h6]
    · simp [h6]
  simp only [VRow.setElem, BitVec.getLsbD_or, BitVec.getLsbD_and, BitVec.getLsbD_not, BitVec.getLsbD_ofNat, hi, decide_true, Bool.true_and,
    hhole, Nat.testBit_shiftLeft, ge_iff_le]

theorem elem_setElem {ty : Ty} {b c : Nat} (hb : b < ty.capacity) (hc : c < ty.capacity) (w : VRow) (v : Nat) :
    (w.setElem ty b v).elem ty c = if b = c then v % 2 ^ ty.width else w.elem ty c := by
  obtain ⟨hbt, hbb, hb6⟩ := elemPos_bounds hb
  obtain ⟨hct, hcb, hc6⟩ := elemPos_bounds hc
  refine Nat.eq_of_testBit_eq fun j => ?_
  rw [testBit_elem]
  by_cases hj : j < ty.width
  · rw [getLsbD_setElem _ _ _ _ _ (by omega)]
    have hsix : (decide (ty.width = 6) && (decide (512 * elemBlock ty b + 510 ≤ elemPos ty c + j) &&
        decide (elemPos ty c + j < 512 * elemBlock ty b + 512))) = false := by
      by_cases h6 : ty.width = 6
      · have := hc6 h6
        simp only [h6, decide_true, Bool.true_and, Bool.and_eq_false_iff, decide_eq_false_iff_not]
        omega
      · simp [h6]
    rw [hsix, Bool.or_false]
    split
    next h =>
      subst h
      simp [hj]
    next h =>
      have hap := elemPos_apart hb hc h
      have hout : (decide (elemPos ty b ≤ elemPos ty c + j) && decide (elemPos ty c + j < elemPos ty b + ty.width)) = false := by
        simp only [Bool.and_eq_false_iff, decide_eq_false_iff_not]
        omega
      have hval : (decide (elemPos ty b ≤ elemPos ty c + j) && (v % 2 ^ ty.width).testBit (elemPos ty c + j - elemPos ty b)) = false := by
        rw [Nat.testBit_mod_two_pow]
        simp only [Bool.and_eq_false_iff, decide_eq_false_iff_not]
        omega
      rw [hout, hval, testBit_elem]
      simp
  · split
    · rw [Nat.testBit_mod_two_pow]
      simp [hj]
    · rw [testBit_elem]
      simp [hj]

/-- A write of a 6-bit column zeroes the top two bits of its block alone. -/
theorem top_setElem {ty : Ty} {c b i : Nat} (h6 : ty.width = 6) (hc : c < ty.capacity) (hb : b < 4) (hi : 510 ≤ i) (hi' : i < 512) (w : VRow) (v : Nat) :
    (w.setElem ty c v).bits.getLsbD (512 * b + i) = (w.bits.getLsbD (512 * b + i) && !(elemBlock ty c == b)) := by
  obtain ⟨-, hlo, hup⟩ := elemPos_bounds hc
  have hup := hup h6
  rw [getLsbD_setElem _ _ _ _ _ (by omega)]
  have hin : (decide (elemPos ty c ≤ 512 * b + i) && decide (512 * b + i < elemPos ty c + ty.width)) = false := by
    simp only [Bool.and_eq_false_iff, decide_eq_false_iff_not]
    omega
  have hval : (decide (elemPos ty c ≤ 512 * b + i) && (v % 2 ^ ty.width).testBit (512 * b + i - elemPos ty c)) = false := by
    rw [Nat.testBit_mod_two_pow]
    simp only [Bool.and_eq_false_iff, decide_eq_false_iff_not]
    omega
  have htop : (decide (ty.width = 6) && (decide (512 * elemBlock ty c + 510 ≤ 512 * b + i) && decide (512 * b + i < 512 * elemBlock ty c + 512))) =
      (elemBlock ty c == b) := by
    rw [h6, Bool.eq_iff_iff]
    simp only [decide_true, Bool.true_and, Bool.and_eq_true, decide_eq_true_iff, beq_iff_eq]
    omega
  rw [hin, hval, htop, Bool.false_or, Bool.or_false]

/-! ## Tags -/

theorem tag_setTag {a b : Nat} (hb : b < 4) (w : VRow) (t : Nat) : (w.setTag a t).tag b = if a = b then t % 2 ^ 16 else w.tag b := by
  have htag (w : VRow) (j : Nat) : (w.tag b).testBit j = (decide (j < 16) && w.tags.getLsbD (16 * b + j)) := by
    rw [VRow.tag, Nat.testBit_mod_two_pow, Nat.testBit_shiftRight]
    rfl
  refine Nat.eq_of_testBit_eq fun j => ?_
  rw [htag]
  by_cases hj : j < 16
  · have hi : 16 * b + j < 64 := by omega
    have hhole : (0xFFFF <<< (16 * a) : Nat).testBit (16 * b + j) = decide (a = b) := by
      rw [show (0xFFFF : Nat) = 2 ^ 16 - 1 by decide, testBit_ones_shift, Bool.eq_iff_iff]
      simp only [Bool.and_eq_true, decide_eq_true_iff]
      omega
    simp only [VRow.setTag, BitVec.getLsbD_or, BitVec.getLsbD_and, BitVec.getLsbD_not, BitVec.getLsbD_ofNat, hi, decide_true, Bool.true_and,
      hhole, Nat.testBit_shiftLeft, ge_iff_le, hj]
    split
    next h =>
      subst h
      simp
    next h =>
      have hval : (decide (16 * a ≤ 16 * b + j) && (t % 2 ^ 16).testBit (16 * b + j - 16 * a)) = false := by
        rw [Nat.testBit_mod_two_pow]
        simp only [Bool.and_eq_false_iff, decide_eq_false_iff_not]
        omega
      rw [hval, htag]
      simp [h, hj]
  · split
    · rw [Nat.testBit_mod_two_pow]
      simp [hj]
    · rw [htag]
      simp [hj]

theorem tag_foldTags (p : Nat → Bool) (t : Nat) {b : Nat} (hb : b < 4) (bs : List Nat) (w : VRow) :
    (bs.foldl (fun w a => if p a then w.setTag a t else w) w).tag b = if b ∈ bs ∧ p b = true then t % 2 ^ 16 else w.tag b := by
  induction bs generalizing w with
  | nil => simp
  | cons a r ih =>
    rw [List.foldl_cons, ih]
    by_cases hr : b ∈ r ∧ p b = true
    · rw [if_pos hr, if_pos ⟨List.mem_cons_of_mem a hr.1, hr.2⟩]
    · rw [if_neg hr]
      by_cases hp : p a = true
      · rw [if_pos hp, tag_setTag hb]
        by_cases hab : a = b
        · subst hab
          rw [if_pos rfl, if_pos ⟨List.mem_cons_self, hp⟩]
        · rw [if_neg hab, if_neg]
          rintro ⟨hm, hpb⟩
          exact hr ⟨(List.mem_cons.1 hm).resolve_left (Ne.symm hab), hpb⟩
      · rw [if_neg hp, if_neg]
        rintro ⟨hm, hpb⟩
        rcases List.mem_cons.1 hm with rfl | hm
        · exact hp hpb
        · exact hr ⟨hm, hpb⟩

theorem bits_foldTags (p : Nat → Bool) (t : Nat) (bs : List Nat) (w : VRow) :
    (bs.foldl (fun w a => if p a then w.setTag a t else w) w).bits = w.bits := by
  induction bs generalizing w with
  | nil => rfl
  | cons a r ih =>
    rw [List.foldl_cons, ih]
    split <;> rfl

theorem tags_foldElems (ty : Ty) (ups : List (Nat × Nat)) (w : VRow) : (ups.foldl (fun w u => w.setElem ty u.1 u.2) w).tags = w.tags := by
  induction ups generalizing w with
  | nil => rfl
  | cons u r ih => exact ih _

/-! ## What a row holds after a write of some of its elements -/

section Row

variable (w : VRow) (ty : Ty) (ups : List (Nat × Nat)) (tag : Nat) (rexp : BitVec 32)

theorem bits_write : (w.write ty ups tag rexp).bits = (ups.foldl (fun w u => w.setElem ty u.1 u.2) w).bits := by
  unfold VRow.write
  dsimp only
  rw [bits_foldTags]

theorem elem_write (c : Nat) : (w.write ty ups tag rexp).elem ty c = (ups.foldl (fun w u => w.setElem ty u.1 u.2) w).elem ty c := by
  unfold VRow.elem
  rw [bits_write]

theorem tag_write {b : Nat} (hb : b < 4) :
    (w.write ty ups tag rexp).tag b = if ∃ u ∈ ups, elemBlock ty u.1 = b then tag % 2 ^ 16 else w.tag b := by
  have hw : (ups.foldl (fun w u => w.setElem ty u.1 u.2) w).tag b = w.tag b := by
    unfold VRow.tag
    rw [tags_foldElems]
  have hbs : b ∈ List.range 4 := List.mem_range.2 hb
  have hrexp (v : VRow) : ({ v with rexp := rexp } : VRow).tag b = v.tag b := rfl
  unfold VRow.write
  dsimp only
  rw [hrexp, tag_foldTags _ _ hb, hw]
  refine if_congr ?_ rfl rfl
  simp [hbs]

end Row

section Updates

variable {ty : Ty} {e : VEntry} {f : ElemFn} {r : Nat}

theorem mem_rowUpdates {u : Nat × Nat} : u ∈ rowUpdates e f r ↔ u.1 < e.nc ∧ ∃ q, f r u.1 = some q ∧ q.1 = u.2 := by
  unfold rowUpdates
  rw [List.mem_filterMap]
  constructor
  · rintro ⟨c, hc, hu⟩
    obtain ⟨q, hq, rfl⟩ := Option.map_eq_some_iff.1 hu
    exact ⟨List.mem_range.1 hc, q, hq, rfl⟩
  · rintro ⟨hc, q, hq, hv⟩
    exact ⟨u.1, List.mem_range.2 hc, by rw [hq, Option.map_some, hv]⟩

theorem rowUpdates_block (b : Nat) :
    (∃ u ∈ rowUpdates e f r, elemBlock ty u.1 = b) ↔ ∃ c, c < e.nc ∧ (f r c).isSome = true ∧ elemBlock ty c = b := by
  constructor
  · rintro ⟨u, hu, hb⟩
    obtain ⟨hc, q, hq, -⟩ := mem_rowUpdates.1 hu
    exact ⟨u.1, hc, by rw [hq]; rfl, hb⟩
  · rintro ⟨c, hc, hs, hb⟩
    obtain ⟨q, hq⟩ := Option.isSome_iff_exists.1 hs
    exact ⟨(c, q.1), mem_rowUpdates.2 ⟨hc, q, hq, rfl⟩, hb⟩

theorem rowUpdates_nil : rowUpdates e f r = [] ↔ ¬ ∃ c, c < e.nc ∧ (f r c).isSome = true := by
  rw [List.eq_nil_iff_forall_not_mem]
  constructor
  · rintro h ⟨c, hc, hs⟩
    obtain ⟨q, hq⟩ := Option.isSome_iff_exists.1 hs
    exact h (c, q.1) (mem_rowUpdates.2 ⟨hc, q, hq, rfl⟩)
  · intro h u hu
    obtain ⟨hc, q, hq, -⟩ := mem_rowUpdates.1 hu
    exact h ⟨u.1, hc, by rw [hq]; rfl⟩

/-- An element after the writes of some columns, each of which is written once. -/
theorem elem_foldElems {c : Nat} (hc : c < ty.capacity) (cs : List Nat) (hn : cs.Nodup) (hcs : ∀ b ∈ cs, b < ty.capacity) (w : VRow) :
    ((cs.filterMap fun c => (f r c).map fun q => (c, q.1)).foldl (fun w u => w.setElem ty u.1 u.2) w).elem ty c =
      match (if c ∈ cs then f r c else none) with
      | some q => q.1 % 2 ^ ty.width
      | none => w.elem ty c := by
  induction cs generalizing w with
  | nil => rfl
  | cons b cs ih =>
    obtain ⟨hb, hn⟩ := List.nodup_cons.1 hn
    have hcs' := fun x hx => hcs x (List.mem_cons_of_mem b hx)
    have hbc := hcs b List.mem_cons_self
    cases hf : f r b with
    | none =>
      rw [List.filterMap_cons_none (by rw [hf]; rfl), ih hn hcs']
      by_cases h : c = b
      · subst h
        rw [if_neg hb, if_pos List.mem_cons_self, hf]
      · simp only [List.mem_cons, h, false_or]
    | some q =>
      rw [List.filterMap_cons_some (b := (b, q.1)) (by rw [hf]; rfl), List.foldl_cons, ih hn hcs']
      by_cases h : c = b
      · subst h
        rw [if_neg hb, if_pos List.mem_cons_self, hf]
        exact (elem_setElem hbc hc w q.1).trans (if_pos rfl)
      · simp only [List.mem_cons, h, false_or, elem_setElem hbc hc, if_neg (Ne.symm h)]

theorem elem_rowUpdates {c : Nat} (hc : c < ty.capacity) (hn : e.nc ≤ ty.capacity) (w : VRow) (tag : Nat) (rexp : BitVec 32) :
    (w.write ty (rowUpdates e f r) tag rexp).elem ty c =
      match (if c < e.nc then f r c else none) with
      | some q => q.1 % 2 ^ ty.width
      | none => w.elem ty c := by
  rw [elem_write]
  have := elem_foldElems (f := f) (r := r) hc (List.range e.nc) List.nodup_range (fun b hb => (List.mem_range.1 hb).trans_le hn) w
  simp only [List.mem_range] at this
  exact this

theorem top_foldElems {b i : Nat} (h6 : ty.width = 6) (hb : b < 4) (hi : 510 ≤ i) (hi' : i < 512) (ups : List (Nat × Nat))
    (hu : ∀ u ∈ ups, u.1 < ty.capacity) (w : VRow) : (ups.foldl (fun w u => w.setElem ty u.1 u.2) w).bits.getLsbD (512 * b + i) =
      (w.bits.getLsbD (512 * b + i) && !(ups.any fun u => elemBlock ty u.1 == b)) := by
  induction ups generalizing w with
  | nil => simp
  | cons u r ih =>
    rw [List.foldl_cons, ih (fun x hx => hu x (List.mem_cons_of_mem u hx)), top_setElem h6 (hu u List.mem_cons_self) hb hi hi', List.any_cons,
      Bool.not_or, Bool.and_assoc]

end Updates

end Sys2Proof.Machine
end

section
/-! PROOF. Writes of elements by an entry (R67, R240, R263). -/
namespace Sys2Proof.Machine

open Sys2Proof

/-! ## The write of one row -/

/-- What an entry writes of row r. -/
def Core.writeRow (k : Core) (e : VEntry) (d : Reg) (ty : Ty) (f : ElemFn) (r : Nat) : Core :=
  let k := { k with flags := k.flags ||| rowFlags e f r }
  if (rowUpdates e f r).isEmpty then k
  else k.setRow e.wide d r ((k.row e.wide d r).write ty (rowUpdates e f r) (plainTag ty) (plainExp ty))

section Rows

variable {e : VEntry} {d : Reg} {ty : Ty} {f : ElemFn}

/-- Whether an entry writes an element of row r. -/
def VEntry.gives (e : VEntry) (f : ElemFn) (r : Nat) : Bool := (List.range e.nc).any fun c => (f r c).isSome

theorem gives_iff {r : Nat} : e.gives f r = true ↔ ∃ c, c < e.nc ∧ (f r c).isSome = true := by
  unfold VEntry.gives
  simp only [List.any_eq_true, List.mem_range]

theorem rowUpdates_isEmpty (r : Nat) : (rowUpdates e f r).isEmpty = !e.gives f r := by
  rw [Bool.eq_iff_iff, List.isEmpty_iff, Bool.not_eq_true', ← Bool.not_eq_true, gives_iff]
  exact rowUpdates_nil

theorem writeRow_gives {r : Nat} (h : e.gives f r = true) (k : Core) : k.writeRow e d ty f r =
    { k.setRow e.wide d r ((k.row e.wide d r).write ty (rowUpdates e f r) (plainTag ty) (plainExp ty)) with
      flags := k.flags ||| rowFlags e f r } := by
  unfold Core.writeRow
  rw [rowUpdates_isEmpty, h, if_neg (by decide)]
  rfl

theorem writeRow_none {r : Nat} (h : ¬ e.gives f r = true) (k : Core) : k.writeRow e d ty f r = { k with flags := k.flags ||| rowFlags e f r } := by
  unfold Core.writeRow
  exact if_pos (by rw [rowUpdates_isEmpty, Bool.not_eq_true']; exact Bool.eq_false_iff.2 h)

theorem writeElems_eq (he : e.prog.row = 0) (k : Core) : k.writeElems e d ty f = (List.range e.nr).foldl (fun k r => k.writeRow e d ty f r) k := by
  have hl : liveRows e = List.range e.nr := by
    unfold liveRows
    rw [he]
    exact List.filter_eq_self.2 fun r _ => by simp
  unfold Core.writeElems
  rw [hl]
  rfl

theorem rising_writeRow {k : Core} (h : Spec.Rising k.vregs) (r : Nat) : Spec.Rising (k.writeRow e d ty f r).vregs := by
  by_cases hg : e.gives f r = true
  · rw [writeRow_gives hg]
    exact rising_rowPut _ _ h
  · rw [writeRow_none hg]
    exact h

/-- A row of a register after the write of row r of register d. -/
theorem row_writeRow {k : Core} (h : Spec.Rising k.vregs) {r p : Nat} (hr : r < rowMax e.wide) (hp : p < rowMax e.wide) (a : Reg) :
    (k.writeRow e d ty f r).row e.wide a p =
      if a = d ∧ p = r ∧ e.gives f r = true then (k.row e.wide d r).write ty (rowUpdates e f r) (plainTag ty) (plainExp ty) else k.row e.wide a p := by
  by_cases hg : e.gives f r = true
  · rw [writeRow_gives hg]
    refine (row_setRow k e.wide a d p r _ h hp hr).trans (if_congr ?_ rfl rfl)
    exact ⟨fun h => ⟨h.1, h.2, hg⟩, fun h => ⟨h.1, h.2.1⟩⟩
  · rw [writeRow_none hg, if_neg fun h => hg h.2.2]
    rfl

/-! ## The rows of an entry -/

section Fold

variable (rs : List Nat) (k : Core)

/-- The core after some rows have been written. -/
abbrev Core.wroteRows (k : Core) (e : VEntry) (d : Reg) (ty : Ty) (f : ElemFn) (rs : List Nat) : Core :=
  rs.foldl (fun k r => k.writeRow e d ty f r) k

theorem rising_wroteRows (h : Spec.Rising k.vregs) : Spec.Rising (k.wroteRows e d ty f rs).vregs := by
  induction rs generalizing k with
  | nil => exact h
  | cons r rs ih => exact ih _ (rising_writeRow h r)

theorem row_wroteRows (h : Spec.Rising k.vregs) (hn : rs.Nodup) (hrs : ∀ r ∈ rs, r < rowMax e.wide) {p : Nat} (hp : p < rowMax e.wide) (a : Reg) :
    (k.wroteRows e d ty f rs).row e.wide a p =
      if a = d ∧ p ∈ rs ∧ e.gives f p = true then (k.row e.wide d p).write ty (rowUpdates e f p) (plainTag ty) (plainExp ty) else k.row e.wide a p := by
  induction rs generalizing k with
  | nil => simp
  | cons r rs ih =>
    obtain ⟨hr, hn⟩ := List.nodup_cons.1 hn
    have hrow := fun b => row_writeRow (d := d) (ty := ty) (f := f) h (hrs r List.mem_cons_self) hp b
    refine (ih _ (rising_writeRow h r) hn fun x hx => hrs x (List.mem_cons_of_mem r hx)).trans ?_
    rw [hrow, hrow]
    by_cases hpr : p = r
    · subst hpr
      rw [if_neg fun h => hr h.2.1]
      simp
    · simp [hpr]

theorem flags_wroteRows (i : Nat) :
    (k.wroteRows e d ty f rs).flags.getLsbD i = true ↔ k.flags.getLsbD i = true ∨ ∃ r ∈ rs, (rowFlags e f r).getLsbD i = true := by
  have hf (k : Core) (r : Nat) : (k.writeRow e d ty f r).flags = k.flags ||| rowFlags e f r := by
    by_cases hg : e.gives f r = true
    · rw [writeRow_gives hg]
    · rw [writeRow_none hg]
  induction rs generalizing k with
  | nil => simp
  | cons r rs ih =>
    refine (ih _).trans ?_
    rw [hf, BitVec.getLsbD_or, Bool.or_eq_true]
    simp only [List.mem_cons, exists_eq_or_imp, or_assoc]

theorem dirty_wroteRows (i : Nat) (hi : i < 32) :
    (k.wroteRows e d ty f rs).dirty.getLsbD i = true ↔ k.dirty.getLsbD i = true ∨ (i = d.toNat ∧ ∃ r ∈ rs, e.gives f r = true) := by
  have hf (k : Core) (r : Nat) : (k.writeRow e d ty f r).dirty.getLsbD i = true ↔ k.dirty.getLsbD i = true ∨ (i = d.toNat ∧ e.gives f r = true) := by
    by_cases hg : e.gives f r = true
    · rw [writeRow_gives hg]
      change (k.dirty ||| (1#32 <<< d.toNat)).getLsbD i = true ↔ _
      rw [BitVec.getLsbD_or, BitVec.getLsbD_shiftLeft, Bool.or_eq_true]
      refine or_congr Iff.rfl ?_
      simp only [hi, hg, decide_true, Bool.true_and, and_true, BitVec.getLsbD_one, Bool.and_eq_true, Bool.not_eq_true', decide_eq_false_iff_not,
        decide_eq_true_iff]
      omega
    · rw [writeRow_none hg]
      simp [hg]
  induction rs generalizing k with
  | nil => simp
  | cons r rs ih =>
    refine (ih _).trans ?_
    rw [hf]
    simp only [List.mem_cons, exists_eq_or_imp]
    tauto

theorem vrows_writeRow (r : Nat) : (k.writeRow e d ty f r).vrows[d.toNat] =
    if e.gives f r = true then BitVec.ofNat 8 (max k.vrows[d.toNat].toNat (r + 1)) else k.vrows[d.toNat] := by
  by_cases hg : e.gives f r = true
  · rw [if_pos hg, writeRow_gives hg]
    exact Vector.getElem_set_self d.isLt
  · rw [if_neg hg, writeRow_none hg]

theorem vrows_none (h : ∀ p ∈ rs, ¬ e.gives f p = true) : (k.wroteRows e d ty f rs).vrows[d.toNat] = k.vrows[d.toNat] := by
  induction rs generalizing k with
  | nil => rfl
  | cons r rs ih =>
    refine (ih _ fun p hp => h p (List.mem_cons_of_mem r hp)).trans ?_
    rw [vrows_writeRow, if_neg (h r List.mem_cons_self)]

/-- VROWS reaches the highest row that was written. -/
theorem vrows_wroteRows (hrs : rs.Pairwise (· < ·)) (hlt : ∀ r ∈ rs, r < 128) {r : Nat} (hr : r ∈ rs) (hg : e.gives f r = true)
    (hlast : ∀ p ∈ rs, r < p → ¬ e.gives f p = true) :
    (k.wroteRows e d ty f rs).vrows[d.toNat] = BitVec.ofNat 8 (max k.vrows[d.toNat].toNat (r + 1)) := by
  induction rs generalizing k with
  | nil => cases hr
  | cons q rs ih =>
    obtain ⟨hq, hrs⟩ := List.pairwise_cons.1 hrs
    have hlast' := fun p hp => hlast p (List.mem_cons_of_mem q hp)
    rcases List.mem_cons.1 hr with rfl | hr
    · refine (vrows_none rs _ fun p hp => hlast' p hp (hq p hp)).trans ?_
      rw [vrows_writeRow, if_pos hg]
    · refine (ih _ hrs (fun p hp => hlt p (List.mem_cons_of_mem q hp)) hr hlast').trans ?_
      rw [vrows_writeRow]
      split
      · have hqr := hq r hr
        have hql := hlt q List.mem_cons_self
        have hv := k.vrows[d.toNat].isLt
        rw [BitVec.toNat_ofNat, Nat.mod_eq_of_lt (by omega)]
        congr 1
        omega
      · rfl

theorem rest_wroteRows : { k.wroteRows e d ty f rs with vregs := k.vregs, flags := k.flags, dirty := k.dirty, vrows := k.vrows } = k := by
  have hf (k l : Core) (r : Nat) : { k.writeRow e d ty f r with vregs := l.vregs, flags := l.flags, dirty := l.dirty, vrows := l.vrows } =
      { k with vregs := l.vregs, flags := l.flags, dirty := l.dirty, vrows := l.vrows } := by
    by_cases hg : e.gives f r = true
    · rw [writeRow_gives hg]
      rfl
    · rw [writeRow_none hg]
  have hall (l : Core) : { k.wroteRows e d ty f rs with vregs := l.vregs, flags := l.flags, dirty := l.dirty, vrows := l.vrows } =
      { k with vregs := l.vregs, flags := l.flags, dirty := l.dirty, vrows := l.vrows } := by
    induction rs generalizing k with
    | nil => rfl
    | cons r rs ih => exact (ih _).trans (hf k l r)
  exact hall k

end Fold

theorem getLsbD_rowFlags (r i : Nat) :
    (rowFlags e f r).getLsbD i = true ↔ ∃ c q, c < e.nc ∧ f r c = some q ∧ q.2.getLsbD i = true := by
  have hfold (cs : List Nat) (a : FlagSet) :
      (cs.foldl (fun acc c => match f r c with | some q => acc ||| q.2 | none => acc) a).getLsbD i = true ↔
        a.getLsbD i = true ∨ ∃ c ∈ cs, ∃ q, f r c = some q ∧ q.2.getLsbD i = true := by
    induction cs generalizing a with
    | nil => simp
    | cons c cs ih =>
      rw [List.foldl_cons, ih]
      simp only [List.mem_cons, exists_eq_or_imp, ← or_assoc]
      refine or_congr ?_ Iff.rfl
      cases hf : f r c with
      | none => simp
      | some q => simp
  unfold rowFlags
  refine (hfold (List.range e.nc) 0).trans ((or_iff_right (by simp)).trans ?_)
  simp only [List.mem_range]
  exact ⟨fun ⟨c, hc, q, hq⟩ => ⟨c, q, hc, hq⟩, fun ⟨c, q, hc, hq⟩ => ⟨c, hc, q, hq⟩⟩

theorem gives_iff_block {r : Nat} : e.gives f r = true ↔ ∃ b, ∃ c, c < e.nc ∧ (f r c).isSome = true ∧ elemBlock ty c = b := by
  rw [gives_iff]
  exact ⟨fun ⟨c, hc, hs⟩ => ⟨_, c, hc, hs, rfl⟩, fun ⟨_, c, hc, hs, _⟩ => ⟨c, hc, hs⟩⟩

end Rows

theorem plainTag_lt (ty : Ty) : plainTag ty < 2 ^ 16 := by cases ty <;> decide

/-- Settles O29, row by row: what the write of one row leaves, and the fold over the rows of the entry. -/
theorem elementWrites : Obligations.ElementWrites := by
  intro k e d ty f hrise hprog hnr hnc hwide t has
  have ht : t = k.wroteRows e d ty f (List.range e.nr) := writeElems_eq hprog k
  clear_value t
  subst ht
  have hrow {p : Nat} (hp : p < rowMax e.wide) (a : Reg) := row_wroteRows (d := d) (ty := ty) (f := f) (List.range e.nr) k hrise List.nodup_range
    (fun r hr => (List.mem_range.1 hr).trans_le hnr) hp a
  have hgives (r : Nat) : e.gives f r = true ↔ ∃ b, has r b := gives_iff_block
  have hrowd {r : Nat} (hr : r < e.nr) : (k.wroteRows e d ty f (List.range e.nr)).row e.wide d r = if e.gives f r = true then
      (k.row e.wide d r).write ty (rowUpdates e f r) (plainTag ty) (plainExp ty) else k.row e.wide d r :=
    (hrow (hr.trans_le hnr) d).trans (if_congr (by simp [hr]) rfl rfl)
  have helem {r c : Nat} (hr : r < e.nr) (hc : c < ty.capacity) : ((k.wroteRows e d ty f (List.range e.nr)).row e.wide d r).elem ty c =
      match (if c < e.nc then f r c else none) with
      | some q => q.1 % 2 ^ ty.width
      | none => (k.row e.wide d r).elem ty c := by
    rw [hrowd hr]
    split
    next hg => exact elem_rowUpdates hc hnc _ _ _
    next hg =>
      split
      next q hq =>
        split at hq
        next hlt => exact absurd (gives_iff.2 ⟨c, hlt, by rw [hq]; rfl⟩) hg
        next => cases hq
      next => rfl
  refine ⟨fun r c hr hc => ?_, fun r c hr hc hcap => ?_, fun r b hr hb => ⟨fun hh => ?_, fun hh => ?_⟩, fun r b i h6 hr hb hh hi hi' => ?_,
    fun r hr => ⟨fun hh => ?_, fun hh => ?_⟩, fun a r _ hr hor => ?_, fun i hi => ?_, fun i hi => ?_, fun r hr hh hlast => ?_,
    rest_wroteRows _ k, rising_wroteRows _ k hrise⟩
  · have h := helem hr (hc.trans_le hnc)
    rw [if_pos hc] at h
    exact h
  · rw [helem hr hcap, if_neg (by omega)]
  · rw [hrowd hr, if_pos ((hgives r).2 ⟨b, hh⟩), tag_write _ _ _ _ _ hb, if_pos ((rowUpdates_block b).2 hh), Nat.mod_eq_of_lt (plainTag_lt ty)]
  · rw [hrowd hr]
    split
    · rw [tag_write _ _ _ _ _ hb, if_neg fun h => hh ((rowUpdates_block b).1 h)]
    · rfl
  · have hany : ((rowUpdates e f r).any fun u => elemBlock ty u.1 == b) = true := by
      obtain ⟨u, hu, hub⟩ := (rowUpdates_block (ty := ty) (e := e) (f := f) (r := r) b).2 hh
      exact List.any_eq_true.2 ⟨u, hu, beq_iff_eq.2 hub⟩
    rw [hrowd hr, if_pos ((hgives r).2 ⟨b, hh⟩), bits_write,
      top_foldElems h6 hb hi hi' _ (fun u hu => (mem_rowUpdates.1 hu).1.trans_le hnc), hany]
    simp
  · rw [hrowd hr, if_pos ((hgives r).2 hh)]
    rfl
  · rw [hrowd hr, if_neg fun h => hh ((hgives r).1 h)]
  · rw [hrow hr a, if_neg]
    rintro ⟨rfl, hm, -⟩
    have := List.mem_range.1 hm
    rcases hor with h | h
    · exact h rfl
    · omega
  · rw [flags_wroteRows]
    refine or_congr Iff.rfl ?_
    simp only [getLsbD_rowFlags, List.mem_range]
    exact ⟨fun ⟨r, hr, c, q, hc, hq⟩ => ⟨r, c, q, hr, hc, hq⟩, fun ⟨r, c, q, hr, hc, hq⟩ => ⟨r, hr, c, q, hc, hq⟩⟩
  · rw [dirty_wroteRows _ _ _ hi]
    refine or_congr Iff.rfl (and_congr Iff.rfl ?_)
    simp only [List.mem_range]
    exact ⟨fun ⟨r, hr, hg⟩ => (((hgives r).1 hg).imp fun b hb => ⟨hr, hb⟩).elim fun b hb => ⟨r, b, hb⟩,
      fun ⟨r, b, hr, hb⟩ => ⟨r, hr, (hgives r).2 ⟨b, hb⟩⟩⟩
  · refine vrows_wroteRows _ _ List.pairwise_lt_range (fun p hp => ?_) (List.mem_range.2 hr) ((hgives r).2 hh) fun p hp hrp hg =>
      hlast p hrp (List.mem_range.1 hp) ((hgives p).1 hg)
    have := (List.mem_range.1 hp).trans_le hnr
    unfold rowMax at this
    split at this <;> omega

end Sys2Proof.Machine
end

section
/-! PROOF. Lengths, moves and masks (R257 to R261). -/
namespace Sys2Proof.Machine

open Sys2Proof

/-! ## Entries whose effect is on their core -/

section Entries

variable {s : State} {op : VecOp} {rm : Rm} {a b c d : Option Reg}

/-- A vector-class instruction whose effect is on its core. -/
theorem vector_coreDone {eff : VEntry → Core → Core} (h : Accepting s)
    (hv : Ends (vexec (s.entry op rm a b c d)) (s.dispatched op rm a b c d) ((s.dispatched op rm a b c d).updMe (eff (s.entry op rm a b c d)))) :
    vector op rm a b c d s = .next (s.coreDone op rm a b c d eff) := vector_ends h hv

/-- An entry that begins stands at its first element. -/
theorem progressed_dispatched (h : Accepting s) : (s.dispatched op rm a b c d).progressed 0 0 0 = s.dispatched op rm a b c d := by
  refine updMe_id ?_
  rw [dispatched_queue h]
  exact congrArg (fun q => ({ (s.dispatched op rm a b c d).me with queue := q } : Core)) (dispatched_queue h).symm

/-- A vector-class instruction whose shape check fails. -/
theorem vector_misshapen (h : Accepting s)
    (hv : Traps (vexec (s.entry op rm none b none none)) (s.dispatched op rm none b none none) shapeTrap
      ((s.dispatched op rm none b none none).progressed 0 0 0)) : vector op rm none b none none s = .next (Spec.misshapen s op rm b) := by
  rw [progressed_dispatched h] at hv
  exact vector_faults h hv

end Entries

/-! ## Lengths (R257, R258) -/

theorem setlen_spec {s : State} {x : LenF} (h : Ready s [x.d, x.a, x.b]) :
    let nr := min (min (s.me.x x.a).toNat (if s.me.wide then 128 else 64)) (s.rowCeil s.cur)
    let nc := min (s.me.x x.b).toNat x.ty.capacity
    exec (.setlen x) s = .next ((s.updMe fun k => { k with nr := BitVec.ofNat 8 nr, nc := BitVec.ofNat 10 nc }).wrote x.d
      (BitVec.ofNat 64 (nc * 2 ^ 32 + nr))) := by
  intro nr nc
  refine (scalar_core (f := fun k => ({ k with nr := BitVec.ofNat 8 nr, nc := BitVec.ofNat 10 nc } : Core).setX x.d (BitVec.ofNat 64 (nc * 2 ^ 32 + nr)))
    h ?_ (by simp) (by simp)).trans (by rw [State.wrote, updMe_updMe])
  refine ends_bind (run_readX x.a s) (ends_bind (run_readX x.b s) (ends_bind (run_get s) (ends_bind (run_modMe _ s) ?_)))
  refine (run_modMe _ _).trans ?_
  rw [updMe_updMe]
  rfl

theorem setlenf_spec {s : State} {x : R1T4} (h : Ready s [x.d]) (hq : Spec.Quiet s) :
    let nr := min s.me.nr.toNat s.me.ffnr.toNat
    exec (.setlenf x) s = .next ((s.updMe fun k => { k with nr := BitVec.ofNat 8 nr }).wrote x.d
      (BitVec.ofNat 64 (s.me.nc.toNat * 2 ^ 32 + nr))) := by
  intro nr
  refine (scalar_core (f := fun k => ({ k with nr := BitVec.ofNat 8 nr } : Core).setX x.d (BitVec.ofNat 64 (s.me.nc.toNat * 2 ^ 32 + nr)))
    h ?_ (by simp) (by simp)).trans (by rw [State.wrote, updMe_updMe])
  refine ends_bind (run_waitEmpty hq.queue hq.channels) (ends_bind (run_getMe s) (ends_bind (run_modMe _ s) ?_))
  refine (run_modMe _ _).trans ?_
  rw [updMe_updMe]
  rfl

/-! ## VSHAPE (R259) -/

theorem advance_fields (k : Core) : ∃ ia line, k.advance.1 = { k with ia := ia, line := line } := by
  unfold Core.advance
  dsimp only
  split
  · exact ⟨_, _, rfl⟩
  · exact ⟨k.ia, k.line, rfl⟩

theorem complete_fields (k : Core) (e : VEntry) : ∃ v, k.complete e = { k with queue := k.queue.drop 1, vstart := v } := by
  unfold Core.complete
  split
  · exact ⟨k.vstart, rfl⟩
  · exact ⟨_, rfl⟩

theorem goesOn_mem (s : State) : s.goesOn.mem = s.mem := rfl

/-- The executing core after a vector-class instruction that left it as k. -/
theorem me_ran {s t : State} {op : VecOp} {rm : Rm} {a b c d : Option Reg} (hc : t.cur < t.cores.length) :
    ∃ ia line v, (Spec.ran s op rm a b c d t).me = { t.me with queue := t.me.queue.drop 1, vstart := v, ia := ia, line := line } := by
  have hm : (Spec.ran s op rm a b c d t).me = (t.me.complete (s.entry op rm a b c d)).advance.1 := by
    unfold Spec.ran State.goesOn
    rw [me_updMe _ _ (by simpa using hc), me_updMe _ _ hc]
  obtain ⟨v, hv⟩ := complete_fields t.me (s.entry op rm a b c d)
  obtain ⟨ia, line, ha⟩ := advance_fields (t.me.complete (s.entry op rm a b c d))
  refine ⟨ia, line, v, hm.trans (ha.trans ?_)⟩
  rw [hv]

theorem vshape_same {s : State} {x : ShpF} (hs : Accepting s) (h : s.me.wideFile = x.wide) :
    Ends (vexec (s.entry (.vshape x.wide) .frm none none none none)) (s.dispatched (.vshape x.wide) .frm none none none none)
      (s.dispatched (.vshape x.wide) .frm none none none none) := by
  refine ends_bind (run_drainCopies (dispatched_issued hs)) (ends_bind (run_getMe _) ?_)
  rw [me_dispatched hs.cur, if_pos (show (s.me.enqueue (.vshape x.wide) .frm none none none none).wideFile = x.wide from h)]
  rfl

/-- The state after a change of shape, whose registers hold nothing that is known. -/
def State.reshaped (s : State) (w : Bool) : State :=
  ({ s with freeCtr := s.freeCtr + 1 } : State).updMe fun k => { k.clean with wideFile := w, vregs := { fill := .free s.freeCtr, rows := [] } }

theorem vshape_changes {s : State} {x : ShpF} (hs : Accepting s) (h : s.me.wideFile ≠ x.wide) :
    Ends (vexec (s.entry (.vshape x.wide) .frm none none none none)) (s.dispatched (.vshape x.wide) .frm none none none none)
      ((s.dispatched (.vshape x.wide) .frm none none none none).reshaped x.wide) := by
  refine ends_bind (run_drainCopies (dispatched_issued hs)) (ends_bind (run_getMe _) ?_)
  rw [me_dispatched hs.cur, if_neg (show ¬ (s.me.enqueue (.vshape x.wide) .frm none none none none).wideFile = x.wide from h)]
  exact ends_bind (run_drawSeed _) (run_modMe _ _)

theorem vshape_spec {s : State} (hs : Accepting s) (x : ShpF) :
    ∃ t, exec (.vshape x) s = .next t ∧ t.me.wide = x.wide ∧ t.me.wideFile = x.wide ∧ t.me.queue = [] ∧
      t.me.nr = BitVec.ofNat 8 (min s.me.nr.toNat (if x.wide then 128 else 64)) ∧
      (s.me.wideFile = x.wide → t.me.vregs = s.me.vregs ∧ t.me.dirty = s.me.dirty ∧ t.me.vrows = s.me.vrows) ∧
      (s.me.wideFile ≠ x.wide → t.me.dirty = 0 ∧ (∀ i : Fin 32, t.me.vrows[i] = 0) ∧
        t.me.vregs = { fill := .free s.freeCtr, rows := [] }) ∧
      t.me.k1 = s.me.k1 ∧ t.me.k2 = s.me.k2 ∧ t.me.k3 = s.me.k3 ∧ t.me.task = s.me.task ∧ t.me.slices = s.me.slices ∧
      t.me.window = s.me.window ∧ SameMemory s t := by
  have hd := me_dispatched (op := .vshape x.wide) (rm := .frm) (a := none) (b := none) (c := none) (d := none) hs.cur
  have hv := valid_dispatched (op := .vshape x.wide) (rm := .frm) (a := none) (b := none) (c := none) (d := none) hs.cur
  have hq := dispatched_queue (op := .vshape x.wide) (rm := .frm) (a := none) (b := none) (c := none) (d := none) hs
  by_cases h : s.me.wideFile = x.wide
  · refine ⟨_, vector_ends hs (vshape_same hs h), ?_⟩
    obtain ⟨ia, line, v, hm⟩ := me_ran (s := s) (op := .vshape x.wide) (rm := .frm) (a := none) (b := none) (c := none) (d := none) hv
    rw [hm, hq, hd]
    exact ⟨rfl, h, rfl, rfl, fun _ => ⟨rfl, rfl, rfl⟩, fun hn => absurd h hn, rfl, rfl, rfl, rfl, rfl, rfl, fun _ => rfl⟩
  · refine ⟨_, vector_ends hs (vshape_changes hs h), ?_⟩
    obtain ⟨ia, line, v, hm⟩ := me_ran (s := s) (op := .vshape x.wide) (rm := .frm) (a := none) (b := none) (c := none) (d := none)
      (t := (s.dispatched (.vshape x.wide) .frm none none none none).reshaped x.wide) (by simpa [State.reshaped] using hv)
    have hr : ((s.dispatched (.vshape x.wide) .frm none none none none).reshaped x.wide).me =
        { (s.dispatched (.vshape x.wide) .frm none none none none).me.clean with
          wideFile := x.wide, vregs := { fill := .free s.freeCtr, rows := [] } } :=
      me_updMe ({ s.dispatched (.vshape x.wide) .frm none none none none with freeCtr := s.freeCtr + 1 } : State) _ hv
    rw [hm, hr, hd]
    refine ⟨rfl, rfl, ?_, rfl, fun hn => absurd hn h, fun _ => ⟨rfl, fun i => ?_, rfl⟩, rfl, rfl, rfl, rfl, rfl, rfl, fun _ => rfl⟩
    · change (s.me.enqueue (.vshape x.wide) .frm none none none none).queue.drop 1 = []
      rw [← hd, hq]
      rfl
    · exact Vector.getElem_replicate i.isLt

/-! ## Moves of one element (R260) -/

/-- A position operand names an element of the shape, of a register that the shape has (R256, R263). -/
theorem position_ok {s : State} {ty : Ty} {b : Word} {v : Reg} (h : b.toNat % 2 ^ 32 < rowMax s.me.wide ∧ b.toNat / 2 ^ 32 < ty.capacity ∧
      (s.me.wide = true → v.toNat ≤ 15)) (e : VEntry) (he : e.wide = s.me.wide) :
    (decide (rowMax e.wide ≤ posRow b) || decide (ty.capacity ≤ posCol b) || e.regsBad [v]) = false := by
  obtain ⟨hr, hc, hv⟩ := h
  unfold VEntry.regsBad posRow posCol
  rw [he, decide_eq_false (not_le.2 hr), decide_eq_false (not_le.2 hc)]
  cases hw : s.me.wide with
  | false => rfl
  | true => simpa using hv hw

theorem position_bad {s : State} {ty : Ty} {b : Word} {v : Reg} (h : ¬ (b.toNat % 2 ^ 32 < rowMax s.me.wide ∧ b.toNat / 2 ^ 32 < ty.capacity ∧
      (s.me.wide = true → v.toNat ≤ 15))) (e : VEntry) (he : e.wide = s.me.wide) :
    (decide (rowMax e.wide ≤ posRow b) || decide (ty.capacity ≤ posCol b) || e.regsBad [v]) = true := by
  rw [← Bool.not_eq_false]
  refine fun hf => h ?_
  obtain ⟨hrc, hv⟩ := Bool.or_eq_false_iff.1 hf
  obtain ⟨hr, hc⟩ := Bool.or_eq_false_iff.1 hrc
  refine ⟨not_le.1 (he ▸ of_decide_eq_false hr), not_le.1 (of_decide_eq_false hc), fun hw => ?_⟩
  simpa [VEntry.regsBad, he, hw] using hv

theorem vmovx_moves {s : State} {x : LenF} (hs : Accepting s) (h : (s.me.x x.b).toNat % 2 ^ 32 < rowMax s.me.wide ∧
      (s.me.x x.b).toNat / 2 ^ 32 < x.ty.capacity ∧ (s.me.wide = true → x.a.toNat ≤ 15)) :
    exec (.vmovx x) s = .next (s.coreDone (.vmovx x) .frm none (some x.b) none none fun e k =>
      k.setXOf e.sup x.d (if x.ty ∈ [.i8, .i16, .i32, .i64, .i4, .b24] then
        (BitVec.ofNat x.ty.width (Spec.el s x.a x.ty ((s.me.x x.b).toNat % 2 ^ 32) ((s.me.x x.b).toNat / 2 ^ 32))).signExtend 64
      else BitVec.ofNat 64 (Spec.el s x.a x.ty ((s.me.x x.b).toNat % 2 ^ 32) ((s.me.x x.b).toNat / 2 ^ 32)))) := by
  refine vector_coreDone hs (ends_bind (t := s.dispatched (.vmovx x) .frm none (some x.b) none none) ((run_illegalWhen _ _).trans
    (if_neg (Bool.eq_false_iff.1 (position_ok h (s.entry (.vmovx x) .frm none (some x.b) none none) rfl)))) (ends_bind (run_getMe _) ?_))
  refine (run_modMe _ _).trans (congrArg (fun v => (Except.ok (), (s.dispatched (.vmovx x) .frm none (some x.b) none none).updMe fun k =>
    k.setXOf (s.entry (.vmovx x) .frm none (some x.b) none none).sup x.d v)) ?_)
  rw [me_dispatched hs.cur]
  change (if (x.ty.isSigned || x.ty == .b24) = true then
      sextWord x.ty.width (Spec.el s x.a x.ty ((s.me.x x.b).toNat % 2 ^ 32) ((s.me.x x.b).toNat / 2 ^ 32))
    else word (Spec.el s x.a x.ty ((s.me.x x.b).toNat % 2 ^ 32) ((s.me.x x.b).toNat / 2 ^ 32))) = _
  by_cases hsg : (x.ty.isSigned || x.ty == .b24) = true
  · have hm : x.ty ∈ [Ty.i8, .i16, .i32, .i64, .i4, .b24] ∧ 0 < x.ty.width := by
      revert hsg
      cases x.ty <;> decide
    rw [if_pos hsg, if_pos hm.1, sextWord_eq hm.2]
  · have hm : ¬ x.ty ∈ [Ty.i8, .i16, .i32, .i64, .i4, .b24] := by
      revert hsg
      cases x.ty <;> decide
    rw [if_neg hsg, if_neg hm]
    rfl

theorem vmovx_misplaced {s : State} {x : LenF} (hs : Accepting s) (h : ¬ ((s.me.x x.b).toNat % 2 ^ 32 < rowMax s.me.wide ∧
      (s.me.x x.b).toNat / 2 ^ 32 < x.ty.capacity ∧ (s.me.wide = true → x.a.toNat ≤ 15))) :
    exec (.vmovx x) s = .next (Spec.misshapen s (.vmovx x) .frm (some x.b)) :=
  vector_misshapen hs (traps_of_bind ((run_illegalWhen _ _).trans
    (if_pos (position_bad h (s.entry (.vmovx x) .frm none (some x.b) none none) rfl))))

theorem vmovv_moves {s : State} {x : LenF} (hs : Accepting s) (h : (s.me.x x.b).toNat % 2 ^ 32 < rowMax s.me.wide ∧
      (s.me.x x.b).toNat / 2 ^ 32 < x.ty.capacity ∧ (s.me.wide = true → x.d.toNat ≤ 15)) :
    exec (.vmovv x) s = .next (s.coreDone (.vmovv x) .frm (some x.a) (some x.b) none none fun _ k =>
      k.setRow s.me.wide x.d ((s.me.x x.b).toNat % 2 ^ 32) ((k.row s.me.wide x.d ((s.me.x x.b).toNat % 2 ^ 32)).write x.ty
        [((s.me.x x.b).toNat / 2 ^ 32, (s.me.x x.a).toNat)]
        (if x.ty = .q4n then 0x10FF else (tyCode x.ty).toNat * 256 + 0x7F)
        (if x.ty = .q4n then 0x3F800000 else if x.ty = .b24 then 0x7F else 0))) := by
  have htag : (if x.ty = .q4n then 0x10FF else (tyCode x.ty).toNat * 256 + 0x7F) = plainTag x.ty := by cases x.ty <;> rfl
  rw [htag]
  exact vector_coreDone hs (ends_bind (t := s.dispatched (.vmovv x) .frm (some x.a) (some x.b) none none) ((run_illegalWhen _ _).trans
    (if_neg (Bool.eq_false_iff.1 (position_ok h (s.entry (.vmovv x) .frm (some x.a) (some x.b) none none) rfl)))) (run_modMe _ _))

/-! ## Masks (R261) -/

theorem mask_spec {s : State} (hs : Accepting s) (o : MaskOp) (d a b : MaskReg) (f : BitVec 65536 → BitVec 65536 → BitVec 65536)
    (hf : ∀ x y, f x y = match o with | .and => x &&& y | .or => x ||| y | .xor => x ^^^ y | .andn => x &&& ~~~y | .not => ~~~x) :
    vector (.mask o d a b) .frm none none none none s = .next (s.coreDone (.mask o d a b) .frm none none none none fun _ k =>
      k.setMask d (f (s.me.mask a) (s.me.mask b))) := by
  refine vector_coreDone hs ((run_modMe _ _).trans (congrArg (Prod.mk (Except.ok ())) (updMe_congr ?_)))
  rw [me_dispatched hs.cur, hf]
  rfl

/-- The set bits of a mask in element order are those of the shape's positions, counted row by row. -/
theorem maskBits_eq (k : Core) (e : VEntry) (m : MaskReg) : k.maskBits e m =
    ((List.range (e.nr * e.nc)).filter fun i => k.maskBit m (i / e.nc) (i % e.nc)).map fun i => (i / e.nc, i % e.nc) := by
  unfold Core.maskBits
  generalize e.nr = n
  rcases Nat.eq_zero_or_pos e.nc with hc | hc
  · rw [hc]
    simp
  · induction n with
    | zero => simp
    | succ n ih =>
      rw [List.range_succ, List.flatMap_append, ih, Nat.add_mul, Nat.one_mul, List.range_add, List.filter_append, List.map_append]
      refine congrArg (_ ++ ·) ?_
      have hdiv (c : Nat) (h : c ∈ List.range e.nc) : (n * e.nc + c) / e.nc = n ∧ (n * e.nc + c) % e.nc = c := by
        have h := List.mem_range.1 h
        rw [Nat.mul_comm, Nat.mul_add_div hc, Nat.mul_add_mod, Nat.div_eq_of_lt h, Nat.mod_eq_of_lt h]
        exact ⟨rfl, rfl⟩
      rw [List.flatMap_singleton, List.filter_map, List.map_map]
      have hfilter : (List.range e.nc).filter ((fun i => k.maskBit m (i / e.nc) (i % e.nc)) ∘ fun x => n * e.nc + x) =
          (List.range e.nc).filter fun c => k.maskBit m n c :=
        List.filter_congr fun c h => by simp only [Function.comp_apply, (hdiv c h).1, (hdiv c h).2]
      rw [hfilter]
      exact (List.map_congr_left fun c h => by
        simp only [Function.comp_apply, (hdiv c (List.mem_filter.1 h).1).1, (hdiv c (List.mem_filter.1 h).1).2]).symm

/-! ## KSET (R261) -/

/-- Set bits of a sum of distinct powers of two. -/
theorem foldl_bits (n : Nat) (p : Nat → Bool) :
    (List.range n).foldl (fun a c => if p c then a + 2 ^ c else a) 0 < 2 ^ n ∧
      ∀ i, ((List.range n).foldl (fun a c => if p c then a + 2 ^ c else a) 0).testBit i = (decide (i < n) && p i) := by
  induction n with
  | zero => simp
  | succ n ih =>
    obtain ⟨hlt, hbit⟩ := ih
    rw [List.range_succ, List.foldl_append]
    simp only [List.foldl_cons, List.foldl_nil]
    generalize (List.range n).foldl (fun a c => if p c then a + 2 ^ c else a) 0 = a at *
    by_cases hp : p n = true
    · rw [if_pos hp]
      refine ⟨by rw [pow_succ]; omega, fun i => ?_⟩
      rw [show a + 2 ^ n = 2 ^ n * 1 + a by ring, Nat.testBit_two_pow_mul_add 1 hlt]
      split
      next h => rw [hbit]; simp [h, Nat.lt_succ_of_lt h]
      next h =>
        rw [Bool.eq_iff_iff, Nat.testBit_one_eq_true_iff_self_eq_zero, Bool.and_eq_true, decide_eq_true_iff]
        refine ⟨fun h0 => ?_, fun h1 => by omega⟩
        rw [show i = n by omega]
        exact ⟨Nat.lt_succ_self n, hp⟩
    · rw [if_neg hp]
      refine ⟨by rw [pow_succ]; omega, fun i => ?_⟩
      rw [hbit]
      by_cases hi : i = n
      · subst hi; simp [hp]
      · have : (i < n + 1) ↔ i < n := by omega
        simp [this]

/-- The bits of a mask that is given by its rows and columns. -/
theorem getLsbD_maskOf {nr nc : Nat} (f : Nat → Nat → Bool) (hnc : nc ≤ 512) {r c : Nat} (hr : r < 128) (hc : c < 512) :
    (maskOf nr nc f).getLsbD (512 * r + c) = (decide (r < nr) && (decide (c < nc) && f r c)) := by
  have hrow (r : Nat) := foldl_bits nc (f r)
  have hrlt (r : Nat) : (List.range nc).foldl (fun a c => if f r c then a + 2 ^ c else a) 0 < 2 ^ 512 :=
    (hrow r).1.trans_le (Nat.pow_le_pow_right (by decide) hnc)
  have hall : ∀ n, (List.range n).foldl (fun acc r => acc + ((List.range nc).foldl (fun a c => if f r c then a + 2 ^ c else a) 0) * 2 ^ (512 * r)) 0 <
        2 ^ (512 * n) ∧
      ∀ r c, c < 512 → ((List.range n).foldl (fun acc r => acc + ((List.range nc).foldl (fun a c => if f r c then a + 2 ^ c else a) 0) * 2 ^ (512 * r))
        0).testBit (512 * r + c) = (decide (r < n) && (decide (c < nc) && f r c)) := by
    intro n
    induction n with
    | zero => simp
    | succ n ih =>
      obtain ⟨hlt, hbit⟩ := ih
      rw [List.range_succ, List.foldl_append]
      simp only [List.foldl_cons, List.foldl_nil]
      generalize (List.range n).foldl (fun acc r => acc + ((List.range nc).foldl (fun a c => if f r c then a + 2 ^ c else a) 0) * 2 ^ (512 * r)) 0
        = a at *
      have hb := hrlt n
      have hbits := (hrow n).2
      generalize (List.range nc).foldl (fun a c => if f n c then a + 2 ^ c else a) 0 = b at *
      rw [show a + b * 2 ^ (512 * n) = 2 ^ (512 * n) * b + a by ring]
      refine ⟨?_, fun r c hc => ?_⟩
      · rw [show 512 * (n + 1) = 512 * n + 512 by ring, pow_add]
        calc 2 ^ (512 * n) * b + a < 2 ^ (512 * n) * b + 2 ^ (512 * n) := Nat.add_lt_add_left hlt _
          _ = 2 ^ (512 * n) * (b + 1) := by ring
          _ ≤ 2 ^ (512 * n) * 2 ^ 512 := Nat.mul_le_mul_left _ hb
      · rw [Nat.testBit_two_pow_mul_add b hlt]
        by_cases hrn : r < n
        · rw [if_pos (by omega), hbit r c hc]
          simp [hrn, Nat.lt_succ_of_lt hrn]
        · rw [if_neg (by omega), hbits]
          by_cases hr : r = n
          · subst hr
            rw [Nat.add_sub_cancel_left]
            simp
          · have h1 : ¬ 512 * r + c - 512 * n < nc := by omega
            have h2 : ¬ r < n + 1 := by omega
            simp [h1, h2]
  unfold maskOf
  rw [BitVec.getLsbD_ofNat, (hall nr).2 r c hc, decide_eq_true (by omega), Bool.true_and]

theorem mask_laws (k : Core) (m n : MaskReg) (v : BitVec 65536) : k.mask 0 = BitVec.allOnes 65536 ∧ k.setMask 0 v = k ∧
    (m ≠ 0 → (k.setMask m v).mask m = v) ∧ (m ≠ n → (k.setMask m v).mask n = k.mask n) := by
  refine ⟨rfl, rfl, fun hm => ?_, fun hmn => ?_⟩
  · revert hm
    fin_cases m <;> intro h <;> trivial
  · revert hmn
    fin_cases m <;> fin_cases n <;> intro h <;> trivial

/-- Settles O30: lengths, changes of shape, moves of one element, and masks. -/
theorem lengthsMovesAndMasks : Obligations.LengthsMovesAndMasks := by
  intro s
  refine ⟨fun x h => setlen_spec h, fun x h hq => setlenf_spec h hq, fun hs x => vshape_spec hs x, fun hs x => ?_, fun hs x => ?_,
    fun hs x => mask_spec hs .not x.d x.a 0 (fun a _ => ~~~a) fun _ _ => rfl, fun hs x => ?_, fun hs x => ?_, mask_laws⟩
  · exact ⟨fun h => vmovx_moves hs h, fun h => vmovv_moves hs h, fun h => vmovx_misplaced hs h⟩
  · exact ⟨mask_spec hs .and x.d x.a x.b _ fun _ _ => rfl, mask_spec hs .or x.d x.a x.b _ fun _ _ => rfl,
      mask_spec hs .xor x.d x.a x.b _ fun _ _ => rfl, mask_spec hs .andn x.d x.a x.b _ fun _ _ => rfl⟩
  · intro set
    have hset (op : VecOp) : (s.me.enqueue op .frm none none none none).maskBits (s.entry op .frm none none none none) x.a =
        set.map fun i => (i / s.me.nc.toNat, i % s.me.nc.toNat) := by
      refine (maskBits_eq _ _ _).trans ?_
      unfold Core.enqueue
      cases op <;> rfl
    constructor
    · refine vector_coreDone hs (ends_bind (run_getMe _) ?_)
      rw [me_dispatched hs.cur, hset, List.length_map]
      exact run_modMe _ _
    · refine vector_coreDone hs (ends_bind (run_getMe _) ?_)
      rw [me_dispatched hs.cur, hset, List.head?_map]
      refine (run_modMe _ _).trans ?_
      cases set.head? <;> rfl
  · refine ⟨maskOf s.me.nr.toNat s.me.nc.toNat fun r c => decide (r * s.me.nc.toNat + c < (s.me.x x.a).toNat), vector_coreDone hs (run_modMe _ _),
      fun hnc _ r c hr hc => ?_⟩
    rw [getLsbD_maskOf _ hnc hr hc]
    simp only [Bool.and_eq_true, decide_eq_true_iff]

end Sys2Proof.Machine
end

section
/-! PROOF. Element-wise vector entries: one law for those that write elements and one for compares; the integer and the floating-point
families (R262 to R269). -/
namespace Sys2Proof.Machine

open Sys2Proof

/-! ## Empty shapes (R263) -/

theorem or_zero_eq {n : Nat} (v : BitVec n) : v ||| 0 = v := BitVec.or_zero

theorem and_not_zero_eq {n : Nat} (v : BitVec n) : v &&& ~~~0 = v := by
  rw [show ~~~(0 : BitVec n) = BitVec.allOnes n from BitVec.not_zero, BitVec.and_allOnes]

theorem rowFlags_of_nc {e : VEntry} (h : e.nc = 0) (f : ElemFn) (r : Nat) : rowFlags e f r = 0 := by
  unfold rowFlags
  rw [h]
  rfl

theorem liveRows_of_nr {e : VEntry} (h : e.nr = 0) : liveRows e = [] := by
  unfold liveRows
  rw [h]
  rfl

theorem writeElems_empty {e : VEntry} (h : e.nr = 0 ∨ e.nc = 0) (k : Core) (d : Reg) (ty : Ty) (f : ElemFn) : k.writeElems e d ty f = k := by
  rcases h with h | h
  · unfold Core.writeElems
    rw [liveRows_of_nr h]
    rfl
  · have hrow (k : Core) (r : Nat) : k.writeRow e d ty f r = k := by
      have hg : ¬ e.gives f r = true := by
        rw [gives_iff, h]
        rintro ⟨c, hc, -⟩
        exact absurd hc (Nat.not_lt_zero c)
      rw [writeRow_none hg, rowFlags_of_nc h]
      exact congrArg (fun fl => ({ k with flags := fl } : Core)) (or_zero_eq k.flags)
    change (liveRows e).foldl (fun k r => k.writeRow e d ty f r) k = k
    generalize liveRows e = rs
    induction rs with
    | nil => rfl
    | cons r rs ih => rw [List.foldl_cons, hrow, ih]

theorem maskOf_empty {nr nc : Nat} (h : nr = 0 ∨ nc = 0) (f : Nat → Nat → Bool) : maskOf nr nc f = 0 := by
  rcases h with rfl | rfl
  · rfl
  · have hfold (rs : List Nat) : rs.foldl (fun acc r => acc + ((List.range 0).foldl (fun a c => if f r c then a + 2 ^ c else a) 0) * 2 ^ (512 * r)) 0 = 0 := by
      induction rs with
      | nil => rfl
      | cons r rs ih => rw [List.foldl_cons, List.range_zero, List.foldl_nil, Nat.zero_mul]; exact ih
    unfold maskOf
    rw [hfold]
    rfl

theorem setMask_mask (k : Core) (m : MaskReg) : k.setMask m (k.mask m) = k := by
  unfold Core.setMask Core.mask
  fin_cases m <;> rfl

theorem writeMaskBits_empty {e : VEntry} (h : e.nr = 0 ∨ e.nc = 0) (k : Core) (d : MaskReg) (f : ElemFn) : k.writeMaskBits e d f = k := by
  have hfl : (liveRows e).foldl (fun acc r => acc ||| rowFlags e f r) (0 : FlagSet) = 0 := by
    rcases h with h | h
    · rw [liveRows_of_nr h]
      rfl
    · generalize liveRows e = rs
      induction rs with
      | nil => rfl
      | cons r rs ih => rw [List.foldl_cons, rowFlags_of_nc h, or_zero_eq, ih]
  unfold Core.writeMaskBits
  dsimp only
  rw [maskOf_empty h, maskOf_empty h, hfl, or_zero_eq, or_zero_eq, and_not_zero_eq]
  exact setMask_mask k d

/-! ## The shape check (R263) -/

section Shape

variable {s : State} {op : VecOp} {rm : Rm} {a b c d : Option Reg} {cap : Nat} {rs : List Reg}

/-- What an entry does whose shape is empty or passes its check. -/
theorem guarded_ends {g : Core → Core} {e : VEntry} {D : State} {bad : Bool} (hbad : e.empty = false → bad = false)
    (hg : e.nr = 0 ∨ e.nc = 0 → g D.me = D.me) : Ends (do
      if e.empty then return ()
      else
        illegalWhen bad
        modMe g) D (D.updMe g) := by
  by_cases he : e.nr = 0 ∨ e.nc = 0
  · rw [if_pos (by simpa [VEntry.empty] using he), updMe_id (hg he)]
    rfl
  · have hne : e.empty = false := by simpa [VEntry.empty] using he
    rw [hne, if_neg Bool.false_ne_true]
    exact ends_bind ((run_illegalWhen _ _).trans (if_neg (Bool.eq_false_iff.1 (hbad hne)))) (run_modMe _ _)

/-- The check of the columns and the registers passes where the shape fits. -/
theorem fits_ok {e : VEntry} (hnr : e.nr = s.me.nr.toNat) (hnc : e.nc = s.me.nc.toNat) (hw : e.wide = s.me.wide)
    (hf : Spec.Fits s cap rs) (he : e.empty = false) : (decide (cap < e.nc) || e.regsBad rs) = false := by
  have he : ¬ (e.nr = 0 ∨ e.nc = 0) := by simpa [VEntry.empty] using he
  rcases hf with h | h | ⟨hcap, hregs⟩
  · exact absurd (.inl (hnr.trans (by rw [h]; rfl))) he
  · exact absurd (.inr (hnc.trans (by rw [h]; rfl))) he
  · unfold VEntry.regsBad
    rw [decide_eq_false (by omega), hw]
    cases hwide : s.me.wide with
    | false => rfl
    | true => simpa using hregs hwide

theorem shaped_traps {g : Core → Core} {e : VEntry} {D : State} (hnr : e.nr = s.me.nr.toNat) (hnc : e.nc = s.me.nc.toNat) (hw : e.wide = s.me.wide)
    (hf : ¬ Spec.Fits s cap rs) : Traps (do
      if e.empty then return ()
      else
        illegalWhen (decide (cap < e.nc) || e.regsBad rs)
        modMe g) D shapeTrap (D.progressed 0 0 0) := by
  have hz {n : Nat} (v : BitVec n) (h : v.toNat = 0) : v = 0 := BitVec.eq_of_toNat_eq h
  have he : ¬ (e.nr = 0 ∨ e.nc = 0) := fun h => hf (h.elim (fun h => .inl (hz _ (hnr.symm.trans h))) fun h => .inr (.inl (hz _ (hnc.symm.trans h))))
  rw [if_neg (by simpa [VEntry.empty] using he)]
  have hbad : (decide (cap < e.nc) || e.regsBad rs) = true := by
    by_contra hn
    obtain ⟨hcap, hregs⟩ := Bool.or_eq_false_iff.1 (Bool.eq_false_iff.2 hn)
    refine hf (.inr (.inr ⟨?_, fun hwide => ?_⟩))
    · have := of_decide_eq_false hcap
      omega
    · unfold VEntry.regsBad at hregs
      rw [hw, hwide] at hregs
      simpa using hregs
  exact traps_of_bind ((run_illegalWhen _ _).trans (if_pos hbad))

end Shape

/-! ## The integer family (R264 to R266) -/

theorem wrapInt_eq (w : Nat) (i : Int) : wrapInt w i = (BitVec.ofInt w i).toNat := by
  rw [BitVec.toNat_ofInt]
  rfl

theorem intElem_eq {ty : Ty} (h : 0 < ty.width) (v : Nat) : intElem ty v = Spec.int ty v := by
  unfold intElem Spec.int
  split
  · rw [← sint_toNat h, BitVec.toNat_ofNat]
    simp only [sint, Nat.mod_mod]
  · rw [BitVec.toNat_ofNat]

theorem wrapTo_eq (ty : Ty) (sat : Bool) (i : Int) : wrapTo ty sat i = Spec.result ty sat i := by
  have hlo : (intRange ty).1 = if ty.isSigned then -(2 ^ (ty.width - 1)) else 0 := by
    unfold intRange
    dsimp only
    split
    · push_cast; rfl
    · rfl
  have hhi : (intRange ty).2 = if ty.isSigned then 2 ^ (ty.width - 1) - 1 else 2 ^ ty.width - 1 := by
    unfold intRange
    dsimp only
    split <;> push_cast <;> rfl
  unfold wrapTo Spec.result clampInt
  dsimp only
  rw [← hlo, ← hhi]
  cases sat with
  | false => simp [wrapInt_eq]
  | true =>
    simp only [if_true, true_and]
    split
    · rw [if_pos rfl, wrapInt_eq]
      rfl
    · split
      · rw [if_pos rfl, wrapInt_eq]
        rfl
      · rw [if_neg Bool.false_ne_true, wrapInt_eq]

section Integer

variable {s : State} {sc : Bool} {b : Option Reg}

/-- Elements are below 2 to their width. -/
theorem elem_lt (w : VRow) (ty : Ty) (c : Nat) : w.elem ty c < 2 ^ ty.width := Nat.mod_lt _ (Nat.two_pow_pos _)

/-- The second source of an entry that the executing core has dispatched. -/
def State.second (s : State) (op : VecOp) (rm : Rm) (b : Option Reg) (sc : Bool) (rb : Reg) (ty : Ty) (r c : Nat) : Nat :=
  srcB s.me (s.entry op rm none b none none) sc rb ty r c

theorem second_eq {op : VecOp} {rm : Rm} (sc : Bool) (rb : Reg) (ty : Ty) (r c : Nat) :
    s.second op rm (if sc then some rb else none) sc rb ty r c = if sc then (s.me.x rb).toNat % 2 ^ ty.width else Spec.el s rb ty r c := by
  cases sc <;> rfl

theorem second_lt {op : VecOp} {rm : Rm} (rb : Reg) (ty : Ty) (r c : Nat) : s.second op rm b sc rb ty r c < 2 ^ ty.width := by
  unfold State.second srcB
  split
  · exact Nat.mod_lt _ (Nat.two_pow_pos _)
  · exact elem_lt _ _ _

/-- An entry whose effect is on its core, and which an empty shape leaves as it is. -/
theorem guarded_spec {op : VecOp} {rm : Rm} {bad : Bool} {eff : VEntry → Core → Core} {g : Core → Core} (h : Accepting s)
    (hbad : (s.entry op rm none b none none).empty = false → bad = false)
    (hv : vexec (s.entry op rm none b none none) = do
      if (s.entry op rm none b none none).empty then return ()
      else
        illegalWhen bad
        modMe g)
    (hg : g (s.dispatched op rm none b none none).me = eff (s.entry op rm none b none none) (s.dispatched op rm none b none none).me)
    (hempty : ∀ e k, e.nr = 0 ∨ e.nc = 0 → eff e k = k) : vector op rm none b none none s = .next (s.coreDone op rm none b none none eff) := by
  refine vector_coreDone h ?_
  rw [hv, ← updMe_congr (f := g) hg]
  exact guarded_ends hbad fun he => hg.trans (hempty _ _ he)

/-- An entry that writes elements. -/
theorem elems_spec {op : VecOp} {rm : Rm} {cap : Nat} {rs : List Reg} {d : Reg} {ty : Ty} {F : ElemFn} {g : Core → Core}
    (h : Accepting s) (hf : Spec.Fits s cap rs)
    (hv : vexec (s.entry op rm none b none none) = do
      if (s.entry op rm none b none none).empty then return ()
      else
        illegalWhen (decide (cap < (s.entry op rm none b none none).nc) || (s.entry op rm none b none none).regsBad rs)
        modMe g)
    (hg : g (s.dispatched op rm none b none none).me =
      (s.dispatched op rm none b none none).me.writeElems (s.entry op rm none b none none) d ty F) :
    vector op rm none b none none s = .next (s.coreDone op rm none b none none fun e q => q.writeElems e d ty F) :=
  guarded_spec h (fits_ok rfl rfl rfl hf) hv hg fun _ k he => writeElems_empty he k d ty F

theorem int_spec {o : IntOp} {x : VBinF} {F : Nat → Nat → Nat × FlagSet} (h : Accepting s)
    (hf : Spec.Fits s x.ty.capacity (x.d :: if sc then [x.a] else [x.a, x.b]))
    (hF : ∀ r c, intOp o x.ty x.sat (Spec.el s x.a x.ty r c) (s.second (.int o sc x) .frm b sc x.b x.ty r c) = F r c) :
    vector (.int o sc x) .frm none b none none s = .next (Spec.each s (.int o sc x) .frm b x.d x.k x.ty F) := by
  refine elems_spec h hf rfl ?_
  rw [me_dispatched h.cur]
  refine congrArg (Core.writeElems _ _ x.d x.ty) (funext fun r => funext fun c => ?_)
  rw [← hF]
  rfl

/-- An integer operation of two sources, on elements below 2 to their width. -/
theorem intBin_spec {o : IntOp} {x : VBinF} {f : Nat → Nat → Nat × FlagSet} (h : Accepting s)
    (hf : Spec.Fits s x.ty.capacity (x.d :: if sc then [x.a] else [x.a, x.b]))
    (hF : ∀ a b, a < 2 ^ x.ty.width → b < 2 ^ x.ty.width → intOp o x.ty x.sat a b = f a b) :
    vector (.int o sc x) .frm none (if sc then some x.b else none) none none s =
      .next (Spec.each s (.int o sc x) .frm (if sc then some x.b else none) x.d x.k x.ty fun r c =>
        f (Spec.el s x.a x.ty r c) (if sc then (s.me.x x.b).toNat % 2 ^ x.ty.width else Spec.el s x.b x.ty r c)) :=
  int_spec h hf fun r c => by
    rw [hF (Spec.el s x.a x.ty r c) _ (elem_lt _ _ _) (second_lt _ _ _ _), second_eq]

/-- A compare of a family whose outcome does not depend on the core that has dispatched it. -/
theorem compared_spec {op : VecOp} {rm : Rm} {cap : Nat} {rs : List Reg} {d m : MaskReg} {F : Nat → Nat → Bool × FlagSet} {g : Core → Core}
    (h : Accepting s) (hf : Spec.Fits s cap rs)
    (hv : vexec (s.entry op rm none b none none) = do
      if (s.entry op rm none b none none).empty then return ()
      else
        illegalWhen (decide (cap < (s.entry op rm none b none none).nc) || (s.entry op rm none b none none).regsBad rs)
        modMe g)
    (hg : g (s.dispatched op rm none b none none).me = (s.dispatched op rm none b none none).me.writeMaskBits (s.entry op rm none b none none) d
      fun r c => if Spec.on s m r c then some (if (F r c).1 then 1 else 0, (F r c).2) else none) :
    vector op rm none b none none s = .next (Spec.compared s op rm b d m F) := by
  exact guarded_spec h (fits_ok rfl rfl rfl hf) hv hg fun _ k he => writeMaskBits_empty he k d _

theorem icmp_spec {o : CmpOp} {x : VCmpF} {f : Int → Int → Bool} (h : Accepting s) (hw : 0 < x.ty.width)
    (hf : Spec.Fits s x.ty.capacity (if sc then [x.a] else [x.a, x.b])) (hF : ∀ a b, intCmp o a b = f a b) :
    vector (.icmp o sc x) .frm none (if sc then some x.b else none) none none s =
      .next (Spec.compared s (.icmp o sc x) .frm (if sc then some x.b else none) x.d x.k fun r c =>
        (f (Spec.int x.ty (Spec.el s x.a x.ty r c))
          (Spec.int x.ty (if sc then (s.me.x x.b).toNat % 2 ^ x.ty.width else Spec.el s x.b x.ty r c)), 0)) := by
  refine compared_spec h hf rfl ?_
  rw [me_dispatched h.cur]
  refine congrArg (Core.writeMaskBits _ _ x.d) (funext fun r => funext fun c => ?_)
  dsimp only
  rw [← hF, ← second_eq (op := .icmp o sc x) (rm := .frm), ← intElem_eq hw, ← intElem_eq hw]
  rfl

theorem sel_spec {x : VBinF} (h : Accepting s) (hf : Spec.Fits s x.ty.capacity (x.d :: if sc then [x.a] else [x.a, x.b])) :
    vector (.vsel sc x) .frm none (if sc then some x.b else none) none none s =
      .next (s.coreDone (.vsel sc x) .frm none (if sc then some x.b else none) none none fun e k =>
        k.writeElems e x.d x.ty fun r c => some (if s.me.maskBit x.k r c then
          (if sc then (s.me.x x.b).toNat % 2 ^ x.ty.width else Spec.el s x.b x.ty r c) else Spec.el s x.a x.ty r c, 0)) := by
  refine elems_spec h hf rfl ?_
  rw [me_dispatched h.cur]
  refine congrArg (Core.writeElems _ _ x.d x.ty) (funext fun r => funext fun c => ?_)
  rw [← second_eq (op := .vsel sc x) (rm := .frm)]
  rfl

theorem iota_spec {y : VIotaF} {n : Nat} (h : Accepting s) (hf : Spec.Fits s y.ty.capacity [y.d])
    (hn : (s.entry (.viota y) .frm none b none none).opb.toNat = n) :
    vector (.viota y) .frm none b none none s = .next (Spec.each s (.viota y) .frm b y.d y.k y.ty fun _ c => ((c + n) % 2 ^ y.ty.width, 0)) := by
  refine elems_spec h hf rfl ?_
  rw [me_dispatched h.cur, hn]
  rfl

end Integer

theorem width_pos {ty : Ty} (h : ty ∈ Spec.intTypes) : 0 < ty.width := by
  revert h
  cases ty <;> decide

theorem intOp_shr {ty : Ty} {sat : Bool} {a : Nat} (ha : a < 2 ^ ty.width) (b : Nat) :
    intOp .shr ty sat a b = ((BitVec.ofNat ty.width a >>> (b % ty.width)).toNat, 0) := by
  rw [BitVec.toNat_ushiftRight, BitVec.toNat_ofNat, Nat.mod_eq_of_lt ha]
  rfl

theorem intOp_sra {ty : Ty} {sat : Bool} (hw : 0 < ty.width) {a : Nat} (ha : a < 2 ^ ty.width) (b : Nat) :
    intOp .sra ty sat a b = (((BitVec.ofNat ty.width a).sshiftRight (b % ty.width)).toNat, 0) := by
  have hs : sint ty.width a = (BitVec.ofNat ty.width a).toInt := by
    rw [← sint_toNat hw, BitVec.toNat_ofNat, Nat.mod_eq_of_lt ha]
  rw [BitVec.sshiftRight_eq, ← wrapInt_eq, Int.shiftRight_eq_div_pow, ← hs]
  rfl

theorem vectorIntegerResults_spec : Spec.VectorIntegerResults := by
  intro s h sc breg srcs second
  refine ⟨fun x hty hf => ?_, fun x hty hf => ?_, fun x hty hf => ?_, fun x hty hf => ?_, fun x hty hf => ?_⟩
  · intro w is i res wrap
    have hw := width_pos hty
    have key (v g : VBinF → Instr) (o : IntOp) (f : Nat → Nat → Nat × FlagSet)
        (hv : exec ((if sc then g else v) x) s = vector (.int o sc x) .frm none (if sc then some x.b else none) none none s)
        (hF : ∀ a b, a < 2 ^ x.ty.width → b < 2 ^ x.ty.width → intOp o x.ty x.sat a b = f a b) : is v g o f := hv.trans (intBin_spec h hf hF)
    have hres (n : Int) : wrapTo x.ty x.sat n = res n := wrapTo_eq _ _ _
    have hint (a : Nat) : intElem x.ty a = i a := intElem_eq hw a
    clear_value is
    refine ⟨key _ _ _ _ (by cases sc <;> rfl) fun a b _ _ => ?_, key _ _ _ _ (by cases sc <;> rfl) fun a b _ _ => ?_,
      key _ _ _ _ (by cases sc <;> rfl) fun a b _ _ => ?_, key _ _ _ _ (by cases sc <;> rfl) fun a b _ _ => ?_,
      key _ _ _ _ (by cases sc <;> rfl) fun a b _ _ => rfl, key _ _ _ _ (by cases sc <;> rfl) fun a b _ _ => rfl,
      key _ _ _ _ (by cases sc <;> rfl) fun a b _ _ => rfl, key _ _ _ _ (by cases sc <;> rfl) fun a b _ _ => ?_,
      key _ _ _ _ (by cases sc <;> rfl) fun a b ha _ => intOp_shr ha b, key _ _ _ _ (by cases sc <;> rfl) fun a b ha _ => intOp_sra hw ha b,
      key _ _ _ _ (by cases sc <;> rfl) fun a b _ _ => ?_, key _ _ _ _ (by cases sc <;> rfl) fun a b _ _ => ?_⟩
    · rw [← hres, ← hint, ← hint]; rfl
    · rw [← hres, ← hint, ← hint]; rfl
    · rw [← hres, ← hint, ← hint]; rfl
    · change _ = ((BitVec.ofInt x.ty.width (i a * i b / 2 ^ x.ty.width)).toNat, (0 : FlagSet))
      rw [← wrapInt_eq, ← hint, ← hint]
      exact congrArg (fun n : Int => (wrapInt x.ty.width (intElem x.ty a * intElem x.ty b / n), (0 : FlagSet))) (by push_cast; rfl)
    · rw [← hres, ← hint]
      exact congrArg (fun n : Int => wrapTo x.ty x.sat (intElem x.ty a * n)) (by push_cast; rfl)
    · rw [← hint, ← hint]; rfl
    · rw [← hint, ← hint]; rfl
  · intro y is
    have key (v g : VUnF → Instr) (o : IntOp) (f : Int → Int)
        (hv : exec ((if sc then g else v) x) s = vector (.int o sc y) .frm none none none none s)
        (hF : ∀ a b, intOp o x.ty x.sat a b = wrapTo x.ty x.sat (f (intElem x.ty a))) : is v g o f :=
      hv.trans (int_spec h hf fun r c => by rw [← wrapTo_eq, ← intElem_eq (width_pos hty)]; exact hF _ _)
    clear_value is
    refine ⟨key _ _ _ _ (by cases sc <;> rfl) fun a b => ?_, key _ _ _ _ (by cases sc <;> rfl) fun a b => rfl⟩
    exact congrArg (wrapTo x.ty x.sat) (Int.natCast_natAbs _)
  · intro is
    have key (v g : VCmpF → Instr) (o : CmpOp) (f : Int → Int → Bool)
        (hv : exec ((if sc then g else v) x) s = vector (.icmp o sc x) .frm none (if sc then some x.b else none) none none s)
        (hF : ∀ a b, intCmp o a b = f a b) : is v g o f := hv.trans (icmp_spec h (width_pos hty) hf hF)
    clear_value is
    exact ⟨key _ _ _ _ (by cases sc <;> rfl) fun a b => rfl, key _ _ _ _ (by cases sc <;> rfl) fun a b => rfl,
      key _ _ _ _ (by cases sc <;> rfl) fun a b => rfl⟩
  · exact (by cases sc <;> rfl : exec (if sc then .vselScalar x else .vsel x) s = _).trans (sel_spec h hf)
  · intro y
    refine Eq.trans (by cases sc <;> rfl) (iota_spec (b := breg x.b) (n := if sc then (s.me.x x.b).toNat else 0) h hf ?_)
    cases sc <;> rfl

theorem shapeFaults : Spec.ShapeFaults := by
  intro s h x hf u
  have hd := me_dispatched (op := .int .add false x) (rm := .frm) (a := none) (b := none) (c := none) (d := none) h.cur
  have hq := dispatched_queue (op := .int .add false x) (rm := .frm) (a := none) (b := none) (c := none) (d := none) h
  have hu : u.me = ((s.dispatched (.int .add false x) .frm none none none none).me.headFault (faultOf 21 0 0)).advance.1 := by
    have hv := valid_dispatched (op := .int .add false x) (rm := .frm) (a := none) (b := none) (c := none) (d := none) h.cur
    change (((s.dispatched (.int .add false x) .frm none none none none).updMe fun k => k.headFault (faultOf 21 0 0)).goesOn).me = _
    unfold State.goesOn
    rw [me_updMe _ _ (by simpa using hv), me_updMe _ _ hv]
  obtain ⟨ia, line, ha⟩ := advance_fields ((s.dispatched (.int .add false x) .frm none none none none).me.headFault (faultOf 21 0 0))
  have hh : (s.dispatched (.int .add false x) .frm none none none none).me.headFault (faultOf 21 0 0) =
      { (s.dispatched (.int .add false x) .frm none none none none).me with
        queue := [{ s.entry (.int .add false x) .frm none none none none with fault := some (faultOf 21 0 0) }] } := by
    unfold Core.headFault
    rw [hq]
  refine ⟨vector_misshapen h (shaped_traps rfl rfl rfl hf), ?_⟩
  rw [hu, ha, hh, hd]
  exact ⟨rfl, rfl, rfl, rfl, rfl⟩

/-- Settles O31: each family by its law, and the fault of a shape that does not fit. -/
theorem vectorIntegerResults : Obligations.VectorIntegerResults := ⟨vectorIntegerResults_spec, shapeFaults⟩

end Sys2Proof.Machine
end

section
/-! PROOF. The floating-point families of the vector unit (R264, R267 to R269). -/
namespace Sys2Proof.Machine

open Sys2Proof

theorem fpFmt_eq {ty : Ty} (h : ty ∈ Spec.fpTypes) : fpFmt ty = Spec.fmt ty := by
  simp only [Spec.fpTypes, List.mem_cons, List.not_mem_nil, or_false] at h
  rcases h with rfl | rfl | rfl <;> rfl

section Float

variable {s : State} {sc : Bool} {b : Option Reg}

theorem fp_spec {o : FpOp} {x : VFpF} {F : Nat → Nat → Nat × FlagSet} (h : Accepting s)
    (hf : Spec.Fits s x.ty.capacity (x.d :: if sc then [x.a] else [x.a, x.b]))
    (hF : ∀ r c, fpOp o x.ty (modeOf s.me.frm x.rm) x.sat (Spec.el s x.a x.ty r c) (s.second (.fp o sc x) x.rm b sc x.b x.ty r c) = F r c) :
    vector (.fp o sc x) x.rm none b none none s = .next (Spec.each s (.fp o sc x) x.rm b x.d x.k x.ty F) := by
  refine elems_spec h hf rfl ?_
  rw [me_dispatched h.cur]
  refine congrArg (Core.writeElems _ _ x.d x.ty) (funext fun r => funext fun c => ?_)
  rw [← hF]
  rfl

theorem fcmp_spec {o : CmpOp} {x : VFCmpF} (h : Accepting s) (hf : Spec.Fits s x.ty.capacity (if sc then [x.a] else [x.a, x.b])) :
    vector (.fcmp o sc x) x.rm none (if sc then some x.b else none) none none s =
      .next (Spec.compared s (.fcmp o sc x) x.rm (if sc then some x.b else none) x.d x.k fun r c =>
        fCompare o ((fpFmt x.ty).decode (Spec.el s x.a x.ty r c))
          ((fpFmt x.ty).decode (if sc then (s.me.x x.b).toNat % 2 ^ x.ty.width else Spec.el s x.b x.ty r c))) := by
  refine compared_spec h hf rfl ?_
  rw [me_dispatched h.cur]
  refine congrArg (Core.writeMaskBits _ _ x.d) (funext fun r => funext fun c => ?_)
  rw [← second_eq (op := .fcmp o sc x) (rm := x.rm)]
  rfl

theorem fma_spec {o : FmaOp} {x : VFmaF} (h : Accepting s) (hf : Spec.Fits s x.ty.capacity [x.d, x.a, x.b, x.c]) :
    vector (.fma o x) x.rm none none none none s = .next (Spec.each s (.fma o x) x.rm none x.d x.k x.ty fun r c =>
      fmaOp o (fpFmt x.ty) (modeOf s.me.frm x.rm) x.sat (Spec.el s x.a x.ty r c) (Spec.el s x.b x.ty r c) (Spec.el s x.c x.ty r c)) := by
  refine elems_spec h hf rfl ?_
  rw [me_dispatched h.cur]
  rfl

end Float

theorem signOp_abs (f : Fmt) (a : Nat) : signOp f false a = (if f.decode a = .nan then f.nanBits else a % 2 ^ (f.width - 1), 0) := by
  unfold signOp
  cases f.decode a <;> simp

theorem signOp_neg (f : Fmt) (a : Nat) : signOp f true a = (if f.decode a = .nan then f.nanBits else Nat.xor a (2 ^ (f.width - 1)), 0) := by
  unfold signOp
  cases f.decode a <;> simp

/-- Settles O32: each family by its law, which applies the named operation to each active element. -/
theorem vectorFloatResults : Obligations.VectorFloatResults := by
  intro s h sc breg srcs second
  refine ⟨fun x hty hf => ?_, fun x hty hf => ?_, fun x hty hf => ?_, fun x hty hf => ?_⟩
  · intro f m is
    have hfmt : fpFmt x.ty = f := fpFmt_eq hty
    have key (v g : VFpF → Instr) (o : FpOp) (op : Nat → Nat → Nat × FlagSet)
        (hv : exec ((if sc then g else v) x) s = vector (.fp o sc x) x.rm none (if sc then some x.b else none) none none s)
        (hF : ∀ a b, fpOp o x.ty m x.sat a b = op a b) : is v g o op :=
      hv.trans (fp_spec h hf fun r c => by rw [second_eq]; exact hF _ _)
    clear_value is
    refine ⟨key _ _ _ _ (by cases sc <;> rfl) fun a b => ?_, key _ _ _ _ (by cases sc <;> rfl) fun a b => ?_,
      key _ _ _ _ (by cases sc <;> rfl) fun a b => ?_, key _ _ _ _ (by cases sc <;> rfl) fun a b => ?_,
      key _ _ _ _ (by cases sc <;> rfl) fun a b => ?_, key _ _ _ _ (by cases sc <;> rfl) fun a b => ?_⟩ <;> rw [← hfmt] <;> rfl
  · intro f m y is
    have hfmt : fpFmt x.ty = f := fpFmt_eq hty
    have key (v g : VFpUF → Instr) (o : FpOp) (op : Nat → Nat × FlagSet)
        (hv : exec ((if sc then g else v) x) s = vector (.fp o sc y) x.rm none none none none s)
        (hF : ∀ a b, fpOp o x.ty m x.sat a b = op a) : is v g o op :=
      hv.trans (fp_spec (x := y) h hf fun r c => hF _ _)
    clear_value is
    refine ⟨key _ _ _ _ (by cases sc <;> rfl) fun a b => ?_, key _ _ _ _ (by cases sc <;> rfl) fun a b => ?_,
      key _ _ _ _ (by cases sc <;> rfl) fun a b => ?_, key _ _ _ _ (by cases sc <;> rfl) fun a b => ?_,
      key _ _ _ _ (by cases sc <;> rfl) fun a b => ?_, key _ _ _ _ (by cases sc <;> rfl) fun a b => ?_,
      key _ _ _ _ (by cases sc <;> rfl) fun a b => ?_⟩ <;> rw [← hfmt]
    · rfl
    · exact signOp_abs _ a
    · exact signOp_neg _ a
    · rfl
    · rfl
    · rfl
    · rfl
  · intro f is
    have hfmt : fpFmt x.ty = f := fpFmt_eq hty
    have key (v g : VFCmpF → Instr) (o : CmpOp)
        (hv : exec ((if sc then g else v) x) s = vector (.fcmp o sc x) x.rm none (if sc then some x.b else none) none none s) : is v g o :=
      hv.trans (hfmt ▸ fcmp_spec h hf)
    clear_value is
    exact ⟨key _ _ _ (by cases sc <;> rfl), key _ _ _ (by cases sc <;> rfl), key _ _ _ (by cases sc <;> rfl)⟩
  · intro f m is
    have hfmt : fpFmt x.ty = f := fpFmt_eq hty
    have key (i : Instr) (o : FmaOp) (op : Val → Val → Val → Nat × FlagSet) (hv : exec i s = vector (.fma o x) x.rm none none none none s)
        (hF : ∀ a b c, fmaOp o (fpFmt x.ty) m x.sat a b c = op ((fpFmt x.ty).decode a) ((fpFmt x.ty).decode b) ((fpFmt x.ty).decode c)) : is i o op := by
      refine (hv.trans (fma_spec h hf)).trans ?_
      rw [← hfmt]
      exact congrArg (fun F => Host.Outcome.next (Spec.each s (.fma o x) x.rm none x.d x.k x.ty F)) (funext fun r => funext fun c => hF _ _ _)
    clear_value is
    refine ⟨key _ _ _ rfl fun a b c => ?_, key _ _ _ rfl fun a b c => ?_, key _ _ _ rfl fun a b c => ?_⟩ <;> rw [← hfmt] <;> rfl

end Sys2Proof.Machine
end

section
/-! PROOF. The reduction tree (R271, R272). -/
namespace Sys2Proof.Machine

open Sys2Proof

/-! ## What holds of every lane of the tree -/

/-- A property of the lanes of a tree, by the positions that a lane has combined. -/
structure TreeRule (comb : Ranked → Ranked → Ranked × FlagSet) (x : Nat → Option Nat) (R : Finset Nat → Lane → Prop) : Prop where
  nothing : R ∅ (none, 0)
  one : ∀ j, R {j} ((x j).map fun v => (v, j), 0)
  join : ∀ {S T : Finset Nat} {a b : Lane}, Disjoint S T → R S a → R T b → R (S ∪ T) (joinLanes comb a b)

section Tree

variable {comb : Ranked → Ranked → Ranked × FlagSet} {x : Nat → Option Nat} {R : Finset Nat → Lane → Prop}

theorem TreeRule.fold (h : TreeRule comb x R) (js : List Nat) (hn : js.Nodup) (S : Finset Nat) (hd : ∀ j ∈ js, j ∉ S) {l : Lane} (hl : R S l) :
    R (S ∪ js.toFinset) (js.foldl (fun l j => joinLanes comb l ((x j).map fun v => (v, j), 0)) l) := by
  induction js generalizing S l with
  | nil => simpa using hl
  | cons j js ih =>
    obtain ⟨hj, hn⟩ := List.nodup_cons.1 hn
    have hjoin := h.join (Finset.disjoint_singleton_right.2 (hd j List.mem_cons_self)) hl (h.one j)
    have hrest := ih hn (S ∪ {j}) (fun i hi => by
      rw [Finset.mem_union, Finset.mem_singleton]
      rintro (hs | rfl)
      · exact hd i (List.mem_cons_of_mem j hi) hs
      · exact hj hi) hjoin
    rwa [List.toFinset_cons, Finset.insert_eq, ← Finset.union_assoc]

/-- The positions below n that leave a rest. -/
def residues (n m i : Nat) : Finset Nat := (Finset.range n).filter fun j => j % m = i

theorem TreeRule.preLane (h : TreeRule comb x R) (n i : Nat) : R (residues n 64 i) (preLane comb n x i) := by
  have hf := h.fold ((List.range n).filter fun j => j % 64 == i) (List.nodup_range.filter _) ∅ (fun _ _ => Finset.notMem_empty _) h.nothing
  have hs : (∅ ∪ ((List.range n).filter fun j => j % 64 == i).toFinset : Finset Nat) = residues n 64 i := by
    ext j
    simp [residues]
  rwa [hs] at hf

theorem residues_halve (n k i : Nat) (hi : i < 2 ^ k) :
    Disjoint (residues n (2 ^ (k + 1)) i) (residues n (2 ^ (k + 1)) (2 ^ k + i)) ∧
      residues n (2 ^ (k + 1)) i ∪ residues n (2 ^ (k + 1)) (2 ^ k + i) = residues n (2 ^ k) i := by
  have hp : 0 < 2 ^ k := Nat.two_pow_pos k
  constructor
  · refine Finset.disjoint_left.2 fun j h1 h2 => ?_
    have h1 := (Finset.mem_filter.1 h1).2
    have h2 := (Finset.mem_filter.1 h2).2
    omega
  · ext j
    simp only [residues, Finset.mem_union, Finset.mem_filter, Finset.mem_range, ← and_or_left]
    refine and_congr Iff.rfl ?_
    have hmod : j % 2 ^ (k + 1) % 2 ^ k = j % 2 ^ k := Nat.mod_mod_of_dvd j (Nat.pow_dvd_pow 2 (Nat.le_succ k))
    have hlt : j % 2 ^ (k + 1) < 2 ^ k + 2 ^ k := by
      have := Nat.mod_lt j (Nat.two_pow_pos (k + 1))
      rw [pow_succ] at this ⊢
      omega
    generalize j % 2 ^ (k + 1) = m at *
    rw [← hmod]
    rcases lt_or_ge m (2 ^ k) with hm | hm
    · rw [Nat.mod_eq_of_lt hm]
      omega
    · rw [Nat.mod_eq_sub_mod hm, Nat.mod_eq_of_lt (by omega)]
      omega

theorem TreeRule.halve (h : TreeRule comb x R) (n : Nat) : ∀ (k : Nat) (ls : List Lane), ls.length = 2 ^ k →
    (∀ (i : Nat) (hi : i < ls.length), R (residues n (2 ^ k) i) ls[i]) → R (Finset.range n) ((foldLanes comb k ls).headD (none, 0)) := by
  intro k
  induction k with
  | zero =>
    intro ls hlen hls
    match ls, hlen, hls with
    | [l], _, hls =>
      have h0 := hls 0 Nat.zero_lt_one
      have hs : residues n (2 ^ 0) 0 = Finset.range n := by
        ext j
        simp [residues, Nat.mod_one]
      rwa [hs] at h0
  | succ k ih =>
    intro ls hlen hls
    have hpow : 2 ^ (k + 1) = 2 ^ k + 2 ^ k := by rw [pow_succ]; ring
    refine ih _ (by rw [List.length_zipWith, List.length_take, List.length_drop]; omega) fun i hi => ?_
    rw [List.length_zipWith, List.length_take, List.length_drop] at hi
    have hik : i < 2 ^ k := by omega
    obtain ⟨hdis, hunion⟩ := residues_halve n k i hik
    rw [List.getElem_zipWith, List.getElem_take, List.getElem_drop, ← hunion]
    exact h.join hdis (hls i (by omega)) (hls (2 ^ k + i) (by omega))

/-- What holds of every lane holds of the tree, over all its positions. -/
theorem TreeRule.tree (h : TreeRule comb x R) (n : Nat) : R (Finset.range n) (reduceTree comb n x) := by
  refine h.halve n 6 _ (by simp) fun i hi => ?_
  rw [List.getElem_map, List.getElem_range]
  exact h.preLane n i

end Tree

/-! ## Trees of values -/

/-- A property of what a tree has combined, which the combination and absent elements keep, and with it no flag. -/
structure ValueRule (comb : Ranked → Ranked → Ranked × FlagSet) (x : Nat → Option Nat) (P : Finset Nat → Ranked → Prop) : Prop where
  one : ∀ {j v}, x j = some v → P {j} (v, j)
  skip : ∀ {S T : Finset Nat} {q : Ranked}, P S q → (∀ j ∈ T, x j = none) → P (S ∪ T) q
  comb : ∀ {S T : Finset Nat} {a b : Ranked}, Disjoint S T → P S a → P T b → P (S ∪ T) (comb a b).1 ∧ (comb a b).2 = 0

section Values

variable {comb : Ranked → Ranked → Ranked × FlagSet} {x : Nat → Option Nat} {P : Finset Nat → Ranked → Prop}

/-- What holds of a lane: nothing where no element is there, else the property of its value, and no flag. -/
def LaneHolds (x : Nat → Option Nat) (P : Finset Nat → Ranked → Prop) (S : Finset Nat) (l : Lane) : Prop :=
  l.2 = 0 ∧ (l.1 = none → ∀ j ∈ S, x j = none) ∧ ∀ q, l.1 = some q → P S q

theorem ValueRule.lanes (h : ValueRule comb x P) : TreeRule comb x (LaneHolds x P) where
  nothing := ⟨rfl, fun _ _ hj => absurd hj (Finset.notMem_empty _), fun _ hq => by cases hq⟩
  one j := by
    refine ⟨rfl, fun hn i hi => ?_, fun q hq => ?_⟩
    · rw [Finset.mem_singleton.1 hi]
      exact Option.map_eq_none_iff.1 hn
    · obtain ⟨v, hv, rfl⟩ := Option.map_eq_some_iff.1 hq
      exact h.one hv
  join := by
    rintro S T ⟨a, fa⟩ ⟨b, fb⟩ hd ⟨ha0, han, ha⟩ ⟨hb0, hbn, hb⟩
    dsimp only at ha0 hb0
    subst ha0 hb0
    cases a with
    | none =>
      cases b with
      | none =>
        refine ⟨or_zero_eq _, fun _ j hj => ?_, fun q hq => by cases hq⟩
        exact (Finset.mem_union.1 hj).elim (han rfl j) (hbn rfl j)
      | some b =>
        refine ⟨or_zero_eq _, fun hn => (Option.some_ne_none _ hn).elim, fun q hq => ?_⟩
        cases hq
        rw [Finset.union_comm]
        exact h.skip (hb b rfl) (han rfl)
    | some a =>
      cases b with
      | none =>
        refine ⟨or_zero_eq _, fun hn => (Option.some_ne_none _ hn).elim, fun q hq => ?_⟩
        cases hq
        exact h.skip (ha a rfl) (hbn rfl)
      | some b =>
        obtain ⟨hp, h0⟩ := h.comb hd (ha a rfl) (hb b rfl)
        refine ⟨?_, fun hn => (Option.some_ne_none _ hn).elim, fun q hq => ?_⟩
        · change (0 : FlagSet) ||| 0 ||| (comb a b).2 = 0
          rw [h0, or_zero_eq, or_zero_eq]
        · cases hq
          exact hp

/-- The tree over positions of which one is there. -/
theorem ValueRule.tree (h : ValueRule comb x P) {n : Nat} (hn : ∃ j, j < n ∧ (x j).isSome = true) :
    ∃ q, reduceTree comb n x = (some q, 0) ∧ P (Finset.range n) q := by
  obtain ⟨h0, hnone, hsome⟩ := h.lanes.tree n
  obtain ⟨j, hj, hs⟩ := hn
  rcases ht : reduceTree comb n x with ⟨_ | q, fl⟩
  · rw [ht] at hnone
    rw [hnone rfl j (Finset.mem_range.2 hj)] at hs
    cases hs
  · rw [ht] at h0 hsome
    exact ⟨q, by rw [show fl = 0 from h0], hsome q rfl⟩

/-- The tree over positions of which none is there. -/
theorem tree_absent (comb : Ranked → Ranked → Ranked × FlagSet) {n : Nat} (hn : ¬ ∃ j, j < n ∧ (x j).isSome = true) :
    (reduceTree comb n x).1 = none := by
  have hrule : TreeRule comb x fun S l => (∀ j ∈ S, x j = none) → l.1 = none := by
    refine ⟨fun _ => rfl, fun j h => ?_, fun {S T a b} _ ha hb h => ?_⟩
    · rw [h j (Finset.mem_singleton_self j)]
      rfl
    · have ha := ha fun j hj => h j (Finset.mem_union_left _ hj)
      have hb := hb fun j hj => h j (Finset.mem_union_right _ hj)
      unfold joinLanes
      rw [ha]
      exact hb
  refine hrule.tree n fun j hj => ?_
  rw [← Option.not_isSome_iff_eq_none]
  exact fun hs => hn ⟨j, Finset.mem_range.1 hj, hs⟩

end Values

end Sys2Proof.Machine
end

section
/-! PROOF. What the reductions give (R272). -/
namespace Sys2Proof.Machine

open Sys2Proof

/-! ## Integers -/

theorem int_notFp {ty : Ty} (h : ty ∈ Spec.intTypes) : ty.isFp = false := by
  revert h
  cases ty <;> decide

theorem elemNan_int {ty : Ty} (h : ty ∈ Spec.intTypes) (v : Nat) : elemNan ty v = false := by
  unfold elemNan
  rw [int_notFp h]
  rfl

theorem elemOrder_int {ty : Ty} (h : ty ∈ Spec.intTypes) (a b : Nat) : elemOrder ty a b = compare (Spec.int ty a) (Spec.int ty b) := by
  unfold elemOrder
  rw [int_notFp h, if_neg (by decide), intElem_eq (width_pos h), intElem_eq (width_pos h)]

section Rules

variable {ty : Ty} {mode : Mode} {sat : Bool} {x : Nat → Option Nat}

/-- The sum of integers, modulo 2 to their width. -/
theorem sum_rule (hty : ty ∈ Spec.intTypes) (hx : ∀ j v, x j = some v → v < 2 ^ ty.width) :
    ValueRule (redComb .sum ty mode false) x fun S q => q.1 = (∑ j ∈ S, (x j).getD 0) % 2 ^ ty.width where
  one {j v} h := by
    rw [Finset.sum_singleton, h, Option.getD_some, Nat.mod_eq_of_lt (hx j v h)]
  skip {S T q} h hn := by
    have hz : ∑ j ∈ T \ S, (x j).getD 0 = 0 := Finset.sum_eq_zero fun j hj => by rw [hn j (Finset.mem_sdiff.1 hj).1]; rfl
    rw [← Finset.union_sdiff_self_eq_union, Finset.sum_union Finset.disjoint_sdiff, hz, Nat.add_zero]
    exact h
  comb {S T a b} hd ha hb := by
    have hcong (v : Nat) : intElem ty v % ((2 ^ ty.width : Nat) : Int) = (v : Int) % ((2 ^ ty.width : Nat) : Int) := by
      unfold intElem sint
      split
      · dsimp only
        split
        · push_cast; simp
        · push_cast; simp
      · push_cast; simp
    have hc : redComb .sum ty mode false a b = ((wrapInt ty.width (intElem ty a.1 + intElem ty b.1), a.2), 0) := by
      unfold redComb wrapTo
      rw [int_notFp hty]
      rfl
    rw [hc]
    refine ⟨?_, rfl⟩
    change wrapInt ty.width (intElem ty a.1 + intElem ty b.1) = _
    rw [Finset.sum_union hd, Nat.add_mod, ← ha, ← hb]
    unfold wrapInt
    rw [Int.add_emod, hcong, hcong, ← Int.add_emod, ← Nat.cast_add, ← Int.natCast_mod, Int.toNat_natCast]

/-- An element that no other exceeds by a key, of those that are there. -/
def Extreme (key : Nat → Int) (x : Nat → Option Nat) (S : Finset Nat) (q : Ranked) : Prop :=
  (∃ j ∈ S, x j = some q.1) ∧ ∀ i ∈ S, ∀ u, x i = some u → key u ≤ key q.1

theorem extreme_rule {o : RedOp} {key : Nat → Int} (hc : ∀ a b, (redComb o ty mode sat a b).2 = 0 ∧
      (((redComb o ty mode sat a b).1 = a ∧ key b.1 ≤ key a.1) ∨ ((redComb o ty mode sat a b).1 = b ∧ key a.1 ≤ key b.1))) :
    ValueRule (redComb o ty mode sat) x (Extreme key x) where
  one {j v} h := by
    refine ⟨⟨j, Finset.mem_singleton_self j, h⟩, fun i hi u hu => ?_⟩
    rw [Finset.mem_singleton.1 hi, h] at hu
    cases hu
    exact le_rfl
  skip {S T q} h hn := by
    obtain ⟨⟨j, hj, hv⟩, hall⟩ := h
    refine ⟨⟨j, Finset.mem_union_left _ hj, hv⟩, fun i hi u hu => ?_⟩
    rcases Finset.mem_union.1 hi with hi | hi
    · exact hall i hi u hu
    · rw [hn i hi] at hu
      cases hu
  comb {S T a b} _ ha hb := by
    obtain ⟨⟨i, hi, hva⟩, hla⟩ := ha
    obtain ⟨⟨j, hj, hvb⟩, hlb⟩ := hb
    obtain ⟨h0, hor⟩ := hc a b
    refine ⟨?_, h0⟩
    rcases hor with ⟨h, hle⟩ | ⟨h, hle⟩ <;> rw [h]
    · refine ⟨⟨i, Finset.mem_union_left _ hi, hva⟩, fun p hp u hu => ?_⟩
      rcases Finset.mem_union.1 hp with hp | hp
      · exact hla p hp u hu
      · exact (hlb p hp u hu).trans hle
    · refine ⟨⟨j, Finset.mem_union_right _ hj, hvb⟩, fun p hp u hu => ?_⟩
      rcases Finset.mem_union.1 hp with hp | hp
      · exact (hla p hp u hu).trans hle
      · exact hlb p hp u hu

theorem max_rule (hty : ty ∈ Spec.intTypes) : ValueRule (redComb .max ty mode sat) x (Extreme (Spec.int ty) x) := by
  refine extreme_rule fun a b => ?_
  have hc : redComb .max ty mode sat a b = (pickElem ty true a b, 0) := by
    unfold redComb
    rw [elemNan_int hty, elemNan_int hty]
    rfl
  rw [hc]
  refine ⟨rfl, ?_⟩
  unfold pickElem
  dsimp only
  rw [elemOrder_int hty]
  split
  next h => exact .inr ⟨rfl, (compare_lt_iff_lt.1 h).le⟩
  next h => exact .inl ⟨rfl, (compare_gt_iff_gt.1 h).le⟩
  next h =>
    have he := compare_eq_iff_eq.1 h
    split
    · exact .inr ⟨rfl, he.le⟩
    · exact .inl ⟨rfl, he.ge⟩

theorem min_rule (hty : ty ∈ Spec.intTypes) : ValueRule (redComb .min ty mode sat) x (Extreme (fun v => - Spec.int ty v) x) := by
  refine extreme_rule fun a b => ?_
  have hc : redComb .min ty mode sat a b = (pickElem ty false a b, 0) := by
    unfold redComb
    rw [elemNan_int hty, elemNan_int hty]
    rfl
  rw [hc]
  refine ⟨rfl, ?_⟩
  unfold pickElem
  dsimp only
  rw [elemOrder_int hty]
  split
  next h => exact .inl ⟨rfl, neg_le_neg (compare_lt_iff_lt.1 h).le⟩
  next h => exact .inr ⟨rfl, neg_le_neg (compare_gt_iff_gt.1 h).le⟩
  next h =>
    have he := compare_eq_iff_eq.1 h
    split
    · exact .inr ⟨rfl, neg_le_neg he.ge⟩
    · exact .inl ⟨rfl, neg_le_neg he.le⟩

theorem and_rule : ValueRule (redComb .and ty mode sat) x fun S q => ∀ b, q.1.testBit b = true ↔ ∀ j ∈ S, ∀ u, x j = some u → u.testBit b = true where
  one {j v} h b := by
    simp only [Finset.mem_singleton, forall_eq, h, Option.some.injEq, forall_eq']
  skip {S T q} h hn b := by
    rw [h b]
    refine ⟨fun hs j hj u hu => ?_, fun hs j hj u hu => hs j (Finset.mem_union_left _ hj) u hu⟩
    rcases Finset.mem_union.1 hj with hj | hj
    · exact hs j hj u hu
    · rw [hn j hj] at hu
      cases hu
  comb {S T a b} _ ha hb := by
    refine ⟨fun i => ?_, rfl⟩
    change (Nat.land a.1 b.1).testBit i = true ↔ _
    rw [show Nat.land a.1 b.1 = a.1 &&& b.1 from rfl, Nat.testBit_and, Bool.and_eq_true, ha i, hb i]
    refine ⟨fun h j hj u hu => (Finset.mem_union.1 hj).elim (fun hj => h.1 j hj u hu) fun hj => h.2 j hj u hu,
      fun h => ⟨fun j hj => h j (Finset.mem_union_left _ hj), fun j hj => h j (Finset.mem_union_right _ hj)⟩⟩

theorem or_rule : ValueRule (redComb .or ty mode sat) x fun S q => ∀ b, q.1.testBit b = true ↔ ∃ j ∈ S, ∃ u, x j = some u ∧ u.testBit b = true where
  one {j v} h b := by
    simp only [Finset.mem_singleton, exists_eq_left, h, Option.some.injEq, exists_eq_left']
  skip {S T q} h hn b := by
    rw [h b]
    refine ⟨fun ⟨j, hj, hu⟩ => ⟨j, Finset.mem_union_left _ hj, hu⟩, fun ⟨j, hj, u, hu, hb⟩ => ?_⟩
    rcases Finset.mem_union.1 hj with hj | hj
    · exact ⟨j, hj, u, hu, hb⟩
    · rw [hn j hj] at hu
      cases hu
  comb {S T a b} _ ha hb := by
    refine ⟨fun i => ?_, rfl⟩
    change (Nat.lor a.1 b.1).testBit i = true ↔ _
    rw [show Nat.lor a.1 b.1 = a.1 ||| b.1 from rfl, Nat.testBit_or, Bool.or_eq_true, ha i, hb i]
    constructor
    · rintro (⟨j, hj, h⟩ | ⟨j, hj, h⟩)
      · exact ⟨j, Finset.mem_union_left _ hj, h⟩
      · exact ⟨j, Finset.mem_union_right _ hj, h⟩
    · rintro ⟨j, hj, h⟩
      exact (Finset.mem_union.1 hj).imp (fun hj => ⟨j, hj, h⟩) fun hj => ⟨j, hj, h⟩

end Rules

end Sys2Proof.Machine
end

section
/-! PROOF. The index reductions, and the reduction tree as a whole (R272). -/
namespace Sys2Proof.Machine

open Sys2Proof

/-! ## The order of elements -/

/-- The place of a value in the order with -0 below +0: its real number, and the sign of a zero. -/
noncomputable def Val.place (v : Val) : EReal ×ₗ Int :=
  match v with
  | .nan => toLex (0, 0)
  | .inf n => toLex (if n then ⊥ else ⊤, 0)
  | .fin n m e => toLex ((Spec.real n m e : ℝ), if m = 0 ∧ n = true then -1 else 0)

theorem real_eq_zero (n : Bool) (m : Nat) (e : Int) : Spec.real n m e = 0 ↔ m = 0 := by
  have h2 : (2 : ℝ) ^ e ≠ 0 := by positivity
  cases n <;> simp [Spec.real, h2]

/-- The order with -0 below +0 of two finite values. -/
theorem cmpSigned_fin (n1 n2 : Bool) (m1 m2 : Nat) (e1 e2 : Int) :
    (cmpSigned (.fin n1 m1 e1) (.fin n2 m2 e2) = .lt ↔ Val.place (.fin n1 m1 e1) < Val.place (.fin n2 m2 e2)) ∧
    (cmpSigned (.fin n1 m1 e1) (.fin n2 m2 e2) = .gt ↔ Val.place (.fin n2 m2 e2) < Val.place (.fin n1 m1 e1)) := by
  obtain ⟨hlt, heq, hgt⟩ := cmpVal_fin n1 n2 m1 m2 e1 e2
  have hplace (n p : Bool) (m q : Nat) (e f : Int) : Val.place (.fin n m e) < Val.place (.fin p q f) ↔
      Spec.real n m e < Spec.real p q f ∨ (Spec.real n m e = Spec.real p q f ∧
        (if m = 0 ∧ n = true then (-1 : Int) else 0) < if q = 0 ∧ p = true then (-1 : Int) else 0) := by
    unfold Val.place
    rw [Prod.Lex.toLex_lt_toLex]
    simp only [EReal.coe_lt_coe_iff, EReal.coe_eq_coe_iff]
  rw [hplace, hplace]
  by_cases he : cmpVal (.fin n1 m1 e1) (.fin n2 m2 e2) = .eq
  · have hr := heq.1 he
    rw [hr]
    simp only [lt_irrefl, false_or, true_and]
    by_cases hz : m1 = 0
    · have hz2 : m2 = 0 := (real_eq_zero n2 m2 e2).1 (hr ▸ (real_eq_zero n1 m1 e1).2 hz)
      subst hz hz2
      have hc : cmpSigned (.fin n1 0 e1) (.fin n2 0 e2) = compare n2.toNat n1.toNat := by
        unfold cmpSigned
        rw [he]
        rfl
      rw [hc]
      cases n1 <;> cases n2 <;> decide
    · have hz2 : m2 ≠ 0 := fun h => hz ((real_eq_zero n1 m1 e1).1 (hr.trans ((real_eq_zero n2 m2 e2).2 h)))
      have hc : cmpSigned (.fin n1 m1 e1) (.fin n2 m2 e2) = .eq := by
        unfold cmpSigned
        rw [he]
        dsimp only
        split
        next h _ => exact absurd (Val.fin.inj h).2.1 hz
        next => rfl
      rw [hc]
      simp [hz, hz2]
  · rw [cmpSigned_of_ne he, hlt, hgt]
    have hne : Spec.real n1 m1 e1 ≠ Spec.real n2 m2 e2 := fun h => he (heq.2 h)
    simp [hne, hne.symm]

theorem cmpSigned_place {a b : Val} (ha : a ≠ .nan) (hb : b ≠ .nan) :
    (cmpSigned a b = .lt ↔ a.place < b.place) ∧ (cmpSigned a b = .gt ↔ b.place < a.place) := by
  cases a with
  | nan => exact absurd rfl ha
  | inf n =>
    cases b with
    | nan => exact absurd rfl hb
    | inf p => cases n <;> cases p <;> simp [cmpSigned, cmpVal, Val.place, Prod.Lex.toLex_lt_toLex, compare, compareOfLessAndEq]
    | fin p m e => cases n <;> simp [cmpSigned, cmpVal, Val.place, Prod.Lex.toLex_lt_toLex]
  | fin n m e =>
    cases b with
    | nan => exact absurd rfl hb
    | inf p => cases p <;> simp [cmpSigned, cmpVal, Val.place, Prod.Lex.toLex_lt_toLex]
    | fin p q f => exact cmpSigned_fin n p m q e f

/-- Elements that are no NaN are ordered by a key. -/
theorem elemOrder_key {ty : Ty} (hty : ty ∈ Spec.intTypes ++ Spec.fpTypes) : ∃ key : Nat → EReal ×ₗ Int,
    ∀ a b, elemNan ty a = false → elemNan ty b = false →
      (elemOrder ty a b = .lt ↔ key a < key b) ∧ (elemOrder ty a b = .gt ↔ key b < key a) := by
  rcases List.mem_append.1 hty with hi | hf
  · refine ⟨fun v => toLex (0, Spec.int ty v), fun a b _ _ => ?_⟩
    rw [elemOrder_int hi, compare_lt_iff_lt, compare_gt_iff_gt, Prod.Lex.toLex_lt_toLex, Prod.Lex.toLex_lt_toLex]
    simp
  · have hfp : ty.isFp = true := by
      revert hf
      cases ty <;> decide
    refine ⟨fun v => ((fpFmt ty).decode v).place, fun a b ha hb => ?_⟩
    unfold elemNan at ha hb
    rw [hfp] at ha hb
    have hord : elemOrder ty a b = cmpSigned ((fpFmt ty).decode a) ((fpFmt ty).decode b) := by
      unfold elemOrder
      rw [hfp, if_pos rfl]
    rw [hord]
    exact cmpSigned_place (by simpa using ha) (by simpa using hb)

/-! ## The index of the greatest (R272) -/

/-- The first of the elements that are NaNs, or where none is, the first of the greatest by a key. -/
structure First {K : Type} [LinearOrder K] (ty : Ty) (key : Nat → K) (x : Nat → Option Nat) (S : Finset Nat) (q : Ranked) : Prop where
  mem : q.2 ∈ S
  here : x q.2 = some q.1
  nan : (∃ j ∈ S, ∃ u, x j = some u ∧ elemNan ty u = true) → elemNan ty q.1 = true
  lowest : elemNan ty q.1 = true → ∀ j ∈ S, j < q.2 → ∀ u, x j = some u → elemNan ty u = false
  greatest : elemNan ty q.1 = false → ∀ j ∈ S, ∀ u, x j = some u → key u ≤ key q.1
  first : elemNan ty q.1 = false → ∀ j ∈ S, j < q.2 → ∀ u, x j = some u → key u < key q.1

section First

variable {K : Type} [LinearOrder K] {ty : Ty} {key : Nat → K} {x : Nat → Option Nat}

/-- No element is a NaN where the one that was picked is none. -/
theorem First.noNan {S : Finset Nat} {q : Ranked} (h : First ty key x S q) (hq : elemNan ty q.1 = false) : ∀ j ∈ S, ∀ u, x j = some u → elemNan ty u = false :=
  fun j hj u hu => by
    by_contra hn
    rw [h.nan ⟨j, hj, u, hu, Bool.not_eq_false _ ▸ hn⟩] at hq
    cases hq

/-- One of two picks is the pick of both together: a NaN before a number, the greater of two numbers, and else the lower index. -/
theorem First.union {S T : Finset Nat} {a b : Ranked} (ha : First ty key x S a) (hb : First ty key x T b)
    (hnan : elemNan ty b.1 = true → elemNan ty a.1 = true) (hlow : elemNan ty a.1 = true → elemNan ty b.1 = true → a.2 ≤ b.2)
    (hle : elemNan ty a.1 = false → key b.1 ≤ key a.1) (heq : elemNan ty a.1 = false → key b.1 = key a.1 → a.2 ≤ b.2) :
    First ty key x (S ∪ T) a where
  mem := Finset.mem_union_left _ ha.mem
  here := ha.here
  nan := by
    rintro ⟨j, hj, hu⟩
    rcases Finset.mem_union.1 hj with hj | hj
    · exact ha.nan ⟨j, hj, hu⟩
    · exact hnan (hb.nan ⟨j, hj, hu⟩)
  lowest := by
    intro hn j hj hlt u hu
    rcases Finset.mem_union.1 hj with hj | hj
    · exact ha.lowest hn j hj hlt u hu
    · cases hbn : elemNan ty b.1 with
      | true => exact hb.lowest hbn j hj (hlt.trans_le (hlow hn hbn)) u hu
      | false => exact hb.noNan hbn j hj u hu
  greatest := by
    intro hn j hj u hu
    have hbn : elemNan ty b.1 = false := Bool.eq_false_iff.2 fun h => by rw [hnan h] at hn; cases hn
    rcases Finset.mem_union.1 hj with hj | hj
    · exact ha.greatest hn j hj u hu
    · exact (hb.greatest hbn j hj u hu).trans (hle hn)
  first := by
    intro hn j hj hlt u hu
    have hbn : elemNan ty b.1 = false := Bool.eq_false_iff.2 fun h => by rw [hnan h] at hn; cases hn
    rcases Finset.mem_union.1 hj with hj | hj
    · exact ha.first hn j hj hlt u hu
    · rcases (hle hn).lt_or_eq with h | h
      · exact (hb.greatest hbn j hj u hu).trans_lt h
      · exact (hb.first hbn j hj (hlt.trans_le (heq hn h)) u hu).trans_le h.le

theorem argmax_rule {mode : Mode} {sat : Bool} (hkey : ∀ a b, elemNan ty a = false → elemNan ty b = false →
      (elemOrder ty a b = .lt ↔ key a < key b) ∧ (elemOrder ty a b = .gt ↔ key b < key a)) :
    ValueRule (redComb .argmax ty mode sat) x (First ty key x) where
  one {j v} h := by
    have hone {i u : Nat} (hi : i ∈ ({j} : Finset Nat)) (hu : x i = some u) : i = j ∧ u = v := by
      have hi := Finset.mem_singleton.1 hi
      rw [hi, h] at hu
      exact ⟨hi, (Option.some.inj hu).symm⟩
    refine ⟨Finset.mem_singleton_self j, h, ?_, fun _ i hi hlt u hu => ?_, fun _ i hi u hu => ?_, fun _ i hi hlt u hu => ?_⟩
    · rintro ⟨i, hi, u, hu, hn⟩
      rw [(hone hi hu).2] at hn
      exact hn
    · exact absurd (hone hi hu).1 hlt.ne
    · rw [(hone hi hu).2]
    · exact absurd (hone hi hu).1 hlt.ne
  skip {S T q} h hn := by
    have hin {j u : Nat} (hj : j ∈ S ∪ T) (hu : x j = some u) : j ∈ S :=
      (Finset.mem_union.1 hj).resolve_right fun ht => by rw [hn j ht] at hu; cases hu
    refine ⟨Finset.mem_union_left _ h.mem, h.here, ?_, fun hq j hj hlt u hu => h.lowest hq j (hin hj hu) hlt u hu,
      fun hq j hj u hu => h.greatest hq j (hin hj hu) u hu, fun hq j hj hlt u hu => h.first hq j (hin hj hu) hlt u hu⟩
    rintro ⟨j, hj, u, hu, hb⟩
    exact h.nan ⟨j, hin hj hu, u, hu, hb⟩
  comb {S T a b} _ ha hb := by
    have hleft := ha.union hb
    have hright := hb.union ha
    rw [Finset.union_comm T S] at hright
    unfold redComb
    dsimp only
    cases hna : elemNan ty a.1 with
    | true =>
      cases hnb : elemNan ty b.1 with
      | true =>
        refine ⟨?_, rfl⟩
        dsimp only
        rw [hna, hnb] at hleft hright
        split
        next h => exact hright (fun _ => rfl) (fun _ _ => h.le) (fun h => by cases h) fun h => by cases h
        next h => exact hleft (fun _ => rfl) (fun _ _ => not_lt.1 h) (fun h => by cases h) fun h => by cases h
      | false =>
        refine ⟨?_, rfl⟩
        rw [hna, hnb] at hleft
        exact hleft (fun _ => rfl) (fun _ h => by cases h) (fun h => by cases h) fun h => by cases h
    | false =>
      cases hnb : elemNan ty b.1 with
      | true =>
        refine ⟨?_, rfl⟩
        rw [hna, hnb] at hright
        exact hright (fun _ => rfl) (fun _ h => by cases h) (fun h => by cases h) fun h => by cases h
      | false =>
        refine ⟨?_, rfl⟩
        dsimp only
        rw [hna, hnb] at hleft hright
        obtain ⟨hlt, hgt⟩ := hkey a.1 b.1 hna hnb
        unfold pickElem
        cases ho : elemOrder ty a.1 b.1 with
        | lt =>
          have h := hlt.1 ho
          exact hright (fun h => by cases h) (fun h => by cases h) (fun _ => h.le) fun _ he => absurd he h.ne
        | gt =>
          have h := hgt.1 ho
          exact hleft (fun h => by cases h) (fun h => by cases h) (fun _ => h.le) fun _ he => absurd he h.ne
        | eq =>
          have h1 : ¬ key a.1 < key b.1 := fun h => by rw [hlt.2 h] at ho; cases ho
          have h2 : ¬ key b.1 < key a.1 := fun h => by rw [hgt.2 h] at ho; cases ho
          dsimp only
          split
          next h => exact hright (fun h => by cases h) (fun h => by cases h) (fun _ => not_lt.1 h2) fun _ _ => h.le
          next h => exact hleft (fun h => by cases h) (fun h => by cases h) (fun _ => not_lt.1 h1) fun _ _ => not_lt.1 h

end First

/-! ## The results (R271, R272) -/

theorem foldl_add_eq_sum (x : Nat → Option Nat) (n : Nat) :
    (List.range n).foldl (fun acc j => acc + (x j).getD 0) 0 = ∑ j ∈ Finset.range n, (x j).getD 0 := by
  induction n with
  | zero => rfl
  | succ n ih => rw [List.range_succ, List.foldl_append, ih, Finset.sum_range_succ]; rfl

section Results

variable {ty : Ty} {mode : Mode} {sat : Bool} {n : Nat} {x : Nat → Option Nat}

/-- What a reduction of integers writes is what its tree holds. -/
theorem reduceResult_int {o : RedOp} (hty : ty ∈ Spec.intTypes) (ho : o ≠ .argmax ∧ o ≠ .argmin) {q : Ranked}
    (ht : reduceTree (redComb o ty mode sat) n x = (some q, 0)) : reduceResult o ty mode sat n x = some (q.1, 0) := by
  unfold reduceResult
  rw [ht]
  cases o with
  | argmax => exact absurd rfl ho.1
  | argmin => exact absurd rfl ho.2
  | _ => simp [elemNan_int hty]

theorem reduceResult_argmax {q : Ranked} (ht : reduceTree (redComb .argmax ty mode sat) n x = (some q, 0)) :
    reduceResult .argmax ty mode sat n x =
      some (q.2, if (List.range n).any fun j => ((x j).map (elemNan ty)).getD false then fNV else 0) := by
  unfold reduceResult
  rw [ht]
  rfl

/-- Whether a NaN is among the elements. -/
theorem anyNan_iff : ((List.range n).any fun j => ((x j).map (elemNan ty)).getD false) = true ↔
    ∃ j u, j < n ∧ x j = some u ∧ elemNan ty u = true := by
  rw [List.any_eq_true]
  constructor
  · rintro ⟨j, hj, hn⟩
    cases hx : x j with
    | none => rw [hx] at hn; cases hn
    | some u =>
      rw [hx] at hn
      exact ⟨j, u, List.mem_range.1 hj, hx, hn⟩
  · rintro ⟨j, u, hj, hx, hn⟩
    refine ⟨j, List.mem_range.2 hj, ?_⟩
    rw [hx]
    exact hn

theorem reduce_argmax (hty : ty ∈ Spec.intTypes ++ Spec.fpTypes) (hs : ∃ j, j < n ∧ (x j).isSome = true) :
    ∃ i v, (i < n ∧ (x i).isSome = true) ∧ x i = some v ∧
      ((∃ j u, j < n ∧ x j = some u ∧ elemNan ty u = true) →
        elemNan ty v = true ∧ (∀ j u, j < i → x j = some u → elemNan ty u = false) ∧
        reduceResult .argmax ty mode sat n x = some (i, fNV)) ∧
      ((∀ j u, j < n → x j = some u → elemNan ty u = false) →
        (∀ j u, j < n → x j = some u → ¬ Spec.before ty v u) ∧ (∀ j u, j < i → x j = some u → Spec.before ty u v) ∧
        reduceResult .argmax ty mode sat n x = some (i, 0)) := by
  obtain ⟨key, hkey⟩ := elemOrder_key hty
  obtain ⟨⟨v, i⟩, ht, hf⟩ := (argmax_rule (mode := mode) (sat := sat) (x := x) hkey).tree hs
  have hi : i < n := Finset.mem_range.1 hf.mem
  have hv : x i = some v := hf.here
  refine ⟨i, v, ⟨hi, by rw [hv]; rfl⟩, hv, fun hn => ?_, fun hn => ?_⟩
  · obtain ⟨j, u, hj, hu, hb⟩ := hn
    have hq := hf.nan ⟨j, Finset.mem_range.2 hj, u, hu, hb⟩
    refine ⟨hq, fun p w hp hw => hf.lowest hq p (Finset.mem_range.2 (hp.trans hi)) hp w hw, ?_⟩
    rw [reduceResult_argmax ht, if_pos (anyNan_iff.2 ⟨j, u, hj, hu, hb⟩)]
  · have hq : elemNan ty v = false := hn i v hi hv
    refine ⟨fun j u hj hu hb => ?_, fun j u hj hu => ?_, ?_⟩
    · exact absurd ((hkey v u hq (hn j u hj hu)).1.1 hb) (not_lt.2 (hf.greatest hq j (Finset.mem_range.2 hj) u hu))
    · exact (hkey u v (hn j u (hj.trans hi) hu) hq).1.2 (hf.first hq j (Finset.mem_range.2 (hj.trans hi)) hj u hu)
    · rw [reduceResult_argmax ht, if_neg]
      rw [anyNan_iff]
      rintro ⟨j, u, hj, hu, hb⟩
      rw [hn j u hj hu] at hb
      cases hb

end Results

/-- Settles O35: a property that every lane keeps holds of the tree, for each reduction its own. -/
theorem reductionTreeIsRight : Obligations.ReductionTreeIsRight := by
  intro ty mode sat n x hty hx there
  refine ⟨fun hn o => ?_, fun hs => ⟨fun hi => ⟨?_, ?_, ?_, ?_, ?_⟩, reduce_argmax hty hs⟩⟩
  · unfold reduceResult
    dsimp only
    rw [tree_absent _ hn]
    rfl
  · obtain ⟨q, ht, hq⟩ := (sum_rule (mode := mode) hi hx).tree hs
    rw [reduceResult_int hi (by decide) ht, hq, foldl_add_eq_sum]
  · obtain ⟨q, ht, ⟨j, hj, hv⟩, hall⟩ := (max_rule (mode := mode) (sat := sat) (x := x) hi).tree hs
    exact ⟨j, q.1, ⟨Finset.mem_range.1 hj, by rw [hv]; rfl⟩, hv, reduceResult_int hi (by decide) ht,
      fun i u hi hu => hall i (Finset.mem_range.2 hi) u hu⟩
  · obtain ⟨q, ht, ⟨j, hj, hv⟩, hall⟩ := (min_rule (mode := mode) (sat := sat) (x := x) hi).tree hs
    exact ⟨j, q.1, ⟨Finset.mem_range.1 hj, by rw [hv]; rfl⟩, hv, reduceResult_int hi (by decide) ht,
      fun i u hi hu => neg_le_neg_iff.1 (hall i (Finset.mem_range.2 hi) u hu)⟩
  · obtain ⟨q, ht, hq⟩ := (and_rule (ty := ty) (mode := mode) (sat := sat) (x := x)).tree hs
    refine ⟨q.1, reduceResult_int hi (by decide) ht, fun b => (hq b).trans ?_⟩
    exact ⟨fun h j u hj hu => h j (Finset.mem_range.2 hj) u hu, fun h j hj u hu => h j u (Finset.mem_range.1 hj) hu⟩
  · obtain ⟨q, ht, hq⟩ := (or_rule (ty := ty) (mode := mode) (sat := sat) (x := x)).tree hs
    refine ⟨q.1, reduceResult_int hi (by decide) ht, fun b => (hq b).trans ?_⟩
    exact ⟨fun ⟨j, hj, u, hu⟩ => ⟨j, u, Finset.mem_range.1 hj, hu⟩, fun ⟨j, u, hj, hu⟩ => ⟨j, Finset.mem_range.2 hj, u, hu⟩⟩

end Sys2Proof.Machine
end

section
/-! PROOF. Reductions, permutations and special functions of the vector unit (R270 to R278). -/
namespace Sys2Proof.Machine

open Sys2Proof

/-! ## Reductions (R270 to R272) -/

/-- What a reduction gives column 0, or row 0. -/
def State.reduced (s : State) (o : RedOp) (y : RedF) (e : VEntry) : ElemFn := fun r c =>
  let src := fun r c => if Spec.on s y.k r c then some (Spec.el s y.a y.ty r c) else none
  if y.col then (if r = 0 then reduceResult o y.ty e.rm y.sat s.me.nr.toNat (fun j => src j c) else none)
  else if c = 0 then reduceResult o y.ty e.rm y.sat s.me.nc.toNat (fun j => src r j) else none

theorem red_spec {s : State} {o : RedOp} {y : RedF} {rm : Rm} (h : Accepting s) (hf : Spec.Fits s y.ty.capacity [y.d, y.a])
    (hcol : o = .argmax ∨ o = .argmin → y.col = true → s.me.nc.toNat ≤ 64) :
    vector (.red o y) rm none none none none s = .next (s.coreDone (.red o y) rm none none none none fun e k =>
      k.writeElems e y.d (if o = .argmax ∨ o = .argmin then .n32 else y.ty) (s.reduced o y e)) := by
  refine guarded_spec h (fun he => ?_) rfl ?_ fun e k he => writeElems_empty he k _ _ _
  · have hok := fits_ok (e := s.entry (.red o y) rm none none none none) rfl rfl rfl hf he
    obtain ⟨hcap, hregs⟩ := Bool.or_eq_false_iff.1 hok
    rw [hcap, hregs, Bool.or_false, Bool.false_or]
    by_contra hb
    simp only [Bool.not_eq_false, Bool.and_eq_true, decide_eq_true_iff, Bool.or_eq_true, beq_iff_eq] at hb
    obtain ⟨⟨hc, hlt⟩, ho⟩ := hb
    exact absurd (hcol ho hc) (not_le.2 hlt)
  · rw [me_dispatched h.cur, show RedOp.resultTy o y.ty = if o = .argmax ∨ o = .argmin then .n32 else y.ty by cases o <;> rfl]
    rfl

/-! ## Permutations (R273, R274) -/

theorem perm_spec {s : State} {o : PermOp} {y : VTyCF} {b : Option Reg} {f : Nat → Nat → Option Nat} (h : Accepting s)
    (hf : Spec.Fits s y.ty.capacity (if o = .permc then [y.d, y.a, y.c] else [y.d, y.a]))
    (hbad : (s.entry (.perm o y) .frm none b none none).empty = false → permBad o (s.entry (.perm o y) .frm none b none none) y.ty = false)
    (hF : ∀ r c, permElem o s.me (s.entry (.perm o y) .frm none b none none) y r c = f r c) :
    vector (.perm o y) .frm none b none none s = .next (s.coreDone (.perm o y) .frm none b none none fun e k =>
      k.writeElems e y.d y.ty fun r c => (f r c).map fun v => (v, 0)) := by
  refine guarded_spec h (fun he => ?_) rfl ?_ fun e k he => writeElems_empty he k _ _ _
  · obtain ⟨hcap, hregs⟩ := Bool.or_eq_false_iff.1 (fits_ok (e := s.entry (.perm o y) .frm none b none none) rfl rfl rfl hf he)
    rw [hcap, hregs, hbad he]
    rfl
  · rw [me_dispatched h.cur]
    refine congrArg (Core.writeElems _ _ y.d y.ty) (funext fun r => funext fun c => ?_)
    rw [← hF]
    cases o <;> rfl

theorem trans_ok {s : State} {y : VTyCF} (h : s.me.nr.toNat = 0 ∨ s.me.nc.toNat = 0 ∨ (s.me.nc.toNat ≤ rowMax s.me.wide ∧ s.me.nr.toNat ≤ y.ty.capacity))
    (he : (s.entry (.perm .trans y) .frm none none none none).empty = false) :
    permBad .trans (s.entry (.perm .trans y) .frm none none none none) y.ty = false := by
  have hne : ¬ (s.me.nr.toNat = 0 ∨ s.me.nc.toNat = 0) := by simpa [VEntry.empty, State.entry, Core.newEntry] using he
  rcases h with h | h | ⟨hc, hr⟩
  · exact absurd (.inl h) hne
  · exact absurd (.inr h) hne
  · change (decide (rowMax s.me.wide < s.me.nc.toNat) || decide (y.ty.capacity < s.me.nr.toNat)) = false
    rw [decide_eq_false (not_lt.2 hc), decide_eq_false (not_lt.2 hr)]
    rfl

theorem bcast_ok {s : State} {y : VTyCF} {b : Reg}
    (hu : (s.me.x b).toNat % 2 ^ 32 = 0xFFFFFFFF ∨ (s.me.x b).toNat % 2 ^ 32 < rowMax s.me.wide)
    (ht : (s.me.x b).toNat / 2 ^ 32 = 0xFFFFFFFF ∨ (s.me.x b).toNat / 2 ^ 32 < y.ty.capacity) :
    permBad .bcast (s.entry (.perm .bcast y) .frm none (some b) none none) y.ty = false := by
  have hor {u m : Nat} (h : u = 0xFFFFFFFF ∨ u < m) : (u != 0xFFFFFFFF && decide (m ≤ u)) = false := by
    rcases h with rfl | h
    · rfl
    · rw [decide_eq_false (not_le.2 h), Bool.and_false]
  exact Bool.or_eq_false_iff.2 ⟨hor hu, hor ht⟩

theorem reductionAndPermutationResults : Spec.ReductionAndPermutationResults := by
  intro s h nr nc red
  have hred (o : RedOp) (y : RedF) (rm : Rm) (hf : Spec.Fits s y.ty.capacity [y.d, y.a])
      (hcol : o = .argmax ∨ o = .argmin → y.col = true → s.me.nc.toNat ≤ 64) :
      vector (.red o y) rm none none none none s = .next (red o y rm) := red_spec h hf hcol
  have hperm (o : PermOp) (y : VTyCF) (b : Option Reg) (f : Nat → Nat → Option Nat)
      (hf : Spec.Fits s y.ty.capacity (if o = .permc then [y.d, y.a, y.c] else [y.d, y.a]))
      (hbad : (s.entry (.perm o y) .frm none b none none).empty = false → permBad o (s.entry (.perm o y) .frm none b none none) y.ty = false)
      (hF : ∀ r c, permElem o s.me (s.entry (.perm o y) .frm none b none none) y r c = f r c) := perm_spec h hf hbad hF
  have hno {o : RedOp} {y : RedF} (h1 : o ≠ .argmax) (h2 : o ≠ .argmin) : o = .argmax ∨ o = .argmin → y.col = true → s.me.nc.toNat ≤ 64 :=
    fun ho => (ho.elim h1 h2).elim
  refine ⟨fun x hf => hred .sum x x.rm hf (hno (by decide) (by decide)), fun x hf => ?_, ?_⟩
  · intro y
    exact ⟨hred .max y .frm hf (hno (by decide) (by decide)), hred .min y .frm hf (hno (by decide) (by decide)),
      hred .and y .frm hf (hno (by decide) (by decide)), hred .or y .frm hf (hno (by decide) (by decide)),
      fun hc => ⟨hred .argmax y .frm hf fun _ => hc, hred .argmin y .frm hf fun _ => hc⟩⟩
  · intro cols is
    refine ⟨fun x hf => ?_, fun x hf => ?_, fun x hf => hperm .permc x none _ hf (fun _ => rfl) fun r c => rfl⟩
    · intro y a
      exact ⟨hperm .compress y none _ hf (fun _ => rfl) fun r c => rfl, hperm .expand y none _ hf (fun _ => rfl) fun r c => rfl,
        fun hs => hperm .trans y none _ hf (trans_ok hs) fun r c => rfl⟩
    · intro y a n t u
      refine ⟨hperm .slideUp y (some x.b) _ hf (fun _ => rfl) fun r c => ?_, hperm .slideDn y (some x.b) _ hf (fun _ => rfl) fun r c => rfl,
        fun hu ht => hperm .bcast y (some x.b) _ hf (fun _ => bcast_ok hu ht) fun r c => rfl⟩
      exact if_congr (by rw [Bool.and_eq_true, decide_eq_true_iff]; exact Iff.rfl) rfl rfl

/-! ## Special functions (R275 to R278) -/

theorem nat_xor_eq (a b : Nat) : Nat.xor a b = a ^^^ b := rfl

theorem toNat_shiftXor (h : BitVec 32) (j : Nat) : Nat.xor h.toNat (h.toNat >>> j) = (h ^^^ (h >>> j)).toNat := by
  rw [nat_xor_eq, BitVec.toNat_xor, BitVec.toNat_ushiftRight]

theorem toNat_mulConst (h : BitVec 32) (c : Nat) : h.toNat * c % 2 ^ 32 = (h * BitVec.ofNat 32 c).toNat := by
  rw [BitVec.toNat_mul, BitVec.toNat_ofNat, Nat.mul_mod_mod]

theorem toNat_seed {k : Nat} (n c d : Nat) (hk : k < 2 ^ 32) (hc : c < 2 ^ 32) :
    (Nat.xor k c + n * d) % 2 ^ 32 = ((BitVec.ofNat 32 k ^^^ BitVec.ofNat 32 c) + BitVec.ofNat 32 n * BitVec.ofNat 32 d).toNat := by
  rw [nat_xor_eq, BitVec.toNat_add, BitVec.toNat_xor, BitVec.toNat_mul, BitVec.toNat_ofNat, BitVec.toNat_ofNat, BitVec.toNat_ofNat,
    BitVec.toNat_ofNat, Nat.mod_eq_of_lt hk, Nat.mod_eq_of_lt hc, Nat.add_mod_mod]
  exact ((Nat.ModEq.mul (Nat.mod_modEq n _) (Nat.mod_modEq d _)).add_left _).symm

/-- The hash of numbers below 2^32 is that of words of 32 bits. -/
theorem crumb_eq {k : Nat} (n : Nat) (hk : k < 2 ^ 32) : crumb k n =
    (let h0 : BitVec 32 := (BitVec.ofNat 32 k ^^^ 0x2545F491) + BitVec.ofNat 32 n * 0xCF6E15B3
     let h1 := (h0 ^^^ (h0 >>> 15)) * 0x8B3DA5C7
     let h2 := (h1 ^^^ (h1 >>> 13)) * 0xC2A59E31
     (h2 ^^^ (h2 >>> 16)).toNat) := by
  unfold crumb
  dsimp only
  rw [toNat_seed n _ _ hk (by decide), toNat_shiftXor, toNat_mulConst, toNat_shiftXor, toNat_mulConst, toNat_shiftXor]
  rfl

theorem specialFunctionResults : Spec.SpecialFunctionResults := by
  refine ⟨fun s h => ⟨fun x hf => ?_, fun x hf => ?_, fun x hf => ?_⟩, fun mode => ?_⟩
  · intro g
    refine guarded_spec h (fits_ok rfl rfl rfl hf) rfl ?_ fun e k he => by rw [writeElems_empty he, writeElems_empty he]
    rw [me_dispatched h.cur]
    rfl
  · refine elems_spec h hf rfl ?_
    rw [me_dispatched h.cur]
    rfl
  · refine elems_spec h hf rfl ?_
    rw [me_dispatched h.cur]
    refine congrArg (Core.writeElems _ _ x.d .n32) (funext fun r => funext fun c => ?_)
    exact if_congr Iff.rfl (congrArg (fun v => some (v, 0)) (crumb_eq _ (elem_lt _ .n32 _))) rfl
  · intro turn
    cases mode <;> exact ⟨rfl, rfl, rfl, rfl⟩

/-- Settles O34: reductions, permutations, and the special functions with their quarter turns. -/
theorem reductionsAndPermutations : Obligations.ReductionsAndPermutations := ⟨reductionAndPermutationResults, specialFunctionResults⟩

end Sys2Proof.Machine
end

section
/-! PROOF. What accesses leave of the device: all but memory, clocks, caches, translations, pools and the stores on their way. -/
namespace Sys2Proof.Machine

open Sys2Proof

variable {α : Type}

/-! ## The frame of an access -/

/-- A die but for its clock, copies, inbox, translations and pools. -/
def Die.steady (d : Die) : Die := { d with dvc := Clock.reset, guests := [], inbox := [], tlb := [], walk := [], kv := [], pools := [] }

/-- A state but for what accesses change. -/
def State.steady (s : State) : State :=
  { s with
    cores := s.cores.map Core.still, dies := s.dies.map Die.steady, mem := [], stamps := [], writes := [], inflight := [], fills := [],
    l1 := [], badLines := [], badCounters := [], sealTags := [], dirty := [], vague := [], verOwned := [], verTaint := [], fabric := [],
    freeCtr := 0 }

/-- All that accesses leave stands as it did. -/
def Steady (s t : State) : Prop := t.steady = s.steady

theorem steady_frame : Frame Steady where
  refl _ := rfl
  trans h g := Eq.trans g h

theorem Steady.trans {s t u : State} (h : Steady s t) (g : Steady t u) : Steady s u := steady_frame.trans h g

theorem Steady.sameCores {s t : State} (h : Steady s t) : SameCores s t :=
  ⟨(congrArg State.cur h : t.steady.cur = s.steady.cur), (congrArg State.cores h : t.steady.cores = s.steady.cores)⟩

theorem Steady.mxes {s t : State} (h : Steady s t) : t.mxes = s.mxes := (congrArg State.mxes h : t.steady.mxes = s.steady.mxes)

theorem Steady.crusts {s t : State} (h : Steady s t) : t.crusts = s.crusts := (congrArg State.crusts h : t.steady.crusts = s.steady.crusts)

theorem Steady.images {s t : State} (h : Steady s t) : t.images = s.images := (congrArg State.images h : t.steady.images = s.steady.images)

theorem Steady.parked {s t : State} (h : Steady s t) : t.parked = s.parked := (congrArg State.parked h : t.steady.parked = s.steady.parked)

theorem Steady.shares {s t : State} (h : Steady s t) : t.shares = s.shares := (congrArg State.shares h : t.steady.shares = s.steady.shares)

theorem Steady.cycle {s t : State} (h : Steady s t) : t.cycle = s.cycle := (congrArg State.cycle h : t.steady.cycle = s.steady.cycle)

theorem Steady.sbase {s t : State} (h : Steady s t) : t.sbase = s.sbase := (congrArg State.sbase h : t.steady.sbase = s.steady.sbase)

theorem Steady.cur {s t : State} (h : Steady s t) : t.cur = s.cur := h.sameCores.1

theorem Steady.die {s t : State} (h : Steady s t) (d : Nat) : (t.die d).steady = (s.die d).steady := by
  have hm : ∀ u : State, (u.die d).steady = (u.steady.dies[d]?).getD Die.reset := fun u => by
    rw [State.die, List.getD_eq_getElem?_getD, State.steady, List.getElem?_map]
    cases u.dies[d]? <;> rfl
  rw [hm, hm, h]

theorem Steady.dies {s t : State} (h : Steady s t) : t.dies.length = s.dies.length := by
  have h := congrArg (fun u : State => u.dies.length) h
  simpa [State.steady] using h

theorem steady_of_calm {s t : State} (h : t.calm = s.calm) : Steady s t := by
  have hm : ∀ u : State, u.steady = u.calm.steady := fun u => by
    simp only [State.calm, State.steady, State.bare, List.map_map]
    rfl
  exact (hm t).trans ((congrArg State.steady h).trans (hm s).symm)

theorem steady_updCore {f : Core → Core} (hf : ∀ k, (f k).still = k.still) (s : State) (c : Nat) : Steady s (s.updCore c f) := by
  unfold Steady State.steady
  rw [State.updCore, map_modifyNth hf]

theorem steady_updDie {f : Die → Die} (hf : ∀ d, (f d).steady = d.steady) (s : State) (d : Nat) : Steady s (s.updDie d f) := by
  unfold Steady State.steady
  rw [State.updDie, map_modifyNth hf]

theorem steady_foldl {f : State → α → State} (hf : ∀ s a, Steady s (f s a)) (l : List α) (s : State) : Steady s (l.foldl f s) :=
  keeps_foldl steady_frame hf l s

/-! ## Operations on the state -/

theorem steady_perform (s : State) (c key : Option Nat) (loc : Nat) (bs : List Byte) : Steady s (s.perform c key loc bs) :=
  steady_of_calm (calm_perform s c key loc bs)

theorem steady_flushSb (s : State) (c : Nat) : Steady s (s.flushSb c) :=
  Steady.trans (t := s.emptied c) (steady_updCore (f := fun k => { k with sb := k.sb.drop (s.leaving c).length }) (fun _ => rfl) s c)
    (steady_of_calm (calm_flushSb s c))

theorem steady_flushOver (s : State) (c loc n : Nat) : Steady s (s.flushOver c loc n) := by
  unfold State.flushOver; split
  · exact steady_flushSb s c
  · exact steady_frame.refl s

theorem steady_settleStores (s : State) (ls : List Nat) : Steady s (s.settleStores ls) :=
  steady_foldl (fun s c => by split <;> [exact steady_flushSb s c; exact steady_frame.refl s]) _ s

theorem steady_moveStores (s : State) (f : Nat → Nat) : Steady s (s.moveStores f) := by
  unfold Steady State.steady State.moveStores
  rw [List.map_map]
  rfl

theorem steady_noteDirty (s : State) (loc : Nat) : Steady s (s.noteDirty loc) := by
  unfold State.noteDirty; split <;> rfl

theorem steady_setBytes (s : State) (loc : Nat) (bs : List Byte) : Steady s (s.setBytes loc bs) := by
  unfold Steady
  rw [setBytes_eq]; rfl

theorem steady_placeBytes (s : State) (key : Option Nat) (loc : Nat) (bs : List Byte) : Steady s (s.placeBytes key loc bs) :=
  steady_of_calm (calm_placeBytes s key loc bs)

theorem steady_putLineOrError (s : State) (loc : Nat) (v : Option (List Byte)) : Steady s (s.putLineOrError loc v) := by
  cases v with
  | none => rfl
  | some bs => exact steady_placeBytes s none loc bs

theorem steady_layRecord (s : State) (pdb : Pdb) (j : Nat) (p : Span) (slots : List (Option (List Byte))) :
    Steady s (s.layRecord pdb j p slots) := by
  have hrec : Steady s ((s.noteDirty (spanAddr pdb j)).setBytes (spanAddr pdb j) (p.bytes (s.num (spanAddr pdb j + 16) 8))) :=
    (steady_noteDirty s _).trans (steady_setBytes _ _ _)
  have hslots := steady_foldl (fun s (q : Option (List Byte) × Nat) => steady_putLineOrError s (p.chunk + 64 * q.2) q.1)
    slots.zipIdx ((s.noteDirty (spanAddr pdb j)).setBytes (spanAddr pdb j) (p.bytes (s.num (spanAddr pdb j + 16) 8)))
  have hfree : ∀ (ks : List Nat) (u : State), Steady u (ks.foldl (fun s k => s.makeVague (p.chunk / 64 + k) s.freeCtr) u) :=
    fun ks u => steady_foldl (f := fun s k => s.makeVague (p.chunk / 64 + k) s.freeCtr) (fun _ _ => rfl) ks u
  exact hrec.trans (hslots.trans ((hfree _ _).trans rfl))

theorem steady_shootDown (s : State) (pdb : Pdb) (js : List Nat) : Steady s (s.shootDown pdb js) := by
  unfold Steady State.steady State.shootDown
  simp only [List.map_map]
  rfl

theorem steady_dropCopies (s : State) (ls : List Nat) : Steady s
    { s with dies := s.dies.map fun d => { d with guests := d.guests.filter fun g => !ls.contains g.line }
             fills := s.fills.filter fun f => !ls.contains f.line
             l1 := s.l1.filter fun p => !ls.contains p.2 } := by
  unfold Steady State.steady
  simp only [List.map_map]
  rfl

theorem steady_sideEvent (s : State) (core : Nat) (pdb : Pdb) (js ls : List Nat) : Steady s (s.sideEvent core pdb js ls) := by
  have hstamps : ∀ (ck : Clock) (u : State), Steady u (ls.foldl (fun s l => s.setStamp l ((s.stampOf l).join ck)) u) :=
    fun ck u => steady_foldl (f := fun s l => s.setStamp l ((s.stampOf l).join ck)) (fun _ _ => rfl) ls u
  unfold State.sideEvent
  dsimp only
  refine (steady_shootDown s pdb js).trans ?_
  refine (steady_of_calm (calm_catchUpTo (s.shootDown pdb js) ((s.shootDown pdb js).carried (some core)) (glazeDie pdb))).trans ?_
  refine (steady_of_calm (calm_stampAt _ (some core) (glazeDie pdb) (pdb.addr / 64) pdb.addr [])).trans ?_
  exact (steady_dropCopies _ ls).trans (hstamps _ _)

theorem steady_putSpan (s : State) (core : Nat) (pdb : Pdb) (j : Nat) (p : Span) (slots : List (Option (List Byte))) :
    Steady s (s.putSpan core pdb j p slots) := (steady_layRecord s pdb j p slots).trans (steady_sideEvent _ _ _ _ _)

theorem steady_setPool (s : State) (d : Nat) (asid : BitVec 16) (code : Nat) (cs : Die → List Nat) :
    Steady s (s.updDie d fun k => k.setPool asid code (cs k)) := steady_updDie (f := fun k => k.setPool asid code (cs k)) (fun _ => rfl) s d

theorem steady_takeChunk {s t : State} {d : Nat} {asid : BitVec 16} {code c : Nat} (h : s.takeChunk d asid code = some (c, t)) : Steady s t := by
  unfold State.takeChunk at h
  split at h
  · cases h
  · cases h; exact steady_setPool s d asid code _

theorem steady_freeChunk (s : State) (d : Nat) (asid : BitVec 16) (code c : Nat) : Steady s (s.freeChunk d asid code c) :=
  steady_setPool s d asid code _

theorem steady_insertLine {s t : State} {x : Ctx} {pdb : Pdb} {j i : Nat} {spec : Bool} {initial : Option (List Byte)} {va : Nat}
    (h : s.insertLine x pdb j i spec initial va = .ok t) : Steady s t := by
  unfold State.insertLine at h
  dsimp only at h
  refine (steady_settleStores s (chunkLines (s.span pdb j).chunk (s.span pdb j).used)).trans ?_
  generalize s.settleStores (chunkLines (s.span pdb j).chunk (s.span pdb j).used) = u at h ⊢
  split at h
  · cases h
  next r q hg =>
    cases h
    have hr : Steady u r := by
      split at hg
      · cases hg; rfl
      · split at hg
        · cases hg
        · split at hg
          · cases hg
          next htake =>
            cases hg
            refine (steady_takeChunk htake).trans ?_
            split
            · rfl
            · exact steady_freeChunk _ _ _ _ _
    exact hr.trans ((steady_moveStores _ _).trans (steady_putSpan _ _ _ _ _ _))

theorem steady_routeGlaze {s t : State} {x : Ctx} {p : Page} {pdb : Pdb} {va eva line : Nat} (h : s.routeGlaze x p pdb va eva = .ok (t, line)) :
    Steady s t := by
  unfold State.routeGlaze at h
  dsimp only at h
  split at h
  · cases h
  · split at h
    · cases h; rfl
    · split at h
      · cases h
      next hi => cases h; exact steady_insertLine hi

theorem steady_ackFabric (s : State) (c : Nat) (test : Nat → Bool) : Steady s (s.ackFabric c test) := rfl

/-! ## Computations -/

theorem steady_pure (a : α) : Keeps Steady (pure a : M α) := keeps_pure steady_frame a

theorem steady_raise (t : Trap) : Keeps Steady (raise t : M α) := keeps_raise steady_frame t

theorem steady_get : Keeps Steady (get : M State) := keeps_get steady_frame

theorem steady_getMe : Keeps Steady getMe := keeps_getMe steady_frame

theorem steady_myNumber : Keeps Steady myNumber := keeps_myNumber steady_frame

theorem steady_await : Keeps Steady (await : M α) := keeps_await steady_frame

theorem steady_bind {β : Type} {m : M α} {f : α → M β} (hm : Keeps Steady m) (hf : ∀ a, Keeps Steady (f a)) : Keeps Steady (m >>= f) :=
  keeps_bind steady_frame hm hf

theorem steady_ite {c : Prop} [Decidable c] {a b : M α} (ha : Keeps Steady a) (hb : Keeps Steady b) : Keeps Steady (if c then a else b) :=
  keeps_ite ha hb

theorem steady_modify {f : State → State} (h : ∀ s, Steady s (f s)) : Keeps Steady (modify f : M PUnit) := keeps_modify h

theorem steady_set_bind {f : PUnit → M α} {s t : State} (h : Steady s t) (hf : Keeps Steady (f ⟨⟩)) : KeepsAt Steady (set t >>= f) s :=
  keepsAt_set_bind steady_frame h hf

theorem steady_forM {f : α → M PUnit} (l : List α) (hf : ∀ a, Keeps Steady (f a)) : Keeps Steady (l.forM f) := keeps_forM steady_frame l hf

theorem steady_drawChoice (k : Nat) : Keeps Steady (drawChoice k) := fun _ => rfl

theorem steady_drawSeed : Keeps Steady drawSeed := fun _ => rfl

theorem steady_lostRead (c va loc : Nat) : Keeps Steady (lostRead c va loc) := by
  unfold lostRead
  refine keeps_get_bind fun s => ?_
  split
  · exact steady_set_bind rfl (steady_raise _)
  · exact steady_pure () s

theorem steady_walkLost (x : Ctx) (va : Nat) : Keeps Steady (walkLost x va) := by
  unfold walkLost
  refine keeps_get_bind fun s => ?_
  split
  · exact steady_pure () s
  · split
    · exact steady_lostRead _ _ _ s
    · exact steady_pure () s

theorem steady_holdPage (s : State) (x : Ctx) (acc : Acc) (va : Nat) (p : Page) : Steady s (s.holdPage x acc va p) := by
  unfold State.holdPage
  dsimp only
  refine steady_updDie ?_ _ _
  exact fun _ => rfl

theorem steady_translate (x : Ctx) (acc : Acc) (va : Nat) : Keeps Steady (translate x acc va) := by
  unfold translate
  refine steady_bind (steady_walkLost x va) fun _ => steady_bind steady_get fun s => ?_
  have hend : ∀ o : Except Trap Page, Keeps Steady (match o with
      | .error t => raise t
      | .ok p => do
        modify fun s => s.holdPage x acc va p
        return p : M Page) := by
    intro o
    cases o with
    | error t => exact steady_raise t
    | ok p => exact steady_bind (steady_modify fun s => steady_holdPage s x acc va p) fun _ => steady_pure p
  dsimp only
  split
  · exact steady_raise _
  · exact steady_ite (steady_bind (steady_pure _) hend) (steady_bind (steady_drawChoice _) fun _ => steady_bind (steady_pure _) hend)

theorem steady_place (x : Ctx) (acc : Acc) (va : Nat) : Keeps Steady (place x acc va) := by
  unfold place
  refine steady_ite (steady_raise _) (steady_ite (steady_ite (steady_raise _) ?_) ?_)
  · split
    · exact steady_raise _
    · exact steady_pure _
  · exact steady_bind (steady_translate x acc va) fun _ => steady_pure _

theorem steady_readHome (c : Nat) (key : Option Nat) (va loc n : Nat) : Keeps Steady (readHome c key va loc n) := by
  unfold readHome
  refine steady_bind (steady_lostRead c va loc) fun _ => keeps_get_bind fun s => ?_
  split
  · exact steady_raise _ s
  · exact steady_set_bind (steady_updCore (f := fun k => { k with ck := k.ck.join (s.stampOf (loc / 64)) }) (fun _ => rfl) s c) (steady_pure _)

theorem steady_readIn (x : Ctx) (q : Place) (va : Nat) : Keeps Steady (readIn x q va) := by
  unfold readIn
  refine steady_bind steady_get fun s => ?_
  split
  · exact steady_pure _
  · exact steady_ite (steady_raise _) (steady_pure _)

theorem steady_vecRead (x : Ctx) (q : Place) (va n : Nat) : Keeps Steady (vecRead x q va n) := by
  unfold vecRead
  refine steady_bind (steady_readIn x q va) fun t => steady_bind (steady_modify fun s => ?_) fun _ => steady_readHome _ _ _ _ _
  split
  · exact (steady_flushOver s x.core t.loc n).trans rfl
  · rfl

theorem steady_writeTarget (x : Ctx) (q : Place) (va eva : Nat) : Keeps Steady (writeTarget x q va eva) := by
  unfold writeTarget
  refine keeps_get_bind fun s => ?_
  split
  · split
    · exact steady_raise _ s
    · exact steady_pure _ s
  · split
    · exact steady_raise _ s
    · split
      · exact steady_raise _ s
      next hr => exact steady_set_bind (steady_routeGlaze hr) (steady_pure _)
    · split
      · exact steady_raise _ s
      · exact steady_pure _ s

theorem steady_oldGlaze (x : Ctx) (q : Place) (va n : Nat) : Keeps Steady (oldGlaze x q va n) := by
  unfold oldGlaze
  split
  · exact steady_pure _
  · split
    · refine steady_bind steady_get fun s => ?_
      split
      · exact steady_raise _
      · exact steady_bind (steady_modify fun s => steady_flushOver s _ _ _) fun _ => steady_bind steady_get fun _ =>
          steady_bind (steady_readHome _ _ _ _ _) fun _ => steady_pure _
    · exact steady_pure _

theorem steady_atomicAt (x : Ctx) (q : Place) (va n : Nat) (f : Nat → Option Nat) : Keeps Steady (atomicAt x q va n f) := by
  unfold atomicAt
  refine steady_bind (steady_oldGlaze x q va n) fun old => ?_
  split
  · exact steady_pure _
  · refine steady_bind (steady_writeTarget x q va va) fun t => steady_bind (steady_modify fun s => steady_flushOver s _ _ _) fun _ =>
      steady_bind (steady_readHome _ _ _ _ _) fun bs => ?_
    dsimp only
    split
    · exact steady_pure _
    · exact steady_bind (steady_modify fun s => (steady_perform s _ _ _ _).trans (steady_ackFabric _ _ _)) fun _ => steady_pure _

theorem steady_tryTrap {m : M α} (h : Keeps Steady m) : Keeps Steady (tryTrap m) := keeps_tryTrap steady_frame h

theorem steady_rowMap (x : Ctx) (acc : Acc) (vas : List Nat) (m : RowMap) : Keeps Steady (rowMap x acc vas m) := by
  induction vas generalizing m with
  | nil => exact steady_pure m
  | cons va rest ih =>
    unfold rowMap
    split
    · exact ih m
    · refine steady_bind (steady_tryTrap (steady_place x acc va)) fun o => ?_
      split
      · exact ih _
      · exact ih _

theorem steady_rowPlace (x : Ctx) (acc : Acc) (m : RowMap) (va : Nat) : Keeps Steady (rowPlace x acc m va) := by
  unfold rowPlace
  split
  · exact steady_pure _
  · exact steady_pure _
  · exact steady_raise _
  · exact steady_place x acc va

theorem steady_findParts {find : Nat → M Place} (hf : ∀ va, Keeps Steady (find va)) (l : List (Nat × List Byte)) :
    Keeps Steady (findParts find l) := by
  induction l with
  | nil => exact steady_pure []
  | cons p rest ih => exact steady_bind (hf _) fun _ => steady_bind ih fun _ => steady_pure _

theorem steady_partsOf (x : Ctx) (acc : Acc) (va n : Nat) : Keeps Steady (partsOf x acc va n) :=
  steady_bind (steady_rowMap x acc _ []) fun m => steady_findParts (steady_rowPlace x acc m) _

theorem steady_readParts (x : Ctx) (ps : List Part) : Keeps Steady (readParts x ps) := by
  induction ps with
  | nil => exact steady_pure []
  | cons p rest ih => exact steady_bind (steady_vecRead x _ _ _) fun _ => steady_bind ih fun _ => steady_pure _

/-! ## Ranges of memory -/

theorem steady_checkRange (x : Ctx) (acc : Acc) (m : RowMap) (va n : Nat) : Keeps Steady (checkRange x acc m va n) :=
  steady_bind (steady_rowMap x acc _ m) fun m => steady_bind (steady_forM _ fun a =>
    steady_bind (steady_rowPlace x acc m a) fun _ => steady_pure _) fun _ => steady_bind steady_get fun _ => steady_pure _

theorem steady_rangePlace (g : Range) (x : Ctx) (acc : Acc) (va : Nat) : Keeps Steady (g.place x acc va) := by
  unfold Range.place
  refine steady_bind (steady_rowPlace x acc _ va) fun q => ?_
  split
  · exact steady_pure _
  · exact steady_bind steady_get fun _ => steady_pure _

theorem steady_rangeRead (g : Range) (x : Ctx) (acc : Acc) (va n : Nat) : Keeps Steady (g.read x acc va n) :=
  steady_bind (steady_findParts (steady_rangePlace g x acc) _) fun ps => steady_readParts x ps

theorem steady_rangeWrite (g : Range) (x : Ctx) (va : Nat) (bs : List Byte) : Keeps Steady (g.write x va bs) :=
  steady_forM _ fun p => steady_bind (steady_rangePlace g x .write p.1) fun q => steady_bind (steady_writeTarget x q p.1 p.1) fun _ =>
    steady_modify fun s => steady_perform s _ _ _ _

theorem steady_of_answers {m : M α} (hm : Keeps Steady m) {s t : State} {a : α} (h : Answers m s a t) : Steady s t := by
  have := hm s
  unfold KeepsAt at this
  rw [h] at this
  exact this

theorem steady_of_run {m : M α} (hm : Keeps Steady m) {s t : State} {r : Except Halt α} (h : runM m s = (r, t)) : Steady s t := by
  have := hm s
  unfold KeepsAt at this
  rw [h] at this
  exact this

end Sys2Proof.Machine
end

section
/-! PROOF. Queue images (R381, R384): a save whose write stops at a fault has drawn a number of its own. -/
namespace Sys2Proof.Machine

open Sys2Proof

/-- A registered barrier in the cluster memory of cluster 0. -/
def guarding : Barrier :=
  { index := 1, line := 2 ^ 53 / 64, key := none, count := 1, arrived := 0, phase := 0, killed := false, waiters := [], clock := Clock.reset, cur := Clock.reset }

/-- A handler with no TVEC that holds entries of its task, x1 naming the start of cluster memory. -/
def holding : Core :=
  { Core.reset with
    sup := (Vector.replicate 32 0).set 1 0x01F1000000000000, ia := 1, sstat := { Sstat.reset with held := true, mode := true },
    run := some { task := recOf [] 0 0 Clock.reset, strip := none } }

/-- A device whose core 0 holds entries, with a barrier on the first line of cluster memory. -/
def barrierAtImage : State :=
  { State.reset with
    cores := holding :: List.replicate 159 Core.reset, dies := { Die.reset with bars := [guarding] } :: List.replicate 3 Die.reset }

/-- The range of the image, in cluster memory. -/
def imageRange : Range :=
  { map := [(0x01F1000000000000 / 4096, .ok (.pad (2 ^ 53)))], seen := barrierAtImage }

/-- The instruction that saves the image. -/
def imageSave : R2T2 := { d := 0, a := 1 }

theorem saving_barrierAtImage : Spec.Saving barrierAtImage imageSave where
  ready := ⟨by decide +kernel, by decide +kernel, by decide +kernel⟩
  quiet := ⟨by decide +kernel, by decide +kernel⟩
  mode := by decide +kernel

theorem range_barrierAtImage : Answers (checkRange ((barrierAtImage.me).ctx barrierAtImage.cur) .write [] 0x01F1000000000000 2112)
    (barrierAtImage.flushSb barrierAtImage.cur) imageRange barrierAtImage := by
  rw [show barrierAtImage.flushSb barrierAtImage.cur = barrierAtImage by decide +kernel]
  rfl

/-- The write of the image stops at the barrier. -/
theorem write_barrierAtImage : Traps (imageRange.write (barrierAtImage.me.ctx barrierAtImage.cur) 0x01F1000000000000
      (imageOf barrierAtImage.freeCtr barrierAtImage.me.held barrierAtImage.me.vstart))
    { barrierAtImage with freeCtr := barrierAtImage.freeCtr + 1 } (faultOf 22 0x01F1000000000000 1)
    { barrierAtImage with freeCtr := barrierAtImage.freeCtr + 1 } := by
  unfold Traps
  decide +kernel

/-- How many numbers of its own a device has drawn after an instruction. -/
def drawn : Host.Outcome State Fault Refusal → Nat
  | .next t => t.freeCtr
  | _ => 0

theorem drawn_imageSave : drawn (exec (.vqsave imageSave) barrierAtImage) ≠
    drawn (.next (barrierAtImage.after (trapEntry (some (faultOf 22 0x01F1000000000000 1)) barrierAtImage.me.ia))) := by
  decide +kernel

/-- Refutes O21: a VQSAVE whose image meets a registered barrier traps after it has drawn the number of the image. -/
theorem not_queueAndContextStatus : ¬ Obligations.QueueAndContextStatus := by
  rintro ⟨h, -⟩
  obtain ⟨-, hw, -⟩ := h barrierAtImage barrierAtImage imageRange imageSave saving_barrierAtImage
  obtain ⟨-, hs⟩ := hw (by decide +kernel) range_barrierAtImage
  obtain ⟨-, ht⟩ := hs { barrierAtImage with freeCtr := barrierAtImage.freeCtr + 1 } (by decide +kernel)
  exact drawn_imageSave (congrArg drawn (ht _ write_barrierAtImage))

end Sys2Proof.Machine
end

section
/-! PROOF. What releases, device writes and completion words leave of the device (R309, R341, R353). -/
namespace Sys2Proof.Machine

open Sys2Proof

variable {α : Type}

/-! ## The frame of a release -/

/-- A state but for what accesses, releases and the end of a task's matrix state change. -/
def State.settled (s : State) : State := { s.steady with crusts := [], mxes := [], counters := [], joinCks := [] }

/-- All that accesses and releases leave stands as it did. -/
def Settled (s t : State) : Prop := t.settled = s.settled

theorem settled_frame : Frame Settled where
  refl _ := rfl
  trans h g := Eq.trans g h

theorem Settled.trans {s t u : State} (h : Settled s t) (g : Settled t u) : Settled s u := settled_frame.trans h g

theorem Steady.settled {s t : State} (h : Steady s t) : Settled s t :=
  congrArg (fun u : State => ({ u with crusts := [], mxes := [], counters := [], joinCks := [] } : State)) h

theorem Settled.sameCores {s t : State} (h : Settled s t) : SameCores s t :=
  ⟨(congrArg State.cur h : t.settled.cur = s.settled.cur), (congrArg State.cores h : t.settled.cores = s.settled.cores)⟩

theorem Settled.shares {s t : State} (h : Settled s t) : t.shares = s.shares := (congrArg State.shares h : t.settled.shares = s.settled.shares)

theorem Settled.sbase {s t : State} (h : Settled s t) : t.sbase = s.sbase := (congrArg State.sbase h : t.settled.sbase = s.settled.sbase)

theorem Settled.cur {s t : State} (h : Settled s t) : t.cur = s.cur := h.sameCores.1

theorem Settled.me {s t : State} (h : Settled s t) : t.me.still = s.me.still := h.sameCores.me

theorem Settled.die {s t : State} (h : Settled s t) (d : Nat) : (t.die d).steady = (s.die d).steady := by
  have hm : ∀ u : State, (u.die d).steady = (u.settled.dies[d]?).getD Die.reset := fun u => by
    rw [State.die, List.getD_eq_getElem?_getD, State.settled, State.steady, List.getElem?_map]
    cases u.dies[d]? <;> rfl
  rw [hm, hm, h]

theorem Settled.dies {s t : State} (h : Settled s t) : t.dies.length = s.dies.length := by
  have h := congrArg (fun u : State => u.dies.length) h
  simpa [State.settled, State.steady] using h

theorem Settled.inject {s t : State} (h : Settled s t) (d : Nat) : (t.die d).inject = (s.die d).inject :=
  (congrArg Die.inject (h.die d) : (t.die d).steady.inject = (s.die d).steady.inject)

theorem Settled.loops {s t : State} (h : Settled s t) (d : Nat) : (t.die d).loops = (s.die d).loops :=
  (congrArg Die.loops (h.die d) : (t.die d).steady.loops = (s.die d).steady.loops)

theorem Settled.bound {s t : State} (h : Settled s t) (d : Nat) : (t.die d).bound = (s.die d).bound :=
  (congrArg Die.bound (h.die d) : (t.die d).steady.bound = (s.die d).steady.bound)

theorem Settled.launch {s t : State} (h : Settled s t) : t.me.launch = s.me.launch := (congrArg Core.launch h.me : t.me.still.launch = _)

theorem Settled.run {s t : State} (h : Settled s t) : t.me.run = s.me.run := (congrArg Core.run h.me : t.me.still.run = _)

theorem Settled.reclaim {s t : State} (h : Settled s t) : t.me.reclaim = s.me.reclaim := (congrArg Core.reclaim h.me : t.me.still.reclaim = _)

theorem Settled.deque {s t : State} (h : Settled s t) : t.me.deque = s.me.deque := (congrArg Core.deque h.me : t.me.still.deque = _)

theorem taskCtx_congr {s t : State} {c : Nat} (hc : (t.core c).still = (s.core c).still) (hs : t.shares = s.shares) :
    t.taskCtx c = s.taskCtx c := by
  have hctx : (t.core c).ctx c = (s.core c).ctx c := (congrArg (fun k : Core => k.ctx c) hc : (t.core c).still.ctx c = (s.core c).still.ctx c)
  unfold State.taskCtx State.shareOf
  rw [hctx, hs]

theorem Settled.taskCtx {s t : State} (h : Settled s t) (c : Nat) : t.taskCtx c = s.taskCtx c :=
  taskCtx_congr (h.sameCores.core c) h.shares

/-! ## Operations -/

theorem settled_foldl {f : State → α → State} (hf : ∀ s a, Settled s (f s a)) (l : List α) (s : State) : Settled s (l.foldl f s) :=
  keeps_foldl settled_frame hf l s

theorem settled_updCore {f : Core → Core} (hf : ∀ k, (f k).still = k.still) (s : State) (c : Nat) : Settled s (s.updCore c f) :=
  (steady_updCore hf s c).settled

theorem settled_drainInbox (s : State) (d : Nat) : Settled s (s.drainInbox d) := (steady_of_calm (calm_drainInbox s d)).settled

theorem settled_performAt (s : State) (c key : Option Nat) (loc : Nat) (bs : List Byte) : Settled s (s.performAt c key loc bs) :=
  (steady_of_calm (calm_performAt s c key loc bs)).settled

theorem settled_commitOne (s : State) (c : Nat) : Settled s (s.commitOne c) := by
  unfold State.commitOne; split
  · exact settled_frame.refl s
  · next e _ =>
    dsimp only; split
    · exact settled_frame.refl s
    · exact settled_updCore (f := fun k => { k with sb := k.sb.map fun x => if x.seq = e.seq then { x with committed := true } else x })
        (fun _ => rfl) s c

theorem settled_commitAll (s : State) (c : Nat) : Settled s (s.commitAll c) := settled_foldl (fun s _ => settled_commitOne s c) _ s

theorem settled_performClock (s : State) (ck : Clock) (c key : Option Nat) (loc : Nat) (bs : List Byte) :
    Settled s (s.performClock ck c key loc bs) := by
  unfold State.performClock; split
  · exact settled_performAt s c key loc bs
  · exact (steady_of_calm ((calm_performAt _ _ _ _ _).trans (calm_catchUpTo _ _ _))).settled

theorem settled_writeBack (s : State) (line : Nat) : Settled s (s.writeBack line) := by
  unfold State.writeBack; split <;> rfl

theorem settled_lockLines (s : State) (ls : List Nat) : Settled s (s.lockLines ls) :=
  (settled_foldl (fun s l => settled_writeBack s l) ls s).trans rfl

theorem settled_joinCk (s : State) (c : Nat) (ck : Clock) : Settled s (s.joinCk c ck) :=
  settled_updCore (f := fun k => { k with ck := k.ck.join ck }) (fun _ => rfl) s c

theorem settled_deferFail (s : State) (c : Option Nat) : Settled s (s.deferFail c) := by
  cases c with
  | none => exact settled_frame.refl s
  | some c => exact settled_updCore (f := fun k => { k with deferred := k.deferred + 1 }) (fun _ => rfl) s c

theorem settled_unlockItem (s : State) (o : ItemOp) : Settled s (s.unlockItem o) := by
  have hd : (o.lines.2.foldl State.forgetDirty s).dies = s.dies :=
    keeps_foldl (R := fun s t => t.dies = s.dies) ⟨fun _ => rfl, fun h g => g.trans h⟩ (f := State.forgetDirty) (fun _ _ => rfl) o.lines.2 s
  refine (settled_foldl (f := State.forgetDirty) (fun _ _ => rfl) o.lines.2 s).trans ?_
  unfold Settled State.settled State.steady State.unlockItem
  rw [hd]
  simp only [List.map_map]
  rfl

theorem settled_performItem (s : State) (i : Item) : Settled s (s.performItem i) := by
  unfold State.performItem; split
  · exact settled_deferFail s _
  · refine (settled_lockLines s (i.op.lines.1 ++ i.op.lines.2)).trans ?_
    refine (settled_foldl (fun s l => settled_joinCk s i.core (s.stampOf l)) i.op.lines.1 _).trans ?_
    exact (settled_foldl (fun s (p : Nat × List Byte) => settled_performClock s i.clock (some i.core) none p.1 p.2) _ _).trans
      (settled_unlockItem _ _)

theorem settled_crustStepOf (s : State) (k core : Nat) : Settled s (s.crustStepOf k core) := by
  unfold State.crustStepOf; split
  · exact settled_frame.refl s
  · next i _ =>
    have hp : Settled s ((s.updCrust k fun c => { c with queue := dropFirst core c.queue }).performItem i) :=
      Settled.trans rfl (settled_performItem _ i)
    dsimp only; split
    · exact hp.trans (settled_drainInbox _ _)
    · exact hp

theorem settled_crustDrain (s : State) (core : Nat) (test : Item → Bool) : Settled s (s.crustDrain core test) :=
  settled_foldl (fun s k => settled_foldl (fun s _ => settled_crustStepOf s k core) _ s) _ s

theorem settled_ackFabric (s : State) (c : Nat) (test : Nat → Bool) : Settled s (s.ackFabric c test) := rfl

theorem settled_crustRel (s : State) (core : Nat) : Settled s (s.crustRel core) := settled_crustDrain s core _

theorem settled_flushed (s : State) : Settled s ((s.flushSb s.cur).crustRel s.cur) :=
  (steady_flushSb s s.cur).settled.trans (settled_crustRel _ _)

theorem settled_released (s : State) (scope : Scope) : Settled s (Spec.released s scope) := by
  cases scope with
  | core =>
    change Settled s ((s.commitAll s.cur).crustRel s.cur)
    exact (settled_commitAll s s.cur).trans (settled_crustRel _ _)
  | system =>
    change Settled s (((s.flushSb s.cur).crustRel s.cur).ackFabric s.cur fun _ => true)
    exact (settled_flushed s).trans (settled_ackFabric _ _ _)
  | cluster => exact settled_flushed s
  | die => exact settled_flushed s
  | device => exact settled_flushed s

theorem settled_ended (s : State) : Settled s (Spec.ended s) :=
  ((steady_flushSb s s.cur).settled.trans (settled_crustDrain (s.flushSb s.cur) s.cur fun _ => true)).trans
    (settled_ackFabric _ _ _)

theorem settled_publish (s : State) (key : Option Nat) (loc : Nat) (bs : List Byte) : Settled s (s.publish key loc bs) := by
  unfold State.publish
  split
  · exact Settled.trans rfl (settled_performAt s.ackEnded none key loc bs)
  · exact (settled_drainInbox s _).trans (settled_performAt _ _ _ _ _)

theorem settled_releaseMxe (s : State) (c : Nat) : Settled s (s.releaseMxe c) := rfl

theorem settled_noteJoin (s : State) (c loc : Nat) : Settled s (s.noteJoin c loc) := by
  unfold State.noteJoin; split <;> rfl

/-! ## Computations -/

theorem keeps_settled {m : M α} (h : Keeps Steady m) : Keeps Settled m := fun s => Steady.settled (h s)

theorem settled_of_run {m : M α} (hm : Keeps Settled m) {s t : State} {r : Except Halt α} (h : runM m s = (r, t)) : Settled s t := by
  have := hm s
  unfold KeepsAt at this
  rw [h] at this
  exact this

theorem settled_deviceUpdate (x : Ctx) (va : Nat) (f : Nat → Nat) : Keeps Settled (deviceUpdate x va f) := by
  unfold deviceUpdate
  refine keeps_bind settled_frame (keeps_tryTrap settled_frame (keeps_ite (keeps_raise settled_frame _) ?_)) fun r => ?_
  · refine keeps_bind settled_frame (keeps_settled (steady_place x .write va)) fun q => keeps_bind settled_frame
      (keeps_settled (steady_writeTarget x q va va)) fun t => keeps_get_bind fun s => ?_
    split
    · exact keeps_raise settled_frame _ s
    · exact keepsAt_set_bind settled_frame (settled_publish s _ _ _) (keeps_pure settled_frame _)
  · split <;> exact keeps_pure settled_frame _

theorem steady_deviceRead (x : Ctx) (va n : Nat) : Keeps Steady (deviceRead x va n) := by
  unfold deviceRead
  refine steady_bind (steady_tryTrap ?_) fun r => ?_
  · refine steady_bind (steady_bind (steady_place x .read va) fun q => steady_readIn x q va) fun t => steady_bind steady_get fun s => ?_
    split
    · exact steady_raise _
    · exact steady_pure _
  · split <;> exact steady_pure _

theorem settled_endStep2 (cause : Option Nat) (n : Nat) : Keeps Settled (endStep2 cause n) := by
  unfold endStep2
  refine keeps_bind settled_frame (keeps_myNumber settled_frame) fun c => keeps_bind settled_frame
    (keeps_modify fun s => settled_releaseMxe s c) fun _ => keeps_bind settled_frame (keeps_get settled_frame) fun s => ?_
  dsimp only
  exact keeps_bind settled_frame (settled_deviceUpdate _ _ _) fun _ => keeps_pure settled_frame _

theorem steady_checkJb : Keeps Steady checkJb := by
  unfold checkJb
  refine steady_bind steady_get fun s => ?_
  split
  · exact steady_pure _
  · exact steady_ite (steady_pure _) (steady_ite (steady_raise _) (steady_bind (steady_place _ _ _) fun _ => steady_pure _))

theorem steady_readFrame (fp : Word) : Keeps Steady (readFrame fp) := by
  unfold readFrame
  refine steady_ite (steady_raise _) (steady_bind steady_get fun s => steady_bind steady_myNumber fun c => steady_bind ?_ fun _ => steady_pure _)
  exact steady_bind (steady_partsOf _ _ _ _) fun ps => steady_readParts _ ps

end Sys2Proof.Machine
end

section
/-! PROOF. The start of tasks (R11, R351, R352, R355). -/
namespace Sys2Proof.Machine

open Sys2Proof

/-! ## The state in which a task begins (R11) -/

section

variable (k : Core) (no seed cycle ceil : Nat) (levels : Word) (r : Rec)

theorem task_start (strip : Option (Nat × Int × Nat)) :
    (k.start no seed cycle ceil levels r strip).task[3] = r.fp ∧ (k.start no seed cycle ceil levels r strip).task[4] = r.addr := by
  cases strip <;> simp [Core.start]

theorem task_start_strip (n : Nat) (f : Int) (c : Nat) :
    (k.start no seed cycle ceil levels r (some (n, f, c))).task[5] = BitVec.ofInt 64 f ∧
      (k.start no seed cycle ceil levels r (some (n, f, c))).task[6] = BitVec.ofNat 64 c := by
  simp [Core.start, word]

end

theorem taskStartState : Spec.TaskStartState := by
  intro k no seed cycle ceil levels r strip t
  refine ⟨?_, ?_, ?_, rfl, rfl, rfl, rfl, rfl, rfl, rfl, rfl, rfl, rfl, rfl, rfl, rfl, rfl, rfl, rfl, rfl, rfl, rfl, rfl, rfl, rfl, rfl, rfl⟩
  · exact (task_start k no seed cycle ceil levels r strip).1
  · exact (task_start k no seed cycle ceil levels r strip).2
  · rintro n f c rfl
    exact task_start_strip k no seed cycle ceil levels r n f c

/-! ## Where an idle core finds work (R351) -/

theorem cancelledFrom_congr {s t : State} (hn : ∀ a, t.num a 8 = s.num a 8) (hb : t.sbase = s.sbase) (fuel kind id : Nat) :
    t.cancelledFrom fuel kind id = s.cancelledFrom fuel kind id := by
  induction fuel generalizing kind id with
  | zero => rfl
  | succ fuel ih =>
    have ha (k i : Nat) : t.levelAddr k i = s.levelAddr k i := by rw [State.levelAddr, hb]; rfl
    have hp : t.parentOf kind id = s.parentOf kind id := by rw [State.parentOf, ha, hn]; rfl
    rw [State.cancelledFrom, State.cancelledFrom, State.cancelOf, State.cancelOf, ha, hn, hp]
    cases s.parentOf kind id with
    | none => rfl
    | some p => exact congrArg _ (ih p.1 p.2)

theorem cancelled_congr {s t : State} (hn : ∀ a, t.num a 8 = s.num a 8) (hb : t.sbase = s.sbase) (kind id : Nat) :
    t.cancelled kind id = s.cancelled kind id := cancelledFrom_congr hn hb levelCount kind id

theorem takeRec_append {launch : Nat} {r : Rec} (hr : r.launchId = launch) {as : List Rec} (ha : ∀ q ∈ as, q.launchId ≠ launch) (bs : List Rec) :
    takeRec launch (as ++ r :: bs) = some (r, as ++ bs) := by
  induction as with
  | nil => exact if_pos hr
  | cons q as ih =>
    obtain ⟨hq, has⟩ := List.forall_mem_cons.1 ha
    rw [List.cons_append, takeRec, if_neg hq, ih has]
    rfl

theorem takeRec_none {launch : Nat} {as : List Rec} (ha : ∀ q ∈ as, q.launchId ≠ launch) : takeRec launch as = none := by
  induction as with
  | nil => rfl
  | cons q as ih =>
    obtain ⟨hq, has⟩ := List.forall_mem_cons.1 ha
    rw [takeRec, if_neg hq, ih has]
    rfl

theorem takeInject_of_find {launch : Nat} {as : List (Nat × Rec)} {r : Nat × Rec} (h : (as.find? fun q => q.2.launchId == launch) = some r) :
    ∃ rest, takeInject launch as = some (r.2, rest) ∧ rest.length + 1 = as.length := by
  induction as with
  | nil => cases h
  | cons q as ih =>
    rw [List.find?_cons] at h
    rw [takeInject]
    split at h
    next hq =>
      cases h
      exact ⟨as, if_pos (by simpa using hq), rfl⟩
    next hq =>
      obtain ⟨rest, hrest, hlen⟩ := ih h
      exact ⟨q :: rest, by rw [if_neg (by simpa using hq), hrest]; rfl, by rw [List.length_cons, List.length_cons, hlen]⟩

section

variable {s : State} {c : Nat} {h : Share} (hshare : s.shareOf c = some h) (hact : (s.core c).act = .idle) (hpush : (s.core c).pendingPush = none)
  (hcanc : s.cancelled 0 h.launch = false)

include hshare hact hpush in
theorem exec_taskStart {u : State} (hw : Ends (takeWork h) (s.as c) u) : exec (.taskStart c) s = .next (u.as s.cur) := by
  refine congrArg Host.Outcome.next ((onCore_state c _ s).trans ?_)
  have hgo : Ends (do
      let s ← get
      match s.shareOf c with
      | some h => if s.me.act = .idle ∧ s.me.pendingPush = none then takeWork h else return ()
      | none => return ()) (s.as c) u := by
    unfold Ends
    rw [run_bind, run_get]
    dsimp only
    rw [show (s.as c).shareOf c = some h from hshare]
    dsimp only
    rw [if_pos ⟨hact, hpush⟩]
    exact hw
  exact congrArg (fun r : Except Halt Unit × State => r.2.as s.cur) hgo

/-- The state of a task that starts: its core in the state of R11, and the device's counters beyond it. -/
def State.started (s : State) (h : Share) (r : Rec) (strip : Option (Nat × Int × Nat)) : State :=
  { s with freeCtr := s.freeCtr + 32, taskCtr := s.taskCtr + 1 }.updMe fun k => k.start s.taskCtr s.freeCtr s.cycle h.ceil h.levels r strip

theorem ends_startOn {u : State} {r : Rec} (hr : wellFormedIa r.cp = true) (strip : Option (Nat × Int × Nat)) :
    Ends (startOn h r strip) u (u.started h r strip) := by
  unfold Ends startOn
  simp only [run_bind, run_get, run_modify, run_modMe, hr, if_true, run_pure]
  rfl

include hcanc in
theorem ends_takeTask {u : State} {r : Rec} (hf : (s.as c).findWork c h = some (.task r, u)) (hr : wellFormedIa r.cp = true) :
    Ends (takeWork h) (s.as c) (u.started h r none) := by
  refine ends_bind (run_myNumber _) (ends_bind (run_get _) ?_)
  rw [show (s.as c).cur = c from rfl, hf]
  refine ends_bind (run_set _ _) ?_
  rw [if_neg (by rw [(cancelled_congr (s := s) (t := s.as c) (fun _ => rfl) rfl 0 h.launch).trans hcanc]; exact Bool.false_ne_true)]
  exact ends_startOn hr none

/-- A loop has handed out one more strip (R352). -/
def State.handed (s : State) (d : Nat) (l : Loop) : State :=
  (if l.next = 0 then s.bindChannel d l.channel l.lo else s).updLoop d l.number fun m =>
    { m with next := m.next + 1, live := m.live + 1, bound := m.bound || l.next == 0 }

include hcanc in
theorem ends_takeStrip {l : Loop} {f : Int} {n : Nat} (hf : (s.as c).findWork c h = some (.strip l, s.as c)) (hn : l.nextStrip = some (f, n))
    (hr : wellFormedIa l.task.cp = true) :
    Ends (takeWork h) (s.as c) (((s.as c).handed (dieOf c) l).started h l.task (some (l.number, f, n))) := by
  refine ends_bind (run_myNumber _) (ends_bind (run_get _) ?_)
  rw [show (s.as c).cur = c from rfl, hf]
  refine ends_bind (run_set _ _) ?_
  rw [if_neg (by rw [(cancelled_congr (s := s) (t := s.as c) (fun _ => rfl) rfl 0 h.launch).trans hcanc]; exact Bool.false_ne_true)]
  dsimp only
  rw [hn]
  refine ends_when_bind (t := if l.next = 0 then (s.as c).bindChannel (dieOf c) l.channel l.lo else s.as c) ?_ (ends_bind (run_modify _ _) (ends_startOn hr _))
  split
  · exact run_modify _ _
  · exact run_pure _ _

end

theorem dies_updCores (f : Nat → Nat) (g : Core → Core) (l : List Nat) (s : State) : (l.foldl (fun s i => s.updCore (f i) g) s).dies = s.dies :=
  keeps_foldl (R := fun s t => t.dies = s.dies) ⟨fun _ => rfl, fun h g => g.trans h⟩ (f := fun s i => s.updCore (f i) g) (fun _ _ => rfl) l s

theorem die_bindChannel {s : State} {d : Nat} (hd : d < s.dies.length) (ch : Nat) (lo : Word) :
    ((s.bindChannel d ch lo).die d).bound = (s.die d).bound ||| (1#16 <<< ch) := by
  have hdies : (s.bindChannel d ch lo).dies =
      (s.updDie d fun d => { d with bound := d.bound ||| (1#16 <<< ch), posts := d.posts.filter fun p => p.channel != ch }).dies := by
    unfold State.bindChannel
    exact dies_updCores (fun i => d * Config.coresPerDie + i)
      (fun k => { k with mirror := k.mirror.set! ch (lo - 1), mirrorCk := k.mirrorCk.set! ch Clock.reset }) _ _
  rw [State.die, hdies]
  exact congrArg Die.bound (die_updDie_self s d _ hd)

theorem bound_handed {s : State} {d : Nat} (hd : d < s.dies.length) {l : Loop} (hl : l.next = 0) :
    ((s.handed d l).die d).bound.getLsbD l.channel = decide (l.channel < 16) := by
  have hlen : (s.bindChannel d l.channel l.lo).dies.length = s.dies.length := (mild_bindChannel (p := False) (mild_refl s) _ _ _).dies
  have h1 : ((s.handed d l).die d).bound = (s.die d).bound ||| (1#16 <<< l.channel) := by
    unfold State.handed
    rw [if_pos hl, State.updLoop, die_updDie_self _ _ _ (by rw [hlen]; exact hd)]
    exact die_bindChannel hd _ _
  rw [h1, BitVec.getLsbD_or, BitVec.getLsbD_shiftLeft]
  by_cases hc : l.channel < 16
  · simp [hc]
  · rw [BitVec.getLsbD_of_ge _ _ (not_lt.1 hc)]
    simp [hc]

theorem core_started {s : State} {c : Nat} (hcur : s.cur = c) (hc : c < s.cores.length) (h : Share) (r : Rec) (strip : Option (Nat × Int × Nat)) :
    (s.started h r strip).core c = (s.core c).start s.taskCtr s.freeCtr s.cycle h.ceil h.levels r strip := by
  subst hcur
  exact core_updCore_self _ _ _ hc

theorem taskStarts_spec : Spec.TaskStarts := by
  intro s c h hc hd hshare hact hpush hcanc
  have hno : ∀ {as : List Rec}, (∀ q ∈ as, q.launchId ≠ h.launch) → takeRec h.launch as.reverse = none :=
    fun ha => takeRec_none fun q hq => ha q (List.mem_reverse.1 hq)
  refine ⟨fun r rs qs hdq hr hqs hcp => ?_, fun l f n hdq hl hn hcp => ?_, fun r hdq hl hi hcp => ?_, fun l => rfl⟩
  · have hfind : (s.as c).findWork c h = some (.task r, (s.as c).updCore c fun k => { k with deque := rs ++ qs }) := by
      unfold State.findWork
      dsimp only
      rw [show ((s.as c).core c).deque = rs ++ r :: qs from hdq, List.reverse_append, List.reverse_cons, List.append_assoc, List.singleton_append,
        takeRec_append hr fun q hq => hqs q (List.mem_reverse.1 hq)]
      dsimp only
      rw [List.reverse_append, List.reverse_reverse, List.reverse_reverse]
    have hcore : ((((s.as c).updCore c fun k => { k with deque := rs ++ qs }).started h r none).as s.cur).core c =
        { (s.core c).start s.taskCtr s.freeCtr s.cycle h.ceil h.levels r none with deque := rs ++ qs } := by
      refine (core_started (s := (s.as c).updCore c fun k => { k with deque := rs ++ qs }) (c := c) rfl
        (by rw [updCore_cores_length]; exact hc) h r none).trans ?_
      rw [core_updCore_self (s.as c) c _ hc]
      rfl
    exact ⟨_, exec_taskStart hshare hact hpush (ends_takeTask hcanc hfind hcp), congrArg Core.deque hcore, hcore⟩
  · have hfind : (s.as c).findWork c h = some (.strip l, s.as c) := by
      unfold State.findWork
      dsimp only
      rw [show ((s.as c).core c).deque = (s.core c).deque from rfl, hno hdq]
      dsimp only
      rw [(cancelled_congr (s := s) (t := s.as c) (fun _ => rfl) rfl 0 h.launch).trans hcanc, loopFor]
      simp only [Bool.false_eq_true, if_false]
      rw [show ((s.as c).die (dieOf c)).loops = (s.die (dieOf c)).loops from rfl, hl]
    have hm : Mild False (s.as c) ((s.as c).handed (dieOf c) l) :=
      mild_updLoop (mild_ite (mild_bindChannel (mild_refl _) _ _ _) (mild_refl _)) _ _ _
    have hlen : c < ((s.as c).handed (dieOf c) l).cores.length := by
      rw [← hm.cores.length_eq]
      exact hc
    have hcore := core_started hm.cur hlen h l.task (some (l.number, f, n))
    refine ⟨_, exec_taskStart hshare hact hpush (ends_takeStrip hcanc hfind hn hcp), ?_, ?_, ?_, ?_, ?_, ?_⟩
    · exact congrArg Core.ia hcore
    · exact congrArg Core.act hcore
    · exact (congrArg (fun k : Core => k.task[5]) hcore).trans (task_start_strip _ _ _ _ _ _ _ _ f n).1
    · exact (congrArg (fun k : Core => k.task[6]) hcore).trans (task_start_strip _ _ _ _ _ _ _ _ f n).2
    · exact congrArg Core.run hcore
    · exact fun hz => bound_handed (s := s.as c) (d := dieOf c) hd hz
  · have hfind : ∃ rest, (s.as c).findWork c h = some (.task r.2, (s.as c).updDie (dieOf c) fun q => { q with inject := rest }) ∧
        rest.length + 1 = (s.die (dieOf c)).inject.length := by
      obtain ⟨rest, hrest, hlen⟩ := takeInject_of_find hi
      refine ⟨rest, ?_, hlen⟩
      unfold State.findWork
      dsimp only
      rw [show ((s.as c).core c).deque = (s.core c).deque from rfl, hno hdq]
      dsimp only
      rw [(cancelled_congr (s := s) (t := s.as c) (fun _ => rfl) rfl 0 h.launch).trans hcanc, loopFor, show ((s.as c).die (dieOf c)).loops = (s.die (dieOf c)).loops from rfl,
        List.find?_eq_none.2 fun l hm => by simpa using hl l hm]
      dsimp only
      rw [show ((s.as c).die (dieOf c)).inject = (s.die (dieOf c)).inject from rfl, hrest]
    obtain ⟨rest, hfind, hlen⟩ := hfind
    refine ⟨_, exec_taskStart hshare hact hpush (ends_takeTask hcanc hfind hcp), ?_, ?_⟩
    · exact core_started (s := (s.as c).updDie (dieOf c) fun q => { q with inject := rest }) rfl hc h r.2 none
    · rw [← hlen]
      exact congrArg (fun d : Die => d.inject.length + 1) (die_updDie_self (s.as c) (dieOf c) (fun q => { q with inject := rest }) hd)

/-- Settles O26: where an idle core finds its next task, and the state in which the task begins. -/
theorem taskStarts : Obligations.TaskStarts := ⟨taskStarts_spec, taskStartState⟩

end Sys2Proof.Machine
end

section
/-! PROOF. Lines without errors, seals and undefined contents, and writes to them (R3, R181, R184, R306). -/
namespace Sys2Proof.Machine

open Sys2Proof

/-! ## Sound lines -/

/-- A line has no error and no seal, and its contents are defined. -/
def Sound (s : State) (l : Nat) : Prop := s.badLines.contains l = false ∧ s.sealOf l = none ∧ s.vagueSeed l = none

theorem Sound.congr {s t : State} {l : Nat} (h : Sound s l) (hb : t.badLines = s.badLines) (hs : t.sealTags = s.sealTags) (hv : t.vague = s.vague) :
    Sound t l := by
  obtain ⟨h1, h2, h3⟩ := h
  exact ⟨by rw [hb, h1], by rw [State.sealOf, hs]; exact h2, by rw [State.vagueSeed, hv]; exact h3⟩

theorem Sound.writable {s : State} {loc : Nat} (h : Sound s (loc / 64)) (n : Nat) : s.writable none loc n = true := by
  unfold State.writable
  dsimp only
  rw [h.1, Bool.not_false, Bool.or_true]

theorem Sound.lineError {s : State} {l : Nat} (h : Sound s l) : s.lineError none l = none := by
  unfold State.lineError
  rw [h.1]
  rfl

theorem Sound.readAs {s : State} {loc : Nat} (h : Sound s (loc / 64)) (n : Nat) : s.readAs none loc n = s.bytesAt loc n := by
  unfold State.readAs
  rw [h.2.2, h.2.1]

theorem sound_at_of_plain {s : State} {pa n i : Nat} (h : Spec.Plain s pa n) (hi : i < n) : Sound s ((pa + i) / 64) := h i hi

/-! ## Sound lines stay sound -/

theorem find_filter_none {α : Type} {l : List α} {p q : α → Bool} (h : l.find? p = none) : (l.filter q).find? p = none :=
  List.find?_eq_none.2 fun a ha => List.find?_eq_none.1 h a (List.mem_of_mem_filter ha)

theorem sound_noteDirty {s : State} {l : Nat} (h : Sound s l) (loc : Nat) : Sound (s.noteDirty loc) l := by
  unfold State.noteDirty
  split
  · exact h.congr rfl rfl rfl
  · exact h

theorem sound_setBytes {s : State} {l : Nat} (h : Sound s l) (loc : Nat) (bs : List Byte) : Sound (s.setBytes loc bs) l := by
  rw [setBytes_eq]
  exact h.congr rfl rfl rfl

theorem sound_makeExact {s : State} {l : Nat} (h : Sound s l) (line : Nat) : Sound (s.makeExact line) l :=
  ⟨h.1, h.2.1, Option.map_eq_none_iff.2 (find_filter_none (Option.map_eq_none_iff.1 h.2.2))⟩

theorem sound_clearLine {s : State} {l : Nat} (h : Sound s l) (line : Nat) : Sound (s.clearLine line) l := by
  refine ⟨?_, h.2.1, (sound_makeExact h line).2.2⟩
  have h1 : l ∉ s.badLines := by simpa using h.1
  simpa [State.clearLine] using fun hm => absurd hm h1

theorem sound_unseal {s : State} {l : Nat} (h : Sound s l) (line : Nat) :
    Sound { s with sealTags := s.sealTags.filter fun p => p.1 != line } l :=
  ⟨h.1, Option.map_eq_none_iff.2 (find_filter_none (Option.map_eq_none_iff.1 h.2.1)), h.2.2⟩

/-- A write that no key seals leaves every sound line sound. -/
theorem sound_placeBytes {s : State} {l : Nat} (h : Sound s l) (loc : Nat) (bs : List Byte) : Sound (s.placeBytes none loc bs) l := by
  have hkeep : ∀ (u : State), Sound u l → ∀ (keep whole : Bool) (line : Nat) (rest : List Byte),
      Sound (if whole then (if keep then (u.makeExact line).setBytes (line * 64) rest else u).clearLine line
        else if keep then (u.makeExact line).setBytes (line * 64) rest else u) l := by
    intro u hu keep whole line rest
    have h1 : Sound (if keep then (u.makeExact line).setBytes (line * 64) rest else u) l := by
      split
      · exact sound_setBytes (sound_makeExact hu line) _ _
      · exact hu
    split
    · exact sound_clearLine h1 line
    · exact h1
  exact sound_setBytes (sound_unseal (hkeep _ (sound_noteDirty h loc) _ _ _ _) _) loc bs

theorem sound_deferFail {s : State} {l : Nat} (h : Sound s l) (c : Option Nat) : Sound (s.deferFail c) l := by
  cases c <;> exact h.congr rfl rfl rfl

theorem sound_stampAt {s : State} {l : Nat} (h : Sound s l) (c : Option Nat) (d line loc : Nat) (bs : List Byte) :
    Sound (s.stampAt c d line loc bs) l := by
  cases c <;> exact h.congr rfl rfl rfl

theorem sound_noteWrite {s : State} {l : Nat} (h : Sound s l) (loc n : Nat) : Sound (s.noteWrite loc n) l := h.congr rfl rfl rfl

theorem sound_softWrite {s : State} {l : Nat} (h : Sound s l) (loc n : Nat) : Sound (s.softWrite loc n) l := h.congr rfl rfl rfl

theorem sound_sendFabric {s : State} {l : Nat} (h : Sound s l) (c : Option Nat) (loc : Nat) : Sound (s.sendFabric c loc) l := by
  unfold State.sendFabric
  split
  · exact h
  · split
    · exact h.congr rfl rfl rfl
    · exact h

theorem sound_performAt {s : State} {l : Nat} (h : Sound s l) (c : Option Nat) (loc : Nat) (bs : List Byte) :
    Sound (s.performAt c none loc bs) l := by
  unfold State.performAt
  split
  · exact sound_deferFail h c
  · split
    · exact sound_sendFabric (sound_noteWrite (sound_placeBytes h loc bs) _ _) c loc
    · exact sound_stampAt (sound_placeBytes (sound_softWrite h _ _) _ _) _ _ _ _ _

theorem sound_drainInbox {s : State} {l : Nat} (h : Sound s l) (d : Nat) : Sound (s.drainInbox d) l := h.congr rfl rfl rfl

theorem sound_catchUpTo {s : State} {l : Nat} (h : Sound s l) (ck : Clock) (d : Nat) : Sound (s.catchUpTo ck d) l := by
  unfold State.catchUpTo
  split
  · exact h
  · exact sound_drainInbox h d

theorem sound_perform {s : State} {l : Nat} (h : Sound s l) (c : Option Nat) (loc : Nat) (bs : List Byte) :
    Sound (s.perform c none loc bs) l := by
  unfold State.perform
  split
  · exact sound_performAt h c loc bs
  · exact sound_performAt (sound_catchUpTo h _ _) c loc bs

theorem sound_publish {s : State} {l : Nat} (h : Sound s l) (loc : Nat) (bs : List Byte) : Sound (s.publish none loc bs) l := by
  unfold State.publish
  split
  · exact sound_performAt (s := s.ackEnded) (h.congr rfl rfl rfl) none loc bs
  · exact sound_performAt (sound_drainInbox h _) none loc bs

/-! ## What a write leaves in memory -/

/-- Software may change every byte of a range: none is one of STATUS of a host queue. -/
def NoStatus (s : State) (loc n : Nat) : Prop := ∀ i, i < n → s.statusByte (loc + i) = false

theorem noStatus_pad (s : State) {loc : Nat} (h : 2 ^ 52 ≤ loc) (n : Nat) : NoStatus s loc n := by
  intro i _
  have hlt : decide (loc + i < 2 ^ 52) = false := decide_eq_false (by omega)
  unfold State.statusByte
  dsimp only
  rw [hlt, Bool.and_false, Bool.false_and, Bool.false_and, Bool.false_and]

theorem keepRo_eq {s : State} {loc : Nat} {bs : List Byte} (h : NoStatus s loc bs.length) : s.keepRo loc bs = bs := by
  refine List.ext_getElem? fun i => ?_
  by_cases hi : i < bs.length
  · rw [keepRo_getElem? s loc bs i hi, h i hi]
    rfl
  · rw [List.getElem?_eq_none (by rw [keepRo_length]; omega), List.getElem?_eq_none (by omega)]

theorem mem_performAt_sound {s : State} {loc : Nat} {bs : List Byte} {c : Option Nat} (h : Sound s (loc / 64))
    (hn : c.isSome = true → NoStatus s loc bs.length) : (s.performAt c none loc bs).mem = (s.setBytes loc bs).mem := by
  cases hh : homeOf loc with
  | none =>
    have hw := h.writable bs.length
    unfold State.performAt
    rw [hw, hh]
    simp only [Bool.not_true, Bool.false_eq_true, if_false, mem_sendFabric, mem_noteWrite]
    exact mem_placeBytes h.2.2 (fun _ => h.2.1) bs
  | some d =>
    rw [mem_performAt hh (h.writable _) h.2.2 fun _ => h.2.1]
    split
    next hc => rw [keepRo_eq (hn hc)]
    · rfl

theorem statusByte_congr {s t : State} (hb : t.sbase = s.sbase) (hs : t.stage = s.stage) (loc : Nat) : t.statusByte loc = s.statusByte loc := by
  unfold State.statusByte
  rw [hb, hs]

theorem NoStatus.congr {s t : State} {loc n : Nat} (h : NoStatus s loc n) (hb : t.sbase = s.sbase) (hs : t.stage = s.stage) : NoStatus t loc n :=
  fun i hi => (statusByte_congr hb hs _).trans (h i hi)

theorem mem_perform_sound {s : State} {loc : Nat} {bs : List Byte} {c : Option Nat} (h : Sound s (loc / 64))
    (hn : c.isSome = true → NoStatus s loc bs.length) : (s.perform c none loc bs).mem = (s.setBytes loc bs).mem := by
  unfold State.perform
  split
  · exact mem_performAt_sound h hn
  · next d _ =>
    have hcalm : (s.catchUp c d).calm = s.calm := calm_catchUpTo s (s.carried c) d
    refine (mem_performAt_sound (sound_catchUpTo h _ _) fun hc => (hn hc).congr ?_ ?_).trans (mem_setBytes_congr (mem_catchUp s c d) loc bs)
    · exact (congrArg State.sbase hcalm : (s.catchUp c d).calm.sbase = s.calm.sbase)
    · exact (congrArg State.stage hcalm : (s.catchUp c d).calm.stage = s.calm.stage)

theorem mem_publish_sound {s : State} {loc : Nat} (h : Sound s (loc / 64)) (bs : List Byte) :
    (s.publish none loc bs).mem = (s.setBytes loc bs).mem := by
  unfold State.publish
  split
  · exact (mem_performAt_sound (s := s.ackEnded) (h.congr rfl rfl rfl) (by simp)).trans (mem_setBytes_congr (mem_ackEnded s) loc bs)
  · next d _ => exact (mem_performAt_sound (sound_drainInbox h d) (by simp)).trans (mem_setBytes_congr (mem_drainInbox s d) loc bs)

theorem num_congr {s t : State} (h : s.mem = t.mem) (a n : Nat) : s.num a n = t.num a n := congrArg leNat (bytesAt_congr h a n)

/-- A write at a sound line leaves its bytes, and memory elsewhere as it was. -/
structure Wrote (s t : State) (loc : Nat) (bs : List Byte) : Prop where
  bytes : t.bytesAt loc bs.length = bs
  rest : SameMemoryBut s t loc bs.length
  wf : Memory.wf t.mem = true

theorem wrote_of_mem {s t : State} {loc : Nat} {bs : List Byte} (h : t.mem = (s.setBytes loc bs).mem) (hwf : Memory.wf s.mem = true) :
    Wrote s t loc bs :=
  ⟨bytesAt_of_mem h hwf, sameMemoryBut_of_mem h hwf, by rw [h]; exact wf_setBytes loc bs hwf⟩

theorem bytesAt_of_same {s t : State} {a n : Nat} (h : ∀ i, i < n → t.byte (a + i) = s.byte (a + i)) : t.bytesAt a n = s.bytesAt a n :=
  List.map_congr_left fun i hi => h i (List.mem_range.1 hi)

theorem num_of_same {s t : State} {a n : Nat} (h : ∀ i, i < n → t.byte (a + i) = s.byte (a + i)) : t.num a n = s.num a n :=
  congrArg leNat (bytesAt_of_same h)

theorem Wrote.num {s t : State} {loc n v : Nat} (h : Wrote s t loc (leBytes n v)) : t.num loc n = v % 2 ^ (8 * n) := by
  have hb := h.bytes
  rw [leBytes_length] at hb
  rw [State.num, hb, leNat_leBytes]

theorem Wrote.num_out {s t : State} {loc a n : Nat} {bs : List Byte} (h : Wrote s t loc bs) (ha : a + n ≤ loc ∨ loc + bs.length ≤ a) :
    t.num a n = s.num a n :=
  num_of_same fun i hi => h.rest (a + i) (by omega)

end Sys2Proof.Machine
end

section
/-! PROOF. Joins and their continuations (R338, R360). -/
namespace Sys2Proof.Machine

open Sys2Proof

/-! ## The addition at the counter -/

theorem ends_lostRead {c va loc : Nat} (h : isFabric loc = false) (s : State) : Ends (lostRead c va loc) s s := by
  unfold Ends lostRead
  rw [run_bind, run_get]
  dsimp only
  rw [h, Bool.false_and]
  rfl

theorem flushOver_empty {s : State} {c : Nat} (h : (s.core c).sb = []) (loc n : Nat) : s.flushOver c loc n = s := by
  unfold State.flushOver Core.unperformed
  rw [h]
  rfl

theorem writeTarget_pad {s : State} {x : Ctx} {loc va eva : Nat} (h : s.barrierOn (loc / 64) = none) :
    Answers (writeTarget x (.pad loc) va eva) s { loc := loc, key := none, held := false } s := by
  unfold Answers writeTarget
  rw [run_bind, run_get]
  dsimp only
  rw [h]
  rfl

theorem padLoc_mod {c va loc : Nat} (h : padLoc c va = some loc) : loc % 64 = va % 64 := by
  unfold padLoc corePadLoc clusterLoc chipPadLoc at h
  split at h
  · cases h; omega
  · split at h
    · cases h; omega
    · split at h
      · cases h; omega
      · cases h

theorem homeOf_pad {loc : Nat} (h : 2 ^ 52 ≤ loc) : ∃ d, homeOf loc = some d := by
  unfold homeOf
  rw [if_pos h]
  split
  · exact ⟨_, rfl⟩
  · split
    · exact ⟨_, rfl⟩
    · exact ⟨_, rfl⟩

/-! ## Records and where they are pushed -/

theorem launchId_eq (s : State) : s.me.launchId = Spec.launch s := by
  unfold Core.launchId Spec.launch bits
  simp

theorem recOf_eq (s : State) (bs : List Byte) (a : Word) (ck : Clock) :
    recOf bs a s.me.launchId ck = { Spec.record s bs a with ck := ck } := by
  rw [launchId_eq]
  rfl

theorem recordBytes_eq (r : Rec) : r.bytes = Spec.recordBytes r := by
  simp [Rec.bytes, Spec.recordBytes]

theorem updMe_publish (s : State) (key : Option Nat) (loc : Nat) (bs : List Byte) (f : Core → Core) :
    (s.publish key loc bs).updCore s.cur f = (s.publish key loc bs).updMe f := by
  rw [State.updMe, (settled_publish s key loc bs).cur]

theorem pushDeque_full {s : State} {c : Nat} (h : 32 + 4096 ≤ (s.core c).deque.length) (r : Rec) : s.pushDeque c r = none := if_pos h

theorem pushDeque_room {s : State} (h : s.me.deque.length < 32 + 4096) (r : Rec) : s.pushDeque s.cur r = some (Spec.dequed s r) := by
  unfold State.pushDeque Spec.dequed dequeRoom dequeCore
  dsimp only
  rw [if_neg (not_le.2 h : ¬ 4128 ≤ (s.core s.cur).deque.length)]
  change (match (if s.me.deque.length < 32 then none else s.me.deque[s.me.deque.length - 32]?) with
    | some q => _
    | none => _) = _
  cases (if s.me.deque.length < 32 then none else s.me.deque[s.me.deque.length - 32]?) with
  | none => rfl
  | some q =>
    dsimp only
    rw [recordBytes_eq, updMe_publish]
    rfl

theorem pushDeque_eq (s : State) (r : Rec) :
    s.pushDeque s.cur r = if s.me.deque.length < 32 + 4096 then some (Spec.dequed s r) else none := by
  split
  · exact pushDeque_room ‹_› r
  · exact pushDeque_full (not_lt.1 ‹_›) r

theorem pushInject_eq (s : State) (d part : Nat) (r : Rec) :
    s.pushInject d part r = if ((s.die d).inject.filter fun q => q.1 == part).length < (if part = 1 then 4096 else 61440) then
      some (Spec.injected s d part r) else none := by
  unfold State.pushInject Spec.injected
  dsimp only
  rw [recordBytes_eq]
  rfl

theorem tryPush_eq (s : State) (r : Rec) : s.tryPush s.cur r =
    if s.me.deque.length < 32 + 4096 then some (Spec.dequed s r)
    else if ((s.die (dieOf s.cur)).inject.filter fun q => q.1 == 1).length < 4096 then some (Spec.injected s (dieOf s.cur) 1 r)
    else none := by
  unfold State.tryPush
  rw [pushDeque_eq, pushInject_eq]
  by_cases hroom : s.me.deque.length < 32 + 4096
  · rw [if_pos hroom, if_pos hroom]
  · rw [if_neg hroom, if_neg hroom]
    rfl

theorem pushContinuation_eq (s : State) (r : Rec) : s.pushContinuation s.cur r = Spec.continued s r := by
  unfold State.pushContinuation Spec.continued
  rw [tryPush_eq]
  by_cases hroom : s.me.deque.length < 32 + 4096
  · rw [if_pos hroom, if_pos hroom]
  · rw [if_neg hroom, if_neg hroom]
    by_cases hres : ((s.die (dieOf s.cur)).inject.filter fun q => q.1 == 1).length < 4096
    · rw [if_pos hres, if_pos hres]
    · rw [if_neg hres, if_neg hres]
      rfl

theorem countUp_eq (s : State) : s.countUp s.me.launchId = Spec.counted s (Spec.launch s) := by
  rw [launchId_eq]
  unfold State.countUp Spec.counted State.levelAddr State.putWord
  simp only [Nat.mul_zero, Nat.zero_add]

theorem counted_cur (s : State) (n : Nat) : (Spec.counted s n).cur = s.cur := (settled_publish s none _ _).cur

theorem joinAdd_pad {s : State} {a loc : Nat} {b : Word} {c : Ctx} (ha : a % 64 = 0) (hp : padLoc s.cur a = some loc) (hs : Sound s (loc / 64))
    (hb : s.barrierOn (loc / 64) = none) (hsb : s.me.sb = []) :
    let new := word (s.num loc 8) + b
    let u := (s.perform (some s.cur) none loc (leBytes 8 new.toNat)).ackFabric s.cur fun l => l == loc
    let r : Rec := { Spec.record u (u.bytesAt (loc + 32) 32) (word (a + 32)) with ck := u.me.ck.join (u.stampOf (loc / 64)) }
    Answers (joinAdd c (.pad loc) a b) s new (if new = 0 then Spec.continued (Spec.counted u (Spec.launch u)) r else u) := by
  intro new u r
  refine answers_bind (writeTarget_pad hb) (answers_bind (run_get s) (answers_bind (run_myNumber s)
    (answers_bind (ends_lostRead (isFabric_pad (padLoc_ge hp)) s) ?_)))
  rw [hs.lineError]
  dsimp only
  refine answers_bind (run_set _ _) (answers_bind (run_get _) ?_)
  rw [flushOver_empty hsb, hs.readAs]
  have hmod := padLoc_mod hp
  obtain ⟨d, hd⟩ := homeOf_pad (padLoc_ge hp)
  have hnote (v : State) : v.noteJoin s.cur loc = v := by
    unfold State.noteJoin
    rw [hd]
  refine answers_bind (run_modify _ s) ?_
  rw [hnote]
  have hst : Settled s u := (steady_perform s _ _ _ _).settled.trans (settled_ackFabric _ _ _)
  have hu : Sound u ((loc + 32) / 64) := by
    rw [show (loc + 32) / 64 = loc / 64 by omega]
    exact (sound_perform hs _ _ _).congr rfl rfl rfl
  change Answers (if new = 0 then _ else _) u new _
  split
  · refine answers_bind (run_get u) ?_
    rw [State.joinClock, hd, hu.readAs, recOf_eq, countUp_eq, ← hst.cur, ← counted_cur u (Spec.launch u), pushContinuation_eq, counted_cur]
    exact answers_bind (run_set _ _) rfl
  · rfl

theorem quiet_of_answers {α : Type} {m : M α} (hm : Keeps Steady m) {s t : State} {a : α} (h : Answers m s a t) (hq : Spec.Quiet s) :
    Spec.Quiet t := quiet_of_sameCores (steady_of_answers hm h).sameCores hq

theorem joinResults : Spec.JoinResults := by
  intro s x hr hq ha
  refine ⟨fun q t w v hp hj => ?_, fun loc hl hg hs hv hb hsb => joinAdd_pad ha hl ⟨hg, hs, hv⟩ hb hsb⟩
  have hqt := quiet_of_answers (steady_place _ _ _) hp hq
  refine scalar_ends hr (t := w.updMe fun k => k.setX x.d v) (ends_bind (run_readX _ s) (ends_bind (run_readX _ s) ?_)) ?_
  · rw [if_neg (not_not.2 ha)]
    exact ends_bind (run_get s) (ends_bind (run_myNumber s) (ends_bind hp (ends_bind (run_scalarRelease hqt _) (ends_bind hj (run_writeX _ _ w)))))
  · refine tame_bind (by simp) fun _ => ?_
    dsimp only
    refine tame_bind (by simp) fun _ => ?_
    split
    · simp
    · exact tame_get_bind.2 fun _ => tameAt_of_tame (tame_bind (by simp) fun _ => by simp (disch := simp)) _

/-! ## A push that had to wait -/

theorem retryPush_eq {s : State} {c : Nat} {r : Rec} (h : (s.core c).pendingPush = some r) : exec (.joinPushRetry c) s =
    .next (match s.tryPush c r with | none => s | some t => t.updCore c fun k => { k with pendingPush := none }) := by
  refine congrArg Host.Outcome.next ?_
  change s.retryPush c = _
  unfold State.retryPush
  rw [h] <;> rfl

/-- A record without its place in a ring. -/
def Rec.bare (r : Rec) : Rec := { r with slot := 0 }

theorem bare_set {dq : List Rec} {n i : Nat} {q : Rec} (h : dq[n]? = some q) : (dq.set n { q with slot := i }).map Rec.bare = dq.map Rec.bare := by
  obtain ⟨hn, rfl⟩ := List.getElem?_eq_some_iff.1 h
  rw [List.map_set]
  refine (List.set_getElem_self (as := dq.map Rec.bare) (i := n) (by simpa using hn)).symm ▸ ?_
  simp [Rec.bare]

theorem bare_pushDeque {s : State} {c : Nat} (hc : c < s.cores.length) (h : (s.core c).deque.length < 32 + 4096) (r : Rec) :
    ∃ t, s.pushDeque c r = some t ∧ t.cores.length = s.cores.length ∧
      (t.core c).deque.map Rec.bare = ((s.core c).deque ++ [r]).map Rec.bare := by
  unfold State.pushDeque dequeRoom
  dsimp only
  rw [if_neg (not_le.2 h : ¬ 4128 ≤ (s.core c).deque.length)]
  split
  next q hq =>
    have hq' : (s.core c).deque[(s.core c).deque.length - dequeCore]? = some q := by
      split at hq
      · cases hq
      · exact hq
    have hlen : (s.publish none (s.spillAddr c (freePlace ((s.core c).deque.take ((s.core c).deque.length - dequeCore)))) q.bytes).cores.length =
        s.cores.length := (settled_publish s none _ _).sameCores.length
    refine ⟨_, rfl, ?_, ?_⟩
    · rw [updCore_cores_length, hlen]
    · rw [core_updCore_self _ _ _ (by rw [hlen]; exact hc)]
      dsimp only
      rw [List.map_append, bare_set hq', ← List.map_append]
  · refine ⟨_, rfl, updCore_cores_length s c _, ?_⟩
    rw [core_updCore_self s c _ hc]

theorem die_updCore (s : State) (c : Nat) (f : Core → Core) (d : Nat) : (s.updCore c f).die d = s.die d := rfl

theorem injected_eq (s : State) (d part : Nat) (r : Rec) : ∃ a, Spec.injected s d part r =
    (s.publish none a (Spec.recordBytes r)).updDie d fun q =>
      { q with inject := q.inject ++ [(part, { r with slot := freePlace ((s.die d).inject.map Prod.snd) })] } := ⟨_, rfl⟩

theorem inject_injected {s : State} {d : Nat} (hd : d < s.dies.length) (part : Nat) (r : Rec) : ((Spec.injected s d part r).die d).inject =
    (s.die d).inject ++ [(part, { r with slot := freePlace ((s.die d).inject.map Prod.snd) })] := by
  obtain ⟨a, ha⟩ := injected_eq s d part r
  have hst := settled_publish s none a (Spec.recordBytes r)
  rw [ha, die_updDie_self _ d _ (by rw [hst.dies]; exact hd), hst.inject]

theorem injected_cores (s : State) (d part : Nat) (r : Rec) : (Spec.injected s d part r).cores.length = s.cores.length := by
  obtain ⟨a, ha⟩ := injected_eq s d part r
  rw [ha]
  exact (settled_publish s none a (Spec.recordBytes r)).sameCores.length

theorem joinPushRetry : Spec.JoinPushRetry := by
  intro s c r hc hp
  refine ⟨fun hroom => ?_, fun hfull hres hd => ?_, fun hfull hres => ?_⟩
  · obtain ⟨t, ht, hlen, hbare⟩ := bare_pushDeque hc hroom r
    refine ⟨_, retryPush_eq hp, ?_⟩
    rw [State.tryPush, ht]
    dsimp only
    rw [core_updCore_self t c _ (by rw [hlen]; exact hc)]
    exact ⟨rfl, hbare⟩
  · have hpush : s.tryPush c r = some (Spec.injected s (dieOf c) 1 r) := by
      rw [State.tryPush, pushDeque_full hfull, pushInject_eq, if_pos (rfl : (1 : Nat) = 1), if_pos hres]
    have hlen : c < (Spec.injected s (dieOf c) 1 r).cores.length := by
      rw [injected_cores]
      exact hc
    refine ⟨_, retryPush_eq hp, ?_⟩
    rw [hpush]
    dsimp only
    refine ⟨by rw [die_updCore]; exact inject_injected hd 1 r, ?_⟩
    rw [core_updCore_self _ c _ hlen]
  · rw [retryPush_eq hp, State.tryPush, pushDeque_full hfull, pushInject_eq, if_pos (rfl : (1 : Nat) = 1), if_neg (not_lt.2 hres)]

/-- Settles O24: the one addition at the counter, and the push of the continuation, at once or when there is room. -/
theorem joins : Obligations.Joins := ⟨joinResults, joinPushRetry⟩

end Sys2Proof.Machine
end

section
/-! PROOF. Spawned and yielded records, and levels (R337 to R342, R350, R352, R359, R361, R363). -/
namespace Sys2Proof.Machine

open Sys2Proof

/-! ## Records that task instructions read -/

theorem answers_readRecord {s w : State} {a : Nat} {q : Place} {t r : State} {release : M Unit} {bs : List Byte} (ha : a % 32 = 0)
    (hp : Answers (place (s.taskCtx s.cur) .read a) s q t) (hr : Ends release t r) (hv : Answers (vecRead (s.taskCtx s.cur) q a 32) r bs w) :
    Answers (readRecord a release) s bs w := by
  unfold readRecord
  rw [if_neg (not_not.2 ha)]
  exact answers_bind (run_get s) (answers_bind (run_myNumber s) (answers_bind hp (answers_bind hr hv)))

theorem recordRead_answers {s w : State} {a : Nat} {bs : List Byte} (hq : Spec.Quiet s) (h : Spec.RecordRead s a bs w) :
    Answers (readRecord a (scalarRelease .device)) s bs w ∧ Settled s w := by
  obtain ⟨ha, q, t, hp, hv⟩ := h
  refine ⟨answers_readRecord ha hp (run_scalarRelease (quiet_of_answers (steady_place _ _ _) hp hq) _) hv, ?_⟩
  exact (steady_of_answers (steady_place _ _ _) hp).settled.trans
    ((settled_released t .device).trans (steady_of_answers (steady_vecRead _ _ _ _) hv).settled)

theorem pushedRec_eq (w : State) (bs : List Byte) (a : Word) : w.pushedRec bs a = Spec.record w bs a := recOf_eq w bs a w.me.ck

theorem launch_lt (s : State) : Spec.launch s < 2 ^ 16 := Nat.mod_lt _ (by decide)

theorem kind_record (w : State) (bs : List Byte) (a : Word) : (Spec.record w bs a).kind = Spec.kind bs := by
  have hl := launch_lt w
  have hd : dword bs 24 < 2 ^ 64 := by
    refine lt_of_lt_of_le (leNat_lt _) (Nat.pow_le_pow_right (by decide) ?_)
    rw [List.length_take]
    omega
  have hinfo : (Spec.record w bs a).info.toNat = dword bs 24 / 2 ^ 16 * 2 ^ 16 + Spec.launch w := by
    refine (BitVec.toNat_ofNat _ _).trans (Nat.mod_eq_of_lt ?_)
    change dword bs 24 / 2 ^ 16 * 2 ^ 16 + Spec.launch w < 2 ^ 64
    omega
  unfold Rec.kind Spec.kind
  rw [hinfo]
  generalize dword bs 24 = d at *
  generalize Spec.launch w = n at *
  unfold bits
  simp only [Nat.shiftRight_eq_div_pow]
  omega

theorem counted_eq (s : State) (n : Nat) : s.countUp n = Spec.counted s n := by
  unfold State.countUp Spec.counted State.levelAddr State.putWord
  simp only [Nat.mul_zero, Nat.zero_add]

theorem placesApart : Spec.PlacesApart := by
  intro rs r hr hslot
  have hex : ∃ i ∈ List.range (rs.length + 1), (rs.all fun r => r.slot != i) = true := by
    by_contra hno
    push Not at hno
    have hsub : List.range (rs.length + 1) ⊆ rs.map Rec.slot := by
      intro i hi
      obtain ⟨q, hq, hqi⟩ : ∃ q ∈ rs, q.slot = i := by simpa using hno i hi
      exact List.mem_map.2 ⟨q, hq, hqi⟩
    have hlen := (List.subperm_of_subset List.nodup_range hsub).length_le
    simp at hlen
  obtain ⟨i, hi, hfree⟩ := hex
  unfold freePlace at hslot
  cases hf : (List.range (rs.length + 1)).find? fun i => rs.all fun r => r.slot != i with
  | none => exact absurd hfree (by simpa using List.find?_eq_none.1 hf i hi)
  | some j =>
    rw [hf] at hslot
    have hj := List.find?_some hf
    have := List.all_eq_true.1 hj r hr
    exact absurd hslot (by simpa using this)

/-! ## SPAWN, SPAWNG and SPAWNL (R359) -/

section

variable {s w : State} {x : R2T2} {bs : List Byte} (hr : Ready s [x.d, x.a]) (hq : Spec.Quiet s) (h : Spec.RecordRead s (s.me.x x.a).toNat bs w)

include hr hq h in
theorem spawn_completes {push : State → Rec → Option State} (hm : ∀ {t u r}, push t r = some u → Mild True t u) {room : Bool} {pushed : State}
    (hp : push w (Spec.record w bs (s.me.x x.a)) = if room then some pushed else none) :
    scalar [x.d, x.a] (spawnOp push x) s = .next (
      if w.cancelled 0 (Spec.launch w) then w.wrote x.d 2 else if Spec.kind bs ≠ 0 then w.wrote x.d 3
      else if room then (Spec.counted pushed (Spec.launch w)).wrote x.d 0 else w.wrote x.d 1) := by
  obtain ⟨hread, -⟩ := recordRead_answers hq h
  have hend {t : State} (ht : Ends (do
      if w.cancelled 0 (Spec.launch w) then writeX x.d 2
      else if Spec.kind bs ≠ 0 then writeX x.d 3
      else
        match push w (Spec.record w bs (s.me.x x.a)) with
        | none => writeX x.d 1
        | some t =>
          set (Spec.counted t (Spec.launch w))
          writeX x.d 0) w t) : scalar [x.d, x.a] (spawnOp push x) s = .next t.goesOn := by
    refine scalar_ends hr (ends_bind (run_readX _ s) (ends_bind hread (ends_bind (run_get w) ?_))) (tame_spawnOp (fun _ _ _ h => hm h) x)
    dsimp only
    rw [pushedRec_eq, kind_record, launchId_eq]
    simp only [counted_eq]
    exact ht
  by_cases hc : w.cancelled 0 (Spec.launch w) = true
  · rw [if_pos hc]
    exact hend (by rw [if_pos hc]; exact run_writeX _ _ w)
  rw [if_neg hc]
  by_cases hk : Spec.kind bs ≠ 0
  · rw [if_pos hk]
    exact hend (by rw [if_neg hc, if_pos hk]; exact run_writeX _ _ w)
  rw [if_neg hk]
  cases room with
  | true => exact hend (by rw [if_neg hc, if_neg hk, hp]; exact ends_bind (run_set _ w) (run_writeX _ _ _))
  | false => exact hend (by rw [if_neg hc, if_neg hk, hp]; exact run_writeX _ _ w)

theorem tame_spawnl (x : R2T2) : Tame True (spawnlOp x) := by simp

include hr hq h in
theorem spawnl_ends {t : State} (ht : Ends (do
      if w.cancelled 0 (Spec.launch w) then writeX x.d 2
      else if Spec.kind bs ≠ 1 then writeX x.d 3
      else
        let (lo, hi, strip, ch) ← readFrame (Spec.record w bs (s.me.x x.a)).fp
        let v ← get
        if hi.sle lo || strip == 0 then writeX x.d 6
        else if v.chanBound (dieOf w.cur) ch then writeX x.d 5
        else
          match freeLoop (v.die (dieOf w.cur)).loops with
          | none => writeX x.d 4
          | some n =>
            let l : Loop := { number := n, task := Spec.record w bs (s.me.x x.a), launch := v.me.launchId, next := 0, lo := lo, hi := hi,
                              strip := strip, channel := ch, bound := false, live := 0, ck := Clock.reset }
            set ((v.updDie (dieOf w.cur) fun q => { q with loops := q.loops ++ [l] }).countUp v.me.launchId)
            writeX x.d 0) w t) : exec (.spawnl x) s = .next t.goesOn := by
  obtain ⟨hread, -⟩ := recordRead_answers hq h
  refine scalar_ends hr (ends_bind (run_readX _ s) (ends_bind hread (ends_bind (run_get w) ?_))) (tame_spawnl x)
  dsimp only
  rw [pushedRec_eq, kind_record, launchId_eq]
  exact ht

theorem sle_or_zero (lo hi strip : Word) : (hi.sle lo || strip == 0) = true ↔ hi.toInt ≤ lo.toInt ∨ strip = 0 := by
  rw [Bool.or_eq_true, BitVec.sle_iff_toInt_le, beq_iff_eq]

include hr hq h in
theorem spawnl_frame {v : State} {lo hi strip : Word} {ch : Nat} (hc : w.cancelled 0 (Spec.launch w) = false) (hk : Spec.kind bs = 1)
    (hf : Answers (readFrame (Spec.record w bs (s.me.x x.a)).fp) w (lo, hi, strip, ch) v) : exec (.spawnl x) s = .next (
      if hi.toInt ≤ lo.toInt ∨ strip = 0 then v.wrote x.d 6
      else if (v.die (s.cur / 40)).bound.getLsbD ch then v.wrote x.d 5
      else match freeLoop (v.die (s.cur / 40)).loops with
        | none => v.wrote x.d 4
        | some k =>
          (Spec.counted (v.updDie (s.cur / 40) fun q => { q with loops := q.loops ++ [{
            number := k, task := Spec.record w bs (s.me.x x.a), launch := Spec.launch w, next := 0, lo := lo, hi := hi, strip := strip, channel := ch,
            bound := false, live := 0, ck := Clock.reset }] }) (Spec.launch w)).wrote x.d 0) := by
  obtain ⟨-, hsw⟩ := recordRead_answers hq h
  have hwv := (steady_of_answers (steady_readFrame _) hf).settled
  have hlaunch : v.me.launchId = Spec.launch w := by
    rw [launchId_eq, Spec.launch, hwv.launch]
    rfl
  have hd : dieOf w.cur = s.cur / 40 := by rw [hsw.cur]; rfl
  have hend {t : State} (ht : Ends (do
      if hi.sle lo || strip == 0 then writeX x.d 6
      else if v.chanBound (s.cur / 40) ch then writeX x.d 5
      else
        match freeLoop (v.die (s.cur / 40)).loops with
        | none => writeX x.d 4
        | some n =>
          let l : Loop := { number := n, task := Spec.record w bs (s.me.x x.a), launch := Spec.launch w, next := 0, lo := lo, hi := hi,
                            strip := strip, channel := ch, bound := false, live := 0, ck := Clock.reset }
          set (Spec.counted (v.updDie (s.cur / 40) fun q => { q with loops := q.loops ++ [l] }) (Spec.launch w))
          writeX x.d 0) v t) : exec (.spawnl x) s = .next t.goesOn := by
    refine spawnl_ends hr hq h ?_
    rw [if_neg (Bool.eq_false_iff.1 hc), if_neg (not_not.2 hk)]
    refine ends_bind hf (ends_bind (run_get v) ?_)
    dsimp only
    simp only [hlaunch, hd, counted_eq]
    exact ht
  by_cases hbad : hi.toInt ≤ lo.toInt ∨ strip = 0
  · rw [if_pos hbad]
    exact hend (by rw [if_pos ((sle_or_zero lo hi strip).2 hbad)]; exact run_writeX _ _ v)
  rw [if_neg hbad]
  have hbad' := mt (sle_or_zero lo hi strip).1 hbad
  by_cases hb : (v.die (s.cur / 40)).bound.getLsbD ch = true
  · rw [if_pos hb]
    exact hend (by rw [if_neg hbad', if_pos (show v.chanBound (s.cur / 40) ch = true from hb)]; exact run_writeX _ _ v)
  rw [if_neg hb]
  cases hl : freeLoop (v.die (s.cur / 40)).loops with
  | none => exact hend (by rw [if_neg hbad', if_neg (show ¬ v.chanBound (s.cur / 40) ch = true from hb), hl]; exact run_writeX _ _ v)
  | some k =>
    exact hend (by
      rw [if_neg hbad', if_neg (show ¬ v.chanBound (s.cur / 40) ch = true from hb), hl]
      exact ends_bind (run_set _ v) (run_writeX _ _ _))

end

theorem freeLoop_none (ls : List Loop) : freeLoop ls = none ↔ ∀ k, k < 16 → ∃ l ∈ ls, l.number = k := by
  unfold freeLoop
  rw [List.find?_eq_none]
  simp

theorem freeLoop_some {ls : List Loop} {k : Nat} (h : freeLoop ls = some k) :
    k < 16 ∧ (∀ l ∈ ls, l.number ≠ k) ∧ ∀ j, j < k → ∃ l ∈ ls, l.number = j := by
  unfold freeLoop at h
  rw [List.find?_range_eq_some] at h
  obtain ⟨hk, hlt, hmin⟩ := h
  exact ⟨List.mem_range.1 hlt, by simpa using hk, by simpa using hmin⟩

theorem spawnResults : Spec.SpawnResults := by
  intro s w x bs hr hq h r n canc d is
  obtain ⟨-, hsw⟩ := recordRead_answers hq h
  refine ⟨⟨?_, ?_⟩, fun hc => ?_, fun hc hk => ?_, fun v lo hi strip ch hc hk hf => spawnl_frame hr hq h hc hk hf,
    fun ls => ⟨freeLoop_none ls, fun k => freeLoop_some⟩⟩
  · refine spawn_completes hr hq h (fun hp => mild_pushDeque hp) ?_
    rw [pushDeque_eq]
    simp only [decide_eq_true_eq]
    rfl
  · refine spawn_completes hr hq h (fun hp => mild_pushInject hp) ?_
    rw [pushInject_eq, show dieOf w.cur = d from congrArg dieOf hsw.cur]
    simp only [decide_eq_true_eq]
    rfl
  · exact spawnl_ends hr hq h (t := w.updMe fun k => k.setX x.d 2) (by rw [if_pos hc]; exact run_writeX _ _ w)
  · exact spawnl_ends hr hq h (t := w.updMe fun k => k.setX x.d 3) (by rw [if_neg (Bool.eq_false_iff.1 hc), if_pos hk]; exact run_writeX _ _ w)

end Sys2Proof.Machine
end

section
/-! PROOF. YIELD (R361), and what ends with a task. -/
namespace Sys2Proof.Machine

open Sys2Proof

/-! ## What ends with a task -/

theorem run_settleStores {s : State} (hc : s.cur < s.cores.length) (hq : s.me.queue = []) : Ends settleStores s (s.flushSb s.cur) := by
  have hsb : (s.flushSb s.cur).me.sb = [] := by
    rw [State.me, flushSb_cur]
    exact flushSb_sb hc hq
  unfold settleStores
  refine ends_bind (run_myNumber s) (ends_bind (run_modify _ s) (ends_bind (run_getMe _) ?_))
  rw [hsb]
  rfl

theorem run_endWaits {s : State} (hc : s.cur < s.cores.length) (hq : Spec.Quiet s) : Ends endWaits s (Spec.ended s) := by
  unfold endWaits
  exact ends_bind (run_myNumber s) (ends_bind (run_waitEmpty_quiet hq) (ends_bind (run_settleStores hc hq.queue) (run_modify _ _)))

theorem idled_fields (k : Core) : { k.dropDrain with
      act := .idle, line := none, queue := [], held := [], run := none, failing := none, deadline := none, restored := false,
      settling := none, sstat := { k.sstat with held := false, loaded := false, nest := false, mode := false } } =
    { k.pend (k.draining.map Prod.fst) with
      act := .idle, line := none, queue := [], held := [], run := none, failing := none, deadline := none,
      restored := false, settling := none, draining := none, sstat := { k.sstat with held := false, loaded := false, nest := false, mode := false } } := rfl

theorem pend_reclaim (k : Core) (o : Option Trap) : (k.pend o).reclaim = k.reclaim := by
  unfold Core.pend
  split
  · split
    · rfl
    · split <;> rfl
  · rfl

/-- A core that keeps its share becomes idle. -/
theorem run_goIdle {s : State} (hc : s.cur < s.cores.length) (h : s.me.reclaim = false) : Ends goIdle s (Spec.idled s) := by
  unfold goIdle
  refine ends_bind (run_myNumber s) (ends_bind (run_modify _ s) (ends_bind (run_modMe _ _) (ends_bind (run_getMe _) ?_)))
  have ha : s.abandoned.cur < s.abandoned.cores.length := valid_abandoned hc
  have hcur : s.abandoned.cur = s.cur := freeMonitor_cur s s.cur
  change Ends (if (s.abandoned.updMe _).me.reclaim = true then _ else _) (s.abandoned.updMe _) _
  rw [me_updMe _ _ ha, if_neg]
  · rfl
  · change ¬ (s.abandoned.me.pend _).reclaim = true
    rw [pend_reclaim, me_abandoned hc]
    simpa using h

theorem releaseWrites_device {s : State} (hq : Spec.Quiet s) : Ends (releaseWrites deviceScope) s (Spec.released s .device) :=
  releaseWrites_ends hq.channels .device (by decide) (by decide) (by decide) (by decide)

theorem Settled.valid {s t : State} (h : Settled s t) (hc : s.cur < s.cores.length) : t.cur < t.cores.length := h.sameCores.valid hc

theorem Settled.quiet {s t : State} (h : Settled s t) (hq : Spec.Quiet s) : Spec.Quiet t := quiet_of_sameCores h.sameCores hq

theorem settled_of_ends {m : M Unit} (hm : Keeps Settled m) {s t : State} (h : Ends m s t) : Settled s t := settled_of_run hm h

/-! ## YIELD (R361) -/

theorem SameCores.reclaim {s t : State} (h : SameCores s t) : t.me.reclaim = s.me.reclaim := (congrArg Core.reclaim h.me : t.me.still.reclaim = _)

theorem injected_me (s : State) (d part : Nat) (r : Rec) : SameCores s (Spec.injected s d part r) := by
  obtain ⟨a, ha⟩ := injected_eq s d part r
  rw [ha]
  have h := (settled_publish s none a (Spec.recordBytes r)).sameCores
  exact ⟨h.1, h.2⟩

theorem run_yieldTo {w u : State} {bs : List Byte} {a : Word} {r : Rec} (hc : w.cur < w.cores.length)
    (hrun : w.me.run = some { task := r, strip := none }) (hrec : w.me.reclaim = false)
    (hroom : ((w.die (dieOf w.cur)).inject.filter fun q => q.1 == 1).length < 4096) (hu : Ends (endStep2 none 0) w u) :
    Ends (yieldTo bs a) w (Spec.idled (Spec.injected u (dieOf w.cur) 1 (Spec.record w bs a))) := by
  have hs := settled_of_ends (settled_endStep2 none 0) hu
  have hpush : u.pushInject (dieOf w.cur) 1 (Spec.record w bs a) = some (Spec.injected u (dieOf w.cur) 1 (Spec.record w bs a)) := by
    rw [pushInject_eq, if_pos (rfl : (1 : Nat) = 1), hs.inject, if_pos hroom]
  have hme := injected_me u (dieOf w.cur) 1 (Spec.record w bs a)
  have hreclaim := hme.reclaim.trans (hs.reclaim.trans hrec)
  unfold yieldTo
  refine ends_bind (run_myNumber w) (ends_bind (run_get w) ?_)
  dsimp only
  rw [if_neg (show ¬ reserveRoom ≤ (w.die (dieOf w.cur)).injected 1 from not_le.2 hroom), pushedRec_eq, hrun]
  dsimp only [Option.bind_some]
  have hgo := run_goIdle (hme.valid (hs.valid hc)) hreclaim
  have hmod : Ends (modify fun s => (s.pushInject (dieOf w.cur) 1 (Spec.record w bs a)).getD s) u
      ((u.pushInject (dieOf w.cur) 1 (Spec.record w bs a)).getD u) := run_modify _ u
  rw [hpush] at hmod
  exact ends_bind hu (ends_bind hmod hgo)

theorem yieldResults : Spec.YieldResults := by
  intro s x q t v w bs r hc hq a ha hp hv hread
  have hst := (steady_of_answers (steady_place _ _ _) hp).settled
  have hte := settled_ended t
  have hev : Settled (Spec.ended t) v := by
    split at hv
    · rw [hv]; exact settled_frame.refl _
    · exact (steady_of_answers steady_checkJb hv).settled
  have hsv := hst.trans (hte.trans hev)
  have hsw := hsv.trans ((settled_released v .device).trans (steady_of_answers (steady_vecRead _ _ _ _) hread).settled)
  have hmode : (Spec.ended t).me.sstat = s.me.sstat := (hst.trans hte).sameCores.sstat
  have hrelease : Ends (do
      endWaits
      if (← getMe).sstat.mode then pure () else checkJb
      releaseWrites deviceScope) t (Spec.released v .device) := by
    refine ends_bind (run_endWaits (hst.valid hc) (hst.quiet hq)) (ends_bind (run_getMe _) ?_)
    rw [hmode]
    dsimp only
    split
    next hm => 
      rw [if_pos hm] at hv
      rw [← hv]
      exact releaseWrites_device (hsv.quiet hq)
    next hm =>
      rw [if_neg hm] at hv
      exact ends_bind hv (releaseWrites_device (hsv.quiet hq))
  have hrec := answers_readRecord ha hp hrelease hread
  refine ⟨fun hk => ?_, fun u hk hrun hreclaim hroom hu => ?_⟩
  · refine instr_traps (pending_of_queue hq.queue _) (traps_bind (run_readX _ s) (traps_bind hrec (traps_bind (run_getMe w) ?_)))
    rw [if_pos (show bits (dword bs 24) 23 16 ≠ 0 from hk), Core.undefinedCase, show w.me.head = s.me.head from (congrArg Core.head hsw.me : w.me.still.head = s.me.still.head)]
    rfl
  · rw [← hsw.cur] at hroom ⊢
    refine instr_stays (pending_of_queue hq.queue _) (answers_bind (run_readX _ s) (answers_bind hrec (answers_bind (run_getMe w) ?_)))
    rw [if_neg (show ¬ bits (dword bs 24) 23 16 ≠ 0 from not_not.2 hk)]
    exact answers_bind (run_yieldTo (hsw.valid hc) (hsw.run.trans hrun) (hsw.reclaim.trans hreclaim) hroom hu) (run_pure _ _)

end Sys2Proof.Machine
end

section
/-! PROOF. LVCANCEL and LVQUERY (R334, R342, R363). -/
namespace Sys2Proof.Machine

open Sys2Proof

theorem selected_eq (s : State) (sel : Word) : s.me.selected sel = Spec.level s sel := by
  have hid : (bits sel.toNat 15 0 = 0) = (sel.extractLsb' 0 16 = 0) := by
    rw [bits_toNat]
    exact propext ⟨fun h => BitVec.eq_of_toNat_eq h, fun h => congrArg BitVec.toNat h⟩
  have hown (n : Nat) : bits s.me.launch.toNat (16 * n + 15) (16 * n) = (s.me.launch.extractLsb' (16 * n) 16).toNat := by
    rw [bits_toNat, show 16 * n + 15 + 1 - 16 * n = 16 by omega]
  unfold Core.selected Spec.level
  simp only [hid, hown, Bool.not_eq_true']
  rw [bits_toNat, bits_toNat, ite_or]

theorem flagNat_bit (n : Nat) : flagNat (bit n 0) = n % 2 := by
  unfold flagNat bit
  rw [Nat.testBit_zero]
  split
  next h => exact (of_decide_eq_true h).symm
  next h => 
    have : ¬ n % 2 = 1 := by simpa using h
    omega

theorem scalar_ends_of_mild {rs : List Reg} {body : M Unit} {s t : State} (h : Ready s rs) (hb : Ends body s t) (hm : Mild True s t) :
    scalar rs body s = .next t.goesOn := by
  obtain ⟨hc, hn⟩ := hm.next_ok h.cur h.next
  exact scalar_completes h hb hc hn

theorem mild_setX {s t : State} (h : Mild True s t) (d : Reg) (v : Word) : Mild True s (t.updMe fun k => k.setX d v) :=
  mild_updMe h fun k => by simp

theorem lvcancel_none {s : State} {x : R2T2} (h : Ready s [x.d, x.a]) (hl : Spec.level s (s.me.x x.a) = none) :
    exec (.lvcancel x) s = .next (s.wrote x.d (BitVec.allOnes 64)) := by
  refine scalar_ends_of_mild h (ends_bind (run_readX _ s) (ends_bind (run_getMe s) ?_)) (mild_setX (mild_refl s) _ _)
  rw [selected_eq, hl]
  rfl

theorem lvquery_none {s : State} {x : R2T2} (h : Ready s [x.d, x.a]) (hl : Spec.level s (s.me.x x.a) = none) :
    exec (.lvquery x) s = .next (s.wrote x.d (BitVec.allOnes 64)) := by
  refine scalar_ends_of_mild h (ends_bind (run_readX _ s) (ends_bind (run_getMe s) ?_)) (mild_setX (mild_refl s) _ _)
  rw [selected_eq, hl]
  rfl

/-! ## LVCANCEL -/

theorem releaseLoops_none {s : State} {d : Nat} (h : ∀ l ∈ (s.die d).loops, ¬ (l.bound = true ∧ s.cancelled 0 l.launch = true)) :
    s.releaseLoops d = s := by
  rw [State.releaseLoops, List.filter_eq_nil_iff.2 fun l hl => by rw [Bool.and_eq_true]; exact h l hl]
  rfl

theorem foldl_fixed {α β : Type} {f : β → α → β} {b : β} {l : List α} (h : ∀ a ∈ l, f b a = b) : l.foldl f b = b := by
  induction l with
  | nil => rfl
  | cons a l ih =>
    obtain ⟨ha, hl⟩ := List.forall_mem_cons.1 h
    rw [List.foldl_cons, ha, ih hl]

theorem releaseAll_none {p : State} (h : ∀ d, d < 4 → ∀ l ∈ (p.die d).loops, ¬ (l.bound = true ∧ p.cancelled 0 l.launch = true)) :
    (List.range 4).foldl State.releaseLoops p = p :=
  foldl_fixed fun d hd => releaseLoops_none (h d (List.mem_range.1 hd))

theorem lvcancel_result {s : State} {x : R2T2} (h : Spec.Accessing s [x.d, x.a]) (hq : Spec.Quiet s) {kind id : Nat}
    (hl : Spec.level s (s.me.x x.a) = some (kind, id)) :
    exec (.lvcancel x) s = .next (((Spec.released s .device).cancelLevel kind id).wrote x.d
      (word (flagNat ((Spec.released s .device).cancelOf kind id)))) := by
  refine scalar_ends_of_mild h.ready (ends_bind (run_readX _ s) (ends_bind (run_getMe s) ?_)) (mild_setX ?_ _ _)
  · rw [selected_eq, hl]
    exact ends_bind (run_scalarRelease hq .device) rfl
  · exact mild_cancelLevel (mild_of_answers (tame_scalarRelease .device) (run_scalarRelease hq .device)) kind id

theorem cancelLevel_released (s : State) (kind id : Nat) :
    (Spec.released s .device).cancelLevel kind id =
      (List.range 4).foldl State.releaseLoops ((Spec.released s .device).publish none (s.sbase + 64 * (65536 * kind + id) + 16)
        (leBytes 8 (Nat.lor ((Spec.released s .device).num (s.sbase + 64 * (65536 * kind + id) + 16) 8) 1))) := by
  rw [← (settled_released s .device).sbase]
  rfl

theorem cancelOf_released (s : State) (kind id : Nat) : flagNat ((Spec.released s .device).cancelOf kind id) =
    (Spec.released s .device).num (s.sbase + 64 * (65536 * kind + id) + 16) 8 % 2 := by
  rw [State.cancelOf, flagNat_bit, State.levelAddr, (settled_released s .device).sbase]

/-! ## LVQUERY -/

theorem fetched_readPlace (x : Ctx) (va : Nat) : Keeps Fetched (readPlace x va) := by
  unfold readPlace readIn
  refine keeps_bind fetched_frame (fetched_place x .read va) fun q => keeps_bind fetched_frame (keeps_get fetched_frame) fun s => ?_
  split
  · exact keeps_pure fetched_frame _
  · exact keeps_ite (keeps_raise fetched_frame _) (keeps_pure fetched_frame _)

theorem fetched_deviceRead (x : Ctx) (va n : Nat) : Keeps Fetched (deviceRead x va n) := by
  unfold deviceRead
  refine keeps_bind fetched_frame (keeps_tryTrap fetched_frame ?_) fun r => ?_
  · refine keeps_bind fetched_frame (fetched_readPlace x va) fun t => keeps_bind fetched_frame (keeps_get fetched_frame) fun s => ?_
    split
    · exact keeps_raise fetched_frame _
    · exact keeps_pure fetched_frame _
  · split <;> exact keeps_pure fetched_frame _

theorem acquireFlags_eq (s : State) (kind id : Nat) : s.acquireFlags kind id =
    (s.levelChain 262144 kind id).foldl (fun t p => t.joinCk t.cur (s.stampOf (s.levelAddr p.1 p.2 / 64))) s := by
  have h : (262144 : Nat) = levelCount := rfl
  rw [h]
  rfl

/-- Joining stamps leaves memory and the place of the scheduler area, and the core's clock is then at or after each of them. -/
theorem joined_chain {f : Nat × Nat → Clock} (l : List (Nat × Nat)) (s : State) :
    let v := l.foldl (fun t p => t.joinCk t.cur (f p)) s
    v.mem = s.mem ∧ v.sbase = s.sbase ∧ v.cur = s.cur ∧ (s.cur < s.cores.length →
      v.cur < v.cores.length ∧ ∀ d, s.me.ck.get d ≤ v.me.ck.get d ∧ ∀ p ∈ l, (f p).get d ≤ v.me.ck.get d) := by
  induction l generalizing s with
  | nil => exact ⟨rfl, rfl, rfl, fun hc => ⟨hc, fun d => ⟨le_refl _, fun p hp => absurd hp List.not_mem_nil⟩⟩⟩
  | cons p l ih =>
    obtain ⟨hm, hb, hn, hrest⟩ := ih (s.joinCk s.cur (f p))
    refine ⟨hm, hb, hn, fun hc => ?_⟩
    have hme : (s.joinCk s.cur (f p)).me.ck = s.me.ck.join (f p) := congrArg Core.ck (me_updMe s _ hc)
    obtain ⟨hv, hget⟩ := hrest (by simpa [State.joinCk] using hc)
    refine ⟨hv, fun d => ?_⟩
    obtain ⟨hle, hall⟩ := hget d
    rw [hme, get_join] at hle
    refine ⟨le_trans (le_max_left _ _) hle, fun q hq => ?_⟩
    rcases List.mem_cons.1 hq with rfl | hq
    · exact le_trans (le_max_right _ _) hle
    · exact hall q hq

theorem cancelled_of_mem {s t : State} (hm : t.mem = s.mem) (hb : t.sbase = s.sbase) (kind id : Nat) : t.cancelled kind id = s.cancelled kind id :=
  cancelled_congr (fun a => num_congr hm a 8) hb kind id

/-- The bits of what LVQUERY answers, of four flags and a count below 2^32. -/
theorem levelWord_bits (a b c d : Bool) {n : Nat} (hn : n < 2 ^ 32) :
    let f := word (flagNat a + 2 * flagNat b + 4 * flagNat c + 8 * flagNat d + n * 2 ^ 32)
    f.getLsbD 0 = a ∧ f.getLsbD 1 = b ∧ f.getLsbD 2 = c ∧ f.getLsbD 3 = d ∧ f.extractLsb' 4 28 = 0 ∧ (f.extractLsb' 32 32).toNat = n := by
  have hlow : flagNat a + 2 * flagNat b + 4 * flagNat c + 8 * flagNat d < 16 := by
    cases a <;> cases b <;> cases c <;> cases d <;> decide
  have hbit (i : Nat) (hi : i < 4) : (word (flagNat a + 2 * flagNat b + 4 * flagNat c + 8 * flagNat d + n * 2 ^ 32)).getLsbD i =
      (flagNat a + 2 * flagNat b + 4 * flagNat c + 8 * flagNat d).testBit i := by
    rw [word, BitVec.getLsbD_ofNat, show n * 2 ^ 32 = 2 ^ 32 * n from Nat.mul_comm _ _, Nat.add_comm, Nat.testBit_two_pow_mul_add _ (by omega),
      if_pos (by omega)]
    simp only [Bool.and_eq_right_iff_imp, decide_eq_true_eq]
    omega
  refine ⟨?_, ?_, ?_, ?_, ?_, ?_⟩
  · rw [hbit 0 (by decide)]
    cases a <;> cases b <;> cases c <;> cases d <;> decide
  · rw [hbit 1 (by decide)]
    cases a <;> cases b <;> cases c <;> cases d <;> decide
  · rw [hbit 2 (by decide)]
    cases a <;> cases b <;> cases c <;> cases d <;> decide
  · rw [hbit 3 (by decide)]
    cases a <;> cases b <;> cases c <;> cases d <;> decide
  · refine BitVec.eq_of_toNat_eq ?_
    rw [BitVec.extractLsb'_toNat, word, BitVec.toNat_ofNat, Nat.shiftRight_eq_div_pow, show BitVec.toNat (0 : BitVec 28) = 0 from rfl]
    omega
  · rw [BitVec.extractLsb'_toNat, word, BitVec.toNat_ofNat, Nat.shiftRight_eq_div_pow]
    omega

theorem imp_of_ite {c : Prop} [Decidable c] {a b r : Prop} (ha : c → a → r) (hb : ¬ c → b → r) : (if c then a else b) → r := by
  split
  next h => exact ha h
  next h => exact hb h

theorem lvquery_result {s t : State} {x : R2T2} (h : Spec.Accessing s [x.d, x.a]) {kind id : Nat}
    (hl : Spec.level s (s.me.x x.a) = some (kind, id)) {w : Option (List Byte)} (hm : Mild True s t)
    (hr : s.num (s.levelAddr kind id + 24) 8 % 8 = 0 ∧
        Answers (deviceRead (s.levelCtx s.cur kind id) (s.num (s.levelAddr kind id + 24) 8) 8) s w t ∨
      s.num (s.levelAddr kind id + 24) 8 % 8 ≠ 0 ∧ w = none ∧ t = s) :
    exec (.lvquery x) s = .next ((t.acquireFlags kind id).wrote x.d (s.levelState kind id (bit (leNat (w.getD [])) 1))) := by
  refine scalar_ends_of_mild h.ready (ends_bind (run_readX _ s) (ends_bind (run_getMe s) ?_)) (mild_setX (mild_acquireFlags hm kind id) _ _)
  rw [selected_eq, hl]
  refine ends_bind (run_acquireGate h.free) (ends_bind (run_get s) ?_)
  dsimp only
  rcases hr with ⟨hc, hr⟩ | ⟨hc, rfl, rfl⟩
  · rw [if_pos hc]
    exact ends_bind hr (ends_bind (run_modify _ t) (run_writeX _ _ _))
  · rw [if_neg hc]
    exact ends_bind (run_pure none t) (ends_bind (run_modify _ t) (run_writeX _ _ _))

/-- What LVQUERY answers, and what its acquire leaves, after a read of the completion word that keeps memory. -/
theorem lvquery_spec {s t : State} {x : R2T2} {kind id : Nat} {w : Option (List Byte)} (hm : t.mem = s.mem) (hb : t.sbase = s.sbase)
    (he : exec (.lvquery x) s = .next ((t.acquireFlags kind id).wrote x.d (s.levelState kind id (bit (leNat (w.getD [])) 1)))) :
    let a := s.sbase + 64 * (65536 * kind + id)
    let v := t.acquireFlags kind id
    let failed := (leNat (w.getD [])).testBit 1
    ∃ f : Word, exec (.lvquery x) s = .next (v.wrote x.d f) ∧ (f.getLsbD 0 = (v.num (a + 16) 8).testBit 0) ∧
      f.getLsbD 1 = v.cancelled kind id ∧ f.getLsbD 2 = decide (v.num (a + 8) 8 % 4 = 2) ∧ f.getLsbD 3 = failed ∧
      f.extractLsb' 4 28 = 0 ∧ (f.extractLsb' 32 32).toNat = v.num a 4 ∧ (t.cur < t.cores.length →
        ∀ q ∈ t.levelChain 262144 kind id, ∀ d, d < 4 →
          (t.stampOf ((s.sbase + 64 * (65536 * q.1 + q.2)) / 64)).get d ≤ v.me.ck.get d) ∧
      (∀ l i, ∃ rest, t.levelChain (l + 1) kind i = (kind, i) :: rest) := by
  have hj := joined_chain (f := fun p => t.stampOf (t.levelAddr p.1 p.2 / 64)) (t.levelChain 262144 kind id) t
  rw [← acquireFlags_eq] at hj
  obtain ⟨hvm, hvb, -, hck⟩ := hj
  have hnum (a n : Nat) : (t.acquireFlags kind id).num a n = s.num a n := num_congr (hvm.trans hm) a n
  intro a v failed
  rw [cancelled_of_mem (hvm.trans hm) (hvb.trans hb), hnum, hnum, hnum]
  obtain ⟨h0, h1, h2, h3, h4, h5⟩ := levelWord_bits (s.cancelOf kind id) (s.cancelled kind id)
    (s.num (s.levelAddr kind id + 8) 8 % 4 == 2) failed (n := s.num (s.levelAddr kind id) 4) (leNat_lt _)
  refine ⟨_, he, h0, h1, h2, h3, h4, h5, fun hc q hq d _ => ?_, fun l i => ⟨_, rfl⟩⟩
  have hle := ((hck hc).2 d).2 q hq
  rw [State.levelAddr, hb] at hle
  exact hle

theorem levelResults : Spec.LevelResults := by
  intro s x h hq
  refine ⟨fun hl => ⟨lvcancel_none h.ready hl, lvquery_none h.ready hl⟩, fun kind id hl => ⟨?_, fun hall => ?_, fun t w => imp_of_ite ?_ ?_⟩⟩
  · rw [lvcancel_result h hq hl, cancelLevel_released, cancelOf_released]
  · exact releaseAll_none hall
  · intro hc hr
    refine lvquery_spec (fetched_of_answers (fetched_deviceRead _ _ _) hr).2.1 (steady_of_answers (steady_deviceRead _ _ _) hr).settled.sbase
      (lvquery_result h hl (mild_of_answers (tame_deviceRead _ _ _) hr) (.inl ⟨hc, hr⟩))
  · rintro hc ⟨rfl, rfl⟩
    exact lvquery_spec rfl rfl (lvquery_result h hl (mild_refl t) (.inr ⟨hc, rfl, rfl⟩))

/-- Settles O23: each instruction of records and levels against its rule, over what a read of a record leaves. -/
theorem spawnsYieldsAndLevels : Obligations.SpawnsYieldsAndLevels := ⟨spawnResults, yieldResults, levelResults, placesApart⟩

end Sys2Proof.Machine
end

section
/-! PROOF. END, and COUNT of a launch (R341, R353, R362). -/
namespace Sys2Proof.Machine

open Sys2Proof

/-! ## Whether a core leaves its share when it idles -/

/-- The executing core, and what each core has been asked to leave, stay. -/
def SameReclaim (s t : State) : Prop := t.cur = s.cur ∧ t.cores.map Core.reclaim = s.cores.map Core.reclaim

theorem sameReclaim_frame : Frame SameReclaim := ⟨fun _ => ⟨rfl, rfl⟩, fun h g => ⟨g.1.trans h.1, g.2.trans h.2⟩⟩

theorem SameCores.sameReclaim {s t : State} (h : SameCores s t) : SameReclaim s t := by
  have hr := congrArg (List.map Core.reclaim) h.2
  rw [List.map_map, List.map_map] at hr
  exact ⟨h.1, hr⟩

theorem Settled.sameReclaim {s t : State} (h : Settled s t) : SameReclaim s t := h.sameCores.sameReclaim

theorem SameReclaim.valid {s t : State} (h : SameReclaim s t) (hc : s.cur < s.cores.length) : t.cur < t.cores.length := by
  have hl := congrArg List.length h.2
  rw [List.length_map, List.length_map] at hl
  rwa [h.1, hl]

theorem SameReclaim.me {s t : State} (h : SameReclaim s t) : t.me.reclaim = s.me.reclaim := by
  have hget := congrArg (fun l => l.getD s.cur Core.reset.reclaim) h.2
  unfold State.me State.core
  rw [h.1]
  simpa [List.getD_map] using hget

theorem sameReclaim_updCore {f : Core → Core} (hf : ∀ k, (f k).reclaim = k.reclaim) (s : State) (c : Nat) : SameReclaim s (s.updCore c f) :=
  ⟨rfl, map_modifyNth hf c s.cores⟩

theorem sameReclaim_trans {s t u : State} (h : SameReclaim s t) (g : SameReclaim t u) : SameReclaim s u := sameReclaim_frame.trans h g

theorem SameReclaim.symm {s t : State} (h : SameReclaim s t) : SameReclaim t s := ⟨h.1.symm, h.2.symm⟩

theorem sameReclaim_publish (s : State) (key : Option Nat) (loc : Nat) (bs : List Byte) : SameReclaim s (s.publish key loc bs) :=
  (settled_publish s key loc bs).sameReclaim

theorem keeps_sameReclaim {m : M α} (h : Keeps Settled m) : Keeps SameReclaim m := fun s => (h s).sameReclaim

theorem sameReclaim_pushInject {s t : State} {d part : Nat} {r : Rec} (h : s.pushInject d part r = some t) : SameReclaim s t := by
  rw [pushInject_eq] at h
  generalize (if part = 1 then 4096 else 61440) = room at h
  split at h
  · rw [← Option.some.inj h]
    exact (injected_me s d part r).sameReclaim
  · cases h

theorem sameReclaim_pushDeque {s t : State} {c : Nat} {r : Rec} (h : s.pushDeque c r = some t) : SameReclaim s t := by
  rw [State.pushDeque] at h
  dsimp only at h
  split at h
  · cases h
  · split at h
    · rw [← Option.some.inj h]
      refine sameReclaim_trans (sameReclaim_publish s _ _ _) (sameReclaim_updCore ?_ _ c)
      exact fun _ => rfl
    · rw [← Option.some.inj h]
      refine sameReclaim_updCore ?_ s c
      exact fun _ => rfl

theorem sameReclaim_pushContinuation (s : State) (c : Nat) (r : Rec) : SameReclaim s (s.pushContinuation c r) := by
  unfold State.pushContinuation State.tryPush
  cases hd : s.pushDeque c r with
  | some t => exact sameReclaim_pushDeque hd
  | none =>
    cases hi : s.pushInject (dieOf c) 1 r with
    | some t => exact sameReclaim_pushInject hi
    | none => exact sameReclaim_updCore (f := fun k => { k with pendingPush := some r }) (fun _ => rfl) s c

theorem sameReclaim_joinAdd (x : Ctx) (q : Place) (va : Nat) (delta : Word) : Keeps SameReclaim (joinAdd x q va delta) := by
  have R := sameReclaim_frame
  unfold joinAdd
  refine keeps_bind R (keeps_sameReclaim (keeps_settled (steady_writeTarget x q va va))) fun t => keeps_get_bind fun s => ?_
  refine keepsAt_bind R (keeps_myNumber R s) fun c v hv => ?_
  cases hv
  have hl : KeepsAt SameReclaim (lostRead s.cur va t.loc) s := keeps_sameReclaim (keeps_settled (steady_lostRead s.cur va t.loc)) s
  refine keepsAt_bind R hl fun _ v hv => ?_
  rw [KeepsAt, hv] at hl
  split
  · exact keeps_raise R _ v
  · refine keepsAt_set_bind R (R.trans hl.symm (steady_flushOver s s.cur t.loc 8).settled.sameReclaim) (keeps_bind R (keeps_get R) fun _ => ?_)
    refine keeps_bind R (keeps_modify fun u => ?_) fun _ => keeps_ite ?_ (keeps_pure R _)
    · exact R.trans ((steady_perform u _ _ _ _).settled.trans (settled_ackFabric _ _ _)).sameReclaim (settled_noteJoin _ _ _).sameReclaim
    · exact keeps_get_bind fun u => keepsAt_set_bind R (R.trans (sameReclaim_publish u _ _ _) (sameReclaim_pushContinuation _ _ _)) (keeps_pure R _)

theorem sameReclaim_freeShare (s : State) (launch : Nat) : SameReclaim s (s.freeShare launch) := by
  unfold State.freeShare
  split
  · exact sameReclaim_frame.refl s
  · dsimp only
    split
    · exact ⟨rfl, rfl⟩
    · exact sameReclaim_trans ⟨rfl, rfl⟩ (sameReclaim_publish _ _ _ _)

theorem sameReclaim_completeLevel (x : Ctx) (fuel kind id : Nat) : Keeps SameReclaim (completeLevel x fuel kind id) := by
  have R := sameReclaim_frame
  have hput (s : State) (a v : Nat) : SameReclaim s (s.putWord a v) := sameReclaim_publish s _ _ _
  induction fuel generalizing kind id with
  | zero => exact keeps_pure R _
  | succ fuel ih =>
    unfold completeLevel
    refine keeps_get_bind fun s => keepsAt_set_bind R ?_ (keeps_bind R (keeps_get R) fun s => ?_)
    · split
      · exact R.trans (hput s _ _) (sameReclaim_freeShare _ id)
      · exact hput s _ _
    · refine keeps_bind R (keeps_sameReclaim (settled_deviceUpdate _ _ _)) fun w => ?_
      split
      · exact keeps_pure R _
      · refine keeps_bind R ?_ fun n => keeps_ite (ih _ _) (keeps_pure R _)
        exact keeps_get_bind fun s => keepsAt_set_bind R (hput s _ _)
          (keeps_bind R (keeps_sameReclaim (settled_deviceUpdate _ _ _)) fun _ => keeps_pure R _)

theorem sameReclaim_countDown (x : Ctx) (launch : Nat) : Keeps SameReclaim (countDown x launch) :=
  keeps_get_bind fun s => keepsAt_set_bind sameReclaim_frame (sameReclaim_publish s _ _ _)
    (keeps_ite (sameReclaim_completeLevel _ _ _ _) (keeps_pure sameReclaim_frame _))

/-! ## END (R362, R373) -/

theorem sameReclaim_of_ends {m : M Unit} (hm : Keeps SameReclaim m) {s t : State} (h : Ends m s t) : SameReclaim s t := by
  have hk := hm s
  rwa [KeepsAt, show runM m s = (.ok (), t) from h] at hk

/-- Step 3 of END. -/
theorem run_endStep3 {s t : State} {jb : Word}
    (h : if jb = 0 then t = s else jb.toNat % 64 = 0 ∧
      ∃ q u n, Answers (place (s.taskCtx s.cur) .write jb.toNat) s q u ∧ Answers (joinAdd (s.taskCtx s.cur) q jb.toNat (BitVec.allOnes 64)) u n t) :
    Ends (endStep3 jb) s t ∧ SameReclaim s t := by
  unfold endStep3
  split at h
  next h0 =>
    rw [if_pos h0, h]
    exact ⟨rfl, sameReclaim_frame.refl s⟩
  next h0 =>
    obtain ⟨h64, q, u, n, hp, hj⟩ := h
    rw [if_neg h0, if_neg (not_not.2 h64)]
    refine ⟨ends_bind (run_get s) (ends_bind (run_myNumber s) (ends_bind (tryTrap_answers (answers_bind hp hj)) rfl)), ?_⟩
    refine sameReclaim_frame.trans (steady_of_answers (steady_place _ _ _) hp).settled.sameReclaim ?_
    have hk := sameReclaim_joinAdd (s.taskCtx s.cur) q jb.toNat (BitVec.allOnes 64) u
    rwa [KeepsAt, show runM (joinAdd (s.taskCtx s.cur) q jb.toNat (BitVec.allOnes 64)) u = (.ok n, t) from hj] at hk

/-- Steps 2 to 4 of END for a task that is no strip. -/
theorem run_finishTask {p u1 u2 w : State} {r : Rec} {cause : Option Nat} {n : Nat} (hc : p.cur < p.cores.length)
    (hrun : p.me.run = some { task := r, strip := none }) (hrec : p.me.reclaim = false) (h2 : Ends (endStep2 cause n) p u1)
    (h3 : Ends (endStep3 r.jb) u1 u2 ∧ SameReclaim u1 u2) (h4 : Ends (countDown (p.taskCtx p.cur) (Spec.launch p)) u2 w) :
    Ends (finishTask cause n) p (Spec.idled w) := by
  have hw : SameReclaim p w := sameReclaim_frame.trans (sameReclaim_of_ends (keeps_sameReclaim (settled_endStep2 cause n)) h2)
    (sameReclaim_frame.trans h3.2 (sameReclaim_of_ends (sameReclaim_countDown _ _) h4))
  unfold finishTask
  refine ends_bind (run_myNumber p) (ends_bind (run_get p) ?_)
  dsimp only
  rw [hrun]
  rw [← launchId_eq] at h4
  exact ends_bind h2 (ends_bind (run_pure _ u1) (ends_bind h3.1 (ends_bind h4 (run_goIdle (hw.valid hc) (hw.me.trans hrec)))))

theorem endResults : Spec.EndResults := by
  intro s hc hq
  refine ⟨fun r v u1 u2 w hm hrun hrec hv h2 h3 h4 => ?_, fun hm hr => ?_⟩
  · have hsv : Settled s v := (settled_ended s).trans (settled_of_ends (keeps_settled steady_checkJb) hv)
    have hsp : Settled s (Spec.released v .device) := hsv.trans (settled_released v .device)
    have hsu : Settled s u1 := hsp.trans (settled_of_ends (settled_endStep2 none 1) h2)
    have h3' := run_endStep3 (jb := r.jb) (s := u1) (t := u2) (by rw [hsu.cur]; exact h3)
    have h4' : Ends (countDown ((Spec.released v .device).taskCtx (Spec.released v .device).cur) (Spec.launch (Spec.released v .device))) u2 w := by
      rw [hsp.cur, hsp.taskCtx, Spec.launch, hsp.launch]
      exact h4
    refine instr_stays (pending_of_queue hq.queue _) (answers_bind (run_getMe s) ?_)
    rw [if_neg (by rw [hm]; decide)]
    exact answers_bind (run_endWaits hc hq) (answers_bind hv (answers_bind (releaseWrites_device (hsv.quiet hq))
      (answers_bind (run_finishTask (hsp.valid hc) (hsp.run.trans hrun) (hsp.reclaim.trans hrec) h2 h3' h4') (run_pure _ _))))
  · have hf : Steady s (s.flushSb s.cur) := steady_flushSb s s.cur
    have hs := hf.settled
    have hu := ends_failTask (s := s.flushSb s.cur) (hs.valid hc) (by rw [hs.run]; exact hr) (failCause s.me.cause)
    refine ⟨(s.flushSb s.cur).failingWith (failCause s.me.cause), instr_stays (pending_of_queue hq.queue _) (answers_bind (run_getMe s) ?_), ?_, ?_⟩
    · rw [if_pos hm]
      exact answers_bind (run_waitUnstopped hq) (answers_bind (run_settleStores hc hq.queue) (answers_bind hu (run_pure _ _)))
    · rw [me_failingWith (hs.valid hc)]
    · rw [me_failingWith (hs.valid hc)]
      rfl

/-! ## What a write leaves outside its line -/

/-- Whether a write first fixes what the rest of its line shows. -/
def State.fixesLine (s : State) (key : Option Nat) (loc n : Nat) : Bool :=
  !(loc % 64 == 0 && n == 64) && ((s.vagueSeed (loc / 64)).isSome || (key.isNone && (s.sealOf (loc / 64)).isSome))

theorem mem_placeBytes_fix (s : State) (key : Option Nat) (loc : Nat) (bs : List Byte) : (s.placeBytes key loc bs).mem =
    ((if s.fixesLine key loc bs.length then s.setBytes (loc / 64 * 64) (s.readAs key (loc / 64 * 64) 64) else s).setBytes loc bs).mem := by
  refine mem_setBytes_congr ?_ loc bs
  have hclear (u : State) : (if (loc % 64 == 0 && bs.length == 64) = true then u.clearLine (loc / 64) else u).mem = u.mem := by
    split <;> rfl
  refine (hclear (if s.fixesLine key loc bs.length then ((s.noteDirty loc).makeExact (loc / 64)).setBytes (loc / 64 * 64)
    (s.readAs key (loc / 64 * 64) 64) else s.noteDirty loc)).trans ?_
  split
  · exact mem_setBytes_congr (s := (s.noteDirty loc).makeExact (loc / 64)) (mem_noteDirty s loc) _ _
  · exact mem_noteDirty s loc

theorem byte_placeBytes_out {s : State} {key : Option Nat} {loc a : Nat} {bs : List Byte} (hwf : Memory.wf s.mem = true)
    (hl : a / 64 ≠ loc / 64) (ha : a < loc ∨ loc + bs.length ≤ a) : (s.placeBytes key loc bs).byte a = s.byte a := by
  have hline : a < loc / 64 * 64 ∨ loc / 64 * 64 + (s.readAs key (loc / 64 * 64) 64).length ≤ a := by
    rw [readAs_length]
    omega
  rw [byte_congr (mem_placeBytes_fix s key loc bs)]
  split
  · rw [byte_setBytes_out (wf_setBytes _ _ hwf) ha, byte_setBytes_out hwf hline]
  · exact byte_setBytes_out hwf ha

/-- A write changes no byte outside its line and its range. -/
theorem byte_performAt_out {s : State} {c key : Option Nat} {loc a : Nat} {bs : List Byte} (hwf : Memory.wf s.mem = true)
    (hl : a / 64 ≠ loc / 64) (ha : a < loc ∨ loc + bs.length ≤ a) : (s.performAt c key loc bs).byte a = s.byte a := by
  unfold State.performAt
  split
  · exact byte_congr (mem_deferFail s c) a
  · split
    · rw [byte_congr ((mem_sendFabric _ _ _).trans (mem_noteWrite _ _ _)), byte_placeBytes_out hwf hl ha]
    · dsimp only
      rw [byte_congr (mem_stampAt _ _ _ _ _ _), byte_placeBytes_out (s := s.softWrite loc _) hwf hl]
      · rfl
      · split
        · rwa [keepRo_length]
        · exact ha

theorem byte_publish_out {s : State} {key : Option Nat} {loc a : Nat} {bs : List Byte} (hwf : Memory.wf s.mem = true)
    (hl : a / 64 ≠ loc / 64) (ha : a < loc ∨ loc + bs.length ≤ a) : (s.publish key loc bs).byte a = s.byte a := by
  unfold State.publish
  split
  · exact byte_performAt_out (s := s.ackEnded) hwf hl ha
  · exact (byte_performAt_out (s := s.drainInbox _) hwf hl ha)

theorem num_publish_out {s : State} {key : Option Nat} {loc a n : Nat} {bs : List Byte} (hwf : Memory.wf s.mem = true)
    (h : a + n ≤ loc / 64 * 64) : (s.publish key loc bs).num a n = s.num a n :=
  num_of_same fun i hi => byte_publish_out hwf (by omega) (.inl (by omega))

/-! ## COUNT falls (R353) -/

theorem wrote_putWord {s : State} {a v : Nat} (hs : Sound s (a / 64)) (hwf : Memory.wf s.mem = true) : Wrote s (s.putWord a v) a (leBytes 8 v) :=
  wrote_of_mem (mem_publish_sound hs _) hwf

theorem countDown_above {s : State} {c : Ctx} {launch : Nat} (h : s.num (s.levelAddr 0 launch) 8 ≠ 1) :
    Ends (countDown c launch) s
      (s.publish none (s.levelAddr 0 launch) (leBytes 8 ((s.num (s.levelAddr 0 launch) 8 + 2 ^ 64 - 1) % 2 ^ 64))) := by
  have hlt : s.num (s.levelAddr 0 launch) 8 < 2 ^ 64 := leNat_lt _
  refine ends_bind (run_get s) (ends_bind (run_set _ s) ?_)
  rw [if_neg (by omega)]
  rfl

/-- The share of a launch returns, and the word of its stream is noted at another line than the level records' own. -/
theorem freeShare_shares (s : State) (launch : Nat) : (s.freeShare launch).shareOfLaunch launch = none := by
  have hfilter : (s.shares.filter fun g => g.launch != launch).find? (fun h => h.launch == launch) = none := by
    rw [List.find?_eq_none]
    intro h hh
    have := (List.mem_filter.1 hh).2
    simpa using this
  unfold State.freeShare
  cases hh : s.shareOfLaunch launch with
  | none => exact hh
  | some h =>
    dsimp only
    split
    · exact hfilter
    · rw [State.shareOfLaunch, State.putWord, (settled_publish _ none _ _).shares]
      exact hfilter

theorem freeShare_sbase (s : State) (launch : Nat) : (s.freeShare launch).sbase = s.sbase := by
  unfold State.freeShare
  split
  · rfl
  · dsimp only
    split
    · rfl
    · exact (settled_publish _ none _ _).sbase

theorem num_freeShare {s : State} {launch a n : Nat} (hwf : Memory.wf s.mem = true) (hb : s.sbase % 64 = 0) (ha : a + n ≤ s.sbase + 0x2C00000) :
    (s.freeShare launch).num a n = s.num a n := by
  unfold State.freeShare
  split
  · rfl
  · next h _ =>
    dsimp only
    split
    · rfl
    · refine num_publish_out (s := { s with shares := s.shares.filter fun g => g.launch != launch }) hwf ?_
      unfold State.streamAddr
      dsimp only
      omega

/-- A launch without a parent completes at a COUNT of 1. -/
theorem countDown_last {s t : State} {c : Ctx} {launch : Nat} {w : Option Nat} (h : s.num (s.levelAddr 0 launch) 8 = 1)
    (hp : let u0 := s.putWord (s.levelAddr 0 launch) 0
      let u := (u0.putWord (u0.levelAddr 0 launch + 8) (u0.num (u0.levelAddr 0 launch + 8) 8 / 4 * 4 + 2)).freeShare launch
      u.parentOf 0 launch = none ∧
        Answers (deviceUpdate c (u.num (u0.levelAddr 0 launch + 24) 8) (doneWord (u.cancelled 0 launch))) u w t) :
    Ends (countDown c launch) s t := by
  have hfuel : levelCount = 262143 + 1 := rfl
  obtain ⟨hparent, hw⟩ := hp
  refine ends_bind (run_get s) ?_
  dsimp only
  rw [h, show (1 + 2 ^ 64 - 1) % 2 ^ 64 = 0 by decide]
  refine ends_bind (run_set _ s) ?_
  rw [if_pos rfl, hfuel, completeLevel]
  refine ends_bind (run_get _) (ends_bind (run_set _ _) (ends_bind (run_get _) ?_))
  rw [if_pos rfl]
  refine ends_bind hw ?_
  rw [hparent]
  rfl

theorem doneWord_bit (canc : Bool) (w i : Nat) : (doneWord canc w).testBit i =
    (w.testBit i || decide (i = 0) || (decide (i = 1) && decide (bits w 31 16 ≠ 0)) || (decide (i = 2) && canc)) := by
  have hlow (a b : Bool) (i : Nat) : (1 + (if a then 2 else 0) + (if b then 4 else 0)).testBit i =
      (decide (i = 0) || (decide (i = 1) && a) || (decide (i = 2) && b)) := by
    match i with
    | 0 => cases a <;> cases b <;> rfl
    | 1 => cases a <;> cases b <;> rfl
    | 2 => cases a <;> cases b <;> rfl
    | i + 3 =>
      rw [Nat.testBit_eq_false_of_lt]
      · simp
      · exact lt_of_lt_of_le (b := 8) (by cases a <;> cases b <;> decide) (Nat.pow_le_pow_right (n := 2) (by decide) (Nat.le_add_left 3 i))
  have h := hlow (decide (bits w 31 16 ≠ 0)) canc i
  unfold doneWord
  rw [show ∀ a b, Nat.lor a b = a ||| b from fun _ _ => rfl, Nat.testBit_or, Bool.or_assoc, Bool.or_assoc, ← Bool.or_assoc (decide (i = 0)), ← h]
  by_cases hb : bits w 31 16 = 0 <;> simp [hb]

theorem countFalls : Spec.CountFalls := by
  refine ⟨?_, doneWord_bit⟩
  intro s c launch hl a ha _ hwf hbad hseal hvague
  have hlev (t : State) (h : t.sbase = s.sbase) : t.levelAddr 0 launch = a := by
    show t.sbase + 64 * (65536 * 0 + launch) = s.sbase + 64 * launch
    omega
  have hs : Sound s (a / 64) := ⟨hbad, hseal, hvague⟩
  refine ⟨fun hn => ?_, fun hn hp => ?_⟩
  · have h := countDown_above (c := c) (launch := launch) (s := s) (by rw [hlev s rfl]; exact hn)
    rw [hlev s rfl] at h
    have hw := wrote_putWord (s := s) (v := (s.num a 8 + 2 ^ 64 - 1) % 2 ^ 64) hs hwf
    exact ⟨_, h, hw.num.trans (Nat.mod_mod _ _), hw.rest⟩
  · intro u0 u1 u
    have h0 : Wrote s u0 a (leBytes 8 0) := wrote_putWord hs hwf
    have hs0 : Sound u0 ((a + 8) / 64) := by
      rw [show (a + 8) / 64 = a / 64 by omega]
      exact sound_publish hs a _
    have h1 : Wrote u0 u1 (a + 8) (leBytes 8 (u0.num (a + 8) 8 / 4 * 4 + 2)) := wrote_putWord hs0 h0.wf
    have hb0 : u0.sbase = s.sbase := (settled_publish s none a _).sbase
    have hb1 : u1.sbase = s.sbase := (settled_publish u0 none (a + 8) _).sbase.trans hb0
    have hparent : u.num (a + 32) 8 = s.num (a + 32) 8 := by
      have := num_freeShare (s := u1) (launch := launch) (a := a + 32) (n := 8) h1.wf (by omega) (by omega)
      rw [this, h1.num_out (.inr (by rw [leBytes_length]; omega)), h0.num_out (.inr (by rw [leBytes_length]; omega))]
    refine ⟨?_, freeShare_shares u1 launch, fun w t hw => countDown_last (w := w) (by rw [hlev s rfl]; exact hn) ?_⟩
    · rw [h1.num]
      omega
    · have he0 : (s.putWord a 0).levelAddr 0 launch = a := hlev _ hb0
      dsimp only
      rw [hlev s rfl, he0]
      refine ⟨?_, hw⟩
      have hbu : u.sbase = s.sbase := (freeShare_sbase u1 launch).trans hb1
      change u.parentOf 0 launch = none
      rw [State.parentOf, hlev u hbu, hparent]
      exact if_pos hp

/-- Settles O25: END step by step over what each step leaves, and COUNT by what each write of the level record changes. -/
theorem endsAndCounts : Obligations.EndsAndCounts := ⟨endResults, countFalls⟩

end Sys2Proof.Machine
end

section
/-! PROOF. Side changes of glaze spans (R107, R108): a chunk of the pool that is named through the device's own number. -/
namespace Sys2Proof.Machine

open Sys2Proof

/-! A span record reads the chunk it names through `canonPa`, and an insertion writes the lines of the chunk where the pool names it. A pool
whose chunk stands at the device's own number in the fabric window tells the two apart: the inserted line is not where the record is read. -/

/-- A device whose pools hold one chunk of class 1, named through the device's own number 0, and whose memory holds one byte that is not 0. -/
def ownNumberPool : State :=
  { State.reset with
    mem := [(0x20000, 1)], devNo := 0,
    dies := List.replicate 4 { Die.reset with pools := [{ asid := 0, code := 1, chunks := [0xA000000000000] }] } }

def ownNumberPdb : Pdb := { addr := 0x10000, base := 0x20000, dtab := 0, sstab := 0, vreg := 0, vhead := 0, nspan := 1 }

def ownNumberPage : Page := { va := 0, size := 4096, base := 0x20000, leaf := 0, level := 0, pdb := some ownNumberPdb, spans := [] }

def ownNumberCtx : Ctx := { core := 0, asid := 0, ptroot := 0, sup := true, scx := 0 }

/-- The state and the line that a store to the page's first line is routed to. -/
def ownNumberRouted : State × Nat :=
  match ownNumberPool.routeGlaze ownNumberCtx ownNumberPage ownNumberPdb 0 0 with
  | .ok r => r
  | .error _ => (ownNumberPool, 0)

theorem routed_ownNumber : (match ownNumberPool.routeGlaze ownNumberCtx ownNumberPage ownNumberPdb 0 0 with
    | .ok r => some r
    | .error _ => none).isSome = true := by
  decide +kernel

theorem route_ownNumber : ownNumberPool.routeGlaze ownNumberCtx ownNumberPage ownNumberPdb 0 0 = .ok ownNumberRouted := by
  have h := routed_ownNumber
  unfold ownNumberRouted
  cases hr : ownNumberPool.routeGlaze ownNumberCtx ownNumberPage ownNumberPdb 0 0 with
  | ok r => rfl
  | error t => rw [hr] at h; cases h

theorem pool_ownNumber (code : Nat) (h : code ≤ 6) :
    (ownNumberPool.die (glazeDie ownNumberPdb)).pool 0 code = if code = 1 then [0xA000000000000] else [] := by
  interval_cases code <;> decide +kernel

theorem spanOk_ownNumber : Spec.SpanOk ownNumberPool ownNumberPdb ownNumberCtx.asid ownNumberPage.base 0 where
  memory := by decide +kernel
  cls := by decide +kernel
  fits := by decide +kernel
  owner := by decide +kernel
  chunk := by unfold Spec.ChunkApart Spec.Apart; decide +kernel
  record := by unfold Spec.Apart; decide +kernel
  aligned := by decide +kernel
  performed c hc e he := by
    have hs : ownNumberPool.core c = Core.reset := by
      rw [State.core, List.getD_eq_getElem _ _ hc]
      exact List.getElem_replicate hc
    rw [hs] at he
    cases he
  pool code c cs h1 h6 h := by
    rw [show ownNumberCtx.asid = 0 from rfl, pool_ownNumber code h6] at h
    split at h
    · cases h
      subst code
      unfold Spec.ChunkApart Spec.Apart
      decide +kernel
    · cases h

theorem seen_ownNumber : Spec.seen ownNumberRouted.1 ownNumberPdb 0x20000 0 0 0 ≠ Spec.seen ownNumberPool ownNumberPdb 0x20000 0 0 0 := by
  decide +kernel

/-- Refutes O44: where the pool names its chunk through the device's own number, a store's insertion puts the line where no id reads it. -/
theorem not_sideChangesKeepLines : ¬ Obligations.SideChangesKeepLines := by
  intro h
  have hdies : ownNumberPool.dies.length = 4 := by decide +kernel
  have hroute := (h ownNumberPool ownNumberCtx ownNumberPdb ownNumberPage 0 rfl spanOk_ownNumber hdies).1
  obtain ⟨⟨t, line⟩, hr⟩ : ∃ r, r = ownNumberRouted := ⟨_, rfl⟩
  have hgo := route_ownNumber
  rw [← hr] at hgo
  have hseen := (hroute 0 0 t line (Nat.le_refl 0) rfl hgo).1 0 0 (by decide)
  rw [show t = ownNumberRouted.1 from congrArg Prod.fst hr] at hseen
  exact seen_ownNumber hseen

end Sys2Proof.Machine
end

section
/-! PROOF. The overlay instructions (R121 to R127). -/
namespace Sys2Proof.Machine

open Sys2Proof

theorem released_ctx (s : State) : (Spec.released s .device).me.ctx (Spec.released s .device).cur = s.me.ctx s.cur := by
  have h := sameCores_released s .device
  rw [h.1]
  exact h.ctx s.cur

/-! ## GSPEC (R121) -/

theorem SameCores.scx {s t : State} (h : SameCores s t) : t.me.scx = s.me.scx := (congrArg Core.scx h.me : t.me.still.scx = _)

theorem gspec_result {s : State} {x : R2T2} (hr : Ready s [x.d, x.a]) (hq : Spec.Quiet s) :
    exec (.gspec x) s = .next (((Spec.released s .device).updMe fun k => { k with scx := (s.me.x x.a).extractLsb' 0 16 }).wrote x.d
      (s.me.scx.setWidth 64)) := by
  have hscx : (Spec.released s .device).me.scx = s.me.scx := (sameCores_released s .device).scx
  have hlow : (s.me.x x.a).extractLsb' 0 16 = (s.me.x x.a).setWidth 16 := (BitVec.setWidth_eq_extractLsb' (by decide)).symm
  have hm := mild_of_answers (p := True) (tame_scalarRelease .device) (run_scalarRelease hq .device)
  rw [hlow]
  refine scalar_ends_of_mild (t := ((Spec.released s .device).updMe fun k => { k with scx := (s.me.x x.a).setWidth 16 }).updMe fun k =>
    k.setX x.d (s.me.scx.setWidth 64)) hr ?_ (mild_setX (mild_updMe hm fun k => by simp) _ _)
  refine ends_bind (run_readX _ s) (ends_bind (run_scalarRelease hq .device) (ends_bind (run_getMe _) ?_))
  rw [hscx]
  exact ends_bind (run_modMe _ _) (run_writeX _ _ _)

/-! ## GCOMMIT and GDISCARD (R122, R123) -/

theorem settleOp_nothing {s : State} {x : R3T2} (hq : Spec.Quiet s) (commit : Bool) (h : s.me.scx = 0 ∨ (s.me.x x.b).toNat = 0) :
    Ends (settleOp commit x) s ((Spec.released s .device).updMe fun k => k.setX x.d 0) := by
  refine ends_bind (run_readX _ s) (ends_bind (run_readX _ s) (ends_bind (run_scalarRelease hq .device) (ends_bind (run_myCtx _) ?_)))
  rw [released_ctx]
  refine ends_bind (a := (0 : Word)) (t := Spec.released s .device) ?_ (run_writeX _ _ _)
  unfold settle
  rw [if_pos (h.imp id fun h0 => BitVec.eq_of_toNat_eq h0)]
  rfl

theorem settleOp_pages {s t : State} {x : R3T2} {k : Nat} (hq : Spec.Quiet s) (commit : Bool) (h0 : s.me.scx ≠ 0) (hn : (s.me.x x.b).toNat ≠ 0)
    (hp : let p := s.me.settling.getD ((s.me.x x.a).toNat, 0)
      Answers (settlePages (s.me.ctx s.cur) commit ((s.me.x x.b).toNat / 4096 + 2) p.1 ((s.me.x x.a).toNat + (s.me.x x.b).toNat) p.2)
        (Spec.released s .device) k t) :
    Ends (settleOp commit x) s ((t.updMe fun q => { q with settling := none }).updMe fun q => q.setX x.d (word k)) := by
  have hset : (Spec.released s .device).me.settling = s.me.settling := (sameFirm_released s .device).settling
  refine ends_bind (run_readX _ s) (ends_bind (run_readX _ s) (ends_bind (run_scalarRelease hq .device) (ends_bind (run_myCtx _) ?_)))
  rw [released_ctx]
  refine ends_bind (a := word k) (t := t.updMe fun q => { q with settling := none }) ?_ (run_writeX _ _ _)
  unfold settle
  rw [if_neg (show ¬ ((s.me.ctx s.cur).scx = 0 ∨ s.me.x x.b = 0) from not_or.2 ⟨h0, fun h => hn (congrArg BitVec.toNat h)⟩)]
  refine answers_bind (run_getMe _) ?_
  rw [Core.settlingFrom, hset]
  exact answers_bind hp (answers_bind (run_modMe _ t) (run_pure _ _))

theorem settleOp_spec {s : State} {x : R3T2} (hr : Ready s [x.d, x.a, x.b]) (hq : Spec.Quiet s) {i : Instr} {commit : Bool}
    (hi : exec i s = scalar [x.d, x.a, x.b] (settleOp commit x) s) :
    ((s.me.scx = 0 ∨ (s.me.x x.b).toNat = 0) → exec i s = .next ((Spec.released s .device).wrote x.d 0)) ∧
    (s.me.scx ≠ 0 → (s.me.x x.b).toNat ≠ 0 → let p := s.me.settling.getD ((s.me.x x.a).toNat, 0)
      ∀ k t, Answers (settlePages (s.me.ctx s.cur) commit ((s.me.x x.b).toNat / 4096 + 2) p.1 ((s.me.x x.a).toNat + (s.me.x x.b).toNat) p.2)
        (Spec.released s .device) k t → Spec.Stands s t →
        exec i s = .next ((t.updMe fun q => { q with settling := none }).wrote x.d (BitVec.ofNat 64 k))) := by
  rw [hi]
  exact ⟨fun h => scalar_ends hr (settleOp_nothing hq commit h) (tame_settleOp commit x),
    fun h0 hn k t hp _ => scalar_ends hr (settleOp_pages hq commit h0 hn hp) (tame_settleOp commit x)⟩

/-! ## GQUERY (R127) -/

theorem isPadVa_iff (a : Nat) : isPadVa a = true ↔ bits a 56 52 = 0x1F := decide_eq_true_iff

theorem gquery_ends {s t : State} {x : R3T2} {v : Word} (hr : Ready s [x.d, x.a, x.b])
    (h : Answers (gquery (s.me.ctx s.cur) (s.me.x x.a) (s.me.x x.b)) s v t) : exec (.gquery x) s = .next (t.wrote x.d v) := by
  refine scalar_ends_of_mild hr (ends_bind (run_readX _ s) (ends_bind (run_readX _ s) (ends_bind (run_myCtx s) (ends_bind h (run_writeX _ _ t)))))
    (mild_setX (mild_of_answers (tame_gquery _ _ _) h) _ _)

theorem gquery_pad {s : State} {c : Ctx} {a b : Word} (h57 : a.toNat < 2 ^ 57) (hp : bits a.toNat 56 52 = 0x1F) :
    Answers (gquery c a b) s 0 s := by
  unfold gquery
  rw [if_pos ⟨h57, (isPadVa_iff _).2 hp⟩]
  rfl

/-- A field of the span record that covers an address of a glaze page, by its selector. -/
def State.spanField (s : State) (b : Pdb) (j : Nat) (sel : Nat) : Nat :=
  match sel with
  | 0 => (s.span b j).pmask | 1 => (s.span b j).smask | 2 => s.num (spanAddr b j + 16) 8 | 3 => 1 | _ => 0

theorem gquery_page {s t : State} {c : Ctx} {a b : Word} {p : Page} (hn : ¬ (a.toNat < 2 ^ 57 ∧ bits a.toNat 56 52 = 0x1F))
    (hp : Answers (place c .read a.toNat) s (.page p) t) :
    (p.pdb = none ∨ p.leaf.getLsbD 11 = false → Answers (gquery c a b) s 0 t) ∧
    (∀ d, p.pdb = some d → p.leaf.getLsbD 11 = true →
      Answers (gquery c a b) s (BitVec.ofNat 64 (t.spanField d ((a.toNat - p.va) / 4096) b.toNat)) t) := by
  unfold gquery
  rw [if_neg (show ¬ (a.toNat < 2 ^ 57 ∧ isPadVa a.toNat = true) from fun h => hn ⟨h.1, (isPadVa_iff _).1 h.2⟩)]
  refine ⟨fun h => answers_bind hp ?_, fun d hd hg => answers_bind hp ?_⟩
  · dsimp only
    cases hd : p.pdb with
    | none => exact run_pure _ t
    | some d =>
      have hg : pteGlz p.leaf.toNat = false := h.resolve_left (by rw [hd]; simp)
      dsimp only
      rw [hg]
      exact run_pure _ t
  · dsimp only
    rw [hd]
    dsimp only
    rw [show pteGlz p.leaf.toNat = true from hg]
    refine answers_bind (run_get t) ?_
    generalize b.toNat = n
    match n with
    | 0 => exact run_pure _ t
    | 1 => exact run_pure _ t
    | 2 => exact run_pure _ t
    | 3 => exact run_pure _ t
    | _ + 4 => exact run_pure _ t

/-! ## GFLATTEN (R125) -/

theorem settleStores_none {s : State} {lines : List Nat} (h : s.storesTo lines = false) : s.settleStores lines = s := by
  refine foldl_fixed fun c hc => if_neg ?_
  have hk := List.any_eq_false.1 h (s.core c) (by
    rw [State.core, List.getD_eq_getElem _ _ (List.mem_range.1 hc)]
    exact List.getElem_mem _)
  exact hk

theorem run_awaitStores {s : State} {lines : List Nat} (h : s.storesTo lines = false) : Ends (awaitStores lines) s s := by
  have hm : Ends (modify fun s => s.settleStores lines) s s := (run_modify _ s).trans (by rw [settleStores_none h])
  refine ends_bind hm (ends_bind (run_get s) ?_)
  rw [h]
  rfl

theorem gflatten_ends {s t : State} {x : R3T2} {v : Word} (hr : Ready s [x.d, x.a, x.b]) (hm : s.me.sstat.mode = true) (hq : Spec.Quiet s)
    (h : Answers (gflatten (s.me.ctx s.cur) (s.me.x x.a) (s.me.x x.b)) (Spec.released s .device) v t) :
    exec (.gflatten x) s = .next (t.wrote x.d v) := by
  refine scalar_ends_of_mild hr (ends_bind (run_supervisorOnly hm) (ends_bind (run_readX _ s) (ends_bind (run_readX _ s)
    (ends_bind (run_scalarRelease hq .device) (ends_bind (run_myCtx _) (ends_bind ?_ (run_writeX _ _ t))))))) (mild_setX ?_ _ _)
  · rw [released_ctx]
    exact h
  · exact (mild_of_answers (tame_scalarRelease .device) (run_scalarRelease hq .device)).trans (mild_of_answers (tame_gflatten _ _ _) h)

theorem answers_of_bind {β : Type} {m : M α} {f : α → M β} {s u : State} {b : β} (h : Answers (m >>= f) s b u) :
    ∃ a t, Answers m s a t ∧ Answers (f a) t b u := by
  unfold Answers at h
  rw [run_bind] at h
  cases hr : runM m s with
  | mk r t =>
    rw [hr] at h
    cases r with
    | ok a => exact ⟨a, t, hr, h⟩
    | error e => cases h

theorem gflatten_spec {s : State} {x : R3T2} (hr : Ready s [x.d, x.a, x.b]) (hm : s.me.sstat.mode = true) (hq : Spec.Quiet s)
    {src dst : Place} {t : State} :
    Answers (do let p ← place (s.me.ctx s.cur) .read (s.me.x x.a).toNat; let q ← place (s.me.ctx s.cur) .write (s.me.x x.b).toNat
                  return (p, q)) (Spec.released s .device) (src, dst) t →
    let gives := fun (v : Word) => exec (.gflatten x) s = .next (t.wrote x.d v)
    match src with
    | .pad _ => gives 3
    | .page p =>
      match p.pdb with
      | none => gives 3
      | some b =>
        if p.leaf.getLsbD 11 = false then gives 3
        else if (List.range b.nspan).any fun j => (t.span b j).owner != 0 then gives 1
        else match dst with
          | .pad _ => gives 2
          | .page q => if (s.me.x x.b).toNat % p.size ≠ 0 ∨ q.size < p.size ∨ plainLeaf q = false then gives 2
            else t.storesTo (t.usedLines b (List.range b.nspan)) = false →
              exec (.gflatten x) s = .next ((t.flatten (s.me.ctx s.cur) p b (q.phys (s.me.x x.b).toNat)).wrote x.d 0) := by
  intro hp
  obtain ⟨p1, t1, h1, hp⟩ := answers_of_bind hp
  obtain ⟨q1, t2, h2, hp⟩ := answers_of_bind hp
  cases hp
  intro gives
  have go {v : Word} {w : State} (hrest : Answers (gflatten (s.me.ctx s.cur) (s.me.x x.a) (s.me.x x.b)) (Spec.released s .device) v w) :
      exec (.gflatten x) s = .next (w.wrote x.d v) := gflatten_ends hr hm hq hrest
  have hglz (p : Page) : pteGlz p.leaf.toNat = p.leaf.getLsbD 11 := rfl
  match src with
  | .pad _ => exact go (answers_bind h1 (answers_bind h2 (run_pure _ t)))
  | .page p =>
    dsimp only
    split
    next hd =>
      refine go (answers_bind h1 (answers_bind h2 ?_))
      dsimp only
      rw [hd]
      exact run_pure _ t
    next b hd =>
      split
      next hg =>
        refine go (answers_bind h1 (answers_bind h2 ?_))
        dsimp only
        rw [hd]
        dsimp only
        rw [hglz, hg]
        exact run_pure _ t
      next hg =>
        have hg' : pteGlz p.leaf.toNat = true := Bool.eq_true_of_not_eq_false hg
        split
        next ho =>
          refine go (answers_bind h1 (answers_bind h2 ?_))
          dsimp only
          rw [hd, hg']
          refine answers_bind (run_get t) ?_
          rw [if_pos ho]
          exact run_pure _ t
        next ho =>
          match dst with
          | .pad _ =>
            refine go (answers_bind h1 (answers_bind h2 ?_))
            dsimp only
            rw [hd, hg']
            refine answers_bind (run_get t) ?_
            rw [if_neg ho]
            exact run_pure _ t
          | .page q =>
            have hbad : ((s.me.x x.b).toNat % p.size ≠ 0 ∨ q.size < p.size ∨ (!plainLeaf q) = true) =
                ((s.me.x x.b).toNat % p.size ≠ 0 ∨ q.size < p.size ∨ plainLeaf q = false) := by rw [Bool.not_eq_true']
            dsimp only
            split
            next hc =>
              refine go (answers_bind h1 (answers_bind h2 ?_))
              dsimp only
              rw [hd, hg']
              refine answers_bind (run_get t) ?_
              rw [if_neg ho, if_pos (hbad ▸ hc)]
              exact run_pure _ t
            next hc =>
              intro hst
              refine go (answers_bind h1 (answers_bind h2 ?_))
              dsimp only
              rw [hd, hg']
              refine answers_bind (run_get t) ?_
              rw [if_neg ho, if_neg (hbad ▸ hc)]
              exact answers_bind (run_awaitStores hst) (answers_bind (run_modify _ t) (run_pure _ _))

/-! ## GPOOL (R126) -/

theorem gpool_ends {s t : State} {x : R3T2} {v : Word} (hr : Ready s [x.d, x.a, x.b]) (hm : s.me.sstat.mode = true)
    (h : Answers (gpool (s.me.ctx s.cur) (s.me.x x.a) (s.me.x x.b)) s v t) :
    exec (.gpoolDonate x) s = .next (t.wrote x.d v) ∧ exec (.gpoolDrop x) s = .next (t.wrote x.d v) ∧
      exec (.gpoolQuery x) s = .next (t.wrote x.d v) := by
  have hs : scalar [x.d, x.a, x.b] (gpoolOp x) s = .next (t.wrote x.d v) :=
    scalar_ends hr (ends_bind (run_supervisorOnly hm) (ends_bind (run_readX _ s) (ends_bind (run_readX _ s) (ends_bind (run_myCtx s)
      (ends_bind h (run_writeX _ _ t)))))) (tame_gpoolOp x)
  exact ⟨hs, hs, hs⟩

/-- What the control word of a GPOOL names (R126). -/
structure PoolWord where
  code : Nat
  die : Nat
  asid : BitVec 16
  count : Nat

def poolWord (w : Word) : PoolWord :=
  { code := (w.extractLsb' 0 3).toNat, die := (w.extractLsb' 4 2).toNat, asid := w.extractLsb' 48 16, count := (w.extractLsb' 16 16).toNat }

/-- The free list that a control word names. -/
def State.poolOf (s : State) (w : PoolWord) : List Nat := (s.die w.die).pool w.asid w.code

theorem poolWord_fields (w : Word) : bits w.toNat 2 0 = (poolWord w).code ∧ bits w.toNat 5 4 = (poolWord w).die ∧
    BitVec.ofNat 16 (bits w.toNat 63 48) = (poolWord w).asid ∧ bits w.toNat 31 16 = (poolWord w).count := by
  refine ⟨bits_toNat _ _ _, bits_toNat _ _ _, ?_, bits_toNat _ _ _⟩
  rw [bits_toNat]
  exact (BitVec.ofNat_toNat 16 _).trans (BitVec.setWidth_eq _)

section

variable {s : State} {c : Ctx} {a w : Word}

theorem gpool_undefined (h : (poolWord w).code = 7) : Answers (gpool c a w) s (BitVec.allOnes 64) s := by
  obtain ⟨hcode, hdie, hasid, hcount⟩ := poolWord_fields w
  unfold gpool
  simp only [hcode, hdie, hasid, hcount]
  refine answers_bind (run_get s) ?_
  rw [if_pos h]
  exact run_pure _ s

theorem gpool_drop (h : (poolWord w).code ≠ 7) (hb : w.getLsbD 7 = true) : Answers (gpool c a w) s (word (s.poolOf (poolWord w)).length)
    (s.updDie (poolWord w).die fun d => d.setPool (poolWord w).asid (poolWord w).code []) := by
  obtain ⟨hcode, hdie, hasid, hcount⟩ := poolWord_fields w
  have hbit : bit w.toNat 7 = true := hb
  unfold gpool
  simp only [hcode, hdie, hasid, hcount]
  refine answers_bind (run_get s) ?_
  rw [if_neg h, if_pos hbit]
  exact answers_bind (run_set _ s) (run_pure _ _)

theorem gpool_query (h : (poolWord w).code ≠ 7) (hb : w.getLsbD 7 = false) (h0 : (poolWord w).count = 0) :
    Answers (gpool c a w) s (word (s.poolOf (poolWord w)).length) s := by
  obtain ⟨hcode, hdie, hasid, hcount⟩ := poolWord_fields w
  have hbit : ¬ bit w.toNat 7 = true := Bool.eq_false_iff.1 hb
  unfold gpool
  simp only [hcode, hdie, hasid, hcount]
  refine answers_bind (run_get s) ?_
  rw [if_neg h, if_neg hbit, if_pos h0]
  exact run_pure _ s

/-- A donation after its translations: the chunks join the list, where one pinned plain leaf covers them all and they fit. -/
theorem gpool_donate (h : (poolWord w).code ≠ 7) (hb : w.getLsbD 7 = false) (h0 : (poolWord w).count ≠ 0) {q : Option Page} {t : State}
    (hq : Answers (donated c ((poolWord w).count * (64 * 2 ^ (poolWord w).code) / 4096 + 2) a.toNat
      (a.toNat + (poolWord w).count * (64 * 2 ^ (poolWord w).code) - 1) none true) s q t) :
    Answers (gpool c a w) s
      (match q with
        | none => BitVec.allOnes 64
        | some _ => if a.toNat % (64 * 2 ^ (poolWord w).code) ≠ 0 ∨ 2 ^ 32 ≤ (s.poolOf (poolWord w)).length + (poolWord w).count then
            BitVec.allOnes 64 else word ((s.poolOf (poolWord w)).length + (poolWord w).count))
      (match q with
        | none => t
        | some p => if a.toNat % (64 * 2 ^ (poolWord w).code) ≠ 0 ∨ 2 ^ 32 ≤ (s.poolOf (poolWord w)).length + (poolWord w).count then t
          else t.updDie (poolWord w).die fun d => d.setPool (poolWord w).asid (poolWord w).code
            (d.pool (poolWord w).asid (poolWord w).code ++
              (List.range (poolWord w).count).map fun k => p.phys a.toNat + k * (64 * 2 ^ (poolWord w).code))) := by
  obtain ⟨hcode, hdie, hasid, hcount⟩ := poolWord_fields w
  have hbit : ¬ bit w.toNat 7 = true := Bool.eq_false_iff.1 hb
  unfold gpool
  simp only [hcode, hdie, hasid, hcount]
  refine answers_bind (run_get s) ?_
  rw [if_neg h, if_neg hbit, if_neg h0]
  refine answers_bind hq ?_
  cases q with
  | none => exact run_pure _ t
  | some p =>
    have hpool : (s.die (poolWord w).die).pool (poolWord w).asid (poolWord w).code = s.poolOf (poolWord w) := rfl
    dsimp only
    rw [hpool]
    by_cases hc : a.toNat % (64 * 2 ^ (poolWord w).code) ≠ 0 ∨ 2 ^ 32 ≤ (s.poolOf (poolWord w)).length + (poolWord w).count
    · rw [if_pos hc, if_pos hc, if_pos hc]
      exact run_pure _ t
    · rw [if_neg hc, if_neg hc, if_neg hc]
      exact answers_bind (run_modify _ t) (run_pure _ _)

end

/-! ## The translations of a donation -/

theorem donated_stop (c : Ctx) (n va last : Nat) (o : Option Page) (ok : Bool) (s : State) (h : last < va) :
    Answers (donated c n va last o ok) s (if ok then o else none) s := by
  cases n with
  | zero => exact run_pure _ s
  | succ n =>
    rw [donated, if_pos h]
    exact run_pure _ s

/-- One leaf covers the range: it is the answer where it is pinned and plain. -/
theorem donated_one {s t : State} {c : Ctx} {n va last : Nat} {p : Page} (h : Answers (place c .write va) s (.page p) t) (hva : va ≤ last)
    (hl : last < p.va + p.size) :
    Answers (donated c (n + 2) va last none true) s (if ptePin p.leaf.toNat && plainLeaf p then some p else none) t := by
  rw [donated, if_neg (not_lt.2 hva)]
  refine answers_bind h ?_
  have hs := donated_stop c (n + 1) (p.va + p.size) last (some p) (ptePin p.leaf.toNat && plainLeaf p) t hl
  simpa using hs

/-- A range that some leaf does not fit answers nothing. -/
theorem donated_bad {c : Ctx} {n va last : Nat} {o q : Option Page} {s t : State} (h : Answers (donated c n va last o false) s q t) : q = none := by
  induction n generalizing va o s with
  | zero => cases h; rfl
  | succ n ih =>
    rw [donated] at h
    split at h
    · cases h; rfl
    · obtain ⟨l, u, hl, h⟩ := answers_of_bind h
      cases l with
      | pad a => exact ih h
      | page p => exact ih (by simpa using h)

/-- A range that goes on beyond its first leaf, or begins in a pad, answers nothing. -/
theorem donated_beyond {s t v : State} {c : Ctx} {n va last : Nat} {o : Place} {q : Option Page} (h : Answers (place c .write va) s o t)
    (hva : va ≤ last) (ho : ∀ p, o = .page p → p.va + p.size ≤ last) (hd : Answers (donated c (n + 2) va last none true) s q v) : q = none := by
  rw [donated, if_neg (not_lt.2 hva)] at hd
  obtain ⟨l, u, hl, hd⟩ := answers_of_bind hd
  have he := hl.symm.trans h
  cases he
  cases o with
  | pad a => exact donated_bad hd
  | page p =>
    dsimp only at hd
    rw [donated, if_neg (not_lt.2 (ho p rfl))] at hd
    obtain ⟨l, u, -, hd⟩ := answers_of_bind hd
    cases l with
    | pad a => exact donated_bad hd
    | page p' => exact donated_bad (by simpa using hd)

section

variable {s t : State} {c : Ctx} {a w : Word} {p : Page}

theorem donated_leaf (h0 : (poolWord w).count ≠ 0) (hp : Answers (place c .write a.toNat) s (.page p) t)
    (hfit : a.toNat + (poolWord w).count * (64 * 2 ^ (poolWord w).code) ≤ p.va + p.size) :
    Answers (donated c ((poolWord w).count * (64 * 2 ^ (poolWord w).code) / 4096 + 2) a.toNat
      (a.toNat + (poolWord w).count * (64 * 2 ^ (poolWord w).code) - 1) none true) s
      (if ptePin p.leaf.toNat && plainLeaf p then some p else none) t := by
  have hpos : 0 < (poolWord w).count * (64 * 2 ^ (poolWord w).code) :=
    Nat.mul_pos (Nat.pos_of_ne_zero h0) (Nat.mul_pos (by decide) (Nat.two_pow_pos _))
  exact donated_one hp (by omega) (by omega)

theorem gpool_donated (h : (poolWord w).code ≠ 7) (hb : w.getLsbD 7 = false) (h0 : (poolWord w).count ≠ 0)
    (hp : Answers (place c .write a.toNat) s (.page p) t) (hfit : a.toNat + (poolWord w).count * (64 * 2 ^ (poolWord w).code) ≤ p.va + p.size)
    (ha : a.toNat % (64 * 2 ^ (poolWord w).code) = 0) (hpin : p.leaf.getLsbD 7 = true) (hplain : plainLeaf p = true)
    (hlen : (s.poolOf (poolWord w)).length + (poolWord w).count < 2 ^ 32) :
    Answers (gpool c a w) s (word ((s.poolOf (poolWord w)).length + (poolWord w).count))
      (t.updDie (poolWord w).die fun d => d.setPool (poolWord w).asid (poolWord w).code (d.pool (poolWord w).asid (poolWord w).code ++
        (List.range (poolWord w).count).map fun k => p.phys a.toNat + k * (64 * 2 ^ (poolWord w).code))) := by
  have hd := donated_leaf h0 hp hfit
  rw [if_pos (show (ptePin p.leaf.toNat && plainLeaf p) = true from Bool.and_eq_true_iff.2 ⟨hpin, hplain⟩)] at hd
  have hg := gpool_donate h hb h0 hd
  have hgood : ¬ (a.toNat % (64 * 2 ^ (poolWord w).code) ≠ 0 ∨ 2 ^ 32 ≤ (s.poolOf (poolWord w)).length + (poolWord w).count) :=
    not_or.2 ⟨not_not.2 ha, not_le.2 hlen⟩
  dsimp only at hg
  rwa [if_neg hgood, if_neg hgood] at hg

theorem gpool_refused (h : (poolWord w).code ≠ 7) (hb : w.getLsbD 7 = false) (h0 : (poolWord w).count ≠ 0)
    (hp : Answers (place c .write a.toNat) s (.page p) t) (hfit : a.toNat + (poolWord w).count * (64 * 2 ^ (poolWord w).code) ≤ p.va + p.size)
    (hbad : a.toNat % (64 * 2 ^ (poolWord w).code) ≠ 0 ∨ p.leaf.getLsbD 7 = false ∨ plainLeaf p = false ∨
      2 ^ 32 ≤ (s.poolOf (poolWord w)).length + (poolWord w).count) :
    Answers (gpool c a w) s (BitVec.allOnes 64) t := by
  have hd := donated_leaf h0 hp hfit
  by_cases hleaf : (ptePin p.leaf.toNat && plainLeaf p) = true
  · rw [if_pos hleaf] at hd
    have hg := gpool_donate h hb h0 hd
    obtain ⟨hpin, hplain⟩ := Bool.and_eq_true_iff.1 hleaf
    have hpin' : ¬ p.leaf.getLsbD 7 = false := fun h => absurd (hpin.symm.trans h) (by decide)
    have hc : a.toNat % (64 * 2 ^ (poolWord w).code) ≠ 0 ∨ 2 ^ 32 ≤ (s.poolOf (poolWord w)).length + (poolWord w).count := by
      rcases hbad with h | h | h | h
      · exact .inl h
      · exact absurd h hpin'
      · exact absurd (hplain.symm.trans h) (by decide)
      · exact .inr h
    dsimp only at hg
    rwa [if_pos hc, if_pos hc] at hg
  · rw [if_neg hleaf] at hd
    exact gpool_donate h hb h0 hd

theorem gpool_beyond {o : Place} {q : Option Page} {v : State} (h : (poolWord w).code ≠ 7) (hb : w.getLsbD 7 = false)
    (h0 : (poolWord w).count ≠ 0) (ho : Answers (place c .write a.toNat) s o t)
    (hbig : ∀ p, o = .page p → p.va + p.size < a.toNat + (poolWord w).count * (64 * 2 ^ (poolWord w).code))
    (hd : Answers (donated c ((poolWord w).count * (64 * 2 ^ (poolWord w).code) / 4096 + 2) a.toNat
      (a.toNat + (poolWord w).count * (64 * 2 ^ (poolWord w).code) - 1) none true) s q v) :
    Answers (gpool c a w) s (BitVec.allOnes 64) v := by
  have hpos : 0 < (poolWord w).count * (64 * 2 ^ (poolWord w).code) :=
    Nat.mul_pos (Nat.pos_of_ne_zero h0) (Nat.mul_pos (by decide) (Nat.two_pow_pos _))
  have hq := donated_beyond ho (by omega) (fun p hp => Nat.le_sub_one_of_lt (hbig p hp)) hd
  subst hq
  exact gpool_donate h hb h0 hd

end

/-- Settles O43: each overlay instruction over its release and the computation that its rule names. -/
theorem overlayInstructions : Obligations.OverlayInstructions := by
  intro s
  refine ⟨fun x hr hq => gspec_result hr hq, fun x hr hq => ⟨settleOp_spec hr hq rfl, settleOp_spec hr hq rfl⟩, fun x hr => ⟨fun h57 hp => ?_,
    fun p t hn hp _ => ⟨fun h => ?_, fun b hd hg => ?_⟩⟩, fun x hr hm hq src dst t hp _ => gflatten_spec hr hm hq hp, fun x hr hm => ?_⟩
  · exact gquery_ends hr (gquery_pad h57 hp)
  · exact gquery_ends hr ((gquery_page hn hp).1 h)
  · exact gquery_ends hr ((gquery_page hn hp).2 b hd hg)
  · exact ⟨fun h => gpool_ends hr hm (gpool_undefined h), fun h hb => gpool_ends hr hm (gpool_drop h hb),
      fun h hb h0 => gpool_ends hr hm (gpool_query h hb h0),
      fun h hb h0 p t hp _ hfit => ⟨fun ha hpin hplain hlen => gpool_ends hr hm (gpool_donated h hb h0 hp hfit ha hpin hplain hlen),
        fun hbad => gpool_ends hr hm (gpool_refused h hb h0 hp hfit hbad)⟩,
      fun h hb h0 o q t v ho hbig hd _ => gpool_ends hr hm (gpool_beyond h hb h0 ho hbig hd)⟩

end Sys2Proof.Machine
end

section
/-! PROOF. The walk of the KV tables (R156 to R163, R165). -/
namespace Sys2Proof.Machine

open Sys2Proof

/-! ## Words of the tables -/

/-- What a walk reads at an item: what stands there. -/
def State.kvFresh (s : State) (pa n : Nat) : List Word := (List.range n).map fun i => word (s.num (pa + 8 * i) 8)

theorem answers_kvWords {s : State} {c : KvCtx} {pa n : Nat} (h : Spec.KvItem s c pa n) (seen : List KvItem) :
    Answers (kvWords c pa n seen) s (s.kvFresh pa n, seen ++ [{ seqIds := [kvSeq c.addr], addr := pa, words := s.kvFresh pa n }]) s := by
  have hheld : ((s.die c.die).kv.filter fun q => q.addr == pa && q.words.length == n && q.words != s.kvFresh pa n) = [] := by
    refine List.filter_eq_nil_iff.2 fun q hq => ?_
    intro hall
    obtain ⟨hall, hne⟩ := Bool.and_eq_true_iff.1 hall
    obtain ⟨ha, hn⟩ := Bool.and_eq_true_iff.1 hall
    exact (bne_iff_ne.1 hne) (h.fresh q hq (beq_iff_eq.1 ha) (beq_iff_eq.1 hn))
  have herr : s.lineError none (pa / 64) = none := by
    unfold State.lineError
    rw [h.good]
    rfl
  unfold kvWords
  refine answers_bind (run_get s) ?_
  rw [h.range, herr]
  dsimp only
  rw [show (List.range n).map (fun i => word (s.num (pa + 8 * i) 8)) = s.kvFresh pa n from rfl, hheld]
  rfl

/-- An item of n words: what a walk reads, word by word. -/
theorem kvWords_read {s : State} {c : KvCtx} {pa n : Nat} (h : Spec.KvItem s c pa n) (seen : List KvItem) :
    ∃ ws seen', Answers (kvWords c pa n seen) s (ws, seen') s ∧ ws.length = n ∧ ∀ i, i < n → (ws.getD i 0).toNat = s.num (pa + 8 * i) 8 := by
  refine ⟨_, _, answers_kvWords h seen, by simp [State.kvFresh], fun i hi => ?_⟩
  have hlt : s.num (pa + 8 * i) 8 < 2 ^ 64 := leNat_lt _
  rw [State.kvFresh, List.getD_eq_getElem _ _ (by simpa using hi), List.getElem_map, List.getElem_range, word, BitVec.toNat_ofNat,
    Nat.mod_eq_of_lt hlt]

/-- An item of one word. -/
theorem kvWord_read {s : State} {c : KvCtx} {pa : Nat} (h : Spec.KvItem s c pa 1) (seen : List KvItem) :
    ∃ w seen', Answers (kvWords c pa 1 seen) s ([w], seen') s ∧ w.toNat = s.num pa 8 := by
  have hlt : s.num pa 8 < 2 ^ 64 := leNat_lt _
  refine ⟨word (s.num pa 8), _, answers_kvWords h seen, ?_⟩
  rw [word, BitVec.toNat_ofNat, Nat.mod_eq_of_lt hlt]

theorem run_of_answers {β : Type} {m : M α} {f : α → M β} {s t : State} {a : α} (h : Answers m s a t) : runM (m >>= f) s = runM (f a) t := by
  rw [run_bind, show runM m s = (.ok a, t) from h]

/-- A walk raises the KV fault of a reason and leaves the state as it was. -/
def KvFails (s : State) (c : KvCtx) (m : M α) (page : Bool) (reason : Nat) : Prop := Traps m s (kvTrap page reason c.addr) s

/-! ## As far as the sequence record -/

section

variable {s : State} {c : KvCtx}

theorem root_parity : (c.root.getLsbD 0 = true) ↔ ¬ c.root.toNat % 2 = 0 := by
  have hb : c.root.getLsbD 0 = decide (c.root.toNat % 2 = 1) := Nat.testBit_zero _
  rw [hb, decide_eq_true_iff]
  omega

theorem kvRecord_disabled (h : c.root.getLsbD 0 = false) : KvFails s c (kvRecord c) true 0 := by
  have h0 : c.root.toNat % 2 = 0 := by
    by_contra hn
    exact absurd ((root_parity.2 hn).symm.trans h) (by decide)
  unfold kvRecord KvFails
  rw [if_pos h0]
  rfl

/-- The directory that KVROOT names, and the entry of SEQ's high bits in it. -/
structure KvFirst (s : State) (c : KvCtx) (a : Nat) : Prop where
  enabled : c.root.getLsbD 0 = true
  directory : s.devRange (bits c.root.toNat 51 15 * 2 ^ 15) (2 ^ 15) = true
  place : a = bits c.root.toNat 51 15 * 2 ^ 15 + 8 * bits c.addr 63 52
  item : Spec.KvItem s c a 1

/-- The second directory, and the entry of SEQ's low bits in it. -/
structure KvSecond (s : State) (c : KvCtx) (a b : Nat) : Prop where
  first : KvFirst s c a
  valid : s.num a 8 % 2 = 1
  formed : bits (s.num a 8) 14 1 = 0 ∧ bits (s.num a 8) 63 52 = 0
  place : b = bits (s.num a 8) 51 15 * 2 ^ 15 + 8 * bits c.addr 51 40
  item : Spec.KvItem s c b 1

/-- The sequence record. -/
structure KvThird (s : State) (c : KvCtx) (b rc : Nat) : Prop where
  second : ∃ a, KvSecond s c a b
  valid : s.num b 8 % 2 = 1
  formed : bits (s.num b 8) 5 1 = 0 ∧ bits (s.num b 8) 63 52 = 0
  place : rc = bits (s.num b 8) 51 6 * 64
  item : Spec.KvItem s c (rc + 8) 2

variable {a b rc : Nat}

theorem kvRecord_first (h : KvFirst s c a) (h0 : s.num a 8 % 2 = 0) : KvFails s c (kvRecord c) true 1 := by
  obtain ⟨he, hd, rfl, hi⟩ := h
  obtain ⟨w, seen, hw, hn⟩ := kvWord_read hi []
  rw [← hn] at h0
  unfold kvRecord KvFails
  rw [if_neg (root_parity.1 he)]
  refine traps_bind (run_get s) ?_
  dsimp only
  rw [hd]
  refine traps_bind hw ?_
  rw [if_pos (show ([w].headD 0).toNat % 2 = 0 from h0)]
  rfl

/-- A walk past a directory entry that is valid and well formed. -/
theorem entry_passes {e m n : Nat} (h1 : e % 2 = 1) (hf : bits e m n = 0 ∧ bits e 63 52 = 0) :
    ¬ e % 2 = 0 ∧ ¬ (bits e 63 52 ≠ 0 ∨ bits e m n ≠ 0) :=
  ⟨by omega, not_or.2 ⟨not_not.2 hf.2, not_not.2 hf.1⟩⟩

theorem kvRecord_second (h : KvSecond s c a b) (h0 : s.num b 8 % 2 = 0) : KvFails s c (kvRecord c) true 2 := by
  obtain ⟨⟨he, hd, ha, hi⟩, hv, hf, hb, hj⟩ := h
  obtain ⟨w, seen, hw, hn⟩ := kvWord_read hi []
  obtain ⟨v, seen', hv', hm⟩ := kvWord_read hj seen
  rw [← hm] at h0
  rw [← hn] at hv hf hb
  subst ha hb
  obtain ⟨hodd, hform⟩ := entry_passes hv hf
  unfold kvRecord KvFails
  rw [if_neg (root_parity.1 he)]
  refine traps_bind (run_get s) ?_
  dsimp only
  rw [hd]
  refine traps_bind hw ?_
  rw [if_neg (show ¬ ([w].headD 0).toNat % 2 = 0 from hodd),
    if_neg (show ¬ (bits ([w].headD 0).toNat 63 52 ≠ 0 ∨ bits ([w].headD 0).toNat 14 1 ≠ 0) from hform)]
  refine traps_bind hv' ?_
  rw [if_pos (show ([v].headD 0).toNat % 2 = 0 from h0)]
  rfl

/-- What a walk does with the words of the sequence record. -/
def kvRecordWords (c : KvCtx) (rc : Nat) (ws : List Word) (seen : List KvItem) : M ((Nat × Nat × Nat) × List KvItem) := do
  let w1 := (ws.headD 0).toNat
  let ltab := (ws.getD 1 0).toNat
  let w0 := (← get).num rc 8
  if !bit w1 16 then raise (kvTrap true 3 c.addr)
  else if 2 ^ 32 ≤ w0 ∨ 2 ^ 24 < w0 ∨ bits w1 63 17 ≠ 0 ∨ 256 < w1 % 2 ^ 16 ∨ 2 ^ 52 ≤ ltab ∨ ltab % 8 ≠ 0
      ∨ !(← get).devRange ltab 8 then
    raise (kvTrap true 6 c.addr)
  else return ((rc, w1 % 2 ^ 16, ltab), seen)

/-- A walk as far as the words of the sequence record. -/
theorem kvRecord_third (h : KvThird s c b rc) : ∃ ws seen, ws.length = 2 ∧ (∀ i, i < 2 → (ws.getD i 0).toNat = s.num (rc + 8 + 8 * i) 8) ∧
    runM (kvRecord c) s = runM (kvRecordWords c rc ws seen) s := by
  obtain ⟨⟨a, ⟨he, hd, ha, hi⟩, hv, hf, hb, hj⟩, hv2, hf2, hr, hk⟩ := h
  obtain ⟨w, seen, hw, hn⟩ := kvWord_read hi []
  obtain ⟨v, seen', hv', hm⟩ := kvWord_read hj seen
  obtain ⟨ws, seen'', hws, hlen, hget⟩ := kvWords_read hk seen'
  rw [← hm] at hv2 hf2 hr
  rw [← hn] at hv hf hb
  subst ha hb hr
  obtain ⟨hodd, hform⟩ := entry_passes hv hf
  obtain ⟨hodd2, hform2⟩ := entry_passes hv2 hf2
  refine ⟨ws, seen'', hlen, hget, ?_⟩
  unfold kvRecord
  rw [if_neg (root_parity.1 he)]
  refine (run_of_answers (run_get s)).trans ?_
  dsimp only
  rw [hd]
  refine (run_of_answers hw).trans ?_
  rw [if_neg (show ¬ ([w].headD 0).toNat % 2 = 0 from hodd),
    if_neg (show ¬ (bits ([w].headD 0).toNat 63 52 ≠ 0 ∨ bits ([w].headD 0).toNat 14 1 ≠ 0) from hform)]
  refine (run_of_answers hv').trans ?_
  rw [if_neg (show ¬ ([v].headD 0).toNat % 2 = 0 from hodd2),
    if_neg (show ¬ (bits ([v].headD 0).toNat 63 52 ≠ 0 ∨ bits ([v].headD 0).toNat 5 1 ≠ 0) from hform2)]
  refine (run_of_answers hws).trans ?_
  unfold kvRecordWords
  rfl

theorem kvRecord_invalid (h : KvThird s c b rc) (h0 : bits (s.num (rc + 8) 8) 16 16 = 0) : KvFails s c (kvRecord c) true 3 := by
  obtain ⟨ws, seen, hlen, hget, hrun⟩ := kvRecord_third h
  have hw : (ws.headD 0).toNat = s.num (rc + 8) 8 := by
    have := hget 0 (by decide)
    cases ws with
    | nil => cases hlen
    | cons w ws => exact this
  have hbit : bit (ws.headD 0).toNat 16 = false := by
    rw [hw, bit, Nat.testBit_eq_decide_div_mod_eq]
    unfold bits at h0
    rw [Nat.shiftRight_eq_div_pow] at h0
    exact decide_eq_false (by omega)
  rw [KvFails, Traps, hrun]
  unfold kvRecordWords
  refine traps_bind (run_get s) ?_
  rw [hbit]
  rfl

theorem kvThird_of_sequence {nlayer ltab : Nat} (h : Spec.KvSequence s c rc nlayer ltab) : ∃ b, KvThird s c b rc := by
  obtain ⟨h1, h2, h3, f, hf, h4, h5, h6, h7, h8⟩ := h.second
  subst hf
  exact ⟨_, ⟨_, ⟨h.enabled, h.directory, rfl, h.first⟩, h1, ⟨h2, h3⟩, rfl, h4⟩, h5, ⟨h6, h7⟩, h8, h.record⟩

theorem kvRecord_ok {nlayer ltab : Nat} (h : Spec.KvSequence s c rc nlayer ltab) :
    ∃ seen, Answers (kvRecord c) s ((rc, nlayer, ltab), seen) s := by
  obtain ⟨b, hb⟩ := kvThird_of_sequence h
  obtain ⟨ws, seen, hlen, hget, hrun⟩ := kvRecord_third hb
  obtain ⟨hv, hn, hl⟩ := h.valid
  obtain ⟨ht, h52, h8, hd⟩ := h.layers
  have hw : (ws.headD 0).toNat = 2 ^ 16 + nlayer := by
    have := hget 0 (by decide)
    cases ws with
    | nil => cases hlen
    | cons w ws => exact this.trans hv
  have hw1 : (ws.getD 1 0).toNat = ltab := (hget 1 (by decide)).trans ht
  refine ⟨seen, ?_⟩
  rw [Answers, hrun]
  unfold kvRecordWords
  refine answers_bind (run_get s) ?_
  dsimp only
  rw [hw, hw1]
  have hbit : bit (2 ^ 16 + nlayer) 16 = true := by
    rw [bit, Nat.testBit_eq_decide_div_mod_eq]
    exact decide_eq_true (by omega)
  rw [hbit]
  refine answers_bind (run_get s) ?_
  rw [if_neg, show (2 ^ 16 + nlayer) % 2 ^ 16 = nlayer by omega]
  · rfl
  · rw [hd]
    have h17 : bits (2 ^ 16 + nlayer) 63 17 = 0 := by
      unfold bits
      rw [Nat.shiftRight_eq_div_pow]
      omega
    rw [h17, show (2 ^ 16 + nlayer) % 2 ^ 16 = nlayer by omega]
    simp only [Bool.not_true, Bool.false_eq_true, or_false, false_or, ne_eq, not_true_eq_false]
    omega

/-! ## As far as the layer record -/

theorem kvLayerRec_bounds {nlayer ltab : Nat} (h : Spec.KvSequence s c rc nlayer ltab) (hl : nlayer ≤ kvLayer c.addr) :
    KvFails s c (kvLayerRec c) false 0 := by
  obtain ⟨seen, hr⟩ := kvRecord_ok h
  unfold kvLayerRec KvFails
  refine traps_bind hr ?_
  dsimp only
  rw [if_pos hl]
  rfl

theorem kvLayerRec_none {nlayer ltab : Nat} (h : Spec.KvSequence s c rc nlayer ltab) (hl : kvLayer c.addr < nlayer)
    (hi : Spec.KvItem s c (ltab + 8 * kvLayer c.addr) 1) (h0 : s.num (ltab + 8 * kvLayer c.addr) 8 = 0) : KvFails s c (kvLayerRec c) true 3 := by
  obtain ⟨seen, hr⟩ := kvRecord_ok h
  obtain ⟨w, seen', hw, hn⟩ := kvWord_read hi seen
  unfold kvLayerRec KvFails
  refine traps_bind hr ?_
  dsimp only
  rw [if_neg (not_le.2 hl)]
  refine traps_bind hw ?_
  rw [if_pos (show ([w].headD 0).toNat = 0 from hn.trans h0)]
  rfl

theorem getD_zero_headD {ws : List Word} (h : ws ≠ []) : ws.getD 0 0 = ws.headD 0 := by
  cases ws with
  | nil => exact absurd rfl h
  | cons w ws => rfl

theorem kvFmt_width {n : Nat} {ty : Ty} (h : kvFmt n = some ty) : 0 < ty.width := by
  unfold kvFmt at h
  split at h <;> cases h <;> decide

theorem kvLayerRec_ok {l : KvLayer} {htab : Nat} (h : Spec.KvLayerAt s c l htab) : ∃ seen, Answers (kvLayerRec c) s ((l, htab), seen) s := by
  obtain ⟨nlayer, ltab, hseq, hlt, hi, a, ha, ha0, ha52, ha64, hia, hfmt, h75, h3124, hk, hv, hdim, hnh, hn0, hn256, hrot, hhtab, hpage, hp32, hz⟩ :=
    h.sequence
  obtain ⟨hd0, hd2048⟩ := h.dim
  obtain ⟨hr52, hr4, hrrest⟩ := h.rot
  obtain ⟨hh52, hh8, hhd⟩ := h.heads
  obtain ⟨seen, hr⟩ := kvRecord_ok hseq
  obtain ⟨w, seen', hw, hn⟩ := kvWord_read hi seen
  obtain ⟨ws, seen'', hws, hlen, hget⟩ := kvWords_read hia seen'
  rw [← hn] at ha
  subst ha
  have h0 : (ws.getD 0 0).toNat = s.num w.toNat 8 := hget 0 (by decide)
  have h1 : (ws.getD 1 0).toNat = l.rot := (hget 1 (by decide)).trans hrot
  have h2 : (ws.getD 2 0).toNat = htab := (hget 2 (by decide)).trans hhtab
  have h3 : (ws.getD 3 0).toNat = l.npage := (hget 3 (by decide)).trans hpage
  have h4 : (ws.drop 4).any (· != 0) = false := by
    rw [List.any_eq_false]
    intro x hx
    obtain ⟨i, hi, rfl⟩ := List.getElem_of_mem hx
    rw [List.length_drop, hlen] at hi
    have hz' : (ws.getD (4 + i) 0).toNat = 0 := (hget (4 + i) (by omega)).trans (hz (4 + i) (by omega) (by omega))
    rw [List.getElem_drop, ← List.getD_eq_getElem ws 0 (by omega)]
    simpa using BitVec.eq_of_toNat_eq hz'
  refine ⟨seen'', ?_⟩
  unfold kvLayerRec
  refine answers_bind hr ?_
  dsimp only
  rw [if_neg (not_le.2 hlt)]
  refine answers_bind hw ?_
  rw [if_neg (show ¬ ([w].headD 0).toNat = 0 from Nat.ne_of_gt ha0),
    if_neg (show ¬ (([w].headD 0).toNat % 64 ≠ 0 ∨ 2 ^ 52 ≤ ([w].headD 0).toNat) from not_or.2 ⟨not_not.2 ha64, not_le.2 ha52⟩)]
  refine answers_bind hws ?_
  have hmod : s.num w.toNat 8 % 32 = bits (s.num w.toNat 8) 4 0 := rfl
  dsimp only
  rw [h0, h1, h2, h3, h4, hmod, hfmt]
  refine answers_bind (run_get s) (answers_bind (run_get s) ?_)
  rw [← hk, ← hv, ← hdim, ← hnh, h75, h3124, hhd, if_neg]
  · rfl
  · have hwidth : ¬ 2048 / l.fmt.width < l.dim := not_lt.2 ((Nat.le_div_iff_mul_le (kvFmt_width hfmt)).2 hd2048)
    have hrest : ¬ (l.rot ≠ 0 ∧ l.dim % 2 = 1) ∧ ¬ (l.rot ≠ 0 ∧ (!s.devRange l.rot (2 * l.dim)) = true) := by
      refine ⟨fun h => ?_, fun h => ?_⟩
      · have := (hrrest h.1).1
        omega
      · rw [(hrrest h.1).2] at h
        exact absurd h.2 (by decide)
    simp only [Bool.not_true, Bool.false_eq_true, false_or, ne_eq, not_true_eq_false, not_or] at hrest ⊢
    refine ⟨Nat.ne_of_gt hd0, hwidth, Nat.ne_of_gt hn0, not_lt.2 hn256, hrest.1, not_le.2 hr52, not_not.2 hr4, not_le.2 hh52, not_not.2 hh8,
      not_le.2 hp32, hrest.2⟩

/-! ## The whole walk -/

theorem kvWalk_bounds {l : KvLayer} {htab : Nat} {write : Bool} (h : Spec.KvLayerAt s c l htab) (hh : l.nhead ≤ kvHead c.addr) :
    KvFails s c (kvWalk c write) false 1 := by
  obtain ⟨seen, hr⟩ := kvLayerRec_ok h
  unfold kvWalk KvFails
  refine traps_bind hr ?_
  dsimp only
  rw [if_pos hh]
  rfl

/-- A fault before the layer record is that of the walk. -/
theorem kvWalk_of_layer {write page : Bool} {reason : Nat} (h : KvFails s c (kvLayerRec c) page reason) :
    KvFails s c (kvWalk c write) page reason := traps_of_bind h

theorem kvLayerRec_of_record {page : Bool} {reason : Nat} (h : KvFails s c (kvRecord c) page reason) :
    KvFails s c (kvLayerRec c) page reason := traps_of_bind h

/-- The word of HTAB that names a page list. -/
theorem kvWalk_list {l : KvLayer} {htab : Nat} {write : Bool} (h : Spec.KvLayerAt s c l htab) (hh : kvHead c.addr < l.nhead)
    (hi : Spec.KvItem s c (htab + 8 * kvHead c.addr) 1) :
    let pl := s.num (htab + 8 * kvHead c.addr) 8
    (pl = 0 → KvFails s c (kvWalk c write) true 4) ∧
    (0 < pl → (pl % 8 ≠ 0 ∨ 2 ^ 52 ≤ pl ∨ s.devRange pl 8 = false) → KvFails s c (kvWalk c write) true 6) ∧
    (0 < pl → pl % 8 = 0 → pl < 2 ^ 52 → s.devRange pl 8 = true → 64 * l.npage ≤ kvPos c.addr → KvFails s c (kvWalk c write) false 2) := by
  obtain ⟨seen, hr⟩ := kvLayerRec_ok h
  obtain ⟨w, seen', hw, hn⟩ := kvWord_read hi seen
  intro pl
  rw [← show w.toNat = pl from hn]
  unfold kvWalk KvFails
  refine ⟨fun h0 => ?_, fun h0 hbad => ?_, fun h0 h8 h52 hd hp => ?_⟩
  · refine traps_bind hr ?_
    dsimp only
    rw [if_neg (not_le.2 hh)]
    refine traps_bind hw ?_
    rw [if_pos (show ([w].headD 0).toNat = 0 from h0)]
    rfl
  · refine traps_bind hr ?_
    dsimp only
    rw [if_neg (not_le.2 hh)]
    refine traps_bind hw ?_
    rw [if_neg (show ¬ ([w].headD 0).toNat = 0 from Nat.ne_of_gt h0)]
    refine traps_bind (run_get s) ?_
    rw [if_pos (show ([w].headD 0).toNat % 8 ≠ 0 ∨ 2 ^ 52 ≤ ([w].headD 0).toNat ∨ (!s.devRange ([w].headD 0).toNat 8) = true from
      hbad.imp_right (Or.imp_right fun h => by rw [show ([w].headD 0).toNat = w.toNat from rfl, h]; rfl))]
    rfl
  · refine traps_bind hr ?_
    dsimp only
    rw [if_neg (not_le.2 hh)]
    refine traps_bind hw ?_
    rw [if_neg (show ¬ ([w].headD 0).toNat = 0 from Nat.ne_of_gt h0)]
    refine traps_bind (run_get s) ?_
    rw [if_neg (show ¬ (([w].headD 0).toNat % 8 ≠ 0 ∨ 2 ^ 52 ≤ ([w].headD 0).toNat ∨ (!s.devRange ([w].headD 0).toNat 8) = true) from
      not_or.2 ⟨not_not.2 h8, not_or.2 ⟨not_le.2 h52, by rw [show ([w].headD 0).toNat = w.toNat from rfl, hd]; decide⟩⟩), if_pos hp]
    rfl

/-- What a walk does with the entry of its page list. -/
def kvEntry (c : KvCtx) (write : Bool) (l : KvLayer) (pe : Nat) (seen : List KvItem) : M (KvLayer × Nat) := do
  if pe % 2 = 0 then raise (kvTrap true 4 c.addr)
  else if bits pe 63 52 ≠ 0 ∨ bits pe 14 2 ≠ 0 ∨ !(← get).devRange (bits pe 51 15 * 2 ^ 15) (2 ^ 15) then
    raise (kvTrap true 6 c.addr)
  else if write && bit pe 1 then raise (kvTrap true 5 c.addr)
  else
    kvHold c seen
    return (l, bits pe 51 15 * 2 ^ 15 + 256 * (kvPos c.addr % 64))

theorem kvWalk_entry {l : KvLayer} {pe : Nat} (write : Bool) (h : Spec.KvPage s c l pe) :
    ∃ seen, runM (kvWalk c write) s = runM (kvEntry c write l pe seen) s := by
  obtain ⟨htab, pl, hlayer, hi, hpl, h0, h8, h52, hd, hj, hpe⟩ := h.list
  obtain ⟨seen, hr⟩ := kvLayerRec_ok hlayer
  obtain ⟨w, seen', hw, hn⟩ := kvWord_read hi seen
  obtain ⟨v, seen'', hv, hm⟩ := kvWord_read hj seen'
  rw [← hn] at hpl
  rw [← hm] at hpe
  subst hpl hpe
  refine ⟨seen'', ?_⟩
  unfold kvWalk
  refine (run_of_answers hr).trans ?_
  dsimp only
  rw [if_neg (not_le.2 h.head)]
  refine (run_of_answers hw).trans ?_
  rw [if_neg (show ¬ ([w].headD 0).toNat = 0 from Nat.ne_of_gt h0)]
  refine (run_of_answers (run_get s)).trans ?_
  rw [if_neg (show ¬ (([w].headD 0).toNat % 8 ≠ 0 ∨ 2 ^ 52 ≤ ([w].headD 0).toNat ∨ (!s.devRange ([w].headD 0).toNat 8) = true) from
    not_or.2 ⟨not_not.2 h8, not_or.2 ⟨not_le.2 h52, by rw [show ([w].headD 0).toNat = w.toNat from rfl, hd]; decide⟩⟩), if_neg (not_le.2 h.pos)]
  refine (run_of_answers hv).trans ?_
  unfold kvEntry
  rfl

theorem kvEntry_invalid {l : KvLayer} {pe : Nat} {write : Bool} {seen : List KvItem} (h : pe % 2 = 0) :
    KvFails s c (kvEntry c write l pe seen) true 4 := by
  unfold kvEntry KvFails
  rw [if_pos h]
  rfl

theorem kvEntry_malformed {l : KvLayer} {pe : Nat} {write : Bool} {seen : List KvItem} (h1 : pe % 2 = 1)
    (h : bits pe 14 2 ≠ 0 ∨ bits pe 63 52 ≠ 0) : KvFails s c (kvEntry c write l pe seen) true 6 := by
  unfold kvEntry KvFails
  rw [if_neg (by omega)]
  refine traps_bind (run_get s) ?_
  rw [if_pos (h.elim (fun h => .inr (.inl h)) .inl)]
  rfl

theorem kvEntry_shared {l : KvLayer} {pe : Nat} {seen : List KvItem} (h1 : pe % 2 = 1) (h14 : bits pe 14 2 = 0) (h63 : bits pe 63 52 = 0)
    (hd : s.devRange (bits pe 51 15 * 2 ^ 15) (2 ^ 15) = true) (hs : bit pe 1 = true) : KvFails s c (kvEntry c true l pe seen) true 5 := by
  unfold kvEntry KvFails
  rw [if_neg (by omega)]
  refine traps_bind (run_get s) ?_
  rw [hd, if_neg (by simp [h14, h63]), hs]
  rfl

theorem kvEntry_mapped {l : KvLayer} {pe : Nat} {write : Bool} {seen : List KvItem} (h1 : pe % 2 = 1) (h14 : bits pe 14 2 = 0)
    (h63 : bits pe 63 52 = 0) (hd : s.devRange (bits pe 51 15 * 2 ^ 15) (2 ^ 15) = true) (hs : (write && bit pe 1) = false) :
    Answers (kvEntry c write l pe seen) s (l, bits pe 51 15 * 2 ^ 15 + 256 * (kvPos c.addr % 64))
      (s.updDie c.die fun d => { d with kv := seen.foldl holdItem d.kv }) := by
  unfold kvEntry
  rw [if_neg (by omega)]
  refine answers_bind (run_get s) ?_
  rw [hd, if_neg (by simp [h14, h63]), hs]
  exact answers_bind (run_modify _ s) (run_pure _ _)

theorem bit_one_eq {pe : Nat} : bit pe 1 = true ↔ bits pe 1 1 = 1 := by
  unfold bit bits
  rw [Nat.testBit_eq_decide_div_mod_eq, decide_eq_true_iff, Nat.shiftRight_eq_div_pow]
  rfl

theorem onlyKv_hold (s : State) (d : Nat) (f : List KvItem → List KvItem) : Spec.OnlyKv s (s.updDie d fun k => { k with kv := f k.kv }) := by
  refine ⟨rfl, updDie_dies_length _ _ _, fun i => ?_⟩
  by_cases hi : d = i
  · subst hi
    by_cases hd : d < s.dies.length
    · rw [die_updDie_self _ _ _ hd]
    · have hout (u : State) (h : u.dies.length = s.dies.length) : u.die d = Die.reset := by
        rw [State.die, List.getD_eq_default _ _ (by omega)]
      rw [hout _ (updDie_dies_length _ _ _), hout s rfl]
  · rw [die_updDie_ne _ _ _ _ hi]

end

/-- Settles O47: the walk, item by item over what it reads. -/
theorem kvWalks : Obligations.KvWalks := by
  intro s c write fails
  have out {page : Bool} {reason : Nat} (h : KvFails s c (kvWalk c write) page reason) : fails page reason := ⟨s, h, rfl⟩
  have record {page : Bool} {reason : Nat} (h : KvFails s c (kvRecord c) page reason) : fails page reason :=
    out (kvWalk_of_layer (kvLayerRec_of_record h))
  have entry {l : KvLayer} {pe : Nat} {page : Bool} {reason : Nat} (h : Spec.KvPage s c l pe)
      (hf : ∀ seen, KvFails s c (kvEntry c write l pe seen) page reason) : fails page reason := by
    obtain ⟨seen, hr⟩ := kvWalk_entry write h
    refine out ?_
    rw [KvFails, Traps, hr]
    exact hf seen
  refine ⟨fun l pa h => ?_, fun h => record (kvRecord_disabled h), ?_,
    fun rc nlayer ltab h => ⟨fun hl => out (kvWalk_of_layer (kvLayerRec_bounds h hl)), fun hl hi h0 => out (kvWalk_of_layer (kvLayerRec_none h hl hi h0))⟩,
    fun l htab h hh => out (kvWalk_bounds h hh), fun l htab h hh hi => ?_, fun l pe h => ⟨fun h0 => entry h fun _ => kvEntry_invalid h0,
      fun h1 hb => entry h fun _ => kvEntry_malformed h1 hb, fun hw h1 h14 h63 hd hs => entry h fun _ => ?_⟩⟩
  · obtain ⟨pe, hp, h1, h14, h63, hs, hd, rfl⟩ := h.page
    obtain ⟨seen, hr⟩ := kvWalk_entry write hp
    have hshared : (write && bit pe 1) = false := by
      cases write with
      | false => rfl
      | true =>
        rw [Bool.true_and, Bool.eq_false_iff]
        intro hb
        have := bit_one_eq.1 hb
        have := hs rfl
        omega
    refine ⟨_, ?_, onlyKv_hold s c.die fun kv => seen.foldl holdItem kv⟩
    rw [Answers, hr]
    exact kvEntry_mapped h1 h14 h63 hd hshared
  · intro he hd a hi
    have h1 : KvFirst s c a := ⟨he, hd, rfl, hi⟩
    refine ⟨fun h0 => record (kvRecord_first h1 h0), ?_⟩
    intro hv h14 h63 b hj
    have h2 : KvSecond s c a b := ⟨h1, hv, ⟨h14, h63⟩, rfl, hj⟩
    refine ⟨fun h0 => record (kvRecord_second h2 h0), ?_⟩
    intro hv h5 h52 r hk h0
    exact record (kvRecord_invalid ⟨⟨a, h2⟩, hv, ⟨h5, h52⟩, rfl, hk⟩ h0)
  · obtain ⟨ha, hb, hc⟩ := kvWalk_list (write := write) h hh hi
    exact ⟨fun h0 => out (ha h0), fun h0 hbad => out (hb h0 hbad), fun h0 h8 h52 hd hp => out (hc h0 h8 h52 hd hp)⟩
  · subst hw
    exact kvEntry_shared h1 h14 h63 hd (bit_one_eq.2 hs)

end Sys2Proof.Machine
end

section
/-! PROOF. Every rounding answers an encoding of its format (R71 to R73): its bits lie within the width. -/
namespace Sys2Proof.Machine

open Sys2Proof

/-- A packed value whose magnitude is within the largest finite one has no bits above the width. -/
theorem pack_lt {f : Fmt} (hf : f.Sound) {k : Nat} {v : Int} (h : f.Fits k v) (hm : k * (2 : ℝ) ^ v ≤ Spec.real false f.maxM f.maxE) (neg : Bool) :
    f.pack neg k v < 2 ^ f.width :=
  ((encodes_iff hf _ _).1 (encodes_pack hf h hm neg).1).1

/-- The largest finite value lies within the width. -/
theorem maxBits_lt {f : Fmt} (hf : f.Sound) (neg : Bool) : f.maxBits neg < 2 ^ f.width :=
  pack_lt hf ⟨hf.maxExp, fun h => absurd hf.maxLow (not_le.2 h), hf.maxHigh.le⟩ (real_false f.maxM f.maxE).ge neg

/-- An infinity lies within the width. -/
theorem infBits_lt {f : Fmt} (hf : f.Sound) (hi : f.hasInf = true) (neg : Bool) : f.infBits neg < 2 ^ f.width := by
  have h1 := hf.infinities hi
  have hlt : (2 ^ f.ebits - 1) * 2 ^ f.fbits < 2 ^ (f.ebits + f.fbits) := by
    rw [pow_add]
    exact Nat.mul_lt_mul_of_pos_right (Nat.sub_lt (by positivity) one_pos) (by positivity)
  exact (signed_encoding hlt neg).1

/-- The value 2 to the least normal exponent is within the largest finite one. -/
theorem least_normal_le {f : Fmt} (hf : f.Sound) :
    ((2 ^ f.fbits : Nat) : ℝ) * (2 : ℝ) ^ (f.emin - f.fbits) ≤ Spec.real false f.maxM f.maxE := by
  rw [real_false]
  have h1 : ((2 ^ f.fbits : Nat) : ℝ) ≤ f.maxM := by exact_mod_cast hf.maxLow
  have h2 : (2 : ℝ) ^ (f.emin - f.fbits) ≤ (2 : ℝ) ^ f.maxE := zpow_le_zpow_right₀ one_le_two hf.maxExp
  gcongr

/-- What rounding packs where the number is not too big fits the format. -/
theorem rounded_fits {f : Fmt} (hf : f.Sound) {m : Nat} {e : Int} (hm : 0 < m) (mode : Mode) (neg : Bool)
    (hb : ¬ Spec.real false f.maxM f.maxE < (roundTo mode neg m e false (f.freeUnit m e)).1 * (2 : ℝ) ^ f.freeUnit m e) :
    f.Fits (roundTo mode neg m e false (f.unit m e)).1 (f.unit m e) ∧
      (roundTo mode neg m e false (f.unit m e)).1 * (2 : ℝ) ^ f.unit m e ≤ Spec.real false f.maxM f.maxE := by
  have hs : StandsFor m e false (m * (2 : ℝ) ^ e) := ⟨fun _ => rfl, nofun⟩
  obtain ⟨hk, -⟩ := roundTo_isRounded (mode := mode) (neg := neg) (u := f.unit m e) hs nofun
  obtain ⟨hlo, hhi⟩ := expOf_bounds hs hm
  have hlo' : (2 : ℝ) ^ f.fbits * (2 : ℝ) ^ f.freeUnit m e ≤ m * (2 : ℝ) ^ e := by
    rw [← zpow_natCast, ← zpow_add₀ two_ne_zero, Fmt.freeUnit, add_sub_cancel]
    exact hlo
  have hhi' : m * (2 : ℝ) ^ e < (2 : ℝ) ^ (f.fbits + 1) * (2 : ℝ) ^ f.freeUnit m e := by
    rw [← zpow_natCast, ← zpow_add₀ two_ne_zero, Fmt.freeUnit,
      show ((f.fbits + 1 : Nat) : Int) + (expOf m e - f.fbits) = expOf m e + 1 by push_cast; ring]
    exact hhi
  rcases le_or_gt (f.emin - f.fbits) (f.freeUnit m e) with hu | hu
  · have hunit : f.unit m e = f.freeUnit m e := max_eq_left hu
    rw [hunit] at hk ⊢
    have h1 := hk.le_multiple (j := 2 ^ f.fbits) (by push_cast; exact hlo')
    exact ⟨⟨hu, fun h => absurd h1 (not_le.2 h), hk.ge_multiple (by push_cast; exact hhi'.le)⟩, not_lt.1 hb⟩
  · have hunit : f.unit m e = f.emin - f.fbits := max_eq_right hu.le
    rw [hunit] at hk ⊢
    have h1 : (roundTo mode neg m e false (f.emin - f.fbits)).1 ≤ 2 ^ f.fbits := by
      refine hk.ge_multiple (hhi'.le.trans ?_)
      have h2 : (2 : ℝ) ^ (f.freeUnit m e + 1) ≤ (2 : ℝ) ^ (f.emin - f.fbits) := zpow_le_zpow_right₀ one_le_two (by omega)
      rw [pow_succ, mul_assoc, ← zpow_one_add₀ two_ne_zero, add_comm 1 (f.freeUnit m e)]
      push_cast
      gcongr
    have hP : 2 ^ f.fbits ≤ 2 ^ (f.fbits + 1) := Nat.pow_le_pow_right (by omega) (by omega)
    refine ⟨⟨le_rfl, fun _ => rfl, h1.trans hP⟩, ?_⟩
    have h3 : ((roundTo mode neg m e false (f.emin - f.fbits)).1 : ℝ) ≤ (2 ^ f.fbits : Nat) := by exact_mod_cast h1
    exact (mul_le_mul_of_nonneg_right h3 (by positivity)).trans (least_normal_le hf)

/-- Rounding a non-zero number answers an encoding of the format. -/
theorem roundFin_lt {f : Fmt} (hf : f.Sound) (hn : f.nanBits < 2 ^ f.width) {m : Nat} {e : Int} (hm : 0 < m) (mode : Mode) (sat neg : Bool) :
    (f.roundFin mode sat neg m e false).1 < 2 ^ f.width := by
  have hmax := maxBits_lt hf neg
  by_cases hb : Spec.real false f.maxM f.maxE < (roundTo mode neg m e false (f.freeUnit m e)).1 * (2 : ℝ) ^ f.freeUnit m e
  · have hbig : (cmpExact (roundTo mode neg m e false (f.freeUnit m e)).1 (f.freeUnit m e) f.maxM f.maxE == .gt) = true := by
      rw [beq_iff_eq, (cmpExact_real _ _ _ _).2, ← real_false]
      exact hb
    have hr : f.roundFin mode sat neg m e false = if f.hasInf then
        if sat then (f.maxBits neg, fOF ||| fNX ||| fSAT)
        else (if overflowsToInf mode neg then f.infBits neg else f.maxBits neg, fOF ||| fNX)
      else if f.nan.isSome then
        if sat then (f.maxBits neg, fOF ||| fNX ||| fSAT)
        else (if overflowsToInf mode neg then f.nanBits else f.maxBits neg, fOF ||| fNX)
      else (f.maxBits neg, fOF ||| fNX ||| fSAT) := if_pos hbig
    rw [hr]
    by_cases hi : f.hasInf = true
    · rw [if_pos hi]
      have hinf := infBits_lt hf hi neg
      split
      · exact hmax
      · dsimp only
        split <;> assumption
    · rw [if_neg hi]
      split
      · split
        · exact hmax
        · dsimp only
          split <;> assumption
      · exact hmax
  · have hbig : ¬ (cmpExact (roundTo mode neg m e false (f.freeUnit m e)).1 (f.freeUnit m e) f.maxM f.maxE == .gt) = true := by
      rw [beq_iff_eq, (cmpExact_real _ _ _ _).2, ← real_false]
      exact hb
    have hr : (f.roundFin mode sat neg m e false).1 = f.pack neg (roundTo mode neg m e false (f.unit m e)).1 (f.unit m e) :=
      congrArg Prod.fst (if_neg hbig)
    obtain ⟨hfits, hle⟩ := rounded_fits hf hm mode neg hb
    rw [hr]
    exact pack_lt hf hfits hle neg

/-- Rounding answers an encoding of the format. -/
theorem round_lt {f : Fmt} (hf : f.Sound) (hn : f.nanBits < 2 ^ f.width) (mode : Mode) (sat : Bool) (v : Val) :
    (f.round mode sat v).1 < 2 ^ f.width := by
  cases v with
  | nan => exact hn
  | inf neg =>
    unfold Fmt.round
    dsimp only
    by_cases hi : f.hasInf = true
    · rw [if_pos hi]; exact infBits_lt hf hi neg
    · rw [if_neg hi]
      split
      · exact hn
      · exact maxBits_lt hf neg
  | fin neg m e =>
    unfold Fmt.round
    dsimp only
    by_cases hm : m = 0
    · rw [if_pos hm]
      have hz : f.pack neg 0 0 = (if neg then 2 ^ (f.ebits + f.fbits) else 0) + 0 := if_pos (by positivity)
      dsimp only
      rw [hz]
      exact (signed_encoding (by positivity) neg).1
    · rw [if_neg hm]
      exact roundFin_lt hf hn (Nat.pos_of_ne_zero hm) mode sat neg

theorem nanBits_lt {f : Fmt} (h : f ∈ Spec.formats) : f.nanBits < 2 ^ f.width := by
  unfold Spec.formats at h
  simp only [List.mem_cons, List.not_mem_nil, or_false] at h
  rcases h with rfl | rfl | rfl | rfl | rfl | rfl | rfl | rfl | rfl <;> decide

/-- FP32 has 32 bits. -/
theorem round_fp32_lt (mode : Mode) (sat : Bool) (v : Val) : (fmtFp32.round mode sat v).1 < 2 ^ 32 :=
  round_lt (sound_of_mem (by decide)) (nanBits_lt (by decide)) mode sat v

theorem fAdd_fp32_lt (mode : Mode) (sat : Bool) (a b : Val) : (fAdd fmtFp32 mode sat a b).1 < 2 ^ 32 := round_fp32_lt mode sat _

theorem fFma_fp32_lt (mode : Mode) (sat : Bool) (a b c : Val) : (fFma fmtFp32 mode sat a b c).1 < 2 ^ 32 := round_fp32_lt mode sat _

end Sys2Proof.Machine
end

section
/-! PROOF. A crust item: what performing it leaves of the crusts and cores, and the bytes it writes (R186, R187, R191 to R195). -/
namespace Sys2Proof.Machine

open Sys2Proof

/-! ## Bytes written in parts -/

theorem setBytes_append (s : State) (loc : Nat) (a b : List Byte) : s.setBytes loc (a ++ b) = (s.setBytes loc a).setBytes (loc + a.length) b := by
  induction a generalizing s loc with
  | nil => rfl
  | cons v r ih =>
    rw [List.length_cons, show loc + (r.length + 1) = loc + 1 + r.length by omega]
    exact ih (s.setByte loc v) (loc + 1)

/-- Parts written one after the other. -/
def State.setParts (s : State) (ps : List (Nat × List Byte)) : State := ps.foldl (fun s p => s.setBytes p.1 p.2) s

/-- The parts of a range, written in turn, are the whole range written. -/
theorem setParts_splitLines (fuel loc : Nat) (bs : List Byte) (h : bs.length < fuel) (s : State) :
    s.setParts (splitLines fuel loc bs) = s.setBytes loc bs := by
  induction fuel generalizing loc bs s with
  | zero => omega
  | succ n ih =>
    unfold splitLines
    cases bs with
    | nil => rfl
    | cons v r =>
      have hn : 0 < 64 - loc % 64 := by omega
      generalize 64 - loc % 64 = k at hn
      rw [List.isEmpty_cons, if_neg Bool.false_ne_true]
      refine (ih (loc + k) ((v :: r).drop k) ?_ (s.setBytes loc ((v :: r).take k))).trans ?_
      · rw [List.length_drop, List.length_cons] at *
        omega
      · rcases le_or_gt k (v :: r).length with hk | hk
        · conv_rhs => rw [← List.take_append_drop k (v :: r), setBytes_append, List.length_take, Nat.min_eq_left hk]
        · rw [List.drop_eq_nil_of_le hk.le, List.take_of_length_le hk.le]
          rfl

/-- A part of a range lies in the range. -/
theorem mem_splitLines {fuel loc : Nat} {bs : List Byte} {p : Nat × List Byte} (h : p ∈ splitLines fuel loc bs) :
    loc ≤ p.1 ∧ 0 < p.2.length ∧ p.1 + p.2.length ≤ loc + bs.length := by
  induction fuel generalizing loc bs with
  | zero => cases h
  | succ n ih =>
    unfold splitLines at h
    cases bs with
    | nil => cases h
    | cons v r =>
      have hn : 0 < 64 - loc % 64 := by omega
      generalize 64 - loc % 64 = k at hn h
      rw [List.isEmpty_cons, if_neg Bool.false_ne_true, List.mem_cons] at h
      rcases h with rfl | h
      · refine ⟨le_rfl, ?_, ?_⟩
        · rw [List.length_take, List.length_cons]; omega
        · simp only [List.length_take]; omega
      · obtain ⟨h1, h2, h3⟩ := ih h
        rw [List.length_drop] at h3
        exact ⟨by omega, h2, by omega⟩

theorem mem_setParts_congr {s t : State} (h : s.mem = t.mem) (ps : List (Nat × List Byte)) : (s.setParts ps).mem = (t.setParts ps).mem := by
  induction ps generalizing s t with
  | nil => exact h
  | cons p r ih => exact ih (mem_setBytes_congr h p.1 p.2)

/-! ## What an item leaves -/

theorem core_updCore_field {α : Type} {f : Core → Core} {g : Core → α} (hf : ∀ k, g (f k) = g k) (s : State) (c d : Nat) :
    g ((s.updCore c f).core d) = g (s.core d) := by
  by_cases hd : c = d
  · subst hd
    rcases Nat.lt_or_ge c s.cores.length with hc | hc
    · rw [core_updCore_self s c f hc, hf]
    · unfold State.core State.updCore
      have hid : modifyNth f c s.cores = modifyNth id c s.cores :=
        modifyNth_congr fun a ha => absurd (List.getElem?_eq_some_iff.1 ha).1 (not_lt.2 hc)
      rw [hid, modifyNth_id]
  · rw [core_updCore_ne s c d f hd]

/-- What an item leaves as it was: the queues of the crusts, the deferred failures of the cores, the place of STATUS, and sound lines. -/
structure Quietly (s t : State) : Prop where
  crusts : t.crusts = s.crusts
  sbase : t.sbase = s.sbase
  stage : t.stage = s.stage
  deferred : ∀ c, (t.core c).deferred = (s.core c).deferred
  sound : ∀ l, Sound s l → Sound t l

theorem quietly_frame : Frame Quietly where
  refl _ := ⟨rfl, rfl, rfl, fun _ => rfl, fun _ h => h⟩
  trans h g := ⟨g.crusts.trans h.crusts, g.sbase.trans h.sbase, g.stage.trans h.stage, fun c => (g.deferred c).trans (h.deferred c),
    fun l hl => g.sound l (h.sound l hl)⟩

theorem quietly_writeBack (s : State) (l : Nat) : Quietly s (s.writeBack l) := by
  unfold State.writeBack
  split <;> exact ⟨rfl, rfl, rfl, fun _ => rfl, fun _ h => h⟩

theorem quietly_lockLines (s : State) (ls : List Nat) : Quietly s (s.lockLines ls) :=
  quietly_frame.trans (keeps_foldl quietly_frame (fun s l => quietly_writeBack s l) ls s) ⟨rfl, rfl, rfl, fun _ => rfl, fun _ h => h⟩

theorem mem_lockLines (s : State) (ls : List Nat) : (s.lockLines ls).mem = s.mem := by
  have h : ∀ (ls : List Nat) (s : State), (ls.foldl State.writeBack s).mem = s.mem := by
    intro ls
    induction ls with
    | nil => intro s; rfl
    | cons l r ih =>
      intro s
      refine (ih (s.writeBack l)).trans ?_
      unfold State.writeBack
      split <;> rfl
  exact h ls s

theorem quietly_joinCk (s : State) (c : Nat) (ck : Clock) : Quietly s (s.joinCk c ck) :=
  ⟨rfl, rfl, rfl, core_updCore_field (f := fun k => { k with ck := k.ck.join ck }) (g := Core.deferred) (fun _ => rfl) s c, fun _ h => h⟩

theorem quietly_drainInbox (s : State) (d : Nat) : Quietly s (s.drainInbox d) := ⟨rfl, rfl, rfl, fun _ => rfl, fun _ h => sound_drainInbox h d⟩

theorem quietly_catchUpTo (s : State) (ck : Clock) (d : Nat) : Quietly s (s.catchUpTo ck d) := by
  unfold State.catchUpTo
  split
  · exact quietly_frame.refl s
  · exact quietly_drainInbox s d

theorem deferred_stampAt (s : State) (c : Option Nat) (h line loc : Nat) (bs : List Byte) (d : Nat) :
    ((s.stampAt c h line loc bs).core d).deferred = (s.core d).deferred := by
  cases c with
  | none => rfl
  | some c => exact core_updCore_field (f := fun k => { k with ck := k.ck.join (s.nextStamp h) }) (g := Core.deferred) (fun _ => rfl) _ c d

theorem deferred_performAt {s : State} {loc : Nat} (h : Sound s (loc / 64)) (c : Option Nat) (bs : List Byte) (d : Nat) :
    ((s.performAt c none loc bs).core d).deferred = (s.core d).deferred := by
  have hw := h.writable bs.length
  have hcore : ∀ (u : State) (l : List Byte), (u.placeBytes none loc l).core d = u.core d := fun u l =>
    congrArg (fun q => q.getD d Core.reset) (placeBytes_cores u none loc l)
  unfold State.performAt
  rw [hw, Bool.not_true, if_neg Bool.false_ne_true]
  split
  · have hs : ∀ u : State, (u.sendFabric c loc).core d = u.core d := by
      intro u
      unfold State.sendFabric
      split
      · rfl
      · split <;> rfl
    rw [hs]
    exact congrArg Core.deferred (hcore s bs)
  · rw [deferred_stampAt]
    exact congrArg Core.deferred (hcore _ _)

theorem quietly_performAt {s : State} {loc : Nat} (h : Sound s (loc / 64)) (c : Option Nat) (bs : List Byte) :
    Quietly s (s.performAt c none loc bs) := by
  have hcalm := calm_performAt s c none loc bs
  exact ⟨(congrArg State.crusts hcalm : _), (congrArg State.sbase hcalm : _), (congrArg State.stage hcalm : _),
    deferred_performAt h c bs, fun l hl => sound_performAt hl c loc bs⟩

theorem quietly_performClock {s : State} {loc : Nat} (h : Sound s (loc / 64)) (ck : Clock) (c : Option Nat) (bs : List Byte) :
    Quietly s (s.performClock ck c none loc bs) := by
  unfold State.performClock
  split
  · exact quietly_performAt h c bs
  · exact quietly_frame.trans (quietly_catchUpTo s ck _) (quietly_performAt (sound_catchUpTo h _ _) c bs)

theorem mem_performClock_sound {s : State} {loc : Nat} (h : Sound s (loc / 64)) (ck : Clock) (c : Option Nat) {bs : List Byte}
    (hn : NoStatus s loc bs.length) : (s.performClock ck c none loc bs).mem = (s.setBytes loc bs).mem := by
  unfold State.performClock
  split
  · exact mem_performAt_sound h fun _ => hn
  · next d _ =>
    have hq := quietly_catchUpTo s ck d
    exact (mem_performAt_sound (hq.sound _ h) fun _ => hn.congr hq.sbase hq.stage).trans (mem_setBytes_congr (mem_catchUpTo s ck d) loc bs)

/-- Every part can be written: it starts in a sound line, and no byte of it is one of STATUS. -/
def Writable (s : State) (ps : List (Nat × List Byte)) : Prop := ∀ p ∈ ps, Sound s (p.1 / 64) ∧ NoStatus s p.1 p.2.length

theorem Writable.congr {s t : State} {ps : List (Nat × List Byte)} (h : Writable s ps) (q : Quietly s t) : Writable t ps :=
  fun p hp => ⟨q.sound _ (h p hp).1, (h p hp).2.congr q.sbase q.stage⟩

/-- Parts that can be written are, and nothing else of these changes. -/
theorem performClock_parts (ck : Clock) (c : Option Nat) (ps : List (Nat × List Byte)) {s : State} (h : Writable s ps) :
    Quietly s (ps.foldl (fun s p => s.performClock ck c none p.1 p.2) s) ∧
      (ps.foldl (fun s p => s.performClock ck c none p.1 p.2) s).mem = (s.setParts ps).mem := by
  induction ps generalizing s with
  | nil => exact ⟨quietly_frame.refl s, rfl⟩
  | cons p r ih =>
    obtain ⟨hs, hn⟩ := h p List.mem_cons_self
    have hq := quietly_performClock hs ck c p.2
    have hr : Writable s r := fun q hq => h q (List.mem_cons_of_mem p hq)
    obtain ⟨i1, i2⟩ := ih (hr.congr hq)
    exact ⟨quietly_frame.trans hq i1, i2.trans (mem_setParts_congr (mem_performClock_sound hs ck c hn) r)⟩

theorem quietly_unlockItem (s : State) (o : ItemOp) : Quietly s (s.unlockItem o) :=
  quietly_frame.trans (keeps_foldl quietly_frame (f := State.forgetDirty) (fun _ _ => ⟨rfl, rfl, rfl, fun _ => rfl, fun _ h => h⟩) o.lines.2 s)
    ⟨rfl, rfl, rfl, fun _ => rfl, fun _ h => h⟩

theorem mem_unlockItem (s : State) (o : ItemOp) : (s.unlockItem o).mem = s.mem := by
  have h : ∀ (ls : List Nat) (s : State), (ls.foldl State.forgetDirty s).mem = s.mem := by
    intro ls
    induction ls with
    | nil => intro s; rfl
    | cons l r ih => intro s; exact ih (s.forgetDirty l)
  exact h o.lines.2 s

end Sys2Proof.Machine
end

section
/-! PROOF. CRUST_ITEM (R186, R187, R191 to R195): the oldest item of a core is performed, and writes what its kind gives. -/
namespace Sys2Proof.Machine

open Sys2Proof

/-! ## Lines of a range -/

/-- A line of a range holds one of its bytes. -/
theorem exists_of_mem_linesOf {loc n l : Nat} (h : l ∈ linesOf loc n) : ∃ i, i < n ∧ (loc + i) / 64 = l := by
  unfold linesOf at h
  by_cases hn : n = 0
  · rw [if_pos hn] at h; cases h
  · rw [if_neg hn, List.mem_map] at h
    obtain ⟨j, hj, rfl⟩ := h
    rw [List.mem_range] at hj
    rcases Nat.eq_zero_or_pos j with rfl | hj0
    · exact ⟨0, by omega, by rw [Nat.add_zero, Nat.add_zero]⟩
    · exact ⟨(loc / 64 + j) * 64 - loc, by omega, by omega⟩

/-- An item that can be performed does not fail. -/
theorem itemFails_of_ok {s : State} {o : ItemOp} (h : Spec.ItemOk s o) : s.itemFails o = false := by
  unfold State.itemFails
  rw [Bool.or_eq_false_iff, List.any_eq_false, List.any_eq_false]
  refine ⟨fun q hq => ?_, fun q hq => ?_⟩
  · obtain ⟨-, -, -, -, hp⟩ := h.reads q hq
    rw [Bool.not_eq_true, List.any_eq_false]
    intro l hl
    obtain ⟨i, hi, rfl⟩ := exists_of_mem_linesOf hl
    rw [(hp i hi).1]
    exact Bool.false_ne_true
  · obtain ⟨-, -, -, -, -, hw⟩ := h.writes q hq
    rw [Bool.not_eq_true, List.any_eq_false]
    intro l hl
    obtain ⟨i, hi, rfl⟩ := exists_of_mem_linesOf hl
    rw [(hw i hi).1]
    exact Bool.false_ne_true

/-- The first byte of a range that an item reads or writes lies in a sound line. -/
theorem sound_of_reads {s : State} {o : ItemOp} (h : Spec.ItemOk s o) {q : Nat × Nat} (hq : q ∈ o.ranges.1) : Sound s (q.1 / 64) := by
  obtain ⟨hn, -, -, -, hp⟩ := h.reads q hq
  exact hp 0 hn

/-- The parts of what an item writes can be written. -/
theorem writable_of_ok {s : State} {o : ItemOp} (h : Spec.ItemOk s o) {ws : List (Nat × List Byte)}
    (hws : ∀ w ∈ ws, (w.1, w.2.length) ∈ o.ranges.2) : Writable s (ws.flatMap fun w => splitLines (w.2.length + 1) w.1 w.2) := by
  intro p hp
  rw [List.mem_flatMap] at hp
  obtain ⟨w, hw, hp⟩ := hp
  obtain ⟨h1, h2, h3⟩ := mem_splitLines hp
  obtain ⟨-, -, -, -, hpl, hst⟩ := h.writes _ (hws w hw)
  obtain ⟨i, hi⟩ : ∃ i, p.1 = w.1 + i := ⟨p.1 - w.1, by omega⟩
  rw [hi] at h1 h3 ⊢
  refine ⟨hpl i ?_, fun j hj => ?_⟩
  · show i < w.2.length
    omega
  · have := (hst (i + j) (show i + j < w.2.length by omega)).2
    rwa [← Nat.add_assoc] at this

theorem setParts_flatMap (ws : List (Nat × List Byte)) (s : State) :
    s.setParts (ws.flatMap fun w => splitLines (w.2.length + 1) w.1 w.2) = s.setParts ws := by
  induction ws generalizing s with
  | nil => rfl
  | cons w r ih =>
    have happ : s.setParts ((w :: r).flatMap fun w => splitLines (w.2.length + 1) w.1 w.2) =
        (s.setParts (splitLines (w.2.length + 1) w.1 w.2)).setParts (r.flatMap fun w => splitLines (w.2.length + 1) w.1 w.2) :=
      List.foldl_append ..
    rw [happ, setParts_splitLines _ _ _ (Nat.lt_succ_self _), ih]
    rfl

/-! ## The item -/

/-- What an item writes, from the bytes that memory holds. -/
def State.plainWrites (s : State) (o : ItemOp) : List (Nat × List Byte) :=
  match o with
  | .nadd fp dst vals => [(dst, addWords fp (s.bytesAt dst (4 * vals.length)) vals)]
  | .copyLine src dst => [(dst, s.bytesAt src 64)]
  | .zeroLine dst => [(dst, List.replicate 64 0)]
  | .gatherElem src dst size => [(dst, s.bytesAt src size)]
  | .noptLine w g lr mu =>
    let q := noptLines (s.bytesAt w 64) (s.bytesAt (w + 2 ^ 20) 64) (s.bytesAt g 64) lr mu
    [(w, q.1), (w + 2 ^ 20, q.2)]

/-- In sound lines an item reads the bytes of memory. -/
theorem itemWrites_sound {s : State} {o : ItemOp} (h : ∀ q ∈ o.ranges.1, Sound s (q.1 / 64)) : s.itemWrites o = s.plainWrites o := by
  cases o with
  | nadd fp dst vals =>
    have h1 : s.readAs none dst (4 * vals.length) = _ := (h (dst, _) List.mem_cons_self).readAs _
    exact congrArg (fun l => [(dst, addWords fp l vals)]) h1
  | copyLine src dst =>
    have h1 : s.readAs none src 64 = _ := (h (src, 64) List.mem_cons_self).readAs _
    exact congrArg (fun l => [(dst, l)]) h1
  | zeroLine dst => rfl
  | gatherElem src dst size =>
    have h1 : s.readAs none src size = _ := (h (src, size) List.mem_cons_self).readAs _
    exact congrArg (fun l => [(dst, l)]) h1
  | noptLine w g lr mu =>
    have h1 : s.readAs none w 64 = _ := (h (w, 64) (by simp [ItemOp.ranges])).readAs _
    have h2 : s.readAs none (w + 2 ^ 20) 64 = _ := (h (w + 2 ^ 20, 64) (by simp [ItemOp.ranges])).readAs _
    have h3 : s.readAs none g 64 = _ := (h (g, 64) (by simp [ItemOp.ranges])).readAs _
    unfold State.itemWrites State.plainWrites
    dsimp only
    rw [h1, h2, h3]

theorem plainWrites_congr {s t : State} (h : s.mem = t.mem) (o : ItemOp) : s.plainWrites o = t.plainWrites o := by
  cases o <;> simp only [State.plainWrites, bytesAt_congr h]

/-- Pieces of n bytes, one after the other. -/
theorem length_flatMap_const {α β : Type} {f : α → List β} {n : Nat} (hf : ∀ a, (f a).length = n) (l : List α) :
    (l.flatMap f).length = n * l.length := by
  induction l with
  | nil => rfl
  | cons a r ih => rw [List.flatMap_cons, List.length_append, hf, ih, List.length_cons, Nat.mul_succ, Nat.add_comm]

theorem piece_flatMap {α β : Type} {f : α → List β} {n : Nat} (hf : ∀ a, (f a).length = n) (l : List α) (j : Nat) (hj : j < l.length) :
    ((l.flatMap f).drop (n * j)).take n = f l[j] := by
  induction l generalizing j with
  | nil => cases hj
  | cons a r ih =>
    rw [List.flatMap_cons]
    cases j with
    | zero =>
      rw [Nat.mul_zero, List.drop_zero, List.take_left' (hf a)]
      rfl
    | succ j =>
      rw [Nat.mul_succ, Nat.add_comm, ← List.drop_drop, List.drop_left' (hf a)]
      exact ih j (Nat.lt_of_succ_lt_succ hj)

theorem addWords_length (fp : Bool) (old : List Byte) (vals : List (BitVec 32)) : (addWords fp old vals).length = 4 * vals.length := by
  unfold addWords
  rw [length_flatMap_const (n := 4) fun q => leBytes_length 4 _, List.length_zipIdx]

/-- What an item writes has the size of its ranges. -/
theorem plainWrites_ranges (s : State) (o : ItemOp) : ∀ w ∈ s.plainWrites o, (w.1, w.2.length) ∈ o.ranges.2 := by
  intro w hw
  cases o with
  | nadd fp dst vals =>
    rw [List.mem_singleton.1 hw, addWords_length]
    exact List.mem_cons_self
  | copyLine src dst =>
    rw [List.mem_singleton.1 hw, bytesAt_length]
    exact List.mem_cons_self
  | zeroLine dst =>
    rw [List.mem_singleton.1 hw, List.length_replicate]
    exact List.mem_cons_self
  | gatherElem src dst size =>
    rw [List.mem_singleton.1 hw, bytesAt_length]
    exact List.mem_cons_self
  | noptLine v g lr mu =>
    have hl : ∀ (f : Nat × Nat → Nat) (l : List (Nat × Nat)), (l.flatMap fun q => leBytes 4 (f q)).length = 4 * l.length := fun f l =>
      length_flatMap_const (fun q => leBytes_length 4 (f q)) l
    simp only [State.plainWrites, noptLines, List.mem_cons, List.not_mem_nil, or_false] at hw
    rcases hw with rfl | rfl
    · dsimp only
      rw [hl, List.length_map, List.length_range]
      exact List.mem_cons_self
    · dsimp only
      rw [hl, List.length_map, List.length_range]
      exact List.mem_cons_of_mem _ List.mem_cons_self

/-- An item that can be performed writes its bytes, and changes nothing else of these. -/
theorem performItem_ok {s : State} {i : Item} (h : Spec.ItemOk s i.op) :
    Quietly s (s.performItem i) ∧ (s.performItem i).mem = (s.setParts (s.plainWrites i.op)).mem := by
  let u := i.op.lines.1.foldl (fun s l => s.joinCk i.core (s.stampOf l)) (s.lockLines (i.op.lines.1 ++ i.op.lines.2))
  have hm : ∀ (ls : List Nat) (v : State), (ls.foldl (fun s l => s.joinCk i.core (s.stampOf l)) v).mem = v.mem := by
    intro ls
    induction ls with
    | nil => intro v; rfl
    | cons l r ih => intro v; exact ih (v.joinCk i.core (v.stampOf l))
  have hu : Quietly s u := quietly_frame.trans (quietly_lockLines s _)
    (keeps_foldl quietly_frame (fun s l => quietly_joinCk s i.core (s.stampOf l)) _ _)
  have hmu : u.mem = s.mem := (hm _ _).trans (mem_lockLines s _)
  have hw : u.itemWrites i.op = s.plainWrites i.op :=
    (itemWrites_sound fun q hq => hu.sound _ (sound_of_reads h hq)).trans (plainWrites_congr hmu i.op)
  obtain ⟨p1, p2⟩ := performClock_parts i.clock (some i.core) _ ((writable_of_ok h (plainWrites_ranges s i.op)).congr hu)
  have hdef : s.performItem i = (((u.itemWrites i.op).flatMap fun w => splitLines (w.2.length + 1) w.1 w.2).foldl
      (fun s p => s.performClock i.clock (some i.core) none p.1 p.2) u).unlockItem i.op := by
    unfold State.performItem
    rw [itemFails_of_ok h, if_neg Bool.false_ne_true]
  rw [hdef, hw]
  refine ⟨quietly_frame.trans hu (quietly_frame.trans p1 (quietly_unlockItem _ i.op)), ?_⟩
  rw [mem_unlockItem, p2, setParts_flatMap]
  exact mem_setParts_congr hmu _

/-- An item that fails is counted. -/
theorem performItem_fails {s : State} {i : Item} (h : s.itemFails i.op = true) : s.performItem i = s.deferFail (some i.core) := by
  unfold State.performItem
  rw [if_pos h]

/-! ## The words that an item writes -/

/-- A word among the bytes of a range. -/
theorem num_of_bytesAt {s : State} {loc n j : Nat} {bs : List Byte} (h : s.bytesAt loc n = bs) (hj : 4 * j + 4 ≤ n) :
    s.num (loc + 4 * j) 4 = leNat ((bs.drop (4 * j)).take 4) := by
  rw [← h]
  refine congrArg leNat (List.ext_getElem? fun i => ?_)
  unfold State.bytesAt
  rw [List.getElem?_take, List.getElem?_drop, List.getElem?_map, List.getElem?_map]
  by_cases hi : i < 4
  · rw [if_pos hi, List.getElem?_range hi, List.getElem?_range (by omega)]
    simp only [Option.map_some, Nat.add_assoc]
  · rw [if_neg hi, List.getElem?_eq_none (by rw [List.length_range]; omega)]
    rfl

/-- A word of a row that is added. -/
theorem addWords_word (fp : Bool) (s : State) (dst : Nat) (vals : List (BitVec 32)) (j : Nat) (hj : j < vals.length) :
    leNat (((addWords fp (s.bytesAt dst (4 * vals.length)) vals).drop (4 * j)).take 4) =
      if fp then (fAdd fmtFp32 .rne false (fmtFp32.decode (s.num (dst + 4 * j) 4)) (fmtFp32.decode vals[j].toNat)).1
      else (s.num (dst + 4 * j) 4 + vals[j].toNat) % 2 ^ 32 := by
  have hz : j < vals.zipIdx.length := by rw [List.length_zipIdx]; exact hj
  unfold addWords
  rw [piece_flatMap (n := 4) (fun q => leBytes_length 4 _) vals.zipIdx j hz, List.getElem_zipIdx, leNat_leBytes]
  dsimp only
  rw [Nat.zero_add, ← num_of_bytesAt rfl (show 4 * j + 4 ≤ 4 * vals.length by omega)]
  split
  · exact Nat.mod_eq_of_lt (fAdd_fp32_lt _ _ _ _)
  · exact Nat.mod_mod _ _

/-- A word of the weights and of the momenta. -/
theorem noptLines_word (s : State) (w m g : Nat) (lr mu : BitVec 32) (j : Nat) (hj : j < 16) :
    let q := noptLines (s.bytesAt w 64) (s.bytesAt m 64) (s.bytesAt g 64) lr mu
    let r := noptElem (s.num (w + 4 * j) 4) (s.num (m + 4 * j) 4) (s.num (g + 4 * j) 4) lr mu
    leNat ((q.1.drop (4 * j)).take 4) = r.1 ∧ leNat ((q.2.drop (4 * j)).take 4) = r.2 := by
  have hn : ∀ a, leNat (((s.bytesAt a 64).drop (4 * j)).take 4) = s.num (a + 4 * j) 4 := fun a => (num_of_bytesAt rfl (by omega)).symm
  have hlen : j < ((List.range 16).map fun i => noptElem (leNat (((s.bytesAt w 64).drop (4 * i)).take 4))
      (leNat (((s.bytesAt m 64).drop (4 * i)).take 4)) (leNat (((s.bytesAt g 64).drop (4 * i)).take 4)) lr mu).length := by
    rw [List.length_map, List.length_range]; exact hj
  intro q r
  have h1 : q.1 = List.flatMap (fun v : Nat × Nat => leBytes 4 v.1) _ := rfl
  have h2 : q.2 = List.flatMap (fun v : Nat × Nat => leBytes 4 v.2) _ := rfl
  rw [h1, h2, piece_flatMap (fun q => leBytes_length 4 _) _ j hlen, piece_flatMap (fun q => leBytes_length 4 _) _ j hlen,
    List.getElem_map, List.getElem_range, hn, hn, hn, leNat_leBytes, leNat_leBytes]
  exact ⟨Nat.mod_eq_of_lt (fFma_fp32_lt _ _ _ _ _), Nat.mod_eq_of_lt (fFma_fp32_lt _ _ _ _ _)⟩

/-- What the statement says of the memory that an item leaves. -/
def Spec.ItemLeaves (s t : State) (o : ItemOp) : Prop :=
  match o with
  | .nadd fp dst vals => SameMemoryBut s t dst (4 * vals.length) ∧ ∀ j (_ : j < vals.length),
      t.num (dst + 4 * j) 4 = if fp then (fAdd fmtFp32 .rne false (fmtFp32.decode (s.num (dst + 4 * j) 4)) (fmtFp32.decode vals[j].toNat)).1
        else (s.num (dst + 4 * j) 4 + vals[j].toNat) % 2 ^ 32
  | .copyLine src dst => SameMemoryBut s t dst 64 ∧ t.bytesAt dst 64 = s.bytesAt src 64
  | .zeroLine dst => SameMemoryBut s t dst 64 ∧ ∀ j, j < 64 → t.byte (dst + j) = 0
  | .gatherElem src dst size => SameMemoryBut s t dst size ∧ t.bytesAt dst size = s.bytesAt src size
  | .noptLine w g lr mu => (∀ a, (a < w ∨ w + 64 ≤ a) → (a < w + 2 ^ 20 ∨ w + 2 ^ 20 + 64 ≤ a) → t.byte a = s.byte a) ∧
      ∀ j, j < 16 →
        let r := noptElem (s.num (w + 4 * j) 4) (s.num (w + 2 ^ 20 + 4 * j) 4) (s.num (g + 4 * j) 4) lr mu
        t.num (w + 2 ^ 20 + 4 * j) 4 = r.2 ∧ t.num (w + 4 * j) 4 = r.1

/-- Memory with the bytes of an item written is what its kind says. -/
theorem itemLeaves_of_mem {s t : State} (hwf : Memory.wf s.mem = true) {o : ItemOp} (h : t.mem = (s.setParts (s.plainWrites o)).mem) :
    Spec.ItemLeaves s t o := by
  cases o with
  | nadd fp dst vals =>
    have hw : Wrote s t dst (addWords fp (s.bytesAt dst (4 * vals.length)) vals) := wrote_of_mem h hwf
    have hb := hw.bytes
    have hr := hw.rest
    rw [addWords_length] at hb hr
    exact ⟨hr, fun j hj => (num_of_bytesAt hb (by omega)).trans (addWords_word fp s dst vals j hj)⟩
  | copyLine src dst =>
    have hw : Wrote s t dst (s.bytesAt src 64) := wrote_of_mem h hwf
    have hb := hw.bytes
    have hr := hw.rest
    rw [bytesAt_length] at hb hr
    exact ⟨hr, hb⟩
  | zeroLine dst =>
    have hw : Wrote s t dst (List.replicate 64 0) := wrote_of_mem h hwf
    have hb := hw.bytes
    have hr := hw.rest
    rw [List.length_replicate] at hb hr
    refine ⟨hr, fun j hj => ?_⟩
    have hj' : (t.bytesAt dst 64)[j]? = (List.replicate 64 0)[j]? := congrArg (fun l => l[j]?) hb
    rw [List.getElem?_replicate, if_pos hj] at hj'
    unfold State.bytesAt at hj'
    rw [List.getElem?_map, List.getElem?_range hj] at hj'
    exact Option.some.inj hj'
  | gatherElem src dst size =>
    have hw : Wrote s t dst (s.bytesAt src size) := wrote_of_mem h hwf
    have hb := hw.bytes
    have hr := hw.rest
    rw [bytesAt_length] at hb hr
    exact ⟨hr, hb⟩
  | noptLine w g lr mu =>
    let q := noptLines (s.bytesAt w 64) (s.bytesAt (w + 2 ^ 20) 64) (s.bytesAt g 64) lr mu
    have hl := plainWrites_ranges s (.noptLine w g lr mu)
    have hl1 : q.1.length = 64 := by
      have := hl (w, q.1) List.mem_cons_self
      simpa [ItemOp.ranges] using this
    have hl2 : q.2.length = 64 := by
      have := hl (w + 2 ^ 20, q.2) (List.mem_cons_of_mem _ List.mem_cons_self)
      simpa [ItemOp.ranges] using this
    have h1 : Wrote s (s.setBytes w q.1) w q.1 := wrote_of_mem rfl hwf
    have h2 : Wrote (s.setBytes w q.1) t (w + 2 ^ 20) q.2 := wrote_of_mem h h1.wf
    have b1 := h1.bytes
    have b2 := h2.bytes
    have r1 := h1.rest
    have r2 := h2.rest
    rw [hl1] at b1 r1
    rw [hl2] at b2 r2
    refine ⟨fun a ha hb => (r2 a hb).trans (r1 a ha), fun j hj => ?_⟩
    obtain ⟨w1, w2⟩ := noptLines_word s w (w + 2 ^ 20) g lr mu j hj
    refine ⟨(num_of_bytesAt b2 (by omega)).trans w2, ?_⟩
    refine (h2.num_out (by left; omega)).trans ?_
    exact (num_of_bytesAt b1 (by omega)).trans w1

end Sys2Proof.Machine
end

section
/-! PROOF. CRUST_ITEM takes the oldest item of one of the cores that have sent items (R187). -/
namespace Sys2Proof.Machine

open Sys2Proof

/-- The first item of a core, and the queue without it. -/
theorem dropFirst_split {q : List Item} {c : Nat} (h : c ∈ q.map Item.core) :
    ∃ older i rest, q = older ++ i :: rest ∧ i.core = c ∧ (∀ j ∈ older, j.core ≠ i.core) ∧
      (q.find? fun i => i.core == c) = some i ∧ dropFirst c q = older ++ rest := by
  induction q with
  | nil => cases h
  | cons a r ih =>
    by_cases ha : a.core = c
    · refine ⟨[], a, r, rfl, ha, fun j hj => absurd hj List.not_mem_nil, ?_, ?_⟩
      · rw [List.find?_cons_of_pos (by simpa using ha)]
      · unfold dropFirst; rw [if_pos ha]; rfl
    · have hr : c ∈ r.map Item.core := by
        rw [List.map_cons, List.mem_cons] at h
        exact h.resolve_left fun e => ha e.symm
      obtain ⟨older, i, rest, rfl, hi, hold, hfind, hdrop⟩ := ih hr
      refine ⟨a :: older, i, rest, rfl, hi, fun j hj => ?_, ?_, ?_⟩
      · rcases List.mem_cons.1 hj with rfl | hj
        · rw [hi]; exact ha
        · exact hold j hj
      · rw [List.find?_cons_of_neg (by simpa using ha)]
        exact hfind
      · rw [dropFirst, if_neg ha, hdrop]
        rfl

/-- A queue with an item: the core whose item is taken has one, whichever value the choice draws. -/
theorem crustStep_core {s : State} {k : Nat} (h : (s.crust k).queue ≠ []) :
    ∃ c n, c ∈ (s.crust k).queue.map Item.core ∧ s.crustStep k = { s with freeCtr := n }.crustStepOf k c := by
  have hmem : ∀ c, c ∈ itemCores (s.crust k).queue → c ∈ (s.crust k).queue.map Item.core := fun c hc => List.mem_dedup.1 hc
  unfold State.crustStep
  match hq : itemCores (s.crust k).queue with
  | [] =>
    have : (s.crust k).queue.map Item.core = [] := by
      refine List.eq_nil_iff_forall_not_mem.2 fun c hc => ?_
      have := List.mem_dedup.2 hc
      rw [show ((s.crust k).queue.map Item.core).dedup = [] from hq] at this
      cases this
    exact absurd (List.map_eq_nil_iff.1 this) h
  | [c] => exact ⟨c, s.freeCtr, hmem c (by rw [hq]; exact List.mem_cons_self), rfl⟩
  | c :: d :: r =>
    refine ⟨_, s.freeCtr + 1, hmem _ ?_, rfl⟩
    rw [hq]
    have hlt : Config.freeChoice s.freeCtr % (c :: d :: r).length < (c :: d :: r).length := Nat.mod_lt _ (Nat.succ_pos _)
    rw [List.getD_eq_getElem _ _ hlt]
    exact List.getElem_mem hlt

/-- The state in which an item that has left its queue is performed. -/
def State.tookItem (s : State) (k core n : Nat) : State :=
  { s with freeCtr := n }.updCrust k fun c => { c with queue := dropFirst core c.queue }

/-- The oldest item of a core is performed; the inbox of the die may be applied then. -/
theorem crustStepOf_eq {s : State} {k c n : Nat} {i : Item} (h : ((s.crust k).queue.find? fun i => i.core == c) = some i) :
    ∃ d, { s with freeCtr := n }.crustStepOf k c = (s.tookItem k c n).performItem i ∨
      { s with freeCtr := n }.crustStepOf k c = ((s.tookItem k c n).performItem i).drainInbox d := by
  unfold State.crustStepOf
  rw [show (({ s with freeCtr := n } : State).crust k).queue.find? (fun i => i.core == c) = some i from h]
  refine ⟨dieOf c, ?_⟩
  dsimp only
  split
  · exact Or.inr rfl
  · exact Or.inl rfl

/-- An item that can be performed can be once it has left its queue. -/
theorem itemOk_tookItem {s : State} {o : ItemOp} (h : Spec.ItemOk s o) (k c n : Nat) : Spec.ItemOk (s.tookItem k c n) o :=
  ⟨h.reads, h.writes, by revert h; cases o <;> exact fun h => h.align⟩

/-! ## An item leaves the queues of the crusts -/

theorem crusts_frame : Frame fun s t : State => t.crusts = s.crusts where
  refl _ := rfl
  trans h g := g.trans h

theorem crusts_performClock (s : State) (ck : Clock) (c key : Option Nat) (loc : Nat) (bs : List Byte) :
    (s.performClock ck c key loc bs).crusts = s.crusts := by
  have hp : ∀ u : State, (u.performAt c key loc bs).crusts = u.crusts := fun u =>
    (congrArg State.crusts (calm_performAt u c key loc bs) : (u.performAt c key loc bs).calm.crusts = u.calm.crusts)
  unfold State.performClock
  split
  · exact hp s
  · exact (hp _).trans (quietly_catchUpTo s ck _).crusts

theorem performItem_crusts (s : State) (i : Item) : (s.performItem i).crusts = s.crusts := by
  unfold State.performItem
  split
  · rfl
  · refine (quietly_unlockItem _ i.op).crusts.trans ?_
    refine (keeps_foldl crusts_frame (fun s (p : Nat × List Byte) => crusts_performClock s i.clock (some i.core) none p.1 p.2) _ _).trans ?_
    refine (keeps_foldl crusts_frame (fun s l => (quietly_joinCk s i.core (s.stampOf l)).crusts) _ _).trans ?_
    exact (quietly_lockLines s _).crusts

/-- CRUST_ITEM does what the statement says. -/
theorem crustItems : Spec.CrustItems := by
  intro s k hk hdies hwf
  have hexec : exec (.crustItem k) s = .next (s.crustStep k) := rfl
  refine ⟨fun hq => ?_, fun hq => ?_⟩
  · rw [hexec]
    unfold State.crustStep
    rw [hq]
    rfl
  · obtain ⟨c, n, hc, hstep⟩ := crustStep_core hq
    obtain ⟨older, i, rest, hsplit, hi, hold, hfind, hdrop⟩ := dropFirst_split hc
    obtain ⟨d, hdone⟩ := crustStepOf_eq (n := n) hfind
    have hqueue : ∀ t : State, t.crusts = (s.tookItem k c n).crusts → (t.crust k).queue = older ++ rest := by
      intro t ht
      have h1 : t.crust k = (s.tookItem k c n).crust k := congrArg (fun l => l.getD k Crust.reset) ht
      rw [h1, ← hdrop]
      exact congrArg Crust.queue (crust_updCrust_self { s with freeCtr := n } k _ hk)
    -- whatever the state after the item is, applying an inbox changes none of what the statement speaks of
    have hend : ∃ t, exec (.crustItem k) s = .next t ∧ t.mem = ((s.tookItem k c n).performItem i).mem ∧
        t.crusts = ((s.tookItem k c n).performItem i).crusts ∧
        ∀ e, (t.core e).deferred = (((s.tookItem k c n).performItem i).core e).deferred := by
      rw [hexec, hstep]
      rcases hdone with hd | hd <;> rw [hd]
      · exact ⟨_, rfl, rfl, rfl, fun _ => rfl⟩
      · exact ⟨_, rfl, rfl, rfl, fun _ => rfl⟩
    obtain ⟨t, ht, hmem, hcr, hdef⟩ := hend
    have hcrusts := performItem_crusts (s.tookItem k c n) i
    refine ⟨older, i, rest, t, hsplit, hold, ht, hqueue t (hcr.trans hcrusts), fun hf => ?_, fun ho => ?_⟩
    · have hf' : (s.tookItem k c n).itemFails i.op = true := hf
      have hp := performItem_fails hf'
      rw [hp] at hmem hdef
      refine ⟨fun a => byte_congr (t := s) (hmem.trans (mem_deferFail _ _)) a, fun hlt => ?_⟩
      rw [hdef i.core]
      exact congrArg Core.deferred (core_updCore_self (s.tookItem k c n) i.core _ hlt)
    · obtain ⟨hquiet, hleft⟩ := performItem_ok (itemOk_tookItem ho k c n)
      refine ⟨fun e => (hdef e).trans (hquiet.deferred e), ?_⟩
      have hl : Spec.ItemLeaves s t i.op :=
        itemLeaves_of_mem hwf (hmem.trans (hleft.trans (mem_setParts_congr (s := s.tookItem k c n) (t := s) rfl _)))
      revert hl
      cases i.op <;> exact id

end Sys2Proof.Machine
end

section
/-! PROOF. The operand checks of a crust command on one operand that one page covers (R188). -/
namespace Sys2Proof.Machine

open Sys2Proof

/-- A page that reaches the end of an operand is the only one that it touches. -/
theorem crustPages_one {x : Ctx} {acc : Acc} {va n fuel : Nat} {p : Page} {s t : State} (hn : 0 < n) (h : Answers (place x acc va) s (.page p) t)
    (he : va + n ≤ p.va + p.size) : Answers (crustPages x acc (fuel + 2) va (va + n)) s [(va, .page p)] t := by
  unfold crustPages
  rw [if_neg (show ¬ va + n ≤ va by omega)]
  refine answers_bind h ?_
  unfold crustPages
  rw [show (Place.page p).next va = p.va + p.size from rfl, if_pos he]
  rfl

/-- What the checks of one operand on one page raise, in their order. -/
def verifyOne (t : State) (o : CrustOp) (p : Page) : Option Trap :=
  if o.va % o.align ≠ 0 then some (misaligned o.va o.target)
  else if pteCc p.leaf.toNat = false then some (nmTrap o o.va 1)
  else if pteSeal p.leaf.toNat = true then some (faultOf 24 o.va (if o.target then 0 else 16))
  else if o.target = true then (t.barrierIn (p.phys o.va) o.n).map fun b => faultOf 22 (o.va + b.1) b.2
  else none

theorem crustVerify_one {t : State} {o : CrustOp} {p : Page} (he : o.va + o.n ≤ p.va + p.size) :
    runM (crustVerify [(o, [(o.va, .page p)])] none (fun _ => none) []) t =
      match verifyOne t o p with
      | some r => (.error (.trap r), t)
      | none => (.ok [p.phys o.va], t) := by
  unfold crustVerify verifyOne
  rw [run_bind, run_get]
  dsimp only
  by_cases ha : o.va % o.align ≠ 0
  · simp [raiseFirst, firstFail, ha, run_raise]
  · by_cases hc : pteCc p.leaf.toNat = false
    · simp [raiseFirst, firstFail, ha, hc, notCc, run_raise]
    · have hc' : pteCc p.leaf.toNat = true := by simpa using hc
      by_cases hs : pteSeal p.leaf.toNat = true
      · simp [raiseFirst, firstFail, ha, hc', hs, notCc, firstPage, run_raise, Nat.not_lt.2 he]
      · by_cases ht : o.target = true
        · cases hb : t.barrierIn (p.phys o.va) o.n <;>
            simp [raiseFirst, firstFail, ha, hc', hs, ht, hb, notCc, firstPage, run_raise, Nat.not_lt.2 he]
        · simp [raiseFirst, firstFail, ha, hc', hs, ht, notCc, firstPage, Nat.not_lt.2 he]

/-- The checks of a command with one operand. -/
theorem run_crustChecks_one {s t : State} {x : Ctx} {o : CrustOp} {p : Page} (hn : 0 < o.n)
    (h : Answers (place x o.acc o.va) s (.page p) t) (he : o.va + o.n ≤ p.va + p.size) :
    runM (crustChecks x [o] (fun _ => none) []) s =
      match verifyOne t o p with
      | some r => (.error (.trap r), t)
      | none => (.ok [p.phys o.va], t) := by
  unfold crustChecks
  have hp : Answers ([o].mapM fun o => do
      let q ← crustPages x o.acc (o.n / 4096 + 2) o.va (o.va + o.n)
      return (o, q)) s [(o, [(o.va, .page p)])] t := by
    rw [List.mapM_cons, List.mapM_nil]
    exact answers_bind (answers_bind (crustPages_one hn h he) rfl) rfl
  rw [run_bind_of hp]
  exact crustVerify_one he

theorem barrierIn_none {t : State} {loc n : Nat} (h : ∀ i, i < n → t.barrierAt ((loc + i) / 64) = none) : t.barrierIn loc n = none := by
  unfold State.barrierIn
  rw [List.findSome?_eq_none_iff]
  intro l hl
  obtain ⟨i, hi, rfl⟩ := exists_of_mem_linesOf hl
  rw [h i hi]
  rfl

theorem barrierIn_first {t : State} {loc n : Nat} {b : Barrier} (hn : 0 < n) (hl : loc % 64 = 0) (h : t.barrierAt (loc / 64) = some b) :
    t.barrierIn loc n = some (0, b.index) := by
  have hlines : linesOf loc n = loc / 64 :: (List.range ((loc + n - 1) / 64 - loc / 64)).map fun i => loc / 64 + (i + 1) := by
    unfold linesOf
    rw [if_neg hn.ne', List.range_succ_eq_map, List.map_cons, List.map_map]
    rfl
  unfold State.barrierIn
  rw [hlines, List.findSome?_cons, h]
  have hz : loc / 64 * 64 - loc = 0 := by omega
  simp only [Option.map_some, hz]

/-- The operand checks do what the statement says. -/
theorem crustOperands : Spec.CrustChecks := by
  intro s t x o p hn _ h _ he side ends
  have hrun := run_crustChecks_one hn h he
  have hcc : pteCc p.leaf.toNat = p.leaf.getLsbD 6 := rfl
  have hseal : pteSeal p.leaf.toNat = p.leaf.getLsbD 8 := rfl
  refine ⟨fun ha => ?_, fun ha hc => ?_, fun ha hc hs => ?_, fun ha hc hs => ⟨fun hb => ?_, fun b ht hl hb => ?_⟩⟩
  · rw [verifyOne, if_pos ha] at hrun
    exact hrun
  · rw [verifyOne, if_neg (not_not.2 ha), if_pos (hcc.trans hc)] at hrun
    exact hrun
  · rw [verifyOne, if_neg (not_not.2 ha), if_neg (by rw [hcc, hc]; exact Bool.noConfusion), if_pos (hseal.trans hs)] at hrun
    exact hrun
  · rw [verifyOne, if_neg (not_not.2 ha), if_neg (by rw [hcc, hc]; exact Bool.noConfusion), if_neg (by rw [hseal, hs]; exact Bool.noConfusion)] at hrun
    by_cases ht : o.target = true
    · rw [if_pos ht, barrierIn_none (hb.resolve_left (by rw [ht]; exact Bool.noConfusion))] at hrun
      exact hrun
    · rw [if_neg ht] at hrun
      exact hrun
  · rw [verifyOne, if_neg (not_not.2 ha), if_neg (by rw [hcc, hc]; exact Bool.noConfusion), if_neg (by rw [hseal, hs]; exact Bool.noConfusion),
      if_pos ht, barrierIn_first hn hl hb] at hrun
    exact hrun

/-- Settles O49. -/
theorem crustItemsAndChecks : Obligations.CrustItemsAndChecks := ⟨crustItems, crustOperands⟩

end Sys2Proof.Machine
end
